-- ==== Sys2Proof/Word.lean ====
section
/-!
DEFINITION. Word.lean: the words the manual counts in, byte strings, keyed maps and byte memories.
Registers are 32 bits and little-endian (R5); structures are little-endian and frames keep network order (R7).
-/

set_option Elab.async false
namespace Sys2Proof

/-- One octet. -/
abbrev Byte := BitVec 8
/-- A 32-bit register or counter (R5); additions wrap. -/
abbrev W32 := BitVec 32
/-- A 64-bit quantity, such as a LO/HI pair (R5). -/
abbrev W64 := BitVec 64
/-- A string of octets: a frame, a descriptor, a parameter buffer. -/
abbrev Bytes := List Byte

/-- The `n` octets of `v`, least significant first (R7). -/
def leBytes : Nat → Nat → Bytes
  | 0, _ => []
  | n + 1, v => BitVec.ofNat 8 v :: leBytes n (v / 256)

/-- The number that octets spell, least significant first (R7). -/
def leNat : Bytes → Nat
  | [] => 0
  | b :: bs => b.toNat + 256 * leNat bs

/-- The `n` octets of `v` in network order. -/
def beBytes (n v : Nat) : Bytes := (leBytes n v).reverse

/-- The number that octets spell in network order. -/
def beNat (bs : Bytes) : Nat := bs.foldl (fun a b => a * 256 + b.toNat) 0

/-- `n` octets of a string from `off`; octets past its end are zero. -/
def slice (bs : Bytes) (off n : Nat) : Bytes :=
  let t := (bs.drop off).take n
  t ++ List.replicate (n - t.length) 0

/-- The little-endian number in `n` octets from `off`. -/
def leAt (bs : Bytes) (off n : Nat) : Nat := leNat (slice bs off n)

/-- The network-order number in `n` octets from `off`. -/
def beAt (bs : Bytes) (off n : Nat) : Nat := beNat (slice bs off n)

/-- One octet as a number. -/
def byteAt (bs : Bytes) (off : Nat) : Nat := (bs.getD off 0).toNat

/-- A string with `src` laid over it from `off`; its length is kept. -/
def overlay (bs : Bytes) (off : Nat) (src : Bytes) : Bytes :=
  (bs.take off ++ src.take (bs.length - off) ++ bs.drop (off + src.length))

/-- `n` zero octets. -/
def zeros (n : Nat) : Bytes := List.replicate n 0

/-- Bits `[hi:lo]` of a number (R4). -/
def bits (w hi lo : Nat) : Nat := (w >>> lo) % 2 ^ (hi + 1 - lo)

/-- Bit `k` of a number (R4). -/
def bit (w k : Nat) : Bool := w.testBit k

/-- A flag as the number 0 or 1. -/
def b2n (b : Bool) : Nat := if b then 1 else 0

/-- The word with bit `k` set for every `k` below `n` where `f k` holds. -/
def maskOf (n : Nat) (f : Nat → Bool) : Nat :=
  (List.range n).foldl (fun a k => if f k then a + 2 ^ k else a) 0

/-- The least multiple-free quotient: `a / b` rounded up. -/
def ceilDiv (a b : Nat) : Nat := (a + b - 1) / b

/-- `v` clamped into `lo` to `hi` (R9). -/
def clampNat (lo hi v : Nat) : Nat := if v < lo then lo else if hi < v then hi else v

/-! ### Keyed maps -/

/-- A sparse table: pairs of a key and an entry, keys strictly rising. -/
abbrev KMap (α : Type) := List (Nat × α)

/-- The entry at `k`, if the table lists one. -/
def KMap.find {α : Type} : KMap α → Nat → Option α
  | [], _ => none
  | (j, v) :: m, k => if j = k then some v else KMap.find m k

/-- The entry at `k`, or `d` where the table lists none. -/
def KMap.getD {α : Type} (m : KMap α) (k : Nat) (d : α) : α := (KMap.find m k).getD d

/-- Whether the table lists `k`. -/
def KMap.has {α : Type} (m : KMap α) (k : Nat) : Bool := (KMap.find m k).isSome

/-- The table with `v` at `k`. -/
def KMap.put {α : Type} : KMap α → Nat → α → KMap α
  | [], k, v => [(k, v)]
  | (j, w) :: m, k, v =>
    if k < j then (k, v) :: (j, w) :: m
    else if j = k then (k, v) :: m
    else (j, w) :: KMap.put m k v

/-- The table without `k`. -/
def KMap.drop1 {α : Type} : KMap α → Nat → KMap α
  | [], _ => []
  | (j, w) :: m, k => if j = k then m else (j, w) :: KMap.drop1 m k

/-- The table with the entry at `k` changed by `f`; unchanged where it lists none. -/
def KMap.upd {α : Type} (m : KMap α) (k : Nat) (f : α → α) : KMap α :=
  m.map (fun p => if p.1 = k then (p.1, f p.2) else p)

/-- The table with `f` of the entry at `k` (of `d` where it lists none) at `k`. -/
def KMap.updD {α : Type} (m : KMap α) (k : Nat) (d : α) (f : α → α) : KMap α :=
  KMap.put m k (f (KMap.getD m k d))

/-- Every entry changed by `f`. -/
def KMap.mapVals {α : Type} (m : KMap α) (f : Nat → α → α) : KMap α := m.map (fun p => (p.1, f p.1 p.2))

/-- The entries that satisfy `p`. -/
def KMap.keep {α : Type} (m : KMap α) (p : Nat → α → Bool) : KMap α := m.filter (fun e => p e.1 e.2)

/-- The lowest key from `lo` up to `lo + n - 1` that the table does not list. -/
def KMap.firstFree {α : Type} (m : KMap α) (lo n : Nat) : Option Nat :=
  ((List.range n).map (· + lo)).find? (fun k => !KMap.has m k)

/-- Keys strictly rise: the canonical form of a table. -/
def KMap.sorted {α : Type} : KMap α → Bool
  | [] => true
  | [_] => true
  | (j, _) :: (k, w) :: m => decide (j < k) && KMap.sorted ((k, w) :: m)

/-! ### Byte memories -/

/-- A byte memory: addresses strictly rising, no entry equal to 0, which is what an unlisted address reads as. -/
abbrev Mem := List (Nat × Byte)

/-- The octet at `a`; an unlisted address reads 0 (DESIGN CHOICE, log entry 3; unsafe). -/
def Mem.read (m : Mem) (a : Nat) : Byte := KMap.getD m a 0

/-- One octet written; writing 0 removes the entry. -/
def Mem.write (m : Mem) (a : Nat) (b : Byte) : Mem :=
  if b = 0 then KMap.drop1 m a else KMap.put m a b

/-- `n` octets from `a`. -/
def Mem.readN (m : Mem) (a n : Nat) : Bytes := (List.range n).map (fun i => Mem.read m (a + i))

/-- A string written from `a` upwards. -/
def Mem.writeN : Mem → Nat → Bytes → Mem
  | m, _, [] => m
  | m, a, b :: bs => Mem.writeN (Mem.write m a b) (a + 1) bs

/-- The canonical form: addresses strictly rising, no entry 0. -/
def Mem.wf (m : Mem) : Bool := KMap.sorted m && m.all (fun p => p.2 != 0)

/-! ### Counters and small arrays -/

/-- A bank of wrapping 32-bit counters. -/
abbrev Cnts := List W32

/-- `n` counters at 0. -/
def Cnts.zero (n : Nat) : Cnts := List.replicate n 0

/-- Counter `k` raised by `n`; a bank has no other counters. -/
def Cnts.add (c : Cnts) (k n : Nat) : Cnts := c.modify k (fun v => v + BitVec.ofNat 32 n)

/-- Counter `k` raised by one. -/
def Cnts.inc (c : Cnts) (k : Nat) : Cnts := Cnts.add c k 1

/-- Counter `k`. -/
def Cnts.get (c : Cnts) (k : Nat) : Nat := (c.getD k 0).toNat

/-- Set union on lists without repeats. -/
def addNew {α : Type} [DecidableEq α] (l : List α) (a : α) : List α := if a ∈ l then l else l ++ [a]

end Sys2Proof
end

