-- ==== Sys2Proof/Config.lean ====
section
/-!
DEFINITION. Config.lean: what one adapter's fuses and ROM fix, and the values the manual leaves open.
Every constant here has no body: a statement about it holds for every value it may have.
-/

set_option Elab.async false
namespace Sys2Proof

/-- Grade fuse (R1, R290): false is MTA740-SB, true is MTA740-SC. -/
opaque Config.gradeC : Bool

/-- Device serial number, fixed per part (R290, R296, R477). -/
opaque Config.serial : W64

/-- Binnacle ROM version, [31:16] major and [15:0] minor (R296). -/
opaque Config.romVersion : W32

/-- Fused hash of Meltoam's signing key, 48 octets as a number (R433). -/
opaque Config.meltoamKeyHash : BitVec 384

/-- Fused hash of the customer's co-signing key, if one is fused (R433). -/
opaque Config.customerKeyHash : Option (BitVec 384)

/-- The digest held in the last 48 bytes of the ROM (R431, R435). -/
opaque Config.romDigest : BitVec 384

/-- Source address of PTP messages on ports A (0) and B (1), which the manual does not give (log entry 21). -/
opaque Config.portMac : Nat → BitVec 48

/-- Frames the almanac engine's input queue holds, which the manual does not give (R101). -/
opaque Config.almQueueDepth : Nat

/-- Period of the always-on oscillator as calibrated against the time PLL, in ps (R84). -/
opaque Config.aoPeriodPs : Nat

/-- How long after its last Sync a SLAVE port counts as receiving Sync, in clocks of 0.8 ns, which the manual does not give (R77). -/
opaque Config.syncLimit : Nat

/-- What a register of the link capabilities of function 0, and the negotiated half of Link Status, reads as, by its offset in
configuration space: the manual names the capabilities and gives no body (R291). -/
opaque Config.linkWord : Nat → W32

/-- Word `k` of the `n`-th TLP header that a function's AER header log (0 to 3) and TLP Prefix Log (4 to 7) recorded: the commands
carry no header (R314). -/
opaque Config.tlpHeader : Nat → Nat → Nat → W32

/-- The `n`-th free value: a value the manual leaves undefined or does not state (log entry 2).
The state's counter `free` says which one comes next. -/
opaque Config.freeWord : Nat → W64

end Sys2Proof
end

