-- ==== Sys2Proof/Syntax.lean ====
section
/-!
DEFINITION. Syntax.lean: the commands of the block, one constructor per row of the opcode table, and their operands.
A command is what reaches the adapter from outside, or an event of its own clocks, engines and firmware.
Data that the adapter reads from host memory comes with the command that uses it (log entry 4).
-/

set_option Elab.async false
namespace Sys2Proof

/-- The four Ethernet ports (chapter 02). -/
inductive Port where
  | a | b | c | d
  deriving DecidableEq, Repr

/-- Port number, 0 to 3 for A to D. -/
def Port.num : Port → Nat
  | .a => 0
  | .b => 1
  | .c => 2
  | .d => 3

/-- Port of a number; numbers above 3 give D. -/
def Port.ofNum (n : Nat) : Port :=
  if n = 0 then .a else if n = 1 then .b else if n = 2 then .c else .d

/-- The two physical functions (R290). -/
inductive Fn where
  | pf0 | pf1
  deriving DecidableEq, Repr

/-- Number of a function, as a log's function bit. -/
def Fn.num : Fn → Nat
  | .pf0 => 0
  | .pf1 => 1

/-- The two supply rails (R426). -/
inductive Rail where
  | vin12 | vaux33
  deriving DecidableEq, Repr

/-- What a read the adapter made of host memory brought back (R302, R303). -/
inductive HostRead where
  /-- Every completion arrived, with these octets. -/
  | data (b : Bytes)
  /-- An error completion, a poisoned completion or a malformed one (R303), with its completer ID. -/
  | errorCpl (poisoned : Bool) (completer : Nat)
  /-- No last completion within the completion timeout (R302). -/
  | timeout
  deriving DecidableEq, Repr

/-- Completion status of a request completed by the adapter, or received by it. -/
inductive CplStatus where
  | sc | ur | ca | crs | poisoned | malformed
  deriving DecidableEq, Repr

/-- A peer's request to BAR 4: a read of `len` octets, or a write of `wr`. -/
structure PeerReq where
  rid  : Nat
  addr : Nat
  len  : Nat
  wr   : Option Bytes
  poisoned : Bool
  deriving DecidableEq, Repr


/-- What the MAC says of a received frame beside its octets. -/
structure RxInfo where
  /-- The FCS is bad; the line code had an error. -/
  badFcs  : Bool
  codeErr : Bool
  /-- 0 an express frame or a frame without preemption, 1 reassembled from fragments, 2 a reassembly that failed, 3 a fragment with an
  unknown SMD (Table 2-4). -/
  pmac    : Nat
  /-- A verify (false) or respond (true) frame of IEEE 802.3br, which carries no octets of a frame (R51). -/
  verify  : Option Bool
  /-- RS-FEC codewords corrected and uncorrectable as the frame came in (Table 2-4). -/
  fecCorr : Nat := 0
  fecUncorr : Nat := 0
  deriving DecidableEq, Repr
/-- An IRIG-B frame as its fields decode (R75): code B000 to B007, time of day, day of the year, year of the century where
the code carries one, control-function bits. -/
structure IrigFrame where
  code : Nat
  sec  : Nat
  min  : Nat
  hour : Nat
  day  : Nat
  year : Nat
  cf   : BitVec 27
  deriving DecidableEq, Repr

/-- The operand fields of a Helm thread instruction (R382). -/
structure HelmOp where
  rd  : BitVec 5
  rs  : BitVec 5
  rt  : BitVec 5
  imm : BitVec 6
  deriving DecidableEq, Repr

/-- What is loaded into the key register of a raw lane (R234): the key of a label, or for Binnacle a key of its own. -/
inductive RawLoad where
  | label (l : Bytes)
  | own (key : Bytes)
  deriving DecidableEq, Repr

/-- Where an ordinary load or store of a Helm thread goes: an SRAM of its core or the shared one, by offset; a word of a core's
rose; a register of lane 40 + n: 0 to 3 the block, 4 its status, 5 RAW_LOCK; or an address outside the on-die space. -/
inductive HelmTarget where
  | instrSram (off : Nat)
  | dataSram (off : Nat)
  | sharedSram (off : Nat)
  | rose (core word : Nat)
  | rawLane (n reg : Nat)
  | outside (addr : W32)
  deriving DecidableEq, Repr

/-- An instruction of a Helm thread that is not of Table 16-2 (R389); the manual gives no encoding of these. -/
inductive HelmOther where
  /-- A load of `size` octets into a register; `bad` when the word read holds an uncorrectable error. -/
  | load (rd : BitVec 5) (target : HelmTarget) (size : Nat) (bad : Bool)
  | store (target : HelmTarget) (size : Nat) (value : W32)
  /-- Any other instruction: the register it writes, its value, and the address it goes on at, or the next one. -/
  | compute (rd : BitVec 5) (value : W32) (tgt : Option W32)
  | illegal
  deriving DecidableEq, Repr

/-- What the host reads of a mover's side brought back: the octets, and how the read failed that followed them. -/
structure MoverRead where
  got  : Bytes
  fail : Option HostRead
  deriving DecidableEq, Repr
/-- The ring a command entry stands on (Table 14-1). -/
inductive CmdRing where
  /-- Manager ring 0 to 3. -/
  | mgr (m : Nat)
  /-- Ring q0 of an instance. -/
  | inst (i : Nat)
  /-- The secure ring of PF 1. -/
  | sec
  deriving DecidableEq, Repr

/-- The command entry and the parameter buffer as Binnacle itself reads them for a request of R363. -/
structure BinRead where
  entry : HostRead
  buf   : HostRead
  deriving DecidableEq, Repr

/-- A Dechan command entry as the adapter reads it (Table 14-2), less its OPCODE, which the row gives;
`buf` is what the read of its parameter buffer brought back, and `ask` what Binnacle's own reading did where PWR_VOTE and
WAYPOINT_SAVE ask it (R415, R373). -/
structure Cmd where
  ring     : CmdRing
  seq      : BitVec 16
  inst     : Nat
  paramLen : Nat
  handle   : Nat
  flags    : Byte
  addr     : Nat
  /-- Bytes 24 to 59. -/
  data     : Bytes
  own      : W32
  buf      : HostRead
  ask      : BinRead := { entry := .data [], buf := .data [] }
  deriving DecidableEq, Repr

/-- Where in a function's BARs an access lies (R294). -/
structure BarOff where
  bar : Nat
  off : Nat
  deriving DecidableEq, Repr

/-- How an SMBus read is made: Read Word or Read Byte, with or without a Packet Error Code (R474). -/
structure SmbusForm where
  word : Bool
  pec  : Bool
  deriving DecidableEq, Repr

/-- The byte enables of a write's first DW, and the DWs that follow it in the request with theirs (R294). -/
structure WriteDws where
  be   : Nat
  more : List (W32 × Nat)
  deriving DecidableEq, Repr

/-- The offset a read begins at, and whether it reads two DWs (R294). -/
structure ReadDws where
  off : Nat
  two : Bool
  deriving DecidableEq, Repr

/-- The commands, one per row of the opcode table. -/
inductive Instr where
  -- chapter 08: switching tables and the exception path
  /-- TABLE_TRANSFER_START (R212): a write of FLOW_TBL_CTRL. -/
  | tableTransferStart (value : W32)
  /-- TABLE_TRANSFER_DONE (R212), with the octets a transfer towards the table read. -/
  | tableTransferDone (data : MoverRead)
  /-- EXCEPTION_FRAME (R210). -/
  | exceptionFrame
  -- chapter 09: cipher lanes
  /-- KEY_DERIVE_DONE (R225) of a context. -/
  | keyDeriveDone (handle : Nat)
  /-- KEY_UNWRAP_DONE (R225) of a context. -/
  | keyUnwrapDone (handle : Nat)
  /-- CIPHER_SUSPEND (R227). -/
  | cipherSuspend
  /-- CIPHER_RESUME (R227): the data of an operation whose data is late arrives. -/
  | cipherResume
  /-- CIPH_SA_REBUILD_DONE (R233). -/
  | ciphSaRebuildDone
  /-- RAW_LOCK_TAKE (R235). -/
  | rawLockTake (thread lane : Nat)
  /-- RAW_LANE_GO (R234): a key to load, if one is given, and a block; lane 3 is lane 43, and Binnacle's. -/
  | rawLaneGo (thread lane : Nat) (load : Option RawLoad) (block : Bytes) (decrypt : Bool)
  /-- RAW_LOCK_RELEASE (R235). -/
  | rawLockRelease (thread lane : Nat)
  /-- RAW_HOLD_EXPIRY (R235). -/
  | rawHoldExpiry (lane : Nat)
  /-- CTX_CREATE (R241). -/
  | ctxCreate (c : Cmd)
  /-- CTX_REKEY (R242). -/
  | ctxRekey (c : Cmd)
  /-- CTX_DESTROY (R243). -/
  | ctxDestroy (c : Cmd)
  /-- CTX_QUERY (R243). -/
  | ctxQuery (c : Cmd)
  /-- SEC_LODESTAR_LOAD (R239). -/
  | secLodestarLoad (c : Cmd)
  /-- SEC_ALARM_CLEAR (R240). -/
  | secAlarmClear (c : Cmd)
  -- chapter 07: range classifier
  /-- CLS_BANK_CONFIG (R186). -/
  | clsBankConfig (c : Cmd)
  /-- CLS_INSERT (R174, R187, R188). -/
  | clsInsert (c : Cmd)
  /-- CLS_BLOCK_MOVE_DONE (R176): the block move of a bank ends. -/
  | clsBlockMoveDone (bank : Nat)
  /-- CLS_DELETE (R175, R189). -/
  | clsDelete (c : Cmd)
  /-- CLS_QUERY (R189). -/
  | clsQuery (c : Cmd)
  /-- CLS_CHART_CHECK (R183, R190), with the chart lines as its first comparison reads them; unlisted lines are zero. -/
  | clsChartCheck (c : Cmd) (chart : List (Nat × HostRead))
  /-- CLS_CHART_RECHECK (R183): a position that mismatched, with its chart line as read again. -/
  | clsChartRecheck (position : Nat) (line : HostRead)
  /-- CLS_CHART_CHECK_DONE (R190). -/
  | clsChartCheckDone
  -- chapters 18, 20 and 17: rails, bring-up, links, resets, power
  /-- RAIL_GOOD (R426): a supply rail becomes good. -/
  | railGood (rail : Rail)
  /-- RAIL_LOST (R466): a supply rail is lost. -/
  | railLost (rail : Rail)
  /-- BINNACLE_BOOT (R431): the boot's self-tests end with these failures, a bit per test of Table 18-3. -/
  | binnacleBoot (failed : Byte)
  /-- PERST_DEASSERT (R427): PERST_N rises and the link trains. -/
  | perstDeassert
  /-- WARM_RESET (R440): PERST_N is asserted. -/
  | warmReset
  /-- FLR (R440): a Function Level Reset. -/
  | flr (fn : Fn)
  /-- CONFIG_REQUEST (R293): a configuration read, or a write of a DW with its byte enables. -/
  | configRequest (fn : Fn) (off : Nat) (wr : Option (W32 × Nat))
  /-- PCIE_LINK_DOWN (R312): DL_Down with PERST_N deasserted. -/
  | pcieLinkDown
  /-- PCIE_LINK_UP (R312): the link returns. -/
  | pcieLinkUp
  /-- HOST_LOST_GRACE_EXPIRY (R442). -/
  | hostLostGraceExpiry
  /-- HOST_RESUME_EXPIRY (R442). -/
  | hostResumeExpiry
  /-- PME_TURN_OFF (R488): PME_Turn_Off is received. -/
  | pmeTurnOff
  /-- PLL_LOCK_LOSS (R442): the system PLL, or a memory PLL, loses lock. -/
  | pllLockLoss (system : Bool)
  /-- UNCORRECTABLE_INTERNAL_ERROR (R314): in an endpoint memory used for a function's request. -/
  | uncorrectableInternalError (fn : Fn)
  /-- ALARM_TRIP (R236): alarm source 0 to 4 trips, or stops tripping. -/
  | alarmTrip (source : Nat) (present : Bool)
  /-- DROOP_TRIP (R419): the retention supply of a bank (Table 17-6) droops for 1 µs. -/
  | droopTrip (bank : Nat)
  /-- WAKE_SOURCE (R417): a source of Table 17-5 fires. -/
  | wakeSource (source : Nat)
  /-- PWR_WAKE (R484): a host write of PWR_WAKE. -/
  | pwrWake (target : Nat)
  /-- DOMAIN_STOP_ENTRY (R416): steps 1 and 2 of Table 17-4 begin for a domain. -/
  | domainStopEntry (d : Nat)
  /-- DOMAIN_STOP_SEAL (R416): steps 3 to 6 of Table 17-4. -/
  | domainStopSeal (d : Nat)
  /-- DOMAIN_START (R418). -/
  | domainStart (d : Nat)
  /-- SCRUB_PASS_END (R413): the pass ends having corrected and failed to correct this many words. -/
  | scrubPassEnd (ce ue : Nat)
  /-- DRAM_PANIC (R410): a client raises or drops panic; refreshes postponed meanwhile. -/
  | dramPanic (client : Nat) (up : Bool) (postponed : Nat)
  /-- PWR_VOTE (R422). -/
  | pwrVote (c : Cmd)
  /-- PWR_QUERY (R423). -/
  | pwrQuery (c : Cmd)
  /-- DEV_WAKE_REPORT (R424). -/
  | devWakeReport (c : Cmd)
  /-- LINK_VOTE_RELEASE (R414). -/
  | linkVoteRelease
  -- chapter 12: the host endpoint
  /-- BAR_BAD_ACCESS (R294): a BAR 0 access of the wrong size or alignment. -/
  | barBadAccess (fn : Fn) (off : BarOff) (len : Nat) (write : Bool)
  /-- HOST_UNSUPPORTED_REQUEST (R293). -/
  | hostUnsupportedRequest (fn : Fn) (posted : Bool)
  /-- PEER_REQUEST (R297): a request to BAR 4 at an aperture offset. -/
  | peerRequest (q : PeerReq)
  /-- WIN_COMMIT (R299): WIN_COMMIT written with GO. -/
  | winCommit (window : Nat)
  /-- WIN_CHANGE_DONE (R299): the old requests of the CHANGING window have drained. -/
  | winChangeDone
  /-- HOST_COMPLETION_RX (R303): a completion; `last` with the last of a split one. -/
  | hostCompletionRx (tag completer : Nat) (fn : Fn) (status : CplStatus) (body : Bytes) (last : Bool)
  /-- COMPLETION_TIMEOUT (R302). -/
  | completionTimeout (tag : Nat)
  /-- TAG_QUARANTINE_END (R304). -/
  | tagQuarantineEnd (tag : Nat)
  /-- ATS_INVALIDATE (R311). -/
  | atsInvalidate (page : Nat) (pasid : Option Nat)
  /-- MSIX_UNMASK (R308): a vector's mask bit is cleared; vectors from 64 up are instance vectors of PF 0. -/
  | msixUnmask (fn : Fn) (vec : Nat)
  -- chapter 13: instances and rings
  /-- DOORBELL (R319): a write of DOORBELL of a ring, by its global number. -/
  | doorbell (ring : Nat) (value : W32)
  /-- DESCRIPTOR_FETCH (R321): the adapter reads published descriptors of a ring. -/
  | descriptorFetch (ring : Nat)
  /-- TX_DESCRIPTOR (R325): the oldest fetched descriptor not yet started is carried out; its fragment table and its
  frame data as the adapter's reads brought them back; `late` when the data comes late for a cipher lane (R227). -/
  | txDescriptor (ring : Nat) (table frame : HostRead) (late : Bool)
  /-- RX_FRAME_DELIVER (R326): the frame that waits first for a receive ring is written, with the fragment tables of
  the descriptors it takes. -/
  | rxFrameDeliver (ring : Nat) (tables : List HostRead)
  /-- REGISTRATION (R327): the oldest fetched registration of an instance's q13, with its fragment table. -/
  | registration (inst : Nat) (table : HostRead)
  /-- TAGGED_COMPLETION_RESUME (R332): a completion that waits for a completion ring is written. -/
  | taggedCompletionResume (ring : Nat)
  /-- EVENTS_LOST (R333): for an instance's q15, or manager ring 31 (instance 512). -/
  | eventsLost (inst : Nat)
  /-- INT_HOLDOFF_EXPIRY (R334). -/
  | intHoldoffExpiry (ring : Nat)
  /-- INST_CREATE (R338), with the entry and parameter buffer as Binnacle reads them. -/
  | instCreate (c : Cmd) (b : BinRead)
  /-- QUEUE_CONFIG (R339). -/
  | queueConfig (c : Cmd)
  /-- QUEUE_ENABLE (R335). -/
  | queueEnable (c : Cmd)
  /-- QUEUE_DRAIN (R335). -/
  | queueDrain (c : Cmd)
  /-- RING_STOPPED (R335). -/
  | ringStopped (ring : Nat)
  /-- QUEUE_DISABLE (R335). -/
  | queueDisable (c : Cmd)
  /-- QUEUE_SET_MODE (R331). -/
  | queueSetMode (c : Cmd)
  /-- QUEUE_QUERY (R339). -/
  | queueQuery (c : Cmd)
  -- chapter 14: Dechan commands and mailboxes
  /-- INST_ENABLE (R351). -/
  | instEnable (c : Cmd)
  /-- INST_QUIESCE (R351). -/
  | instQuiesce (c : Cmd)
  /-- INST_QUIESCE_DONE (R351). -/
  | instQuiesceDone (inst : Nat)
  /-- INST_QUIESCE_TIMEOUT (R351). -/
  | instQuiesceTimeout (inst : Nat)
  /-- INST_FREEZE (R351). -/
  | instFreeze (c : Cmd)
  /-- INST_RESUME (R351). -/
  | instResume (c : Cmd)
  /-- INST_RESET (R351). -/
  | instReset (c : Cmd)
  /-- INST_DESTROY (R351), with the entry as Binnacle reads it. -/
  | instDestroy (c : Cmd) (b : BinRead)
  /-- SEC_RING_DOORBELL (R341). -/
  | secRingDoorbell (value : W32)
  /-- SEC_RING_ENABLE (R367): a write of SEC_RING_CFG. -/
  | secRingEnable (value : W32)
  /-- MRING0_ENABLE (R481): a write of GLOBAL_MRING0_CFG with ENABLE 1. -/
  | mring0Enable (value : W32)
  /-- MRING0_DISABLE (R481): a write of GLOBAL_MRING0_CFG with ENABLE 0. -/
  | mring0Disable (value : W32)
  /-- MBOX_WRITE (R361). -/
  | mboxWrite (n : Nat) (w : W32)
  /-- MBOX_TAKE (R361): a host read of MBOX_DATA. -/
  | mboxTake (n : Nat)
  /-- MBOX_LIVENESS_REPLY (R362). -/
  | mboxLivenessReply
  /-- SMBOX_WRITE (R361). -/
  | smboxWrite (n : Nat) (w : W32)
  /-- SMBOX_TAKE (R361). -/
  | smboxTake (n : Nat)
  /-- SMBOX_REPLY (R438). -/
  | smboxReply
  /-- BINNACLE_STATE_POST (R438). -/
  | binnacleStatePost
  /-- BOUNDS_WRITE (R363): request 1 with the entry's ring and index. -/
  | boundsWrite (ring idx : Nat) (b : BinRead)
  /-- BOUNDS_CLEAR (R363): request 2. -/
  | boundsClear (ring idx : Nat) (b : BinRead)
  /-- POWER_VOTE (R363): request 3. -/
  | powerVote (ring idx : Nat) (b : BinRead)
  /-- KEY_TRANSFER_WRAP (R373): request 4, for a context handle. -/
  | keyTransferWrap (ring idx : Nat) (b : BinRead) (handle : Nat)
  /-- HELM_READY (R437): request 5. -/
  | helmReady
  /-- UNSUPPORTED_OPCODE (R346). -/
  | unsupportedOpcode (opcode : Nat) (c : Cmd)
  -- chapter 15: migration
  /-- DIRTY_LOG START (R369). -/
  | dirtyLogStart (c : Cmd)
  /-- DIRTY_LOG HARVEST (R369). -/
  | dirtyLogHarvest (c : Cmd)
  /-- DIRTY_LOG STOP (R369). -/
  | dirtyLogStop (c : Cmd)
  /-- WAYPOINT_SAVE (R371). -/
  | waypointSave (c : Cmd)
  /-- WAYPOINT_RESTORE (R375): the waypoint is `c.buf`; Binnacle's own reading of the entry and the bounds section. -/
  | waypointRestore (c : Cmd) (b : BinRead)
  /-- SEC_TRANSFER_KEY ARM (R374). -/
  | secTransferKeyArm (c : Cmd)
  /-- SEC_TRANSFER_KEY DISARM (R374). -/
  | secTransferKeyDisarm (c : Cmd)
  /-- TRANSFER_KEY_EXPIRY (R374). -/
  | transferKeyExpiry
  -- chapter 18: images, measurements, device commands
  /-- IMAGE_LOAD (R434): GO written without REUSE. -/
  | imageLoad
  /-- IMAGE_LOAD_REUSE (R434): GO written with REUSE. -/
  | imageLoadReuse
  /-- IMAGE_LOAD_DONE (R434): the image as the reads brought it back. -/
  | imageLoadDone (image : HostRead)
  /-- SEC_MEASURE READ (R436). -/
  | secMeasureRead (c : Cmd)
  /-- SEC_MEASURE RECHECK (R436). -/
  | secMeasureRecheck (c : Cmd)
  /-- HELM_READY_TIMEOUT (R437). -/
  | helmReadyTimeout
  /-- HELM_CLOCK_SWITCH (R437): the supervisor moves a core to the system PLL. -/
  | helmClockSwitch (core : Nat)
  /-- DEV_QUERY (R447). -/
  | devQuery (c : Cmd)
  /-- DEV_CONFIGURE (R446). -/
  | devConfigure (c : Cmd)
  /-- DEV_RESET_UNIT (R441). -/
  | devResetUnit (c : Cmd)
  /-- DEV_HOVE_TO ENTER (R445). -/
  | devHoveToEnter (c : Cmd)
  /-- DEV_HOVE_TO LEAVE (R445). -/
  | devHoveToLeave (c : Cmd)
  /-- DEV_HOVE_TO STATUS (R445). -/
  | devHoveToStatus (c : Cmd)
  -- chapter 19: ledgers and diagnostics
  /-- DEV_LEDGER_AUDIT (R458). -/
  | devLedgerAudit (c : Cmd)
  /-- LEDGER_PICTURE (R456). -/
  | ledgerPicture
  /-- DIAG_SNAPSHOT READ (R459). -/
  | diagSnapshotRead (c : Cmd)
  /-- DIAG_SNAPSHOT TAKE (R459). -/
  | diagSnapshotTake (c : Cmd)
  /-- DIAG_LOOPBACK (R460). -/
  | diagLoopback (c : Cmd)
  /-- DIAG_INJECT (R461). -/
  | diagInject (c : Cmd)
  -- chapters 20 and 21: the module's health interface and the register spaces
  /-- EVT_ENABLE_WRITE (R482). -/
  | evtEnableWrite (value : W32)
  /-- SMBUS_READ (R474): Read Byte or Read Word of a command. -/
  | smbusRead (command : Nat) (word : SmbusForm)
  /-- SMBUS_ALERT_RESPONSE (R474). -/
  | smbusAlertResponse
  /-- SMB_ALERT (R474): the board presents this die temperature, in 1/256 °C. -/
  | smbAlert (temp : BitVec 16)
  /-- REGISTER_WRITE (R10): a write of one DW of a BAR, or of several in one request, with their byte enables. -/
  | registerWrite (fn : Fn) (bar off : Nat) (value : W32) (be : WriteDws)
  /-- REGISTER_READ (R6): a read of one DW of a BAR, or of two in one request. -/
  | registerRead (fn : Fn) (bar : Nat) (off : ReadDws)
  -- chapter 06: flow table
  /-- FLOW_INSERT (R152). -/
  | flowInsert (c : Cmd)
  /-- FLOW_WRITE (R153). -/
  | flowWrite (c : Cmd)
  /-- FLOW_DELETE (R153). -/
  | flowDelete (c : Cmd)
  /-- FLOW_QUERY (R168). -/
  | flowQuery (c : Cmd)
  /-- FLOW_SWING (R156). -/
  | flowSwing (c : Cmd)
  /-- FLOW_SWING_STALL (R156): the walker's pass leaves entries stuck. -/
  | flowSwingStall
  /-- FLOW_SWING_COMPLETE (R158). -/
  | flowSwingComplete
  /-- FLOW_CHART_CHECK (R163), with the chart lines as its first comparison reads them; unlisted lines are zero. -/
  | flowChartCheck (c : Cmd) (chart : List (Nat × HostRead))
  /-- FLOW_CHART_RECHECK (R163): a handle that mismatched, with its chart line as read again. -/
  | flowChartRecheck (handle : Nat) (line : HostRead)
  /-- FLOW_CHART_CHECK_DONE (R166). -/
  | flowChartCheckDone
  /-- FLOW_RELOAD_BANK (R165). -/
  | flowReloadBank (c : Cmd)
  /-- FLOW_RELOAD_DONE (R166), with the chart lines as they are read; unlisted lines are zero. -/
  | flowReloadDone (lines : List (Nat × HostRead))
  /-- FLOW_WAKE_SCAN_DONE (R164). -/
  | flowWakeScanDone
  /-- FLOW_AGING_SWEEP (R159). -/
  | flowAgingSweep
  /-- FLOW_PROF_COMMIT (R148): a write of FLOW_PROF_COMMIT. -/
  | flowProfCommit (value : W32)
  /-- FLOW_MS_TICK (R159). -/
  | flowMsTick
  -- chapter 02: ports and ring
  /-- RING_AUTO_ATTEMPT_EXPIRY (R31). -/
  | ringAutoAttemptExpiry (port : Port)
  /-- RING_LOCK_LOSS_TIMEOUT (R31). -/
  | ringLockLossTimeout (port : Port)
  /-- PORT_LINK_CHANGE (R64): a port's receiver locks or loses lock. -/
  | portLinkChange (port : Port) (up : Bool)
  /-- RING_FRAME_RX (R38): a frame on port C or D, from destination address to the last octet before its FCS. -/
  | ringFrameRx (port : Port) (frame : Bytes) (info : RxInfo)
  /-- INTERLINK_TX (R36). -/
  | interlinkTx
  /-- NODE_ENTRY_FORGET (R40) of a source address. -/
  | nodeEntryForget (addr : Nat)
  /-- PROXY_ENTRY_EXPIRY (R36) of an address. -/
  | proxyEntryExpiry (addr : Nat)
  /-- PRP_SEQ_COUNTER_RELEASE (R36) of a destination address. -/
  | prpSeqCounterRelease (addr : Nat)
  /-- SUPERVISION_TX (R48) for a supervised address. -/
  | supervisionTx (addr : Nat)
  /-- PREEMPT_VERIFY_TX (R51). -/
  | preemptVerifyTx (port : Port)
  /-- RING_EGRESS_SELECT (R45, R52): a frame boundary, or an octet boundary with `sent` octets of the fragment sent. -/
  | ringEgressSelect (port : Port) (sent : Nat)
  /-- PORT_FRAME_RX (R53). -/
  | portFrameRx (port : Port) (frame : Bytes) (info : RxInfo)
  /-- PAUSE_FRAME_RX (R55): a pause frame with its pause time. -/
  | pauseFrameRx (port : Port) (quanta : BitVec 16)
  /-- PAUSE_WD_TRIP (R55). -/
  | pauseWdTrip (port : Port)
  /-- PAUSE_WD_RECOVER (R55). -/
  | pauseWdRecover (port : Port)
  /-- TX_UNDERRUN (R54). -/
  | txUnderrun (port : Port)
  /-- MAC_CTRL_WRITE (R64). -/
  | macCtrlWrite (port : Port) (value : W32)
  /-- MAC_FILT_COMMIT (R53): a write of MAC_FILT_HI[n]. -/
  | macFiltCommit (port : Port) (n : Nat) (value : W32)
  /-- MAC_STAT_CLEAR (R56): a write of the register. -/
  | macStatClear (port : Port) (value : W32)
  /-- MOD_TRANSACTION_START (R59): a write of MAC_MOD_CMD. -/
  | modTransactionStart (port : Port) (value : W32)
  /-- MOD_TRANSACTION_DONE (R59): RESULT (0 OK, 1 NACK, 2 BUS_STUCK), octets transferred, and those read. -/
  | modTransactionDone (port : Port) (result n : Nat) (data : Bytes)
  /-- MODULE_PIN_CHANGE (R58): module present; QSFP interrupt or SFP loss of signal; SFP transmit fault. -/
  | modulePinChange (port : Port) (present intLos fault : Bool)
  /-- RING_CONFIG (R61). -/
  | ringConfig (c : Cmd)
  -- chapter 04: the almanac
  /-- SV_FRAME_INGEST (R102): the SV frame that waits first at the almanac engine. -/
  | svFrameIngest
  /-- ALM_ROW_OPEN (R104) of an almanac. -/
  | almRowOpen (alm : Nat)
  /-- ALM_ROW_SEAL (R105) of an almanac. -/
  | almRowSeal (alm : Nat)
  /-- WATCH_ACK (R114) in the page of an instance. -/
  | watchAck (inst : Nat) (value : W32)
  /-- SV_SUBSCRIBE (R99). -/
  | svSubscribe (c : Cmd)
  /-- SV_UNSUBSCRIBE (R99). -/
  | svUnsubscribe (c : Cmd)
  /-- ALM_CREATE (R117). -/
  | almCreate (c : Cmd)
  /-- ALM_DESTROY (R117). -/
  | almDestroy (c : Cmd)
  /-- ALM_WATCH (R112). -/
  | almWatch (c : Cmd)
  /-- ALM_CLR_INGEST_MAX (R118): a write of ALM_CTRL. -/
  | almClrIngestMax (value : W32)
  -- chapter 05: the reflex path and GOOSE
  /-- REFLEX_STAGE (R126): a write of REFLEX[slot] LO. -/
  | reflexStage (inst slot : Nat) (lo : W32)
  /-- REFLEX_WRITE (R126, R127): a write of REFLEX[slot] HI, with the LO that the same TLP covers, if it covers both. -/
  | reflexWrite (inst slot : Nat) (lo : Option W32) (hi : W32)
  /-- REFLEX_HELD_RELEASE (R129) of a slot. -/
  | reflexHeldRelease (inst slot : Nat)
  /-- REFLEX_RETRANSMIT (R134) of a slot. -/
  | reflexRetransmit (inst slot : Nat)
  /-- REFLEX_LOAD (R123). -/
  | reflexLoad (c : Cmd)
  /-- REFLEX_ARM (R124): REFLEX_ARM with ARM 1. -/
  | reflexArm (c : Cmd)
  /-- REFLEX_DISARM (R124): REFLEX_ARM with ARM 0. -/
  | reflexDisarm (c : Cmd)
  /-- REFLEX_CLR_MAX (R142): a write of ALM_REFLEX_CTRL. -/
  | reflexClrMax (value : W32)
  /-- GOOSE_FRAME_RX (R139): the GOOSE frame that waits first at the engine. -/
  | gooseFrameRx
  /-- GOOSE_EXPIRED (R140) of a control block. -/
  | gooseExpired (cb : Nat)
  /-- GOOSE_SUBSCRIBE (R138). -/
  | gooseSubscribe (c : Cmd)
  -- chapter 11: the recorder
  /-- REC_WRITER (R272). -/
  | recWriter
  /-- REC_EVENT_CLOSE (R274). -/
  | recEventClose
  /-- REC_CONFIG (R285). -/
  | recConfig (c : Cmd)
  /-- REC_TRIGGER (R286). -/
  | recTrigger (c : Cmd)
  /-- REC_EXPORT ATTACH (R287). -/
  | recExportAttach (c : Cmd)
  /-- REC_EXPORT DETACH (R287). -/
  | recExportDetach (c : Cmd)
  /-- REC_EXPORT EXPORT (R278). -/
  | recExportExport (c : Cmd)
  /-- REC_EXPORT RELEASE (R276). -/
  | recExportRelease (c : Cmd)
  /-- NVME_COMPLETION (R279). -/
  | nvmeCompletion
  /-- NVME_CMD_TIMEOUT (R280). -/
  | nvmeCmdTimeout
  /-- NVMET_CONNECT (R288). -/
  | nvmetConnect (c : Cmd)
  /-- NVMET_CONNECT with RESYNC (R281). -/
  | nvmetConnectResync (c : Cmd)
  /-- NVMET_CLOSE (R288). -/
  | nvmetClose (c : Cmd)
  -- chapter 10: scheduler, meters and soundings
  /-- INST_SET_SHARE (R254). -/
  | instSetShare (c : Cmd)
  /-- SCHED_NODE_CONFIG (R264). -/
  | schedNodeConfig (c : Cmd)
  /-- SCHED_METER_CONFIG PROFILE (R265). -/
  | schedMeterProfile (c : Cmd)
  /-- SCHED_METER_CONFIG ASSIGN (R265). -/
  | schedMeterAssign (c : Cmd)
  /-- SCHED_METER_CONFIG READ (R265). -/
  | schedMeterRead (c : Cmd)
  /-- SCHED_SOUNDING_CONFIG (R266). -/
  | schedSoundingConfig (c : Cmd)
  /-- SCHED_REFILL (R249): one refill tick. -/
  | schedRefill
  /-- SCHED_SELECT (R252): a port of Table 10-1 can start a frame. -/
  | schedSelect (port : Nat)
  /-- PORT_FRAME_TX_END (R255): the last bit of the frame in transmission leaves a port. -/
  | portFrameTxEnd (port : Port)
  /-- METER_REFRESH (R259). -/
  | meterRefresh
  /-- SOUNDING_ROUND (R262) of a set. -/
  | soundingRound (set : Nat)
  -- chapter 03: the time base
  /-- PTP_MSG_RX (R72): the PTP message received first is processed. -/
  | ptpMsgRx
  /-- PTP_SYNC_TX (R72) on a port that is master. -/
  | ptpSyncTx (port : Port)
  /-- PTP_ANNOUNCE_TX (R73) on a port that is master. -/
  | ptpAnnounceTx (port : Port)
  /-- PTP_PDELAY_TX (R72) on ports A and B. -/
  | ptpPdelayTx
  /-- ANNOUNCE_TIMEOUT (R72) of a port. -/
  | announceTimeout (port : Port)
  /-- RING_PDELAY_TX (R70). -/
  | ringPdelayTx
  /-- TC_PENDING_EXPIRY (R69). -/
  | tcPendingExpiry
  /-- PPS_EDGE (R74): a rising edge at the PPS input. -/
  | ppsEdge
  /-- PPS_LOSS (R74). -/
  | ppsLoss
  /-- IRIG_FRAME (R75): the frame whose Pr marker comes now, as its fields decode. -/
  | irigFrame (frame : IrigFrame)
  /-- IRIG_LOSS (R75). -/
  | irigLoss
  /-- PPS_OUT_PULSE (R76). -/
  | ppsOutPulse
  /-- SERVO_UPDATE (R79): Helm's servo gives an increment and its filtered offset in ns. -/
  | servoUpdate (incr : BitVec 36) (filtered : Int)
  /-- SERVO_WATCHDOG (R81). -/
  | servoWatchdog
  /-- TIME_CONFIG (R88). -/
  | timeConfig (c : Cmd)
  /-- TIME_SET (R89). -/
  | timeSet (c : Cmd)
  /-- TIME_SET_PPS_TIMEOUT (R89). -/
  | timeSetPpsTimeout
  /-- TIME_QUERY (R90). -/
  | timeQuery (c : Cmd)
  /-- OWN_SEEN_TIMEOUT (R50). -/
  | ownSeenTimeout (port : Port)
  /-- RING_PLL_LOCK_LOSS (R85). -/
  | ringPllLockLoss
  -- chapter 16: Helm threads
  /-- FORK (R380) by a thread. -/
  | fork (thread : Nat) (op : HelmOp)
  /-- EXIT (R381). -/
  | exit (thread : Nat) (op : HelmOp)
  /-- JOIN (R381). -/
  | join (thread : Nat) (op : HelmOp)
  /-- WAIT (R382). -/
  | wait (thread : Nat) (op : HelmOp)
  /-- SIGNAL (R384). -/
  | signal (thread : Nat) (op : HelmOp)
  /-- EVMAP (R383). -/
  | evmap (thread : Nat) (op : HelmOp)
  /-- TIMER (R384). -/
  | timer (thread : Nat) (op : HelmOp)
  /-- SETTRAP (R382). -/
  | settrap (thread : Nat) (op : HelmOp)
  /-- CHSTAGE (R388). -/
  | chstage (thread : Nat) (op : HelmOp)
  /-- CHCOMMIT (R388). -/
  | chcommit (thread : Nat) (op : HelmOp)
  /-- CHRECV (R388). -/
  | chrecv (thread : Nat) (op : HelmOp)
  /-- THRCTL_RESUME (R382): THRCTL with IMM[0] 0. -/
  | thrctlResume (thread : Nat) (op : HelmOp)
  /-- THRCTL_KILL (R392): THRCTL with IMM[0] 1. -/
  | thrctlKill (thread : Nat) (op : HelmOp)
  /-- CHCFG (R387). -/
  | chcfg (thread : Nat) (op : HelmOp)
  /-- CLASS (R382). -/
  | class_ (thread : Nat) (op : HelmOp)
  /-- BREAK (R382). -/
  | break_ (thread : Nat) (op : HelmOp)
  /-- LOAD_STORE (R389): any other instruction of a thread, with its instruction word. -/
  | loadStore (thread : Nat) (word : W32) (what : HelmOther)
  /-- HELM_TIMER_FIRE (R384) of a thread. -/
  | helmTimerFire (thread : Nat)
  /-- SUPERVISOR_FAULT_TIMEOUT (R390). -/
  | supervisorFaultTimeout
  /-- BECALMED_DETECT (R394). -/
  | becalmedDetect
  /-- HELM_RESTART (R396). -/
  | helmRestart
  /-- HELM_DBG_HALT (R391): HALT written to HELM_DBG_CTRL. -/
  | helmDbgHalt
  /-- HELM_DBG_RESUME (R391). -/
  | helmDbgResume
  /-- HELM_DBG_STEP (R391). -/
  | helmDbgStep
  /-- HELM_DBG_KILL (R392). -/
  | helmDbgKill
  /-- HELM_DBG_REG_WRITE (R404): register w`k` of the selected thread. -/
  | helmDbgRegWrite (k : Nat) (value : W32)
  /-- DEBUG_GRANT_END (R393): at the end of its lifetime. -/
  | debugGrantEnd
  /-- MOVER_LOCK_TAKE (R398): a thread writes its number to MOVER_LOCK[mover]. -/
  | moverLockTake (thread mover : Nat)
  /-- MOVER_GO (R399): a thread writes the eight words of Table 16-8, with GO; `word` is its store instruction. -/
  | moverGo (thread mover : Nat) (words : List W32) (word : W32)
  /-- MOVER_PROMOTE (R399). -/
  | moverPromote (mover : Nat)
  /-- MOVER_TRANSFER_END (R401): the active transfer ends, with what its host reads of SRC and DST brought back. -/
  | moverTransferEnd (mover : Nat) (src dst : MoverRead)
  /-- MOVER_ERR_ACK (R401). -/
  | moverErrAck (thread mover : Nat) (word : W32)
  /-- MOVER_RELEASE (R398). -/
  | moverRelease (thread mover : Nat)
  /-- SEC_DEBUG_AUTHORIZE CHALLENGE (R402). -/
  | secDebugChallenge (c : Cmd)
  /-- SEC_DEBUG_AUTHORIZE GRANT (R403). -/
  | secDebugGrant (c : Cmd)
  /-- SEC_DEBUG_AUTHORIZE REVOKE (R402). -/
  | secDebugRevoke (c : Cmd)
  -- chapters 03 and 11: the rest
  /-- BOUND_GROWTH (R79). -/
  | boundGrowth
  deriving DecidableEq, Repr

end Sys2Proof
end

