-- ==== Sys2Proof/Decode.lean ====
section
/-!
DEFINITION. Decode.lean: the command that a word spells. The opcode table gives none of its rows any bits: a command of this block
is an access or an event, not an encoded word.
-/

set_option Elab.async false
namespace Sys2Proof

/-- The command that a word of `nbits` bits spells by the opcode table: none, because no row of the table gives bits. -/
def decodeTableWord (_nbits _w : Nat) : Option Instr := none

end Sys2Proof
end

