-- ==== Sys2Proof/Machine/Operands.lean ====
section
/-!
DEFINITION. Machine/Operands.lean: the fields a frame offers: VLAN tags, IP, transport and tunnel headers as the
parser reads them (R199, R204), the key fields of Table 6-2, and the process-bus and PTP fields.
-/

set_option Elab.async false
namespace Sys2Proof.Machine

open Sys2Proof

/-- The parser reads the first 256 octets of a frame (R204). -/
def parseDepth : Nat := 256

/-- Bits of an EtherType the parser tells apart. -/
def etIpv4 : Nat := 0x0800
def etIpv6 : Nat := 0x86DD
def etHsr : Nat := 0x892F
def etGoose : Nat := 0x88B8
def etSv : Nat := 0x88BA
def etPtp : Nat := 0x88F7
def etMacsec : Nat := 0x88E5
def etPause : Nat := 0x8808

/-- An IP header: version, where it starts and ends (extension headers included), its fields. -/
structure IpHdr where
  v6    : Bool
  off   : Nat
  fin   : Nat
  src   : Bytes
  dst   : Bytes
  proto : Nat
  dscp  : Nat
  flow  : Nat
  /-- The packet is a fragment. -/
  frag  : Bool
  /-- Octets of the packet from the end of its headers. -/
  plen  : Nat
  deriving DecidableEq, Repr

/-- A TCP, UDP or SCTP header: where it starts and ends, and its ports. -/
structure L4Hdr where
  proto : Nat
  off   : Nat
  fin   : Nat
  sport : Nat
  dport : Nat
  deriving DecidableEq, Repr

/-- What the parser knows of a frame. -/
structure Parsed where
  dst    : Nat
  src    : Nat
  /-- VLAN tags, outer first: TPID and TCI (R199). -/
  vlans  : List (Nat × Nat)
  /-- Offset of the frame's own EtherType, after VLAN tags and HSR tag, and its value. -/
  etOff  : Nat
  etype  : Nat
  ip     : Option IpHdr
  l4     : Option L4Hdr
  /-- An IPv4 or IPv6 header, or a transport header, begins but does not end within 256 octets. -/
  ipDeep : Bool
  l4Deep : Bool
  deriving DecidableEq, Repr

/-- VLAN tags at the head of a frame (R199): an outer 0x88A8 or 0x8100, then an inner 0x8100. -/
def vlanTags (b : Bytes) : List (Nat × Nat) :=
  let t0 := beAt b 12 2
  if t0 = 0x88A8 ∨ t0 = 0x8100 then
    let t1 := beAt b 16 2
    if t1 = 0x8100 then [(t0, beAt b 14 2), (t1, beAt b 18 2)] else [(t0, beAt b 14 2)]
  else []

/-- The frame is HSR-tagged (R486): EtherType 0x892F after its addresses or its VLAN tags. -/
def hsrTagged (b : Bytes) : Bool := beAt b (12 + 4 * (vlanTags b).length) 2 == etHsr

/-- A header that ends at `fin` is present: within the parser's depth and the frame. -/
def withinDepth (b : Bytes) (fin : Nat) : Bool := decide (fin ≤ parseDepth) && decide (fin ≤ b.length)

/-- IPv6 extension headers passed, at most `fuel` of them: next header, offset past them, and whether one is a
fragment header. -/
def ipv6Ext (b : Bytes) : Nat → Nat → Nat → Bool → Nat × Nat × Bool
  | 0, nh, off, fr => (nh, off, fr)
  | f + 1, nh, off, fr =>
    if nh = 0 ∨ nh = 43 ∨ nh = 60 then ipv6Ext b f (byteAt b off) (off + (byteAt b (off + 1) + 1) * 8) fr
    else if nh = 44 then ipv6Ext b f (byteAt b off) (off + 8) true
    else if nh = 51 then ipv6Ext b f (byteAt b off) (off + (byteAt b (off + 1) + 2) * 4) fr
    else (nh, off, fr)

/-- The IP header at `off` of a frame of EtherType `et`. -/
def parseIp (b : Bytes) (et off : Nat) : Option IpHdr :=
  if et = etIpv4 ∧ byteAt b off / 16 = 4 ∧ 5 ≤ byteAt b off % 16 then
    let fin := off + byteAt b off % 16 * 4
    let fr := beAt b (off + 6) 2
    some { v6 := false, off := off, fin := fin, src := slice b (off + 12) 4, dst := slice b (off + 16) 4,
           proto := byteAt b (off + 9), dscp := byteAt b (off + 1) / 4, flow := 0,
           frag := bit fr 13 || fr % 8192 != 0, plen := beAt b (off + 2) 2 - byteAt b off % 16 * 4 }
  else if et = etIpv6 ∧ byteAt b off / 16 = 6 then
    let (nh, fin, fr) := ipv6Ext b 32 (byteAt b (off + 6)) (off + 40) false
    some { v6 := true, off := off, fin := fin, src := slice b (off + 8) 16, dst := slice b (off + 24) 16,
           proto := nh, dscp := beAt b off 2 / 64 % 64, flow := beAt b off 4 % 2 ^ 20, frag := fr,
           plen := beAt b (off + 4) 2 + 40 - (fin - off) }
  else none

/-- The transport header after an IP header. -/
def parseL4 (b : Bytes) (ip : IpHdr) : Option L4Hdr :=
  if ip.frag then none
  else
    let fin :=
      if ip.proto = 6 then ip.fin + max 5 (byteAt b (ip.fin + 12) / 16) * 4
      else if ip.proto = 17 then ip.fin + 8
      else ip.fin + 12
    if ip.proto = 6 ∨ ip.proto = 17 ∨ ip.proto = 132 then
      some { proto := ip.proto, off := ip.fin, fin := fin, sport := beAt b ip.fin 2, dport := beAt b (ip.fin + 2) 2 }
    else none

/-- A frame as the parser reads it. -/
def parse (b : Bytes) : Parsed :=
  let vl := vlanTags b
  let o := 12 + 4 * vl.length
  let etOff := if beAt b o 2 = etHsr then o + 6 else o
  let et := beAt b etOff 2
  let ip0 := parseIp b et (etOff + 2)
  let ip := ip0.filter (fun h => withinDepth b h.fin)
  let l40 := ip.bind (parseL4 b)
  let l4 := l40.filter (fun h => withinDepth b h.fin)
  { dst := beAt b 0 6, src := beAt b 6 6, vlans := vl, etOff := etOff, etype := et, ip := ip, l4 := l4
    ipDeep := ip0.isSome && ip.isNone, l4Deep := l40.isSome && l4.isNone }

/-- TCP flags of a frame: FIN and RST. -/
def Parsed.tcpFlags (p : Parsed) (b : Bytes) : Bool × Bool :=
  match p.l4 with
  | some h => if h.proto = 6 then (bit (byteAt b (h.off + 13)) 0, bit (byteAt b (h.off + 13)) 2) else (false, false)
  | none => (false, false)

/-- A tunnel over UDP (R202). -/
inductive Tunnel where
  | vxlan | geneve
  deriving DecidableEq, Repr

/-- The tunnel a frame's outer UDP destination port names. -/
def Parsed.tunnel (p : Parsed) (vxlanPort genevePort : Nat) : Option Tunnel :=
  match p.l4 with
  | some h =>
    if h.proto = 17 ∧ h.dport = vxlanPort then some .vxlan
    else if h.proto = 17 ∧ h.dport = genevePort then some .geneve
    else none
  | none => none

/-- The VNI of a tunnel header that follows the frame's UDP header. -/
def Parsed.vni (p : Parsed) (b : Bytes) : Nat :=
  match p.l4 with
  | some h => beAt b (h.fin + 4) 3
  | none => 0

/-- A broadcast address. -/
def isBroadcast (a : Nat) : Bool := a == 0xFFFFFFFFFFFF

/-- A group address that is not broadcast. -/
def isMulticast (a : Nat) : Bool := bit a 40 && !isBroadcast a

/-- An IPv4 address as its IPv4-mapped IPv6 form (R147). -/
def mapped (h : IpHdr) (a : Bytes) : Bytes := if h.v6 then a else zeros 10 ++ [0xFF, 0xFF] ++ a

/-- Octets of a key field (Table 6-2). -/
def fieldBytes (c : Nat) : Nat :=
  if c = 1 ∨ c = 12 ∨ c = 15 then 1
  else if c = 2 ∨ c = 5 ∨ c = 6 ∨ c = 7 ∨ c = 13 ∨ c = 14 ∨ c = 17 then 2
  else if c = 3 ∨ c = 4 then 6
  else if c = 8 ∨ c = 9 then 16
  else if c = 10 ∨ c = 11 then 4
  else if c = 16 ∨ c = 18 then 3
  else 0

/-- The value of a key field (Table 6-2); a field absent from the frame is zero (R147). -/
def fieldValue (p : Parsed) (b : Bytes) (srcPort inst vni c : Nat) : Nat :=
  let ipv (f : IpHdr → Nat) : Nat := (p.ip.map f).getD 0
  if c = 1 then srcPort
  else if c = 2 then inst
  else if c = 3 then p.dst
  else if c = 4 then p.src
  else if c = 5 then (p.vlans.getD 0 (0, 0)).2 % 4096
  else if c = 6 then (p.vlans.getD 1 (0, 0)).2 % 4096
  else if c = 7 then p.etype
  else if c = 8 then ipv (fun h => beNat (mapped h h.src))
  else if c = 9 then ipv (fun h => beNat (mapped h h.dst))
  else if c = 10 then ipv (fun h => if h.v6 then 0 else beNat h.src)
  else if c = 11 then ipv (fun h => if h.v6 then 0 else beNat h.dst)
  else if c = 12 then ipv (·.proto)
  else if c = 13 then (p.l4.map (·.sport)).getD 0
  else if c = 14 then (p.l4.map (·.dport)).getD 0
  else if c = 15 then ipv (·.dscp)
  else if c = 16 then vni
  else if c = 17 then (if p.etype = etGoose ∨ p.etype = etSv then beAt b (p.etOff + 2) 2 else 0)
  else if c = 18 then ipv (·.flow)
  else 0

/-- The fields of a profile before its END. -/
def listedFields (fs : List Nat) : List Nat := fs.takeWhile (· != 0)

/-- Octets of a profile's fields. -/
def keyLength (fs : List Nat) : Nat := (listedFields fs).foldl (fun a c => a + fieldBytes c) 0

/-- The key of a frame under a profile's fields, 40 octets (R147). -/
def keyOf (p : Parsed) (b : Bytes) (srcPort inst vni : Nat) (fs : List Nat) : Bytes :=
  slice ((listedFields fs).flatMap (fun c => beBytes (fieldBytes c) (fieldValue p b srcPort inst vni c))) 0 40

/-- Offset of a field within the key of a profile, if the profile has it. -/
def fieldOffset (fs : List Nat) (c : Nat) : Option Nat :=
  let l := listedFields fs
  if l.contains c then some ((l.takeWhile (· != c)).foldl (fun a d => a + fieldBytes d) 0) else none

end Sys2Proof.Machine
end

