-- ==== Sys2Proof/Machine/Pdu.lean ====
section
/-!
DEFINITION. Machine/Pdu.lean: the sampled-value and GOOSE messages that frames carry, as IEC 61850-9-2 and 61850-8-1 encode
them (PRESUMED, log entry 22).
-/

set_option Elab.async false
namespace Sys2Proof.Machine

open Sys2Proof

/-- Tag, contents and the rest of one BER element. -/
def berOne (b : Bytes) : Option (Nat × Bytes × Bytes) :=
  match b with
  | t :: l :: r =>
    let take (n : Nat) (r : Bytes) : Option (Nat × Bytes × Bytes) :=
      if n ≤ r.length then some (t.toNat, r.take n, r.drop n) else none
    if l.toNat < 128 then take l.toNat r
    else if l.toNat ≤ 132 ∧ l.toNat - 128 ≤ r.length ∧ 128 < l.toNat then
      take (beNat (r.take (l.toNat - 128))) (r.drop (l.toNat - 128))
    else none
  | _ => none

/-- The elements of a constructed value, at most `fuel` of them. -/
def berList : Nat → Bytes → Option (List (Nat × Bytes))
  | _, [] => some []
  | 0, _ => none
  | f + 1, b =>
    match berOne b with
    | some (t, v, r) => (berList f r).map (fun l => (t, v) :: l)
    | none => none

/-- The contents of the first element with a tag. -/
def berGet (l : List (Nat × Bytes)) (t : Nat) : Option Bytes := (l.find? (fun e => e.1 == t)).map (·.2)

/-- What follows the header of a process-bus frame: APPID, the Simulate bit, and the PDU. -/
def pbPdu (b : Bytes) (et : Nat) : Option (Nat × Bool × Bytes) :=
  let p := parse b
  let o := p.etOff + 2
  let n := beAt b (o + 2) 2
  if p.etype = et ∧ 8 ≤ n ∧ o + n ≤ b.length then some (beAt b o 2, bit (beAt b (o + 4) 2) 15, slice b (o + 8) (n - 8)) else none

/-- One ASDU of a sampled-value message. -/
structure Asdu where
  svid   : Bytes
  smpCnt : Nat
  confRev : Nat
  smpSynch : Nat
  values : Bytes
  deriving DecidableEq, Repr

/-- An ASDU's elements. -/
def readAsdu (e : Nat × Bytes) : Option Asdu := do
  if e.1 ≠ 0x30 then none
  let l ← berList 32 e.2
  let id ← berGet l 0x80
  let cnt ← berGet l 0x82
  let rev ← berGet l 0x83
  let syn ← berGet l 0x85
  let v ← berGet l 0x87
  if cnt.length ≠ 2 ∨ rev.length ≠ 4 ∨ syn.length ≠ 1 ∨ v.length % 8 ≠ 0 then none
  pure { svid := id, smpCnt := beNat cnt, confRev := beNat rev, smpSynch := beNat syn, values := v }

/-- The ASDUs of a sampled-value PDU. -/
def readSv (pdu : Bytes) : Option (List Asdu) := do
  let top ← berList 4 pdu
  let body ← berGet top 0x60
  let l ← berList 32 body
  let n ← berGet l 0x80
  let q ← berGet l 0xA2
  let items ← berList 64 q
  let asdus ← items.mapM readAsdu
  if top.length ≠ 1 ∨ asdus.isEmpty ∨ beNat n ≠ asdus.length then none
  pure asdus

/-- A GOOSE message. -/
structure GoosePdu where
  ref    : Bytes
  tal    : Nat
  t      : Bytes
  stNum  : Nat
  sqNum  : Nat
  test   : Bool
  confRev : Nat
  ndsCom : Bool
  data   : Bytes
  deriving DecidableEq, Repr

/-- A non-negative INTEGER, of at most 32 bits. -/
def berNat (v : Bytes) : Option Nat :=
  if v.isEmpty ∨ 128 ≤ byteAt v 0 ∨ 2 ^ 32 ≤ beNat v then none else some (beNat v)

/-- A GOOSE PDU's elements. -/
def readGoose (pdu : Bytes) : Option GoosePdu := do
  let top ← berList 4 pdu
  let body ← berGet top 0x61
  let l ← berList 32 body
  let ref ← berGet l 0x80
  let tal ← (berGet l 0x81).bind berNat
  let t ← berGet l 0x84
  let st ← (berGet l 0x85).bind berNat
  let sq ← (berGet l 0x86).bind berNat
  let rev ← (berGet l 0x88).bind berNat
  let data ← berGet l 0xAB
  if top.length ≠ 1 ∨ t.length ≠ 8 then none
  pure
    { ref := ref, tal := tal, t := t, stNum := st, sqNum := sq
      test := ((berGet l 0x87).map (fun v => v.any (· != 0))).getD false, confRev := rev
      ndsCom := ((berGet l 0x89).map (fun v => v.any (· != 0))).getD false, data := data }

end Sys2Proof.Machine
end

