-- ==== Sys2Proof/Machine/Crypto.lean ====
section
/-!
DEFINITION. Machine/Crypto.lean: the algorithms the manual names by their standards: AES (FIPS 197), CMAC (SP 800-38B),
GCM (SP 800-38D), SHA-384 (FIPS 180-4), ECDSA over P-384 (FIPS 186-4) and CRC32C. Their definitions are taken from
those standards (PRESUMED, log entry 9); the manual gives their use: R218, R225, R234, R283, R403, R433.
-/

set_option Elab.async false
namespace Sys2Proof.Machine

open Sys2Proof

/-! ### AES -/

/-- Multiplication by x in GF(2^8) of AES. -/
def xtime (a : Nat) : Nat := let b := a * 2; if b < 256 then b else (b - 256) ^^^ 0x1B

/-- Product in GF(2^8): the eight shifted copies of `a` selected by the bits of `b`. -/
def gf8mul (a b : Nat) : Nat :=
  ((List.range 8).foldl (fun (p : Nat × Nat) k => (if b.testBit k then p.1 ^^^ p.2 else p.1, xtime p.2)) (0, a)).1

/-- The inverse in GF(2^8) is the 254th power; 0 gives 0. -/
def gf8inv (a : Nat) : Nat :=
  let a2 := gf8mul a a
  let a3 := gf8mul a2 a
  let a6 := gf8mul a3 a3
  let a12 := gf8mul a6 a6
  let a15 := gf8mul a12 a3
  let a30 := gf8mul a15 a15
  let a60 := gf8mul a30 a30
  let a120 := gf8mul a60 a60
  let a126 := gf8mul a120 a6
  let a127 := gf8mul a126 a
  gf8mul a127 a127

/-- Rotation of an octet to the left. -/
def rotl8 (a k : Nat) : Nat := (a <<< k ||| a >>> (8 - k)) % 256

/-- The AES substitution box. -/
def sbox (a : Nat) : Nat :=
  let b := gf8inv (a % 256)
  b ^^^ rotl8 b 1 ^^^ rotl8 b 2 ^^^ rotl8 b 3 ^^^ rotl8 b 4 ^^^ 0x63

/-- Its inverse. -/
def invSbox (a : Nat) : Nat :=
  let b := a % 256
  gf8inv (rotl8 b 1 ^^^ rotl8 b 3 ^^^ rotl8 b 6 ^^^ 0x05)

/-- One word of the key schedule from the words before it, newest first. -/
def nextKeyWord (nk i rcon : Nat) (ws : List (List Nat)) : List Nat :=
  let prev := ws.headD [0, 0, 0, 0]
  let back := ws.getD (nk - 1) [0, 0, 0, 0]
  let t :=
    if i % nk = 0 then
      match prev.rotateLeft 1 with
      | x :: xs => (sbox x ^^^ rcon) :: xs.map sbox
      | [] => []
    else if 6 < nk ∧ i % nk = 4 then prev.map sbox
    else prev
  List.zipWith (· ^^^ ·) back t

/-- The key schedule: `n` further words. -/
def expandKey (nk : Nat) : Nat → Nat → Nat → List (List Nat) → List (List Nat)
  | 0, _, _, ws => ws.reverse
  | n + 1, i, rcon, ws =>
    expandKey nk n (i + 1) (if i % nk = 0 then xtime rcon else rcon) (nextKeyWord nk i rcon ws :: ws)

/-- Octets in groups of `k`. -/
def chunks {α : Type} (k : Nat) : Nat → List α → List (List α)
  | 0, _ => []
  | n + 1, l => if l.isEmpty then [] else l.take k :: chunks k n (l.drop k)

/-- The round keys of a 16- or 32-octet key, 16 octets each. -/
def roundKeys (key : Bytes) : List (List Nat) :=
  let nk := key.length / 4
  let ws := expandKey nk (4 * (nk + 7) - nk) nk 1 ((chunks 4 8 (key.map (·.toNat))).reverse)
  (chunks 4 15 ws).map List.flatten

/-- The octet order of ShiftRows on a state in column order. -/
def shiftRows (st : List Nat) : List Nat :=
  (List.range 16).map (fun i => st.getD ((i + 4 * (i % 4)) % 16) 0)

/-- Its inverse. -/
def invShiftRows (st : List Nat) : List Nat :=
  (List.range 16).map (fun i => st.getD ((i + 12 * (i % 4)) % 16) 0)

/-- A column times the circulant matrix whose first row is `m`. -/
def mixColumn (m c : List Nat) : List Nat :=
  (List.range 4).map (fun r =>
    (List.range 4).foldl (fun a k => a ^^^ gf8mul (c.getD k 0) (m.getD ((k + 4 - r) % 4) 0)) 0)

/-- Every column of the state mixed. -/
def mixColumns (m st : List Nat) : List Nat := (chunks 4 4 st).flatMap (mixColumn m)

/-- Octets added. -/
def xorN (a b : List Nat) : List Nat := List.zipWith (· ^^^ ·) a b

/-- The rounds of encryption after the first key. -/
def aesRounds : List (List Nat) → List Nat → List Nat
  | [], st => st
  | [k], st => xorN (shiftRows (st.map sbox)) k
  | k :: ks, st => aesRounds ks (xorN (mixColumns [2, 3, 1, 1] (shiftRows (st.map sbox))) k)

/-- One block encrypted. -/
def aesEncrypt (key block : Bytes) : Bytes :=
  match roundKeys key with
  | [] => block
  | k :: ks => (aesRounds ks (xorN ((slice block 0 16).map (·.toNat)) k)).map (BitVec.ofNat 8)

/-- The rounds of decryption, keys last first. -/
def aesInvRounds : List (List Nat) → List Nat → List Nat
  | [], st => st
  | [k], st => xorN ((invShiftRows st).map invSbox) k
  | k :: ks, st => aesInvRounds ks (mixColumns [14, 11, 13, 9] (xorN ((invShiftRows st).map invSbox) k))

/-- One block decrypted. -/
def aesDecrypt (key block : Bytes) : Bytes :=
  match (roundKeys key).reverse with
  | [] => block
  | k :: ks => (aesInvRounds ks (xorN ((slice block 0 16).map (·.toNat)) k)).map (BitVec.ofNat 8)

/-- Octets added. -/
def xorBytes (a b : Bytes) : Bytes := List.zipWith (· ^^^ ·) a b

/-! ### CMAC and key derivation (R218) -/

/-- Doubling in GF(2^128) as CMAC counts it. -/
def cmacDouble (a : Nat) : Nat :=
  let b := a * 2
  if b < 2 ^ 128 then b else (b - 2 ^ 128) ^^^ 0x87

/-- CBC chaining over whole blocks. -/
def cbcMac (key : Bytes) : List Bytes → Bytes → Bytes
  | [], st => st
  | b :: bs, st => cbcMac key bs (aesEncrypt key (xorBytes st b))

/-- CMAC of a message. -/
def aesCmac (key msg : Bytes) : Bytes :=
  let l := beNat (aesEncrypt key (zeros 16))
  let k1 := cmacDouble l
  let n := if msg.isEmpty then 1 else ceilDiv msg.length 16
  let last := msg.drop ((n - 1) * 16)
  let tail :=
    if last.length = 16 then xorBytes last (beBytes 16 k1)
    else xorBytes (slice (last ++ [0x80]) 0 16) (beBytes 16 (cmacDouble k1))
  cbcMac key (chunks 16 n (msg.take ((n - 1) * 16)) ++ [tail]) (zeros 16)

/-- "RAICAKDF" in ASCII. -/
def kdfName : Bytes := [0x52, 0x41, 0x49, 0x43, 0x41, 0x4B, 0x44, 0x46]

/-- R218: the key of 128 or 256 bits that a 256-bit key and a label give. -/
def deriveKey (ki label : Bytes) (k256 : Bool) : Bytes :=
  let bitsOut := if k256 then 256 else 128
  let t (i : Nat) : Bytes := aesCmac ki (beBytes 4 i ++ kdfName ++ [0] ++ slice label 0 32 ++ beBytes 4 bitsOut)
  if k256 then t 1 ++ t 2 else t 1

/-- R218: the key check value of a 256-bit key. The label has K256 clear, so L is 128 (log entry 138). -/
def keyKcv (k : Bytes) : Nat := leNat ((deriveKey k ([8] ++ zeros 31) false).take 3)

/-! ### GCM -/

/-- Product in GF(2^128) of GCM, bit 0 of a block being its most significant bit. -/
def gf128mul (x y : Nat) : Nat :=
  ((List.range 128).foldl (fun (p : Nat × Nat) k =>
    (if x.testBit (127 - k) then p.1 ^^^ p.2 else p.1,
      if p.2 % 2 = 1 then (p.2 / 2) ^^^ (0xE1 * 2 ^ 120) else p.2 / 2)) (0, y)).1

/-- GHASH over blocks. -/
def ghash (h : Nat) (bs : List Bytes) : Nat := bs.foldl (fun a b => gf128mul (a ^^^ beNat b) h) 0

/-- A string padded with zeros to whole blocks. -/
def padBlocks (b : Bytes) : List Bytes := chunks 16 (ceilDiv b.length 16) (b ++ zeros (ceilDiv b.length 16 * 16 - b.length))

/-- Counter mode from counter block `j` on. -/
def gctr (key : Bytes) : Nat → List Bytes → Bytes
  | _, [] => []
  | j, b :: bs =>
    xorBytes b (aesEncrypt key (beBytes 16 j)) ++ gctr key (j / 2 ^ 32 * 2 ^ 32 + (j + 1) % 2 ^ 32) bs

/-- The first counter block of a 12-octet IV. -/
def gcmJ0 (iv : Bytes) : Nat := beNat (slice iv 0 12) * 2 ^ 32 + 1

/-- The tag over associated data and ciphertext. -/
def gcmTag (key iv aad ct : Bytes) : Bytes :=
  let h := beNat (aesEncrypt key (zeros 16))
  let s := ghash h (padBlocks aad ++ padBlocks ct ++ [beBytes 8 (aad.length * 8) ++ beBytes 8 (ct.length * 8)])
  xorBytes (beBytes 16 s) (aesEncrypt key (beBytes 16 (gcmJ0 iv)))

/-- Encryption or decryption of the confidential part. -/
def gcmCrypt (key iv data : Bytes) : Bytes :=
  (gctr key (gcmJ0 iv + 1) (chunks 16 (ceilDiv data.length 16) data))

/-- Authenticated encryption: ciphertext and tag. -/
def gcmSeal (key iv aad pt : Bytes) : Bytes × Bytes :=
  let ct := gcmCrypt key iv pt
  (ct, gcmTag key iv aad ct)

/-- Authenticated decryption, or nothing where the tag fails. -/
def gcmOpen (key iv aad ct tag : Bytes) : Option Bytes :=
  if (gcmTag key iv aad ct).take tag.length = tag then some (gcmCrypt key iv ct) else none

/-! ### SHA-384 -/

/-- The integer part of the square root of `n`, bit by bit from bit `k`. -/
def sqrtBits (n : Nat) : Nat → Nat → Nat
  | 0, a => if (a + 1) * (a + 1) ≤ n then a + 1 else a
  | k + 1, a => sqrtBits n k (if (a + 2 ^ (k + 1)) * (a + 2 ^ (k + 1)) ≤ n then a + 2 ^ (k + 1) else a)

/-- The integer part of the cube root. -/
def cbrtBits (n : Nat) : Nat → Nat → Nat
  | 0, a => if (a + 1) * (a + 1) * (a + 1) ≤ n then a + 1 else a
  | k + 1, a =>
    let b := a + 2 ^ (k + 1)
    cbrtBits n k (if b * b * b ≤ n then b else a)

/-- Whether `n` is prime. -/
def isPrime (n : Nat) : Bool := decide (2 ≤ n) && (List.range n).all (fun d => decide (d < 2) || n % d != 0)

/-- The first 80 primes. -/
def primes80 : List Nat := (List.range 410).filter isPrime

/-- The round constants: 64 bits of the fractions of cube roots of the first 80 primes. -/
def shaK : List Nat := primes80.map (fun p => cbrtBits (p * 2 ^ 192) 67 0 % 2 ^ 64)

/-- The initial values: 64 bits of the fractions of square roots of the 9th to 16th primes. -/
def shaH384 : List Nat := ((primes80.drop 8).take 8).map (fun p => sqrtBits (p * 2 ^ 128) 67 0 % 2 ^ 64)

/-- Rotation of 64 bits to the right. -/
def ror64 (x k : Nat) : Nat := (x >>> k ||| x <<< (64 - k)) % 2 ^ 64

/-- The message schedule, newest word first, `n` words more. -/
def shaExpand : Nat → List Nat → List Nat
  | 0, ws => ws
  | n + 1, ws =>
    let w2 := ws.getD 1 0
    let w7 := ws.getD 6 0
    let w15 := ws.getD 14 0
    let w16 := ws.getD 15 0
    let s0 := ror64 w15 1 ^^^ ror64 w15 8 ^^^ w15 >>> 7
    let s1 := ror64 w2 19 ^^^ ror64 w2 61 ^^^ w2 >>> 6
    shaExpand n ((w16 + s0 + w7 + s1) % 2 ^ 64 :: ws)

/-- One round on the eight working words. -/
def shaRound (st : List Nat) (kw : Nat × Nat) : List Nat :=
  match st with
  | [a, b, c, d, e, f, g, h] =>
    let s1 := ror64 e 14 ^^^ ror64 e 18 ^^^ ror64 e 41
    let ch := (e &&& f) ^^^ ((2 ^ 64 - 1 - e) &&& g)
    let t1 := h + s1 + ch + kw.1 + kw.2
    let s0 := ror64 a 28 ^^^ ror64 a 34 ^^^ ror64 a 39
    let maj := (a &&& b) ^^^ (a &&& c) ^^^ (b &&& c)
    [(t1 + s0 + maj) % 2 ^ 64, a, b, c, (d + t1) % 2 ^ 64, e, f, g]
  | st => st

/-- One block of 128 octets. -/
def shaBlock (ks h : List Nat) (b : Bytes) : List Nat :=
  let ws := (shaExpand 64 ((chunks 8 16 b).map beNat).reverse).reverse
  List.zipWith (fun x y => (x + y) % 2 ^ 64) h ((ks.zip ws).foldl shaRound h)

/-- SHA-384 of a message. -/
def sha384 (m : Bytes) : Bytes :=
  let p := m ++ [0x80]
  let pad := (240 - p.length % 128) % 128
  let full := p ++ zeros pad ++ beBytes 16 (m.length * 8)
  let ks := shaK
  let h := (chunks 128 (full.length / 128) full).foldl (shaBlock ks) shaH384
  (h.take 6).flatMap (beBytes 8)

/-! ### ECDSA over P-384 -/

/-- The field prime of P-384. -/
def p384p : Nat := 2 ^ 384 - 2 ^ 128 - 2 ^ 96 + 2 ^ 32 - 1
/-- The order of its base point. -/
def p384n : Nat := 0xFFFFFFFFFFFFFFFFFFFFFFFFFFFFFFFFFFFFFFFFFFFFFFFFC7634D81F4372DDF581A0DB248B0A77AECEC196ACCC52973
/-- The coefficient b of its curve. -/
def p384b : Nat := 0xB3312FA7E23EE7E4988E056BE3F82D19181D9C6EFE8141120314088F5013875AC656398D8A2ED19D2A85C8EDD3EC2AEF
/-- The base point. -/
def p384g : Nat × Nat :=
  (0xAA87CA22BE8B05378EB1C71EF320AD746E1D3B628BA79B9859F741E082542A385502F25DBF55296C3A545E3872760AB7,
    0x3617DE4A96262C6F5D9E98BF9292DC29F8F41DBD289A147CE9DA3113B5F0B8C00A60B1CE1D7E819D7A431D7C90EA0E5F)

/-- Powers by repeated squaring, exponent bits from the least significant. -/
def powModAcc (m : Nat) : Nat → Nat → Nat → Nat → Nat
  | 0, _, _, acc => acc
  | k + 1, b, e, acc => powModAcc m k (b * b % m) (e / 2) (if e % 2 = 1 then acc * b % m else acc)

/-- The inverse modulo a prime below 2^384. -/
def invMod (m a : Nat) : Nat := powModAcc m 384 (a % m) (m - 2) 1

/-- Addition on the curve; none is the point at infinity. -/
def ecAdd (a b : Option (Nat × Nat)) : Option (Nat × Nat) :=
  match a, b with
  | none, q => q
  | q, none => q
  | some (x1, y1), some (x2, y2) =>
    let p := p384p
    if x1 = x2 ∧ (y1 + y2) % p = 0 then none
    else
      let l := if x1 = x2 then (3 * x1 * x1 + p - 3) * invMod p (2 * y1) % p
        else (y2 + p - y1) * invMod p (x2 + p - x1) % p
      let x3 := (l * l + 2 * p - x1 - x2) % p
      some (x3, (l * (x1 + p - x3) + p - y1) % p)

/-- A multiple of a point, bits from the least significant. -/
def ecMul : Nat → Nat → Option (Nat × Nat) → Option (Nat × Nat) → Option (Nat × Nat)
  | 0, _, _, acc => acc
  | k + 1, e, q, acc => ecMul k (e / 2) (ecAdd q q) (if e % 2 = 1 then ecAdd acc q else acc)

/-- ECDSA P-384 verification: an uncompressed public key of 97 octets, a message, and r then s of 48 octets each. -/
def ecdsaVerify (key msg sig : Bytes) : Bool :=
  let p := p384p
  let n := p384n
  let x := beAt key 1 48
  let y := beAt key 49 48
  let r := beAt sig 0 48
  let t := beAt sig 48 48
  let onCurve := byteAt key 0 == 4 && decide (x < p) && decide (y < p) &&
    y * y % p == (x * x * x + (p - 3) * x + p384b) % p
  if !onCurve || r == 0 || t == 0 || decide (n ≤ r) || decide (n ≤ t) then false
  else
    let w := invMod n t
    let u1 := beNat (sha384 msg) * w % n
    let u2 := r * w % n
    match ecAdd (ecMul 384 u1 (some p384g) none) (ecMul 384 u2 (some (x, y)) none) with
    | some (x1, _) => x1 % n == r
    | none => false

/-! ### CRC32C (R283) -/

/-- One octet taken into the reflected CRC register. -/
def crc32cByte (c : Nat) (b : Byte) : Nat :=
  (List.range 8).foldl (fun c _ => if c % 2 = 1 then (c / 2) ^^^ 0x82F63B78 else c / 2) (c ^^^ b.toNat)

/-- The register after a string. -/
def crc32cFold (c : Nat) (bs : Bytes) : Nat := bs.foldl crc32cByte c

/-- CRC32C of a string, as its four octets stand in a PDU. -/
def crc32c (bs : Bytes) : Bytes := leBytes 4 (crc32cFold 0xFFFFFFFF bs ^^^ 0xFFFFFFFF)

end Sys2Proof.Machine
end

