-- ==== Sys2Proof/Machine/Flags.lean ====
section
/-!
DEFINITION. Machine/Flags.lean: the checks and results a frame carries: Internet checksums, their receive codes
(Table 8-7), and the VLAN operations of Table 8-3.
-/

set_option Elab.async false
namespace Sys2Proof.Machine

open Sys2Proof

/-- The sum of 16-bit words of a string, padded with a zero octet. -/
def sum16 : Bytes → Nat
  | [] => 0
  | [a] => a.toNat * 256
  | a :: b :: bs => a.toNat * 256 + b.toNat + sum16 bs

/-- Carries folded into 16 bits. -/
def fold16 (n : Nat) : Nat :=
  let n := n % 65536 + n / 65536
  let n := n % 65536 + n / 65536
  n % 65536 + n / 65536

/-- The Internet checksum of octets whose sum is `n`. -/
def csum16 (n : Nat) : Nat := 65535 - fold16 n

/-- The sum of the pseudo-header of an IP header for a payload of `len` octets. -/
def pseudoSum (ip : IpHdr) (proto len : Nat) : Nat := sum16 ip.src + sum16 ip.dst + proto + len % 65536 + len / 65536

/-- Offset of the checksum field in a TCP or UDP header. -/
def csumOff (proto : Nat) : Nat := if proto = 6 then 16 else 6

/-- Codes of Table 8-7 for a frame's IPv4 header and its transport header; `tunnelOuter` when the transport header is
that of a recognised tunnel. -/
def csumCodes (p : Parsed) (b : Bytes) (tunnelOuter : Bool) : Nat × Nat :=
  let ip :=
    match p.ip with
    | some h => if h.v6 then 0 else if fold16 (sum16 (slice b h.off (h.fin - h.off))) = 65535 then 1 else 2
    | none => if p.ipDeep ∧ p.etype = etIpv4 then 3 else 0
  let l4 :=
    match p.ip with
    | none => if p.ipDeep then 3 else 0
    | some h =>
      if h.proto = 6 ∨ h.proto = 17 ∨ h.proto = 132 then
        if h.frag ∨ h.proto = 132 ∨ p.l4Deep then 3
        else
          match p.l4 with
          | none => 0
          | some t =>
            if t.proto = 17 ∧ beAt b (t.off + 6) 2 = 0 then (if !h.v6 ∨ tunnelOuter then 0 else 2)
            else if b.length < t.off + h.plen then 2
            else if fold16 (pseudoSum h t.proto h.plen + sum16 (slice b t.off h.plen)) = 65535 then 1 else 2
      else 0
  (ip, l4)

/-- Two octets written in network order. -/
def put16 (b : Bytes) (off v : Nat) : Bytes := overlay b off (beBytes 2 v)

/-- The IPv4 header checksum of the header at `off` written (R203). -/
def fixIpCsum (b : Bytes) (h : IpHdr) : Bytes :=
  let z := put16 b (h.off + 10) 0
  put16 z (h.off + 10) (csum16 (sum16 (slice z h.off (h.fin - h.off))))

/-- The TCP or UDP checksum written; a UDP checksum of zero is written as 0xFFFF (R203). -/
def fixL4Csum (b : Bytes) (h : IpHdr) (t : L4Hdr) : Bytes :=
  let o := t.off + csumOff t.proto
  let z := put16 b o 0
  let c := csum16 (pseudoSum h t.proto h.plen + sum16 (slice z t.off h.plen))
  put16 z o (if t.proto = 17 ∧ c = 0 then 0xFFFF else c)

/-- R203, R204: the checksums a host frame's descriptor requests; the flag says that one was not inserted. -/
def insertCsums (b : Bytes) (ipReq l4Req : Bool) : Bytes × Bool :=
  let p := parse b
  let (b1, skip1) :=
    if !ipReq then (b, false)
    else
      match p.ip with
      | some h => if h.v6 ∨ h.frag then (b, true) else (fixIpCsum b h, false)
      | none => (b, true)
  let (b2, skip2) :=
    if !l4Req then (b1, false)
    else
      match p.ip, p.l4 with
      | some h, some t => if h.frag ∨ t.proto = 132 then (b1, true) else (fixL4Csum b1 h t, false)
      | _, _ => (b1, true)
  (b2, skip1 || skip2)

/-! ### VLAN operations (Table 8-3) -/

/-- A tag put in after the addresses. -/
def pushTag (b : Bytes) (tpid tci : Nat) : Bytes := b.take 12 ++ beBytes 2 tpid ++ beBytes 2 tci ++ b.drop 12

/-- The outermost tag taken off. -/
def popTag (b : Bytes) : Bytes := b.take 12 ++ b.drop 16

/-- Table 8-3; none where the operation drops the frame. -/
def vlanOp (op tciA tciB : Nat) (b : Bytes) : Option Bytes :=
  let n := (vlanTags b).length
  if op = 1 ∨ (op = 5 ∧ n = 0) then
    if n = 0 then some (pushTag b 0x8100 tciA) else if n = 1 then some (pushTag b 0x88A8 tciA) else none
  else if op = 2 then if n = 0 then some (pushTag (pushTag b 0x8100 tciB) 0x88A8 tciA) else none
  else if op = 3 then if n = 0 then some b else some (popTag b)
  else if op = 4 then if n = 0 then some b else if n = 1 then some (popTag b) else some (popTag (popTag b))
  else if op = 5 then some (put16 b 14 tciA)
  else some b

/-- The outer VLAN tag's DEI set, where there is a tag (R260). -/
def setDei (b : Bytes) : Bytes :=
  if (vlanTags b).isEmpty then b else put16 b 14 (beAt b 14 2 ||| 0x1000)

end Sys2Proof.Machine
end

