-- ==== Sys2Proof/Machine/StateHost.lean ====
section
/-!
DEFINITION. Machine/StateHost.lean: the state of the host endpoint (chapter 12), of power and memory (17),
of bring-up (18), of the error logs (19), of the module's lands (20) and of the GLOBAL and EVT blocks (21).
-/

set_option Elab.async false
namespace Sys2Proof.Machine

open Sys2Proof

/-- The PCI Express errors of Table 12-10. -/
inductive AerError where
  | receiverError | badTlp | badDllp | replayTimeout | replayRollover | correctedInternal
  | unsupportedRequest | completerAbort | poisonedTlp | completionTimeout | unexpectedCompletion
  | malformedTlp | receiverOverflow | flowControl | dataLink | surpriseDown | uncorrectableInternal
  deriving DecidableEq, Repr

/-- The output lands whose level an event of this model drives (Table 20-1). -/
inductive Land where
  | ppsOut | wakeN | smbAlertN | clkreqN | led (n : Nat) | modPin (p : Port) (k : Nat)
  deriving DecidableEq, Repr

/-- What the adapter does that its surroundings can see, in the order in which it does it (R306). -/
inductive Output where
  /-- A posted write: function, PASID if any, address, octets. -/
  | write (fn : Fn) (pasid : Option Nat) (addr : Nat) (b : Bytes)
  /-- An MSI-X message of a vector; vectors from 64 up are instance vectors, 64 + i × 4 + v. -/
  | msi (fn : Fn) (vec : Nat) (addr : Nat) (data : W32)
  /-- A non-posted read request. -/
  | readReq (fn : Fn) (pasid : Option Nat) (addr len tag : Nat)
  /-- A translation request for a page (R311). -/
  | atsReq (pasid : Option Nat) (page tag : Nat)
  /-- The completion of a request made to the adapter. -/
  | cpl (status : CplStatus) (b : Bytes)
  /-- A PCI Express message: PME_TO_Ack or an invalidation completion. -/
  | pmeToAck
  | invalidateDone (page : Nat)
  /-- A frame whose last bit leaves a port; `badFcs` when its FCS is deliberately bad. -/
  | frame (port : Port) (b : Bytes) (badFcs : Bool)
  /-- An IEEE 802.3br verify or respond frame. -/
  | mPacket (port : Port) (respond : Bool)
  /-- A level or pulse on a land. -/
  | land (l : Land) (level : Bool)
  /-- The answer to an SMBus transaction; none when it is not acknowledged. -/
  | smbus (b : Option Bytes)
  /-- A two-wire transaction with an optical module (R59). -/
  | twoWire (port : Port) (dev reg len : Nat) (wr : Option Bytes)
  deriving DecidableEq, Repr

/-- PCI configuration space of one function (R290 to R292, R302, R308, R311); defaults as PCI Express gives them
(log entry 7). -/
structure CfgSpace where
  memEn    : Bool := false
  bme      : Bool := false
  bar0     : W64 := 0
  bar2     : W64 := 0
  bar4     : W64 := 0
  intLine  : Byte := 0
  cacheLine : Byte := 0
  pmState  : Nat := 0
  mps      : Nat := 0
  mrrs     : Nat := 2
  errEn    : Nat := 0
  extTag   : Bool := false
  tenBit   : Bool := false
  cto      : Nat := 0
  msixEn   : Bool := false
  msixMask : Bool := false
  pasidEn  : Bool := false
  atsEn    : Bool := false
  errs     : List AerError := []
  firstErr : Option AerError := none
  fatal    : List AerError := [.malformedTlp, .receiverOverflow, .flowControl, .dataLink, .surpriseDown, .uncorrectableInternal]
  /-- Advisory Non-Fatal Error Status. -/
  advisory : Bool := false
  uncMask  : W32 := 0x400000
  corMask  : W32 := 0x6000
  /-- Headers that the header log has recorded; it shows the last (R314). -/
  hdrSeq   : Nat := 0
  linkCtl  : BitVec 16 := 0
  linkCtl2 : BitVec 16 := 5
  deriving DecidableEq, Repr

/-- One entry of an MSI-X table or of the instance vector table, with its pending bit (R308). -/
structure MsixEntry where
  addr    : W64 := 0
  data    : W32 := 0
  masked  : Bool := true
  pending : Bool := false
  deriving DecidableEq, Repr

/-- The unit a tag's request serves (Table 12-8). -/
inductive Purpose where
  | descriptors (ring idx n : Nat)
  | cmdEntry (ring idx : Nat)
  | translation (page : Nat) (pasid : Option Nat)
  /-- A translation whose page was invalidated while it was outstanding (R311). -/
  | stale
  /-- A descriptor read of an instance that INST_RESET or INST_DESTROY has ended (R335). -/
  | ended (inst : Nat)
  deriving DecidableEq, Repr

/-- A tag of the pool of 1,024 that is not free (R301, R304). -/
inductive TagState where
  | outstanding (fn : Fn) (what : Purpose) (since addr len : Nat) (got : Bytes)
  | quarantined (until_ : Nat)
  deriving DecidableEq, Repr

/-- The four registers of a peer window (R297). -/
structure Win where
  base     : Nat := 0
  size     : Nat := 0
  target   : Nat := 0
  enable   : Bool := false
  read     : Bool := false
  write    : Bool := false
  ridCheck : Bool := false
  rid      : Nat := 0
  deriving DecidableEq, Repr

/-- One cached translation (R311). -/
structure Xlat where
  page   : Nat
  pasid  : Option Nat
  phys   : Nat
  deriving DecidableEq, Repr

/-- The host endpoint in D2 (chapter 12). -/
structure HostSide where
  /-- PERST_N is deasserted. -/
  perstHigh : Bool := false
  /-- The link has trained. -/
  linkUp    : Bool := false
  linkSince : Nat := 0
  /-- The endpoint completes configuration requests normally (R293). -/
  ready     : Bool := false
  perstAt   : Nat := 0
  cfg0      : CfgSpace := {}
  cfg1      : CfgSpace := {}
  msix0     : KMap MsixEntry := []
  msix1     : KMap MsixEntry := []
  instVec   : KMap MsixEntry := []
  tags      : KMap TagState := []
  /-- Octets that requests of a read in several parts have brought, with their address, while others are outstanding (R292). -/
  parts     : List (Purpose × Nat × Bytes) := []
  stagedWin : KMap Win := []
  activeWin : KMap Win := []
  /-- The CHANGING window and the values its commit took (R299). -/
  changing  : Option (Nat × Win) := none
  heldPeer  : List PeerReq := []
  /-- The hold of R299 is full: no credit is given until it empties. -/
  holdFull  : Bool := false
  winReject : Nat := 0
  winLast   : Nat := 0
  winSel    : Nat := 0
  winCnt    : Cnts := Cnts.zero 6
  xlats     : List Xlat := []
  /-- Posted writes and messages that wait for Bus Master Enable (R305). -/
  waiting   : List Output := []
  deriving DecidableEq, Repr

/-- Retention state of one bank (R419, R420). -/
structure SealBank where
  w0      : W32 := 0
  w1      : W32 := 0
  armed   : Bool := false
  tripped : Bool := false
  deriving DecidableEq, Repr

/-- Where a domain stands between Run and Stop (Table 17-4). -/
inductive DomState where
  /-- Logic supply off. -/
  | stop
  | run
  /-- Steps 1 and 2 of Table 17-4: inputs isolated, draining. -/
  | draining
  deriving DecidableEq, Repr

/-- The last reported wake (Table 17-7). -/
structure WakeReport where
  seq    : W32 := 0
  lostA  : Nat := 0
  cause  : Nat := 0
  lostCls : Nat := 0
  woken  : Nat := 0
  droop  : Nat := 0
  runUs  : Nat := 0
  deriving DecidableEq, Repr

/-- A scrub pass (R413). -/
structure ScrubPass where
  running  : Bool := false
  wake     : Bool := false
  banks    : List Nat := []
  ce       : Nat := 0
  ue       : Nat := 0
  /-- The pass that follows the last reported wake has ended. -/
  done     : Bool := true
  deriving DecidableEq, Repr

/-- Power, votes and wake in D0 (chapter 17, PWR block of chapter 21). -/
structure Power where
  vin12    : Bool := false
  vaux33   : Bool := false
  /-- Domains 0 to 13. -/
  dom      : List DomState := List.replicate 14 .stop
  /-- The domain has been in Run since D0 entered Run (R420). -/
  hasRun   : List Bool := List.replicate 14 false
  /-- The domain's last Stop entry recorded its seals. -/
  recorded : List Bool := List.replicate 14 false
  votes    : List Byte := List.replicate 14 1
  stopCount : Cnts := Cnts.zero 14
  banks    : KMap SealBank := []
  wakeTarget : List Nat := [0, 0, 2, 2, 0, 12]
  wakeCause  : Nat := 0
  wakeN    : Bool := false
  /-- CLKREQ_N is held low (R468). -/
  clkreqLow : Bool := false
  l2       : Bool := false
  /-- Wake in progress: when its source fired, the domains it names, those started, the banks lost. -/
  wakeAt   : Nat := 0
  wakeSet  : Nat := 0
  woken    : Nat := 0
  lostA    : Nat := 0
  lostCls  : Nat := 0
  droop    : Nat := 0
  wakeBanks : Bool := false
  report   : WakeReport := {}
  scrub    : ScrubPass := {}
  /-- When ports C and D last both lost signal while the LINK vote on D1 stood (R414). -/
  signalLostAt : Option Nat := none
  deriving DecidableEq, Repr

/-- An entry of MEM_UE_LOG (chapter 17). -/
structure UeEntry where
  addr   : Nat
  memory : Nat
  bank   : Nat
  scrub  : Bool
  ns     : Nat
  deriving DecidableEq, Repr

/-- The memory system's registers (R425). -/
structure MemSys where
  hashMask   : List Nat := [0x4104, 0x8208, 0x10410, 0x20820, 0x41040, 0x82080]
  hashLocked : Bool := false
  hashReject : Bool := false
  panicEgress : Nat := 2048
  panicRec   : Nat := 3072
  qdrBudget  : Nat := 100
  patrol     : Bool := false
  dramMbps   : Nat := 2000
  /-- Real-time clients that raise panic: 0 to 5 egress readers of Table 10-1, 6 the recorder writer (R410). -/
  panic      : List Nat := []
  refreshPostponed : Nat := 0
  cnt        : Cnts := Cnts.zero 12
  ueNext     : W32 := 0
  ueLog      : KMap UeEntry := []
  /-- Words that hold an error: memory, address, mask of the data bits inverted, bits 0 and 1 (R406, R461). -/
  errors     : List (Nat × Nat × Nat) := []
  deriving DecidableEq, Repr

/-- PHASE of BINNACLE_STATE (chapter 18). -/
inductive Phase where
  | reset | selfTest | awaitImage | loading | helmStarting | running | helmHalted | failed
  deriving DecidableEq, Repr

/-- Code of a phase. -/
def Phase.code : Phase → Nat
  | .reset => 0
  | .selfTest => 1
  | .awaitImage => 2
  | .loading => 3
  | .helmStarting => 4
  | .running => 5
  | .helmHalted => 6
  | .failed => 7

/-- Bring-up and hove-to state held by Binnacle in D3, and the GLOBAL block (chapters 18 and 21). -/
structure Boot where
  phase     : Phase := .selfTest
  reason    : Nat := 0
  /-- HOVE_CAUSES bits: HELM, HOST_LOST, FATAL, COMMAND (Table 18-7). -/
  causes    : Nat := 1
  clockPll  : Bool := false
  selftest  : Nat := 0
  meas      : List Bytes := List.replicate 8 (zeros 48)
  validLoads : Nat := 0
  /-- The Helm image region holds a copy that REUSE can use. -/
  imageValid : Bool := false
  /-- A load in progress: REUSE or not, the address and the length sampled at GO. -/
  loading   : Option (Bool × Nat × Nat) := none
  runVersion : W32 := 0
  bootReject : Bool := false
  imageAddr : W64 := 0
  imageLen  : Nat := 0
  hoveCount : W32 := 0
  /-- When thread 0 of a starting Helm was started (R437). -/
  helmStart : Nat := 0
  becalmPolicy : Nat := 1
  becalmWindow : Nat := 10
  hostLostGrace : Nat := 100
  hostResume : Bool := false
  /-- PLLs that have lost lock and not locked again: bit 0 the system PLL, bit 1 a memory PLL. -/
  pllLost : Nat := 0
  deriving DecidableEq, Repr

/-- One violation record before it is laid out (Table 19-3). -/
structure ViolRec where
  ns     : Nat
  sec    : Nat
  kind   : Nat
  srcType : Nat
  srcId  : Nat
  detail : Nat
  addr   : Nat
  seq    : Nat
  deriving DecidableEq, Repr

/-- One entry of the host error log, as its four words (R454). -/
structure HostErr where
  w0 : W32
  w1 : W32
  w2 : W32
  w3 : W32
  deriving DecidableEq, Repr

/-- The ten ledgers' audit in progress (R457, R458). -/
structure Audit where
  cmdRing   : Nat
  cmdIdx    : Nat
  ledgers   : Nat
  pictures  : Nat
  taken     : Nat
  /-- Ledgers whose domain left or entered Run. -/
  dropped   : Nat
  reportBase : Nat
  reportEntries : Nat
  /-- Per object and picture: (ledger, index, total, components), pictures in order taken. -/
  seen      : List (List (Nat × Nat × Nat × List Nat))
  lastAt    : Nat
  deriving DecidableEq, Repr

/-- The ERR block and what feeds it (chapter 19). -/
structure Err where
  summary   : Nat := 0
  viol0     : KMap ViolRec := []
  violNext0 : Nat := 0
  viol1     : KMap ViolRec := []
  violNext1 : Nat := 0
  hostLog   : KMap HostErr := []
  hostNext  : W32 := 0
  hostCnt   : Cnts := Cnts.zero 8
  stopped   : W32 := 0
  auditSeq  : Nat := 0
  ready     : Bool := false
  persistent : Nat := 0
  persistCnt : Nat := 0
  transientCnt : Nat := 0
  audit     : Option Audit := none
  /-- Loopback of ports A and B: 0 off, 1 MAC, 2 PCS (R460). -/
  loopA     : Nat := 0
  loopB     : Nat := 0
  /-- The next host read of PF 0 is to be timed out (R461). -/
  injectTimeout : Bool := false
  deriving DecidableEq, Repr

/-- The manager event path (R482). -/
structure Evt where
  cause   : Nat := 0
  enable  : Nat := 0
  helm    : Nat := 0
  cnt     : Cnts := Cnts.zero 23
  deriving DecidableEq, Repr

/-- What the board presents to the module's health interface (chapter 20); the temperature is an input (log entry 5). -/
structure Module where
  /-- Die temperature in 1/256 °C, two's complement. -/
  dieTemp   : BitVec 16 := 0
  alertAsserted : Bool := false
  /-- The host has read the Alert Response Address since SMB_ALERT_N was asserted. -/
  alertRead : Bool := false
  deriving DecidableEq, Repr

end Sys2Proof.Machine
end

