-- ==== Sys2Proof/Machine/StateInst.lean ====
section
/-!
DEFINITION. Machine/StateInst.lean: instances and rings (chapter 13), Dechan commands, the command log and the
mailboxes (14), and migration (15).
-/

set_option Elab.async false
namespace Sys2Proof.Machine

open Sys2Proof

/-- INST_STATE (R350). -/
inductive InstState where
  | absent | configured | active | quiescing | frozen | faulted
  deriving DecidableEq, Repr

/-- Code of an instance state. -/
def InstState.code : InstState → Nat
  | .absent => 0
  | .configured => 1
  | .active => 2
  | .quiescing => 3
  | .frozen => 4
  | .faulted => 5

/-- Ring states (Table 14-9). -/
inductive RingState where
  | disabled | enabled | draining | stopped | error
  deriving DecidableEq, Repr

/-- Code of a ring state. -/
def RingState.code : RingState → Nat
  | .disabled => 0
  | .enabled => 1
  | .draining => 2
  | .stopped => 3
  | .error => 4

/-- A fetched descriptor that has not completed (R321, R328). -/
structure Desc where
  idx     : BitVec 16
  body    : Bytes
  /-- IN_PLACE was in force when it was fetched (R331). -/
  inPlace : Bool
  /-- Its frame data has been taken or its buffer has begun to be written. -/
  started : Bool := false
  /-- Frames it produced, frames that have not yet ended, frames that left, octets they held. -/
  produced : Nat := 0
  left    : Nat := 0
  /-- Numbers of its frames that have left a port, been delivered or re-entered the pipeline. -/
  sentSegs : List Nat := []
  sent    : Nat := 0
  /-- First failure among its frames: status, detail. -/
  failure : Option (Nat × Nat) := none
  /-- Completion flags gathered so far, and the stamp of the first frame (R325). -/
  flags   : Nat := 0
  stamp   : Option (Nat × Nat) := none
  deriving DecidableEq, Repr

/-- A completion that waits: for its turn in place, or for room in q14 (R330, R332). -/
structure Waiting where
  ring : Nat
  idx  : BitVec 16
  body : Bytes
  deriving DecidableEq, Repr

/-- A frame that waits in packet cells for receive descriptors (R26, R326), or is on its way to a ring. -/
structure RxFrame where
  body     : Bytes
  /-- Source code of Table 13-9, and the sending instance or 0xFFFF. -/
  src      : Nat
  srcInst  : Nat
  stamp    : Option (Nat × Nat)
  csum     : Nat
  flags    : Nat
  placed   : Nat
  handle   : Nat
  /-- Exception reason and DEST code, for manager ring 12. -/
  excReason : Nat
  excDest  : Nat
  /-- Packet cells it holds: count and whether they are DRAM cells (R412). -/
  cells    : Nat
  dramCells : Bool
  /-- Share number of cells that copies share (R197), or 0. -/
  share    : Nat
  /-- The transmit descriptor that produced it and its segment number (R328). -/
  desc     : Option (Nat × BitVec 16) := none
  seg      : Nat := 0
  deriving DecidableEq, Repr

/-- One ring: of an instance, of the manager, or the secure ring (R318, R330, R334, R335). -/
structure Ring where
  state   : RingState := .disabled
  configured : Bool := false
  log2    : Nat := 6
  base    : Nat := 0
  inPlace : Bool := false
  intEn   : Bool := false
  holdoff : Nat := 0
  count   : Nat := 0
  /-- Host's index: PI, or the consumer index on completion and event rings. -/
  pi      : BitVec 16 := 0
  /-- Next descriptor to fetch; on completion and event rings the adapter's producer index. -/
  fetch   : BitVec 16 := 0
  oldest  : BitVec 16 := 0
  push    : Bytes := zeros 64
  /-- Published descriptors that a doorbell's push count took from `push`, with their indices (R320). -/
  pushed  : List (BitVec 16 × Bytes) := []
  /-- Helm has restarted since the ring was last ENABLED (R331). -/
  retag   : Bool := false
  descs   : List Desc := []
  /-- Indices at or past OLDEST that have completed (R330). -/
  done    : List (BitVec 16) := []
  /-- Completions in place that wait for earlier descriptors (R330); on a completion ring, entries that wait for
  room (R332). -/
  held    : List Waiting := []
  /-- A change of mode whose MODE_MARK has not been written: SWITCH_INDEX, new mode IN_PLACE (R331). -/
  switch  : Option (BitVec 16 × Bool) := none
  /-- Moderation: entries not yet signalled, since when, and the vectors they are signalled on (R334). -/
  modPending : Nat := 0
  modStart   : Nat := 0
  modVecs    : List Nat := []
  /-- PI at the acceptance of QUEUE_DRAIN (R335). -/
  drainPi : BitVec 16 := 0
  frames  : List RxFrame := []
  deriving DecidableEq, Repr

/-- A ring's configuration kept beside an instance: base and LOG2. -/
structure RingCfg where
  base : Nat := 0
  log2 : Nat := 6
  deriving DecidableEq, Repr

/-- A range of the instance bounds table (R336). -/
structure Range where
  base  : Nat
  pages : Nat
  read  : Bool
  write : Bool
  deriving DecidableEq, Repr

/-- An entry of the instance bounds table, written by Binnacle (R336). -/
structure Bounds where
  pasid  : Nat
  ranges : List Range
  deriving DecidableEq, Repr

/-- One instance (chapters 13 and 14). -/
structure Inst where
  state    : InstState := .absent
  flowBase : Nat := 0
  flowCount : Nat := 0
  ctxBase  : Nat := 0
  ctxCount : Nat := 0
  q0       : RingCfg := {}
  q14      : RingCfg := {}
  q15      : RingCfg := {}
  faultLimit : Nat := 0
  /-- Violations of the last 1,000 ms, in ms steps of the model clock (R352). -/
  violTimes : List Nat := []
  violKind : Nat := 0
  violRing : Nat := 0
  violCount : BitVec 16 := 0
  violAddr : W64 := 0
  eventSeq : BitVec 16 := 0
  lost     : Nat := 0
  deriving DecidableEq, Repr

/-- A command accepted and not yet replied to (R343 to R345): where its entry stands, its opcode and its words. -/
structure Accepted where
  ring   : Nat
  idx    : BitVec 16
  opcode : Nat
  cmd    : Cmd
  at_    : Nat
  /-- What its reply waits for: a deadline where the command has one. -/
  deadline : Nat
  /-- It waits for the commands before it and is not carried out yet (R343, R345). -/
  waits  : Bool := false
  deriving DecidableEq, Repr

/-- A command log entry (Table 14-13). -/
structure LogEntry where
  ns : Nat
  sec : Nat
  ring : Nat
  seq : BitVec 16
  opcode : Nat
  inst : Nat
  handle : Nat
  status : Nat
  flags : Nat
  detail : Nat
  logSeq : Nat
  deriving DecidableEq, Repr

/-- A mailbox channel (R361). -/
structure Mbox where
  word    : W32 := 0
  full    : Bool := false
  overrun : Bool := false
  intEn   : Bool := false
  deriving DecidableEq, Repr

/-- Command transport and mailboxes (chapter 14). -/
structure Dechan where
  accepted : List Accepted := []
  /-- Index of the entry that is being carried out, or was last. -/
  cur      : BitVec 16 := 0
  log      : KMap LogEntry := []
  logNext  : Nat := 0
  cnt      : Cnts := Cnts.zero 4
  mbox     : List Mbox := List.replicate 8 {}
  smbox    : List Mbox := List.replicate 4 {}
  internal : List Mbox := List.replicate 4 {}
  /-- A change of BINNACLE_STATE waits for SMBOX 3 to empty (R438). -/
  smboxPost : Bool := false
  /-- SEC_RING_CFG.ENABLE; the secure ring itself is ring 8,224 of the model's ring table. -/
  secEnable : Bool := false
  /-- GLOBAL_MRING0_CFG.ENABLE; manager ring 0 itself is ring 8,192. -/
  mring0Enable : Bool := false
  deriving DecidableEq, Repr

/-- A dirty-page log (R369). -/
structure DirtyLog where
  base  : Nat
  pages : Nat
  marked : List Nat
  lost  : Bool
  deriving DecidableEq, Repr

/-- Migration state (chapter 15). -/
structure Migration where
  dirty    : KMap DirtyLog := []
  restored : List Nat := []
  /-- Transfer key: delivered key and its check value (R374). -/
  transferKey : Option (BitVec 256) := none
  armedUntil  : Option Nat := none
  deriving DecidableEq, Repr

end Sys2Proof.Machine
end

