-- ==== Sys2Proof/Machine/StateTime.lean ====
section
/-!
DEFINITION. Machine/StateTime.lean: the time base, its servo, PTP, PPS and IRIG-B, and the Stop record (chapter 03).
-/

set_option Elab.async false
namespace Sys2Proof.Machine

open Sys2Proof

/-- Time quality (Table 3-6). -/
inductive Quality where
  | unknown | reckoned | holdover | locked
  deriving DecidableEq, Repr

/-- Code of a quality. -/
def Quality.code : Quality → Nat
  | .unknown => 0
  | .reckoned => 1
  | .holdover => 2
  | .locked => 3

/-- Time sources (Table 3-6). -/
inductive Source where
  | none | ptp | ppsIrig | pps | irig | host
  deriving DecidableEq, Repr

/-- Code of a source. -/
def Source.code : Source → Nat
  | .none => 0
  | .ptp => 1
  | .ppsIrig => 2
  | .pps => 3
  | .irig => 4
  | .host => 5

/-- Source of a code; 0 and codes above 5 name none. -/
def Source.ofCode (n : Nat) : Source :=
  if n = 1 then .ptp else if n = 2 then .ppsIrig else if n = 3 then .pps else if n = 4 then .irig
  else if n = 5 then .host else .none

/-- TIME_CONFIG's fields (Table 3-5), with the values in force before the first one (R87). -/
structure TimeCfg where
  role     : Nat := 0
  gmCapable : Bool := false
  oneStep  : Bool := false
  ptpA     : Bool := false
  ptpB     : Bool := false
  ptpRing  : Bool := false
  tcEn     : Bool := false
  domain   : Nat := 0
  priority1 : Nat := 128
  priority2 : Nat := 128
  clockClass : Nat := 0
  logSync  : Int := 0
  logAnnounce : Nat := 0
  logPdelay : Nat := 0
  announceTimeout : Nat := 3
  srcs     : List Source := []
  ppsMode  : Nat := 0
  ppsWidth : Nat := 0
  ppsIn    : Int := 0
  ppsOut   : Int := 0
  taiUtc   : Nat := 0
  holdoverPpb : Nat := 2000
  localOffset : Int := 0
  extAccuracy : Nat := 0
  boundMaxMs : Nat := 1000
  boardDelay : List Nat := [0, 0, 0, 0]
  deriving DecidableEq, Repr

/-- A switch-log entry (Table 3-3). -/
structure SwEntry where
  sec  : Nat
  seq  : Nat
  ns   : Nat
  step : Int
  oldIncr : Nat
  newIncr : Nat
  cause  : Nat
  source : Nat
  quality : Nat
  bound  : Nat
  deriving DecidableEq, Repr

/-- States of a PTP port that this model tells apart. -/
inductive PtpState where
  | disabled | listening | master | passive | slave
  deriving DecidableEq, Repr

/-- What an Announce carries of its grandmaster, in the order the best master clock algorithm compares it. -/
structure Announce where
  priority1 : Nat
  clockClass : Nat
  accuracy  : Nat
  variance  : Nat
  priority2 : Nat
  gm        : Nat
  steps     : Nat
  /-- sourcePortIdentity, 10 octets as a number. -/
  sender    : Nat
  taiUtc    : Option Nat
  deriving DecidableEq, Repr

/-- A two-step Sync that waits at an egress port (R69): sourcePortIdentity, sequenceId, correction, since. -/
structure TcPending where
  sender : Nat
  seq    : Nat
  corr   : Int
  since  : Nat
  deriving DecidableEq, Repr

/-- A PTP port's protocol state (R72). -/
structure PtpPort where
  state     : PtpState := .disabled
  best      : Option Announce := none
  bestAt    : Nat := 0
  syncAt    : Option Nat := none
  /-- A two-step Sync that waits for its Follow_Up: sender, sequenceId, receive time in ns, correction in 2^-16 ns. -/
  pendSync  : Option (Nat × Nat × Nat × Int) := none
  /-- Pdelay exchange in progress: sequenceId, t1 and, once known, t4, t2 and the correction so far; in ns of the time base. -/
  pdSeq     : Nat := 0
  pdT1      : Option Nat := none
  pdResp    : Option (Nat × Nat × Int) := none
  linkDelay : Nat := 0
  syncSeq   : Nat := 0
  annSeq    : Nat := 0
  /-- Two-step Syncs bridged towards this port that wait for their Follow_Up (R72). -/
  pending   : List TcPending := []
  /-- When the port last sent Sync, Announce and Pdelay_Req. -/
  syncTx    : Option Nat := none
  annTx     : Option Nat := none
  pdTx      : Option Nat := none
  deriving DecidableEq, Repr

/-- A PTP message received on a PTP port: port, frame, receive time in ns of the time base. -/
structure PtpRx where
  port  : Port
  frame : Bytes
  ns    : Nat
  deriving DecidableEq, Repr

/-- The Stop record in D0 (R84). -/
structure StopRecord where
  sec  : Nat
  ns   : Nat
  frac : Nat
  quality : Quality
  bound : Nat
  incr  : Nat
  ringTicks : Nat
  aoTicks : Nat
  /-- Period of the always-on oscillator, in ps (R84). -/
  aoPeriodPs : Nat
  d1Cold : Nat
  deriving DecidableEq, Repr

/-- A TIME_SET that waits for a PPS edge (R89). -/
structure PendingSet where
  ring : Nat
  idx  : BitVec 16
  sec  : Nat
  ns   : Nat
  bound : Nat
  since : Nat
  deriving DecidableEq, Repr

/-- The time base and its registers (R65 to R91). -/
structure TimeSt where
  sec : Nat := 0
  ns  : Nat := 0
  /-- Fraction of a nanosecond in units of 2^-32 ns; TIME_NOW_FRAC shows its top 16 bits (R65). -/
  frac : Nat := 0
  /-- TIME_INCR, in units of 2^-32 ns. -/
  incr : Nat := 0xCCCCCCCD
  quality : Quality := .unknown
  source  : Source := .none
  bound   : Nat := 0xFFFFFFFF
  /-- How far the bound, rounded up to whole ns, lies above the exact one, in 1/1,000 ns (R79); since when it grows. -/
  boundOver : Nat := 0
  boundAt : Nat := 0
  cfg     : TimeCfg := {}
  /-- The configuration Helm's DRAM data area keeps (R85). -/
  kept    : Option TimeCfg := none
  hostOk  : Bool := false
  ppsValid : Bool := false
  irigValid : Bool := false
  ppsFirst : Option Nat := none
  /-- Model clock and time-base ns of the last valid PPS edge. -/
  ppsAt   : Nat := 0
  ppsNs   : Nat := 0
  /-- Last IRIG-B frame that decoded: PTP second it carries, and whether its second was labelled 60. -/
  irigLast : Option (Nat × Bool) := none
  /-- Model clock and time-base ns of the last valid frame's Pr marker, and whether its code carries a year. -/
  irigAt : Nat := 0
  irigNs : Nat := 0
  irigYear : Bool := false
  /-- The last pair of a PPS edge and a Pr marker lay within 10 µs of each other (R75). -/
  pairOk : Bool := false
  irigCf  : Nat := 0
  servoWd : Bool := false
  breach  : Bool := false
  basis   : Nat := 0
  elapsed : Nat := 0
  cnt     : Cnts := Cnts.zero 4
  swNext  : BitVec 16 := 0
  swLog   : KMap SwEntry := []
  /-- Offsets that agree so far towards a fix (Table 3-2). -/
  fix     : List Int := []
  beyond  : Nat := 0
  filtered : Int := 0
  servoAt : Nat := 0
  /-- This wake was into RECKONED and no fix has followed (R86). -/
  reckFirst : Bool := false
  /-- Offsets measured since the last servo update, by source code: time base less reference, in ns. -/
  meas    : KMap Int := []
  ports   : List PtpPort := List.replicate 4 {}
  rxq     : List PtpRx := []
  /-- PPS output: the second of the last pulse driven (R76). -/
  ppsOutSec : Nat := 0
  /-- When the pulse being driven ends. -/
  ppsOffAt : Option Nat := none
  sets    : List PendingSet := []
  stopRec : Option StopRecord := none
  deriving DecidableEq, Repr

end Sys2Proof.Machine
end

