-- ==== Sys2Proof/Machine/StateFlow.lean ====
section
/-!
DEFINITION. Machine/StateFlow.lean: flow table (chapter 06), range classifier (07) and switching (08).
-/

set_option Elab.async false
namespace Sys2Proof.Machine

open Sys2Proof

/-! ### Flow table -/

/-- An entry of the flow table (Table 6-4). -/
structure FlowEntry where
  key     : Bytes
  profile : Nat
  handle  : Nat
  /-- [0] AGE_EN, [1] METER_EN, [2] NVMET, [3] TENANT, [7] PRESENT. -/
  flags   : Nat
  meter   : Nat
  owner   : Nat
  action  : Bytes
  deriving DecidableEq, Repr

/-- A flow state record (Table 6-5). -/
structure FlowRec where
  packets : Nat := 0
  octets  : Nat := 0
  /-- [0] HIT, [1] FIN, [2] RST, [4] STATE_LOST. -/
  flags   : Nat := 0
  lastMs  : W32 := 0
  /-- OWNER_DATA, 12 octets. -/
  owner   : Bytes := zeros 12
  deriving DecidableEq, Repr

/-- A key profile (R147, R148). -/
structure Profile where
  /-- FIELD0 to FIELD7, codes of Table 6-2. -/
  fields    : List Nat := List.replicate 8 0
  miss      : Nat := 1
  tenantOk  : Bool := false
  ageDelete : Bool := false
  ageLimit  : Nat := 300
  deriving DecidableEq, Repr

/-- The swing record (R156). -/
structure Swing where
  seedA    : W64
  seedB    : W64
  budget   : Nat
  maxMoves : Nat
  /-- Buckets walked. -/
  cursor   : Nat
  stalled  : Bool
  everStalled : Bool
  moves    : Nat
  deriving DecidableEq, Repr

/-- A mismatch of a chart check that waits for its second comparison (R163, R183): handle or position, since when. -/
structure Mismatch where
  what  : Nat
  since : Nat
  deriving DecidableEq, Repr

/-- A running flow chart check (R163). -/
structure FlowCheck where
  chartBase  : Nat
  reportBase : Nat
  reportEntries : Nat
  first  : Nat
  count  : Nat
  tags   : Bool
  budget : Nat
  waiting : List Mismatch
  compared : Nat
  mismatches : Nat
  written : Nat
  full   : Bool
  deriving DecidableEq, Repr

/-- A background job of R166 other than the swing, whose record is `Flow.swing`, and the wake scan, which is due while
`Flow.scanDue` holds. -/
inductive FlowJob where
  | none
  | check (c : FlowCheck)
  | reload (chartBase first count : Nat)
  deriving DecidableEq, Repr

/-- The flow table and its registers (R170). -/
structure Flow where
  /-- Entries in buckets, at ((t × 81,920 + b) × 8 + slot). -/
  slots   : KMap FlowEntry := []
  /-- Images that movers wrote into slots whose VALID bit is 0 (R401), at the slots' keys. -/
  raw     : KMap Bytes := []
  /-- Fingerprints of tag lines that a mover left other than their entries' (R401; 0 for a slot whose VALID is 0). -/
  fps     : KMap Nat := []
  /-- Overflow entries, 0 to 16,383. -/
  ovf     : KMap FlowEntry := []
  /-- State records of marked handles. -/
  recs    : KMap FlowRec := []
  /-- The handle map: marked handles, true when LOST (R164). -/
  handles : KMap Bool := []
  seedA   : W64 := 1
  seedB   : W64 := 2
  swing   : Option Swing := none
  profs   : List Profile := List.replicate 16 {}
  staged  : List Profile := List.replicate 16 {}
  profMap : List Nat := List.replicate 6 0
  stagedMap : List Nat := List.replicate 6 0
  profSelect : Nat := 0
  profSelMap : Bool := false
  profReject : Bool := false
  displaceMax : Nat := 4
  settleMs : Nat := 10
  sweepMs  : Nat := 1000
  job      : FlowJob := .none
  /-- The wake scan has not ended (R164). -/
  scanDue  : Bool := false
  bgSeq    : Nat := 0
  bgReady  : Bool := false
  bgJob    : Nat := 0
  bgOutcome : Nat := 0
  bgA      : W32 := 0
  bgB      : W32 := 0
  progress : Nat := 0
  lostBanks : Nat := 0
  ageBase  : W64 := 0
  ageLog2  : Nat := 0
  ageProd  : W32 := 0
  ageCons  : W32 := 0
  cnt      : Cnts := Cnts.zero 8
  /-- FLOW_MS (R159). -/
  ms       : W32 := 0
  /-- The sweep in progress has not run since D6 entered Run (R159). -/
  firstSweep : Bool := true
  lastSweep : Nat := 0
  deriving DecidableEq, Repr

/-! ### Range classifier (chapter 07) -/

/-- States of a classifier bank (Table 7-1). -/
inductive BankState where
  | unconfigured | empty | populated | lost
  deriving DecidableEq, Repr

/-- Code of a bank state. -/
def BankState.code : BankState → Nat
  | .unconfigured => 0
  | .empty => 1
  | .populated => 2
  | .lost => 3

/-- An entry of a classifier bank (R173). -/
structure ClsEntry where
  priority : Nat
  action   : Nat
  steer    : Nat
  pass     : Bool
  /-- Lower and upper bound of each unit. -/
  units    : List (Nat × Nat)
  deriving DecidableEq, Repr

/-- A block move in progress (R176): the new entry, its position, and the free position the move uses. -/
structure ClsMove where
  entry  : ClsEntry
  target : Nat
  free   : Nat
  moved  : Nat
  deriving DecidableEq, Repr

/-- A classifier bank (R171). -/
structure ClsBank where
  state   : BankState := .unconfigured
  width   : Nat := 0
  enable  : Bool := false
  srcMask : Nat := 0
  fields  : List Nat := [0, 0, 0, 0]
  entries : KMap ClsEntry := []
  tie     : W32 := 0
  move    : Option ClsMove := none
  deriving DecidableEq, Repr

/-- A running classifier chart check (R183, R190). -/
structure ClsCheck where
  bank   : Nat
  chartBase  : Nat
  reportBase : Nat
  reportEntries : Nat
  waiting : List Mismatch
  mismatches : Nat
  written : Nat
  full   : Bool
  deriving DecidableEq, Repr

/-- The range classifier and its registers (R191). -/
structure Cls where
  banks    : List ClsBank := List.replicate 32 {}
  settleMs : Nat := 10
  check    : Option ClsCheck := none
  bgSeq    : Nat := 0
  bgReady  : Bool := false
  bgBank   : Nat := 0
  bgOutcome : Nat := 0
  bgCount  : W32 := 0
  cnt      : Cnts := Cnts.zero 4
  deriving DecidableEq, Repr

/-! ### Switching (chapter 08) -/

/-- A frame of the exception queue (R210). -/
structure ExcFrame where
  body   : Bytes
  reason : Nat
  dest   : Nat
  src    : Nat
  srcInst : Nat
  stamp  : Option (Nat × Nat)
  csum   : Nat
  deriving DecidableEq, Repr

/-- A table transfer as its GO found the registers (R212). -/
structure TableJob where
  addr  : Nat := 0
  table : Nat := 0
  dir   : Bool := false
  first : Nat := 0
  count : Nat := 0
  deriving DecidableEq, Repr

/-- Switching tables, the exception queue and their registers (R210 to R213). -/
structure Switching where
  actions   : KMap Bytes := []
  templates : KMap Bytes := []
  groups    : KMap Bytes := []
  empty     : Bool := true
  vxlanPort : Nat := 4789
  genevePort : Nat := 6081
  rateKfps  : Nat := 100
  burst     : Nat := 1024
  /-- Tokens held, in parts of 1,250,000 to the token, and when they were last reckoned. -/
  tokens    : Nat := 1024 * 1250000
  tokensAt  : Nat := 0
  exc       : List ExcFrame := []
  tblAddr   : W64 := 0
  table     : Nat := 0
  dir       : Bool := false
  first     : Nat := 0
  count     : Nat := 0
  busy      : Bool := false
  /-- The transfer that runs while `busy`. -/
  job       : TableJob := {}
  result    : Nat := 0
  done      : Nat := 0
  actCnt    : Cnts := Cnts.zero 16
  deriving DecidableEq, Repr

end Sys2Proof.Machine
end

