-- ==== Sys2Proof/Machine/StateSched.lean ====
section
/-!
DEFINITION. Machine/StateSched.lean: frames on their way, the scheduler, meters and soundings (chapter 10), the cipher
unit and its lodestar (chapter 09).
-/

set_option Elab.async false
namespace Sys2Proof.Machine

open Sys2Proof

/-! ### Frames -/

/-- A frame on its way through the pipeline, without FCS, HSR tag or PRP trailer. -/
structure Frame where
  body    : Bytes
  /-- SRC_PORT (R147): 0 to 3 the ports A to D, 4 host; 5 for a frame that Helm sends (Table 13-9). -/
  srcPort : Nat
  /-- Sending instance, or 0xFFFF. -/
  srcInst : Nat := 0xFFFF
  /-- Subscriber (R246). -/
  sub     : Nat := 513
  rxStamp : Option (Nat × Nat) := none
  /-- It has been through the host loopback (R195). -/
  looped  : Bool := false
  /-- It is the inner frame of an OP INNER pass, with the outer VNI (R194, R202). -/
  inner   : Bool := false
  vni     : Nat := 0
  /-- Receive checksum codes [1:0] outer IPv4, [3:2] outer L4, [5:4] inner IPv4, [7:6] inner L4 (Table 13-9). -/
  csum    : Nat := 0
  decrypted : Bool := false
  handle  : Option Nat := none
  /-- The transmit descriptor that produced it, its segment number and what it asked for (R325, R328). -/
  desc    : Option (Nat × BitVec 16) := none
  seg     : Nat := 0
  ipCsum  : Bool := false
  l4Csum  : Bool := false
  digest  : Bool := false
  wantStamp : Bool := false
  /-- Octets of an NVMe/TCP frame that were placed and left out (R282). -/
  placed  : Nat := 0
  /-- Copies that share its packet cells, by share number (R197). -/
  share   : Nat := 0
  deriving DecidableEq, Repr

/-- What a frame's lookup and meter decided (R192, R208, R260); the service class is SVC unless the meter replaced it. -/
structure Found where
  record : Bytes
  /-- Service class, and whether the frame leaves with DEI 1. -/
  svc    : Nat
  markDei : Bool
  /-- Template and group as they stood at the lookup (R208). -/
  template : Bytes
  group  : Bytes
  /-- The inner key, for SPORT_HASH (R201). -/
  key    : Bytes
  /-- The entry is a connection's (R281). -/
  nvmet  : Bool := false
  deriving DecidableEq, Repr

/-! ### The scheduler -/

/-- A frame in a queue (R255): its cells and when it was admitted. -/
structure Queued where
  frame : Frame
  cells : Nat
  dram  : Bool
  at_   : Nat
  deriving DecidableEq, Repr

/-- A scheduler node (Table 10-2). -/
structure Node where
  rate   : Nat := 0
  weight : Nat := 16
  hi     : Nat := 18472
  lo     : Nat := 18472
  bufLimit : Nat := 4096
  overhead : Nat := 20
  /-- Units of 1/256 byte. -/
  credit : Int := 0
  occ    : Nat := 0
  drop   : W32 := 0
  /-- A staged change: RATE, WEIGHT, BUF_LIMIT, HI, LO, OVERHEAD, each if selected (R253). -/
  staged : Option (List (Option Nat)) := none
  deriving DecidableEq, Repr

/-- A meter record (Table 10-4). -/
structure Meter where
  tc : Nat := 0
  tp : Nat := 0
  last : W32 := 0
  profile : Nat := 0
  valid : Bool := false
  lost  : Bool := false
  deriving DecidableEq, Repr

/-- A meter profile (Table 10-7). -/
structure MeterProfile where
  cir : Nat := 0
  pir : Nat := 0
  cbs : Nat := 0
  pbs : Nat := 0
  aware : Bool := false
  dropRed : Bool := false
  dropYellow : Bool := false
  yellowSvcEn : Bool := false
  markDei : Bool := false
  yellowSvc : Nat := 0
  deriving DecidableEq, Repr

/-- A sounding set (Table 10-8). -/
structure Sounding where
  enable : Bool := false
  period : Nat := 1
  subFirst : Nat := 0
  subCount : Nat := 1
  svcMask : Nat := 1
  portMask : Nat := 1
  ringLog2 : Nat := 6
  ringBase : Nat := 0
  round  : W32 := 0
  prod   : W32 := 0
  cons   : W32 := 0
  skip   : W32 := 0
  /-- The refill tick of the last round, or of the set's enabling (R262, R266). -/
  lastTick : Option Nat := none
  /-- Records of a round that wait for Bus Master Enable; PROD counts them once they have left (R263). -/
  writing : Nat := 0
  deriving DecidableEq, Repr

/-- The scheduler, the packet cells, the meters and the soundings (chapter 10). -/
structure Sched where
  freeSram : Nat := 98304
  freeDram : Nat := 16777216
  ready    : Bool := false
  nodeSel  : Nat := 0
  /-- Nodes that differ from their Cold values, by identifier (Table 10-1). -/
  nodes    : KMap Node := []
  /-- Queues that hold frames, by number (R247). -/
  queues   : KMap (List Queued) := []
  /-- Deficits, at subscriber × 8 + port, and the pointer of each port (R252). -/
  deficit  : KMap Nat := []
  ptr      : List Nat := List.replicate 6 0
  /-- Shared cells: share number, copies left, cells, DRAM (R197). -/
  shares   : KMap (Nat × Nat × Bool) := []
  nextShare : Nat := 1
  tick     : Nat := 0
  /-- The microsecond of the last refill tick (R253). -/
  tickAt   : Option Nat := none
  meters   : KMap Meter := []
  /-- Banks whose meters not listed above are LOST; meters lost and not yet counted, D5 being in Stop (R261). -/
  meterLost : Nat := 0
  mtrLost  : Nat := 0
  /-- Helm's data area was LOST since D5 last entered Run (R261). -/
  areaLost : Bool := false
  profiles : KMap MeterProfile := []
  snd      : List Sounding := List.replicate 4 {}
  cnt      : Cnts := Cnts.zero 8
  mtrCnt   : Cnts := Cnts.zero 8
  deriving DecidableEq, Repr

/-! ### The cipher unit -/

/-- States of a context other than FREE (Table 9-6). -/
inductive CtxState where
  | live | needKey | exhausted | lost
  deriving DecidableEq, Repr

/-- Code of a context state. -/
def CtxState.code : CtxState → Nat
  | .live => 1
  | .needKey => 2
  | .exhausted => 3
  | .lost => 4

/-- A cipher context: its record and side record (Table 9-5), with what the adapter holds beside them. -/
structure Ctx where
  label  : Bytes
  pn     : W64
  /-- ESP_IN: the replay bitmap. -/
  bitmap : BitVec 128 := 0
  /-- REPLAY_WINDOW. -/
  window : Nat := 0
  kcv    : Nat
  state  : CtxState := .live
  op     : Nat
  flags  : Nat
  owner  : Nat
  /-- Side record: IV, ciphertext, tag, SSCI, salt. -/
  iv     : Bytes := zeros 12
  wrapped : Bytes := zeros 32
  tag    : Bytes := zeros 16
  ssci   : Nat := 0
  salt   : Bytes := zeros 12
  /-- Beside the records: the warning mark and whether it has been given, the inbound port, the next transmit PN. -/
  pnWarn : W64 := 0
  /-- PN_START, the lowest packet number that an inbound context accepts. -/
  start  : Nat := 1
  warned : Bool := false
  port   : Nat := 0
  next   : Nat := 0
  deriving DecidableEq, Repr

/-- A key in the cache (R225). -/
structure CacheKey where
  handle : Nat
  gen    : Nat
  erase  : Nat
  key    : Bytes
  deriving DecidableEq, Repr

/-- Where a cipher operation's frame goes on once the operation is done. -/
inductive CipherNext where
  /-- Receive side of OP INNER (step 2 of Table 8-2), with what the lookup found. -/
  | inner (found : Found)
  /-- Transmit side (step 6), with what the lookup found. -/
  | transmit (found : Found)
  deriving DecidableEq, Repr

/-- Where a cipher operation stands (R215, R225, R227, R228). -/
inductive JobPlace where
  /-- It waits for its key. -/
  | key
  /-- It waits for a free lane. -/
  | wait
  /-- On lane `n`, with its frame's data late. -/
  | lane (n : Nat)
  /-- In the context store, or in an entry of the spill area. -/
  | store
  | spill (n : Nat)
  /-- Done: its frame waits for frames that entered before it (R215). -/
  | done
  deriving DecidableEq, Repr

/-- What an operation needs of its context. -/
structure CipherArgs where
  key   : Bytes
  label : Bytes
  /-- XPN or ESN. -/
  xpn   : Bool
  integrityOnly : Bool
  includeSci : Bool
  ssci  : Nat
  salt  : Bytes
  deriving DecidableEq, Repr

/-- A cipher operation that has not left the cipher unit. -/
structure CipherJob where
  frame  : Frame
  handle : Nat
  code   : Nat
  place  : JobPlace
  /-- The packet number assigned at dispatch, for a transmit operation that has been dispatched. -/
  pn     : Option Nat
  next   : CipherNext
  /-- The frame's data has not all arrived. -/
  late   : Bool := false
  /-- What the operation was dispatched with (R242). -/
  args   : Option CipherArgs := none
  /-- When it was suspended, in order of suspensions (R228). -/
  seq    : Nat := 0
  deriving DecidableEq, Repr

/-- A raw lane (R234, R235). -/
structure RawLane where
  held  : Bool := false
  owner : Nat := 0
  since : Nat := 0
  key   : Option (Bytes × Bool) := none
  block : Bytes := zeros 16
  status : Nat := 0
  /-- The former holders whose next access returns LOCK_LOST. -/
  lostBy : List Nat := []
  deriving DecidableEq, Repr

/-- State of the lodestar (R239). -/
inductive LodeState where
  | empty | loaded | alarmed
  deriving DecidableEq, Repr

/-- Code of a lodestar state. -/
def LodeState.code : LodeState → Nat
  | .empty => 0
  | .loaded => 1
  | .alarmed => 2

/-- The cipher unit in D8, the contexts in DRAM, and the lodestar and alarms in D0 (chapter 09). -/
structure Cipher where
  ctxs     : KMap Ctx := []
  cache    : List CacheKey := []
  /-- Operations that have not left the unit, in order of entry. -/
  jobs     : List CipherJob := []
  /-- Operations suspended so far, which orders those in the store (R228). -/
  suspended : Nat := 0
  ready    : Bool := false
  wiped    : Bool := false
  /-- Handles in the inbound SA table (R233). -/
  sa       : List Nat := []
  raw      : List RawLane := List.replicate 4 {}
  rawHoldUs : Nat := 50
  cnt      : Cnts := Cnts.zero 16
  lode     : LodeState := .empty
  lodestar : Bytes := zeros 32
  kcv      : Nat := 0
  eraseCount : Nat := 0
  /-- The enrolment key fused after manufacture, if one is. -/
  enrolment : Option Bytes := none
  latched  : Nat := 0
  present  : Nat := 0
  deriving DecidableEq, Repr

end Sys2Proof.Machine
end

