-- ==== Sys2Proof/Machine/CipherProto.lean ====
section
/-!
DEFINITION. Machine/CipherProto.lean: MACsec, ESP and process-bus authentication on frames (R230 to R232); what the
manual takes from IEEE 802.1AE, RFC 4106, RFC 4543 and IEC 62351-6 is log entry 10 (PRESUMED).
-/

set_option Elab.async false
namespace Sys2Proof.Machine

open Sys2Proof

/-! ### Labels (Tables 9-3 and 9-4) -/

/-- KIND of a label. -/
def labelKind (l : Bytes) : Nat := byteAt l 0
/-- K256. -/
def labelK256 (l : Bytes) : Bool := bit (byteAt l 1) 0
/-- GENERATION. -/
def labelGen (l : Bytes) : Nat := beAt l 2 2
/-- SCI of a MACsec label. -/
def labelSci (l : Bytes) : Bytes := slice l 8 8
/-- AN of a MACsec label. -/
def labelAn (l : Bytes) : Nat := byteAt l 16 % 4
/-- SPI of an ESP label. -/
def labelSpi (l : Bytes) : Bytes := slice l 8 4
/-- Destination address of an ESP label. -/
def labelDst (l : Bytes) : Bytes := slice l 12 16

/-- The label of the salt of a derived context. -/
def saltLabel (l : Bytes) : Bytes := overlay (overlay l 0 [4]) 1 [0]
/-- The label under which an imported key is wrapped. -/
def wrapLabel (handle : Nat) : Bytes := [5, 1, 0, 0, 0, 0, 0, 0] ++ beBytes 4 handle ++ zeros 20
/-- The label under which chaining state is spilled. -/
def spillLabel (erase : Nat) : Bytes := [6, 1, 0, 0, 0, 0, 0, 0] ++ beBytes 2 erase ++ zeros 22
/-- The label of a provisioning blob's key. -/
def provisionLabel (kind : Nat) : Bytes := [9, 1, 0, 0, 0, 0, 0, 0, BitVec.ofNat 8 kind] ++ zeros 23

/-! ### MACsec -/

/-- GCM IV of a MACsec frame: SCI and PN, or with XPN the salt exclusive-ored with SSCI and PN. -/
def macsecIv (a : CipherArgs) (sci : Bytes) (pn : Nat) : Bytes :=
  if a.xpn then xorBytes (beBytes 4 a.ssci ++ beBytes 8 pn) (slice a.salt 0 12) else slice sci 0 8 ++ beBytes 4 pn

/-- MACSEC_PROTECT on a frame. -/
def macsecProtect (a : CipherArgs) (b : Bytes) (pn : Nat) : Bytes :=
  let addrs := b.take 12
  let data := b.drop 12
  let sci := labelSci a.label
  let es := !a.includeSci && sci == slice b 6 6 ++ [0, 1]
  let tci := labelAn a.label + b2n (!a.integrityOnly) * 12 + b2n a.includeSci * 32 + b2n es * 64
  let sl := if data.length < 48 then data.length else 0
  let tag := beBytes 2 etMacsec ++ [BitVec.ofNat 8 tci, BitVec.ofNat 8 sl] ++ beBytes 4 pn ++ (if a.includeSci then sci else [])
  let iv := macsecIv a sci pn
  if a.integrityOnly then
    let r := gcmSeal a.key iv (addrs ++ tag ++ data) []
    addrs ++ tag ++ data ++ r.2
  else
    let r := gcmSeal a.key iv (addrs ++ tag) data
    addrs ++ tag ++ r.1 ++ r.2

/-- SecTAG fields: TCI and AN octet, PN, SCI if one is carried or implied, and where the secure data begins. -/
structure SecTag where
  an   : Nat
  pn   : Nat
  sci  : Option Bytes
  off  : Nat
  enc  : Bool
  deriving DecidableEq, Repr

/-- The SecTAG of a frame. -/
def secTag (b : Bytes) : Option SecTag :=
  if beAt b 12 2 ≠ etMacsec then none
  else
    let t := byteAt b 14
    let sc := bit t 5
    let sci := if sc then some (slice b 20 8) else if bit t 6 then some (slice b 6 6 ++ [0, 1]) else none
    some { an := t % 4, pn := beAt b 16 4, sci := sci, off := if sc then 28 else 20, enc := bit t 3 }

/-- The 64-bit packet number that 32 received bits stand for, near the lowest acceptable one. -/
def fullPn (xpn : Bool) (lowest low : Nat) : Nat :=
  if !xpn then low
  else lowest / 2 ^ 32 * 2 ^ 32 + low + (if bit (lowest % 2 ^ 32) 31 && !bit low 31 then 2 ^ 32 else 0)

/-- Octets of a MACsec frame before its ICV: the SecTAG's SL, where it is not 0, leaves out what pads a short frame. -/
def macsecEnd (b : Bytes) (t : SecTag) : Nat :=
  let sl := byteAt b 15 % 64
  if sl = 0 then b.length - 16 else t.off + sl

/-- MACSEC_VALIDATE on a frame: its clear form, or none when the ICV fails. -/
def macsecValidate (a : CipherArgs) (f : Bytes) (t : SecTag) (pn : Nat) : Option Bytes :=
  let n := macsecEnd f t
  let b := f.take (n + 16)
  let addrs := b.take 12
  let icv := b.drop n
  let data := (b.take n).drop t.off
  let iv := macsecIv a (t.sci.getD (labelSci a.label)) pn
  if b.length < t.off + 16 ∨ b.length ≠ n + 16 then none
  else if t.enc then (gcmOpen a.key iv (b.take t.off) data icv).map (fun p => addrs ++ p)
  else (gcmOpen a.key iv (b.take n) [] icv).map (fun _ => addrs ++ data)

/-! ### ESP -/

/-- Offset of the octet that names the protocol after an IP header chain. -/
def ipv6NextOff (b : Bytes) : Nat → Nat → Nat → Nat → Nat
  | 0, _, at_, _ => at_
  | f + 1, nh, at_, off =>
    if nh = 0 ∨ nh = 43 ∨ nh = 60 then ipv6NextOff b f (byteAt b off) off (off + (byteAt b (off + 1) + 1) * 8)
    else if nh = 44 then ipv6NextOff b f (byteAt b off) off (off + 8)
    else if nh = 51 then ipv6NextOff b f (byteAt b off) off (off + (byteAt b (off + 1) + 2) * 4)
    else at_

/-- Where a header chain names the protocol that follows it. -/
def protoOff (b : Bytes) (h : IpHdr) : Nat :=
  if h.v6 then ipv6NextOff b 32 (byteAt b (h.off + 6)) (h.off + 6) (h.off + 40) else h.off + 9

/-- An IP packet's length field set for `n` octets after its header chain, and its header checksum. -/
def setIpLen (b : Bytes) (h : IpHdr) (n : Nat) : Bytes :=
  if h.v6 then put16 b (h.off + 4) (h.fin - h.off - 40 + n)
  else fixIpCsum (put16 b (h.off + 2) (h.fin - h.off + n)) h

/-- Associated data of ESP: SPI and sequence number, 64 bits of it with ESN. -/
def espAad (a : CipherArgs) (spi : Bytes) (seq : Nat) : Bytes := spi ++ beBytes (if a.xpn then 8 else 4) seq

/-- ESP_OUT on a frame's outermost IP packet; none for a frame without one, or a fragment. -/
def espOut (a : CipherArgs) (b : Bytes) (seq : Nat) : Option Bytes :=
  match (parse b).ip with
  | none => none
  | some h =>
    if h.frag then none
    else
      let rest := slice b h.fin h.plen
      let pad := (4 - (h.plen + 2) % 4) % 4
      let pt := rest ++ ((List.range pad).map (fun k => BitVec.ofNat 8 (k + 1))) ++ [BitVec.ofNat 8 pad, BitVec.ofNat 8 h.proto]
      let spi := labelSpi a.label
      let iv8 := beBytes 8 seq
      let iv := slice a.salt 0 4 ++ iv8
      let (ct, icv) :=
        if a.integrityOnly then (pt, (gcmSeal a.key iv (espAad a spi seq ++ iv8 ++ pt) []).2)
        else gcmSeal a.key iv (espAad a spi seq) pt
      let esp := spi ++ beBytes 4 seq ++ iv8 ++ ct ++ icv
      let b := overlay (b.take h.fin) (protoOff b h) [50]
      some (setIpLen (b ++ esp) h esp.length)

/-- An ESP header after an IP header chain: SPI, sequence number, destination in IPv4-mapped form. -/
structure EspHdr where
  ip   : IpHdr
  spi  : Bytes
  seq  : Nat
  dst  : Bytes
  deriving DecidableEq, Repr

/-- The ESP header of a frame; `none` when there is none. -/
def espHdr (b : Bytes) : Option EspHdr :=
  match (parse b).ip with
  | some h =>
    if h.proto = 50 then some { ip := h, spi := slice b h.fin 4, seq := beAt b (h.fin + 4) 4, dst := mapped h h.dst } else none
  | none => none

/-- ESP_IN on a frame: its form without ESP, or none when the ICV fails, or the padding is not 1, 2, 3 (log entry 139). -/
def espIn (a : CipherArgs) (b : Bytes) (e : EspHdr) (seq : Nat) : Option Bytes :=
  let h := e.ip
  let pkt := slice b h.fin h.plen
  let iv8 := slice pkt 8 8
  let ct := (pkt.take (h.plen - 16)).drop 16
  let icv := pkt.drop (h.plen - 16)
  let iv := slice a.salt 0 4 ++ iv8
  let pt :=
    if h.plen < 34 then none
    else if a.integrityOnly then (gcmOpen a.key iv (espAad a e.spi seq ++ iv8 ++ ct) [] icv).map (fun _ => ct)
    else gcmOpen a.key iv (espAad a e.spi seq) ct icv
  pt.bind (fun p =>
    let nh := byteAt p (p.length - 1)
    let pad := byteAt p (p.length - 2)
    let data := p.take (p.length - 2 - pad)
    if p.length < pad + 2 ∨ (p.take (p.length - 2)).drop data.length ≠ (List.range pad).map (fun k => BitVec.ofNat 8 (k + 1)) then none
    else some <|
    if nh = 4 ∨ nh = 41 then put16 (b.take h.off) (h.off - 2) (if nh = 4 then etIpv4 else etIpv6) ++ data
    else
      let b := overlay (b.take h.fin) (protoOff b h) [BitVec.ofNat 8 nh]
      setIpLen (b ++ data) h data.length)

/-! ### Process-bus authentication -/

/-- Where the extension of a GOOSE or SV frame begins: after the octets its Length field counts. -/
def pbExtOff (b : Bytes) : Nat :=
  let e := (parse b).etOff
  e + 2 + beAt b (e + 4) 2

/-- PB_SIGN: the extension appended, a 12-octet IV and a 16-octet tag over everything before the tag. -/
def pbSign (a : CipherArgs) (b : Bytes) (pn : Nat) : Bytes :=
  let e := (parse b).etOff
  let b := overlay (b.take (pbExtOff b)) (e + 7) [28]
  let iv := beBytes 12 pn
  b ++ iv ++ (gcmSeal a.key iv (b ++ iv) []).2

/-- The authentication of a process-bus frame under a key: false when its extension names another tag length. -/
def pbVerify (key b : Bytes) : Bool :=
  let e := (parse b).etOff
  let ext := byteAt b (e + 7)
  let o := pbExtOff b
  (ext == 20 || ext == 24 || ext == 28) && decide (o + ext ≤ b.length) &&
    (gcmSeal key (slice b o 12) (b.take (o + 12)) []).2.take (ext - 12) == slice b (o + 12) (ext - 12)

/-- Octets an operation encrypts or decrypts, and octets it authenticates beside them (R214). -/
def opOctets (a : CipherArgs) (code : Nat) (b : Bytes) : Nat × Nat :=
  let split (e aad iv : Nat) : Nat × Nat := if a.integrityOnly then (0, aad + iv + e) else (e, aad)
  if code = 1 then split (b.length - 12) (if a.includeSci then 28 else 20) 0
  else if code = 2 then
    match secTag b with
    | some t => if t.enc then (macsecEnd b t - t.off, t.off) else (0, macsecEnd b t)
    | none => (0, b.length)
  else if code = 3 ∨ code = 4 then
    let n := match (parse b).ip with | some h => h.plen | none => 0
    split (if code = 3 then n + 2 + (4 - (n + 2) % 4) % 4 else n - 32) (if a.xpn then 12 else 8) 8
  else (0, b.length)

/-- Cipher clocks that an operation occupies a lane for (R214). -/
def laneClocks (a : CipherArgs) (code : Nat) (b : Bytes) : Nat :=
  let o := opOctets a code b
  let nr := if labelK256 a.label then 14 else 10
  max (nr * (ceilDiv o.1 16 + 1)) (ceilDiv o.2 16 + ceilDiv o.1 16 + 2)

/-- Octets an operation adds to a frame (R194, R207): its code, INCLUDE_SCI, and the frame before it. -/
def cipherGrowth (code : Nat) (includeSci : Bool) (b : Bytes) : Nat :=
  if code = 1 then (if includeSci then 32 else 24)
  else if code = 3 then
    match (parse b).ip with
    | some h => 34 + (4 - (h.plen + 2) % 4) % 4
    | none => 0
  else if code = 5 then 28
  else 0

end Sys2Proof.Machine
end

