-- ==== Sys2Proof/Machine/StatePort.lean ====
section
/-!
DEFINITION. Machine/StatePort.lean: the four ports, the ring plane and the ring clock (chapters 02 and 03).
-/

set_option Elab.async false
namespace Sys2Proof.Machine

open Sys2Proof

/-- What kind of frame stands at an egress port (R45, R46). -/
inductive TxKind where
  | express | forwarded | host
  deriving DecidableEq, Repr

/-- A reflex publication: its slot, the receipt of the write that caused it on the model's clock (R23), the instant a
retransmission is scheduled for in time-base ns (R135), and whether it is a new-state frame (R129). -/
structure ReflexTx where
  slot  : Nat
  since : Option Nat
  due   : Option Nat
  isNew : Bool
  deriving DecidableEq, Repr

/-- A frame at an egress port, as it will leave: tagged, without its FCS. -/
structure PortFrame where
  body  : Bytes
  kind  : TxKind
  /-- The pipeline frame it came from, with the cells it holds and its queue (R255). -/
  origin : Option (Queued × Nat) := none
  /-- Ring residence counter at the ingress point (R68), or none. -/
  ringIn : Option Nat := none
  /-- Link delay of the port it was received on, in 2^-16 ns (R70). -/
  linkDelay : Nat := 0
  /-- Time base ns at the receive point, for a transparent clock (R72). -/
  timeIn : Option Nat := none
  /-- The frame is to end with a bad FCS (R44, R54). -/
  stomp : Bool := false
  /-- A Pdelay_Resp: when its request arrived, on the ring residence counter on C and D (R70), in ns of the time base on A and B. -/
  pdIn  : Option Nat := none
  reflex : Option ReflexTx := none
  /-- The adapter's own frame: supervision, peer delay, PTP, reflex. -/
  own    : Bool := false
  /-- Copies of one frame on two ports share a number; 0 for a frame without another copy. -/
  id     : Nat := 0
  deriving DecidableEq, Repr

/-- A frame in transmission: octets sent so far when it was last preempted (R52). -/
structure Sending where
  f    : PortFrame
  sent : Nat := 0
  /-- The loopback mode it started under (R460). -/
  loop : Nat := 0
  /-- It started before its last octet was in the transmit buffer (R54). -/
  early : Bool := false
  deriving DecidableEq, Repr

/-- One port's MAC registers and queues (R63). -/
structure Mac where
  enable  : Bool := false
  rate    : Nat := 0
  fec     : Nat := 0
  promisc : Bool := false
  mcAll   : Bool := true
  pauseRx : Bool := false
  an      : Bool := false
  linkUp  : Bool := false
  lock    : Bool := false
  fecLock : Bool := false
  rateActive : Nat := 0
  /-- 0 DISABLED, 1 VERIFYING, 2 ACTIVE, 3 FAILED. -/
  preempt : Nat := 0
  ignoring : Bool := false
  cfgReject : Bool := false
  linkChange : Bool := false
  txStart : Nat := 512
  pauseLimit : Nat := 100
  pauseRecover : Nat := 1000
  preemptEn : Bool := false
  verifyDisable : Bool := false
  addFrag : Nat := 0
  verifyTime : Nat := 10
  verifyTries : Nat := 0
  verifyAt : Nat := 0
  filtLo  : List W32 := List.replicate 16 0
  filtHi  : List W32 := List.replicate 16 0
  /-- The committed filter entries: address and VALID (R53). -/
  filt    : List (Nat × Bool) := List.replicate 16 (0, false)
  modDev  : Nat := 0x50
  modWrite : Bool := false
  modOffset : Nat := 0
  modLen  : Nat := 1
  modFast : Bool := false
  modBusy : Bool := false
  modResult : Nat := 0
  modDone : Nat := 0
  modBuf  : Bytes := zeros 128
  present : Bool := false
  intLos  : Bool := false
  resetFault : Bool := true
  lpmode  : Bool := true
  rateSel : Nat := 0
  stat    : List Nat := List.replicate 64 0
  half    : W64 := 0
  wrap    : W64 := 0
  clrIndex : Nat := 0
  clrAll  : Bool := false
  /-- Pause (R55): received pause holds the transmitter until, since when it has, and when the recovery began. -/
  pauseUntil : Nat := 0
  pauseSince : Option Nat := none
  recoverAt : Nat := 0
  /-- AUTO detection (R31): the attempt of the cycle, since when, and when lock was lost. -/
  attempt : Nat := 0
  attemptAt : Nat := 0
  lockLostAt : Option Nat := none
  tx      : Option Sending := none
  /-- Preempted frames whose rest has not been sent (R52). -/
  held    : Option Sending := none
  express : List PortFrame := []
  forwarded : List PortFrame := []
  host    : List PortFrame := []
  /-- When an own supervision frame last returned (R50). -/
  ownAt   : Option Nat := none
  deriving DecidableEq, Repr

/-- Sequence windows of a node table entry, for port C, port D and the interlink (R38). -/
structure NodeEntry where
  last : Nat
  high : List (BitVec 16)
  map  : List W64
  deriving DecidableEq, Repr

/-- Peer delay of the ring plane on one port (R70). -/
structure RingDelay where
  seq    : Nat := 0
  /-- Ring counter at the request sent and unanswered. -/
  t1     : Option Nat := none
  t4     : Option (Nat × Int) := none
  misses : Nat := 0
  meas   : List Nat := []
  valid  : Bool := false
  pending : List TcPending := []
  deriving DecidableEq, Repr

/-- The ring plane in D1 (R31 to R50, R68 to R71). -/
structure RingPlane where
  /-- 0 AUTO, 1 HSR, 2 PRP, 3 PLAIN. -/
  mode    : Nat := 0
  redbox  : Bool := false
  supEn   : Bool := false
  configured : Bool := false
  forgetMs : Nat := 400
  supMs   : Nat := 2000
  addrLsb : Nat := 0
  supTci  : Nat := 0
  nodeMac : Nat := 0
  pcpMin  : Nat := 6
  pcpEn   : Bool := false
  goose   : Bool := true
  sv      : Bool := true
  /-- The node table, by source address. -/
  nodes   : KMap NodeEntry := []
  /-- Proxy entries: address, when last seen. -/
  proxies : KMap Nat := []
  hsrSeq  : BitVec 16 := 0
  /-- PRP counters by destination: next number, when last used; and the shared one (R36). -/
  prpSeq  : KMap (BitVec 16 × Nat) := []
  sharedSeq : BitVec 16 := 0
  /-- SupSequenceNumber by supervised address (R48), and when the round began. -/
  supSeq  : KMap (BitVec 16) := []
  supAt   : KMap Nat := []
  /-- Frames selected at port node 2 that the interlink has not yet sent (R248). -/
  il      : List PortFrame := []
  delay   : List RingDelay := [{}, {}]
  pdelayAt : Nat := 0
  unmatched : W32 := 0
  /-- Model clock when D1 entered Run; its Cold count; whether its PLL has lost lock since the Stop record (R85). -/
  since   : Nat := 0
  cold    : Nat := 0
  pllLost : Bool := false
  /-- Number of the next frame that is sent as two copies. -/
  nextId  : Nat := 1
  deriving DecidableEq, Repr

/-- The four ports and the ring plane. -/
structure Ports where
  a : Mac := {}
  b : Mac := {}
  c : Mac := { enable := true, lpmode := false, resetFault := false }
  d : Mac := { enable := true, lpmode := false, resetFault := false }
  ring : RingPlane := {}
  deriving DecidableEq, Repr

end Sys2Proof.Machine
end

