-- ==== Sys2Proof/Machine/StateProc.lean ====
section
/-!
DEFINITION. Machine/StateProc.lean: the almanac (chapter 04), the reflex path and GOOSE (chapter 05).
-/

set_option Elab.async false
namespace Sys2Proof.Machine

open Sys2Proof

/-! ### Almanac -/

/-- A subscribed SV stream (Table 4-6). -/
structure SvStream where
  dst    : Nat
  appid  : Nat
  confRev : Nat
  alm    : Nat
  nval   : Nat
  subst  : Bool
  acceptSim : Bool
  auth   : Bool
  checkConfRev : Bool
  requireSync : Bool
  substMax : Nat
  column : Nat
  delayNom : Nat
  authCtx : Nat
  svid   : Bytes
  /-- ALM_STREAM_CNT of the stream (R118). -/
  cnt    : Cnts := Cnts.zero 8
  /-- confRev last received, and the last one reported by the almanac event (R100). -/
  lastConfRev : Nat := 0
  reported : Option Nat := none
  /-- The column's last VALID cell, with its row (R95). -/
  last   : Option (Nat × Bytes) := none
  /-- The last row in which the stream was present, as VALID or SUBSTITUTED (R106). -/
  prev   : Option Nat := none
  substituting : Bool := false
  /-- Unsubscribed: it ends with the rows now open (R99); the number it had, while no new subscription has that number. -/
  ending : Bool := false
  was    : Option Nat := none
  deriving DecidableEq, Repr

/-- A row that is open (R103 to R106). -/
structure Row where
  n      : Nat
  /-- Subscribed columns as the row opened, with their streams. -/
  cols   : KMap Nat
  /-- Cells written, by column. -/
  cells  : KMap Bytes := []
  complete : Bool := false
  /-- The time base has stepped while the row was open (R108), and what it read after the last step. -/
  stepped : Bool := false
  stepNs  : Nat := 0
  deriving DecidableEq, Repr

/-- An almanac (R116, ALM_TAB). -/
structure Almanac where
  rate   : Nat
  rows   : Nat
  cols   : Nat
  window : Nat
  early  : Bool
  cellBase : Nat
  statusBase : Nat
  sealBase : Nat
  sealEntries : Nat
  /-- Row slots reserved (R103). -/
  slots  : Nat
  open_  : List Row := []
  /-- The next row to open. -/
  next   : Nat := 0
  lastSealed : Option Nat := none
  sealSeq : Nat := 0
  /-- The row each slot holds, by index (R94). -/
  holds  : KMap Nat := []
  sealed : W32 := 0
  incomplete : W32 := 0
  missing : W32 := 0
  substituted : W32 := 0
  unsynced : W32 := 0
  late   : W32 := 0
  deriving DecidableEq, Repr

/-- A watch slot of an instance (Table 4-7). -/
structure Watch where
  alm    : Nat
  ackRequired : Bool
  lateOnly : Bool
  lubber : Nat
  decimate : Nat
  phase  : Nat
  cnt    : Cnts := Cnts.zero 4
  /-- The first row not acknowledged: from the last WATCH_ACK, or the first row notified (R114). -/
  due    : Option Nat := none
  /-- A WATCH_OVERRUN has been written since the last acknowledgement. -/
  overrun : Bool := false
  deriving DecidableEq, Repr

/-- A steered frame that waits for the almanac or the GOOSE engine. -/
structure Steered where
  body   : Bytes
  stamp  : Nat × Nat
  /-- Model clock at its arrival (R22). -/
  at_    : Nat
  deriving DecidableEq, Repr

/-- A write of the almanac whose time to the link is judged when it leaves the endpoint: an ingested frame's last cell (R22), or
the seal record of almanac `alm` (R107). -/
structure PostMark where
  alm   : Option Nat := none
  /-- ns spent before the tick `since`, and the ns allowed in all. -/
  spent : Nat := 0
  since : Nat
  limit : Nat
  deriving DecidableEq, Repr

/-- The almanac engine (R118). -/
structure Alm where
  tab     : KMap Almanac := []
  streams : KMap SvStream := []
  /-- Watches at instance × 8 + slot, and rights at instance × 16 + almanac. -/
  watches : KMap Watch := []
  rights  : List Nat := []
  queue   : List Steered := []
  hoveTo  : Bool := false
  ingestMax : W32 := 0
  ingestLate : W32 := 0
  cnt     : Cnts := Cnts.zero 4
  streamSel : Nat := 0
  watchSel : Nat := 0
  /-- Writes that wait for Bus Master Enable and are judged when they leave. -/
  marks   : List PostMark := []
  /-- Counters of streams, watches and almanacs that are gone, kept until the number is used again (R118). -/
  streamOld : KMap Cnts := []
  watchOld : KMap Cnts := []
  tabOld  : KMap Almanac := []
  deriving DecidableEq, Repr

/-! ### Reflex and GOOSE -/

/-- A reflex template (Table 5-2). -/
structure Template where
  frame  : Bytes
  offSt  : Nat
  offSq  : Nat
  offT   : Nat
  offTal : Nat
  offAuth : Nat
  ports  : Nat
  auth   : Bool
  sqFirst : Nat
  nretx  : Nat
  interval : List Nat
  tal    : List Nat
  heartbeat : Nat
  talHb  : Nat
  authCtx : Nat
  authFrom : Nat
  tagLen : Nat
  /-- Patch points: offset, kind, bit. -/
  patch  : List (Nat × Nat × Nat)
  deriving DecidableEq, Repr

/-- A slot's state (Table 5-1); HELD is ARMED with a reason. -/
inductive SlotState where
  | loaded | armed
  deriving DecidableEq, Repr

/-- A reflex slot that is not EMPTY. -/
structure Slot where
  tmpl   : Template
  state  : SlotState := .loaded
  /-- Reasons of HELD (R136, R137). -/
  heldHove : Bool := false
  heldKey : Bool := false
  values : W32 := 0
  staged : W32 := 0
  seq    : Byte := 0
  stNum  : W32 := 0
  sqNum  : W32 := 0
  /-- t of the state, 8 octets as sent, and its time-base ns. -/
  t      : Bytes := zeros 8
  tNs    : Nat := 0
  /-- Next transmission number and when it is due, in time-base ns (R134). -/
  step   : Nat := 0
  due    : Option Nat := none
  /-- The held write: staged LO, HI and when it was received. -/
  held   : Option (W32 × W32 × Nat) := none
  deriving DecidableEq, Repr

/-- A GOOSE control block's state. -/
inductive GooseState where
  | waiting | live | expired
  deriving DecidableEq, Repr

/-- Code of a control block's state; 0 is UNSUBSCRIBED. -/
def GooseState.code : GooseState → Nat
  | .waiting => 1
  | .live => 2
  | .expired => 3

/-- A GOOSE subscription (Table 5-7). -/
structure GooseCb where
  dst    : Nat
  appid  : Nat
  confRev : Nat
  auth   : Bool
  acceptSim : Bool
  checkConfRev : Bool
  recordOnChange : Bool
  board  : Nat
  authCtx : Nat
  ref    : Bytes
  watchers : List Nat
  state  : GooseState := .waiting
  stNum  : Nat := 0
  sqNum  : Nat := 0
  gen    : W32 := 0
  /-- Lifetime: the expiry instant in time-base ns, TAL in ms. -/
  expires : Nat := 0
  tal    : Nat := 0
  /-- What the board last held, its first 1,020 octets. -/
  boardImg : Bytes := zeros 1020
  cnt    : Cnts := Cnts.zero 8
  deriving DecidableEq, Repr

/-- The reflex and GOOSE engine (R142). -/
structure Reflex where
  /-- Slots at instance × 8 + slot. -/
  slots   : KMap Slot := []
  goose   : KMap GooseCb := []
  queue   : List Steered := []
  late    : W32 := 0
  max     : W32 := 0
  cnt     : Cnts := Cnts.zero 8
  unmatched : W32 := 0
  /-- Publications counted late whose copies still stand at a port, so that no copy counts twice (R24, R135). -/
  lateIds : List Nat := []
  slotSel : Nat := 0
  gooseSel : Nat := 0
  deriving DecidableEq, Repr

end Sys2Proof.Machine
end

