-- ==== Sys2Proof/Machine/StateRec.lean ====
section
/-!
DEFINITION. Machine/StateRec.lean: the recorder and the storage offload in D13 (chapter 11).
-/

set_option Elab.async false
namespace Sys2Proof.Machine

open Sys2Proof

/-- REC_CONFIG's fields (Table 11-8). -/
structure RecCfg where
  enable : Bool := false
  overwrite : Bool := false
  reflexTx : Bool := false
  rawSelect : Nat := 0
  almMask : Nat := 0
  rawSnap : Nat := 64
  sizeGib : Nat := 1
  preMs  : Nat := 0
  postMs : Nat := 0
  maxEventMs : Nat := 0
  peerBase : Nat := 0
  /-- Instances with the trigger right. -/
  rights : List Nat := []
  deriving DecidableEq, Repr

/-- A record that waits in the input buffer, header and body, padded (Table 11-3). -/
structure Rec where
  octets : Bytes
  deriving DecidableEq, Repr

/-- What the adapter knows of a capture block it has entered (Table 11-2). -/
structure Block where
  seq   : Nat
  sec   : Nat
  ns    : Nat
  first : Option Nat := none
  records : Nat := 0
  ended : Bool := false
  /-- Events whose span includes it. -/
  cover : Nat := 0
  deriving DecidableEq, Repr

/-- States of an event other than FREE (Table 11-5). -/
inductive EventState where
  | open | closed | exporting
  deriving DecidableEq, Repr

/-- Code of an event's state. -/
def EventState.code : EventState → Nat
  | .open => 1
  | .closed => 2
  | .exporting => 3

/-- An event (Table 11-5); times in ns of the time base. -/
structure RecEvent where
  state  : EventState
  source : Nat
  sourceId : Nat
  preShort : Bool := false
  extended : Bool := false
  truncated : Bool := false
  drops  : Bool := false
  hoveTo : Bool := false
  triggers : Nat := 1
  tNs    : Nat
  endNs  : Nat
  firstPos : Nat
  firstSeq : Nat
  /-- The blocks of the span, in SEQ order. -/
  blocks : List Nat
  seq    : Nat
  deriving DecidableEq, Repr

/-- State of the NVMe queue pair (REC_STATUS.QP). -/
inductive QpState where
  | detached | attached | broken
  deriving DecidableEq, Repr

/-- Code of the pair's state. -/
def QpState.code : QpState → Nat
  | .detached => 0
  | .attached => 1
  | .broken => 2

/-- The queue pair (Table 11-9, R279). -/
structure Qp where
  state  : QpState := .detached
  qid    : Nat := 0
  depth  : Nat := 2
  lbaShift : Nat := 9
  xferShift : Nat := 12
  sqDb   : Nat := 0
  cqDb   : Nat := 0
  nsid   : Nat := 0
  timeoutMs : Nat := 5000
  tail   : Nat := 0
  sqHead : Nat := 0
  cqHead : Nat := 0
  phase  : Nat := 1
  /-- Entries consumed since CQ_DB was last written. -/
  consumed : Nat := 0
  /-- Commands outstanding: CID, when submitted, LBAs. -/
  outstanding : List (Nat × Nat × Nat) := []
  /-- Of these, the commands whose data is staged index entries, with its offset in the area (R278). -/
  staged : List (Nat × Nat) := []
  deriving DecidableEq, Repr

/-- A running export (R278): pieces still to be written as (offset in the area, octets), the next LBA, and what has
happened. -/
structure Export where
  event  : Nat
  lba    : Nat
  nsid   : Nat
  todo   : List (Nat × Nat)
  /-- Part 3, the index entries and their padding, as far as no command carries it yet. -/
  index  : Bytes := []
  flush  : Bool
  flushed : Bool := false
  /-- DETACH waits: the export ends ABORTED once its commands have ended. -/
  aborted : Bool := false
  failed : Option (Nat × Nat) := none
  lbas   : Nat := 0
  deriving DecidableEq, Repr

/-- A storage registration in a connection's slot (Table 13-7). -/
structure Registration where
  cid    : Nat
  pieces : List (Nat × Nat)
  len    : Nat
  tag    : Nat
  deriving DecidableEq, Repr

/-- The PDU a connection's stream stands in (R281 to R283). -/
structure PduState where
  /-- Header octets gathered so far; HLEN is known from the third. -/
  head   : Bytes := []
  /-- Offset within the PDU of the next octet. -/
  pos    : Nat := 0
  /-- The header has been checked; where its data goes: slot and DATAO, if it is placed. -/
  parsed : Bool := false
  place  : Option (Nat × Nat) := none
  placed : Nat := 0
  crc    : BitVec 32 := 0xFFFFFFFF
  digest : Bytes := []
  deriving DecidableEq, Repr

/-- An offloaded connection (R288). -/
structure Conn where
  inst   : Nat
  handle : Nat
  depth  : Nat
  hdgst  : Bool
  ddgst  : Bool
  regs   : KMap Registration := []
  pdu    : PduState := {}
  /-- The sequence number at which parsing is to resume (R281). -/
  resync : Option Nat := none
  deriving DecidableEq, Repr

/-- The recorder and the storage offload (R289). -/
structure Recorder where
  cfg    : RecCfg := {}
  /-- Capture runs (RUNNING, or HELD while hove-to). -/
  running : Bool := false
  held   : Bool := false
  block  : Nat := 0
  /-- Octets of the present block already written. -/
  off    : Nat := 0
  nextSeq : Nat := 1
  blocks : KMap Block := []
  queue  : List Rec := []
  dropped : Nat := 0
  events : KMap RecEvent := []
  eventSeq : Nat := 0
  qp     : Qp := {}
  exp    : Option Export := none
  expSeq : Nat := 0
  expReady : Bool := false
  expOutcome : Nat := 0
  expEvent : Nat := 0
  expStatus : Nat := 0
  expCid : Nat := 0
  expLbas : W32 := 0
  cnt    : Cnts := Cnts.zero 8
  conns  : KMap Conn := []
  nvmetCnt : Cnts := Cnts.zero 8
  deriving DecidableEq, Repr

end Sys2Proof.Machine
end

