-- ==== Sys2Proof/Machine/StateHelm.lean ====
section
/-!
DEFINITION. Machine/StateHelm.lean: Helm's threads, events, channels, debugger and DMA movers (chapter 16).
-/

set_option Elab.async false
namespace Sys2Proof.Machine

open Sys2Proof

/-- Thread states (Table 16-1). -/
inductive ThrState where
  | free | runnable | waitEvent | waitJoin | waitSend | waitRecv | faultHalt | debugHalt | done
  deriving DecidableEq, Repr

/-- Code of a thread state. -/
def ThrState.code : ThrState → Nat
  | .free => 0
  | .runnable => 1
  | .waitEvent => 2
  | .waitJoin => 3
  | .waitSend => 4
  | .waitRecv => 5
  | .faultHalt => 6
  | .debugHalt => 7
  | .done => 8

/-- A hardware thread (R378 to R392). -/
structure Thread where
  state  : ThrState := .free
  prior  : ThrState := .free
  cls    : Nat := 0
  pc     : W32 := 0
  /-- w0 to w31; w0 always reads zero. -/
  regs   : List W32 := List.replicate 32 0
  trap   : W32 := 0
  trapActive : Bool := false
  /-- Source each input is mapped to, and the latches. -/
  inputs : List (Option Nat) := List.replicate 8 none
  latched : Nat := 0
  /-- WAIT mask, JOIN target, channel waited on, and the register the result goes to. -/
  mask   : Nat := 0
  target : Nat := 0
  chan   : Nat := 0
  rd     : Nat := 0
  /-- Deadline of the armed timer. -/
  timer  : Option Nat := none
  /-- Staging buffer: channel and words by position. -/
  stageCh : Option Nat := none
  stage  : KMap W32 := []
  /-- The message a blocking CHCOMMIT waits to commit. -/
  sending : List W32 := []
  exitVal : W32 := 0
  /-- One step is to be executed before the debugger halts it again. -/
  stepping : Bool := false
  /-- The debugger has let it go on, so that a breakpoint at its next instruction does not halt it again. -/
  skipBp : Bool := false
  /-- Model clock when it entered FAULT_HALT (R390). -/
  faultAt : Nat := 0
  deriving DecidableEq, Repr

/-- A channel (R387). -/
structure Chan where
  depth  : Nat := 0
  msgs   : List (List W32) := []
  torn   : W32 := 0
  senders : List Nat := []
  receivers : List Nat := []
  deriving DecidableEq, Repr

/-- A mover register set (Table 16-8). -/
structure MoverSet where
  src    : Nat
  dst    : Nat
  len    : Nat
  mode   : Nat
  srcSpace : Nat
  dstSpace : Nat
  srcFixed : Bool
  dstFixed : Bool
  inst   : Nat
  usePasid : Bool
  fill   : Nat
  deriving DecidableEq, Repr

/-- A DMA mover (R398 to R401). -/
structure Mover where
  held   : Bool := false
  owner  : Nat := 0
  active : Option MoverSet := none
  shadow : Option MoverSet := none
  error  : Nat := 0
  /-- An error waits for ERR_ACK. -/
  errHold : Bool := false
  done   : W32 := 0
  mismatch : W32 := 0
  deriving DecidableEq, Repr

/-- A debug grant (R402, R403). -/
structure Grant where
  scope : Nat
  until_ : Nat
  deriving DecidableEq, Repr

/-- Helm and its debugger. -/
structure Helm where
  /-- The cores are out of reset; bit c for core c. -/
  cores  : Nat := 0
  /-- Cores that run on the system PLL (R437). -/
  onPll  : Nat := 0
  /-- Threads (R378); one that is not listed is FREE. -/
  thr    : KMap Thread := []
  chans  : KMap Chan := []
  rose   : List (List Nat) := []
  movers : List Mover := List.replicate 16 {}
  /-- The core and shared SRAM, by on-die address. -/
  sram   : Mem := []
  becalmed : Bool := false
  restarts : Nat := 0
  threadSel : Nat := 0
  chanSel : Nat := 0
  breakEn : Bool := false
  dbgReject : Bool := false
  bp     : List W32 := List.replicate 16 0
  cnt    : Cnts := Cnts.zero 8
  /-- Becalmed detector: last delivery or break of a condition, and whether it may fire. -/
  calmSince : Nat := 0
  calmArmed : Bool := true
  /-- When the last restarts began, at most three (R397). -/
  restartAt : List Nat := []
  /-- A restart is due (R390, R395): Binnacle has been told. -/
  restartDue : Bool := false
  /-- When the restart in progress began (R397). -/
  restarting : Option Nat := none
  grant  : Option Grant := none
  challenge : Option Bytes := none
  snapSeq : Nat := 0
  /-- The last snapshot (Table 16-6), if one is stored. -/
  snapshot : Option Bytes := none
  deriving DecidableEq, Repr

end Sys2Proof.Machine
end

