-- ==== Sys2Proof/Machine/State.lean ====
section
/-!
DEFINITION. Machine/State.lean: the whole state of the adapter, the reasons a step can stop, and the state after reset.
-/

set_option Elab.async false
namespace Sys2Proof.Machine

open Sys2Proof

/-- No command of this block ends in a fault. -/
inductive Fault where
  /-- Never raised: kept so that the type has a name for a fault; safe. -/
  | none
  deriving DecidableEq, Repr

/-- Why a command is refused. -/
inductive Refusal where
  /-- The command has no meaning in this model yet; safe. -/
  | notModelled (mnemonic : String)
  deriving DecidableEq, Repr

/-- The adapter: every register, queue, table and pin the manual gives it, and the commands that wait. -/
structure State where
  /-- The model's clock: 1.25 GHz time-base clocks of 0.8 ns since reset (log entry 1). -/
  now    : Nat := 0
  /-- How many free values have been drawn (log entry 2). -/
  free   : Nat := 0
  host   : HostSide := {}
  power  : Power := {}
  mem    : MemSys := {}
  boot   : Boot := {}
  err    : Err := {}
  evt    : Evt := {}
  module_ : Module := {}
  insts  : KMap Inst := []
  bounds : KMap Bounds := []
  rings  : KMap Ring := [(8224, { log2 := 4 })]
  dechan : Dechan := {}
  mig    : Migration := {}
  time   : TimeSt := {}
  flow   : Flow := {}
  cls    : Cls := {}
  sw     : Switching := {}
  sched  : Sched := {}
  ciph   : Cipher := {}
  ports  : Ports := {}
  alm    : Alm := {}
  reflex : Reflex := {}
  recd   : Recorder := {}
  helm   : Helm := {}
  /-- The data DRAM by system address (Table 17-2): the recorder region and Helm's areas are held here. -/
  dram   : Mem := []
  /-- Registers snapshotted by a read of an RS register (R6), keyed by space and offset. -/
  snap   : KMap W32 := []
  /-- What the adapter has done that its surroundings can see, oldest first. -/
  out    : List Output := []
  /-- Commands that wait, first in first out. -/
  pending : List Instr := []
  deriving DecidableEq, Repr

/-- The machine right after reset: no rail has been good yet, every register holds its Cold value. -/
def State.reset : State := {}

end Sys2Proof.Machine
end

