-- ==== Sys2Proof/Machine/Ops.lean ====
section
/-!
DEFINITION. Machine/Ops.lean: the operations that every unit shares: time, posted writes, messages, events,
violations, host errors, rings, completions and the carrying out of a Dechan command.
-/

set_option Elab.async false
namespace Sys2Proof.Machine

open Sys2Proof

/-! ### Time -/

/-- Ticks of 0.8 ns in a microsecond. -/
def usTicks : Nat := 1250
/-- Ticks in a millisecond. -/
def msTicks : Nat := 1250000
/-- Ticks in a second. -/
def secTicks : Nat := 1250000000

/-- The model's clock in whole milliseconds. -/
def State.nowMs (s : State) : Nat := s.now / msTicks

/-- At least `t` ticks have passed since `since`. -/
def State.elapsed (s : State) (since t : Nat) : Bool := decide (since + t ≤ s.now)

/-- Domain `d` is in Run (R19). -/
def State.inRun (s : State) (d : Nat) : Bool := s.power.dom.getD d .stop == .run

/-- Domains in Run, bit d for domain d. -/
def State.runMask (s : State) : Nat := maskOf 14 s.inRun

/-- Nanoseconds of the time base for a record; 0 while D12 is not in Run (Table 19-3). -/
def State.stampNs (s : State) : Nat := if s.inRun 12 then s.time.ns else 0

/-- Seconds [31:0] of the time base for a record; 0 while D12 is not in Run. -/
def State.stampSec (s : State) : Nat := if s.inRun 12 then s.time.sec % 2 ^ 32 else 0

/-- The adapter is hove-to while any cause is set (R442). -/
def State.hove (s : State) : Bool := s.boot.causes != 0

/-- Helm serves: D4 in Run, no HELM cause, thread 0 accepted as ready (R430). -/
def State.helmRuns (s : State) : Bool := s.inRun 4 && s.boot.phase == .running && !bit s.boot.causes 0

/-- A free value, and the state in which the next one follows (log entry 2). -/
def State.draw (s : State) : W64 × State := (Config.freeWord s.free, { s with free := s.free + 1 })

/-- `n` free octets, eight a value. -/
def State.drawBytes (s : State) (n : Nat) : Bytes × State :=
  let k := ceilDiv n 8
  (((List.range k).flatMap (fun i => leBytes 8 (Config.freeWord (s.free + i)).toNat)).take n,
    { s with free := s.free + k })

/-! ### Helm's event sources (R383, R384) -/

/-- A thread's register written; w0 stays zero. -/
def Thread.setReg (x : Thread) (r : Nat) (v : W32) : Thread := if r = 0 then x else { x with regs := x.regs.set r v }

/-- The value of a thread's register. -/
def Thread.reg (x : Thread) (r : Nat) : W32 := if r = 0 then 0 else x.regs.getD r 0

/-- Inputs of a thread that are mapped to a source, as a mask. -/
def Thread.inputsOf (x : Thread) (src : Nat) : Nat := maskOf 8 (fun k => x.inputs.getD k none == some src)

/-- A WAIT ends: its result is the latched inputs of the mask, which are cleared (R382). -/
def Thread.waitEnd (x : Thread) : Thread :=
  let got := x.latched &&& x.mask
  { x.setReg x.rd (BitVec.ofNat 32 got) with latched := x.latched - got, state := .runnable, mask := 0 }

/-- Latches set by a delivery, which wakes a waiting thread whose mask covers one (R384). -/
def Thread.deliver (x : Thread) (m : Nat) : Thread :=
  let x := { x with latched := x.latched ||| m }
  if x.state = .waitEvent ∧ x.latched &&& x.mask ≠ 0 then x.waitEnd else x

/-- A source pulses (R384): every live thread with an input mapped to it; a delivery restarts the becalmed detector (R394). -/
def State.pulse (s : State) (src : Nat) : State :=
  if s.helm.thr.any (fun (p : Nat × Thread) => p.2.state != .free && p.2.inputsOf src != 0) then
    { s with
      helm.thr := s.helm.thr.mapVals (fun _ x => if x.state ≠ .free ∧ x.inputsOf src ≠ 0 then x.deliver (x.inputsOf src) else x)
      helm.calmSince := s.now
      helm.calmArmed := true }
  else s

/-- A source that holds a level pulses when the level rises (R383). -/
def State.levelRise (s : State) (src : Nat) (was is : Bool) : State := if !was && is then s.pulse src else s

/-! ### The link -/

/-- Configuration space of a function. -/
def State.cfg (s : State) (fn : Fn) : CfgSpace :=
  match fn with
  | .pf0 => s.host.cfg0
  | .pf1 => s.host.cfg1

/-- A function's configuration space changed. -/
def State.setCfg (s : State) (fn : Fn) (c : CfgSpace) : State :=
  match fn with
  | .pf0 => { s with host.cfg0 := c }
  | .pf1 => { s with host.cfg1 := c }

/-- The adapter has done something its surroundings can see. -/
def State.emit (s : State) (o : Output) : State := { s with out := s.out ++ [o] }

/-! ### SMB_ALERT_N (R474) -/

/-- SMB_ALERT_N is to be asserted: 110 °C or more, or an alarm latched (R474). -/
def State.alertDue (s : State) : Bool := decide (110 * 256 ≤ s.module_.dieTemp.toInt) || s.ciph.latched != 0

/-- SMB_ALERT_N after a change of its cause or a read of the Alert Response Address: asserted while the cause stands, released
once the address has been read and the cause has cleared (R474). -/
def State.alertSettle (s : State) : State :=
  if !s.inRun 0 then s
  else if s.alertDue && !s.module_.alertAsserted then
    State.emit { s with module_.alertAsserted := true, module_.alertRead := false } (.land .smbAlertN false)
  else if !s.alertDue && s.module_.alertAsserted && s.module_.alertRead then
    State.emit { s with module_.alertAsserted := false, module_.alertRead := false } (.land .smbAlertN true)
  else s

/-- Requests can leave the endpoint: D2 in Run and the link up. -/
def State.linkReady (s : State) : Bool := s.inRun 2 && s.host.linkUp

/-- The address a cached translation gives for a request (R311). -/
def State.xlate (s : State) (fn : Fn) (pasid : Option Nat) (addr : Nat) : Nat :=
  if (s.cfg fn).atsEn then
    match s.host.xlats.find? (fun x => x.page == addr / 4096 && x.pasid == pasid) with
    | some x => x.phys * 4096 + addr % 4096
    | none => addr
  else addr

/-- A request leaves the endpoint, under a cached translation where there is one (R311). -/
def State.emitReq (s : State) (o : Output) : State :=
  match o with
  | .write fn pasid addr b => s.emit (.write fn pasid (s.xlate fn pasid addr) b)
  | o => s.emit o

/-- A request of a function leaves in order; it waits while Bus Master Enable is 0 (R305), and is discarded and
counted while the link is down (R312). -/
def State.issue (s : State) (fn : Fn) (o : Output) : State :=
  if !s.inRun 2 then s
  else if !s.host.linkUp then { s with err.hostCnt := s.err.hostCnt.inc 5 }
  else if (s.cfg fn).bme then s.emitReq o
  else { s with host.waiting := s.host.waiting ++ [o] }

/-- A posted write of a function (R305, R306, R311). -/
def State.post (s : State) (fn : Fn) (pasid : Option Nat) (addr : Nat) (b : Bytes) : State :=
  if b.isEmpty then s else s.issue fn (.write fn pasid addr b)

/-- A posted write by PF 0 without a PASID. -/
def State.post0 (s : State) (addr : Nat) (b : Bytes) : State := s.post .pf0 none addr b

/-- A write of the almanac has left the endpoint: a frame's arrival-to-post time is measured (R22), a late seal record is
counted with its almanac (R107). -/
def State.postMeasured (s : State) (m : PostMark) : State :=
  let ns := m.spent + (s.now - m.since) * 4 / 5
  let late := decide (5 * m.limit < 5 * m.spent + 4 * (s.now - m.since))
  match m.alm with
  | none =>
    { s with
      alm.ingestMax := if s.alm.ingestMax.toNat < ns then BitVec.ofNat 32 (min ns (2 ^ 32 - 1)) else s.alm.ingestMax
      alm.ingestLate := if late then s.alm.ingestLate + 1 else s.alm.ingestLate }
  | some k =>
    let count (a : Almanac) : Almanac := if late then { a with late := a.late + 1 } else a
    if s.alm.tab.has k then { s with alm.tab := s.alm.tab.upd k count } else { s with alm.tabOld := s.alm.tabOld.upd k count }

/-- A round's records no longer wait: PROD counts them (R263). -/
def Sounding.settle (x : Sounding) : Sounding := { x with prod := x.prod + BitVec.ofNat 32 x.writing, writing := 0 }

/-- Rounds whose records no longer wait in the endpoint. -/
def State.roundsSettle (s : State) : State := { s with sched.snd := s.sched.snd.map Sounding.settle }

/-- A write of the almanac just issued is judged: at once when it left, later when it waits (R305), never when it was discarded
(R312). -/
def State.notePost (s : State) (m : PostMark) : State :=
  if !s.linkReady then s
  else if (s.cfg .pf0).bme then s.postMeasured m
  else { s with alm.marks := s.alm.marks ++ [m] }

/-- Requests of a function that waited for Bus Master Enable leave in order (R305). -/
def State.flushWaiting (s : State) (fn : Fn) : State :=
  let mine (o : Output) : Bool := match o with | .write f _ _ _ => f == fn | .msi f _ _ _ => f == fn | _ => false
  let go := s.host.waiting.filter mine
  let s := go.foldl State.emitReq { s with host.waiting := s.host.waiting.filter (fun o => !mine o) }
  match fn with
  | .pf0 => State.roundsSettle (s.alm.marks.foldl State.postMeasured { s with alm.marks := [] })
  | .pf1 => s

/-! ### Messages (R308 to R310) -/

/-- The entry of a vector; vectors of PF 0 from 64 up are instance vectors. -/
def State.msixEntry (s : State) (fn : Fn) (vec : Nat) : MsixEntry :=
  match fn with
  | .pf1 => s.host.msix1.getD vec {}
  | .pf0 => if vec < 64 then s.host.msix0.getD vec {} else s.host.instVec.getD (vec - 64) {}

/-- A vector's entry changed. -/
def State.setMsix (s : State) (fn : Fn) (vec : Nat) (e : MsixEntry) : State :=
  match fn with
  | .pf1 => { s with host.msix1 := s.host.msix1.put vec e }
  | .pf0 =>
    if vec < 64 then { s with host.msix0 := s.host.msix0.put vec e }
    else { s with host.instVec := s.host.instVec.put (vec - 64) e }

/-- The function sends messages: MSI-X Enable 1 and Function Mask 0. -/
def State.msixOn (s : State) (fn : Fn) : Bool := (s.cfg fn).msixEn && !(s.cfg fn).msixMask

/-- A message of a vector: sent when nothing masks it, pending otherwise (R308). -/
def State.msi (s : State) (fn : Fn) (vec : Nat) : State :=
  if !s.inRun 2 then s
  else
    let e := s.msixEntry fn vec
    if s.msixOn fn && !e.masked then s.issue fn (.msi fn vec e.addr.toNat e.data)
    else s.setMsix fn vec { e with pending := true }

/-- A pending message is sent once nothing masks it (R308). -/
def State.msiRelease (s : State) (fn : Fn) (vec : Nat) : State :=
  let e := s.msixEntry fn vec
  if e.pending && s.msixOn fn && !e.masked then
    (s.setMsix fn vec { e with pending := false }).issue fn (.msi fn vec e.addr.toNat e.data)
  else s

/-- Instance vector `v` of instance `i` (R308); the manager's own vectors are sent with `State.msi`. -/
def State.instMsi (s : State) (i v : Nat) : State := s.msi .pf0 (64 + i * 4 + v)

/-! ### The manager event path (R482) -/

/-- An event of source `b`. -/
def State.event (s : State) (b : Nat) : State :=
  let old := s.evt.cause
  let s := { s with evt.cause := old ||| 2 ^ b, evt.cnt := s.evt.cnt.inc b }
  if !bit old b && bit s.evt.enable b then s.msi .pf0 (16 + b) else s

/-- A bit of ERR_SUMMARY sets; a change from 0 to 1 raises the error event (R449). -/
def State.errBit (s : State) (k : Nat) : State :=
  if bit s.err.summary k then s
  else State.event { s with err.summary := s.err.summary ||| 2 ^ k } 20

/-! ### Host errors (R454) -/

/-- An entry of the host error log, with its counter of Table 19-4. -/
def State.hostError (s : State) (kind fnBit id tag addr cnt : Nat) : State :=
  let n := s.err.hostNext
  let e : HostErr :=
    { w0 := BitVec.ofNat 32 s.stampNs
      w1 := BitVec.ofNat 32 (kind + fnBit * 256 + id * 65536)
      w2 := BitVec.ofNat 32 (tag + n.toNat % 65536 * 65536)
      w3 := BitVec.ofNat 32 addr }
  State.errBit
    { s with
      err.hostLog := s.err.hostLog.put (n.toNat % 64) e
      err.hostNext := n + 1
      err.hostCnt := s.err.hostCnt.inc cnt } 1

/-- AER status bit of an uncorrectable error of Table 12-10, as PCI Express Base 5.0 places it (log entry 7). -/
def aerUncBit : AerError → Option Nat
  | .dataLink => some 4
  | .surpriseDown => some 5
  | .poisonedTlp => some 12
  | .flowControl => some 13
  | .completionTimeout => some 14
  | .completerAbort => some 15
  | .unexpectedCompletion => some 16
  | .receiverOverflow => some 17
  | .malformedTlp => some 18
  | .unsupportedRequest => some 20
  | .uncorrectableInternal => some 22
  | _ => none

/-- AER status bit of a correctable error of Table 12-10 (log entry 7). -/
def aerCorBit : AerError → Option Nat
  | .receiverError => some 0
  | .badTlp => some 6
  | .badDllp => some 7
  | .replayRollover => some 8
  | .replayTimeout => some 12
  | .correctedInternal => some 14
  | _ => none

/-- The error came with a TLP, whose header the log records. -/
def AerError.hasTlp : AerError → Bool
  | .unsupportedRequest | .completerAbort | .poisonedTlp | .unexpectedCompletion | .malformedTlp => true
  | _ => false

/-- An error of Table 12-10 is reported through AER by a function: its status; advisory where its class is non-fatal; the first
that no mask hides stays in the header log until the host clears it (R314). -/
def State.aer (s : State) (fn : Fn) (e : AerError) : State :=
  let c := s.cfg fn
  let unc := (aerUncBit e).isSome
  let first := unc && c.firstErr.isNone && !(match aerUncBit e with | some k => bit c.uncMask.toNat k | none => false)
  s.setCfg fn { c with
    errs := addNew c.errs e
    advisory := c.advisory || (unc && !c.fatal.contains e)
    firstErr := if first then some e else c.firstErr
    hdrSeq := if first && e.hasTlp then c.hdrSeq + 1 else c.hdrSeq }

/-- A function has reporting of an error of its present class enabled in Device Control. -/
def CfgSpace.reports (c : CfgSpace) (e : AerError) : Bool :=
  bit c.errEn (if (aerCorBit e).isSome then 0 else if c.fatal.contains e then 2 else 1)

/-- Completion timeout of a function in ticks (Table 12-7). -/
def CfgSpace.timeoutTicks (c : CfgSpace) : Nat :=
  if c.cto = 1 then 80 * usTicks
  else if c.cto = 2 then 8 * msTicks
  else if c.cto = 5 then 40 * msTicks
  else if c.cto = 6 then 160 * msTicks
  else 10 * msTicks

/-- A tag an issuing function may use (R301). -/
def CfgSpace.tagUsable (c : CfgSpace) (t : Nat) : Bool :=
  if t < 32 then true else if t < 256 then c.extTag else c.tenBit && t < 1024

/-- The lowest usable free tag, if any (R301). -/
def State.freeTag (s : State) (fn : Fn) : Option Nat :=
  (List.range 1024).find? (fun t => (s.cfg fn).tagUsable t && !s.host.tags.has t)

/-- What happens at a completion timeout of a tag (R302 to R304): logged, counted, quarantined for twice the value. -/
def State.timeOutTag (s : State) (fn : Fn) (tag addr : Nat) : State :=
  let s := (s.hostError 2 fn.num 0 tag addr 1).aer fn .completionTimeout
  { s with host.tags := s.host.tags.put tag (.quarantined (s.now + 2 * (s.cfg fn).timeoutTicks)) }

/-- The outcome of a read that a command carries, as the adapter meets it: an injected timeout (R461) comes first. -/
def State.effRead (s : State) (fn : Fn) (r : HostRead) : HostRead :=
  if s.err.injectTimeout && fn == .pf0 then .timeout else r

/-- The same of a read that may bring part of its octets before it fails. -/
def State.effPart (s : State) (r : MoverRead) : MoverRead := if s.err.injectTimeout then { got := [], fail := some .timeout } else r

/-- Max Read Request Size of a function in octets (R292). -/
def CfgSpace.readMax (c : CfgSpace) : Nat := 128 * 2 ^ min c.mrrs 5

/-- The requests that a read of `len` octets is issued as, in ascending address order: none crosses a multiple of the Max Read
Request Size (R292, log entry 132). -/
def CfgSpace.readParts (c : CfgSpace) (addr len : Nat) : List (Nat × Nat) :=
  let m := c.readMax
  if len = 0 then []
  else (List.range ((addr + len - 1) / m + 1 - addr / m)).map (fun k =>
    let a := max addr ((addr / m + k) * m)
    (a, min (addr + len) ((addr / m + k + 1) * m) - a))

/-- The requests of a read leave the endpoint (R292, R311, R16). -/
def State.emitReads (s : State) (fn : Fn) (pasid : Option Nat) (addr len tag : Nat) : State :=
  ((s.cfg fn).readParts addr len).foldl (fun t p => t.emit (.readReq fn pasid (s.xlate fn pasid p.1) p.2 tag)) s

/-- A function may issue a read now (R305, R312). -/
def State.mayRead (s : State) (fn : Fn) : Bool := s.linkReady && (s.cfg fn).bme

/-- A read that a unit is to make now cannot be issued: it waits in the unit's order (R301, R305). -/
def State.readHeld (s : State) (fn : Fn) : Bool := !s.mayRead fn || (s.freeTag fn).isNone

/-- A read that waits for want of a usable tag is counted (R301). -/
def State.readWait (s : State) (fn : Fn) : State :=
  if s.mayRead fn then { s with err.hostCnt := s.err.hostCnt.inc 0 } else s

/-- An injected timeout is used up by a read of PF 0 (R461). -/
def State.timeoutMet (s : State) (fn : Fn) : State :=
  { s with err.injectTimeout := if fn == Fn.pf0 then false else s.err.injectTimeout }

/-- What a read under the lowest usable tag brings (R303): its data, or none with the error logged. -/
def State.readResult (s : State) (fn : Fn) (addr : Nat) (r : HostRead) : Option Bytes × State :=
  let tag := (s.freeTag fn).getD 0
  match s.effRead fn r with
  | .data b => (some b, s)
  | .errorCpl poisoned completer =>
    let s := s.hostError 3 fn.num completer tag 0 3
    (none, if poisoned then s.aer fn .poisonedTlp else s)
  | .timeout => (none, (s.timeoutMet fn).timeOutTag fn tag addr)

/-- A read of pieces of host memory made within one command (log entry 4): its requests leave under the lowest usable tag, which
returns at once, unless the read timed out. -/
def State.hostReads (s : State) (fn : Fn) (pasid : Option Nat) (ps : List (Nat × Nat)) (r : HostRead) : Option Bytes × State :=
  (ps.foldl (fun s p => s.emitReads fn pasid p.1 p.2 ((s.freeTag fn).getD 0)) s).readResult fn ((ps.head?.map (·.1)).getD 0) r

/-- A read of `len` octets of host memory made within one command. -/
def State.hostRead (s : State) (fn : Fn) (pasid : Option Nat) (addr len : Nat) (r : HostRead) : Option Bytes × State :=
  s.hostReads fn pasid [(addr, len)] r

/-! ### DRAM words and their errors (R406, R411) -/

/-- An uncorrectable error is logged, counted and raised (R406, R411). -/
def State.logUe (s : State) (memory bank addr cnt : Nat) (scrub : Bool) : State :=
  let e : UeEntry := { addr := addr, memory := memory, bank := bank, scrub := scrub, ns := s.stampNs }
  let n := s.mem.ueNext
  let s := { s with
    mem.ueLog := s.mem.ueLog.put (n.toNat % 16) e, mem.ueNext := n + 1, mem.cnt := s.mem.cnt.inc cnt }
  (s.event 17).errBit 2

/-- The DRAM die of an address (Table 17-2). -/
def dramDie (a : Nat) : Nat :=
  if a < 0x384000000 then a / 64 % 2 else if a < 0x390000000 then a / 128 % 2 else if a < 0x3A8000000 then 0 else 1

/-- Bits that an error mask inverts in its word (R461). -/
def invBits (m : Nat) : Nat := m % 2 + m / 2 % 2

/-- Bits in error in the words of a memory that a range of addresses touches. -/
def State.errBits (s : State) (memory addr len : Nat) : Nat :=
  s.mem.errors.foldl (fun a e => if e.1 = memory ∧ addr < e.2.1 + 8 ∧ e.2.1 < addr + len then max a (invBits e.2.2) else a) 0

/-- A read of DRAM: nothing where a word is uncorrectable (R411, Table 17-1). -/
def State.dramRead (s : State) (addr len : Nat) : Option Bytes × State :=
  let e := s.errBits 1 addr len
  let s := if e = 1 then { s with mem.cnt := s.mem.cnt.inc 2 } else s
  if 2 ≤ e then (none, s.logUe 1 (10 + dramDie addr) addr 3 false)
  else (some (s.dram.readN addr len), s)

/-- A write of DRAM; a word written anew holds no error. -/
def State.dramWrite (s : State) (addr : Nat) (b : Bytes) : State :=
  { s with
    dram := s.dram.writeN addr b
    mem.errors := s.mem.errors.filter (fun e => !(e.1 == 1 && decide (addr < e.2.1 + 8) && decide (e.2.1 < addr + b.length))) }

/-! ### Instances, bounds and rings -/

/-- An instance; one that is not listed is ABSENT. -/
def State.inst (s : State) (i : Nat) : Inst := s.insts.getD i {}

/-- An instance changed. -/
def State.setInst (s : State) (i : Nat) (x : Inst) : State := { s with insts := s.insts.put i x }

/-- A ring by its global number; 8,224 is the secure ring. -/
def State.ring (s : State) (r : Nat) : Ring := s.rings.getD r {}

/-- A ring changed. -/
def State.setRing (s : State) (r : Nat) (x : Ring) : State := { s with rings := s.rings.put r x }

/-- The secure ring's number in the model's ring table. -/
def secRing : Nat := 8224
/-- First manager ring (Table 13-3). -/
def mgrBase : Nat := 8192

/-- The function a ring's accesses are made by. -/
def ringFn (r : Nat) : Fn := if r = secRing then .pf1 else .pf0

/-- PASID of a ring's accesses: that of its instance; none for manager rings and the secure ring (R317, R341). -/
def State.ringPasid (s : State) (r : Nat) : Option Nat :=
  if r < mgrBase then (s.bounds.find (r / 16)).map (·.pasid) else none

/-- The completion ring of a ring's owner: q14, or manager ring 30. -/
def complRing (r : Nat) : Nat := if r < mgrBase then r / 16 * 16 + 14 else mgrBase + 30

/-- The event ring of an instance, or of the manager for 512. -/
def eventRing (i : Nat) : Nat := if i < 512 then i * 16 + 15 else mgrBase + 31

/-- An access lies wholly within one range that has the permission it needs (R336). -/
def Bounds.allows (b : Bounds) (addr len : Nat) (read write : Bool) : Bool :=
  b.ranges.any (fun r => decide (r.base ≤ addr) && decide (addr + len ≤ r.base + r.pages * 4096) &&
    (!read || r.read) && (!write || r.write))

/-- R16 and R336 for an instance's access; an instance without an entry has no access. -/
def State.inBounds (s : State) (i addr len : Nat) (read write : Bool) : Bool :=
  match s.bounds.find i with
  | some b => b.allows addr len read write
  | none => false

/-- R336 for a ring's access; the manager's rings have no bounds. -/
def State.ringInBounds (s : State) (r addr len : Nat) (read write : Bool) : Bool :=
  if r < mgrBase then s.inBounds (r / 16) addr len read write else true

/-- Page number of an address through an instance's ranges in order (R369). -/
def Bounds.pageOf : List Range → Nat → Nat → Option Nat
  | [], _, _ => none
  | r :: rs, base, addr =>
    if r.base ≤ addr ∧ addr < r.base + r.pages * 4096 then some (base + (addr - r.base) / 4096)
    else Bounds.pageOf rs (base + r.pages) addr

/-- The pages of a write are marked in the instance's dirty log, if it is logging (R369). -/
def State.markDirty (s : State) (i addr len : Nat) : State :=
  match s.mig.dirty.find i, s.bounds.find i with
  | some l, some b =>
    let first := addr / 4096
    let pages := (List.range ((addr + len + 4095) / 4096 - first)).filterMap
      (fun k => Bounds.pageOf b.ranges 0 ((first + k) * 4096))
    { s with mig.dirty := s.mig.dirty.put i { l with marked := pages.foldl addNew l.marked } }
  | _, _ => s

/-- A posted write made for a ring or its owner: inside bounds only (R336), marked in the dirty log (R369). -/
def State.postRing (s : State) (r addr : Nat) (b : Bytes) : State :=
  if r < mgrBase then
    if s.inBounds (r / 16) addr b.length false true then
      (s.markDirty (r / 16) addr b.length).post .pf0 (s.ringPasid r) addr b
    else s
  else s.post (ringFn r) none addr b

/-- Entry size of a ring (Table 13-2). -/
def ringEntry (r : Nat) : Nat :=
  if r = secRing then 64
  else if r < mgrBase then (if r % 16 = 0 then 64 else 32)
  else if r < mgrBase + 4 then 64 else 32

/-- Address of entry `k` of a ring (R318). -/
def Ring.slotAddr (x : Ring) (entry : Nat) (k : BitVec 16) : Nat := x.base + k.toNat % 2 ^ x.log2 * entry

/-- PHASE of a completion or event ring at producer index `k`: 1 on the first pass (R332). -/
def Ring.phase (x : Ring) (k : BitVec 16) : Nat := if k.toNat / 2 ^ x.log2 % 2 = 0 then 1 else 0

/-- A completion or event ring has room for an entry (R319, R332). -/
def Ring.room (x : Ring) : Bool := x.state == .enabled && decide ((x.fetch - x.pi).toNat < 2 ^ x.log2)

/-! ### Interrupt moderation (R334) -/

/-- Vectors of the two kinds of owner, as numbers of `State.msi` of PF 0 (Table 13-2, Table 21-6). -/
def ringVector (r : Nat) : Nat :=
  if r < mgrBase then
    let q := r % 16
    64 + r / 16 * 4 + (if q = 0 ∨ q = 14 then 3 else if q ≤ 6 then 1 else if q ≤ 13 then 0 else 3)
  else if r = mgrBase + 30 then 13 else if r = mgrBase + 31 then 14 else r - mgrBase

/-- The vectors that wait on a ring's moderation are sent; the secure ring's vector is vector 0 of PF 1. -/
def State.signal (s : State) (r : Nat) : State :=
  let x := s.ring r
  x.modVecs.foldl (fun s v => s.msi (ringFn r) v) (s.setRing r { x with modPending := 0, modVecs := [] })

/-- The ownership word of an entry moderated under ring `r` has been transmitted (R334). -/
def State.moderate (s : State) (r vec : Nat) : State :=
  let x := s.ring r
  if !x.intEn then s
  else
    let n := x.modPending + 1
    let s := s.setRing r { x with
      modPending := n, modStart := if n = 1 then s.now else x.modStart, modVecs := addNew x.modVecs vec }
    if x.holdoff = 0 ∨ (0 < x.count ∧ x.count ≤ n) then s.signal r else s

/-- One entry is written to a completion or event ring: 28 octets, then the ownership word (R329, R332). -/
def State.produce (s : State) (p : Nat) (body : Bytes) : State :=
  let x := s.ring p
  let a := x.slotAddr 32 x.fetch
  let s := s.postRing p a (slice body 0 28)
  let s := s.postRing p (a + 28) (leBytes 4 (x.phase x.fetch))
  s.setRing p { s.ring p with fetch := x.fetch + 1 }

/-! ### Events of an instance (R333) -/

/-- Whether an instance's state lets an event of a kind be written (Table 13-4, R333). The manager's ring has no state. -/
def eventState (st : InstState) (kind : Nat) : Bool :=
  match st with
  | .absent => false
  | .frozen => false
  | .active => true
  | .quiescing => true
  | _ => decide (kind ≤ 5)

/-- The vector of an event (Table 13-2). -/
def eventVector (i kind : Nat) : Nat :=
  if i < 512 then 64 + i * 4 + (if 0x20 ≤ kind ∧ kind ≤ 0x25 then 2 else 3) else 14

/-- An event is placed in its ring, with nothing signalled yet. -/
def State.putEvent (s : State) (i kind : Nat) (body : Bytes) : State :=
  let x := s.inst i
  let s := s.produce (eventRing i) (leBytes 2 kind ++ leBytes 2 x.eventSeq.toNat ++ slice body 0 24)
  s.setInst i { s.inst i with eventSeq := x.eventSeq + 1 }

/-- One event entry is written to `i`'s event ring with the next EVENT_SEQ. -/
def State.writeEvent (s : State) (i kind : Nat) (body : Bytes) : State :=
  (s.putEvent i kind body).moderate (eventRing i) (eventVector i kind)

/-- EVENTS_LOST is written when events were lost and there is room (R333). -/
def State.flushLost (s : State) (i : Nat) (st : InstState) : State :=
  let x := s.inst i
  if x.lost ≠ 0 ∧ (s.ring (eventRing i)).room ∧ (i = 512 ∨ eventState st 2) then
    let s := s.writeEvent i 2 (leBytes 4 x.lost)
    s.setInst i { s.inst i with lost := 0 }
  else s

/-- An event for instance `i` in state `st` (512 for the manager): written, or counted as lost (R333). -/
def State.instEventIn (s : State) (i : Nat) (st : InstState) (kind : Nat) (body : Bytes) : State :=
  let s := s.flushLost i st
  if (i = 512 ∨ eventState st kind) ∧ (s.ring (eventRing i)).room ∧ (s.inst i).lost = 0 then
    s.writeEvent i kind body
  else
    let x := s.inst i
    s.setInst i { x with lost := x.lost + 1, eventSeq := x.eventSeq + 1 }

/-- An event for an instance in its present state. -/
def State.instEvent (s : State) (i kind : Nat) (body : Bytes) : State :=
  s.instEventIn i (s.inst i).state kind body

/-- An event could be written to `i` now, behind the EVENTS_LOST that is due before it (R160: a FLOW_AGED report is deferred
otherwise). -/
def State.eventRoom (s : State) (i kind : Nat) : Bool :=
  let x := s.ring (eventRing i)
  (i = 512 || eventState (s.inst i).state kind) && x.room &&
    ((s.inst i).lost == 0 || decide ((x.fetch - x.pi).toNat + 1 < 2 ^ x.log2))

/-- A frame ends by the action stage's counter `k` (FLOW_ACT_CNT). -/
def State.actCount (s : State) (k : Nat) : State := { s with sw.actCnt := s.sw.actCnt.inc k }

/-! ### Descriptors and completions (R328 to R332) -/

/-- The mode a descriptor of index `k` is fetched under (R331). -/
def Ring.modeAt (x : Ring) (k : BitVec 16) : Bool :=
  match x.switch with
  | some (si, old) => if (k - si).toNat < 32768 then x.inPlace else old
  | none => x.inPlace

/-- OLDEST moves past every completed index, at most `fuel` times. -/
def Ring.advance : Nat → Ring → Ring
  | 0, x => x
  | f + 1, x =>
    if x.oldest ∈ x.done then Ring.advance f { x with oldest := x.oldest + 1, done := x.done.filter (· != x.oldest) }
    else x

/-- Descriptor `k` of a ring has completed. -/
def Ring.complete (x : Ring) (k : BitVec 16) : Ring :=
  let x := { x with done := addNew x.done k, descs := x.descs.filter (fun d => d.idx != k) }
  x.advance (x.done.length)

/-- A completion is written over its descriptor in ring memory (R329, R330). -/
def State.writeInPlace (s : State) (w : Waiting) : State :=
  let x := s.ring w.ring
  let a := x.slotAddr 32 w.idx
  let s := s.postRing w.ring a (slice w.body 0 28)
  let s := s.postRing w.ring (a + 28) (leBytes 4 1)
  let s := s.setRing w.ring ((s.ring w.ring).complete w.idx)
  s.moderate w.ring (ringVector w.ring)

/-- Completions in place whose turn has come are written (R330). -/
def State.releaseInPlace : Nat → Nat → State → State
  | 0, _, s => s
  | f + 1, r, s =>
    let x := s.ring r
    match x.held.find? (fun w => w.idx == x.oldest) with
    | some w =>
      State.releaseInPlace f r ((s.setRing r { x with held := x.held.filter (fun v => v.idx != w.idx) }).writeInPlace w)
    | none => s

/-- An entry for the completion ring `p`: written when nothing waits before it and there is room, else it waits (R332). -/
def State.toComplRing (s : State) (p : Nat) (w : Waiting) : State :=
  let x := s.ring p
  if x.held.isEmpty && x.room then
    let s := s.produce p w.body
    if byteAt w.body 27 = 5 then s.moderate p (ringVector p)
    else
      let s := if byteAt w.body 27 = 4 then s else s.setRing w.ring ((s.ring w.ring).complete w.idx)
      s.moderate w.ring (ringVector w.ring)
  else s.setRing p { x with held := x.held ++ [w] }

/-- The MODE_MARK entry of a switch (Table 13-10, kind 5). -/
def modeMark (si : BitVec 16) (inPlace : Bool) (r : Nat) : Bytes :=
  zeros 8 ++ leBytes 2 si.toNat ++ [BitVec.ofNat 8 (b2n inPlace)] ++ zeros 15 ++ [BitVec.ofNat 8 (if r < mgrBase then r % 16 else r - mgrBase), 5]

/-- A MODE_MARK is due once every descriptor before SWITCH_INDEX has completed (R331). -/
def State.markSwitch (s : State) (r : Nat) : State :=
  let x := s.ring r
  match x.switch with
  | some (si, _) =>
    if (x.oldest - si).toNat < 32768 then
      (s.setRing r { x with switch := none }).toComplRing (complRing r) { ring := r, idx := si, body := modeMark si x.inPlace r }
    else s
  | none => s

/-- A descriptor completes with 28 octets, under the mode it was fetched in (R330, R331). Outside ACTIVE and QUIESCING no
completion is written (Table 13-4): it waits until the instance is resumed. -/
def State.completeDesc (s : State) (r : Nat) (d : Desc) (body : Bytes) : State :=
  let w : Waiting := { ring := r, idx := d.idx, body := body }
  let x := s.ring r
  let live := decide (mgrBase ≤ r) || (s.inst (r / 16)).state == .active || (s.inst (r / 16)).state == .quiescing
  if !live then s.setRing r { x with held := x.held ++ [w] } else
  let s :=
    if d.inPlace then
      if d.idx = x.oldest then s.writeInPlace w else s.setRing r { x with held := x.held ++ [w] }
    else s.toComplRing (complRing r) w
  (s.releaseInPlace (s.ring r).held.length r).markSwitch r

/-- Bytes 16 to 27 that every completion shares (Table 13-9): status, flags, detail, handle, tag, ring and kind. -/
def complTail (d : Desc) (r status flags b18 b19 handle kind : Nat) : Bytes :=
  [BitVec.ofNat 8 status, BitVec.ofNat 8 flags, BitVec.ofNat 8 b18, BitVec.ofNat 8 b19] ++ leBytes 4 handle ++
    slice d.body 24 2 ++ [BitVec.ofNat 8 (if r < mgrBase then r % 16 else r - mgrBase), BitVec.ofNat 8 kind]

/-- A transmit completion (Table 13-9). -/
def txCompletion (d : Desc) (r status detail : Nat) : Bytes :=
  let partial_ := decide (1 ≤ d.sentSegs.length) && decide (d.sentSegs.length < d.produced)
  let (ns, sec) := d.stamp.getD (0, 0)
  let flags := d.flags + (if d.stamp.isSome then 2 else 0) + (if partial_ then 4 else 0)
  leBytes 4 ns ++ leBytes 4 sec ++ leBytes 4 d.sent ++ leBytes 2 d.sentSegs.length ++ zeros 2 ++
    complTail d r status flags detail 0 0 2

/-- Transmit rings (Tables 13-2 and 13-3). -/
def isTxRing (r : Nat) : Bool :=
  if r < mgrBase then decide (1 ≤ r % 16) && decide (r % 16 ≤ 6) else decide (mgrBase + 4 ≤ r) && decide (r ≤ mgrBase + 11)

/-- Receive rings, the exception ring among them. -/
def isRxRing (r : Nat) : Bool :=
  if r < mgrBase then decide (7 ≤ r % 16) && decide (r % 16 ≤ 12) else r == mgrBase + 12

/-- Storage registration rings. -/
def isRegRing (r : Nat) : Bool := decide (r < mgrBase) && r % 16 == 13

/-- A receive completion (Table 13-9). -/
def rxCompletion (d : Desc) (r : Nat) (f : RxFrame) (status len : Nat) (more : Bool) : Bytes :=
  let (ns, sec) := f.stamp.getD (0, 0)
  let flags := b2n more + (if f.stamp.isSome then 2 else 0) + f.flags
  leBytes 4 ns ++ leBytes 4 sec ++ leBytes 2 len ++ leBytes 2 f.body.length ++
    [BitVec.ofNat 8 f.csum, BitVec.ofNat 8 f.src] ++ leBytes 2 f.srcInst ++
    complTail d r status flags (f.placed % 256) (f.placed / 256)
      (if r = mgrBase + 12 then f.excReason + f.excDest * 256 else if bit f.flags 2 then f.handle else 0) 1

/-- An empty frame record, for completions that carry no frame. -/
def noFrame : RxFrame :=
  { body := [], src := 0, srcInst := 0, stamp := none, csum := 0, flags := 0, placed := 0, handle := 0, excReason := 0,
    excDest := 0, cells := 0, dramCells := false, share := 0 }

/-- A registration's completion (Table 13-9). -/
def regCompletion (d : Desc) (r status : Nat) : Bytes := zeros 16 ++ complTail d r status 0 0 0 0 3

/-- The completion, in its ring's own form, of a descriptor that was never read (Table 13-9). -/
def unreadCompletion (d : Desc) (r status : Nat) : Bytes :=
  if isRxRing r then rxCompletion d r noFrame status 0 false
  else if isRegRing r then regCompletion d r status
  else txCompletion d r status 0

/-! ### Scheduler nodes and packet cells (R245, R255, R412) -/

/-- Cold value of a node (Table 10-2). -/
def nodeDefault (id : Nat) : Node := if 0x3000 ≤ id ∧ id ≠ 0x3004 then { bufLimit := 65536 } else {}

/-- A scheduler node. -/
def State.node (s : State) (id : Nat) : Node := s.sched.nodes.getD id (nodeDefault id)

/-- A scheduler node changed. -/
def State.setNode (s : State) (id : Nat) (n : Node) : State := { s with sched.nodes := s.sched.nodes.put id n }

/-- Node identifiers of a subscriber, a service and a port (Table 10-1). -/
def svcNode (sub v : Nat) : Nat := 0x1000 + sub * 8 + v
def portNode (p : Nat) : Nat := 0x3000 + p

/-- Cells a node holds, raised. -/
def State.occUp (s : State) (id c : Nat) : State := s.setNode id { s.node id with occ := (s.node id).occ + c }
/-- Cells a node holds, lowered. -/
def State.occDown (s : State) (id c : Nat) : State := s.setNode id { s.node id with occ := (s.node id).occ - c }

/-- Packet cells of a frame of `len` octets, FCS included (R255). -/
def cellsOf (len : Nat) : Nat := ceilDiv len 256

/-- `c` free cells, wholly on-die or else wholly in DRAM (R412, R408): whether they are DRAM cells. -/
def State.takeCells (s : State) (c : Nat) : Option (Bool × State) :=
  if c ≤ s.sched.freeSram then some (false, { s with sched.freeSram := s.sched.freeSram - c })
  else if s.inRun 11 && s.mem.hashLocked && decide (c ≤ s.sched.freeDram) then
    some (true, { s with sched.freeDram := s.sched.freeDram - c })
  else none

/-- Cells return to the pool they came from (R255, R412). -/
def State.freeCells (s : State) (n : Nat) (dram : Bool) : State :=
  if dram then { s with sched.freeDram := s.sched.freeDram + n } else { s with sched.freeSram := s.sched.freeSram + n }

/-- Cells for a frame, or for a copy that shares its cells with others (R197). -/
def State.holdCells (s : State) (share c : Nat) : Option (Bool × State) :=
  if share = 0 then s.takeCells c
  else
    match s.sched.shares.find share with
    | some (n, k, dram) => some (dram, { s with sched.shares := s.sched.shares.put share (n + 1, k, dram) })
    | none => (s.takeCells c).map (fun r => (r.1, { r.2 with sched.shares := r.2.sched.shares.put share (1, c, r.1) }))

/-- A frame or a copy leaves its cells; shared cells return when the last copy leaves (R197). -/
def State.releaseCells (s : State) (share c : Nat) (dram : Bool) : State :=
  if share = 0 then s.freeCells c dram
  else
    match s.sched.shares.find share with
    | some (n, k, d) =>
      if n ≤ 1 then State.freeCells { s with sched.shares := s.sched.shares.drop1 share } k d
      else { s with sched.shares := s.sched.shares.put share (n - 1, k, d) }
    | none => s

/-- A frame that waited for receive ring `r` leaves its cells and its subscriber's occupancy (R256). -/
def State.freeRx (s : State) (r : Nat) (f : RxFrame) : State :=
  (s.releaseCells f.share f.cells f.dramCells).occDown (if r < mgrBase then r / 16 else 512) f.cells

/-! ### Frames and their descriptors (R325, R328) -/

/-- A descriptor of a ring changed by index. -/
def Ring.updDesc (x : Ring) (idx : BitVec 16) (g : Desc → Desc) : Ring :=
  { x with descs := x.descs.map (fun d => if d.idx == idx then g d else d) }

/-- A started descriptor of a ring. -/
def Ring.desc (x : Ring) (idx : BitVec 16) : Option Desc := x.descs.find? (fun d => d.idx == idx && d.started)

/-- How a copy of a frame ended: sent or delivered (`none`), dropped with a status and detail, or taken by an engine. -/
inductive FrameFate where
  | ended (fail : Option (Nat × Nat))
  | taken
  deriving DecidableEq, Repr

/-- The descriptor once one copy of its frame `seg` has ended: what was sent counts once per frame; the first failure
stays. -/
def Desc.ended (d : Desc) (seg len : Nat) (fate : FrameFate) : Desc :=
  let d := { d with left := d.left - 1 }
  match fate with
  | .ended (some e) => { d with failure := d.failure <|> some e }
  | .ended none => if d.sentSegs.contains seg then d else { d with sentSegs := d.sentSegs ++ [seg], sent := d.sent + len }
  | .taken => d

/-- A copy of a frame of a transmit descriptor has ended; the descriptor completes with its last copy (R328). -/
def State.descEnd (s : State) (desc : Option (Nat × BitVec 16)) (seg len : Nat) (fate : FrameFate) : State :=
  match desc with
  | none => s
  | some (r, idx) =>
    match (s.ring r).desc idx with
    | none => s
    | some d =>
      let d := d.ended seg len fate
      let s := s.setRing r ((s.ring r).updDesc idx (fun _ => d))
      if d.left = 0 then
        let e := d.failure.getD (0, 0)
        s.completeDesc r d (txCompletion d r e.1 e.2)
      else s

/-- No frame on its way belongs to a descriptor of the rings that `p` selects any more: their indices start again. -/
def State.forgetDescs (s : State) (p : Nat → Bool) : State :=
  let fd (d : Option (Nat × BitVec 16)) : Option (Nat × BitVec 16) := d.filter (fun x => !p x.1)
  let ff (f : Frame) : Frame := { f with desc := fd f.desc }
  let fq (q : Queued) : Queued := { q with frame := ff q.frame }
  let fp (f : PortFrame) : PortFrame := { f with origin := f.origin.map (fun x => (fq x.1, x.2)) }
  let fs (x : Sending) : Sending := { x with f := fp x.f }
  let fm (m : Mac) : Mac :=
    { m with
      tx := m.tx.map fs, held := m.held.map fs, express := m.express.map fp, forwarded := m.forwarded.map fp, host := m.host.map fp }
  { s with
    sched.queues := s.sched.queues.mapVals (fun _ l => l.map fq)
    ciph.jobs := s.ciph.jobs.map (fun j => { j with frame := ff j.frame })
    rings := s.rings.mapVals (fun _ x => { x with frames := x.frames.map (fun f => { f with desc := fd f.desc }) })
    ports.a := fm s.ports.a, ports.b := fm s.ports.b, ports.c := fm s.ports.c, ports.d := fm s.ports.d
    ports.ring.il := s.ports.ring.il.map fp }

/-- The transmit descriptor of a frame that waits for a receive ring hears how it ended. -/
def State.rxEnd (s : State) (f : RxFrame) (fail : Option (Nat × Nat)) : State :=
  s.descEnd f.desc f.seg (f.body.length + f.placed + 4) (.ended fail)

/-! ### Receive frames that cannot be delivered, and the states of instances and rings (R196, R335, R350) -/

/-- The frames that wait in packet cells for a receive ring are dropped (R196). -/
def State.dropFrames (s : State) (r : Nat) : State :=
  let x := s.ring r
  x.frames.foldl (fun s f => ((s.freeRx r f).actCount 7).rxEnd f (some (6, 7))) (if x.frames.isEmpty then s else s.setRing r { x with frames := [] })

/-- Frames that wait for an instance's receive rings are dropped (Table 13-4, R196). -/
def State.dropRx (s : State) (i : Nat) : State := ((List.range 6).map (fun k => i * 16 + 7 + k)).foldl State.dropFrames s

/-- An instance's state changes, and a STATE_CHANGE event records it (R350); entry to FROZEN is recorded before it. -/
def State.setInstState (s : State) (i : Nat) (new : InstState) : State :=
  let old := (s.inst i).state
  if old = new then s
  else
    let st := if new = .frozen ∨ new = .absent then old else new
    let s := s.instEventIn i st 1 [BitVec.ofNat 8 old.code, BitVec.ofNat 8 new.code]
    let s := s.setInst i { s.inst i with state := new }
    if new = .faulted then s.dropRx i else s

/-! ### Violations (R450 to R453) -/

/-- A record is written to the log of PF 0 or of PF 1 (R452). -/
def State.logViolation (s : State) (pf1 : Bool) (kind srcType srcId detail addr : Nat) : State :=
  let n := if pf1 then s.err.violNext1 else s.err.violNext0
  let r : ViolRec :=
    { ns := s.stampNs, sec := s.stampSec, kind := kind, srcType := srcType, srcId := srcId, detail := detail,
      addr := addr, seq := n }
  if pf1 then
    { s with err.viol1 := s.err.viol1.put (n % 256) r, err.violNext1 := (n + 1) % 2 ^ 32 }
  else
    State.errBit { s with err.viol0 := s.err.viol0.put (n % 256) r, err.violNext0 := (n + 1) % 2 ^ 32 } 0

/-- What a violation charged to an instance does beside its record (R450, R352). -/
def State.chargeViolation (s : State) (i kind ring addr : Nat) : State :=
  let x := s.inst i
  let times := (x.violTimes ++ [s.nowMs]).filter (fun t => decide (s.nowMs < t + 1000))
  let s := s.setInst i
    { x with
      violKind := kind, violRing := ring % 16, violCount := x.violCount + 1, violAddr := BitVec.ofNat 64 addr,
      violTimes := times }
  let s := s.instEvent i 5 (leBytes 2 (kind + ring % 256 * 256) ++ zeros 2 ++ leBytes 8 addr)
  if (x.state = .active ∨ x.state = .quiescing) ∧ x.faultLimit ≠ 0 ∧ x.faultLimit ≤ times.length then
    s.setInstState i .faulted
  else s

/-- A violation of an instance (source type 0) in the PF 0 log; `ring` is the ring or slot its page reports. -/
def State.violInst (s : State) (i kind ring detail addr : Nat) : State :=
  (s.logViolation false kind 0 i detail addr).chargeViolation i kind ring addr

/-- A violation of PF 0, in its own log. -/
def State.violPf0 (s : State) (kind detail addr : Nat) : State := s.logViolation false kind 1 0 detail addr

/-- A violation of PF 1, in the PF 1 log. -/
def State.violPf1 (s : State) (kind detail addr : Nat) : State := s.logViolation true kind 2 0 detail addr

/-- A BOUNDS violation of a ring's access, charged to its instance (Table 19-2). -/
def State.violBounds (s : State) (r addr : Nat) : State :=
  if r < mgrBase then s.violInst (r / 16) 1 (r % 16) (r % 16) addr else s

/-- A ring enters ERROR: a failed read of a descriptor or a fragment table (R335, R352). Cause 1 descriptor, 2 table. -/
def State.ringError (s : State) (r : Nat) (k : BitVec 16) (cause : Nat) : State :=
  let x := s.ring r
  let s := s.setRing r { x with state := .error, fetch := k, pushed := [], descs := x.descs.filter (fun d => d.idx != k) }
  if r = secRing then s
  else
    let s := s.dropFrames r
    let i := if r < mgrBase then r / 16 else 512
    let q := if r < mgrBase then r % 16 else r - mgrBase
    let s := s.instEvent i 3 ([BitVec.ofNat 8 q, BitVec.ofNat 8 cause] ++ leBytes 2 k.toNat)
    if r < mgrBase ∧ r % 16 = 0 ∧ ((s.inst i).state = .active ∨ (s.inst i).state = .quiescing) then
      s.setInstState i .faulted
    else s

end Sys2Proof.Machine
end

