-- ==== Sys2Proof/Machine/Dechan.lean ====
section
/-!
DEFINITION. Machine/Dechan.lean: how a Dechan command is accepted, checked, carried out and replied to (chapter 14).
One operation, `State.runCmd`, serves every command; each command gives it an `Op` and a body.
-/

set_option Elab.async false
namespace Sys2Proof.Machine

open Sys2Proof

/-- What INSTANCE must hold for an opcode (Table 14-3, check 5). -/
inductive InstField where
  /-- 0xFFFF. -/
  | mgr
  /-- 0 to 511. -/
  | inst
  /-- Either. -/
  | either
  deriving DecidableEq, Repr

/-- What Tables 14-6, 14-8 and R357, R489 say of an opcode. -/
structure Op where
  code    : Nat
  /-- Issuers: manager, tenant. Class 0x0E is the security agent's. -/
  mgr     : Bool := true
  tenant  : Bool := false
  inst    : InstField := .mgr
  /-- Lengths PARAM_LEN may have. -/
  lens    : List Nat := [0]
  /-- The adapter reads the buffer before it carries out the command. -/
  reads   : Bool := true
  /-- The command writes the buffer. -/
  writes  : Bool := false
  /-- The adapter reads host memory beside the buffer: Binnacle's own reading of the entry, or a waypoint. -/
  asks    : Bool := false
  exempt  : Bool := false
  needsD12 : Bool := false
  /-- Legal instance states as a bitmap; 0 where the opcode names no instance state (Table 14-8). -/
  states  : Nat := 0
  /-- Octets of the parameter buffer zeroed before every reply that follows its reading (R238, R241, R242): where they
  begin and how many; with `zeroIf` only when bit 0 of the buffer's byte 1 is set. -/
  zeroAt  : Option (Nat × Nat) := none
  zeroIf  : Bool := false
  deriving DecidableEq, Repr

/-- What a command comes to: the state after it, and its reply, unless the reply comes later. -/
structure Reply where
  st     : State
  status : Nat := 0
  detail : Nat := 0
  /-- Reply data from byte 24. -/
  data   : Bytes := []
  /-- Octets written to the parameter buffer. -/
  buf    : Bytes := []
  /-- Offset in the parameter buffer at which `buf` is written. -/
  bufOff : Nat := 0
  /-- PF 1 vector 7 is sent once the reply has been written (R306, SEC_MEASURE RECHECK). -/
  notify : Bool := false
  later  : Bool := false
  /-- Deadline of a reply that comes later, in ticks from acceptance. -/
  limit  : Nat := 0

/-- Class 0x0E is carried by the secure ring only. -/
def Op.secure (op : Op) : Bool := op.code / 256 == 0x0E

/-- Global number of the ring an entry stands on (Table 14-1). -/
def cmdRing (c : Cmd) : Nat :=
  match c.ring with
  | .mgr m => mgrBase + m % 4
  | .inst i => i % 512 * 16
  | .sec => secRing

/-- The tenant that issues a command, if one does. -/
def cmdTenant (c : Cmd) : Option Nat :=
  match c.ring with
  | .inst i => some (i % 512)
  | _ => none

/-! ### Replies -/

/-- OK, with reply data from byte 24. -/
def Reply.ok (s : State) (data : Bytes := []) (detail : Nat := 0) : Reply := { st := s, data := data, detail := detail }

/-- A status and detail; nothing changes. -/
def Reply.no (s : State) (status detail : Nat) : Reply := { st := s, status := status, detail := detail }

/-- BAD_PARAM for a byte offset in the entry. -/
def Reply.bad (s : State) (off : Nat) : Reply := { st := s, status := 3, detail := off, data := [0] }

/-- BAD_PARAM for a byte offset in the parameter buffer. -/
def Reply.badBuf (s : State) (off : Nat) : Reply := { st := s, status := 3, detail := off, data := [1] }

/-- STATE_CONFLICT (R354): kind of object, its present state, the legal states, and its number. -/
def Reply.conflict (s : State) (kind present legal obj : Nat) : Reply :=
  { st := s, status := 2, detail := present % 256 + legal % 256 * 256,
    data := [BitVec.ofNat 8 kind, 0] ++ leBytes 2 obj }

/-- NOT_PERMITTED. -/
def Reply.denied (s : State) (detail : Nat) : Reply := Reply.no s 6 detail

/-! ### Acceptance -/

/-- Manager ring 0 and the secure ring take entries only while their ENABLE bit is 1 (R481, R367). -/
def State.ringOn (s : State) (r : Nat) : Bool :=
  if r = mgrBase then s.dechan.mring0Enable
  else if r = secRing then s.dechan.secEnable
  else if r < mgrBase then (s.inst (r / 16)).state == .active
  else true

/-- Commands accepted on a ring that have no reply. -/
def State.inProgress (s : State) (r : Nat) : List Accepted := s.dechan.accepted.filter (fun a => a.ring == r)

/-- The ring a queue command names in byte 24; none for a ring that does not exist. -/
def cmdQueue (c : Cmd) : Option Nat :=
  let q := byteAt c.data 0
  if c.inst = 0xFFFF then
    if q ≤ 12 ∨ q = 30 ∨ q = 31 then some (mgrBase + q) else none
  else if q < 16 then some (c.inst * 16 + q) else none

/-- An accepted command and one of opcode `code` name the same object (R345): an instance, a ring, or the handle of a table. Of
two commands of the almanac and reflex classes, or of the recorder's, one that waits is taken to name the other's
(log entry 157). -/
def Accepted.touches (a : Accepted) (code : Nat) (c : Cmd) : Bool :=
  let k := code / 256
  (c.inst != 0xFFFF && a.cmd.inst == c.inst) ||
    k == a.opcode / 256 &&
      ((k == 3 && a.cmd.inst == c.inst && byteAt a.cmd.data 0 == byteAt c.data 0) ||
        (decide (4 ≤ k) && decide (k ≤ 7) && a.cmd.handle == c.handle) || (a.waits && (k == 8 || k == 0xA)))

/-- INST_RESET and INST_DESTROY. -/
def isReset (code : Nat) : Bool := code == 0x0206 || code == 0x0207

/-- An accepted command holds back one of opcode `code` (R345, R178). INST_RESET and INST_DESTROY end the commands of their
instance and wait only for one another (R359); a QUEUE_DRAIN holds nothing back once its ring no longer drains (log entry 158). -/
def State.blocks (s : State) (code : Nat) (c : Cmd) (a : Accepted) : Bool :=
  if isReset code then isReset a.opcode && a.cmd.inst == c.inst
  else
    a.touches code c &&
      !(a.opcode == 0x0303 && !a.waits && (match cmdQueue a.cmd with | some r => (s.ring r).state != .draining | none => false))

/-- A new entry waits once it is accepted: FENCE keeps it behind its ring's earlier commands (R343), or an earlier command
holds it back (R345), or a block move runs in its bank (R178). -/
def State.mustWait (s : State) (op : Op) (c : Cmd) : Bool :=
  (bit c.flags.toNat 6 && !(s.inProgress (cmdRing c)).isEmpty) || s.dechan.accepted.any (s.blocks op.code c) ||
    (op.code / 256 == 5 && ((s.cls.banks.getD c.handle {}).move).isSome)

/-- An accepted entry still waits: for the earlier entries of its ring where FENCE is set, for the commands accepted before it,
for one that is being carried out, or for a block move. -/
def State.stillWaits (s : State) (a : Accepted) : Bool :=
  let x := s.ring a.ring
  (bit a.cmd.flags.toNat 6 && (s.inProgress a.ring).any (fun b => decide ((b.idx - x.oldest).toNat < (a.idx - x.oldest).toNat))) ||
    (s.dechan.accepted.takeWhile (· != a)).any (s.blocks a.opcode a.cmd) ||
    s.dechan.accepted.any (fun b => !b.waits && s.blocks a.opcode a.cmd b) ||
    (a.opcode / 256 == 5 && ((s.cls.banks.getD a.cmd.handle {}).move).isSome)

/-- The interpreter of a ring serves it: Binnacle alive in D3, and the endpoint able to read the entry (R432, R305). -/
def State.served (s : State) (r : Nat) : Bool :=
  s.linkReady && s.inRun 3 && (s.cfg (ringFn r)).bme &&
    !(s.boot.phase == .reset || s.boot.phase == .selfTest || s.boot.phase == .failed)

/-- The entry that a command stands for, as the host wrote it (Table 14-2); STATUS and DETAIL are not compared. -/
def entryMatches (op : Op) (c : Cmd) (b : Bytes) : Bool :=
  slice b 0 13 == leBytes 2 op.code ++ leBytes 2 c.seq.toNat ++ leBytes 2 c.inst ++ leBytes 2 c.paramLen ++ leBytes 4 c.handle ++ [c.flags] &&
    slice b 16 48 == leBytes 8 c.addr ++ slice c.data 0 36 ++ leBytes 4 c.own.toNat

/-- A pushed entry is the command, where the ring's next entry was pushed (R320). -/
def State.pushedSuits (s : State) (op : Op) (c : Cmd) : Bool :=
  let x := s.ring (cmdRing c)
  match x.pushed.find? (fun p => p.1 == x.fetch) with
  | some p => entryMatches op c p.2
  | none => true

/-- The entry a command stands for is the next of its ring, and it is accepted now (R344, R349). -/
def State.takes (s : State) (op : Op) (c : Cmd) : Bool :=
  let r := (cmdRing c)
  let x := s.ring r
  x.state == .enabled && s.ringOn r && x.fetch != x.pi && decide ((s.inProgress r).length < 8) && s.served r && s.pushedSuits op c

/-- The accepted entry that a command stands for, where it was accepted earlier and waits. -/
def State.waitingEntry (s : State) (op : Op) (c : Cmd) : Option Accepted :=
  s.dechan.accepted.find? (fun a =>
    a.waits && a.ring == cmdRing c && a.opcode == op.code && { a.cmd with buf := c.buf, ask := c.ask } == c)

/-- The entry is accepted now and carried out at once (R344, R345, R349). -/
def State.accepts (s : State) (op : Op) (c : Cmd) : Bool :=
  s.takes op c && !s.mustWait op c && (s.waitingEntry op c).isNone

/-- The command as accepted: where its entry stands, and when it must reply (R348). -/
def State.acceptance (s : State) (op : Op) (c : Cmd) : Accepted :=
  { ring := (cmdRing c), idx := (s.ring (cmdRing c)).fetch, opcode := op.code, cmd := c, at_ := s.now,
    deadline := s.now + 2 * msTicks }

/-- STATUS PENDING is written over the entry, and the ring's FETCH moves past it (R343). -/
def State.accept (s : State) (op : Op) (c : Cmd) : State :=
  let a := s.acceptance op c
  let x := s.ring a.ring
  let s := { s with dechan.cnt := s.dechan.cnt.inc 0, dechan.cur := a.idx }
  let s := s.setRing a.ring { x with fetch := x.fetch + 1, pushed := x.pushed.filter (fun p => p.1 != x.fetch) }
  s.postRing a.ring (x.slotAddr 64 a.idx + 13) [1]

/-- An entry is accepted and waits (R343, R345). -/
def State.enqueue (s : State) (op : Op) (c : Cmd) : State :=
  let t := s.accept op c
  { t with dechan.accepted := t.dechan.accepted ++ [{ s.acceptance op c with waits := true }] }

/-- A waiting entry is carried out now. -/
def State.resume (s : State) (a : Accepted) : State :=
  { s with
    dechan.accepted := s.dechan.accepted.filter (fun b => !(b.ring == a.ring && b.idx == a.idx))
    dechan.cur := a.idx }

/-! ### The reply -/

/-- The reply is entered in the command log (R360). -/
def logged (status opcode : Nat) : Bool :=
  status == 2 || status == 6 || status == 0xA || status == 0xC || status == 0xD || status == 0xE || status == 0xF ||
    opcode / 256 == 2

/-- A command log entry (Table 14-13). -/
def State.logReply (s : State) (a : Accepted) (status detail : Nat) (late : Bool) : State :=
  let n := s.dechan.logNext
  let e : LogEntry :=
    { ns := s.stampNs, sec := s.stampSec, ring := if a.ring = secRing then 0xFFFF else a.ring, seq := a.cmd.seq,
      opcode := a.opcode, inst := a.cmd.inst, handle := a.cmd.handle, status := status,
      flags := b2n (a.ring < mgrBase) + (if a.ring = secRing then 2 else 0) + (if late then 4 else 0),
      detail := detail, logSeq := n }
  { s with dechan.log := s.dechan.log.put (n % 256) e, dechan.logNext := (n + 1) % 2 ^ 32 }

/-- A reply counts towards its ring's moderation; QUIET keeps its vector from being sent for it (R343). -/
def State.replySignal (s : State) (r : Nat) (quiet : Bool) : State :=
  if r = secRing then
    if (s.ring r).intEn && !quiet then s.msi .pf1 0 else s
  else if quiet then
    let x := s.ring r
    if x.intEn then
      s.setRing r { x with
        modPending := x.modPending + 1, modStart := if x.modPending = 0 then s.now else x.modStart }
    else s
  else s.moderate r (ringVector r)

/-- Octets 0 to 59 of a reply (Table 14-2, R343). -/
def replyBody (a : Accepted) (status detail : Nat) (data : Bytes) : Bytes :=
  leBytes 2 a.opcode ++ leBytes 2 a.cmd.seq.toNat ++ leBytes 2 a.cmd.inst ++ leBytes 2 a.cmd.paramLen ++
    leBytes 4 a.cmd.handle ++ [a.cmd.flags, BitVec.ofNat 8 status] ++ leBytes 2 detail ++ leBytes 8 a.cmd.addr ++
    slice data 0 36

/-- A ring whose ENABLE was cleared becomes DISABLED once its last command has replied (R481, R367). -/
def State.ringWindDown (s : State) (r : Nat) : State :=
  if (r = mgrBase ∨ r = secRing) ∧ !s.ringOn r ∧ (s.inProgress r).isEmpty ∧ (s.ring r).state = .draining then
    s.setRing r { s.ring r with state := .disabled, pi := 0, fetch := 0, oldest := 0, done := [] }
  else s

/-- A command replies (R343): its buffer, octets 0 to 59, then OWN; it is logged, counted and signalled. -/
def State.reply (s : State) (a : Accepted) (status detail : Nat) (data buf : Bytes) : State :=
  let x := s.ring a.ring
  let late := decide (a.deadline < s.now)
  let s := s.postRing a.ring a.cmd.addr buf
  let at0 := x.slotAddr 64 a.idx
  let s := s.postRing a.ring at0 (replyBody a status detail data)
  let s := s.postRing a.ring (at0 + 60) (leBytes 2 1 ++ leBytes 2 a.cmd.seq.toNat)
  let s := s.setRing a.ring ((s.ring a.ring).complete a.idx)
  let cnt := if status = 0 then s.dechan.cnt else s.dechan.cnt.inc 1
  let cnt := if late then cnt.inc 2 else cnt
  let s := { s with
    dechan.cnt := cnt
    dechan.accepted := s.dechan.accepted.filter (fun b => !(b.ring == a.ring && b.idx == a.idx)) }
  let s := if logged status a.opcode then s.logReply a status detail late else s
  (s.replySignal a.ring (bit a.cmd.flags.toNat 7)).ringWindDown a.ring

/-- The command's outcome becomes its reply, now or later. -/
def Reply.finish (a : Accepted) (r : Reply) : State :=
  if r.later then
    { r.st with dechan.accepted := r.st.dechan.accepted ++ [{ a with deadline := a.at_ + r.limit }] }
  else
    let s := (r.st.postRing a.ring (a.cmd.addr + r.bufOff) r.buf).reply a r.status r.detail r.data []
    if r.notify then s.msi .pf1 7 else s

/-- The commands in progress that satisfy `p` all reply with one status and detail (R358, R359). -/
def State.replyAll (s : State) (p : Accepted → Bool) (status detail : Nat) : State :=
  (s.dechan.accepted.filter p).foldl (fun s a => s.reply a status detail [] []) s

/-! ### The common checks (Table 14-3) -/

/-- Check 9 (R355, R357, R415, R489): the DETAIL of a DEGRADED reply, if one is due. -/
def State.degraded (s : State) (op : Op) (c : Cmd) : Option Nat :=
  if op.secure then none
  else if (s.hove || !s.inRun 4) && !(op.exempt && c.ring == .mgr 0) then some (if s.hove then 1 else 4)
  else if op.needsD12 && !s.inRun 12 then some 5
  else none

/-- Checks 1 to 6 of Table 14-3, in order: the reply of the first that fails. -/
def checkEntry (op : Op) (c : Cmd) : Option (Nat × Nat) :=
  if c.own ≠ 0 then some (3, 60)
  else if op.secure != (c.ring == .sec) then some (6, 3)
  else if (match c.ring with | .mgr _ => !op.mgr | .inst _ => !op.tenant | .sec => false) then some (6, 0)
  else if !(match op.inst with
      | .mgr => c.inst == 0xFFFF
      | .inst => decide (c.inst < 512)
      | .either => decide (c.inst < 512) || c.inst == 0xFFFF) then some (3, 4)
  else if (match cmdTenant c with | some i => c.inst != i | none => false) then some (6, 1)
  else if !(op.lens.contains c.paramLen) then some (3, 6)
  else if c.addr % 8 ≠ 0 ∨ (c.addr = 0 ∧ c.paramLen ≠ 0) ∨ (c.addr ≠ 0 ∧ c.paramLen = 0) then some (3, 16)
  else none

/-- Check 7: a tenant's parameter buffer lies within its bounds. -/
def State.bufferOk (s : State) (op : Op) (c : Cmd) : Bool :=
  match cmdTenant c with
  | some i => c.paramLen == 0 || s.inBounds i c.addr c.paramLen true op.writes
  | none => true

/-- Check 10 for the instance a command names (R353). -/
def State.stateConflict (s : State) (op : Op) (c : Cmd) : Option Nat :=
  if op.states ≠ 0 ∧ c.inst < 512 ∧ !bit op.states (s.inst c.inst).state.code then some (s.inst c.inst).state.code
  else none

/-- Checks 9 and 10, then the opcode's own body. -/
def State.carryOut (s : State) (op : Op) (c : Cmd) (b : Bytes) (body : Bytes → State → Reply) : Reply :=
  match s.degraded op c with
  | some d => Reply.no s 0xE d
  | none =>
    match s.stateConflict op c with
    | some p => Reply.conflict s 1 p op.states 0
    | none => body b s

/-- The zeroing of key material in a parameter buffer that has been read (R238, R241, R242). -/
def Reply.zeroing (r : Reply) (op : Op) (b : Bytes) : Reply :=
  match op.zeroAt with
  | some (off, n) => if !op.zeroIf || bit (byteAt b 1) 0 then { r with buf := zeros n, bufOff := off } else r
  | none => r

/-- The checks of Table 14-3 in order, then the opcode's body with the octets of its parameter buffer. -/
def State.checked (s : State) (op : Op) (c : Cmd) (body : Bytes → State → Reply) : Reply :=
  match checkEntry op c with
  | some (st, d) =>
    if c.own ≠ 0 then Reply.bad { s with dechan.cnt := s.dechan.cnt.inc 3 } d
    else if st = 3 then Reply.bad s d else Reply.no s st d
  | none =>
    if !s.bufferOk op c then
      Reply.no (s.violInst ((cmdTenant c).getD 0) 1 0xFF 0xFF c.addr) 0xA 1
    else if op.reads && c.paramLen != 0 then
      match s.hostRead (ringFn (cmdRing c)) (s.ringPasid (cmdRing c)) c.addr c.paramLen c.buf with
      | (some b, s) => (s.carryOut op c (slice b 0 c.paramLen) body).zeroing op b
      | (none, s) => Reply.no s 0xF 1
    else s.carryOut op c [] body

/-- The command's parameter buffer is to be read, and no tag is usable for it: the entry waits (R301). -/
def State.bufferWaits (s : State) (op : Op) (c : Cmd) : Bool :=
  (op.asks || op.reads && c.paramLen != 0) && (checkEntry op c).isNone && s.bufferOk op c && (s.freeTag (ringFn (cmdRing c))).isNone

/-- A Dechan entry from acceptance to reply, `go` making its checks and having its effect. One that is not the next to be
accepted does nothing. One that must wait is accepted and waits; its row carries it out when it comes again after the wait has
ended (log entry 30). One for whose buffer no tag is usable is not accepted yet. -/
def State.serveEntry (s : State) (op : Op) (c : Cmd) (stall : Bool) (go : State → Reply) : State :=
  match s.waitingEntry op c with
  | some a =>
    if !s.served a.ring || s.stillWaits a then s
    else if stall then s.readWait (ringFn (cmdRing c))
    else (go (s.resume a)).finish { a with waits := false }
  | none =>
    if !s.takes op c then s
    else if s.mustWait op c then s.enqueue op c
    else if stall then s.readWait (ringFn (cmdRing c))
    else (go (s.accept op c)).finish (s.acceptance op c)

/-- A Dechan command: the checks of Table 14-3, then its body. -/
def State.runCmd (s : State) (op : Op) (c : Cmd) (body : Bytes → State → Reply) : State :=
  s.serveEntry op c (s.bufferWaits op c) (fun t => t.checked op c body)

end Sys2Proof.Machine
end

