-- ==== Sys2Proof/Machine/Endpoint.lean ====
section
/-!
DEFINITION. Machine/Endpoint.lean: the host endpoint's commands (chapter 12): configuration requests, peer windows,
completions of the adapter's requests, translations, messages and the link.
-/

set_option Elab.async false
namespace Sys2Proof.Machine

open Sys2Proof

/-- The outcome of every command of this block: a next state. -/
abbrev Out := Host.Outcome State Fault Refusal

/-! ### Configuration space (R290 to R293) -/

/-- Uncorrectable Error Status of a function. -/
def CfgSpace.uncStatus (c : CfgSpace) : Nat :=
  maskOf 32 (fun k => c.errs.any (fun e => aerUncBit e == some k))

/-- Correctable Error Status; bit 13 is Advisory Non-Fatal Error. -/
def CfgSpace.corStatus (c : CfgSpace) : Nat :=
  maskOf 32 (fun k => if k = 13 then c.advisory else c.errs.any (fun e => aerCorBit e == some k))

/-- The uncorrectable errors whose severity, mask and status the AER registers hold. -/
def aerUncorrectable : List AerError :=
  [.dataLink, .surpriseDown, .poisonedTlp, .flowControl, .completionTimeout, .completerAbort, .unexpectedCompletion,
    .receiverOverflow, .malformedTlp, .unsupportedRequest, .uncorrectableInternal]

/-- Bits of an AER register that exist, for uncorrectable and for correctable errors. -/
def aerUncBits : Nat := maskOf 32 (fun k => aerUncorrectable.any (fun e => aerUncBit e == some k))
def aerCorBits : Nat := 0x71C1

/-- Offset `off` lies in the body of a link capability of function 0 whose registers the manual does not give (R291). -/
def linkBody (off : Nat) : Bool :=
  (0x174 ≤ off && off < 0x1B0) || (0x1B4 ≤ off && off < 0x1C0) || (0x1C4 ≤ off && off < 0x200) || (0x204 ≤ off && off < 0x250) ||
    (0x254 ≤ off && off < 0x2A0)

/-- One dword of a function's configuration space (Tables 12-1 and 12-2; field places as PCI Express gives them,
log entry 7). -/
def State.cfgRead (s : State) (fn : Fn) (off : Nat) : Nat :=
  let c := s.cfg fn
  let p0 := fn == .pf0
  if off = 0x00 then 0x1FA7 + (if p0 then 0x7400 else 0x7401) * 65536
  else if off = 0x04 then b2n c.memEn * 2 + b2n c.bme * 4 + 0x10 * 65536
  else if off = 0x08 then 0x21 + (if p0 then 0x020000 else 0x108000) * 256
  else if off = 0x0C then c.cacheLine.toNat + (if p0 then 0x80 else 0) * 65536
  else if off = 0x10 then c.bar0.toNat % 2 ^ 32 + 4
  else if off = 0x14 then c.bar0.toNat / 2 ^ 32
  else if off = 0x18 then (if p0 then c.bar2.toNat % 2 ^ 32 + 4 else 0)
  else if off = 0x1C then (if p0 then c.bar2.toNat / 2 ^ 32 else 0)
  else if off = 0x20 then (if p0 then c.bar4.toNat % 2 ^ 32 + 12 else 0)
  else if off = 0x24 then (if p0 then c.bar4.toNat / 2 ^ 32 else 0)
  else if off = 0x2C then 0x1FA7 + (if Config.gradeC then 2 else 1) * 65536
  else if off = 0x34 then 0x40
  else if off = 0x3C then c.intLine.toNat
  else if off = 0x40 then 0x01 + 0x50 * 256 + 3 * 65536
  else if off = 0x44 then c.pmState
  else if off = 0x50 then 0x11 + 0x70 * 256 + (if p0 then 63 else 15) * 65536 + b2n c.msixMask * 2 ^ 30 + b2n c.msixEn * 2 ^ 31
  else if off = 0x54 then (if p0 then 0x20000 else 0x2000)
  else if off = 0x58 then (if p0 then 0x20800 else 0x3000)
  else if off = 0x70 then 0x10 + 2 * 65536
  else if off = 0x74 then 2 + 0x20 + 0x8000 + 2 ^ 28
  else if off = 0x78 then
    c.errEn + c.mps * 32 + b2n c.extTag * 256 + c.mrrs * 4096
  else if off = 0x7C then 5 + 16 * 16 + 2 * 2 ^ 10 + 3 * 2 ^ 15 + 2 ^ 22
  else if off = 0x80 then c.linkCtl.toNat + (if s.host.linkUp then (Config.linkWord 0x80).toNat / 65536 else 0) * 65536
  else if off = 0x94 then 3 + 2 ^ 16 + 2 ^ 17
  else if off = 0x98 then c.cto + b2n c.tenBit * 2 ^ 12
  else if off = 0x9C then 0x3E
  else if off = 0xA0 then c.linkCtl2.toNat
  else if off = 0x100 then 0x0001 + 2 * 65536 + 0x160 * 2 ^ 20
  else if off = 0x104 then c.uncStatus
  else if off = 0x108 then c.uncMask.toNat
  else if off = 0x10C then maskOf 32 (fun k => c.fatal.any (fun e => aerUncBit e == some k))
  else if off = 0x110 then c.corStatus
  else if off = 0x114 then c.corMask.toNat
  else if off = 0x118 then ((c.firstErr.bind aerUncBit).getD 0) + b2n (c.hdrSeq != 0) * 2 ^ 11
  else if 0x11C ≤ off ∧ off < 0x12C then (if c.hdrSeq = 0 then 0 else (Config.tlpHeader fn.num c.hdrSeq ((off - 0x11C) / 4)).toNat)
  else if 0x138 ≤ off ∧ off < 0x148 then (if c.hdrSeq = 0 then 0 else (Config.tlpHeader fn.num c.hdrSeq (4 + (off - 0x138) / 4)).toNat)
  else if off = 0x160 then 0x0003 + 1 * 65536 + (if p0 then 0x170 * 2 ^ 20 else 0)
  else if off = 0x164 then Config.serial.toNat % 2 ^ 32
  else if off = 0x168 then Config.serial.toNat / 2 ^ 32
  else if off = 0x170 ∧ p0 then 0x0019 + 65536 + 0x1B0 * 2 ^ 20
  else if off = 0x1B0 ∧ p0 then 0x0025 + 65536 + 0x1C0 * 2 ^ 20
  else if off = 0x1C0 ∧ p0 then 0x0026 + 65536 + 0x200 * 2 ^ 20
  else if off = 0x200 ∧ p0 then 0x0027 + 65536 + 0x250 * 2 ^ 20
  else if off = 0x250 ∧ p0 then 0x002A + 65536 + 0x2A0 * 2 ^ 20
  else if p0 && linkBody off then (Config.linkWord off).toNat
  else if off = 0x2A0 ∧ p0 then 0x001B + 65536 + 0x2B0 * 2 ^ 20
  else if off = 0x2A4 ∧ p0 then 20 * 256 + b2n c.pasidEn * 65536
  else if off = 0x2B0 ∧ p0 then 0x000F + 65536
  else if off = 0x2B4 ∧ p0 then 0x20 + b2n c.atsEn * 2 ^ 31
  else 0

/-- A dword with the octets that the byte enables name replaced (R294). -/
def mergeBe (old new be : Nat) : Nat :=
  leNat ((List.range 4).map (fun k =>
    BitVec.ofNat 8 ((if bit be k then new else old) / 256 ^ k)))

/-- Every vector of a function that nothing masks any more sends its pending message (R308). -/
def State.msiReleaseAll (s : State) (fn : Fn) : State :=
  match fn with
  | .pf1 => (s.host.msix1.map (·.1)).foldl (fun s v => s.msiRelease .pf1 v) s
  | .pf0 =>
    let s := (s.host.msix0.map (·.1)).foldl (fun s v => s.msiRelease .pf0 v) s
    (s.host.instVec.map (·.1)).foldl (fun s v => s.msiRelease .pf0 (64 + v)) s

/-- A write of one dword of configuration space. -/
def State.cfgWrite (s : State) (fn : Fn) (off v : Nat) : State :=
  let c := s.cfg fn
  let p0 := fn == .pf0
  if off = 0x04 then let s := s.setCfg fn { c with memEn := bit v 1, bme := bit v 2 }
    if bit v 2 then s.flushWaiting fn else s
  else if off = 0x0C then s.setCfg fn { c with cacheLine := BitVec.ofNat 8 v }
  else if off = 0x10 then
    s.setCfg fn { c with bar0 := BitVec.ofNat 64 (c.bar0.toNat / 2 ^ 32 * 2 ^ 32 + v / (if p0 then 2 ^ 20 else 2 ^ 16) * (if p0 then 2 ^ 20 else 2 ^ 16)) }
  else if off = 0x14 then s.setCfg fn { c with bar0 := BitVec.ofNat 64 (c.bar0.toNat % 2 ^ 32 + v * 2 ^ 32) }
  else if off = 0x18 ∧ p0 then s.setCfg fn { c with bar2 := BitVec.ofNat 64 (c.bar2.toNat / 2 ^ 32 * 2 ^ 32 + v / 2 ^ 22 * 2 ^ 22) }
  else if off = 0x1C ∧ p0 then s.setCfg fn { c with bar2 := BitVec.ofNat 64 (c.bar2.toNat % 2 ^ 32 + v * 2 ^ 32) }
  else if off = 0x24 ∧ p0 then s.setCfg fn { c with bar4 := BitVec.ofNat 64 (v / 4 * 4 * 2 ^ 32) }
  else if off = 0x3C then s.setCfg fn { c with intLine := BitVec.ofNat 8 v }
  else if off = 0x44 then s.setCfg fn { c with pmState := v % 4 }
  else if off = 0x50 then (s.setCfg fn { c with msixEn := bit v 31, msixMask := bit v 30 }).msiReleaseAll fn
  else if off = 0x78 then
    s.setCfg fn { c with errEn := bits v 3 0, mps := bits v 7 5, extTag := bit v 8, mrrs := bits v 14 12 }
  else if off = 0x80 then s.setCfg fn { c with linkCtl := BitVec.ofNat 16 (v &&& 0xCB) }
  else if off = 0xA0 then s.setCfg fn { c with linkCtl2 := BitVec.ofNat 16 v }
  else if off = 0x98 then s.setCfg fn { c with cto := bits v 3 0, tenBit := bit v 12 }
  else if off = 0x104 then
    let keep (e : AerError) : Bool := match aerUncBit e with | some k => !bit v k | none => true
    s.setCfg fn { c with errs := c.errs.filter keep, firstErr := c.firstErr.filter keep }
  else if off = 0x108 then s.setCfg fn { c with uncMask := BitVec.ofNat 32 (v &&& aerUncBits) }
  else if off = 0x10C then
    let f := aerUncorrectable.filter (fun e => match aerUncBit e with | some k => bit v k | none => false)
    s.setCfg fn { c with fatal := f }
  else if off = 0x110 then
    s.setCfg fn { c with
      errs := c.errs.filter (fun e => match aerCorBit e with | some k => !bit v k | none => true)
      advisory := c.advisory && !bit v 13 }
  else if off = 0x114 then s.setCfg fn { c with corMask := BitVec.ofNat 32 (v &&& aerCorBits) }
  else if off = 0x2A4 ∧ p0 then s.setCfg fn { c with pasidEn := bit v 16 }
  else if off = 0x2B4 ∧ p0 then
    { s.setCfg fn { c with atsEn := bit v 31 } with host.xlats := if bit v 31 then s.host.xlats else [] }
  else s

/-! ### Requests that are refused (R293, R294) -/

/-- A violation of a function in its own log. -/
def State.violFn (s : State) (fn : Fn) (kind detail addr : Nat) : State :=
  match fn with
  | .pf0 => s.violPf0 kind detail addr
  | .pf1 => s.violPf1 kind detail addr

/-- The domain whose Stop makes a block of PF 0 BAR 0 read zero (Tables 12-5 and 21-1), by offset. -/
def blockDomain (off : Nat) : Option Nat :=
  match off / 65536 with
  | 4 => some (if off % 65536 < 0x8000 then 9 else 10)
  | 5 => some 1
  | 6 => some 12
  | 7 => some 12
  | 8 => some 5
  | 9 => some 8
  | 10 => some 5
  | 12 => some 13
  | 13 => some 4
  | _ => none

/-- A host access to a block that stops with domain `d`: counted and without effect while `d` is in Stop (R295). -/
def State.inBlock (s : State) (d : Nat) (act : State → State) : State :=
  if !s.linkReady then s else if s.inRun d then act s else { s with err.stopped := s.err.stopped + 1 }

/-- A push slot of a page of BAR 2 holds the whole access (R294, R320). -/
def inPushSlot (off len : Nat) : Bool :=
  let o := off % 0x1000
  decide (off < 0x208000) && decide (0x100 ≤ o) && decide (o < (if off < 0x200000 then 0x500 else 0x200)) &&
    decide (o % 64 + len ≤ 64)

/-- An access to BAR 0 or BAR 2 has a size and an alignment that the BAR accepts (R294). -/
def accessOk (bar off len : Nat) (write : Bool) : Bool :=
  ((len == 4 || len == 8) && off % len == 0) || (bar == 2 && write && decide (0 < len) && inPushSlot off len)

/-- An access of a size or alignment that its BAR does not accept (R294). -/
def State.badAccess (s : State) (fn : Fn) (bar off len : Nat) (write : Bool) : State :=
  let s := (s.violFn fn 4 (bar + len % 256 * 256) off).aer fn .completerAbort
  if write then s else s.emit (.cpl .ca [])

/-- BAR_BAD_ACCESS (R294): anything but one or two DW naturally aligned, and a write within a push slot. -/
def execBarBadAccess (fn : Fn) (off : BarOff) (len : Nat) (write : Bool) (s : State) : Out :=
  .next (if !s.linkReady || accessOk off.bar off.off len write then s else s.badAccess fn off.bar off.off len write)

/-- HOST_UNSUPPORTED_REQUEST (R293). -/
def execHostUnsupportedRequest (fn : Fn) (posted : Bool) (s : State) : Out :=
  if !s.linkReady then .next s
  else
    let s := s.aer fn .unsupportedRequest
    .next (if posted then s else s.emit (.cpl .ur []))

/-! ### Peer windows (R297 to R300) -/

/-- Units of the aperture, 64 KiB. -/
def winUnit : Nat := 65536

/-- The active values of a window. -/
def State.win (s : State) (n : Nat) : Win := s.host.activeWin.getD n {}

/-- Octets a peer request names. -/
def peerLen (q : PeerReq) : Nat :=
  match q.wr with
  | some b => b.length
  | none => q.len

/-- A window admits a request: wholly inside, direction permitted, requester admitted (R297). -/
def Win.admits (w : Win) (q : PeerReq) : Bool :=
  w.enable && decide (w.base * winUnit ≤ q.addr) && decide (q.addr + peerLen q ≤ (w.base + w.size) * winUnit) &&
    (if q.wr.isSome then w.write else w.read) && (!w.ridCheck || w.rid == q.rid)

/-- The recorder-region address a request is translated to (R297); the region starts at DRAM address 0. -/
def State.peerTarget (s : State) (q : PeerReq) : Option Nat :=
  ((List.range 16).find? (fun n => (s.win n).admits q)).map
    (fun n => (s.win n).target * winUnit + (q.addr - (s.win n).base * winUnit))

/-- A request that is not translated (R298). -/
def State.peerReject (s : State) (q : PeerReq) : State :=
  let np := q.wr.isNone
  let s := s.logViolation false 6 3 q.rid (b2n np + b2n (!np) * 2) (s.host.cfg0.bar4.toNat + q.addr)
  let s := (s.aer .pf0 .unsupportedRequest)
  let s := { s with host.winCnt := s.host.winCnt.inc (if np then 2 else 3) }
  if np then s.emit (.cpl .ur []) else s

/-- The completions of a read of `b` at address `a`: each ends at a Read Completion Boundary of 64 octets, and carries at most the
Max Payload Size of PF 0 (R292, R298, log entry 133). -/
def State.cplSplit (s : State) (a : Nat) (b : Bytes) : State :=
  let m := 128 * 2 ^ min s.host.cfg0.mps 2
  let n := m - a % 64
  ((List.range ((b.length - n + m - 1) / m)).foldl (fun t k => t.emit (.cpl .sc (slice b (n + k * m) (min m (b.length - n - k * m)))))
    (s.emit (.cpl .sc (b.take n))))

/-- A peer request under the active windows (R297, R298). -/
def State.peerServe (s : State) (q : PeerReq) : State :=
  match s.peerTarget q with
  | none => s.peerReject q
  | some a =>
    let s := { s with host.winCnt := s.host.winCnt.inc 0 }
    match q.wr with
    | some b => s.dramWrite a b
    | none =>
      match s.dramRead a q.len with
      | (some b, s) => s.cplSplit q.addr b
      | (none, s) => (s.aer .pf0 .completerAbort).emit (.cpl .ca [])

/-- The request touches a window's span. -/
def Win.touches (w : Win) (q : PeerReq) : Bool :=
  decide (q.addr < (w.base + w.size) * winUnit) && decide (w.base * winUnit < q.addr + peerLen q)

/-- The hold of R299 takes one more request: up to 32 requests and 4 KiB of write data. -/
def State.holdRoom (s : State) (q : PeerReq) : Bool :=
  let size (x : PeerReq) : Nat := (x.wr.map List.length).getD 0
  decide (s.host.heldPeer.length < 32) && decide (s.host.heldPeer.foldl (fun a x => a + size x) (size q) ≤ 4096)

/-- A request for the window that is CHANGING is held; beyond the hold no credit is given, and it stays with its sender (R299). -/
def State.peerHold (s : State) (q : PeerReq) : State :=
  if s.holdRoom q then { s with host.heldPeer := s.host.heldPeer ++ [q], host.winCnt := s.host.winCnt.inc 1 }
  else { s with host.holdFull := true }

/-- PEER_REQUEST (R297 to R299): held while its window is CHANGING; without credit it stays with its sender. -/
def execPeerRequest (q : PeerReq) (s : State) : Out :=
  if !s.linkReady || s.host.holdFull then .next s
  else if !s.inRun 13 then
    let s := { s with err.stopped := s.err.stopped + 1 }
    .next (if q.wr.isNone then s.emit (.cpl .sc (zeros q.len)) else s)
  else if q.poisoned && q.wr.isSome then
    .next ((s.hostError 4 0 q.rid 0 (s.host.cfg0.bar4.toNat + q.addr) 4).aer .pf0 .poisonedTlp)
  else
    match s.host.changing with
    | some (n, new) =>
      if (s.win n).touches q || new.touches q then
        .next (s.peerHold q)
      else .next (s.peerServe q)
    | none => .next (s.peerServe q)

/-- Two spans share a unit. -/
def Win.overlaps (a b : Win) : Bool := decide (a.base < b.base + b.size) && decide (b.base < a.base + a.size) && a.size != 0 && b.size != 0

/-- The reason a commit of a window is rejected, as WIN_STATUS.REJECT codes it; 0 if it is not (R299). -/
def State.winRejects (s : State) (n : Nat) (w : Win) : Nat :=
  if (List.range 16).any (fun m => m != n && (s.win m).enable && (s.win m).overlaps w) then 1
  else if 262144 < w.base + w.size then 2
  else if 163840 < w.target + w.size then 3
  else if w.size = 0 ∧ w.enable then 4
  else if (match s.host.changing with | some (m, _) => m != n | none => false) then 5
  else 0

/-- WIN_COMMIT (R299). -/
def execWinCommit (window : Nat) (s : State) : Out :=
  if !s.linkReady then .next s
  else if !s.inRun 13 then .next { s with err.stopped := s.err.stopped + 1 }
  else
    let n := window % 16
    let w := s.host.stagedWin.getD n {}
    let r := s.winRejects n w
    let s := { s with host.winSel := n, host.winLast := n, host.winReject := r }
    .next (if r ≠ 0 then { s with host.winCnt := s.host.winCnt.inc 5 }
      else { s with host.changing := some (n, w) })

/-- WIN_CHANGE_DONE (R299): the new values apply, and the held requests are served under them in order. -/
def execWinChangeDone (s : State) : Out :=
  match s.host.changing with
  | none => .next s
  | some (n, w) =>
    let held := s.host.heldPeer
    let s := { s with
      host.activeWin := s.host.activeWin.put n w, host.changing := none, host.heldPeer := [], host.holdFull := false,
      host.winCnt := s.host.winCnt.inc 4 }
    .next (held.foldl State.peerServe s)

/-- Warm reset and FLR of PF 0 disable every window (R300); a held request is then rejected. -/
def State.winReset (s : State) : State :=
  { s with
    host.stagedWin := [], host.activeWin := [], host.changing := none, host.heldPeer := [], host.holdFull := false, host.winReject := 0,
    host.winLast := 0, host.winSel := 0, host.winCnt := Cnts.zero 6 }

/-! ### Completions (R301 to R304) -/

/-- A descriptor read has brought `b`: its entries become fetched descriptors of the ring (R321). -/
def takeDescs (x : Ring) (idx n : Nat) (b : Bytes) : Ring :=
  { x with
    descs := x.descs ++ (List.range n).map (fun j =>
      let k := BitVec.ofNat 16 (idx + j)
      { idx := k, body := slice b (32 * j) 32, inPlace := x.modeAt k }) }

/-- The translation cache changed (R311). -/
def State.setXlats (s : State) (l : List Xlat) : State := { s with host.xlats := l }

/-- What a request's data, or its failure, does to the unit that made it (Table 12-8). -/
def State.deliver (s : State) (p : Purpose) (b : Option Bytes) : State :=
  match p with
  | .descriptors r idx n =>
    let x := s.ring r
    if x.state = .enabled ∨ x.state = .draining then
      match b with
      | some d => s.setRing r (takeDescs x idx n d)
      | none => s.ringError r (BitVec.ofNat 16 idx) 1
    else s
  | .cmdEntry r idx =>
    match b with
    | some _ => s
    | none => if (s.ring r).state = .enabled then s.ringError r (BitVec.ofNat 16 idx) 1 else s
  | .translation page pasid =>
    match b with
    | some d =>
      let l := s.host.xlats ++ [{ page := page, pasid := pasid, phys := leAt d 0 8 / 4096 }]
      s.setXlats (l.drop (l.length - 4096))
    | none => s
  | .stale => s
  | .ended i =>
    let more := s.host.tags.any (fun p => match p.2 with | .outstanding _ (.ended j) _ _ _ _ => j == i | _ => false)
    if more then s else s.replyAll (fun a => isReset a.opcode && !a.waits && a.cmd.inst == i) 0 0

/-- A read of descriptors is one transfer, which may be issued as several requests (R292). -/
def Purpose.grouped : Purpose → Bool
  | .descriptors .. => true
  | _ => false

/-- A request for `p` is outstanding. -/
def State.requested (s : State) (p : Purpose) : Bool :=
  s.host.tags.any (fun t => match t.2 with | .outstanding _ w _ _ _ _ => w == p | _ => false)

/-- Parts of one read, put in ascending address order. -/
def insertPart (a : Nat) (b : Bytes) : List (Nat × Bytes) → List (Nat × Bytes)
  | [] => [(a, b)]
  | x :: xs => if a ≤ x.1 then (a, b) :: x :: xs else x :: insertPart a b xs

/-- One request's octets have arrived: the read is delivered with its last (R292). -/
def State.partCame (s : State) (p : Purpose) (addr : Nat) (b : Bytes) : State :=
  if !p.grouped then s.deliver p (some b)
  else
    let mine := s.host.parts.filter (fun x => x.1 == p)
    if s.requested p then { s with host.parts := s.host.parts ++ [(p, addr, b)] }
    else
      let all := mine.foldl (fun l x => insertPart x.2.1 x.2.2 l) [(addr, b)]
      State.deliver { s with host.parts := s.host.parts.filter (fun x => !(x.1 == p)) } p (some (all.flatMap (·.2)))

/-- One request has failed: the read fails as a whole, and what its other requests bring is discarded (R292, R303). -/
def State.partLost (s : State) (p : Purpose) : State :=
  if !p.grouped then s.deliver p none
  else
    let tags := s.host.tags.mapVals (fun _ t =>
      match t with
      | .outstanding f w since addr len got => if w = p then .outstanding f .stale since addr len got else t
      | _ => t)
    State.deliver { s with host.tags := tags, host.parts := s.host.parts.filter (fun x => !(x.1 == p)) } p none

/-- HOST_COMPLETION_RX (R303, R304). -/
def execHostCompletionRx (tag completer : Nat) (fn : Fn) (status : CplStatus) (body : Bytes) (last : Bool) (s : State) : Out :=
  if !s.linkReady then .next s
  else
    match s.host.tags.find tag with
    | some (.outstanding f what since addr len got) =>
      if f ≠ fn then .next ((s.hostError 1 fn.num completer tag 0 2).aer fn .unexpectedCompletion)
      else
        let all := got ++ body
        if status = .sc ∧ !last ∧ all.length ≤ len then
          .next { s with host.tags := s.host.tags.put tag (.outstanding f what since addr len all) }
        else
          let s := { s with host.tags := s.host.tags.drop1 tag }
          if status = .sc ∧ all.length = len then .next (s.partCame what addr all)
          else
            let s := s.hostError 3 fn.num completer tag 0 3
            let s := if status = .poisoned then s.aer fn .poisonedTlp else s
            .next (s.partLost what)
    | _ => .next ((s.hostError 1 fn.num completer tag 0 2).aer fn .unexpectedCompletion)

/-- COMPLETION_TIMEOUT (R302 to R304): declared no earlier than the timeout value. -/
def execCompletionTimeout (tag : Nat) (s : State) : Out :=
  match s.host.tags.find tag with
  | some (.outstanding f what since addr _ _) =>
    if s.elapsed since (s.cfg f).timeoutTicks then .next ((s.timeOutTag f tag addr).partLost what) else .next s
  | _ => .next s

/-- TAG_QUARANTINE_END (R304). -/
def execTagQuarantineEnd (tag : Nat) (s : State) : Out :=
  match s.host.tags.find tag with
  | some (.quarantined until_) =>
    if until_ ≤ s.now then .next { s with host.tags := s.host.tags.drop1 tag } else .next s
  | _ => .next s

/-- One request that stays outstanding, under the lowest usable tag; none where there is no such tag (R301). -/
def State.requestOne (s : State) (fn : Fn) (pasid : Option Nat) (what : Purpose) (addr len : Nat) : Option State :=
  match s.freeTag fn with
  | none => none
  | some t =>
    let a := s.xlate fn pasid addr
    let t' : TagState := .outstanding fn what s.now addr len []
    some ({ s with host.tags := s.host.tags.put t t' }.emit
      (match what with
        | .translation page p => .atsReq p page t
        | _ => .readReq fn pasid a len t))

/-- A read that stays outstanding, issued as the requests of R292; none, and nothing issued, where a usable tag is wanting for one of
them (R301, log entry 132). -/
def State.requestRead (s : State) (fn : Fn) (pasid : Option Nat) (what : Purpose) (addr len : Nat) : Option State :=
  let ps := match what with | .translation .. => [(addr, len)] | _ => (s.cfg fn).readParts addr len
  ps.foldl (fun r p => r.bind (fun s => s.requestOne fn pasid what p.1 p.2)) (some s)

/-- ATS_INVALIDATE (R311). -/
def execAtsInvalidate (page : Nat) (pasid : Option Nat) (s : State) : Out :=
  if !s.linkReady then .next s
  else
    let tags := s.host.tags.mapVals (fun _ t =>
      match t with
      | .outstanding f (.translation p q) since addr len got =>
        if p = page ∧ q = pasid then .outstanding f .stale since addr len got else t
      | _ => t)
    .next ({ s with
      host.xlats := s.host.xlats.filter (fun x => !(x.page == page && x.pasid == pasid)), host.tags := tags }.emit
        (.invalidateDone page))

/-- MSIX_UNMASK (R308): the host clears a vector's mask bit. -/
def execMsixUnmask (fn : Fn) (vec : Nat) (s : State) : Out :=
  if !s.linkReady || !(match fn with | .pf0 => decide (vec < 2112) | .pf1 => decide (vec < 16)) then .next s
  else
    let s := s.setMsix fn vec { s.msixEntry fn vec with masked := false }
    .next (s.msiRelease fn vec)

/-! ### The link (R312, R488) -/

/-- Configuration space after a conventional reset; the sticky registers of PCI Express Base 5.0 keep their values: the AER ones and
Link Control 2 (log entry 7). -/
def CfgSpace.reset (c : CfgSpace) : CfgSpace :=
  { errs := c.errs, firstErr := c.firstErr, fatal := c.fatal, advisory := c.advisory, uncMask := c.uncMask, corMask := c.corMask,
    hdrSeq := c.hdrSeq, linkCtl2 := c.linkCtl2 }

/-- Outstanding requests end with an error to their units, and their tags are free (R312). -/
def State.endRequests (s : State) : State :=
  let ended := s.host.tags.filterMap (fun p => match p.2 with | .outstanding _ what _ _ _ _ => some what | _ => none)
  let s := { s with
    host.tags := s.host.tags.keep (fun _ t => match t with | .outstanding .. => false | _ => true), host.parts := [] }
  (ended.foldl addNew []).foldl (fun s w => s.deliver w none) s

/-- What DL_Down does (R312). -/
def State.linkDown (s : State) : State :=
  let n := s.host.waiting.length
  let s := { s with
    host.linkUp := false, host.linkSince := s.now, host.waiting := [], alm.marks := [], err.hostCnt := s.err.hostCnt.add 5 n,
    host.cfg0 := s.host.cfg0.reset, host.cfg1 := s.host.cfg1.reset, host.xlats := [] }
  s.roundsSettle.endRequests

/-- A link error is reported by every function that had reporting of it enabled in `old` (R314). -/
def State.aerLink (s old : State) (e : AerError) : State :=
  let s := if (old.cfg .pf0).reports e then s.aer .pf0 e else s
  if (old.cfg .pf1).reports e then s.aer .pf1 e else s

/-- PCIE_LINK_UP (R312): the functions are enumerated again by the host. -/
def execPcieLinkUp (s : State) : Out :=
  if s.inRun 2 && s.host.perstHigh && !s.host.linkUp then
    .next { s with host.linkUp := true, host.linkSince := s.now }
  else .next s

end Sys2Proof.Machine
end

