-- ==== Sys2Proof/Machine/Rings.lean ====
section
/-!
DEFINITION. Machine/Rings.lean: doorbells, descriptor fetch, completions, events and the queue commands (chapter 13),
the secure ring and manager ring 0 (chapters 14 and 21).
-/

set_option Elab.async false
namespace Sys2Proof.Machine

open Sys2Proof

/-- Entries of the ring are commands (Table 14-1). -/
def isCmdRing (r : Nat) : Bool := r = secRing || (if r < mgrBase then r % 16 == 0 else decide (r < mgrBase + 4))

/-- The adapter writes the ring's entries: q14, q15, manager rings 30 and 31. -/
def isProducer (r : Nat) : Bool := if r < mgrBase then decide (14 ≤ r % 16) else r == mgrBase + 30 || r == mgrBase + 31

/-- Rings that have a completion mode (R339). -/
def hasMode (r : Nat) : Bool := isTxRing r || isRxRing r || isRegRing r

/-- The ring's number on its page or in its table. -/
def ringNo (r : Nat) : Nat := if r < mgrBase then r % 16 else r - mgrBase

/-- Its owner: an instance, or 512 for the manager. -/
def ringOwner (r : Nat) : Nat := if r < mgrBase then r / 16 else 512

/-- The data path of a ring's owner runs: the instance is ACTIVE (Table 13-4); the manager has no state. -/
def State.ownerActive (s : State) (r : Nat) : Bool :=
  if r < mgrBase then (s.inst (r / 16)).state == .active else true

/-- Completions of a ring's owner are written: the instance is ACTIVE or QUIESCING (Table 13-4); the manager always. -/
def State.ownerLive (s : State) (r : Nat) : Bool :=
  decide (mgrBase ≤ r) || (s.inst (r / 16)).state == .active || (s.inst (r / 16)).state == .quiescing

/-- BAR 2 offset of a ring's doorbell (R316, R317). -/
def doorbellOff (r : Nat) : Nat :=
  if r < mgrBase then r / 16 * 0x1000 + 4 * (r % 16)
  else 0x200000 + (r - mgrBase) / 4 * 0x1000 + 4 * ((r - mgrBase) % 4)

/-! ### Doorbells (R319, R320, R322) -/

/-- A DOORBELL violation: detail 1 index, 2 push count (Table 19-2). -/
def State.violDoorbell (s : State) (r why : Nat) : State :=
  let d := ringNo r + why * 256
  if r < mgrBase then s.violInst (r / 16) 3 (r % 16) d (doorbellOff r) else s.violPf0 3 d (doorbellOff r)

/-- Most descriptors a push may hold for a ring. -/
def pushLimit (r : Nat) : Nat := if isProducer r then 0 else if isCmdRing r then 1 else 2

/-- The descriptors that a push count of `n` takes from the push slot (R320). -/
def pushedDescs (x : Ring) (r : Nat) (pi : BitVec 16) (n : Nat) : List (BitVec 16 × Bytes) :=
  (List.range n).map (fun k =>
    (pi - BitVec.ofNat 16 (n - k), if isCmdRing r then x.push else slice x.push (32 * k) 32))

/-- A doorbell to a ring that is not DISABLED: accepted, or a violation that leaves the ring unchanged (R319). Helm hears of one
on a command ring (Table 16-3). -/
def State.ring_doorbell (s : State) (r : Nat) (v : W32) : State :=
  let x := s.ring r
  let pi := BitVec.ofNat 16 v.toNat
  let n := bits v.toNat 17 16
  if pushLimit r < n then s.violDoorbell r 2
  else if isProducer r then
    if (x.fetch - pi).toNat ≤ 2 ^ x.log2 then s.setRing r { x with pi := pi } else s.violDoorbell r 1
  else if 2 ^ x.log2 < (pi - x.oldest).toNat then s.violDoorbell r 1
  else if (pi - x.pi).toNat < n then s.violDoorbell r 2
  else
    let s := s.setRing r { x with pi := pi, pushed := x.pushed ++ pushedDescs x r pi n }
    if mgrBase ≤ r ∧ r < mgrBase + 4 then s.pulse (44 + (r - mgrBase))
    else if r < mgrBase ∧ r % 16 = 0 then s.pulse (64 + r / 16)
    else s

/-- DOORBELL (R316, R319, R322). -/
def execDoorbell (ring : Nat) (value : W32) (s : State) : Out :=
  if !s.linkReady || decide (mgrBase + 32 ≤ ring) then .next s
  else if ring < mgrBase ∧ (s.inst (ring / 16)).state = .absent then
    .next (s.violPf0 2 (ring / 16) (doorbellOff ring))
  else if (s.ring ring).state = .disabled then .next { s with err.hostCnt := s.err.hostCnt.inc 6 }
  else .next (s.ring_doorbell ring value)

/-! ### Descriptor fetch (R320 to R322) -/

/-- Entries of ring `r` that a read brings. -/
def Purpose.entries (p : Purpose) (r : Nat) : Nat :=
  match p with
  | .descriptors q _ n => if q = r then n else 0
  | .cmdEntry q _ => if q = r then 1 else 0
  | _ => 0

/-- Descriptors of a ring being read now; the requests of one read are one read (R292). -/
def State.inFlight (s : State) (r : Nat) : Nat :=
  let reads := s.host.tags.foldl (fun l p => match p.2 with | .outstanding _ w _ _ _ _ => addNew l w | _ => l) []
  reads.foldl (fun a w => a + w.entries r) 0

/-- A completion of the ring waits for its completion ring (R332). -/
def State.waitsCompl (s : State) (r : Nat) : Bool := (s.ring (complRing r)).held.any (fun w => w.ring == r)

/-- The ring may fetch now (R322, R332, R335, R443). -/
def State.mayFetch (s : State) (r : Nat) : Bool :=
  let x := s.ring r
  if isCmdRing r then
    x.state == .enabled && s.ringOn r && s.served r && x.fetch != x.pi && s.inFlight r == 0
  else
    s.linkReady && (s.cfg .pf0).bme && s.inRun 4 && !s.hove && s.ownerActive r && hasMode r && !s.waitsCompl r &&
      (x.state == .enabled || (x.state == .draining && !isRxRing r)) &&
      (if x.state == .draining then x.fetch != x.drainPi else x.fetch != x.pi)

/-- How many descriptors the next fetch takes: within the prefetch limit, the published ones, 512 bytes, and the ring's
end (R321), and short of a pushed one (R320). -/
def State.fetchCount (s : State) (r : Nat) : Nat :=
  let x := s.ring r
  let limit := if isTxRing r then 8 else 16
  let have_ := (x.descs.filter (fun d => !d.started)).length + s.inFlight r
  let last := if x.state = .draining then x.drainPi else x.pi
  let n := min (min (limit - have_) (last - x.fetch).toNat) (2 ^ x.log2 - x.fetch.toNat % 2 ^ x.log2)
  x.pushed.foldl (fun n p => min n (p.1 - x.fetch).toNat) n

/-- With ATS enabled, the page of an address is asked for once (R311, log entry 8). -/
def State.askTranslation (s : State) (pasid : Option Nat) (addr : Nat) : State :=
  let page := addr / 4096
  let asked := s.host.tags.any (fun p =>
    match p.2 with | .outstanding _ (.translation q t) _ _ _ _ => q == page && t == pasid | _ => false)
  if (s.cfg .pf0).atsEn && !asked && !(s.host.xlats.any (fun x => x.page == page && x.pasid == pasid)) then
    (s.requestRead .pf0 pasid (.translation page pasid) addr 8).getD s
  else s

/-- DESCRIPTOR_FETCH (R320 to R322): a pushed descriptor is taken as if fetched, others are read from ring memory; a pushed command
entry needs no read. -/
def execDescriptorFetch (ring : Nat) (s : State) : Out :=
  if !s.mayFetch ring then .next s
  else
    let x := s.ring ring
    let pasid := s.ringPasid ring
    if isCmdRing ring then
      if x.pushed.any (fun p => p.1 == x.fetch) then .next s else
      match s.requestRead (ringFn ring) pasid (.cmdEntry ring x.fetch.toNat) (x.slotAddr 64 x.fetch) 64 with
      | some t => .next t
      | none => .next { s with err.hostCnt := s.err.hostCnt.inc 0 }
    else
      match x.pushed.find? (fun p => p.1 == x.fetch) with
      | some (k, b) =>
        let d : Desc := { idx := k, body := b, inPlace := x.modeAt k }
        .next (s.setRing ring { x with
          fetch := x.fetch + 1, pushed := x.pushed.filter (fun p => p.1 != k), descs := x.descs ++ [d] })
      | none =>
        let n := s.fetchCount ring
        if n = 0 then .next s
        else
          let addr := x.slotAddr 32 x.fetch
          if !s.ringInBounds ring addr (32 * n) true false then
            let s := (s.setRing ring { x with fetch := x.fetch + BitVec.ofNat 16 n }).violBounds ring addr
            let ds := (List.range n).map (fun j =>
              let k := x.fetch + BitVec.ofNat 16 j
              ({ idx := k, body := zeros 32, inPlace := x.modeAt k } : Desc))
            .next (ds.foldl (fun s d => s.completeDesc ring d (unreadCompletion d ring 8)) s)
          else
            match s.requestRead .pf0 pasid (.descriptors ring x.fetch.toNat n) addr (32 * n) with
            | some t =>
              .next ((t.setRing ring { x with fetch := x.fetch + BitVec.ofNat 16 n }).askTranslation pasid addr)
            | none => .next { s with err.hostCnt := s.err.hostCnt.inc 0 }

/-! ### Receive (R324, R326) -/

/-- A fragment table is well formed: FRAGS entries, no reserved bit, no zero length, lengths that add up (R324). -/
def fragments (tab : Bytes) (n total : Nat) : Option (List (Nat × Nat)) :=
  let fs := (List.range n).map (fun k => (leAt tab (16 * k) 8, leAt tab (16 * k + 8) 4))
  let ok := (List.range n).all (fun k => leAt tab (16 * k + 12) 4 == 0) &&
    fs.all (fun f => decide (0 < f.2) && decide (f.2 < 65536)) && (fs.foldl (fun a f => a + f.2) 0) == total
  if ok then some fs else none

/-- FRAGS of a descriptor: 0 means 256 (Table 13-5). -/
def fragCount (d : Bytes) : Nat := if byteAt d 17 = 0 then 256 else byteAt d 17

/-- A receive descriptor is well formed (R323, Table 13-6), its fragment table apart. -/
def rxDescOk (d : Bytes) : Bool :=
  let len := leAt d 8 4
  decide (64 ≤ len) && decide (len < 65536) && leAt d 12 4 == 0 && (byteAt d 16 == 0 || byteAt d 16 == 0x20) &&
    (bit (byteAt d 16) 5 || byteAt d 17 == 0) && leAt d 18 6 == 0 && leAt d 26 2 == 0 && leAt d 28 4 == 0

/-- The pieces of host memory that `n` octets fill, taken over fragments in order. -/
def spread : List (Nat × Nat) → Nat → List (Nat × Nat)
  | [], _ => []
  | (a, l) :: fs, n => if n = 0 then [] else (a, min l n) :: spread fs (n - min l n)

/-- Octets laid over pieces of host memory in order, as posted writes of a ring. -/
def State.scatter : State → Nat → List (Nat × Nat) → Bytes → State
  | s, _, [], _ => s
  | s, r, (a, l) :: ps, b => State.scatter (s.postRing r a (b.take l)) r ps (b.drop l)

/-- What one receive descriptor offers: its pieces, or the status it completes with and whether the ring fails. -/
inductive RxOffer where
  | pieces (ps : List (Nat × Nat)) (len : Nat)
  | malformed
  | failedRead
  /-- Its fragment table lies outside the instance's bounds (R336). -/
  | bounds (addr : Nat)
  deriving DecidableEq, Repr

/-- A descriptor has a fragment table, which is to be read (R324). -/
def hasTable (d : Desc) : Bool := bit (byteAt d.body 16) 5

/-- The buffer of a receive descriptor of ring `r`; its fragment table is read as `t` brings it (R324, R336). -/
def State.rxOffer (s : State) (r : Nat) (d : Desc) (t : HostRead) : RxOffer × State :=
  let len := leAt d.body 8 4
  let addr := leAt d.body 0 8
  let n := fragCount d.body
  if !rxDescOk d.body then (.malformed, s)
  else if !hasTable d then (.pieces [(addr, len)] len, s)
  else if addr % 16 ≠ 0 then (.malformed, s)
  else if !s.ringInBounds r addr (16 * n) true false then (.bounds addr, s)
  else
    match s.hostRead .pf0 (s.ringPasid r) addr (16 * n) t with
    | (some b, s) =>
      match fragments b n len with
      | some fs => (.pieces fs len, s)
      | none => (.malformed, s)
    | (none, s) => (.failedRead, s)

/-- The descriptors whose lengths together cover a frame of so many octets, in order (R326). -/
def bufferDescs : List Desc → Nat → List Desc
  | _, 0 => []
  | [], _ + 1 => []
  | d :: ds, n + 1 => d :: bufferDescs ds (n + 1 - leAt d.body 8 4)

/-- The descriptors a frame of `need` octets takes from the fetched ones, in order; none when there are too few (R326). -/
def State.takeBuffers (s : State) (r : Nat) : List Desc → List HostRead → Nat → Option (List (Desc × RxOffer)) × State
  | _, _, 0 => (some [], s)
  | [], _, _ + 1 => (none, s)
  | d :: ds, ts, n + 1 =>
    let o := s.rxOffer r d (ts.headD .timeout)
    match o.1 with
    | .pieces _ len =>
      let rest := o.2.takeBuffers r ds (if hasTable d then ts.drop 1 else ts) (n + 1 - len)
      (rest.1.map ((d, o.1) :: ·), rest.2)
    | _ => (some [(d, o.1)], o.2)

/-- A frame is written across the buffers taken for it, each completion but the last with MORE (R326). -/
def State.fillBuffers : State → Nat → RxFrame → Bytes → List (Desc × RxOffer) → State
  | s, _, _, _, [] => s
  | s, r, f, b, (d, .pieces ps len) :: rest =>
    let n := min len b.length
    let s := s.scatter r (spread ps n) (b.take n)
    let s := s.completeDesc r d (rxCompletion d r f 0 n (!rest.isEmpty))
    State.fillBuffers s r f (b.drop n) rest
  | s, _, _, _, _ :: _ => s

/-- A frame has been delivered to its ring: FLOW_ACT_CNT[1] counts those of instances (Table 8-10); an exception frame was counted
when it left the pipeline. -/
def State.rxDelivered (s : State) (r : Nat) : State := if r < mgrBase then s.actCount 1 else s

/-- A piece of a frame's buffers that lies outside the instance's bounds (R336). -/
def State.badPiece (s : State) (r : Nat) (n : Nat) : List (Desc × RxOffer) → Option (Desc × Nat)
  | [] => none
  | (d, .pieces ps len) :: rest =>
    match (spread ps (min len n)).find? (fun p => !s.ringInBounds r p.1 p.2 false true) with
    | some p => some (d, p.1)
    | none => State.badPiece s r (n - min len n) rest
  | _ :: rest => State.badPiece s r n rest

/-- The first waiting frame of a receive ring leaves its queue, and its cells return. -/
def State.popFrame (s : State) (r : Nat) : State :=
  let x := s.ring r
  match x.frames with
  | [] => s
  | f :: fs => ((s.setRing r { x with frames := fs }).freeRx r f)

/-- The receive ring may take a frame now (Table 13-4, R305, R332, R443). -/
def State.rxOpen (s : State) (r : Nat) : Bool :=
  isRxRing r && s.mayRead .pf0 && s.inRun 5 && !s.hove && s.ownerActive r && (s.ring r).state == .enabled && !s.waitsCompl r

/-- Frame `f` meets the buffers taken for it: written whole, or its first descriptor that will not do ends it (R323, R336). -/
def State.rxTake (s : State) (ring : Nat) (f : RxFrame) (got : List (Desc × RxOffer)) : State :=
  let boundsEnd (d : Desc) (addr : Nat) : State :=
    (((s.popFrame ring).rxEnd f (some (8, 0))).violBounds ring addr).completeDesc ring d (rxCompletion d ring noFrame 8 0 false)
  match got.find? (fun g => match g.2 with | .pieces .. => false | _ => true) with
  | some (d, .failedRead) => s.ringError ring d.idx 2
  | some (d, .bounds addr) => boundsEnd d addr
  | some (d, _) => s.completeDesc ring d (rxCompletion d ring noFrame 9 0 false)
  | none =>
    match s.badPiece ring f.body.length got with
    | some (d, addr) => boundsEnd d addr
    | none => (((s.popFrame ring).fillBuffers ring f f.body got).rxDelivered ring).rxEnd f none

/-- RX_FRAME_DELIVER (R323, R324, R326, R336): the first waiting frame is written whole or not at all; a malformed
descriptor completes with BAD_DESC and the next is tried by the next delivery. -/
def execRxFrameDeliver (ring : Nat) (tables : List HostRead) (s : State) : Out :=
  let ds := (s.ring ring).descs.filter (fun d => !d.started)
  if !s.rxOpen ring then .next s
  else
    match (s.ring ring).frames with
    | [] => .next s
    | f :: _ =>
      if (bufferDescs ds f.body.length).any hasTable && s.readHeld .pf0 then .next (s.readWait .pf0)
      else
        match s.takeBuffers ring ds tables f.body.length with
        | (none, _) => .next s
        | (some got, s) => .next (s.rxTake ring f got)

/-! ### Completion rings, events, moderation -/

/-- TAGGED_COMPLETION_RESUME (R332): the first entry that waits for the completion ring is written once there is room. -/
def execTaggedCompletionResume (ring : Nat) (s : State) : Out :=
  let x := s.ring ring
  match x.held with
  | [] => .next s
  | w :: ws =>
    if isProducer ring && x.room && s.linkReady && s.ownerLive ring then
      let s := s.setRing ring { x with held := [] }
      let s := s.toComplRing ring w
      let s := s.setRing ring { s.ring ring with held := ws }
      .next ((s.releaseInPlace (s.ring w.ring).held.length w.ring).markSwitch w.ring)
    else .next s

/-- EVENTS_LOST (R333). -/
def execEventsLost (inst : Nat) (s : State) : Out :=
  if inst ≤ 512 ∧ s.linkReady then .next (s.flushLost inst (s.inst inst).state) else .next s

/-- INT_HOLDOFF_EXPIRY (R334). -/
def execIntHoldoffExpiry (ring : Nat) (s : State) : Out :=
  let x := s.ring ring
  if 0 < x.modPending ∧ s.elapsed x.modStart (x.holdoff * 625) then .next (s.signal ring) else .next s

/-! ### Queue commands (R335, R339, R349) -/

/-- The Table 14-10 check on a queue command's ring. -/
def State.ringConflict (s : State) (r legal : Nat) : Option Reply :=
  let st := (s.ring r).state.code
  if bit legal st then none else some (Reply.conflict s 2 st legal r)

/-- The body of a queue command over its ring, after the checks that concern the ring: it exists, and manager ring 0
only where `ring0` says so, and its state is legal. -/
def queueBody (c : Cmd) (ring0 : Bool) (legal : Nat) (body : Nat → State → Reply) (s : State) : Reply :=
  match cmdQueue c with
  | none => Reply.bad s 24
  | some r =>
    if r = mgrBase ∧ !ring0 then Reply.bad s 24
    else
      match s.ringConflict r legal with
      | some x => x
      | none => body r s

/-- QUEUE_CONFIG's effect (R339, R337). -/
def queueConfigBody (c : Cmd) (r : Nat) (s : State) : Reply :=
  let log2 := byteAt c.data 1
  let fl := byteAt c.data 2
  let holdoff := leAt c.data 4 2
  let base := leAt c.data 8 8
  if log2 < 6 ∨ 15 < log2 then Reply.bad s 25
  else if 1023 < holdoff then Reply.bad s 28
  else if base % 4096 ≠ 0 then Reply.bad s 32
  else if !s.ringInBounds r base (2 ^ log2 * ringEntry r) true true then
    let s := match cmdTenant c with
      | some i => s.violInst i 1 0xFF 0xFF base
      | none => s.violPf0 1 0xFF base
    Reply.no s 0xA 1
  else
    let x := s.ring r
    Reply.ok (s.setRing r { x with
      configured := true, log2 := log2, base := base, inPlace := bit fl 0, intEn := bit fl 1, holdoff := holdoff,
      count := byteAt c.data 6, retag := false })

/-- QUEUE_CONFIG (R339). -/
def execQueueConfig (c : Cmd) (s : State) : Out :=
  .next (s.runCmd { code := 0x0301, tenant := true, inst := .either, states := 0x3E } c (fun _ s =>
    match cmdQueue c with
    | none => Reply.bad s 24
    | some r =>
      if r < mgrBase ∧ (r % 16 = 0 ∨ 14 ≤ r % 16) then Reply.bad s 24
      else queueBody c false 0x01 (queueConfigBody c) s))

/-- QUEUE_ENABLE's effect (R335, R331). -/
def queueEnableBody (c : Cmd) (r : Nat) (s : State) : Reply :=
  let x := s.ring r
  let start := if bit (byteAt c.data 1) 0 then BitVec.ofNat 16 (leAt c.data 2 2) else x.oldest
  if !x.configured then Reply.no s 8 24
  else if (x.pi - x.oldest).toNat < (start - x.oldest).toNat then Reply.bad s 26
  else
    let tag := (x.state = .error || x.retag) && hasMode r
    let s := s.forgetDescs (· == r)
    Reply.ok (s.setRing r { s.ring r with
      state := .enabled, fetch := if isProducer r then x.fetch else start, oldest := if isProducer r then x.oldest else start,
      inPlace := if tag then false else x.inPlace, retag := false, descs := [], done := [], held := if isProducer r then x.held else [],
      pushed := [], switch := if tag then none else x.switch })

/-- QUEUE_ENABLE (R335). -/
def execQueueEnable (c : Cmd) (s : State) : Out :=
  .next (s.runCmd { code := 0x0302, tenant := true, inst := .either, states := 0x3E } c (fun _ s =>
    queueBody c false 0x19 (queueEnableBody c) s))

/-- A receive ring's fetched descriptors that no frame used complete with FLUSHED, its waiting frames are discarded
and counted (R335). -/
def State.flushRx (s : State) (r : Nat) : State :=
  let x := s.ring r
  let s := x.frames.foldl (fun s f => ((s.freeRx r f).actCount 7).rxEnd f (some (6, 7))) (s.setRing r { x with frames := [] })
  (x.descs.filter (fun d => !d.started)).foldl
    (fun s d => s.completeDesc r d (rxCompletion d r noFrame 11 0 false)) s

/-- Every descriptor a DRAINING ring has to fetch has been fetched, and every fetched one has completed (R335). -/
def State.drained (s : State) (r : Nat) : Bool :=
  let x := s.ring r
  x.state == .draining && x.oldest == x.fetch && s.inFlight r == 0 &&
    (isRxRing r || isProducer r || isCmdRing r || x.fetch == x.drainPi || !s.ownerActive r)

/-- QUEUE_DRAIN (R335, R349): the ring is DRAINING; the reply comes when it is STOPPED. -/
def execQueueDrain (c : Cmd) (s : State) : Out :=
  .next (s.runCmd { code := 0x0303, tenant := true, inst := .either, states := 0x0C } c (fun _ s =>
    match cmdQueue c with
    | none => Reply.bad s 24
    | some r =>
      if (cmdTenant c).isSome ∧ (isCmdRing r || isProducer r) then Reply.denied s 0
      else
        queueBody c false 0x02 (fun r s =>
          let x := s.ring r
          let s := s.setRing r { x with state := .draining, drainPi := x.pi }
          { st := if isRxRing r then s.flushRx r else s, later := true, limit := 2 ^ 62 }) s))

/-- RING_STOPPED (R335): the event is written, and QUEUE_DRAIN replies. -/
def execRingStopped (ring : Nat) (s : State) : Out :=
  if s.drained ring && decide (ring < mgrBase + 32) then
    let x := s.ring ring
    let s := s.setRing ring { x with state := .stopped }
    let s := s.instEvent (ringOwner ring) 4 ([BitVec.ofNat 8 (ringNo ring), 0] ++ leBytes 2 x.oldest.toNat)
    .next (s.replyAll (fun a => a.opcode == 0x0303 && !a.waits && cmdQueue a.cmd == some ring) 0 0)
  else .next s

/-- QUEUE_DISABLE (R335, R349). -/
def execQueueDisable (c : Cmd) (s : State) : Out :=
  .next (s.runCmd { code := 0x0304, tenant := true, inst := .either, states := 0x3E } c (fun _ s =>
    match cmdQueue c with
    | none => Reply.bad s 24
    | some r =>
      if (cmdTenant c).isSome ∧ (isCmdRing r || isProducer r) then Reply.denied s 0
      else
        queueBody c false 0x18 (fun r s =>
          let x := s.ring r
          let s := x.frames.foldl (fun s f => ((s.freeRx r f).actCount 7).rxEnd f (some (6, 7))) s
          let s := s.forgetDescs (· == r)
          Reply.ok (s.setRing r { x with
            state := .disabled, pi := 0, fetch := 0, oldest := 0, descs := [], done := [], pushed := [],
            held := if isProducer r then x.held else [], switch := none, frames := [] })) s))

/-- QUEUE_SET_MODE's effect (R331, R339). -/
def queueSetModeBody (c : Cmd) (r : Nat) (s : State) : Reply :=
  let fl := byteAt c.data 1
  let holdoff := leAt c.data 4 2
  let x := s.ring r
  let marking := x.switch.isSome ||
    (s.ring (complRing r)).held.any (fun w => w.ring == r && byteAt w.body 27 == 5)
  if bit fl 0 ∧ !hasMode r then Reply.bad s 25
  else if bit fl 2 ∧ 1023 < holdoff then Reply.bad s 28
  else if bit fl 0 ∧ marking then Reply.no s 9 0
  else
    let x := if bit fl 2 then { x with intEn := bit fl 3, holdoff := holdoff, count := byteAt c.data 6 } else x
    let si := x.fetch
    let x := if bit fl 0 then { x with inPlace := bit fl 1, retag := false, switch := some (si, x.inPlace), pushed := [] } else x
    let s := s.setRing r x
    let s :=
      if bit fl 0 then
        if x.state = .enabled then s.markSwitch r
        else (s.setRing r { x with switch := none }).toComplRing (complRing r)
          { ring := r, idx := si, body := modeMark si (bit fl 1) r }
      else s
    Reply.ok s (zeros 8 ++ leBytes 2 si.toNat)

/-- QUEUE_SET_MODE (R331, R339). -/
def execQueueSetMode (c : Cmd) (s : State) : Out :=
  .next (s.runCmd { code := 0x0305, tenant := true, inst := .either, states := 0x3E } c (fun _ s =>
    queueBody c false 0x1F (queueSetModeBody c) s))

/-- QUEUE_QUERY's reply (R339). -/
def queueQueryData (x : Ring) (r : Nat) : Bytes :=
  [BitVec.ofNat 8 x.state.code, BitVec.ofNat 8 (b2n (x.inPlace || isCmdRing r)), BitVec.ofNat 8 x.log2,
    BitVec.ofNat 8 (b2n x.intEn)] ++ leBytes 2 x.pi.toNat ++ leBytes 2 x.fetch.toNat ++
    leBytes 2 (if isProducer r then x.fetch else x.oldest).toNat ++ leBytes 2 x.holdoff ++
    [BitVec.ofNat 8 x.count, 0, 0, 0] ++ leBytes 8 x.base

/-- QUEUE_QUERY (R339, R357). -/
def execQueueQuery (c : Cmd) (s : State) : Out :=
  .next (s.runCmd { code := 0x0306, tenant := true, inst := .either, states := 0x3E, exempt := true } c (fun _ s =>
    queueBody c true 0x1F (fun r s => Reply.ok s (queueQueryData (s.ring r) r)) s))

/-! ### The secure ring and manager ring 0 (R341, R367, R481) -/

/-- SEC_RING_DOORBELL (R341, Table 19-2): no push count; a write that fails the test of R319 is a violation of PF 1. -/
def execSecRingDoorbell (value : W32) (s : State) : Out :=
  if !s.linkReady then .next s
  else
    let x := s.ring secRing
    let pi := BitVec.ofNat 16 value.toNat
    if x.state = .disabled then .next { s with err.hostCnt := s.err.hostCnt.inc 6 }
    else if (pi - x.oldest).toNat ≤ 2 ^ x.log2 then .next (s.setRing secRing { x with pi := pi })
    else .next (s.violPf1 3 (0xFF + 256) 0x100C)

/-- A domain's vote mask with one holder's bit set or cleared (R414). -/
def State.setVote (s : State) (holder d : Nat) (on : Bool) : State :=
  let v := (s.power.votes.getD d 0).toNat
  let w := if on then v ||| 2 ^ holder else if bit v holder then v - 2 ^ holder else v
  { s with power.votes := s.power.votes.set d (BitVec.ofNat 8 w) }

/-- A ring that its ENABLE bit governs is started from entry 0 (R367, R481). -/
def State.ringStart (s : State) (r : Nat) : State :=
  s.setRing r { s.ring r with
    state := .enabled, configured := true, pi := 0, fetch := 0, oldest := 0, done := [], pushed := [], modPending := 0, modVecs := [] }

/-- Clearing ENABLE stops acceptance; the ring is DISABLED once its last command has replied, at once in ERROR. -/
def State.ringStop (s : State) (r : Nat) : State :=
  let x := s.ring r
  if x.state = .enabled then (s.setRing r { x with state := .draining }).ringWindDown r
  else s.setRing r { x with state := .disabled, pi := 0, fetch := 0, oldest := 0, done := [] }

/-- LOG2 as SEC_RING_CFG takes it: 4 to 8, other values are taken as 4. -/
def secLog2 (v : Nat) : Nat := if 4 ≤ v ∧ v ≤ 8 then v else 4

/-- SEC_RING_ENABLE (R367): a write of SEC_RING_CFG. While ENABLE is 1 a write of LOG2 is ignored. The SECURITY vote
on D2 and D3 follows ENABLE (Table 17-3). -/
def execSecRingEnable (value : W32) (s : State) : Out :=
  if !s.linkReady then .next s
  else
    let v := value.toNat
    let x := s.ring secRing
    let was := s.dechan.secEnable
    let s := s.setRing secRing { x with log2 := if was then x.log2 else secLog2 (bits v 3 0), intEn := bit v 5 }
    let s := { s with dechan.secEnable := bit v 4 }
    let s := (s.setVote 1 2 (bit v 4)).setVote 1 3 (bit v 4)
    .next (if bit v 4 ∧ !was then s.ringStart secRing else if !bit v 4 ∧ was then s.ringStop secRing else s)

/-- LOG2 as GLOBAL_MRING0_CFG takes it: 6 to 15, other values are taken as 6. -/
def mring0Log2 (v : Nat) : Nat := if 6 ≤ v ∧ v ≤ 15 then v else 6

/-- What a write of GLOBAL_MRING0_CFG sets beside ENABLE; LOG2 only while ENABLE is 0 (R481). -/
def State.mring0Cfg (s : State) (v : Nat) : State :=
  let x := s.ring mgrBase
  s.setRing mgrBase { x with
    log2 := if s.dechan.mring0Enable then x.log2 else mring0Log2 (bits v 3 0), intEn := bit v 5, inPlace := true }

/-- MRING0_ENABLE (R481): GLOBAL_MRING0_CFG written with ENABLE 1. -/
def execMring0Enable (value : W32) (s : State) : Out :=
  if !s.linkReady || !bit value.toNat 4 then .next s
  else
    let was := s.dechan.mring0Enable
    let s := s.mring0Cfg value.toNat
    .next (if was then s else State.ringStart { s with dechan.mring0Enable := true } mgrBase)

/-- MRING0_DISABLE (R481): GLOBAL_MRING0_CFG written with ENABLE 0. -/
def execMring0Disable (value : W32) (s : State) : Out :=
  if !s.linkReady || bit value.toNat 4 then .next s
  else
    let was := s.dechan.mring0Enable
    let s := s.mring0Cfg value.toNat
    .next (if was then State.ringStop { s with dechan.mring0Enable := false } mgrBase else s)

end Sys2Proof.Machine
end

