-- ==== Sys2Proof/Machine/Classifier.lean ====
section
/-!
DEFINITION. Machine/Classifier.lean: the range classifier (chapter 07): search, commands, block moves, chart check.
-/

set_option Elab.async false
namespace Sys2Proof.Machine

open Sys2Proof

/-- A classifier bank by number. -/
def State.clsBank (s : State) (b : Nat) : ClsBank := s.cls.banks.getD b {}

/-- A classifier bank changed. -/
def State.setClsBank (s : State) (b : Nat) (x : ClsBank) : State := { s with cls.banks := s.cls.banks.set b x }

/-- Positions a bank holds: 2,048 unit slots over its width. -/
def ClsBank.capacity (x : ClsBank) : Nat := if x.width = 0 then 0 else 2048 / x.width

/-! ### Search (R179) -/

/-- Every unit of an entry admits its value. -/
def ClsEntry.matches_ (e : ClsEntry) (vals : List Nat) : Bool :=
  (e.units.zip vals).all (fun p => decide (p.1.1 ≤ p.2) && decide (p.2 ≤ p.1.2))

/-- The bank's entries that match, by position. -/
def ClsBank.hits (x : ClsBank) (vals : List Nat) : KMap ClsEntry := x.entries.filter (fun p => p.2.matches_ vals)

/-- The result of a search: bank, position, entry, tie. -/
structure ClsHit where
  bank : Nat
  pos  : Nat
  entry : ClsEntry
  tie  : Bool
  deriving DecidableEq, Repr

/-- The better of two candidates: higher priority, then the one found first (lower bank). -/
def betterHit (a b : Option (Nat × Nat × ClsEntry)) : Option (Nat × Nat × ClsEntry) :=
  match a, b with
  | none, y => y
  | x, none => x
  | some x, some y => if x.2.2.priority < y.2.2.priority then some y else some x

/-- The search over banks with their field values, lowest bank first (R179). -/
def clsSearch (banks : List (Nat × ClsBank × List Nat)) : Option ClsHit :=
  let cands := banks.map (fun p => ((p.2.1.hits p.2.2).head?).map (fun e => (p.1, e.1, e.2)))
  match cands.foldl betterHit none with
  | none => none
  | some (b, pos, e) =>
    let same := (banks.map (fun p => ((p.2.1.hits p.2.2).filter (fun h => h.2.priority == e.priority)).length)).foldl (· + ·) 0
    some { bank := b, pos := pos, entry := e, tie := decide (1 < same) }

/-- Table 7-2: a search result as a 64-bit number. -/
def ClsHit.word : Option ClsHit → Nat
  | none => 0
  | some h =>
    1 + b2n h.tie * 2 + h.entry.steer * 4 + b2n h.entry.pass * 16 + h.bank * 32 + h.pos * 1024 +
      h.entry.priority * 2 ^ 32 + h.entry.action * 2 ^ 48

/-- A bank takes part in the search of frames of a source (R171). -/
def ClsBank.searched (x : ClsBank) (src : Nat) : Bool :=
  x.enable && (x.state == .empty || x.state == .populated) && bit x.srcMask src

/-- The search of a frame: `vals b` gives the field values of bank `b`; counters and ties follow (R179). -/
def State.clsLookup (s : State) (src : Nat) (vals : List Nat → List Nat) : Option ClsHit × State :=
  if !s.inRun 7 then (none, s)
  else
    let banks := (List.range 32).filterMap (fun b =>
      let x := s.clsBank b
      if x.searched src then some (b, x, vals (x.fields.take x.width)) else none)
    match clsSearch banks with
    | none => (none, { s with cls.cnt := s.cls.cnt.inc 1 })
    | some h =>
      let s := { s with cls.cnt := s.cls.cnt.inc 0 }
      let s :=
        if h.tie then
          let s := { s with cls.cnt := s.cls.cnt.inc 2 }
          s.setClsBank h.bank { s.clsBank h.bank with tie := (s.clsBank h.bank).tie + 1 }
        else s
      (some h, s)

/-! ### Images and positions (R174, R187) -/

/-- The Table 7-3 image of an entry at a position, with VALID set. -/
def ClsEntry.image (e : ClsEntry) (pos width : Nat) : Bytes :=
  slice (leBytes 2 e.priority ++ leBytes 2 e.action ++ [BitVec.ofNat 8 (e.steer + b2n e.pass * 4 + 0x40), 0] ++
    leBytes 2 pos ++ zeros 8 ++ e.units.flatMap (fun u => leBytes 8 u.1 ++ leBytes 8 u.2)) 0 (32 * width)

/-- The line of a position: its image, or zeros where it is free (R182). -/
def ClsBank.line (x : ClsBank) (pos : Nat) : Bytes :=
  match x.entries.find pos with
  | some e => e.image pos x.width
  | none => zeros (32 * x.width)

/-- An entry from a Table 7-3 image. -/
def imageEntry (b : Bytes) (width : Nat) : ClsEntry :=
  { priority := leAt b 0 2, action := leAt b 2 2, steer := bits (byteAt b 4) 1 0, pass := bit (byteAt b 4) 2,
    units := (List.range width).map (fun u => (leAt b (16 + 16 * u) 8, leAt b (24 + 16 * u) 8)) }

/-- The target position of a new entry of priority `p` (R174): after the last valid entry of priority `p` or higher. -/
def ClsBank.target (x : ClsBank) (p : Nat) : Nat :=
  x.entries.foldl (fun a e => if p ≤ e.2.priority then max a (e.1 + 1) else a) 0

/-- The nearest free position at or below `i` in the bank (higher numbers), if any. -/
def ClsBank.freeBelow (x : ClsBank) (i : Nat) : Option Nat := x.entries.firstFree i (x.capacity - i)

/-- The nearest free position above `i` (lower numbers), if any. -/
def ClsBank.freeAbove (x : ClsBank) (i : Nat) : Option Nat :=
  ((List.range i).reverse).find? (fun k => !x.entries.has k)

/-- Where a new entry goes (R174): its position, the free position used, and the entries moved. -/
def ClsBank.place (x : ClsBank) (p : Nat) : Option (Nat × Nat × Nat) :=
  let i := x.target p
  match x.freeBelow i, x.freeAbove i with
  | some f, some g => if f - i ≤ i - 1 - g then some (i, f, f - i) else some (i - 1, g, i - 1 - g)
  | some f, none => some (i, f, f - i)
  | none, some g => some (i - 1, g, i - 1 - g)
  | none, none => none

/-- The entries after a block move of R174 and the write of the new entry: those between move one place towards the
free position. -/
def ClsBank.applyMove (x : ClsBank) (m : ClsMove) : ClsBank :=
  let shift (k : Nat) : Nat :=
    if m.target ≤ m.free then (if m.target ≤ k ∧ k < m.free then k + 1 else k)
    else (if m.free < k ∧ k ≤ m.target then k - 1 else k)
  let es := x.entries.map (fun p => (shift p.1, p.2))
  { x with entries := es.foldl (fun a p => KMap.put a p.1 p.2) [] |>.put m.target m.entry, state := .populated, move := none }

/-- The reply of CLS_INSERT: POSITION, FREE, MOVED. -/
def insertReply (m : ClsMove) : Bytes := leBytes 2 m.target ++ leBytes 2 m.free ++ leBytes 2 m.moved

/-! ### Commands -/

/-- The bank check that CLS_INSERT, CLS_DELETE, CLS_QUERY and CLS_CHART_CHECK share (R184, R188 to R190). While D7 is in Stop no
bank can be reached, and they reply BUSY (log entry 136). -/
def clsBankBody (c : Cmd) (body : ClsBank → State → Reply) (s : State) : Reply :=
  if 32 ≤ c.handle then Reply.bad s 8
  else if !s.inRun 7 then Reply.no s 9 0
  else
    let x := s.clsBank c.handle
    match x.state with
    | .lost => Reply.no s 0xC 0
    | .unconfigured => Reply.conflict s 5 0 0x6 c.handle
    | _ => body x s

/-- A field selector is in range (R172). -/
def selectorOk (f : Nat) : Bool :=
  let code := f % 32
  decide (1 ≤ code) && decide (code ≤ 18) && bits f 6 5 == 0 && (!bit f 7 || code == 8 || code == 9)

/-- The first selector byte that is out of range, if any. -/
def badSelector (data : Bytes) (width : Nat) : Option Nat :=
  (List.range 4).find? (fun u => if u < width then !selectorOk (byteAt data (4 + u)) else byteAt data (4 + u) != 0)

/-- CLS_BANK_CONFIG's effect (R186). -/
def clsBankConfigBody (c : Cmd) (s : State) : Reply :=
  if 32 ≤ c.handle then Reply.bad s 8
  else if !s.inRun 7 then Reply.no s 9 0
  else
    let x := s.clsBank c.handle
    let width := byteAt c.data 0
    let fl := byteAt c.data 1
    let fields := (List.range 4).map (fun u => byteAt c.data (4 + u))
    if x.state = .populated ∧ !bit fl 1 ∧ (width ≠ x.width ∨ fields ≠ x.fields) then Reply.conflict s 5 2 0xB c.handle
    else if width ≠ 1 ∧ width ≠ 2 ∧ width ≠ 4 then Reply.bad s 24
    else
      match badSelector c.data width with
      | some u => Reply.bad s (28 + u)
      | none =>
        let es := if bit fl 1 ∨ x.state ≠ .populated then [] else x.entries
        Reply.ok (s.setClsBank c.handle { x with
          state := if es.isEmpty then .empty else .populated, width := width, enable := bit fl 0,
          srcMask := byteAt c.data 2 % 64, fields := fields, entries := es })

/-- CLS_BANK_CONFIG (R186). -/
def execClsBankConfig (c : Cmd) (s : State) : Out :=
  .next (s.runCmd { code := 0x0501 } c (fun _ s => clsBankConfigBody c s))

/-- The first LOW that exceeds its HIGH in an image, as a byte offset. -/
def badBound (b : Bytes) (width : Nat) : Option Nat :=
  ((List.range width).find? (fun u => decide (leAt b (24 + 16 * u) 8 < leAt b (16 + 16 * u) 8))).map (fun u => 16 + 16 * u)

/-- AT_POSITION keeps the order of R174 against the nearest valid entries above and below. -/
def ClsBank.ordered (x : ClsBank) (pos p : Nat) : Bool :=
  x.entries.all (fun e => e.1 == pos || (if e.1 < pos then decide (p ≤ e.2.priority) else decide (e.2.priority ≤ p)))

/-- CLS_INSERT's effect (R174, R188): with entries to move, the block move starts and the reply comes at its end. -/
def clsInsertBody (c : Cmd) (b : Bytes) (x : ClsBank) (s : State) : Reply :=
  if c.paramLen ≠ 32 * x.width then Reply.bad s 6
  else
    let e := imageEntry b x.width
    let pos := leAt b 6 2
    if e.steer = 3 then Reply.badBuf s 4
    else
      match badBound b x.width with
      | some off => Reply.badBuf s off
      | none =>
        if bit (byteAt b 4) 7 then
          if x.capacity ≤ pos ∨ !x.ordered pos e.priority then Reply.badBuf s 6
          else
            let m : ClsMove := { entry := e, target := pos, free := pos, moved := 0 }
            Reply.ok (s.setClsBank c.handle { x with entries := x.entries.put pos e, state := .populated }) (insertReply m)
        else
          match x.place e.priority with
          | none => Reply.no s 4 0
          | some (t, f, n) =>
            let m : ClsMove := { entry := e, target := t, free := f, moved := n }
            if n = 0 then Reply.ok (s.setClsBank c.handle (x.applyMove m)) (insertReply m)
            else { st := s.setClsBank c.handle { x with move := some m }, later := true, limit := 2 * msTicks }

/-- CLS_INSERT (R174, R187, R188). -/
def execClsInsert (c : Cmd) (s : State) : Out :=
  .next (s.runCmd { code := 0x0502, lens := [32, 64, 128] } c (fun b s => clsBankBody c (clsInsertBody c b) s))

/-- A block move ends: the entries stand in their new positions and the new entry is searchable; CLS_INSERT replies (R176). -/
def State.clsMoveEnd (s : State) (bank : Nat) : State :=
  match (s.clsBank bank).move with
  | none => s
  | some m =>
    let s := s.setClsBank bank ((s.clsBank bank).applyMove m)
    ((s.dechan.accepted.filter (fun a => a.opcode == 0x0502 && !a.waits && a.cmd.handle == bank)).foldl
      (fun s a => s.reply a 0 0 (insertReply m) []) s).pulse 49

/-- CLS_BLOCK_MOVE_DONE (R176). -/
def execClsBlockMoveDone (bank : Nat) (s : State) : Out := .next (if s.inRun 7 then s.clsMoveEnd bank else s)

/-- The moves in progress end before D5 or D7 stops (R416, step 2). -/
def State.clsDrain (s : State) : State := (List.range 32).foldl State.clsMoveEnd s

/-- CLS_DELETE (R175, R189). -/
def execClsDelete (c : Cmd) (s : State) : Out :=
  .next (s.runCmd { code := 0x0503 } c (fun _ s => clsBankBody c (fun x s =>
    let pos := leAt c.data 0 2
    if x.capacity ≤ pos then Reply.bad s 24
    else if !x.entries.has pos then Reply.no s 8 0
    else
      let es := x.entries.drop1 pos
      Reply.ok (s.setClsBank c.handle { x with entries := es, state := if es.isEmpty then .empty else .populated })) s))

/-- CLS_QUERY's effect (R189). -/
def clsQueryBody (c : Cmd) (b : Bytes) (x : ClsBank) (s : State) : Reply :=
  let pos := leAt c.data 0 2
  if c.paramLen ≠ 32 * x.width then Reply.bad s 6
  else if bit (byteAt c.data 2) 0 then
    let vals := (List.range x.width).map (fun u => leAt b (8 * u) 8)
    Reply.ok s (zeros 8 ++ leBytes 8 (ClsHit.word (clsSearch [(c.handle, x, vals)])))
  else if x.capacity ≤ pos then Reply.bad s 24
  else { st := s, buf := x.line pos }

/-- CLS_QUERY (R189). -/
def execClsQuery (c : Cmd) (s : State) : Out :=
  .next (s.runCmd { code := 0x0504, lens := [32, 64, 128], reads := bit (byteAt c.data 2) 0, writes := true } c
    (fun b s => clsBankBody c (clsQueryBody c b) s))

/-! ### Chart check (R183, R190) -/

/-- A line of a chart of `len`-octet lines as a mover's compare reads it (R163, R183): zeros where the chart lists none, none where
the read fails (Table 12-8). -/
def State.chartLine (s : State) (chart : List (Nat × HostRead)) (base len k : Nat) : Option Bytes × State :=
  let r := s.readResult .pf0 (base + len * k) (((chart.find? (fun p => p.1 == k)).map (·.2)).getD (.data (zeros len)))
  (r.1.map (fun b => slice b 0 len), r.2)

/-- The first comparison of the keys of a chart check: those to be compared again. A key whose line could not be read is one of
them (log entry 137). -/
def State.chartPass (chart : List (Nat × HostRead)) (base len : Nat) (differs : Nat → Bytes → Bool) : List Nat → State → List Nat × State
  | [], s => ([], s)
  | k :: ks, s =>
    let r := s.chartLine chart base len k
    let q := State.chartPass chart base len differs ks r.2
    (if (r.1.map (differs k)).getD true then k :: q.1 else q.1, q.2)

/-- A mover reads a chart's lines from `first` on (log entry 137). -/
def State.chartReads (s : State) (base len first count : Nat) : State :=
  s.emitReads .pf0 none (base + len * first) (len * count) ((s.freeTag .pf0).getD 0)

/-- A command of a range of opcodes on an object has not replied yet (R163, R183). -/
def State.unreplied (s : State) (lo hi h : Nat) : Bool :=
  s.dechan.accepted.any (fun a => decide (lo ≤ a.opcode) && decide (a.opcode ≤ hi) && a.cmd.handle == h)

/-- Kind and offset of a mismatch between a table's line and its chart line: 1 DIFFER, 2 MISSING, 3 EXTRA; none when
they agree. -/
def lineMismatch (table chart : Bytes) : Option (Nat × Nat) :=
  if table = chart then none
  else if table.all (· == 0) then some (2, 0xFFFF)
  else if chart.all (· == 0) then some (3, 0xFFFF)
  else some (1, ((List.range table.length).find? (fun k => table.getD k 0 != chart.getD k 0)).getD 0)

/-- CLS_CHART_CHECK's effect: the first comparison of every position. -/
def clsChartCheckBody (c : Cmd) (b : Bytes) (chart : List (Nat × HostRead)) (x : ClsBank) (s : State) : Reply :=
  let n := leAt b 16 4
  if leAt b 0 8 % 32 ≠ 0 then Reply.badBuf s 0
  else if leAt b 8 8 % 16 ≠ 0 then Reply.badBuf s 8
  else if n = 0 ∨ 65536 < n then Reply.badBuf s 16
  else if s.cls.check.isSome then Reply.no s 9 0
  else
    let len := 32 * x.width
    let r := State.chartPass chart (leAt b 0 8) len (fun k l => (lineMismatch (x.line k) l).isSome) (List.range x.capacity)
      (s.chartReads (leAt b 0 8) len 0 x.capacity)
    let k : ClsCheck :=
      { bank := c.handle, chartBase := leAt b 0 8, reportBase := leAt b 8 8, reportEntries := n,
        waiting := r.1.map (fun p => { what := p, since := s.now }), mismatches := 0, written := 0, full := false }
    Reply.ok { r.2 with cls.check := some k, cls.bgReady := false }

/-- CLS_CHART_CHECK (R183, R190). -/
def execClsChartCheck (c : Cmd) (chart : List (Nat × HostRead)) (s : State) : Out :=
  .next (s.runCmd { code := 0x0505, lens := [32] } c (fun b s => clsBankBody c (clsChartCheckBody c b chart) s))

/-- A record of a confirmed mismatch (R183). -/
def clsRecord (bank pos kind off seq : Nat) : Bytes :=
  leBytes 2 bank ++ leBytes 2 pos ++ [BitVec.ofNat 8 kind, 0] ++ leBytes 2 off ++ zeros 4 ++ leBytes 4 seq

/-- The second comparison of a position: a confirmed mismatch is reported, and counted; a failed read leaves the position to be
compared again (log entry 137). -/
def State.clsRecheck (s : State) (k : ClsCheck) (position : Nat) (line : Option Bytes) : State :=
  let rest := { k with waiting := k.waiting.filter (fun w => w.what != position) }
  match line with
  | none => { s with cls.check := some { k with waiting := rest.waiting ++ [{ what := position, since := s.now }] } }
  | some l =>
    match lineMismatch ((s.clsBank k.bank).line position) l with
    | none => { s with cls.check := some rest }
    | some (kind, off) =>
      if k.written < k.reportEntries then
        { s.post0 (k.reportBase + 16 * k.written) (clsRecord k.bank position kind off ((s.cls.bgSeq + 1) % 65536)) with
          cls.check := some { rest with mismatches := k.mismatches + 1, written := k.written + 1 } }
      else { s with cls.check := some { rest with mismatches := k.mismatches + 1, full := true } }

/-- CLS_CHART_RECHECK (R183): after CHART_SETTLE_MS, and once every command on the bank has replied. -/
def execClsChartRecheck (position : Nat) (line : HostRead) (s : State) : Out :=
  match s.cls.check with
  | none => .next s
  | some k =>
    let x := s.clsBank k.bank
    match k.waiting.find? (fun m => m.what == position) with
    | none => .next s
    | some m =>
      if s.hove || !s.inRun 7 || !s.elapsed m.since (s.cls.settleMs * msTicks) || x.move.isSome || s.unreplied 0x0501 0x0505 k.bank then
        .next s
      else if s.readHeld .pf0 then .next (s.readWait .pf0)
      else
        let len := 32 * x.width
        let r := (s.chartReads k.chartBase len position 1).chartLine [(position, line)] k.chartBase len position
        .next (r.2.clsRecheck k position r.1)

/-- A classifier chart check ends with an outcome: 0 OK, 1 REPORT_FULL, 2 ABANDONED (R190). -/
def State.endClsCheck (s : State) (k : ClsCheck) (outcome : Nat) : State :=
  State.event
    { s with
      cls.check := none, cls.bgSeq := (s.cls.bgSeq + 1) % 65536, cls.bgReady := true, cls.bgBank := k.bank,
      cls.bgOutcome := outcome, cls.bgCount := BitVec.ofNat 32 k.mismatches } 14

/-- CLS_CHART_CHECK_DONE (R190): once no mismatch waits for its second comparison. -/
def execClsChartCheckDone (s : State) : Out :=
  match s.cls.check with
  | some k => if k.waiting.isEmpty && !s.hove then .next (s.endClsCheck k (b2n k.full)) else .next s
  | none => .next s

/-- Warm reset and FLR of PF 0 (R185): banks UNCONFIGURED and registers at their Warm values; a running check ends with
outcome ABANDONED, which its result then shows (log entry 20). -/
def State.clsReset (s : State) : State :=
  match s.cls.check with
  | some k => State.endClsCheck { s with cls := {} } k 2
  | none => { s with cls := {} }

end Sys2Proof.Machine
end

