-- ==== Sys2Proof/Machine/FlowBase.lean ====
section
/-!
DEFINITION. Machine/FlowBase.lean: the flow table's data (chapter 06): hash, places, lookup, placement, relocation, and
the fields of an action record (Table 8-1).
-/

set_option Elab.async false
namespace Sys2Proof.Machine

open Sys2Proof

/-! ### Action records (Table 8-1) -/

/-- OP of an action record. -/
def actOp (a : Bytes) : Nat := byteAt a 0 % 16
/-- Service class. -/
def actSvc (a : Bytes) : Nat := bits (byteAt a 0) 6 4
/-- MIRROR. -/
def actMirror (a : Bytes) : Bool := bit (byteAt a 1) 0
/-- COPY_HELM. -/
def actCopy (a : Bytes) : Bool := bit (byteAt a 1) 1
/-- DEST. -/
def actDest (a : Bytes) : Nat := leAt a 2 2
/-- VLAN_OP. -/
def actVlan (a : Bytes) : Nat := byteAt a 4 % 8
/-- Template index. -/
def actEncap (a : Bytes) : Nat := leAt a 10 2 % 4096
/-- TUNNEL. -/
def actTunnel (a : Bytes) : Nat := bits (leAt a 10 2) 13 12
/-- Cipher context handle. -/
def actCtx (a : Bytes) : Nat := leAt a 12 4 % 2 ^ 20
/-- Cipher operation (Table 9-7). -/
def actCipher (a : Bytes) : Nat := bits (leAt a 12 4) 23 20

/-- DEST fits OP (Table 8-1). -/
def destFits (op dest : Nat) : Bool :=
  if op = 0 ∨ op = 5 then dest == 0
  else if op = 1 then decide (dest ≤ 4)
  else if op = 2 then decide (7 ≤ dest / 512) && decide (dest / 512 ≤ 12)
  else if op = 3 then decide (dest < 1024)
  else decide (dest < 256)

/-- A receive-side cipher operation (Table 9-7). -/
def cipherRx (code : Nat) : Bool := code == 2 || code == 4 || code == 6

/-- R193 and R229 on an action record; the offset within the record of the first field out of range. `ctxOp` gives the
operation of a context. -/
def actionBad (a : Bytes) (ctxOp : Nat → Option Nat) : Option Nat :=
  let op := actOp a
  let code := actCipher a
  if 5 < op then some 0
  else if !destFits op (actDest a) then some 2
  else if 5 < actVlan a then some 4
  else if actTunnel a = 3 ∨ (actTunnel a = 2 ∧ op ≠ 5) then some 10
  else if 6 < code ∨ (actCtx a ≠ 0 ∧ (code = 0 ∨ code = 2 ∨ code = 4)) ∨ (code ≠ 0 ∧ cipherRx code ≠ (op == 5)) ∨
      (code ≠ 0 ∧ code ≠ 2 ∧ code ≠ 4 ∧ ctxOp (actCtx a) ≠ some code) then some 12
  else none

/-- Operation of a context, if the handle is not FREE. -/
def State.ctxOp (s : State) (h : Nat) : Option Nat := (s.ciph.ctxs.find h).map (·.op)

/-! ### Hash, buckets and places (R143, R144) -/

/-- Buckets of a sub-table. -/
def flowBuckets : Nat := 81920
/-- Overflow entries. -/
def ovfSize : Nat := 16384
/-- Flow handles. -/
def flowHandles : Nat := 2 ^ 20

/-- One round of R144 with a multiplier and a shift. -/
def hashMix (h w mul sh : Nat) : Nat :=
  let x := ((h ^^^ w) * mul) % 2 ^ 64
  x ^^^ (x >>> sh)

/-- hash(seed, p, key) of R144. -/
def flowHash (seed p : Nat) (key : Bytes) : Nat :=
  hashMix ((List.range 5).foldl (fun h j => hashMix h (leAt key (8 * j) 8) 0x9E3779B97F4A7C15 29) seed) p
    0xBF58476D1CE4E5B9 32

/-- bucket(seed, p, key). -/
def flowBucket (seed : W64) (p : Nat) (key : Bytes) : Nat := (flowHash seed.toNat p key % 2 ^ 32 * flowBuckets) >>> 32

/-- fingerprint(p, key). -/
def flowFp (p : Nat) (key : Bytes) : Nat := flowHash 0 p key >>> 36

/-- Where an entry lies: a slot of a bucket, or the overflow memory. -/
inductive FlowPlace where
  | slot (t b i : Nat)
  | ovf (k : Nat)
  deriving DecidableEq, Repr

/-- Key of a slot in the model's slot table. -/
def slotKey (t b i : Nat) : Nat := (t * flowBuckets + b) * 8 + i

/-- The place of a key of the slot table. -/
def slotPlace (k : Nat) : FlowPlace := .slot (k / 8 / flowBuckets) (k / 8 % flowBuckets) (k % 8)

/-- The two candidate buckets under a pair of seeds. -/
def flowCands (a b : W64) (p : Nat) (key : Bytes) : List (Nat × Nat) := [(0, flowBucket a p key), (1, flowBucket b p key)]

/-- The seeds inserts, displacements and relocations use: the NEW seeds while a swing runs (R152, R487). -/
def Flow.seeds (f : Flow) : W64 × W64 :=
  match f.swing with
  | some w => (w.seedA, w.seedB)
  | none => (f.seedA, f.seedB)

/-- Candidate buckets of a key under the seeds in use. -/
def Flow.cands (f : Flow) (p : Nat) (key : Bytes) : List (Nat × Nat) := flowCands f.seeds.1 f.seeds.2 p key

/-- The buckets a lookup probes, in order (R150). -/
def Flow.probes (f : Flow) (p : Nat) (key : Bytes) : List (Nat × Nat) :=
  let old := flowCands f.seedA f.seedB p key
  match f.swing with
  | some w => old ++ (flowCands w.seedA w.seedB p key).filter (fun c => !old.contains c)
  | none => old

/-- The entry in slot `i` of a bucket. -/
def Flow.at_ (f : Flow) (c : Nat × Nat) (i : Nat) : Option FlowEntry := f.slots.find (slotKey c.1 c.2 i)

/-- Free slots of a bucket, lowest first. -/
def Flow.freeSlots (f : Flow) (c : Nat × Nat) : List Nat := (List.range 8).filter (fun i => (f.at_ c i).isNone)

/-- The entry at a place. -/
def Flow.entry (f : Flow) : FlowPlace → Option FlowEntry
  | .slot t b i => f.slots.find (slotKey t b i)
  | .ovf k => f.ovf.find k

/-- An entry written at a place, and its fingerprint in the tag line (R152). -/
def Flow.putAt (f : Flow) (p : FlowPlace) (e : FlowEntry) : Flow :=
  match p with
  | .slot t b i => { f with slots := f.slots.put (slotKey t b i) e, fps := f.fps.drop1 (slotKey t b i) }
  | .ovf k => { f with ovf := f.ovf.put k e }

/-- A place cleared. -/
def Flow.clearAt (f : Flow) (p : FlowPlace) : Flow :=
  match p with
  | .slot t b i => { f with slots := f.slots.drop1 (slotKey t b i), fps := f.fps.drop1 (slotKey t b i) }
  | .ovf k => { f with ovf := f.ovf.drop1 k }

/-- The fingerprint that the tag line of an entry's slot would hold. -/
def ownFp (e : Option FlowEntry) : Nat := (e.map (fun e => flowFp e.profile e.key)).getD 0

/-- The fingerprint that stands in the tag line for a slot (Table 6-3). -/
def Flow.fpOf (f : Flow) (c : Nat × Nat) (i : Nat) : Nat := (f.fps.find (slotKey c.1 c.2 i)).getD (ownFp (f.at_ c i))

/-- The fingerprint of a slot written. -/
def Flow.setFp (f : Flow) (c : Nat × Nat) (i n : Nat) : Flow :=
  { f with fps := if n = ownFp (f.at_ c i) then f.fps.drop1 (slotKey c.1 c.2 i) else f.fps.put (slotKey c.1 c.2 i) n }

/-- PROFILE and KEY are equal (Table 6-4). -/
def FlowEntry.same (e : FlowEntry) (p : Nat) (key : Bytes) : Bool := e.profile == p && e.key == key

/-- Where (p, key) stands: the first match in the order of R150. -/
def Flow.findKey (f : Flow) (p : Nat) (key : Bytes) : Option FlowPlace :=
  let hits := (f.probes p key).flatMap (fun c => (List.range 8).filterMap (fun i =>
    match f.at_ c i with
    | some e => if f.fpOf c i == flowFp p key && e.same p key then some (FlowPlace.slot c.1 c.2 i) else none
    | none => none))
  match hits with
  | h :: _ => some h
  | [] => (f.ovf.find? (fun o => o.2.same p key)).map (fun o => .ovf o.1)

/-- Where the entry of a handle stands. -/
def Flow.findHandle (f : Flow) (h : Nat) : Option FlowPlace :=
  match f.slots.find? (fun o => o.2.handle == h) with
  | some o => some (slotPlace o.1)
  | none => (f.ovf.find? (fun o => o.2.handle == h)).map (fun o => .ovf o.1)

/-- The entry of a handle. -/
def Flow.entryOf (f : Flow) (h : Nat) : Option FlowEntry := (f.findHandle h).bind f.entry

/-- Every entry with its place: slots in ascending order, then overflow. -/
def Flow.all (f : Flow) : List (FlowPlace × FlowEntry) :=
  f.slots.map (fun o => (slotPlace o.1, o.2)) ++ f.ovf.map (fun o => (.ovf o.1, o.2))

/-- Entries under a profile (FLOW_PROF_W3.USE). -/
def Flow.uses (f : Flow) (p : Nat) : Nat := (f.all.filter (fun o => o.2.profile == p)).length

/-- The 64 octets of an entry (Table 6-4). -/
def FlowEntry.image (e : FlowEntry) : Bytes :=
  slice e.key 0 40 ++ leBytes 3 (e.handle + e.profile * 2 ^ 20) ++ [BitVec.ofNat 8 e.flags] ++
    leBytes 4 (e.meter + e.owner * 2 ^ 19) ++ slice e.action 0 16

/-- The 32 octets of a state record (Table 6-5). -/
def FlowRec.image (r : FlowRec) : Bytes :=
  leBytes 6 r.packets ++ [BitVec.ofNat 8 r.flags, 0] ++ leBytes 6 r.octets ++ [0, 0] ++ leBytes 4 r.lastMs.toNat ++
    slice r.owner 0 12

/-- WHERE, SLOT and BUCKET of a place (R168, Table 6-10). -/
def FlowPlace.where_ : FlowPlace → Nat × Nat × Nat
  | .slot t b i => (t, i, b)
  | .ovf k => (2, 0xFF, k)

/-! ### Displacement (R152, R487) -/

/-- The other candidate of an entry that lies in one of its candidates under the seeds in use; none for an entry in an
old position. -/
def Flow.otherCand (f : Flow) (c : Nat × Nat) (e : FlowEntry) : Option (Nat × Nat) :=
  let cs := f.cands e.profile e.key
  if cs.contains c then cs.find? (· != c) else none

/-- One level of the breadth-first search: a bucket reached with the slots displaced on the way, first displaced first. -/
abbrev FlowPath := (Nat × Nat) × List Nat

/-- The buckets that one more displacement reaches from a bucket, in slot order. -/
def Flow.reach (f : Flow) (p : FlowPath) : List FlowPath :=
  (List.range 8).filterMap (fun i =>
    match f.at_ p.1 i with
    | some e => (f.otherCand p.1 e).map (fun c => (c, p.2 ++ [slotKey p.1.1 p.1.2 i]))
    | none => none)

/-- The frontier without buckets that were reached before. -/
def newPaths : List FlowPath → List (Nat × Nat) → List FlowPath × List (Nat × Nat)
  | [], seen => ([], seen)
  | p :: ps, seen =>
    if seen.contains p.1 then newPaths ps seen
    else
      let r := newPaths ps (p.1 :: seen)
      (p :: r.1, r.2)

/-- The first placement with the fewest displacements, at most `n` of them (R487): the bucket with a free slot at the
end, and the slots displaced. A bucket reached before gives no placement that is shorter or earlier. -/
def Flow.search (f : Flow) : Nat → List FlowPath → List (Nat × Nat) → Option FlowPath
  | 0, _, _ => none
  | n + 1, frontier, seen =>
    let next := frontier.flatMap f.reach
    match next.find? (fun p => !(f.freeSlots p.1).isEmpty) with
    | some p => some p
    | none =>
      let r := newPaths next seen
      if r.1.isEmpty then none else Flow.search f n r.1 r.2

/-- The displacements of a path are made, last entry first, each copied before its old slot is cleared; the first slot
of the path ends free. -/
def Flow.displace (f : Flow) (dest : Nat × Nat) : List Nat → Flow
  | [] => f
  | [k] =>
    match f.slots.find k, f.freeSlots dest with
    | some e, i :: _ => (f.putAt (.slot dest.1 dest.2 i) e).clearAt (slotPlace k)
    | _, _ => f
  | k :: k2 :: ks =>
    let f' := Flow.displace f dest (k2 :: ks)
    match f'.slots.find k with
    | some e => (f'.putAt (slotPlace k2) e).clearAt (slotPlace k)
    | none => f'

/-- A slot for (p, key) in one of its candidates, after at most `limit` displacements: the table with the slot free, the
slot, and the displacements made. -/
def Flow.makeSlot (f : Flow) (limit p : Nat) (key : Bytes) : Option (Flow × FlowPlace × Nat) :=
  match f.cands p key with
  | [c0, c1] =>
    let f0 := f.freeSlots c0
    let f1 := f.freeSlots c1
    match (if f0.length < f1.length then (c1, f1) else (c0, f0)) with
    | (c, i :: _) => some (f, .slot c.1 c.2 i, 0)
    | (_, []) =>
      match f.search limit [(c0, []), (c1, [])] [c0, c1] with
      | some (dest, path) =>
        let g := f.displace dest path
        (path.head?).map (fun k => ({ g with cnt := g.cnt.add 6 path.length }, slotPlace k, path.length))
      | none => none
  | _ => none

/-- A place for (p, key): a slot, else the lowest free overflow entry (R152). -/
def Flow.makePlace (f : Flow) (limit p : Nat) (key : Bytes) : Option (Flow × FlowPlace × Nat) :=
  match f.makeSlot limit p key with
  | some r => some r
  | none => (f.ovf.firstFree 0 ovfSize).map (fun k => (f, .ovf k, 0))

/-- The lowest overflow entry with a bucket among its candidates moves into the bucket's lowest free slot (R152). -/
def Flow.backfill (f : Flow) (c : Nat × Nat) : Flow :=
  match f.freeSlots c, f.ovf.find? (fun o => (f.cands o.2.profile o.2.key).contains c) with
  | i :: _, some (k, e) => (f.putAt (.slot c.1 c.2 i) e).clearAt (.ovf k)
  | _, _ => f

/-- Helm takes back an overflow entry where a slot stands free in one of its candidates (R152). -/
def Flow.takeBack (f : Flow) (o : Nat × FlowEntry) : Flow :=
  match (f.cands o.2.profile o.2.key).find? (fun c => !(f.freeSlots c).isEmpty) with
  | some c => (f.putAt (.slot c.1 c.2 ((f.freeSlots c).headD 0)) o.2).clearAt (.ovf o.1)
  | none => f

/-- Every overflow entry that has a free slot among its candidates moves back, lowest first (R152). -/
def Flow.takeAllBack (f : Flow) : Flow := f.ovf.foldl Flow.takeBack f

/-- A place cleared that a move has left: a slot that frees takes an overflow entry back (R152). -/
def Flow.vacate (f : Flow) (at_ : FlowPlace) : Flow :=
  match at_ with
  | .slot t b _ => (f.clearAt at_).backfill (t, b)
  | .ovf _ => f.clearAt at_

/-- relocate(e) of R156 for the entry at a place. -/
def Flow.relocate (f : Flow) (limit : Nat) (at_ : FlowPlace) : Option Flow :=
  match f.entry at_ with
  | none => none
  | some e =>
    match f.makeSlot limit e.profile e.key with
    | some (g, dst, _) => some ((g.putAt dst e).vacate at_)
    | none =>
      match at_ with
      | .ovf _ => none
      | .slot .. => (f.ovf.firstFree 0 ovfSize).map (fun k => (f.putAt (.ovf k) e).vacate at_)

/-- The entry at a place lies outside its candidates under the seeds in use. -/
def Flow.misplaced (f : Flow) (o : FlowPlace × FlowEntry) : Bool :=
  match o.1 with
  | .slot t b _ => !(f.cands o.2.profile o.2.key).contains (t, b)
  | .ovf _ => false

/-! ### Quotas and readiness -/

/-- The instance whose quota holds a flow handle (R155). -/
def State.flowOwner (s : State) (h : Nat) : Option Nat :=
  (s.insts.find? (fun p => p.2.state != .absent && decide (p.2.flowBase ≤ h) && decide (h < p.2.flowBase + p.2.flowCount))).map (·.1)

/-- FLOW_STATUS.READY (R164). -/
def State.flowReady (s : State) : Bool := s.inRun 6 && s.helmRuns && !s.flow.scanDue

/-- FLOW_STATUS.JOB. -/
def Flow.jobCode (f : Flow) : Nat :=
  if f.scanDue then 4
  else if f.swing.isSome then 1
  else match f.job with
    | .none => 0
    | .check _ => 2
    | .reload .. => 3

/-- A flow handle cleared in the handle map, with its record. -/
def Flow.freeHandle (f : Flow) (h : Nat) : Flow := { f with handles := f.handles.drop1 h, recs := f.recs.drop1 h }

/-- The entry at a place deleted, with its handle; a slot that frees takes an overflow entry back while Helm runs. -/
def State.flowDeleteAt (s : State) (pl : FlowPlace) : State :=
  match s.flow.entry pl with
  | none => s
  | some e =>
    let f := (s.flow.clearAt pl).freeHandle e.handle
    let f := match pl with
      | .slot t b _ => if s.helmRuns then f.backfill (t, b) else f
      | .ovf _ => f
    { s with flow := f }

/-- Every entry and handle of a quota deleted (R155). -/
def State.flowDeleteQuota (s : State) (base count : Nat) : State :=
  let hs := (s.flow.handles.map (·.1)).filter (fun h => decide (base ≤ h) && decide (h < base + count))
  hs.foldl (fun s h =>
    match s.flow.findHandle h with
    | some pl => s.flowDeleteAt pl
    | none => { s with flow := s.flow.freeHandle h }) s

/-- An entry is placed under R152: the handle marked, its record zeroed, the entry written; none when there is no room. -/
def Flow.insert (f : Flow) (e : FlowEntry) : Option (Flow × FlowPlace × Nat) :=
  (f.makePlace f.displaceMax e.profile e.key).map (fun r =>
    let g := { r.1 with handles := r.1.handles.put e.handle false, recs := r.1.recs.put e.handle {} }
    (g.putAt r.2.1 e, r.2.1, r.2.2))

/-! ### Reads of the QDR (R406, Table 17-1) -/

/-- A QDR bank's word as the model's error list numbers it. -/
def qdrAddr (bank off : Nat) : Nat := bank * 2 ^ 32 + off / 32 * 32

/-- Bits in error in a 32-byte word of a QDR bank; a corrected error is counted, an uncorrectable one logged. -/
def State.qdrRead (s : State) (bank off : Nat) : Bool × State :=
  let a := qdrAddr bank off
  match s.mem.errors.find? (fun e => e.1 == 0 && qdrAddr (e.2.1 / 2 ^ 32) (e.2.1 % 2 ^ 32) == a) with
  | none => (true, s)
  | some (_, _, n) =>
    if invBits n = 1 then (true, { s with mem.cnt := s.mem.cnt.inc 0 })
    else (false, s.logUe 0 bank off 1 false)

/-- A word written anew holds no error. -/
def State.qdrWrite (s : State) (bank off : Nat) : State :=
  if s.mem.errors.isEmpty then s
  else { s with mem.errors := s.mem.errors.filter (fun e =>
    !(e.1 == 0 && qdrAddr (e.2.1 / 2 ^ 32) (e.2.1 % 2 ^ 32) == qdrAddr bank off)) }

/-- Bank of a bucket, and the offsets of its tag line and of a slot (R143, Table 6-1). -/
def bucketBank (c : Nat × Nat) : Nat := c.1 * 4 + c.2 % 4
def tagOff (c : Nat × Nat) : Nat := c.2 / 4 * 32
def slotOff (c : Nat × Nat) (i : Nat) : Nat := 0xA0000 + c.2 / 4 * 512 + i * 64

/-! ### Lookup (R149, R150) -/

/-- The slots of one bucket whose fingerprints match, read in order: the slot that holds (p, key), if one does. -/
def State.lookupSlots (p : Nat) (key : Bytes) (c : Nat × Nat) : List Nat → State → Option Nat × State
  | [], s => (none, s)
  | i :: is, s =>
    match s.flow.at_ c i with
    | none => State.lookupSlots p key c is s
    | some e =>
      if s.flow.fpOf c i ≠ flowFp p key then State.lookupSlots p key c is s
      else
        let (ok1, s) := s.qdrRead (bucketBank c) (slotOff c i)
        let (ok2, s) := s.qdrRead (bucketBank c) (slotOff c i + 32)
        if ok1 && ok2 && e.same p key then (some i, s)
        else State.lookupSlots p key c is { s with flow.cnt := s.flow.cnt.inc 2 }

/-- The tag lines of the probed buckets, read together (R150): a line that cannot be read is taken as VALID 0 (Table 17-1). -/
def State.readTags : List (Nat × Nat) → State → List (Nat × Nat) × State
  | [], s => ([], s)
  | c :: cs, s =>
    let (ok, s) := s.qdrRead (bucketBank c) (tagOff c)
    let r := State.readTags cs s
    (if ok then c :: r.1 else r.1, r.2)

/-- The probed buckets whose tag lines were read, in order. -/
def State.lookupTagged (p : Nat) (key : Bytes) : List (Nat × Nat) → State → Option FlowPlace × State
  | [], s => (none, s)
  | c :: cs, s =>
    match State.lookupSlots p key c (List.range 8) s with
    | (some i, s) => (some (.slot c.1 c.2 i), s)
    | (none, s) => State.lookupTagged p key cs s

/-- The probed buckets: every tag line first, then the slots in order. -/
def State.lookupBuckets (p : Nat) (key : Bytes) (cs : List (Nat × Nat)) (s : State) : Option FlowPlace × State :=
  let r := State.readTags cs s
  State.lookupTagged p key r.1 r.2

/-- What a match does to its state record (R149); a record that cannot be read is first rewritten as zero with
STATE_LOST (Table 17-1). -/
def State.flowMatch (s : State) (h len : Nat) (fin rst : Bool) : State :=
  let off := 0xAA0000 + h / 8 * 32
  let (ok, s) := s.qdrRead (h % 8) off
  let r : FlowRec := if ok then s.flow.recs.getD h {} else { flags := 16 }
  let s := if ok then s else s.qdrWrite (h % 8) off
  let r' : FlowRec := { r with
    packets := (r.packets + 1) % 2 ^ 48, octets := (r.octets + len) % 2 ^ 48,
    flags := r.flags ||| (1 + b2n fin * 2 + b2n rst * 4), lastMs := s.flow.ms }
  { s with flow.recs := s.flow.recs.put h r' }

/-- lookup(p, key) of R150, with its counters; the match's record is written by `State.flowMatch`. -/
def State.flowLookup (s : State) (p : Nat) (key : Bytes) : Option FlowEntry × State :=
  match State.lookupBuckets p key (s.flow.probes p key) s with
  | (some pl, s) => (s.flow.entry pl, { s with flow.cnt := s.flow.cnt.inc 0 })
  | (none, s) =>
    match s.flow.ovf.find? (fun o => o.2.same p key) with
    | some o => (some o.2, { s with flow.cnt := (s.flow.cnt.inc 0).inc 3 })
    | none => (none, { s with flow.cnt := s.flow.cnt.inc 1 })

end Sys2Proof.Machine
end

