-- ==== Sys2Proof/Machine/FlowTable.lean ====
section
/-!
DEFINITION. Machine/FlowTable.lean: the flow commands, the background jobs, aging and profiles (chapter 06).
-/

set_option Elab.async false
namespace Sys2Proof.Machine

open Sys2Proof

/-! ### Checks of an entry image (R490) -/

/-- A committed profile. -/
def State.prof (s : State) (p : Nat) : Profile := s.flow.profs.getD p {}

/-- A handle lies in an instance's flow quota. -/
def State.inFlowQuota (s : State) (i h : Nat) : Bool :=
  decide ((s.inst i).flowBase ≤ h) && decide (h < (s.inst i).flowBase + (s.inst i).flowCount)

/-- FLOW_INSERT or FLOW_WRITE by its entry image: what it says, with the INSTANCE key field of a tenant overwritten
(R155). -/
def imageFields (s : State) (b : Bytes) (tenant : Option Nat) : FlowEntry :=
  let p := byteAt b 42 / 16
  let key := slice b 0 40
  let key := match tenant, fieldOffset (s.prof p).fields 2 with
    | some i, some o => overlay key o (beBytes 2 i)
    | _, _ => key
  { key := key, profile := p, handle := 0, flags := byteAt b 43 % 4 + 0x80 + byteAt b 43 / 4 % 2 * 4,
    meter := leAt b 44 4 % 2 ^ 19, owner := 0, action := slice b 48 16 }

/-- R155 and R198 for an entry that is, or is to be, a tenant's: none when it keeps them. -/
def State.tenantBreaks (s : State) (i : Nat) (e : FlowEntry) : Bool :=
  let a := e.action
  let pr := s.prof e.profile
  !pr.tenantOk || (fieldOffset pr.fields 2).isNone || bit e.flags 1 || decide (2 < actOp a) || actMirror a || actCopy a ||
    actTunnel a != 0 ||
    (actCipher a != 0 && (match s.ciph.ctxs.find (actCtx a) with | some x => x.owner != i | none => false))

/-- Step 1 of R490 for an image: NVMET is NVMET_CONNECT's, and the tenant rules where the entry is a tenant's. -/
def State.flowPermit (s : State) (h : Nat) (owner : Option Nat) (e : FlowEntry) : Option Reply :=
  if bit e.flags 2 then some (Reply.denied s 0)
  else
    match owner with
    | none => none
    | some i =>
      if s.tenantBreaks i e then some (Reply.denied s 0)
      else if actOp e.action = 2 ∧ actDest e.action % 512 ≠ i then
        some (Reply.no (s.violInst i 8 0xFF (actDest e.action % 512) h) 0xA 8)
      else none

/-- Step 3 of R490 for a key: the profile is in use and the octets past its length are zero. -/
def State.keyBad (s : State) (b : Bytes) : Option Nat :=
  let p := byteAt b 42 / 16
  let len := keyLength (s.prof p).fields
  if len = 0 then some 42 else ((List.range 40).find? (fun k => decide (len ≤ k) && byteAt b k != 0))

/-- Step 3 of R490 for an image. -/
def State.imageBad (s : State) (b : Bytes) : Option Nat :=
  match s.keyBad b with
  | some o => some o
  | none =>
    if !bit (byteAt b 43) 7 then some 43
    else (actionBad (slice b 48 16) s.ctxOp).map (· + 48)

/-- A tenant's command on a handle outside its quota (step 1 of R490). -/
def State.flowQuotaOk (s : State) (c : Cmd) (h : Nat) : Bool :=
  match cmdTenant c with
  | some i => s.inFlowQuota i h
  | none => true

/-- The location a reply carries (R168): WHERE, SLOT, two octets of zero, BUCKET. -/
def placeReply (pl : FlowPlace) : Bytes :=
  let w := pl.where_
  [BitVec.ofNat 8 w.1, BitVec.ofNat 8 w.2.1, 0, 0] ++ leBytes 4 w.2.2

/-! ### FLOW_INSERT, FLOW_WRITE, FLOW_DELETE, FLOW_QUERY -/

/-- FLOW_INSERT's effect (R152, R490). -/
def flowInsertBody (c : Cmd) (b : Bytes) (s : State) : Reply :=
  let h := c.handle
  let t := cmdTenant c
  let e := imageFields s b t
  if !s.flowQuotaOk c h then Reply.denied s 2
  else if t.isNone && (s.flowOwner h).isSome then Reply.denied s 2
  else
    match s.flowPermit h t e with
    | some r => r
    | none =>
      if !s.flowReady then Reply.no s 9 0
      else if flowHandles ≤ h then Reply.bad s 8
      else
        match s.imageBad b with
        | some o => Reply.badBuf s o
        | none =>
          if s.flow.handles.find h = some false then Reply.no s 7 2
          else
            match s.flow.findKey e.profile e.key with
            | some pl => { Reply.no s 7 1 with data := leBytes 4 ((s.flow.entry pl).map (·.handle) |>.getD 0) }
            | none =>
              let e := { e with handle := h, flags := e.flags + b2n t.isSome * 8, owner := t.getD 0 }
              match s.flow.insert e with
              | some (f, pl, n) => Reply.ok { s with flow := f } (placeReply pl ++ leBytes 4 n)
              | none => Reply.no { s with flow.cnt := s.flow.cnt.inc 7 } 5 0

/-- FLOW_INSERT (R152, R168). -/
def execFlowInsert (c : Cmd) (s : State) : Out :=
  .next (s.runCmd { code := 0x0401, tenant := true, inst := .either, lens := [64] } c (fun b s => flowInsertBody c b s))

/-- FLOW_WRITE's effect (R153, R490). -/
def flowWriteBody (c : Cmd) (b : Bytes) (s : State) : Reply :=
  let h := c.handle
  let old := s.flow.entryOf h
  let owner := match cmdTenant c with
    | some i => some i
    | none => old.bind (fun e => if bit e.flags 3 then some e.owner else none)
  let e := imageFields s b (cmdTenant c)
  if !s.flowQuotaOk c h then Reply.denied s 2
  else if (old.map (fun e => bit e.flags 2)).getD false then Reply.denied s 0
  else
    match s.flowPermit h owner e with
    | some r => r
    | none =>
      if !s.flowReady then Reply.no s 9 0
      else if flowHandles ≤ h then Reply.bad s 8
      else
        match s.imageBad b with
        | some o => Reply.badBuf s o
        | none =>
          if s.flow.handles.find h = some true then Reply.no s 0xC 0
          else
            match s.flow.findHandle h with
            | none => Reply.no s 8 0
            | some pl =>
              match s.flow.entry pl with
              | none => Reply.no s 8 0
              | some x =>
                if x.profile ≠ e.profile then Reply.badBuf s 42
                else if x.key ≠ e.key then
                  Reply.badBuf s (((List.range 40).find? (fun k => byteAt x.key k != byteAt e.key k)).getD 0)
                else
                  let f := s.flow.putAt pl { x with
                    flags := e.flags + b2n (bit x.flags 3) * 8, meter := e.meter, action := e.action }
                  let f := if bit c.flags.toNat 0 then { f with recs := f.recs.put h {} } else f
                  Reply.ok { s with flow := f } (placeReply pl ++ leBytes 4 0)

/-- FLOW_WRITE (R153, R168). -/
def execFlowWrite (c : Cmd) (s : State) : Out :=
  .next (s.runCmd { code := 0x0402, tenant := true, inst := .either, lens := [64] } c (fun b s => flowWriteBody c b s))

/-- FLOW_DELETE's effect (R153, R165, R490). -/
def flowDeleteBody (c : Cmd) (s : State) : Reply :=
  let h := c.handle
  if !s.flowQuotaOk c h then Reply.denied s 2
  else if ((s.flow.entryOf h).map (fun e => bit e.flags 2)).getD false then Reply.denied s 0
  else if !s.flowReady then Reply.no s 9 0
  else if !s.flow.handles.has h then Reply.no s 8 0
  else
    let r := s.flow.recs.getD h {}
    let t := match s.flow.findHandle h with
      | some pl => s.flowDeleteAt pl
      | none => { s with flow := s.flow.freeHandle h }
    Reply.ok t (leBytes 6 r.packets ++ leBytes 6 r.octets)

/-- FLOW_DELETE (R153, R168). -/
def execFlowDelete (c : Cmd) (s : State) : Out :=
  .next (s.runCmd { code := 0x0403, tenant := true, inst := .either } c (fun _ s => flowDeleteBody c s))

/-- The 96 octets FLOW_QUERY returns: the entry, then its state record. -/
def Flow.queryImage (f : Flow) (e : FlowEntry) : Bytes := e.image ++ (f.recs.getD e.handle {}).image

/-- FLOW_QUERY's effect (R168, R490). -/
def flowQueryBody (c : Cmd) (b : Bytes) (s : State) : Reply :=
  let found (pl : FlowPlace) (data : Bytes) : Reply :=
    match s.flow.entry pl with
    | some e => { st := s, data := data, buf := s.flow.queryImage e }
    | none => Reply.no s 8 0
  if bit c.flags.toNat 0 then
    if !s.flowReady then Reply.no s 9 0
    else
      match s.keyBad b with
      | some o => Reply.badBuf s o
      | none =>
        let e := imageFields s b (cmdTenant c)
        match s.flow.findKey e.profile e.key with
        | none => Reply.no s 8 0
        | some pl =>
          if s.flowQuotaOk c ((s.flow.entry pl).map (·.handle) |>.getD 0) then found pl (placeReply pl)
          else Reply.denied s 2
  else if !s.flowQuotaOk c c.handle then Reply.denied s 2
  else if !s.flowReady then Reply.no s 9 0
  else if flowHandles ≤ c.handle then Reply.bad s 8
  else if s.flow.handles.find c.handle = some true then Reply.no s 0xC 0
  else
    match s.flow.findHandle c.handle with
    | none => Reply.no s 8 0
    | some pl => found pl []

/-- FLOW_QUERY (R168). -/
def execFlowQuery (c : Cmd) (s : State) : Out :=
  .next (s.runCmd { code := 0x0404, tenant := true, inst := .either, lens := [96], reads := bit c.flags.toNat 0, writes := true } c
    (fun b s => flowQueryBody c b s))

/-! ### The swing (R156 to R158) -/

/-- The first of a value and its successors that none of `no` equals. -/
def pickSeed (w : W64) (no : List W64) : W64 := (((List.range 6).map (fun k => w + BitVec.ofNat 64 k)).find? (fun x => !no.contains x)).getD 1

/-- Two fresh seeds from Binnacle's random source: nonzero, different from each other and from `no` (R144, R169). -/
def State.freshSeeds (s : State) (no : List W64) : W64 × W64 × State :=
  let (x, s) := s.draw
  let (y, s) := s.draw
  let a := pickSeed x (0 :: no)
  (a, pickSeed y (0 :: a :: no), s)

/-- A seed of FLOW_SWING is out of range (R169). -/
def seedBad (x y : W64) (f : Flow) : Bool := x == 0 || x == y || x == f.seedA || x == f.seedB

/-- FLOW_SWING's effect (R156, R166, R169). -/
def flowSwingBody (c : Cmd) (s : State) : Reply :=
  let a := BitVec.ofNat 64 (leAt c.data 0 8)
  let b := BitVec.ofNat 64 (leAt c.data 8 8)
  let budget := leAt c.data 16 2
  let moves := leAt c.data 18 2
  let drawn := a == 0 && b == 0
  if c.handle ≠ 0 then Reply.bad s 8
  else if !drawn && seedBad a b s.flow then Reply.bad s 24
  else if !drawn && seedBad b a s.flow then Reply.bad s 32
  else if budget ≠ 0 ∧ (budget < 50 ∨ 1000 < budget) then Reply.bad s 40
  else if 256 < moves then Reply.bad s 42
  else if !s.flowReady || s.flow.jobCode != 0 then Reply.no s 9 0
  else
    let (a', b', s) := if drawn then s.freshSeeds [s.flow.seedA, s.flow.seedB] else (a, b, s)
    let w : Swing :=
      { seedA := a'
        seedB := b'
        budget := if budget = 0 then 200 else budget
        maxMoves := if moves = 0 then 64 else moves
        cursor := 0
        stalled := false
        everStalled := false
        moves := 0 }
    Reply.ok { s with flow.swing := some w, flow.bgReady := false, flow.progress := 0 }

/-- FLOW_SWING (R156). -/
def execFlowSwing (c : Cmd) (s : State) : Out :=
  .next (s.runCmd { code := 0x0405 } c (fun _ s => flowSwingBody c s))

/-- One relocation of the swing walker, counted when it moves the entry. -/
def walkOne (w : Swing) (f : Flow × Nat) (at_ : FlowPlace) : Flow × Nat :=
  match f.1.relocate w.maxMoves at_ with
  | some g => (g, f.2 + 1)
  | none => f

/-- A pass of the walker: every entry outside its new candidates in table order, then every overflow entry. -/
def Flow.walk (f : Flow) (w : Swing) : Flow × Nat :=
  let out := (f.all.filter f.misplaced).map (·.1)
  let r := out.foldl (walkOne w) (f, 0)
  (r.1.ovf.map (fun o => FlowPlace.ovf o.1)).foldl (walkOne w) r

/-- Entries outside their positions under the seeds in use. -/
def Flow.stuck (f : Flow) : Nat := (f.all.filter f.misplaced).length

/-- A background job ends (R166): its result, with READY unless another job runs now, and the flow event. -/
def State.flowJobEnd (s : State) (job outcome a b : Nat) : State :=
  State.event { s with
    flow.bgSeq := (s.flow.bgSeq + 1) % 65536, flow.bgReady := s.flow.jobCode == 0, flow.bgJob := job, flow.bgOutcome := outcome,
    flow.bgA := BitVec.ofNat 32 a, flow.bgB := BitVec.ofNat 32 b } 14

/-- The table after as many passes as move something, at most `fuel` of them: a stuck entry is retried as slots free. -/
def Flow.settle (w : Swing) : Nat → Flow × Nat → Flow × Nat
  | 0, r => r
  | k + 1, r =>
    if r.1.stuck = 0 then r
    else
      let q := r.1.walk w
      if q.1.stuck < r.1.stuck then Flow.settle w k (q.1, r.2 + q.2) else (q.1, r.2 + q.2)

/-- The swing's work so far: one walk, then passes over the stuck entries while a pass moves one (R156). -/
def Flow.swingWork (f : Flow) (w : Swing) : Flow × Nat :=
  let r := f.walk w
  Flow.settle w r.1.stuck r

/-- FLOW_SWING_STALL (R156): the walk and its passes leave entries stuck; STALLED is set and the flow event raised once. -/
def execFlowSwingStall (s : State) : Out :=
  match s.flow.swing with
  | none => .next s
  | some w =>
    if w.stalled || !s.flowReady || s.hove then .next s
    else
      let r := s.flow.swingWork w
      let f := { r.1 with
        progress := 2 * flowBuckets,
        swing := some { w with
          cursor := 2 * flowBuckets, moves := w.moves + r.2, stalled := decide (r.1.stuck ≠ 0),
          everStalled := w.everStalled || decide (r.1.stuck ≠ 0) } }
      let t := { s with flow := f }
      .next (if r.1.stuck ≠ 0 then t.event 14 else t)

/-- FLOW_SWING_COMPLETE (R156, R158): nothing remains outside the new positions, so the new seeds become current. -/
def execFlowSwingComplete (s : State) : Out :=
  match s.flow.swing with
  | none => .next s
  | some w =>
    if !s.flowReady || s.hove then .next s
    else
      let r := s.flow.swingWork w
      if r.1.stuck ≠ 0 then
        .next { s with flow := { r.1 with
          progress := 2 * flowBuckets, swing := some { w with cursor := 2 * flowBuckets, moves := w.moves + r.2 } } }
      else
        let f := { r.1 with seedA := w.seedA, seedB := w.seedB, swing := none, progress := 2 * flowBuckets }
        .next (State.flowJobEnd { s with flow := f } 1 (b2n w.everStalled) (w.moves + r.2) 0)

/-! ### Chart check (R162, R163) -/

/-- The result of comparing a handle's place and entry with its chart line: kind, offset and the place met. -/
def Flow.compare (f : Flow) (tags : Bool) (h : Nat) (line : Bytes) : Option (Nat × Nat × Option FlowPlace) :=
  match f.all.filter (fun o => o.2.handle == h) with
  | [] => if line.all (· == 0) then none else some (2, 0xFFFF, none)
  | [o] =>
    match lineMismatch o.2.image line with
    | some (kind, off) => some (kind, off, some o.1)
    | none =>
      let probed := match o.1 with
        | .slot t b i => (f.probes o.2.profile o.2.key).contains (t, b) && f.fpOf (t, b) i == flowFp o.2.profile o.2.key
        | .ovf _ => true
      if tags && !probed then some (4, 0xFFFF, some o.1) else none
  | o :: _ => some (5, 0xFFFF, some o.1)

/-- A record of a confirmed mismatch (Table 6-10). -/
def flowCheckRecord (h kind off : Nat) (pl : Option FlowPlace) (seq : Nat) : Bytes :=
  let w := (pl.map FlowPlace.where_).getD (0xFF, 0xFF, 0)
  leBytes 4 (h + kind * 2 ^ 24) ++ leBytes 2 off ++ [BitVec.ofNat 8 w.1, BitVec.ofNat 8 w.2.1] ++ leBytes 4 w.2.2 ++ leBytes 4 seq

/-- The handles a check of a range compares: those the table or the chart lists, outside every quota. -/
def State.checkHandles (s : State) (first count : Nat) (chart : List (Nat × HostRead)) : List Nat :=
  let hs := (s.flow.all.map (fun o => o.2.handle)).foldl addNew ((chart.map (·.1)).foldl addNew [])
  hs.filter (fun h => decide (first ≤ h) && decide (h < first + count) && (s.flowOwner h).isNone)

/-- The range of handles that FLOW_CHART_CHECK and FLOW_RELOAD_BANK name, checked. -/
def rangeBad (b : Bytes) : Option Nat :=
  if flowHandles < leAt b 20 4 then some 20
  else if flowHandles < leAt b 20 4 + leAt b 24 4 then some 24
  else none

/-- FLOW_CHART_CHECK's effect: the job begins, and every comparison is made once (R163, R169). -/
def flowChartCheckBody (c : Cmd) (chart : List (Nat × HostRead)) (b : Bytes) (s : State) : Reply :=
  let n := leAt b 16 4
  let budget := byteAt b 29
  if c.handle ≠ 0 then Reply.bad s 8
  else if leAt b 0 8 % 64 ≠ 0 then Reply.badBuf s 0
  else if leAt b 8 8 % 16 ≠ 0 then Reply.badBuf s 8
  else if n = 0 ∨ 1048576 < n then Reply.badBuf s 16
  else
    match rangeBad b with
    | some o => Reply.badBuf s o
    | none =>
      if budget ≠ 0 ∧ (budget < 10 ∨ 250 < budget) then Reply.badBuf s 29
      else if !s.flowReady || s.flow.jobCode != 0 then Reply.no s 9 0
      else
        let tags := bit (byteAt b 28) 0
        let hs := s.checkHandles (leAt b 20 4) (leAt b 24 4) chart
        let r := State.chartPass chart (leAt b 0 8) 64 (fun h l => (s.flow.compare tags h l).isSome) hs
          (s.chartReads (leAt b 0 8) 64 (leAt b 20 4) (leAt b 24 4))
        let k : FlowCheck :=
          { chartBase := leAt b 0 8, reportBase := leAt b 8 8, reportEntries := n, first := leAt b 20 4, count := leAt b 24 4,
            tags := tags, budget := if budget = 0 then 100 else budget,
            waiting := r.1.map (fun h => { what := h, since := s.now }), compared := hs.length, mismatches := 0,
            written := 0, full := false }
        Reply.ok { r.2 with flow.job := .check k, flow.bgReady := false, flow.progress := hs.length }

/-- FLOW_CHART_CHECK (R163), with the chart lines as its first comparison reads them. -/
def execFlowChartCheck (c : Cmd) (chart : List (Nat × HostRead)) (s : State) : Out :=
  .next (s.runCmd { code := 0x0406, lens := [32] } c (fun b s => flowChartCheckBody c chart b s))

/-- The second comparison of a handle: a confirmed mismatch is reported, and counted; a failed read leaves the handle to be compared
again (log entry 137). -/
def State.flowRecheck (s : State) (k : FlowCheck) (h : Nat) (line : Option Bytes) : State :=
  let rest := { k with waiting := k.waiting.filter (fun w => w.what != h) }
  match line with
  | none => { s with flow.job := .check { k with waiting := rest.waiting ++ [{ what := h, since := s.now }] } }
  | some l =>
    match s.flow.compare k.tags h l with
    | none => { s with flow.job := .check rest }
    | some (kind, off, pl) =>
      if k.written < k.reportEntries then
        { s.post0 (k.reportBase + 16 * k.written) (flowCheckRecord h kind off pl ((s.flow.bgSeq + 1) % 65536)) with
          flow.job := .check { rest with mismatches := k.mismatches + 1, written := k.written + 1 } }
      else { s with flow.job := .check { rest with mismatches := k.mismatches + 1, full := true } }

/-- FLOW_CHART_RECHECK (R163): after CHART_SETTLE_MS, and once every command on the handle has replied. -/
def execFlowChartRecheck (handle : Nat) (line : HostRead) (s : State) : Out :=
  match s.flow.job with
  | .check k =>
    match k.waiting.find? (fun m => m.what == handle) with
    | none => .next s
    | some m =>
      if s.hove || !s.flowReady || !s.elapsed m.since (s.flow.settleMs * msTicks) || s.unreplied 0x0401 0x0404 handle then .next s
      else if s.readHeld .pf0 then .next (s.readWait .pf0)
      else
        let r := (s.chartReads k.chartBase 64 handle 1).chartLine [(handle, line)] k.chartBase 64 handle
        .next (r.2.flowRecheck k handle r.1)
  | _ => .next s

/-- FLOW_CHART_CHECK_DONE (R163, R166): once no mismatch waits for its second comparison. -/
def execFlowChartCheckDone (s : State) : Out :=
  match s.flow.job with
  | .check k =>
    if k.waiting.isEmpty && !s.hove && s.flowReady then
      .next (State.flowJobEnd { s with flow.job := .none } 2 (if k.full then 2 else 0) k.compared k.mismatches)
    else .next s
  | _ => .next s

/-! ### Loss and reload (R164, R165) -/

/-- FLOW_RELOAD_BANK's effect: the job begins (R165, R169). -/
def flowReloadBody (c : Cmd) (b : Bytes) (s : State) : Reply :=
  if c.handle ≠ 0 then Reply.bad s 8
  else if leAt b 0 8 % 64 ≠ 0 then Reply.badBuf s 0
  else
    match rangeBad b with
    | some o => Reply.badBuf s o
    | none =>
      if !s.flowReady || s.flow.jobCode != 0 then Reply.no s 9 0
      else Reply.ok { s with flow.job := .reload (leAt b 0 8) (leAt b 20 4) (leAt b 24 4), flow.bgReady := false, flow.progress := 0 }

/-- FLOW_RELOAD_BANK (R165). -/
def execFlowReloadBank (c : Cmd) (s : State) : Out :=
  .next (s.runCmd { code := 0x0407, lens := [32] } c (fun b s => flowReloadBody c b s))

/-- The entry that a chart line spells for a manager handle. -/
def lineEntry (h : Nat) (b : Bytes) : FlowEntry :=
  { key := slice b 0 40, profile := byteAt b 42 / 16, handle := h, flags := byteAt b 43 % 4 + 0x80,
    meter := leAt b 44 4 % 2 ^ 19, owner := 0, action := slice b 48 16 }

/-- One LOST handle of a reload: the state after it, with the handles reloaded and those freed or stuck. -/
def reloadOne (base : Nat) (lines : List (Nat × HostRead)) (r : State × Nat × Nat) (h : Nat) : State × Nat × Nat :=
  match (r.1.chartReads base 64 h 1).chartLine lines base 64 h with
  | (none, s) => (s, r.2.1, r.2.2 + 1)
  | (some line, s) =>
    if line.all (· == 0) then ({ s with flow := s.flow.freeHandle h }, r.2.1, r.2.2 + 1)
    else
      let e := lineEntry h line
      if (s.flow.findKey e.profile e.key).isSome then (s, r.2.1, r.2.2 + 1)
      else
        match s.flow.insert e with
        | some (f, _, _) => ({ s with flow := f }, r.2.1 + 1, r.2.2)
        | none => (s, r.2.1, r.2.2 + 1)

/-- FLOW_RELOAD_DONE (R165, R166), with the chart lines of LOST handles as they are read; a line that is not listed is
zero. -/
def execFlowReloadDone (lines : List (Nat × HostRead)) (s : State) : Out :=
  match s.flow.job with
  | .reload base first count =>
    if s.hove || !s.flowReady then .next s
    else if s.readHeld .pf0 then .next (s.readWait .pf0)
    else
      let hs := (s.flow.handles.filter (fun p => p.2 && decide (first ≤ p.1) && decide (p.1 < first + count) &&
        (s.flowOwner p.1).isNone)).map (·.1)
      let r := hs.foldl (reloadOne base lines) (s, 0, 0)
      .next (State.flowJobEnd { r.1 with flow.job := .none, flow.progress := hs.length } 3 0 r.2.1 r.2.2)
  | _ => .next s

/-- LOST handles of an instance's quota. -/
def State.lostIn (s : State) (i : Nat) : Nat :=
  (s.flow.handles.filter (fun p => p.2 && s.inFlowQuota i p.1)).length

/-- FLOW_WAKE_SCAN_DONE (R164): handles without an entry are LOST; the result's counts are not stated and are free
values. -/
def execFlowWakeScanDone (s : State) : Out :=
  if !(s.flow.scanDue && s.inRun 6 && s.helmRuns) || s.hove then .next s
  else
    let f := { s.flow.takeAllBack with
      scanDue := false
      progress := s.flow.handles.length
      handles := s.flow.handles.mapVals (fun h lost => lost || (s.flow.findHandle h).isNone) }
    let (x, s) := s.draw
    let (y, s) := s.draw
    let s := State.flowJobEnd { s with flow := f } 4 0 x.toNat y.toNat
    .next ((s.insts.map (·.1)).foldl
      (fun s i => if (s.inst i).state ≠ .absent ∧ 0 < s.lostIn i then s.instEvent i 0x31 (leBytes 4 (s.lostIn i)) else s) s)

/-! ### Aging (R159, R160) -/

/-- An aging ring entry, or the body of a FLOW_AGED event, of a handle. -/
def agedBody (h : Nat) (deleted : Bool) (r : FlowRec) : Bytes :=
  leBytes 4 (h + b2n deleted * 2 ^ 20) ++ leBytes 4 r.lastMs.toNat ++ leBytes 6 r.packets ++ [0, 0]

/-- The aging ring has room. -/
def Flow.ageRoom (f : Flow) : Bool := f.ageLog2 != 0 && decide ((f.ageProd - f.ageCons).toNat < 2 ^ f.ageLog2)

/-- An idle entry is reported to its owner: none when the ring or queue is full. -/
def State.reportAged (s : State) (e : FlowEntry) (del : Bool) (r : FlowRec) : Option State :=
  if bit e.flags 3 then
    if s.eventRoom e.owner 0x30 then some (s.instEvent e.owner 0x30 (agedBody e.handle del r)) else none
  else if s.flow.ageRoom then
    let n := s.flow.ageProd
    let empty := n == s.flow.ageCons
    let t := s.post0 (s.flow.ageBase.toNat + n.toNat % 2 ^ s.flow.ageLog2 * 16) (agedBody e.handle del r)
    let t := { t with flow.ageProd := n + 1 }
    some (if empty then t.event 14 else t)
  else none

/-- The sweeper at one handle. -/
def State.sweepOne (s : State) (h : Nat) : State :=
  match s.flow.findHandle h with
  | none => s
  | some pl =>
    match s.flow.entry pl with
    | none => s
    | some e =>
      if !bit e.flags 0 then s
      else
        let r := s.flow.recs.getD h {}
        let pr := s.prof e.profile
        let s := { s with flow.recs := s.flow.recs.put h { r with flags := r.flags - r.flags % 2 } }
        if (s.flow.ms - r.lastMs).toNat < pr.ageLimit * 1000 then s
        else
          match s.reportAged e pr.ageDelete r with
          | none => { s with flow.cnt := s.flow.cnt.inc 5 }
          | some t => if pr.ageDelete then { t.flowDeleteAt pl with flow.cnt := (t.flowDeleteAt pl).flow.cnt.inc 4 } else t

/-- FLOW_AGING_SWEEP (R159, R160): one sweep over every live handle. -/
def execFlowAgingSweep (s : State) : Out :=
  if !s.inRun 6 || decide ((s.flow.ms.toNat + 2 ^ 32 - s.flow.lastSweep) % 2 ^ 32 < s.flow.sweepMs) then .next s
  else
    let hs := s.flow.handles.map (·.1)
    let s := { s with flow.lastSweep := s.flow.ms.toNat }
    let s := if s.flow.firstSweep then
        { s with flow.firstSweep := false, flow.recs := s.flow.recs.mapVals (fun _ r => { r with lastMs := s.flow.ms }) }
      else s
    .next (hs.foldl State.sweepOne s)

/-! ### Profiles (R147, R148) -/

/-- The commit of a profile is refused (R147, R148, Table 6-2). -/
def State.profRejects (s : State) (p : Nat) : Bool :=
  let new := s.flow.staged.getD p {}
  decide (40 < keyLength new.fields) || (listedFields new.fields).any (fun c => decide (18 < c)) ||
    (new.fields != (s.prof p).fields && s.flow.uses p != 0)

/-- FLOW_PROF_COMMIT (R148): a write of the register; with GO the selected profiles and the map are committed together. -/
def execFlowProfCommit (value : W32) (s : State) : Out :=
  .next (s.inBlock 5 fun s =>
    let v := value.toNat
    let s := { s with flow.profSelect := v % 65536, flow.profSelMap := bit v 16 }
    if !bit v 31 then s
    else
      let sel := (List.range 16).filter (fun p => bit v p)
      if sel.any s.profRejects then { s with flow.profReject := true }
      else
        { s with
          flow.profs := (List.range 16).map (fun p => if bit v p then s.flow.staged.getD p {} else s.prof p)
          flow.profMap := if bit v 16 then s.flow.stagedMap else s.flow.profMap })

/-! ### Reset and Run entry (R146, R164, R167) -/

/-- Warm reset and FLR of PF 0 (R167): the table is empty, the seeds are kept, a running job ends ABANDONED, which its
result then shows (log entry 20). -/
def State.flowReset (s : State) : State :=
  let f := s.flow
  let job := f.jobCode
  let a := match f.swing, f.job with
    | some w, _ => w.moves
    | none, .check k => k.compared
    | _, _ => 0
  let b := match f.job with
    | .check k => k.mismatches
    | _ => 0
  let s := { s with flow :=
    { seedA := f.seedA, seedB := f.seedB, ms := f.ms, firstSweep := f.firstSweep, lastSweep := f.lastSweep } }
  if job = 0 then s else s.flowJobEnd job 3 a b

/-- D6 enters Run with nothing retained (R146, R164): an empty table under fresh seeds. -/
def State.flowCold (s : State) : State :=
  let (a, b, s) := s.freshSeeds []
  { s with flow := { seedA := a, seedB := b } }

/-- The entries of LOST QDR banks and of a LOST overflow memory are gone, their records zeroed (R164); bit n of `lost`
is bank n, bit 8 the overflow memory. -/
def State.flowLose (s : State) (lost : Nat) : State :=
  if lost % 256 = 255 then
    let (a, b, s) := s.freshSeeds []
    { s with flow := { seedA := a, seedB := b, lostBanks := lost % 512, scanDue := true } }
  else
    { s with
      flow.firstSweep := true
      flow.bgReady := false
      flow.progress := 0
      flow.slots := s.flow.slots.keep (fun k _ => !bit lost (k / 8 / flowBuckets * 4 + k / 8 % flowBuckets % 4))
      flow.fps := s.flow.fps.keep (fun k _ => !bit lost (k / 8 / flowBuckets * 4 + k / 8 % flowBuckets % 4))
      flow.ovf := if bit lost 8 then [] else s.flow.ovf
      flow.recs := s.flow.recs.mapVals (fun h r => if bit lost (h % 8) then { flags := 16 } else r)
      flow.lostBanks := lost % 512
      flow.scanDue := true }

end Sys2Proof.Machine
end

