-- ==== Sys2Proof/Machine/Sched.lean ====
section
/-!
DEFINITION. Machine/Sched.lean: queues, admission, selection, credit, meters and soundings (chapter 10), and what becomes
of a transmit descriptor as its frames end (R328).
-/

set_option Elab.async false
namespace Sys2Proof.Machine

open Sys2Proof

/-! ### Frames and their descriptors (R325, R328) -/

/-- Length of a frame from destination address to FCS. -/
def Frame.len (f : Frame) : Nat := f.body.length + 4

/-- A frame has become `n` copies: `n - 1` more of them must end (R197). -/
def State.descMore (s : State) (f : Frame) (n : Nat) : State :=
  match f.desc with
  | some (r, idx) => s.setRing r ((s.ring r).updDesc idx (fun d => { d with left := d.left + n - 1 }))
  | none => s

/-- A completion flag, or the stamp of the first frame, is noted for the frame's descriptor. -/
def State.descNote (s : State) (f : Frame) (g : Desc → Desc) : State :=
  match f.desc with
  | some (r, idx) => s.setRing r ((s.ring r).updDesc idx g)
  | none => s

/-- A copy of a frame has left a port, been delivered or re-entered the pipeline (`fail` none), or been dropped with a
status and detail of Table 13-10 (R328). -/
def State.frameEnd (s : State) (f : Frame) (fail : Option (Nat × Nat)) : State := s.descEnd f.desc f.seg f.len (.ended fail)

/-- A copy of a frame has been taken by an engine of the adapter or by Helm: it has ended, and did not leave. -/
def State.frameTaken (s : State) (f : Frame) : State := s.descEnd f.desc f.seg f.len .taken

/-- The time base in ns. -/
def State.tbNs (s : State) : Nat := s.time.sec * 1000000000 + s.time.ns

/-- A stamp of the time base: nanoseconds and seconds [31:0]. -/
def stampOf (ns : Nat) : Nat × Nat := (ns % 1000000000, ns / 1000000000 % 2 ^ 32)

/-- The stamp of a frame's first bit is kept for its descriptor: the first frame's, on its first port (R325); `delay` is
BOARD_DELAY of the port (R67). -/
def State.stampTx (s : State) (f : Frame) (delay : Nat) : State :=
  if f.wantStamp && f.seg == 0 && s.inRun 12 then
    s.descNote f (fun d => { d with stamp := d.stamp <|> some (stampOf (s.tbNs + delay)) })
  else s

/-! ### Nodes and credit (R249 to R251) -/

/-- A scheduler counter raised. -/
def State.schedCount (s : State) (k : Nat) : State := { s with sched.cnt := s.sched.cnt.inc k }

/-- The rate in force: until SCHED_STATUS.READY every node is unshaped (R261). -/
def State.nodeRate (s : State) (id : Nat) : Nat := if s.sched.ready then (s.node id).rate else 0

/-- R250: unshaped, or a credit of zero or more. -/
def State.eligible (s : State) (id : Nat) : Bool := s.nodeRate id == 0 || decide (0 ≤ (s.node id).credit)

/-- Queue number (R247). -/
def queueNo (sub v p : Nat) : Nat := sub * 64 + v * 8 + p

/-- A queue. -/
def State.queue (s : State) (q : Nat) : List Queued := s.sched.queues.getD q []

/-- A queue changed; an empty one is not listed. -/
def State.setQueue (s : State) (q : Nat) (l : List Queued) : State :=
  { s with sched.queues := if l.isEmpty then s.sched.queues.drop1 q else s.sched.queues.put q l }

/-- The ring ports run HSR or PRP (R248). -/
def State.ringTagged (s : State) : Bool := s.ports.ring.mode == 1 || s.ports.ring.mode == 2

/-- Charged length (R251); a frame of one cell is charged 84 bytes at least. -/
def State.charged (s : State) (p : Nat) (f : Frame) : Nat :=
  let n := f.len + (s.node (portNode p)).overhead + (if p = 2 ∧ s.ringTagged then 6 else 0)
  if cellsOf f.len ≤ 1 then max 84 n else n

/-- Credit taken from a node, clipped at −LO (R249). -/
def State.charge (s : State) (id len : Nat) : State :=
  if s.nodeRate id = 0 then s
  else
    let n := s.node id
    let c := n.credit - (len * 256 : Nat)
    let lo : Int := -((n.lo * 256 : Nat) : Int)
    if c < lo then (s.setNode id { n with credit := lo }).schedCount 7 else s.setNode id { n with credit := c }

/-- The refill of a shaped node (R249). -/
def Node.refill (n : Node) (queued : Bool) : Node :=
  if n.rate = 0 then { n with credit := 0 }
  else
    let c := if queued ∨ n.credit < 0 then min (n.credit + (n.rate * 32 : Nat)) ((n.hi * 256 : Nat) : Int) else n.credit
    { n with credit := if !queued ∧ 0 < c then 0 else c }

/-- A staged change takes effect: all its values together, the credit clipped to the new bounds (R253). -/
def Node.apply (n : Node) : Node :=
  match n.staged with
  | none => n
  | some v =>
    let g (k d : Nat) : Nat := ((v.getD k none).getD d)
    let hi := g 3 n.hi
    let lo := g 4 n.lo
    { n with
      rate := g 0 n.rate, weight := g 1 n.weight, bufLimit := g 2 n.bufLimit, hi := hi, lo := lo,
      overhead := g 5 n.overhead, credit := max (-((lo * 256 : Nat) : Int)) (min n.credit ((hi * 256 : Nat) : Int)),
      staged := none }

/-- A frame is queued for a node. -/
def State.nodeQueued (s : State) (id : Nat) : Bool :=
  s.sched.queues.any (fun q =>
    if id < 0x1000 then q.1 / 64 == id
    else if id < 0x3000 then q.1 / 8 == id - 0x1000
    else q.1 % 8 == id - 0x3000)

/-- A node at a refill tick: its staged change, then its refill; it is unshaped until READY (R261). -/
def Node.tick (n : Node) (ready queued : Bool) : Node :=
  if ready then n.apply.refill queued else { n.apply with credit := 0 }

/-- The refill tick of the present microsecond is still to come (R253). -/
def State.refillDue (s : State) : Bool := s.inRun 5 && s.sched.tickAt != some (s.now / usTicks)

/-- SCHED_REFILL (R249, R253): staged changes, then every node's refill; commands whose changes have taken effect reply. After a
reset with Helm running it is also what sets READY again (R261, R267, log entry 144). -/
def execSchedRefill (s : State) : Out :=
  if !s.refillDue then .next s
  else
    let n := (s.sched.nodes.filter (fun p => p.2.staged.isSome)).length
    let s := { s with
      sched.tick := s.sched.tick + 1
      sched.tickAt := some (s.now / usTicks)
      sched.ready := s.sched.ready || s.helmRuns
      sched.cnt := s.sched.cnt.add 6 n
      sched.nodes := s.sched.nodes.mapVals (fun id x => x.tick s.sched.ready (s.nodeQueued id)) }
    .next (s.replyAll (fun a => (a.opcode == 0x0208 || a.opcode == 0x0701) && !a.waits) 0 0)

/-! ### Admission (R255, R256) -/

/-- A frame refused at a node. -/
def State.nodeDrop (s : State) (id : Nat) : State := s.setNode id { s.node id with drop := (s.node id).drop + 1 }

/-- The admission of R255 (frame, subscriber, class, port); none when the frame is queued, else the status and detail of its drop. -/
def State.enqueueFrame (s : State) (f : Frame) (v p : Nat) : Option (Nat × Nat) × State :=
  let c := cellsOf f.len
  let pn := portNode p
  if s.hove then (some (10, 0), s.schedCount 4)
  else if (s.node f.sub).bufLimit < (s.node f.sub).occ + c then (some (4, 1), (s.schedCount 1).nodeDrop f.sub)
  else if (s.node pn).bufLimit < (s.node pn).occ + c then (some (4, 2), (s.schedCount 2).nodeDrop pn)
  else
    match s.holdCells f.share c with
    | none => (some (4, 3), s.schedCount 3)
    | some (dram, s) =>
      let q := queueNo f.sub v p
      (none, ((s.setQueue q (s.queue q ++ [{ frame := f, cells := c, dram := dram, at_ := s.now }])).occUp f.sub c).occUp pn c)

/-- A queued frame leaves its cells and the occupancy of its two nodes (R255). -/
def State.leaveQueue (s : State) (q : Queued) (p : Nat) : State :=
  ((s.releaseCells q.frame.share q.cells q.dram).occDown q.frame.sub q.cells).occDown (portNode p) q.cells

/-- A frame waits for a receive ring in packet cells under its subscriber's test alone (R256). -/
def State.admitRx (s : State) (r : Nat) (f : RxFrame) : Bool × State :=
  let sub := if r < mgrBase then r / 16 else 512
  let c := cellsOf (f.body.length + 4)
  if (s.node sub).bufLimit < (s.node sub).occ + c then (false, (s.schedCount 1).nodeDrop sub)
  else
    match s.holdCells f.share c with
    | none => (false, s.schedCount 3)
    | some (dram, s) =>
      let s := s.setRing r { s.ring r with frames := (s.ring r).frames ++ [{ f with cells := c, dramCells := dram }] }
      (true, s.occUp sub c)

/-! ### Selection (R252) -/

/-- Subscribers with a frame queued for port `p`, ascending. -/
def State.waiting (s : State) (p : Nat) : List Nat :=
  (s.sched.queues.filter (fun q => q.1 % 8 == p)).foldl (fun l q => addNew l (q.1 / 64)) []

/-- The highest-numbered service of a subscriber that is eligible for `p` (R250, R252). -/
def State.bestService (s : State) (sub p : Nat) : Option Nat :=
  ((List.range 8).reverse).find? (fun v => !(s.queue (queueNo sub v p)).isEmpty && s.eligible (svcNode sub v))

/-- The subscriber at a pointer among those that wait, going round. -/
def atPtr (subs : List Nat) (ptr : Nat) : Option Nat :=
  match subs.filter (fun x => decide (ptr ≤ x)) with
  | x :: _ => some x
  | [] => subs.head?

/-- select(p) of R252 with at most `fuel` steps: the queue's head frame, its queue, and the state after it. -/
def State.selectLoop (p : Nat) : Nat → State → Option (Queued × Nat × State)
  | 0, _ => none
  | k + 1, s =>
    match atPtr (s.waiting p) (s.sched.ptr.getD p 0) with
    | none => none
    | some sub =>
      let adv (s : State) : State := { s with sched.ptr := s.sched.ptr.set p (sub + 1) }
      match (if s.eligible sub then s.bestService sub p else none) with
      | none => State.selectLoop p k (adv s)
      | some v =>
        match s.queue (queueNo sub v p) with
        | [] => none
        | f :: fs =>
          let l := s.charged p f.frame
          let key := sub * 8 + p
          let d := s.sched.deficit.getD key 0
          if d < l then
            State.selectLoop p k (adv { s with sched.deficit := s.sched.deficit.put key (d + (s.node sub).weight * 1024) })
          else
            let s := s.setQueue (queueNo sub v p) fs
            let s := { s with sched.deficit :=
              if (s.waiting p).contains sub then s.sched.deficit.put key (d - l) else s.sched.deficit.drop1 key }
            let s := ((s.charge (svcNode sub v) l).charge sub l).charge (portNode p) l
            some (f, queueNo sub v p, s.schedCount 0)

/-- select(p): nothing while D5 is not in Run, in hove-to (R257), or while port node `p` is not eligible. -/
def State.select (s : State) (p : Nat) : Option (Queued × Nat × State) :=
  if !s.inRun 5 || s.hove || !s.eligible (portNode p) then none
  else if (s.waiting p).all (fun sub => !s.eligible sub || (s.bestService sub p).isNone) then none
  else State.selectLoop p (16 * ((s.waiting p).length + 1)) s

/-! ### Discards (R257) -/

/-- The frames of some queues are discarded, each counted in counter `k`; a host frame's descriptor hears of it. -/
def State.discardQueues (s : State) (pred : Nat → Bool) (k : Nat) (fail : Nat × Nat) : State :=
  let gone := s.sched.queues.filter (fun q => pred q.1)
  let s := { s with sched.queues := s.sched.queues.filter (fun q => !pred q.1) }
  gone.foldl (fun s q => q.2.foldl (fun s f => ((s.leaveQueue f (q.1 % 8)).frameEnd f.frame (some fail)).schedCount k) s) s

/-- Hove-to entry (R257): every queued frame discarded, every credit and deficit 0. -/
def State.schedHove (s : State) : State :=
  let s := s.discardQueues (fun _ => true) 4 (10, 0)
  { s with sched.deficit := [], sched.nodes := s.sched.nodes.mapVals (fun _ n => { n with credit := 0 }) }

/-- INST_CREATE, INST_RESET and INST_DESTROY (R257): the subscriber's frames go, its nodes take their Cold values. Cells
that its frames in transmission still hold stay in its occupancy. -/
def State.schedPurge (s : State) (i : Nat) : State :=
  let s := s.discardQueues (fun q => q / 64 == i) 5 (10, 0)
  let cold (id : Nat) (n : Node) : Node := { nodeDefault id with occ := n.occ }
  { s with
    sched.nodes := s.sched.nodes.mapVals (fun id n =>
      if id = i ∨ (0x1000 ≤ id ∧ id < 0x3000 ∧ (id - 0x1000) / 8 = i) then cold id n else n)
    sched.deficit := s.sched.deficit.keep (fun k _ => k / 8 != i) }

/-! ### Meters (R258 to R260) -/

/-- The meter clock: microseconds, 32 bits. -/
def State.meterClock (s : State) : W32 := BitVec.ofNat 32 (s.now / usTicks)

/-- A meter; one that is not listed is LOST with its bank (R261), else at its Cold values. -/
def State.meter (s : State) (k : Nat) : Meter := s.sched.meters.getD k { lost := bit s.sched.meterLost (k % 8) }

/-- A meter profile. -/
def State.mprof (s : State) (p : Nat) : MeterProfile := s.sched.profiles.getD p {}

/-- The crediting step of R259. -/
def Meter.credit (m : Meter) (pr : MeterProfile) (clock : W32) : Meter :=
  let e := (clock - m.last).toNat
  { m with
    last := clock
    tp := min (pr.pbs * 64) (m.tp + pr.pir * e / 125)
    tc := min (pr.cbs * 64) (m.tc + pr.cir * e / 125) }

/-- Colours of R259. -/
inductive Colour where
  | green | yellow | red
  deriving DecidableEq, Repr

/-- Counter of a colour. -/
def Colour.code : Colour → Nat
  | .green => 0
  | .yellow => 1
  | .red => 2

/-- The colour of a frame of `len` octets at a credited meter, and the buckets after it (R259). -/
def Meter.colour (m : Meter) (pr : MeterProfile) (len : Nat) (inYellow : Bool) : Colour × Meter :=
  if m.tp < len * 64 then (.red, m)
  else if (pr.aware && inYellow) || decide (m.tc < len * 64) then (.yellow, { m with tp := m.tp - len * 64 })
  else (.green, { m with tp := m.tp - len * 64, tc := m.tc - len * 64 })

/-- A meter counter raised. -/
def State.mtrCount (s : State) (k : Nat) : State := { s with sched.mtrCnt := s.sched.mtrCnt.inc k }

/-- meter(m, L, in) of R259; a record that cannot be read passes green and becomes LOST (Table 17-1). -/
def State.meterRun (s : State) (k len : Nat) (inYellow : Bool) : Colour × Nat × State :=
  let off := 0xEA0000 + k / 8 * 16
  let (ok, s) := s.qdrRead (k % 8) off
  let m := s.meter k
  if !ok then
    let s := (s.qdrWrite (k % 8) off)
    (.green, m.profile, { s with sched.meters := s.sched.meters.put k { m with valid := false, lost := true } })
  else if !m.valid || !s.sched.ready then (.green, m.profile, s.mtrCount 5)
  else
    let pr := s.mprof m.profile
    let r := (m.credit pr s.meterClock).colour pr len inYellow
    (r.1, m.profile, State.mtrCount { s with sched.meters := s.sched.meters.put k r.2 } r.1.code)

/-- METER_REFRESH (R259): every valid meter is credited. -/
def execMeterRefresh (s : State) : Out :=
  if s.inRun 6 && s.sched.ready then
    .next { s with sched.meters := s.sched.meters.mapVals (fun _ m =>
      if m.valid then m.credit (s.mprof m.profile) s.meterClock else m) }
  else .next s

/-- Meters of a QDR bank (R258). -/
def bankMeters : Nat := 65536

/-- Every meter of a LOST QDR bank (R261): VALID 0 and LOST 1. D5 is in Stop; SCHED_MTR_CNT[6] counts them as it enters Run. -/
def State.meterLose (s : State) (lost : Nat) : State :=
  { s with
    sched.meters := s.sched.meters.mapVals (fun k m => if bit lost (k % 8) then { m with valid := false, lost := true } else m)
    sched.meterLost := s.sched.meterLost ||| lost % 256
    sched.mtrLost := s.sched.mtrLost + ((List.range 8).filter (bit lost)).length * bankMeters }

/-! ### Soundings (R262, R263) -/

/-- The queues of a set, ascending (R262). -/
def Sounding.queues (x : Sounding) : List Nat :=
  (List.range x.subCount).flatMap (fun i =>
    ((List.range 8).filter (bit x.svcMask)).flatMap (fun v =>
      ((List.range 6).filter (bit x.portMask)).map (fun p => queueNo (x.subFirst + i) v p)))

/-- Q of a set. -/
def Sounding.count (x : Sounding) : Nat :=
  x.subCount * ((List.range 8).filter (bit x.svcMask)).length * ((List.range 6).filter (bit x.portMask)).length

/-- A queue record (Table 10-5). -/
def State.queueRecord (s : State) (round : W32) (q : Nat) : Bytes :=
  let l := s.queue q
  let sub := q / 64
  let wait := !l.isEmpty && !(s.eligible sub && s.eligible (svcNode sub (q / 8 % 8)) && s.eligible (portNode (q % 8)))
  let full := decide ((s.node sub).bufLimit ≤ (s.node sub).occ)
  let len := l.foldl (fun a f => a + f.frame.len) 0
  let delay := match l with
    | [] => 0
    | f :: _ => min ((s.now - f.at_) * 4 / 5) (2 ^ 32 - 1)
  leBytes 2 q ++ leBytes 2 (b2n wait + b2n full * 2) ++ leBytes 4 len ++ leBytes 4 delay ++ leBytes 4 round.toNat

/-- The records of a round: the header, then the queues. -/
def State.roundRecords (s : State) (x : Sounding) : List Bytes :=
  (leBytes 2 0xFFFF ++ leBytes 2 x.count ++ leBytes 4 x.round.toNat ++ leBytes 4 s.stampNs ++ leBytes 4 s.stampSec) ::
    x.queues.map (s.queueRecord x.round)

/-- A round of a set begins now: its tick is a multiple of PERIOD_US and has had none (R262). -/
def State.roundDue (s : State) (set : Nat) : Bool :=
  let x := s.sched.snd.getD set {}
  decide (set < 4) && x.enable && s.inRun 5 && s.sched.ready && !s.hove && s.sched.tick % x.period == 0 &&
    x.lastTick != some s.sched.tick

/-- SOUNDING_ROUND (R262, R263) of a set. PROD counts its records when they have left the endpoint; while they wait for Bus
Master Enable a round that begins is skipped. -/
def execSoundingRound (set : Nat) (s : State) : Out :=
  if !s.roundDue set then .next s
  else
    let x := { s.sched.snd.getD set {} with lastTick := some s.sched.tick }
    let n := x.count + 1
    if x.writing = 0 ∧ (x.prod - x.cons).toNat + n ≤ 2 ^ x.ringLog2 then
      let recs := s.roundRecords x
      let t := (recs.zipIdx).foldl (fun (t : State) (r : Bytes × Nat) =>
        t.post0 (x.ringBase + (x.prod.toNat + r.2) % 2 ^ x.ringLog2 * 16) r.1) s
      let waits := s.linkReady && !(s.cfg .pf0).bme
      let x := if waits then { x with writing := n } else { x with prod := x.prod + BitVec.ofNat 32 n }
      .next { t with sched.snd := t.sched.snd.set set { x with round := x.round + 1 } }
    else .next { s with sched.snd := s.sched.snd.set set { x with round := x.round + 1, skip := x.skip + 1 } }

/-! ### Commands (R264 to R266) -/

/-- Line rate of a port node in Mb/s; 100,000 where the port has no rate or is no line (R264). -/
def rateMbps (code : Nat) : Nat :=
  if code = 2 then 40000 else if code = 3 then 25000 else if code = 4 then 10000 else if code = 5 then 1000 else 100000

/-- The MAC of a port node. -/
def State.nodeLimit (s : State) (id : Nat) : Nat :=
  if id = 0x3000 then rateMbps s.ports.a.rate
  else if id = 0x3001 then rateMbps s.ports.b.rate
  else if id = 0x3002 then rateMbps s.ports.c.rate
  else if id = 0x3003 then rateMbps s.ports.d.rate
  else 100000

/-- The first field of Table 10-6 out of range for a node, by its offset in the entry. -/
def shareBad (data : Bytes) (limit : Nat) (sub svc port : Bool) : Option Nat :=
  let fl := byteAt data 5
  if bit fl 0 ∧ limit < leAt data 0 4 then some 24
  else if (if sub then bit fl 1 && byteAt data 4 == 0 else bit fl 1 || byteAt data 4 != 0) then some 28
  else if (if port then bit fl 4 && decide (63 < byteAt data 6) else bit fl 4 || byteAt data 6 != 0) then some 30
  else if (if svc then bit fl 2 || leAt data 8 4 != 0
      else bit fl 2 && (decide (leAt data 8 4 < 16) || decide (1048576 < leAt data 8 4))) then some 32
  else if bit fl 3 ∧ 4194303 < leAt data 12 4 then some 36
  else if bit fl 3 ∧ 4194303 < leAt data 16 4 then some 40
  else none

/-- The change that Table 10-6 stages. -/
def shareStaged (data : Bytes) : List (Option Nat) :=
  let fl := byteAt data 5
  let sel (k v : Nat) : Option Nat := if bit fl k then some v else none
  [sel 0 (leAt data 0 4), sel 1 (byteAt data 4), sel 2 (leAt data 8 4), sel 3 (leAt data 12 4), sel 3 (leAt data 16 4),
    sel 4 (byteAt data 6)]

/-- A change is staged, and the reply waits for the refill that applies it (R253). -/
def State.stageNode (s : State) (id : Nat) (data : Bytes) : Reply :=
  { st := s.setNode id { s.node id with staged := some (shareStaged data) }, later := true, limit := 2 * msTicks }

/-- INST_SET_SHARE's effect (R254, R264). -/
def instSetShareBody (c : Cmd) (s : State) : Reply :=
  if !s.sched.ready then Reply.no s 9 0
  else
    match shareBad c.data 100000 true false false with
    | some o => Reply.bad s o
    | none => s.stageNode c.inst c.data

/-- INST_SET_SHARE (R254). -/
def execInstSetShare (c : Cmd) (s : State) : Out :=
  .next (s.runCmd { code := 0x0208, inst := .inst, states := 0x3E } c (fun _ s => instSetShareBody c s))

/-- SCHED_NODE_CONFIG names this node: one of Table 10-1 that is not an instance's subscriber node. -/
def nodeNamed (id : Nat) : Bool :=
  id == 512 || id == 513 || (decide (0x1000 ≤ id) && decide (id < 0x1000 + 4112)) || (decide (0x3000 ≤ id) && decide (id < 0x3006))

/-- SCHED_NODE_CONFIG's effect (R264). -/
def schedNodeConfigBody (c : Cmd) (s : State) : Reply :=
  let id := c.handle
  if !s.sched.ready then Reply.no s 9 0
  else if !nodeNamed id then Reply.bad s 8
  else
    match shareBad c.data (s.nodeLimit id) (decide (id < 0x1000)) (decide (0x1000 ≤ id) && decide (id < 0x3000)) (decide (0x3000 ≤ id)) with
    | some o => Reply.bad s o
    | none => s.stageNode id c.data

/-- SCHED_NODE_CONFIG (R264). -/
def execSchedNodeConfig (c : Cmd) (s : State) : Out :=
  .next (s.runCmd { code := 0x0701 } c (fun _ s => schedNodeConfigBody c s))

/-- The meter profile that Table 10-7 carries. -/
def profileOf (data : Bytes) : MeterProfile :=
  let fl := byteAt data 20
  { cir := leAt data 4 4, pir := leAt data 8 4, cbs := leAt data 12 4, pbs := leAt data 16 4, aware := bit fl 0,
    dropRed := bit fl 1, dropYellow := bit fl 2, yellowSvcEn := bit fl 3, markDei := bit fl 4,
    yellowSvc := byteAt data 21 % 8 }

/-- SCHED_METER_CONFIG with one KIND of Table 10-7; the byte is checked by the row. -/
def meterCmd (c : Cmd) (kind : Nat) (body : State → Reply) (s : State) : Reply :=
  if !s.sched.ready then Reply.no s 9 0
  else if byteAt c.data 0 ≠ kind then Reply.bad s 24
  else body s

/-- PROFILE (R265): a meter that uses the profile has its buckets clipped to the new sizes at its next update (`Meter.credit`). -/
def meterProfileBody (c : Cmd) (s : State) : Reply :=
  let p := leAt c.data 2 2
  let n := profileOf c.data
  let rateBad (v : Nat) : Bool := decide (v < 8) || decide (100000000 < v)
  let burstBad (v : Nat) : Bool := decide (v < 64) || decide (16777215 < v)
  if 4095 < p then Reply.bad s 26
  else if rateBad n.cir then Reply.bad s 28
  else if rateBad n.pir ∨ n.pir < n.cir then Reply.bad s 32
  else if burstBad n.cbs then Reply.bad s 36
  else if burstBad n.pbs then Reply.bad s 40
  else
    Reply.ok { s with sched.profiles := s.sched.profiles.put p n }

/-- SCHED_METER_CONFIG PROFILE (R265). -/
def execSchedMeterProfile (c : Cmd) (s : State) : Out :=
  .next (s.runCmd { code := 0x0702 } c (fun _ s => meterCmd c 1 (meterProfileBody c) s))

/-- Meters. -/
def meterCount : Nat := 524288

/-- ASSIGN (R265). -/
def meterAssignBody (c : Cmd) (s : State) : Reply :=
  let p := leAt c.data 2 2
  let first := leAt c.data 4 4
  let n := leAt c.data 8 4
  if 4095 < p then Reply.bad s 26
  else if meterCount ≤ first then Reply.bad s 28
  else if n = 0 ∨ meterCount < first + n then Reply.bad s 32
  else
    let pr := s.mprof p
    let m : Meter := { tc := pr.cbs * 64, tp := pr.pbs * 64, last := s.meterClock, profile := p, valid := true, lost := false }
    Reply.ok ((List.range n).foldl (fun (s : State) k =>
      ({ s with sched.meters := s.sched.meters.put (first + k) m } : State).qdrWrite ((first + k) % 8) (0xEA0000 + (first + k) / 8 * 16)) s)

/-- SCHED_METER_CONFIG ASSIGN (R265). -/
def execSchedMeterAssign (c : Cmd) (s : State) : Out :=
  .next (s.runCmd { code := 0x0702 } c (fun _ s => meterCmd c 2 (meterAssignBody c) s))

/-- READ (R265). What a LOST record holds beside VALID and LOST is not stated: it reads as a free value (log entry 145). -/
def meterReadBody (c : Cmd) (s : State) : Reply :=
  let k := leAt c.data 4 4
  if meterCount ≤ k then Reply.bad s 28
  else
    let m := s.meter k
    if m.lost then
      let (x, s) := s.draw
      Reply.ok s (slice (leBytes 8 x.toNat ++ leBytes 2 (x.toNat / 2 ^ 40)) 0 10 ++ [BitVec.ofNat 8 (b2n m.valid + b2n m.lost * 2)])
    else
    Reply.ok s (leBytes 4 (m.tc / 64) ++ leBytes 4 (m.tp / 64) ++ leBytes 2 m.profile ++
      [BitVec.ofNat 8 (b2n m.valid + b2n m.lost * 2)])

/-- SCHED_METER_CONFIG READ (R265). -/
def execSchedMeterRead (c : Cmd) (s : State) : Out :=
  .next (s.runCmd { code := 0x0702 } c (fun _ s => meterCmd c 3 (meterReadBody c) s))

/-- The sounding set that Table 10-8 carries. -/
def soundingOf (data : Bytes) : Sounding :=
  { enable := bit (byteAt data 1) 0, period := leAt data 2 2, subFirst := leAt data 4 2, subCount := leAt data 6 2,
    svcMask := byteAt data 8, portMask := byteAt data 9 % 64, ringLog2 := byteAt data 10, ringBase := leAt data 12 8 }

/-- The first field of Table 10-8 out of range. -/
def soundingBad (x : Sounding) : Option Nat :=
  if x.period = 0 ∨ 1000 < x.period then some 26
  else if 513 < x.subFirst then some 28
  else if x.subCount = 0 ∨ 514 < x.subFirst + x.subCount then some 30
  else if x.svcMask = 0 then some 32
  else if x.portMask = 0 then some 33
  else if x.ringLog2 < 6 ∨ 20 < x.ringLog2 ∨ 2 ^ x.ringLog2 < x.count + 1 then some 34
  else if x.ringBase % 4096 ≠ 0 then some 36
  else none

/-- The sum over enabled sets of (Q + 1) ÷ PERIOD_US is at most 64 (R266), over a common denominator. -/
def soundingLoad (xs : List Sounding) : Bool :=
  let on := xs.filter (·.enable)
  let prod := on.foldl (fun (a : Nat) (x : Sounding) => a * x.period) 1
  decide (on.foldl (fun (a : Nat) (x : Sounding) => a + (x.count + 1) * (prod / x.period)) 0 ≤ 64 * prod)

/-- SCHED_SOUNDING_CONFIG's effect (R266). -/
def soundingBody (c : Cmd) (s : State) : Reply :=
  let n := byteAt c.data 0
  let x := soundingOf c.data
  if !s.sched.ready then Reply.no s 9 0
  else if 3 < n then Reply.bad s 24
  else
    match soundingBad x with
    | some o => Reply.bad s o
    | none =>
      if !x.enable then Reply.ok { s with sched.snd := s.sched.snd.modify n (fun y => { y with enable := false }) }
      else if soundingLoad (s.sched.snd.set n x) then
        Reply.ok { s with sched.snd := s.sched.snd.set n { x with skip := (s.sched.snd.getD n {}).skip, lastTick := some s.sched.tick } }
      else Reply.no s 4 0

/-- SCHED_SOUNDING_CONFIG (R266). -/
def execSchedSoundingConfig (c : Cmd) (s : State) : Out :=
  .next (s.runCmd { code := 0x0703 } c (fun _ s => soundingBody c s))

/-! ### Resets and Run entry (R257, R261) -/

/-- Warm reset and FLR of PF 0: every queued frame is gone, every node, profile, meter and set at its Cold value, READY 0 (R267). -/
def State.schedReset (s : State) : State := { s with sched := { tickAt := s.sched.tickAt } }

/-- D5 enters Run: the configuration that Helm's data area keeps is applied once Helm serves (R261); queues and credits
start empty. -/
def State.schedWake (s : State) (keptLost : Bool) : State :=
  let x := s.sched
  let y : Sched :=
    { tickAt := x.tickAt, meters := x.meters, meterLost := x.meterLost, mtrCnt := (Cnts.zero 8).add 6 x.mtrLost }
  if keptLost then { s with sched := y }
  else { s with sched := { y with
    nodes := x.nodes.mapVals (fun _ n => { n with credit := 0, occ := 0, drop := 0, staged := none })
    profiles := x.profiles
    snd := x.snd.map (fun x => { x with prod := 0, cons := 0, skip := 0, round := 0, lastTick := none, writing := 0 }) } }

end Sys2Proof.Machine
end

