-- ==== Sys2Proof/Machine/Cipher.lean ====
section
/-!
DEFINITION. Machine/Cipher.lean: contexts, the key cache, the lodestar, raw lanes and the cipher commands (chapter 09).
-/

set_option Elab.async false
namespace Sys2Proof.Machine

open Sys2Proof

/-! ### Contexts and keys -/

/-- A cipher counter raised. -/
def State.ciphCount (s : State) (k : Nat) : State := { s with ciph.cnt := s.ciph.cnt.inc k }

/-- A lodestar is loaded (R237). -/
def State.lodeLoaded (s : State) : Bool := s.ciph.lode == .loaded

/-- A context. -/
def State.ctx (s : State) (h : Nat) : Option Ctx := s.ciph.ctxs.find h

/-- A context changed. -/
def State.setCtx (s : State) (h : Nat) (x : Ctx) : State := { s with ciph.ctxs := s.ciph.ctxs.put h x }

/-- IMPORTED, XPN or ESN, INTEGRITY_ONLY, INCLUDE_SCI of a context. -/
def Ctx.imported (x : Ctx) : Bool := bit x.flags 0
def Ctx.xpn (x : Ctx) : Bool := bit x.flags 1
def Ctx.integrityOnly (x : Ctx) : Bool := bit x.flags 2
def Ctx.includeSci (x : Ctx) : Bool := bit x.flags 3

/-- Transmit operations (Table 9-7). -/
def Ctx.tx (x : Ctx) : Bool := x.op == 1 || x.op == 3 || x.op == 5

/-- An event of a context for its owner (Table 9-14). -/
def State.ctxEvent (s : State) (x : Ctx) (kind : Nat) (body : Bytes) : State :=
  s.instEvent (if x.owner < 512 then x.owner else 512) kind body

/-- The key of a context in the clear: derived, or unwrapped under its IMPORT_WRAP label; none when that fails (R225). -/
def State.ctxKey (s : State) (h : Nat) (x : Ctx) : Option Bytes :=
  let n := if labelK256 x.label then 32 else 16
  if x.imported then
    if s.errBits 1 (0x384000000 + h * 128) 128 < 2 then
      (gcmOpen (deriveKey s.ciph.lodestar (wrapLabel h) true) x.iv [] x.wrapped x.tag).map (·.take n)
    else none
  else some (deriveKey s.ciph.lodestar x.label (labelK256 x.label))

/-- The salt of a context: of its side record, or derived under its SALT label (R230, R231). -/
def State.ctxSalt (s : State) (x : Ctx) : Bytes :=
  if x.imported then x.salt else (deriveKey s.ciph.lodestar (saltLabel x.label) false).take 12

/-- What an operation under a context needs. -/
def State.ctxArgs (s : State) (x : Ctx) (key : Bytes) : CipherArgs :=
  { key := key, label := x.label, xpn := x.xpn, integrityOnly := x.integrityOnly, includeSci := x.includeSci, ssci := x.ssci,
    salt := s.ctxSalt x }

/-- A context is pinned by an armed slot or a subscription with AUTH (R226). -/
def State.pinned (s : State) (h : Nat) : Bool :=
  s.reflex.slots.any (fun p => p.2.state == .armed && p.2.tmpl.auth && p.2.tmpl.authCtx == h) ||
    s.alm.streams.any (fun p => p.2.auth && p.2.authCtx == h) ||
    s.reflex.goose.any (fun p => p.2.auth && p.2.authCtx == h)

/-- Lane 0 is reserved while any slot is ARMED or HELD (Table 9-1). -/
def State.lane0 (s : State) : Bool := s.reflex.slots.any (fun (p : Nat × Slot) => p.2.state == .armed)

/-- Lanes 1 to 4 are reserved while a subscription with AUTH stands (Table 9-1, log entry 51). -/
def State.pbLanes (s : State) : Bool :=
  s.alm.streams.any (fun (p : Nat × SvStream) => p.2.auth) || s.reflex.goose.any (fun (p : Nat × GooseCb) => p.2.auth)

/-- A lane of Table 9-1 serves an operation of a frame: `pb` for process-bus authentication, and its lane clocks. -/
def State.laneServes (s : State) (n : Nat) (pb : Bool) (clocks : Nat) : Bool :=
  if n = 0 then !s.lane0 else if n ≤ 4 then !s.pbLanes || pb || decide (clocks ≤ 256) else true

/-- No operation stands on a lane. -/
def State.laneFree (s : State) (n : Nat) : Bool := !s.ciph.jobs.any (fun j => j.place == .lane n)

/-- The first free lane of the set that Table 9-1 allows (R215). -/
def State.freeLane (s : State) (pb : Bool) (clocks : Nat) : Option Nat :=
  (List.range 40).find? (fun n => s.laneFree n && s.laneServes n pb clocks)

/-- The key of a context in the cache (R225). -/
def State.cached (s : State) (h : Nat) (x : Ctx) : Option Bytes :=
  (s.ciph.cache.find? (fun k => k.handle == h && k.gen == labelGen x.label && k.erase == s.ciph.eraseCount)).map (·.key)

/-- A key is used: it becomes the most recently used (R226). -/
def State.touchKey (s : State) (h : Nat) : State :=
  let c := s.ciph.cache
  { s with ciph.cache := c.filter (fun k => k.handle != h) ++ c.filter (fun k => k.handle == h) }

/-- Keys the cache holds at most. -/
def cacheSize : Nat := 65536

/-- A key enters the cache; in a full one it replaces the least recently used that is not pinned (R226). -/
def State.putKey (s : State) (h : Nat) (x : Ctx) (key : Bytes) : State :=
  let c := s.ciph.cache.filter (fun k => k.handle != h)
  let e : CacheKey := { handle := h, gen := labelGen x.label, erase := s.ciph.eraseCount, key := key }
  if c.length < cacheSize then { s with ciph.cache := c ++ [e] }
  else
    match c.find? (fun k => !s.pinned k.handle) with
    | some v => State.ciphCount { s with ciph.cache := c.filter (fun k => k.handle != v.handle) ++ [e] } 10
    | none => s

/-- A context becomes NEED_KEY, with its event: 1 unwrap failed, 0 KCV changed (R222). -/
def State.needKey (s : State) (h : Nat) (x : Ctx) (unwrap : Bool) : State :=
  (s.setCtx h { x with state := .needKey }).ctxEvent x 0x42 (leBytes 4 (h + b2n unwrap * 2 ^ 24))

/-- The key of a context is produced and cached: counted as a derivation, or as an unwrap or its failure (R225). -/
def State.loadKey (s : State) (h : Nat) (x : Ctx) : Bool × State :=
  match s.ctxKey h x with
  | some k => (true, (s.putKey h x k).ciphCount (if x.imported then 8 else 7))
  | none => (false, (s.ciphCount 9).needKey h x true)

/-- R222 and R237 before an operation under a context: the context, or what stops it: the status and detail of a host
frame's completion. -/
def State.ctxUsable (s : State) (h : Nat) : Except (Nat × Nat) Ctx × State :=
  if !s.lodeLoaded then (.error (5, 3), s.ciphCount 2)
  else
    match s.ctx h with
    | none => (.error (5, 1), s.ciphCount 5)
    | some x =>
      if 2 ≤ s.errBits 1 (0x380000000 + h * 64) 64 then
        (.error (5, 1), (s.logUe 1 (10 + h % 2) (0x380000000 + h * 64) 3 false).ciphCount 5)
      else if x.state ≠ .live then (.error (5, 1), s.ciphCount 5)
      else if x.kcv ≠ s.ciph.kcv then (.error (5, 1), (s.needKey h x false).ciphCount 5)
      else (.ok x, s)

/-- Process-bus verification of a steered frame under a pinned context (R100, R139, R232): no key, no verification. -/
def State.pbCheck (s : State) (h : Nat) (b : Bytes) : Bool × State :=
  match s.ctxUsable h with
  | (.error _, s) => (false, s)
  | (.ok x, s) =>
    match s.cached h x with
    | none => (false, s)
    | some k => if pbVerify k b then (true, (s.touchKey h).ciphCount 1) else (false, s.ciphCount 3)

/-! ### Packet numbers (R223) -/

/-- The first number a transmit context may not assign. -/
def Ctx.limit (x : Ctx) : Nat := if x.xpn then 2 ^ 64 - 1 else 2 ^ 32

/-- The next packet number of a transmit context; none once it is EXHAUSTED. -/
def State.assignPn (s : State) (h : Nat) (x : Ctx) : Option Nat × State :=
  if x.limit ≤ x.next then
    (none, (s.setCtx h { x with state := .exhausted }).ctxEvent x 0x41 (leBytes 4 h ++ leBytes 8 x.next))
  else
    let pn := x.next
    let y := { x with next := pn + 1, pn := if x.pn.toNat ≤ pn then x.pn + 1024 else x.pn }
    let warn := y.pnWarn ≠ 0 ∧ y.pnWarn.toNat ≤ pn ∧ !y.warned
    let s := s.setCtx h (if warn then { y with warned := true } else y)
    (some pn, if warn then s.ctxEvent x 0x40 (leBytes 4 h ++ leBytes 8 pn) else s)

/-- After a loss of D8 state numbering resumes at the mark (R223). -/
def State.pnResume (s : State) : State :=
  { s with ciph.ctxs := s.ciph.ctxs.mapVals (fun _ x => if x.tx then { x with next := x.pn.toNat } else x) }

/-! ### Inbound SAs (R233) -/

/-- The inbound SA that a MACsec frame on a port matches. -/
def State.saMacsec (s : State) (port : Nat) (t : SecTag) : Option Nat :=
  s.ciph.sa.find? (fun h =>
    match s.ctx h with
    | some x => x.op == 2 && x.port == port && labelAn x.label == t.an && (t.sci.isNone || t.sci == some (labelSci x.label))
    | none => false)

/-- The inbound SA that an ESP packet matches. -/
def State.saEsp (s : State) (e : EspHdr) : Option Nat :=
  s.ciph.sa.find? (fun h =>
    match s.ctx h with
    | some x => x.op == 4 && labelSpi x.label == e.spi && labelDst x.label == e.dst
    | none => false)

/-- Inbound SA entries. -/
def saSize : Nat := 16384

/-- CIPH_SA_REBUILD_DONE (R233). -/
def execCiphSaRebuildDone (s : State) : Out :=
  if s.inRun 8 && s.helmRuns && !s.ciph.ready then
    .next { s with
      ciph.ready := true
      ciph.sa := (s.ciph.ctxs.filter (fun p => (p.2.op == 2 || p.2.op == 4) && p.2.state != .lost)).map (·.1) }
  else .next s

/-! ### Replay (R230, R231) -/

/-- A received packet number passes the replay check of a context; none below PN_START does (Table 9-12). -/
def Ctx.fresh (x : Ctx) (pn : Nat) : Bool :=
  let hi := x.pn.toNat
  if pn < x.start then false
  else if x.op = 2 then decide (hi ≤ pn + x.window)
  else if hi < pn then true
  else decide (hi - pn < x.window) && !x.bitmap.getLsbD (hi - pn)

/-- The context after a packet number has been accepted. -/
def Ctx.accept (x : Ctx) (pn : Nat) : Ctx :=
  let hi := x.pn.toNat
  if hi < pn then
    { x with pn := BitVec.ofNat 64 pn, bitmap := if x.op = 4 then (x.bitmap <<< (pn - hi)) ||| 1 else x.bitmap }
  else if x.op = 4 then { x with bitmap := x.bitmap ||| ((1 : BitVec 128) <<< (hi - pn)) }
  else x

/-- The lowest packet number a context accepts, from which received numbers are completed. -/
def Ctx.lowest (x : Ctx) : Nat := max x.start (x.pn.toNat - x.window)

/-! ### Raw lanes (R234, R235) -/

/-- A raw lane. -/
def State.rawLane (s : State) (n : Nat) : RawLane := s.ciph.raw.getD n {}

/-- A raw lane changed. -/
def State.setRaw (s : State) (n : Nat) (x : RawLane) : State := { s with ciph.raw := s.ciph.raw.set n x }

/-- A thread's access to a lane whose lock it lost performs nothing and returns LOCK_LOST, once (R235). -/
def State.rawAccess (s : State) (thread lane : Nat) (act : RawLane → State) : State :=
  let x := s.rawLane lane
  if 2 < lane ∨ !s.inRun 8 ∨ !s.helmRuns then s
  else if x.lostBy.contains thread then s.setRaw lane { x with lostBy := x.lostBy.filter (· != thread), status := 2 }
  else act x

/-- RAW_LOCK_TAKE (R235): ignored while another thread holds the lane. -/
def execRawLockTake (thread lane : Nat) (s : State) : Out :=
  .next (s.rawAccess thread lane (fun x =>
    if x.held || decide (127 < thread) then s else s.setRaw lane { x with held := true, owner := thread, since := s.now, status := 0 }))

/-- A raw lane's key register after a load: 128 or 256 bits. -/
def State.rawKey (s : State) (load : Option RawLoad) (x : RawLane) : Option (Bytes × Bool) :=
  match load with
  | some (.label l) => if s.lodeLoaded then some (deriveKey s.ciph.lodestar l (labelK256 l), labelK256 l) else none
  | some (.own k) => some (k, decide (16 < k.length))
  | none => x.key

/-- One block operation of a raw lane under its key register; with no key loaded the result is a free value (R234). -/
def State.rawRun (s : State) (lane : Nat) (x : RawLane) (load : Option RawLoad) (block : Bytes) (decrypt : Bool) : State :=
  let x := { x with key := s.rawKey load x, status := 0 }
  match x.key with
  | some (k, _) => s.setRaw lane { x with block := if decrypt then aesDecrypt k (slice block 0 16) else aesEncrypt k (slice block 0 16) }
  | none =>
    let r := s.drawBytes 16
    r.2.setRaw lane { x with block := r.1 }

/-- A load that a Helm thread may not make: anything but a label of KIND 0x07 (R234). -/
def RawLoad.refused : RawLoad → Bool
  | .label l => labelKind l != 7
  | .own _ => true

/-- RAW_LANE_GO (R234): the holder of a lane, or Binnacle on lane 43, loads a key, if one is given, and runs one block. Status 1 is
RAW_LABEL. -/
def execRawLaneGo (thread lane : Nat) (load : Option RawLoad) (block : Bytes) (decrypt : Bool) (s : State) : Out :=
  .next (
    if lane = 3 then (if s.inRun 8 && s.inRun 3 then s.rawRun 3 (s.rawLane 3) load block decrypt else s)
    else
      s.rawAccess thread lane (fun x =>
        if !x.held || x.owner != thread then s
        else if (load.map RawLoad.refused).getD false then s.setRaw lane { x with status := 1 }
        else s.rawRun lane x load block decrypt))

/-- RAW_LOCK_RELEASE (R235): the holder releases the lane, which clears its key. -/
def execRawLockRelease (thread lane : Nat) (s : State) : Out :=
  .next (s.rawAccess thread lane (fun x =>
    if x.held && x.owner == thread then s.setRaw lane { x with held := false, key := none } else s))

/-- RAW_HOLD_EXPIRY (R235). -/
def execRawHoldExpiry (lane : Nat) (s : State) : Out :=
  let x := s.rawLane lane
  if decide (lane < 3) && x.held && s.elapsed x.since (s.ciph.rawHoldUs * usTicks) then
    .next ((s.setRaw lane { x with held := false, key := none, lostBy := addNew x.lostBy x.owner }).ciphCount 14)
  else .next s

/-- The raw lanes a thread holds are released when it ends (R381). -/
def State.rawDrop (s : State) (thread : Nat) : State :=
  { s with ciph.raw := s.ciph.raw.map (fun x => if x.held && x.owner == thread then { x with held := false, key := none } else x) }

/-! ### Commands (R241 to R243) -/

/-- Context handles. -/
def ctxHandles : Nat := 2 ^ 20

/-- A context handle lies in an instance's quota. -/
def State.inCtxQuota (s : State) (i h : Nat) : Bool :=
  decide ((s.inst i).ctxBase ≤ h) && decide (h < (s.inst i).ctxBase + (s.inst i).ctxCount)

/-- The instance whose context quota holds a handle. -/
def State.ctxOwner (s : State) (h : Nat) : Option Nat :=
  (s.insts.find? (fun p => p.2.state != .absent && decide (p.2.ctxBase ≤ h) && decide (h < p.2.ctxBase + p.2.ctxCount))).map (·.1)

/-- The checks on a context handle that all four commands share. -/
def ctxBody (c : Cmd) (create : Bool) (body : State → Reply) (s : State) : Reply :=
  match cmdTenant c with
  | some i => if s.inCtxQuota i c.handle then body s else Reply.denied s 2
  | none =>
    if create && (s.ctxOwner c.handle).isSome then Reply.denied s 2
    else if ctxHandles ≤ c.handle then Reply.bad s 8
    else body s

/-- The label KIND that suits an operation. -/
def opKind (op : Nat) : Nat := if op ≤ 2 then 1 else if op ≤ 4 then 2 else 3

/-- The first field of Table 9-12 out of range. -/
def ctxBad (b : Bytes) : Option Nat :=
  let op := byteAt b 0
  let xpn := bit (byteAt b 1) 1
  let w := leAt b 4 4
  let lim := if xpn then 2 ^ 64 - 1 else 2 ^ 32
  if op = 0 ∨ 6 < op then some 0
  else if 3 < byteAt b 2 then some 2
  else if (op = 4 ∧ w ≠ 32 ∧ w ≠ 64 ∧ w ≠ 128) ∨ (op ≠ 1 ∧ op ≠ 2 ∧ op ≠ 4 ∧ w ≠ 0) then some 4
  else if lim ≤ leAt b 16 8 then some 16
  else if byteAt b 32 ≠ opKind op then some 32
  else none

/-- The context that Table 9-12 describes, its key not yet wrapped. -/
def ctxOf (b label : Bytes) (owner kcv : Nat) : Ctx :=
  let op := byteAt b 0
  let p0 := if leAt b 16 8 = 0 then 1 else leAt b 16 8
  let tx := op == 1 || op == 3 || op == 5
  { label := label, pn := BitVec.ofNat 64 (if tx then p0 else p0 - 1), window := leAt b 4 4, kcv := kcv, op := op,
    flags := byteAt b 1 % 16, owner := owner, ssci := leAt b 8 4, salt := slice b 96 12, pnWarn := BitVec.ofNat 64 (leAt b 24 8),
    port := byteAt b 2, next := p0, start := p0 }

/-- A key wrapped into a side record under a fresh IV (R225, R241). -/
def State.wrapKey (s : State) (h : Nat) (x : Ctx) (key : Bytes) : Ctx × State :=
  let (iv, s) := s.drawBytes 12
  let r := gcmSeal (deriveKey s.ciph.lodestar (wrapLabel h) true) iv [] (slice key 0 32)
  ({ x with iv := iv, wrapped := r.1, tag := r.2 }, s)

/-- An inbound context matches what another one matches (Table 9-13). -/
def Ctx.sameMatch (x y : Ctx) : Bool :=
  x.op == y.op &&
    (if x.op = 2 then x.port == y.port && labelSci x.label == labelSci y.label && labelAn x.label == labelAn y.label
     else x.op == 4 && labelSpi x.label == labelSpi y.label && labelDst x.label == labelDst y.label)

/-- CTX_CREATE's effect (R219, R220, R241). -/
def ctxCreateBody (c : Cmd) (b : Bytes) (s : State) : Reply :=
  let h := c.handle
  let t := cmdTenant c
  let label := match t with
    | some i => overlay (slice b 32 32) 4 (beBytes 2 (0x8000 + i))
    | none => slice b 32 32
  let x := ctxOf b label (t.getD 0xFFFF) s.ciph.kcv
  let rx := x.op == 2 || x.op == 4
  if ctxHandles ≤ h then Reply.bad s 8
  else
    match ctxBad b with
    | some o => Reply.badBuf s o
    | none =>
      let old := s.ctx h
      if x.tx && s.ciph.ctxs.any (fun (p : Nat × Ctx) => p.2.tx && p.2.state != CtxState.lost && p.2.label == label) then Reply.no s 7 1
      else if (match old with | some y => y.state != CtxState.lost | none => false) then Reply.no s 7 2
      else if rx && s.ciph.ctxs.any (fun (p : Nat × Ctx) => p.2.state != CtxState.lost && p.2.sameMatch x) then Reply.no s 7 3
      else if rx && decide (saSize ≤ (s.ciph.ctxs.filter (fun (p : Nat × Ctx) => (p.2.op == 2 || p.2.op == 4) && p.1 != h)).length) then Reply.no s 4 0
      else if x.imported && !s.lodeLoaded then Reply.no s 0xE 2
      else
        let (x, s) := if x.imported then s.wrapKey h x (slice b 64 (if labelK256 label then 32 else 16)) else (x, s)
        let s := s.setCtx h x
        Reply.ok { s with ciph.sa := if rx then addNew s.ciph.sa h else s.ciph.sa }

/-- CTX_CREATE (R241). -/
def execCtxCreate (c : Cmd) (s : State) : Out :=
  .next (s.runCmd { code := 0x0601, tenant := true, inst := .either, lens := [128], zeroAt := some (64, 44), zeroIf := true, writes := true } c
    (fun b s => ctxBody c true (ctxCreateBody c b) s))

/-- CTX_REKEY's effect (R242). -/
def ctxRekeyBody (c : Cmd) (b : Bytes) (s : State) : Reply :=
  let h := c.handle
  let gen := leAt c.data 0 2
  match s.ctx h with
  | none => Reply.no s 8 0
  | some x =>
    if x.state = .lost then Reply.no s 0xC 0
    else if c.paramLen ≠ (if x.imported then 44 else 0) then Reply.bad s 6
    else if gen ≤ labelGen x.label then Reply.bad s 24
    else if x.imported && !s.lodeLoaded then Reply.no s 0xE 2
    else
      let y := { x with
        label := overlay x.label 2 (beBytes 2 gen), pn := if x.tx then 1 else 0, next := 1, start := 1, bitmap := 0, warned := false,
        kcv := s.ciph.kcv, state := .live, salt := if x.imported then slice b 32 12 else x.salt }
      let (y, s) := if x.imported then s.wrapKey h y (slice b 0 (if labelK256 x.label then 32 else 16)) else (y, s)
      let s := { s.setCtx h y with ciph.cache := s.ciph.cache.filter (fun k => k.handle != h) }
      Reply.ok (if s.pinned h && s.lodeLoaded then (s.loadKey h y).2 else s)

/-- CTX_REKEY (R242). -/
def execCtxRekey (c : Cmd) (s : State) : Out :=
  .next (s.runCmd { code := 0x0602, tenant := true, inst := .either, lens := [0, 44], zeroAt := if c.paramLen = 44 then some (0, 44) else none, writes := true } c
    (fun b s => ctxBody c false (ctxRekeyBody c b) s))

/-- A context is FREE: its SA entry and cached key are gone (R243). -/
def State.ctxFree (s : State) (h : Nat) : State :=
  { s with
    ciph.ctxs := s.ciph.ctxs.drop1 h
    ciph.sa := s.ciph.sa.filter (· != h)
    ciph.cache := s.ciph.cache.filter (fun k => k.handle != h) }

/-- The final PN of a context: the last one assigned or the highest accepted (R243). -/
def Ctx.finalPn (x : Ctx) : Nat := if x.tx then x.next - 1 else x.pn.toNat

/-- A side record (R221). -/
def Ctx.side (x : Ctx) : Bytes := slice x.iv 0 12 ++ slice x.wrapped 0 32 ++ slice x.tag 0 16 ++ leBytes 4 x.ssci ++ slice x.salt 0 12 ++ zeros 52

/-- A context record (Table 9-5). -/
def Ctx.record (x : Ctx) : Bytes :=
  let replay := if x.op = 4 then leBytes 16 x.bitmap.toNat else if x.op ≤ 2 then leBytes 4 x.window ++ zeros 12 else zeros 16
  slice x.label 0 32 ++ leBytes 8 x.pn.toNat ++ replay ++ leBytes 3 x.kcv ++
    [BitVec.ofNat 8 x.state.code, BitVec.ofNat 8 x.op, BitVec.ofNat 8 x.flags] ++ leBytes 2 x.owner

/-- CTX_QUERY's effect (R243). -/
def ctxQueryBody (c : Cmd) (s : State) : Reply :=
  match s.ctx c.handle with
  | none => Reply.no s 8 0
  | some x =>
    if x.state = .lost then Reply.no s 0xC 0
    else { st := s, data := [BitVec.ofNat 8 x.state.code, BitVec.ofNat 8 (b2n (x.kcv == s.ciph.kcv))], buf := x.record }

/-- CTX_QUERY (R243). -/
def execCtxQuery (c : Cmd) (s : State) : Out :=
  .next (s.runCmd { code := 0x0604, tenant := true, inst := .either, lens := [64], reads := false, writes := true } c
    (fun _ s => ctxBody c false (ctxQueryBody c) s))

/-- Every context of a quota destroyed (R351). -/
def State.ctxDestroyQuota (s : State) (base count : Nat) : State :=
  ((s.ciph.ctxs.map (·.1)).filter (fun h => decide (base ≤ h) && decide (h < base + count))).foldl State.ctxFree s

/-! ### The lodestar (R238 to R240) -/

/-- Pinned keys are derived again, and slots that had lost theirs leave that reason (R137, R239). -/
def State.repin (s : State) : State :=
  ((s.ciph.ctxs.filter (fun p => s.pinned p.1)).foldl (fun s p => (s.loadKey p.1 p.2).2) s)

/-- A key of KIND 1 enters the lodestar register. -/
def State.loadLodestar (s : State) (key : Bytes) : State :=
  State.repin { s with ciph.lode := .loaded, ciph.lodestar := key, ciph.kcv := keyKcv key }

/-- SEC_LODESTAR_LOAD's effect (R238, R239); `done` is what a loaded lodestar does to the slots it serves. -/
def lodestarBody (done : State → State) (b : Bytes) (s : State) : Reply :=
  let kind := byteAt b 0
  let replace := bit (byteAt b 1) 0
  let legal := if replace then 3 else 1
  if kind = 0 ∨ 3 < kind then Reply.badBuf s 0
  else if kind = 1 ∧ !bit legal s.ciph.lode.code then Reply.conflict s 7 s.ciph.lode.code legal 0
  else if kind = 3 then
    if s.ciph.enrolment.isSome then Reply.denied s 2
    else Reply.ok { s with ciph.enrolment := some (slice b 20 32) }
  else
    match s.ciph.enrolment with
    | none => Reply.denied s 1
    | some ek =>
      match gcmOpen (deriveKey ek (provisionLabel kind) true) (slice b 8 12) (slice b 0 8) (slice b 20 32) (slice b 52 16) with
      | none => Reply.no (s.violPf1 12 kind 0) 0xA 12
      | some key =>
        if keyKcv key ≠ leAt b 4 3 then Reply.badBuf s 4
        else if kind = 1 then Reply.ok (done (s.loadLodestar key))
        else Reply.ok { s with mig.transferKey := some (BitVec.ofNat 256 (leNat key)), mig.armedUntil := none }

/-- SEC_ALARM_CLEAR's effect (R240). -/
def alarmClearBody (c : Cmd) (s : State) : Reply :=
  let m := byteAt c.data 0
  let left := maskOf 5 (fun k => bit s.ciph.latched k && (!bit m k || bit s.ciph.present k))
  let s := { s with ciph.latched := left }
  let s := if left = 0 ∧ s.ciph.lode = .alarmed then { s with ciph.lode := .empty } else s
  Reply.ok s.alertSettle [0, BitVec.ofNat 8 left]

/-- SEC_ALARM_CLEAR (R240). -/
def execSecAlarmClear (c : Cmd) (s : State) : Out :=
  .next (s.runCmd { code := 0x0E04 } c (fun _ s => alarmClearBody c s))

/-! ### Loss (R224) and resets -/

/-- Contexts whose records lay in a LOST DRAM die; bit n of `lost` is die n (R224). -/
def State.ctxLose (s : State) (lost : Nat) : State :=
  if lost % 4 = 3 then { s with ciph.ctxs := [], ciph.wiped := true }
  else
    let s := { s with ciph.ctxs := s.ciph.ctxs.mapVals (fun h x => if bit lost (h % 2) then { x with state := .lost } else x) }
    let owners := (s.ciph.ctxs.filter (fun p => bit lost (p.1 % 2))).foldl (fun l p => addNew l p.2.owner) []
    owners.foldl (fun s o =>
      let n := (s.ciph.ctxs.filter (fun p => p.2.state == .lost && p.2.owner == o)).length
      s.instEvent (if o < 512 then o else 512) 0x43 (leBytes 4 n)) s

/-- The operation lies in DRAM, outside D8. -/
def CipherJob.inDram (j : CipherJob) : Bool := match j.place with | .spill _ => true | _ => false

/-- D8's own contents are gone: keys, operations and SA entries; numbering resumes at the marks. The completion of a host frame among
the operations is not stated, and is free. -/
def State.cipherCold (s : State) : State :=
  let gone := s.ciph.jobs.filter (fun j => !j.inDram)
  let s := { s.pnResume with
    ciph.cache := [], ciph.jobs := s.ciph.jobs.filter CipherJob.inDram, ciph.sa := [], ciph.ready := false,
    ciph.raw := List.replicate 4 {}, ciph.cnt := Cnts.zero 16 }
  gone.foldl (fun s j =>
    let r := s.draw
    r.2.frameEnd j.frame (some (5, r.1.toNat % 256))) s

/-- Warm reset and FLR of PF 0: every handle FREE, the CIPH registers at their Warm values. -/
def State.cipherReset (s : State) : State :=
  { s with
    ciph.ctxs := [], ciph.cache := [], ciph.jobs := [], ciph.sa := [],
    ciph.ready := false, ciph.wiped := false, ciph.raw := List.replicate 4 {}, ciph.cnt := Cnts.zero 16 }

end Sys2Proof.Machine
end

