-- ==== Sys2Proof/Machine/Nvmet.lean ====
section
/-!
DEFINITION. Machine/Nvmet.lean: the NVMe/TCP initiator offload (chapter 11): connections, registrations, the parsing and
placement of received PDUs, and transmit digests. The fields of a PDU are those of NVMe/TCP (PRESUMED, log entry 11).
-/

set_option Elab.async false
namespace Sys2Proof.Machine

open Sys2Proof

/-- A storage offload counter raised. -/
def State.nvmetCount (s : State) (k : Nat) : State := { s with recd.nvmetCnt := s.recd.nvmetCnt.inc k }

/-- A connection changed. -/
def State.setConn (s : State) (k : Nat) (c : Conn) : State := { s with recd.conns := s.recd.conns.put k c }

/-! ### Stream state (Table 11-7) -/

/-- Bytes 20 to 31 of an NVMET entry's state record. -/
def connState (nxt conn state flags left : Nat) : Bytes :=
  leBytes 4 nxt ++ leBytes 2 conn ++ [BitVec.ofNat 8 state, BitVec.ofNat 8 flags] ++ leBytes 4 left

/-- The stream state of a connection's entry. -/
def State.stream (s : State) (h : Nat) : Bytes := (s.flow.recs.getD h {}).owner

/-- RCV_NXT and STATE. -/
def streamNext (b : Bytes) : Nat := leAt b 0 4
def streamState (b : Bytes) : Nat := byteAt b 6

/-- The stream state of a connection written. -/
def State.setStream (s : State) (k : Nat) (c : Conn) (nxt state left : Nat) : State :=
  let r := s.flow.recs.getD c.handle {}
  let flags := b2n c.hdgst + b2n c.ddgst * 2
  { s with flow.recs := s.flow.recs.put c.handle { r with owner := connState nxt k state flags left } }

/-- An event of a connection for its owner; the manual does not state its body (log entry 12). -/
def State.connEvent (s : State) (c : Conn) (kind : Nat) : State :=
  let (b, s) := s.drawBytes 24
  s.instEvent c.inst kind b

/-! ### Received PDUs (R281 to R283) -/

/-- The common header: type, flags, HLEN, PDO, PLEN. -/
def pduType (h : Bytes) : Nat := byteAt h 0
def pduHlen (h : Bytes) : Nat := byteAt h 2
def pduPdo (h : Bytes) : Nat := byteAt h 3
def pduPlen (h : Bytes) : Nat := leAt h 4 4
/-- C2HData's own fields: CID, DATAO, DATAL, and LAST_PDU of its flags. -/
def pduCid (h : Bytes) : Nat := leAt h 8 2
def pduDatao (h : Bytes) : Nat := leAt h 12 4
def pduDatal (h : Bytes) : Nat := leAt h 16 4
def pduLast (h : Bytes) : Bool := bit (byteAt h 1) 2

/-- Octets of data in a PDU, its data digest apart. -/
def pduData (h : Bytes) (ddgst : Bool) : Nat :=
  if pduPdo h = 0 ∨ pduPlen h ≤ pduPdo h then 0 else pduPlen h - pduPdo h - (if ddgst then 4 else 0)

/-- The pieces of a buffer from an offset. -/
def piecesFrom : List (Nat × Nat) → Nat → List (Nat × Nat)
  | [], _ => []
  | (a, l) :: ps, off => if l ≤ off then piecesFrom ps (off - l) else (a + off, l - off) :: ps

/-- Ring q13 of an instance. -/
def regRing (i : Nat) : Nat := i * 16 + 13

/-- The connection moves to ERROR (R283). -/
def State.connError (s : State) (c : Conn) : State := (s.nvmetCount 2).connEvent c 0x51

/-- Where the data of a C2HData PDU whose header is complete is placed: its slot and DATAO; none when it does not
qualify, or when its completion would find q14 full (R282, R327). -/
def State.pduPlace (s : State) (c : Conn) (h : Bytes) : Option (Nat × Nat) :=
  let slot := pduCid h % c.depth
  match c.regs.find slot with
  | some g =>
    if g.cid = pduCid h ∧ pduDatao h + pduDatal h ≤ g.len ∧ pduData h c.ddgst = pduDatal h ∧
        (s.ring (complRing (regRing c.inst))).room then some (slot, pduDatao h)
    else none
  | none => none

/-- A PDU ends: it is counted, and a placed one completes with a PDU entry on q14 (R282, R327). The CID that R282 names stands in
bytes 2 and 3, which Table 13-9's layout leaves free (DEDUCED, log entry 146). -/
def State.pduEnd (s : State) (k : Nat) (c : Conn) : Conn × State :=
  let p := c.pdu
  let data := decide (0 < pduData p.head c.ddgst)
  let good := leBytes 4 (p.crc.toNat ^^^ 0xFFFFFFFF) == p.digest
  let dres := if c.ddgst && data then (if good then 1 else 2) else 0
  let s := s.nvmetCount 0
  let s := if dres = 2 then s.nvmetCount 3 else s
  match p.place with
  | some (slot, datao) =>
    let g := c.regs.find slot
    let tag := (g.map (·.tag)).getD 0
    let last := pduLast p.head
    let r := regRing c.inst
    let body := leBytes 2 k ++ leBytes 2 (pduCid p.head) ++ leBytes 4 datao ++ leBytes 4 p.placed ++ [BitVec.ofNat 8 dres] ++ zeros 4 ++
      [BitVec.ofNat 8 (b2n last)] ++ zeros 6 ++ leBytes 2 tag ++ [13, 4]
    let s := (s.nvmetCount 1).toComplRing (complRing r) { ring := r, idx := 0, body := body }
    ({ c with pdu := {}, regs := if last then c.regs.drop1 slot else c.regs }, s)
  | none => ({ c with pdu := {} }, s)

/-- What the parse of a run of payload comes to. -/
structure Parse where
  conn   : Conn
  /-- Octets that stay in the delivered frame, and the number placed. -/
  kept   : Bytes := []
  placed : Nat := 0
  failed : Bool := false
  st     : State

/-- The next octets of a connection's stream, at most `fuel` steps of one part of a PDU each. -/
def pduParse (k : Nat) : Nat → Parse → Bytes → Parse
  | 0, p, b => { p with kept := p.kept ++ b }
  | f + 1, p, b =>
    if b.isEmpty then p
    else if p.failed then { p with kept := p.kept ++ b }
    else
      let c := p.conn
      let q := c.pdu
      let hlen := if q.head.length < 8 then 8 else max 8 (pduHlen q.head)
      let plen := pduPlen q.head
      if q.pos < hlen then
        let n := min b.length (hlen - q.pos)
        let q := { q with head := q.head ++ b.take n, pos := q.pos + n }
        let p := { p with conn := { c with pdu := q }, kept := p.kept ++ b.take n }
        if 8 ≤ q.head.length ∧ 128 < pduHlen q.head then
          pduParse k f { p with failed := true, st := p.st.connError c } (b.drop n)
        else pduParse k f p (b.drop n)
      else if c.hdgst ∧ q.pos < hlen + 4 then
        let n := min b.length (hlen + 4 - q.pos)
        let q := { q with digest := q.digest ++ b.take n, pos := q.pos + n }
        let bad := q.pos == hlen + 4 && q.digest != crc32c q.head
        let p := { p with conn := { c with pdu := q }, kept := p.kept ++ b.take n }
        pduParse k f (if bad then { p with failed := true, st := p.st.connError c } else p) (b.drop n)
      else if !q.parsed then
        let place := if pduType q.head = 7 then p.st.pduPlace c q.head else none
        let s := if pduType q.head = 7 ∧ place.isNone then p.st.nvmetCount 4 else p.st
        pduParse k f { p with conn := { c with pdu := { q with parsed := true, place := place, digest := [] } }, st := s } b
      else if plen ≤ q.pos then
        let r := p.st.pduEnd k c
        pduParse k f { p with conn := r.1, st := r.2 } b
      else
        let dstart := pduPdo q.head
        let dend := dstart + pduData q.head c.ddgst
        if q.pos < dstart ∨ dend ≤ q.pos then
          let stop := if q.pos < dstart ∧ 0 < pduData q.head c.ddgst then min plen dstart else plen
          let n := min b.length (stop - q.pos)
          let q := { q with pos := q.pos + n, digest := if dend ≤ q.pos then q.digest ++ b.take n else q.digest }
          pduParse k f { p with conn := { c with pdu := q }, kept := p.kept ++ b.take n } (b.drop n)
        else
          let n := min b.length (dend - q.pos)
          let d := b.take n
          let s := match q.place with
            | some (slot, datao) =>
              let ps := ((c.regs.find slot).map (·.pieces)).getD []
              let ps := spread (piecesFrom ps (datao + (q.pos - dstart))) n
              p.st.scatter (regRing c.inst) ps d
            | none => p.st
          let q := { q with
            pos := q.pos + n, crc := BitVec.ofNat 32 (crc32cFold q.crc.toNat d),
            placed := q.placed + (if q.place.isSome then n else 0) }
          pduParse k f { p with
            conn := { c with pdu := q }, st := s, kept := if q.place.isSome then p.kept else p.kept ++ d,
            placed := p.placed + (if q.place.isSome then n else 0) } (b.drop n)

/-- Octets of the PDU in progress still to come; 0 at a boundary (Table 11-7). -/
def PduState.left (p : PduState) : Nat := if p.head.length < 8 then 0 else pduPlen p.head - p.pos

/-- A PDU whose last octet has come ends at once. -/
def Parse.settle (k : Nat) (p : Parse) : Parse :=
  let q := p.conn.pdu
  if !p.failed && decide (8 ≤ q.head.length) && q.parsed && decide (pduPlen q.head ≤ q.pos) then
    let r := p.st.pduEnd k p.conn
    { p with conn := r.1, st := r.2 }
  else p

/-- The parse of `b` from sequence number `seq` on; the record and the connection follow. -/
def State.streamRun (s : State) (k : Nat) (c : Conn) (seq : Nat) (b : Bytes) : Bytes × Nat × State :=
  let p := (pduParse k (4 * b.length + 16) { conn := c, st := s } b).settle k
  let s := (p.st.setConn k p.conn).setStream k p.conn ((seq + b.length) % 2 ^ 32) (if p.failed then 2 else 0) p.conn.pdu.left
  (p.kept, p.placed, s)

/-- The connection that a flow handle belongs to. -/
def State.connOf (s : State) (h : Nat) : Option (Nat × Conn) := s.recd.conns.find? (fun p => p.2.handle == h)

/-- A segment of an offloaded connection (R281): the frame as it is delivered, and the octets placed. -/
def State.nvmetRx (s : State) (h : Nat) (b : Bytes) : Bytes × Nat × State :=
  let ps := parse b
  match s.connOf h, ps.ip, ps.l4 with
  | some (k, c), some ip, some t =>
    if t.proto ≠ 6 then (b, 0, s)
    else
      let seq := beAt b (t.off + 4) 4
      let len := ip.plen - (t.fin - t.off)
      let pay := slice b t.fin len
      let st := s.stream h
      let nxt := streamNext st
      let rebuild (kept : Bytes) : Bytes := b.take t.fin ++ kept ++ b.drop (t.fin + len)
      let ahead := (BitVec.ofNat 32 seq - BitVec.ofNat 32 nxt).toNat
      if streamState st = 0 then
        if ahead = 0 then
          let r := s.streamRun k c seq pay
          (rebuild r.1, r.2.1, r.2.2)
        else if 2 ^ 31 ≤ ahead ∧ ahead + len ≤ 2 ^ 32 then (b, 0, s)
        else (b, 0, ((s.setStream k c nxt 1 c.pdu.left).nvmetCount 5).connEvent c 0x50)
      else if streamState st = 1 then
        match c.resync with
        | none => (b, 0, s)
        | some n =>
          let skip := (BitVec.ofNat 32 n - BitVec.ofNat 32 seq).toNat
          if skip < len then
            let c := { c with resync := none, pdu := {} }
            let r := s.streamRun k c n (pay.drop skip)
            (rebuild (pay.take skip ++ r.1), r.2.1, r.2.2)
          else (b, 0, s)
      else (b, 0, s)
  | _, _, _ => (b, 0, s)

/-! ### Transmit digests (R284) -/

/-- The digests of a send that must carry exactly one PDU, and whether any was written; none when PLEN differs from its payload. A
digest is written where the PDU's own flags say that it has one, as NVMe/TCP defines them (DEDUCED, log entry 147). -/
def nvmetDigest (b : Bytes) : Option (Bytes × Bool) :=
  let p := parse b
  match p.l4 with
  | none => none
  | some t =>
    let pay := b.drop t.fin
    let h := pay.take 8
    let hlen := pduHlen h
    if t.proto ≠ 6 ∨ pay.length < 8 ∨ pduPlen h ≠ pay.length then none
    else
      let pdo := pduPdo h
      let plen := pduPlen h
      let hd := bit (byteAt h 1) 0
      let dd := bit (byteAt h 1) 1 && pdo != 0 && decide (pdo + 4 ≤ plen)
      let pay := if hd then overlay pay hlen (crc32c (pay.take hlen)) else pay
      let pay := if dd then overlay pay (plen - 4) (crc32c (slice pay pdo (plen - 4 - pdo))) else pay
      some (b.take t.fin ++ pay, hd || dd)

/-! ### Registrations (R327) -/

/-- A registration is well formed, its fragment table apart (Table 13-7). -/
def regOk (d : Bytes) : Bool :=
  decide (0 < leAt d 8 4) && decide (leAt d 12 2 < 4096) && (byteAt d 16 == 0 || byteAt d 16 == 0x20) &&
    (bit (byteAt d 16) 5 || byteAt d 17 == 0) && leAt d 18 6 == 0 && leAt d 26 2 == 0 && leAt d 28 4 == 0

/-- A registration whose buffer is `ps`. -/
def State.register (s : State) (r : Nat) (d : Desc) (ps : List (Nat × Nat)) : State :=
  let i := r / 16
  let len := leAt d.body 8 4
  let conn := leAt d.body 12 2
  let cid := leAt d.body 14 2
  let fin (s : State) (status : Nat) : State := s.completeDesc r d (regCompletion d r status)
  match s.recd.conns.find conn with
  | none => fin s 13
  | some c =>
    if c.inst ≠ i then fin s 13
    else if c.regs.has (cid % c.depth) then fin s 14
    else
      match ps.find? (fun p => !s.ringInBounds r p.1 p.2 false true) with
      | some p => fin (s.violBounds r p.1) 8
      | none =>
        let g : Registration := { cid := cid, pieces := ps, len := len, tag := leAt d.body 24 2 }
        fin (s.setConn conn { c with regs := c.regs.put (cid % c.depth) g }) 0

/-- A registration's fragment table has been read, or its read failed. -/
def State.regTable (s : State) (r : Nat) (d : Desc) (n len : Nat) (t : Option Bytes) : State :=
  match t with
  | some t =>
    match fragments t n len with
    | some fs => s.register r d fs
    | none => s.completeDesc r d (regCompletion d r 9)
  | none => s.ringError r d.idx 2

/-- A registration descriptor is carried out, with what the read of its fragment table brought back. -/
def State.registerDesc (s : State) (r : Nat) (d : Desc) (table : HostRead) : State :=
  let addr := leAt d.body 0 8
  let len := leAt d.body 8 4
  let n := fragCount d.body
  if !regOk d.body then s.completeDesc r d (regCompletion d r 9)
  else if bit (byteAt d.body 16) 5 then
    if addr % 16 ≠ 0 then s.completeDesc r d (regCompletion d r 9)
    else if !s.ringInBounds r addr (16 * n) true false then (s.violBounds r addr).completeDesc r d (regCompletion d r 8)
    else
      let q := s.hostRead .pf0 (s.ringPasid r) addr (16 * n) table
      q.2.regTable r d n len q.1
  else s.register r d [(addr, len)]

/-- REGISTRATION (R323, R324, R327). -/
def execRegistration (inst : Nat) (table : HostRead) (s : State) : Out :=
  let r := regRing inst
  let x := s.ring r
  match x.descs.find? (fun d => !d.started) with
  | none => .next s
  | some d =>
    if !(decide (inst < 512) && s.mayRead .pf0 && s.inRun 5 && s.inRun 13 && !s.hove && s.ownerActive r &&
        (x.state == .enabled || x.state == .draining)) then .next s
    else if hasTable d && s.readHeld .pf0 then .next (s.readWait .pf0)
    else .next ((s.setRing r (x.updDesc d.idx (fun e => { e with started := true }))).registerDesc r d table)

/-! ### NVMET_CONNECT and NVMET_CLOSE (R288) -/

/-- Sum of QDEPTH over the open connections. -/
def State.connDepth (s : State) : Nat := s.recd.conns.foldl (fun (a : Nat) (p : Nat × Conn) => a + p.2.depth) 0

/-- The instance an NVMe command works for: its issuer, or the instance the field names. -/
def nvmetInst (c : Cmd) : Nat := (cmdTenant c).getD c.inst

/-- The fields of NVMET_CONNECT's buffer beside the image: the first out of range. -/
def connectBad (b : Bytes) : Option Nat :=
  let d := leAt b 68 2
  if d < 8 ∨ 1024 < d ∨ 2 ^ Nat.log2 d ≠ d then some 68 else none

/-- The entry of a connection of instance `i` breaks R155 or R198. -/
def State.connectBreaks (s : State) (i : Nat) (e : FlowEntry) : Bool :=
  let a := e.action
  !(s.prof e.profile).tenantOk || bit e.flags 1 || actOp a != 2 || actMirror a || actCopy a || actTunnel a != 0 ||
    (actCipher a != 0 && (match s.ciph.ctxs.find (actCtx a) with | some x => x.owner != i | none => false))

/-- NVMET_CONNECT without RESYNC (R152, R155, R288). -/
def nvmetInsert (c : Cmd) (b : Bytes) (s : State) : Reply :=
  let i := nvmetInst c
  let h := leAt b 40 3 % 2 ^ 20
  let e := imageFields s b none
  let d := leAt b 68 2
  if !s.inFlowQuota i h then Reply.denied s 2
  else if s.connectBreaks i e then Reply.denied s 0
  else if actDest e.action % 512 ≠ i then Reply.no (s.violInst i 8 0xFF (actDest e.action % 512) h) 0xA 8
  else if !s.flowReady then Reply.no s 9 0
  else
    match s.imageBad b with
    | some o => Reply.badBuf s o
    | none =>
      match connectBad b with
      | some o => Reply.badBuf s o
      | none =>
        if s.flow.handles.find h = some false then Reply.no s 7 2
        else
          match s.flow.findKey e.profile e.key with
          | some pl => { Reply.no s 7 1 with data := leBytes 4 ((s.flow.entry pl).map (·.handle) |>.getD 0) }
          | none =>
            match s.recd.conns.firstFree 0 4096 with
            | none => Reply.no s 4 0
            | some k =>
              if 262144 < s.connDepth + d then Reply.no s 4 0
              else
                let e := { e with handle := h, flags := (e.flags ||| 4) ||| 8, owner := i }
                match s.flow.insert e with
                | some (f, _, _) =>
                  let fl := byteAt b 70
                  let cn : Conn := { inst := i, handle := h, depth := d, hdgst := bit fl 0, ddgst := bit fl 1 }
                  let s := ({ s with flow := f } : State).setConn k cn
                  Reply.ok (s.setStream k cn (leAt b 64 4) 0 0) (leBytes 2 k)
                | none => Reply.no { s with flow.cnt := s.flow.cnt.inc 7 } 5 0

/-- A connection that a command names by its handle: NOT_FOUND, NOT_PERMITTED, or the body. -/
def connBody (c : Cmd) (body : Conn → State → Reply) (s : State) : Reply :=
  match s.recd.conns.find c.handle with
  | none => Reply.no s 8 0
  | some k => if k.inst ≠ nvmetInst c then Reply.denied s 1 else body k s

/-- RESYNC (R281, R288): the sequence number at which a PDU begins. -/
def resyncBody (c : Cmd) (b : Bytes) (k : Conn) (s : State) : Reply :=
  Reply.ok (s.setConn c.handle { k with resync := some (leAt b 64 4) })

/-- NVMET_CONNECT's operation, for both of its rows. -/
def nvmetOp : Op := { code := 0x0A04, tenant := true, inst := .inst, lens := [128], states := 0x1E }

/-- NVMET_CONNECT in either form; RESYNC of the buffer says which. Without it the object handle is 0xFFFF_FFFF. -/
def connectBody (c : Cmd) (b : Bytes) (s : State) : Reply :=
  if bit (byteAt b 70) 2 then connBody c (resyncBody c b) s
  else if c.handle ≠ 2 ^ 32 - 1 then Reply.bad s 8
  else nvmetInsert c b s

/-- NVMET_CONNECT (R288). -/
def execNvmetConnect (c : Cmd) (s : State) : Out := .next (s.runCmd nvmetOp c (fun b s => connectBody c b s))

/-- NVMET_CONNECT_RESYNC (R281, R288). -/
def execNvmetConnectResync (c : Cmd) (s : State) : Out := .next (s.runCmd nvmetOp c (fun b s => connectBody c b s))

/-- A connection closed: its entry and its registrations go. -/
def State.connClose (s : State) (k : Nat) : State :=
  match s.recd.conns.find k with
  | none => s
  | some c =>
    let s := match s.flow.findHandle c.handle with
      | some pl => s.flowDeleteAt pl
      | none => { s with flow := s.flow.freeHandle c.handle }
    { s with recd.conns := s.recd.conns.drop1 k }

/-- NVMET_CLOSE (R288). -/
def execNvmetClose (c : Cmd) (s : State) : Out :=
  .next (s.runCmd { code := 0x0A05, tenant := true, inst := .inst, states := 0x3E } c
    (fun _ s => connBody c (fun _ s => Reply.ok (s.connClose c.handle)) s))

/-- INST_RESET and INST_DESTROY close the instance's connections (R288). -/
def State.connCloseInst (s : State) (i : Nat) : State :=
  (s.recd.conns.filter (fun (p : Nat × Conn) => p.2.inst == i)).foldl (fun s p => s.connClose p.1) s

end Sys2Proof.Machine
end

