-- ==== Sys2Proof/Machine/Pipeline.lean ====
section
/-!
DEFINITION. Machine/Pipeline.lean: what becomes of a frame in the pipeline (chapter 08): lookup, meter, the steps of
Table 8-2, tunnels, destinations, copies, the exception path, and the cipher operations on its way (chapter 09).
-/

set_option Elab.async false
namespace Sys2Proof.Machine

open Sys2Proof

/-! ### Drops and copies -/

/-- A frame dropped by the action stage, counted in `k` (R192, Table 13-10). -/
def State.actDrop (s : State) (f : Frame) (k : Nat) : State := (s.actCount k).frameEnd f (some (6, k))

/-- The MAC of a port. -/
def State.mac (s : State) (p : Port) : Mac :=
  match p with
  | .a => s.ports.a
  | .b => s.ports.b
  | .c => s.ports.c
  | .d => s.ports.d

/-- The MAC of a port changed. -/
def State.setMac (s : State) (p : Port) (m : Mac) : State :=
  match p with
  | .a => { s with ports.a := m }
  | .b => { s with ports.b := m }
  | .c => { s with ports.c := m }
  | .d => { s with ports.d := m }

/-- Width of a statistics counter (Table 2-4). -/
def statBits (k : Nat) : Nat := if k = 1 ∨ k = 15 ∨ k = 25 ∨ k = 52 then 48 else 40

/-- A statistics counter of a port raised by `n`: HALF and WRAP bits and the counter event follow (R56). -/
def State.stat (s : State) (p : Port) (k n : Nat) : State :=
  let m := s.mac p
  let old := m.stat.getD k 0
  let w := statBits k
  let sum := old + n
  let new := sum % 2 ^ w
  let half := old < 2 ^ (w - 1) && decide (2 ^ (w - 1) ≤ sum)
  let wrap := decide (2 ^ w ≤ sum)
  let m := { m with
    stat := m.stat.set k new
    half := if half then m.half ||| ((1 : W64) <<< k) else m.half
    wrap := if wrap then m.wrap ||| ((1 : W64) <<< k) else m.wrap }
  let s := s.setMac p m
  if half || wrap then s.event p.num else s

/-- A frame dropped at the interlink, counted by a ring port (R32, R47). -/
def State.ilDrop (s : State) (p : Port) : State := s.stat p 62 1

/-- The exception queue's token bucket, refilled up to now (R210). -/
def Switching.refilled (w : Switching) (now : Nat) : Nat :=
  min (max 1 w.burst * 1250000) (w.tokens + (now - w.tokensAt) * w.rateKfps)

/-- The bucket's fill as reckoned now (R210). -/
def State.setTokens (s : State) (t : Nat) : State := { s with sw.tokens := t, sw.tokensAt := s.now }

/-- A frame enters the exception queue, and the bucket holds `t` (R210). -/
def State.queueExc (s : State) (e : ExcFrame) (t : Nat) : State := { s with sw.exc := s.sw.exc ++ [e], sw.tokens := t }

/-- A frame is handed to Helm with a reason and DEST code (R210): queued, or counted as without room or token. -/
def State.toHelm (s : State) (f : Frame) (reason dest : Nat) : State :=
  if 4096 ≤ s.sw.exc.length then s.actCount 5
  else
    let t := s.sw.refilled s.now
    let s := s.setTokens t
    if s.sw.rateKfps = 0 ∨ t < 1250000 then s.actCount 6
    else
      let e : ExcFrame := { body := f.body, reason := reason, dest := dest, src := f.srcPort, srcInst := f.srcInst, stamp := f.rxStamp, csum := f.csum }
      ((s.queueExc e (t - 1250000)).actCount 4).levelRise 48 (!s.sw.exc.isEmpty) true

/-- The whole frame goes to Helm: its descriptor hears that it has ended. -/
def State.giveHelm (s : State) (f : Frame) (reason dest : Nat) : State := (s.toHelm f reason dest).frameTaken f

/-- A mirror copy goes to the recorder's port as subscriber 513 (R209, R246). -/
def State.mirror (s : State) (f : Frame) (svc : Nat) : State :=
  if !(s.inRun 13 && s.recd.running && !s.recd.held) then s.actCount 13
  else
    match s.enqueueFrame { f with sub := 513, desc := none, share := 0, wantStamp := false } svc 5 with
    | (none, s) => s.actCount 12
    | (some _, s) => s.actCount 13

/-! ### Destinations (R195 to R197) -/

/-- R195: the frame is sent to a port, or to the loopback (4). -/
def State.sendPort (s : State) (f : Frame) (svc port : Nat) : State :=
  let go (f : Frame) (p : Nat) : State :=
    match s.enqueueFrame f svc p with
    | (none, s) => s.actCount 2
    | (some e, s) => s.frameEnd f (some e)
  if port < 2 then go f port
  else if port < 4 then
    if s.ports.ring.mode = 0 then
      let (d, s) := (s.ilDrop (if port = 2 then .c else .d)).draw
      s.frameEnd f (some (6, d.toNat % 256))
    else if s.ringTagged then go f 2
    else go f port
  else if f.looped then s.actDrop f 14
  else go f 4

/-- SRC of Table 13-9. -/
def Frame.srcCode (f : Frame) : Nat := f.srcPort

/-- Receive checksum codes of a frame as delivered: those found on reception; of a host frame, whose checksums were inserted on
the way, those of the headers it is delivered with, outermost or inner (R205). -/
def Frame.csumByte (w : Switching) (f : Frame) : Nat :=
  let p := parse f.body
  if f.srcPort < 4 then f.csum
  else if f.inner then
    let c := csumCodes p f.body false
    f.csum % 16 + c.1 * 16 + c.2 * 64
  else
    let c := csumCodes p f.body (p.tunnel w.vxlanPort w.genevePort).isSome
    c.1 + c.2 * 4

/-- R196: the frame is delivered to a receive ring; the octets of an offloaded connection are placed first (R282). -/
def State.sendInst (s : State) (f : Frame) (found : Found) (i q : Nat) : State :=
  let r := i * 16 + q
  if (s.inst i).state = .active ∧ (s.ring r).state = .enabled then
    let (body, placed, s) :=
      match found.nvmet, f.handle with
      | true, some h => s.nvmetRx h f.body
      | _, _ => (f.body, 0, s)
    let rx : RxFrame :=
      { body := body, src := f.srcCode, srcInst := f.srcInst, stamp := f.rxStamp, csum := f.csumByte s.sw
        flags := b2n f.handle.isSome * 4 + b2n f.decrypted * 8, placed := placed, handle := f.handle.getD 0
        excReason := 0, excDest := 0, cells := 0, dramCells := false, share := f.share, desc := f.desc, seg := f.seg }
    let full := decide ((s.node i).bufLimit < (s.node i).occ + cellsOf f.len)
    match s.admitRx r rx with
    | (true, s) => s
    | (false, s) => s.frameEnd f (some (4, if full then 1 else 3))
  else s.actDrop f 7

/-- A member of a group, or DEST of OP PORT and OP INSTANCE (Table 8-5). -/
def State.sendMember (s : State) (f : Frame) (found : Found) (m : Nat) : State :=
  if bit m 15 then
    (if 4 < m % 8 then s.actDrop f 11 else s.sendPort f found.svc (m % 8))
  else if 7 ≤ bits m 12 9 ∧ bits m 12 9 ≤ 12 then s.sendInst f found (m % 512) (bits m 12 9)
  else s.actDrop f 11

/-- The member is the frame's own source (R197). -/
def Frame.fromMember (f : Frame) (m : Nat) : Bool :=
  if f.srcPort < 4 then bit m 15 && m % 8 == f.srcPort else !bit m 15 && m % 512 == f.srcInst

/-- R197: one copy to each member, in order; the copies share the frame's packet cells. -/
def State.replicate (s : State) (f : Frame) (found : Found) : State :=
  let g := found.group
  let n := byteAt g 0
  if n = 0 ∨ 16 < n then s.actDrop f 11
  else
    let ms := ((List.range n).map (fun k => leAt g (32 + 2 * k) 2)).filter (fun m => !(bit (byteAt g 1) 0 && f.fromMember m))
    if ms.isEmpty then s.frameTaken f
    else
      let sh := s.sched.nextShare
      let s := ({ s with sched.nextShare := sh + 1 } : State).descMore f ms.length
      ms.foldl (fun s m => (s.sendMember { f with share := sh } found m).actCount 3) s

/-- Step 8 of Table 8-2. -/
def State.deliverFrame (s : State) (f : Frame) (found : Found) : State :=
  let r := found.record
  let op := actOp r
  let dest := actDest r
  if op = 1 then (if 4 < dest % 8 then s.actDrop f 11 else s.sendPort f found.svc (dest % 8))
  else if op = 2 then s.sendMember f found (dest % 8192)
  else if op = 3 then s.replicate f found
  else if op = 4 then s.giveHelm f 2 (dest % 256)
  else s.actDrop f 0

/-! ### Step 7, and the cipher operations of steps 2 and 6 -/

/-- Steps 7 and 8, once the transmit cipher operation is done. -/
def State.afterTx (s : State) (f : Frame) (found : Found) : State :=
  let s := if actCopy found.record then s.toHelm f 3 (actDest found.record % 256) else s
  s.deliverFrame f found

/-- A frame dropped by the cipher unit, counted in `k`; the manual gives its completion no detail (log entry 13). -/
def State.cipherDrop (s : State) (f : Frame) (k : Nat) : State :=
  let (d, s) := (s.ciphCount k).draw
  s.frameEnd f (some (5, d.toNat % 256))

/-- The frame's operation under a context, with what it was dispatched with, once it is on a lane with all its data: the frame after
it, or none where it is dropped (R222, R230 to R232). -/
def State.cipherOp (s : State) (f : Frame) (h code : Nat) (a : CipherArgs) (pn : Option Nat) : Option Frame × State :=
  match s.ctx h with
  | none => (none, (s.ciphCount 5).frameEnd f (some (5, 1)))
  | some x =>
    let s := s.touchKey h
    let done (b : Bytes) (s : State) : Option Frame × State := (some { f with body := b }, s.ciphCount 0)
    if code = 1 then done (macsecProtect a f.body (pn.getD 0)) s
    else if code = 5 then done (pbSign a f.body (pn.getD 0)) s
    else if code = 3 then
      match espOut a f.body (pn.getD 0) with
      | some b => done b s
      | none => (none, s.cipherDrop f 5)
    else if code = 6 then
      if pbVerify a.key f.body then (some { f with decrypted := true }, s.ciphCount 1) else (none, s.cipherDrop f 3)
    else
      let low := if code = 2 then ((secTag f.body).map (·.pn)).getD 0 else ((espHdr f.body).map (·.seq)).getD 0
      let n := fullPn x.xpn x.lowest low
      if !x.fresh n then (none, s.cipherDrop f 4)
      else
        let out := if code = 2 then (secTag f.body).bind (fun t => macsecValidate a f.body t n)
          else (espHdr f.body).bind (fun e => espIn a f.body e n)
        match out with
        | some b => (some { f with body := b, decrypted := true }, (s.setCtx h (x.accept n)).ciphCount 1)
        | none => (none, s.cipherDrop f 3)

/-- The operation under way or waiting at a frame's late data is one of a transmit code. -/
def isTxCode (code : Nat) : Bool := code == 1 || code == 3 || code == 5

/-- The ports that a record sends frames to (Table 8-5). -/
def Found.ports (x : Found) : List Nat :=
  let op := actOp x.record
  if op = 1 then [actDest x.record % 8]
  else if op = 3 then
    ((List.range (byteAt x.group 0)).map (fun k => leAt x.group (32 + 2 * k) 2)).filterMap (fun m => if bit m 15 then some (m % 8) else none)
  else []

/-- The ports that an operation's frame leaves by with the packet number it takes. -/
def CipherJob.egress (j : CipherJob) : List Nat :=
  match j.next with
  | .transmit found => if isTxCode j.code then found.ports else []
  | .inner _ => []

/-- Two frames keep their order of entry: one source, or operations that number frames of one port (R215, log entry 140). -/
def CipherJob.ordered (a b : CipherJob) : Bool :=
  let src (f : Frame) : Nat := match f.desc with | some (r, _) => 16 + r | none => f.srcPort
  src a.frame == src b.frame || a.egress.any b.egress.contains

/-- An operation of the unit changed or appended. -/
def State.addJob (s : State) (j : CipherJob) : State := { s with ciph.jobs := s.ciph.jobs ++ [j] }

/-- A frame whose operation is done goes on, or waits behind frames that entered before it (R215). -/
def State.cipherDone (cont : Frame → Found → State → State) (s : State) (j : CipherJob) (f : Frame) (found : Found) : State :=
  if s.ciph.jobs.any (fun k => k.ordered j) then s.addJob { j with frame := f, place := .done }
  else cont f found s

/-- What a dispatched operation comes to. -/
inductive Dispatched where
  /-- Its frame is dropped. -/
  | gone
  /-- It stands on a lane until its data has arrived. -/
  | laned (pn : Nat) (a : CipherArgs)
  | out (f : Frame) (pn : Option Nat)
  deriving DecidableEq, Repr

/-- An operation is dispatched with its key: a transmit one takes its packet number, and it runs unless its data is late (R215). -/
def State.opGo (s : State) (j : CipherJob) (x : Ctx) (key : Bytes) : Dispatched × State :=
  let a := s.ctxArgs x key
  let run (pn : Option Nat) (s : State) : Dispatched × State :=
    match s.cipherOp j.frame j.handle j.code a pn with
    | (some g, s) => (.out g pn, s)
    | (none, s) => (.gone, s)
  if isTxCode j.code then
    match s.assignPn j.handle x with
    | (none, s) => (.gone, (s.ciphCount 5).frameEnd j.frame (some (5, 1)))
    | (some pn, s) => if j.late then (.laned pn a, s) else run (some pn) s
  else run none s

/-- The class of an operation in Table 9-1: process-bus authentication, at most 256 lane clocks, or more. -/
def opClass (code clocks : Nat) : Nat := if code = 5 ∨ code = 6 then 0 else if clocks ≤ 256 then 1 else 2

/-- Lane clocks of an operation, as its context or its dispatch gives them. -/
def State.jobClocks (s : State) (j : CipherJob) : Nat :=
  match j.args, s.ctx j.handle with
  | some a, _ => laneClocks a j.code j.frame.body
  | none, some x => laneClocks (s.ctxArgs x []) j.code j.frame.body
  | none, none => 0

/-- The lane an operation takes, if one is free. -/
def State.jobLane (s : State) (j : CipherJob) : Option Nat := s.freeLane (decide (j.code = 5 ∨ j.code = 6)) (s.jobClocks j)

/-- An operation of the same class waits for a lane already (R215). -/
def State.classWaits (s : State) (j : CipherJob) : Bool :=
  s.ciph.jobs.any (fun k => k.place == .wait && opClass k.code (s.jobClocks k) == opClass j.code (s.jobClocks j))

/-- An operation begins (R215, R222, R223, R225): it waits for its key or for a lane, runs, or stands on a lane with its data late.
`mk` names where the frame goes on and `cont` goes on with it. -/
def State.cipherStart (cont : Frame → Found → State → State) (mk : Found → CipherNext) (s : State) (f : Frame) (found : Found)
    (h code : Nat) (late : Bool) : State :=
  match s.ctxUsable h with
  | (.error e, s) => s.frameEnd f (some e)
  | (.ok x, s) =>
    let j : CipherJob := { frame := f, handle := h, code := code, place := .key, pn := none, next := mk found, late := late }
    match s.cached h x with
    | none => s.addJob j
    | some key =>
      match (if s.classWaits j then none else s.jobLane j) with
      | none => s.addJob { j with place := .wait }
      | some n =>
        match s.opGo j x key with
        | (.gone, s) => s
        | (.laned pn a, s) => s.addJob { j with place := .lane n, pn := some pn, args := some a }
        | (.out g pn, s) => s.cipherDone cont { j with pn := pn } g found

/-! ### Encapsulation (R200, R201) -/

/-- A template's image agrees with KIND, HDR_LEN and OPT_LEN. -/
def templateOk (t : Bytes) : Bool :=
  let kind := byteAt t 0
  let hl := byteAt t 2
  let ol := byteAt t 3
  let img := slice t 32 hl
  let vl := 4 * (vlanTags img).length
  let v6 := kind % 2 == 0
  let ipLen := if v6 then 40 else 20
  let ip := 14 + vl
  let tun := ip + ipLen + 8
  decide (1 ≤ kind) && decide (kind ≤ 4) && decide (50 ≤ hl) && decide (hl ≤ 142) && decide (ol ≤ 64) && ol % 4 == 0 &&
    (decide (3 ≤ kind) || ol == 0) && tun + 8 + ol == hl && beAt img (12 + vl) 2 == (if v6 then etIpv6 else etIpv4) &&
    (if v6 then byteAt img ip / 16 == 6 && byteAt img (ip + 6) == 17 else byteAt img ip == 0x45 && byteAt img (ip + 9) == 17) &&
    (decide (kind ≤ 2) || byteAt img tun % 64 * 4 == ol)

/-- The outer header from a template in front of a frame; none where the template does not serve. -/
def encapsulate (t key b : Bytes) : Option Bytes :=
  if !templateOk t then none
  else
    let kind := byteAt t 0
    let fl := byteAt t 1
    let hl := byteAt t 2
    let ip := 14 + 4 * (vlanTags (slice t 32 hl)).length
    let v6 := kind % 2 == 0
    let udp := ip + (if v6 then 40 else 20)
    let ulen := hl - udp + b.length
    let img := slice t 32 hl ++ b
    let img := if v6 then put16 img (ip + 4) ulen else put16 img (ip + 2) (ulen + 20)
    let img :=
      match bit fl 2, (parse b).ip with
      | true, some h =>
        if v6 then put16 img ip (beAt img ip 2 % 64 + beAt img ip 2 / 4096 * 4096 + h.dscp * 64)
        else overlay img (ip + 1) [BitVec.ofNat 8 (h.dscp * 4 + byteAt img (ip + 1) % 4)]
      | _, _ => img
    let sport := if bit fl 1 then flowHash 0 0 key % 65536 ||| 0x8000 else leAt t 4 2
    let img := put16 (put16 (put16 img udp sport) (udp + 4) ulen) (udp + 6) 0
    match parseIp img (if v6 then etIpv6 else etIpv4) ip with
    | none => none
    | some h =>
      let img := if v6 then img else fixIpCsum img h
      let u : L4Hdr := { proto := 17, off := udp, fin := udp + 8, sport := sport, dport := beAt img (udp + 2) 2 }
      some (if v6 ∨ bit fl 0 then fixL4Csum img h u else img)

/-! ### Steps 3 to 6 -/

/-- Octets the transmit operation of a record adds to a frame (R194, R207). -/
def State.txGrowth (s : State) (record b : Bytes) : Nat :=
  let code := actCipher record
  if isTxCode code then cipherGrowth code (((s.ctx (actCtx record)).map Ctx.includeSci).getD false) b else 0

/-- Step 5: the checksums a host frame asks for. -/
def State.checksums (s : State) (f : Frame) : Frame × State :=
  if f.ipCsum || f.l4Csum then
    let r := insertCsums f.body f.ipCsum f.l4Csum
    let f := { f with body := r.1, ipCsum := false, l4Csum := false }
    (f, if r.2 then (s.actCount 15).descNote f (fun d => { d with flags := d.flags ||| 1 }) else s)
  else (f, s)

/-- Steps 1 and 3 to 8 of Table 8-2 for a record that is not OP INNER. A frame whose template does not serve is dropped at step 4;
the outer UDP checksum of the others covers what step 5 inserts. MACsec is not performed on ports C and D outside PLAIN (R230), so
such a frame is dropped (log entry 141); a frame without an operation waits behind earlier ones of its source (R215). -/
def State.execTx (s : State) (f : Frame) (found : Found) (late : Bool) : State :=
  let r := found.record
  match vlanOp (actVlan r) (leAt r 6 2) (leAt r 8 2) f.body with
  | none => s.actDrop f 8
  | some b =>
    let f := { f with body := if found.markDei then setDei b else b }
    let outer (b : Bytes) : Option Bytes := if actTunnel r = 1 then encapsulate found.template found.key b else some b
    if (outer f.body).isNone then s.actDrop f 11 else
    let (f, s) := s.checksums f
    match outer f.body with
    | none => s.actDrop f 11
    | some b =>
      let f := { f with body := b }
      let s := if actMirror r then s.mirror f found.svc else s
      if 9216 < f.len + s.txGrowth r b then (s.actCount 9).frameEnd f (some (1, 0))
      else if actCipher r = 1 ∧ s.ports.ring.mode ≠ 3 ∧ found.ports.any (fun p => p == 2 || p == 3) then s.cipherDrop f 5
      else if isTxCode (actCipher r) then
        s.cipherStart (fun f found s => s.afterTx f found) .transmit f found (actCtx r) (actCipher r) late
      else
        s.cipherDone (fun f found s => s.afterTx f found)
          { frame := f, handle := 0, code := 0, place := .done, pn := none, next := .transmit found } f found

/-! ### Lookup (R149, R180, R181, R192) -/

/-- Source of a frame in FLOW_PROF_MAP and SRC_MASK: ports A to D, host, inner. -/
def Frame.source (f : Frame) : Nat := if f.inner then 5 else min f.srcPort 4

/-- The value of a classifier unit's selector (R172). -/
def selectorValue (f : Frame) (p : Parsed) (sel : Nat) : Nat :=
  let c := sel % 32
  let v := fieldValue p f.body (min f.srcPort 4) f.srcInst f.vni c
  if c = 8 ∨ c = 9 then (if bit sel 7 then v / 2 ^ 64 else v % 2 ^ 64) else v

/-- What a frame's lookup comes to. -/
inductive Looked where
  /-- A record, with the entry that gave it. -/
  | use (record key : Bytes) (entry : Option FlowEntry)
  /-- Dropped, counted in FLOW_ACT_CNT[k]; or by the classifier's own counter. -/
  | drop (k : Option Nat)
  | helm
  /-- An engine consumed it; the lookup's hit, if there was one. -/
  | taken (entry : Option FlowEntry)
  deriving DecidableEq, Repr

/-- A frame is handed to the almanac (1) or the reflex engine (2) (R180); neither takes it while D12 is not in Run. The depth
of the almanac's input queue (R101) is Config's. -/
def State.steer (s : State) (f : Frame) (dest : Nat) : State :=
  let x : Steered := { body := f.body, stamp := f.rxStamp.getD (0, 0), at_ := s.now }
  if !s.inRun 12 then s
  else if dest = 1 then
    if s.alm.hoveTo then s
    else if Config.almQueueDepth ≤ s.alm.queue.length then { s with alm.cnt := s.alm.cnt.inc 1 }
    else { s with alm.queue := s.alm.queue ++ [x] }
  else { s with reflex.queue := s.reflex.queue ++ [x] }

/-- The miss action of a profile (R192, R181); a MISS code of 3 has no stated action (log entry 14). -/
def State.missAction (s : State) (miss : Nat) (key : Bytes) (hit : Option ClsHit) : Looked × State :=
  let (v, s) := if miss ≤ 2 then (miss, s) else (((s.draw.1).toNat % 3), s.draw.2)
  if v = 0 then (.drop (some 0), s)
  else if v = 2 then (.helm, s)
  else
    match hit with
    | none => (.drop none, { s with cls.cnt := s.cls.cnt.inc 3 })
    | some h =>
      if 4096 ≤ h.entry.action then (.drop (some 11), s)
      else (.use (s.sw.actions.getD h.entry.action (zeros 16)) key none, s)

/-- The lookup and search of a frame, once for a frame or a send (R150, R179, R180, R192). -/
def State.frameLookup (s : State) (f : Frame) : Looked × State :=
  let p := parse f.body
  let pn := s.flow.profMap.getD f.source 0
  let pr := s.prof pn
  let key := keyOf p f.body (min f.srcPort 4) f.srcInst f.vni pr.fields
  let (entry, s) := if keyLength pr.fields = 0 ∨ !s.inRun 6 then (none, s) else s.flowLookup pn key
  let (hit, s) := s.clsLookup f.source (fun sels => sels.map (selectorValue f p))
  let steered := match hit with
    | some h => h.entry.steer == 1 || h.entry.steer == 2
    | none => false
  let s := match hit with
    | some h => if steered then s.steer f h.entry.steer else s
    | none => s
  let consumed := steered && (match hit with | some h => !h.entry.pass | none => false)
  if consumed then (.taken entry, s)
  else
    match entry with
    | some e => (.use e.action key (some e), s)
    | none => s.missAction pr.miss key hit

/-- The meter of a metered entry is read and written for a frame (R150, R259): its colour and profile. -/
def State.frameMeter (s : State) (f : Frame) (e : FlowEntry) : Colour × Nat × State :=
  s.meterRun e.meter f.len (bit ((vlanTags f.body).getD 0 (0, 0)).2 12)

/-- The match of one frame, and its meter's colour applied (R149, R259, R260): what the action stage goes on with, or
none for a frame dropped for its colour. `outer` octets beside the frame's own count in OCTETS. -/
def State.frameMatch (s : State) (f : Frame) (record key template group : Bytes) (entry : Option FlowEntry) (outer : Nat := 0) :
    Option (Frame × Found) × State :=
  let svc := actSvc record
  match entry with
  | none => (some (f, { record := record, svc := svc, markDei := false, template := template, group := group, key := key }), s)
  | some e =>
    let flags := (parse f.body).tcpFlags f.body
    let s := s.flowMatch e.handle (f.len + outer) flags.1 flags.2
    let f := { f with handle := some e.handle }
    let found : Found := { record := record, svc := svc, markDei := false, template := template, group := group, key := key, nvmet := bit e.flags 2 }
    if !bit e.flags 1 then (some (f, found), s)
    else
      let tags := vlanTags f.body
      let (colour, prof, s) := s.frameMeter f e
      let pr := s.mprof prof
      if colour = .red ∧ pr.dropRed then (none, (s.mtrCount 3).frameEnd f (some (12, 0)))
      else if colour = .yellow ∧ pr.dropYellow then (none, (s.mtrCount 4).frameEnd f (some (12, 0)))
      else
        let mark := pr.markDei && (colour == .yellow || colour == .red) && !tags.isEmpty
        let svc := if colour = .yellow ∧ pr.yellowSvcEn then pr.yellowSvc else svc
        (some (if mark then { f with body := setDei f.body } else f, { found with svc := svc, markDei := mark }), s)

/-- Template and group of a record as they stand now (R208). -/
def State.recordTables (s : State) (record : Bytes) : Bytes × Bytes :=
  (s.sw.templates.getD (actEncap record) (zeros 256), s.sw.groups.getD (actDest record % 1024) (zeros 64))

/-- A hit of a frame that an engine consumed: its state record, and its meter if it is metered (R149, R150). -/
def State.takenMatch (s : State) (f : Frame) (entry : Option FlowEntry) : State :=
  match entry with
  | none => s
  | some e =>
    let flags := (parse f.body).tcpFlags f.body
    let s := s.flowMatch e.handle f.len flags.1 flags.2
    if bit e.flags 1 then (s.frameMeter f e).2.2 else s

/-- A frame whose lookup gave no record. -/
def State.lookedOut (s : State) (f : Frame) (l : Looked) : State :=
  match l with
  | .drop (some k) => s.actDrop f k
  | .drop none =>
    let (d, s) := s.draw
    s.frameEnd f (some (6, d.toNat % 256))
  | .helm => s.giveHelm f 1 0
  | .taken entry => (s.takenMatch f entry).frameTaken f
  | .use .. => s

/-! ### OP INNER (R194, R202) -/

/-- What removing a tunnel comes to. -/
inductive Decap where
  | inner (b : Bytes) (vni : Nat)
  /-- To Helm with a reason of Table 8-6. -/
  | helm (reason : Nat)
  /-- Dropped, counted in FLOW_ACT_CNT[10]. -/
  | error
  deriving DecidableEq, Repr

/-- The outer UDP checksum is nonzero and fails. -/
def udpBad (p : Parsed) (b : Bytes) : Bool :=
  match p.l4 with
  | some t => beAt b (t.off + 6) 2 != 0 && (csumCodes p b true).2 == 2
  | none => false

/-- Decapsulation (R202, Table 8-6). -/
def decapsulate (vxlanPort genevePort : Nat) (b : Bytes) : Decap :=
  let p := parse b
  let frag := match p.ip with | some h => h.frag | none => false
  if frag then .helm 7
  else if p.ipDeep || p.l4Deep then .helm 4
  else
    match p.tunnel vxlanPort genevePort, p.l4 with
    | some .vxlan, some t =>
      if parseDepth < t.fin + 8 then .helm 4
      else if b.length < t.fin + 8 ∨ !bit (byteAt b t.fin) 3 ∨ udpBad p b then .error
      else .inner (b.drop (t.fin + 8)) (p.vni b)
    | some .geneve, some t =>
      let opt := byteAt b t.fin % 64 * 4
      if parseDepth < t.fin + 8 then .helm 4
      else if b.length < t.fin + 8 ∨ byteAt b t.fin / 64 ≠ 0 ∨ udpBad p b then .error
      else if bit (byteAt b (t.fin + 1)) 6 then .helm 5
      else if 64 < opt then .helm 6
      else if parseDepth < t.fin + 8 + opt then .helm 4
      else if b.length < t.fin + 8 + opt then .error
      else .inner (b.drop (t.fin + 8 + opt)) (p.vni b)
    | _, _ => .error

/-- The VNI of a frame's outer header, 0 for a frame that is in no recognised tunnel (Table 6-2). -/
def State.vniOf (s : State) (b : Bytes) : Nat :=
  let p := parse b
  if (p.tunnel s.sw.vxlanPort s.sw.genevePort).isSome then p.vni b else 0

/-- The inner pass: parsed, looked up and searched with source 5, and its record executed (R194). -/
def State.innerPass (s : State) (f : Frame) (late : Bool) : State :=
  let c := csumCodes (parse f.body) f.body false
  let f := { f with inner := true, csum := f.csum % 16 + c.1 * 16 + c.2 * 64 }
  match s.frameLookup f with
  | (.use record key entry, s) =>
    let t := s.recordTables record
    match s.frameMatch f record key t.1 t.2 entry with
    | (none, s) => s
    | (some (f, found), s) =>
      if actOp record = 5 then s.giveHelm f 8 (actDest record % 256) else s.execTx f found late
  | (l, s) => s.lookedOut f l

/-- The rest of OP INNER after its cipher operation: the mirror copy, decapsulation, and the inner pass. -/
def State.afterRx (s : State) (f : Frame) (found : Found) : State :=
  let s := if actMirror found.record then s.mirror f found.svc else s
  if actTunnel found.record = 2 then
    match decapsulate s.sw.vxlanPort s.sw.genevePort f.body with
    | .inner b vni => s.innerPass { f with body := b, vni := vni } false
    | .helm r => s.giveHelm f r (actDest found.record % 256)
    | .error => s.actDrop f 10
  else s.innerPass { f with vni := s.vniOf f.body } false

/-- Step 2: the receive-side operation finds its context and begins (R230 to R233); an ESP fragment goes to Helm. -/
def State.execInner (s : State) (f : Frame) (found : Found) : State :=
  let code := actCipher found.record
  let start (h : Nat) (s : State) : State :=
    s.cipherStart (fun f found s => s.afterRx f found) .inner f found h code false
  if code = 2 then
    let plain := f.srcPort != 2 && f.srcPort != 3 || s.ports.ring.mode == 3
    match (if s.ciph.ready && plain then (secTag f.body).bind (s.saMacsec f.srcPort) else none) with
    | some h => start h s
    | none => s.cipherDrop f 6
  else if code = 4 then
    match espHdr f.body with
    | none => s.cipherDrop f 6
    | some e =>
      if e.ip.frag then s.giveHelm f 7 (actDest found.record % 256)
      else
        match (if s.ciph.ready then s.saEsp e else none) with
        | some h => start h s
        | none => s.cipherDrop f 6
  else if code = 6 then start (actCtx found.record) s
  else s.afterRx f found

/-- The first pass of a frame whose lookup has been made. -/
def State.execRecord (s : State) (f : Frame) (found : Found) (late : Bool) : State :=
  if actOp found.record = 5 then s.execInner f found else s.execTx f found late

/-- A frame enters the pipeline (R192 to R194). -/
def State.pipeline (s : State) (f : Frame) (late : Bool) : State :=
  let p := parse f.body
  let c := csumCodes p f.body (p.tunnel s.sw.vxlanPort s.sw.genevePort).isSome
  let f := { f with csum := c.1 + c.2 * 4, vni := s.vniOf f.body }
  match s.frameLookup f with
  | (.use record key entry, s) =>
    let t := s.recordTables record
    match s.frameMatch f record key t.1 t.2 entry with
    | (none, s) => s
    | (some (f, found), s) => s.execRecord f found late
  | (l, s) => s.lookedOut f l

/-! ### Operations that go on (R215, R225, R227, R228) -/

/-- A frame whose operation is done goes on to where it was. -/
def State.jobContinue (s : State) (j : CipherJob) (f : Frame) : State :=
  match j.next with
  | .inner found => s.afterRx f found
  | .transmit found => s.afterTx f found

/-- The frame of the job at index `i` goes on; where it begins another operation it keeps its place (R215). -/
def State.jobLeave (s : State) (i : Nat) (j : CipherJob) : State :=
  let rest := s.ciph.jobs.eraseIdx i
  let t := State.jobContinue { s with ciph.jobs := rest } j j.frame
  { t with ciph.jobs := t.ciph.jobs.take i ++ t.ciph.jobs.drop rest.length ++ (t.ciph.jobs.take rest.length).drop i }

/-- Done operations that none before them holds back go on, at most `fuel` of them. -/
def State.jobRelease : Nat → State → State
  | 0, s => s
  | n + 1, s =>
    match s.ciph.jobs.zipIdx.find? (fun p => p.1.place == .done && !(s.ciph.jobs.take p.2).any (fun k => k.ordered p.1)) with
    | some (j, i) => State.jobRelease n (s.jobLeave i j)
    | none => s

/-- The job at index `i` stands as `j`. -/
def State.jobSet (s : State) (i : Nat) (j : CipherJob) : State := { s with ciph.jobs := s.ciph.jobs.set i j }

/-- The job at index `i` ends: its frame takes the place `done` and leaves when it may, or is gone. -/
def State.jobEnd (s : State) (i : Nat) (j : CipherJob) (out : Option Frame) : State :=
  let s := match out with
    | some f => s.jobSet i { j with frame := f, place := .done }
    | none => { s with ciph.jobs := s.ciph.jobs.eraseIdx i }
  State.jobRelease (s.ciph.jobs.length + 1) s

/-- An operation that was dispatched before, with all its data, ends (R227, R242). -/
def State.jobFinish (s : State) (i : Nat) (j : CipherJob) (a : CipherArgs) : State :=
  let r := s.cipherOp j.frame j.handle j.code a j.pn
  r.2.jobEnd i j r.1

/-- The job at index `i` is dispatched, if its context is usable, its key in the cache and a lane free. -/
def State.jobRun (s : State) (i : Nat) (j : CipherJob) : State :=
  match j.args with
  | some a => s.jobFinish i j a
  | none =>
    match s.ctxUsable j.handle with
    | (.error e, s) => (s.frameEnd j.frame (some e)).jobEnd i j none
    | (.ok x, s) =>
      match s.cached j.handle x with
      | none => s.jobSet i { j with place := .key }
      | some key =>
        match s.jobLane j with
        | none => s.jobSet i { j with place := .wait }
        | some n =>
          match s.opGo j x key with
          | (.gone, s) => s.jobEnd i j none
          | (.laned pn a, s) => s.jobSet i { j with place := .lane n, pn := some pn, args := some a }
          | (.out g pn, s) => s.jobEnd i { j with pn := pn } (some g)

/-- The first job that satisfies `p`, with its index. -/
def State.jobFind (s : State) (p : CipherJob → Bool) : Option (CipherJob × Nat) := s.ciph.jobs.zipIdx.find? (fun q => p q.1)

/-- The next operation to leave the wait for a lane: process-bus authentication first on lanes 1 to 4 while they are reserved
(Table 9-1), otherwise in order of arrival. -/
def State.nextWaiter (s : State) : Option (CipherJob × Nat) :=
  let may (j : CipherJob) : Bool := j.place == .wait && (s.jobLane j).isSome
  let pb := if s.pbLanes && [1, 2, 3, 4].any s.laneFree then s.jobFind (fun j => (j.code == 5 || j.code == 6) && may j) else none
  if pb.isSome then pb else s.jobFind may

/-- Operations that waited for a lane are dispatched, at most `fuel` of them. -/
def State.waitersGo : Nat → State → State
  | 0, s => s
  | n + 1, s =>
    match s.nextWaiter with
    | some (j, i) => State.waitersGo n (s.jobRun i j)
    | none => s

/-- The operations that wait for a key of context `h` are dispatched in order, at most `fuel` of them. -/
def State.jobsOfKey (h : Nat) : Nat → State → State
  | 0, s => s
  | n + 1, s =>
    match s.jobFind (fun j => j.place == .key && j.handle == h) with
    | some (j, i) => State.jobsOfKey h n (s.jobRun i j)
    | none => s

/-- The misses that are outstanding: the first 64 contexts whose keys are awaited (R225). -/
def State.misses (s : State) : List Nat :=
  ((s.ciph.jobs.filter (fun j => j.place == .key)).foldl (fun l j => addNew l j.handle) []).take 64

/-- A missing key has been produced, or not; the operations that wait for it go on or are dropped. -/
def State.keyReady (s : State) (h : Nat) (imported : Bool) : State :=
  if !s.misses.contains h then s
  else
    match s.ctxUsable h with
    | (.error _, _) => State.jobsOfKey h s.ciph.jobs.length s
    | (.ok x, s) =>
      if x.imported ≠ imported then s
      else
        let s := (s.loadKey h x).2
        State.jobsOfKey h s.ciph.jobs.length s

/-- KEY_DERIVE_DONE (R225). -/
def execKeyDeriveDone (handle : Nat) (s : State) : Out := .next (if s.inRun 8 then s.keyReady handle false else s)

/-- KEY_UNWRAP_DONE (R225). -/
def execKeyUnwrapDone (handle : Nat) (s : State) : Out := .next (if s.inRun 8 && s.inRun 11 then s.keyReady handle true else s)

/-- The operation stands on a lane. -/
def CipherJob.onLane (j : CipherJob) : Bool := match j.place with | .lane _ => true | _ => false

/-- A lane has let go of operations: a CTX_DESTROY that waited for them replies (R243). -/
def State.destroyDone (s : State) : State :=
  (s.dechan.accepted.filter (fun a => a.opcode == 0x0603 && !a.waits)).foldl (fun s a =>
    let h := a.cmd.handle
    if s.ciph.jobs.any (fun j => j.onLane && j.handle == h) then s
    else
      match s.ctx h with
      | some x => (s.ctxFree h).reply a 0 0 (leBytes 8 x.finalPn) []
      | none => s.reply a 8 0 [] []) s

/-- A lane is free again: operations that waited for one are dispatched, and CTX_DESTROY replies. -/
def State.laneFreed (s : State) : State := (State.waitersGo s.ciph.jobs.length s).destroyDone

/-- Entries of the spill area in use. -/
def State.spilled (s : State) : List Nat :=
  s.ciph.jobs.filterMap (fun j => match j.place with | .spill n => some n | _ => none)

/-- Slots of the context store, and entries of the spill area. -/
def storeSlots : Nat := 8192
def spillSlots : Nat := 65536

/-- DRAM address of an entry of the spill area (Table 17-2). -/
def spillAddr (n : Nat) : Nat := 0x38C000000 + n * 128

/-- The operation of the store that was suspended longest ago. -/
def State.oldestStored (s : State) : Option (CipherJob × Nat) :=
  (s.ciph.jobs.zipIdx.filter (fun p => p.1.place == .store)).foldl (fun o p =>
    match o with
    | some q => if p.1.seq < q.1.seq then some p else o
    | none => some p) none

/-- The operation suspended longest is wrapped into the spill area, or abandoned when that is full (R228); the 64 octets
of its chaining state are not the model's (log entry 15). -/
def State.spillOne (s : State) : State :=
  match s.oldestStored with
  | none => s
  | some (j, i) =>
    match (List.range spillSlots).find? (fun n => !s.spilled.contains n) with
    | none => ((s.ciphCount 13).frameEnd j.frame (some (5, 2))).jobEnd i j none
    | some n =>
      let (iv, s) := s.drawBytes 12
      let (st, s) := s.drawBytes 64
      let w := gcmSeal (deriveKey s.ciph.lodestar (spillLabel s.ciph.eraseCount) true) iv [] st
      let s := (s.dramWrite (spillAddr n) (iv ++ w.1 ++ w.2 ++ zeros 36)).ciphCount 12
      s.jobSet i { j with place := .spill n }

/-- CIPHER_SUSPEND (R227): the first operation on a lane whose data is late goes to the context store. -/
def execCipherSuspend (s : State) : Out :=
  match s.jobFind CipherJob.onLane with
  | none => .next s
  | some (j, i) =>
    if !s.inRun 8 then .next s
    else
      let full := decide (storeSlots ≤ (s.ciph.jobs.filter (fun k => k.place == .store)).length)
      let s := { s.jobSet i { j with place := .store, seq := s.ciph.suspended } with ciph.suspended := s.ciph.suspended + 1 }
      .next ((if full then s.spillOne else s).ciphCount 11).laneFreed

/-- A spilled entry is read and unwrapped under the present erase count and lodestar (R228). -/
def State.unspill (s : State) (n : Nat) : Bool × State :=
  match s.dramRead (spillAddr n) 128 with
  | (none, s) => (false, s)
  | (some b, s) =>
    let key := deriveKey s.ciph.lodestar (spillLabel s.ciph.eraseCount) true
    (s.lodeLoaded && (gcmOpen key (slice b 0 12) [] (slice b 12 64) (slice b 76 16)).isSome, s)

/-- The data of an operation has arrived while it waits for its key or a lane, stands on a lane, or is suspended. -/
def CipherJob.awaitsData (j : CipherJob) : Bool :=
  match j.place with
  | .lane _ | .store | .spill _ => true
  | .key | .wait => j.late
  | .done => false

/-- A suspended operation resumes on the first free lane of its set, or waits for one (R227). -/
def State.jobResume (s : State) (i : Nat) (j : CipherJob) : State :=
  match j.args, s.jobLane j with
  | some a, some _ => s.jobFinish i j a
  | _, _ => s.jobSet i { j with place := .wait, late := false }

/-- The operations whose data may arrive, with their places in the list. -/
def State.awaiting (s : State) : List (CipherJob × Nat) := s.ciph.jobs.zipIdx.filter (fun p => p.1.awaitsData)

/-- The data of the operation `j` at place `i` arrives: it ends on its lane, resumes from the store or the spill area, or no longer
waits for its data. -/
def State.dataArrives (s : State) (j : CipherJob) (i : Nat) : State :=
  match j.place, j.args with
  | .lane _, some a => (s.jobFinish i j a).laneFreed
  | .store, _ => (s.jobResume i j).laneFreed
  | .spill k, _ =>
    let r := s.unspill k
    (if r.1 then r.2.jobResume i j else ((r.2.ciphCount 13).frameEnd j.frame (some (5, 2))).jobEnd i j none).laneFreed
  | _, _ => s.jobSet i { j with late := false }

/-- CIPHER_RESUME (R227, R228): the data of an operation whose data is late arrives; of several, which one's comes first is a free
value (log entry 159). -/
def execCipherResume (s : State) : Out :=
  if !s.inRun 8 then .next s
  else
    match s.awaiting with
    | [] => .next s
    | [(j, i)] => .next (s.dataArrives j i)
    | p :: q :: l =>
      let d := s.draw
      let x := (p :: q :: l).getD (d.1.toNat % (l.length + 2)) p
      .next (d.2.dataArrives x.1 x.2)

/-- CTX_DESTROY's effect (R243): its reply waits while a lane holds an operation of the context. -/
def ctxDestroyBody (c : Cmd) (s : State) : Reply :=
  match s.ctx c.handle with
  | none => Reply.no s 8 0
  | some x =>
    if s.pinned c.handle then Reply.no s 9 0
    else if s.ciph.jobs.any (fun j => j.onLane && j.handle == c.handle) then { st := s, later := true, limit := 6 * usTicks }
    else Reply.ok (s.ctxFree c.handle) (leBytes 8 x.finalPn)

/-- CTX_DESTROY (R243). -/
def execCtxDestroy (c : Cmd) (s : State) : Out :=
  .next (s.runCmd { code := 0x0603, tenant := true, inst := .either } c (fun _ s => ctxBody c false (ctxDestroyBody c) s))

/-- The operations of the unit, but for those done and those spilled, are abandoned by an alarm (R236). -/
def State.jobsAbandon (s : State) : State :=
  let keep (j : CipherJob) : Bool := j.inDram || j.place == .done
  let l := s.ciph.jobs.filter (fun j => !keep j)
  let s := { s with ciph.jobs := s.ciph.jobs.filter keep }
  let s := l.foldl (fun s j => (s.ciphCount 2).frameEnd j.frame (some (5, 3))) s
  (State.jobRelease (s.ciph.jobs.length + 1) s).destroyDone

/-! ### Switching tables (R211, R212) -/

/-- Entries of a table and octets of an entry. -/
def tableSize (t : Nat) : Nat := if t = 2 then 1024 else 4096
def tableEntry (t : Nat) : Nat := if t = 0 then 16 else if t = 1 then 256 else 64

/-- An entry of a table. -/
def Switching.entry (w : Switching) (t k : Nat) : Bytes :=
  if t = 0 then w.actions.getD k (zeros 16) else if t = 1 then w.templates.getD k (zeros 256) else w.groups.getD k (zeros 64)

/-- An entry of a table written. -/
def Switching.put (w : Switching) (t k : Nat) (b : Bytes) : Switching :=
  if t = 0 then { w with actions := w.actions.put k b }
  else if t = 1 then { w with templates := w.templates.put k b }
  else { w with groups := w.groups.put k b }

/-- A transfer ends with a result, and the flow event is raised (R212). -/
def State.tableEnd (s : State) (result done : Nat) : State :=
  (State.event { s with sw.busy := false, sw.result := result, sw.done := done } 14).pulse 52

/-- TABLE_TRANSFER_START (R212): FLOW_TBL_CTRL is written; with GO a transfer starts, or ends at once. With GO while BUSY the write
is ignored. -/
def execTableTransferStart (value : W32) (s : State) : Out :=
  .next (if s.sw.busy && s.inRun 5 && bit value.toNat 31 then s else s.inBlock 5 fun s =>
    let v := value.toNat
    let t := v % 4
    let first := bits v 15 4
    let n := bits v 28 16
    let s := { s with sw.table := t, sw.dir := bit v 2, sw.first := first, sw.count := n }
    if !bit v 31 then s
    else if t = 3 ∨ n = 0 ∨ 4096 < n ∨ tableSize t < first + n then s.tableEnd 1 0
    else
      { s with
        sw.busy := true, sw.done := 0
        sw.job := { addr := s.sw.tblAddr.toNat, table := t, dir := bit v 2, first := first, count := n } })

/-- Entries of a transfer from the host taken in index order, `n` of them. -/
def Switching.takeEntries (w : Switching) (b : Bytes) (n : Nat) : Switching :=
  let e := tableEntry w.job.table
  (List.range n).foldl (fun (w : Switching) (k : Nat) => w.put w.job.table (w.job.first + k) (slice b (k * e) e)) w

/-- TABLE_TRANSFER_DONE (R211, R212): the transfer ends, with what its reads of host memory brought back. Where a read failed, the
entries whose octets all came before it remain. -/
def execTableTransferDone (data : MoverRead) (s : State) : Out :=
  let j := s.sw.job
  let e := tableEntry j.table
  if !(s.sw.busy && s.inRun 5 && s.mayRead .pf0) then .next s
  else if j.dir then
    let b := (List.range j.count).flatMap (fun k => s.sw.entry j.table (j.first + k))
    .next ((s.post0 j.addr b).tableEnd 0 j.count)
  else if s.readHeld .pf0 then .next (s.readWait .pf0)
  else
    let data := s.effPart data
    let s := s.emitReads .pf0 none j.addr (j.count * e) ((s.freeTag .pf0).getD 0)
    match data.fail with
    | none => .next (({ s with sw := s.sw.takeEntries data.got j.count } : State).tableEnd 0 j.count)
    | some r =>
      let n := min j.count (data.got.length / e)
      let s := (s.readResult .pf0 (j.addr + data.got.length) r).2
      .next (({ s with sw := s.sw.takeEntries data.got n } : State).tableEnd 2 n)

/-! ### The exception ring and the loopback -/

/-- EXCEPTION_FRAME (R210): Helm passes the oldest frame of the queue to manager ring 12. -/
def execExceptionFrame (s : State) : Out :=
  if !s.helmRuns || s.hove then .next s
  else
    match s.sw.exc with
    | [] => .next s
    | e :: es =>
      let r := mgrBase + 12
      let f : RxFrame :=
        { body := e.body, src := e.src, srcInst := e.srcInst, stamp := e.stamp, csum := e.csum, flags := 0, placed := 0
          handle := 0, excReason := e.reason, excDest := e.dest, cells := 0, dramCells := false, share := 0 }
      let s := { s with sw.exc := es }
      if (s.ring r).state = .enabled then
        .next (s.setRing r { s.ring r with frames := (s.ring r).frames ++ [f] })
      else .next (s.actCount 7)

/-- A frame of the loopback port enters the pipeline again as a host frame (R195). -/
def State.loopback (s : State) (q : Queued) : State :=
  let f := q.frame
  let s := (s.leaveQueue q 4).frameEnd f none
  s.pipeline { body := f.body, srcPort := 4, srcInst := f.srcInst, sub := f.sub, looped := true } false

/-- Warm reset and FLR of PF 0 on the switching block (R210 to R213): a running transfer ends ABORTED. -/
def State.switchReset (s : State) : State :=
  let t : State := { s with sw := { tokensAt := s.now } }
  if s.sw.busy then t.tableEnd 3 0 else t

/-- D5 enters Run anew (R211). -/
def State.switchCold (s : State) : State := { s with sw := { tokensAt := s.now } }

end Sys2Proof.Machine
end

