-- ==== Sys2Proof/Machine/Ptp.lean ====
section
/-!
DEFINITION. Machine/Ptp.lean: the fields of a PTP message over Ethernet (IEEE 1588, PRESUMED, log entry 16), as chapters 02
and 03 read and write them.
-/

set_option Elab.async false
namespace Sys2Proof.Machine

open Sys2Proof

/-- Types of PTP message. -/
def ptpSync : Nat := 0
def ptpDelayReq : Nat := 1
def ptpPdelayReq : Nat := 2
def ptpPdelayResp : Nat := 3
def ptpFollowUp : Nat := 8
def ptpPdelayRespFu : Nat := 10
def ptpAnnounce : Nat := 11

/-- Where the PTP message of a frame begins, if the frame carries one. -/
def ptpOff (b : Bytes) : Option Nat :=
  let p := parse b
  if p.etype = etPtp then some (p.etOff + 2) else none

/-- Type, two-step flag, correction, source port identity and sequence number of a message at `o`. -/
def ptpType (b : Bytes) (o : Nat) : Nat := byteAt b o % 16
def ptpTwoStep (b : Bytes) (o : Nat) : Bool := bit (byteAt b (o + 6)) 1
def ptpCorr (b : Bytes) (o : Nat) : Int := (BitVec.ofNat 64 (beAt b (o + 8) 8)).toInt
def ptpSender (b : Bytes) (o : Nat) : Nat := beAt b (o + 20) 10
def ptpSeq (b : Bytes) (o : Nat) : Nat := beAt b (o + 30) 2
def ptpDomain (b : Bytes) (o : Nat) : Nat := byteAt b (o + 4)

/-- The ten octets of a timestamp, from ns of the time base, and the ns they say. -/
def ptpStampBytes (ns : Nat) : Bytes := beBytes 6 (ns / 1000000000) ++ beBytes 4 (ns % 1000000000)
def ptpStamp (b : Bytes) (o : Nat) : Nat := beAt b o 6 * 1000000000 + beAt b (o + 6) 4

/-- A correction added to a message, in 2^-16 ns. -/
def ptpAddCorr (b : Bytes) (o : Nat) (c : Int) : Bytes :=
  overlay b (o + 8) (beBytes 8 (BitVec.ofInt 64 (ptpCorr b o + c)).toNat)

/-- Time-base clocks in 2^-16 ns. -/
def ticksCorr (t : Nat) : Nat := t * 262144 / 5

/-- The peer-delay multicast address, which no bridge forwards, and the address of the other messages. -/
def ptpPeerMac : Nat := 0x0180C200000E
def ptpMac : Nat := 0x011B19000000

/-- A message of a type with its flags, correction, clock, port, sequence number, log interval and body. -/
def ptpMessage (dst src typ domain flags : Nat) (corr : Int) (sender seq logInt : Nat) (body : Bytes) : Bytes :=
  let ctl := if typ = 0 then 0 else if typ = 8 then 2 else 5
  let len := 34 + body.length
  let m := beBytes 6 dst ++ beBytes 6 src ++ beBytes 2 etPtp ++
    [BitVec.ofNat 8 typ, 2] ++ beBytes 2 len ++ [BitVec.ofNat 8 domain, 0] ++ beBytes 2 flags ++
    beBytes 8 (BitVec.ofInt 64 corr).toNat ++ zeros 4 ++ beBytes 10 sender ++ beBytes 2 seq ++
    [BitVec.ofNat 8 ctl, BitVec.ofNat 8 logInt] ++ body
  m ++ zeros (60 - m.length)

end Sys2Proof.Machine
end

