-- ==== Sys2Proof/Machine/Ports.lean ====
section
/-!
DEFINITION. Machine/Ports.lean: the MACs of the four ports (chapter 02): statistics, filters, pause, modules, reception into
the pipeline, and the start and end of a frame at a port.
-/

set_option Elab.async false
namespace Sys2Proof.Machine

open Sys2Proof

/-! ### Ports -/

/-- Ports C and D. -/
def isRing (p : Port) : Bool := p == .c || p == .d

/-- The other ring port. -/
def otherPort : Port → Port
  | .c => .d
  | .d => .c
  | .a => .b
  | .b => .a

/-- The domain of a port: D9, D10, or D1. -/
def portDomain : Port → Nat
  | .a => 9
  | .b => 10
  | .c => 1
  | .d => 1

/-- The port behaves as ports A and B do: A, B, and C and D in PLAIN mode (R37). -/
def State.plain (s : State) (p : Port) : Bool := !(isRing p) || s.ports.ring.mode == 3

/-- The adapter is open towards the pipeline: D5 in Run and not hove-to (R47). -/
def State.interlinkOpen (s : State) : Bool := s.inRun 5 && !s.hove

/-- BOARD_DELAY of a port, in ns (R67). -/
def State.boardDelay (s : State) (p : Port) : Nat := s.time.cfg.boardDelay.getD p.num 0

/-- The receive stamp of a frame whose first bit comes now (Table 3-1); none while D12 is not in Run. -/
def State.rxStamp (s : State) (p : Port) : Option (Nat × Nat) :=
  if s.inRun 12 then some (stampOf (s.tbNs - s.boardDelay p)) else none

/-! ### Statistics (R56, Table 2-4) -/

/-- Index of a size class, from 0 for 64 octets. -/
def sizeClass (n : Nat) : Nat :=
  if n ≤ 64 then 0 else if n ≤ 127 then 1 else if n ≤ 255 then 2 else if n ≤ 511 then 3 else if n ≤ 1023 then 4
  else if n ≤ 1518 then 5 else if n ≤ 4095 then 6 else 7

/-- Index of a destination kind: 0 unicast, 1 multicast, 2 broadcast. -/
def destKind (a : Nat) : Nat := if isBroadcast a then 2 else if isMulticast a then 1 else 0

/-- The counters of a good frame: received from 0, transmitted from 24. -/
def State.statGood (s : State) (p : Port) (b : Bytes) (tx : Bool) : State :=
  let n := b.length + 4
  let o := if tx then 24 else 0
  let s := ((s.stat p o 1).stat p (o + 1) n).stat p (o + 2 + destKind (beAt b 0 6)) 1
  let s := if (vlanTags b).isEmpty then s else s.stat p (if tx then 31 else 14) 1
  let s := s.stat p ((if tx then 32 else 16) + sizeClass n) 1
  if tx then s else s.stat p 15 n

/-- A received frame's verdict: length and errors (R30, Table 2-4). -/
def rxGood (b : Bytes) (i : RxInfo) : Bool :=
  decide (60 ≤ b.length) && decide (b.length ≤ 9212) && !i.badFcs && !i.codeErr

/-- The counters of a bad frame. A runt counts in RX_RUNT only. -/
def State.statBad (s : State) (p : Port) (b : Bytes) (i : RxInfo) : State :=
  let s := s.stat p 15 (b.length + 4)
  if b.length < 60 then s.stat p 7 1
  else
    let s := if 9212 < b.length then s.stat p 8 1 else s
    let s := if i.badFcs then s.stat p 6 1 else s
    if i.codeErr then s.stat p 9 1 else s

/-- The counters of preemption at reception; they stay zero while it is disabled (R57). -/
def State.statPmac (s : State) (p : Port) (i : RxInfo) : State :=
  if !(s.mac p).preemptEn then s
  else if i.pmac = 1 then s.stat p 40 1 else if i.pmac = 2 then s.stat p 41 1 else if i.pmac = 3 then s.stat p 42 1 else s

/-- RS-FEC codewords corrected and uncorrectable as a frame came in, on a port that runs RS-FEC (Table 2-4). -/
def State.statFec (s : State) (p : Port) (i : RxInfo) : State :=
  if (s.mac p).fec = 1 then (s.stat p 10 i.fecCorr).stat p 11 i.fecUncorr else s

/-! ### The perfect filter (R53) -/

/-- The destination matches a valid filter entry. -/
def Mac.filtered (m : Mac) (dst : Nat) : Bool := m.filt.any (fun f => f.2 && f.1 == dst)

/-- A frame is accepted on a port that behaves as A and B do. -/
def Mac.accepts (m : Mac) (dst : Nat) : Bool :=
  m.promisc || m.filtered dst || isBroadcast dst || (isMulticast dst && m.mcAll)

/-! ### Pause (R55) -/

/-- A pause frame: EtherType 0x8808, opcode 1. -/
def isPause (b : Bytes) : Bool := beAt b 12 2 == etPause && beAt b 14 2 == 1

/-- Rate of a code in Mb/s, 0 for none. -/
def portMbps (code : Nat) : Nat := if code = 1 then 100000 else if 2 ≤ code ∧ code ≤ 5 then rateMbps code else 0

/-- The port honours received pause. -/
def State.honoursPause (s : State) (p : Port) : Bool := (s.mac p).pauseRx && s.plain p

/-- Received pause holds the transmitter now. -/
def State.paused (s : State) (p : Port) : Bool := decide (s.now < (s.mac p).pauseUntil)

/-- A pause frame received: counted, discarded, and honoured when enabled. -/
def State.pauseRx (s : State) (p : Port) (quanta : Nat) : State :=
  let s := s.stat p 5 1
  let m := s.mac p
  if !s.honoursPause p then s
  else if m.ignoring then s.stat p 47 1
  else
    let rate := portMbps m.rate
    if rate = 0 then s
    else if quanta = 0 then s.setMac p { m with pauseUntil := s.now, pauseSince := none }
    else
      let since := match m.pauseSince with
        | some t => if s.now < m.pauseUntil then t else s.now
        | none => s.now
      s.setMac p { m with pauseUntil := s.now + quanta * 640000 / rate, pauseSince := some since }

/-- The port receives: its domain is in Run, it is enabled and its link is up. -/
def State.receives (s : State) (p : Port) : Bool := s.inRun (portDomain p) && (s.mac p).enable && (s.mac p).linkUp

/-- Loopback mode of a port: 0 off, 1 MAC, 2 PCS (R460). -/
def State.loopMode (s : State) (p : Port) : Nat :=
  match p with
  | .a => s.err.loopA
  | .b => s.err.loopB
  | _ => 0

/-- PAUSE_FRAME_RX (R55): a pause frame of 64 octets with its pause time. A looped port ignores its line (R460). -/
def execPauseFrameRx (port : Port) (quanta : BitVec 16) (s : State) : Out :=
  if !s.receives port || s.loopMode port != 0 then .next s
  else
    let b := beBytes 6 0x0180C2000001 ++ zeros 6 ++ beBytes 2 etPause ++ beBytes 2 1 ++ beBytes 2 quanta.toNat ++ zeros 42
    .next ((s.statGood port b false).pauseRx port quanta.toNat)

/-- PAUSE_WD_TRIP (R55). -/
def execPauseWdTrip (port : Port) (s : State) : Out :=
  let m := s.mac port
  match m.pauseSince with
  | some t =>
    if s.honoursPause port ∧ m.pauseLimit ≠ 0 ∧ s.paused port ∧ s.elapsed t (m.pauseLimit * msTicks) then
      let s := s.setMac port { m with ignoring := true, recoverAt := s.now, pauseUntil := s.now, pauseSince := none }
      .next ((s.stat port 46 1).event port.num)
    else .next s
  | none => .next s

/-- PAUSE_WD_RECOVER (R55). -/
def execPauseWdRecover (port : Port) (s : State) : Out :=
  let m := s.mac port
  if m.ignoring && s.elapsed m.recoverAt (m.pauseRecover * msTicks) then .next (s.setMac port { m with ignoring := false })
  else .next s

/-! ### Reception into the pipeline -/

/-- A PTP port receives PTP messages for the PTP instance (R72): A and B by PTP_A and PTP_B, C and D by PTP_RING in HSR
or PRP mode; not in hove-to (Table 18-8). -/
def State.ptpPort (s : State) (p : Port) : Bool :=
  s.inRun 12 && !s.hove && s.time.cfg.role != 0 &&
    (match p with
      | .a => s.time.cfg.ptpA
      | .b => s.time.cfg.ptpB
      | _ => s.time.cfg.ptpRing && s.ringTagged)

/-- A PTP message is kept for the PTP instance. -/
def State.ptpKeep (s : State) (p : Port) (b : Bytes) : State :=
  State.levelRise { s with time.rxq := s.time.rxq ++ [{ port := p, frame := b, ns := s.tbNs - s.boardDelay p }] } 51
    (!s.time.rxq.isEmpty) true

/-- A good frame goes from a port into the pipeline (R246). -/
def State.portPipeline (s : State) (p : Port) (b : Bytes) : State :=
  s.pipeline { body := b, srcPort := p.num, rxStamp := s.rxStamp p } false

/-- A good frame on a port that behaves as A and B do (R37, R47, R53, R72, Table 18-8). A PTP message at a PTP port is the
PTP instance's; it is bridged as well when TC_EN is set. -/
def State.plainRx (s : State) (p : Port) (b : Bytes) : State :=
  let ptp := (ptpOff b).isSome && s.ptpPort p
  let s := if ptp then s.ptpKeep p b else s
  if ptp && !s.time.cfg.tcEn then s
  else if !(s.mac p).accepts (beAt b 0 6) then s.stat p 12 1
  else if isRing p && !s.interlinkOpen then s.ilDrop p
  else if s.hove || !s.inRun 5 then s.stat p 13 1
  else s.portPipeline p b

/-- A frame on a port that behaves as A and B do. -/
def State.plainFrame (s : State) (p : Port) (b : Bytes) (i : RxInfo) : State :=
  let s := s.statPmac p i
  if 2 ≤ i.pmac then s
  else if !rxGood b i then s.statBad p b i
  else
    let s := s.statGood p b false
    if isPause b then s.pauseRx p (beAt b 16 2) else s.plainRx p b

/-- PORT_FRAME_RX (R53): on port A or B, or on a ring port in PLAIN mode; a looped port ignores its line (R460). -/
def execPortFrameRx (port : Port) (frame : Bytes) (info : RxInfo) (s : State) : Out :=
  if s.receives port && s.plain port && info.verify.isNone && s.loopMode port == 0 then
    .next ((s.statFec port info).plainFrame port frame info)
  else .next s

/-! ### The start of a frame -/

/-- Index of a ring port's windows and delays: port C, port D. -/
def winIdx (p : Port) : Nat := if p = Port.c then 0 else 1

/-- The mean of a port's valid link delays, in 2^-16 ns; 0 while none is valid (R70). -/
def RingDelay.mean (d : RingDelay) : Nat :=
  if !d.valid || d.meas.isEmpty then 0 else d.meas.foldl (· + ·) 0 / d.meas.length

/-- Link delay of a PTP port, in 2^-16 ns (R70, R72). -/
def State.ptpLinkDelay (s : State) (p : Port) : Nat :=
  if isRing p then (s.ports.ring.delay.getD (winIdx p) {}).mean else (s.time.ports.getD p.num {}).linkDelay

/-- A pending entry is of the message with sender `a` and sequence number `q`. -/
def TcPending.of (e : TcPending) (a q : Nat) : Bool := e.sender == a && e.seq == q

/-- A pending entry is live: it is younger than 100 ms (R69). -/
def State.tcLive (s : State) (e : TcPending) : Bool := !s.elapsed e.since (100 * msTicks)

/-- An entry put among an egress port's 32 pending ones; when all are live the oldest is overwritten (R69). -/
def State.tcPut (s : State) (l : List TcPending) (e : TcPending) : List TcPending :=
  let l := l.filter (fun x => s.tcLive x && !x.of e.sender e.seq)
  (if 32 ≤ l.length then l.drop 1 else l) ++ [e]

/-- The live entry that a Follow_Up matches. -/
def State.tcFind (s : State) (l : List TcPending) (a q : Nat) : Option TcPending := l.find? (fun e => s.tcLive e && e.of a q)

/-- Corrections of the ring plane at an egress port (R68 to R70), for a message that came in at ring count `t`. -/
def State.ringCorrect (s : State) (p : Port) (b : Bytes) (t linkDelay : Nat) : Bytes × State :=
  match ptpOff b with
  | none => (b, s)
  | some o =>
    let i := winIdx p
    let res : Int := ticksCorr (s.now - t)
    let d := s.ports.ring.delay.getD i {}
    let ty := ptpType b o
    if ty = ptpSync ∧ ptpTwoStep b o then
      let e : TcPending := { sender := ptpSender b o, seq := ptpSeq b o, corr := res + linkDelay, since := s.now }
      (b, { s with ports.ring.delay := s.ports.ring.delay.set i { d with pending := s.tcPut d.pending e } })
    else if ty = ptpSync then (ptpAddCorr b o (res + linkDelay), s)
    else if ty = ptpDelayReq then (ptpAddCorr b o res, s)
    else if ty = ptpFollowUp then
      match s.tcFind d.pending (ptpSender b o) (ptpSeq b o) with
      | some e => (ptpAddCorr b o e.corr, s)
      | none => (b, { s with ports.ring.unmatched := s.ports.ring.unmatched + 1 })
    else (b, s)

/-- Corrections of the transparent clock for a message that the pipeline bridges (R72). -/
def State.tcCorrect (s : State) (p : Port) (b : Bytes) (timeIn linkDelay : Nat) : Bytes × State :=
  match ptpOff b with
  | none => (b, s)
  | some o =>
    let x := s.time.ports.getD p.num {}
    let res : Int := (((s.tbNs + s.boardDelay p : Nat) : Int) - timeIn) * 65536
    let ty := ptpType b o
    if ty = ptpSync ∧ ptpTwoStep b o then
      let e : TcPending := { sender := ptpSender b o, seq := ptpSeq b o, corr := res + linkDelay, since := s.now }
      (b, { s with time.ports := s.time.ports.set p.num { x with pending := s.tcPut x.pending e } })
    else if ty = ptpSync then (ptpAddCorr b o (res + linkDelay), s)
    else if ty = ptpDelayReq then (ptpAddCorr b o res, s)
    else if ty = ptpFollowUp then
      match s.tcFind x.pending (ptpSender b o) (ptpSeq b o) with
      | some e => (ptpAddCorr b o e.corr, s)
      | none => (b, s)
    else (b, s)

/-- The adapter's serial number is its clockIdentity; the port numbers are 1 to 4 (R70). -/
def portIdentity (p : Port) : Nat := Config.serial.toNat * 65536 + p.num + 1

/-! ### Tags and trailers of the ring (R34 to R36) -/

/-- Where an HSR tag stands or is put: after the addresses and every VLAN tag. -/
def hsrOff (b : Bytes) : Nat := 12 + 4 * (vlanTags b).length

/-- An HSR tag with path 0 put in. -/
def hsrInsert (b : Bytes) (q : BitVec 16) : Bytes :=
  let o := hsrOff b
  b.take o ++ beBytes 2 etHsr ++ beBytes 2 ((b.length + 6 - (o + 2)) % 4096) ++ beBytes 2 q.toNat ++ b.drop o

/-- A PRP trailer of a LAN appended, after padding. -/
def prpAppend (b : Bytes) (q : BitVec 16) (lan : Nat) : Bytes :=
  let b := b ++ zeros (54 - b.length)
  b ++ beBytes 2 q.toNat ++ beBytes 2 (lan * 4096 + (b.length + 6 - 12) % 4096) ++ beBytes 2 0x88FB

/-- LanId of a port. -/
def lanOf (p : Port) : Nat := if p = Port.c then 0xA else 0xB

/-- Most proxy entries, and most counters by destination. -/
def proxyMax : Nat := 1024

/-- The next sequence number for a destination address (R36); true when the shared counter had to serve. -/
def State.ringNextSeq (s : State) (dst : Nat) : BitVec 16 × Bool × State :=
  let r := s.ports.ring
  if r.mode = 1 then (r.hsrSeq, false, { s with ports.ring.hsrSeq := r.hsrSeq + 1 })
  else
    match r.prpSeq.find dst with
    | some (n, _) => (n, false, { s with ports.ring.prpSeq := r.prpSeq.put dst (n + 1, s.now) })
    | none =>
      if proxyMax ≤ r.prpSeq.length then (r.sharedSeq, true, { s with ports.ring.sharedSeq := r.sharedSeq + 1 })
      else (0, false, { s with ports.ring.prpSeq := r.prpSeq.put dst (1, s.now) })

/-- A frame that a port sends drew from the shared counter (R36). -/
def State.sharedCount (s : State) (p : Port) (shared : Bool) : State := if shared then s.stat p 61 1 else s

/-- A frame as it leaves a port in the present mode. -/
def State.ringTag (s : State) (p : Port) (b : Bytes) (q : BitVec 16) : Bytes :=
  if s.ports.ring.mode = 1 then hsrInsert b q else prpAppend b q (lanOf p)

/-- What the first bit of the adapter's own PTP frames does at a port (R70, R72, Table 3-1): the stamp of a request, the
turnaround of a response, the time of a Sync or its Follow_Up. Peer delay runs on the ring residence counter on ports C and D, and
on the time base, with BOARD_DELAY, on A and B. -/
def State.ptpEgress (s : State) (p : Port) (f : PortFrame) : PortFrame × State :=
  match ptpOff f.body with
  | none => (f, s)
  | some o =>
    let ty := ptpType f.body o
    let ns := s.tbNs + s.boardDelay p
    if ty = ptpPdelayReq then
      if isRing p then
        (f, { s with ports.ring.delay := s.ports.ring.delay.modify (winIdx p) (fun d => { d with t1 := some s.now, t4 := none }) })
      else (f, { s with time.ports := s.time.ports.modify p.num (fun x => { x with pdT1 := some ns, pdResp := none }) })
    else if ty = ptpPdelayResp then
      match f.pdIn with
      | some t => ({ f with body := ptpAddCorr f.body o (if isRing p then ticksCorr (s.now - t) else ((ns : Int) - t) * 65536) }, s)
      | none => (f, s)
    else if ty = ptpSync then
      if ptpTwoStep f.body o then
        let fu := ptpMessage ptpMac (beAt f.body 6 6) ptpFollowUp (ptpDomain f.body o) 0 0 (ptpSender f.body o) (ptpSeq f.body o)
          (byteAt f.body (o + 33)) (ptpStampBytes ns)
        let (fu, s) :=
          if isRing p && s.ringTagged then
            let q := s.ringNextSeq ptpMac
            (q.2.2.ringTag p fu q.1, q.2.2.sharedCount p q.2.1)
          else (fu, s)
        let m := s.mac p
        (f, s.setMac p { m with express := { body := fu, kind := .express, own := true } :: m.express })
      else ({ f with body := overlay f.body (o + 34) (ptpStampBytes ns) }, s)
    else (f, s)

/-- Every frame that stands at a port. -/
def Mac.frames (m : Mac) : List PortFrame :=
  (m.tx.map (·.f)).toList ++ (m.held.map (·.f)).toList ++ m.express ++ m.forwarded ++ m.host

/-- Every frame that stands at a port of the adapter. -/
def State.portFrames (s : State) : List PortFrame := s.ports.a.frames ++ s.ports.b.frames ++ s.ports.c.frames ++ s.ports.d.frames

/-- The first bit of a reflex publication leaves a port (R24, R135, R142): the time since its write, and whether the
publication is late; a publication counts as late once, whatever port it was late on. -/
def State.reflexStart (s : State) (p : Port) (f : PortFrame) : State :=
  match f.reflex with
  | none => s
  | some x =>
    let seen := s.reflex.lateIds.contains f.id
    let mark (s : State) : State :=
      { s with reflex.lateIds := (s.reflex.lateIds.filter (fun k => s.portFrames.any (fun g => g.id == k))) ++ [f.id] }
    match x.since, x.due with
    | some since, _ =>
      let dt := s.now - since
      let bound := if (s.mac p).rate = 5 ∨ (s.mac p).rate = 2 then 6250 else 5000
      let ns := dt * 4 / 5
      let s := { s with reflex.max := if s.reflex.max.toNat < ns then BitVec.ofNat 32 (min ns (2 ^ 32 - 1)) else s.reflex.max }
      if bound < dt ∧ !seen then mark { s with reflex.late := s.reflex.late + 1 } else s
    | none, some due => if due + 20000 < s.tbNs ∧ !seen then mark { s with reflex.cnt := s.reflex.cnt.inc 7 } else s
    | none, none => s

/-- A frame starts at a port that sends nothing: its first bit leaves now. A host frame longer than MAC_TX_START starts before all of it
is in the transmit buffer (R54). -/
def State.portStart (s : State) (p : Port) (f : PortFrame) : State :=
  let (f, s) := if f.own then s.ptpEgress p f else (f, s)
  let (b, s) := match f.ringIn with
    | some t => s.ringCorrect p f.body t f.linkDelay
    | none => (f.body, s)
  let (b, s) := match f.timeIn with
    | some t => s.tcCorrect p b t f.linkDelay
    | none => (b, s)
  let f := { f with body := b }
  let s := s.reflexStart p f
  let s := match f.origin with
    | some (q, _) => s.stampTx q.frame (s.boardDelay p)
    | none => s
  s.setMac p { s.mac p with
    tx := some { f := f, loop := s.loopMode p, early := f.origin.isSome && decide ((s.mac p).txStart < f.body.length + 4) } }

/-- A pipeline frame as it stands at a port: padded to 60 octets (R325), with what a transparent clock needs (R72). -/
def State.portFrameOf (s : State) (q : Queued) (qno : Nat) : PortFrame :=
  let b := q.frame.body
  let b := b ++ zeros (60 - b.length)
  let bridged := s.inRun 12 && s.time.cfg.tcEn && decide (q.frame.srcPort < 4)
  { body := b, kind := .host, origin := some (q, qno)
    timeIn := if bridged then q.frame.rxStamp.map (fun t =>
      let now := s.tbNs
      let back := ((now / 1000000000) % 2 ^ 32 + 2 ^ 32 - t.2) % 2 ^ 32
      (now / 1000000000 - back) * 1000000000 + t.1) else none
    linkDelay := if bridged then s.ptpLinkDelay (Port.ofNum q.frame.srcPort) else 0 }

/-! ### The end of a frame (R255, R328) -/

/-- The other copy of a ring frame still stands at the other port. -/
def State.sibling (s : State) (p : Port) (id : Nat) : Bool := id != 0 && (s.mac (otherPort p)).frames.any (fun f => f.id == id)

/-- A pipeline frame's last copy has left its port or ended by a failure: its cells return, its descriptor hears. -/
def State.originEnd (s : State) (p : Port) (f : PortFrame) (fail : Option (Nat × Nat)) : State :=
  match f.origin with
  | none => s
  | some (q, qno) =>
    if s.sibling p f.id then
      match fail with
      | some e => s.descNote q.frame (fun d => { d with failure := d.failure <|> some e })
      | none => s
    else (s.leaveQueue q (qno % 8)).frameEnd q.frame fail

/-- A supervision frame (R46): its destination is 01-15-4E-00-01-xx. -/
def isSupervision (b : Bytes) : Bool := beAt b 0 5 == 0x01154E0001

/-- The last bit of the frame in transmission leaves a port: what its surroundings see, its counters, and its end. A frame that
started under loopback returns to the port's receive path instead of leaving (R460). -/
def State.txEnd (s : State) (p : Port) (bad : Bool) (fail : Option (Nat × Nat)) : State :=
  match (s.mac p).tx with
  | none => s
  | some t =>
    let f := t.f
    let bad := bad || f.stomp
    let s := s.setMac p { s.mac p with tx := none }
    let s := if t.loop = 0 then s.emit (.frame p f.body bad) else s
    let s := if bad then s.stat p 30 1 else s.statGood p f.body true
    let s := if isRing p && f.own && isSupervision f.body && !bad then s.stat p 59 1 else s
    let s := s.originEnd p f fail
    if t.loop = 0 then s else s.plainFrame p f.body { badFcs := bad, codeErr := false, pmac := 0, verify := none }

/-- PORT_FRAME_TX_END (R255, R328). -/
def execPortFrameTxEnd (port : Port) (s : State) : Out := .next (s.txEnd port false none)

/-- TX_UNDERRUN (R54): a host frame that started before all of it was in the transmit buffer ends with a bad FCS, and the start
threshold rises. -/
def execTxUnderrun (port : Port) (s : State) : Out :=
  let m := s.mac port
  match m.tx with
  | some t =>
    if t.early then
      let s := (s.setMac port { m with txStart := min 9216 (m.txStart + 256) }).stat port 29 1
      .next (s.txEnd port true (some (2, 0)))
    else .next s
  | none => .next s

/-! ### Host writes (R53, R56, R59, R64) -/

/-- RATE and FEC are listed together for ports A and B (Table 2-1), or are their Cold value. -/
def rateListed (rate fec : Nat) : Bool := (rate == 1 && fec == 1) || (rate == 2 && fec == 0) || (rate == 0 && fec == 0)

/-- The link of a port changes: LINK_CHANGE and the link event. -/
def State.linkChanged (s : State) (p : Port) (m : Mac) : State :=
  if (s.mac p).linkUp = m.linkUp then s.setMac p m
  else (s.setMac p { m with linkChange := true }).event (8 + p.num)

/-- A port whose link is down, or whose rate and FEC change. -/
def Mac.down (m : Mac) : Mac :=
  { m with linkUp := false, lock := false, fecLock := false, rateActive := 0, preempt := 0, verifyTries := 0 }

/-- MAC_CTRL_WRITE (R64): on ports C and D only PROMISC, MC_ALL and PAUSE_RX are the host's. -/
def execMacCtrlWrite (port : Port) (value : W32) (s : State) : Out :=
  .next (s.inBlock (portDomain port) fun s =>
    let v := value.toNat
    let m := s.mac port
    let rx (m : Mac) : Mac := { m with promisc := bit v 6, mcAll := bit v 7, pauseRx := bit v 8 }
    if isRing port then s.setMac port (rx m)
    else
      let rate := bits v 3 1
      let fec := bits v 5 4
      if !rateListed rate fec then s.setMac port { m with cfgReject := true }
      else
        let n := { rx m with enable := bit v 0, rate := rate, fec := fec }
        if rate = m.rate ∧ fec = m.fec ∧ bit v 0 then s.setMac port n else s.linkChanged port n.down)

/-- MAC_FILT_COMMIT (R53): MAC_FILT_HI[n] commits entry n with the present MAC_FILT_LO[n]. -/
def execMacFiltCommit (port : Port) (n : Nat) (value : W32) (s : State) : Out :=
  .next (if 16 ≤ n then s else s.inBlock (portDomain port) fun s =>
    let m := s.mac port
    let v := value.toNat
    let addr := v % 65536 * 2 ^ 32 + (m.filtLo.getD n 0).toNat
    s.setMac port { m with
      filtHi := m.filtHi.set n (BitVec.ofNat 32 (v % 65536 + b2n (bit v 31) * 2 ^ 31)), filt := m.filt.set n (addr, bit v 31) })

/-- MAC_STAT_CLEAR (R56). -/
def execMacStatClear (port : Port) (value : W32) (s : State) : Out :=
  .next (s.inBlock (portDomain port) fun s =>
    let v := value.toNat
    let m := { s.mac port with clrIndex := v % 64, clrAll := bit v 6 }
    if !bit v 31 then s.setMac port m
    else if m.clrAll then s.setMac port { m with stat := List.replicate 64 0, half := 0, wrap := 0 }
    else
      let k := m.clrIndex
      let keep : W64 := ~~~((1 : W64) <<< k)
      s.setMac port { m with stat := m.stat.set k 0, half := m.half &&& keep, wrap := m.wrap &&& keep })

/-- A module transaction ends, and the module event is sent (R59). -/
def State.modEnd (s : State) (p : Port) (m : Mac) : State := (s.setMac p { m with modBusy := false }).event (4 + p.num)

/-- MOD_TRANSACTION_START (R59): MAC_MOD_CMD is written; ignored while BUSY. -/
def execModTransactionStart (port : Port) (value : W32) (s : State) : Out :=
  .next (s.inBlock (portDomain port) fun s =>
    let m := s.mac port
    let v := value.toNat
    let n := { m with
      modDev := v % 128, modWrite := bit v 7, modOffset := bits v 15 8, modLen := bits v 23 16, modFast := bit v 25 }
    if m.modBusy then s
    else if !bit v 24 then s.setMac port n
    else if n.modLen = 0 ∨ 128 < n.modLen then s.modEnd port { n with modResult := 3, modDone := 0 }
    else
      let m := n
      (s.setMac port { m with modBusy := true, modDone := 0 }).emit
        (.twoWire port m.modDev m.modOffset m.modLen (if m.modWrite then some (m.modBuf.take m.modLen) else none)))

/-- MOD_TRANSACTION_DONE (R59). -/
def execModTransactionDone (port : Port) (result n : Nat) (data : Bytes) (s : State) : Out :=
  let m := s.mac port
  if !m.modBusy || decide (2 < result) then .next s
  else
    let n := if result = 0 then m.modLen else min n m.modLen
    let buf := if m.modWrite then m.modBuf else overlay m.modBuf 0 (slice data 0 n)
    .next (s.modEnd port { m with modResult := result, modDone := n, modBuf := buf })

/-- MODULE_PIN_CHANGE (R58): SFP transmit fault is an input of ports C and D only. -/
def execModulePinChange (port : Port) (present intLos fault : Bool) (s : State) : Out :=
  if !s.inRun (portDomain port) then .next s
  else
    let m := s.mac port
    .next (s.setMac port { m with present := present, intLos := intLos, resetFault := if isRing port then fault else m.resetFault })

/-- Warm reset of a port A or B (R63): its registers take their Warm values, its frames are gone. MAC_MOD_BUF and the pins PRESENT and
INT_LOS, whose Warm value is U, keep what they hold (the model's choice, log entry 125). -/
def State.macReset (s : State) (p : Port) : State :=
  let m := s.mac p
  s.setMac p { present := m.present, intLos := m.intLos, modBuf := m.modBuf }

end Sys2Proof.Machine
end

