-- ==== Sys2Proof/Machine/Ring.lean ====
section
/-!
DEFINITION. Machine/Ring.lean: the ring plane of ports C and D (chapters 02 and 03): detection, the node table, forwarding,
the interlink, supervision, preemption, peer delay and RING_CONFIG.
-/

set_option Elab.async false
namespace Sys2Proof.Machine

open Sys2Proof

/-! ### Addresses and modes -/

/-- A live proxy entry. -/
def RingPlane.proxy (r : RingPlane) (a : Nat) : Bool := r.redbox && r.proxies.has a

/-- The node MAC address, or a live proxy entry; AUTO has no address of its own (R32). -/
def RingPlane.ours (r : RingPlane) (a : Nat) : Bool := r.mode != 0 && ((a == r.nodeMac && a != 0) || r.proxy a)

/-- The address rule for delivery to the interlink (R32, R34, R35). -/
def State.ringAddressed (s : State) (p : Port) (dst : Nat) : Bool :=
  isBroadcast dst || isMulticast dst || s.ports.ring.ours dst || (s.mac p).filtered dst

/-- Speed of a rate code of ports C and D. -/
def ringSpeed (code : Nat) : Nat := if code = 3 then 25 else if code = 4 then 10 else if code = 5 then 1 else 0

/-! ### Detection in AUTO (R31) and links -/

/-- Rate, FEC and auto-negotiation of a receive attempt. -/
def attemptOf (k : Nat) : Nat × Nat × Bool :=
  if k = 0 then (3, 1, false) else if k = 1 then (3, 0, false) else if k = 2 then (4, 0, false) else (5, 0, true)

/-- RING_AUTO_ATTEMPT_EXPIRY (R31): the attempt of 2 ms ends without lock. -/
def execRingAutoAttemptExpiry (port : Port) (s : State) : Out :=
  let m := s.mac port
  if isRing port && s.inRun 1 && s.ports.ring.mode == 0 && !m.lock && m.lockLostAt.isNone && s.elapsed m.attemptAt (2 * msTicks) then
    .next (s.setMac port { m with attempt := (m.attempt + 1) % 4, attemptAt := s.now })
  else .next s

/-- RING_LOCK_LOSS_TIMEOUT (R31): after 10 ms without lock the detection cycle resumes. That it does so at its first attempt, and
that RATE and FEC read 0 until the port locks, is the model's choice (log entry 121). -/
def execRingLockLossTimeout (port : Port) (s : State) : Out :=
  let m := s.mac port
  match m.lockLostAt with
  | some t =>
    if isRing port && s.inRun 1 && s.ports.ring.mode == 0 && s.elapsed t (10 * msTicks) then
      .next (s.setMac port { m with lockLostAt := none, attempt := 0, attemptAt := s.now, rate := 0, fec := 0 })
    else .next s
  | none => .next s

/-- Preemption begins on a port whose link comes up (R51); in AUTO no port has it enabled (R62). -/
def State.preemptStart (s : State) (p : Port) : State :=
  let m := s.mac p
  if m.preemptEn then
    s.setMac p { m with preempt := if m.verifyDisable then 2 else 1, verifyTries := 0, verifyAt := s.now }
  else s.setMac p { m with preempt := 0 }

/-- Ports C and D have both lost signal now, or one of them detects signal (the LINK vote on D1, Table 17-3). -/
def State.noteSignal (s : State) (p : Port) : State :=
  if !isRing p then s
  else { s with power.signalLostAt := if s.ports.c.lock || s.ports.d.lock then none else some s.now }

/-- PORT_LINK_CHANGE (R31, R64): the receiver locks at the port's rate, or in AUTO at that of its attempt; or it loses
lock. -/
def execPortLinkChange (port : Port) (up : Bool) (s : State) : Out :=
  let m := s.mac port
  if !s.inRun (portDomain port) || !m.enable then .next s
  else if up then
    let m := if isRing port && s.ports.ring.mode == 0 && m.lockLostAt.isNone && !m.lock then
        let a := attemptOf m.attempt
        { m with rate := a.1, fec := a.2.1, an := a.2.2 }
      else m
    if m.rate = 0 then .next s
    else
      let m := { m with linkUp := true, lock := true, fecLock := m.fec == 1, rateActive := m.rate, lockLostAt := none }
      let s := (s.linkChanged port m).noteSignal port
      .next (if isRing port then s.preemptStart port else s)
  else if !m.lock then .next s
  else .next ((s.linkChanged port { m.down with lockLostAt := if isRing port then some s.now else none }).noteSignal port)

/-! ### The node table (R38 to R41) -/

/-- One window's decision: whether the frame passes, whether it was out of window, and the entry after it. -/
def NodeEntry.decide_ (e : NodeEntry) (x : Nat) (q : BitVec 16) : Bool × Bool × NodeEntry :=
  let h := e.high.getD x 0
  let m := e.map.getD x 0
  let ahead := (q - h).toNat
  let behind := (h - q).toNat
  if 1 ≤ ahead ∧ ahead ≤ 32767 then
    (true, false, { e with high := e.high.set x q, map := e.map.set x (if 64 ≤ ahead then 1 else (m <<< ahead) ||| 1) })
  else if behind ≤ 63 then
    if m.getLsbD behind then (false, false, e) else (true, false, { e with map := e.map.set x (m ||| ((1 : W64) <<< behind)) })
  else (true, true, e)

/-- Most entries of the node table. -/
def nodeMax : Nat := 4096

/-- R38 for a frame of source `a` and sequence number `q` received on `p`, with the destinations it would reach: those it
passes to. -/
def State.nodeDecide (s : State) (p : Port) (a : Nat) (q : BitVec 16) (xs : List Nat) : List Nat × State :=
  let set (e : NodeEntry) (s : State) : State := { s with ports.ring.nodes := s.ports.ring.nodes.put a e }
  match s.ports.ring.nodes.find a with
  | none =>
    if nodeMax ≤ s.ports.ring.nodes.length then (xs, s.stat p 61 1)
    else
      (xs, set { last := s.now, high := [q, q, q], map := (List.range 3).map (fun y => if xs.contains y then 1 else 0) } s)
  | some e =>
    let r := xs.foldl (fun (r : List Nat × NodeEntry × State) (x : Nat) =>
      let d := r.2.1.decide_ x q
      let s := r.2.2
      let s := if d.2.1 then s.stat p 60 1 else s
      let s := if d.1 then s else s.stat p (if x = 2 then 50 else 63) 1
      (if d.1 then r.1 ++ [x] else r.1, d.2.2, s)) ([], { e with last := s.now }, s)
    (r.1, set r.2.1 r.2.2)

/-- NODE_ENTRY_FORGET (R40). -/
def execNodeEntryForget (addr : Nat) (s : State) : Out :=
  match s.ports.ring.nodes.find addr with
  | some e =>
    if s.inRun 1 && s.elapsed e.last (s.ports.ring.forgetMs * msTicks) then
      .next { s with ports.ring.nodes := s.ports.ring.nodes.drop1 addr }
    else .next s
  | none => .next s

/-! ### Tags and trailers (R486) -/

/-- The HSR tag taken out; its sequence number. -/
def hsrRemove (b : Bytes) : Bytes := b.take (hsrOff b) ++ b.drop (hsrOff b + 6)
def hsrSeq (b : Bytes) : BitVec 16 := BitVec.ofNat 16 (beAt b (hsrOff b + 4) 2)

/-- A frame's PRP trailer if it is valid: sequence number and LanId. -/
def prpTrailer (b : Bytes) : Option (BitVec 16 × Nat) :=
  let n := b.length
  let w := beAt b (n - 4) 2
  if 18 ≤ n ∧ beAt b (n - 2) 2 = 0x88FB ∧ (w / 4096 = 0xA ∨ w / 4096 = 0xB) ∧ w % 4096 = (n - 12) % 4096 then
    some (BitVec.ofNat 16 (beAt b (n - 6) 2), w / 4096)
  else none

/-! ### Forwarding (R42 to R46) -/

/-- A forwarded frame is express (R46). -/
def RingPlane.express (r : RingPlane) (b : Bytes) : Bool :=
  let et := (parse b).etype
  let vl := vlanTags b
  et == etPtp || isSupervision b || (r.goose && et == etGoose) || (r.sv && et == etSv) ||
    (r.pcpEn && (match vl with | (_, tci) :: _ => decide (r.pcpMin ≤ tci / 8192) | [] => false))

/-- Octets of the forwarding buffer in use (R45): those of the preemptible frames that wait, with their FCS; the frame in
transmission is left out (the model's choice, log entry 122). -/
def Mac.forwardOctets (m : Mac) : Nat := m.forwarded.foldl (fun (a : Nat) (f : PortFrame) => a + f.body.length + 4) 0

/-- A frame received on `p` is forwarded to the other port (R34, R42, R44, R45). -/
def State.ringForward (s : State) (p : Port) (b : Bytes) (stored stomp : Bool) : State :=
  let o := otherPort p
  let m := s.mac o
  if !m.linkUp then s
  else
    let f : PortFrame :=
      { body := b, kind := .forwarded, ringIn := some s.now, linkDelay := (s.ports.ring.delay.getD (winIdx p) {}).mean, stomp := stomp }
    let s := if stored then s.stat p 53 1 else s
    let sent (s : State) : State :=
      let s := (s.stat p 51 1).stat p 52 (b.length + 4)
      if stomp then s.stat p 54 1 else s
    if s.ports.ring.express b then sent (s.setMac o { m with express := m.express ++ [{ f with kind := .express }] })
    else if 262144 < m.forwardOctets + b.length + 4 then s.stat p 55 1
    else sent (s.setMac o { m with forwarded := m.forwarded ++ [f] })

/-- A frame is delivered to the interlink, or dropped there (R47); a PTP message at a PTP port is the PTP instance's. -/
def State.ringDeliver (s : State) (p : Port) (b : Bytes) : State :=
  if !s.interlinkOpen then s.ilDrop p else s.portPipeline p b

/-- A frame is its own, under the rule of HSR mode (R34). -/
def State.ringOwn (s : State) (b : Bytes) : Bool := s.ports.ring.mode == 1 && s.ports.ring.ours (beAt b 6 6)

/-- Destinations of a received frame (R34, R35, R38): the other port for an HSR-tagged frame in AUTO and HSR mode, the
interlink by the address rule. -/
def State.ringDests (s : State) (p : Port) (b : Bytes) : List Nat :=
  let dst := beAt b 0 6
  let fwd := decide (s.ports.ring.mode ≤ 1) && hsrTagged b && !s.ports.ring.ours dst
  (if fwd then [winIdx (otherPort p)] else []) ++ (if s.ringAddressed p dst then [2] else [])

/-- The sequence number a frame carries in the present mode, with the frame as it is delivered: AUTO takes a tag or a
trailer, HSR a tag, PRP a trailer. -/
def State.ringSeq (s : State) (b : Bytes) : Option (BitVec 16) × Bytes :=
  let mode := s.ports.ring.mode
  if mode ≤ 1 ∧ hsrTagged b then (some (hsrSeq b), hsrRemove b)
  else if mode = 0 ∨ mode = 2 then
    match prpTrailer b with
    | some (q, _) => if hsrTagged b then (none, b) else (some q, b.take (b.length - 6))
    | none => (none, b)
  else (none, b)

/-- A ring frame cuts through: its egress rate is not above its ingress rate, and it was not reassembled (R42). -/
def State.cutsThrough (s : State) (p : Port) (i : RxInfo) : Bool :=
  i.pmac == 0 && decide (ringSpeed (s.mac (otherPort p)).rate ≤ ringSpeed (s.mac p).rate)

/-- What the ring plane notes of a good frame beside its way: tags, trailers, supervision (R48, R50, Table 2-4). -/
def State.ringNote (s : State) (p : Port) (b : Bytes) : State :=
  let s := if hsrTagged b then s.stat p 48 1 else s
  let s := match prpTrailer b with
    | some (_, lan) =>
      let s := s.stat p 49 1
      if s.ports.ring.mode = 2 ∧ lan ≠ lanOf p then s.stat p 57 1 else s
    | none => s
  if isSupervision b then
    let s := s.stat p 58 1
    if s.ringOwn b then s.setMac p { s.mac p with ownAt := some s.now } else s
  else s

/-! ### Peer delay of the ring plane (R70) -/

/-- The ring plane runs peer delay. -/
def State.pdelayActive (s : State) : Bool := s.inRun 1 && s.ringTagged && s.ports.ring.nodeMac != 0

/-- A peer-delay record changed. -/
def State.updDelay (s : State) (p : Port) (f : RingDelay → RingDelay) : State :=
  { s with ports.ring.delay := s.ports.ring.delay.modify (winIdx p) f }

/-- A valid measurement, in 2^-16 ns; a negative one is none, and its request stays without a valid response (R70). -/
def RingDelay.take (d : RingDelay) (v : Int) : RingDelay :=
  if v < 0 then { d with t4 := none }
  else { d with t1 := none, t4 := none, misses := 0, valid := true, meas := (d.meas ++ [v.toNat]).drop (d.meas.length + 1 - 8) }

/-- An own frame waits at a port as express (R46). -/
def State.sendExpress (s : State) (p : Port) (f : PortFrame) : State :=
  let m := s.mac p
  s.setMac p { m with express := m.express ++ [{ f with kind := .express, own := true }] }

/-- A Pdelay_Resp to a request that came on `p` at `at_`, from source address `src`. -/
def State.answerPdelay (s : State) (p : Port) (at_ src : Nat) (b : Bytes) (o : Nat) : State :=
  let body := ptpMessage ptpPeerMac src ptpPdelayResp (ptpDomain b o) 0 (ptpCorr b o) (portIdentity p) (ptpSeq b o) 0x7F
    (zeros 10 ++ beBytes 10 (ptpSender b o))
  s.sendExpress p { body := body, kind := .express, pdIn := some at_ }

/-- A peer-delay message received on a ring port (R70). -/
def State.pdelayRx (s : State) (p : Port) (b : Bytes) (o : Nat) : State :=
  let ty := ptpType b o
  let d := s.ports.ring.delay.getD (winIdx p) {}
  let mine := beAt b (o + 44) 10 == portIdentity p && ptpSeq b o == d.seq
  if ty = ptpPdelayReq then s.answerPdelay p s.now s.ports.ring.nodeMac b o
  else if ty = ptpPdelayResp ∧ mine then
    match d.t1 with
    | none => s
    | some t1 =>
      if ptpTwoStep b o then
        s.updDelay p (fun d => { d with t4 := some (s.now, ptpCorr b o - (ptpStamp b (o + 34) : Int) * 65536) })
      else s.updDelay p (fun d => d.take (((ticksCorr (s.now - t1) : Int) - ptpCorr b o) / 2))
  else if ty = ptpPdelayRespFu ∧ mine then
    match d.t1, d.t4 with
    | some t1, some (t4, acc) =>
      s.updDelay p (fun d => d.take (((ticksCorr (t4 - t1) : Int) - acc - (ptpStamp b (o + 34) : Int) * 65536 - ptpCorr b o) / 2))
    | _, _ => s
  else s

/-- RING_PDELAY_TX (R70): once a second a request leaves on each ring port with link; three requests without a valid
response end the link delay's validity. -/
def execRingPdelayTx (s : State) : Out :=
  if !(s.pdelayActive && (s.ports.ring.pdelayAt == 0 || s.elapsed s.ports.ring.pdelayAt secTicks)) then .next s
  else
    let one (s : State) (p : Port) : State :=
      if !(s.mac p).linkUp then s
      else
        let s := s.updDelay p (fun d =>
          let n := if d.t1.isSome then d.misses + 1 else d.misses
          { d with seq := (d.seq + 1) % 65536, misses := n, valid := d.valid && decide (n < 3), t1 := none, t4 := none })
        let d := s.ports.ring.delay.getD (winIdx p) {}
        s.sendExpress p
          { body := ptpMessage ptpPeerMac s.ports.ring.nodeMac ptpPdelayReq 0 0 0 (portIdentity p) d.seq 0 (zeros 20), kind := .express }
    .next { (one (one s .c) .d) with ports.ring.pdelayAt := s.now }

/-- TC_PENDING_EXPIRY (R69): pending entries of 100 ms lapse, at every egress port. -/
def execTcPendingExpiry (s : State) : Out :=
  let live (e : TcPending) : Bool := !s.elapsed e.since (100 * msTicks)
  .next { s with
    ports.ring.delay := s.ports.ring.delay.map (fun d => { d with pending := d.pending.filter live })
    time.ports := s.time.ports.map (fun x => { x with pending := x.pending.filter live }) }

/-! ### Reception (R34 to R47) -/

/-- The way of a good frame: an own one is removed, others are decided by the node table. A PTP message at a PTP port is the PTP
instance's, and with TC_EN it is bridged as well (R72). A frame without tag or valid trailer, and a peer-delay message, does
not refresh the entry of its source (R40 speaks of any frame; the model's choice, log entry 123). -/
def State.ringPass (s : State) (p : Port) (b inner : Bytes) (q : Option (BitVec 16)) (cut ptp : Bool) : State :=
  if s.ringOwn b then s.stat p 56 1
  else
    let kept := ptp && s.ptpPort p
    let s := if kept then s.ptpKeep p inner else s
    let xs := s.ringDests p b
    let (dst, s) := match q with
      | some n => s.nodeDecide p (beAt b 6 6) n xs
      | none => (xs.filter (· == 2), s)
    let s := if dst.any (· != 2) then s.ringForward p b (!cut) false else s
    if dst.contains 2 && (!kept || s.time.cfg.tcEn) then s.ringDeliver p inner else s

/-- A good frame, or a cut-through frame found bad, on a ring port in AUTO, HSR or PRP mode. -/
def State.ringRx (s : State) (p : Port) (b : Bytes) (i : RxInfo) : State :=
  let good := rxGood b i
  let cut := s.cutsThrough p i
  let (q, inner) := s.ringSeq b
  if !good then
    let s := s.statBad p b i
    if b.length < 60 || !cut || s.ringOwn b then s
    else
      match q with
      | none => s
      | some n =>
        let fwd := (s.ringDests p b).filter (· != 2)
        if fwd.isEmpty then s
        else
          let (dst, s) := s.nodeDecide p (beAt b 6 6) n fwd
          if dst.isEmpty then s else s.ringForward p b false true
  else
    let s := (s.statGood p b false).ringNote p b
    match ptpOff b with
    | some o =>
      let ty := ptpType b o
      if ty = ptpPdelayReq ∨ ty = ptpPdelayResp ∨ ty = ptpPdelayRespFu then
        (if s.pdelayActive then s.pdelayRx p b o else s)
      else s.ringPass p b inner q cut true
    | none => s.ringPass p b inner q cut false

/-- RING_FRAME_RX (R38, R51): in PLAIN mode the port behaves as A and B do (R37). -/
def execRingFrameRx (port : Port) (frame : Bytes) (info : RxInfo) (s : State) : Out :=
  if !isRing port || !s.receives port then .next s
  else
    let s := s.statFec port info
    match info.verify with
    | some false => .next (if s.ports.ring.mode = 0 then s else s.emit (.mPacket port true))
    | some true =>
      let m := s.mac port
      .next (if m.preempt = 1 then s.setMac port { m with preempt := 2 } else s)
    | none =>
      if s.plain port then .next (s.plainFrame port frame info)
      else
        let s := s.statPmac port info
        if 2 ≤ info.pmac then .next s
        else if isPause frame ∧ rxGood frame info then .next ((s.statGood port frame false).stat port 5 1)
        else .next (s.ringRx port frame info)

/-! ### Transmission from the interlink (R35, R36, R48) -/

/-- The source address of an interlink frame is learned as a proxy entry, or refreshed; true when there is no room. -/
def State.proxyLearn (s : State) (a : Nat) : Bool × State :=
  let r := s.ports.ring
  if !r.redbox || a == r.nodeMac || bit a 40 then (false, s)
  else if r.proxies.has a then (false, { s with ports.ring.proxies := r.proxies.put a s.now })
  else if proxyMax ≤ r.proxies.length then (true, s)
  else (false, { s with ports.ring.proxies := r.proxies.put a s.now, ports.ring.supSeq := r.supSeq.drop1 a, ports.ring.supAt := r.supAt.drop1 a })

/-- The ring ports with link. -/
def State.ringLinks (s : State) : List Port := [Port.c, Port.d].filter (fun p => (s.mac p).linkUp)

/-- The frame at the interlink's head is dropped with a failure, and counts at both ring ports (R47). -/
def State.ilRefuse (s : State) (f : PortFrame) (fs : List PortFrame) (fail : Nat × Nat) : State :=
  ((({ s with ports.ring.il := fs } : State).ilDrop .c).ilDrop .d).originEnd .c { f with id := 0 } (some fail)

/-- The next identifier of a frame that two ports send. -/
def State.ilNextId (s : State) : State := { s with ports.ring.nextId := s.ports.ring.nextId + 1 }

/-- An interlink frame with its tag; it gets residence time in PRP mode only (R68). -/
def PortFrame.il (f : PortFrame) (b : Bytes) (id : Nat) (prp : Bool) : PortFrame :=
  { f with body := b, id := id, ringIn := if prp then f.ringIn else none }

/-- A copy of an interlink frame for ring port `p`, with its tag or trailer; a full proxy table and a shared sequence number
count. -/
def State.ilCopy (s : State) (f : PortFrame) (q : BitVec 16) (id : Nat) (full shared : Bool) (p : Port) : State :=
  let m := s.mac p
  let s := s.setMac p { m with host := m.host ++ [f.il (s.ringTag p f.body q) id (s.ports.ring.mode == 2)] }
  let s := if full then s.stat p 61 1 else s
  s.sharedCount p shared

/-- The frame at the interlink's head is sent on the ring ports `links` with one sequence number (R36). -/
def State.ilSend (s : State) (f : PortFrame) (links : List Port) : State :=
  let l := s.proxyLearn (beAt f.body 6 6)
  let q := l.2.ringNextSeq (beAt f.body 0 6)
  let id := if links.length = 2 then q.2.2.ports.ring.nextId else 0
  links.foldl (fun s p => s.ilCopy f q.1 id l.1 q.2.1 p) q.2.2.ilNextId

/-- INTERLINK_TX (R30, R32, R36, R47): the first frame from the interlink is tagged and given to both ring ports. A port
without link takes no copy; with no link on either the frame waits (log entry 17). -/
def execInterlinkTx (s : State) : Out :=
  match s.ports.ring.il with
  | [] => .next s
  | f :: fs =>
    if !s.inRun 1 then .next s
    else if !s.interlinkOpen then .next (s.ilRefuse f fs (10, 0))
    else if !s.ringTagged then .next (s.ilRefuse f fs (6, 0))
    else if 9216 < f.body.length + 10 then .next (s.ilRefuse f fs (1, 0))
    else if s.ringLinks.isEmpty then .next s
    else .next (State.ilSend { s with ports.ring.il := fs } f s.ringLinks)

/-- PROXY_ENTRY_EXPIRY (R36). -/
def execProxyEntryExpiry (addr : Nat) (s : State) : Out :=
  match s.ports.ring.proxies.find addr with
  | some t =>
    if s.inRun 1 && s.elapsed t (60 * secTicks) then
      .next { s with
        ports.ring.proxies := s.ports.ring.proxies.drop1 addr
        ports.ring.supSeq := s.ports.ring.supSeq.drop1 addr
        ports.ring.supAt := s.ports.ring.supAt.drop1 addr }
    else .next s
  | none => .next s

/-- PRP_SEQ_COUNTER_RELEASE (R36). -/
def execPrpSeqCounterRelease (addr : Nat) (s : State) : Out :=
  match s.ports.ring.prpSeq.find addr with
  | some (_, t) =>
    if s.inRun 1 && s.elapsed t (60 * secTicks) then .next { s with ports.ring.prpSeq := s.ports.ring.prpSeq.drop1 addr } else .next s
  | none => .next s

/-- A supervision frame without tag or trailer (R48); TLV types as IEC 62439-3 assigns them (PRESUMED, log entry 18). -/
def RingPlane.supFrame (r : RingPlane) (addr : Nat) (n : BitVec 16) : Bytes :=
  let tag := if r.supTci = 0 then [] else beBytes 2 0x8100 ++ beBytes 2 r.supTci
  let b := beBytes 6 (0x01154E000100 + r.addrLsb) ++ beBytes 6 addr ++ tag ++ beBytes 2 0x88FB ++ beBytes 2 1 ++ beBytes 2 n.toNat ++
    [if r.mode = 1 then 23 else 20, 6] ++ beBytes 6 addr ++ (if r.redbox then [30, 6] ++ beBytes 6 r.nodeMac else []) ++ [0, 0]
  b ++ zeros (60 - b.length)

/-- SUPERVISION_TX (R48, R49) for a supervised address: one frame, on each ring port with link; without one nothing is sent and no
number is used. -/
def execSupervisionTx (addr : Nat) (s : State) : Out :=
  let r := s.ports.ring
  let known := (addr == r.nodeMac && addr != 0) || (r.proxy addr && !s.hove)
  let due := match r.supAt.find addr with
    | some t => s.elapsed t (r.supMs * msTicks)
    | none => true
  if !(s.inRun 1 && s.ringTagged && r.supEn && known && due) then .next s
  else if s.ringLinks.isEmpty then .next { s with ports.ring.supAt := r.supAt.put addr s.now }
  else
    let n := r.supSeq.getD addr 0
    let b := r.supFrame addr n
    let s := { s with ports.ring.supSeq := r.supSeq.put addr (n + 1), ports.ring.supAt := r.supAt.put addr s.now }
    let q := s.ringNextSeq (beAt b 0 6)
    .next (q.2.2.ringLinks.foldl (fun s p => (s.sharedCount p q.2.1).sendExpress p { body := s.ringTag p b q.1, kind := .express }) q.2.2)

/-! ### Egress (R45, R51, R52) -/

/-- PREEMPT_VERIFY_TX (R51): a verify frame, or FAILED after three without a response. -/
def execPreemptVerifyTx (port : Port) (s : State) : Out :=
  let m := s.mac port
  if !(isRing port && s.inRun 1 && m.preempt == 1 && (m.verifyTries == 0 || s.elapsed m.verifyAt (m.verifyTime * msTicks))) then .next s
  else if 3 ≤ m.verifyTries then .next (s.setMac port { m with preempt := 3 })
  else
    .next (((s.setMac port { m with verifyTries := m.verifyTries + 1, verifyAt := s.now }).stat port 45 1).emit (.mPacket port false))

/-- A port may start a frame: it sends nothing, its link is up, and pause does not hold it. -/
def State.mayStart (s : State) (p : Port) : Bool :=
  s.receives p && (s.mac p).tx.isNone && !s.paused p && (s.mac p).rate != 0

/-- The frame that a ring egress port takes at a frame boundary (R45): express, the rest of a preempted frame, forwarded,
host. -/
def State.egressNext (s : State) (p : Port) : State :=
  let m := s.mac p
  match m.express, m.held, m.forwarded, m.host with
  | f :: fs, _, _, _ => (s.setMac p { m with express := fs }).portStart p f
  | [], some h, _, _ => (s.setMac p { m with held := none, tx := some h }).stat p 43 1
  | [], none, f :: fs, _ => (s.setMac p { m with forwarded := fs }).portStart p f
  | [], none, [], f :: fs => (s.setMac p { m with host := fs }).portStart p f
  | [], none, [], [] => s

/-- RING_EGRESS_SELECT (R45, R52): at a frame boundary the next frame; while a preemptible frame is in transmission and an
express frame waits, the interruption once both conditions hold. -/
def execRingEgressSelect (port : Port) (sent : Nat) (s : State) : Out :=
  if !isRing port then .next s
  else
    let m := s.mac port
    match m.tx with
    | none => .next (if s.mayStart port then s.egressNext port else s)
    | some t =>
      let total := t.sent + sent
      if m.preempt == 2 && t.f.kind != .express && !m.express.isEmpty && m.held.isNone &&
          decide (64 * (m.addFrag + 1) - 4 ≤ sent) && decide (total + 64 ≤ t.f.body.length + 4) then
        .next (State.egressNext ((s.setMac port { m with tx := none, held := some { t with sent := total } }).stat port 44 1) port)
      else .next s

/-! ### RING_CONFIG (R60 to R62) -/

/-- The lowest offset that offends (R60, R61, R131). -/
def ringConfigBad (d : Bytes) : Option Nat :=
  let mode := byteAt d 0
  let rc := byteAt d 2
  let rd := byteAt d 3
  let fc := byteAt d 4
  let fd := byteAt d 5
  let mac := beAt d 12 6
  let rateBad (r : Nat) : Bool := mode != 0 && (decide (r < 3) || decide (5 < r))
  let fecBad (r f : Nat) : Bool := mode != 0 && (decide (1 < f) || (f == 1 && r != 3))
  if 3 < mode then some 24
  else if rateBad rc then some 26
  else if rateBad rd ∨ (mode = 1 ∧ rc ≠ rd) then some 27
  else if fecBad rc fc then some 28
  else if fecBad rd fd ∨ (mode = 1 ∧ fc ≠ fd) then some 29
  else if leAt d 6 2 < 10 then some 30
  else if leAt d 8 2 < 100 ∨ 10000 < leAt d 8 2 then some 32
  else if mode ≠ 0 ∧ mode ≠ 3 ∧ (mac = 0 ∨ bit mac 40) then some 36
  else if 3 < byteAt d 20 ∨ (mode ≠ 0 ∧ 2 ≤ byteAt d 20 ∧ ((rc = 5 ∧ bit (byteAt d 1) 2) ∨ (rd = 5 ∧ bit (byteAt d 1) 3))) then some 44
  else if byteAt d 21 = 0 ∨ 128 < byteAt d 21 then some 45
  else none

/-- A reflex slot that is ARMED or HELD names port C or D (R61). -/
def State.reflexOnRing (s : State) : Bool :=
  s.reflex.slots.any (fun (p : Nat × Slot) => p.2.state == .armed && (bit p.2.tmpl.ports 2 || bit p.2.tmpl.ports 3))

/-- The configuration of one ring port (R62). With MODE 0 preemption is not active, and MAC_PREEMPT.ENABLE reads 0 whatever FLAGS
holds, while AN_1000X takes FLAGS[5] (the model's choice, log entry 124). -/
def State.ringPortConfig (s : State) (p : Port) (d : Bytes) : State :=
  let mode := byteAt d 0
  let fl := byteAt d 1
  let c := p == .c
  let m := s.mac p
  let en := bit fl (if c then 2 else 3)
  let m2 := { m with
    an := bit fl 5, preemptEn := en && mode != 0, verifyDisable := bit fl 4, addFrag := byteAt d 20, verifyTime := byteAt d 21 }
  if mode = 0 then
    let m3 := { m2 with preempt := 0 }
    s.setMac p (if m.lock then m3 else { m3 with attempt := 0, attemptAt := s.now, lockLostAt := none, rate := 0, fec := 0 })
  else
    let rate := byteAt d (if c then 2 else 3)
    let fec := byteAt d (if c then 4 else 5)
    if rate = m.rate ∧ fec = m.fec then
      let same := m2.preemptEn == m.preemptEn && m2.verifyDisable == m.verifyDisable && s.ports.ring.mode != 0
      let s := s.setMac p m2
      if same || !m.linkUp then s else s.preemptStart p
    else s.linkChanged p { m2.down with rate := rate, fec := fec, lockLostAt := none }

/-- RING_CONFIG's effect (R60 to R62). -/
def ringConfigBody (c : Cmd) (s : State) : Reply :=
  let d := c.data
  match ringConfigBad d with
  | some o => Reply.bad s o
  | none =>
    let mode := byteAt d 0
    let fl := byteAt d 1
    let e := byteAt d 11
    if mode = 0 ∧ s.reflexOnRing then Reply.no s 9 1
    else
      let s := (s.ringPortConfig .c d).ringPortConfig .d d
      let r := s.ports.ring
      let changed := r.mode != mode
      let r := if changed then
          { r with nodes := [], proxies := [], prpSeq := [], sharedSeq := 0, supSeq := [], supAt := [] }
        else if bit fl 1 && !r.supEn then { r with supSeq := [], supAt := [] } else r
      let r := if mode = 1 ∨ mode = 2 then r
        else { r with delay := r.delay.map (fun d => { d with t1 := none, t4 := none, misses := 0, meas := [], valid := false }) }
      Reply.ok { s with ports.ring := { r with
        mode := mode, redbox := bit fl 0, supEn := bit fl 1, configured := true, forgetMs := leAt d 6 2, supMs := leAt d 8 2,
        addrLsb := byteAt d 10, supTci := leAt d 18 2, nodeMac := beAt d 12 6, pcpMin := e % 8, pcpEn := bit e 3, goose := bit e 4, sv := bit e 5 } }

/-- OWN_SEEN of a port (R50): an own supervision frame returned within the last two intervals. -/
def State.ownSeen (s : State) (p : Port) : Bool := (s.mac p).ownAt.isSome

/-- OWN_SEEN_TIMEOUT (R50). -/
def execOwnSeenTimeout (port : Port) (s : State) : Out :=
  let m := s.mac port
  match m.ownAt with
  | some t => .next (if s.elapsed t (2 * s.ports.ring.supMs * msTicks) then s.setMac port { m with ownAt := none } else s)
  | none => .next s

/-- RING_PLL_LOCK_LOSS (R85): the ring PLL in D1 loses lock. -/
def execRingPllLockLoss (s : State) : Out := .next (if s.inRun 1 then { s with ports.ring.pllLost := true } else s)

/-- D1 enters Run: after a Cold start everything is at its Cold value (R31, R63); a retained node table stays (R41). -/
def State.ringStartUp (s : State) (nodesKept : Bool) : State :=
  let nodes := if nodesKept then s.ports.ring.nodes else []
  let cold : Mac := { enable := true, lpmode := false, resetFault := false, attemptAt := s.now }
  { s with
    ports.c := { cold with present := s.ports.c.present, intLos := s.ports.c.intLos, resetFault := s.ports.c.resetFault }
    ports.d := { cold with present := s.ports.d.present, intLos := s.ports.d.intLos, resetFault := s.ports.d.resetFault }
    ports.ring := { nodes := nodes, since := s.now, cold := s.ports.ring.cold + 1 } }

end Sys2Proof.Machine
end

