-- ==== Sys2Proof/Machine/Time.lean ====
section
/-!
DEFINITION. Machine/Time.lean: the time base, its quality and bound, the servo, PTP, PPS, IRIG-B and dead reckoning
(chapter 03).
-/

set_option Elab.async false
namespace Sys2Proof.Machine

open Sys2Proof

/-! ### Counting and the switch point (R65, R82) -/

/-- Nanoseconds in a second. -/
def nsPerSec : Nat := 1000000000
/-- The nominal increment, 0.8 ns in units of 2^-32 ns (R65). -/
def incrNominal : Nat := 0xCCCCCCCD

/-- The time base at a value in ns. -/
def TimeSt.setNs (t : TimeSt) (ns : Nat) : TimeSt := { t with sec := ns / nsPerSec % 2 ^ 48, ns := ns % nsPerSec }

/-- One clock edge: the increment is added (R65). -/
def TimeSt.edge (t : TimeSt) : TimeSt :=
  let f := t.frac + t.incr
  { t.setNs (t.sec * nsPerSec + t.ns + f / 2 ^ 32) with frac := f % 2 ^ 32 }

/-- A step at a switch point (R82). Rows that are open carry TIME_STEP (R108), and the PPS output goes on with the next
whole second. The fraction of a ns stays as it is (the model's choice, log entry 126). -/
def State.timeStep (s : State) (step : Int) : State :=
  let t := s.time.setNs ((s.tbNs : Int) + step).toNat
  let sec := (((t.sec * nsPerSec + t.ns : Nat) : Int) + t.cfg.ppsOut).toNat / nsPerSec
  { s with
    time := { t with ppsOutSec := sec }
    alm.tab := s.alm.tab.mapVals (fun _ a => { a with open_ := a.open_.map (fun r => { r with stepped := true, stepNs := t.sec * nsPerSec + t.ns }) }) }

/-! ### The bound and the quality (R77 to R81, Table 3-2) -/

/-- The largest bound outside UNKNOWN. -/
def boundMax : Nat := 0xFFFFFFFE

/-- Growth by `x` thousandths of a ns, rounded up to whole ns. -/
def TimeSt.grow (t : TimeSt) (x : Nat) : TimeSt :=
  if x ≤ t.boundOver then { t with boundOver := t.boundOver - x }
  else
    let need := x - t.boundOver
    let up := ceilDiv need 1000
    { t with bound := min boundMax (t.bound + up), boundOver := up * 1000 - need }

/-- TIME_QUALITY.UNSYNCED (R80). -/
def TimeSt.unsynced (t : TimeSt) : Bool := decide (1000 < t.bound)

/-- A quality is entered, with its bound (R79). -/
def State.setQuality (s : State) (q : Quality) (bound : Nat) : State :=
  { s with time := { s.time with
    quality := q, bound := if q = .unknown then 0xFFFFFFFF else min boundMax bound, boundOver := 0, boundAt := s.now } }

/-- A switch-log entry (R83, Table 3-3) and the time event. -/
def State.swLogEntry (s : State) (cause : Nat) (step : Int) (oldIncr : Nat) : State :=
  let t := s.time
  let e : SwEntry :=
    { sec := t.sec, seq := t.swNext.toNat, ns := t.ns, step := step, oldIncr := oldIncr, newIncr := t.incr, cause := cause
      source := t.source.code, quality := t.quality.code, bound := t.bound }
  State.event { s with time := { t with swLog := t.swLog.put (t.swNext.toNat % 64) e, swNext := t.swNext + 1 } } 12

/-- HOLDOVER is entered from LOCKED: the bound so far goes on growing. `old` is the increment before the switch point. -/
def State.holdoverFrom (s : State) (old : Nat) : State :=
  let s := s.setQuality .holdover s.time.bound
  State.swLogEntry { s with time := { s.time with fix := [], beyond := 0 } } 5 0 old

/-- HOLDOVER is entered without a change of increment. -/
def State.holdover (s : State) : State := s.holdoverFrom s.time.incr

/-- Growth of the bound each millisecond in HOLDOVER and RECKONED, and the passage to UNKNOWN (R79, Table 3-2). -/
def State.boundGrowth (s : State) : State :=
  let t := s.time
  if (t.quality = .holdover ∨ t.quality = .reckoned) ∧ t.boundAt < s.now ∧ (s.now - t.boundAt) % msTicks = 0 then
    let t : TimeSt := { TimeSt.grow t t.cfg.holdoverPpb with boundAt := s.now }
    let s := { s with time := t }
    if t.cfg.boundMaxMs * 1000000 < t.bound then State.swLogEntry (s.setQuality .unknown 0) 7 0 t.incr else s
  else s

/-- One clock of the model: the time base counts while D12 is in Run, and a PPS pulse ends (log entry 1). -/
def State.tick (s : State) : State :=
  let s := { s with now := s.now + 1 }
  if !s.inRun 12 then s
  else
    let s := State.boundGrowth { s with time := s.time.edge }
    match s.time.ppsOffAt with
    | some t => if t ≤ s.now then State.emit { s with time.ppsOffAt := none } (.land .ppsOut false) else s
    | none => s

/-! ### Sources (R74, R75, R77) -/

/-- The port that is SLAVE, with what its grandmaster announces. -/
def TimeSt.slave (t : TimeSt) : Option (Nat × PtpPort) :=
  ((List.range 4).map (fun k => (k, t.ports.getD k {}))).find? (fun x => x.2.state == .slave)

/-- TIME_STATUS.PTP_VALID: ROLE 1 or 2, and a SLAVE port that receives Sync: its last one is no older than a limit that the manual
does not give (log entry 74). -/
def TimeSt.ptpValid (t : TimeSt) (now : Nat) : Bool :=
  (t.cfg.role == 1 || t.cfg.role == 2) &&
    (match t.slave with
      | some (_, p) => (match p.syncAt with | some at_ => decide (now - at_ ≤ Config.syncLimit) | none => false)
      | none => false)

/-- The IRIG source can be selected: a code without a year needs the time base's (R75). -/
def TimeSt.irigOk (t : TimeSt) : Bool := t.irigValid && (t.irigYear || t.quality != .unknown)

/-- A listed source is valid (R77). -/
def TimeSt.valid (t : TimeSt) (now : Nat) (x : Source) : Bool :=
  match x with
  | .none => false
  | .ptp => t.ptpValid now
  | .pps => t.ppsValid && decide (t.bound < 500000000)
  | .irig => t.irigOk
  | .ppsIrig => t.ppsValid && t.irigOk && t.pairOk
  | .host => t.hostOk

/-- The source selected: the first listed one that is valid; else HOST after a TIME_SET, and NONE (R77). -/
def TimeSt.select (t : TimeSt) (now : Nat) : Source :=
  match t.cfg.srcs.find? (t.valid now) with
  | some x => x
  | none => if t.hostOk then .host else .none

/-- The selected source changes, in a quality other than LOCKED, or with a measured offset of at most 1 µs; `old` is the
increment before the switch point. -/
def State.changeSource (s : State) (x : Source) (old : Nat) : State :=
  State.swLogEntry { s with time := { s.time with source := x, fix := [], beyond := 0 } } 1 0 old

/-- A source may have been lost. In LOCKED a successor that gives offsets is taken over by the servo, once measured. -/
def State.sourceLost (s : State) : State :=
  let x := s.time.select s.now
  if x = s.time.source then s
  else if s.time.quality ≠ .locked then s.changeSource x s.time.incr
  else if x = .none ∨ x = .host then State.holdover { s with time.source := x }
  else s

/-- A measured offset of a source: time base less reference, in ns. -/
def State.measured (s : State) (x : Source) (off : Int) : State :=
  { s with time.meas := s.time.meas.put x.code off }

/-! ### The servo (R78, R79, R81, R86) -/

/-- Limit of a clockAccuracy code in ns, rounded up (R79); none beyond what a bound can say. -/
def accuracyNs (code : Nat) : Option Nat :=
  let limits := [1, 1, 1, 1, 1, 1, 1, 3, 10, 25, 100, 250, 1000, 2500, 10000, 25000, 100000, 250000, 1000000, 2500000, 10000000,
    25000000, 100000000, 250000000, 1000000000]
  if 0x17 ≤ code ∧ code ≤ 0x2F then some (limits.getD (code - 0x17) 0)
  else if code = 0x30 ∨ code = 0x31 then none
  else some 1000

/-- The clockAccuracy code that a bound allows (R73). A bound of UNKNOWN, 0xFFFF_FFFF, and a saturated one are taken as the ns they
say, which gives 0x30 (the model's choice, log entry 127). -/
def accuracyCode (bound : Nat) : Nat :=
  match ((List.range 0x19).map (· + 0x17)).find? (fun c => match accuracyNs c with | some n => decide (bound ≤ n) | none => false) with
  | some c => c
  | none => if bound ≤ 10000000000 then 0x30 else 0x31

/-- Accuracy of the selected source (R79). -/
def TimeSt.accuracy (t : TimeSt) : Nat :=
  if t.source = .ptp then
    match t.slave.bind (fun x => x.2.best) with
    | some a =>
      match accuracyNs a.accuracy with
      | some n => n + 50 * a.steps
      | none => boundMax
    | none => 1000
  else t.cfg.extAccuracy

/-- The mean of four offsets whose sum is `x`, rounded with halves away from zero (R78). -/
def meanRound (x : Int) : Int := if 0 ≤ x then (2 * x + 4) / 8 else -((2 * -x + 4) / 8)

/-- A fix (R78, R79, R86): four offsets whose sum is `x`; `old` is the increment before the switch point. -/
def State.fixAt (s : State) (x : Int) (old : Nat) : State :=
  let breach := s.time.reckFirst && decide (4 * s.time.bound < x.natAbs)
  let s := { s with time := { s.time with fix := [], beyond := 0, reckFirst := false, servoAt := s.now } }
  let s := if breach then
      State.event { s with time := { s.time with breach := true, cnt := s.time.cnt.inc 3 } } 12 else s
  let step := if 4000 < x.natAbs then -(meanRound x) else 0
  let s := if step = 0 then s else s.timeStep step
  let s := s.setQuality .locked (s.time.accuracy + ceilDiv (x + 4 * step).natAbs 4 + 8)
  s.swLogEntry (if step = 0 then 6 else 2) step old

/-- The servo has measured an offset of the selected source; `old` is the increment before the switch point. -/
def State.servoTake (s : State) (off filtered : Int) (old : Nat) : State :=
  let s := { s with time.filtered := filtered }
  if s.time.quality = .locked then
    let beyond := if 1000 < off.natAbs then s.time.beyond + 1 else 0
    let s := s.setQuality .locked (s.time.accuracy + filtered.natAbs + 8)
    let s := { s with time := { s.time with beyond := beyond, servoAt := s.now } }
    if 3 ≤ beyond then s.holdoverFrom old else s
  else
    let fix := s.time.fix ++ [off]
    let fix := fix.drop (fix.length - 4)
    let s := { s with time.fix := fix }
    let hi := fix.foldl max off
    let lo := fix.foldl min off
    if fix.length = 4 ∧ hi - lo ≤ 100 then s.fixAt (fix.foldl (· + ·) 0) old else s

/-- The increment held within 200 ppm of nominal (R65). -/
def clampIncr (n : Nat) : Nat := clampNat (incrNominal - incrNominal / 5000) (incrNominal + incrNominal / 5000) n

/-- SERVO_UPDATE (R65, R72, R77 to R79): the source is selected again; its offset measured since the last update is used. -/
def execServoUpdate (incr : BitVec 36) (filtered : Int) (s : State) : Out :=
  if !(s.inRun 12 && s.helmRuns && !s.hove) then .next s
  else
    let x := s.time.select s.now
    let off := s.time.meas.find x.code
    let old := s.time.incr
    let s := { s with time.meas := [] }
    let new : State := if off.isSome then { s with time.incr := clampIncr incr.toNat } else s
    let take (s : State) : State :=
      match off with
      | some o => s.servoTake o filtered old
      | none => s
    if x = s.time.source then .next (take new)
    else if s.time.quality ≠ .locked then .next (take (new.changeSource x old))
    else if x = .none ∨ x = .host then .next (State.holdover { s with time.source := x })
    else
      match off with
      | none => .next s
      | some o =>
        if 1000 < o.natAbs then .next (State.holdover { s with time.source := x })
        else .next (take (new.changeSource x old))

/-- SERVO_WATCHDOG (R81). -/
def execServoWatchdog (s : State) : Out :=
  if s.inRun 12 && s.time.quality == .locked && s.elapsed s.time.servoAt (2 * secTicks) then
    .next (State.holdover { s with time := { s.time with servoWd := true, cnt := s.time.cnt.inc 2 } })
  else .next s

/-! ### TIME_SET, PPS and IRIG-B (R74 to R76, R89) -/

/-- TIME_SET takes effect (R89): a step to a value in ns, with its bound. One HOST_SET entry is written, although the source and
the quality may change with it (the model's choice, log entry 128). -/
def State.applySet (s : State) (ns bound : Nat) : State :=
  let step : Int := (ns : Int) - s.tbNs
  let s := s.timeStep step
  let s := { s with time := { s.time with hostOk := true, source := .host, fix := [], beyond := 0 } }
  let s := s.setQuality (if bound = 0xFFFFFFFF then .unknown else .holdover) bound
  s.swLogEntry 3 step s.time.incr

/-- A TIME_SET that waits replies. -/
def State.setReply (s : State) (p : PendingSet) (status detail : Nat) (data : Bytes) : State :=
  match s.dechan.accepted.find? (fun a => a.ring == p.ring && a.idx == p.idx) with
  | some a => s.reply a status detail data []
  | none => s

/-- The TIME_SETs that wait for a PPS edge are applied at it, in order (R89). -/
def State.setsAtEdge (s : State) : State :=
  s.time.sets.foldl (fun s p =>
    if s.time.quality = .locked then s.setReply p 2 (3 + 7 * 256) [4]
    else
      let s := s.applySet (((p.sec * nsPerSec + p.ns : Nat) : Int) + s.time.cfg.ppsIn).toNat p.bound
      s.setReply p 0 0 []) { s with time.sets := [] }

/-- The time base less the nearest whole second. -/
def secondOffset (ns : Int) : Int := (ns + 500000000) % 1000000000 - 500000000

/-- 1 s ± 1 ms has passed since an edge (R74). -/
def State.secondSince (s : State) (t : Nat) : Bool := decide (t + secTicks ≤ s.now + msTicks) && decide (s.now ≤ t + secTicks + msTicks)

/-- A valid PPS edge: TIME_SETs are applied, then the phase is measured. -/
def State.ppsGood (s : State) : State :=
  let s := State.setsAtEdge { s with time := { s.time with ppsValid := true, ppsFirst := none, ppsAt := s.now } }
  let ns : Int := (s.tbNs : Int) - s.time.cfg.ppsIn
  State.measured { s with time.ppsNs := ns.toNat } .pps (secondOffset ns)

/-- PPS_EDGE (R74). -/
def execPpsEdge (s : State) : Out :=
  if !s.inRun 12 then .next s
  else if s.time.ppsValid then
    if s.secondSince s.time.ppsAt then .next s.ppsGood else .next { s with time.cnt := s.time.cnt.inc 0 }
  else
    match s.time.ppsFirst with
    | some t => if s.secondSince t then .next s.ppsGood else .next { s with time.ppsFirst := some s.now }
    | none => .next { s with time.ppsFirst := some s.now }

/-- PPS_LOSS (R74). -/
def execPpsLoss (s : State) : Out :=
  if s.inRun 12 && s.time.ppsValid && s.elapsed s.time.ppsAt (1500 * msTicks) then
    .next (State.sourceLost { s with time := { s.time with ppsValid := false, ppsFirst := none } })
  else .next s

/-- Days from 1970 to the first of a year up to 2099. -/
def daysToYear (y : Nat) : Nat := (y - 1970) * 365 + (y - 1969) / 4

/-- A leap year between 1970 and 2099. -/
def leapYear (y : Nat) : Bool := y % 4 == 0

/-- The year a count of seconds lies in. -/
def yearOf (sec : Nat) : Nat :=
  ((List.range 130).map (fun k => 2099 - k)).find? (fun y => decide (daysToYear y * 86400 ≤ sec)) |>.getD 1970

/-- TAI less UTC: PTP's where it gives one, else TAI_UTC (Table 3-5). -/
def TimeSt.taiUtc (t : TimeSt) : Nat := (t.slave.bind (fun x => x.2.best.bind (·.taiUtc))).getD t.cfg.taiUtc

/-- The PTP second a frame carries, if its fields are in range (R75). -/
def TimeSt.irigSecond (t : TimeSt) (f : IrigFrame) : Option Nat :=
  let dated := !(f.code == 1 || f.code == 2 || f.code == 3)
  let year := if dated then 2000 + f.year else yearOf (((t.sec : Int) - t.taiUtc + t.cfg.localOffset * 60).toNat)
  let label : Int := ((daysToYear year + f.day - 1) * 86400 + f.hour * 3600 + f.min * 60 + f.sec : Nat)
  let utc := label - t.cfg.localOffset * 60
  let dayEnd := (label - 1 - t.cfg.localOffset * 60) % 86400 == 86399
  if 7 < f.code ∨ 59 < f.min ∨ 23 < f.hour ∨ f.day = 0 ∨ (if leapYear year then 366 else 365) < f.day ∨ (dated ∧ 99 < f.year) then none
  else if f.sec ≤ 59 ∨ (f.sec = 60 ∧ dayEnd) then some (utc + t.taiUtc).toNat
  else none

/-- A valid frame: its phase and time of day are measured, alone and as a pair with the PPS edge. -/
def State.irigGood (s : State) (f : IrigFrame) (sec : Nat) : State :=
  let t := s.time
  let pr := s.tbNs
  let apart := (secondOffset ((pr : Int) - t.ppsNs)).natAbs
  let wants := t.cfg.srcs.contains .ppsIrig && t.ppsValid
  let ok := t.ppsValid && decide (apart ≤ 10000)
  let s := { s with time := { t with
    irigValid := true, irigAt := s.now, irigNs := pr, irigYear := !(f.code == 1 || f.code == 2 || f.code == 3),
    irigCf := f.cf.toNat, pairOk := ok, cnt := if wants && !ok then t.cnt.inc 1 else t.cnt } }
  let s := s.measured .irig ((pr : Int) - (sec * nsPerSec : Nat))
  if ok then
    let edge : Int := (pr : Int) + secondOffset ((t.ppsNs : Int) - pr)
    s.measured .ppsIrig (edge - (sec * nsPerSec : Nat))
  else s

/-- IRIG_FRAME (R75). While the source is valid a frame is compared with the previous valid one, and a rejected frame changes
nothing of that; before, with the last one that decoded. -/
def execIrigFrame (f : IrigFrame) (s : State) : Out :=
  if !s.inRun 12 then .next s
  else
    let reject (s : State) : State := { s with time.cnt := s.time.cnt.inc 1 }
    match s.time.irigSecond f with
    | none => .next (reject s)
    | some sec =>
      let t := s.time
      let u : State := { s with time.irigLast := some (sec, f.sec == 60) }
      match t.irigLast with
      | none => .next u
      | some (last, leap) =>
        if sec = last + 1 ∨ (leap ∧ sec = last) then .next (u.irigGood f sec) else .next (reject (if t.irigValid then s else u))

/-- IRIG_LOSS (R75). -/
def execIrigLoss (s : State) : Out :=
  if s.inRun 12 && s.time.irigValid && s.elapsed s.time.irigAt (2 * secTicks) then
    .next (State.sourceLost { s with time := { s.time with irigValid := false, irigLast := none, pairOk := false } })
  else .next s

/-- PPS_OUT_MODE allows the pulse (R76). -/
def TimeSt.ppsAllowed (t : TimeSt) : Bool :=
  t.cfg.ppsMode == 1 || (t.cfg.ppsMode == 2 && t.quality == .locked) ||
    (t.cfg.ppsMode == 3 && (t.quality == .locked || t.quality == .holdover))

/-- PPS_OUT_PULSE (R76): a whole second of the time base, advanced by PPS_OUT_DELAY, has come. -/
def execPpsOutPulse (s : State) : Out :=
  let sec := ((s.tbNs : Int) + s.time.cfg.ppsOut).toNat / nsPerSec
  if !s.inRun 12 || decide (sec ≤ s.time.ppsOutSec) then .next s
  else
    let s := { s with time.ppsOutSec := sec }
    if s.time.ppsAllowed then
      .next (State.emit { s with time.ppsOffAt := some (s.now + s.time.cfg.ppsWidth * 5 / 4) } (.land .ppsOut true))
    else .next s

/-! ### PTP (R72, R73; the best master clock algorithm as IEEE 1588 gives it, PRESUMED, log entry 16) -/

/-- Lexicographic order of two lists of numbers. -/
def lexLt : List Nat → List Nat → Bool
  | a :: as, b :: bs => decide (a < b) || (a == b && lexLt as bs)
  | [], _ :: _ => true
  | _, [] => false

/-- What the algorithm compares of an Announce, in order; lower is better. -/
def Announce.rank (a : Announce) : List Nat :=
  [a.priority1, a.clockClass, a.accuracy, a.variance, a.priority2, a.gm, a.steps, a.sender]

/-- What the adapter announces of itself (R73). -/
def State.ownAnnounce (s : State) : Announce :=
  let c := s.time.cfg
  { priority1 := c.priority1, clockClass := if c.gmCapable then c.clockClass else 255
    accuracy := accuracyCode s.time.bound, variance := 0xFFFF, priority2 := c.priority2, gm := Config.serial.toNat
    steps := 0, sender := 0, taiUtc := some c.taiUtc }

/-- The best Announce among the PTP ports, with its port. -/
def State.bestAnnounce (s : State) : Option (Nat × Announce) :=
  (List.range 4).foldl (fun (acc : Option (Nat × Announce)) k =>
    if !s.ptpPort (Port.ofNum k) then acc
    else
      match (s.time.ports.getD k {}).best, acc with
      | some a, some (_, b) => if lexLt a.rank b.rank then some (k, a) else acc
      | some a, none => some (k, a)
      | none, _ => acc) none

/-- The state the algorithm gives a PTP port. -/
def State.portDecision (s : State) (best : Option (Nat × Announce)) (k : Nat) : PtpState :=
  let c := s.time.cfg
  let p := s.time.ports.getD k {}
  if !s.ptpPort (Port.ofNum k) then .disabled
  else if c.role = 3 then .listening
  else
    match best with
    | none => if c.gmCapable then .master else .listening
    | some (q, a) =>
      if c.gmCapable ∧ lexLt s.ownAnnounce.rank a.rank then .master
      else if q = k then .slave
      else if 2 ≤ q ∧ 2 ≤ k then .passive
      else if c.role = 1 then .passive
      else
        match p.best with
        | some b => if lexLt b.rank { a with steps := a.steps + 1 }.rank then .passive else .master
        | none => .master

/-- The best master clock algorithm runs over every port. -/
def State.bmcaPorts (s : State) : State :=
  let best := s.bestAnnounce
  let upd (k : Nat) (p : PtpPort) : PtpPort :=
    let st := s.portDecision best k
    if st = .disabled then { p with state := .disabled, best := none, syncAt := none, pendSync := none }
    else if st = p.state then p
    else { p with state := st, syncAt := none, pendSync := none, syncTx := none, annTx := none }
  let ports := (List.range 4).map (fun k => upd k (s.time.ports.getD k {}))
  { s with time.ports := ports }

/-- The algorithm runs, and a port that was SLAVE may be lost as a source. -/
def State.bmca (s : State) : State := s.bmcaPorts.sourceLost

/-- A port's PTP record changed. -/
def State.updPtp (s : State) (p : Port) (f : PtpPort → PtpPort) : State := { s with time.ports := s.time.ports.modify p.num f }

/-- Helm serves the PTP instance. -/
def State.ptpServed (s : State) : Bool := s.inRun 12 && s.helmRuns && !s.hove

/-- A Sync whose time is known: its offset is measured. -/
def State.syncOffset (s : State) (p : Port) (rx : Nat) (origin : Nat) (corr : Int) : State :=
  let x : Int := ((rx * 65536 : Nat) : Int) - corr - s.ptpLinkDelay p
  let off := (x + 32768) / 65536 - origin
  (s.updPtp p (fun y => { y with syncAt := some s.now, pendSync := none })).measured .ptp off

/-- An Announce as it is received. -/
def readAnnounce (b : Bytes) (o : Nat) : Announce :=
  { priority1 := byteAt b (o + 47), clockClass := byteAt b (o + 48), accuracy := byteAt b (o + 49), variance := beAt b (o + 50) 2
    priority2 := byteAt b (o + 52), gm := beAt b (o + 53) 8, steps := beAt b (o + 61) 2, sender := ptpSender b o
    taiUtc := if bit (byteAt b (o + 7)) 2 then some (beAt b (o + 44) 2) else none }

/-- An Announce received on a port: kept when it comes from the same sender or is better; the algorithm runs. -/
def State.announceRx (s : State) (p : Port) (b : Bytes) (o : Nat) : State :=
  let a := readAnnounce b o
  if a.gm = Config.serial.toNat ∨ a.sender / 65536 = Config.serial.toNat then s
  else
    let keep := match (s.time.ports.getD p.num {}).best with
      | some old => old.sender == a.sender || lexLt a.rank old.rank
      | none => true
    if keep then
      State.bmca (s.updPtp p (fun x => { x with
        best := some a, bestAt := s.now, syncAt := if x.best.map (·.sender) = some a.sender then x.syncAt else none }))
    else s

/-- A peer-delay response on port A or B (R72); its times are stamps of the time base (R67). -/
def State.pdelayRespRx (s : State) (m : PtpRx) (b : Bytes) (o : Nat) : State :=
  let x := s.time.ports.getD m.port.num {}
  if beAt b (o + 44) 10 ≠ portIdentity m.port ∨ ptpSeq b o ≠ x.pdSeq then s
  else
    let done (s : State) (v : Int) : State :=
      s.updPtp m.port (fun x => { x with linkDelay := if v < 0 then x.linkDelay else v.toNat, pdT1 := none, pdResp := none })
    match ptpType b o == ptpPdelayResp, x.pdT1, x.pdResp with
    | true, some t1, _ =>
      if ptpTwoStep b o then s.updPtp m.port (fun x => { x with pdResp := some (m.ns, ptpStamp b (o + 34), ptpCorr b o) })
      else done s ((((m.ns : Int) - t1) * 65536 - ptpCorr b o) / 2)
    | false, some t1, some (t4, t2, corr) =>
      done s ((((t4 : Int) - t1) * 65536 - ((ptpStamp b (o + 34) : Int) - t2) * 65536 - corr - ptpCorr b o) / 2)
    | _, _, _ => s

/-- A PTP message that a PTP port received in its domain is taken up (R72). -/
def State.ptpMsg (s : State) (m : PtpRx) (o : Nat) : State :=
  let b := m.frame
  let x := s.time.ports.getD m.port.num {}
  let ty := ptpType b o
  let fromMaster := x.state == .slave && (x.best.map (·.sender) == some (ptpSender b o))
  if ptpDomain b o ≠ s.time.cfg.domain ∨ !s.ptpPort m.port then s
  else if ty = ptpAnnounce then s.announceRx m.port b o
  else if ty = ptpSync ∧ fromMaster then
    if ptpTwoStep b o then
      s.updPtp m.port (fun x => { x with pendSync := some (ptpSender b o, ptpSeq b o, m.ns, ptpCorr b o) })
    else s.syncOffset m.port m.ns (ptpStamp b (o + 34)) (ptpCorr b o)
  else if ty = ptpFollowUp ∧ fromMaster then
    match x.pendSync with
    | some (who, seq, rx, corr) =>
      if who = ptpSender b o ∧ seq = ptpSeq b o then s.syncOffset m.port rx (ptpStamp b (o + 34)) (corr + ptpCorr b o)
      else s
    | none => s
  else if ty = ptpPdelayReq ∧ !isRing m.port then s.answerPdelay m.port m.ns (Config.portMac m.port.num).toNat b o
  else if (ty = ptpPdelayResp ∨ ty = ptpPdelayRespFu) ∧ !isRing m.port then s.pdelayRespRx m b o
  else s

/-- PTP_MSG_RX (R72): the oldest message kept for the PTP instance. -/
def execPtpMsgRx (s : State) : Out :=
  match s.time.rxq with
  | [] => .next s
  | m :: ms =>
    if !s.ptpServed then .next s
    else
      match ptpOff m.frame with
      | none => .next { s with time.rxq := ms }
      | some o => .next (State.ptpMsg { s with time.rxq := ms } m o)

/-- Seconds 2^n as ticks, for n from -3 up. -/
def logTicks (n : Int) : Nat := if n < 0 then secTicks / 2 ^ (-n).toNat else secTicks * 2 ^ n.toNat

/-- A message is due: none has been sent, or its interval has passed. -/
def State.dueAt (s : State) (last : Option Nat) (t : Nat) : Bool :=
  match last with
  | some l => s.elapsed l t
  | none => true

/-- Source address of the PTP instance on a port: RING_NODE_MAC on the ring (R70), the board's on A and B. -/
def State.ptpMacOf (s : State) (p : Port) : Nat := if isRing p then s.ports.ring.nodeMac else (Config.portMac p.num).toNat

/-- A message of the PTP instance waits at a port, tagged on the ring. -/
def State.ptpSend (s : State) (p : Port) (b : Bytes) : State :=
  if isRing p && s.ringTagged then
    let q := s.ringNextSeq (beAt b 0 6)
    (q.2.2.sharedCount p q.2.1).sendExpress p { body := s.ringTag p b q.1, kind := .express }
  else s.sendExpress p { body := b, kind := .express }

/-- The PTP instance sends as master on a port. -/
def State.ptpMaster (s : State) (p : Port) : Bool :=
  s.ptpServed && s.ptpPort p && (s.mac p).linkUp && (s.time.ports.getD p.num {}).state == .master

/-- PTP_SYNC_TX (R72). -/
def execPtpSyncTx (port : Port) (s : State) : Out :=
  let x := s.time.ports.getD port.num {}
  if !(s.ptpMaster port && s.dueAt x.syncTx (logTicks s.time.cfg.logSync)) then .next s
  else
    let flags := if s.time.cfg.oneStep then 0 else 0x0200
    let b := ptpMessage ptpMac (s.ptpMacOf port) ptpSync s.time.cfg.domain flags 0 (portIdentity port) x.syncSeq
      (BitVec.ofInt 8 s.time.cfg.logSync).toNat (zeros 10)
    .next ((s.updPtp port (fun y => { y with syncTx := some s.now, syncSeq := (y.syncSeq + 1) % 65536 })).ptpSend port b)

/-- PTP_ANNOUNCE_TX (R73): the parent's grandmaster where the adapter is a slave, else its own properties. -/
def execPtpAnnounceTx (port : Port) (s : State) : Out :=
  let x := s.time.ports.getD port.num {}
  if !(s.ptpMaster port && s.dueAt x.annTx (logTicks s.time.cfg.logAnnounce)) then .next s
  else
    let own := s.ownAnnounce
    let a := match s.time.slave.bind (fun y => y.2.best) with
      | some g => { g with steps := g.steps + 1 }
      | none => own
    let utc := a.taiUtc.getD s.time.cfg.taiUtc
    let body := zeros 10 ++ beBytes 2 utc ++ [0, BitVec.ofNat 8 a.priority1, BitVec.ofNat 8 a.clockClass, BitVec.ofNat 8 a.accuracy] ++
      beBytes 2 a.variance ++ [BitVec.ofNat 8 a.priority2] ++ beBytes 8 a.gm ++ beBytes 2 a.steps ++ [0xA0]
    let b := ptpMessage ptpMac (s.ptpMacOf port) ptpAnnounce s.time.cfg.domain 0x0004 0 (portIdentity port) x.annSeq s.time.cfg.logAnnounce body
    .next ((s.updPtp port (fun y => { y with annTx := some s.now, annSeq := (y.annSeq + 1) % 65536 })).ptpSend port b)

/-- PTP_PDELAY_TX (R72) on the PTP ports among A and B; the ring plane runs peer delay on C and D (R70). -/
def execPtpPdelayTx (s : State) : Out :=
  if !s.ptpServed then .next s
  else
    let one (s : State) (p : Port) : State :=
      let x := s.time.ports.getD p.num {}
      if s.ptpPort p && (s.mac p).linkUp && s.dueAt x.pdTx (logTicks s.time.cfg.logPdelay) then
        let q := (x.pdSeq + 1) % 65536
        let s := s.updPtp p (fun y => { y with pdTx := some s.now, pdSeq := q, pdT1 := none, pdResp := none })
        s.ptpSend p (ptpMessage ptpPeerMac (s.ptpMacOf p) ptpPdelayReq s.time.cfg.domain 0 0 (portIdentity p) q 0x7F (zeros 20))
      else s
    .next (one (one s .a) .b)

/-- ANNOUNCE_TIMEOUT (R72): no Announce for ANNOUNCE_TIMEOUT intervals. -/
def execAnnounceTimeout (port : Port) (s : State) : Out :=
  let x := s.time.ports.getD port.num {}
  if s.ptpServed && x.best.isSome && s.elapsed x.bestAt (s.time.cfg.announceTimeout * logTicks s.time.cfg.logAnnounce) then
    .next (State.bmca (s.updPtp port (fun y => { y with best := none })))
  else .next s

/-! ### Commands (R87 to R90) -/

/-- A signed little-endian field. -/
def sleAt (b : Bytes) (off n : Nat) : Int := (BitVec.ofNat (8 * n) (leAt b off n)).toInt

/-- TIME_CONFIG's fields from DATA (Table 3-5). -/
def readTimeCfg (d : Bytes) : TimeCfg :=
  let f := byteAt d 1
  { role := byteAt d 0, gmCapable := bit f 0, oneStep := bit f 1, ptpA := bit f 2, ptpB := bit f 3, ptpRing := bit f 4
    tcEn := bit f 5, domain := byteAt d 2, priority1 := byteAt d 3, priority2 := byteAt d 4, clockClass := byteAt d 5
    logSync := sleAt d 6 1, logAnnounce := byteAt d 7, logPdelay := byteAt d 8, announceTimeout := byteAt d 9
    srcs := ([byteAt d 10, byteAt d 11, byteAt d 12].takeWhile (· != 0)).map Source.ofCode
    ppsMode := byteAt d 13, ppsWidth := leAt d 14 4, ppsIn := sleAt d 18 2, ppsOut := sleAt d 20 2, taiUtc := leAt d 22 2
    holdoverPpb := leAt d 24 2, localOffset := sleAt d 26 2, extAccuracy := leAt d 28 2, boundMaxMs := leAt d 30 2
    boardDelay := [byteAt d 32, byteAt d 33, byteAt d 34, byteAt d 35] }

/-- The first field of TIME_CONFIG that is out of range (R88). -/
def timeConfigBad (d : Bytes) : Option Nat :=
  if 3 < byteAt d 0 then some 24
  else if sleAt d 6 1 < -3 ∨ 1 < sleAt d 6 1 then some 30
  else if 1 < byteAt d 7 then some 31
  else if 1 < byteAt d 8 then some 32
  else if byteAt d 9 < 2 then some 33
  else if 5 < byteAt d 10 then some 34
  else if 5 < byteAt d 11 then some 35
  else if 5 < byteAt d 12 then some 36
  else if 3 < byteAt d 13 then some 37
  else if leAt d 14 4 < 1000 ∨ 500000000 < leAt d 14 4 then some 38
  else if leAt d 24 2 < 10 ∨ 20000 < leAt d 24 2 then some 48
  else if sleAt d 26 2 < -840 ∨ 840 < sleAt d 26 2 then some 50
  else if leAt d 30 2 < 1 ∨ 4294 < leAt d 30 2 then some 54
  else none

/-- TIME_CONFIG's effect: kept in Helm's data area, and applied while D12 is in Run (R85, R88). The source is selected again at the
next servo update. -/
def timeConfigBody (c : Cmd) (s : State) : Reply :=
  match timeConfigBad c.data with
  | some o => Reply.bad s o
  | none =>
    let cfg := readTimeCfg c.data
    let s := { s with time.kept := some cfg }
    if s.inRun 12 then Reply.ok (State.bmcaPorts { s with time.cfg := cfg }) else Reply.ok s

/-- TIME_CONFIG (R87, R88). -/
def execTimeConfig (c : Cmd) (s : State) : Out := .next (s.runCmd { code := 0x0901 } c (fun _ s => timeConfigBody c s))

/-- TIME_SET's effect (R89). -/
def timeSetBody (c : Cmd) (s : State) : Reply :=
  let d := c.data
  let sec := leAt d 0 6
  let ns := leAt d 6 4
  let bound := leAt d 10 4
  if s.time.quality = .locked then Reply.conflict s 4 3 7 0
  else if nsPerSec ≤ ns then Reply.bad s 30
  else if bit (byteAt d 14) 0 then
    { st := { s with time.sets := s.time.sets ++ [{ ring := cmdRing c, idx := s.dechan.cur, sec := sec, ns := ns, bound := bound, since := s.now }] }
      later := true, limit := 2 * secTicks + 2 * msTicks }
  else Reply.ok (s.applySet (sec * nsPerSec + ns) bound)

/-- TIME_SET. -/
def opTimeSet : Op := { code := 0x0902, needsD12 := true }

/-- TIME_SET (R89). -/
def execTimeSet (c : Cmd) (s : State) : Out := .next (s.runCmd opTimeSet c (fun _ t => timeSetBody c t))

/-- TIME_SET_PPS_TIMEOUT (R89): the TIME_SETs that have waited 2 s. -/
def execTimeSetPpsTimeout (s : State) : Out :=
  let late (p : PendingSet) : Bool := s.elapsed p.since (2 * secTicks)
  .next ((s.time.sets.filter late).foldl (fun s p => s.setReply p 0xD 0 [])
    { s with time.sets := s.time.sets.filter (fun p => !late p) })

/-- TIME_QUERY's reply data (R90, R489). While no port is SLAVE the grandmaster reads 0, even where the adapter is itself the
grandmaster (the model's choice, log entry 129). -/
def State.timeQuery (s : State) : Bytes :=
  let t := s.time
  if !s.inRun 12 then zeros 34
  else
    let (gm, steps, port) := match t.slave with
      | some (k, p) => ((p.best.map (·.gm)).getD 0, (p.best.map (·.steps)).getD 0, k + 1)
      | none => (0, 0, 0)
    leBytes 6 t.sec ++ leBytes 4 t.ns ++ leBytes 2 (t.frac / 65536) ++ [BitVec.ofNat 8 t.quality.code, BitVec.ofNat 8 t.source.code] ++
      leBytes 2 t.swNext.toNat ++ leBytes 4 t.bound ++ leBytes 4 (BitVec.ofInt 32 t.filtered).toNat ++ beBytes 8 gm ++
      [BitVec.ofNat 8 steps, BitVec.ofNat 8 port]

/-- TIME_QUERY (R90). -/
def execTimeQuery (c : Cmd) (s : State) : Out :=
  .next (s.runCmd { code := 0x0903, exempt := true } c (fun _ s => Reply.ok s s.timeQuery))

/-! ### Dead reckoning (R84, R85) -/

/-- Ticks of the ring residence counter and of the always-on counter on the model's clock. -/
def ringTicksAt (now : Nat) : Nat := now / 2
def aoTicksAt (now : Nat) : Nat := now * 800 / Config.aoPeriodPs % 2 ^ 48

/-- D12 enters Stop in order: the Stop record is latched (R84). -/
def State.timeStop (s : State) : State :=
  let t := s.time
  let r : StopRecord :=
    { sec := t.sec, ns := t.ns, frac := t.frac, quality := t.quality, bound := t.bound, incr := t.incr
      ringTicks := ringTicksAt s.now, aoTicks := aoTicksAt s.now, aoPeriodPs := Config.aoPeriodPs, d1Cold := s.ports.ring.cold }
  { s with time.stopRec := some r, ports.ring.pllLost := !s.inRun 1 }

/-- RING_CONFIG (R60, R61); a change of mode makes and ends PTP ports (R72). -/
def execRingConfig (c : Cmd) (s : State) : Out :=
  .next (s.runCmd { code := 0x0801 } c (fun _ s =>
    let r := ringConfigBody c s
    if r.status = 0 then { r with st := r.st.bmca } else r))

/-- D12 enters Run (R84, R85, R87, R91), and the algorithm runs over the PTP ports that the kept configuration makes. The Stop record
is used up, and a TIME_SET that waits for a PPS edge goes on waiting (R89). -/
def State.timeStart (s : State) : State :=
  let t := s.time
  let cfg := t.kept.getD {}
  let base : TimeSt := { cfg := cfg, kept := t.kept, sets := t.sets }
  match t.stopRec with
  | none => (State.swLogEntry { s with time := base } 4 0 base.incr).bmca
  | some r =>
    let ring := s.inRun 1 && r.d1Cold == s.ports.ring.cold && !s.ports.ring.pllLost
    let el := if ring then (ringTicksAt s.now - r.ringTicks) * 8 / 5
      else (aoTicksAt s.now + 2 ^ 48 - r.aoTicks) % 2 ^ 48 * r.aoPeriodPs / 1000
    let bound := min boundMax (r.bound + ceilDiv (el * (if ring then 20 else 250)) 1000000 + 2000)
    let known := r.quality != .unknown && decide (bound ≤ cfg.boundMaxMs * 1000000)
    let b := base.setNs (r.sec * nsPerSec + r.ns + el)
    let b := { b with
      frac := r.frac, incr := r.incr, basis := if ring then 1 else 2, elapsed := el, reckFirst := known
      ppsOutSec := (((b.sec * nsPerSec + b.ns : Nat) : Int) + cfg.ppsOut).toNat / nsPerSec }
    let s := State.setQuality { s with time := b } (if known then .reckoned else .unknown) bound
    (s.swLogEntry 4 0 b.incr).bmca

end Sys2Proof.Machine
end

