-- ==== Sys2Proof/Machine/Recorder.lean ====
section
/-!
DEFINITION. Machine/Recorder.lean: capture, triggers, events and the export to a drive (chapter 11).
-/

set_option Elab.async false
namespace Sys2Proof.Machine

open Sys2Proof

/-! ### The recorder area (R268, R269) -/

/-- Offsets of the regions of Table 11-1; the recorder region is at DRAM address 0 (Table 17-2). -/
def areaSq : Nat := 0x500000
def areaCq : Nat := 0x510000
def areaPrp : Nat := 0x520000
def areaEvents : Nat := 0x560000
def areaHeaders : Nat := 0x561000
def areaBlocks : Nat := 0x800000
/-- The reserved part of the area, where the model stages part 3 of an export (DESIGN CHOICE, log entry 148). -/
def areaStage : Nat := 0x5A1000
/-- Octets of a capture block. -/
def blockSize : Nat := 65536

/-- DRAM cleared to zeros. -/
def State.dramClear (s : State) (a n : Nat) : State :=
  { s with
    dram := s.dram.filter (fun p => !(decide (a ≤ p.1) && decide (p.1 < a + n)))
    mem.errors := s.mem.errors.filter (fun e => !(e.1 == 1 && decide (a < e.2.1 + 8) && decide (e.2.1 < a + n))) }

/-- Capture blocks of the area. -/
def Recorder.blockCount (r : Recorder) : Nat := r.cfg.sizeGib * 16384 - 128

/-- A counter of REC_CNT raised. -/
def State.recCount (s : State) (k : Nat) : State := { s with recd.cnt := s.recd.cnt.inc k }

/-- Capture runs now: RUNNING, D13 in Run. -/
def State.recRuns (s : State) : Bool := s.inRun 13 && s.recd.running && !s.recd.held

/-- The OPEN event, with its slot. -/
def Recorder.openEvent (r : Recorder) : Option (Nat × RecEvent) := r.events.find? (fun (p : Nat × RecEvent) => p.2.state == .open)

/-- A block index entry (Table 11-2). -/
def indexEntry (b : Block) : Bytes :=
  leBytes 8 b.seq ++ leBytes 6 b.sec ++ leBytes 2 (b.first.getD 0xFFFF) ++ leBytes 4 b.ns ++ leBytes 4 b.records ++
    [BitVec.ofNat 8 (b2n (decide (0 < b.cover)) + b2n b.ended * 2), BitVec.ofNat 8 b.cover] ++ zeros 6

/-- The index entry of a block is written. -/
def State.writeIndex (s : State) (j : Nat) : State :=
  match s.recd.blocks.find j with
  | some b => s.dramWrite (j * 32) (indexEntry b)
  | none => s

/-- Seconds and nanoseconds of an instant in ns, 6 and 4 octets. -/
def secBytes (t : Nat) : Bytes := leBytes 6 (t / nsPerSec)
def nsBytes (t : Nat) : Bytes := leBytes 4 (t % nsPerSec)

/-- An event table entry (Table 11-5). -/
def eventEntry (e : RecEvent) : Bytes :=
  let flags := b2n e.preShort + b2n e.extended * 2 + b2n e.truncated * 4 + b2n e.drops * 8 + b2n e.hoveTo * 16
  [BitVec.ofNat 8 e.state.code, BitVec.ofNat 8 e.source, BitVec.ofNat 8 flags, 0] ++ leBytes 2 e.sourceId ++ leBytes 2 e.triggers ++
    secBytes e.tNs ++ zeros 2 ++ nsBytes e.tNs ++ leBytes 4 e.firstPos ++ leBytes 8 e.firstSeq ++ leBytes 4 e.blocks.length ++ zeros 4 ++
    leBytes 8 e.seq ++ secBytes e.endNs ++ zeros 2 ++ nsBytes e.endNs ++ zeros 4

/-- An event and its entry in the event table. -/
def State.setEvent (s : State) (k : Nat) (e : RecEvent) : State :=
  State.dramWrite { s with recd.events := s.recd.events.put k e } (areaEvents + k * 64) (eventEntry e)

/-- A block is covered by one event more, or one less; a block that has been left has its entry rewritten. -/
def State.cover (s : State) (j : Nat) (up : Bool) : State :=
  let s := { s with recd.blocks := s.recd.blocks.upd j (fun b => { b with cover := if up then b.cover + 1 else b.cover - 1 }) }
  if j = s.recd.block ∧ s.recd.running then s else s.writeIndex j

/-- An event's blocks are released and its slot is FREE. -/
def State.freeEvent (s : State) (k : Nat) : State :=
  match s.recd.events.find k with
  | some e =>
    let s := e.blocks.foldl (fun s j => s.cover j false) s
    { s with recd.events := s.recd.events.drop1 k }.dramClear (areaEvents + k * 64) 64
  | none => s

/-- The oldest CLOSED event is lost (R276): false when there is none. -/
def State.loseOldest (s : State) : Bool × State :=
  let closed := s.recd.events.filter (fun (p : Nat × RecEvent) => p.2.state == .closed)
  match closed.foldl (fun (m : Option (Nat × RecEvent)) p =>
      match m with | some q => if p.2.seq < q.2.seq then some p else m | none => some p) none with
  | some (k, _) => (true, ((s.freeEvent k).recCount 6).event 16)
  | none => (false, s)

/-! ### Records (R270 to R272) -/

/-- A record: header of Table 11-3, body, and padding to 32 octets. -/
def recordBytes (kind t a b : Nat) (body : Bytes) : Bytes :=
  let r := [BitVec.ofNat 8 kind, 0, 0, 0] ++ leBytes 4 body.length ++ secBytes t ++ zeros 2 ++ nsBytes t ++ leBytes 4 a ++ leBytes 8 b ++ body
  r ++ zeros (ceilDiv r.length 32 * 32 - r.length)

/-- Octets of the input buffer (R271). -/
def recBuffer : Nat := 4 * 1024 * 1024

/-- A record is dropped (R271). -/
def State.recDrop (s : State) : State :=
  let s := State.recCount { s with recd.dropped := s.recd.dropped + 1 } 1
  match s.recd.openEvent with
  | some (k, e) => s.setEvent k { e with drops := true }
  | none => s

/-- A record enters the input buffer while capture runs; its time reads 0 while D12 is not in Run (R270, R271). -/
def State.record (s : State) (kind t a b : Nat) (body : Bytes) : State :=
  if !s.recRuns then s
  else
    let r := recordBytes kind (if s.inRun 12 then t else 0) a b body
    let used := s.recd.queue.foldl (fun (n : Nat) (x : Rec) => n + x.octets.length) 0
    if recBuffer < used + r.length then s.recDrop
    else { s with recd.queue := s.recd.queue ++ [{ octets := r }] }

/-- Time of a record made now. -/
def State.recNow (s : State) : Nat := if s.inRun 12 then s.tbNs else 0

/-- The writer leaves its block: the index entry is written whole (R269). -/
def State.leaveBlock (s : State) : State := s.writeIndex s.recd.block

/-- The writer enters a block; an OPEN event protects it (R274). -/
def State.enterBlock (s : State) (j : Nat) : State :=
  let t := s.recNow
  let s := { s with recd := { s.recd with
    block := j, off := 0, nextSeq := s.recd.nextSeq + 1
    blocks := s.recd.blocks.put j { seq := s.recd.nextSeq, sec := t / nsPerSec, ns := t % nsPerSec } } }
  match s.recd.openEvent with
  | some (k, e) =>
    let s := s.setEvent k { e with blocks := e.blocks ++ [j] }
    { s with recd.blocks := s.recd.blocks.upd j (fun b => { b with cover := 1 }) }
  | none => s

/-- A block is protected (R269). -/
def Recorder.protected_ (r : Recorder) (j : Nat) : Bool :=
  match r.blocks.find j with
  | some b => decide (0 < b.cover)
  | none => false

/-- Octets of the run of unprotected blocks from `j`, looked at no further than `n` blocks. -/
def Recorder.run (r : Recorder) : Nat → Nat → Nat
  | 0, _ => 0
  | n + 1, j => if r.protected_ j then 0 else blockSize + Recorder.run r n ((j + 1) % r.blockCount)

/-- The octets of a record written from the present position, entering blocks as they are needed, at most `fuel` of
them. -/
def State.writeOctets : Nat → State → Bytes → State
  | _, s, [] => s
  | 0, s, _ => s
  | f + 1, s, b =>
    let s := if s.recd.off = blockSize then (s.leaveBlock).enterBlock ((s.recd.block + 1) % s.recd.blockCount) else s
    let n := min b.length (blockSize - s.recd.off)
    let s := s.dramWrite (areaBlocks + s.recd.block * blockSize + s.recd.off) (b.take n)
    State.writeOctets f { s with recd.off := s.recd.off + n } (b.drop n)

/-- The present block is ended: a KIND 0 header and zeros (R272). -/
def State.endBlock (s : State) : State :=
  if s.recd.off = blockSize then s
  else
    let s := s.dramClear (areaBlocks + s.recd.block * blockSize + s.recd.off) (blockSize - s.recd.off)
    { s with recd.blocks := s.recd.blocks.upd s.recd.block (fun b => { b with ended := true }) }

/-- The block in ring order, within `n` of them from `j`, at which a run holds `len` octets. -/
def Recorder.findRun (r : Recorder) (len : Nat) : Nat → Nat → Option Nat
  | 0, _ => none
  | n + 1, j =>
    if len ≤ r.run (ceilDiv len blockSize) j then some j else Recorder.findRun r len n ((j + 1) % r.blockCount)

/-- A position for a record of `len` octets: where the writer stands, or a block further on (R272). -/
def State.place (s : State) (len : Nat) : Option State :=
  let r := s.recd
  let next := (r.block + 1) % r.blockCount
  let ahead := len - (blockSize - r.off)
  if len ≤ blockSize - r.off ∨ ahead ≤ r.run (ceilDiv ahead blockSize) next then some s
  else (r.findRun len (r.blockCount - 1) next).map (fun j => ((s.endBlock).leaveBlock).enterBlock j)

/-- A position for a record, with the oldest CLOSED events lost for it under OVERWRITE, at most `fuel` of them. -/
def State.placeOver : Nat → State → Nat → Option State × State
  | 0, s, len => (s.place len, s)
  | f + 1, s, len =>
    match s.place len with
    | some t => (some t, s)
    | none =>
      if !s.recd.cfg.overwrite then (none, s)
      else
        let (lost, s) := s.loseOldest
        if lost then State.placeOver f s len else (none, s)

/-- One record is written where there is room for it; false when there is none. -/
def State.writeRecord (s : State) (r : Bytes) : Bool × State :=
  match s.placeOver 64 r.length with
  | (none, s) => (false, s)
  | (some s, _) =>
    let s := if s.recd.off = blockSize then (s.leaveBlock).enterBlock ((s.recd.block + 1) % s.recd.blockCount) else s
    let s := { s with recd.blocks := s.recd.blocks.upd s.recd.block (fun b =>
      { b with records := b.records + 1, first := b.first <|> some (s.recd.off / 32) }) }
    (true, (s.writeOctets (r.length / blockSize + 2) r).recCount 0)

/-- The GAP record due before the next record, if records were dropped; false where it finds no room (R271). -/
def State.recGap (s : State) : Bool × State :=
  if s.recd.dropped = 0 then (true, s)
  else
    let r := s.writeRecord (recordBytes 5 s.recNow s.recd.dropped 0 [])
    (r.1, if r.1 then { r.2 with recd.dropped := 0 } else r.2)

/-- A record is written, or dropped where there is no room. -/
def State.recPut (s : State) (b : Bytes) : State :=
  let r := s.writeRecord b
  if r.1 then r.2 else r.2.recDrop

/-- REC_WRITER (R271, R272): the record that waits first, after a GAP record where records were dropped. -/
def execRecWriter (s : State) : Out :=
  match s.recd.queue with
  | [] => .next s
  | q :: qs =>
    if !s.recRuns then .next s
    else
      let r := State.recGap { s with recd.queue := qs }
      .next (if r.1 then r.2.recPut q.octets else r.2.recDrop)

/-- A mirror copy at the recorder's port: selected by EtherType (R270), or discarded and counted. -/
def State.rawCopy (s : State) (f : Frame) : State :=
  let et := (parse f.body).etype
  let k := if et = etGoose then 0 else if et = etSv then 1 else if et = etPtp then 2 else 3
  if !s.recRuns then s
  else if !bit s.recd.cfg.rawSelect k then s.recCount 2
  else
    let t := match f.rxStamp with
      | some x => if f.srcPort < 4 then (s.time.sec - (s.time.sec % 2 ^ 32 + 2 ^ 32 - x.2) % 2 ^ 32) * nsPerSec + x.1 else s.tbNs
      | none => s.tbNs
    s.record 2 t (f.srcPort % 8 + f.body.length * 256) (if f.srcPort < 4 then 0x1FF else f.srcInst % 512) (f.body.take s.recd.cfg.rawSnap)

/-! ### Triggers and events (R273 to R277) -/

/-- E of an event after a trigger at `t`: no more than MAX_EVENT_MS after its first trigger (R275). -/
def RecEvent.extend (e : RecEvent) (c : RecCfg) (t : Nat) : RecEvent :=
  let want := t + c.postMs * 1000000
  let cap := e.tNs + c.maxEventMs * 1000000
  let new := max e.endNs (min want cap)
  { e with
    endNs := new, extended := e.extended || decide (e.endNs < new), truncated := e.truncated || decide (cap < want ∧ e.endNs < want)
    triggers := min 65535 (e.triggers + 1) }

/-- The blocks held, in SEQ order. -/
def Recorder.heldBlocks (r : Recorder) : List (Nat × Block) :=
  r.blocks.foldl (fun (l : List (Nat × Block)) p => (l.takeWhile (fun q => decide (q.2.seq < p.2.seq))) ++ [p] ++
    (l.dropWhile (fun q => decide (q.2.seq < p.2.seq)))) []

/-- The blocks an event that begins at instant `t` protects, and whether it is PRE_SHORT (R274). -/
def Recorder.spanFrom (r : Recorder) (t : Nat) : List (Nat × Block) × Bool :=
  let held := r.heldBlocks
  let early := held.filter (fun p => decide (p.2.sec * nsPerSec + p.2.ns ≤ t))
  match early.getLast? with
  | some (j, b) =>
    if j = r.block ∨ held.any (fun p => p.2.seq == b.seq + 1) then (held.filter (fun p => decide (b.seq ≤ p.2.seq)), false)
    else (held.filter (fun p => decide (b.seq < p.2.seq)), true)
  | none => (held, true)

/-- A trigger at time `t` (R273 to R276): the event's slot and whether it is new, or nothing when it is refused. -/
def State.trigger (s : State) (source id t : Nat) : Option (Nat × Bool) × State :=
  if !s.recRuns || !s.inRun 12 then (none, s.recCount 5)
  else
    let done (s : State) (k : Nat) (new : Bool) : Option (Nat × Bool) × State :=
      (some (k, new), (s.record 4 t (k + source * 256) id []).recCount 3)
    match s.recd.openEvent with
    | some (k, e) => done ((s.setEvent k (e.extend s.recd.cfg t)).recCount 4) k false
    | none =>
      let free (s : State) : Option Nat := s.recd.events.firstFree 0 64
      let s := match free s with
        | some _ => s
        | none => if s.recd.cfg.overwrite then (s.loseOldest).2 else s
      match free s with
      | none => (none, s.recCount 5)
      | some k =>
        let (span, short) := s.recd.spanFrom (t - s.recd.cfg.preMs * 1000000)
        let s := span.foldl (fun s p => s.cover p.1 true) s
        let e : RecEvent :=
          { state := .open, source := source, sourceId := id, preShort := short, tNs := t, endNs := t + s.recd.cfg.postMs * 1000000
            firstPos := (span.head?.map (·.1)).getD 0, firstSeq := (span.head?.map (·.2.seq)).getD 0, blocks := span.map (·.1)
            seq := s.recd.eventSeq }
        done (State.setEvent { s with recd.eventSeq := s.recd.eventSeq + 1 } k e) k true

/-- The OPEN event becomes CLOSED, and the recorder event is raised. -/
def State.closeEvent (s : State) (hove : Bool) : State :=
  match s.recd.openEvent with
  | some (k, e) => (s.setEvent k { e with state := .closed, hoveTo := e.hoveTo || hove }).event 16
  | none => s

/-- REC_EVENT_CLOSE (R274): the first instant at or after E. -/
def execRecEventClose (s : State) : Out :=
  match s.recd.openEvent with
  | some (_, e) => if s.recRuns && s.inRun 12 && decide (e.endNs ≤ s.tbNs) then .next (s.closeEvent false) else .next s
  | none => .next s

/-! ### Export (R278 to R280) -/

/-- A queue pair command's address in the area as the drive sees it. -/
def Recorder.peer (r : Recorder) (off : Nat) : Nat := r.cfg.peerBase + off

/-- A submission entry (R278): opcode, CID, NSID, PRPs, SLBA, NLB; every other field zero. -/
def sqEntry (op cid nsid prp1 prp2 slba nlb : Nat) : Bytes :=
  [BitVec.ofNat 8 op, 0] ++ leBytes 2 cid ++ leBytes 4 nsid ++ zeros 16 ++ leBytes 8 prp1 ++ leBytes 8 prp2 ++ leBytes 8 slba ++
    leBytes 2 nlb ++ zeros 14

/-- An offset at which the index entries are staged. -/
def staging (off : Nat) : Bool := decide (areaStage ≤ off) && decide (off < areaBlocks)

/-- The index entries that a command is to carry are staged where it says (R278). -/
def State.stage (s : State) (off n : Nat) (e : Export) : Export × State :=
  if staging off then
    ({ e with index := e.index.drop n }, State.dramWrite { s with recd.qp.staged := s.recd.qp.staged ++ [(s.recd.qp.tail, off)] }
      off (e.index.take n))
  else (e, s)

/-- One command enters the submission queue; the doorbell follows with the batch. -/
def State.submit (s : State) (op : Nat) (piece : Option (Nat × Nat)) (e : Export) : State :=
  let (e, s) := match piece with
    | some (off, n) => s.stage off n e
    | none => (e, s)
  let q := s.recd.qp
  let cid := q.tail
  let (p1, p2, lbas, s) := match piece with
    | none => (0, 0, 0, s)
    | some (off, n) =>
      let pages := ceilDiv n 4096
      let list := (List.range (pages - 1)).flatMap (fun k => leBytes 8 (s.recd.peer (off + (k + 1) * 4096)))
      let p2 := if pages ≤ 1 then 0 else if pages = 2 then s.recd.peer (off + 4096) else s.recd.peer (areaPrp + cid * 256)
      (s.recd.peer off, p2, n / 2 ^ q.lbaShift, if 2 < pages then s.dramWrite (areaPrp + cid * 256) list else s)
  let s := s.dramWrite (areaSq + cid * 64) (sqEntry op cid e.nsid p1 p2 (if piece.isSome then e.lba else 0) (lbas - 1))
  { s with recd := { s.recd with
    qp := { q with tail := (q.tail + 1) % q.depth, outstanding := q.outstanding ++ [(cid, s.now, lbas)] }
    exp := some { e with lba := e.lba + lbas, todo := if piece.isSome then e.todo.drop 1 else e.todo, flushed := e.flushed || piece.isNone } } }

/-- The next submission slot may be filled: QDEPTH − 1 commands at most are outstanding, none of them with its CID, and the drive has
taken the entry it held (R279). -/
def Qp.slotFree (q : Qp) : Bool :=
  decide (q.outstanding.length < q.depth - 1) && !q.outstanding.any (fun o => o.1 == q.tail) && (q.tail + 1) % q.depth != q.sqHead

/-- Commands submitted while there is room for them, at most `fuel` of them; Flush once every Write has completed. -/
def State.submitAll : Nat → State → State
  | 0, s => s
  | f + 1, s =>
    match s.recd.exp with
    | none => s
    | some e =>
      let q := s.recd.qp
      if e.failed.isSome ∨ !q.slotFree then s
      else
        match e.todo with
        | p :: _ => if q.staged.any (fun x => x.2 == p.1) then s else State.submitAll f (s.submit 1 (some p) e)
        | [] => if e.flush && !e.flushed && q.outstanding.isEmpty then s.submit 0 none e else s

/-- A batch: the entries, then the doorbell that covers them (R279); none while the adapter is hove-to (R277). -/
def State.batch (s : State) : State :=
  if s.hove || s.recd.qp.state != .attached then s
  else
    let t := s.submitAll s.recd.qp.depth
    if t.recd.qp.tail = s.recd.qp.tail then t else t.post0 t.recd.qp.sqDb (leBytes 4 t.recd.qp.tail)

/-- The export ends with an outcome: 0 OK, 1 DRIVE_ERROR, 2 TIMEOUT, 3 ABORTED (R279, R280). -/
def State.exportEnd (s : State) (outcome status cid : Nat) : State :=
  match s.recd.exp with
  | none => s
  | some e =>
    let s := { s with recd := { s.recd with
      exp := none, expReady := true, expOutcome := outcome, expEvent := e.event, expStatus := status, expCid := cid
      expLbas := BitVec.ofNat 32 e.lbas } }
    let s :=
      if outcome = 0 then s.freeEvent e.event
      else
        match s.recd.events.find e.event with
        | some x => s.setEvent e.event { x with state := .closed }
        | none => s
    s.event 16

/-- The REC_EXPORT DETACH that waits replies, and the pair is detached. -/
def State.detachDone (s : State) : State :=
  if s.dechan.accepted.any (fun a => a.opcode == 0x0A03 && !a.waits) then
    State.replyAll { s with recd.qp := {} } (fun a => a.opcode == 0x0A03 && !a.waits) 0 0
  else s

/-- A completion queue entry is taken: its command leaves the outstanding ones, and the head moves on (R279). -/
def Qp.took (q : Qp) (b : Bytes) (cid : Nat) : Qp :=
  let head := (q.cqHead + 1) % q.depth
  { q with
    cqHead := head, phase := if head = 0 then 1 - q.phase else q.phase, consumed := q.consumed + 1, sqHead := leAt b 8 2
    outstanding := q.outstanding.filter (fun o => o.1 != cid), staged := q.staged.filter (fun o => o.1 != cid) }

/-- The queue pair after a completion; the completion queue doorbell rings for half a queue consumed (R279). -/
def State.cqTaken (s : State) (q : Qp) : State :=
  let bell := decide (q.depth / 2 ≤ q.consumed)
  let s := State.recCount { s with recd.qp := if bell then { q with consumed := 0 } else q } 7
  if bell then s.post0 q.cqDb (leBytes 4 q.cqHead) else s

/-- A command of the export in progress has ended with a status. -/
def State.exportNote (s : State) (status cid lbas : Nat) : State :=
  match s.recd.exp with
  | some e =>
    { s with recd.exp := some (if status = 0 then { e with lbas := e.lbas + lbas } else { e with failed := e.failed <|> some (status, cid) }) }
  | none => s

/-- The export ends, and what of the completion queue was consumed is made known. -/
def State.exportStop (s : State) (outcome st c : Nat) : State :=
  let s := if s.recd.qp.consumed = 0 then s
    else State.post0 { s with recd.qp := { s.recd.qp with consumed := 0 } } s.recd.qp.cqDb (leBytes 4 s.recd.qp.cqHead)
  s.exportEnd outcome st c

/-- The export ends once it has failed or has nothing left to do, and no command of it is outstanding (R278). -/
def State.exportSettle (s : State) : State :=
  let idle := s.recd.qp.outstanding.isEmpty
  match s.recd.exp with
  | some e =>
    match e.failed with
    | some (st, c) => if idle then s.exportStop 1 st c else s
    | none =>
      if e.aborted then (if idle then s.exportStop 3 0 0 else s)
      else if idle ∧ e.todo.isEmpty ∧ (!e.flush ∨ e.flushed) then s.exportStop 0 0 0
      else s
  | none => s

/-- The entry `b` at the completion queue's head is taken up, when it is new and answers an outstanding command. -/
def State.cqEntry (s : State) (b : Bytes) : State :=
  let q := s.recd.qp
  let w3 := leAt b 12 4
  match q.outstanding.find? (fun o => o.1 == w3 % 65536) with
  | none => s
  | some o =>
    if w3 / 65536 % 2 ≠ q.phase then s
    else
      let s := (((s.cqTaken (q.took b (w3 % 65536))).exportNote (w3 / 2 ^ 17) (w3 % 65536) o.2.2).batch).exportSettle
      if s.recd.qp.outstanding.isEmpty then s.detachDone else s

/-- NVME_COMPLETION (R279, R280): the completion queue's head entry, if its phase tag says that it is new. -/
def execNvmeCompletion (s : State) : Out :=
  let q := s.recd.qp
  if !s.inRun 13 || q.state == .detached then .next s
  else
    let r := s.dramRead (areaCq + q.cqHead * 16) 16
    match r.1 with
    | none => .next r.2
    | some b => .next (r.2.cqEntry b)

/-- NVME_CMD_TIMEOUT (R280). -/
def execNvmeCmdTimeout (s : State) : Out :=
  let q := s.recd.qp
  if s.inRun 13 && q.state == .attached && q.outstanding.any (fun o => s.elapsed o.2.1 (q.timeoutMs * msTicks)) then
    let s := State.exportEnd { s with recd.qp := { q with state := .broken, outstanding := [], staged := [] } } 2 0 0
    .next s.detachDone
  else .next s

/-! ### Commands (R285 to R287) -/

/-- REC_CONFIG's fields (Table 11-8). -/
def readRecCfg (b : Bytes) : RecCfg :=
  let f := byteAt b 0
  { enable := bit f 0, overwrite := bit f 1, reflexTx := bit f 2, rawSelect := byteAt b 1 % 16, almMask := leAt b 2 2, rawSnap := leAt b 4 2
    sizeGib := byteAt b 6, preMs := leAt b 8 4, postMs := leAt b 12 4, maxEventMs := leAt b 16 4, peerBase := leAt b 20 8
    rights := (List.range 512).filter (fun i => bit (byteAt b (64 + i / 8)) (i % 8)) }

/-- The first field of Table 11-8 out of range. -/
def recConfigBad (b : Bytes) : Option Nat :=
  if leAt b 4 2 < 64 ∨ 9216 < leAt b 4 2 then some 4
  else if byteAt b 6 = 0 ∨ 10 < byteAt b 6 then some 6
  else if 60000 < leAt b 8 4 then some 8
  else if 60000 < leAt b 12 4 then some 12
  else if leAt b 16 4 < leAt b 12 4 ∨ 600000 < leAt b 16 4 then some 16
  else if leAt b 20 8 % 65536 ≠ 0 then some 20
  else none

/-- Capture starts at block 0 with SEQ 0, index, event table and queues zeroed (R285). -/
def State.captureStart (s : State) : State :=
  let s := ((s.dramClear 0 0x500000).dramClear areaSq 0x20000).dramClear areaEvents 0x1000
  let s := { s with recd := { s.recd with
    running := true, held := false, nextSeq := 0, blocks := [], queue := [], dropped := 0, events := [], eventSeq := 0 } }
  s.enterBlock 0

/-- Capture stops: records that wait are gone, the OPEN event closes. -/
def State.captureStop (s : State) : State :=
  let s := s.closeEvent false
  let s := s.leaveBlock
  { s with recd := { s.recd with running := false, held := false, queue := [], dropped := 0 } }

/-- REC_CONFIG's effect (R285). -/
def recConfigBody (b : Bytes) (s : State) : Reply :=
  match recConfigBad b with
  | some o => Reply.badBuf s o
  | none =>
    let new := readRecCfg b
    let old := s.recd.cfg
    let busy := s.recd.running || s.recd.qp.state != .detached || !s.recd.events.isEmpty
    if (new.sizeGib ≠ old.sizeGib ∨ new.peerBase ≠ old.peerBase) ∧ busy then Reply.no s 9 0
    else
      let s := if old.enable && !new.enable then s.captureStop else s
      let s := { s with recd.cfg := new }
      Reply.ok (if new.enable && !old.enable then s.captureStart else s)

/-- REC_CONFIG (R285). -/
def execRecConfig (c : Cmd) (s : State) : Out :=
  .next (s.runCmd { code := 0x0A01, lens := [128] } c (fun b s => recConfigBody b s))

/-- REC_TRIGGER's effect (R286). -/
def recTriggerBody (c : Cmd) (s : State) : Reply :=
  let d := c.data
  let use := bit (byteAt d 0) 0
  let t := leAt d 4 6 * nsPerSec + leAt d 10 4
  if use ∧ nsPerSec ≤ leAt d 10 4 then Reply.bad s 34
  else if !s.recRuns ∨ !s.inRun 12 then Reply.no (s.recCount 5) 0xE 2
  else if use ∧ s.tbNs < t then Reply.bad s 28
  else
    let (source, id) := match cmdTenant c with
      | some i => (2, i)
      | none => (1, 0xFFFF)
    match s.trigger source id (if use then t else s.tbNs) with
    | (none, s) => Reply.no s 4 0
    | (some (k, new), s) =>
      let seq := (s.recd.events.find k).map (·.seq)
      Reply.ok s ([BitVec.ofNat 8 k, if new then 1 else 2, 0, 0] ++ leBytes 8 (seq.getD 0))

/-- The issuer has the trigger right (Table 14-6); the manager always has. -/
def State.mayTrigger (s : State) (c : Cmd) : Bool :=
  match cmdTenant c with
  | some i => s.recd.cfg.rights.contains i
  | none => true

/-- REC_TRIGGER (R286). -/
def execRecTrigger (c : Cmd) (s : State) : Out :=
  .next (s.runCmd { code := 0x0A02, tenant := s.mayTrigger c, inst := .either } c (fun _ s => recTriggerBody c s))

/-- The first field of an ATTACH out of range (Table 11-9, R287). -/
def State.attachBad (s : State) (d : Bytes) : Option Nat :=
  let tmo := leAt d 28 4
  if leAt d 2 2 = 0 ∨ 65534 < leAt d 2 2 then some 26
  else if leAt d 4 2 < 2 ∨ 1024 < leAt d 4 2 then some 28
  else if byteAt d 6 ≠ 9 ∧ byteAt d 6 ≠ 12 then some 30
  else if byteAt d 7 < 12 ∨ 16 < byteAt d 7 then some 31
  else if leAt d 8 8 % 4 ≠ 0 then some 32
  else if tmo ≠ 0 ∧ (tmo < 100 ∨ 60000 < tmo) then some 52
  else if s.recd.cfg.peerBase = 0 then some 24
  else none

/-- ATTACH (R287). -/
def exportAttach (c : Cmd) (s : State) : Reply :=
  let d := c.data
  match s.attachBad d with
  | some o => Reply.bad s o
  | none =>
    if s.recd.qp.state ≠ .detached then Reply.no s 7 0
    else
      Reply.ok { s with recd.qp :=
        { state := .attached, qid := leAt d 2 2, depth := leAt d 4 2, lbaShift := byteAt d 6, xferShift := byteAt d 7, sqDb := leAt d 8 8
          cqDb := leAt d 16 8, nsid := leAt d 24 4, timeoutMs := if leAt d 28 4 = 0 then 5000 else leAt d 28 4 } }

/-- DETACH (R287): at once when nothing is outstanding, else later. An export that runs ends once its commands have. -/
def exportDetach (s : State) : Reply :=
  let q := s.recd.qp
  if q.state = .detached then Reply.no s 8 2
  else if q.outstanding.isEmpty then Reply.ok { (s.exportEnd 3 0 0) with recd.qp := {} }
  else
    let s := { s with recd.exp := s.recd.exp.map (fun e => { e with todo := [], flush := false, aborted := true }) }
    { st := s, later := true, limit := (q.timeoutMs + 2) * msTicks }

/-- Pieces of a part of `n` octets at an offset, none longer than 2^XFER_SHIFT. -/
def exportPieces (xfer off n : Nat) : List (Nat × Nat) :=
  (List.range (ceilDiv n (2 ^ xfer))).map (fun k => (off + k * 2 ^ xfer, min (2 ^ xfer) (n - k * 2 ^ xfer)))

/-- Part 3 of an export: the index entries of the span as DRAM holds them, padded to a multiple of 4 KiB. -/
def State.indexPart (s : State) (e : RecEvent) : Bytes :=
  let b := e.blocks.flatMap (fun j => s.dram.readN (j * 32) 32)
  b ++ zeros (ceilDiv b.length 4096 * 4096 - b.length)

/-- The pieces of part 3: each has a place in the staging area, used again in turn. -/
def stagePieces (xfer n : Nat) : List (Nat × Nat) :=
  let slots := (areaBlocks - areaStage) / 2 ^ xfer
  (List.range (ceilDiv n (2 ^ xfer))).map (fun k => (areaStage + k % slots * 2 ^ xfer, min (2 ^ xfer) (n - k * 2 ^ xfer)))

/-- EXPORT (R278, R287). Where the index entries of the span stand while the drive fetches them is not stated: the model stages
them in the reserved part of the area, each command's as it is submitted (DESIGN CHOICE, log entry 148). -/
def exportStart (k : Nat) (e : RecEvent) (d : Bytes) (s : State) : Reply :=
  let q := s.recd.qp
  let x := q.xferShift
  let s := s.setEvent k { e with state := .exporting }
  let head := areaHeaders + k * 4096
  let s := (s.dramClear head 4096).dramWrite head (eventEntry { e with state := .exporting })
  let index := s.indexPart e
  let todo := exportPieces x head 4096 ++ e.blocks.flatMap (fun j => exportPieces x (areaBlocks + j * blockSize) blockSize) ++
    stagePieces x index.length
  let nsid := if leAt d 24 4 = 0 then q.nsid else leAt d 24 4
  let s := { s with recd := { s.recd with
    exp := some { event := k, lba := leAt d 8 8, nsid := nsid, todo := todo, index := index, flush := bit (byteAt d 32) 0 }
    expSeq := (s.recd.expSeq + 1) % 65536, expReady := false } }
  Reply.ok s.batch

/-- EXPORT and RELEASE (R287): their replies in the order R287 lists them. -/
def exportEvent (c : Cmd) (release : Bool) (s : State) : Reply :=
  let k := byteAt c.data 1
  if 63 < k then Reply.bad s 25
  else
    match s.recd.events.find k with
    | none => Reply.no s 8 0
    | some e =>
      if s.recd.qp.state ≠ .attached then Reply.no s 8 2
      else if e.state ≠ .closed then Reply.conflict s 6 e.state.code 4 0
      else if release then Reply.ok (s.freeEvent k)
      else if s.recd.exp.isSome then Reply.no s 9 0
      else exportStart k e c.data s

/-- REC_EXPORT by its KIND (R287). -/
def recExportBody (c : Cmd) (s : State) : Reply :=
  let k := byteAt c.data 0
  if k = 1 then exportAttach c s
  else if k = 2 then exportDetach s
  else if k = 3 then exportEvent c false s
  else if k = 4 then exportEvent c true s
  else Reply.bad s 24

/-- REC_EXPORT. -/
def recExport (c : Cmd) (s : State) : Out := .next (s.runCmd { code := 0x0A03 } c (fun _ s => recExportBody c s))

/-- REC_EXPORT ATTACH (R287). -/
def execRecExportAttach (c : Cmd) (s : State) : Out := recExport c s
/-- REC_EXPORT DETACH (R287). -/
def execRecExportDetach (c : Cmd) (s : State) : Out := recExport c s
/-- REC_EXPORT EXPORT (R278). -/
def execRecExportExport (c : Cmd) (s : State) : Out := recExport c s
/-- REC_EXPORT RELEASE (R276). -/
def execRecExportRelease (c : Cmd) (s : State) : Out := recExport c s

/-! ### Hove-to and resets (R277, R280, R289) -/

/-- Hove-to entry and exit (R277). -/
def State.recHove (s : State) (entering : Bool) : State :=
  if entering then
    if s.recd.running then (State.closeEvent { s with recd.held := true } true) else s
  else State.batch { s with recd.held := false }

/-- D13 leaves Run: capture stops, an export ends ABORTED, and what D13 holds is gone. -/
def State.recStop (s : State) : State :=
  { (s.exportEnd 3 0 0) with recd := {} }

/-- Warm reset and FLR of PF 0 (R289): every event is freed too, its blocks released, its table entry FREE. -/
def State.recReset (s : State) : State :=
  let s := s.exportEnd 3 0 0
  { ((s.recd.events.map (·.1)).foldl State.freeEvent s) with recd := {} }

end Sys2Proof.Machine
end

