-- ==== Sys2Proof/Machine/Almanac.lean ====
section
/-!
DEFINITION. Machine/Almanac.lean: the almanac (chapter 04): ingest, rows, seals, watches and their commands.
-/

set_option Elab.async false
namespace Sys2Proof.Machine

open Sys2Proof

/-! ### Rows (R92) -/

/-- Nominal instant of row `n`, in ns of the time base (R92). -/
def nominal (rate n : Nat) : Nat := n / rate * nsPerSec + n % rate * nsPerSec / rate

/-- The first row whose nominal instant is at or after an instant. -/
def firstRow (rate t : Nat) : Nat :=
  let k := t * rate / nsPerSec
  if nominal rate k < t then k + 1 else k

/-- How long before its nominal instant a row is opened (R104). -/
def openAhead : Nat := 100000

/-- Open-row slots of the engine (R103). -/
def rowSlots : Nat := 256

/-- Slots that an almanac needs (R103). -/
def slotsNeeded (rate windowUs : Nat) : Nat := ceilDiv ((windowUs + 100) * rate) 1000000 + 1

/-- Slots that no almanac has reserved. -/
def Alm.slotsFree (a : Alm) : Nat := rowSlots - a.tab.foldl (fun n (p : Nat × Almanac) => n + p.2.slots) 0

/-- A full timestamp from nanoseconds and seconds [31:0]: the one nearest the present, which may lie ahead of a time base that has
stepped back. -/
def State.fullStamp (s : State) (t : Nat × Nat) : Nat :=
  let d := (BitVec.ofInt 32 ((t.2 : Int) - s.time.sec)).toInt
  ((s.time.sec : Int) + d).toNat * nsPerSec + t.1

/-- A 32-bit two's complement field. -/
def s32 (v : Int) : Bytes := leBytes 4 (BitVec.ofInt 32 v).toNat

/-- A cell (Table 4-2): values, row, smpCnt, smpSynch, flags, arrival offset, confRev. -/
def cellBytes (values : Bytes) (n smpCnt synch flags : Nat) (arrival : Int) (confRev : Nat) : Bytes :=
  slice values 0 112 ++ leBytes 4 n ++ leBytes 2 smpCnt ++ [BitVec.ofNat 8 synch, BitVec.ofNat 8 flags] ++ s32 arrival ++ leBytes 4 confRev

/-- A cell is written (R93). -/
def State.writeCell (s : State) (a : Almanac) (n col : Nat) (b : Bytes) : State :=
  s.post0 (a.cellBase + (n % a.rows * a.cols + col) * 128) b

/-- An almanac changed. -/
def State.setAlm (s : State) (k : Nat) (a : Almanac) : State := { s with alm.tab := s.alm.tab.put k a }

/-- ARRIVAL_OFFSET of a cell that is not VALID. -/
def noArrival : Int := 0x7FFFFFFF

/-! ### Watches (R113, R114) -/

/-- What became of an event that is written only while its instance is ACTIVE. -/
inductive EventFate where
  | written | full | withheld
  deriving DecidableEq, Repr

/-- An event of R113 and R141: placed while the instance is ACTIVE and q15 has room; else counted as lost (R333). -/
def State.activePut (s : State) (i kind : Nat) (body : Bytes) : EventFate × State :=
  let lose (s : State) : State := s.setInst i { s.inst i with lost := (s.inst i).lost + 1, eventSeq := (s.inst i).eventSeq + 1 }
  if (s.inst i).state ≠ .active then (.withheld, lose s)
  else
    let s := s.flushLost i .active
    if (s.ring (eventRing i)).room ∧ (s.inst i).lost = 0 then (.written, s.putEvent i kind body) else (.full, lose s)

/-- Such an event, signalled at once. -/
def State.activeEvent (s : State) (i kind : Nat) (body : Bytes) : EventFate × State :=
  match s.activePut i kind body with
  | (.written, s) => (.written, s.moderate (eventRing i) (eventVector i kind))
  | r => r

/-- A watch of an instance, at instance × 8 + slot, changed. -/
def State.setWatch (s : State) (k : Nat) (w : Watch) : State := { s with alm.watches := s.alm.watches.put k w }

/-- Watches leave, and their counters stay readable (R118). -/
def State.dropWatches (s : State) (p : Nat → Watch → Bool) : State :=
  { s with
    alm.watches := s.alm.watches.filter (fun (x : Nat × Watch) => !p x.1 x.2)
    alm.watchOld := (s.alm.watches.filter (fun (x : Nat × Watch) => p x.1 x.2)).foldl (fun m x => m.put x.1 x.2.cnt) s.alm.watchOld }

/-- A counter of a watch raised. -/
def State.watchCount (s : State) (k c : Nat) : State :=
  { s with alm.watches := s.alm.watches.upd k (fun w => { w with cnt := w.cnt.inc c }) }

/-- A watch event: counter 0 when written, 3 when q15 is full. Whether it was written; it is not signalled yet. -/
def State.watchPut (s : State) (k kind : Nat) (body : Bytes) : Bool × State :=
  match s.activePut (k / 8) kind body with
  | (.written, s) => (true, s.watchCount k 0)
  | (.full, s) => (false, s.watchCount k 3)
  | (.withheld, s) => (false, s)

/-- A watch event of an instance is signalled. -/
def State.watchSignal (s : State) (k kind : Nat) : State := s.moderate (eventRing (k / 8)) (eventVector (k / 8) kind)

/-- A watch event on its own. -/
def State.watchEvent (s : State) (k kind : Nat) (body : Bytes) : State :=
  match s.watchPut k kind body with
  | (true, s) => s.watchSignal k kind
  | (false, s) => s

/-- Bytes 4 to 27 of an almanac event (Table 4-8). -/
def almEvent (slot alm flags n index : Nat) (off : Int) (missing : Nat) : Bytes :=
  [BitVec.ofNat 8 slot, BitVec.ofNat 8 alm] ++ leBytes 2 flags ++ leBytes 8 n ++ leBytes 4 index ++ s32 off ++ leBytes 2 missing ++ zeros 2

/-- One watch hears of a sealed row (R113); whether an event was written. -/
def State.notifyWatch (s : State) (k : Nat) (a : Almanac) (n : Nat) (off : Int) (flags missing j : Nat) (w : Watch) : Bool × State :=
  if w.alm ≠ k ∨ n % w.decimate ≠ w.phase then (false, s)
  else
    let late := decide ((w.lubber : Int) < off)
    let s := if late then s.watchCount j 1 else s
    let told := late || bit flags 0 || bit flags 3 || bit flags 5
    if w.lateOnly && !told then (false, s)
    else
      let s := { s with alm.watches := s.alm.watches.upd j (fun w => { w with due := w.due <|> some n }) }
      s.watchPut j 0x20 (almEvent (j % 8) k (flags + b2n late * 64) n (n % a.rows) off missing)

/-- The watches of an almanac hear of a sealed row (R113): all their events, then the messages (R110). -/
def State.notifyWatches (s : State) (k : Nat) (a : Almanac) (n : Nat) (off : Int) (flags missing : Nat) : State :=
  let r := s.alm.watches.foldl (fun (acc : List Nat × State) (p : Nat × Watch) =>
    let x := acc.2.notifyWatch k a n off flags missing p.1 p.2
    (if x.1 then acc.1 ++ [p.1] else acc.1, x.2)) (([] : List Nat), s)
  r.1.foldl (fun s j => s.watchSignal j 0x20) r.2

/-- The row a slot holds is overwritten: watches that have not finished it (R114). -/
def State.watchOverrun (s : State) (k : Nat) (a : Almanac) (old : Nat) : State :=
  s.alm.watches.foldl (fun s (p : Nat × Watch) =>
    let w := p.2
    let passed := match w.due with | some d => decide (d ≤ old) | none => false
    if w.alm ≠ k ∨ !w.ackRequired ∨ !passed then s
    else
      let s := { s with alm.watches := s.alm.watches.upd p.1 (fun w => { w with cnt := w.cnt.inc 2, overrun := true }) }
      if w.overrun then s else s.watchEvent p.1 0x21 (almEvent (p.1 % 8) k 128 old (old % a.rows) 0 0)) s

/-! ### Sealing (R95, R96, R105 to R107, R110) -/

/-- The cell of a subscribed column that has none at the seal instant: SUBSTITUTED or MISSING (R106), and whether it is the
former. SMPSYNCH of a SUBSTITUTED cell is not stated: it is a free value. -/
def State.fillCell (s : State) (a : Almanac) (n stream : Nat) : Bool × Bytes × State :=
  let miss := cellBytes [] n 0 0 2 noArrival 0
  match s.alm.streams.find stream with
  | none => (false, miss, s)
  | some st =>
    let sub := match st.last with
      | some (m, _) => st.subst && decide (n ≤ m + st.substMax) && (st.prev.map (· + 1) == some n)
      | none => false
    let s := { s with alm.streams := s.alm.streams.put stream { st with substituting := sub, prev := if sub then some n else st.prev } }
    if sub then
      let cell := (st.last.map (·.2)).getD []
      let (x, s) := s.draw
      (true, cellBytes cell n (n % a.rate) (x.toNat % 256) 6 noArrival (leAt cell 124 4), s)
    else (false, miss, s)

/-- Every column without a cell gets one, in column order: missing and substituted cells counted, and the cells of the
row. -/
def State.fillRow (s : State) (a : Almanac) (r : Row) : Nat × Nat × Bytes × State :=
  (List.range a.cols).foldl (fun (acc : Nat × Nat × Bytes × State) col =>
    let (m, u, b, s) := acc
    match r.cells.find col with
    | some c => (m, u, b ++ c, s)
    | none =>
      match r.cols.find col with
      | none =>
        let c := cellBytes [] r.n 0 0 32 noArrival 0
        (m, u, b ++ c, s.writeCell a r.n col c)
      | some st =>
        let (sub, c, s) := s.fillCell a r.n st
        (m + 1, u + b2n sub, b ++ c, s.writeCell a r.n col c)) (0, 0, [], s)

/-- The streams with a VALID cell in a row take it as their last. -/
def State.noteValid (s : State) (r : Row) : State :=
  r.cells.foldl (fun s (p : Nat × Bytes) =>
    match r.cols.find p.1 with
    | some st =>
      { s with alm.streams := s.alm.streams.upd st (fun x => { x with last := some (r.n, p.2), prev := some r.n, substituting := false }) }
    | none => s) s

/-- Streams that have ended and stand in no open row are gone (R99). -/
def State.dropEnded (s : State) : State :=
  let used (st : Nat) : Bool := s.alm.tab.any (fun (p : Nat × Almanac) => p.2.open_.any (fun r => r.cols.any (fun c => c.2 == st)))
  let gone := s.alm.streams.filter (fun (p : Nat × SvStream) => p.2.ending && !used p.1)
  { s with
    alm.streams := s.alm.streams.filter (fun (p : Nat × SvStream) => !p.2.ending || used p.1)
    alm.streamOld := gone.foldl (fun m p => match p.2.was with | some h => m.put h p.2.cnt | none => m) s.alm.streamOld }

/-- When SEAL_WINDOW ends for a row, on the time base; a step over that instant puts it at the step (R105, R108). -/
def Almanac.windowEnd (a : Almanac) (r : Row) : Nat :=
  let t := nominal a.rate r.n + a.window * 1000
  if r.stepped then max t r.stepNs else t

/-- ns that R107 allows a seal record, by the cells written at the seal instant. -/
def sealLimit (cells : Nat) : Nat := 2000 + 5 * cells

/-- The oldest open row of almanac `k` is sealed (R106, R110); `instant` is its seal instant on the time base. -/
def State.sealRow (s : State) (k instant : Nat) (aborted : Bool) : State :=
  match s.alm.tab.find k with
  | none => s
  | some a =>
    match a.open_ with
    | [] => s
    | r :: rest =>
      let n := r.n
      let nom := nominal a.rate n
      let off : Int := (s.tbNs : Int) - nom
      let s := s.noteValid r
      let (missing, subst, cells, s) := s.fillRow a r
      let skipped := match a.lastSealed with | some m => n - m - 1 | none => 0
      let gap := a.lastSealed.isNone || decide (0 < skipped)
      let uns := s.time.unsynced
      let flags := b2n (decide (0 < missing)) + b2n (decide (0 < subst)) * 2 + b2n uns * 4 + b2n gap * 8 + b2n r.stepped * 16 + b2n aborted * 32
      let byArr := (r.cells.filter (fun (c : Nat × Bytes) => bit (byteAt c.2 119) 3)).length
      let status := leBytes 2 r.cells.length ++ leBytes 2 missing ++ leBytes 2 subst ++ leBytes 2 byArr ++ s32 off ++
        leBytes 4 (nom % nsPerSec) ++ leBytes 6 (nom / nsPerSec) ++ [BitVec.ofNat 8 s.time.quality.code, 0] ++ leBytes 4 s.time.bound ++
        leBytes 2 flags ++ zeros 18
      let at_ := a.statusBase + n % a.rows * 64
      let s := s.post0 at_ status
      let fin := leBytes 8 n ++ [2] ++ zeros 7
      let s := s.post0 (at_ + 48) fin
      let rec_ := a.sealBase + a.sealSeq % a.sealEntries * 32
      let s := s.post0 rec_ (leBytes 4 (n % a.rows) ++ s32 off ++ leBytes 2 flags ++ leBytes 2 missing ++
        leBytes 4 (if gap then min skipped (2 ^ 32 - 1) else 0) ++ leBytes 8 a.sealSeq)
      let s := s.post0 (rec_ + 24) (leBytes 8 n)
      let a := { a with
        open_ := rest
        lastSealed := some n
        sealSeq := a.sealSeq + 1
        sealed := a.sealed + 1
        incomplete := a.incomplete + BitVec.ofNat 32 (b2n (decide (0 < missing)))
        missing := a.missing + BitVec.ofNat 32 missing
        substituted := a.substituted + BitVec.ofNat 32 subst
        unsynced := a.unsynced + BitVec.ofNat 32 (b2n uns) }
      let s := if bit s.recd.cfg.almMask k then s.record 1 nom (k + (a.cols - 1) * 65536) n (status ++ fin ++ cells) else s
      let mark : PostMark := { alm := some k, spent := s.tbNs - instant, since := s.now, limit := sealLimit (a.cols - r.cells.length) }
      (((s.setAlm k a).dropEnded).notePost mark).notifyWatches k a n off flags missing

/-- Rows complete by the time the row before them is sealed are sealed with it (R105), at most `fuel` of them. -/
def State.sealChain : Nat → Nat → State → State
  | 0, _, s => s
  | f + 1, k, s =>
    match s.alm.tab.find k with
    | some a =>
      match a.open_ with
      | r :: _ => if a.early && r.complete then State.sealChain f k (s.sealRow k s.tbNs false) else s
      | [] => s
    | none => s

/-- Every open row of an almanac sealed with ABORTED (R109). -/
def State.abortRows (s : State) (k : Nat) : State :=
  match s.alm.tab.find k with
  | some a => a.open_.foldl (fun s _ => s.sealRow k s.tbNs true) s
  | none => s

/-- The engine runs: D12 in Run and not stopped under R109. -/
def State.almRuns (s : State) : Bool := s.inRun 12 && !s.alm.hoveTo

/-- ALM_ROW_OPEN (R104, R108): the next row of an almanac, if its instant has come; rows whose nominal instant is past are
never opened. -/
def execAlmRowOpen (alm : Nat) (s : State) : Out :=
  match s.alm.tab.find alm with
  | none => .next s
  | some a =>
    let tb := s.tbNs
    let n := max a.next (firstRow a.rate tb)
    if !s.almRuns || decide (tb + openAhead < nominal a.rate n) || decide (a.slots ≤ a.open_.length) then .next s
    else
      let idx := n % a.rows
      let s := match a.holds.find idx with
        | some old => s.watchOverrun alm a old
        | none => s
      let cols := s.alm.streams.foldl (fun (m : KMap Nat) (p : Nat × SvStream) =>
        if p.2.alm == alm && !p.2.ending then m.put p.2.column p.1 else m) []
      let a := { a with open_ := a.open_ ++ [{ n := n, cols := cols }], next := n + 1, holds := a.holds.put idx n }
      .next ((s.setAlm alm a).post0 (a.statusBase + idx * 64 + 48) (leBytes 8 n ++ [1] ++ zeros 7))

/-- ALM_ROW_SEAL (R105): the oldest open row, at or after its nominal instant plus SEAL_WINDOW. -/
def execAlmRowSeal (alm : Nat) (s : State) : Out :=
  match s.alm.tab.find alm with
  | none => .next s
  | some a =>
    match a.open_ with
    | [] => .next s
    | r :: _ =>
      if s.almRuns && decide (nominal a.rate r.n + a.window * 1000 ≤ s.tbNs) then
        .next (State.sealChain a.open_.length alm (s.sealRow alm (a.windowEnd r) false))
      else .next s

/-! ### Ingest (R21, R22, R100 to R102) -/

/-- A stream's counter raised. -/
def State.streamCount (s : State) (st k : Nat) : State :=
  { s with alm.streams := s.alm.streams.upd st (fun x => { x with cnt := x.cnt.inc k }) }

/-- A counter of ALM_CNT raised. -/
def State.almCount (s : State) (k : Nat) : State := { s with alm.cnt := s.alm.cnt.inc k }

/-- The row an ASDU belongs to by its receive timestamp `t`, and whether by arrival; none when counter 6 takes it (R102). -/
def asduRow (st : SvStream) (rate : Nat) (x : Asdu) (t : Nat) : Option (Nat × Bool) :=
  let d : Int := (t : Int) - st.delayNom
  if x.smpSynch ≠ 0 then
    if rate ≤ x.smpCnt then none
    else
      let num := d * rate - (x.smpCnt * nsPerSec : Nat)
      let sec := (2 * num + (nsPerSec * rate : Nat)) / (2 * nsPerSec * rate : Nat)
      some ((sec * rate + x.smpCnt).toNat, false)
  else if st.requireSync then none
  else some (((2 * d * rate + nsPerSec) / (2 * nsPerSec : Nat)).toNat, true)

/-- One ASDU of an accepted frame placed (R102); true when its cell was written. -/
def State.placeAsdu (s : State) (id : Nat) (sim : Bool) (t : Nat) (x : Asdu) : Bool × State :=
  match s.alm.streams.find id with
  | none => (false, s)
  | some st =>
    match s.alm.tab.find st.alm with
    | none => (false, s)
    | some a =>
      match asduRow st a.rate x t with
      | none => (false, s.streamCount id 6)
      | some (n, arr) =>
        let nom := nominal a.rate n
        if t + openAhead < nom then (false, (s.streamCount id 7).almCount 2)
        else if (match a.lastSealed with | some m => decide (n ≤ m) | none => false) then (false, (s.streamCount id 7).almCount 3)
        else
          match a.open_.find? (fun r => r.n == n) with
          | none => (false, (s.streamCount id 7).almCount (if n < a.next then 3 else 2))
          | some r =>
            if r.cols.find st.column ≠ some id then (false, s.streamCount id 7)
            else if r.cells.has st.column then (false, s.streamCount id 1)
            else
              let flags := 1 + b2n arr * 8 + b2n sim * 16 + b2n st.auth * 64
              let cell := cellBytes x.values n x.smpCnt x.smpSynch flags ((t : Int) - nom) x.confRev
              let s := s.writeCell a n st.column cell
              let cells := r.cells.put st.column cell
              let r := { r with cells := cells, complete := r.cols.all (fun c => cells.has c.1) }
              let a := { a with open_ := a.open_.map (fun q => if q.n = n then r else q) }
              let s := (s.setAlm st.alm a).streamCount id 0
              (true, State.sealChain a.open_.length st.alm s)

/-- The frame's arrival-to-post time is measured, against 4.00 µs (R22), when its last cell leaves the endpoint. -/
def State.ingestTime (s : State) (at_ : Nat) : State := s.notePost { since := at_, limit := 4000 }

/-- The ASDUs of an accepted frame placed one by one; whether any was placed (R102). -/
def State.svPlace (s : State) (id : Nat) (sim : Bool) (t : Nat) (xs : List Asdu) : Bool × State :=
  xs.foldl (fun (acc : Bool × State) x =>
    let r := acc.2.placeAsdu id sim t x
    (acc.1 || r.1, r.2)) (false, s)

/-- The check of an authenticated stream's frame (R100). -/
def State.svAuth (s : State) (st : SvStream) (b : Bytes) : Bool × State := if st.auth then s.pbCheck st.authCtx b else (true, s)

/-- A matched frame goes on only when nothing of R100 discards it. The first ASDU's svID has selected the stream; a later ASDU with
another svID is a format error (the model's choice, log entry 149). -/
def State.svAccept (s : State) (id : Nat) (st : SvStream) (q : Steered) (sim : Bool) (xs : List Asdu) : State :=
  let rev := (xs.head?.map (·.confRev)).getD 0
  let s := { s with alm.streams := s.alm.streams.upd id (fun x => { x with lastConfRev := rev }) }
  if 8 < xs.length ∨ xs.any (fun x => x.values.length != st.nval * 8 || x.svid != st.svid) then s.streamCount id 2
  else
    match xs.find? (fun x => st.checkConfRev && x.confRev != st.confRev) with
    | some x =>
      let s := s.streamCount id 3
      if st.reported = some x.confRev then s
      else State.event { s with alm.streams := s.alm.streams.upd id (fun y => { y with reported := some x.confRev }) } 13
    | none =>
      let s := { s with alm.streams := s.alm.streams.upd id (fun y => { y with reported := none }) }
      let r := s.svAuth st q.body
      if !r.1 then r.2.streamCount id 4
      else if sim ∧ !st.acceptSim then r.2.streamCount id 5
      else
        let p := r.2.svPlace id sim (r.2.fullStamp q.stamp) xs
        if p.1 then p.2.ingestTime q.at_ else p.2

/-- SV_FRAME_INGEST (R100 to R102): the frame that waits first. A frame without a readable svID counts against the one
stream of its address and APPID, if there is exactly one. -/
def execSvFrameIngest (s : State) : Out :=
  match s.alm.queue with
  | [] => .next s
  | q :: qs =>
    if !s.almRuns then .next s
    else
      let s := { s with alm.queue := qs }
      let dst := beAt q.body 0 6
      let (appid, sim, xs) := match pbPdu q.body etSv with
        | some (a, m, p) => (a, m, readSv p)
        | none => (beAt q.body ((parse q.body).etOff + 2) 2, false, none)
      let mine := s.alm.streams.filter (fun (p : Nat × SvStream) => p.2.dst == dst && p.2.appid == appid)
      match xs with
      | none =>
        match mine with
        | [(id, _)] => .next (s.streamCount id 2)
        | _ => .next (s.almCount 0)
      | some xs =>
        let svid := (xs.head?.map (·.svid)).getD []
        match mine.find? (fun p => p.2.svid == svid) with
        | some (id, st) => .next (s.svAccept id st q sim xs)
        | none => .next (s.almCount 0)

/-! ### Host writes (R114, R118) -/

/-- WATCH_ACK (R114): the low 24 bits of a row number, extended at or below the last sealed row. -/
def execWatchAck (inst : Nat) (value : W32) (s : State) : Out :=
  let i := inst % 512
  let k := i * 8 + value.toNat % 8
  if !s.linkReady then .next s
  else if (s.inst i).state = .absent then .next (s.violPf0 2 i (i * 0x1000 + 0x800))
  else
    match s.alm.watches.find k with
    | none => .next s
    | some w =>
      match (s.alm.tab.find w.alm).bind (·.lastSealed) with
      | none => .next s
      | some last =>
        if !s.inRun 12 then .next s
        else
          let back := (last % 2 ^ 24 + 2 ^ 24 - value.toNat / 256) % 2 ^ 24
          .next (s.setWatch k { w with due := some (last - back + 1), overrun := false })

/-- ALM_CLR_INGEST_MAX (R118): a write of ALM_CTRL. -/
def execAlmClrIngestMax (value : W32) (s : State) : Out :=
  .next (s.inBlock 12 fun s => if bit value.toNat 0 then { s with alm.ingestMax := 0 } else s)

/-! ### Commands (R98, R99, R111, R112, R116, R117) -/

/-- The first field of Table 4-6 out of range; COLUMN against its almanac, where it exists. -/
def svBad (b : Bytes) (a : Option Almanac) : Option Nat :=
  let col := leAt b 16 2
  if 15 < byteAt b 12 then some 12
  else if byteAt b 13 = 0 ∨ 14 < byteAt b 13 then some 13
  else if byteAt b 15 = 0 then some 15
  else if (match a with | some x => decide (x.cols ≤ col) | none => false) then some 16
  else if leAt b 18 2 = 0 ∨ 64 < leAt b 18 2 then some 18
  else if 10000000 < leAt b 20 4 then some 20
  else none

/-- A stream from Table 4-6. -/
def readStream (b : Bytes) : SvStream :=
  let f := byteAt b 14
  { dst := beAt b 0 6, appid := beAt b 6 2, confRev := leAt b 8 4, alm := byteAt b 12, nval := byteAt b 13
    subst := bit f 0, acceptSim := bit f 1, auth := bit f 2, checkConfRev := bit f 3, requireSync := bit f 4
    substMax := byteAt b 15, column := leAt b 16 2, delayNom := leAt b 20 4, authCtx := leAt b 24 4, svid := slice b 32 (leAt b 18 2) }

/-- The key of a newly pinned context is derived (R226). -/
def State.pinKey (s : State) (h : Nat) : State :=
  match s.ctx h with
  | some x => if s.lodeLoaded && (s.cached h x).isNone then (s.loadKey h x).2 else s
  | none => s

/-- SV_SUBSCRIBE's effect (R99). -/
def svSubscribeBody (c : Cmd) (b : Bytes) (s : State) : Reply :=
  let h := c.handle
  let st := readStream b
  let a := s.alm.tab.find st.alm
  let live := s.alm.streams.filter (fun (p : Nat × SvStream) => !p.2.ending)
  if 1023 < h then Reply.bad s 8
  else
    match svBad b a with
    | some o => Reply.badBuf s o
    | none =>
      if a.isNone ∨ (st.auth ∧ (s.ctx st.authCtx).isNone) then Reply.no s 8 0
      else if live.any (fun (p : Nat × SvStream) => p.1 == h || (p.2.alm == st.alm && p.2.column == st.column) ||
          (p.2.dst == st.dst && p.2.appid == st.appid && p.2.svid == st.svid)) then Reply.no s 7 0
      else
        let s := { s with
          alm.streams := (s.alm.streams.mapVals (fun _ x => if x.was = some h then { x with was := none } else x)).put h st }
        Reply.ok (if st.auth then s.pinKey st.authCtx else s)

/-- SV_SUBSCRIBE (R98, R99). -/
def execSvSubscribe (c : Cmd) (s : State) : Out :=
  .next (s.runCmd { code := 0x0802, lens := [128], needsD12 := true } c (fun b s => svSubscribeBody c b s))

/-- SV_UNSUBSCRIBE's effect (R99): the stream serves the rows that are open, under a number of its own, until they are
sealed. -/
def svUnsubscribeBody (c : Cmd) (s : State) : Reply :=
  let h := c.handle
  match s.alm.streams.find h with
  | none => Reply.no s 8 0
  | some st =>
    if st.ending then Reply.no s 8 0
    else
      let k := (s.alm.streams.firstFree 1024 65536).getD 1024
      let re (r : Row) : Row := { r with cols := r.cols.map (fun p => if p.2 = h then (p.1, k) else p) }
      let s := { s with
        alm.streams := (s.alm.streams.drop1 h).put k { st with ending := true, was := some h }
        alm.tab := s.alm.tab.mapVals (fun _ a => { a with open_ := a.open_.map re }) }
      Reply.ok s.dropEnded

/-- SV_UNSUBSCRIBE (R99). -/
def execSvUnsubscribe (c : Cmd) (s : State) : Out :=
  .next (s.runCmd { code := 0x0803, needsD12 := true } c (fun _ s => svUnsubscribeBody c s))

/-- A power of two between 64 and 65,536. -/
def ringPow (n : Nat) : Bool := (List.range 11).any (fun k => n == 2 ^ (k + 6))

/-- The first field of Table 4-9 out of range; ROWS 0 is its default, SEAL_ENTRIES 0 is 65,536. -/
def almBad (b : Bytes) (rows entries : Nat) : Option Nat :=
  if leAt b 0 4 < 100 ∨ 96000 < leAt b 0 4 then some 0
  else if !ringPow rows then some 4
  else if leAt b 8 2 = 0 ∨ 1024 < leAt b 8 2 then some 8
  else if leAt b 10 2 < 20 ∨ 500 < leAt b 10 2 then some 10
  else if leAt b 16 8 % 4096 ≠ 0 then some 16
  else if leAt b 24 8 % 4096 ≠ 0 then some 24
  else if leAt b 32 8 % 4096 ≠ 0 then some 32
  else if !ringPow entries then some 40
  else none

/-- ALM_CREATE's effect without DESTROY (R117). -/
def almCreateBody (c : Cmd) (b : Bytes) (s : State) : Reply :=
  let k := c.handle
  let rate := leAt b 0 4
  let window := leAt b 10 2
  let rows := if leAt b 4 4 = 0 then 4096 else leAt b 4 4
  let entries := if leAt b 40 2 = 0 then 65536 else leAt b 40 2
  let need := slotsNeeded rate window
  if 15 < k then Reply.bad s 8
  else if s.alm.tab.has k then Reply.no s 7 0
  else if s.alm.slotsFree < need then Reply.no s 4 0
  else
    match almBad b rows entries with
    | some o => Reply.badBuf s o
    | none =>
      let a : Almanac :=
        { rate := rate, rows := rows, cols := leAt b 8 2, window := window, early := bit (byteAt b 12) 0
          cellBase := leAt b 16 8, statusBase := leAt b 24 8, sealBase := leAt b 32 8, sealEntries := entries
          slots := need, next := firstRow rate (s.tbNs + openAhead) }
      Reply.ok (State.setAlm { s with alm.marks := s.alm.marks.filter (fun m => m.alm != some k) } k a)

/-- An almanac is sealed under R109 and removed; its slots return. -/
def State.almDestroy (s : State) (k : Nat) : State :=
  let s := s.abortRows k
  { s with
    alm.tab := s.alm.tab.drop1 k
    alm.tabOld := match s.alm.tab.find k with | some a => s.alm.tabOld.put k a | none => s.alm.tabOld }

/-- ALM_CREATE with DESTROY (R117). -/
def almDestroyBody (c : Cmd) (s : State) : Reply :=
  let k := c.handle
  if 15 < k then Reply.bad s 8
  else if !s.alm.tab.has k then Reply.no s 8 0
  else if s.alm.streams.any (fun (p : Nat × SvStream) => !p.2.ending && p.2.alm == k) then Reply.no s 9 0
  else Reply.ok (s.almDestroy k).dropEnded

/-- ALM_CREATE in either form; the DESTROY flag of the buffer says which. -/
def almBody (c : Cmd) (b : Bytes) (s : State) : Reply := if bit (byteAt b 12) 7 then almDestroyBody c s else almCreateBody c b s

/-- ALM_CREATE (R116, R117). -/
def execAlmCreate (c : Cmd) (s : State) : Out :=
  .next (s.runCmd { code := 0x0804, lens := [64], needsD12 := true } c (fun b s => almBody c b s))

/-- ALM_DESTROY (R117): ALM_CREATE with DESTROY set. -/
def execAlmDestroy (c : Cmd) (s : State) : Out :=
  .next (s.runCmd { code := 0x0804, lens := [64], needsD12 := true } c (fun b s => almBody c b s))

/-- ALM_WATCH's effect (R112), its checks in the order R112 lists them. -/
def almWatchBody (c : Cmd) (s : State) : Reply :=
  let d := c.data
  let alm := byteAt d 0
  let slot := byteAt d 1
  let f := byteAt d 2
  let right := c.inst * 16 + alm % 16
  let key := c.inst * 8 + slot
  let tenant := (cmdTenant c).isSome
  if bit f 7 then
    if tenant then Reply.denied s 0
    else if 15 < alm then Reply.bad s 24
    else if !s.alm.tab.has alm then Reply.no s 8 0
    else if bit f 6 then Reply.ok { s with alm.rights := addNew s.alm.rights right }
    else
      Reply.ok (State.dropWatches { s with alm.rights := s.alm.rights.filter (· != right) }
        (fun j w => j / 8 == c.inst && w.alm == alm))
  else if tenant ∧ (15 < alm ∨ !s.alm.rights.contains right) then Reply.denied s 0
  else if 15 < alm then Reply.bad s 24
  else if !s.alm.tab.has alm then Reply.no s 8 0
  else if 7 < slot then Reply.bad s 25
  else
    let lub := leAt d 4 4
    let dec := leAt d 8 2
    let ph := leAt d 10 2
    if lub < 1000 ∨ 1000000 < lub then Reply.bad s 28
    else if dec = 0 ∨ 4096 < dec then Reply.bad s 32
    else if dec ≤ ph then Reply.bad s 34
    else if !bit f 0 then Reply.ok (s.dropWatches (fun j _ => j == key))
    else
      Reply.ok (s.setWatch key
        { alm := alm, ackRequired := bit f 1, lateOnly := bit f 2, lubber := lub, decimate := dec, phase := ph })

/-- ALM_WATCH (R111, R112). -/
def execAlmWatch (c : Cmd) (s : State) : Out :=
  .next (s.runCmd { code := 0x0805, tenant := true, inst := .inst, needsD12 := true, states := 0x3E } c (fun _ s => almWatchBody c s))

/-! ### Resets and hove-to (R109, R115, R117) -/

/-- Every almanac, subscription, watch and right is gone, without a write (R117). -/
def State.almWipe (s : State) : State := { s with alm := {} }

/-- An instance loses its watches and rights (R115). -/
def State.almInstReset (s : State) (i : Nat) : State :=
  State.dropWatches { s with alm.rights := s.alm.rights.filter (fun r => r / 16 != i) } (fun j _ => j / 8 == i)

/-- Hove-to: every open row is sealed ABORTED, and the engine stops (R109); afterwards it goes on (R108). -/
def State.almHove (s : State) (entering : Bool) : State :=
  if entering then
    let s := (s.alm.tab.map (·.1)).foldl State.abortRows s
    { s with alm.hoveTo := true, alm.queue := [] }
  else { s with alm.hoveTo := false }

end Sys2Proof.Machine
end

