-- ==== Sys2Proof/Machine/Helm.lean ====
section
/-!
DEFINITION. Machine/Helm.lean: Helm's threads, events, channels and faults, the debugger, the becalmed detector and the
snapshot (chapter 16). Which thread issues next is the order in which these commands come (log entry 25).
-/

set_option Elab.async false
namespace Sys2Proof.Machine

open Sys2Proof

/-! ### Threads and channels -/

/-- A thread; one that is not listed is FREE. -/
def State.thread (s : State) (t : Nat) : Thread := s.helm.thr.getD t {}

/-- A thread changed. -/
def State.setThread (s : State) (t : Nat) (x : Thread) : State := { s with helm.thr := s.helm.thr.put t x }

/-- A channel. -/
def State.chan (s : State) (c : Nat) : Chan := s.helm.chans.getD c {}

/-- A channel changed. -/
def State.setChan (s : State) (c : Nat) (x : Chan) : State := { s with helm.chans := s.helm.chans.put c x }

/-- A counter of HELM_CNT raised. -/
def State.helmCount (s : State) (k : Nat) : State := { s with helm.cnt := s.helm.cnt.inc k }

/-- The Helm event with a cause of EVT_HELM_CAUSE. -/
def State.helmEvent (s : State) (k : Nat) : State := State.event { s with evt.helm := s.evt.helm ||| 2 ^ k } 18

/-- Threads of the pool (R378): thread 0 is never in it. -/
def poolThreads : Nat := 128
/-- The fault channel. -/
def faultChan : Nat := 255
/-- Message slots that the channels share (R387). -/
def chanSlots : Nat := 4096

/-- A message is committed to a channel (R388); its source pulses when the channel was empty. -/
def State.chanPut (s : State) (c : Nat) (m : List W32) : State :=
  let x := s.chan c
  (s.setChan c { x with msgs := x.msgs ++ [m] }).levelRise (576 + c) (!x.msgs.isEmpty) true

/-- A message in w24 upwards, zeros after it, and its length in the result register (CHRECV). -/
def Thread.takeMsg (x : Thread) (rd : Nat) (m : List W32) : Thread :=
  let regs := (List.range 8).foldl (fun r k => r.set (24 + k) (m.getD k 0)) x.regs
  ({ x with regs := regs } : Thread).setReg rd (BitVec.ofNat 32 m.length)

/-- A commit has been made: the staging buffer is empty. -/
def Thread.committed (x : Thread) (rd : Nat) : Thread := { x.setReg rd 0 with stageCh := none, stage := [], sending := [] }

/-- Waiting receivers and senders of a channel are served in the order in which they began to wait; one that the debugger
has halted keeps its place (R388, R391). -/
def State.serveChan : Nat → Nat → State → State
  | 0, _, s => s
  | f + 1, c, s =>
    let x := s.chan c
    match x.msgs, x.receivers.find? (fun t => (s.thread t).state == .waitRecv) with
    | m :: ms, some t =>
      let y := s.thread t
      let s := s.setChan c { x with msgs := ms, receivers := x.receivers.filter (· != t) }
      State.serveChan f c (s.setThread t { y.takeMsg y.rd m with state := .runnable })
    | _, _ =>
      match x.senders.find? (fun t => (s.thread t).state == .waitSend) with
      | some t =>
        if x.msgs.length < x.depth then
          let y := s.thread t
          let s := (s.setChan c { x with senders := x.senders.filter (· != t) }).chanPut c y.sending
          State.serveChan f c (s.setThread t { y.committed y.rd with state := .runnable })
        else s
      | none => s

/-- A channel serves all it can. -/
def State.serve (s : State) (c : Nat) : State := State.serveChan 256 c s

/-! ### The end of a thread (R381, R392, R398) -/

/-- A mover's lock is given up: a LOADED shadow set is discarded, and its source rises (R398). -/
def State.moverFree (s : State) (m : Nat) : State :=
  match s.helm.movers[m]? with
  | some x =>
    let s := { s with helm.movers := s.helm.movers.set m { x with held := false, shadow := none } }
    s.levelRise (16 + m) x.shadow.isNone true
  | none => s

/-- What EXIT and a kill release: staged words, inputs, timer, raw lanes, movers, and a place in a channel's queue. -/
def State.threadLeave (s : State) (t : Nat) : State :=
  let x := s.thread t
  let s := match x.stageCh with
    | some c => s.setChan c { s.chan c with torn := (s.chan c).torn + 1 }
    | none => s
  let drop (l : List Nat) : List Nat := l.filter (· != t)
  let s := s.rawDrop t
  let s := { s with helm.chans := s.helm.chans.mapVals (fun _ c => { c with senders := drop c.senders, receivers := drop c.receivers }) }
  let s := (List.range 16).foldl (fun s m =>
    let y := s.helm.movers.getD m {}
    if y.held && y.owner == t then s.moverFree m else s) s
  s.setThread t { x with
    inputs := List.replicate 8 none
    latched := 0
    timer := none
    stageCh := none
    stage := []
    sending := [] }

/-- The thread that waits in JOIN for `t`, if any, the debugger's halt notwithstanding. -/
def State.joiner (s : State) (t : Nat) : Option Nat :=
  (s.helm.thr.find? (fun (p : Nat × Thread) =>
    p.2.target == t && (p.2.state == .waitJoin || (p.2.state == .debugHalt && p.2.prior == .waitJoin)))).map (·.1)

/-- A DONE thread returns to the pool, its exit value to the thread that joined it (R381). -/
def State.joinTake (s : State) (j t : Nat) : State :=
  let v := (s.thread t).exitVal
  let s := { s with helm.thr := s.helm.thr.drop1 t }
  let y := s.thread j
  s.setThread j { y.setReg y.rd v with state := .runnable }

/-- A thread becomes DONE (R381). -/
def State.threadExit (s : State) (t : Nat) (v : W32) : State :=
  let s := s.threadLeave t
  let s := s.setThread t { s.thread t with state := .done, exitVal := v }
  match s.joiner t with
  | some j => if (s.thread j).state = .waitJoin then s.joinTake j t else s
  | none => s

/-- A thread is killed (R392). -/
def State.threadKill (s : State) (t : Nat) : State :=
  let s := s.threadLeave t
  let s := State.helmCount { s with helm.thr := s.helm.thr.drop1 t } 7
  match s.joiner t with
  | some j =>
    let y := (s.thread j).setReg (s.thread j).rd 0xFFFFFFFF
    s.setThread j (if y.state = .waitJoin then { y with state := .runnable } else { y with prior := .runnable })
  | none => s

/-! ### The snapshot (Table 16-6) -/

/-- A thread's 32 bytes; what stands for an unmapped input is a free value. -/
def Thread.snap (x : Thread) (unmapped : Nat) : Bytes :=
  let prior := if x.state = .debugHalt ∨ x.state = .faultHalt then x.prior.code else 0
  let at_ := if x.state = .debugHalt then x.prior else x.state
  let on := if at_ = .waitJoin then x.target else if at_ = .waitSend ∨ at_ = .waitRecv then x.chan else 0
  let map_ := (List.range 8).foldl (fun a k => a + (x.inputs.getD k none).getD (unmapped % 1024) * 2 ^ (10 * k)) 0
  [BitVec.ofNat 8 x.state.code, BitVec.ofNat 8 prior, BitVec.ofNat 8 x.cls,
    BitVec.ofNat 8 (b2n x.trapActive + b2n x.timer.isSome * 2 + b2n x.stageCh.isSome * 4)] ++ leBytes 4 x.pc.toNat ++
    [BitVec.ofNat 8 x.mask, BitVec.ofNat 8 x.latched] ++ leBytes 2 on ++ leBytes 10 map_ ++
    [BitVec.ofNat 8 (x.stageCh.getD 0), BitVec.ofNat 8 x.stage.length] ++ zeros 8

/-- A channel's 8 bytes. -/
def Chan.snap (x : Chan) : Bytes :=
  [BitVec.ofNat 8 x.depth, BitVec.ofNat 8 x.msgs.length] ++ leBytes 2 x.torn.toNat ++
    [BitVec.ofNat 8 x.senders.length, BitVec.ofNat 8 x.receivers.length, 0, 0]

/-- A snapshot with its cause is stored in the diagnostic area (R395). -/
def State.takeSnapshot (s : State) (cause : Nat) : State :=
  let (u, s) := s.draw
  let n := s.helm.snapSeq + 1
  let t := s.inRun 12
  let b := leBytes 4 0x50414E53 ++ leBytes 4 n ++ [BitVec.ofNat 8 cause] ++ zeros 7 ++
    leBytes 6 (if t then s.time.sec else 0) ++ zeros 2 ++ leBytes 4 (if t then s.time.ns else 0) ++ zeros 36 ++
    (List.range 128).flatMap (fun k => (s.thread k).snap u.toNat) ++ (List.range 256).flatMap (fun c => (s.chan c).snap)
  { s with helm.snapSeq := n, helm.snapshot := some b }

/-! ### Faults (R389, R390) -/

/-- Fault kinds (Table 16-4). -/
inductive HelmFault where
  | illegal | align | access | badJoin | badWait | badEvent | channel | break_ | memory
  deriving DecidableEq, Repr

/-- Code of a fault kind. -/
def HelmFault.code : HelmFault → Nat
  | .illegal => 1
  | .align => 2
  | .access => 3
  | .badJoin => 4
  | .badWait => 5
  | .badEvent => 6
  | .channel => 7
  | .break_ => 8
  | .memory => 9

/-- A thread faults (R389): its record goes to channel 255, or to its trap handler, or nowhere; a fault of thread 0 that halts
it is told to Binnacle, with a snapshot (R390, R395). The origin of the clock count in the record is not stated: it is free. -/
def State.threadFault (s : State) (t : Nat) (kind : HelmFault) (addr : Nat) (word : W32) : State :=
  let x := s.thread t
  let (clk, s) := s.draw
  let rec_ : List W32 :=
    [BitVec.ofNat 32 (kind.code + t * 256 + x.state.code * 2 ^ 15), x.pc, BitVec.ofNat 32 addr, word, BitVec.ofNat 32 clk.toNat, 0, 0, 0]
  let halt (s : State) : State := s.setThread t { x with state := .faultHalt, prior := x.state, faultAt := s.now }
  if t ≠ 0 ∧ (s.thread 0).state ≠ .faultHalt ∧ (s.chan faultChan).msgs.length < (s.chan faultChan).depth then
    (((halt s).chanPut faultChan rec_).serve faultChan).helmCount 2
  else if x.trap ≠ 0 ∧ !x.trapActive then
    let y := x.takeMsg 0 rec_
    (s.setThread t { y with trapActive := true, pc := x.trap }).helmCount 3
  else
    let s := ((halt s).helmCount 4).helmEvent 0
    if t = 0 then (s.helmEvent 1).takeSnapshot 2 else s

/-! ### Issue (R382, R391, R394) -/

/-- The conditions of R394 hold: every live thread waits, no timer is armed and mapped, none is halted by the debugger, no mover
has an active set. -/
def State.calm (s : State) : Bool :=
  s.helm.thr.all (fun (p : Nat × Thread) =>
    let x := p.2
    x.state != .runnable && x.state != .debugHalt && !(x.timer.isSome && x.inputs.contains (some (832 + p.1)))) &&
  s.helm.movers.all (fun m => m.active.isNone)

/-- The becalmed time runs from the last moment at which a condition did not hold (R394). -/
def State.calmAfter (s old : State) : State := if old.calm then s else { s with helm.calmSince := s.now }

/-- The core of a thread is out of reset. -/
def State.coreRuns (s : State) (t : Nat) : Bool := s.inRun 4 && bit s.helm.cores (t / 16)

/-- An enabled breakpoint matches an address. -/
def State.breakpoint (s : State) (pc : W32) : Bool :=
  s.helm.breakEn && s.helm.bp.any (fun b => bit b.toNat 0 && b.toNat / 4 == pc.toNat / 4)

/-- A thread enters DEBUG_HALT, its state kept. -/
def State.debugHalt (s : State) (t : Nat) : State :=
  let x := s.thread t
  s.setThread t { x with state := .debugHalt, prior := x.state, stepping := false }

/-- After one instruction a thread that was stepped halts again (R391). -/
def State.afterStep (s : State) (t : Nat) : State :=
  let x := s.thread t
  if !x.stepping then s
  else if x.state = .done ∨ x.state = .free ∨ x.state = .faultHalt ∨ x.state = .debugHalt then s.setThread t { x with stepping := false }
  else s.debugHalt t

/-- How an instruction ends: with its effect, or with a fault and the data address concerned. -/
abbrev HelmEnd := Except (HelmFault × Nat) State

/-- A RUNNABLE thread issues one instruction: a breakpoint halts it before; a fault leaves no effect of it (R389). -/
def State.issueInstr (s : State) (thread : Nat) (word : W32) (act : Nat → State → HelmEnd) : State :=
  let t := thread % 128
  let x := s.thread t
  if !(s.coreRuns t && x.state == .runnable) then s
  else if s.breakpoint x.pc && !x.skipBp then (s.debugHalt t).calmAfter s
  else
    let s1 := s.setThread t { x with skipBp := false }
    let s2 := match act t (s1.setThread t { x with skipBp := false, pc := x.pc + 4 }) with
      | .ok r => r
      | .error (k, a) => s1.threadFault t k a word
    (s2.afterStep t).calmAfter s

/-- The word of an instruction of Table 16-2. -/
def helmWord (o : HelmOp) (func : Nat) : W32 :=
  BitVec.ofNat 32 (0x3E * 2 ^ 26 + o.rd.toNat * 2 ^ 21 + o.rs.toNat * 2 ^ 16 + o.rt.toNat * 2 ^ 11 + o.imm.toNat * 32 + func)

/-- An instruction of Table 16-2 whose unused fields are zero; else fault ILLEGAL (R382). -/
def State.issueOp (s : State) (thread func : Nat) (o : HelmOp) (used : Bool) (act : Nat → State → HelmEnd) : State :=
  s.issueInstr thread (helmWord o func) (fun t s => if used then act t s else .error (.illegal, 0))

/-- A result in the register named by RD. -/
def State.result (s : State) (t : Nat) (o : HelmOp) (v : W32) : State := s.setThread t ((s.thread t).setReg o.rd.toNat v)

/-- The values of the registers named by RS and RT. -/
def State.rsVal (s : State) (t : Nat) (o : HelmOp) : Nat := ((s.thread t).reg o.rs.toNat).toNat
def State.rtVal (s : State) (t : Nat) (o : HelmOp) : Nat := ((s.thread t).reg o.rt.toNat).toNat

/-! ### Instructions (Table 16-2) -/

/-- FORK (R380). -/
def execFork (thread : Nat) (op : HelmOp) (s : State) : Out :=
  .next (s.issueOp thread 0x00 op true (fun t s =>
    let core := op.imm.toNat % 16
    if 9 ≤ core then .error (.illegal, 0)
    else
      let free (k : Nat) : Bool := k != 0 && (s.thread k).state == .free && (core == 0 || k / 16 + 1 == core)
      match (List.range poolThreads).find? free with
      | none => .ok ((s.result t op 0xFFFFFFFF).helmCount 1)
      | some k =>
        let x : Thread := { state := .runnable, cls := op.imm.toNat / 16, pc := BitVec.ofNat 32 (s.rsVal t op) }
        let x := (x.setReg 1 (BitVec.ofNat 32 (s.rtVal t op))).setReg 2 (BitVec.ofNat 32 t)
        .ok (((s.setThread k x).result t op (BitVec.ofNat 32 k)).helmCount 0)))

/-- EXIT (R381). -/
def execExit (thread : Nat) (op : HelmOp) (s : State) : Out :=
  .next (s.issueOp thread 0x01 op (op.rd == 0 && op.rt == 0 && op.imm == 0) (fun t s =>
    .ok (s.threadExit t (BitVec.ofNat 32 (s.rsVal t op)))))

/-- JOIN (R381). -/
def execJoin (thread : Nat) (op : HelmOp) (s : State) : Out :=
  .next (s.issueOp thread 0x02 op (op.rt == 0 && op.imm == 0) (fun t s =>
    let k := s.rsVal t op % 128
    if k = t ∨ (s.thread k).state = .free ∨ (s.joiner k).isSome then .error (.badJoin, 0)
    else
      let s := s.setThread t { s.thread t with state := .waitJoin, target := k, rd := op.rd.toNat }
      .ok (if (s.thread k).state = .done then s.joinTake t k else s)))

/-- WAIT (R382). -/
def execWait (thread : Nat) (op : HelmOp) (s : State) : Out :=
  .next (s.issueOp thread 0x03 op (op.rt == 0 && op.imm == 0) (fun t s =>
    let mask := s.rsVal t op % 256
    let x := s.thread t
    if maskOf 8 (fun k => bit mask k && (x.inputs.getD k none).isSome) = 0 then .error (.badWait, 0)
    else
      let x := { x with state := .waitEvent, mask := mask, rd := op.rd.toNat }
      .ok (s.setThread t (if x.latched &&& mask ≠ 0 then x.waitEnd else x))))

/-- SIGNAL (R384). -/
def execSignal (thread : Nat) (op : HelmOp) (s : State) : Out :=
  .next (s.issueOp thread 0x04 op (op.rd == 0 && op.rt == 0 && op.imm == 0) (fun t s =>
    let k := s.rsVal t op
    if 63 < k then .error (.badEvent, 0) else .ok (s.pulse (960 + k))))

/-- The level of a source that holds one (Table 16-3). -/
def State.evLevel (s : State) (src : Nat) : Bool :=
  if src < 16 then false
  else if src < 32 then (s.helm.movers.getD (src - 16) {}).shadow.isNone
  else if src < 36 then (s.dechan.mbox.getD (src - 32) {}).full
  else if src < 40 then !(s.dechan.mbox.getD (src - 32) {}).full
  else if src < 42 then !(s.dechan.internal.getD (src - 40) {}).full
  else if src < 44 then (s.dechan.internal.getD (src - 40) {}).full
  else if src = 48 then !s.sw.exc.isEmpty
  else if src = 51 then !s.time.rxq.isEmpty
  else if 576 ≤ src ∧ src < 832 then !(s.chan (src - 576)).msgs.isEmpty
  else false

/-- EVMAP (R383, R384): a level that is already high sets the latch. A mapping or its end clears the input's latch. -/
def execEvmap (thread : Nat) (op : HelmOp) (s : State) : Out :=
  .next (s.issueOp thread 0x05 op (op.rd == 0 && op.imm == 0) (fun t s =>
    let input := s.rsVal t op % 8
    let v := s.rtVal t op
    let src := v % 2 ^ 31
    let x := s.thread t
    let low := x.latched - (x.latched &&& 2 ^ input)
    if bit v 31 then .ok (s.setThread t { x with inputs := x.inputs.set input none, latched := low })
    else if 1023 < src ∨ (832 ≤ src ∧ src < 960 ∧ src ≠ 832 + t) then .error (.badEvent, 0)
    else
      .ok (s.setThread t { x with inputs := x.inputs.set input (some src), latched := low + b2n (s.evLevel src) * 2 ^ input })))

/-- TIMER (R384): RS × 10 ns, 0 disarms. -/
def execTimer (thread : Nat) (op : HelmOp) (s : State) : Out :=
  .next (s.issueOp thread 0x06 op (op.rd == 0 && op.rt == 0 && op.imm == 0) (fun t s =>
    let n := s.rsVal t op
    .ok (s.setThread t { s.thread t with timer := if n = 0 then none else some (s.now + ceilDiv (n * 25) 2) })))

/-- SETTRAP. -/
def execSettrap (thread : Nat) (op : HelmOp) (s : State) : Out :=
  .next (s.issueOp thread 0x07 op (op.rd == 0 && op.rt == 0 && op.imm == 0) (fun t s =>
    .ok (s.setThread t { s.thread t with trap := BitVec.ofNat 32 (s.rsVal t op), trapActive := false })))

/-- CHSTAGE (R388). -/
def execChstage (thread : Nat) (op : HelmOp) (s : State) : Out :=
  .next (s.issueOp thread 0x08 op (op.rd == 0 && op.imm == 0) (fun t s =>
    let v := s.rtVal t op
    let c := v % 256
    let x := s.thread t
    if (s.chan c).depth = 0 ∨ x.stageCh.getD c ≠ c then .error (.channel, 0)
    else .ok (s.setThread t { x with stageCh := some c, stage := x.stage.put (v / 256 % 8) (BitVec.ofNat 32 (s.rsVal t op)) })))

/-- CHCOMMIT (R388). -/
def execChcommit (thread : Nat) (op : HelmOp) (s : State) : Out :=
  .next (s.issueOp thread 0x09 op (op.rt == 0 && decide (op.imm.toNat ≤ 1)) (fun t s =>
    let v := s.rsVal t op
    let c := v % 256
    let n := v / 256 % 16
    let x := s.thread t
    let ch := s.chan c
    if ch.depth = 0 ∨ n = 0 ∨ 8 < n ∨ x.stageCh.getD c ≠ c then .error (.channel, 0)
    else
      let m := (List.range n).map (fun k => x.stage.getD k 0)
      if ch.msgs.length < ch.depth then .ok (((s.setThread t (x.committed op.rd.toNat)).chanPut c m).serve c)
      else if op.imm = 0 then .ok (s.result t op 1)
      else
        let s := s.setChan c { ch with senders := ch.senders ++ [t] }
        .ok (s.setThread t { x with state := .waitSend, chan := c, rd := op.rd.toNat, sending := m })))

/-- CHRECV (R388). -/
def execChrecv (thread : Nat) (op : HelmOp) (s : State) : Out :=
  .next (s.issueOp thread 0x0A op (op.rt == 0 && decide (op.imm.toNat ≤ 1)) (fun t s =>
    let c := s.rsVal t op % 256
    let x := s.thread t
    let ch := s.chan c
    if c = faultChan ∧ t ≠ 0 then .error (.access, 0)
    else if ch.depth = 0 then .error (.channel, 0)
    else
      match ch.msgs with
      | m :: ms => .ok (((s.setChan c { ch with msgs := ms }).setThread t (x.takeMsg op.rd.toNat m)).serve c)
      | [] =>
        if op.imm = 0 then .ok (s.result t op 0)
        else
          let s := s.setChan c { ch with receivers := ch.receivers ++ [t] }
          .ok (s.setThread t { x with state := .waitRecv, chan := c, rd := op.rd.toNat })))

/-- THRCTL, in either form (R382, R392): thread 0 only; of thread 0, or of a thread not in FAULT_HALT, it performs nothing. -/
def thrctl (op : HelmOp) (t : Nat) (s : State) : HelmEnd :=
  let k := s.rsVal t op
  if t ≠ 0 then .error (.illegal, 0)
  else if k = 0 ∨ (s.thread k).state ≠ .faultHalt then .ok s
  else if bit op.imm.toNat 0 then .ok (s.threadKill k)
  else .ok (s.setThread k { s.thread k with state := .runnable, pc := BitVec.ofNat 32 (s.rtVal t op) })

/-- THRCTL_RESUME (R382). -/
def execThrctlResume (thread : Nat) (op : HelmOp) (s : State) : Out :=
  .next (s.issueOp thread 0x0B op (op.rd == 0 && decide (op.imm.toNat ≤ 1)) (fun t s => thrctl op t s))

/-- THRCTL_KILL (R382, R392). -/
def execThrctlKill (thread : Nat) (op : HelmOp) (s : State) : Out :=
  .next (s.issueOp thread 0x0B op (op.rd == 0 && decide (op.imm.toNat ≤ 1)) (fun t s => thrctl op t s))

/-- CHCFG (R387). -/
def execChcfg (thread : Nat) (op : HelmOp) (s : State) : Out :=
  .next (s.issueOp thread 0x0C op (op.rd == 0 && op.imm == 0) (fun t s =>
    let c := s.rsVal t op % 256
    let d := s.rtVal t op
    let ch := s.chan c
    let total := s.helm.chans.foldl (fun n (p : Nat × Chan) => if p.1 = c then n else n + p.2.depth) d
    if t ≠ 0 then .error (.illegal, 0)
    else if 64 < d ∨ !ch.msgs.isEmpty ∨ !ch.senders.isEmpty ∨ !ch.receivers.isEmpty ∨ chanSlots < total then .error (.channel, 0)
    else .ok (s.setChan c { ch with depth := d })))

/-- CLASS. -/
def execClass_ (thread : Nat) (op : HelmOp) (s : State) : Out :=
  .next (s.issueOp thread 0x0D op (op.rd == 0 && op.rt == 0 && op.imm == 0) (fun t s =>
    .ok (s.setThread t { s.thread t with cls := s.rsVal t op % 4 })))

/-- BREAK: DEBUG_HALT when BREAK_EN is set, else fault BREAK. -/
def execBreak_ (thread : Nat) (op : HelmOp) (s : State) : Out :=
  .next (s.issueOp thread 0x0E op (op.rd == 0 && op.rs == 0 && op.rt == 0 && op.imm == 0) (fun t s =>
    if s.helm.breakEn then .ok (s.debugHalt t) else .error (.break_, 0)))

/-! ### Other instructions (R389) -/

/-- The model's address of an SRAM octet, its size, and the offset; the manual gives no address map (log entry 25). -/
def targetSram (a : HelmTarget) (t : Nat) : Option (Nat × Nat × Nat) :=
  match a with
  | .instrSram off => some (t / 16 * 2 ^ 19, 2 ^ 18, off)
  | .dataSram off => some (t / 16 * 2 ^ 19 + 2 ^ 18, 2 ^ 18, off)
  | .sharedSram off => some (2 ^ 22, 2 ^ 22, off)
  | _ => none

/-- The word of a rose register: classes of its 16 points. -/
def roseWord (r : List Nat) (w : Nat) : Nat := (List.range 16).foldl (fun a j => a + r.getD (16 * w + j) 0 % 4 * 4 ^ j) 0

/-- What a thread reads in a register of a raw lane (R234, R235; the register's layout is log entry 25): words of the block, the
status, and HELD with the holder's number. -/
def RawLane.word (x : RawLane) (r : Nat) : Nat :=
  if r < 4 then leNat (slice x.block (4 * r) 4) else if r = 4 then x.status else b2n x.held + x.owner % 128 * 2

/-- A thread loads a register of a raw lane; one that lost the lane's lock reads LOCK_LOST, once (R235). -/
def State.rawLoad (s : State) (t lane r : Nat) (rd : BitVec 5) : State :=
  let x := s.rawLane lane
  let lost := x.lostBy.contains t
  let s := if lost then s.setRaw lane { x with lostBy := x.lostBy.filter (· != t), status := 2 } else s
  s.setThread t ((s.thread t).setReg rd.toNat (BitVec.ofNat 32 (if lost then 2 else x.word r)))

/-- An ordinary load, store or other instruction. The stores into a raw lane's registers are commands of their own. Only the supervisor rewrites a rose (R386). -/
def helmOther (what : HelmOther) (t : Nat) (s : State) : HelmEnd :=
  let sized (n : Nat) : Bool := n == 1 || n == 2 || n == 4
  match what with
  | .illegal => .error (.illegal, 0)
  | .compute rd v tgt =>
    let x := (s.thread t).setReg rd.toNat v
    .ok (s.setThread t { x with pc := tgt.getD x.pc })
  | .load rd a n bad =>
    match targetSram a t with
    | some (base, size, off) =>
      if !sized n then .error (.illegal, 0)
      else if off % n ≠ 0 then .error (.align, base + off)
      else if size < off + n then .error (.access, base + off)
      else if bad then .error (.memory, base + off)
      else .ok (s.setThread t ((s.thread t).setReg rd.toNat (BitVec.ofNat 32 (leNat (s.helm.sram.readN (base + off) n)))))
    | none =>
      match a with
      | .rose c w =>
        if n = 4 ∧ c < 8 ∧ w < 4 then .ok (s.setThread t ((s.thread t).setReg rd.toNat (BitVec.ofNat 32 (roseWord (s.helm.rose.getD c []) w))))
        else .error (.access, 0)
      | .rawLane l r => if n = 4 ∧ l < 3 ∧ r < 6 ∧ s.inRun 8 then .ok (s.rawLoad t l r rd) else .error (.access, 0)
      | .outside addr => .error (.access, addr.toNat)
      | _ => .error (.access, 0)
  | .store a n v =>
    match targetSram a t with
    | some (base, size, off) =>
      if !sized n then .error (.illegal, 0)
      else if off % n ≠ 0 then .error (.align, base + off)
      else if size < off + n then .error (.access, base + off)
      else .ok { s with helm.sram := s.helm.sram.writeN (base + off) (leBytes n v.toNat) }
    | none =>
      match a with
      | .rose c w =>
        if t = 0 ∧ n = 4 ∧ c < 8 ∧ w < 4 then
          let set (r : List Nat) : List Nat := (List.range 16).foldl (fun r j => r.set (16 * w + j) (v.toNat / 4 ^ j % 4)) r
          .ok { s with helm.rose := s.helm.rose.modify c set }
        else .error (.access, 0)
      | .outside addr => .error (.access, addr.toNat)
      | _ => .error (.access, 0)

/-- LOAD_STORE (R389). -/
def execLoadStore (thread : Nat) (word : W32) (what : HelmOther) (s : State) : Out :=
  .next (s.issueInstr thread word (fun t s => helmOther what t s))

/-- HELM_TIMER_FIRE (R384): an armed timer fires at its deadline and is disarmed. -/
def execHelmTimerFire (thread : Nat) (s : State) : Out :=
  let t := thread % 128
  match (s.thread t).timer with
  | some d =>
    if s.coreRuns t && decide (d ≤ s.now) then
      .next (((s.setThread t { s.thread t with timer := none }).pulse (832 + t)).calmAfter s)
    else .next s
  | none => .next s

/-! ### The debugger (R391 to R393) -/

/-- The HELM block answers: reachable, and a grant with its scope is live (R295, R391). -/
def State.dbgOpen (s : State) : Bool :=
  match s.helm.grant with
  | some g => bit g.scope 0 && decide (s.now < g.until_)
  | none => false

/-- A write of a register of the HELM block at an offset: done while a grant is live, else a DEBUG_GATED violation (R295). -/
def State.dbgWrite (s : State) (off : Nat) (act : State → State) : State :=
  s.inBlock 4 fun s => if s.dbgOpen then (act s).calmAfter s else s.violPf0 5 0 off

/-- A halted thread goes on as it was; a wait continues (R391). -/
def State.debugResume (s : State) (t : Nat) : State :=
  let x := s.thread t
  if x.state ≠ .debugHalt then s
  else
    let x := { x with state := x.prior, skipBp := true }
    let s := s.setThread t x
    if x.state = .waitEvent ∧ x.latched &&& x.mask ≠ 0 then s.setThread t x.waitEnd
    else if x.state = .waitJoin ∧ (s.thread x.target).state = .done then s.joinTake t x.target
    else if x.state = .waitSend ∨ x.state = .waitRecv then s.serve x.chan
    else s

/-- An action was refused. -/
def State.dbgReject (s : State) : State := { s with helm.dbgReject := true }

/-- HELM_DBG_HALT (R391): a live thread that is not DONE halts. -/
def execHelmDbgHalt (s : State) : Out :=
  .next (s.dbgWrite 0xD0020 (fun s =>
    let t := s.helm.threadSel % 128
    let x := s.thread t
    if x.state = .debugHalt then s
    else if x.state = .free ∨ x.state = .done then s.dbgReject
    else s.debugHalt t))

/-- HELM_DBG_RESUME (R391). -/
def execHelmDbgResume (s : State) : Out :=
  .next (s.dbgWrite 0xD0020 (fun s =>
    let t := s.helm.threadSel % 128
    if (s.thread t).state = .debugHalt then s.debugResume t else s.dbgReject))

/-- HELM_DBG_STEP (R391): the thread goes on and halts after one instruction; one that waits halts again at once, and one
that was halted by a fault issues its instruction again. -/
def execHelmDbgStep (s : State) : Out :=
  .next (s.dbgWrite 0xD0020 (fun s =>
    let t := s.helm.threadSel % 128
    let x := s.thread t
    if x.state ≠ .debugHalt then s.dbgReject
    else if x.prior = .runnable ∨ x.prior = .faultHalt then
      s.setThread t { x with state := .runnable, stepping := true, skipBp := true }
    else
      let s := s.debugResume t
      if (s.thread t).state = .runnable then s.debugHalt t else s.setThread t x))

/-- HELM_DBG_KILL (R392). -/
def execHelmDbgKill (s : State) : Out :=
  .next (s.dbgWrite 0xD0020 (fun s =>
    let t := s.helm.threadSel % 128
    if t = 0 ∨ (s.thread t).state = .free then s.dbgReject else s.threadKill t))

/-- HELM_DBG_REG_WRITE (R404). -/
def execHelmDbgRegWrite (k : Nat) (value : W32) (s : State) : Out :=
  .next (s.dbgWrite (0xD0100 + 4 * (k % 32)) (fun s =>
    let t := s.helm.threadSel % 128
    if (s.thread t).state = .debugHalt then s.setThread t ((s.thread t).setReg (k % 32) value) else s.dbgReject))

/-- A debug grant ends (R393). -/
def State.grantEnd (s : State) : State :=
  if s.helm.grant.isNone then s
  else
    let halted := (s.helm.thr.filter (fun (p : Nat × Thread) => p.2.state == .debugHalt)).map (·.1)
    let t := halted.foldl State.debugResume { s with
      helm.grant := none
      helm.breakEn := false
      helm.bp := s.helm.bp.map (fun b => b &&& ~~~(1 : W32)) }
    t.calmAfter s

/-- DEBUG_GRANT_END (R393): at the end of its lifetime. -/
def execDebugGrantEnd (s : State) : Out :=
  match s.helm.grant with
  | some g => if g.until_ ≤ s.now then .next s.grantEnd else .next s
  | none => .next s

/-- What Table 14-6 says of SEC_DEBUG_AUTHORIZE; only GRANT takes a buffer. -/
def opSecDebug (c : Cmd) : Op := { code := 0x0E05, lens := if byteAt c.data 0 = 2 then [288] else [0] }

/-- GRANT's effect (R402, R403); the challenge is spent whatever the outcome. -/
def debugGrant (b : Bytes) (s : State) : Reply :=
  match s.helm.challenge with
  | none => Reply.no s 8 0
  | some ch =>
    let s := { s with helm.challenge := none }
    let scope := byteAt b 0 % 8
    let life := leAt b 4 4
    let hash := beNat (sha384 (slice b 64 97))
    if scope = 0 then Reply.badBuf s 0
    else if life = 0 ∨ 86400 < life then Reply.badBuf s 4
    else if leAt b 8 8 ≠ Config.serial.toNat then Reply.badBuf s 8
    else if slice b 16 16 ≠ ch then Reply.badBuf s 16
    else if hash ≠ Config.meltoamKeyHash.toNat ∧ some hash ≠ Config.customerKeyHash.map (·.toNat) then
      Reply.no (s.violPf1 11 1 0) 0xA 11
    else if !ecdsaVerify (slice b 64 97) (slice b 0 64) (slice b 164 96) then Reply.no (s.violPf1 11 2 0) 0xA 11
    else Reply.ok { s with helm.grant := some { scope := scope, until_ := s.now + life * secTicks } } (leBytes 4 life)

/-- SEC_DEBUG_AUTHORIZE's effect: 1 CHALLENGE, 2 GRANT, 3 REVOKE (R402). -/
def secDebugBody (c : Cmd) (b : Bytes) (s : State) : Reply :=
  let a := byteAt c.data 0
  if a = 1 then
    let (ch, s) := s.drawBytes 16
    Reply.ok { s with helm.challenge := some ch } (zeros 4 ++ ch)
  else if a = 2 then debugGrant b s
  else if a = 3 then Reply.ok s.grantEnd
  else Reply.bad s 24

/-- SEC_DEBUG_CHALLENGE (R402). -/
def execSecDebugChallenge (c : Cmd) (s : State) : Out := .next (s.runCmd (opSecDebug c) c (fun b s => secDebugBody c b s))
/-- SEC_DEBUG_GRANT (R403). -/
def execSecDebugGrant (c : Cmd) (s : State) : Out := .next (s.runCmd (opSecDebug c) c (fun b s => secDebugBody c b s))
/-- SEC_DEBUG_REVOKE (R402). -/
def execSecDebugRevoke (c : Cmd) (s : State) : Out := .next (s.runCmd (opSecDebug c) c (fun b s => secDebugBody c b s))

/-! ### The becalmed detector (R394, R395) -/

/-- BECALMED_DETECT (R394): the detector fires to Binnacle, which takes a snapshot, posts the Helm event, and restarts Helm
if BECALM_POLICY says so. -/
def execBecalmedDetect (s : State) : Out :=
  if s.inRun 4 && s.helm.cores != 0 && s.calm && s.helm.calmArmed && s.elapsed s.helm.calmSince (s.boot.becalmWindow * msTicks) then
    let s := { s with helm.becalmed := true, helm.calmArmed := false, helm.restartDue := s.helm.restartDue || s.boot.becalmPolicy == 1 }
    .next (((s.helmCount 5).takeSnapshot 1).helmEvent 2)
  else .next s

/-! ### Start and reset of the cores (R386, R387, R396, R404) -/

/-- The default rose (R386). -/
def defaultRose : List Nat := (List.range 64).map (fun k => if k % 2 = 0 then 0 else if k % 4 = 1 then 1 else if k % 8 = 3 then 2 else 3)

/-- The Helm cores are held in reset (R396, step 3): threads, channels, latches, staging buffers, roses and mover sets are
cleared, and raw lanes 40 to 42 released with their keys; the HELM registers take their Warm values but for RESTARTS and
HELM_CNT (R404). -/
def State.coresReset (s : State) : State :=
  let h := s.helm
  { s with
    helm := { h with
      cores := 0
      onPll := 0
      thr := []
      chans := []
      rose := List.replicate 8 defaultRose
      movers := List.replicate 16 {}
      becalmed := false
      threadSel := 0
      chanSel := 0
      breakEn := false
      dbgReject := false
      bp := List.replicate 16 0
      restartDue := false }
    ciph.raw := s.ciph.raw.zipIdx.map (fun (p : RawLane × Nat) => if p.2 < 3 then { p.1 with held := false, key := none } else p.1) }

/-- Helm starts: thread 0 at an address, the rose default, every channel of depth 0 but the fault channel (R378, R386, R387). -/
def State.helmStart (s : State) (entry : Nat) : State :=
  let s := s.coresReset
  { s with
    helm.cores := 255
    helm.thr := [(0, { state := .runnable, pc := BitVec.ofNat 32 entry })]
    helm.chans := [(faultChan, { depth := 32 })]
    helm.calmSince := s.now
    helm.calmArmed := true
    boot.helmStart := s.now }

end Sys2Proof.Machine
end

