-- ==== Sys2Proof/Machine/Mover.lean ====
section
/-!
DEFINITION. Machine/Mover.lean: the sixteen DMA movers (R398 to R401). A transfer is carried out when it ends.
-/

set_option Elab.async false
namespace Sys2Proof.Machine

open Sys2Proof

/-! ### Register sets -/

/-- A mover. -/
def State.mover (s : State) (m : Nat) : Mover := s.helm.movers.getD m {}

/-- A mover changed. -/
def State.setMover (s : State) (m : Nat) (x : Mover) : State := { s with helm.movers := s.helm.movers.set m x }

/-- A register set as its eight words give it (Table 16-8). -/
def readSet (w : List W32) : MoverSet :=
  let at_ (k : Nat) : Nat := (w.getD k 0).toNat
  let c := at_ 5
  { src := at_ 0 + at_ 1 * 2 ^ 32
    dst := at_ 2 + at_ 3 * 2 ^ 32
    len := at_ 4
    mode := c % 4
    srcSpace := bits c 3 2
    dstSpace := bits c 5 4
    srcFixed := bit c 6
    dstFixed := bit c 7
    inst := bits c 16 8
    usePasid := bit c 17
    fill := at_ 6 + at_ 7 * 2 ^ 32 }

/-- A fixed side has an 8-byte aligned address and a LEN that is a multiple of 8; LEN is not 0 (R400, R401). -/
def MoverSet.badLen (x : MoverSet) : Bool :=
  x.len == 0 || (x.srcFixed && x.mode != 1 && (x.src % 8 != 0 || x.len % 8 != 0)) || (x.dstFixed && (x.dst % 8 != 0 || x.len % 8 != 0))

/-- Helm's register accesses reach a mover: thread and mover exist, the core runs. -/
def State.moverReach (s : State) (thread mover : Nat) : Bool :=
  decide (thread < 128) && decide (mover < 16) && s.coreRuns thread && (s.thread thread).state == .runnable

/-- MOVER_LOCK_TAKE (R398): ignored while the mover is held. -/
def execMoverLockTake (thread mover : Nat) (s : State) : Out :=
  let x := s.mover mover
  if s.moverReach thread mover && !x.held then .next (s.setMover mover { x with held := true, owner := thread }) else .next s

/-- A register write of a mover's holder; of another thread it is fault ACCESS (R398). -/
def State.moverWrite (s : State) (thread mover : Nat) (word : W32) (act : Mover → State) : State :=
  let x := s.mover mover
  if !s.moverReach thread mover then s
  else if x.held && x.owner == thread then act x
  else (s.threadFault thread .access 0 word).calmAfter s

/-- MOVER_GO (R399): the shadow set becomes LOADED; without GO in its word 5 it does not. -/
def execMoverGo (thread mover : Nat) (words : List W32) (word : W32) (s : State) : Out :=
  .next (s.moverWrite thread mover word (fun x =>
    if bit (words.getD 5 0).toNat 31 then s.setMover mover { x with shadow := some (readSet words) } else s))

/-- MOVER_PROMOTE (R399, R401): a LOADED shadow set becomes active; BAD_LEN is reported at once. A reserved MODE is one of the
three, which one is free. -/
def execMoverPromote (mover : Nat) (s : State) : Out :=
  let x := s.mover mover
  match x.shadow with
  | none => .next s
  | some y =>
    if !s.inRun 4 || x.active.isSome || x.errHold then .next s
    else
      let (v, s1) := if y.mode = 3 then s.draw else (0, s)
      let y := if y.mode = 3 then { y with mode := v.toNat % 3 } else y
      let t :=
        if y.badLen then
          ((s1.setMover mover { x with shadow := none, error := 5, errHold := true, done := 0 }).pulse (16 + mover)).pulse mover
        else (s1.setMover mover { x with shadow := none, active := some y }).pulse (16 + mover)
      .next (t.calmAfter s)

/-- MOVER_ERR_ACK (R401). -/
def execMoverErrAck (thread mover : Nat) (word : W32) (s : State) : Out :=
  .next (s.moverWrite thread mover word (fun x => s.setMover mover { x with errHold := false, error := 0 }))

/-- MOVER_RELEASE (R398): by the holder; the active transfer runs to its end. -/
def execMoverRelease (thread mover : Nat) (s : State) : Out :=
  let x := s.mover mover
  if s.moverReach thread mover && x.held && x.owner == thread then .next (s.moverFree mover) else .next s

/-! ### The memories behind a mover (R401) -/

/-- The DRAM region for contexts and firmware data (Table 17-2). -/
def inDram (a : Nat) : Bool := decide (0x380000000 ≤ a) && decide (a < 0x3C0000000)

/-- QDR tag lines and entries, addressed by bank and offset as R461 does (Table 6-1). -/
def inQdr (a : Nat) : Bool := decide (a / 2 ^ 32 < 8) && decide (a % 2 ^ 32 < 0xAA0000)

/-- Helm's SRAM and behind it the 32 classifier banks, 64 KiB each, by the model's addresses (log entries 25 and 135). -/
def inOnDie (a : Nat) : Bool := decide (a < 2 ^ 23 + 32 * 65536)

/-- The tag line of a bucket (Table 6-3). -/
def Flow.tagLine (f : Flow) (c : Nat × Nat) : Bytes :=
  leBytes 32 ((List.range 8).foldl (fun n i =>
    n + f.fpOf c i * 2 ^ (28 * i) + b2n (f.at_ c i).isSome * 2 ^ (224 + i)) 0)

/-- What a QDR address names: a bucket, the slot if it is an entry's, and the octet of the tag line or entry. -/
def qdrPlace (a : Nat) : (Nat × Nat) × Option Nat × Nat :=
  let bank := a / 2 ^ 32
  let off := a % 2 ^ 32
  let bucket (k : Nat) : Nat × Nat := (bank / 4, k * 4 + bank % 4)
  if off < 0xA0000 then (bucket (off / 32), none, off % 32)
  else
    let o := off - 0xA0000
    (bucket (o / 512), some (o % 512 / 64), o % 64)

/-- An octet of the QDR; of a slot that holds no entry, what a mover left there, else a free value. -/
def State.qdrByte (s : State) (a : Nat) : Byte × State :=
  match qdrPlace a with
  | (c, none, k) => ((s.flow.tagLine c).getD k 0, s)
  | (c, some i, k) =>
    match s.flow.at_ c i, s.flow.raw.find (slotKey c.1 c.2 i) with
    | some e, _ => (e.image.getD k 0, s)
    | none, some b => (b.getD k 0, s)
    | none, none =>
      let (x, s) := s.draw
      (BitVec.ofNat 8 x.toNat, s)

/-- The entry that 64 octets of QDR spell (Table 6-4). -/
def entryOfImage (b : Bytes) : FlowEntry :=
  { key := slice b 0 40
    profile := byteAt b 42 / 16
    handle := leAt b 40 3 % 2 ^ 20
    flags := byteAt b 43
    meter := leAt b 44 4 % 2 ^ 19
    owner := leAt b 44 4 / 2 ^ 19 % 512
    action := slice b 48 16 }

/-- The image that stands in a slot whose VALID bit is 0: what a mover left there, or free octets (log entry 2). -/
def State.rawImage (s : State) (key : Nat) : Bytes × State :=
  match s.flow.raw.find key with
  | some b => (b, s)
  | none => s.drawBytes 64

/-- A slot changed, its fingerprint left as it stands in the tag line. -/
def State.keepFp (s t : State) (c : Nat × Nat) (i : Nat) : State := { t with flow := t.flow.setFp c i (s.flow.fpOf c i) }

/-- One VALID bit of a bucket's tag line written. -/
def State.validPut (s : State) (c : Nat × Nat) (i : Nat) (v : Bool) : State :=
  let key := slotKey c.1 c.2 i
  s.keepFp (c := c) (i := i) <|
  match s.flow.at_ c i with
  | some e =>
    if v then s else { s with flow.slots := s.flow.slots.drop1 key, flow.raw := s.flow.raw.put key e.image }
  | none =>
    if v then
      let r := s.rawImage key
      { r.2 with flow.slots := r.2.flow.slots.put key (entryOfImage r.1), flow.raw := r.2.flow.raw.drop1 key }
    else s

/-- One octet of a slot written. -/
def State.slotPut (s : State) (c : Nat × Nat) (i k : Nat) (v : Byte) : State :=
  let key := slotKey c.1 c.2 i
  s.keepFp (c := c) (i := i) <|
  match s.flow.at_ c i with
  | some e => { s with flow.slots := s.flow.slots.put key (entryOfImage (overlay e.image k [v])) }
  | none =>
    let r := s.rawImage key
    { r.2 with flow.raw := r.2.flow.raw.put key (overlay r.1 k [v]) }

/-- Octet `k` of the fingerprints of a tag line written (Table 6-3): fingerprint i lies in bits 28i + 27 to 28i. -/
def State.fpPut (s : State) (c : Nat × Nat) (k : Nat) (v : Byte) : State :=
  let line := leNat (overlay (s.flow.tagLine c) k [v])
  { s with flow := (List.range 8).foldl (fun (f : Flow) i => f.setFp c i (line / 2 ^ (28 * i) % 2 ^ 28)) s.flow }

/-- An octet of the QDR written: a slot's, or VALID or a fingerprint of a tag line. -/
def State.qdrPut (s : State) (a : Nat) (v : Byte) : State :=
  let p := qdrPlace a
  match p.2.1 with
  | none => if p.2.2 < 28 then s.fpPut p.1 p.2.2 v else if p.2.2 = 28 then (List.range 8).foldl (fun s i => s.validPut p.1 i (bit v.toNat i)) s else s
  | some i => s.slotPut p.1 i p.2.2 v

/-- Where an address of DRAM lies among the contexts (Table 17-2): a record, a side record, or an octet of a handle-map copy; log entry
135 says which. -/
inductive CtxCell where
  | record (h k : Nat)
  | side (h k : Nat)
  | map (k : Nat)
  | other
  deriving DecidableEq, Repr

/-- What an address of DRAM names. -/
def ctxCell (a : Nat) : CtxCell :=
  if 0x380000000 ≤ a ∧ a < 0x384000000 then .record ((a - 0x380000000) / 64) (a % 64)
  else if 0x384000000 ≤ a ∧ a < 0x38C000000 then .side ((a - 0x384000000) / 128) (a % 128)
  else if 0x390000000 ≤ a ∧ a < 0x390020000 then .map (a - 0x390000000)
  else if 0x3A8000000 ≤ a ∧ a < 0x3A8020000 then .map (a - 0x3A8000000)
  else .other

/-- An octet of the handle map: bit n is handle 8k + n. -/
def State.mapByte (s : State) (k : Nat) : Nat := maskOf 8 (fun n => (s.ctx (8 * k + n)).isSome)

/-- An octet of DRAM; context records, side records and the handle map are those of the cipher unit (R221). -/
def State.dramByte (s : State) (a : Nat) : Byte :=
  match ctxCell a with
  | .record h k => match s.ctx h with | some x => x.record.getD k 0 | none => s.dram.read a
  | .side h k => match s.ctx h with | some x => x.side.getD k 0 | none => s.dram.read a
  | .map k => BitVec.ofNat 8 (s.mapByte k)
  | .other => s.dram.read a

/-- State codes of a context record (Table 9-6); a code that it does not list leaves the state as it was. -/
def ctxStateOf (was : CtxState) (code : Nat) : CtxState :=
  if code = 1 then .live else if code = 2 then .needKey else if code = 3 then .exhausted else if code = 4 then .lost else was

/-- A context as 64 octets of its record spell it (Table 9-5). -/
def Ctx.withRecord (x : Ctx) (b : Bytes) : Ctx :=
  let op := byteAt b 60
  { x with
    label := slice b 0 32, pn := BitVec.ofNat 64 (leAt b 32 8), kcv := leAt b 56 3, state := ctxStateOf x.state (byteAt b 59), op := op
    flags := byteAt b 61 % 16, owner := leAt b 62 2
    bitmap := if op = 4 then BitVec.ofNat 128 (leAt b 40 16) else x.bitmap
    window := if op ≤ 2 then leAt b 40 4 else x.window }

/-- A context as 128 octets of its side record spell it (R221). -/
def Ctx.withSide (x : Ctx) (b : Bytes) : Ctx :=
  { x with iv := slice b 0 12, wrapped := slice b 12 32, tag := slice b 44 16, ssci := leAt b 60 4, salt := slice b 64 12 }

/-- The context that stands in the records of a handle whose map bit is set by a mover. -/
def State.recordedCtx (s : State) (h : Nat) : Ctx :=
  let x : Ctx := { label := zeros 32, pn := 0, kcv := 0, op := 0, flags := 0, owner := 0xFFFF }
  let y := (x.withRecord (s.dram.readN (0x380000000 + 64 * h) 64)).withSide (s.dram.readN (0x384000000 + 128 * h) 128)
  { y with next := y.pn.toNat }

/-- An octet of DRAM written by a mover. A record whose STATE becomes 0, or a map bit cleared, frees the handle; a map bit set takes
the records as they stand (log entry 135). -/
def State.dramPut (s : State) (a : Nat) (v : Byte) : State :=
  let s := s.dramWrite a [v]
  match ctxCell a with
  | .record h k =>
    match s.ctx h with
    | some x => if k = 59 ∧ v = 0 then s.ctxFree h else s.setCtx h (x.withRecord (overlay x.record k [v]))
    | none => s
  | .side h k =>
    match s.ctx h with
    | some x => s.setCtx h (x.withSide (overlay x.side k [v]))
    | none => s
  | .map k =>
    (List.range 8).foldl (fun s n =>
      let h := 8 * k + n
      match s.ctx h, bit v.toNat n with
      | some _, false => s.ctxFree h
      | none, true => s.setCtx h (s.recordedCtx h)
      | _, _ => s) s
  | .other => s

/-! ### The classifier banks (R182, log entry 135) -/

/-- The bank, position and octet that an on-die address of the classifier names. -/
def clsCell (s : State) (a : Nat) : Nat × Nat × Nat :=
  let b := (a - 2 ^ 23) / 65536
  let len := 32 * max 1 (s.clsBank b).width
  (b, (a - 2 ^ 23) % 65536 / len, (a - 2 ^ 23) % 65536 % len)

/-- An octet of a classifier bank. -/
def State.clsByte (s : State) (a : Nat) : Byte :=
  let c := clsCell s a
  ((s.clsBank c.1).line c.2.1).getD c.2.2 0

/-- A line of a bank written: an entry where VALID is set, a free position otherwise. -/
def ClsBank.putLine (x : ClsBank) (pos : Nat) (b : Bytes) : ClsBank :=
  if x.width = 0 then x
  else
    let es := if bit (byteAt b 4) 6 then x.entries.put pos (imageEntry b x.width) else x.entries.drop1 pos
    { x with entries := es, state := if es.isEmpty then .empty else .populated }

/-- Octets written into the classifier banks, line by line. -/
def State.clsPut : Nat → Nat → Bytes → State → State
  | 0, _, _, s => s
  | fuel + 1, a, b, s =>
    if b.isEmpty then s
    else
      let c := clsCell s a
      let x := s.clsBank c.1
      let n := min b.length (32 * max 1 x.width - c.2.2)
      let line := overlay (x.line c.2.1) c.2.2 (b.take n)
      State.clsPut fuel (a + n) (b.drop n) (s.setClsBank c.1 (x.putLine c.2.1 line))

/-! ### Transfers (R400, R401) -/

/-- Address of octet `i` of a side. -/
def sideAddr (base : Nat) (fixed : Bool) (i : Nat) : Nat := if fixed then base + i % 8 else base + i

/-- The first octet of `n` that `bad` holds of. -/
def firstOf (n : Nat) (bad : Nat → Bool) : Nat := ((List.range n).find? bad).getD n

/-- How far a side can be accessed, and the error that stops it: the least of the limits, the first where two agree. A memory whose
domain is in Stop is none of the regions (log entry 135). -/
def State.sideLimit (s : State) (x : MoverSet) (space base : Nat) (fixed write : Bool) (r : MoverRead) : Nat × Nat :=
  let n := x.len
  let at_ (i : Nat) : Nat := sideAddr base fixed i
  let ecc (memory : Nat) : Nat × Nat := if write then (n, 0) else (firstOf n (fun i => decide (2 ≤ s.errBits memory (at_ i) 1)), 3)
  let least (a b : Nat × Nat) : Nat × Nat := if b.1 < a.1 then b else a
  if space = 0 then
    let b := if x.usePasid then firstOf n (fun i => !s.inBounds x.inst (at_ i) 1 (!write) write) else n
    let h := if write then (if (s.cfg .pf0).bme then n else 0) else if r.fail.isSome then min n r.got.length else n
    least (b, 2) (h, 1)
  else if space = 1 then least (firstOf n (fun i => !(inDram (at_ i) && s.inRun 11)), 4) (ecc 1)
  else if space = 2 then least (firstOf n (fun i => !(inQdr (at_ i) && s.inRun 6)), 4) (ecc 0)
  else (firstOf n (fun i => !(inOnDie (at_ i) && (decide (at_ i < 2 ^ 23) || s.inRun 7))), 4)

/-- One octet of a side that is not host memory. -/
def State.sideByte (s : State) (space a : Nat) : Byte × State :=
  if space = 1 then (s.dramByte a, s) else if space = 2 then s.qdrByte a
  else (if a < 2 ^ 23 then s.helm.sram.read a else s.clsByte a, s)

/-- `n` octets read from a side. -/
def State.sideRead (s : State) (space base : Nat) (fixed : Bool) (n : Nat) (r : MoverRead) : Bytes × State :=
  if space = 0 then (slice r.got 0 n, s)
  else
    (List.range n).foldl (fun (acc : Bytes × State) i =>
      let b := acc.2.sideByte space (sideAddr base fixed i)
      (acc.1 ++ [b.1], b.2)) ([], s)

/-- The PASID that a transfer's host accesses carry (R401). -/
def State.moverPasid (s : State) (x : MoverSet) : Option Nat := if x.usePasid then (s.bounds.find x.inst).map (·.pasid) else none

/-- The requests by which a side in host memory is read: one range, or a fixed side's 8 octets again and again (R400, R401). -/
def State.sideRequests (s : State) (x : MoverSet) (base : Nat) (fixed : Bool) (n : Nat) : State :=
  let tag := (s.freeTag .pf0).getD 0
  if fixed then (List.range (n / 8)).foldl (fun s _ => s.emitReads .pf0 (s.moverPasid x) base 8 tag) s
  else s.emitReads .pf0 (s.moverPasid x) base n tag

/-- Octets written to host memory, with the marks of a PASID's writes (R369, R401). -/
def State.hostPut (s : State) (x : MoverSet) (a : Nat) (b : Bytes) : State :=
  if x.usePasid then (s.markDirty x.inst a b.length).post .pf0 (s.moverPasid x) a b else s.post0 a b

/-- Octets written to the on-die space. -/
def State.onDiePut (s : State) (a : Nat) (b : Bytes) : State :=
  let n := 2 ^ 23 - a
  let s := { s with helm.sram := s.helm.sram.writeN a (b.take n) }
  State.clsPut (b.length + 1) (max a (2 ^ 23)) (b.drop n) s

/-- Octets written to a memory of the adapter from an address on. -/
def State.memoryPut (s : State) (space a : Nat) (b : Bytes) : State :=
  if space = 3 then s.onDiePut a b
  else b.zipIdx.foldl (fun s (p : Byte × Nat) => if space = 1 then s.dramPut (a + p.2) p.1 else s.qdrPut (a + p.2) p.1) s

/-- Octets written to a side. -/
def State.sideWrite (s : State) (x : MoverSet) (b : Bytes) : State :=
  let put (s : State) (b : Bytes) : State := if x.dstSpace = 0 then s.hostPut x x.dst b else s.memoryPut x.dstSpace x.dst b
  if x.dstFixed then (List.range (b.length / 8)).foldl (fun s k => put s (slice b (8 * k) 8)) s else put s b

/-- What a side's failure leaves behind: a violation of kind BOUNDS, or the log of the read that failed. -/
def State.sideFail (s : State) (x : MoverSet) (space code addr : Nat) (r : MoverRead) : State :=
  if code = 2 then s.violInst x.inst 1 0xFF 0xFF addr
  else if code = 3 then
    if space = 1 then s.logUe 1 (10 + dramDie addr) addr 3 false else s.logUe 0 (addr / 2 ^ 32) (addr % 2 ^ 32) 1 false
  else
    match r.fail with
    | some e => if code = 1 then (s.readResult .pf0 addr e).2 else s
    | none => s

/-- A mover's transfer ends with a code of R401 after `n` octets; its source pulses. -/
def State.moverEnd (s : State) (m code n : Nat) (mismatch : Option Nat) : State :=
  let x := s.mover m
  let s := s.setMover m { x with
    active := none
    error := code
    errHold := code != 0
    done := BitVec.ofNat 32 n
    mismatch := match mismatch with | some k => BitVec.ofNat 32 k | none => x.mismatch }
  s.pulse m

/-- The octets a transfer writes or compares: the fill, or its source (R400). -/
def State.moverSource (s : State) (x : MoverSet) (n : Nat) (src : MoverRead) : Bytes × State :=
  if x.mode = 1 then ((List.range n).map (fun i => BitVec.ofNat 8 (x.fill / 256 ^ (i % 8))), s)
  else s.sideRead x.srcSpace x.src x.srcFixed n src

/-- A compare finds the first difference, 0xFFFFFFFF where there is none; any other transfer writes its destination. -/
def State.moverApply (s : State) (x : MoverSet) (n : Nat) (b : Bytes) (dst : MoverRead) : Option Nat × State :=
  if x.mode = 2 then
    let r := s.sideRead x.dstSpace x.dst x.dstFixed n dst
    (some (((List.range n).find? (fun i => b.getD i 0 != r.1.getD i 0)).getD 0xFFFFFFFF), r.2)
  else (none, s.sideWrite x b)

/-- A side of a transfer is read from host memory. -/
def MoverSet.hostSrc (x : MoverSet) : Bool := x.mode != 1 && x.srcSpace == 0
def MoverSet.hostDst (x : MoverSet) : Bool := x.mode == 2 && x.dstSpace == 0

/-- MOVER_TRANSFER_END (R400, R401): octets before the first that fails stay written. -/
def execMoverTransferEnd (mover : Nat) (src dst : MoverRead) (s : State) : Out :=
  match (s.mover mover).active with
  | none => .next s
  | some x =>
    if !s.inRun 4 then .next s
    else if (x.hostSrc || x.hostDst) && s.readHeld .pf0 then .next (s.readWait .pf0)
    else
      let src := if x.hostSrc then s.effPart src else src
      let dst := if x.hostDst && !x.hostSrc then s.effPart dst else dst
      let a := if x.mode = 1 then (x.len, 0) else s.sideLimit x x.srcSpace x.src x.srcFixed false src
      let b := s.sideLimit x x.dstSpace x.dst x.dstFixed (x.mode != 2) dst
      let first := decide (a.1 ≤ b.1)
      let n := if first then a.1 else b.1
      let code := if n = x.len then 0 else if first then a.2 else b.2
      let s := if x.hostSrc then s.sideRequests x x.src x.srcFixed n else s
      let s := if x.hostDst then s.sideRequests x x.dst x.dstFixed n else s
      let r := s.moverSource x n src
      let t := r.2.moverApply x n r.1 dst
      let s3 :=
        if code = 0 then t.2
        else if first then t.2.sideFail x x.srcSpace code (sideAddr x.src x.srcFixed n) src
        else t.2.sideFail x x.dstSpace code (sideAddr x.dst x.dstFixed n) dst
      .next ((s3.moverEnd mover code n (if code = 0 then t.1 else none)).calmAfter s)

end Sys2Proof.Machine
end

