-- ==== Sys2Proof/Machine/Transmit.lean ====
section
/-!
DEFINITION. Machine/Transmit.lean: transmit descriptors and segmented sends (chapters 08 and 13), and what a port node
does with the frame it selects (chapter 10).
-/

set_option Elab.async false
namespace Sys2Proof.Machine

open Sys2Proof

/-! ### Transmit descriptors (R323 to R325) -/

/-- Flags of a transmit descriptor (Table 13-5). -/
def txFlag (d : Bytes) (k : Nat) : Bool := bit (byteAt d 16) k

/-- LEN of a transmit descriptor. -/
def txLen (d : Bytes) : Nat := leAt d 8 4

/-- MSS of a transmit descriptor. -/
def txMss (d : Bytes) : Nat := leAt d 12 2

/-- A transmit descriptor has no reserved bit set, DONE 0 and its fields in range (R323); sizes that complete with a status
of their own are checked apart. -/
def txDescOk (d : Bytes) : Bool :=
  decide (14 ≤ txLen d) && decide (txLen d < 2 ^ 19) && leAt d 14 2 == 0 && decide (byteAt d 16 < 64) &&
    (txFlag d 5 || byteAt d 17 == 0) && (txFlag d 2 || txMss d == 0) && leAt d 18 6 == 0 && leAt d 26 2 == 0 && leAt d 28 4 == 0

/-- The pieces of a descriptor's frame data, or the status it completes with, or a failed read of its table (R324). -/
inductive TxPieces where
  | pieces (ps : List (Nat × Nat))
  | reject (status : Nat)
  | bounds (addr : Nat)
  | failedTable
  deriving DecidableEq, Repr

/-- The fragment table of a descriptor that has one, read as `t`; otherwise its one piece (R324, R336). -/
def State.txPieces (s : State) (r : Nat) (d : Bytes) (t : HostRead) : TxPieces × State :=
  let addr := leAt d 0 8
  let check (ps : List (Nat × Nat)) (s : State) : TxPieces × State :=
    match ps.find? (fun p => !s.ringInBounds r p.1 p.2 true false) with
    | some p => (.bounds p.1, s)
    | none => (.pieces ps, s)
  if !txFlag d 5 then check [(addr, txLen d)] s
  else if addr % 16 ≠ 0 then (.reject 9, s)
  else if !s.ringInBounds r addr (16 * fragCount d) true false then (.bounds addr, s)
  else
    match s.hostRead .pf0 (s.ringPasid r) addr (16 * fragCount d) t with
    | (none, s) => (.failedTable, s)
    | (some b, s) =>
      match fragments (slice b 0 (16 * fragCount d)) (fragCount d) (txLen d) with
      | some ps => check ps s
      | none => (.reject 9, s)

/-- A frame padded with zeros to 60 octets (R325). -/
def pad60 (b : Bytes) : Bytes := b ++ zeros (60 - b.length)

/-- The frame of a descriptor, before its body is known. -/
def txFrame (r : Nat) (d : Desc) (body : Bytes) (seg : Nat) : Frame :=
  { body := body, srcPort := 4, srcInst := if r < mgrBase then r / 16 else 0xFFFF, sub := ringOwner r
    desc := some (r, d.idx), seg := seg, ipCsum := txFlag d.body 0, l4Csum := txFlag d.body 1
    digest := txFlag d.body 3, wantStamp := txFlag d.body 4 && seg == 0 }

/-- The descriptor has been started and produces `n` frames (R328). -/
def State.txProduce (s : State) (r : Nat) (d : Desc) (n : Nat) : State :=
  s.setRing r ((s.ring r).updDesc d.idx (fun x => { x with started := true, produced := n, left := n }))

/-! ### Segmentation (R206 to R208) -/

/-- A number in network order within a frame. -/
def put32 (b : Bytes) (off v : Nat) : Bytes := overlay b off (beBytes 4 (v % 2 ^ 32))

/-- The segment numbered `k` of `n` of a send whose header is `hdr`, with IP header `h` and transport header `t` (R206). -/
def segment (hdr pay : Bytes) (h : IpHdr) (t : L4Hdr) (k n mss : Nat) : Bytes :=
  let b := hdr ++ (pay.drop (k * mss)).take mss
  let b := if h.v6 then put16 b (h.off + 4) ((b.length - h.off - 40) % 65536) else put16 b (h.off + 2) ((b.length - h.off) % 65536)
  let b := if h.v6 then b else put16 b (h.off + 4) ((beAt b (h.off + 4) 2 + k) % 65536)
  if t.proto = 17 then put16 b (t.off + 4) ((b.length - t.off) % 65536)
  else
    let b := put32 b (t.off + 4) (beAt b (t.off + 4) 4 + k * mss)
    let fl := byteAt b (t.off + 13)
    let fl := if k + 1 = n then fl else fl - (if bit fl 0 then 1 else 0) - (if bit fl 3 then 8 else 0)
    let fl := if k = 0 ∨ !bit fl 7 then fl else fl - 128
    overlay b (t.off + 13) [BitVec.ofNat 8 fl]

/-- The header of a send: its IP and transport headers, TCP or UDP, ending within 256 octets (R206). -/
def sendHeader (b : Bytes) : Option (IpHdr × L4Hdr) :=
  let p := parse b
  match p.ip, p.l4 with
  | some h, some t => if (t.proto = 6 ∨ t.proto = 17) ∧ t.fin ≤ b.length then some (h, t) else none
  | _, _ => none

/-- Octets of the outer header that an action record puts before a segment (R200). -/
def outerLen (record template : Bytes) : Nat := if actTunnel record = 1 then byteAt template 2 else 0

/-- Octets a full segment has under an action record: the growth is that of the full segment inside its outer header (R207). -/
def State.segmentSize (s : State) (record template key hdr : Bytes) (h : IpHdr) (t : L4Hdr) (mss : Nat) : Nat :=
  let full := segment hdr (zeros mss) h t 0 1 mss
  let b := if actTunnel record = 1 then (encapsulate template key full).getD full else full
  hdr.length + mss + outerLen record template + 4 + s.txGrowth record b

/-- Every segment goes on with the record of the one lookup; its outer header counts in OCTETS (R208, Table 8-8). -/
def State.segmentsGo (s : State) (fs : List Frame) (record key template group : Bytes) (entry : Option FlowEntry) (late : Bool) : State :=
  fs.foldl (fun s f =>
    match s.frameMatch f record key template group entry (outerLen record template) with
    | (none, s) => s
    | (some (f, found), s) => s.execRecord f found late) s

/-- The DETAIL of a send that is rejected, status 3, under the action found (R207): 1 MSS or size, 2 header, 3 too long. -/
def State.sendRejects (s : State) (d : Desc) (b : Bytes) (l : Looked) : Option Nat :=
  let mss := txMss d.body
  if mss < 88 ∨ 9000 < mss ∨ 262144 < txLen d.body then some 1
  else
    match sendHeader b, l with
    | none, _ => some 2
    | some (h, t), .use record key _ =>
      if 9216 < s.segmentSize record (s.recordTables record).1 key (b.take t.fin) h t mss then some 3 else none
    | some _, _ => none

/-- The segments of a send, as frames (R206). -/
def sendFrames (r : Nat) (d : Desc) (b : Bytes) (h : IpHdr) (t : L4Hdr) : List Frame :=
  let mss := txMss d.body
  let pay := b.drop t.fin
  let n := ceilDiv pay.length mss
  (List.range n).map (fun k => txFrame r d (pad60 (segment (b.take t.fin) pay h t k n mss)) k)

/-- A segmented send (R206 to R208): looked up once on its header, then checked, then cut. -/
def State.sendSegments (s : State) (r : Nat) (d : Desc) (b : Bytes) (late : Bool) : State :=
  let q := s.frameLookup { txFrame r d b 0 with vni := s.vniOf b }
  let s := q.2
  match s.sendRejects d b q.1, sendHeader b with
  | some detail, _ => s.completeDesc r d (txCompletion d r 3 detail)
  | none, none => s.completeDesc r d (txCompletion d r 3 2)
  | none, some (h, t) =>
    let fs := sendFrames r d b h t
    if fs.isEmpty then s.completeDesc r d (txCompletion d r 0 0)
    else
      let s := s.txProduce r d fs.length
      match q.1 with
      | .use record key entry =>
        let tabs := s.recordTables record
        s.segmentsGo fs record key tabs.1 tabs.2 entry late
      | l => fs.foldl (fun s f => s.lookedOut f l) s

/-- The frame data of a descriptor has been read: digests, then segmentation or the one frame (R284, R325). -/
def State.txData (s : State) (r : Nat) (d : Desc) (b : Bytes) (late : Bool) : State :=
  match (if txFlag d.body 3 then nvmetDigest b else some (b, false)) with
  | none => (s.nvmetCount 7).completeDesc r d (txCompletion d r 3 4)
  | some (b, written) =>
    let s := if written then s.nvmetCount 6 else s
    if txFlag d.body 2 then s.sendSegments r d b late
    else (s.txProduce r d 1).pipeline (txFrame r d (pad60 b) 0) late

/-- A descriptor is carried out: its checks in turn, its frame data read, its frames sent. -/
def State.txRun (s : State) (r : Nat) (d : Desc) (table frame : HostRead) (late : Bool) : State :=
  let seg := txFlag d.body 2
  let reject (s : State) (status detail : Nat) : State := s.completeDesc r d (txCompletion d r status detail)
  if !txDescOk d.body then reject s 9 0
  else if !seg ∧ 9212 < txLen d.body then reject s 1 0
  else
    match s.txPieces r d.body table with
    | (.reject st, s) => reject s st 0
    | (.bounds a, s) => reject (s.violBounds r a) 8 0
    | (.failedTable, s) => s.ringError r d.idx 2
    | (.pieces ps, s) =>
      match s.hostReads .pf0 (s.ringPasid r) ps frame with
      | (none, s) => reject s 7 0
      | (some b, s) => s.txData r d (slice b 0 (txLen d.body)) late

/-- TX_DESCRIPTOR (R323 to R325, R328): the oldest fetched descriptor that has not been started. -/
def execTxDescriptor (ring : Nat) (table frame : HostRead) (late : Bool) (s : State) : Out :=
  let x := s.ring ring
  if !(isTxRing ring && s.mayRead .pf0 && s.inRun 5 && !s.hove && s.ownerLive ring && x.state != .disabled) then .next s
  else
    match x.descs.find? (fun d => !d.started) with
    | none => .next s
    | some d => .next (if s.readHeld .pf0 then s.readWait .pf0 else s.txRun ring d table frame late)

/-! ### What a port node does with the frame it selects (R248, R252) -/

/-- The port's express frames go first (R45, R133): reflex, PTP and peer delay. -/
def State.portSelect (s : State) (p : Port) : State :=
  if !s.mayStart p then s
  else
    match (s.mac p).express with
    | f :: fs => (s.setMac p { s.mac p with express := fs }).portStart p f
    | [] =>
      match s.select p.num with
      | some (q, qno, s) => s.portStart p (s.portFrameOf q qno)
      | none => s

/-- R45 lets a ring port take a host-originated frame: nothing else stands at it. -/
def State.takesHost (s : State) (p : Port) : Bool :=
  let m := s.mac p
  s.mayStart p && m.express.isEmpty && m.held.isNone && m.forwarded.isEmpty && m.host.isEmpty

/-- A ring port in PLAIN takes a frame from its own node (R248); in HSR and PRP the interlink takes one from node 2 while
neither port holds a host frame back and R45 lets one of them take it (log entry 45). -/
def State.ringSelect (s : State) (p : Port) : State :=
  if s.ports.ring.mode = 3 then
    if s.takesHost p then
      match s.select p.num with
      | some (q, qno, s) => s.portStart p (s.portFrameOf q qno)
      | none => s
    else s
  else if s.ringTagged && p == .c && s.ports.ring.il.isEmpty && s.ringLinks.all (fun q => (s.mac q).host.isEmpty) &&
      s.ringLinks.any s.takesHost then
    match s.select 2 with
    | some (q, qno, s) =>
      let f := s.portFrameOf q qno
      { s with ports.ring.il := [{ f with ringIn := if f.timeIn.isSome then none else some s.now }] }
    | none => s
  else s

end Sys2Proof.Machine
end

