-- ==== Sys2Proof/Machine/Egress.lean ====
section
/-!
DEFINITION. Machine/Egress.lean: a port of Table 10-1 selects a frame (chapter 10).
-/

set_option Elab.async false
namespace Sys2Proof.Machine

open Sys2Proof

/-- A frame of the recorder's port is kept or discarded there, and leaves its cells (R209, R270). -/
def State.recorderSelect (s : State) : State :=
  match s.select 5 with
  | some (q, _, s) => (s.rawCopy q.frame).leaveQueue q 5
  | none => s

/-- A frame of the loopback port enters the pipeline again (R195). -/
def State.loopSelect (s : State) : State :=
  match s.select 4 with
  | some (q, _, s) => s.loopback q
  | none => s

/-- SCHED_SELECT (R252) of ports A to D, the loopback (4) and the recorder (5). -/
def execSchedSelect (port : Nat) (s : State) : Out :=
  if port = 0 then .next (s.portSelect .a)
  else if port = 1 then .next (s.portSelect .b)
  else if port = 2 then .next (s.ringSelect .c)
  else if port = 3 then .next (s.ringSelect .d)
  else if port = 4 then .next s.loopSelect
  else if port = 5 then .next s.recorderSelect
  else .next s

end Sys2Proof.Machine
end

