-- ==== Sys2Proof/Machine/Reflex.lean ====
section
/-!
DEFINITION. Machine/Reflex.lean: the reflex path and GOOSE (chapter 05): slots, writes, publication, retransmission, HELD slots,
and the subscriptions.
-/

set_option Elab.async false
namespace Sys2Proof.Machine

open Sys2Proof

/-! ### Slots (Tables 5-1 and 5-5) -/

/-- The slot is HELD. -/
def Slot.isHeld (x : Slot) : Bool := x.heldHove || x.heldKey

/-- Code of a slot's state: 0 EMPTY, 1 LOADED, 2 ARMED, 3 HELD. -/
def slotCode (x : Option Slot) : Nat :=
  match x with
  | none => 0
  | some x => match x.state with
    | .loaded => 1
    | .armed => if x.isHeld then 3 else 2

/-- A slot of the adapter, by instance × 8 + slot. -/
def State.slot (s : State) (k : Nat) : Option Slot := s.reflex.slots.find k

/-- A slot changed. -/
def State.setSlot (s : State) (k : Nat) (x : Slot) : State := { s with reflex.slots := s.reflex.slots.put k x }

/-- A counter of ALM_REFLEX_CNT raised. -/
def State.reflexCount (s : State) (k : Nat) : State := { s with reflex.cnt := s.reflex.cnt.inc k }

/-- VALUES bits that a template's patch points use (R122). -/
def Template.mask (t : Template) : Nat :=
  t.patch.foldl (fun a (p : Nat × Nat × Nat) => a ||| (if p.2.1 = 1 then 1 else 3) * 2 ^ p.2.2) 0

/-- The next stNum or sqNum: 4,294,967,295 is followed by 1 (R127, R134). -/
def nextNum (n : W32) : W32 := if n = 0xFFFFFFFF then 1 else n + 1

/-- An armed slot publishes: its instance is ACTIVE, QUIESCING or FROZEN (R120). -/
def State.publishing (s : State) (k : Nat) : Bool :=
  let st := (s.inst (k / 8)).state
  st == .active || st == .quiescing || st == .frozen

/-- The previous new-state frame of a slot has not left every port (R129). -/
def State.slotBusy (s : State) (k : Nat) : Bool :=
  s.portFrames.any (fun f => match f.reflex with | some x => x.slot == k && x.isNew | none => false)

/-! ### Publication (R122, R133, R134) -/

/-- t of a state, as IEC 61850 writes it from the time base: seconds, fraction, quality (PRESUMED, log entry 23). -/
def State.utcTime (s : State) : Bytes :=
  let t := s.tbNs
  beBytes 4 (t / nsPerSec % 2 ^ 32) ++ beBytes 3 (t % nsPerSec * 2 ^ 24 / nsPerSec) ++ [if s.time.unsynced then 0x20 else 0]

/-- A patch point written from VALUES (R122). -/
def patchPoint (values : Nat) (f : Bytes) (p : Nat × Nat × Nat) : Bytes :=
  let (off, kind, pos) := p
  if kind = 1 then overlay f off [BitVec.ofNat 8 (b2n (bit values pos))]
  else overlay f off [BitVec.ofNat 8 (byteAt f off % 64 + bits values (pos + 1) pos * 64)]

/-- The frame of a slot's transmission with a time allowed to live, before its authentication value. -/
def Slot.frame (x : Slot) (tal : Nat) : Bytes :=
  let t := x.tmpl
  let f := t.patch.foldl (patchPoint x.values.toNat) t.frame
  let f := overlay f t.offSt (beBytes 4 x.stNum.toNat)
  let f := overlay f t.offSq (beBytes 4 x.sqNum.toNat)
  let f := overlay f t.offTal (beBytes 4 tal)
  overlay f t.offT x.t

/-- The GMAC of a reflex frame inserted; its nonce is the twelve octets before it (PRESUMED, log entry 10). -/
def Template.sign (t : Template) (key f : Bytes) : Bytes :=
  let cover := slice f t.authFrom (t.offAuth - t.authFrom)
  overlay f t.offAuth ((gcmSeal key (slice f (t.offAuth - 12) 12) cover []).2.take t.tagLen)

/-- The frame as it may be sent: none when its key is missing (R137). -/
def State.signed (s : State) (x : Slot) (f : Bytes) : Option Bytes × State :=
  if !x.tmpl.auth then (some f, s)
  else
    match s.ctxUsable x.tmpl.authCtx with
    | (.error _, s) => (none, s)
    | (.ok c, s) =>
      match s.cached x.tmpl.authCtx c with
      | none => (none, s)
      | some k => (some (x.tmpl.sign k f), (s.touchKey x.tmpl.authCtx).ciphCount 0)

/-- The copies of a frame go to the ports that the slot names (R132, R133): A and B, C and D in PLAIN mode, and both ring
ports with one sequence number in HSR and PRP; none to a ring port in AUTO, or to a port without link. -/
def State.reflexSend (s : State) (ports : Nat) (f : Bytes) (tx : ReflexTx) : State :=
  let id := s.ports.ring.nextId
  let s := { s with ports.ring.nextId := id + 1 }
  let put (s : State) (p : Port) (b : Bytes) : State :=
    if (s.mac p).linkUp then s.sendExpress p { body := b, kind := .express, reflex := some tx, id := id } else s
  let s := if bit ports 0 then put s .a f else s
  let s := if bit ports 1 then put s .b f else s
  if !(bit ports 2 || bit ports 3) then s
  else if s.ports.ring.mode = 3 then
    let s := if bit ports 2 then put s .c f else s
    if bit ports 3 then put s .d f else s
  else if s.ringTagged && s.inRun 1 && !s.ringLinks.isEmpty then
    let (q, shared, s) := s.ringNextSeq (beAt f 0 6)
    s.ringLinks.foldl (fun s p =>
      let s := put s p (s.ringTag p f q)
      if shared then s.stat p 61 1 else s) s
  else s

/-- A GOOSE frame matches a subscription's DST_MAC, APPID and GOCBREF (R139). -/
def GooseCb.matches (x : GooseCb) (dst appid : Nat) (ref : Bytes) : Bool := x.dst == dst && x.appid == appid && x.ref == ref

/-- The subscription that a frame matches. -/
def State.gooseOf (s : State) (b : Bytes) : Option (Nat × GooseCb) :=
  match pbPdu b etGoose with
  | none => none
  | some (appid, _, pdu) =>
    match readGoose pdu with
    | none => none
    | some g => s.reflex.goose.find? (fun (p : Nat × GooseCb) => p.2.matches (beAt b 0 6) appid g.ref)

/-- A published frame is delivered to the subscription it matches (R133). -/
def State.selfDeliver (s : State) (f : Bytes) : State :=
  if (s.gooseOf f).isSome then
    { s with reflex.queue := s.reflex.queue ++ [{ body := f, stamp := stampOf s.tbNs, at_ := s.now }] }
  else s

/-- How long after transmission `i` the next one follows, in ns (R134). -/
def Template.gap (t : Template) (i : Nat) : Nat :=
  if i < t.nretx then t.interval.getD i 0 * 100000 else t.heartbeat * 1000000

/-- TAL of transmission `i` (R134). -/
def Template.talOf (t : Template) (i : Nat) : Nat := if i < t.nretx then t.tal.getD i 0 else t.talHb

/-- Transmission `step` of a slot's state is sent on the ports, delivered within and, of a new state, recorded (R133, R134, R270); or
counted when its key is missing (R137). -/
def State.transmit (s : State) (x : Slot) (tx : ReflexTx) : State :=
  match s.signed x (x.frame (x.tmpl.talOf x.step)) with
  | (none, s) => s.reflexCount 5
  | (some f, s) =>
    let s := ((s.reflexSend x.tmpl.ports f tx).reflexCount (b2n (!tx.isNew))).selfDeliver f
    if tx.isNew && s.recd.cfg.reflexTx then s.record 3 x.tNs tx.slot x.stNum.toNat f else s

/-- A new state is published (R127, R134): t taken, sqNum at SQ_FIRST, the schedule at transmission 0, the staging register at
the published VALUES. -/
def State.newState (s : State) (k : Nat) (x : Slot) (since : Option Nat) : State :=
  let x := { x with
    sqNum := BitVec.ofNat 32 x.tmpl.sqFirst, t := s.utcTime, tNs := s.tbNs, step := 0, staged := x.values }
  let s := s.transmit x { slot := k, since := since, due := none, isNew := true }
  s.setSlot k { x with step := 1, due := some (x.tNs + x.tmpl.gap 0) }

/-- A slot publishes its present values as a new state, with REFLEX_RESUMED (R120, R136). -/
def State.slotResume (s : State) (k : Nat) (x : Slot) : State :=
  let s := s.newState k { x with stNum := nextNum x.stNum } none
  match s.slot k with
  | some y => s.instEvent (k / 8) 0x25 ([BitVec.ofNat 8 (k % 8), 0, 0, 0] ++ leBytes 4 y.stNum.toNat ++ leBytes 4 y.sqNum.toNat)
  | none => s

/-! ### Writes (R126 to R129) -/

/-- A write reaches the engine: the link to the host, and D12. -/
def State.slotReach (s : State) : Bool := s.linkReady && s.inRun 12

/-- BAR 2 offset of the HI half of a slot. -/
def reflexOff (k : Nat) : Nat := k / 8 * 0x1000 + 0x84 + 8 * (k % 8)

/-- REFLEX_STAGE (R126). -/
def execReflexStage (inst slot : Nat) (lo : W32) (s : State) : Out :=
  let k := inst % 512 * 8 + slot % 8
  if !s.slotReach then .next s
  else if (s.inst (k / 8)).state = .absent then .next (s.violPf0 2 (k / 8) (reflexOff k - 4))
  else .next { s with reflex.slots := s.reflex.slots.upd k (fun x => { x with staged := lo }) }

/-- A REFLEX_REFUSED event (Table 5-10). -/
def State.reflexRefused (s : State) (k reason : Nat) (seq : Byte) : State :=
  let st := ((s.slot k).map (·.stNum)).getD 0
  s.instEvent (k / 8) 0x24 ([BitVec.ofNat 8 (k % 8), BitVec.ofNat 8 reason, seq, 0] ++ leBytes 4 st.toNat)

/-- A write that passed the checks of step 2a is carried out (R127): absorbed, or a new state. -/
def State.reflexApply (s : State) (k : Nat) (x : Slot) (lo hi : W32) (since : Nat) : State :=
  if lo = x.values ∧ !bit hi.toNat 8 then s.reflexCount 4
  else s.newState k { x with values := lo, seq := BitVec.ofNat 8 hi.toNat, stNum := nextNum x.stNum } (some since)

/-- A write to an ARMED slot of an ACTIVE instance (R127, R129): malformed, held one deep behind a new-state frame that has
not left, or carried out; RECORD triggers the recorder once the checks have passed (R273). -/
def State.reflexArmed (s : State) (k : Nat) (x : Slot) (hi : W32) : State :=
  let h := hi.toNat
  if h / 1024 ≠ 0 ∨ x.staged.toNat ||| x.tmpl.mask ≠ x.tmpl.mask then
    (s.reflexCount 3).reflexRefused k 1 (BitVec.ofNat 8 h)
  else
    let s := if bit h 9 then (s.trigger 3 k s.tbNs).2 else s
    if x.held.isSome ∨ s.slotBusy k then
      let s := s.setSlot k { x with held := some (x.staged, hi, s.now) }
      match x.held with
      | some (_, old, _) => (s.reflexCount 2).reflexRefused k 3 (BitVec.ofNat 8 old.toNat)
      | none => s
    else s.reflexApply k x x.staged hi s.now

/-- A write refused on a HELD slot outside hove-to is counted (R128). The spec names no counter for it: a free value chooses
between 5, no key, and 6, writes refused in hove-to (log entry 142). -/
def State.reflexHeld (s : State) : State :=
  let (x, s) := s.draw
  s.reflexCount (5 + x.toNat % 2)

/-- REFLEX_WRITE (R126 to R129). -/
def execReflexWrite (inst slot : Nat) (lo : Option W32) (hi : W32) (s : State) : Out :=
  let k := inst % 512 * 8 + slot % 8
  let i := k / 8
  if !s.slotReach then .next s
  else if (s.inst i).state = .absent then .next (s.violPf0 2 i (reflexOff k))
  else
    let s := match lo with
      | some v => { s with reflex.slots := s.reflex.slots.upd k (fun x => { x with staged := v }) }
      | none => s
    let code := slotCode (s.slot k)
    match s.slot k with
    | some x =>
      if code ≤ 1 ∨ (s.inst i).state ≠ .active then .next (s.violInst i 7 (k % 8) (k % 8 + code * 256) (reflexOff k))
      else if x.isHeld then .next (if s.hove then s.reflexCount 6 else s.reflexHeld.reflexRefused k 2 (BitVec.ofNat 8 hi.toNat))
      else .next (s.reflexArmed k x hi)
    | none => .next (s.violInst i 7 (k % 8) (k % 8) (reflexOff k))

/-- REFLEX_HELD_RELEASE (R129): the held write proceeds, timed from its own receipt. -/
def execReflexHeldRelease (inst slot : Nat) (s : State) : Out :=
  let k := inst % 512 * 8 + slot % 8
  match s.slot k with
  | some x =>
    match x.held with
    | some (lo, hi, since) =>
      if s.inRun 12 && slotCode (some x) == 2 && s.publishing k && !s.slotBusy k then
        let x := { x with held := none }
        .next ((s.setSlot k x).reflexApply k x lo hi since)
      else .next s
    | none => .next s
  | none => .next s

/-! ### Retransmission (R134, R135, R137) -/

/-- REFLEX_RETRANSMIT (R134): the next transmission of a slot once it is due; without its key it is counted and not sent. -/
def execReflexRetransmit (inst slot : Nat) (s : State) : Out :=
  let k := inst % 512 * 8 + slot % 8
  match s.slot k with
  | some x =>
    match x.due with
    | some due =>
      if !(s.inRun 12 && x.state == .armed && !x.heldHove && s.publishing k && decide (due ≤ s.tbNs)) then .next s
      else
        let next := some (due + x.tmpl.gap x.step)
        if x.heldKey then .next ((s.setSlot k { x with step := x.step + 1, due := next }).reflexCount 5)
        else
          let x := { x with sqNum := nextNum x.sqNum }
          let s := s.transmit x { slot := k, since := none, due := some due, isNew := false }
          .next (s.setSlot k { x with step := x.step + 1, due := next })
    | none => .next s
  | none => .next s

/-! ### Loading and arming (R121 to R124) -/

/-- The least offset among the fields that are out of range. -/
def firstBad (l : List (Bool × Nat)) : Option Nat := ((l.filter (·.1)).map (·.2)).min?

/-- Patch points of Table 5-2. -/
def readPatches (b : Bytes) : List (Nat × Nat × Nat) :=
  (List.range (min (byteAt b 15) 16)).map (fun j => (leAt b (64 + 4 * j) 2, byteAt b (66 + 4 * j), byteAt b (67 + 4 * j)))

/-- Patch point `j` overlaps one before it, in VALUES or in the frame. -/
def patchOverlap (l : List (Nat × Nat × Nat)) (j : Nat) : Bool :=
  let span (p : Nat × Nat × Nat) : List Nat := if p.2.1 = 2 then [p.2.2, p.2.2 + 1] else [p.2.2]
  match l[j]? with
  | some p => (l.take j).any (fun q => q.1 == p.1 || (span q).any (fun v => (span p).contains v))
  | none => false

/-- The first field of Table 5-2 out of range (R123); only the INTERVAL and TAL that NRETX uses are checked (log entry 24). -/
def templateBad (b : Bytes) : Option Nat :=
  let n := leAt b 0 2
  let auth := bit (byteAt b 13) 0
  let tag := byteAt b 58
  let past (off len : Nat) : Bool × Nat := (decide (n < leAt b off 2 + len), off)
  let pts := readPatches b
  firstBad
    ([(decide (n < 60 ∨ 512 < n), 0), past 2 4, past 4 4, past 6 8, past 8 4, (decide (8 < byteAt b 14), 14),
      (decide (16 < byteAt b 15), 15), (decide (leAt b 48 2 < 10 ∨ 60000 < leAt b 48 2), 48), (leAt b 50 2 == 0, 50),
      (!auth && leAt b 10 2 != 0, 10), (auth && decide (n < leAt b 10 2 + tag), 10),
      (auth && !(tag == 8 || tag == 12 || tag == 16), 58), (auth && decide (leAt b 10 2 < leAt b 56 2 + 1), 56)] ++
     (List.range 8).flatMap (fun j =>
       [(leAt b (16 + 2 * j) 2 == 0, 16 + 2 * j), (leAt b (32 + 2 * j) 2 == 0, 32 + 2 * j)]) ++
     pts.zipIdx.flatMap (fun (x : (Nat × Nat × Nat) × Nat) =>
       let (p, j) := x
       [(decide (n ≤ p.1) || patchOverlap pts j, 64 + 4 * j), (decide (p.2.1 = 0 ∨ 2 < p.2.1), 66 + 4 * j),
        (decide (31 < p.2.2) || (p.2.1 == 2 && p.2.2 == 31), 67 + 4 * j)]))

/-- The template that a buffer of Table 5-2 gives. -/
def readTemplate (b : Bytes) : Template :=
  let f := byteAt b 13
  { frame := slice b 128 (leAt b 0 2)
    offSt := leAt b 2 2
    offSq := leAt b 4 2
    offT := leAt b 6 2
    offTal := leAt b 8 2
    offAuth := leAt b 10 2
    ports := byteAt b 12 % 16
    auth := bit f 0
    sqFirst := b2n (bit f 1)
    nretx := byteAt b 14
    interval := (List.range 8).map (fun j => leAt b (16 + 2 * j) 2)
    tal := (List.range 8).map (fun j => leAt b (32 + 2 * j) 2)
    heartbeat := leAt b 48 2
    talHb := leAt b 50 2
    authCtx := leAt b 52 4
    authFrom := leAt b 56 2
    tagLen := byteAt b 58
    patch := readPatches b }

/-- REFLEX_LOAD's effect (R123). -/
def reflexLoadBody (c : Cmd) (b : Bytes) (s : State) : Reply :=
  let k := c.inst * 8 + c.handle
  let old := s.slot k
  if 7 < c.handle then Reply.bad s 8
  else
    match templateBad b with
    | some o => Reply.badBuf s o
    | none =>
      let t := readTemplate b
      if c.paramLen ≠ 128 + leAt b 0 2 then Reply.bad s 6
      else if 2 ≤ slotCode old then Reply.conflict s 3 (slotCode old) 0x03 c.handle
      else if t.auth ∧ (s.ctx t.authCtx).isNone then Reply.no s 8 0
      else
        match old with
        | some x => Reply.ok (s.setSlot k { x with tmpl := t, state := .loaded })
        | none => Reply.ok (s.setSlot k { tmpl := t })

/-- REFLEX_LOAD (R121, R123). -/
def execReflexLoad (c : Cmd) (s : State) : Out :=
  let op : Op := { code := 0x0807, inst := .inst, lens := (List.range 453).map (· + 188), needsD12 := true, states := 0x3E }
  .next (s.runCmd op c (fun b s => reflexLoadBody c b s))

/-- REFLEX_ARM with ARM 1 on a LOADED slot (R124). A slot armed while its instance is CONFIGURED publishes its first state at
INST_ENABLE (R120, log entry 24). -/
def slotArm (c : Cmd) (k : Nat) (x : Slot) (s : State) : Reply :=
  let d := c.data
  let keep := bit (byteAt d 1) 1
  let v := leAt d 8 4
  if x.tmpl.auth ∧ !s.lodeLoaded then Reply.no s 0xE 2
  else if (bit x.tmpl.ports 2 || bit x.tmpl.ports 3) ∧ s.ports.ring.mode = 0 then Reply.no s 0xB 0
  else if v ||| x.tmpl.mask ≠ x.tmpl.mask then Reply.bad s 32
  else
    let first := BitVec.ofNat 32 (leAt d 4 4)
    let x := { x with
      state := .armed
      heldHove := false
      heldKey := false
      values := BitVec.ofNat 32 v
      staged := BitVec.ofNat 32 v
      stNum := if keep then nextNum x.stNum else if first = 0 then 1 else first
      step := 0
      due := none
      held := none }
    let s := s.setSlot k x
    let s := if x.tmpl.auth then s.pinKey x.tmpl.authCtx else s
    Reply.ok (if s.publishing k then s.newState k x none else s)

/-- REFLEX_ARM's effect, in either form (R124). -/
def reflexArmBody (c : Cmd) (s : State) : Reply :=
  let n := byteAt c.data 0
  let arm := bit (byteAt c.data 1) 0
  let k := c.inst * 8 + n
  if 7 < n then Reply.bad s 24
  else
    match s.slot k with
    | none => Reply.conflict s 3 0 (if arm then 0x02 else 0x0E) n
    | some x =>
      if arm then if x.state = .armed then Reply.conflict s 3 (slotCode (some x)) 0x02 n else slotArm c k x s
      else
        Reply.ok (s.setSlot k { x with state := .loaded, heldHove := false, heldKey := false, due := none, step := 0, held := none })

/-- What Tables 14-6 and 14-8 say of REFLEX_ARM. -/
def opReflexArm (c : Cmd) : Op :=
  { code := 0x0808, tenant := true, inst := .inst, needsD12 := true, states := if bit (byteAt c.data 1) 0 then 0x1E else 0x3E }

/-- REFLEX_ARM (R124). -/
def execReflexArm (c : Cmd) (s : State) : Out := .next (s.runCmd (opReflexArm c) c (fun _ s => reflexArmBody c s))

/-- REFLEX_DISARM (R124): REFLEX_ARM with ARM 0. -/
def execReflexDisarm (c : Cmd) (s : State) : Out := .next (s.runCmd (opReflexArm c) c (fun _ s => reflexArmBody c s))

/-- REFLEX_CLR_MAX (R142): a write of ALM_REFLEX_CTRL. -/
def execReflexClrMax (value : W32) (s : State) : Out :=
  .next (s.inBlock 12 fun s => if bit value.toNat 0 then { s with reflex.max := 0 } else s)

/-! ### Instance states, hove-to, alarms and resets (R119, R120, R136, R137) -/

/-- What a change does to each slot that `p` selects, in slot order. -/
def State.eachSlot (s : State) (p : Nat → Slot → Bool) (f : State → Nat → Slot → State) : State :=
  s.reflex.slots.foldl (fun s (e : Nat × Slot) => if p e.1 e.2 then f s e.1 e.2 else s) s

/-- A slot left without a reason is ARMED, and publishes if its instance lets it (R136). -/
def State.slotFree (s : State) (k : Nat) (x : Slot) : State :=
  let s := s.setSlot k x
  if !x.isHeld && s.publishing k then s.slotResume k x else s

/-- Hove-to entered or left (R136). -/
def State.reflexHove (s : State) (entering : Bool) : State :=
  if entering then
    { s with reflex.slots := s.reflex.slots.mapVals (fun _ x => if x.state = .armed then { x with heldHove := true, due := none } else x) }
  else s.eachSlot (fun _ x => x.heldHove) (fun s k x => s.slotFree k { x with heldHove := false })

/-- An alarm has erased the keys (R137). -/
def State.reflexNoKey (s : State) : State :=
  { s with reflex.slots := s.reflex.slots.mapVals (fun _ x => if x.state = .armed ∧ x.tmpl.auth then { x with heldKey := true } else x) }

/-- SEC_LODESTAR_LOAD has brought the keys back (R137). -/
def State.reflexKeyBack (s : State) : State := s.eachSlot (fun _ x => x.heldKey) (fun s k x => s.slotFree k { x with heldKey := false })

/-- INST_ENABLE: slots armed while the instance was CONFIGURED publish their first state (R120). -/
def State.reflexEnable (s : State) (i : Nat) : State :=
  s.eachSlot (fun k x => k / 8 == i && x.state == .armed && !x.isHeld) (fun s k x => s.newState k x none)

/-- INST_RESUME out of FAULTED (R120). -/
def State.reflexResume (s : State) (i : Nat) : State :=
  s.eachSlot (fun k x => k / 8 == i && x.state == .armed && !x.isHeld) (fun s k x => s.slotResume k x)

/-- INST_RESET and INST_DESTROY (R119): the instance's slots are EMPTY and no watcher bitmap names it. -/
def State.reflexInstReset (s : State) (i : Nat) : State :=
  { s with
    reflex.slots := s.reflex.slots.filter (fun (p : Nat × Slot) => p.1 / 8 != i)
    reflex.goose := s.reflex.goose.mapVals (fun _ x => { x with watchers := x.watchers.filter (· != i) }) }

/-- Warm reset, FLR of PF 0, and the loss of D12 (R119, R142). -/
def State.reflexWipe (s : State) : State := { s with reflex := {} }

/-! ### GOOSE subscriptions (R138 to R141) -/

/-- A counter of a control block raised. -/
def State.gooseCount (s : State) (cb k : Nat) : State := { s with reflex.goose := s.reflex.goose.upd cb (fun x => { x with cnt := x.cnt.inc k }) }

/-- The board is written (R141): GEN rises, bytes 0 to 1019, then bytes 1020 to 1023. -/
def State.writeBoard (s : State) (cb : Nat) (x : GooseCb) (img : Bytes) : State :=
  let g := leBytes 4 (x.gen + 1).toNat
  let img := overlay img 0 g
  let s := { s with reflex.goose := s.reflex.goose.put cb { x with gen := x.gen + 1, boardImg := img } }
  (s.post0 x.board img).post0 (x.board + 1020) g

/-- The watchers hear of a board write (R141, Table 5-10). -/
def State.gooseEvents (s : State) (cb kind flags : Nat) : State :=
  match s.reflex.goose.find cb with
  | none => s
  | some x =>
    let body := leBytes 2 cb ++ leBytes 2 flags ++ leBytes 4 x.stNum ++ leBytes 4 x.sqNum ++ leBytes 4 x.gen.toNat ++
      slice x.boardImg 32 4 ++ leBytes 4 x.tal
    x.watchers.foldl (fun s i =>
      match s.activeEvent i kind body with
      | (.full, s) => s.gooseCount cb 7
      | (_, s) => s) s

/-- The first 1,020 octets of a board (Table 5-9), with GEN to be written over them. -/
def boardImage (g : GoosePdu) (sim auth : Bool) (stamp : Nat × Nat) : Bytes :=
  zeros 4 ++ leBytes 4 g.stNum ++ leBytes 4 g.sqNum ++ g.t ++ leBytes 4 g.tal ++ leBytes 2 g.data.length ++
    [BitVec.ofNat 8 (b2n sim + b2n g.test * 2 + b2n g.ndsCom * 4 + b2n auth * 8), 0] ++ leBytes 4 stamp.2 ++ leBytes 4 stamp.1 ++
    slice g.data 0 984

/-- An accepted frame is tracked (Table 5-8). -/
def State.gooseTrack (s : State) (cb : Nat) (x : GooseCb) (g : GoosePdu) (sim : Bool) (q : Steered) : State :=
  let first := x.state == .waiting
  let recovered := x.state == .expired
  let fresh := first || g.stNum != x.stNum
  let jump := !first && fresh && g.stNum != (nextNum (BitVec.ofNat 32 x.stNum)).toNat
  let gap := !fresh && g.sqNum != (nextNum (BitVec.ofNat 32 x.sqNum)).toNat
  let t := s.fullStamp q.stamp
  let s := s.gooseCount cb 0
  let s := if fresh then s.gooseCount cb 1 else s
  let s := if jump then s.gooseCount cb 2 else s
  let s := if gap then s.gooseCount cb 3 else s
  match s.reflex.goose.find cb with
  | none => s
  | some x =>
    let x := { x with state := .live, stNum := g.stNum, sqNum := g.sqNum, tal := g.tal, expires := t + g.tal * 1000000 }
    let s := { s with reflex.goose := s.reflex.goose.put cb x }
    let s :=
      if fresh || recovered then
        (s.writeBoard cb x (boardImage g sim x.auth q.stamp)).gooseEvents cb 0x22
          (b2n jump + b2n recovered * 2 + b2n sim * 8 + b2n g.test * 16)
      else s
    if fresh && x.recordOnChange then (s.trigger 4 cb t).2 else s

/-- GOOSE_FRAME_RX (R139): the frame that waits first. One whose PDU does not decode counts against the one subscription of
its address and APPID, if there is exactly one. -/
def execGooseFrameRx (s : State) : Out :=
  match s.reflex.queue with
  | [] => .next s
  | q :: qs =>
    if !s.inRun 12 then .next s
    else
      let s := { s with reflex.queue := qs }
      let dst := beAt q.body 0 6
      let (appid, sim, g) := match pbPdu q.body etGoose with
        | some (a, m, p) => (a, m, readGoose p)
        | none => (beAt q.body ((parse q.body).etOff + 2) 2, false, none)
      let none_ (s : State) : State := { s with reflex.unmatched := s.reflex.unmatched + 1 }
      match g with
      | none =>
        match s.reflex.goose.filter (fun (p : Nat × GooseCb) => p.2.dst == dst && p.2.appid == appid) with
        | [(cb, _)] => .next (s.gooseCount cb 5)
        | _ => .next (none_ s)
      | some g =>
        match s.reflex.goose.find? (fun (p : Nat × GooseCb) => p.2.matches dst appid g.ref) with
        | none => .next (none_ s)
        | some (cb, x) =>
          if 984 < g.data.length ∨ g.tal = 0 ∨ (x.checkConfRev ∧ g.confRev ≠ x.confRev) ∨ (sim ∧ !x.acceptSim) then .next (s.gooseCount cb 5)
          else
            let (ok, s) := if x.auth then s.pbCheck x.authCtx q.body else (true, s)
            if !ok then .next (s.gooseCount cb 6) else .next (s.gooseTrack cb x g sim q)

/-- GOOSE_EXPIRED (R140): the board keeps what it held, with EXPIRED set. -/
def execGooseExpired (cb : Nat) (s : State) : Out :=
  match s.reflex.goose.find cb with
  | none => .next s
  | some x =>
    if !(s.inRun 12 && x.state == .live && decide (x.expires ≤ s.tbNs)) then .next s
    else
      let f := byteAt x.boardImg 26
      let x := { x with state := .expired, cnt := x.cnt.inc 4 }
      let s := s.writeBoard cb x (overlay x.boardImg 26 [BitVec.ofNat 8 (f ||| 16)])
      .next (s.gooseEvents cb 0x23 (4 + b2n (bit f 0) * 8 + b2n (bit f 1) * 16))

/-- WATCHERS of Table 5-7. -/
def readWatchers (b : Bytes) : List Nat := (List.range 512).filter (fun i => bit (byteAt b (128 + i / 8)) (i % 8))

/-- A subscription from Table 5-7. -/
def readGooseCb (b : Bytes) : GooseCb :=
  let f := byteAt b 12
  { dst := beAt b 0 6
    appid := beAt b 6 2
    confRev := leAt b 8 4
    auth := bit f 0
    acceptSim := bit f 1
    checkConfRev := bit f 2
    recordOnChange := bit f 3
    board := leAt b 16 8
    authCtx := leAt b 24 4
    ref := slice b 32 (leAt b 14 2)
    watchers := readWatchers b }

/-- GOOSE_SUBSCRIBE's effect (R138). -/
def gooseSubscribeBody (c : Cmd) (b : Bytes) (s : State) : Reply :=
  let cb := c.handle
  let f := byteAt b 12
  let n := leAt b 14 2
  if 4095 < cb then Reply.bad s 8
  else if bit f 7 then
    if s.reflex.goose.has cb then Reply.ok { s with reflex.goose := s.reflex.goose.drop1 cb } else Reply.no s 8 0
  else if bit f 6 then
    if s.reflex.goose.has cb then
      Reply.ok { s with reflex.goose := s.reflex.goose.upd cb (fun x => { x with watchers := readWatchers b }) }
    else Reply.no s 8 0
  else if n = 0 ∨ 96 < n then Reply.badBuf s 14
  else if leAt b 16 8 % 1024 ≠ 0 then Reply.badBuf s 16
  else
    let x := readGooseCb b
    if x.auth ∧ (s.ctx x.authCtx).isNone then Reply.no s 8 0
    else if s.reflex.goose.any (fun (p : Nat × GooseCb) => p.1 == cb || p.2.matches x.dst x.appid x.ref) then Reply.no s 7 0
    else
      let s := { s with reflex.goose := s.reflex.goose.put cb x }
      Reply.ok (if x.auth then s.pinKey x.authCtx else s)

/-- GOOSE_SUBSCRIBE (R138). -/
def execGooseSubscribe (c : Cmd) (s : State) : Out :=
  .next (s.runCmd { code := 0x0806, lens := [192], needsD12 := true } c (fun b s => gooseSubscribeBody c b s))

end Sys2Proof.Machine
end

