-- ==== Sys2Proof/Machine/Instance.lean ====
section
/-!
DEFINITION. Machine/Instance.lean: Binnacle's part in a command (R363, R364) and the life of an instance (R338, R350 to
R352, Table 14-7).
-/

set_option Elab.async false
namespace Sys2Proof.Machine

open Sys2Proof

/-! ### Requests to Binnacle (R363, R364) -/

/-- Octets of a command entry as Helm read it (Table 14-2), with STATUS PENDING. -/
def entryBytes (opcode : Nat) (c : Cmd) : Bytes :=
  leBytes 2 opcode ++ leBytes 2 c.seq.toNat ++ leBytes 2 c.inst ++ leBytes 2 c.paramLen ++ leBytes 4 c.handle ++
    [c.flags, 1, 0, 0] ++ leBytes 8 c.addr ++ slice c.data 0 36 ++ zeros 4

/-- Two readings of an entry agree: bytes 13 to 15 are the adapter's (R342, R343). -/
def sameEntry (a b : Bytes) : Bool := slice a 0 13 == slice b 0 13 && slice a 16 44 == slice b 16 44

/-- Binnacle acts on an entry only with DONE 0, STATUS PENDING and an opcode that suits the request (R363). -/
def entrySuits (e : Bytes) (opcode : Nat) : Bool := leAt e 0 2 == opcode && byteAt e 13 == 1 && !bit (byteAt e 60) 0

/-- Binnacle refuses what Helm asks within a command (R364). -/
def State.askRefused (s : State) (req r : Nat) (idx : BitVec 16) : Option Reply × State :=
  let s := s.violPf0 9 (idx.toNat % 256 + req * 256) r
  (some (Reply.no s 0xA 9), s)

/-- Binnacle holds the parameter buffer it read beside the one Helm read (R364). -/
def State.askBuffer (s : State) (req r : Nat) (idx : BitVec 16) (len : Nat) (helmBuf : Bytes) (d : Option Bytes) :
    Option Reply × State :=
  match d with
  | none => (some (Reply.no s 0xF 1), s)
  | some d => if slice d 0 len == helmBuf then (none, s) else s.askRefused req r idx

/-- Binnacle holds the entry it read beside the command, then reads its parameter buffer (R364). -/
def State.askEntry (s : State) (req opcode : Nat) (c : Cmd) (b : BinRead) (helmBuf : Bytes) (idx : BitVec 16) (e : Option Bytes) :
    Option Reply × State :=
  match e with
  | none => (some (Reply.no s 0xF 1), s)
  | some e =>
    if !entrySuits e opcode || !sameEntry e (entryBytes opcode c) then s.askRefused req (cmdRing c) idx
    else if c.paramLen = 0 then (none, s)
    else
      let q := s.hostRead .pf0 none c.addr c.paramLen b.buf
      q.2.askBuffer req (cmdRing c) idx c.paramLen helmBuf q.1

/-- Helm's request `req` for a command and Binnacle's own reading of it (R363, R364): nothing when Binnacle acts, else the
reply. The words pass through internal channels 0 and 2 (log entry 46). -/
def State.askBinnacle (s : State) (req opcode : Nat) (c : Cmd) (b : BinRead) (helmBuf : Bytes) : Option Reply × State :=
  let x := s.ring (cmdRing c)
  let idx := s.dechan.cur
  let q := ((s.pulse 40).pulse 42).hostRead .pf0 none (x.slotAddr 64 idx) 64 b.entry
  q.2.askEntry req opcode c b helmBuf idx q.1

/-! ### INST_CREATE (R336 to R338) -/

/-- A range of Table 13-13 at RANGE[r] of a buffer; none when PAGES is 0. -/
def rangeAt (b : Bytes) (off : Nat) : Option Range :=
  let pages := leAt b (off + 8) 4
  if pages = 0 then none
  else some { base := leAt b off 8, pages := pages, read := bit (byteAt b (off + 12)) 0, write := bit (byteAt b (off + 12)) 1 }

/-- The eight ranges from `off`, unused ones left out. -/
def rangesAt (b : Bytes) (off : Nat) : List Range := (List.range 8).filterMap (fun r => rangeAt b (off + 16 * r))

/-- Two ranges share an address. -/
def Range.meets (a b : Range) : Bool := decide (a.base < b.base + b.pages * 4096) && decide (b.base < a.base + a.pages * 4096)

/-- The lowest offset of a range that is misaligned, passes the top of the address space, or overlaps an earlier one. -/
def rangesBad (b : Bytes) (off : Nat) : Option Nat :=
  (List.range 8).findSome? (fun r =>
    let o := off + 16 * r
    match rangeAt b o with
    | none => none
    | some x =>
      if x.base % 4096 ≠ 0 then some o
      else if 2 ^ 64 < x.base + x.pages * 4096 then some (o + 8)
      else if (List.range r).any (fun q => match rangeAt b (off + 16 * q) with | some y => x.meets y | none => false) then some o
      else none)

/-- A quota out of range: the offset of the field that offends. -/
def quotaBad (b : Bytes) (off : Nat) : Option Nat :=
  let base := leAt b off 4
  if 2 ^ 20 < base then some off else if 2 ^ 20 < base + leAt b (off + 4) 4 then some (off + 4) else none

/-- A ring field out of range: alignment of its base, and LOG2. -/
def ringFieldBad (b : Bytes) (log2 : Nat) : Option Nat :=
  if byteAt b log2 < 6 ∨ 15 < byteAt b log2 then some log2 else none

/-- The first field of INST_CREATE's buffer that is out of range. -/
def createBad (b : Bytes) : Option Nat :=
  (quotaBad b 4) <|> (quotaBad b 12) <|> (if leAt b 24 8 % 4096 ≠ 0 then some 24 else none) <|>
    (ringFieldBad b 32) <|> (ringFieldBad b 33) <|> (ringFieldBad b 34) <|>
    (if leAt b 40 8 % 4096 ≠ 0 then some 40 else none) <|> (if leAt b 48 8 % 4096 ≠ 0 then some 48 else none) <|> (rangesBad b 64)

/-- The spans of two quotas share a handle. -/
def quotaMeets (base count base' count' : Nat) : Bool := decide (base < base' + count') && decide (base' < base + count)

/-- Another instance has a quota that shares a handle with this one. -/
def State.quotaTaken (s : State) (fb fc cb cc : Nat) : Bool :=
  s.insts.any (fun (p : Nat × Inst) => p.2.state != .absent &&
    (quotaMeets fb fc p.2.flowBase p.2.flowCount || quotaMeets cb cc p.2.ctxBase p.2.ctxCount))

/-- The rings an instance is created with (R337, R338): 0, 14 and 15, configured and DISABLED. -/
def createRings (b : Bytes) : List (Nat × RingCfg) :=
  [(0, { base := leAt b 24 8, log2 := byteAt b 32 }), (14, { base := leAt b 40 8, log2 := byteAt b 33 }),
    (15, { base := leAt b 48 8, log2 := byteAt b 34 })]

/-- The rings of instance `i` as INST_CREATE and INST_RESET leave them. -/
def State.instRings (s : State) (i : Nat) (x : Inst) : State :=
  let l : List (Nat × RingCfg) := [(0, x.q0), (14, x.q14), (15, x.q15)]
  l.foldl (fun s q => s.setRing (i * 16 + q.1) { configured := true, log2 := q.2.log2, base := q.2.base })
    { s with rings := s.rings.filter (fun (p : Nat × Ring) => decide (mgrBase ≤ p.1) || p.1 / 16 != i) }

/-- INST_CREATE's effect (R338), in the order its checks stand. -/
def instCreateBody (c : Cmd) (br : BinRead) (b : Bytes) (s : State) : Reply :=
  let i := c.inst
  let pasid := leAt b 0 4 % 2 ^ 20
  let bt : Bounds := { pasid := pasid, ranges := rangesAt b 64 }
  if (s.inst i).state ≠ .absent then Reply.no s 7 1
  else if s.bounds.any (fun (p : Nat × Bounds) => p.1 != i && p.2.pasid == pasid) then Reply.no s 7 2
  else if s.quotaTaken (leAt b 4 4) (leAt b 8 4) (leAt b 12 4) (leAt b 16 4) then Reply.no s 7 3
  else
    match createBad b with
    | some o => Reply.badBuf s o
    | none =>
      let ringBad := (createRings b).find? (fun q =>
        !bt.allows q.2.base (2 ^ q.2.log2 * ringEntry (i * 16 + q.1)) true true)
      match ringBad with
      | some q => Reply.no (s.violPf0 1 0xFF q.2.base) 0xA 1
      | none =>
        let q := s.askBinnacle 1 0x0201 c br b
        match q.1 with
        | some r => r
        | none =>
          let s := q.2
          let x : Inst :=
            { state := .absent
              flowBase := leAt b 4 4
              flowCount := leAt b 8 4
              ctxBase := leAt b 12 4
              ctxCount := leAt b 16 4
              q0 := { base := leAt b 24 8, log2 := byteAt b 32 }
              q14 := { base := leAt b 40 8, log2 := byteAt b 33 }
              q15 := { base := leAt b 48 8, log2 := byteAt b 34 } }
          let s := { s with bounds := s.bounds.put i bt }
          let s := ((s.setInst i x).instRings i x).schedPurge i
          Reply.ok (s.setInstState i .configured)

/-- INST_CREATE (R338). -/
def execInstCreate (c : Cmd) (b : BinRead) (s : State) : Out :=
  .next (s.runCmd { code := 0x0201, inst := .inst, lens := [192] } c (instCreateBody c b))

/-! ### INST_ENABLE (R351) -/

/-- Rings 0, 14 and 15 enabled with INT_EN 1, HOLDOFF 0 and COUNT 0. -/
def State.enableRings (s : State) (i : Nat) : State :=
  [0, 14, 15].foldl (fun s q =>
    let r := i * 16 + q
    s.setRing r { s.ring r with state := .enabled, intEn := true, holdoff := 0, count := 0 }) s

/-- INST_ENABLE (R351). -/
def execInstEnable (c : Cmd) (s : State) : Out :=
  .next (s.runCmd { code := 0x0202, inst := .inst, states := 0x02 } c (fun _ s =>
    let i := c.inst
    let s := s.enableRings i
    let s := s.setInst i { s.inst i with faultLimit := leAt c.data 0 2 }
    Reply.ok ((s.setInstState i .active).reflexEnable i)))

/-! ### INST_QUIESCE, INST_FREEZE and INST_RESUME (R351) -/

/-- QUIESCE_MS of an INST_QUIESCE. -/
def quiesceMs (c : Cmd) : Nat := if leAt c.data 0 2 = 0 then 100 else leAt c.data 0 2

/-- INST_QUIESCE (R351): QUIESCING at acceptance; the reply comes later. -/
def execInstQuiesce (c : Cmd) (s : State) : Out :=
  .next (s.runCmd { code := 0x0203, inst := .inst, states := 0x04 } c (fun _ s =>
    if 10000 < leAt c.data 0 2 then Reply.bad s 24
    else
      { st := (s.setInstState c.inst .quiescing).dropRx c.inst, later := true, limit := (quiesceMs c + 2) * msTicks }))

/-- The four conditions of INST_QUIESCE (R351). Placements take place within the frames that carry them. -/
def State.quiesced (s : State) (i : Nat) : Bool :=
  (List.range 6).all (fun k => (s.ring (i * 16 + 1 + k)).descs.isEmpty && s.inFlight (i * 16 + 1 + k) == 0) &&
    (List.range 6).all (fun k => (s.ring (i * 16 + 7 + k)).frames.isEmpty && (s.ring (i * 16 + 7 + k)).held.isEmpty) &&
    (s.inProgress (i * 16)).isEmpty

/-- INST_QUIESCE_DONE (R351). -/
def execInstQuiesceDone (inst : Nat) (s : State) : Out :=
  if s.quiesced inst then .next (s.replyAll (fun a => a.opcode == 0x0203 && !a.waits && a.cmd.inst == inst) 0 0) else .next s

/-- INST_QUIESCE_TIMEOUT (R351): the instance stays QUIESCING. -/
def execInstQuiesceTimeout (inst : Nat) (s : State) : Out :=
  if s.quiesced inst then .next s
  else .next (s.replyAll (fun a => a.opcode == 0x0203 && !a.waits && a.cmd.inst == inst && s.elapsed a.at_ (quiesceMs a.cmd * msTicks)) 0xD 0)

/-- FETCH becomes OLDEST on the host-written rings of an instance, so that kept descriptors are fetched again. -/
def State.refetch (s : State) (i : Nat) : State :=
  (List.range 14).foldl (fun s q =>
    let r := i * 16 + q
    let x := s.ring r
    if x.state = .disabled then s else s.setRing r { x with fetch := x.oldest, descs := [], done := [] }) s

/-- INST_FREEZE (R351). -/
def execInstFreeze (c : Cmd) (s : State) : Out :=
  .next (s.runCmd { code := 0x0204, inst := .inst, states := 0x08 } c (fun _ s =>
    if !s.quiesced c.inst then Reply.no s 9 1 else Reply.ok ((s.refetch c.inst).setInstState c.inst .frozen)))

/-- Completions withheld outside ACTIVE and QUIESCING are written, ring by ring. -/
def State.flushHeld (s : State) (i : Nat) : State :=
  (List.range 13).foldl (fun s k =>
    let r := i * 16 + 1 + k
    let x := s.ring r
    x.held.foldl (fun s w =>
      let d := (x.descs.find? (fun d => d.idx == w.idx)).getD { idx := w.idx, body := [], inPlace := x.modeAt w.idx }
      s.completeDesc r d w.body) (if x.held.isEmpty then s else s.setRing r { x with held := [] })) s

/-- INST_RESUME (R351, R120). -/
def execInstResume (c : Cmd) (s : State) : Out :=
  .next (s.runCmd { code := 0x0205, inst := .inst, states := 0x38 } c (fun _ s =>
    let i := c.inst
    let faulted := (s.inst i).state == .faulted
    if faulted && (s.ring (i * 16)).state == .error then Reply.no s 9 2
    else
      let s := (s.setInstState i .active).flushHeld i
      Reply.ok (if faulted then s.reflexResume i else s)))

/-! ### INST_RESET and INST_DESTROY (R335, R351, R359) -/

/-- Host accesses of an instance end (R335): its descriptor reads bring nothing any more, and its writes that wait for Bus
Master Enable are not made. -/
def State.endAccess (s : State) (i : Nat) : State :=
  let mine (r : Nat) : Bool := decide (r < mgrBase) && r / 16 == i
  let tags := s.host.tags.mapVals (fun _ t =>
    match t with
    | .outstanding f (.descriptors r x n) since addr len got => if mine r then .outstanding f (.ended i) since addr len got else .outstanding f (.descriptors r x n) since addr len got
    | .outstanding f (.cmdEntry r x) since addr len got => if mine r then .outstanding f (.ended i) since addr len got else .outstanding f (.cmdEntry r x) since addr len got
    | t => t)
  let pasid := (s.bounds.find i).map (·.pasid)
  let keep (o : Output) : Bool :=
    match o with
    | .write f p _ _ => !(f == Fn.pf0 && p.isSome && p == pasid)
    | _ => true
  let parts := s.host.parts.filter (fun x => match x.1 with | .descriptors r _ _ => !mine r | _ => true)
  { s with host.tags := tags, host.parts := parts, host.waiting := s.host.waiting.filter keep }

/-- A read made for the instance is still outstanding. -/
def State.accessLeft (s : State) (i : Nat) : Bool :=
  s.host.tags.any (fun p => match p.2 with | .outstanding _ (.ended j) _ _ _ _ => j == i | _ => false)

/-- The instance's four vectors are masked, and nothing is pending on them (R309). -/
def State.maskVectors (s : State) (i : Nat) : State :=
  { s with host.instVec := s.host.instVec.map (fun p => if p.1 / 4 = i then (p.1, { p.2 with masked := true, pending := false }) else p) }

/-- What INST_RESET does to an instance beside its state (R351): R115, R119, R155, R257, R288, R309, R335, R369. -/
def State.instClear (s : State) (i : Nat) : State :=
  let x := s.inst i
  let s := ((s.connCloseInst i).dropRx i).endAccess i
  let s := (s.forgetDescs (fun r => decide (r < mgrBase) && r / 16 == i)).schedPurge i
  let s := ((s.flowDeleteQuota x.flowBase x.flowCount).ctxDestroyQuota x.ctxBase x.ctxCount)
  let s := ((s.almInstReset i).reflexInstReset i).maskVectors i
  { s with mig.dirty := s.mig.dirty.drop1 i }

/-- INST_RESET's effect: other commands of the instance reply ABORTED, then everything it holds goes (R351, R359). -/
def State.instReset (s : State) (i : Nat) (new : InstState) : State :=
  let s := s.replyAll (fun a => a.ring == i * 16 || a.cmd.inst == i) 0xF 3
  let s := s.setInstState i new
  let s := s.instClear i
  let x := s.inst i
  let y : Inst :=
    { state := new, flowBase := x.flowBase, flowCount := x.flowCount, ctxBase := x.ctxBase, ctxCount := x.ctxCount,
      q0 := x.q0, q14 := x.q14, q15 := x.q15 }
  (s.setInst i y).instRings i y

/-- The reply of INST_RESET and INST_DESTROY: once every host access for the instance has ended (Table 14-5). -/
def State.resetReply (s : State) (i : Nat) : Reply :=
  if s.accessLeft i then { st := s, later := true, limit := (s.cfg .pf0).timeoutTicks * 11 / 10 + 2512500 } else Reply.ok s

/-- INST_RESET (R351). -/
def execInstReset (c : Cmd) (s : State) : Out :=
  .next (s.runCmd { code := 0x0207, inst := .inst, states := 0x3E } c (fun _ s => (s.instReset c.inst .configured).resetReply c.inst))

/-- INST_DESTROY (R351): as INST_RESET; Binnacle clears the bounds table entry, and the instance is ABSENT. -/
def execInstDestroy (c : Cmd) (b : BinRead) (s : State) : Out :=
  .next (s.runCmd { code := 0x0206, inst := .inst, states := 0x3E, asks := true } c (fun _ s =>
    let q := s.askBinnacle 2 0x0206 c b []
    match q.1 with
    | some r => r
    | none =>
      let i := c.inst
      let s := q.2.instReset i .absent
      let s := { s with
        bounds := s.bounds.drop1 i, insts := s.insts.drop1 i
        snap := s.snap.keep (fun k _ => decide (k < 2 ^ 20 + i * 0x1000) || decide (2 ^ 20 + (i + 1) * 0x1000 ≤ k))
        rings := s.rings.filter (fun (p : Nat × Ring) => decide (mgrBase ≤ p.1) || p.1 / 16 != i) }
      s.resetReply i))

/-! ### Every instance (Table 18-6) -/

/-- Warm reset and FLR of PF 0: every instance ABSENT, every instance ring gone, no bounds left. -/
def State.instsGone (s : State) : State :=
  let s := s.forgetDescs (fun _ => true)
  { s with
    insts := [], bounds := [], rings := s.rings.filter (fun (p : Nat × Ring) => decide (mgrBase ≤ p.1)), host.instVec := []
    mig.dirty := [] }

end Sys2Proof.Machine
end

