-- ==== Sys2Proof/Machine/Hove.lean ====
section
/-!
DEFINITION. Machine/Hove.lean: BINNACLE_STATE, hove-to and its causes (R442 to R445), DEV_CONFIGURE and DEV_QUERY
(R446, R447).
-/

set_option Elab.async false
namespace Sys2Proof.Machine

open Sys2Proof

/-- BINNACLE_STATE (chapter 18). -/
def Boot.word (b : Boot) : Nat :=
  b.phase.code + b.reason * 16 + b.causes * 256 + b2n (b.causes != 0) * 4096 + b2n b.clockPll * 8192 + b.selftest * 16384

/-- BINNACLE_STATE as it stands. -/
def State.binnacleState (s : State) : Nat := s.boot.word

/-! ### Effects of hove-to (R443, R444, Table 18-8) -/

/-- A frame of the adapter's own that hove-to still lets a ring port begin: supervision for RING_NODE_MAC, and the ring's
peer-delay messages (R443). -/
def State.keptInHove (s : State) (p : Port) (f : PortFrame) : Bool :=
  let typ := (ptpOff f.body).map (ptpType f.body)
  !f.own || isRing p && (isSupervision f.body && beAt f.body 6 6 == s.ports.ring.nodeMac ||
    typ == some ptpPdelayReq || typ == some ptpPdelayResp || typ == some ptpPdelayRespFu)

/-- Frames that stand at a port and may no longer begin: the adapter's own, and on a ring port those from the interlink,
which count in RING_IL_DROP (R47). -/
def State.hovePort (s : State) (p : Port) : State :=
  let m := s.mac p
  let s := s.setMac p { m with express := m.express.filter (s.keptInHove p), host := [] }
  m.host.foldl (fun s f => (s.ilDrop p).originEnd p f (some (10, 0))) s

/-- A transmit descriptor of an instance that was fetched and not started completes with status HOVE_TO. -/
def State.hoveRing (s : State) (r : Nat) : State :=
  ((s.ring r).descs.filter (fun d => !d.started)).foldl (fun s d => s.completeDesc r d (txCompletion d r 10 0)) s

/-- Hove-to is entered (Table 18-8). -/
def State.hoveEnter (s : State) : State :=
  let s := (((s.reflexHove true).almHove true).recHove true).schedHove
  let s := [Port.a, .b, .c, .d].foldl State.hovePort s
  let il := s.ports.ring.il
  let s := il.foldl (fun s f => ((s.ilDrop .c).ilDrop .d).originEnd .c { f with id := 0 } (some (10, 0))) { s with ports.ring.il := [] }
  (((s.rings.map (·.1)).filter (fun r => decide (r < mgrBase) && isTxRing r))).foldl State.hoveRing s

/-- Hove-to is left (R444). -/
def State.hoveLeave (s : State) : State := (((s.almHove false).recHove false).reflexHove false).bmca

/-- BINNACLE_STATE changes: vector 6 of PF 1 (Table 12-9); a change of PHASE, HOVE_TO or HOVE_CAUSES is posted on SMBOX 3
(R438); one of PHASE, and entry to and exit from hove-to, raise the device event (R443, Table 21-5). GLOBAL_HOVE_COUNT counts
entries, as its field map says (log entry 47). -/
def State.setBoot (s : State) (b : Boot) : State :=
  let was := s.hove
  let old := s.boot
  let s := { s with boot := b }
  let s := if old.phase = b.phase ∧ old.causes = b.causes then s else { s with dechan.smboxPost := true }
  let s := if old.word = b.word then s else s.msi .pf1 6
  let s := if old.phase = b.phase then s else s.event 19
  if !was && s.hove then State.event { s.hoveEnter with boot.hoveCount := b.hoveCount + 1 } 19
  else if was && !s.hove then s.hoveLeave.event 19
  else s

/-- Causes of Table 18-7 set; FATAL also sets its bit of ERR_SUMMARY (R449). -/
def State.raiseCause (s : State) (m : Nat) : State :=
  let s := if bit m 2 then s.errBit 4 else s
  s.setBoot { s.boot with causes := s.boot.causes ||| m }

/-- Causes cleared. -/
def State.clearCause (s : State) (m : Nat) : State :=
  s.setBoot { s.boot with causes := maskOf 4 (fun k => bit s.boot.causes k && !bit m k) }

/-- PHASE and REASON change. -/
def State.setPhase (s : State) (p : Phase) (reason : Nat) : State := s.setBoot { s.boot with phase := p, reason := reason }

/-! ### Causes (Table 18-7) -/

/-- HOST_LOST_GRACE_EXPIRY (R442): the link has stayed down for longer than the grace, with PERST_N deasserted and the L2 flag
clear. -/
def execHostLostGraceExpiry (s : State) : Out :=
  if s.inRun 3 && s.host.perstHigh && !s.host.linkUp && !s.power.l2 && !bit s.boot.causes 1 &&
      decide (s.host.linkSince + s.boot.hostLostGrace * msTicks < s.now) then .next (s.raiseCause 2)
  else .next s

/-- HOST_RESUME_EXPIRY (R442). -/
def execHostResumeExpiry (s : State) : Out :=
  if s.inRun 3 && s.boot.hostResume && bit s.boot.causes 1 && s.host.linkUp && s.elapsed s.host.linkSince (10 * msTicks) then
    .next (s.clearCause 2)
  else .next s

/-- PLL_LOCK_LOSS (R437, R442): the Helm cores return to the fast internal oscillator when it is the system PLL. -/
def execPllLockLoss (system : Bool) (s : State) : Out :=
  if !(if system then s.inRun 3 else s.inRun 6 || s.inRun 11) then .next s
  else
    let s := { s with boot.pllLost := s.boot.pllLost ||| (if system then 1 else 2) }
    let s := if system then { s with helm.onPll := 0 } else s
    .next (s.raiseCause 4)

/-- UNCORRECTABLE_INTERNAL_ERROR (R314). -/
def execUncorrectableInternalError (fn : Fn) (s : State) : Out :=
  if s.inRun 2 then .next ((s.aer fn .uncorrectableInternal).raiseCause 4) else .next s

/-- SUPERVISOR_FAULT_TIMEOUT (R390): thread 0 has been in FAULT_HALT for 150 ms. -/
def execSupervisorFaultTimeout (s : State) : Out :=
  if s.coreRuns 0 && (s.thread 0).state == .faultHalt && s.elapsed (s.thread 0).faultAt (150 * msTicks) && !s.helm.restartDue then
    .next ({ s with helm.restartDue := true }.raiseCause 1)
  else .next s

/-! ### DEV_HOVE_TO (R445) -/

/-- DEV_HOVE_TO's effect. -/
def devHoveToBody (c : Cmd) (s : State) : Reply :=
  let a := byteAt c.data 0
  let done (s : State) : Reply :=
    Reply.ok s ([BitVec.ofNat 8 s.boot.causes, BitVec.ofNat 8 (b2n s.hove), 0, 0] ++ leBytes 4 s.boot.hoveCount.toNat)
  if a = 1 then done (s.raiseCause 8)
  else if a = 2 then done (s.clearCause (if s.host.linkUp then 10 else 8))
  else if a = 3 then done s
  else Reply.bad s 24

/-- DEV_HOVE_TO of any action. -/
def devHoveTo (c : Cmd) (s : State) : Out := .next (s.runCmd { code := 0x0105, exempt := true } c (fun _ s => devHoveToBody c s))

/-- DEV_HOVE_TO ENTER (R445). -/
def execDevHoveToEnter (c : Cmd) (s : State) : Out := devHoveTo c s
/-- DEV_HOVE_TO LEAVE (R445). -/
def execDevHoveToLeave (c : Cmd) (s : State) : Out := devHoveTo c s
/-- DEV_HOVE_TO STATUS (R445). -/
def execDevHoveToStatus (c : Cmd) (s : State) : Out := devHoveTo c s

/-! ### DEV_CONFIGURE and DEV_QUERY (R446, R447) -/

/-- The first selected field of Table 18-9 that is out of range. -/
def devConfigBad (d : Bytes) : Option Nat :=
  let sel := byteAt d 0
  if bit sel 0 ∧ 1 < byteAt d 1 then some 25
  else if bit sel 0 ∧ (leAt d 2 2 = 0 ∨ 1000 < leAt d 2 2) then some 26
  else if bit sel 1 ∧ (leAt d 4 4 < 10 ∨ 10000 < leAt d 4 4) then some 28
  else if bit sel 2 ∧ 1 < byteAt d 8 then some 32
  else none

/-- DEV_CONFIGURE's effect. -/
def devConfigureBody (c : Cmd) (s : State) : Reply :=
  let d := c.data
  match devConfigBad d with
  | some o => Reply.bad s o
  | none =>
    let sel := byteAt d 0
    let b := s.boot
    let b := if bit sel 0 then { b with becalmPolicy := byteAt d 1, becalmWindow := leAt d 2 2 } else b
    let b := if bit sel 1 then { b with hostLostGrace := leAt d 4 4 } else b
    let b := if bit sel 2 then { b with hostResume := byteAt d 8 == 1 } else b
    Reply.ok { s with boot := b }
      ([0, BitVec.ofNat 8 b.becalmPolicy] ++ leBytes 2 b.becalmWindow ++ leBytes 4 b.hostLostGrace ++ [BitVec.ofNat 8 (b2n b.hostResume)])

/-- DEV_CONFIGURE (R446). -/
def execDevConfigure (c : Cmd) (s : State) : Out :=
  .next (s.runCmd { code := 0x0102 } c (fun _ s => devConfigureBody c s))

/-- The reply of DEV_QUERY (R447). -/
def State.devQueryData (s : State) : Bytes :=
  [0x42, 0x42, 1, BitVec.ofNat 8 (b2n Config.gradeC)] ++ leBytes 8 Config.serial.toNat ++ leBytes 4 Config.romVersion.toNat ++
    leBytes 4 s.boot.runVersion.toNat ++ leBytes 4 s.binnacleState ++ leBytes 2 s.runMask ++
    [BitVec.ofNat 8 s.ciph.lode.code, BitVec.ofNat 8 (if s.inRun 12 then s.time.quality.code else 0)] ++ leBytes 4 s.boot.hoveCount.toNat

/-- DEV_QUERY (R447). -/
def execDevQuery (c : Cmd) (s : State) : Out :=
  .next (s.runCmd { code := 0x0101, exempt := true } c (fun _ s => Reply.ok s s.devQueryData))

end Sys2Proof.Machine
end

