-- ==== Sys2Proof/Machine/Mailbox.lean ====
section
/-!
DEFINITION. Machine/Mailbox.lean: the mailbox channels between host, Helm and Binnacle (R361, R362, R438, Table 14-14).
-/

set_option Elab.async false
namespace Sys2Proof.Machine

open Sys2Proof

/-- A write of a channel's data word: FULL, or discarded with OVERRUN (R361). -/
def Mbox.put (x : Mbox) (w : W32) : Mbox := if x.full then { x with overrun := true } else { x with word := w, full := true }

/-- The receiver takes the word; FULL 0 reads 0 and changes nothing (R361). -/
def Mbox.take (x : Mbox) : W32 × Mbox := if x.full then (x.word, { x with full := false }) else (0, x)

/-- A channel of each group. -/
def State.mbox (s : State) (n : Nat) : Mbox := s.dechan.mbox.getD n {}
def State.smbox (s : State) (n : Nat) : Mbox := s.dechan.smbox.getD n {}

/-- MBOX channel `n` changes: the host hears of channels 0 to 3 emptied and of 4 to 7 filled, when INT_EN is 1; Helm of 0 to 3
filled and of 4 to 7 emptied (Table 14-14, Table 16-3). -/
def State.setMbox (s : State) (n : Nat) (x : Mbox) : State :=
  let was := (s.mbox n).full
  let s := { s with dechan.mbox := s.dechan.mbox.set n x }
  let rose := if n < 4 then !was && x.full else was && !x.full
  let host := if n < 4 then was && !x.full else !was && x.full
  let s := if rose then s.pulse (32 + n) else s
  if host && x.intEn then s.event 21 else s

/-- SMBOX channel `n` changes: vector 2 + n of PF 1, when INT_EN is 1, once channel 0 or 1 is empty or channel 2 or 3 is full. -/
def State.setSmbox (s : State) (n : Nat) (x : Mbox) : State :=
  let was := (s.smbox n).full
  let s := { s with dechan.smbox := s.dechan.smbox.set n x }
  if (if n < 2 then was && !x.full else !was && x.full) && x.intEn then s.msi .pf1 (2 + n) else s

/-- A host write of MBOX_DATA[n]; the channels from 4 up are read only. -/
def State.mboxWrite (s : State) (n : Nat) (w : W32) : State := if n < 4 then s.setMbox n ((s.mbox n).put w) else s

/-- A host read of MBOX_DATA[n]: it takes the word of channels 4 to 7, and reads 0 on channels 0 to 3. -/
def State.mboxRead (s : State) (n : Nat) : W32 × State :=
  if 4 ≤ n ∧ n < 8 then
    let r := (s.mbox n).take
    (r.1, s.setMbox n r.2)
  else (0, s)

/-- A host write of SMBOX_DATA[n]; channels 2 and 3 are read only. -/
def State.smboxWrite (s : State) (n : Nat) (w : W32) : State := if n < 2 then s.setSmbox n ((s.smbox n).put w) else s

/-- A host read of SMBOX_DATA[n]. -/
def State.smboxRead (s : State) (n : Nat) : W32 × State :=
  if 2 ≤ n ∧ n < 4 then
    let r := (s.smbox n).take
    (r.1, s.setSmbox n r.2)
  else (0, s)

/-- MBOX_WRITE (R361). -/
def execMboxWrite (n : Nat) (w : W32) (s : State) : Out := .next (if s.linkReady then s.mboxWrite n w else s)

/-- MBOX_TAKE (R361). -/
def execMboxTake (n : Nat) (s : State) : Out :=
  if !s.linkReady then .next s
  else
    let (w, s) := s.mboxRead n
    .next (s.emit (.cpl .sc (leBytes 4 w.toNat)))

/-- SMBOX_WRITE (R361). -/
def execSmboxWrite (n : Nat) (w : W32) (s : State) : Out := .next (if s.linkReady then s.smboxWrite n w else s)

/-- SMBOX_TAKE (R361). -/
def execSmboxTake (n : Nat) (s : State) : Out :=
  if !s.linkReady then .next s
  else
    let (w, s) := s.smboxRead n
    .next (s.emit (.cpl .sc (leBytes 4 w.toNat)))

/-- A word with its top octet replaced. -/
def answerWord (top : Nat) (rest : W32) : W32 := BitVec.ofNat 32 (top * 2 ^ 24 + rest.toNat % 2 ^ 24)

/-- MBOX_LIVENESS_REPLY (R362): while channel 4 is free for the answer (log entry 48). -/
def execMboxLivenessReply (s : State) : Out :=
  if s.helmRuns && (s.mbox 0).full && !(s.mbox 4).full then
    let w := (s.mbox 0).word
    let s := s.setMbox 0 (s.mbox 0).take.2
    .next (s.setMbox 4 ((s.mbox 4).put (answerWord (if w.toNat / 2 ^ 24 = 1 then 0x81 else 0xFF) w)))
  else .next s

/-- Binnacle is alive in D3. -/
def State.binnacleLives (s : State) : Bool := s.inRun 3 && s.boot.phase != .failed

/-- SMBOX_REPLY (R438): the word on channel 0 is answered on channel 2, once that is free (log entry 48); a word on channel 1 is
taken. -/
def execSmboxReply (s : State) : Out :=
  if !s.binnacleLives then .next s
  else
    let s := if (s.smbox 1).full then s.setSmbox 1 (s.smbox 1).take.2 else s
    if (s.smbox 0).full && !(s.smbox 2).full then
      let w := (s.smbox 0).word
      let top := w.toNat / 2 ^ 24
      let a :=
        if top = 1 then answerWord 0x81 w
        else if top = 2 then answerWord 0x82 (BitVec.ofNat 32 (s.binnacleState % 2 ^ 22))
        else answerWord 0xFF w
      let s := s.setSmbox 0 (s.smbox 0).take.2
      .next (s.setSmbox 2 ((s.smbox 2).put a))
    else .next s

/-- BINNACLE_STATE_POST (R438): a change waits while channel 3 is FULL, and is posted with the state as it then stands. -/
def execBinnacleStatePost (s : State) : Out :=
  if s.binnacleLives && s.dechan.smboxPost && !(s.smbox 3).full then
    let s := { s with dechan.smboxPost := false }
    .next (s.setSmbox 3 ((s.smbox 3).put (answerWord 0x90 (BitVec.ofNat 32 (s.binnacleState % 2 ^ 22)))))
  else .next s

end Sys2Proof.Machine
end

