-- ==== Sys2Proof/Machine/Boot.lean ====
section
/-!
DEFINITION. Machine/Boot.lean: Binnacle's boot, Helm's image, its start, readiness and restart, and the measurements
(R396, R397, R431 to R437, R480).
-/

set_option Elab.async false
namespace Sys2Proof.Machine

open Sys2Proof

/-! ### Binnacle's boot (R431, R432) -/

/-- BINNACLE_BOOT (R431, R432): the self-tests end. Test 7 passes when the system PLL has locked. -/
def execBinnacleBoot (failed : Byte) (s : State) : Out :=
  if !(s.inRun 3 && s.boot.phase == .selfTest) then .next s
  else
    let f := failed.toNat
    let b := s.boot
    let b := { b with
      selftest := f
      meas := b.meas.set 0 (beBytes 48 Config.romDigest.toNat)
      pllLost := if bit f 7 then b.pllLost else b.pllLost / 2 * 2 }
    .next (s.setBoot (if f = 0 then { b with phase := .awaitImage, clockPll := true } else { b with phase := .failed, reason := 1 }))

/-! ### The bank hashing (R408) -/

/-- Six masks are linearly independent: no selection of them but the empty one cancels out. -/
def hashIndependent (ms : List Nat) : Bool :=
  (List.range 63).all (fun k => (ms.zipIdx.foldl (fun a (x : Nat × Nat) => if bit (k + 1) x.2 then a ^^^ x.1 else a) 0) != 0)

/-- The lock that the first accepted GO sets. -/
def State.hashLock (s : State) : State :=
  if s.mem.hashLocked then s
  else if hashIndependent s.mem.hashMask then { s with mem.hashLocked := true }
  else
    let cold : MemSys := {}
    { s with mem.hashLocked := true, mem.hashReject := true, mem.hashMask := cold.hashMask }

/-! ### The image (R433, Table 18-4) -/

/-- DRAM address of the Helm image: behind the handle map copy in the die 0 region (Table 17-2, log entry 49). -/
def imageBase : Nat := 0x390020000

/-- The digest D of an image. -/
def imageDigest (b : Bytes) : Bytes := sha384 (b.take 64 ++ b.drop 512)

/-- The fields of Table 18-4 are in range. -/
def imageInRange (b : Bytes) : Bool :=
  let len := leAt b 8 4
  leAt b 0 4 == 0x4D4C4548 && leAt b 4 2 == 1 && decide (leAt b 6 2 < 2) && len % 4096 == 0 && decide (8192 ≤ len) &&
    decide (len ≤ 64 * 2 ^ 20) && leAt b 12 4 % 4 == 0 && decide (leAt b 12 4 < 2 ^ 18) && leAt b 20 44 == 0

/-- The REASON for which an image is not valid, if it is not. -/
def imageFault (b : Bytes) : Option Nat :=
  let msg := b.take 64 ++ b.drop 512
  if !imageInRange b then some 3
  else if beNat (sha384 (slice b 64 97)) ≠ Config.meltoamKeyHash.toNat then some 4
  else if !ecdsaVerify (slice b 64 97) msg (slice b 164 96) then some 5
  else
    match Config.customerKeyHash with
    | none => none
    | some h =>
      if bit (byteAt b 6) 0 && beNat (sha384 (slice b 260 97)) == h.toNat && ecdsaVerify (slice b 260 97) msg (slice b 360 96) then none
      else some 6

/-- The copy in the Helm image region, if one can be read. -/
def State.imageCopy (s : State) : Option Bytes × State :=
  if !s.boot.imageValid then (none, s)
  else
    match s.dramRead imageBase 512 with
    | (none, s) => (none, s)
    | (some h, s) => s.dramRead imageBase (leAt h 8 4)

/-- Thread 0 is started at ENTRY, with the first 256 KiB of the body in the instruction SRAM of core 0. -/
def State.startImage (s : State) (b : Bytes) : State :=
  let s := s.helmStart (leAt b 12 4)
  State.setPhase { s with helm.sram := s.helm.sram.writeN 0 ((b.drop 512).take 262144) } .helmStarting 0

/-! ### Helm is stopped, halted and started (R358, R396, R397) -/

/-- Steps 1 to 3 of R396: hove-to, ABORTED to the commands that Helm had accepted, the cores in reset. The dirty logs do not
survive (R397), and packet numbers resume at their marks (R223). -/
def State.helmStop (s : State) : State :=
  let s := s.raiseCause 1
  let s := s.replyAll (fun a => a.ring != secRing && a.opcode != 0x0B01) 0xF 2
  let s := s.coresReset.pnResume
  { s with
    mig.dirty := s.mig.dirty.mapVals (fun _ l => { l with marked := [], lost := true })
    time.sets := []
    boot.runVersion := 0 }

/-- Helm stays in reset with a REASON; after a restart the manager hears of it (R397). -/
def State.helmHalt (s : State) (reason : Nat) : State :=
  let was := s.helm.restarting.isSome
  let s := { s.coresReset with helm.restarting := none, boot.runVersion := 0 }
  let s := if was then s.helmEvent 3 else s
  s.setPhase .helmHalted reason

/-- Steps 4 and 5 of R396: the image is hashed again, and thread 0 started. -/
def State.helmLaunch (s : State) : State :=
  if !s.boot.imageValid then s.helmHalt 8
  else
    match s.imageCopy with
    | (none, s) => s.helmHalt 7
    | (some b, s) => if imageDigest b = s.boot.meas.getD 1 [] then s.startImage b else s.helmHalt 7

/-- Three restarts have begun within 10 s (R397). -/
def State.restartLimit (s : State) : Bool :=
  match s.helm.restartAt with
  | [a, _, c] => decide (c ≤ a + 10 * secTicks)
  | _ => false

/-- HELM_RESTART (R396, R397), once one is due. -/
def execHelmRestart (s : State) : Out :=
  if !(s.helm.restartDue && s.inRun 3 && s.inRun 4 && (s.boot.phase == .running || s.boot.phase == .helmStarting)) then .next s
  else
    let limit := s.restartLimit
    let s := s.helmStop
    let s := { s with helm.restarting := some s.now }
    if limit then .next (s.helmHalt 10)
    else
      let l := s.helm.restartAt ++ [s.now]
      let s := { s with helm.restartAt := l.drop (l.length - 3), helm.restarts := s.helm.restarts + 1 }
      .next (s.helmCount 6).helmLaunch

/-- Rings 1 to 13 of an instance and the manager's transmit and exception rings go on in TAGGED, or enter ENABLED in it later
(R331, R397). -/
def State.retagRings (s : State) : State :=
  { s with rings := s.rings.mapVals (fun r x =>
      if !hasMode r then x else if x.state = .enabled then { x with inPlace := false, switch := none } else { x with retag := true }) }

/-- Binnacle's word to Helm on internal channel 2: an entry's index and ring, and a status in [23:16]. Bits [17:16] have two
meanings (R363): where they differ they are free (log entry 46). -/
def State.binnacleAnswer (s : State) (idx ring status : Nat) : State :=
  let (w, s1) := s.draw
  let agree := status % 4 == ring % 4
  let low := if agree then status % 4 else w.toNat % 4
  let s := if agree then s else s1
  let word := BitVec.ofNat 32 (idx % 65536 + low * 65536 + status / 4 % 64 * 2 ^ 18)
  let x : Mbox := s.dechan.internal.getD 2 {}
  State.pulse { s with dechan.internal := s.dechan.internal.set 2 { x with word := word } } 42

/-- HELM_READY (R437): accepted while all eight cores run on the system PLL, else answered BUSY. -/
def execHelmReady (s : State) : Out :=
  if !(s.inRun 3 && s.inRun 4 && s.helm.cores == 255 && s.boot.phase == .helmStarting) then .next s
  else
    let s := s.pulse 40
    if s.helm.onPll ≠ 255 then .next (s.binnacleAnswer 0 0 9)
    else
      let s := s.binnacleAnswer 0 0 0
      let v := leNat (s.dram.readN (imageBase + 16) 4)
      let s := { s with helm.restarting := none, sched.ready := s.inRun 5, boot.runVersion := BitVec.ofNat 32 v }
      let s := s.retagRings
      let s := s.setBoot { s.boot with phase := .running, reason := 0, causes := s.boot.causes / 2 * 2 }
      .next (if s.flowReady then { s with flow := s.flow.takeAllBack } else s)

/-- HELM_READY_TIMEOUT (R437): 150 ms after the start of thread 0. -/
def execHelmReadyTimeout (s : State) : Out :=
  if s.inRun 3 && s.boot.phase == .helmStarting && s.elapsed s.boot.helmStart (150 * msTicks) then .next (s.helmHalt 9) else .next s

/-- HELM_CLOCK_SWITCH (R437). -/
def execHelmClockSwitch (core : Nat) (s : State) : Out :=
  if s.inRun 4 && bit s.helm.cores core && !bit s.boot.pllLost 0 then .next { s with helm.onPll := s.helm.onPll ||| 2 ^ core }
  else .next s

/-! ### Loading (R434, R480) -/

/-- GO is accepted now. -/
def State.goAccepted (s : State) : Bool :=
  s.inRun 3 && (s.boot.phase == .awaitImage || s.boot.phase == .helmHalted || s.boot.phase == .running && bit s.boot.causes 3)

/-- GO written to GLOBAL_BOOT_CTRL, with or without REUSE: accepted, or ignored with BOOT_REJECT. The BINNACLE vote on D4 and
D11 follows PHASE (R434, step 1). -/
def State.go (s : State) (reuse : Bool) : State :=
  if !s.goAccepted then { s with boot.bootReject := true }
  else
    let s := s.hashLock
    let s := if s.boot.phase = .running then s.helmStop else s.coresReset
    s.setBoot { s.boot with phase := .loading, reason := 0, loading := some (reuse, s.boot.imageAddr.toNat, s.boot.imageLen) }

/-- IMAGE_LOAD (R434). -/
def execImageLoad (s : State) : Out := .next (if s.linkReady then s.go false else s)
/-- IMAGE_LOAD_REUSE (R434). -/
def execImageLoadReuse (s : State) : Out := .next (if s.linkReady then s.go true else s)

/-- A load fails with a REASON. -/
def State.loadFail (s : State) (reason : Nat) : State :=
  s.setBoot { s.boot with phase := .awaitImage, reason := reason, loading := none, imageValid := false }

/-- MEAS4's 98 octets (Table 18-5). -/
def State.meas4Input (s : State) : Bytes :=
  [BitVec.ofNat 8 (b2n s.ciph.enrolment.isSome)] ++ beBytes 48 Config.meltoamKeyHash.toNat ++
    (match Config.customerKeyHash with | some h => beBytes 48 h.toNat | none => zeros 48) ++ [BitVec.ofNat 8 (b2n Config.gradeC)]

/-- A valid image is measured (R435) and started. -/
def State.loadOk (s : State) (b : Bytes) : State :=
  let m := s.boot.meas
  let m := m.set 1 (imageDigest b)
  let m := m.set 2 (sha384 (slice b 64 97))
  let m := m.set 3 (if Config.customerKeyHash.isSome then sha384 (slice b 260 97) else zeros 48)
  let m := m.set 4 (sha384 s.meas4Input)
  let s := { s with
    boot.meas := m, boot.validLoads := s.boot.validLoads + 1, boot.imageValid := true, boot.loading := none,
    helm.restartAt := [], helm.restarting := none }
  s.startImage b

/-- The image is checked: its length, then R433. -/
def State.loadCheck (s : State) (len : Option Nat) (b : Bytes) : State :=
  if len.any (fun n => n % 4096 != 0 || n != leAt b 8 4) then s.loadFail 3
  else
    match imageFault b with
    | some r => s.loadFail r
    | none => s.loadOk b

/-- IMAGE_LOAD_DONE (R434): once D4 and D11 are in Run. -/
def execImageLoadDone (image : HostRead) (s : State) : Out :=
  match s.boot.loading with
  | none => .next s
  | some (reuse, addr, len) =>
    if !(s.inRun 3 && s.inRun 4 && s.inRun 11) then .next s
    else if reuse then
      match s.imageCopy with
      | (some b, s) => .next (s.loadCheck none b)
      | (none, s) => .next (s.loadFail 8)
    else
      if s.readHeld .pf0 then .next (s.readWait .pf0) else
      match s.hostRead .pf0 none addr len image with
      | (none, s) => .next (s.loadFail 2)
      | (some b, s) =>
        let b := slice b 0 len
        .next ((s.dramWrite imageBase b).loadCheck (some len) b)

/-! ### SEC_MEASURE (R436) -/

/-- SEC_MEASURE's effect: 1 READ, 2 RECHECK. -/
def secMeasureBody (c : Cmd) (s : State) : Reply :=
  let a := byteAt c.data 0
  if a = 1 then
    { st := s
      buf := (List.range 8).flatMap (fun k => slice (s.boot.meas.getD k []) 0 48) ++ leBytes 4 s.binnacleState ++
        leBytes 4 s.boot.validLoads ++ zeros 8 }
  else if a = 2 then
    if !s.boot.imageValid then { Reply.ok s [0, 2] with notify := true }
    else
      match s.imageCopy with
      | (some b, s) => { Reply.ok s [0, BitVec.ofNat 8 (b2n (imageDigest b == s.boot.meas.getD 1 []))] with notify := true }
      | (none, s) => { Reply.ok s [0, 0] with notify := true }
  else Reply.bad s 24

/-- What Table 14-6 says of SEC_MEASURE; only READ takes a buffer. -/
def opSecMeasure (c : Cmd) : Op :=
  { code := 0x0E03, lens := if byteAt c.data 0 = 1 then [400] else [0], reads := false, writes := true }

/-- SEC_MEASURE READ (R436). -/
def execSecMeasureRead (c : Cmd) (s : State) : Out := .next (s.runCmd (opSecMeasure c) c (fun _ s => secMeasureBody c s))
/-- SEC_MEASURE RECHECK (R436). -/
def execSecMeasureRecheck (c : Cmd) (s : State) : Out := .next (s.runCmd (opSecMeasure c) c (fun _ s => secMeasureBody c s))

end Sys2Proof.Machine
end

