-- ==== Sys2Proof/Machine/Power.lean ====
section
/-!
DEFINITION. Machine/Power.lean: votes, Run and Stop of the domains, seals, wakes, the rails and PWR commands
(chapters 17 and 20).
-/

set_option Elab.async false
namespace Sys2Proof.Machine

open Sys2Proof

/-! ### Votes and the Run set (R414, R415) -/

/-- The domains a domain requires in Run, other than D0 (Table 1-3). -/
def requiresOf (d : Nat) : List Nat :=
  if d = 3 then [2] else if d = 4 then [3, 11] else if d = 5 then [6, 7, 11] else if d = 8 then [11] else if d = 9 ∨ d = 10 then [5]
  else if d = 12 then [1, 2, 5, 8] else if d = 13 then [2, 11] else []

/-- The order in which domains start (R415); they stop in the reverse order. -/
def startOrder : List Nat := [1, 2, 3, 11, 6, 7, 5, 8, 4, 9, 10, 12, 13]

/-- The BINNACLE vote on D2, D3, D4 and D11 stands: boot, load, start or restart of Helm, or an armed transfer key (log entry 50). -/
def State.binnacleVotes (s : State) : Bool :=
  s.inRun 3 && (s.boot.phase == .selfTest || s.boot.phase == .loading || s.boot.phase == .helmStarting || s.helm.restarting.isSome ||
    s.helm.restartDue || s.mig.armedUntil.isSome)

/-- The recorder holds its vote: capture runs, an event is protected, or a pair is attached (R285). -/
def State.recorderVotes (s : State) : Bool := s.recd.running || !s.recd.events.isEmpty || s.recd.qp.state != .detached

/-- The vote mask of a domain (Table 17-3): MANAGER and SECURITY as cast, the others from what they follow. -/
def State.votes (s : State) (d : Nat) : Nat :=
  let cast := (s.power.votes.getD d 0).toNat
  let link := d == 1 && (s.inRun 1 && (s.ports.c.lock || s.ports.d.lock) || s.power.signalLostAt.isSome) || d == 2 && s.host.perstHigh && !s.power.l2
  let live := match s.helm.grant with | some g => decide (s.now < g.until_) | none => false
  let has (b : Bool) (k : Nat) : Nat := if b then 2 ^ k else 0
  cast % 4 ||| cast / 8 % 2 * 8 ||| has ((d == 2 || d == 3 || d == 4 || d == 11) && s.binnacleVotes) 2 ||| has (d == 12 && !s.alm.tab.isEmpty) 4 |||
    has (d == 13 && s.recorderVotes) 5 ||| has link 6 ||| has (live && decide (1 ≤ d) && decide (d ≤ 13)) 7

/-- A set of domains with every domain its members require, one step of R415. -/
def requireStep (l : List Nat) : List Nat := (l.flatMap requiresOf).foldl addNew l

/-- The Run set: domains with a vote, and all that they require (R415). -/
def State.runSet (s : State) : List Nat :=
  requireStep (requireStep (requireStep (requireStep ((List.range 14).filter (fun d => d != 0 && s.votes d != 0)))))

/-- The domain is to be in Run: it is in the Run set and its rail is good (R19, R426). -/
def State.wanted (s : State) (d : Nat) : Bool :=
  s.runSet.contains d && (s.power.vin12 || d == 1 && s.power.vaux33)

/-- State of a domain. -/
def State.dom (s : State) (d : Nat) : DomState := s.power.dom.getD d .stop

/-- A domain's state changed. -/
def State.setDom (s : State) (d : Nat) (x : DomState) : State := { s with power.dom := s.power.dom.set d x }

/-! ### Seals (R419, R420) -/

/-- Retaining banks of a domain (Table 17-6). -/
def domBanks (d : Nat) : List Nat :=
  if d = 6 then List.range 9 else if d = 1 then [9] else if d = 11 then [10, 11] else if d = 7 then (List.range 32).map (· + 32) else []

/-- The second seal word of a bank. -/
def sealWord1 (w0 : W32) (bank : Nat) : W32 := ~~~w0 ^^^ BitVec.ofNat 32 (bank * 256)

/-- Stop count of a domain. -/
def State.stopCount (s : State) (d : Nat) : W32 := s.power.stopCount.getD d 0

/-- Step 4 of Table 17-4: the count rises, and each bank is sealed and its latch armed. -/
def State.sealBanks (s : State) (d : Nat) : State :=
  let n := s.stopCount d + 1
  let s := { s with power.stopCount := s.power.stopCount.set d n, power.recorded := s.power.recorded.set d true }
  let seal_ (b : Nat) : SealBank := { w0 := n, w1 := sealWord1 n b, armed := true, tripped := false }
  { s with power.banks := (domBanks d).foldl (fun m b => m.put b (seal_ b)) s.power.banks }

/-- A bank holds: a recorded Stop, its latch clear, and both words right. -/
def State.bankHolds (s : State) (d b : Nat) : Bool :=
  let x := s.power.banks.getD b {}
  s.power.recorded.getD d false && !x.tripped && x.w0 == s.stopCount d && x.w1 == sealWord1 x.w0 b

/-- DROOP_TRIP (R419). -/
def execDroopTrip (bank : Nat) (s : State) : Out :=
  let x := s.power.banks.getD bank {}
  .next (if x.armed then { s with power.banks := s.power.banks.put bank { x with tripped := true } } else s)

/-! ### What a domain's start leaves (R415, R420, R421) -/

/-- D1: ports C and D and the ring plane. -/
def State.upD1 (s : State) (first : Bool) (lost : Nat) : State := s.ringStartUp (!first && !bit lost 9)

/-- D2: the endpoint, and every register and ring that lives in it. -/
def State.upD2 (s : State) : State :=
  let m := s.mem
  let s := s.instsGone
  let s := { s with
    host := { perstHigh := s.host.perstHigh, perstAt := s.now, linkSince := s.now }
    evt := {}, err := {}, dechan := {}, snap := []
    rings := [(8224, { log2 := 4 })]
    mem := { hashMask := m.hashMask, hashLocked := m.hashLocked, hashReject := m.hashReject, errors := m.errors }
    boot.hoveCount := 0, boot.imageAddr := 0, boot.imageLen := 0, boot.imageValid := false, boot.bootReject := false }
  (s.setVote 1 2 false).setVote 1 3 false

/-- D3: Binnacle boots (R431); hove-to with cause HELM, and FATAL while a PLL stays unlocked (Table 18-7). -/
def State.upD3 (s : State) : State :=
  let b := s.boot
  let cold : Boot := {}
  let lost := b.pllLost / 2 * 2
  let s := { s.grantEnd with mig.transferKey := none, mig.armedUntil := none, helm.challenge := none, helm.restartAt := [], helm.snapshot := none }
  s.setBoot { cold with
    causes := if lost = 0 then 1 else 5, pllLost := lost, hoveCount := s.boot.hoveCount, imageAddr := b.imageAddr, imageLen := b.imageLen,
    imageValid := b.imageValid, bootReject := b.bootReject }

/-- D4: Helm's cores in reset, its registers Cold; after a Stop Binnacle starts Helm by steps 4 to 6 of R396 (R437). -/
def State.upD4 (s : State) (first : Bool) : State :=
  let s := (s.coresReset).raiseCause 1
  let s := { s with helm.restarts := 0, helm.cnt := Cnts.zero 8 }
  if !first && (s.boot.phase == .running || s.boot.phase == .helmStarting) then
    State.helmLaunch { s with helm.restarting := some s.now, boot.runVersion := 0 }
  else s

/-- D5: the registers of its blocks, the switching tables and the scheduler. The tables of D6 and D7 stay. -/
def State.upD5 (s : State) (first : Bool) : State :=
  let f := s.flow
  let s := { s with
    flow :=
      { slots := f.slots, raw := f.raw, fps := f.fps, ovf := f.ovf, recs := f.recs, handles := f.handles, seedA := f.seedA, seedB := f.seedB
        swing := f.swing, job := f.job, scanDue := f.scanDue, lostBanks := f.lostBanks, ms := f.ms, firstSweep := f.firstSweep
        lastSweep := f.lastSweep }
    cls := { banks := s.cls.banks.map (fun (x : ClsBank) => { x with tie := 0, move := none }) } }
  let s := s.switchCold.schedWake (first || s.sched.areaLost)
  { s with sched.ready := s.helmRuns }

/-- D6: an empty flow table, or what its banks retain. -/
def State.upD6 (s : State) (first : Bool) (lost : Nat) : State :=
  if first then State.flowCold { s with sched.meters := [], sched.meterLost := 0, sched.mtrLost := 0 } else (s.flowLose (lost % 512)).meterLose (lost % 256)

/-- D7: classifier banks cleared, or restored, or LOST (R184, R191). -/
def State.upD7 (s : State) (first : Bool) (lost : Nat) : State :=
  if first then { s with cls.banks := List.replicate 32 {} }
  else
    { s with
      cls.check := none
      cls.banks := s.cls.banks.zipIdx.map (fun (x : ClsBank × Nat) =>
        if bit lost (32 + x.2) then { state := .lost } else { x.1 with tie := 0, move := none }) }

/-- D11: the DRAM dies (R224, R85, R261, R369, R397). -/
def State.upD11 (s : State) (first : Bool) (lost : Nat) : State :=
  let s := { s with boot.pllLost := s.boot.pllLost % 2 }
  if first then
    { s with dram := [], ciph.ctxs := [], ciph.wiped := false, time.kept := none, flow.swing := none, boot.imageValid := false }
  else
    let dies := lost / 1024 % 4
    let s := { s with
      dram := s.dram.filter (fun (p : Nat × Byte) => !bit dies (dramDie p.1))
      boot.imageValid := s.boot.imageValid && !bit dies 0
      sched.areaLost := s.sched.areaLost || bit dies 1
      time.kept := if bit dies 1 then none else s.time.kept
      mig.dirty := if bit dies 1 then s.mig.dirty.mapVals (fun _ l => { l with marked := [], lost := true }) else s.mig.dirty }
    if dies = 0 then s else s.ctxLose dies

/-- D13: the recorder and the peer windows. -/
def State.upD13 (s : State) : State := State.winReset { s with recd := {} }

/-- A domain starts: its Cold values, and what is retained; `lost` has a bit per bank ID. -/
def State.domainUp (s : State) (d : Nat) (first : Bool) (lost : Nat) : State :=
  if d = 1 then s.upD1 first lost else if d = 2 then s.upD2 else if d = 3 then s.upD3 else if d = 4 then s.upD4 first
  else if d = 5 then s.upD5 first else if d = 6 then s.upD6 first lost else if d = 7 then s.upD7 first lost
  else if d = 8 then s.cipherCold.destroyDone else if d = 9 then s.macReset .a else if d = 10 then s.macReset .b
  else if d = 11 then s.upD11 first lost
  else if d = 12 then State.timeStart { s with alm := {}, reflex := {} }
  else if d = 13 then s.upD13 else s

/-- Ledgers kept in a domain (Table 19-5). -/
def domainLedgers (d : Nat) : Nat :=
  if d = 2 then 0xC else if d = 4 then 0x230 else if d = 5 then 0x3 else if d = 8 then 0xC0 else if d = 12 then 0x100 else 0

/-- CLKREQ_N: low while D2 is in Run or starting, released in Stop (R468). -/
def State.clkreqSettle (s : State) : State :=
  let low := s.dom 2 != .stop || (bit s.power.wakeSet 2 && !bit s.power.woken 2)
  if low = s.power.clkreqLow then s else State.emit { s with power.clkreqLow := low } (.land .clkreqN (!low))

/-- A domain's logic supply goes off: what ends with it at once, its registers'
snapshots among it; a running audit leaves its ledgers out (R458). -/
def State.domainOff (s : State) (d : Nat) : State :=
  let s := s.setDom d .stop
  let s := { s with
    err.audit := s.err.audit.map (fun a => { a with dropped := a.dropped ||| domainLedgers d })
    snap := s.snap.keep (fun k _ => decide (2 ^ 20 ≤ k) || blockDomain k != some d) }
  if d = 1 then { s with ports.c := s.ports.c.down, ports.d := s.ports.d.down }
  else if d = 2 then
    State.clkreqSettle { s.roundsSettle with
      host.linkUp := false, host.tags := [], host.waiting := [], host.changing := none, host.heldPeer := [], alm.marks := [] }
  else if d = 3 then { s.grantEnd with mig.transferKey := none, mig.armedUntil := none }
  else if d = 4 then s.coresReset
  else if d = 8 then s.cipherCold.destroyDone
  else if d = 9 then { s with ports.a := s.ports.a.down } else if d = 10 then { s with ports.b := s.ports.b.down }
  else if d = 12 then { s with alm := {}, reflex := {} }
  else if d = 13 then s.recStop else s

/-! ### PWR_VOTE and PWR_QUERY (R422, R423) -/

/-- Domains entering or leaving Run: draining, or stopped and wanted. -/
def State.changing (s : State) (d : Nat) : Bool := s.dom d == .draining || (s.dom d == .stop && s.wanted d)

/-- Every entry and start has completed. -/
def State.powerSettled (s : State) : Bool :=
  (List.range 14).all (fun d => d == 0 || (s.dom d == .run) == s.wanted d)

/-- The domains that a PWR_VOTE takes the MANAGER vote from. -/
def voteCleared (c : Cmd) : Nat :=
  if byteAt c.data 0 = 2 then leAt c.data 2 2 else if byteAt c.data 0 = 3 then 0x3FFE - leAt c.data 2 2 else 0

/-- The reply of PWR_VOTE: domains in Run, and those cleared that stay in Run. -/
def State.voteReply (s : State) (c : Cmd) : Bytes :=
  leBytes 2 s.runMask ++ leBytes 2 (maskOf 14 (fun d => bit (voteCleared c) d && s.inRun d && s.wanted d))

/-- PWR_VOTE with WAIT replies once everything has settled. -/
def State.powerReplies (s : State) : State :=
  if s.powerSettled then
    (s.dechan.accepted.filter (fun a => a.opcode == 0x0B01 && !a.waits)).foldl (fun s a => s.reply a 0 0 (s.voteReply a.cmd) []) s
  else s

/-- A wake begins, unless one is in progress: the domains it names. -/
def State.wakeBegin (s : State) (mask : Nat) : State :=
  let fresh := s.power.wakeSet == 0 && s.power.woken == 0
  State.clkreqSettle { s with power.wakeAt := if fresh then s.now else s.power.wakeAt, power.wakeSet := s.power.wakeSet ||| mask }

/-- The MANAGER vote set, cleared or replaced on a mask of domains. -/
def State.managerVote (s : State) (action mask : Nat) : State :=
  (List.range 14).foldl (fun s d =>
    if d = 0 then s
    else if action = 1 then (if bit mask d then s.setVote 0 d true else s)
    else if action = 2 then (if bit mask d then s.setVote 0 d false else s)
    else s.setVote 0 d (bit mask d)) s

/-- The domains that votes have just brought into the Run set. -/
def State.toStart (s : State) : Nat := maskOf 14 (fun d => d != 0 && s.wanted d && s.dom d != .run)

/-- Request 3, POWER_VOTE, when Helm runs: Binnacle reads the entry itself. It takes the vote directly otherwise (R364, R415). -/
def State.voteAsk (s : State) (c : Cmd) : Option Reply × State :=
  if s.helmRuns then s.askBinnacle 3 0x0B01 c c.ask [] else (none, s)

/-- PWR_VOTE's effect. -/
def pwrVoteBody (c : Cmd) (s : State) : Reply :=
  let a := byteAt c.data 0
  let mask := leAt c.data 2 2
  if a = 0 ∨ 3 < a then Reply.bad s 24
  else if bit mask 0 ∨ bit mask 14 ∨ bit mask 15 then Reply.bad s 26
  else
    match s.voteAsk c with
    | (some r, _) => r
    | (none, s) =>
      let s := s.managerVote a mask
      let s := if s.toStart = 0 then s else s.wakeBegin s.toStart
      if bit (byteAt c.data 1) 0 && !s.powerSettled then { st := s, later := true, limit := 3100 * usTicks }
      else Reply.ok s (s.voteReply c)

/-- PWR_VOTE (R422). -/
def execPwrVote (c : Cmd) (s : State) : Out :=
  .next (s.runCmd { code := 0x0B01, exempt := true, asks := s.helmRuns } c (fun _ s => pwrVoteBody c s))

/-- The reply of PWR_QUERY. -/
def State.pwrQueryData (s : State) : Bytes :=
  leBytes 2 s.runMask ++ leBytes 2 (maskOf 14 s.changing) ++ [0] ++
    ((List.range 13).map (fun k => BitVec.ofNat 8 (s.votes (k + 1)))) ++ leBytes 2 s.power.wakeCause

/-- PWR_QUERY (R423). -/
def execPwrQuery (c : Cmd) (s : State) : Out := .next (s.runCmd { code := 0x0B02, exempt := true } c (fun _ s => Reply.ok s s.pwrQueryData))

/-- The reply of DEV_WAKE_REPORT (Table 17-7). -/
def State.wakeReportData (s : State) : Bytes :=
  let r := s.power.report
  let p := s.power.scrub
  leBytes 4 r.seq.toNat ++ leBytes 2 r.lostA ++ leBytes 2 r.cause ++ leBytes 4 r.lostCls ++ leBytes 2 r.woken ++ leBytes 2 r.droop ++
    leBytes 4 r.runUs ++ leBytes 4 p.ce ++ leBytes 4 p.ue ++ [BitVec.ofNat 8 (b2n p.done)]

/-- DEV_WAKE_REPORT (R424). -/
def execDevWakeReport (c : Cmd) (s : State) : Out :=
  .next (s.runCmd { code := 0x0106, exempt := true } c (fun _ s => Reply.ok s s.wakeReportData))

/-! ### Stop entry (R416, Table 17-4) -/

/-- The domain leaves Run now: unwanted, required by no domain that runs, and its turn in the reverse order has come. -/
def State.mayStop (s : State) (d : Nat) : Bool :=
  let later := (startOrder.dropWhile (· != d)).drop 1
  decide (1 ≤ d) && s.dom d == .run && !s.wanted d &&
    (List.range 14).all (fun e => !(requiresOf e).contains d || s.dom e == .stop) &&
    later.all (fun e => s.wanted e || s.dom e != .run)

/-- Frames in D5's cells are discarded and counted in MEM_CNT[11]; the completion status of a host frame among them is not
stated, and is free. -/
def State.drainCells (s : State) : State :=
  let (w, s) := s.draw
  let fail := (w.toNat % 256, w.toNat / 256 % 256)
  let gone := s.sched.queues
  let s := { s with sched.queues := [] }
  let s := gone.foldl (fun s q => q.2.foldl (fun s f =>
    (({ s with mem.cnt := s.mem.cnt.inc 11 } : State).leaveQueue f (q.1 % 8)).frameEnd f.frame (some fail)) s) s
  let rx := s.rings.filter (fun (p : Nat × Ring) => isRxRing p.1 && !p.2.frames.isEmpty)
  rx.foldl (fun s p => p.2.frames.foldl (fun s f =>
    (({ s with mem.cnt := s.mem.cnt.inc 11 } : State).freeRx p.1 f).rxEnd f (some fail)) (s.setRing p.1 { s.ring p.1 with frames := [] })) s

/-- DOMAIN_STOP_ENTRY (R416): steps 1 and 2. -/
def execDomainStopEntry (d : Nat) (s : State) : Out :=
  if !s.mayStop d then .next s
  else
    let s := s.setDom d .draining
    .next (if d = 5 then s.drainCells else s)

/-- DOMAIN_STOP_SEAL (R416): a vote that came back ends the entry; else steps 3 to 6. -/
def execDomainStopSeal (d : Nat) (s : State) : Out :=
  if d = 0 ∨ s.dom d ≠ .draining then .next s
  else if s.wanted d then .next (s.setDom d .run).powerReplies
  else
    let s := if d = 12 then s.timeStop else if d = 5 ∨ d = 7 then s.clsDrain else s
    let s := (s.sealBanks d).domainOff d
    .next (s.event 22).powerReplies

/-! ### Start and wake report (R418 to R421, R424) -/

/-- The domain starts now: the first of the order that is wanted and not in Run, with what it requires in Run. -/
def State.mayStartDomain (s : State) (d : Nat) : Bool :=
  let earlier := startOrder.takeWhile (· != d)
  decide (1 ≤ d) && s.dom d == .stop && s.wanted d && (requiresOf d).all s.inRun &&
    earlier.all (fun e => !s.wanted e || s.dom e == .run)

/-- The wake is complete: it is reported if it brought a retaining bank's domain into Run (R420, R424), with the memory event, and
a scrub pass follows over the banks that are not LOST (R413). -/
def State.wakeEnd (s : State) : State :=
  let p := s.power
  let s := { s with power.wakeSet := 0, power.woken := 0, power.lostA := 0, power.lostCls := 0, power.droop := 0, power.wakeBanks := false }
  if !p.wakeBanks then s
  else
    let r : WakeReport :=
      { seq := p.report.seq + 1, lostA := p.lostA, cause := p.wakeCause, lostCls := p.lostCls, woken := p.woken, droop := p.droop
        runUs := (s.now - p.wakeAt) / usTicks }
    let banks := ([6, 1, 11].filter (bit p.woken)).flatMap (fun d => (domBanks d).filter (fun b => !bit p.lostA b && (s.mem.hashLocked || !(domBanks 11).contains b)))
    let scrub : ScrubPass := { running := !banks.isEmpty, wake := true, banks := banks, done := banks.isEmpty }
    State.event { s with power.report := r, power.scrub := scrub } 17

/-- DOMAIN_START (R418): a domain in Stop starts; one that still drains goes on without a reset (R416). -/
def execDomainStart (d : Nat) (s : State) : Out :=
  if d = 0 then .next s
  else if s.dom d = .draining ∧ s.wanted d then .next (s.setDom d .run).powerReplies
  else if !s.mayStartDomain d then .next s
  else
    let s := if s.power.wakeSet = 0 ∧ s.power.woken = 0 then { s with power.wakeAt := s.now } else s
    let first := !s.power.hasRun.getD d false
    let banks := domBanks d
    let lostList := if first then [] else banks.filter (fun b => !s.bankHolds d b)
    let lost := lostList.foldl (fun a b => a + 2 ^ b) 0
    let droop := lostList.foldl (fun a b => if b < 12 ∧ (s.power.banks.getD b {}).tripped then a + 2 ^ b else a) 0
    let s := { s with
      power.banks := s.power.banks.filter (fun (p : Nat × SealBank) => !banks.contains p.1)
      power.recorded := s.power.recorded.set d false, power.hasRun := s.power.hasRun.set d true
      power.woken := s.power.woken ||| 2 ^ d
      power.lostA := s.power.lostA ||| lost % 4096, power.lostCls := s.power.lostCls ||| lost / 2 ^ 32
      power.droop := s.power.droop ||| droop
      power.wakeBanks := s.power.wakeBanks || (!first && !banks.isEmpty) }
    let s := s.setDom d .run
    let s := (s.domainUp d first lost).event 22
    let s := if s.toStart = 0 then s.wakeEnd else s
    .next s.clkreqSettle.powerReplies

/-! ### Wake sources (R417, R484) -/

/-- WAKE_N while the L2 flag is set (R417). -/
def State.assertWake (s : State) : State :=
  if s.power.l2 && !s.power.wakeN then State.emit { s with power.wakeN := true } (.land .wakeN false) else s

/-- A source fires with its mask; a mask of zero disables it. -/
def State.fireWake (s : State) (source mask : Nat) : State :=
  let m := mask % 2 ^ 14 / 2 * 2
  if m = 0 then s
  else
    let s := s.wakeBegin m
    let s := { s.managerVote 1 m with power.wakeCause := s.power.wakeCause ||| 2 ^ source }
    s.assertWake

/-- WAKE_SOURCE (R417): sources 0 to 5; 2 and 3 while D1 is in Stop, 4 while it is in Run. -/
def execWakeSource (source : Nat) (s : State) : Out :=
  let fits := decide (source < 6) && s.inRun 0 && (!(source == 2 || source == 3) || !s.inRun 1) && (source != 4 || s.inRun 1)
  .next (if fits then s.fireWake source (s.power.wakeTarget.getD source 0) else s)

/-- PWR_WAKE (R484): source 6 with the mask it names. -/
def execPwrWake (target : Nat) (s : State) : Out := .next (if s.linkReady then s.fireWake 6 target else s)

/-- LINK_VOTE_RELEASE (R414): 1 s after the last loss of signal. -/
def execLinkVoteRelease (s : State) : Out :=
  match s.power.signalLostAt with
  | some t => .next (if s.elapsed t secTicks then { s with power.signalLostAt := none } else s)
  | none => .next s

/-! ### Rails (R426, R466) -/

/-- D0 enters Run: everything at its Cold value but the fuses, the board's inputs, and what the model keeps beside the
hardware. -/
def State.d0Start (s : State) : State :=
  { now := s.now, free := s.free, out := s.out, pending := s.pending, module_ := { dieTemp := s.module_.dieTemp }
    ciph := { enrolment := s.ciph.enrolment }
    power := { dom := (List.replicate 14 DomState.stop).set 0 .run } }

/-- RAIL_GOOD (R426). -/
def execRailGood (rail : Rail) (s : State) : Out :=
  let had := s.power.vin12 || s.power.vaux33
  let s := if had then s else s.d0Start.alertSettle
  let s :=
    match rail with
    | .vin12 => { s with power.vin12 := true }
    | .vaux33 => { s with power.vaux33 := true }
  .next (if s.toStart = 0 then s else s.wakeBegin s.toStart)

/-- Domains that lose their supply stop at once: no seal, no Stop record; banks already sealed lose their retention supply
(R466, R420). -/
def State.supplyLost (s : State) (ds : List Nat) : State :=
  let s := ds.foldl (fun s d => if s.dom d = .stop then s else { s.domainOff d with power.recorded := s.power.recorded.set d false }) s
  let banks := ds.flatMap domBanks
  State.clkreqSettle { s with
    power.banks := s.power.banks.mapVals (fun b x => if banks.contains b && x.armed then { x with tripped := true } else x)
    power.wakeSet := 0, power.woken := 0 }

/-- RAIL_LOST (R466). -/
def execRailLost (rail : Rail) (s : State) : Out :=
  let s :=
    match rail with
    | .vin12 => { s with power.vin12 := false }
    | .vaux33 => { s with power.vaux33 := false }
  if s.power.vin12 then .next s
  else
    let s := s.supplyLost ((List.range 14).filter (fun d => decide (2 ≤ d)))
    if s.power.vaux33 then .next s
    else .next ((s.supplyLost [1]).setDom 0 .stop)

/-! ### Scrub and panic (R410, R413) -/

/-- The words a scrub could not correct are logged; the addresses of those beyond the known ones are free. -/
def State.scrubLog : Nat → List (Nat × Nat × Nat) → State → State
  | 0, _, s => s
  | n + 1, e :: es, s =>
    State.scrubLog n es (s.logUe e.1 (if e.1 = 0 then e.2.1 / 2 ^ 32 else 10 + dramDie e.2.1) (if e.1 = 0 then e.2.1 % 2 ^ 32 else e.2.1) 7 true)
  | n + 1, [], s =>
    let (a, s) := s.draw
    State.scrubLog n [] (s.logUe 1 (10 + dramDie (a.toNat % 0x3C0000000)) (a.toNat % 0x3C0000000) 7 true)

/-- SCRUB_PASS_END (R413): corrected words are written back; with PATROL set the scrub goes on. -/
def execScrubPassEnd (ce ue : Nat) (s : State) : Out :=
  if !s.power.scrub.running then .next s
  else
    let bad := s.mem.errors.filter (fun e => decide (2 ≤ invBits e.2.2))
    let s := s.scrubLog ue bad
    let p := s.power.scrub
    .next { s with
      mem.cnt := s.mem.cnt.add 6 ce
      mem.errors := bad
      power.scrub :=
        { p with
          running := s.mem.patrol
          wake := false
          ce := if p.wake then p.ce + ce else p.ce
          ue := if p.wake then p.ue + ue else p.ue
          done := true } }

/-- DRAM_PANIC (R410): clients 0 to 5 are the egress readers, 6 the recorder writer. -/
def execDramPanic (client : Nat) (up : Bool) (postponed : Nat) (s : State) : Out :=
  if !s.inRun 11 || decide (6 < client) then .next s
  else
    let was := s.mem.panic.contains client
    let cnt := s.mem.cnt.add 10 (min postponed 8)
    let cnt := if up && !was then cnt.inc 9 else cnt
    .next { s with mem.cnt := cnt, mem.panic := if up then addNew s.mem.panic client else s.mem.panic.filter (· != client) }

end Sys2Proof.Machine
end

