-- ==== Sys2Proof/Machine/Reset.lean ====
section
/-!
DEFINITION. Machine/Reset.lean: PERST_N, Warm reset, FLR and DEV_RESET_UNIT (R427, R440, R441, R488), configuration
requests (R293), alarms and the lodestar (R236, R238).
-/

set_option Elab.async false
namespace Sys2Proof.Machine

open Sys2Proof

/-! ### PERST_N and L2 (R417, R427, R488) -/

/-- PERST_DEASSERT (R427): the L2 flag clears, WAKE_N is released, wake source 5 fires, and the link trains if D2 is in Run. -/
def execPerstDeassert (s : State) : Out :=
  if s.host.perstHigh || !s.inRun 0 then .next s
  else
    let s := { s with host.perstHigh := true, host.perstAt := s.now, host.ready := false, power.l2 := false }
    let s := if s.power.wakeN then State.emit { s with power.wakeN := false } (.land .wakeN true) else s
    let s := s.fireWake 5 (s.power.wakeTarget.getD 5 0)
    .next (if s.inRun 2 then { s with host.linkUp := true, host.linkSince := s.now } else s)

/-- Reads that a unit's transfer makes as it runs end with an error at DL_Down (R312, Table 12-8): an image load, a table transfer, a
mover whose side is host memory. A unit whose function may issue no request has none outstanding. -/
def State.readsEnd (s : State) : State :=
  if !s.mayRead .pf0 then s
  else
    let s := match s.boot.loading with
      | some (false, _, _) => s.loadFail 2
      | _ => s
    let s := if s.sw.busy && !s.sw.job.dir then s.tableEnd 2 0 else s
    (List.range 16).foldl (fun s m =>
      match (s.mover m).active with
      | some x => if (x.mode ≠ 1 ∧ x.srcSpace = 0) ∨ (x.mode = 2 ∧ x.dstSpace = 0) then s.moverEnd m 1 0 none else s
      | none => s) s

/-- What the end of the link does to requests outstanding, to writes not yet sent and to the configuration space (R312). -/
def State.linkLost (s : State) : State := s.readsEnd.linkDown

/-- PCIE_LINK_DOWN (R312). -/
def execPcieLinkDown (s : State) : Out :=
  if s.linkReady && s.host.perstHigh then
    .next (if s.power.l2 then s.linkLost else s.linkLost.aerLink s .surpriseDown)
  else .next s

/-- PME_TURN_OFF (R488): PME_TO_Ack, L2/L3 Ready, and the L2 flag; the link is then down. -/
def execPmeTurnOff (s : State) : Out :=
  if s.linkReady then .next (State.linkLost { s.emit .pmeToAck with power.l2 := true }) else .next s

/-! ### What Warm reset and FLR of PF 0 have in common (Table 18-6) -/

/-- The registers of the PF 0 blocks in D2 take their Warm values; the PF 1 log and the secure transport stay. -/
def State.warmRegs (s : State) : State :=
  let m := s.mem
  let e := s.err
  let d := s.dechan
  { s with
    evt := {}
    err := { viol1 := e.viol1, violNext1 := e.violNext1 }
    dechan := { smbox := d.smbox, smboxPost := d.smboxPost, internal := d.internal, secEnable := d.secEnable,
                accepted := d.accepted.filter (fun a => a.ring == secRing) }
    mem := { hashMask := m.hashMask, hashLocked := m.hashLocked, hashReject := m.hashReject, errors := m.errors, panic := m.panic }
    boot.imageAddr := 0, boot.imageLen := 0, boot.bootReject := false
    rings := s.rings.filter (fun (p : Nat × Ring) => p.1 == secRing)
    host.msix0 := [], host.instVec := [], snap := [] }

/-- The recorder and NVMe/TCP at a reset: every connection is closed, then the rest (R289). -/
def State.recUnitReset (s : State) : State := ((s.recd.conns.map (·.1)).foldl State.connClose s).recReset

/-- The units' tables and registers in the Warm reset domain (R117, R119, R167, R185, R211, R244, R257, R261, R289, R300), ports A
and B among them. -/
def State.warmUnits (s : State) : State :=
  let s := (((((s.almWipe).reflexWipe).flowReset).clsReset).switchReset).cipherReset
  (((s.schedReset).recUnitReset).winReset.macReset .a).macReset .b

/-- The effects on instances, tables and registers. -/
def State.warmShared (s : State) : State := (s.instsGone.warmUnits).warmRegs

/-! ### Warm reset (R440) -/

/-- Binnacle reboots from self-test: its registers Warm, MEAS1 to MEAS4 cleared, a load abandoned; FATAL is raised again while a PLL
stays unlocked (Table 18-7). -/
def State.binnacleReboot (s : State) : State :=
  let b := s.boot
  let cold : Boot := {}
  let m := [1, 2, 3, 4].foldl (fun m k => m.set k (zeros 48)) b.meas
  let loading := match b.loading with | some (reuse, _, _) => !reuse | none => false
  s.setBoot { cold with
    causes := if b.pllLost = 0 then 1 else 5, pllLost := b.pllLost, clockPll := b.clockPll, meas := m, validLoads := b.validLoads,
    imageValid := b.imageValid && !loading, hoveCount := b.hoveCount }

/-- The secure transport's registers: SMBOX and the secure ring at their Warm values; the SECURITY vote goes (R367). -/
def State.secureReset (s : State) : State :=
  let d := s.dechan
  let s := { s with
    dechan := { d with smbox := List.replicate 4 {}, secEnable := false, accepted := d.accepted.filter (fun a => a.ring != secRing) }
    err.viol1 := [], err.violNext1 := 0, host.msix1 := []
    rings := s.rings.put secRing { log2 := 4 }
    mig.transferKey := none, mig.armedUntil := none }
  ((s.grantEnd).setVote 1 2 false).setVote 1 3 false

/-- WARM_RESET (R440): PERST_N is asserted. -/
def execWarmReset (s : State) : Out :=
  if !s.host.perstHigh then .next s
  else
    let s := { s with host.linkUp := false, host.linkSince := s.now, host.perstHigh := false }
    let s := s.binnacleReboot
    let s := (s.coresReset).warmShared.secureReset
    .next { s with
      host := { perstHigh := false, perstAt := s.now, linkSince := s.now }
      helm.challenge := none, helm.restarting := none, helm.restartAt := []
      time.kept := none, time.sets := [], mig.restored := [], mig.dirty := [] }

/-! ### FLR (R293, R440) -/

/-- A function's own requests are forgotten, and its configuration space is reset. -/
def State.fnReset (s : State) (fn : Fn) : State :=
  let mine (o : Output) : Bool := match o with | .write f _ _ _ => f == fn | .msi f _ _ _ => f == fn | _ => false
  let tagMine (t : TagState) : Bool := match t with | .outstanding f _ _ _ _ _ => f == fn | _ => false
  let s := { s with
    host.tags := s.host.tags.filter (fun (p : Nat × TagState) => !tagMine p.2)
    host.parts := match fn with | .pf0 => [] | .pf1 => s.host.parts
    host.waiting := s.host.waiting.filter (fun o => !mine o)
    alm.marks := match fn with | .pf0 => [] | .pf1 => s.alm.marks }
  s.setCfg fn (s.cfg fn).reset

/-- The HELM block's registers take their Warm values while Helm runs on (R478): selectors, breakpoints, the rose, latched flags
and results. RESTARTS and HELM_CNT are Kept, and what shows the state of a thread, a channel or a transfer stays as that is (log
entry 143). -/
def State.helmRegsWarm (s : State) : State :=
  { s with
    helm.threadSel := 0, helm.chanSel := 0, helm.breakEn := false, helm.dbgReject := false, helm.becalmed := false
    helm.bp := List.replicate 16 0, helm.rose := List.replicate 8 defaultRose
    helm.chans := s.helm.chans.mapVals (fun _ c => { c with torn := 0 })
    helm.movers := s.helm.movers.map (fun m => { m with error := 0, done := 0, mismatch := 0 }) }

/-- FLR of PF 0. -/
def State.flrPf0 (s : State) : State :=
  let s := ((s.fnReset .pf0).warmShared).helmRegsWarm
  { s with host.xlats := [], time.sets := [], mig.restored := [], mig.dirty := [] }

/-- FLR of PF 1. -/
def State.flrPf1 (s : State) : State := (s.fnReset .pf1).secureReset

/-- A Function Level Reset of either function. -/
def State.flr (s : State) (fn : Fn) : State :=
  match fn with
  | .pf0 => s.flrPf0
  | .pf1 => s.flrPf1

/-- FLR (R293, R440). -/
def execFlr (fn : Fn) (s : State) : Out := .next (if s.linkReady then s.flr fn else s)

/-! ### Configuration requests (R293) -/

/-- CONFIG_REQUEST (R293): Configuration Request Retry Status until the endpoint is ready after PERST_N, which it is
at most 50 ms after (Table 18-1, step 8); before that a free value says whether it is ready yet. Bit 15 of
Device Control starts a Function Level Reset. -/
def execConfigRequest (fn : Fn) (off : Nat) (wr : Option (W32 × Nat)) (s : State) : Out :=
  if !s.linkReady then .next s
  else
    let (w, s1) := s.draw
    let sure := s.host.ready || s.elapsed s.host.perstAt (50 * msTicks)
    let s := if sure then s else s1
    if !sure && !w.getLsbD 0 then .next (s.emit (.cpl .crs []))
    else
      let s := { s with host.ready := true }
      let o := off / 4 * 4
      match wr with
      | none => .next (s.emit (.cpl .sc (leBytes 4 (s.cfgRead fn o))))
      | some (v, be) =>
        let w := mergeBe (s.cfgRead fn o) v.toNat be
        let s := (s.cfgWrite fn o w).emit (.cpl .sc [])
        .next (if o = 0x78 ∧ bit be 1 ∧ bit w 15 then s.flr fn else s)

/-! ### DEV_RESET_UNIT (R441) -/

/-- The effect of FLR of PF 0 on one unit. -/
def State.unitReset (s : State) (unit : Nat) : Option State :=
  if unit = 1 then some s.flowReset
  else if unit = 2 then some s.clsReset
  else if unit = 3 then some s.switchReset
  else if unit = 4 then some s.almWipe
  else if unit = 5 then some s.reflexWipe
  else if unit = 6 then some s.schedReset
  else if unit = 7 then some s.recUnitReset
  else if unit = 8 then some s.winReset
  else if unit = 9 then some { s.macReset .a with err.loopA := 0 }
  else if unit = 10 then some { s.macReset .b with err.loopB := 0 }
  else none

/-- DEV_RESET_UNIT (R441). -/
def execDevResetUnit (c : Cmd) (s : State) : Out :=
  .next (s.runCmd { code := 0x0103 } c (fun _ s =>
    match s.unitReset (byteAt c.data 0) with
    | some s => Reply.ok s
    | none => Reply.no s 0xB 24))

/-! ### Alarms and the lodestar (R236 to R239) -/

/-- A tripped alarm (R236, R137, R223, R374, R393). -/
def State.alarm (s : State) (source : Nat) : State :=
  let x := s.ciph
  let x : Cipher :=
    { x with
      lodestar := zeros 32
      lode := .alarmed
      kcv := 0
      eraseCount := (x.eraseCount + 1) % 2 ^ 32
      latched := x.latched ||| 2 ^ source
      cache := []
      raw := x.raw.map (fun l => { l with key := none }) }
  let s := { s with ciph := x, mig.transferKey := none, mig.armedUntil := none }
  let s := (((s.ciphCount 15).jobsAbandon).pnResume.reflexNoKey).grantEnd
  ((s.msi .pf1 1).event 15).alertSettle

/-- ALARM_TRIP (R236): a source trips, or is no longer present. -/
def execAlarmTrip (source : Nat) (present : Bool) (s : State) : Out :=
  if !s.inRun 0 || decide (4 < source) then .next s
  else if !present then .next { s with ciph.present := maskOf 5 (fun k => bit s.ciph.present k && k != source) }
  else if bit s.ciph.present source then .next s
  else .next (State.alarm { s with ciph.present := s.ciph.present ||| 2 ^ source } source)

/-- SEC_LODESTAR_LOAD (R238, R239). -/
def execSecLodestarLoad (c : Cmd) (s : State) : Out :=
  .next (s.runCmd { code := 0x0E01, lens := [96], writes := true, zeroAt := some (8, 60) } c (fun b s => lodestarBody State.reflexKeyBack b s))

end Sys2Proof.Machine
end

