-- ==== Sys2Proof/Machine/Migration.lean ====
section
/-!
DEFINITION. Machine/Migration.lean: dirty logging, the waypoint, the transfer key and the restore (chapter 15).
-/

set_option Elab.async false
namespace Sys2Proof.Machine

open Sys2Proof

/-! ### Dirty logging (R369) -/

/-- Pages of an instance's bounds ranges. -/
def State.boundPages (s : State) (i : Nat) : Nat :=
  match s.bounds.find i with
  | some b => b.ranges.foldl (fun a r => a + r.pages) 0
  | none => 0

/-- The bitmap of a dirty log: all ones when the log was lost. -/
def DirtyLog.bitmap (l : DirtyLog) : Bytes :=
  (List.range (ceilDiv l.pages 8)).map (fun k =>
    if l.lost then 0xFF else BitVec.ofNat 8 (maskOf 8 (fun n => l.marked.contains (8 * k + n))))

/-- DIRTY_LOG START. -/
def dirtyStart (c : Cmd) (s : State) : Reply :=
  let pages := s.boundPages c.inst
  if leAt c.data 16 4 * 8 < pages then Reply.bad s 40
  else if 16 ≤ (s.mig.dirty.drop1 c.inst).length ∨ 33554432 < pages then Reply.no s 4 0
  else
    Reply.ok { s with mig.dirty := s.mig.dirty.put c.inst { base := leAt c.data 8 8, pages := pages, marked := [], lost := false } }

/-- DIRTY_LOG HARVEST: the bitmap goes to the command's BITMAP_BASE, and the log is cleared. -/
def dirtyHarvest (c : Cmd) (l : DirtyLog) (s : State) : Reply :=
  let s := s.post0 (leAt c.data 8 8) l.bitmap
  let set := if l.lost then l.pages else l.marked.length
  Reply.ok { s with mig.dirty := s.mig.dirty.put c.inst { l with marked := [], lost := false } }
    (leBytes 4 set ++ [BitVec.ofNat 8 (b2n l.lost)])

/-- DIRTY_LOG's effect, by its ACTION. -/
def dirtyLogBody (c : Cmd) (s : State) : Reply :=
  let act := byteAt c.data 0
  if act = 0 ∨ 3 < act then Reply.bad s 24
  else if act ≠ 3 ∧ leAt c.data 8 8 % 64 ≠ 0 then Reply.bad s 32
  else if act = 1 then dirtyStart c s
  else
    match s.mig.dirty.find c.inst with
    | none => Reply.no s 8 0
    | some l => if act = 2 then dirtyHarvest c l s else Reply.ok { s with mig.dirty := s.mig.dirty.drop1 c.inst }

/-- DIRTY_LOG as a command (Table 14-8). -/
def dirtyLog (c : Cmd) (s : State) : State :=
  s.runCmd { code := 0x0C03, inst := .inst, states := 0x1C } c (fun _ s => dirtyLogBody c s)

/-- DIRTY_LOG START (R369). -/
def execDirtyLogStart (c : Cmd) (s : State) : Out := .next (dirtyLog c s)
/-- DIRTY_LOG HARVEST (R369). -/
def execDirtyLogHarvest (c : Cmd) (s : State) : Out := .next (dirtyLog c s)
/-- DIRTY_LOG STOP (R369). -/
def execDirtyLogStop (c : Cmd) (s : State) : Out := .next (dirtyLog c s)

/-! ### The transfer key (R374) -/

/-- The 32 octets of the delivered transfer key. -/
def Migration.key (m : Migration) : Option Bytes := m.transferKey.map (fun k => leBytes 32 k.toNat)

/-- The transfer key is erased. -/
def State.eraseTransfer (s : State) : State := { s with mig.transferKey := none, mig.armedUntil := none }

/-- SEC_TRANSFER_KEY's effect. -/
def secTransferBody (c : Cmd) (s : State) : Reply :=
  let act := byteAt c.data 0
  let life := leAt c.data 8 4
  if act = 0 ∨ 2 < act then Reply.bad s 24
  else if act = 2 then Reply.ok s.eraseTransfer
  else
    match s.mig.key with
    | none => Reply.no s 8 0
    | some k =>
      if leAt c.data 4 3 ≠ keyKcv k then Reply.bad s 28
      else if life < 60 ∨ 86400 < life then Reply.bad s 32
      else Reply.ok { s with mig.armedUntil := some (s.now + life * secTicks) } (leBytes 4 life)

/-- SEC_TRANSFER_KEY as a command. -/
def secTransfer (c : Cmd) (s : State) : State :=
  s.runCmd { code := 0x0E02, exempt := true } c (fun _ s => secTransferBody c s)

/-- SEC_TRANSFER_KEY ARM (R374). -/
def execSecTransferKeyArm (c : Cmd) (s : State) : Out := .next (secTransfer c s)
/-- SEC_TRANSFER_KEY DISARM (R374). -/
def execSecTransferKeyDisarm (c : Cmd) (s : State) : Out := .next (secTransfer c s)

/-- TRANSFER_KEY_EXPIRY (R374): LIFETIME_S has passed. -/
def execTransferKeyExpiry (s : State) : Out :=
  match s.mig.armedUntil with
  | some t => .next (if t ≤ s.now then s.eraseTransfer else s)
  | none => .next s

/-- The transfer key while it is armed. -/
def State.armedKey (s : State) : Option Bytes := if s.mig.armedUntil.isSome then s.mig.key else none

/-! ### Sections of the waypoint (R370, Table 15-2) -/

/-- A ring in section 0. -/
def State.ringSection (s : State) (i q : Nat) : Bytes :=
  let x := s.ring (i * 16 + q)
  let prod := decide (14 ≤ q)
  [BitVec.ofNat 8 x.state.code, BitVec.ofNat 8 (b2n (x.inPlace || q == 0)), BitVec.ofNat 8 x.log2,
    BitVec.ofNat 8 (b2n x.intEn + 2 * b2n x.configured)] ++
    leBytes 2 x.pi.toNat ++ leBytes 2 x.oldest.toNat ++ leBytes 2 x.holdoff ++ [BitVec.ofNat 8 x.count, 0] ++
    leBytes 2 (if prod then x.fetch.toNat else 0) ++ [BitVec.ofNat 8 (if prod then x.phase x.fetch else 0), 0] ++
    leBytes 8 x.base ++ leBytes 2 (if q = 15 then (s.inst i).eventSeq.toNat else 0) ++ zeros 6

/-- The flows of an instance's quota, by ascending handle. -/
def State.quotaFlows (s : State) (i : Nat) : List FlowEntry :=
  let x := s.inst i
  (s.flow.handles.filter (fun (p : Nat × Bool) => decide (x.flowBase ≤ p.1) && decide (p.1 < x.flowBase + x.flowCount))).filterMap
    (fun (p : Nat × Bool) => s.flow.entryOf p.1)

/-- LOST flow handles of an instance's quota. -/
def State.quotaLost (s : State) (i : Nat) : Nat :=
  let x := s.inst i
  (s.flow.handles.filter (fun (p : Nat × Bool) => p.2 && decide (x.flowBase ≤ p.1) && decide (p.1 < x.flowBase + x.flowCount))).length

/-- A flow in section 1. -/
def State.flowSection (s : State) (i : Nat) (e : FlowEntry) : Bytes :=
  let off := e.handle - (s.inst i).flowBase
  FlowEntry.image { e with handle := off } ++ (s.flow.recs.getD e.handle {}).image

/-- The contexts of an instance's quota, by ascending handle. -/
def State.quotaCtxs (s : State) (i : Nat) : KMap Ctx :=
  let x := s.inst i
  s.ciph.ctxs.filter (fun (p : Nat × Ctx) => decide (x.ctxBase ≤ p.1) && decide (p.1 < x.ctxBase + x.ctxCount))

/-- A context is carried with a transfer blob (R373). -/
def Ctx.hasBlob (x : Ctx) : Bool := x.imported && (x.state == .live || x.state == .exhausted)

/-- Key and salt of an imported context, unwrapped by Binnacle under its IMPORT_WRAP label (R373). -/
def State.ctxClear (s : State) (h : Nat) (x : Ctx) : Option Bytes :=
  if s.errBits 1 (0x384000000 + h * 128) 128 < 2 then
    (gcmOpen (deriveKey s.ciph.lodestar (wrapLabel h) true) x.iv [] x.wrapped x.tag).map (fun k => k ++ slice x.salt 0 12)
  else none

/-- The blob of a context: IV, ciphertext and tag under the transfer key (R373); request 4 of R363 asks for it. A side
record that does not unwrap makes the context NEED_KEY (R225), and it carries no blob. -/
def State.makeBlob (s : State) (h : Nat) (x : Ctx) (key id : Bytes) : Ctx × Bytes × State :=
  match s.ctxClear h x with
  | none =>
    let s := (s.ciphCount 9).needKey h x true
    ({ x with state := .needKey }, zeros 72, s)
  | some clear =>
    let (iv, s) := ((s.pulse 40).pulse 42).drawBytes 12
    let r := gcmSeal key iv (x.record ++ id) clear
    (x, iv ++ r.1 ++ r.2, s)

/-- A context in section 2, with whether it carries a blob. -/
def State.ctxSection (s : State) (base h : Nat) (x : Ctx) (key : Option Bytes) (id : Bytes) : Bytes × Bool × State :=
  let (y, blob, s) := match key with
    | some k => if x.hasBlob then s.makeBlob h x k id else (x, zeros 72, s)
    | none => (x, zeros 72, s)
  (y.record ++ blob ++ leBytes 4 y.ssci ++ leBytes 4 (h - base) ++ zeros 16, y.hasBlob, s)

/-- Section 2: the contexts' entries in order, and whether a blob is among them. -/
def State.ctxSections (s : State) (base : Nat) (cs : KMap Ctx) (key : Option Bytes) (id : Bytes) : Bytes × Bool × State :=
  cs.foldl (fun (a : Bytes × Bool × State) (p : Nat × Ctx) =>
    let r := a.2.2.ctxSection base p.1 p.2 key id
    (a.1 ++ r.1, a.2.1 || r.2.1, r.2.2)) ([], false, s)

/-- A node in section 3, its fields selected as INST_SET_SHARE selects them. -/
def State.nodeSection (s : State) (id : Nat) (sub : Bool) : Bytes :=
  let n := s.node id
  leBytes 4 n.rate ++ [BitVec.ofNat 8 (if sub then n.weight else 0), if sub then 0x0F else 0x09, 0, 0] ++
    leBytes 4 (if sub then n.bufLimit else 0) ++ leBytes 4 n.hi ++ leBytes 4 n.lo ++ zeros 12

/-- A watch slot in section 4: bytes 24 to 35 of Table 4-7. -/
def State.watchSection (s : State) (i k : Nat) : Bytes :=
  match s.alm.watches.find (i * 8 + k) with
  | some w =>
    [BitVec.ofNat 8 w.alm, BitVec.ofNat 8 k, BitVec.ofNat 8 (1 + 2 * b2n w.ackRequired + 4 * b2n w.lateOnly), 0] ++
      leBytes 4 w.lubber ++ leBytes 2 w.decimate ++ leBytes 2 w.phase ++ zeros 4
  | none => [0, BitVec.ofNat 8 k] ++ zeros 14

/-- The 128-byte header of a template (Table 5-2). -/
def Template.header (t : Template) : Bytes :=
  let pt (p : Nat × Nat × Nat) : Bytes := leBytes 2 p.1 ++ [BitVec.ofNat 8 p.2.1, BitVec.ofNat 8 p.2.2]
  slice (leBytes 2 t.frame.length ++ leBytes 2 t.offSt ++ leBytes 2 t.offSq ++ leBytes 2 t.offT ++ leBytes 2 t.offTal ++
    leBytes 2 t.offAuth ++ [BitVec.ofNat 8 t.ports, BitVec.ofNat 8 (b2n t.auth + 2 * t.sqFirst), BitVec.ofNat 8 t.nretx,
    BitVec.ofNat 8 t.patch.length] ++ t.interval.flatMap (leBytes 2) ++ t.tal.flatMap (leBytes 2) ++
    leBytes 2 t.heartbeat ++ leBytes 2 t.talHb ++ leBytes 4 t.authCtx ++ leBytes 2 t.authFrom ++
    [BitVec.ofNat 8 t.tagLen] ++ zeros 5 ++ t.patch.flatMap pt) 0 128

/-- A reflex slot in section 5. -/
def slotSection (k : Nat) (x : Slot) : Bytes :=
  [BitVec.ofNat 8 k, BitVec.ofNat 8 (slotCode (some x)), 0, 0] ++ leBytes 4 x.stNum.toNat ++ leBytes 4 x.values.toNat ++
    zeros 4 ++ x.tmpl.header ++ slice x.tmpl.frame 0 512

/-- The slots of an instance that are not EMPTY. -/
def State.quotaSlots (s : State) (i : Nat) : List (Nat × Slot) :=
  (s.reflex.slots.filter (fun (p : Nat × Slot) => p.1 / 8 == i)).map (fun (p : Nat × Slot) => (p.1 % 8, p.2))

/-- The valid entries of the classifier banks of a mask. -/
def State.maskEntries (s : State) (m : Nat) : List (Nat × Nat × Nat × ClsEntry) :=
  (List.range 32).flatMap (fun b =>
    if bit m b then (s.clsBank b).entries.map (fun (p : Nat × ClsEntry) => (b, (s.clsBank b).width, p.1, p.2)) else [])

/-- A classifier entry in section 6. -/
def clsSection (e : Nat × Nat × Nat × ClsEntry) : Bytes :=
  [BitVec.ofNat 8 e.1, BitVec.ofNat 8 e.2.1] ++ zeros 14 ++ slice (e.2.2.2.image e.2.2.1 e.2.1) 0 128

/-- A range of the bounds table as Table 13-13 lays it out. -/
def Range.image (r : Range) : Bytes :=
  leBytes 8 r.base ++ leBytes 4 r.pages ++ [BitVec.ofNat 8 (b2n r.read + 2 * b2n r.write), 0, 0, 0]

/-- Section 7: the bounds entry's ranges. -/
def State.boundSection (s : State) (i : Nat) : Bytes :=
  slice (((s.bounds.find i).map (fun b => b.ranges.flatMap Range.image)).getD []) 0 128

/-- Octets of an entry of each section (Table 15-2). -/
def sectionEntry (n : Nat) : Nat := [32, 96, 160, 32, 16, 656, 144, 128].getD n 0

/-- Octets of a waypoint whose sections hold these counts. -/
def waypointLength (counts : List Nat) : Nat := 128 + (counts.zipIdx.foldl (fun a (x : Nat × Nat) => a + x.1 * sectionEntry x.2) 0)

/-- The directory: offset and count of each section. -/
def directory : List Nat → Nat → Nat → Bytes
  | [], _, _ => []
  | c :: cs, n, off => leBytes 4 off ++ leBytes 4 c ++ directory cs (n + 1) (off + c * sectionEntry n)

/-! ### WAYPOINT_SAVE (R371 to R373) -/

/-- Highest offset of a list, plus 1. -/
def spanOf (l : List Nat) : Nat := l.foldl (fun a o => max a (o + 1)) 0

/-- What WAYPOINT_SAVE refuses (R372), in the order R372 lists it. -/
def State.saveRefused (s : State) (c : Cmd) (len : Nat) (cs : KMap Ctx) : Option Reply :=
  let imp := cs.any (fun (p : Nat × Ctx) => p.2.imported)
  let mask := if bit (byteAt c.data 12) 0 then leAt c.data 16 4 else 0
  if leAt c.data 0 8 % 64 ≠ 0 then some (Reply.bad s 24)
  else if leAt c.data 8 4 < len then some { st := s, status := 4, data := leBytes 4 len }
  else if imp ∧ !s.lodeLoaded then some (Reply.no s 0xE 2)
  else if imp ∧ s.armedKey.isNone then some (Reply.no s 0xE 3)
  else if s.flow.scanDue then some (Reply.no s 9 3)
  else if (List.range 32).any (fun b => bit mask b && (s.clsBank b).state != .empty && (s.clsBank b).state != .populated) then
    some (Reply.bad s 40)
  else none

/-- The header of a waypoint (Table 15-1). -/
def State.waypointHeader (s : State) (i : Nat) (id : Bytes) (len : Nat) (body : Bytes) (used : Bool) (fs cs : Nat)
    (counts : List Nat) : Bytes :=
  let rights := maskOf 16 (fun a => s.alm.rights.contains (i * 16 + a))
  let tk := if used then (s.armedKey.map keyKcv).getD 0 else 0
  leBytes 4 0x54505957 ++ leBytes 2 1 ++ leBytes 2 i ++ id ++ leBytes 4 len ++ crc32c body ++
    leBytes 3 (if s.lodeLoaded then s.ciph.kcv else 0) ++ [BitVec.ofNat 8 (b2n used)] ++ leBytes 3 tk ++ [0] ++
    leBytes 4 fs ++ leBytes 4 cs ++ leBytes 6 (if s.inRun 12 then s.time.sec else 0) ++ leBytes 2 rights ++
    leBytes 4 s.stampNs ++ zeros 12 ++ directory counts 0 128

/-- A context of the instance's quota is saved as a transfer blob (R373). -/
def State.savesBlob (s : State) (i : Nat) : Bool := (s.quotaCtxs i).any (fun p => p.2.hasBlob)

/-- Request 4, KEY_TRANSFER_WRAP, of a save that makes a blob: Binnacle reads the entry itself (R364, R373); one
request stands for those of all its blobs (log entry 160). -/
def State.saveAsk (s : State) (c : Cmd) : Option Reply × State :=
  if s.savesBlob c.inst then s.askBinnacle 4 0x0C01 c c.ask [] else (none, s)

/-- WAYPOINT_SAVE's effect (R370 to R373): the sections, then the header. -/
def waypointSaveBody (c : Cmd) (s : State) : Reply :=
  let i := c.inst
  let x := s.inst i
  let flows := s.quotaFlows i
  let all := s.quotaCtxs i
  let cs := all.filter (fun (p : Nat × Ctx) => p.2.state != .lost)
  let slots := s.quotaSlots i
  let ents := s.maskEntries (if bit (byteAt c.data 12) 0 then leAt c.data 16 4 else 0)
  let counts := [16, flows.length, cs.length, 9, 8, slots.length, ents.length, 1]
  let len := waypointLength counts
  match s.saveRefused c len cs with
  | some r => r
  | none =>
    match s.saveAsk c with
    | (some r, _) => r
    | (none, s) =>
      let (id, s) := s.drawBytes 8
      let (ctxs, used, s) := s.ctxSections x.ctxBase cs s.armedKey id
      let body :=
        (List.range 16).flatMap (s.ringSection i) ++ flows.flatMap (s.flowSection i) ++ ctxs ++
          s.nodeSection i true ++ (List.range 8).flatMap (fun v => s.nodeSection (svcNode i v) false) ++
          (List.range 8).flatMap (s.watchSection i) ++ slots.flatMap (fun p => slotSection p.1 p.2) ++
          ents.flatMap clsSection ++ s.boundSection i
      let head := s.waypointHeader i id len body used (spanOf (flows.map (fun e => e.handle - x.flowBase)))
        (spanOf (cs.map (fun (p : Nat × Ctx) => p.1 - x.ctxBase))) counts
      let base := leAt c.data 0 8
      let s := (s.post0 (base + 128) body).post0 base head
      Reply.ok s (leBytes 4 len ++ leBytes 4 flows.length ++ leBytes 4 cs.length ++
        leBytes 4 (s.quotaLost i + (all.length - cs.length)) ++ id)

/-- WAYPOINT_SAVE (R371). -/
def execWaypointSave (c : Cmd) (s : State) : Out :=
  .next (s.runCmd { code := 0x0C01, inst := .inst, states := 0x10, asks := s.savesBlob c.inst } c (fun _ s => waypointSaveBody c s))

/-! ### WAYPOINT_RESTORE (R375 to R377) -/

/-- Count and offset of a section of a waypoint. -/
def wpCount (w : Bytes) (n : Nat) : Nat := leAt w (68 + 8 * n) 4
def wpOff (w : Bytes) (n : Nat) : Nat := 128 + ((List.range n).foldl (fun a k => a + wpCount w k * sectionEntry k) 0)

/-- Entries of a section, with their offsets in the record. -/
def wpEntries (w : Bytes) (n : Nat) : List (Nat × Bytes) :=
  (List.range (wpCount w n)).map (fun k =>
    let o := wpOff w n + k * sectionEntry n
    (o, slice w o (sectionEntry n)))

/-- Check 1 of Table 15-3: the offset of the field that is not correct. LENGTH is that of the command and of the
directory's counts. -/
def waypointBad (w : Bytes) (len : Nat) : Option Nat :=
  if leAt w 0 4 ≠ 0x54505957 then some 0
  else if leAt w 4 2 ≠ 1 then some 4
  else if leAt w 16 4 ≠ len ∨ wpOff w 8 ≠ len then some 16
  else if slice w 20 4 ≠ crc32c (slice w 128 (len - 128)) then some 20
  else none

/-- A context of section 2 that carries a blob. -/
def ctxHasBlob (e : Bytes) : Bool := bit (byteAt e 61) 0 && (byteAt e 59 == 1 || byteAt e 59 == 3)

/-- A ring's base, LOG2 and number, where it is configured, among those of section 0. -/
def wpRings (w : Bytes) : List (Nat × Nat × Nat) :=
  (wpEntries w 0).zipIdx.filterMap (fun (x : (Nat × Bytes) × Nat) =>
    if bit (byteAt x.1.2 3) 1 then some (x.2, leAt x.1.2 16 8, byteAt x.1.2 2) else none)

/-- Check 8: the reply for the first classifier entry whose bank cannot take it. -/
def State.clsRestoreBad (s : State) (w : Bytes) : Option Reply :=
  (wpEntries w 6).findSome? (fun e =>
    let b := byteAt e.2 0
    let x := s.clsBank b
    if x.state ≠ .empty then some (Reply.conflict s 5 x.state.code 2 b)
    else if x.width ≠ byteAt e.2 1 then some (Reply.badBuf s 1)
    else none)

/-- A key, action and owner that name instance `i` name `j` instead (R376). -/
def State.renameFlow (s : State) (e : FlowEntry) (i j : Nat) : FlowEntry :=
  let key := match fieldOffset (s.prof e.profile).fields 2 with
    | some o => if beAt e.key o 2 = i then overlay e.key o (beBytes 2 j) else e.key
    | none => e.key
  let d := actDest e.action
  let action := if actOp e.action = 2 ∧ d % 512 = i then overlay e.action 2 (leBytes 2 (d / 512 * 512 + j)) else e.action
  { e with key := key, action := action, owner := if bit e.flags 3 && e.owner == i then j else e.owner }

/-- A flow of section 1, placed in `j`'s quota. -/
def State.wpFlow (s : State) (e : Bytes) (i j : Nat) : FlowEntry :=
  let h := (s.inst j).flowBase + leAt e 40 3 % 2 ^ 20
  let flags := byteAt e 43
  let o := leAt e 44 4 / 2 ^ 19
  s.renameFlow { lineEntry h e with flags := flags, owner := o } i j

/-- A state record (Table 6-5). -/
def readRec (b : Bytes) : FlowRec :=
  { packets := leAt b 0 6, flags := byteAt b 6, octets := leAt b 8 6, lastMs := BitVec.ofNat 32 (leAt b 16 4), owner := slice b 20 12 }

/-- Check 9: every flow placed under R152, with its record; none when one finds no place. -/
def State.placeFlows (s : State) (w : Bytes) (i j : Nat) : Option Flow :=
  (wpEntries w 1).foldl (fun (a : Option Flow) e =>
    match a with
    | none => none
    | some f =>
      let x := s.wpFlow e.2 i j
      (f.insert x).map (fun r => { r.1 with recs := r.1.recs.put x.handle (readRec (slice e.2 64 32)) })) (some s.flow)

/-- The clear key and salt of a blob under the transfer key (R373). -/
def openBlob (key e id : Bytes) : Option Bytes :=
  gcmOpen key (slice e 64 12) (slice e 0 64 ++ id) (slice e 76 44) (slice e 120 16)

/-- Check 10: offset in the record and context offset of the first blob whose tag does not verify. -/
def blobBad (w key : Bytes) : Option (Nat × Nat) :=
  (wpEntries w 2).findSome? (fun e =>
    if ctxHasBlob e.2 ∧ (openBlob key e.2 (slice w 8 8)).isNone then some (e.1 + 64, leAt e.2 140 4) else none)

/-- The state of a context as its record gives it. -/
def readCtxState (n : Nat) : CtxState :=
  if n = 2 then .needKey else if n = 3 then .exhausted else if n = 4 then .lost else .live

/-- A context from its record (R376). What the record does not hold is a free value: the port and PN_WARN, and the replay
window of ESP_IN. -/
def readCtx (e : Bytes) (f : W64) (g : W64) (sameKcv : Bool) (i j : Nat) : Ctx :=
  let op := byteAt e 60
  let st := readCtxState (byteAt e 59)
  let own := leAt e 62 2
  let pn := leAt e 32 8
  { label := slice e 0 32
    pn := BitVec.ofNat 64 pn
    bitmap := if op = 4 then BitVec.ofNat 128 (leAt e 40 16) else 0
    window := if op ≤ 2 then leAt e 40 4 else if op = 4 then [32, 64, 128].getD (f.toNat / 4 % 3) 64 else 0
    kcv := leAt e 56 3
    state := if st = .live ∧ !sameKcv then .needKey else st
    op := op
    flags := byteAt e 61 % 16
    owner := if own = i then j else own
    ssci := leAt e 136 4
    pnWarn := g
    port := f.toNat % 4
    next := pn }

/-- One context restored: a blob is unwrapped and wrapped again under `j`'s label. -/
def State.restoreCtx (s : State) (e id : Bytes) (key : Option Bytes) (sameKcv : Bool) (i j : Nat) : State :=
  let h := (s.inst j).ctxBase + leAt e 140 4
  let (f, s) := s.draw
  let (g, s) := s.draw
  let x := readCtx e f g sameKcv i j
  let clear := if ctxHasBlob e then key.bind (fun k => openBlob k e id) else none
  let (x, s) := match clear with
    | some b => ((s.pulse 40).pulse 42).wrapKey h { x with salt := slice b 32 12 } (slice b 0 32)
    | none => (x, s)
  let s := s.setCtx h x
  if x.op = 2 ∨ x.op = 4 then { s with ciph.sa := addNew s.ciph.sa h } else s

/-- Scheduler nodes take their saved values as INST_SET_SHARE would set them (R253, R376). -/
def State.restoreNodes (s : State) (w : Bytes) (j : Nat) : State :=
  (wpEntries w 3).zipIdx.foldl (fun s (x : (Nat × Bytes) × Nat) =>
    if 8 < x.2 then s
    else (s.stageNode (if x.2 = 0 then j else svcNode j (x.2 - 1)) x.1.2).st) s

/-- One watch restored: disabled where its almanac does not exist here. -/
def State.restoreWatch (s : State) (e : Bytes) (j : Nat) : State × Nat :=
  let f := byteAt e 2
  if !bit f 0 then (s, 0)
  else if s.alm.tab.has (byteAt e 0) && decide (byteAt e 1 < 8) then
    (s.setWatch (j * 8 + byteAt e 1)
      { alm := byteAt e 0, ackRequired := bit f 1, lateOnly := bit f 2, lubber := leAt e 4 4, decimate := leAt e 8 2,
        phase := leAt e 10 2 }, 0)
  else (s, 1)

/-- Watches and rights (R376): the state, and how many watches were disabled. -/
def State.restoreWatches (s : State) (w : Bytes) (j : Nat) : State × Nat :=
  let r := (wpEntries w 4).foldl (fun (a : State × Nat) e =>
    let r := a.1.restoreWatch e.2 j
    (r.1, a.2 + r.2)) (s, 0)
  let rights := (List.range 16).filter (fun a => bit (leAt w 46 2) a)
  (if r.1.inRun 12 then { r.1 with alm.rights := rights.foldl (fun l a => addNew l (j * 16 + a)) r.1.alm.rights } else r.1, r.2)

/-- Reflex slots are restored LOADED (R376). -/
def State.restoreSlots (s : State) (w : Bytes) (j : Nat) : State :=
  if !s.inRun 12 then s
  else
    (wpEntries w 5).foldl (fun s e =>
      s.setSlot (j * 8 + byteAt e.2 0 % 8)
        { tmpl := readTemplate (slice e.2 16 640), stNum := BitVec.ofNat 32 (leAt e.2 4 4), values := BitVec.ofNat 32 (leAt e.2 8 4) }) s

/-- Classifier entries go to their saved positions (R376). -/
def State.restoreCls (s : State) (w : Bytes) : State :=
  (wpEntries w 6).foldl (fun s e =>
    let b := byteAt e.2 0
    let x := s.clsBank b
    s.setClsBank b
      { x with entries := x.entries.put (leAt e.2 22 2) (imageEntry (slice e.2 16 128) x.width), state := .populated }) s

/-- The state a ring is restored in: ENABLED, DRAINING and ERROR become ENABLED. -/
def restoredState (n : Nat) : RingState :=
  if n = 1 ∨ n = 2 ∨ n = 4 then .enabled else if n = 3 then .stopped else .disabled

/-- A ring of section 0 as R376 restores it. -/
def readRing (q : Nat) (e : Bytes) : Ring :=
  let st := restoredState (byteAt e 0)
  let oldest := BitVec.ofNat 16 (leAt e 6 2)
  { state := st
    configured := bit (byteAt e 3) 1
    log2 := byteAt e 2
    base := leAt e 16 8
    inPlace := if st = .enabled then q == 0 else byteAt e 1 == 1
    intEn := bit (byteAt e 3) 0
    holdoff := leAt e 8 2
    count := byteAt e 10
    pi := BitVec.ofNat 16 (leAt e 4 2)
    fetch := if 14 ≤ q then BitVec.ofNat 16 (leAt e 12 2) else oldest
    oldest := oldest }

/-- Rings and EVENT_SEQ (R376). -/
def State.restoreRings (s : State) (w : Bytes) (j : Nat) : State :=
  let s := (wpEntries w 0).zipIdx.foldl (fun s (x : (Nat × Bytes) × Nat) =>
    if 15 < x.2 then s else s.setRing (j * 16 + x.2) (readRing x.2 x.1.2)) s
  s.setInst j { s.inst j with eventSeq := BitVec.ofNat 16 (leAt w (wpOff w 0 + 15 * 32 + 24) 2) }

/-- Orders 2 to 6 of Table 15-3. -/
def State.restoreEarly (s : State) (w : Bytes) (j : Nat) : Option Reply :=
  let x := s.inst j
  let blob := (wpEntries w 2).any (fun e => ctxHasBlob e.2)
  if s.mig.restored.contains (leAt w 8 8) then some (Reply.no s 7 5)
  else if x.flowCount < leAt w 32 4 then some (Reply.no s 4 1)
  else if x.ctxCount < leAt w 36 4 then some (Reply.no s 4 2)
  else if s.flow.handles.any (fun (p : Nat × Bool) => decide (x.flowBase ≤ p.1) && decide (p.1 < x.flowBase + x.flowCount)) ∨
      !(s.quotaCtxs j).isEmpty then some (Reply.no s 7 4)
  else if blob && !s.lodeLoaded then some (Reply.no s 0xE 2)
  else if blob && s.armedKey.map keyKcv != some (leAt w 28 3) then some (Reply.no s 0xE 3)
  else none

/-- The bounds entry that will apply to `j`: the waypoint's ranges under `j`'s PASID, or `j`'s own. -/
def State.restoreBounds (s : State) (w : Bytes) (j : Nat) (fromWp : Bool) : Bounds :=
  let own := s.bounds.getD j { pasid := 0, ranges := [] }
  if fromWp then { own with ranges := rangesAt w (wpOff w 7) } else own

/-- Orders 7 to 10 of Table 15-3: the reply, or the flow table with every flow placed. -/
def State.restoreLate (s : State) (w : Bytes) (j : Nat) (bt : Bounds) (withCls : Bool) : Except Reply Flow :=
  match (wpRings w).find? (fun q => !bt.allows q.2.1 (2 ^ q.2.2 * ringEntry (j * 16 + q.1)) true true) with
  | some q => .error (Reply.no (s.violPf0 1 0xFF q.2.1) 0xA 1)
  | none =>
    match if withCls then s.clsRestoreBad w else none with
    | some r => .error r
    | none =>
      if !s.flowReady && wpCount w 1 != 0 then .error (Reply.no s 9 0)
      else
        match s.placeFlows w (leAt w 6 2) j with
        | none => .error (Reply.no s 5 0)
        | some f =>
          match s.armedKey.bind (blobBad w) with
          | some (o, h) => .error (Reply.no (s.violPf0 10 h o) 0xA 10)
          | none => .ok f

/-- What a restore that passes does (R376), and its reply (R377). -/
def State.restoreApply (s : State) (w : Bytes) (j : Nat) (bt : Bounds) (f : Flow) (withCls : Bool) : Reply :=
  let i := leAt w 6 2
  let same := leAt w 24 3 == (if s.lodeLoaded then s.ciph.kcv else 0)
  let key := s.armedKey
  let id := slice w 8 8
  let s := { s with bounds := s.bounds.put j bt, flow := f }
  let s := (wpEntries w 2).foldl (fun s e => s.restoreCtx e.2 id key same i j) s
  let s := s.restoreNodes w j
  let (s, off) := s.restoreWatches w j
  let s := s.restoreSlots w j
  let s := if withCls then s.restoreCls w else s
  let s := s.restoreRings w j
  let s := { s with mig.restored := (s.mig.restored ++ [leAt w 8 8]).drop (s.mig.restored.length + 1 - 64) }
  let need := ((s.quotaCtxs j).filter (fun (p : Nat × Ctx) => p.2.state == .needKey)).length
  Reply.ok (s.setInstState j .frozen) (leBytes 4 need ++ [BitVec.ofNat 8 off]) (b2n (!same))

/-- Binnacle holds the bounds section it read beside the one Helm read, and checks its ranges (R364, R376). -/
def State.restoreSection (s : State) (r : Nat) (sec : Bytes) (d : Option Bytes) : Option Reply × State :=
  match d with
  | none => (some (Reply.no s 0xF 1), s)
  | some d => if slice d 0 128 == sec && (rangesBad sec 0).isNone then (none, s) else s.askRefused 1 r s.dechan.cur

/-- Request 1, BOUNDS_WRITE, of a restore with BOUNDS (R364, R376): Binnacle reads the entry and the bounds section itself. -/
def State.restoreAsk (s : State) (c : Cmd) (br : BinRead) (w : Bytes) : Option Reply × State :=
  let q := s.askBinnacle 1 0x0C02 c br []
  match q.1 with
  | some r => (some r, q.2)
  | none =>
    let d := q.2.hostRead .pf0 none (leAt c.data 0 8 + wpOff w 7) 128 br.buf
    d.2.restoreSection (cmdRing c) (slice w (wpOff w 7) 128) d.1

/-- The restore goes on once every check of the waypoint has passed: with BOUNDS, Binnacle is asked first (R375, R376). -/
def State.restoreGo (s : State) (c : Cmd) (br : BinRead) (w : Bytes) (bt : Bounds) (f : Flow) : Reply :=
  let fl := byteAt c.data 12
  if bit fl 0 then
    let q := s.restoreAsk c br w
    match q.1 with
    | some r => r
    | none => q.2.restoreApply w c.inst bt f (bit fl 1)
  else s.restoreApply w c.inst bt f (bit fl 1)

/-- The checks of a waypoint that has been read, in their order, then the restore (R375, R376). -/
def State.restoreRead (s : State) (c : Cmd) (br : BinRead) (w : Bytes) : Reply :=
  let fl := byteAt c.data 12
  match waypointBad w (leAt c.data 8 4) with
  | some o => Reply.badBuf s o
  | none =>
    match s.restoreEarly w c.inst with
    | some r => r
    | none =>
      let bt := s.restoreBounds w c.inst (bit fl 0)
      match s.restoreLate w c.inst bt (bit fl 1) with
      | .error r => r
      | .ok f => s.restoreGo c br w bt f

/-- WAYPOINT_RESTORE's effect (R375 to R377). -/
def waypointRestoreBody (c : Cmd) (br : BinRead) (s : State) : Reply :=
  let q := s.hostRead .pf0 none (leAt c.data 0 8) (leAt c.data 8 4) c.buf
  match q.1 with
  | none => Reply.no q.2 0xF 1
  | some b => q.2.restoreRead c br (slice b 0 (leAt c.data 8 4))

/-- WAYPOINT_RESTORE (R375). -/
def execWaypointRestore (c : Cmd) (b : BinRead) (s : State) : Out :=
  .next (s.runCmd { code := 0x0C02, inst := .inst, states := 0x02, asks := true } c (fun _ s => waypointRestoreBody c b s))

end Sys2Proof.Machine
end

