-- ==== Sys2Proof/Machine/Binnacle.lean ====
section
/-!
DEFINITION. Machine/Binnacle.lean: the four requests that Helm makes of Binnacle, one by one (R363, R364, R373), and the
entry whose opcode no chapter defines (R346).
-/

set_option Elab.async false
namespace Sys2Proof.Machine

open Sys2Proof

/-! ### Requests (R363, R364) -/

/-- Helm can make a request: its cores run, and Binnacle lives. -/
def State.binnacleServes (s : State) : Bool := s.inRun 4 && s.helm.cores != 0 && s.binnacleLives && s.linkReady

/-- Binnacle refuses a request (R364): recorded as BINNACLE_REFUSED, and answered VIOLATION. -/
def State.binnacleRefuse (s : State) (req ring idx : Nat) : State :=
  (s.violPf0 9 (idx % 256 + req * 256) (mgrBase + ring % 4)).binnacleAnswer idx ring 0xA

/-- The last step of a request: Binnacle acts with the entry and the parameter buffer, or refuses, and answers. -/
def State.binnacleAct (s : State) (req ring idx : Nat) (act : Bytes → Bytes → State → Option State) (e : Bytes) (d : Option Bytes) :
    State :=
  match d with
  | none => s.binnacleAnswer idx ring 0xF
  | some d =>
    match act e d s with
    | some t => t.binnacleAnswer idx ring 0
    | none => s.binnacleRefuse req ring idx

/-- The entry has been read: one that does not suit the request is refused; the parameter buffer it names is read. -/
def State.binnacleEntry (s : State) (req ring idx : Nat) (codes : List Nat) (b : BinRead)
    (act : Bytes → Bytes → State → Option State) (e : Option Bytes) : State :=
  match e with
  | none => s.binnacleAnswer idx ring 0xF
  | some e =>
    if !codes.any (entrySuits e) then s.binnacleRefuse req ring idx
    else
      let restore := leAt e 0 2 == 0x0C02
      if leAt e 6 2 = 0 ∧ !restore then s.binnacleAct req ring idx act e (some [])
      else
        let q := s.hostRead .pf0 none (if restore then leAt e 24 8 else leAt e 16 8) (if restore then 128 else leAt e 6 2) b.buf
        q.2.binnacleAct req ring idx act e q.1

/-- A request on internal channel 0: Binnacle reads the entry and the parameter buffer it names itself, acts only on one
that suits the request, and answers (R363, R364). `act` is what it does with the entry and the buffer; none refuses. -/
def State.binnacleRequest (s : State) (req ring idx : Nat) (codes : List Nat) (b : BinRead)
    (act : Bytes → Bytes → State → Option State) : State :=
  if !s.binnacleServes then s
  else if s.readHeld .pf0 then s.readWait .pf0
  else
    let x := s.ring (mgrBase + ring % 4)
    let q := (s.pulse 40).hostRead .pf0 none (x.slotAddr 64 (BitVec.ofNat 16 idx)) 64 b.entry
    q.2.binnacleEntry req ring idx codes b act q.1

/-- BOUNDS_WRITE's act: the entry of a new instance, or the ranges of a restored one under its own PASID (R336, R376). -/
def boundsWriteAct (e d : Bytes) (s : State) : Option State :=
  let i := leAt e 4 2
  if 511 < i then none
  else if leAt e 0 2 = 0x0C02 then
    match s.bounds.find i with
    | some bt =>
      if !bit (byteAt e 36) 0 || (rangesBad d 0).isSome then none
      else some { s with bounds := s.bounds.put i { bt with ranges := rangesAt d 0 } }
    | none => none
  else
    let pasid := leAt d 0 4 % 2 ^ 20
    if s.bounds.has i || (rangesBad d 64).isSome || s.bounds.any (fun (p : Nat × Bounds) => p.2.pasid == pasid) then none
    else some { s with bounds := s.bounds.put i { pasid := pasid, ranges := rangesAt d 64 } }

/-- BOUNDS_WRITE (R363). -/
def execBoundsWrite (ring idx : Nat) (b : BinRead) (s : State) : Out :=
  .next (s.binnacleRequest 1 ring idx [0x0201, 0x0C02] b boundsWriteAct)

/-- BOUNDS_CLEAR (R363, R336). -/
def execBoundsClear (ring idx : Nat) (b : BinRead) (s : State) : Out :=
  .next (s.binnacleRequest 2 ring idx [0x0206] b (fun e _ s =>
    if 511 < leAt e 4 2 then none else some { s with bounds := s.bounds.drop1 (leAt e 4 2) }))

/-- POWER_VOTE (R363, R422). -/
def execPowerVote (ring idx : Nat) (b : BinRead) (s : State) : Out :=
  .next (s.binnacleRequest 3 ring idx [0x0B01] b (fun e _ s =>
    let act := byteAt e 24
    let mask := leAt e 26 2
    if act = 0 ∨ 3 < act ∨ bit mask 0 ∨ bit mask 14 ∨ bit mask 15 then none
    else
      let s := s.managerVote act mask
      some (if s.toStart = 0 then s else s.wakeBegin s.toStart)))

/-- KEY_TRANSFER_WRAP (R363, R373): the key and salt of an imported context, wrapped under the armed transfer key with a
fresh IV. -/
def execKeyTransferWrap (ring idx : Nat) (b : BinRead) (handle : Nat) (s : State) : Out :=
  .next (s.binnacleRequest 4 ring idx [0x0C01] b (fun _ _ s =>
    match s.armedKey, s.ctx handle with
    | some k, some x => if x.hasBlob && s.lodeLoaded then some (s.makeBlob handle x k (zeros 8)).2.2 else none
    | _, _ => none))

/-! ### An unknown opcode (R346, Table 14-3 check 2) -/

/-- Opcodes of Table 14-6. -/
def listedOpcodes : List Nat :=
  (List.range 6).map (· + 0x0101) ++ (List.range 8).map (· + 0x0201) ++ (List.range 6).map (· + 0x0301) ++
    (List.range 7).map (· + 0x0401) ++ (List.range 5).map (· + 0x0501) ++ (List.range 4).map (· + 0x0601) ++
    (List.range 3).map (· + 0x0701) ++ (List.range 8).map (· + 0x0801) ++ (List.range 3).map (· + 0x0901) ++
    (List.range 5).map (· + 0x0A01) ++ [0x0B01, 0x0B02] ++ (List.range 3).map (· + 0x0C01) ++
    (List.range 3).map (· + 0x0D01) ++ (List.range 5).map (· + 0x0E01)

/-- UNSUPPORTED_OPCODE (R346): the entry is accepted and answered UNSUPPORTED, after the check of OWN. -/
def execUnsupportedOpcode (opcode : Nat) (c : Cmd) (s : State) : Out :=
  let op : Op := { code := opcode % 65536, inst := .either }
  if listedOpcodes.contains op.code then .next s
  else
    .next (s.serveEntry op c false (fun t =>
      if c.own ≠ 0 then Reply.bad { t with dechan.cnt := t.dechan.cnt.inc 3 } 60 else Reply.no t 0xB 0))

end Sys2Proof.Machine
end

