-- ==== Sys2Proof/Machine/Ledger.lean ====
section
/-!
DEFINITION. Machine/Ledger.lean: the ledgers and their audit, and the diagnostic commands (chapter 19).
-/

set_option Elab.async false
namespace Sys2Proof.Machine

open Sys2Proof

/-! ### The ledgers (R455, Table 19-5) -/

/-- The domain whose units keep a ledger. -/
def ledgerDomain (l : Nat) : Nat :=
  if l < 2 then 5 else if l < 4 then 2 else if l < 6 then 4 else if l < 8 then 8 else if l = 8 then 12 else 4

/-- One object of a ledger in a picture: ledger, index, total and components. -/
abbrev Count := Nat × Nat × Nat × List Nat

/-- The frames of a list, one copy of those that stand at two ports. -/
def onceEach (l : List PortFrame) : List PortFrame :=
  l.foldl (fun a f => if f.id != 0 && a.any (fun g => g.id == f.id) then a else a ++ [f]) []

/-- Frames that queues, ports and receive rings hold in packet cells: cells, DRAM cells, share number. -/
def State.cellHolders (s : State) : List (Nat × Bool × Nat) :=
  let q (x : Queued) : Nat × Bool × Nat := (x.cells, x.dram, x.frame.share)
  s.sched.queues.flatMap (fun (p : Nat × List Queued) => p.2.map q) ++
    (onceEach (s.portFrames ++ s.ports.ring.il)).filterMap (fun f => f.origin.map (fun o => q o.1)) ++
    s.rings.flatMap (fun (p : Nat × Ring) => p.2.frames.map (fun f => (f.cells, f.dramCells, f.share)))

/-- Cells that frames hold; copies that share cells count them once (R197). -/
def State.heldCells (s : State) (dram : Bool) : Nat :=
  let own := s.cellHolders.filter (fun h => h.2.1 == dram && h.2.2 == 0)
  own.foldl (fun a h => a + h.1) 0 +
    s.sched.shares.foldl (fun a (p : Nat × Nat × Nat × Bool) => if p.2.2.2 == dram then a + p.2.2.1 else a) 0

/-- Ledger 2 for one ring. -/
def Ring.ledger (r : Nat) (x : Ring) : Count :=
  let n := 2 ^ x.log2
  (2, r, n, [n - (x.pi - x.oldest).toNat, (x.pi - x.fetch).toNat, (x.fetch - x.oldest).toNat])

/-- Ledger 2 covers a ring: of an instance or the manager, not DISABLED, not a completion or event ring. -/
def ledgerRing (r : Nat) (x : Ring) : Bool :=
  x.state != .disabled && (if r < mgrBase then decide (r % 16 < 14) else decide (r < mgrBase + 30))

/-- What one ledger's units latch in a picture. -/
def State.ledger (s : State) (l : Nat) : List Count :=
  if l = 0 then [(0, 0, 98304, [s.sched.freeSram, s.heldCells false, 0, 0])]
  else if l = 1 then [(1, 0, 16777216, [s.sched.freeDram, s.heldCells true, 0, 0])]
  else if l = 2 then (s.rings.filter (fun (p : Nat × Ring) => ledgerRing p.1 p.2)).map (fun (p : Nat × Ring) => p.2.ledger p.1)
  else if l = 3 then
    let out := (s.host.tags.filter (fun (p : Nat × TagState) => match p.2 with | .outstanding _ _ _ _ _ _ => true | _ => false)).length
    [(3, 0, 1024, [1024 - s.host.tags.length, out, s.host.tags.length - out])]
  else if l = 4 then
    let live := (s.helm.thr.filter (fun (p : Nat × Thread) => p.2.state != .free)).length
    [(4, 0, 128, [128 - live, live])]
  else if l = 5 then
    (s.helm.chans.filter (fun (p : Nat × Chan) => p.2.depth != 0)).map (fun (p : Nat × Chan) =>
      (5, p.1, p.2.depth, [p.2.depth - p.2.msgs.length, p.2.msgs.length]))
  else if l = 6 then [(6, 0, cacheSize, [cacheSize - s.ciph.cache.length, s.ciph.cache.length])]
  else if l = 7 then
    let n := (s.ciph.jobs.filter (fun j => j.place == .store)).length
    [(7, 0, storeSlots, [storeSlots - n, n])]
  else if l = 8 then
    let slots := s.alm.tab.foldl (fun a (p : Nat × Almanac) => a + p.2.slots) 0
    let open_ := s.alm.tab.foldl (fun a (p : Nat × Almanac) => a + p.2.open_.length) 0
    [(8, 0, rowSlots, [rowSlots - slots, slots - open_, open_])]
  else if l = 9 then
    let act := (s.helm.movers.filter (fun m => m.active.isSome)).length
    let load := (s.helm.movers.filter (fun m => m.shadow.isSome)).length
    [(9, 0, 32, [32 - act - load, load, act])]
  else []

/-- Ledgers of a mask whose domain is not in Run: they are not pictured (R456). -/
def State.unpictured (s : State) (mask : Nat) : Nat :=
  maskOf 10 (fun l => bit mask l && (!s.inRun (ledgerDomain l) || (l == 1 && !s.inRun 11)))

/-- A slack-water picture of the selected ledgers that can be pictured (R456). -/
def State.picture (s : State) (mask : Nat) : List Count :=
  (List.range 10).flatMap (fun l => if bit mask l && !bit (s.unpictured mask) l then s.ledger l else [])

/-! ### Imbalance (R457) -/

/-- Sum of components less total. -/
def countDiff (c : Count) : Int := (c.2.2.2.foldl (· + ·) 0 : Nat) - (c.2.2.1 : Int)

/-- Allowance of a ledger (Table 19-5). -/
def allowance (l : Nat) : Nat := if l < 2 then 256 else if l = 4 then 8 else 1

/-- The same object in another picture. -/
def sameObject (c d : Count) : Bool := c.1 == d.1 && c.2.1 == d.2.1

/-- The differences of an object over the pictures; none when it lacks in one. -/
def diffsOf (seen : List (List Count)) (c : Count) : Option (List Int) :=
  seen.mapM (fun p => (p.find? (sameObject c)).map countDiff)

/-- An object is in persistent imbalance: every difference of the same sign. -/
def persists (seen : List (List Count)) (c : Count) : Bool :=
  match diffsOf seen c with
  | some ds => ds.all (fun d => decide (0 < d)) || ds.all (fun d => decide (d < 0))
  | none => false

/-- An imbalance beyond the ledger's allowance in some picture. -/
def beyond (seen : List (List Count)) (c : Count) : Bool :=
  seen.any (fun p => match p.find? (sameObject c) with | some d => decide ((allowance c.1 : Int) < (countDiff d).natAbs) | none => false)

/-- Every object that any picture shows, once. -/
def objectsOf (seen : List (List Count)) : List Count :=
  seen.flatten.foldl (fun l c => if l.any (sameObject c) then l else l ++ [c]) []

/-- An audit record (Table 19-6). -/
def auditRecord (c : Count) (flag : Bool) : Bytes :=
  [BitVec.ofNat 8 c.1, BitVec.ofNat 8 (b2n flag), 0, 0] ++ leBytes 4 c.2.1 ++ leBytes 4 c.2.2.1 ++
    leBytes 4 (c.2.2.2.foldl (· + ·) 0) ++ slice (c.2.2.2.flatMap (leBytes 4)) 0 16

/-- Objects in ascending order of ledger and index. -/
def sortCounts (l : List Count) : List Count := l.mergeSort (fun a b => decide (a.1 < b.1 ∨ (a.1 = b.1 ∧ a.2.1 ≤ b.2.1)))

/-! ### DEV_LEDGER_AUDIT (R458) -/

/-- The audit ends: records, the result registers and the reply. -/
def State.auditEnd (s : State) (a : Audit) : State :=
  let keep (c : Count) : Bool := !bit a.dropped c.1
  let last := (a.seen.getLast?).getD []
  let bad := sortCounts (last.filter (fun c => keep c && persists a.seen c))
  let brief := (objectsOf a.seen).filter (fun c => keep c && !persists a.seen c && beyond a.seen c)
  let wr := bad.take a.reportEntries
  let s := s.post0 a.reportBase (wr.flatMap (fun c => auditRecord c (beyond a.seen c)))
  let seq := (s.err.auditSeq + 1) % 65536
  let mask := maskOf 10 (fun l => bad.any (fun c => c.1 == l))
  let s := { s with
    err.audit := none
    err.auditSeq := seq
    err.ready := true
    err.persistent := mask
    err.persistCnt := (s.err.persistCnt + bad.length) % 65536
    err.transientCnt := (s.err.transientCnt + brief.length) % 65536 }
  let s := if bad.isEmpty then s else s.errBit 3
  let data := leBytes 2 (maskOf 10 (fun l => bit a.ledgers l && !bit a.dropped l)) ++ leBytes 2 mask ++ leBytes 4 wr.length ++
    leBytes 4 (bad.length - wr.length) ++ leBytes 4 seq
  match s.dechan.accepted.find? (fun x => x.opcode == 0x0104 && x.ring == a.cmdRing && x.idx.toNat == a.cmdIdx) with
  | some x => s.reply x 0 0 data []
  | none => s

/-- LEDGER_PICTURE (R456, R457): the next picture of the running audit, the first at once, the others 1 ms apart; the last
one ends it. -/
def execLedgerPicture (s : State) : Out :=
  match s.err.audit with
  | none => .next s
  | some a =>
    if !s.inRun 2 || (a.taken != 0 && !s.elapsed a.lastAt msTicks) then .next s
    else
      let a := { a with
        taken := a.taken + 1
        dropped := a.dropped ||| s.unpictured a.ledgers
        seen := a.seen ++ [s.picture a.ledgers]
        lastAt := s.now }
      let s := { s with err.audit := some a }
      .next (if a.taken < a.pictures then s else s.auditEnd a)

/-- DEV_LEDGER_AUDIT's effect. -/
def ledgerAuditBody (c : Cmd) (s : State) : Reply :=
  let n := if byteAt c.data 2 = 0 then 3 else byteAt c.data 2
  let ent := leAt c.data 4 4
  let r := cmdRing c
  if n < 2 ∨ 8 < n then Reply.bad s 26
  else if ent = 0 ∨ 65536 < ent then Reply.bad s 28
  else if leAt c.data 8 8 % 32 ≠ 0 then Reply.bad s 32
  else if s.err.audit.isSome then Reply.no s 9 0
  else
    let a : Audit :=
      { cmdRing := r, cmdIdx := s.dechan.cur.toNat, ledgers := leAt c.data 0 2 % 1024, pictures := n, taken := 0,
        dropped := 0, reportBase := leAt c.data 8 8, reportEntries := ent, seen := [], lastAt := s.now }
    { st := { s with err.audit := some a, err.ready := false }, later := true, limit := 2 * msTicks + (n - 1) * msTicks }

/-- DEV_LEDGER_AUDIT (R458). -/
def execDevLedgerAudit (c : Cmd) (s : State) : Out := .next (s.runCmd { code := 0x0104 } c (fun _ s => ledgerAuditBody c s))

/-! ### DIAG_SNAPSHOT (R459) -/

/-- DIAG_SNAPSHOT's effect, by its ACTION. -/
def snapshotBody (c : Cmd) (s : State) : Reply :=
  let a := byteAt c.data 0
  if 1 < a then Reply.bad s 24
  else
    let s := if a = 1 then s.takeSnapshot 3 else s
    match s.helm.snapshot with
    | some b => { st := s, data := leBytes 4 (leAt b 4 4), buf := slice b 0 6208 }
    | none => Reply.no s 8 0

/-- DIAG_SNAPSHOT as a command. -/
def diagSnapshot (c : Cmd) (s : State) : State :=
  s.runCmd { code := 0x0D01, lens := [6208], reads := false, writes := true, exempt := true } c (fun _ s => snapshotBody c s)

/-- DIAG_SNAPSHOT READ (R459). -/
def execDiagSnapshotRead (c : Cmd) (s : State) : Out := .next (diagSnapshot c s)
/-- DIAG_SNAPSHOT TAKE (R459). -/
def execDiagSnapshotTake (c : Cmd) (s : State) : Out := .next (diagSnapshot c s)

/-! ### DIAG_LOOPBACK and DIAG_INJECT (R460, R461) -/

/-- DIAG_LOOPBACK (R460). -/
def execDiagLoopback (c : Cmd) (s : State) : Out :=
  .next (s.runCmd { code := 0x0D02 } c (fun _ s =>
    let p := byteAt c.data 0
    let m := byteAt c.data 1
    if p = 2 ∨ p = 3 then Reply.no s 0xB 24
    else if 3 < p then Reply.bad s 24
    else if 2 < m then Reply.bad s 25
    else if p = 0 then Reply.ok { s with err.loopA := m }
    else Reply.ok { s with err.loopB := m }))

/-- The word of a QDR bank or of DRAM that an injection names, if it lies in a region of Table 6-1 or Table 17-2. -/
def injectWord (target addr : Nat) : Option (Nat × Nat) :=
  if target = 1 then
    if addr % 2 ^ 32 < 0x1000000 ∧ addr < 2 ^ 38 ∧ addr / 2 ^ 32 < 8 then some (0, addr / 2 ^ 32 * 2 ^ 32 + addr % 2 ^ 32 / 32 * 32)
    else none
  else if addr < 0x3C0000000 then some (1, addr / 8 * 8) else none

/-- A word's error mask with the lowest `n` data bits inverted once more. -/
def State.inject (s : State) (w : Nat × Nat) (n : Nat) : State :=
  let same (e : Nat × Nat × Nat) : Bool := e.1 == w.1 && e.2.1 == w.2
  let old := ((s.mem.errors.find? same).map (·.2.2)).getD 0
  let m := old ^^^ (2 ^ n - 1)
  { s with mem.errors := s.mem.errors.filter (fun e => !same e) ++ (if m = 0 then [] else [(w.1, w.2, m)]) }

/-- DIAG_INJECT (R461). -/
def execDiagInject (c : Cmd) (s : State) : Out :=
  .next (s.runCmd { code := 0x0D03 } c (fun _ s =>
    let t := byteAt c.data 0
    let n := byteAt c.data 1
    let live := match s.helm.grant with
      | some g => decide (s.now < g.until_)
      | none => false
    if !live then Reply.denied s 5
    else if t = 0 ∨ 3 < t then Reply.bad s 24
    else if t = 3 then Reply.ok { s with err.injectTimeout := true }
    else if n ≠ 1 ∧ n ≠ 2 then Reply.bad s 25
    else
      match injectWord t (leAt c.data 8 8) with
      | some w => Reply.ok (s.inject w n)
      | none => Reply.bad s 32))

end Sys2Proof.Machine
end

