-- ==== Sys2Proof/Machine/Smbus.lean ====
section
/-!
DEFINITION. Machine/Smbus.lean: the module's SMBus target and status lands (chapter 20), the event enables (R482) and the
millisecond counters of D6 and D12 (R79, R159).
-/

set_option Elab.async false
namespace Sys2Proof.Machine

open Sys2Proof

/-! ### SMBus (R474) -/

/-- The word of an SMBus command of Table 20-5; the readings of the rails are free values (log entry 5). -/
def State.smbusWord (s : State) (command : Nat) : Option (Nat × State) :=
  if command = 0 then some (s.module_.dieTemp.toNat, s)
  else if command ≤ 3 then
    let (w, s) := s.draw
    some (w.toNat % 65536, s)
  else if command = 4 then some (s.runMask, s)
  else if command = 5 then some (if s.inRun 3 then s.binnacleState % 65536 else 0, s)
  else none

/-- The byte of an SMBus command of Table 20-5. -/
def State.smbusByte (s : State) (command : Nat) : Option Nat :=
  if command = 6 then some s.ciph.latched
  else if command = 7 then some (b2n Config.gradeC)
  else if command = 8 then some 0x42
  else none

/-- One octet more in a packet error code: CRC-8 with the polynomial x^8 + x^2 + x + 1 of SMBus 3.1 (log entry 134). -/
def pecStep (crc : Nat) (b : Byte) : Nat :=
  (List.range 8).foldl (fun c _ => if 128 ≤ c then c * 2 % 256 ^^^ 7 else c * 2) (crc ^^^ b.toNat)

/-- What the target sends for a read: the octets, and with PEC the code over both address octets at 0x5A, the command and them. -/
def smbusData (pec : Bool) (command : Nat) (b : Bytes) : Bytes :=
  if pec then b ++ [BitVec.ofNat 8 (([0xB4, BitVec.ofNat 8 command, 0xB5] ++ b).foldl pecStep 0)] else b

/-- SMBUS_READ (R474): Read Word where `word`, else Read Byte, with PEC or without; a command of the other size is not listed for
it. -/
def execSmbusRead (command : Nat) (word : SmbusForm) (s : State) : Out :=
  if !s.inRun 0 then .next s
  else if word.word then
    match s.smbusWord command with
    | some r => .next (r.2.emit (.smbus (some (smbusData word.pec command (leBytes 2 r.1)))))
    | none => .next (s.emit (.smbus none))
  else .next (s.emit (.smbus ((s.smbusByte command).map (fun v => smbusData word.pec command (leBytes 1 v)))))

/-- SMBUS_ALERT_RESPONSE (R474). -/
def execSmbusAlertResponse (s : State) : Out :=
  .next (if s.module_.alertAsserted then State.alertSettle { s with module_.alertRead := true } else s)

/-- SMB_ALERT (R474): the die temperature is now `temp`. -/
def execSmbAlert (temp : BitVec 16) (s : State) : Out :=
  .next (State.alertSettle { s with module_.dieTemp := temp })

/-! ### Status lands (R473) -/

/-- What a STATUS land shows: 0 off, 1 on, 2 blinking at 2 Hz (R473); a land whose domain is in Stop is off (R469). -/
def State.led (s : State) (n : Nat) : Nat :=
  if n = 0 then (if !s.inRun 0 then 0 else if s.ciph.latched = 0 then 1 else 2)
  else if n = 1 then b2n (s.inRun 1 && s.ports.c.linkUp)
  else if n = 2 then b2n (s.inRun 1 && s.ports.d.linkUp)
  else if n = 3 then
    if !s.inRun 2 || !s.inRun 3 then 0
    else if s.hove then 2
    else b2n (s.boot.phase == .running)
  else 0

/-! ### Event enables (R482) -/

/-- EVT_ENABLE takes a value: each bit newly enabled whose cause is set sends its vector. -/
def State.evtEnable (s : State) (v : Nat) : State :=
  let old := s.evt.enable
  let s := { s with evt.enable := v % 2 ^ 23 }
  (List.range 23).foldl (fun s b => if bit v b && !bit old b && bit s.evt.cause b then s.msi .pf0 (16 + b) else s) s

/-- EVT_ENABLE_WRITE (R482). -/
def execEvtEnableWrite (value : W32) (s : State) : Out := .next (if s.linkReady then s.evtEnable value.toNat else s)

/-! ### Millisecond counters -/

/-- FLOW_MS_TICK (R159): event source EV50 pulses. -/
def execFlowMsTick (s : State) : Out :=
  .next (if s.inRun 6 then State.pulse { s with flow.ms := s.flow.ms + 1 } 50 else s)

/-- BOUND_GROWTH (R79): at a millisecond of HOLDOVER or RECKONED the bound grows; elsewhere nothing is due. -/
def execBoundGrowth (s : State) : Out := .next (if s.inRun 12 then s.boundGrowth else s)

end Sys2Proof.Machine
end

