-- ==== Sys2Proof/Machine/RegPort.lean ====
section
/-!
DEFINITION. Machine/RegPort.lean: what the MAC, RING, TIME and ALM blocks read as, and host writes of their registers that have
no row of their own (chapters 02 to 05).
-/

set_option Elab.async false
namespace Sys2Proof.Machine

open Sys2Proof

/-- The entry of an array of `n` entries of `stride` bytes from `base` that an offset lies in. -/
def regIdx (o base stride n : Nat) : Option Nat :=
  if base ≤ o ∧ o < base + stride * n then some ((o - base) / stride) else none

/-- The dword of a 64-bit quantity that an offset names, LO at `o` = `base` (R5). -/
def half64 (v o base : Nat) : Nat := if o = base then v % 2 ^ 32 else v / 2 ^ 32 % 2 ^ 32

/-- Dword `w` of a structure's octets (R7). -/
def dwordOf (b : Bytes) (w : Nat) : Nat := leAt b (4 * w) 4

/-- The state an outcome leaves; a write that a row of its own carries out ends in a next state. -/
def afterOut (o : Out) (s : State) : State :=
  match o with
  | .next t => t
  | _ => s

/-! ### MAC (R63, chapter 02) -/

/-- The port set that an offset of PF 0 BAR 0 lies in. -/
def macSet (off : Nat) : Option (Port × Nat) :=
  match off / 0x4000 with
  | 0x10 => some (.a, 0x40000)
  | 0x12 => some (.b, 0x48000)
  | 0x15 => some (.c, 0x54000)
  | 0x16 => some (.d, 0x58000)
  | _ => none

/-- A counter's high half of MAC_STAT: bits [47:32] or [39:32]. -/
def statHi (v : Nat) : Nat := v / 2 ^ 32

/-- The registers of a port's set that read from offset 0x400 up: the statistics counters; those of preemption read zero while it is
disabled (R57). -/
def Mac.statReg (m : Mac) (o : Nat) : Nat :=
  match regIdx o 0x400 8 64 with
  | some n =>
    let v := if 40 ≤ n ∧ n ≤ 45 ∧ !m.preemptEn then 0 else m.stat.getD n 0
    if o % 8 = 0 then v % 2 ^ 32 else statHi v
  | none => 0

/-- MAC_MOD_PINS. -/
def Mac.pins (m : Mac) (ring : Bool) : Nat :=
  b2n m.present + b2n m.intLos * 2 + b2n m.resetFault * 4 + b2n m.lpmode * 8 + (if ring then m.rateSel * 16 else 0)

/-- A register of a port's set. -/
def Mac.reg (m : Mac) (ring : Bool) (o : Nat) : Nat :=
  if o = 0x000 then
    b2n m.enable + m.rate * 2 + m.fec * 16 + b2n m.promisc * 64 + b2n m.mcAll * 128 + b2n m.pauseRx * 256 + b2n (ring && m.an) * 512
  else if o = 0x004 then
    b2n m.linkUp + b2n m.lock * 2 + b2n m.fecLock * 4 + m.rateActive * 8 + m.preempt * 64 + b2n m.ignoring * 256 +
      b2n m.cfgReject * 512 + b2n m.linkChange * 1024
  else if o = 0x008 then m.txStart
  else if o = 0x00C then m.pauseLimit + m.pauseRecover * 65536
  else if o = 0x010 ∧ ring then b2n m.preemptEn + b2n m.verifyDisable * 2 + m.addFrag * 4 + m.verifyTime * 256
  else if 0x020 ≤ o ∧ o < 0x0A0 then
    (if o % 8 = 0 then m.filtLo.getD ((o - 0x020) / 8) 0 else m.filtHi.getD ((o - 0x020) / 8) 0).toNat
  else if o = 0x100 then
    m.modDev + b2n m.modWrite * 128 + m.modOffset * 256 + m.modLen * 65536 + b2n m.modBusy * 2 ^ 24 + b2n m.modFast * 2 ^ 25
  else if o = 0x104 then b2n m.modBusy + m.modResult * 2 + m.modDone * 8
  else if o = 0x108 then m.pins ring
  else if 0x180 ≤ o ∧ o < 0x200 then leAt m.modBuf (o - 0x180) 4
  else if o = 0x200 then m.clrIndex + b2n m.clrAll * 64
  else if o = 0x208 ∨ o = 0x20C then half64 m.half.toNat o 0x208
  else if o = 0x210 ∨ o = 0x214 then half64 m.wrap.toNat o 0x210
  else m.statReg o

/-- MAC_MOD_PINS is written: the cage's control pins follow (R58). -/
def State.macPins (s : State) (p : Port) (v : Nat) : State :=
  let m := s.mac p
  let ring := isRing p
  let n := { m with
    resetFault := if ring then m.resetFault else bit v 2, lpmode := bit v 3, rateSel := if ring then bits v 5 4 else 0 }
  let pin (s : State) (k : Nat) : State :=
    if bit (m.pins ring) k == bit (n.pins ring) k then s else s.emit (.land (.modPin p k) (bit (n.pins ring) k))
  [2, 3, 4, 5].foldl pin (s.setMac p n)

/-- A dword with the bits of a W1C write cleared. -/
def clear64 (x : W64) (o base v : Nat) : W64 := x &&& ~~~(BitVec.ofNat 64 (if o = base then v else v * 2 ^ 32))

/-- A write of a register of a port's set; `v` is merged with what the register holds, `z` has zeros for the octets not
enabled. -/
def State.macWrite (s : State) (p : Port) (o v z : Nat) : State :=
  let m := s.mac p
  if o = 0x000 then afterOut (execMacCtrlWrite p (BitVec.ofNat 32 v) s) s
  else if o = 0x004 then
    s.setMac p { m with cfgReject := m.cfgReject && !bit z 9, linkChange := m.linkChange && !bit z 10 }
  else if o = 0x008 then s.setMac p { m with txStart := clampNat 64 9216 (v % 2 ^ 14) }
  else if o = 0x00C then s.setMac p { m with pauseLimit := v % 65536, pauseRecover := v / 65536 }
  else if 0x020 ≤ o ∧ o < 0x0A0 then
    if o % 8 = 0 then s.setMac p { m with filtLo := m.filtLo.set ((o - 0x020) / 8) (BitVec.ofNat 32 v) }
    else afterOut (execMacFiltCommit p ((o - 0x020) / 8) (BitVec.ofNat 32 v) s) s
  else if o = 0x100 then
    afterOut (execModTransactionStart p (BitVec.ofNat 32 (v - b2n (bit v 24) * 2 ^ 24 + b2n (bit z 24) * 2 ^ 24)) s) s
  else if o = 0x108 then s.macPins p v
  else if 0x180 ≤ o ∧ o < 0x200 then s.setMac p { m with modBuf := overlay m.modBuf (o - 0x180) (leBytes 4 v) }
  else if o = 0x200 then afterOut (execMacStatClear p (BitVec.ofNat 32 v) s) s
  else if o = 0x208 ∨ o = 0x20C then s.setMac p { m with half := clear64 m.half o 0x208 z }
  else if o = 0x210 ∨ o = 0x214 then s.setMac p { m with wrap := clear64 m.wrap o 0x210 z }
  else s

/-! ### RING (chapters 02 and 03) -/

/-- A common register of the RING block, by its offset in the block. SF_ACTIVE (R42) is 1 while both ports have link at unequal
rates, and 0 while one of them has none (the model's choice, log entry 131). -/
def State.ringReg (s : State) (o : Nat) : Nat :=
  let r := s.ports.ring
  let c := s.ports.c
  let d := s.ports.d
  let dc := r.delay.getD 0 {}
  let dd := r.delay.getD 1 {}
  if o = 0x00 then r.mode + b2n r.redbox * 8 + b2n r.supEn * 16 + b2n r.configured * 256
  else if o = 0x04 then
    b2n c.linkUp + b2n d.linkUp * 2 + b2n (c.linkUp && d.linkUp && c.rate != d.rate) * 4 + b2n (s.ownSeen .c) * 8 +
      b2n (s.ownSeen .d) * 16 + b2n s.interlinkOpen * 32
  else if o = 0x08 then r.forgetMs + r.supMs * 65536
  else if o = 0x0C then r.addrLsb + b2n (r.supTci != 0) * 256 + r.supTci / 8192 * 512 + r.supTci % 4096 * 4096
  else if o = 0x10 then r.nodeMac % 2 ^ 32
  else if o = 0x14 then r.nodeMac / 2 ^ 32
  else if o = 0x18 then r.pcpMin + b2n r.pcpEn * 8 + b2n r.goose * 16 + b2n r.sv * 32
  else if o = 0x1C then r.nodes.length + r.proxies.length * 65536
  else if o = 0x20 then b2n dc.valid + b2n dd.valid * 2 + b2n s.pdelayActive * 4
  else if o = 0x24 then dc.mean / 65536 % 2 ^ 24
  else if o = 0x28 then dd.mean / 65536 % 2 ^ 24
  else if o = 0x2C then r.unmatched.toNat
  else 0

/-! ### TIME (chapter 03) -/

/-- A switch-log entry as its eight words (Table 3-3); of a step that does not fit its word the low 32 bits (the model's choice, log
entry 130). -/
def SwEntry.word (e : SwEntry) (w : Nat) : Nat :=
  if w = 0 then e.sec % 2 ^ 32
  else if w = 1 then e.sec / 2 ^ 32 % 65536 + e.seq % 65536 * 65536
  else if w = 2 then e.ns
  else if w = 3 then (BitVec.ofInt 32 e.step).toNat
  else if w = 4 then e.oldIncr % 2 ^ 32
  else if w = 5 then
    e.oldIncr / 2 ^ 32 % 16 + e.newIncr / 2 ^ 32 % 16 * 16 + e.cause * 256 + e.source * 65536 + e.quality * 2 ^ 24
  else if w = 6 then e.newIncr % 2 ^ 32
  else e.bound

/-- A register of the TIME block, by its offset in the block. -/
def State.timeReg (s : State) (o : Nat) : Nat :=
  let t := s.time
  if o = 0x00 then t.ns
  else if o = 0x04 then t.sec % 2 ^ 32
  else if o = 0x08 then t.sec / 2 ^ 32 % 65536
  else if o = 0x0C then t.frac / 65536 % 65536
  else if o = 0x10 then t.quality.code + t.source.code * 4 + b2n t.unsynced * 256
  else if o = 0x14 then t.bound
  else if o = 0x18 then t.incr % 2 ^ 32
  else if o = 0x1C then t.incr / 2 ^ 32 % 16
  else if o = 0x20 then
    b2n t.ppsValid + b2n t.irigValid * 2 + b2n (t.ptpValid s.now) * 4 + b2n t.servoWd * 8 + b2n t.breach * 16 + t.basis * 32
  else if o = 0x24 then leNat ((List.range 4).map (fun k => BitVec.ofNat 8 (t.cfg.boardDelay.getD k 0)))
  else if o = 0x28 ∨ o = 0x2C then half64 t.elapsed o 0x28
  else if o = 0x30 then t.swNext.toNat
  else if o = 0x34 then t.irigCf % 2 ^ 27
  else if 0x40 ≤ o ∧ o < 0x50 then t.cnt.get ((o - 0x40) / 4)
  else
    match regIdx o 0x800 32 64 with
    | some k => match t.swLog.find k with
      | some e => e.word (o % 32 / 4)
      | none => 0
    | none => 0

/-- A write of the TIME block: only TIME_STATUS has bits that the host clears (R81, R86, R91). -/
def State.timeWrite (s : State) (o z : Nat) : State :=
  if o = 0x20 then { s with time.servoWd := s.time.servoWd && !bit z 3, time.breach := s.time.breach && !bit z 4 } else s

/-! ### ALM (chapters 04 and 05) -/

/-- ALM_TAB of an almanac, as its eight words. -/
def Almanac.word (a : Almanac) (w : Nat) : Nat :=
  if w = 0 then (a.lastSealed.getD 0) % 2 ^ 32
  else if w = 1 then (a.lastSealed.getD 0) / 2 ^ 32 % 2 ^ 32
  else if w = 2 then a.sealed.toNat
  else if w = 3 then a.incomplete.toNat
  else if w = 4 then a.missing.toNat
  else if w = 5 then a.substituted.toNat
  else if w = 6 then a.unsynced.toNat
  else a.late.toNat

/-- ALM_STREAM_INFO of a stream. -/
def SvStream.info (x : SvStream) : Nat :=
  x.column + x.alm * 1024 + 2 ^ 14 + b2n x.substituting * 2 ^ 15 + x.lastConfRev % 65536 * 65536

/-- ALM_STREAM_CNT of a stream: those of its subscription, else of the last one under its number (R118). -/
def Alm.streamCnt (a : Alm) (h : Nat) : Cnts :=
  match a.streams.find h with
  | some x => x.cnt
  | none =>
    match a.streams.find? (fun (p : Nat × SvStream) => p.2.was == some h) with
    | some p => p.2.cnt
    | none => a.streamOld.getD h (Cnts.zero 8)

/-- ALM_WATCH_CNT of a watch: those of its setting, else of the last one (R118). -/
def Alm.watchCnt (a : Alm) (k : Nat) : Cnts :=
  match a.watches.find k with
  | some w => w.cnt
  | none => a.watchOld.getD k (Cnts.zero 4)

/-- The almanac's registers, from the block's offset 0 to 0x2FF. -/
def State.almReg (s : State) (o : Nat) : Nat :=
  let a := s.alm
  let st := a.streams.find a.streamSel
  if o = 0x00 then maskOf 16 a.tab.has + a.slotsFree * 65536 + b2n a.hoveTo * 2 ^ 25
  else if o = 0x08 then a.ingestMax.toNat
  else if o = 0x0C then a.ingestLate.toNat
  else if 0x10 ≤ o ∧ o < 0x20 then a.cnt.get ((o - 0x10) / 4)
  else if o = 0x40 then a.streamSel
  else if 0x44 ≤ o ∧ o < 0x64 then (a.streamCnt a.streamSel).get ((o - 0x44) / 4)
  else if o = 0x64 then (match st with | some x => x.info | none => 0)
  else if o = 0x80 then a.watchSel
  else if 0x84 ≤ o ∧ o < 0x94 then (a.watchCnt a.watchSel).get ((o - 0x84) / 4)
  else
    match regIdx o 0x100 32 16 with
    | some k => match a.tab.find k <|> a.tabOld.find k with
      | some x => x.word (o % 32 / 4)
      | none => 0
    | none => 0

/-- ALM_SLOT_INFO of a slot. -/
def Slot.info (x : Slot) : Nat :=
  slotCode (some x) + x.tmpl.ports % 16 * 4 + min x.step 8 * 64 + b2n x.held.isSome * 1024 + b2n x.heldHove * 2048 + b2n x.heldKey * 4096


/-- The reflex and GOOSE registers, from offset 0x1000 of the block. -/
def State.reflexReg (s : State) (o : Nat) : Nat :=
  let r := s.reflex
  let armed := r.slots.filter (fun (p : Nat × Slot) => p.2.state == .armed)
  let g := r.goose.find r.gooseSel
  if o = 0x1000 then armed.length + b2n s.lane0 * 2 ^ 13 + b2n (armed.any (fun (p : Nat × Slot) => p.2.isHeld)) * 2 ^ 14
  else if o = 0x1004 then r.late.toNat
  else if o = 0x1008 then r.max.toNat
  else if 0x1010 ≤ o ∧ o < 0x1030 then r.cnt.get ((o - 0x1010) / 4)
  else if o = 0x1040 then r.slotSel
  else if o = 0x1044 then (match s.slot r.slotSel with | some x => x.info | none => 0)
  else if o = 0x1048 then (match s.slot r.slotSel with | some x => x.stNum.toNat | none => 0)
  else if o = 0x104C then (match s.slot r.slotSel with | some x => x.sqNum.toNat | none => 0)
  else if o = 0x1080 then r.gooseSel
  else if o = 0x1084 then (match g with | some x => x.state.code | none => 0)
  else if 0x1088 ≤ o ∧ o < 0x10A8 then (match g with | some x => x.cnt.get ((o - 0x1088) / 4) | none => 0)
  else if o = 0x10A8 then r.unmatched.toNat
  else 0

/-- A write of the ALM block. -/
def State.almWrite (s : State) (o v z : Nat) : State :=
  if o = 0x04 then afterOut (execAlmClrIngestMax (BitVec.ofNat 32 z) s) s
  else if o = 0x40 then { s with alm.streamSel := v % 1024 }
  else if o = 0x80 then { s with alm.watchSel := v % 4096 }
  else if o = 0x100C then afterOut (execReflexClrMax (BitVec.ofNat 32 z) s) s
  else if o = 0x1040 then { s with reflex.slotSel := v % 4096 }
  else if o = 0x1080 then { s with reflex.gooseSel := v % 4096 }
  else s

end Sys2Proof.Machine
end

