-- ==== Sys2Proof/Machine/RegFlow.lean ====
section
/-!
DEFINITION. Machine/RegFlow.lean: what the FLOW, CLS, CIPH and SCHED blocks read as, and host writes of their registers that have
no row of their own (chapters 06 to 10).
-/

set_option Elab.async false
namespace Sys2Proof.Machine

open Sys2Proof

/-! ### FLOW: the table (chapter 06) -/

/-- FLOW_BG_PROGRESS: how far a running swing or reload has come is a free value (log entry 2). -/
def State.flowProgress (s : State) : Nat :=
  let f := s.flow
  let w := s.draw.1.toNat
  match f.swing, f.job with
  | some x, _ => if x.cursor = 0 then w % (2 * flowBuckets + 1) else x.cursor
  | none, .reload .. => w % (flowHandles + 1)
  | none, _ => f.progress

/-- A word of a key profile; ST fields read as staged, KEYLEN and USE as committed. -/
def State.profReg (s : State) (p w : Nat) : Nat :=
  let x := s.flow.staged.getD p {}
  if w < 2 then leNat ((List.range 4).map (fun i => BitVec.ofNat 8 (x.fields.getD (4 * w + i) 0)))
  else if w = 2 then
    keyLength (s.prof p).fields % 64 + x.miss * 256 + b2n x.tenantOk * 1024 + b2n x.ageDelete * 2048 + x.ageLimit * 65536
  else s.flow.uses p

/-- A word of a key profile is staged (R148); AGE_LIMIT_S is taken within 1 to 65,535 (R9). -/
def State.profStage (s : State) (p w v : Nat) : State :=
  let set (f : Profile → Profile) : State := { s with flow.staged := s.flow.staged.modify p f }
  if w < 2 then
    set (fun x => { x with fields := (List.range 8).map (fun i => if i / 4 = w then bits v (8 * (i % 4) + 7) (8 * (i % 4)) else x.fields.getD i 0) })
  else if w = 2 then
    set (fun x => { x with
      miss := bits v 9 8, tenantOk := bit v 10, ageDelete := bit v 11, ageLimit := clampNat 1 65535 (v / 65536) })
  else s

/-- FLOW_PROF_MAP of a list of six profile numbers. -/
def mapWord (l : List Nat) : Nat := (List.range 6).foldl (fun a k => a + l.getD k 0 % 16 * 16 ^ k) 0

/-- The six seed words from offset 0x10 to 0x2C: A, B, and the pair that a swing moves to. -/
def Flow.seedReg (f : Flow) (o : Nat) : Nat :=
  if o < 0x18 then half64 f.seedA.toNat o 0x10
  else if o < 0x20 then half64 f.seedB.toNat o 0x18
  else match f.swing with
    | none => 0
    | some w => if o < 0x28 then half64 w.seedA.toNat o 0x20 else half64 w.seedB.toNat o 0x28

/-- A FLOW register of chapter 06, by its offset in the block. -/
def State.flowReg (s : State) (o : Nat) : Nat :=
  let f := s.flow
  if o = 0x00 then
    b2n s.flowReady + b2n f.swing.isSome * 2 + b2n ((f.swing.map (·.stalled)).getD false) * 4 + f.jobCode * 8 + b2n f.profReject * 64
  else if o = 0x04 then f.handles.length
  else if o = 0x08 then f.ovf.length
  else if o = 0x0C then f.displaceMax + f.settleMs * 256 + f.sweepMs * 65536
  else if 0x10 ≤ o ∧ o < 0x30 then f.seedReg o
  else if o = 0x30 then s.flowProgress
  else if o = 0x34 then f.bgSeq % 65536 + b2n f.bgReady * 2 ^ 16 + f.bgJob * 2 ^ 17 + f.bgOutcome * 2 ^ 20
  else if o = 0x38 then f.bgA.toNat
  else if o = 0x3C then f.bgB.toNat
  else if o = 0x40 then f.lostBanks
  else if o = 0x44 then (f.handles.filter (fun (p : Nat × Bool) => p.2)).length
  else if o = 0x50 ∨ o = 0x54 then half64 f.ageBase.toNat o 0x50
  else if o = 0x58 then f.ageLog2
  else if o = 0x5C then f.ageProd.toNat
  else if o = 0x60 then f.ageCons.toNat
  else if 0x80 ≤ o ∧ o < 0xA0 then f.cnt.get ((o - 0x80) / 4)
  else if 0x100 ≤ o ∧ o < 0x200 then s.profReg ((o - 0x100) / 16) (o % 16 / 4)
  else if o = 0x200 then mapWord f.stagedMap
  else if o = 0x204 then f.profSelect + b2n f.profSelMap * 65536
  else 0

/-- AGE_SWEEP_MS as it is taken: 100 to 60,000, any other value as 1,000. -/
def sweepOf (v : Nat) : Nat := if 100 ≤ v ∧ v ≤ 60000 then v else 1000

/-- A write of a FLOW register of chapter 06. -/
def State.flowWrite (s : State) (o v z : Nat) : State :=
  let f := s.flow
  if o = 0x00 then { s with flow.profReject := f.profReject && !bit z 6 }
  else if o = 0x0C then
    { s with flow.displaceMax := v % 16, flow.settleMs := max 1 (bits v 15 8), flow.sweepMs := sweepOf (v / 65536) }
  else if o = 0x40 then { s with flow.lostBanks := maskOf 9 (fun k => bit f.lostBanks k && !bit z k) }
  else if o = 0x50 then { s with flow.ageBase := BitVec.ofNat 64 (f.ageBase.toNat / 2 ^ 32 * 2 ^ 32 + v / 16 * 16) }
  else if o = 0x54 then { s with flow.ageBase := BitVec.ofNat 64 (f.ageBase.toNat % 2 ^ 32 + v * 2 ^ 32) }
  else if o = 0x58 then { s with flow.ageLog2 := if 6 ≤ v % 32 ∧ v % 32 ≤ 16 then v % 32 else 0 }
  else if o = 0x60 then { s with flow.ageCons := BitVec.ofNat 32 v }
  else if 0x100 ≤ o ∧ o < 0x200 then s.profStage ((o - 0x100) / 16) (o % 16 / 4) v
  else if o = 0x200 then { s with flow.stagedMap := (List.range 6).map (fun k => bits v (4 * k + 3) (4 * k)) }
  else if o = 0x204 then afterOut (execFlowProfCommit (BitVec.ofNat 32 (v % 2 ^ 31 + z / 2 ^ 31 * 2 ^ 31)) s) s
  else s

/-! ### FLOW: switching (chapter 08) -/

/-- A FLOW register of chapter 08. -/
def State.switchReg (s : State) (o : Nat) : Nat :=
  let w := s.sw
  if o = 0x400 then w.vxlanPort + w.genevePort * 65536
  else if o = 0x404 then w.rateKfps + w.burst * 65536
  else if o = 0x408 then w.exc.length
  else if o = 0x410 ∨ o = 0x414 then half64 w.tblAddr.toNat o 0x410
  else if o = 0x418 then w.table + b2n w.dir * 4 + w.first * 16 + w.count * 65536 + b2n w.busy * 2 ^ 31
  else if o = 0x41C then b2n w.busy + w.result * 2 + w.done * 8 + b2n w.empty * 65536
  else if 0x440 ≤ o ∧ o < 0x480 then w.actCnt.get ((o - 0x440) / 4)
  else 0

/-- A write of a FLOW register of chapter 08; a new FLOW_EXC_CFG finds the tokens that the old one has earned (R210). -/
def State.switchWrite (s : State) (o v z : Nat) : State :=
  let w := s.sw
  if o = 0x400 then { s with sw.vxlanPort := v % 65536, sw.genevePort := v / 65536 }
  else if o = 0x404 then
    let burst := max 1 (v / 65536)
    { s with
      sw.tokens := min (w.refilled s.now) (burst * 1250000), sw.tokensAt := s.now
      sw.rateKfps := v % 65536, sw.burst := burst }
  else if o = 0x410 then { s with sw.tblAddr := BitVec.ofNat 64 (w.tblAddr.toNat / 2 ^ 32 * 2 ^ 32 + v / 64 * 64) }
  else if o = 0x414 then { s with sw.tblAddr := BitVec.ofNat 64 (w.tblAddr.toNat % 2 ^ 32 + v * 2 ^ 32) }
  else if o = 0x418 then afterOut (execTableTransferStart (BitVec.ofNat 32 (v % 2 ^ 31 + z / 2 ^ 31 * 2 ^ 31)) s) s
  else if o = 0x41C then { s with sw.empty := w.empty && !bit z 16 }
  else s

/-! ### CLS (chapter 07) -/

/-- A word of a classifier bank. -/
def ClsBank.reg (x : ClsBank) (w : Nat) : Nat :=
  if w = 0 then x.state.code + x.width * 4 + b2n x.enable * 32 + x.srcMask * 256
  else if w = 1 then leNat ((List.range 4).map (fun i => BitVec.ofNat 8 (x.fields.getD i 0)))
  else if w = 2 then x.entries.length + b2n x.move.isSome * 4096
  else x.tie.toNat

/-- A CLS register, by its offset from 0x8_4000. -/
def State.clsReg (s : State) (o : Nat) : Nat :=
  let c := s.cls
  if o = 0x00 then b2n c.check.isSome + b2n (c.banks.any (fun b => b.move.isSome)) * 2
  else if o = 0x04 then c.settleMs
  else if o = 0x08 then maskOf 32 (fun b => (s.clsBank b).state == .lost)
  else if o = 0x10 then c.bgSeq % 65536 + b2n c.bgReady * 2 ^ 16 + c.bgBank * 2 ^ 17 + c.bgOutcome * 2 ^ 22
  else if o = 0x14 then c.bgCount.toNat
  else if 0x20 ≤ o ∧ o < 0x30 then c.cnt.get ((o - 0x20) / 4)
  else if 0x100 ≤ o ∧ o < 0x300 then (s.clsBank ((o - 0x100) / 16)).reg (o % 16 / 4)
  else 0

/-! ### CIPH (chapter 09) -/

/-- A CIPH register, by its offset in the block. -/
def State.ciphReg (s : State) (o : Nat) : Nat :=
  let x := s.ciph
  if o = 0x00 then
    x.lode.code + b2n x.ready * 4 + b2n s.lane0 * 8 + b2n s.pbLanes * 16 + b2n x.wiped * 32 + x.eraseCount % 65536 * 65536
  else if o = 0x04 then if x.lode = .loaded then x.kcv else 0
  else if o = 0x08 then x.cache.length + (x.cache.filter (fun k => s.pinned k.handle)).length * 2 ^ 17
  else if o = 0x0C then (x.jobs.filter (fun j => j.place == .store)).length + s.spilled.length * 2 ^ 14
  else if o = 0x10 then x.sa.length
  else if o = 0x14 then
    (List.range 4).foldl (fun a n =>
      let l := s.rawLane n
      a + (b2n l.held + (if n < 3 then l.owner % 128 * 2 else 0)) * 256 ^ n) 0
  else if 0x40 ≤ o ∧ o < 0x80 then x.cnt.get ((o - 0x40) / 4)
  else 0

/-! ### SCHED (chapter 10) -/

/-- The node that SCHED_NODE_SEL names, by its register's offset; an identifier that Table 10-1 does not give reads zero. -/
def State.nodeReg (s : State) (o : Nat) : Nat :=
  let id := s.sched.nodeSel
  let n := s.node id
  let svc := decide (0x1000 ≤ id) && decide (id < 0x3000)
  if !(nodeNamed id || decide (id < 514)) then 0
  else if o = 0x14 then
    s.nodeRate id + (if id < 0x1000 then n.weight * 2 ^ 17 else 0) + (if 0x3000 ≤ id then n.overhead * 2 ^ 25 else 0)
  else if o = 0x18 then (BitVec.ofInt 32 n.credit).toNat
  else if o = 0x1C then n.hi
  else if o = 0x20 then n.lo
  else if o = 0x24 then if svc then 0 else n.bufLimit
  else if o = 0x28 then n.occ
  else if o = 0x2C then n.drop.toNat
  else 0

/-- A SCHED register, by its offset in the block. -/
def State.schedReg (s : State) (o : Nat) : Nat :=
  let x := s.sched
  if o = 0x00 then b2n x.ready + b2n s.hove * 2 + maskOf 4 (fun n => (x.snd.getD n {}).enable) * 4
  else if o = 0x04 then x.freeSram
  else if o = 0x08 then x.freeDram
  else if o = 0x10 then x.nodeSel
  else if 0x14 ≤ o ∧ o < 0x30 then s.nodeReg o
  else if 0x40 ≤ o ∧ o < 0x60 then x.cnt.get ((o - 0x40) / 4)
  else if 0x60 ≤ o ∧ o < 0x80 then x.mtrCnt.get ((o - 0x60) / 4)
  else if 0x100 ≤ o ∧ o < 0x140 then
    let d := x.snd.getD ((o - 0x100) / 16) {}
    (if o % 16 = 0 then d.prod else if o % 16 = 4 then d.cons else if o % 16 = 8 then d.skip else 0).toNat
  else 0

/-- A write of the CIPH block: CTX_WIPED. -/
def State.ciphWrite (s : State) (o z : Nat) : State :=
  if o = 0x00 then { s with ciph.wiped := s.ciph.wiped && !bit z 5 } else s

/-- A write of the SCHED block: the node selected, and the records a sounding set's reader has consumed (R263). -/
def State.schedWrite (s : State) (o v : Nat) : State :=
  if o = 0x10 then { s with sched.nodeSel := v % 65536 }
  else if 0x100 ≤ o ∧ o < 0x140 ∧ o % 16 = 4 then
    { s with sched.snd := s.sched.snd.modify ((o - 0x100) / 16) (fun d => { d with cons := BitVec.ofNat 32 v }) }
  else s

/-- The FLOW and CLS block. -/
def State.flowBlockReg (s : State) (o : Nat) : Nat :=
  if o < 0x400 then s.flowReg o else if o < 0x4000 then s.switchReg o else s.clsReg (o - 0x4000)

/-- A write of the FLOW and CLS block. -/
def State.flowBlockWrite (s : State) (o v z : Nat) : State :=
  if o < 0x400 then s.flowWrite o v z
  else if o < 0x4000 then s.switchWrite o v z
  else if o = 0x4004 then { s with cls.settleMs := max 1 (v % 256) }
  else s

end Sys2Proof.Machine
end

