-- ==== Sys2Proof/Machine/RegHost.lean ====
section
/-!
DEFINITION. Machine/RegHost.lean: what the MANIFEST, GLOBAL, EVT, MBOX, MEM, WIN, REC, HELM, PWR and ERR blocks, BAR 2 and PF 1
BAR 0 read as, and host writes of their registers that have no row of their own (chapters 11 to 14, 16 to 21).
-/

set_option Elab.async false
namespace Sys2Proof.Machine

open Sys2Proof

/-! ### MANIFEST (R296) -/

/-- The manifest's header (Table 12-4). -/
def manifestHeader : Bytes :=
  leBytes 4 0x43494152 ++ leBytes 2 1 ++ leBytes 2 20 ++ leBytes 2 32 ++ [0x42, 0x42, 1, BitVec.ofNat 8 (b2n Config.gradeC), 0, 0] ++
    leBytes 8 Config.serial.toNat ++ leBytes 4 Config.romVersion.toNat ++ zeros 36

/-- The units in the order of the manifest: TYPE, BAR, OFFSET, SIZE, COUNT, DOMAIN (Table 12-5). -/
def manifestUnits : List (Nat × Nat × Nat × Nat × Nat × Nat) :=
  [(0x01, 0, 0x00000, 65536, 1, 255), (0x02, 0, 0x10000, 65536, 1, 255), (0x03, 0, 0x20000, 65536, 1, 255),
   (0x04, 0, 0x30000, 65536, 8, 255), (0x05, 0, 0x40000, 32768, 1, 9), (0x05, 0, 0x48000, 32768, 1, 10),
   (0x06, 0, 0x50000, 65536, 2, 1), (0x07, 0, 0x60000, 65536, 1, 12), (0x08, 0, 0x70000, 65536, 16, 12),
   (0x09, 0, 0x80000, 65536, 1, 5), (0x0A, 0, 0x90000, 65536, 44, 8), (0x0B, 0, 0xA0000, 65536, 6, 5),
   (0x0C, 0, 0xB0000, 65536, 1, 255), (0x0D, 0, 0xC0000, 65536, 16, 13), (0x0E, 0, 0xD0000, 65536, 8, 4),
   (0x0F, 0, 0xE0000, 65536, 14, 255), (0x10, 0, 0xF0000, 65536, 1, 255), (0x20, 2, 0, 4096, 512, 255),
   (0x21, 2, 0x200000, 4096, 8, 255), (0x30, 4, 0, 2 ^ 34, 16, 13)]

/-- One unit descriptor; a SIZE of 16 GiB does not fit its four octets, which hold its low 32 bits (log entry 52). -/
def manifestUnit (u : Nat × Nat × Nat × Nat × Nat × Nat) : Bytes :=
  leBytes 2 u.1 ++ leBytes 2 0x0100 ++ [BitVec.ofNat 8 u.2.1, BitVec.ofNat 8 (b2n (u.1 == 0x0E)), BitVec.ofNat 8 u.2.2.2.2.2, 0] ++
    leBytes 8 u.2.2.1 ++ leBytes 4 u.2.2.2.1 ++ leBytes 4 u.2.2.2.2.1 ++ zeros 8

/-- A dword of the MANIFEST block. -/
def manifestReg (o : Nat) : Nat :=
  if o < 0x40 then dwordOf manifestHeader (o / 4)
  else match regIdx o 0x40 32 20 with
    | some k => dwordOf (manifestUnit (manifestUnits.getD k (0, 0, 0, 0, 0, 0))) (o % 32 / 4)
    | none => 0

/-! ### GLOBAL (R480, R481) -/

/-- BINNACLE_STATE as a register reads: 0 while D3 is in Stop. -/
def State.binnacleReg (s : State) : Nat := if s.inRun 3 then s.binnacleState else 0

/-- Words of GLOBAL_MRING0 and of the secure ring that configure and report a ring (R367, R481). -/
def Ring.cfgWord (x : Ring) (enable : Bool) : Nat := x.log2 + b2n enable * 16 + b2n x.intEn * 32
def Ring.statusWord (x : Ring) : Nat := x.state.code + x.oldest.toNat * 65536

/-- A GLOBAL register, by its offset in the block. -/
def State.globalReg (s : State) (o : Nat) : Nat :=
  let b := s.boot
  let x := s.ring mgrBase
  if o = 0x00 then 1 + 0x42 * 256 + 0x42 * 65536 + b2n Config.gradeC * 2 ^ 24
  else if o = 0x14 then s.binnacleReg % 2 ^ 22 + b2n b.bootReject * 2 ^ 22 + b2n b.imageValid * 2 ^ 23
  else if o = 0x18 ∨ o = 0x1C then half64 b.imageAddr.toNat o 0x18
  else if o = 0x20 then b.imageLen
  else if o = 0x24 then b.hoveCount.toNat
  else if o = 0x40 ∨ o = 0x44 then half64 x.base o 0x40
  else if o = 0x48 then x.cfgWord s.dechan.mring0Enable
  else if o = 0x4C then x.holdoff + x.count * 65536
  else if o = 0x50 then x.statusWord
  else 0

/-- A ring's base register is written: ignored while ENABLE is 1 (R367, R481); the low 12 bits are taken as 0. -/
def State.baseWrite (s : State) (r : Nat) (enable hi : Bool) (v : Nat) : State :=
  let x := s.ring r
  if enable then s
  else s.setRing r { x with base := if hi then x.base % 2 ^ 32 + v * 2 ^ 32 else x.base / 2 ^ 32 * 2 ^ 32 + v / 4096 * 4096 }

/-- A write of a GLOBAL register. -/
def State.globalWrite (s : State) (o v z : Nat) : State :=
  let b := s.boot
  let on := s.dechan.mring0Enable
  if o = 0x10 then if bit z 0 then s.go (bit z 1) else s
  else if o = 0x14 then { s with boot.bootReject := b.bootReject && !bit z 22 }
  else if o = 0x18 then { s with boot.imageAddr := BitVec.ofNat 64 (b.imageAddr.toNat / 2 ^ 32 * 2 ^ 32 + v / 4096 * 4096) }
  else if o = 0x1C then { s with boot.imageAddr := BitVec.ofNat 64 (b.imageAddr.toNat % 2 ^ 32 + v * 2 ^ 32) }
  else if o = 0x20 then { s with boot.imageLen := v % 2 ^ 27 }
  else if o = 0x40 then s.baseWrite mgrBase on false v
  else if o = 0x44 then s.baseWrite mgrBase on true v
  else if o = 0x48 then
    afterOut ((if bit v 4 then execMring0Enable else execMring0Disable) (BitVec.ofNat 32 v) s) s
  else if o = 0x4C then s.setRing mgrBase { s.ring mgrBase with holdoff := v % 1024, count := bits v 23 16 }
  else s

/-! ### EVT (R482, R308) -/

/-- A word of an MSI-X table entry. -/
def MsixEntry.word (e : MsixEntry) (w : Nat) : Nat :=
  if w = 0 then e.addr.toNat % 2 ^ 32
  else if w = 1 then e.addr.toNat / 2 ^ 32
  else if w = 2 then e.data.toNat
  else b2n e.masked

/-- A word of an MSI-X table entry is written; clearing MASK sends a pending message (R308). -/
def State.msixWrite (s : State) (fn : Fn) (vec w v : Nat) : State :=
  let e := s.msixEntry fn vec
  if w = 0 then s.setMsix fn vec { e with addr := BitVec.ofNat 64 (e.addr.toNat / 2 ^ 32 * 2 ^ 32 + v / 4 * 4) }
  else if w = 1 then s.setMsix fn vec { e with addr := BitVec.ofNat 64 (e.addr.toNat % 2 ^ 32 + v * 2 ^ 32) }
  else if w = 2 then s.setMsix fn vec { e with data := BitVec.ofNat 32 v }
  else if bit v 0 then s.setMsix fn vec { e with masked := true }
  else afterOut (execMsixUnmask fn vec s) s

/-- A dword of a pending bit array that starts with vector `base`. -/
def State.pbaWord (s : State) (fn : Fn) (base k : Nat) : Nat := maskOf 32 (fun j => (s.msixEntry fn (base + 32 * k + j)).pending)

/-- An EVT register, by its offset in the block. -/
def State.evtReg (s : State) (o : Nat) : Nat :=
  if o < 0x400 then (s.msixEntry .pf0 (o / 16)).word (o % 16 / 4)
  else if 0x800 ≤ o ∧ o < 0x808 then s.pbaWord .pf0 0 ((o - 0x800) / 4)
  else if 0x1000 ≤ o ∧ o < 0x1100 then s.pbaWord .pf0 64 ((o - 0x1000) / 4)
  else if o = 0x2000 then s.evt.cause
  else if o = 0x2004 then s.evt.enable
  else if o = 0x2008 then s.evt.helm
  else if 0x2100 ≤ o ∧ o < 0x215C then s.evt.cnt.get ((o - 0x2100) / 4)
  else if 0x8000 ≤ o then (s.msixEntry .pf0 (64 + (o - 0x8000) / 16)).word (o % 16 / 4)
  else 0

/-- A write of an EVT register. -/
def State.evtWrite (s : State) (o v z : Nat) : State :=
  if o < 0x400 then s.msixWrite .pf0 (o / 16) (o % 16 / 4) v
  else if o = 0x2000 then { s with evt.cause := maskOf 23 (fun b => bit s.evt.cause b && !bit z b) }
  else if o = 0x2004 then s.evtEnable v
  else if o = 0x2008 then { s with evt.helm := maskOf 4 (fun b => bit s.evt.helm b && !bit z b) }
  else if 0x8000 ≤ o then s.msixWrite .pf0 (64 + (o - 0x8000) / 16) (o % 16 / 4) v
  else s

/-! ### MBOX (chapter 14) -/

/-- MBOX_STATUS or SMBOX_STATUS of a channel; `up` for a channel from device to host. -/
def Mbox.status (x : Mbox) (up : Bool) : Nat := b2n x.full + b2n up * 2 + b2n x.overrun * 4 + b2n x.intEn * 8

/-- A write of a channel's status: OVERRUN is cleared, INT_EN is set. -/
def Mbox.setStatus (x : Mbox) (v z : Nat) : Mbox := { x with overrun := x.overrun && !bit z 2, intEn := bit v 3 }

/-- A command log entry's octets (Table 14-13). -/
def LogEntry.image (e : LogEntry) : Bytes :=
  leBytes 4 e.ns ++ leBytes 4 e.sec ++ leBytes 2 e.ring ++ leBytes 2 e.seq.toNat ++ leBytes 2 e.opcode ++ leBytes 2 e.inst ++
    leBytes 4 e.handle ++ [BitVec.ofNat 8 e.status, BitVec.ofNat 8 e.flags] ++ leBytes 2 e.detail ++ leBytes 4 e.logSeq ++ zeros 4

/-- An MBOX register, by its offset in the block; MBOX_DATA is read by `State.mboxRead`. -/
def State.mboxReg (s : State) (o : Nat) : Nat :=
  if o < 0x80 then if o % 16 = 4 then (s.mbox (o / 16)).status (decide (4 ≤ o / 16)) else 0
  else if o = 0x100 then s.dechan.logNext
  else if 0x140 ≤ o ∧ o < 0x150 then s.dechan.cnt.get ((o - 0x140) / 4)
  else match regIdx o 0x8000 32 256 with
    | some k => match s.dechan.log.find k with
      | some e => dwordOf e.image (o % 32 / 4)
      | none => 0
    | none => 0

/-- A write of an MBOX register. -/
def State.mboxRegWrite (s : State) (o v z : Nat) : State :=
  let n := o / 16
  if 0x80 ≤ o then s
  else if o % 16 = 0 then s.mboxWrite n (BitVec.ofNat 32 z)
  else if o % 16 = 4 then { s with dechan.mbox := s.dechan.mbox.set n ((s.mbox n).setStatus v z) }
  else s

/-! ### MEM (R425) -/

/-- MEM_SCRUB_STATUS; how far a running pass has come is a free value (log entry 2). -/
def State.scrubStatus (s : State) : Nat :=
  let p := s.power.scrub
  b2n p.running + b2n (p.running && p.wake) * 2 + (if p.running then s.draw.1.toNat % 101 else if p.banks.isEmpty then 0 else 100) * 256

/-- A word of a MEM_UE_LOG entry. -/
def UeEntry.word (e : UeEntry) (w : Nat) : Nat :=
  if w = 0 then e.addr % 2 ^ 32
  else if w = 1 then e.addr / 2 ^ 32
  else if w = 2 then e.memory + e.bank * 16 + b2n e.scrub * 1024
  else e.ns

/-- A MEM register, by its offset in the block. -/
def State.memReg (s : State) (o : Nat) : Nat :=
  let m := s.mem
  if o = 0x00 then
    b2n (s.inRun 6) + b2n (s.inRun 11) * 2 + b2n s.power.scrub.running * 4 + b2n m.hashLocked * 8 + b2n m.hashReject * 16 +
      b2n (!m.panic.isEmpty) * 32
  else if 0x40 ≤ o ∧ o < 0x70 then m.cnt.get ((o - 0x40) / 4)
  else if o = 0xFC then m.ueNext.toNat
  else if 0x100 ≤ o ∧ o < 0x200 then (match m.ueLog.find ((o - 0x100) / 16) with | some e => e.word (o % 16 / 4) | none => 0)
  else if 0x200 ≤ o ∧ o < 0x218 then m.hashMask.getD ((o - 0x200) / 4) 0
  else if o = 0x220 then m.panicEgress + m.panicRec * 65536
  else if o = 0x230 then m.qdrBudget + b2n m.patrol * 1024 + m.dramMbps * 65536
  else if o = 0x234 then s.scrubStatus
  else 0

/-- A write of a MEM register; PATROL set while no pass runs starts one over the banks of the last wake's (R413, log entry 53). -/
def State.memWrite (s : State) (o v z : Nat) : State :=
  let m := s.mem
  if o = 0x00 then { s with mem.hashReject := m.hashReject && !bit z 4 }
  else if 0x200 ≤ o ∧ o < 0x218 then
    if m.hashLocked then s else { s with mem.hashMask := m.hashMask.set ((o - 0x200) / 4) (v % 2 ^ 27) }
  else if o = 0x220 then
    { s with mem.panicEgress := clampNat 256 65535 (v % 65536), mem.panicRec := clampNat 512 4032 (v / 65536) }
  else if o = 0x230 then
    let p := s.power.scrub
    { s with
      mem.qdrBudget := clampNat 1 1000 (v % 1024), mem.patrol := bit v 10, mem.dramMbps := clampNat 16 16000 (v / 65536)
      power.scrub := if bit v 10 && !p.running && !p.banks.isEmpty then { p with running := true, wake := false } else p }
  else s

/-! ### WIN and REC (chapters 11 and 12) -/

/-- A word of a window's staged registers. -/
def Win.word (w : Win) (k : Nat) : Nat :=
  if k = 0 then w.base
  else if k = 1 then w.size
  else if k = 2 then w.target
  else b2n w.enable + b2n w.read * 2 + b2n w.write * 4 + b2n w.ridCheck * 8 + w.rid * 65536

/-- A word of a window's registers is staged; TARGET is taken within 0 to 163,839, and SIZE at most 163,840 (R9). A SIZE of 0
stays, for the commit to refuse (R299). -/
def Win.stage (w : Win) (k v : Nat) : Win :=
  if k = 0 then { w with base := v % 2 ^ 18 }
  else if k = 1 then { w with size := min 163840 (v % 2 ^ 18) }
  else if k = 2 then { w with target := min 163839 (v % 2 ^ 18) }
  else { w with enable := bit v 0, read := bit v 1, write := bit v 2, ridCheck := bit v 3, rid := v / 65536 }

/-- A WIN register, by its offset in the block. -/
def State.winReg (s : State) (o : Nat) : Nat :=
  let h := s.host
  if o < 0x100 then (h.stagedWin.getD (o / 16) {}).word (o % 16 / 4)
  else if o = 0x100 then h.winSel + b2n h.changing.isSome * 2 ^ 31
  else if o = 0x104 then
    maskOf 16 (fun n => (s.win n).enable) + b2n h.changing.isSome * 65536 + h.winLast * 2 ^ 17 + h.winReject * 2 ^ 21
  else if 0x140 ≤ o ∧ o < 0x158 then h.winCnt.get ((o - 0x140) / 4)
  else 0

/-- A write of a WIN register. -/
def State.winWrite (s : State) (o v z : Nat) : State :=
  let h := s.host
  if o < 0x100 then { s with host.stagedWin := h.stagedWin.put (o / 16) ((h.stagedWin.getD (o / 16) {}).stage (o % 16 / 4) v) }
  else if o = 0x100 then
    if bit z 31 then afterOut (execWinCommit (v % 16) s) s else { s with host.winSel := v % 16 }
  else if o = 0x104 then { s with host.winReject := maskOf 3 (fun k => bit h.winReject k && !bit z (21 + k)) }
  else s

/-- A REC or NVMET register, by its offset from 0xC_8000. -/
def State.recReg (s : State) (o : Nat) : Nat :=
  let r := s.recd
  if o = 0x00 then
    (if r.held then 2 else b2n r.running) + r.qp.state.code * 4 + b2n r.exp.isSome * 16 + r.events.length * 32
  else if o = 0x04 then r.block
  else if o = 0x08 then (r.blocks.filter (fun (p : Nat × Block) => r.protected_ p.1)).length
  else if o = 0x10 then r.expSeq % 65536 + b2n r.expReady * 65536 + r.expOutcome * 2 ^ 17 + r.expEvent * 2 ^ 20
  else if o = 0x14 then r.expStatus % 65536 + r.expCid % 65536 * 65536
  else if o = 0x18 then r.expLbas.toNat
  else if 0x40 ≤ o ∧ o < 0x60 then r.cnt.get ((o - 0x40) / 4)
  else if o = 0x80 then r.conns.length + s.connDepth * 2 ^ 13
  else if 0x84 ≤ o ∧ o < 0xA4 then r.nvmetCnt.get ((o - 0x84) / 4)
  else 0

/-! ### HELM (R404) -/

/-- A register of the selected thread. -/
def Thread.reg_ (x : Thread) (o : Nat) : Nat :=
  if o = 0x14 then x.state.code + x.prior.code * 16 + x.cls * 256 + b2n x.trapActive * 1024
  else if o = 0x18 then x.pc.toNat
  else if o = 0x1C then x.mask % 256 + x.latched % 256 * 256
  else if 0x100 ≤ o ∧ o < 0x180 then (x.reg ((o - 0x100) / 4)).toNat
  else 0

/-- A register of a mover; the error of a transfer is shown with it (R401). -/
def Mover.word (x : Mover) (w : Nat) : Nat :=
  if w = 0 then
    b2n x.held + x.owner % 128 * 2 + (if x.active.isSome then 2 else 0) * 256 + b2n x.shadow.isSome * 1024 + x.error * 4096
  else if w = 1 then x.done.toNat
  else if w = 2 then x.mismatch.toNat
  else 0

/-- HELM_CHAN_STATUS; channel 255 has 32 slots. -/
def Chan.status (x : Chan) (c : Nat) : Nat :=
  (if c = 255 then 32 else x.depth) + x.msgs.length * 256 + x.senders.length * 65536 + x.receivers.length * 2 ^ 24

/-- A HELM register, by its offset in the block. -/
def State.helmReg (s : State) (o : Nat) : Nat :=
  let h := s.helm
  let x := s.thread h.threadSel
  if o = 0x00 then
    h.cores + b2n h.becalmed * 256 + b2n ((s.thread 0).state == .faultHalt) * 512 + b2n s.dbgOpen * 1024 + min 255 h.restarts * 65536
  else if o = 0x10 then h.threadSel
  else if (0x14 ≤ o ∧ o < 0x20) ∨ (0x100 ≤ o ∧ o < 0x180) then x.reg_ o
  else if o = 0x20 then b2n h.breakEn * 16 + b2n h.dbgReject * 32
  else if 0x200 ≤ o ∧ o < 0x240 then (h.bp.getD ((o - 0x200) / 4) 0).toNat
  else if 0x400 ≤ o ∧ o < 0x480 then roseWord (h.rose.getD ((o - 0x400) / 16) defaultRose) (o % 16 / 4)
  else if o = 0x600 then h.chanSel
  else if o = 0x604 then (s.chan h.chanSel).status h.chanSel
  else if o = 0x608 then (s.chan h.chanSel).torn.toNat
  else if 0x800 ≤ o ∧ o < 0x900 then (s.mover ((o - 0x800) / 16)).word (o % 16 / 4)
  else if 0x900 ≤ o ∧ o < 0x920 then h.cnt.get ((o - 0x900) / 4)
  else 0

/-- HELM_DBG_CTRL is written: its actions in the order of their bits, BREAK_EN with scope BREAK, DBG_REJECT cleared first. -/
def State.dbgCtrl (s : State) (v z : Nat) : State :=
  let s := { s with helm.dbgReject := s.helm.dbgReject && !bit z 5 }
  let act (k : Nat) (f : State → Out) (s : State) : State := if bit z k then afterOut (f s) s else s
  let s := act 3 execHelmDbgKill (act 2 execHelmDbgStep (act 1 execHelmDbgResume (act 0 execHelmDbgHalt s)))
  match s.helm.grant with
  | some g => if bit g.scope 2 then { s with helm.breakEn := bit v 4 } else s
  | none => s

/-- A write of a HELM register under a live grant. -/
def State.helmWrite (s : State) (o v z : Nat) : State :=
  if o = 0x00 then { s with helm.becalmed := s.helm.becalmed && !bit z 8 }
  else if o = 0x10 then { s with helm.threadSel := v % 128 }
  else if o = 0x20 then s.dbgCtrl v z
  else if 0x100 ≤ o ∧ o < 0x180 then afterOut (execHelmDbgRegWrite ((o - 0x100) / 4) (BitVec.ofNat 32 v) s) s
  else if 0x200 ≤ o ∧ o < 0x240 then { s with helm.bp := s.helm.bp.set ((o - 0x200) / 4) (BitVec.ofNat 32 (v - b2n (bit v 1) * 2)) }
  else if o = 0x600 then { s with helm.chanSel := v % 256 }
  else s

/-! ### PWR (R484) -/

/-- A PWR register, by its offset in the block. -/
def State.pwrReg (s : State) (o : Nat) : Nat :=
  let p := s.power
  if o = 0x00 then s.runMask + maskOf 14 s.changing * 65536
  else if 0x44 ≤ o ∧ o < 0x78 then s.votes ((o - 0x40) / 4)
  else if 0x84 ≤ o ∧ o < 0xB8 then (s.stopCount ((o - 0x80) / 4)).toNat
  else if 0x110 ≤ o ∧ o < 0x128 then p.wakeTarget.getD ((o - 0x110) / 4) 0
  else if o = 0x130 then p.wakeCause
  else if o = 0x134 then p.report.seq.toNat
  else if o = 0x138 then p.report.lostA % 4096 + p.report.droop % 4096 * 65536
  else if o = 0x13C then p.report.lostCls
  else 0

/-- A write of a PWR register. -/
def State.pwrWrite (s : State) (o v z : Nat) : State :=
  let p := s.power
  if o = 0x100 then afterOut (execPwrWake (z % 2 ^ 14 / 2 * 2) s) s
  else if 0x110 ≤ o ∧ o < 0x128 then { s with power.wakeTarget := p.wakeTarget.set ((o - 0x110) / 4) (v % 2 ^ 14 / 2 * 2) }
  else if o = 0x130 then { s with power.wakeCause := maskOf 7 (fun k => bit p.wakeCause k && !bit z k) }
  else s

/-! ### ERR (R462) -/

/-- A violation record's octets (Table 19-3). -/
def ViolRec.image (r : ViolRec) : Bytes :=
  leBytes 4 r.ns ++ leBytes 4 r.sec ++ [BitVec.ofNat 8 r.kind, BitVec.ofNat 8 r.srcType] ++ leBytes 2 r.srcId ++ leBytes 2 r.detail ++
    [0, 0] ++ leBytes 8 r.addr ++ leBytes 4 r.seq ++ leBytes 4 (if 256 ≤ r.seq then r.seq - 255 else 0)

/-- A word of a host error log entry (R454). -/
def HostErr.word (e : HostErr) (w : Nat) : Nat := (if w = 0 then e.w0 else if w = 1 then e.w1 else if w = 2 then e.w2 else e.w3).toNat

/-- Tags that are quarantined. -/
def HostSide.quarantined (h : HostSide) : Nat :=
  (h.tags.filter (fun (p : Nat × TagState) => match p.2 with | .quarantined _ => true | _ => false)).length

/-- An ERR register, by its offset in the block (Table 19-7). -/
def State.errReg (s : State) (o : Nat) : Nat :=
  let e := s.err
  let n := s.host.tags.length
  let q := s.host.quarantined
  if o = 0x00 then e.summary
  else if o = 0x04 then e.violNext0
  else if o = 0x08 then e.stopped.toNat
  else if o = 0x0C then (1024 - n) + (n - q) * 65536
  else if o = 0x10 then q
  else if o = 0x14 then e.hostNext.toNat
  else if o = 0x18 then e.auditSeq % 65536 + b2n e.ready * 65536 + e.persistent % 1024 * 2 ^ 17
  else if o = 0x1C then e.persistCnt % 65536 + e.transientCnt % 65536 * 65536
  else if 0x40 ≤ o ∧ o < 0x60 then e.hostCnt.get ((o - 0x40) / 4)
  else if 0x100 ≤ o ∧ o < 0x500 then
    (match e.hostLog.find ((o - 0x100) / 16) with | some x => x.word (o % 16 / 4) | none => 0)
  else match regIdx o 0x1000 32 256 with
    | some k => match e.viol0.find k with
      | some r => dwordOf r.image (o % 32 / 4)
      | none => 0
    | none => 0

/-- A write of an ERR register. -/
def State.errWrite (s : State) (o z : Nat) : State :=
  if o = 0x00 then { s with err.summary := maskOf 5 (fun k => bit s.err.summary k && !bit z k) } else s

/-! ### BAR 2 (Table 21-3) -/

/-- A register of the page of instance `i`, which is not ABSENT. -/
def State.instReg (s : State) (i o : Nat) : Nat :=
  let x := s.inst i
  if o < 0x40 then (s.ring (i * 16 + o / 4)).pi.toNat
  else if o = 0x40 then x.state.code + maskOf 16 (fun q => (s.ring (i * 16 + q)).state == .error) * 16
  else if o = 0x44 then x.violKind + x.violRing * 256 + x.violCount.toNat * 65536
  else if o = 0x48 ∨ o = 0x4C then half64 x.violAddr.toNat o 0x48
  else if 0x80 ≤ o ∧ o < 0xC0 then
    match s.slot (i * 8 + (o - 0x80) / 8) with
    | some k => if o % 8 = 0 then k.values.toNat else k.seq.toNat + slotCode (some k) * 256 + k.stNum.toNat % 65536 * 65536
    | none => 0
  else 0

/-- A register of BAR 2: instance pages, then manager pages. -/
def State.bar2Reg (s : State) (off : Nat) : Nat :=
  let o := off % 0x1000
  if off < 0x200000 then
    let i := off / 0x1000
    if (s.inst i).state = .absent then 0 else s.instReg i o
  else if off < 0x208000 then if o < 0x10 then (s.ring (mgrBase + 4 * ((off - 0x200000) / 0x1000) + o / 4)).pi.toNat else 0
  else 0

/-- Octets are written into a ring's push slot (R320). -/
def State.pushWrite (s : State) (r o v be : Nat) : State :=
  let x := s.ring r
  s.setRing r { x with push := overlay x.push o (leBytes 4 (mergeBe (leAt x.push o 4) v be)) }

/-- A write of an instance's page, which is not ABSENT. -/
def State.instPageWrite (s : State) (i o v be : Nat) : State :=
  let z := mergeBe 0 v be
  if o < 0x40 then
    let old := (s.ring (i * 16 + o / 4)).pi.toNat
    afterOut (execDoorbell (i * 16 + o / 4) (BitVec.ofNat 32 (mergeBe old v be)) s) s
  else if 0x80 ≤ o ∧ o < 0xC0 then
    let k := (o - 0x80) / 8
    if o % 8 = 0 then
      let old := ((s.slot (i * 8 + k)).map (fun x => x.staged.toNat)).getD 0
      afterOut (execReflexStage i k (BitVec.ofNat 32 (mergeBe old v be)) s) s
    else afterOut (execReflexWrite i k none (BitVec.ofNat 32 z) s) s
  else if 0x100 ≤ o ∧ o < 0x500 then s.pushWrite (i * 16 + (o - 0x100) / 64) (o % 64) v be
  else if o = 0x800 then afterOut (execWatchAck i (BitVec.ofNat 32 z) s) s
  else s

/-- A write of BAR 2 (R316, R317). -/
def State.bar2Write (s : State) (off v be : Nat) : State :=
  let o := off % 0x1000
  if off < 0x200000 then
    let i := off / 0x1000
    if (s.inst i).state = .absent then s.violPf0 2 i off else s.instPageWrite i o v be
  else if off < 0x208000 then
    let r := mgrBase + 4 * ((off - 0x200000) / 0x1000)
    if o < 0x10 then
      afterOut (execDoorbell (r + o / 4) (BitVec.ofNat 32 (mergeBe (s.ring (r + o / 4)).pi.toNat v be)) s) s
    else if 0x100 ≤ o ∧ o < 0x200 then s.pushWrite (r + (o - 0x100) / 64) (o % 64) v be
    else s
  else s

/-! ### PF 1 BAR 0 (Table 21-4) -/

/-- A register of PF 1 BAR 0; SMBOX_DATA is read by `State.smboxRead`. -/
def State.pf1Reg (s : State) (o : Nat) : Nat :=
  let x := s.ring secRing
  let c := s.ciph
  if o < 0x40 then if o % 16 = 4 then (s.smbox (o / 16)).status (decide (2 ≤ o / 16)) else 0
  else if o = 0x80 then s.binnacleReg
  else if o = 0x100 then c.lode.code + b2n c.enrolment.isSome * 4 + (if c.lode = .loaded then c.kcv else 0) * 256
  else if o = 0x104 then c.latched + c.present * 256
  else if 0x200 ≤ o ∧ o < 0x380 then
    if s.inRun 3 then dwordOf (s.boot.meas.getD ((o - 0x200) / 48) []) ((o - 0x200) % 48 / 4) else 0
  else if o = 0x1000 ∨ o = 0x1004 then half64 x.base o 0x1000
  else if o = 0x1008 then x.cfgWord s.dechan.secEnable
  else if o = 0x100C then x.pi.toNat
  else if o = 0x1010 then x.statusWord
  else if 0x2000 ≤ o ∧ o < 0x2100 then (s.msixEntry .pf1 ((o - 0x2000) / 16)).word (o % 16 / 4)
  else if 0x3000 ≤ o ∧ o < 0x3008 then s.pbaWord .pf1 0 ((o - 0x3000) / 4)
  else match regIdx o 0x8000 32 256 with
    | some k => match s.err.viol1.find k with
      | some r => dwordOf r.image (o % 32 / 4)
      | none => 0
    | none => 0

/-- A write of PF 1 BAR 0. -/
def State.pf1Write (s : State) (o v z : Nat) : State :=
  let on := s.dechan.secEnable
  if o < 0x40 then
    if o % 16 = 0 then s.smboxWrite (o / 16) (BitVec.ofNat 32 z)
    else if o % 16 = 4 then { s with dechan.smbox := s.dechan.smbox.set (o / 16) ((s.smbox (o / 16)).setStatus v z) }
    else s
  else if o = 0x1000 then s.baseWrite secRing on false v
  else if o = 0x1004 then s.baseWrite secRing on true v
  else if o = 0x1008 then afterOut (execSecRingEnable (BitVec.ofNat 32 v) s) s
  else if o = 0x100C then afterOut (execSecRingDoorbell (BitVec.ofNat 32 v) s) s
  else if 0x2000 ≤ o ∧ o < 0x2100 then s.msixWrite .pf1 ((o - 0x2000) / 16) (o % 16 / 4) v
  else s

end Sys2Proof.Machine
end

