-- ==== Sys2Proof/Machine/Register.lean ====
section
/-!
DEFINITION. Machine/Register.lean: the host's reads and writes of the register spaces (R5 to R10, R294, R295, R478, R479, chapter
21). A write of a register that has a row of its own is carried out as that row says.
-/

set_option Elab.async false
namespace Sys2Proof.Machine

open Sys2Proof

/-! ### What a register holds -/

/-- A register of PF 0 BAR 0 by its offset, while its block's domain is in Run; reserved offsets read zero (R8, Table 21-2). -/
def State.bar0Reg (s : State) (off : Nat) : Nat :=
  let o := off % 65536
  match off / 65536 with
  | 0 => manifestReg o
  | 1 => s.globalReg o
  | 2 => s.evtReg o
  | 3 => s.mboxReg o
  | 4 => match macSet off with
    | some (p, b) => (s.mac p).reg (isRing p) (off - b)
    | none => 0
  | 5 => match macSet off with
    | some (p, b) => (s.mac p).reg (isRing p) (off - b)
    | none => s.ringReg o
  | 6 => s.timeReg o
  | 7 => if o < 0x1000 then s.almReg o else s.reflexReg o
  | 8 => s.flowBlockReg o
  | 9 => s.ciphReg o
  | 10 => s.schedReg o
  | 11 => s.memReg o
  | 12 => if o < 0x8000 then s.winReg o else s.recReg (o - 0x8000)
  | 13 => s.helmReg o
  | 14 => s.pwrReg o
  | 15 => s.errReg o
  | _ => 0

/-- Key of a register in `State.snap`: BAR 0 of PF 0 at its offset, BAR 2 above it. -/
def snapKey (bar off : Nat) : Nat := if bar = 2 then 2 ^ 20 + off else off

/-- The registers that a read of an RS register snapshots, as offsets in the same BAR (R5, R6). -/
def rsPartners (bar off : Nat) : List Nat :=
  if bar = 2 then
    let o := off % 0x1000
    if off < 0x200000 ∧ (o = 0x48 ∨ (0x80 ≤ o ∧ o < 0xC0 ∧ o % 8 = 0)) then [off + 4] else []
  else
    match macSet off with
    | some (_, b) =>
      let o := off - b
      if o = 0x208 ∨ o = 0x210 ∨ (0x400 ≤ o ∧ o < 0x600 ∧ o % 8 = 0) then [off + 4] else []
    | none =>
      if off = 0x60000 then [0x60004, 0x60008, 0x6000C]
      else if off = 0x80034 then [0x80038, 0x8003C]
      else if off = 0xC8010 then [0xC8014, 0xC8018]
      else if off ∈ [0x50010, 0x60010, 0x60018, 0x60028, 0x80010, 0x80018, 0x80020, 0x80028, 0x84010, 0xF000C, 0xF0018] then [off + 4]
      else if 0x70100 ≤ off ∧ off < 0x70300 ∧ off % 32 = 0 then [off + 4]
      else []

/-- What a register of PF 0 holds now. -/
def State.pf0Reg (s : State) (bar off : Nat) : Nat := if bar = 2 then s.bar2Reg off else s.bar0Reg off

/-- What a read of a register of PF 0 returns: its snapshot if one has been taken, else what it holds; an RS register is never
snapshotted itself, and its read takes the snapshots that its description names (R6, log entry 54). -/
def State.pf0Read (s : State) (bar off : Nat) : Nat × State :=
  let v := ((s.snap.find (snapKey bar off)).map (·.toNat)).getD (s.pf0Reg bar off)
  let snap := (rsPartners bar off).foldl (fun m p => KMap.put m (snapKey bar p) (BitVec.ofNat 32 (s.pf0Reg bar p))) s.snap
  (v, { s with snap := snap })

/-- Registers whose value holds a free part: a read of one takes the free value it shows. -/
def freeReg (bar off : Nat) : Bool := bar == 0 && (off == 0x80030 || off == 0xB0234)

/-! ### Reads -/

/-- A read of a dword of PF 0 BAR 0 (R294, R295, R361): its value, or none where it is aborted. -/
def State.readBar0 (s : State) (o : Nat) : Option Nat × State :=
  if (match blockDomain o with | some d => !s.inRun d | none => false) then (some 0, { s with err.stopped := s.err.stopped + 1 })
  else if o / 65536 = 13 ∧ !s.dbgOpen then (none, s.violPf0 5 0 o)
  else if 0x30040 ≤ o ∧ o < 0x30080 ∧ o % 16 = 0 then
    let r := s.mboxRead ((o - 0x30000) / 16)
    (some r.1.toNat, r.2)
  else
    let r := s.pf0Read 0 o
    (some r.1, if freeReg 0 o then r.2.draw.2 else r.2)

/-- A read of a dword of a BAR. -/
def State.readDw (s : State) (fn : Fn) (bar o : Nat) : Option Nat × State :=
  match fn with
  | .pf0 =>
    if bar = 0 then s.readBar0 o
    else
      let r := s.pf0Read 2 o
      (some r.1, r.2)
  | .pf1 =>
    if o = 0x20 ∨ o = 0x30 then
      let r := s.smboxRead (o / 16)
      (some r.1.toNat, r.2)
    else (some (s.pf1Reg o), s)

/-- Octets of a function's BAR; none where it has no such BAR of registers (Table 12-1). -/
def barSize (fn : Fn) (bar : Nat) : Nat :=
  match fn with
  | .pf0 => if bar = 0 then 2 ^ 20 else if bar = 2 then 2 ^ 22 else 0
  | .pf1 => if bar = 0 then 2 ^ 16 else 0

/-- A read that the block it falls in refuses is completed with Completer Abort; others with their dwords. -/
def State.readEnd (s : State) (fn : Fn) (vs : List (Option Nat)) : State :=
  if vs.contains none then (s.aer fn .completerAbort).emit (.cpl .ca [])
  else s.emit (.cpl .sc (vs.flatMap (fun v => leBytes 4 (v.getD 0))))

/-- REGISTER_READ (R6, R294, R295): the dword that holds `off`, with `two` the two dwords of the naturally aligned pair from it. -/
def execRegisterRead (fn : Fn) (bar : Nat) (off : ReadDws) (s : State) : Out :=
  let o := off.off / 4 * 4
  if !s.linkReady || decide (barSize fn bar ≤ o) then .next s
  else if off.two then
    if o % 8 ≠ 0 then .next (s.badAccess fn bar o 8 false)
    else
      let a := s.readDw fn bar o
      let b := a.2.readDw fn bar (o + 4)
      .next (b.2.readEnd fn [a.1, b.1])
  else
    let a := s.readDw fn bar o
    .next (a.2.readEnd fn [a.1])

/-! ### Writes -/

/-- What a register holds, without the SC bits that are set while an action runs: a write merges its octets with this. -/
def State.mergeReg (s : State) (off : Nat) : Nat :=
  let v := s.bar0Reg off
  match macSet off with
  | some (_, b) => if off - b = 0x100 then v - b2n (bit v 24) * 2 ^ 24 else v
  | none => if off = 0x80418 ∨ off = 0xC0100 then v % 2 ^ 31 else v

/-- A write of a register of PF 0 BAR 0 whose block's domain is in Run: `v` merged with what the register holds, `z` with zeros for
the octets not enabled (R10, R294). Read-only registers and reserved offsets ignore it. -/
def State.bar0Write (s : State) (off v z : Nat) : State :=
  let o := off % 65536
  match off / 65536 with
  | 1 => s.globalWrite o v z
  | 2 => s.evtWrite o v z
  | 3 => s.mboxRegWrite o v z
  | 4 => match macSet off with
    | some (p, b) => s.macWrite p (off - b) v z
    | none => s
  | 5 => match macSet off with
    | some (p, b) => s.macWrite p (off - b) v z
    | none => s
  | 6 => s.timeWrite o z
  | 7 => s.almWrite o v z
  | 8 => s.flowBlockWrite o v z
  | 9 => s.ciphWrite o z
  | 10 => s.schedWrite o v
  | 11 => s.memWrite o v z
  | 12 => if o < 0x8000 then s.winWrite o v z else s
  | 13 => s.helmWrite o v z
  | 14 => s.pwrWrite o v z
  | 15 => s.errWrite o z
  | _ => s

/-- A write of PF 0 BAR 0, by the block it falls in (R295). -/
def State.writeBar0 (s : State) (o v be : Nat) : State :=
  let act (s : State) : State := s.bar0Write o (mergeBe (s.mergeReg o) v be) (mergeBe 0 v be)
  match blockDomain o with
  | none => act s
  | some d => if d = 4 then s.dbgWrite o act else s.inBlock d act

/-- A write of a dword of a BAR. -/
def State.writeDw (s : State) (fn : Fn) (bar o v be : Nat) : State :=
  match fn with
  | .pf0 => if bar = 0 then s.writeBar0 o v be else s.bar2Write o v be
  | .pf1 => s.pf1Write o (mergeBe (s.pf1Reg o) v be) (mergeBe 0 v be)

/-- The later dwords of one write, in ascending address order. -/
def State.writeMore (s : State) (fn : Fn) (bar : Nat) : Nat → List (W32 × Nat) → State
  | _, [] => s
  | o, m :: ms => (s.writeDw fn bar o m.1.toNat m.2).writeMore fn bar (o + 4) ms

/-- REGISTER_WRITE (R8 to R10, R294, R295): the dword that holds `off`, with the byte enables `be`, and the dwords that follow it in
the same request. -/
def execRegisterWrite (fn : Fn) (bar off : Nat) (value : W32) (be : WriteDws) (s : State) : Out :=
  let o := off / 4 * 4
  let len := 4 * (be.more.length + 1)
  if !s.linkReady || decide (barSize fn bar ≤ o) then .next s
  else if !accessOk bar o len true then .next (s.badAccess fn bar o len true)
  else .next ((s.writeDw fn bar o value.toNat be.be).writeMore fn bar (o + 4) be.more)

end Sys2Proof.Machine
end

