-- ==== Sys2Proof/Machine/Dispatch.lean ====
section
/-!
DEFINITION. Machine/Dispatch.lean: the command's effect, one meaning per row of the opcode table.
-/
namespace Sys2Proof.Machine

open Sys2Proof

/-- The effect of one command on everything but the queue. -/
def exec (i : Instr) (s : State) : Host.Outcome State Fault Refusal :=
  match i with
  | .tableTransferStart value => Sys2Proof.Machine.execTableTransferStart value s
  | .tableTransferDone data => Sys2Proof.Machine.execTableTransferDone data s
  | .exceptionFrame => Sys2Proof.Machine.execExceptionFrame s
  | .keyDeriveDone handle => Sys2Proof.Machine.execKeyDeriveDone handle s
  | .keyUnwrapDone handle => Sys2Proof.Machine.execKeyUnwrapDone handle s
  | .cipherSuspend => Sys2Proof.Machine.execCipherSuspend s
  | .cipherResume => Sys2Proof.Machine.execCipherResume s
  | .ciphSaRebuildDone => Sys2Proof.Machine.execCiphSaRebuildDone s
  | .rawLockTake thread lane => Sys2Proof.Machine.execRawLockTake thread lane s
  | .rawLaneGo thread lane load block decrypt => Sys2Proof.Machine.execRawLaneGo thread lane load block decrypt s
  | .rawLockRelease thread lane => Sys2Proof.Machine.execRawLockRelease thread lane s
  | .rawHoldExpiry lane => Sys2Proof.Machine.execRawHoldExpiry lane s
  | .ctxCreate c => Sys2Proof.Machine.execCtxCreate c s
  | .ctxRekey c => Sys2Proof.Machine.execCtxRekey c s
  | .ctxDestroy c => Sys2Proof.Machine.execCtxDestroy c s
  | .ctxQuery c => Sys2Proof.Machine.execCtxQuery c s
  | .secLodestarLoad c => Sys2Proof.Machine.execSecLodestarLoad c s
  | .secAlarmClear c => Sys2Proof.Machine.execSecAlarmClear c s
  | .clsBankConfig c => Sys2Proof.Machine.execClsBankConfig c s
  | .clsInsert c => Sys2Proof.Machine.execClsInsert c s
  | .clsBlockMoveDone bank => Sys2Proof.Machine.execClsBlockMoveDone bank s
  | .clsDelete c => Sys2Proof.Machine.execClsDelete c s
  | .clsQuery c => Sys2Proof.Machine.execClsQuery c s
  | .clsChartCheck c chart => Sys2Proof.Machine.execClsChartCheck c chart s
  | .clsChartRecheck position line => Sys2Proof.Machine.execClsChartRecheck position line s
  | .clsChartCheckDone => Sys2Proof.Machine.execClsChartCheckDone s
  | .railGood rail => Sys2Proof.Machine.execRailGood rail s
  | .railLost rail => Sys2Proof.Machine.execRailLost rail s
  | .binnacleBoot failed => Sys2Proof.Machine.execBinnacleBoot failed s
  | .perstDeassert => Sys2Proof.Machine.execPerstDeassert s
  | .warmReset => Sys2Proof.Machine.execWarmReset s
  | .flr fn => Sys2Proof.Machine.execFlr fn s
  | .configRequest fn off wr => Sys2Proof.Machine.execConfigRequest fn off wr s
  | .pcieLinkDown => Sys2Proof.Machine.execPcieLinkDown s
  | .pcieLinkUp => Sys2Proof.Machine.execPcieLinkUp s
  | .hostLostGraceExpiry => Sys2Proof.Machine.execHostLostGraceExpiry s
  | .hostResumeExpiry => Sys2Proof.Machine.execHostResumeExpiry s
  | .pmeTurnOff => Sys2Proof.Machine.execPmeTurnOff s
  | .pllLockLoss system => Sys2Proof.Machine.execPllLockLoss system s
  | .uncorrectableInternalError fn => Sys2Proof.Machine.execUncorrectableInternalError fn s
  | .alarmTrip source present => Sys2Proof.Machine.execAlarmTrip source present s
  | .droopTrip bank => Sys2Proof.Machine.execDroopTrip bank s
  | .wakeSource source => Sys2Proof.Machine.execWakeSource source s
  | .pwrWake target => Sys2Proof.Machine.execPwrWake target s
  | .domainStopEntry d => Sys2Proof.Machine.execDomainStopEntry d s
  | .domainStopSeal d => Sys2Proof.Machine.execDomainStopSeal d s
  | .domainStart d => Sys2Proof.Machine.execDomainStart d s
  | .scrubPassEnd ce ue => Sys2Proof.Machine.execScrubPassEnd ce ue s
  | .dramPanic client up postponed => Sys2Proof.Machine.execDramPanic client up postponed s
  | .pwrVote c => Sys2Proof.Machine.execPwrVote c s
  | .pwrQuery c => Sys2Proof.Machine.execPwrQuery c s
  | .devWakeReport c => Sys2Proof.Machine.execDevWakeReport c s
  | .linkVoteRelease => Sys2Proof.Machine.execLinkVoteRelease s
  | .barBadAccess fn off len write => Sys2Proof.Machine.execBarBadAccess fn off len write s
  | .hostUnsupportedRequest fn posted => Sys2Proof.Machine.execHostUnsupportedRequest fn posted s
  | .peerRequest q => Sys2Proof.Machine.execPeerRequest q s
  | .winCommit window => Sys2Proof.Machine.execWinCommit window s
  | .winChangeDone => Sys2Proof.Machine.execWinChangeDone s
  | .hostCompletionRx tag completer fn status body last => Sys2Proof.Machine.execHostCompletionRx tag completer fn status body last s
  | .completionTimeout tag => Sys2Proof.Machine.execCompletionTimeout tag s
  | .tagQuarantineEnd tag => Sys2Proof.Machine.execTagQuarantineEnd tag s
  | .atsInvalidate page pasid => Sys2Proof.Machine.execAtsInvalidate page pasid s
  | .msixUnmask fn vec => Sys2Proof.Machine.execMsixUnmask fn vec s
  | .doorbell ring value => Sys2Proof.Machine.execDoorbell ring value s
  | .descriptorFetch ring => Sys2Proof.Machine.execDescriptorFetch ring s
  | .txDescriptor ring table frame late => Sys2Proof.Machine.execTxDescriptor ring table frame late s
  | .rxFrameDeliver ring tables => Sys2Proof.Machine.execRxFrameDeliver ring tables s
  | .registration inst table => Sys2Proof.Machine.execRegistration inst table s
  | .taggedCompletionResume ring => Sys2Proof.Machine.execTaggedCompletionResume ring s
  | .eventsLost inst => Sys2Proof.Machine.execEventsLost inst s
  | .intHoldoffExpiry ring => Sys2Proof.Machine.execIntHoldoffExpiry ring s
  | .instCreate c b => Sys2Proof.Machine.execInstCreate c b s
  | .queueConfig c => Sys2Proof.Machine.execQueueConfig c s
  | .queueEnable c => Sys2Proof.Machine.execQueueEnable c s
  | .queueDrain c => Sys2Proof.Machine.execQueueDrain c s
  | .ringStopped ring => Sys2Proof.Machine.execRingStopped ring s
  | .queueDisable c => Sys2Proof.Machine.execQueueDisable c s
  | .queueSetMode c => Sys2Proof.Machine.execQueueSetMode c s
  | .queueQuery c => Sys2Proof.Machine.execQueueQuery c s
  | .instEnable c => Sys2Proof.Machine.execInstEnable c s
  | .instQuiesce c => Sys2Proof.Machine.execInstQuiesce c s
  | .instQuiesceDone inst => Sys2Proof.Machine.execInstQuiesceDone inst s
  | .instQuiesceTimeout inst => Sys2Proof.Machine.execInstQuiesceTimeout inst s
  | .instFreeze c => Sys2Proof.Machine.execInstFreeze c s
  | .instResume c => Sys2Proof.Machine.execInstResume c s
  | .instReset c => Sys2Proof.Machine.execInstReset c s
  | .instDestroy c b => Sys2Proof.Machine.execInstDestroy c b s
  | .secRingDoorbell value => Sys2Proof.Machine.execSecRingDoorbell value s
  | .secRingEnable value => Sys2Proof.Machine.execSecRingEnable value s
  | .mring0Enable value => Sys2Proof.Machine.execMring0Enable value s
  | .mring0Disable value => Sys2Proof.Machine.execMring0Disable value s
  | .mboxWrite n w => Sys2Proof.Machine.execMboxWrite n w s
  | .mboxTake n => Sys2Proof.Machine.execMboxTake n s
  | .mboxLivenessReply => Sys2Proof.Machine.execMboxLivenessReply s
  | .smboxWrite n w => Sys2Proof.Machine.execSmboxWrite n w s
  | .smboxTake n => Sys2Proof.Machine.execSmboxTake n s
  | .smboxReply => Sys2Proof.Machine.execSmboxReply s
  | .binnacleStatePost => Sys2Proof.Machine.execBinnacleStatePost s
  | .boundsWrite ring idx b => Sys2Proof.Machine.execBoundsWrite ring idx b s
  | .boundsClear ring idx b => Sys2Proof.Machine.execBoundsClear ring idx b s
  | .powerVote ring idx b => Sys2Proof.Machine.execPowerVote ring idx b s
  | .keyTransferWrap ring idx b handle => Sys2Proof.Machine.execKeyTransferWrap ring idx b handle s
  | .helmReady => Sys2Proof.Machine.execHelmReady s
  | .unsupportedOpcode opcode c => Sys2Proof.Machine.execUnsupportedOpcode opcode c s
  | .dirtyLogStart c => Sys2Proof.Machine.execDirtyLogStart c s
  | .dirtyLogHarvest c => Sys2Proof.Machine.execDirtyLogHarvest c s
  | .dirtyLogStop c => Sys2Proof.Machine.execDirtyLogStop c s
  | .waypointSave c => Sys2Proof.Machine.execWaypointSave c s
  | .waypointRestore c b => Sys2Proof.Machine.execWaypointRestore c b s
  | .secTransferKeyArm c => Sys2Proof.Machine.execSecTransferKeyArm c s
  | .secTransferKeyDisarm c => Sys2Proof.Machine.execSecTransferKeyDisarm c s
  | .transferKeyExpiry => Sys2Proof.Machine.execTransferKeyExpiry s
  | .imageLoad => Sys2Proof.Machine.execImageLoad s
  | .imageLoadReuse => Sys2Proof.Machine.execImageLoadReuse s
  | .imageLoadDone image => Sys2Proof.Machine.execImageLoadDone image s
  | .secMeasureRead c => Sys2Proof.Machine.execSecMeasureRead c s
  | .secMeasureRecheck c => Sys2Proof.Machine.execSecMeasureRecheck c s
  | .helmReadyTimeout => Sys2Proof.Machine.execHelmReadyTimeout s
  | .helmClockSwitch core => Sys2Proof.Machine.execHelmClockSwitch core s
  | .devQuery c => Sys2Proof.Machine.execDevQuery c s
  | .devConfigure c => Sys2Proof.Machine.execDevConfigure c s
  | .devResetUnit c => Sys2Proof.Machine.execDevResetUnit c s
  | .devHoveToEnter c => Sys2Proof.Machine.execDevHoveToEnter c s
  | .devHoveToLeave c => Sys2Proof.Machine.execDevHoveToLeave c s
  | .devHoveToStatus c => Sys2Proof.Machine.execDevHoveToStatus c s
  | .devLedgerAudit c => Sys2Proof.Machine.execDevLedgerAudit c s
  | .ledgerPicture => Sys2Proof.Machine.execLedgerPicture s
  | .diagSnapshotRead c => Sys2Proof.Machine.execDiagSnapshotRead c s
  | .diagSnapshotTake c => Sys2Proof.Machine.execDiagSnapshotTake c s
  | .diagLoopback c => Sys2Proof.Machine.execDiagLoopback c s
  | .diagInject c => Sys2Proof.Machine.execDiagInject c s
  | .evtEnableWrite value => Sys2Proof.Machine.execEvtEnableWrite value s
  | .smbusRead command word => Sys2Proof.Machine.execSmbusRead command word s
  | .smbusAlertResponse => Sys2Proof.Machine.execSmbusAlertResponse s
  | .smbAlert temp => Sys2Proof.Machine.execSmbAlert temp s
  | .registerWrite fn bar off value be => Sys2Proof.Machine.execRegisterWrite fn bar off value be s
  | .registerRead fn bar off => Sys2Proof.Machine.execRegisterRead fn bar off s
  | .flowInsert c => Sys2Proof.Machine.execFlowInsert c s
  | .flowWrite c => Sys2Proof.Machine.execFlowWrite c s
  | .flowDelete c => Sys2Proof.Machine.execFlowDelete c s
  | .flowQuery c => Sys2Proof.Machine.execFlowQuery c s
  | .flowSwing c => Sys2Proof.Machine.execFlowSwing c s
  | .flowSwingStall => Sys2Proof.Machine.execFlowSwingStall s
  | .flowSwingComplete => Sys2Proof.Machine.execFlowSwingComplete s
  | .flowChartCheck c chart => Sys2Proof.Machine.execFlowChartCheck c chart s
  | .flowChartRecheck handle line => Sys2Proof.Machine.execFlowChartRecheck handle line s
  | .flowChartCheckDone => Sys2Proof.Machine.execFlowChartCheckDone s
  | .flowReloadBank c => Sys2Proof.Machine.execFlowReloadBank c s
  | .flowReloadDone lines => Sys2Proof.Machine.execFlowReloadDone lines s
  | .flowWakeScanDone => Sys2Proof.Machine.execFlowWakeScanDone s
  | .flowAgingSweep => Sys2Proof.Machine.execFlowAgingSweep s
  | .flowProfCommit value => Sys2Proof.Machine.execFlowProfCommit value s
  | .flowMsTick => Sys2Proof.Machine.execFlowMsTick s
  | .ringAutoAttemptExpiry port => Sys2Proof.Machine.execRingAutoAttemptExpiry port s
  | .ringLockLossTimeout port => Sys2Proof.Machine.execRingLockLossTimeout port s
  | .portLinkChange port up => Sys2Proof.Machine.execPortLinkChange port up s
  | .ringFrameRx port frame info => Sys2Proof.Machine.execRingFrameRx port frame info s
  | .interlinkTx => Sys2Proof.Machine.execInterlinkTx s
  | .nodeEntryForget addr => Sys2Proof.Machine.execNodeEntryForget addr s
  | .proxyEntryExpiry addr => Sys2Proof.Machine.execProxyEntryExpiry addr s
  | .prpSeqCounterRelease addr => Sys2Proof.Machine.execPrpSeqCounterRelease addr s
  | .supervisionTx addr => Sys2Proof.Machine.execSupervisionTx addr s
  | .preemptVerifyTx port => Sys2Proof.Machine.execPreemptVerifyTx port s
  | .ringEgressSelect port sent => Sys2Proof.Machine.execRingEgressSelect port sent s
  | .portFrameRx port frame info => Sys2Proof.Machine.execPortFrameRx port frame info s
  | .pauseFrameRx port quanta => Sys2Proof.Machine.execPauseFrameRx port quanta s
  | .pauseWdTrip port => Sys2Proof.Machine.execPauseWdTrip port s
  | .pauseWdRecover port => Sys2Proof.Machine.execPauseWdRecover port s
  | .txUnderrun port => Sys2Proof.Machine.execTxUnderrun port s
  | .macCtrlWrite port value => Sys2Proof.Machine.execMacCtrlWrite port value s
  | .macFiltCommit port n value => Sys2Proof.Machine.execMacFiltCommit port n value s
  | .macStatClear port value => Sys2Proof.Machine.execMacStatClear port value s
  | .modTransactionStart port value => Sys2Proof.Machine.execModTransactionStart port value s
  | .modTransactionDone port result n data => Sys2Proof.Machine.execModTransactionDone port result n data s
  | .modulePinChange port present intLos fault => Sys2Proof.Machine.execModulePinChange port present intLos fault s
  | .ringConfig c => Sys2Proof.Machine.execRingConfig c s
  | .svFrameIngest => Sys2Proof.Machine.execSvFrameIngest s
  | .almRowOpen alm => Sys2Proof.Machine.execAlmRowOpen alm s
  | .almRowSeal alm => Sys2Proof.Machine.execAlmRowSeal alm s
  | .watchAck inst value => Sys2Proof.Machine.execWatchAck inst value s
  | .svSubscribe c => Sys2Proof.Machine.execSvSubscribe c s
  | .svUnsubscribe c => Sys2Proof.Machine.execSvUnsubscribe c s
  | .almCreate c => Sys2Proof.Machine.execAlmCreate c s
  | .almDestroy c => Sys2Proof.Machine.execAlmDestroy c s
  | .almWatch c => Sys2Proof.Machine.execAlmWatch c s
  | .almClrIngestMax value => Sys2Proof.Machine.execAlmClrIngestMax value s
  | .reflexStage inst slot lo => Sys2Proof.Machine.execReflexStage inst slot lo s
  | .reflexWrite inst slot lo hi => Sys2Proof.Machine.execReflexWrite inst slot lo hi s
  | .reflexHeldRelease inst slot => Sys2Proof.Machine.execReflexHeldRelease inst slot s
  | .reflexRetransmit inst slot => Sys2Proof.Machine.execReflexRetransmit inst slot s
  | .reflexLoad c => Sys2Proof.Machine.execReflexLoad c s
  | .reflexArm c => Sys2Proof.Machine.execReflexArm c s
  | .reflexDisarm c => Sys2Proof.Machine.execReflexDisarm c s
  | .reflexClrMax value => Sys2Proof.Machine.execReflexClrMax value s
  | .gooseFrameRx => Sys2Proof.Machine.execGooseFrameRx s
  | .gooseExpired cb => Sys2Proof.Machine.execGooseExpired cb s
  | .gooseSubscribe c => Sys2Proof.Machine.execGooseSubscribe c s
  | .recWriter => Sys2Proof.Machine.execRecWriter s
  | .recEventClose => Sys2Proof.Machine.execRecEventClose s
  | .recConfig c => Sys2Proof.Machine.execRecConfig c s
  | .recTrigger c => Sys2Proof.Machine.execRecTrigger c s
  | .recExportAttach c => Sys2Proof.Machine.execRecExportAttach c s
  | .recExportDetach c => Sys2Proof.Machine.execRecExportDetach c s
  | .recExportExport c => Sys2Proof.Machine.execRecExportExport c s
  | .recExportRelease c => Sys2Proof.Machine.execRecExportRelease c s
  | .nvmeCompletion => Sys2Proof.Machine.execNvmeCompletion s
  | .nvmeCmdTimeout => Sys2Proof.Machine.execNvmeCmdTimeout s
  | .nvmetConnect c => Sys2Proof.Machine.execNvmetConnect c s
  | .nvmetConnectResync c => Sys2Proof.Machine.execNvmetConnectResync c s
  | .nvmetClose c => Sys2Proof.Machine.execNvmetClose c s
  | .instSetShare c => Sys2Proof.Machine.execInstSetShare c s
  | .schedNodeConfig c => Sys2Proof.Machine.execSchedNodeConfig c s
  | .schedMeterProfile c => Sys2Proof.Machine.execSchedMeterProfile c s
  | .schedMeterAssign c => Sys2Proof.Machine.execSchedMeterAssign c s
  | .schedMeterRead c => Sys2Proof.Machine.execSchedMeterRead c s
  | .schedSoundingConfig c => Sys2Proof.Machine.execSchedSoundingConfig c s
  | .schedRefill => Sys2Proof.Machine.execSchedRefill s
  | .schedSelect port => Sys2Proof.Machine.execSchedSelect port s
  | .portFrameTxEnd port => Sys2Proof.Machine.execPortFrameTxEnd port s
  | .meterRefresh => Sys2Proof.Machine.execMeterRefresh s
  | .soundingRound set => Sys2Proof.Machine.execSoundingRound set s
  | .ptpMsgRx => Sys2Proof.Machine.execPtpMsgRx s
  | .ptpSyncTx port => Sys2Proof.Machine.execPtpSyncTx port s
  | .ptpAnnounceTx port => Sys2Proof.Machine.execPtpAnnounceTx port s
  | .ptpPdelayTx => Sys2Proof.Machine.execPtpPdelayTx s
  | .announceTimeout port => Sys2Proof.Machine.execAnnounceTimeout port s
  | .ringPdelayTx => Sys2Proof.Machine.execRingPdelayTx s
  | .tcPendingExpiry => Sys2Proof.Machine.execTcPendingExpiry s
  | .ppsEdge => Sys2Proof.Machine.execPpsEdge s
  | .ppsLoss => Sys2Proof.Machine.execPpsLoss s
  | .irigFrame frame => Sys2Proof.Machine.execIrigFrame frame s
  | .irigLoss => Sys2Proof.Machine.execIrigLoss s
  | .ppsOutPulse => Sys2Proof.Machine.execPpsOutPulse s
  | .servoUpdate incr filtered => Sys2Proof.Machine.execServoUpdate incr filtered s
  | .servoWatchdog => Sys2Proof.Machine.execServoWatchdog s
  | .timeConfig c => Sys2Proof.Machine.execTimeConfig c s
  | .timeSet c => Sys2Proof.Machine.execTimeSet c s
  | .timeSetPpsTimeout => Sys2Proof.Machine.execTimeSetPpsTimeout s
  | .timeQuery c => Sys2Proof.Machine.execTimeQuery c s
  | .ownSeenTimeout port => Sys2Proof.Machine.execOwnSeenTimeout port s
  | .ringPllLockLoss => Sys2Proof.Machine.execRingPllLockLoss s
  | .fork thread op => Sys2Proof.Machine.execFork thread op s
  | .exit thread op => Sys2Proof.Machine.execExit thread op s
  | .join thread op => Sys2Proof.Machine.execJoin thread op s
  | .wait thread op => Sys2Proof.Machine.execWait thread op s
  | .signal thread op => Sys2Proof.Machine.execSignal thread op s
  | .evmap thread op => Sys2Proof.Machine.execEvmap thread op s
  | .timer thread op => Sys2Proof.Machine.execTimer thread op s
  | .settrap thread op => Sys2Proof.Machine.execSettrap thread op s
  | .chstage thread op => Sys2Proof.Machine.execChstage thread op s
  | .chcommit thread op => Sys2Proof.Machine.execChcommit thread op s
  | .chrecv thread op => Sys2Proof.Machine.execChrecv thread op s
  | .thrctlResume thread op => Sys2Proof.Machine.execThrctlResume thread op s
  | .thrctlKill thread op => Sys2Proof.Machine.execThrctlKill thread op s
  | .chcfg thread op => Sys2Proof.Machine.execChcfg thread op s
  | .class_ thread op => Sys2Proof.Machine.execClass_ thread op s
  | .break_ thread op => Sys2Proof.Machine.execBreak_ thread op s
  | .loadStore thread word what => Sys2Proof.Machine.execLoadStore thread word what s
  | .helmTimerFire thread => Sys2Proof.Machine.execHelmTimerFire thread s
  | .supervisorFaultTimeout => Sys2Proof.Machine.execSupervisorFaultTimeout s
  | .becalmedDetect => Sys2Proof.Machine.execBecalmedDetect s
  | .helmRestart => Sys2Proof.Machine.execHelmRestart s
  | .helmDbgHalt => Sys2Proof.Machine.execHelmDbgHalt s
  | .helmDbgResume => Sys2Proof.Machine.execHelmDbgResume s
  | .helmDbgStep => Sys2Proof.Machine.execHelmDbgStep s
  | .helmDbgKill => Sys2Proof.Machine.execHelmDbgKill s
  | .helmDbgRegWrite k value => Sys2Proof.Machine.execHelmDbgRegWrite k value s
  | .debugGrantEnd => Sys2Proof.Machine.execDebugGrantEnd s
  | .moverLockTake thread mover => Sys2Proof.Machine.execMoverLockTake thread mover s
  | .moverGo thread mover words word => Sys2Proof.Machine.execMoverGo thread mover words word s
  | .moverPromote mover => Sys2Proof.Machine.execMoverPromote mover s
  | .moverTransferEnd mover src dst => Sys2Proof.Machine.execMoverTransferEnd mover src dst s
  | .moverErrAck thread mover word => Sys2Proof.Machine.execMoverErrAck thread mover word s
  | .moverRelease thread mover => Sys2Proof.Machine.execMoverRelease thread mover s
  | .secDebugChallenge c => Sys2Proof.Machine.execSecDebugChallenge c s
  | .secDebugGrant c => Sys2Proof.Machine.execSecDebugGrant c s
  | .secDebugRevoke c => Sys2Proof.Machine.execSecDebugRevoke c s
  | .boundGrowth => Sys2Proof.Machine.execBoundGrowth s

end Sys2Proof.Machine
end

