-- ==== Sys2Proof/Safety.lean ====
section
/-!
DEFINITION. Safety.lean: the words that claims about the adapter are made in: that a command completes, that a Dechan
command is carried out, and the invariants of a state.
-/

set_option Elab.async false
namespace Sys2Proof.Machine

open Sys2Proof

/-- The command completes: `exec` answers a next state, and `P` holds of it. -/
def Completes (i : Instr) (s : State) (P : State → Prop) : Prop := ∃ t, exec i s = .next t ∧ P t

/-! ### A Dechan command that is carried out (chapter 14) -/

/-- The read of the parameter buffer brings back octets, where the opcode reads one. -/
def State.bufferReads (s : State) (op : Op) (c : Cmd) : Bool :=
  !op.reads || c.paramLen == 0 || (match s.effRead (ringFn (cmdRing c)) c.buf with | .data _ => true | _ => false)

/-- The entry is accepted now, a tag is usable for a buffer that is read, and it passes every common check of Table 14-3. -/
def State.ready (s : State) (op : Op) (c : Cmd) : Bool :=
  s.accepts op c && !s.bufferWaits op c && (checkEntry op c).isNone && s.bufferOk op c && s.bufferReads op c && (s.degraded op c).isNone &&
    (s.stateConflict op c).isNone

/-- The octets of the parameter buffer that the opcode's own checks and effect work on. -/
def bufferOf (op : Op) (c : Cmd) : Bytes :=
  if op.reads && c.paramLen != 0 then
    match c.buf with
    | .data b => slice b 0 c.paramLen
    | _ => []
  else []

/-- The state in which the opcode's effect takes place: the entry is accepted (R343), and the read of its parameter buffer, if it
has one, has been issued (R292, R301). -/
def State.opened (s : State) (op : Op) (c : Cmd) : State :=
  let t := s.accept op c
  let r := cmdRing c
  if op.reads && c.paramLen != 0 then
    t.emitReads (ringFn r) (t.ringPasid r) c.addr c.paramLen ((t.freeTag (ringFn r)).getD 0)
  else t

/-- The command is answered at once: `exec` answers the state of the reply `r`. -/
def Answers (i : Instr) (s : State) (op : Op) (c : Cmd) (r : Reply) : Prop := exec i s = .next (r.finish (s.acceptance op c))

/-! ### An instruction of a Helm thread (chapter 16) -/

/-- The thread issues: it exists, its core runs, it is RUNNABLE, and breakpoints are off. -/
def State.issues (s : State) (t : Nat) : Bool :=
  decide (t < 128) && s.coreRuns t && (s.thread t).state == .runnable && !s.helm.breakEn

/-- The state in which the instruction takes effect: the thread's pc has passed it. -/
def State.issued (s : State) (t : Nat) : State :=
  s.setThread t { s.thread t with skipBp := false, pc := (s.thread t).pc + 4 }

/-- What follows an instruction's effect: the end of a debugger's step, and the becalmed time (R391, R394). -/
def State.retire (s old : State) (t : Nat) : State := (s.afterStep t).calmAfter old

/-- The instruction faults, without effect (R389). -/
def State.faults (s : State) (t : Nat) (kind : HelmFault) (addr : Nat) (word : W32) : State :=
  ((s.setThread t { s.thread t with skipBp := false }).threadFault t kind addr word).retire s t

/-! ### Frames: the groups of the state that a command leaves as they were -/

/-- The frame path: tables, switching, scheduler, cipher and ports. -/
def SamePath (s t : State) : Prop :=
  t.flow = s.flow ∧ t.cls = s.cls ∧ t.sw = s.sw ∧ t.sched = s.sched ∧ t.ciph = s.ciph ∧ t.ports = s.ports

/-- The grid units: time base, almanac, reflex and recorder. -/
def SameGrid (s t : State) : Prop := t.time = s.time ∧ t.alm = s.alm ∧ t.reflex = s.reflex ∧ t.recd = s.recd

/-- Instances, their bounds and migration. -/
def SameInst (s t : State) : Prop := t.insts = s.insts ∧ t.bounds = s.bounds ∧ t.mig = s.mig

/-- Rings and command transport. -/
def SameRings (s t : State) : Prop := t.rings = s.rings ∧ t.dechan = s.dechan

/-- Power, memory system, bring-up and the module's lands. -/
def SameBoard (s t : State) : Prop := t.power = s.power ∧ t.mem = s.mem ∧ t.boot = s.boot ∧ t.module_ = s.module_

/-- The host endpoint, the error logs and the manager events. -/
def SameHost (s t : State) : Prop := t.host = s.host ∧ t.err = s.err ∧ t.evt = s.evt

/-- Helm, the DRAM octets and the clock. -/
def SameProc (s t : State) : Prop := t.helm = s.helm ∧ t.dram = s.dram ∧ t.now = s.now

end Sys2Proof.Machine
end

