-- ==== Sys2Proof/WellFormed.lean ====
section
/-!
DEFINITION. WellFormed.lean: the operands a command can carry: every number within the range of the wire, register or table that
it comes from. A command outside these ranges has no counterpart on the hardware.
-/

set_option Elab.async false
namespace Sys2Proof

/-- The ring a command stands on exists (Table 14-1). -/
def CmdRing.wf : CmdRing → Bool
  | .mgr m => decide (m < 4)
  | .inst i => decide (i < 512)
  | .sec => true

/-- A command entry holds its fields (Table 14-2): 36 octets in bytes 24 to 59, an address of 64 bits. -/
def Cmd.wf (c : Cmd) : Bool :=
  c.ring.wf && decide (c.inst < 2 ^ 16) && decide (c.paramLen < 2 ^ 32) && decide (c.handle < 2 ^ 32) &&
    decide (c.addr < 2 ^ 64) && c.data.length == 36

/-- A ring number of R315 and R317, or the model's number of the secure ring. -/
def ringWf (r : Nat) : Bool := decide (r < 8192 + 32) || r == 8224

/-- A thread, a mover, a raw lane, an instance. -/
def threadWf (t : Nat) : Bool := decide (t < 128)
def moverWf (m : Nat) : Bool := decide (m < 16)
def laneWf (n : Nat) : Bool := decide (n < 4)
def instWf (i : Nat) : Bool := decide (i < 512)

/-- A frame as a port hands it on: from a runt to the longest frame of R30, without its FCS. -/
def frameWf (b : Bytes) : Bool := decide (14 ≤ b.length) && decide (b.length ≤ 9216)

/-- What a port tells of a frame: a code of preemption, and the codewords of RS-FEC that one frame can span. -/
def RxInfo.wf (i : RxInfo) : Bool := decide (i.pmac < 4) && decide (i.fecCorr < 2 ^ 16) && decide (i.fecUncorr < 2 ^ 16)

/-- A peer's address lies within BAR 4, and its length within one transfer (R298). -/
def PeerReq.wf (q : PeerReq) : Bool := decide (q.addr < 2 ^ 34) && decide (q.rid < 2 ^ 16) && decide (q.len ≤ 4096)

/-- Time of day and date of an IRIG-B frame (R75). -/
def IrigFrame.wf (f : IrigFrame) : Bool :=
  decide (f.code < 8) && decide (f.sec < 61) && decide (f.min < 60) && decide (f.hour < 24) && decide (f.day < 367) && decide (f.year < 100)

/-- An address of Helm's on-die space lies in the memory it names (chapter 16). -/
def HelmTarget.wf : HelmTarget → Bool
  | .instrSram o => decide (o < 262144)
  | .dataSram o => decide (o < 262144)
  | .sharedSram o => decide (o < 4194304)
  | .rose c w => decide (c < 8) && decide (w < 4)
  | .rawLane n r => decide (n < 3) && decide (r < 6)
  | .outside _ => true

/-- A load or store moves one, two or four octets. -/
def HelmOther.wf : HelmOther → Bool
  | .load _ t n _ => t.wf && (n == 1 || n == 2 || n == 4)
  | .store t n _ => t.wf && (n == 1 || n == 2 || n == 4)
  | .compute _ _ _ => true
  | .illegal => true

/-- A function has the BAR, and the offset lies in it (R290). -/
def barWf (fn : Fn) (bar off : Nat) : Bool :=
  match fn with
  | .pf0 => (bar == 0 && decide (off < 2 ^ 20)) || (bar == 2 && decide (off < 2 ^ 22))
  | .pf1 => bar == 0 && decide (off < 2 ^ 16)

/-- The lines of a chart are numbered by handle or position. -/
def linesWf (l : List (Nat × HostRead)) : Bool := l.all (fun p => decide (p.1 < 2 ^ 20))

/-- A label has 32 octets, a key 16 or 32. -/
def RawLoad.wf : RawLoad → Bool
  | .label l => l.length == 32
  | .own k => k.length == 16 || k.length == 32

/-- The operands of a command are within their ranges. -/
def Instr.wf : Instr → Bool
  | .tableTransferStart _ => true
  | .tableTransferDone _ => true
  | .exceptionFrame => true
  | .keyDeriveDone handle => decide (handle < 2 ^ 20)
  | .keyUnwrapDone handle => decide (handle < 2 ^ 20)
  | .cipherSuspend => true
  | .cipherResume => true
  | .ciphSaRebuildDone => true
  | .rawLockTake thread lane => threadWf thread && laneWf lane
  | .rawLaneGo thread lane load block _ => threadWf thread && laneWf lane && (load.map RawLoad.wf).getD true && block.length == 16
  | .rawLockRelease thread lane => threadWf thread && laneWf lane
  | .rawHoldExpiry lane => laneWf lane
  | .ctxCreate c => c.wf
  | .ctxRekey c => c.wf
  | .ctxDestroy c => c.wf
  | .ctxQuery c => c.wf
  | .secLodestarLoad c => c.wf
  | .secAlarmClear c => c.wf
  | .clsBankConfig c => c.wf
  | .clsInsert c => c.wf
  | .clsBlockMoveDone bank => decide (bank < 32)
  | .clsDelete c => c.wf
  | .clsQuery c => c.wf
  | .clsChartCheck c chart => c.wf && linesWf chart
  | .clsChartRecheck position _ => decide (position < 2048)
  | .clsChartCheckDone => true
  | .railGood _ => true
  | .railLost _ => true
  | .binnacleBoot _ => true
  | .perstDeassert => true
  | .warmReset => true
  | .flr _ => true
  | .configRequest _ off wr => decide (off < 4096) && (match wr with | some (_, be) => decide (be < 16) | none => true)
  | .pcieLinkDown => true
  | .pcieLinkUp => true
  | .hostLostGraceExpiry => true
  | .hostResumeExpiry => true
  | .pmeTurnOff => true
  | .pllLockLoss _ => true
  | .uncorrectableInternalError _ => true
  | .alarmTrip source _ => decide (source < 5)
  | .droopTrip bank => decide (bank < 12)
  | .wakeSource source => decide (source < 6)
  | .pwrWake target => decide (target < 2 ^ 14)
  | .domainStopEntry d => decide (1 ≤ d) && decide (d < 14)
  | .domainStopSeal d => decide (1 ≤ d) && decide (d < 14)
  | .domainStart d => decide (1 ≤ d) && decide (d < 14)
  | .scrubPassEnd ce ue => decide (ce < 2 ^ 32) && decide (ue < 2 ^ 32)
  | .dramPanic client _ _ => decide (client < 7)
  | .pwrVote c => c.wf
  | .pwrQuery c => c.wf
  | .devWakeReport c => c.wf
  | .linkVoteRelease => true
  | .barBadAccess fn a len _ => barWf fn a.bar a.off && decide (len ≤ 4096)
  | .hostUnsupportedRequest _ _ => true
  | .peerRequest q => q.wf
  | .winCommit window => decide (window < 16)
  | .winChangeDone => true
  | .hostCompletionRx tag completer _ _ _ _ => decide (tag < 1024) && decide (completer < 2 ^ 16)
  | .completionTimeout tag => decide (tag < 1024)
  | .tagQuarantineEnd tag => decide (tag < 1024)
  | .atsInvalidate page _ => decide (page < 2 ^ 52)
  | .msixUnmask fn vec => (match fn with | .pf0 => decide (vec < 2112) | .pf1 => decide (vec < 16))
  | .doorbell ring _ => ringWf ring
  | .descriptorFetch ring => ringWf ring
  | .txDescriptor ring _ _ _ => ringWf ring
  | .rxFrameDeliver ring _ => ringWf ring
  | .registration inst _ => instWf inst
  | .taggedCompletionResume ring => ringWf ring
  | .eventsLost inst => decide (inst ≤ 512)
  | .intHoldoffExpiry ring => ringWf ring
  | .instCreate c _ => c.wf
  | .queueConfig c => c.wf
  | .queueEnable c => c.wf
  | .queueDrain c => c.wf
  | .ringStopped ring => ringWf ring
  | .queueDisable c => c.wf
  | .queueSetMode c => c.wf
  | .queueQuery c => c.wf
  | .instEnable c => c.wf
  | .instQuiesce c => c.wf
  | .instQuiesceDone inst => instWf inst
  | .instQuiesceTimeout inst => instWf inst
  | .instFreeze c => c.wf
  | .instResume c => c.wf
  | .instReset c => c.wf
  | .instDestroy c _ => c.wf
  | .secRingDoorbell _ => true
  | .secRingEnable _ => true
  | .mring0Enable _ => true
  | .mring0Disable _ => true
  | .mboxWrite n _ => decide (n < 8)
  | .mboxTake n => decide (n < 8)
  | .mboxLivenessReply => true
  | .smboxWrite n _ => decide (n < 4)
  | .smboxTake n => decide (n < 4)
  | .smboxReply => true
  | .binnacleStatePost => true
  | .boundsWrite ring _ _ => ringWf ring
  | .boundsClear ring _ _ => ringWf ring
  | .powerVote ring _ _ => ringWf ring
  | .keyTransferWrap ring _ _ handle => ringWf ring && decide (handle < 2 ^ 20)
  | .helmReady => true
  | .unsupportedOpcode opcode c => decide (opcode < 2 ^ 16) && c.wf
  | .dirtyLogStart c => c.wf
  | .dirtyLogHarvest c => c.wf
  | .dirtyLogStop c => c.wf
  | .waypointSave c => c.wf
  | .waypointRestore c _ => c.wf
  | .secTransferKeyArm c => c.wf
  | .secTransferKeyDisarm c => c.wf
  | .transferKeyExpiry => true
  | .imageLoad => true
  | .imageLoadReuse => true
  | .imageLoadDone _ => true
  | .secMeasureRead c => c.wf
  | .secMeasureRecheck c => c.wf
  | .helmReadyTimeout => true
  | .helmClockSwitch core => decide (core < 8)
  | .devQuery c => c.wf
  | .devConfigure c => c.wf
  | .devResetUnit c => c.wf
  | .devHoveToEnter c => c.wf
  | .devHoveToLeave c => c.wf
  | .devHoveToStatus c => c.wf
  | .devLedgerAudit c => c.wf
  | .ledgerPicture => true
  | .diagSnapshotRead c => c.wf
  | .diagSnapshotTake c => c.wf
  | .diagLoopback c => c.wf
  | .diagInject c => c.wf
  | .evtEnableWrite _ => true
  | .smbusRead command _ => decide (command < 256)
  | .smbusAlertResponse => true
  | .smbAlert _ => true
  | .registerWrite fn bar off _ be =>
    barWf fn bar off && decide (be.be < 16) && decide (be.more.length < 16) && be.more.all (fun m => decide (m.2 < 16))
  | .registerRead fn bar a => barWf fn bar a.off
  | .flowInsert c => c.wf
  | .flowWrite c => c.wf
  | .flowDelete c => c.wf
  | .flowQuery c => c.wf
  | .flowSwing c => c.wf
  | .flowSwingStall => true
  | .flowSwingComplete => true
  | .flowChartCheck c chart => c.wf && linesWf chart
  | .flowChartRecheck handle _ => decide (handle < 2 ^ 20)
  | .flowChartCheckDone => true
  | .flowReloadBank c => c.wf
  | .flowReloadDone lines => lines.all (fun p => decide (p.1 < 2 ^ 20))
  | .flowWakeScanDone => true
  | .flowAgingSweep => true
  | .flowProfCommit _ => true
  | .flowMsTick => true
  | .ringAutoAttemptExpiry _ => true
  | .ringLockLossTimeout _ => true
  | .portLinkChange _ _ => true
  | .ringFrameRx _ frame info => frameWf frame && info.wf
  | .interlinkTx => true
  | .nodeEntryForget addr => decide (addr < 2 ^ 48)
  | .proxyEntryExpiry addr => decide (addr < 2 ^ 48)
  | .prpSeqCounterRelease addr => decide (addr < 2 ^ 48)
  | .supervisionTx addr => decide (addr < 2 ^ 48)
  | .preemptVerifyTx _ => true
  | .ringEgressSelect _ sent => decide (sent ≤ 9222)
  | .portFrameRx _ frame info => frameWf frame && info.wf
  | .pauseFrameRx _ _ => true
  | .pauseWdTrip _ => true
  | .pauseWdRecover _ => true
  | .txUnderrun _ => true
  | .macCtrlWrite _ _ => true
  | .macFiltCommit _ n _ => decide (n < 16)
  | .macStatClear _ _ => true
  | .modTransactionStart _ _ => true
  | .modTransactionDone _ result n data => decide (result < 3) && decide (n ≤ 128) && decide (data.length ≤ 128)
  | .modulePinChange _ _ _ _ => true
  | .ringConfig c => c.wf
  | .svFrameIngest => true
  | .almRowOpen alm => decide (alm < 16)
  | .almRowSeal alm => decide (alm < 16)
  | .watchAck inst _ => instWf inst
  | .svSubscribe c => c.wf
  | .svUnsubscribe c => c.wf
  | .almCreate c => c.wf
  | .almDestroy c => c.wf
  | .almWatch c => c.wf
  | .almClrIngestMax _ => true
  | .reflexStage inst slot _ => instWf inst && decide (slot < 8)
  | .reflexWrite inst slot _ _ => instWf inst && decide (slot < 8)
  | .reflexHeldRelease inst slot => instWf inst && decide (slot < 8)
  | .reflexRetransmit inst slot => instWf inst && decide (slot < 8)
  | .reflexLoad c => c.wf
  | .reflexArm c => c.wf
  | .reflexDisarm c => c.wf
  | .reflexClrMax _ => true
  | .gooseFrameRx => true
  | .gooseExpired cb => decide (cb < 4096)
  | .gooseSubscribe c => c.wf
  | .recWriter => true
  | .recEventClose => true
  | .recConfig c => c.wf
  | .recTrigger c => c.wf
  | .recExportAttach c => c.wf
  | .recExportDetach c => c.wf
  | .recExportExport c => c.wf
  | .recExportRelease c => c.wf
  | .nvmeCompletion => true
  | .nvmeCmdTimeout => true
  | .nvmetConnect c => c.wf
  | .nvmetConnectResync c => c.wf
  | .nvmetClose c => c.wf
  | .instSetShare c => c.wf
  | .schedNodeConfig c => c.wf
  | .schedMeterProfile c => c.wf
  | .schedMeterAssign c => c.wf
  | .schedMeterRead c => c.wf
  | .schedSoundingConfig c => c.wf
  | .schedRefill => true
  | .schedSelect port => decide (port < 6)
  | .portFrameTxEnd _ => true
  | .meterRefresh => true
  | .soundingRound set => decide (set < 4)
  | .ptpMsgRx => true
  | .ptpSyncTx _ => true
  | .ptpAnnounceTx _ => true
  | .ptpPdelayTx => true
  | .announceTimeout _ => true
  | .ringPdelayTx => true
  | .tcPendingExpiry => true
  | .ppsEdge => true
  | .ppsLoss => true
  | .irigFrame frame => frame.wf
  | .irigLoss => true
  | .ppsOutPulse => true
  | .servoUpdate _ _ => true
  | .servoWatchdog => true
  | .timeConfig c => c.wf
  | .timeSet c => c.wf
  | .timeSetPpsTimeout => true
  | .timeQuery c => c.wf
  | .ownSeenTimeout _ => true
  | .ringPllLockLoss => true
  | .fork thread _ => threadWf thread
  | .exit thread _ => threadWf thread
  | .join thread _ => threadWf thread
  | .wait thread _ => threadWf thread
  | .signal thread _ => threadWf thread
  | .evmap thread _ => threadWf thread
  | .timer thread _ => threadWf thread
  | .settrap thread _ => threadWf thread
  | .chstage thread _ => threadWf thread
  | .chcommit thread _ => threadWf thread
  | .chrecv thread _ => threadWf thread
  | .thrctlResume thread _ => threadWf thread
  | .thrctlKill thread _ => threadWf thread
  | .chcfg thread _ => threadWf thread
  | .class_ thread _ => threadWf thread
  | .break_ thread _ => threadWf thread
  | .loadStore thread _ what => threadWf thread && what.wf
  | .helmTimerFire thread => threadWf thread
  | .supervisorFaultTimeout => true
  | .becalmedDetect => true
  | .helmRestart => true
  | .helmDbgHalt => true
  | .helmDbgResume => true
  | .helmDbgStep => true
  | .helmDbgKill => true
  | .helmDbgRegWrite k _ => decide (k < 32)
  | .debugGrantEnd => true
  | .moverLockTake thread mover => threadWf thread && moverWf mover
  | .moverGo thread mover words _ => threadWf thread && moverWf mover && words.length == 8
  | .moverPromote mover => moverWf mover
  | .moverTransferEnd mover _ _ => moverWf mover
  | .moverErrAck thread mover _ => threadWf thread && moverWf mover
  | .moverRelease thread mover => threadWf thread && moverWf mover
  | .secDebugChallenge c => c.wf
  | .secDebugGrant c => c.wf
  | .secDebugRevoke c => c.wf
  | .boundGrowth => true

end Sys2Proof
end

