-- ==== Sys2Proof/Certificates/Slice0/Obligations.lean ====
section
/-!
DEFINITION. Certificates/Slice0/Obligations.lean: the statements about the model, chapter by chapter; the last part is about the queue,
the state after reset and the command transport as a whole.
-/

set_option Elab.async false

open Sys2Proof Sys2Proof.Machine

/-- R474 and Table 20-5: while a rail is good, SMBUS_READ answers the listed commands with their values, answers nothing to any
other, with PEC and without it, and changes nothing but the counter of free values (of which the three rail readings are one each, log entry 5). A read
of the Alert Response Address and a new die temperature move SMB_ALERT_N alone. -/
def Obligations.SmbusReadsAndAlertLine : Prop :=
  (∀ s pec, s.inRun 0 = true →
    exec (.smbusRead 0 ⟨true, pec⟩) s =
      .next (s.emit (.smbus (some (smbusData pec 0 (leBytes 2 s.module_.dieTemp.toNat))))) ∧
    (∀ k, 1 ≤ k → k ≤ 3 → ∃ v < 65536, exec (.smbusRead k ⟨true, pec⟩) s =
      .next { s with free := s.free + 1, out := s.out ++ [.smbus (some (smbusData pec k (leBytes 2 v)))] }) ∧
    exec (.smbusRead 4 ⟨true, pec⟩) s = .next (s.emit (.smbus (some (smbusData pec 4 (leBytes 2 s.runMask))))) ∧
    exec (.smbusRead 5 ⟨true, pec⟩) s =
      .next (s.emit (.smbus (some (smbusData pec 5 (leBytes 2 (if s.inRun 3 then s.boot.word % 65536 else 0)))))) ∧
    exec (.smbusRead 6 ⟨false, pec⟩) s = .next (s.emit (.smbus (some (smbusData pec 6 (leBytes 1 s.ciph.latched))))) ∧
    exec (.smbusRead 7 ⟨false, pec⟩) s =
      .next (s.emit (.smbus (some (smbusData pec 7 [if Config.gradeC then 1 else 0])))) ∧
    exec (.smbusRead 8 ⟨false, pec⟩) s = .next (s.emit (.smbus (some (smbusData pec 8 [0x42])))) ∧
    (∀ k, 6 ≤ k → exec (.smbusRead k ⟨true, pec⟩) s = .next (s.emit (.smbus none))) ∧
    (∀ k, k < 6 ∨ 9 ≤ k → exec (.smbusRead k ⟨false, pec⟩) s = .next (s.emit (.smbus none)))) ∧
  -- without PEC the octets alone; with it one octet more, the code over the addresses, the command and the octets (log entry 134)
  (∀ k b, smbusData false k b = b ∧
    smbusData true k b = b ++ [BitVec.ofNat 8 (((0xB4 : Byte) :: BitVec.ofNat 8 k :: 0xB5 :: b).foldl pecStep 0)]) ∧
  -- the line is asserted at 110 °C or more, or while an alarm is latched
  (∀ s temp, s.inRun 0 = true → s.module_.alertAsserted = false → (110 * 256 ≤ temp.toInt ∨ s.ciph.latched ≠ 0) →
    exec (.smbAlert temp) s = .next { s with
      module_.dieTemp := temp, module_.alertAsserted := true, module_.alertRead := false
      out := s.out ++ [.land .smbAlertN false] }) ∧
  (∀ s temp, s.inRun 0 = true → s.module_.alertAsserted = false → temp.toInt < 110 * 256 → s.ciph.latched = 0 →
    exec (.smbAlert temp) s = .next { s with module_.dieTemp := temp }) ∧
  -- it is released by the read of the address once the cause has cleared, or by the clearing once the address has been read
  (∀ s, s.inRun 0 = true → s.module_.alertAsserted = true →
    exec .smbusAlertResponse s = .next
      (if s.module_.dieTemp.toInt < 110 * 256 ∧ s.ciph.latched = 0 then
        { s with module_.alertAsserted := false, module_.alertRead := false, out := s.out ++ [.land .smbAlertN true] }
      else { s with module_.alertRead := true })) ∧
  (∀ s temp, s.inRun 0 = true → s.module_.alertAsserted = true → s.module_.alertRead = true → temp.toInt < 110 * 256 →
    s.ciph.latched = 0 →
    exec (.smbAlert temp) s = .next { s with
      module_.dieTemp := temp, module_.alertAsserted := false, module_.alertRead := false
      out := s.out ++ [.land .smbAlertN true] })

/-- R361, R362, R438: a write of a full channel is discarded with OVERRUN, of an empty one fills it; the receiver's read takes
the word; the liveness probe, the SMBOX words and the posted state are answered with the words of the rules. No command of one
group changes a channel of another. -/
def Obligations.MailboxWordsPassAndAreAnswered : Prop :=
  (∀ s n w, s.linkReady = true → n < 4 → (s.mbox n).full = true →
    exec (.mboxWrite n w) s = .next { s with dechan.mbox := s.dechan.mbox.set n { s.mbox n with overrun := true } }) ∧
  (∀ s n w, s.linkReady = true → n < 4 → (s.mbox n).full = false →
    exec (.mboxWrite n w) s = .next
      (State.pulse { s with dechan.mbox := s.dechan.mbox.set n { s.mbox n with word := w, full := true } } (32 + n))) ∧
  (∀ s n w, s.linkReady = true → 4 ≤ n → exec (.mboxWrite n w) s = .next s) ∧
  (∀ s n, s.linkReady = true → 4 ≤ n → n < 8 → (s.mbox n).full = true →
    exec (.mboxTake n) s = .next (State.emit
      (State.pulse { s with dechan.mbox := s.dechan.mbox.set n { s.mbox n with full := false } } (32 + n))
      (.cpl .sc (leBytes 4 (s.mbox n).word.toNat)))) ∧
  (∀ s n, s.linkReady = true → (n < 4 ∨ (s.mbox n).full = false ∧ n < 8) →
    Completes (.mboxTake n) s (fun t => t.out = s.out ++ [.cpl .sc [0, 0, 0, 0]] ∧
      ∀ k < 8, t.dechan.mbox.getD k {} = s.dechan.mbox.getD k {})) ∧
  (∀ s n w, s.linkReady = true → n < 2 → (s.smbox n).full = true →
    exec (.smboxWrite n w) s = .next { s with dechan.smbox := s.dechan.smbox.set n { s.smbox n with overrun := true } }) ∧
  (∀ s n w, s.linkReady = true → n < 2 → (s.smbox n).full = false →
    exec (.smboxWrite n w) s = .next { s with
      dechan.smbox := s.dechan.smbox.set n { s.smbox n with word := w, full := true } }) ∧
  (∀ s n, s.linkReady = true → 2 ≤ n → n < 4 → (s.smbox n).full = true →
    exec (.smboxTake n) s = .next (State.emit
      { s with dechan.smbox := s.dechan.smbox.set n { s.smbox n with full := false } }
      (.cpl .sc (leBytes 4 (s.smbox n).word.toNat)))) ∧
  -- R362: the probe, while Helm runs and its answer channel is free (log entry 48)
  (∀ s a b rest, s.helmRuns = true → s.dechan.mbox = a :: rest → a.full = true → rest[3]? = some b → b.full = false →
    Completes .mboxLivenessReply s (fun t =>
      t.dechan.mbox = { a with full := false } ::
        rest.set 3 { b with full := true, word := answerWord (if a.word.toNat / 2 ^ 24 = 1 then 0x81 else 0xFF) a.word } ∧
      t.dechan.smbox = s.dechan.smbox ∧ t.dechan.internal = s.dechan.internal ∧ t.rings = s.rings ∧ t.insts = s.insts)) ∧
  -- R438: the secure probe; words on channel 1 are taken
  (∀ s a b c d, s.binnacleLives = true → s.dechan.smbox = [a, b, c, d] → a.full = true → c.full = false →
    Completes .smboxReply s (fun t =>
      t.dechan.smbox = [{ a with full := false }, { b with full := false }, { c with
        full := true
        word := if a.word.toNat / 2 ^ 24 = 1 then answerWord 0x81 a.word
          else if a.word.toNat / 2 ^ 24 = 2 then answerWord 0x82 (BitVec.ofNat 32 (s.boot.word % 2 ^ 22))
          else answerWord 0xFF a.word }, d] ∧
      t.dechan.mbox = s.dechan.mbox ∧ t.dechan.internal = s.dechan.internal ∧ t.rings = s.rings ∧ t.boot = s.boot)) ∧
  (∀ s a b c d, s.binnacleLives = true → s.dechan.smbox = [a, b, c, d] → d.full = false → s.dechan.smboxPost = true →
    Completes .binnacleStatePost s (fun t =>
      t.dechan.smbox =
        [a, b, c, { d with full := true, word := answerWord 0x90 (BitVec.ofNat 32 (s.boot.word % 2 ^ 22)) }] ∧
      t.dechan.smboxPost = false ∧ t.dechan.mbox = s.dechan.mbox ∧ t.rings = s.rings ∧ t.boot = s.boot))

/-- R293, R294, R308, R311, R312: what the host's own requests come to. A malformed BAR access is a violation and, when it is a
read, is answered Completer Abort; an unsupported request is reported and answered UR when it is non-posted; unmasking a vector
sends its pending message; an invalidation drops the translation; the link's loss ends every request. -/
def Obligations.HostRequestsAndLink : Prop :=
  (∀ s fn bar off len wr, s.linkReady = true → ¬((len = 4 ∨ len = 8) ∧ off % len = 0) →
    ¬(bar = 2 ∧ wr = true ∧ 0 < len ∧ inPushSlot off len = true) →
    exec (.barBadAccess fn ⟨bar, off⟩ len wr) s = .next
      (let t := (s.violFn fn 4 (bar + len % 256 * 256) off).aer fn .completerAbort
       if wr then t else t.emit (.cpl .ca []))) ∧
  (∀ s fn, s.linkReady = true → exec (.hostUnsupportedRequest fn true) s = .next (s.aer fn .unsupportedRequest)) ∧
  (∀ s fn, s.linkReady = true →
    exec (.hostUnsupportedRequest fn false) s = .next ((s.aer fn .unsupportedRequest).emit (.cpl .ur []))) ∧
  (∀ s page pasid, s.linkReady = true →
    Completes (.atsInvalidate page pasid) s (fun t =>
      t.out = s.out ++ [.invalidateDone page] ∧
      t.host.xlats = s.host.xlats.filter (fun x => !(x.page == page && x.pasid == pasid)) ∧
      (∀ tag f since addr len got, s.host.tags.find tag = some (.outstanding f (.translation page pasid) since addr len got) →
        t.host.tags.find tag = some (.outstanding f .stale since addr len got)) ∧
      SamePath s t ∧ SameGrid s t ∧ SameInst s t ∧ SameRings s t ∧ SameBoard s t ∧ SameProc s t)) ∧
  (∀ s vec e, s.linkReady = true → vec < 16 → s.host.msix1.find vec = some e → e.pending = false →
    exec (.msixUnmask .pf1 vec) s = .next { s with host.msix1 := s.host.msix1.put vec { e with masked := false } }) ∧
  (∀ s vec e, s.linkReady = true → vec < 16 → s.host.msix1.find vec = some e → e.pending = true →
    s.host.cfg1.msixEn = true → s.host.cfg1.msixMask = false → s.host.cfg1.bme = true →
    Completes (.msixUnmask .pf1 vec) s (fun t =>
      t.out = s.out ++ [.msi .pf1 vec e.addr.toNat e.data] ∧
      t.host.msix1.find vec = some { e with masked := false, pending := false } ∧
      SamePath s t ∧ SameGrid s t ∧ SameInst s t ∧ SameRings s t ∧ SameBoard s t ∧ SameProc s t)) ∧
  (∀ s, s.inRun 2 = true → s.host.perstHigh = true → s.host.linkUp = false →
    exec .pcieLinkUp s = .next { s with host.linkUp := true, host.linkSince := s.now }) ∧
  (∀ s, s.inRun 2 = true → s.host.linkUp = true → s.host.perstHigh = true → s.host.tags = [] → s.power.l2 = true →
    (∀ x, s.boot.loading ≠ some (false, x)) → s.sw.busy = false → (∀ m < 16, (s.mover m).active = none) →
    exec .pcieLinkDown s = .next { s with
      host.linkUp := false, host.linkSince := s.now, host.waiting := [], host.parts := [], alm.marks := []
      host.cfg0 := {
        errs := s.host.cfg0.errs, firstErr := s.host.cfg0.firstErr, fatal := s.host.cfg0.fatal, advisory := s.host.cfg0.advisory
        uncMask := s.host.cfg0.uncMask, corMask := s.host.cfg0.corMask, hdrSeq := s.host.cfg0.hdrSeq
        linkCtl2 := s.host.cfg0.linkCtl2 }
      host.cfg1 := {
        errs := s.host.cfg1.errs, firstErr := s.host.cfg1.firstErr, fatal := s.host.cfg1.fatal, advisory := s.host.cfg1.advisory
        uncMask := s.host.cfg1.uncMask, corMask := s.host.cfg1.corMask, hdrSeq := s.host.cfg1.hdrSeq
        linkCtl2 := s.host.cfg1.linkCtl2 }
      host.xlats := [], sched.snd := s.sched.snd.map Sounding.settle
      err.hostCnt := s.err.hostCnt.add 5 s.host.waiting.length })

/-- R301 to R304: a completion that does not belong to an outstanding tag of its function is unexpected; the last octets of a
request free its tag; a tag that is not answered within its function's time is quarantined for twice that time and then free. -/
def Obligations.TagsAreFreedAndQuarantined : Prop :=
  (∀ s tag completer fn st b last, s.linkReady = true → s.host.tags.find tag = none →
    exec (.hostCompletionRx tag completer fn st b last) s = .next
      ((s.hostError 1 fn.num completer tag 0 2).aer fn .unexpectedCompletion)) ∧
  (∀ s tag completer fn what since addr len got b, s.linkReady = true →
    s.host.tags.find tag = some (.outstanding fn what since addr len got) → (got ++ b).length ≤ len →
    exec (.hostCompletionRx tag completer fn .sc b false) s = .next { s with
      host.tags := s.host.tags.put tag (.outstanding fn what since addr len (got ++ b)) }) ∧
  (∀ s tag completer since addr len got b r idx n, s.linkReady = true →
    s.host.tags.find tag = some (.outstanding .pf0 (.descriptors r idx n) since addr len got) → (got ++ b).length = len →
    (s.ring r).state = .enabled → s.host.parts = [] → (∀ p ∈ s.host.tags.drop1 tag, ∀ f since addr len got,
      p.2 ≠ .outstanding f (.descriptors r idx n) since addr len got) →
    exec (.hostCompletionRx tag completer .pf0 .sc b true) s = .next { s with
      host.tags := s.host.tags.drop1 tag
      rings := s.rings.put r { s.ring r with descs := (s.ring r).descs ++ (List.range n).map (fun j =>
        { idx := BitVec.ofNat 16 (idx + j), body := slice (got ++ b) (32 * j) 32
          inPlace := (s.ring r).modeAt (BitVec.ofNat 16 (idx + j)) }) } }) ∧
  -- R301: a part of a read whose other parts are outstanding waits for them
  (∀ s tag completer since addr len got b r idx n other f since' addr' len' got', s.linkReady = true →
    s.host.tags.find tag = some (.outstanding .pf0 (.descriptors r idx n) since addr len got) → (got ++ b).length = len →
    (other, .outstanding f (.descriptors r idx n) since' addr' len' got') ∈ s.host.tags.drop1 tag →
    exec (.hostCompletionRx tag completer .pf0 .sc b true) s = .next { s with
      host.tags := s.host.tags.drop1 tag, host.parts := s.host.parts ++ [(.descriptors r idx n, addr, got ++ b)] }) ∧
  (∀ s tag fn what since addr len got, s.host.tags.find tag = some (.outstanding fn what since addr len got) →
    s.now < since + (s.cfg fn).timeoutTicks → exec (.completionTimeout tag) s = .next s) ∧
  (∀ s tag fn since addr len got, s.host.tags.find tag = some (.outstanding fn .stale since addr len got) →
    since + (s.cfg fn).timeoutTicks ≤ s.now →
    exec (.completionTimeout tag) s = .next
      (let t := (s.hostError 2 fn.num 0 tag addr 1).aer fn .completionTimeout
       { t with host.tags := s.host.tags.put tag (.quarantined (s.now + 2 * (s.cfg fn).timeoutTicks)) })) ∧
  (∀ s tag u, s.host.tags.find tag = some (.quarantined u) →
    exec (.tagQuarantineEnd tag) s = .next
      (if u ≤ s.now then { s with host.tags := s.host.tags.drop1 tag } else s))

/-- R297 to R300: a peer request wholly inside an enabled window that admits it is served in the recorder region, counted, and
answered; one that no window admits is a violation; a commit is rejected by the first reason that holds, or the window is
CHANGING until WIN_CHANGE_DONE puts the staged values in force and serves what was held. -/
def Obligations.PeerWindowsTranslateOrReject : Prop :=
  (∀ s q n b, s.linkReady = true → s.inRun 13 = true → s.host.holdFull = false → q.poisoned = false → q.wr = some b →
    s.host.changing = none → n < 16 →
    (s.win n).enable = true → (s.win n).write = true → ((s.win n).ridCheck = true → (s.win n).rid = q.rid) →
    (s.win n).base * 65536 ≤ q.addr → q.addr + b.length ≤ ((s.win n).base + (s.win n).size) * 65536 →
    (∀ m < n, (s.win m).enable = false) →
    exec (.peerRequest q) s = .next
      (State.dramWrite { s with host.winCnt := s.host.winCnt.inc 0 }
        ((s.win n).target * 65536 + (q.addr - (s.win n).base * 65536)) b)) ∧
  (∀ s q, s.linkReady = true → s.inRun 13 = true → s.host.holdFull = false → q.poisoned = false → q.wr = none →
    s.host.changing = none →
    (∀ n < 16, (s.win n).enable = false) →
    exec (.peerRequest q) s = .next
      (let t := (s.logViolation false 6 3 q.rid 1 (s.host.cfg0.bar4.toNat + q.addr)).aer .pf0 .unsupportedRequest
       State.emit { t with host.winCnt := s.host.winCnt.inc 2 } (.cpl .ur []))) ∧
  (∀ s w, s.linkReady = true → s.inRun 13 = true → w < 16 → s.winRejects w (s.host.stagedWin.getD w {}) = 0 →
    exec (.winCommit w) s = .next { s with
      host.winSel := w, host.winLast := w, host.winReject := 0
      host.changing := some (w, s.host.stagedWin.getD w {}) }) ∧
  (∀ s w r, s.linkReady = true → s.inRun 13 = true → w < 16 → s.winRejects w (s.host.stagedWin.getD w {}) = r → r ≠ 0 →
    exec (.winCommit w) s = .next { s with
      host.winSel := w, host.winLast := w, host.winReject := r, host.winCnt := s.host.winCnt.inc 5 }) ∧
  (∀ s n w, s.host.changing = some (n, w) → s.host.heldPeer = [] →
    exec .winChangeDone s = .next { s with
      host.activeWin := s.host.activeWin.put n w, host.changing := none, host.holdFull := false
      host.winCnt := s.host.winCnt.inc 4 }) ∧
  -- R299: what touches a window that changes waits, to 32 requests and 4 KiB; beyond that the credit is withheld
  (∀ s q n w, s.linkReady = true → s.inRun 13 = true → s.host.holdFull = false → q.poisoned = false →
    s.host.changing = some (n, w) → (s.win n).touches q = true →
    exec (.peerRequest q) s = .next
      (if s.host.heldPeer.length < 32 ∧
          s.host.heldPeer.foldl (fun a x => a + (x.wr.map List.length).getD 0) ((q.wr.map List.length).getD 0) ≤ 4096 then
        { s with host.heldPeer := s.host.heldPeer ++ [q], host.winCnt := s.host.winCnt.inc 1 }
      else { s with host.holdFull := true })) ∧
  (∀ s q, s.linkReady = true → s.host.holdFull = true → exec (.peerRequest q) s = .next s)

/-- R316, R319, R320, R322, R341, R367, R481: a doorbell with a legal index and push count becomes the ring's index, and its
pushed descriptors are kept; to a DISABLED ring it is counted; with an index out of range it is a violation that leaves the ring
as it was. The ENABLE bits of the secure ring and of manager ring 0 start their rings from entry 0. -/
def Obligations.DoorbellsPublishOrViolate : Prop :=
  (∀ s r v, s.linkReady = true → r < mgrBase → (s.inst (r / 16)).state ≠ .absent → (s.ring r).state ≠ .disabled →
    r % 16 ≠ 0 → r % 16 < 14 → bits v.toNat 17 16 ≤ 2 →
    (BitVec.ofNat 16 v.toNat - (s.ring r).oldest).toNat ≤ 2 ^ (s.ring r).log2 →
    bits v.toNat 17 16 ≤ (BitVec.ofNat 16 v.toNat - (s.ring r).pi).toNat →
    exec (.doorbell r v) s = .next { s with rings := s.rings.put r { s.ring r with
      pi := BitVec.ofNat 16 v.toNat
      pushed := (s.ring r).pushed ++ (List.range (bits v.toNat 17 16)).map (fun k =>
        (BitVec.ofNat 16 v.toNat - BitVec.ofNat 16 (bits v.toNat 17 16 - k), slice (s.ring r).push (32 * k) 32)) } }) ∧
  (∀ s r v, s.linkReady = true → r < mgrBase → (s.inst (r / 16)).state ≠ .absent → (s.ring r).state ≠ .disabled →
    r % 16 ≠ 0 → r % 16 < 14 → bits v.toNat 17 16 ≤ 2 →
    2 ^ (s.ring r).log2 < (BitVec.ofNat 16 v.toNat - (s.ring r).oldest).toNat →
    exec (.doorbell r v) s = .next (s.violInst (r / 16) 3 (r % 16) (r % 16 + 256) (r / 16 * 0x1000 + 4 * (r % 16)))) ∧
  (∀ s r v, s.linkReady = true → r < mgrBase → (s.inst (r / 16)).state ≠ .absent → (s.ring r).state = .disabled →
    exec (.doorbell r v) s = .next { s with err.hostCnt := s.err.hostCnt.inc 6 }) ∧
  (∀ s r v, s.linkReady = true → r < mgrBase → (s.inst (r / 16)).state = .absent →
    exec (.doorbell r v) s = .next (s.violPf0 2 (r / 16) (r / 16 * 0x1000 + 4 * (r % 16)))) ∧
  (∀ s v, s.linkReady = true → (s.ring secRing).state ≠ .disabled →
    exec (.secRingDoorbell v) s = .next
      (if (BitVec.ofNat 16 v.toNat - (s.ring secRing).oldest).toNat ≤ 2 ^ (s.ring secRing).log2 then
        { s with rings := s.rings.put secRing { s.ring secRing with pi := BitVec.ofNat 16 v.toNat } }
      else s.violPf1 3 0x1FF 0x100C)) ∧
  (∀ s v, s.linkReady = true → s.dechan.secEnable = false → bit v.toNat 4 = true →
    Completes (.secRingEnable v) s (fun t =>
      t.dechan = { s.dechan with secEnable := true } ∧
      t.rings = s.rings.put secRing { s.ring secRing with
        state := .enabled, configured := true, pi := 0, fetch := 0, oldest := 0, done := [], pushed := []
        modPending := 0, modVecs := []
        log2 := if 4 ≤ bits v.toNat 3 0 ∧ bits v.toNat 3 0 ≤ 8 then bits v.toNat 3 0 else 4
        intEn := bit v.toNat 5 } ∧
      SamePath s t ∧ SameGrid s t ∧ SameInst s t ∧ SameHost s t ∧ SameProc s t ∧ t.mem = s.mem ∧ t.boot = s.boot)) ∧
  (∀ s v, s.linkReady = true → s.dechan.mring0Enable = false → bit v.toNat 4 = true →
    exec (.mring0Enable v) s = .next { s with
      dechan.mring0Enable := true
      rings := s.rings.put mgrBase { s.ring mgrBase with
        state := .enabled, configured := true, pi := 0, fetch := 0, oldest := 0, done := [], pushed := []
        modPending := 0, modVecs := [], inPlace := true
        log2 := if 6 ≤ bits v.toNat 3 0 then bits v.toNat 3 0 else 6
        intEn := bit v.toNat 5 } }) ∧
  (∀ s v, s.linkReady = true → s.dechan.mring0Enable = true → bit v.toNat 4 = false → (s.ring mgrBase).state = .enabled →
    s.inProgress mgrBase = [] →
    exec (.mring0Disable v) s = .next { s with
      dechan.mring0Enable := false
      rings := s.rings.put mgrBase { s.ring mgrBase with
        state := .disabled, pi := 0, fetch := 0, oldest := 0, done := [], inPlace := true, intEn := bit v.toNat 5 } })

/-- R320, R321, R324, R326, R332 to R335: a pushed descriptor or command entry is taken as if fetched; a command ring's next entry is read with the
lowest free tag; a receive buffer takes the first waiting frame whole; a completion that waited is written once there is room;
lost events are counted until one can be written; the hold-off sends the vectors that wait; a drained ring is STOPPED with its event. -/
def Obligations.DescriptorsCompletionsAndEvents : Prop :=
  (∀ s r k b, s.mayFetch r = true → isCmdRing r = false → (s.ring r).pushed.find? (fun p => p.1 == (s.ring r).fetch) = some (k, b) →
    exec (.descriptorFetch r) s = .next { s with rings := s.rings.put r { s.ring r with
      fetch := (s.ring r).fetch + 1, pushed := (s.ring r).pushed.filter (fun p => p.1 != k)
      descs := (s.ring r).descs ++ [{ idx := k, body := b, inPlace := (s.ring r).modeAt k }] } }) ∧
  (∀ s r t, s.mayFetch r = true → isCmdRing r = true → (∀ p ∈ (s.ring r).pushed, p.1 ≠ (s.ring r).fetch) →
    (s.ring r).slotAddr 64 (s.ring r).fetch % 64 = 0 → s.freeTag (ringFn r) = some t →
    exec (.descriptorFetch r) s = .next { s with
      host.tags := s.host.tags.put t (.outstanding (ringFn r) (.cmdEntry r (s.ring r).fetch.toNat) s.now
        ((s.ring r).slotAddr 64 (s.ring r).fetch) 64 [])
      out := s.out ++ [.readReq (ringFn r) (s.ringPasid r)
        (s.xlate (ringFn r) (s.ringPasid r) ((s.ring r).slotAddr 64 (s.ring r).fetch)) 64 t] }) ∧
  (∀ s r, s.mayFetch r = true → isCmdRing r = true → (∀ p ∈ (s.ring r).pushed, p.1 ≠ (s.ring r).fetch) →
    (s.ring r).slotAddr 64 (s.ring r).fetch % 64 = 0 → s.freeTag (ringFn r) = none →
    exec (.descriptorFetch r) s = .next { s with err.hostCnt := s.err.hostCnt.inc 0 }) ∧
  -- R320: a pushed entry is not read from memory
  (∀ s r p, s.mayFetch r = true → isCmdRing r = true → p ∈ (s.ring r).pushed → p.1 = (s.ring r).fetch →
    exec (.descriptorFetch r) s = .next s) ∧
  (∀ s r f fs d ds, isRxRing r = true → s.linkReady = true → s.host.cfg0.bme = true → s.inRun 5 = true → s.hove = false →
    s.ownerActive r = true → (s.ring r).state = .enabled → s.waitsCompl r = false → (s.ring r).frames = f :: fs →
    (s.ring r).descs = d :: ds → d.started = false → rxDescOk d.body = true → bit (byteAt d.body 16) 5 = false →
    f.body ≠ [] → f.body.length ≤ leAt d.body 8 4 →
    s.ringInBounds r (leAt d.body 0 8) f.body.length false true = true →
    exec (.rxFrameDeliver r []) s = .next
      (let t := (((s.setRing r { s.ring r with frames := fs }).freeRx r f).postRing r (leAt d.body 0 8) f.body).completeDesc r d
        (rxCompletion d r f 0 f.body.length false)
       (if r < mgrBase then t.actCount 1 else t).rxEnd f none)) ∧
  (∀ s r w, isProducer r = true → s.linkReady = true → s.ownerLive r = true → (s.ring r).held = [w] → (s.ring r).room = true →
    byteAt w.body 27 = 1 ∨ byteAt w.body 27 = 2 → w.ring ≠ r → (s.ring w.ring).held = [] → (s.ring w.ring).switch = none →
    Completes (.taggedCompletionResume r) s (fun t =>
      (t.ring r).fetch = (s.ring r).fetch + 1 ∧ (t.ring r).held = [] ∧ w.idx ∉ (t.ring w.ring).descs.map Desc.idx ∧
      SamePath s t ∧ SameGrid s t ∧ t.insts = s.insts ∧ t.bounds = s.bounds ∧ SameBoard s t ∧ SameProc s t ∧ t.dechan = s.dechan)) ∧
  (∀ s i, i < 512 → s.linkReady = true → (s.inst i).state = .active → (s.ring (i * 16 + 15)).room = true → (s.inst i).lost ≠ 0 →
    exec (.eventsLost i) s = .next
      (let t := s.writeEvent i 2 (leBytes 4 (s.inst i).lost)
       t.setInst i { t.inst i with lost := 0 })) ∧
  (∀ s r, 0 < (s.ring r).modPending → (s.ring r).modStart + (s.ring r).holdoff * 625 ≤ s.now →
    exec (.intHoldoffExpiry r) s = .next ((s.ring r).modVecs.foldl (fun t v => t.msi (ringFn r) v)
      { s with rings := s.rings.put r { s.ring r with modPending := 0, modVecs := [] } })) ∧
  (∀ s r, 0 < (s.ring r).modPending → s.now < (s.ring r).modStart + (s.ring r).holdoff * 625 →
    exec (.intHoldoffExpiry r) s = .next s) ∧
  (∀ s r, r < mgrBase → s.drained r = true → (∀ a ∈ s.dechan.accepted, a.opcode ≠ 0x0303) →
    Completes (.ringStopped r) s (fun t =>
      t = (State.instEvent { s with rings := s.rings.put r { s.ring r with state := .stopped } } (r / 16) 4
        ([BitVec.ofNat 8 (r % 16), 0] ++ leBytes 2 (s.ring r).oldest.toNat))))

/-- R331, R335, R337, R339, R349: the six queue commands, once accepted and past the common checks, change their ring as the rules
say and reply OK; QUEUE_DRAIN replies when the ring is STOPPED. -/
def Obligations.QueueCommandsChangeTheirRing : Prop :=
  (∀ s c r, let op : Op := { code := 0x0301, tenant := true, inst := .either, states := 0x3E }
    let t := s.opened op c
    s.ready op c = true → cmdQueue c = some r → r ≠ mgrBase → ¬(r < mgrBase ∧ (r % 16 = 0 ∨ 14 ≤ r % 16)) →
    (t.ring r).state = .disabled → 6 ≤ byteAt c.data 1 → byteAt c.data 1 ≤ 15 → leAt c.data 4 2 ≤ 1023 →
    leAt c.data 8 8 % 4096 = 0 → t.ringInBounds r (leAt c.data 8 8) (2 ^ byteAt c.data 1 * ringEntry r) true true = true →
    Answers (.queueConfig c) s op c (Reply.ok { t with rings := t.rings.put r { t.ring r with
      configured := true, log2 := byteAt c.data 1, base := leAt c.data 8 8, inPlace := bit (byteAt c.data 2) 0
      intEn := bit (byteAt c.data 2) 1, holdoff := leAt c.data 4 2, count := byteAt c.data 6, retag := false } })) ∧
  (∀ s c r, let op : Op := { code := 0x0302, tenant := true, inst := .either, states := 0x3E }
    let t := s.opened op c
    s.ready op c = true → cmdQueue c = some r → r < mgrBase → hasMode r = true → (t.ring r).state = .disabled →
    (t.ring r).configured = true → (t.ring r).retag = false → bit (byteAt c.data 1) 0 = false → (t.ring r).descs = [] →
    (t.ring r).held = [] → t.forgetDescs (· == r) = t →
    Answers (.queueEnable c) s op c (Reply.ok { t with rings := t.rings.put r { t.ring r with
      state := .enabled, fetch := (t.ring r).oldest, done := [], pushed := [] } })) ∧
  (∀ s c r, let op : Op := { code := 0x0303, tenant := true, inst := .either, states := 0x0C }
    let t := s.opened op c
    s.ready op c = true → cmdQueue c = some r → r ≠ mgrBase → isCmdRing r = false → isProducer r = false → isRxRing r = false →
    (t.ring r).state = .enabled →
    Answers (.queueDrain c) s op c
      { st := { t with rings := t.rings.put r { t.ring r with state := .draining, drainPi := (t.ring r).pi } }
        later := true, limit := 2 ^ 62 }) ∧
  (∀ s c r, let op : Op := { code := 0x0304, tenant := true, inst := .either, states := 0x3E }
    let t := s.opened op c
    s.ready op c = true → cmdQueue c = some r → r ≠ mgrBase → isCmdRing r = false → isProducer r = false →
    (t.ring r).state = .stopped → (t.ring r).frames = [] → t.forgetDescs (· == r) = t →
    Answers (.queueDisable c) s op c (Reply.ok { t with rings := t.rings.put r { t.ring r with
      state := .disabled, pi := 0, fetch := 0, oldest := 0, descs := [], done := [], pushed := [], held := []
      switch := none } })) ∧
  (∀ s c r, let op : Op := { code := 0x0305, tenant := true, inst := .either, states := 0x3E }
    let t := s.opened op c
    s.ready op c = true → cmdQueue c = some r → r ≠ mgrBase → (t.ring r).state ≠ .error → bit (byteAt c.data 1) 0 = false →
    bit (byteAt c.data 1) 2 = true → leAt c.data 4 2 ≤ 1023 →
    Answers (.queueSetMode c) s op c (Reply.ok { t with rings := t.rings.put r { t.ring r with
      intEn := bit (byteAt c.data 1) 3, holdoff := leAt c.data 4 2, count := byteAt c.data 6 } }
      (zeros 8 ++ leBytes 2 (t.ring r).fetch.toNat))) ∧
  (∀ s c r, let op : Op := { code := 0x0306, tenant := true, inst := .either, states := 0x3E, exempt := true }
    let t := s.opened op c
    s.ready op c = true → cmdQueue c = some r → isProducer r = false →
    Answers (.queueQuery c) s op c (Reply.ok t (
      [BitVec.ofNat 8 (t.ring r).state.code, BitVec.ofNat 8 (b2n ((t.ring r).inPlace || isCmdRing r))
       , BitVec.ofNat 8 (t.ring r).log2, BitVec.ofNat 8 (b2n (t.ring r).intEn)] ++
      leBytes 2 (t.ring r).pi.toNat ++ leBytes 2 (t.ring r).fetch.toNat ++ leBytes 2 (t.ring r).oldest.toNat ++
      leBytes 2 (t.ring r).holdoff ++ [BitVec.ofNat 8 (t.ring r).count, 0, 0, 0] ++ leBytes 8 (t.ring r).base)))

/-- R172, R174 to R176, R179, R183, R186, R188 to R190: the classifier's commands, once past the common checks, do to their bank
what the rules say. -/
def Obligations.ClassifierCommandsChangeTheirBank : Prop :=
  (∀ s c, let op : Op := { code := 0x0501 }
    let t := s.opened op c
    let x := t.clsBank c.handle
    s.ready op c = true → c.handle < 32 → s.inRun 7 = true → bit (byteAt c.data 1) 1 = true →
    byteAt c.data 0 = 1 ∨ byteAt c.data 0 = 2 ∨ byteAt c.data 0 = 4 → badSelector c.data (byteAt c.data 0) = none →
    Answers (.clsBankConfig c) s op c (Reply.ok { t with cls.banks := t.cls.banks.set c.handle { x with
      state := .empty, width := byteAt c.data 0, enable := bit (byteAt c.data 1) 0, srcMask := byteAt c.data 2 % 64
      fields := (List.range 4).map (fun u => byteAt c.data (4 + u)), entries := [] } })) ∧
  -- CLS_INSERT with AT_POSITION
  (∀ s c, let op : Op := { code := 0x0502, lens := [32, 64, 128] }
    let t := s.opened op c
    let x := t.clsBank c.handle
    let b := bufferOf op c
    let e := imageEntry b x.width
    s.ready op c = true → c.handle < 32 → s.inRun 7 = true → (x.state = .empty ∨ x.state = .populated) → c.paramLen = 32 * x.width → e.steer ≠ 3 →
    badBound b x.width = none → bit (byteAt b 4) 7 = true → leAt b 6 2 < x.capacity → x.ordered (leAt b 6 2) e.priority = true →
    Answers (.clsInsert c) s op c (Reply.ok { t with cls.banks := t.cls.banks.set c.handle { x with
      entries := x.entries.put (leAt b 6 2) e, state := .populated } }
      (leBytes 2 (leAt b 6 2) ++ leBytes 2 (leAt b 6 2) ++ leBytes 2 0))) ∧
  -- CLS_INSERT without it: an entry that has to move others waits for the block move
  (∀ s c p f n, let op : Op := { code := 0x0502, lens := [32, 64, 128] }
    let t := s.opened op c
    let x := t.clsBank c.handle
    let b := bufferOf op c
    let e := imageEntry b x.width
    s.ready op c = true → c.handle < 32 → s.inRun 7 = true → (x.state = .empty ∨ x.state = .populated) → c.paramLen = 32 * x.width → e.steer ≠ 3 →
    badBound b x.width = none → bit (byteAt b 4) 7 = false → x.place e.priority = some (p, f, n) → n ≠ 0 →
    Answers (.clsInsert c) s op c
      { st := { t with cls.banks := t.cls.banks.set c.handle { x with
          move := some { entry := e, target := p, free := f, moved := n } } }
        later := true, limit := 2 * msTicks }) ∧
  -- the move's end: the entries stand one place further, the new one at its target
  (∀ s b m, s.inRun 7 = true → (s.clsBank b).move = some m → (∀ a ∈ s.dechan.accepted, a.opcode ≠ 0x0502) →
    Completes (.clsBlockMoveDone b) s (fun t =>
      t.cls.banks = s.cls.banks.set b ((s.clsBank b).applyMove m) ∧ t.rings = s.rings ∧ t.dechan = s.dechan ∧
      t.flow = s.flow ∧ t.sw = s.sw ∧ t.sched = s.sched ∧ t.ciph = s.ciph ∧ t.ports = s.ports ∧
      SameGrid s t ∧ SameInst s t ∧ SameBoard s t ∧ SameHost s t ∧ t.dram = s.dram)) ∧
  (∀ s c, let op : Op := { code := 0x0503 }
    let t := s.opened op c
    let x := t.clsBank c.handle
    s.ready op c = true → c.handle < 32 → s.inRun 7 = true → x.state = .populated → leAt c.data 0 2 < x.capacity →
    x.entries.has (leAt c.data 0 2) = true →
    Answers (.clsDelete c) s op c (Reply.ok { t with cls.banks := t.cls.banks.set c.handle { x with
      entries := x.entries.drop1 (leAt c.data 0 2)
      state := if (x.entries.drop1 (leAt c.data 0 2)).isEmpty then .empty else .populated } })) ∧
  -- CLS_QUERY: the image of a position, or the result word of a search with the values given
  (∀ s c, let op : Op := { code := 0x0504, lens := [32, 64, 128], reads := bit (byteAt c.data 2) 0, writes := true }
    let t := s.opened op c
    let x := t.clsBank c.handle
    s.ready op c = true → c.handle < 32 → s.inRun 7 = true → (x.state = .empty ∨ x.state = .populated) → c.paramLen = 32 * x.width →
    bit (byteAt c.data 2) 0 = false → leAt c.data 0 2 < x.capacity →
    Answers (.clsQuery c) s op c { st := t, buf := x.line (leAt c.data 0 2) }) ∧
  (∀ s c, let op : Op := { code := 0x0504, lens := [32, 64, 128], reads := bit (byteAt c.data 2) 0, writes := true }
    let t := s.opened op c
    let x := t.clsBank c.handle
    s.ready op c = true → c.handle < 32 → s.inRun 7 = true → (x.state = .empty ∨ x.state = .populated) → c.paramLen = 32 * x.width →
    bit (byteAt c.data 2) 0 = true →
    Answers (.clsQuery c) s op c (Reply.ok t (zeros 8 ++ leBytes 8 (ClsHit.word
      (clsSearch [(c.handle, x, (List.range x.width).map (fun u => leAt (bufferOf op c) (8 * u) 8))]))))) ∧
  -- the chart check: the whole chart is read, and the positions that differ wait for their second comparison
  (∀ s c (chart : List (Nat × Bytes)), let op : Op := { code := 0x0505, lens := [32] }
    let t := s.opened op c
    let x := t.clsBank c.handle
    let b := bufferOf op c
    let len := 32 * x.width
    let u := t.emitReads .pf0 none (leAt b 0 8) (len * x.capacity) ((t.freeTag .pf0).getD 0)
    s.ready op c = true → c.handle < 32 → s.inRun 7 = true → (x.state = .empty ∨ x.state = .populated) → leAt b 0 8 % 32 = 0 →
    leAt b 8 8 % 16 = 0 → 0 < leAt b 16 4 → leAt b 16 4 ≤ 65536 → t.cls.check = none → s.err.injectTimeout = false →
    Answers (.clsChartCheck c (chart.map (fun p => (p.1, .data p.2)))) s op c (Reply.ok { u with
      cls.bgReady := false
      cls.check := some { bank := c.handle, chartBase := leAt b 0 8, reportBase := leAt b 8 8, reportEntries := leAt b 16 4
                          waiting := ((List.range x.capacity).filter (fun k => (lineMismatch (x.line k)
                            (slice (((chart.find? (fun p => p.1 == k)).map (·.2)).getD (zeros len)) 0 len)).isSome)).map
                              (fun p => { what := p, since := t.now })
                          mismatches := 0, written := 0, full := false } })) ∧
  -- the second comparison: a line read again that now agrees is done with; one whose read fails waits for another
  (∀ s k m p line, s.cls.check = some k → k.waiting.find? (fun w => w.what == p) = some m → s.hove = false →
    s.inRun 7 = true → s.elapsed m.since (s.cls.settleMs * msTicks) = true → (s.clsBank k.bank).move = none →
    (∀ a ∈ s.dechan.accepted, ¬(0x0501 ≤ a.opcode ∧ a.opcode ≤ 0x0505)) → s.readHeld .pf0 = false → s.err.injectTimeout = false →
    (s.clsBank k.bank).line p = slice line 0 (32 * (s.clsBank k.bank).width) →
    exec (.clsChartRecheck p (.data line)) s = .next
      (let len := 32 * (s.clsBank k.bank).width
       { s.emitReads .pf0 none (k.chartBase + len * p) (len * 1) ((s.freeTag .pf0).getD 0) with
         cls.check := some { k with waiting := k.waiting.filter (fun w => w.what != p) } })) ∧
  (∀ s k, s.cls.check = some k → k.waiting = [] → s.hove = false →
    exec .clsChartCheckDone s = .next (State.event { s with
      cls.check := none, cls.bgSeq := (s.cls.bgSeq + 1) % 65536, cls.bgReady := true, cls.bgBank := k.bank
      cls.bgOutcome := if k.full then 1 else 0, cls.bgCount := BitVec.ofNat 32 k.mismatches } 14))

/-- R148, R152, R153, R155, R168, R490: FLOW_INSERT, FLOW_WRITE, FLOW_DELETE and FLOW_QUERY of the manager, once past the common
checks, place, rewrite, delete or return an entry; a handle in use is a DUPLICATE; a profile commit takes the staged profiles. -/
def Obligations.FlowCommandsChangeTheTable : Prop :=
  (∀ s c f pl n, let op : Op := { code := 0x0401, tenant := true, inst := .either, lens := [64] }
    let t := s.opened op c
    let b := bufferOf op c
    let e := imageFields t b none
    s.ready op c = true → cmdTenant c = none → t.flowOwner c.handle = none → bit e.flags 2 = false → t.flowReady = true →
    c.handle < 2 ^ 20 → t.imageBad b = none → t.flow.handles.find c.handle ≠ some false →
    t.flow.findKey e.profile e.key = none →
    Flow.insert t.flow { e with handle := c.handle } = some (f, pl, n) →
    Answers (.flowInsert c) s op c (Reply.ok { t with flow := f } (placeReply pl ++ leBytes 4 n))) ∧
  (∀ s c, let op : Op := { code := 0x0401, tenant := true, inst := .either, lens := [64] }
    let t := s.opened op c
    let b := bufferOf op c
    s.ready op c = true → cmdTenant c = none → t.flowOwner c.handle = none → bit (imageFields t b none).flags 2 = false →
    t.flowReady = true → c.handle < 2 ^ 20 → t.imageBad b = none → t.flow.handles.find c.handle = some false →
    Answers (.flowInsert c) s op c (Reply.no t 7 2)) ∧
  -- the place: with a free slot in the fuller-free candidate bucket, its lowest free slot, and no displacement
  (∀ (f : Flow) e c0 c1 i is, f.cands e.profile e.key = [c0, c1] → (f.freeSlots c1).length ≤ (f.freeSlots c0).length →
    f.freeSlots c0 = i :: is →
    f.insert e = some (({ f with handles := f.handles.put e.handle false, recs := f.recs.put e.handle {} } : Flow).putAt
      (.slot c0.1 c0.2 i) e, .slot c0.1 c0.2 i, 0)) ∧
  (∀ s c pl x, let op : Op := { code := 0x0402, tenant := true, inst := .either, lens := [64] }
    let t := s.opened op c
    let b := bufferOf op c
    let e := imageFields t b none
    s.ready op c = true → cmdTenant c = none → t.flow.findHandle c.handle = some pl → t.flow.entry pl = some x →
    bit x.flags 2 = false → bit x.flags 3 = false → bit e.flags 2 = false → t.flowReady = true → c.handle < 2 ^ 20 →
    t.imageBad b = none → t.flow.handles.find c.handle = some false → x.profile = e.profile → x.key = e.key →
    bit c.flags.toNat 0 = false →
    Answers (.flowWrite c) s op c (Reply.ok { t with
      flow := t.flow.putAt pl { x with flags := e.flags, meter := e.meter, action := e.action } }
      (placeReply pl ++ leBytes 4 0))) ∧
  (∀ s c pl x, let op : Op := { code := 0x0403, tenant := true, inst := .either }
    let t := s.opened op c
    s.ready op c = true → cmdTenant c = none → t.flow.findHandle c.handle = some pl → t.flow.entry pl = some x →
    bit x.flags 2 = false → t.flowReady = true → t.flow.handles.has c.handle = true →
    Answers (.flowDelete c) s op c (Reply.ok (t.flowDeleteAt pl)
      (leBytes 6 (t.flow.recs.getD c.handle {}).packets ++ leBytes 6 (t.flow.recs.getD c.handle {}).octets))) ∧
  (∀ s c pl x, let op : Op :=
      { code := 0x0404, tenant := true, inst := .either, lens := [96], reads := bit c.flags.toNat 0, writes := true }
    let t := s.opened op c
    s.ready op c = true → cmdTenant c = none → bit c.flags.toNat 0 = false → t.flow.findHandle c.handle = some pl →
    t.flow.entry pl = some x → t.flowReady = true → c.handle < 2 ^ 20 → t.flow.handles.find c.handle = some false →
    Answers (.flowQuery c) s op c { st := t, buf := x.image ++ (t.flow.recs.getD x.handle {}).image }) ∧
  (∀ s v, s.linkReady = true → s.inRun 5 = true → bit v.toNat 31 = true → bit v.toNat 16 = false →
    (∀ p < 16, bit v.toNat p = true → s.profRejects p = false) →
    exec (.flowProfCommit v) s = .next { s with
      flow.profSelect := v.toNat % 65536, flow.profSelMap := false
      flow.profs := (List.range 16).map (fun p => if bit v.toNat p then s.flow.staged.getD p {} else s.prof p) })

/-- R156, R158, R159, R160, R163 to R166: the swing, the chart check, the reload, the wake scan and the aging sweep begin, do
their work and end with the result and the flow event of R166. -/
def Obligations.FlowBackgroundJobsRun : Prop :=
  (∀ s c, let op : Op := { code := 0x0405 }
    let t := s.opened op c
    let a := BitVec.ofNat 64 (leAt c.data 0 8)
    let b := BitVec.ofNat 64 (leAt c.data 8 8)
    s.ready op c = true → c.handle = 0 → a ≠ 0 → b ≠ 0 → a ≠ b → a ≠ t.flow.seedA → a ≠ t.flow.seedB → b ≠ t.flow.seedA →
    b ≠ t.flow.seedB → 50 ≤ leAt c.data 16 2 → leAt c.data 16 2 ≤ 1000 → 1 ≤ leAt c.data 18 2 → leAt c.data 18 2 ≤ 256 →
    t.flowReady = true → t.flow.jobCode = 0 →
    Answers (.flowSwing c) s op c (Reply.ok { t with
      flow.swing := some { seedA := a, seedB := b, budget := leAt c.data 16 2, maxMoves := leAt c.data 18 2, cursor := 0
                           stalled := false, everStalled := false, moves := 0 }
      flow.bgReady := false, flow.progress := 0 })) ∧
  -- the swing's end: no entry is left outside its new positions, and the new seeds are in force
  (∀ s w, s.flow.swing = some w → s.flowReady = true → s.hove = false → (s.flow.swingWork w).1.stuck = 0 →
    Completes .flowSwingComplete s (fun t =>
      t.flow.seedA = w.seedA ∧ t.flow.seedB = w.seedB ∧ t.flow.swing = none ∧ t.flow.bgReady = (s.flow.job == .none) ∧
      t.flow.bgJob = 1 ∧
      t.flow.bgOutcome = (if w.everStalled then 1 else 0) ∧ t.flow.bgSeq = ((s.flow.swingWork w).1.bgSeq + 1) % 65536 ∧
      t.flow.slots = (s.flow.swingWork w).1.slots ∧ t.flow.ovf = (s.flow.swingWork w).1.ovf ∧
      t.cls = s.cls ∧ t.sw = s.sw ∧ t.sched = s.sched ∧ t.ciph = s.ciph ∧ t.ports = s.ports ∧ SameGrid s t ∧ SameInst s t ∧
      SameRings s t ∧ SameBoard s t ∧ t.helm = s.helm ∧ t.dram = s.dram)) ∧
  -- entries that stay outside stall it: STALLED is set, and the flow event is raised
  (∀ s w, s.flow.swing = some w → w.stalled = false → s.flowReady = true → s.hove = false →
    Completes .flowSwingStall s (fun t => let stays := decide ((s.flow.swingWork w).1.stuck ≠ 0)
      (∃ w', t.flow.swing = some w' ∧ w'.stalled = stays ∧ w'.everStalled = (w.everStalled || stays) ∧ w'.seedA = w.seedA ∧
        w'.seedB = w.seedB) ∧
      t.evt.cnt = (if stays then s.evt.cnt.inc 14 else s.evt.cnt) ∧
      t.cls = s.cls ∧ t.ports = s.ports ∧ SameGrid s t ∧ SameInst s t ∧ SameRings s t ∧ SameBoard s t)) ∧
  (∀ s c (chart : List (Nat × Bytes)), let op : Op := { code := 0x0406, lens := [32] }
    let t := s.opened op c
    let b := bufferOf op c
    let lines := chart.map (fun p => (p.1, HostRead.data p.2))
    s.ready op c = true → c.handle = 0 → leAt b 0 8 % 64 = 0 → leAt b 8 8 % 16 = 0 → 0 < leAt b 16 4 → leAt b 16 4 ≤ 1048576 →
    rangeBad b = none → 10 ≤ byteAt b 29 → byteAt b 29 ≤ 250 → t.flowReady = true → t.flow.jobCode = 0 →
    s.err.injectTimeout = false →
    Completes (.flowChartCheck c lines) s (fun u => ∃ k, u.flow.job = .check k ∧
      k.chartBase = leAt b 0 8 ∧ k.reportBase = leAt b 8 8 ∧ k.reportEntries = leAt b 16 4 ∧ k.first = leAt b 20 4 ∧
      k.count = leAt b 24 4 ∧ k.tags = bit (byteAt b 28) 0 ∧ k.budget = byteAt b 29 ∧ k.mismatches = 0 ∧
      k.waiting.map Mismatch.what = (t.checkHandles (leAt b 20 4) (leAt b 24 4) lines).filter (fun h => (t.flow.compare k.tags h
        (slice (((chart.find? (fun p => p.1 == h)).map (·.2)).getD (zeros 64)) 0 64)).isSome) ∧
      u.flow.slots = s.flow.slots ∧ u.flow.ovf = s.flow.ovf ∧ u.cls = s.cls ∧ u.ports = s.ports ∧ SameGrid s u)) ∧
  (∀ s k h m line, s.flow.job = .check k → k.waiting.find? (fun w => w.what == h) = some m → s.hove = false →
    s.flowReady = true → s.elapsed m.since (s.flow.settleMs * msTicks) = true →
    (∀ a ∈ s.dechan.accepted, ¬(0x0401 ≤ a.opcode ∧ a.opcode ≤ 0x0404)) → s.readHeld .pf0 = false → s.err.injectTimeout = false →
    s.flow.compare k.tags h (slice line 0 64) = none →
    exec (.flowChartRecheck h (.data line)) s = .next
      { s.emitReads .pf0 none (k.chartBase + 64 * h) 64 ((s.freeTag .pf0).getD 0) with
        flow.job := .check { k with waiting := k.waiting.filter (fun w => w.what != h) } }) ∧
  (∀ s k, s.flow.job = .check k → k.waiting = [] → s.hove = false → s.flowReady = true →
    exec .flowChartCheckDone s = .next (State.event { s with
      flow.job := .none, flow.bgSeq := (s.flow.bgSeq + 1) % 65536, flow.bgReady := s.flow.swing.isNone, flow.bgJob := 2
      flow.bgOutcome := if k.full then 2 else 0, flow.bgA := BitVec.ofNat 32 k.compared
      flow.bgB := BitVec.ofNat 32 k.mismatches } 14)) ∧
  (∀ s c, let op : Op := { code := 0x0407, lens := [32] }
    let t := s.opened op c
    let b := bufferOf op c
    s.ready op c = true → c.handle = 0 → leAt b 0 8 % 64 = 0 → rangeBad b = none → t.flowReady = true → t.flow.jobCode = 0 →
    Answers (.flowReloadBank c) s op c (Reply.ok { t with
      flow.job := .reload (leAt b 0 8) (leAt b 20 4) (leAt b 24 4), flow.bgReady := false, flow.progress := 0 })) ∧
  (∀ s base first count, s.flow.job = .reload base first count → s.hove = false → s.flowReady = true → s.readHeld .pf0 = false →
    (∀ p ∈ s.flow.handles, p.2 = false) →
    exec (.flowReloadDone []) s = .next (State.event { s with
      flow.job := .none, flow.progress := 0, flow.bgSeq := (s.flow.bgSeq + 1) % 65536, flow.bgReady := s.flow.swing.isNone
      flow.bgJob := 3
      flow.bgOutcome := 0, flow.bgA := 0, flow.bgB := 0 } 14)) ∧
  -- a LOST handle whose chart line cannot be read stays LOST and is counted as not reloaded
  (∀ s base first count h, s.flow.job = .reload base first count → s.hove = false → s.flowReady = true →
    s.readHeld .pf0 = false → s.flow.handles = [(h, true)] → first ≤ h → h < first + count → s.flowOwner h = none →
    Completes (.flowReloadDone [(h, .timeout)]) s (fun t =>
      t.flow.handles = s.flow.handles ∧ t.flow.slots = s.flow.slots ∧ t.flow.ovf = s.flow.ovf ∧ t.flow.job = .none ∧
      t.flow.bgJob = 3 ∧ t.flow.bgA = 0 ∧ t.flow.bgB = 1 ∧ t.cls = s.cls ∧ t.ports = s.ports ∧ SameGrid s t ∧ SameInst s t)) ∧
  -- the wake scan: a handle without an entry is LOST afterwards, overflow entries go back to free slots of their candidates, and
  -- the result's two counts are free values
  (∀ s, s.flow.scanDue = true → s.inRun 6 = true → s.helmRuns = true → s.hove = false → s.insts = [] →
    Completes .flowWakeScanDone s (fun t =>
      t.flow.scanDue = false ∧ t.flow.bgJob = 4 ∧ t.flow.bgReady = (s.flow.swing.isNone && s.flow.job == .none) ∧
      t.flow.progress = s.flow.handles.length ∧
      (∀ h lost, s.flow.handles.find h = some lost →
        t.flow.handles.find h = some (lost || (s.flow.findHandle h).isNone)) ∧
      t.flow.slots = s.flow.takeAllBack.slots ∧ t.flow.ovf = s.flow.takeAllBack.ovf ∧ t.cls = s.cls ∧ t.ports = s.ports ∧ SameGrid s t ∧ SameInst s t ∧
      SameRings s t ∧ SameBoard s t)) ∧
  -- the sweep: due once AGE_SWEEP_MS have passed; an entry whose time has not run out stays, with HIT cleared
  (∀ s h pl e, s.inRun 6 = true → s.flow.sweepMs ≤ (s.flow.ms.toNat + 2 ^ 32 - s.flow.lastSweep) % 2 ^ 32 →
    s.flow.firstSweep = false → s.flow.handles = [(h, false)] → s.flow.findHandle h = some pl → s.flow.entry pl = some e →
    bit e.flags 0 = true →
    (s.flow.ms - (s.flow.recs.getD h {}).lastMs).toNat < (s.flow.profs.getD e.profile {}).ageLimit * 1000 →
    exec .flowAgingSweep s = .next { s with
      flow.lastSweep := s.flow.ms.toNat
      flow.recs := s.flow.recs.put h { s.flow.recs.getD h {} with
        flags := (s.flow.recs.getD h {}).flags - (s.flow.recs.getD h {}).flags % 2 } }) ∧
  (∀ s, s.inRun 6 = true → (s.flow.ms.toNat + 2 ^ 32 - s.flow.lastSweep) % 2 ^ 32 < s.flow.sweepMs →
    exec .flowAgingSweep s = .next s) ∧
  -- the job's suspension hove-to
  (∀ s, s.hove = true → exec .flowWakeScanDone s = .next s ∧ exec .flowSwingComplete s = .next s ∧
    exec .flowChartCheckDone s = .next s)

/-- R249 to R251, R252, R253, R262, R263: the refill applies staged changes and credits every node within its bounds; a port
without an eligible node sends nothing; the recorder's port takes the head of the only queue that waits when its deficit covers it;
a sounding round begins once in its tick and is written whole or skipped. -/
def Obligations.SchedulerRefillsSelectsAndSounds : Prop :=
  (∀ s, s.inRun 5 = true → s.sched.tickAt ≠ some (s.now / 1250) →
    (∀ a ∈ s.dechan.accepted, a.opcode ≠ 0x0208 ∧ a.opcode ≠ 0x0701) →
    exec .schedRefill s = .next { s with
      sched.tick := s.sched.tick + 1
      sched.tickAt := some (s.now / 1250)
      sched.ready := s.sched.ready || s.helmRuns
      sched.cnt := s.sched.cnt.add 6 (s.sched.nodes.filter (fun p => p.2.staged.isSome)).length
      sched.nodes := s.sched.nodes.mapVals (fun id x =>
        if s.sched.ready then x.apply.refill (s.nodeQueued id) else { x.apply with credit := 0 }) }) ∧
  -- once in a microsecond
  (∀ s, s.sched.tickAt = some (s.now / 1250) → exec .schedRefill s = .next s) ∧
  -- R249 on one node: never above HI, at zero at most when nothing is queued, and an unshaped node has no credit
  (∀ (n : Node) q, n.rate = 0 → (n.refill q).credit = 0) ∧
  (∀ n : Node, n.rate ≠ 0 → (n.refill true).credit = min (n.credit + (n.rate * 32 : Nat)) ((n.hi * 256 : Nat) : Int)) ∧
  (∀ n : Node, n.rate ≠ 0 → 0 ≤ n.credit → (n.refill false).credit = 0) ∧
  (∀ n : Node, n.rate ≠ 0 → n.credit < 0 → (n.refill false).credit = min 0 (n.credit + (n.rate * 32 : Nat))) ∧
  (∀ s p, s.inRun 5 = true → s.eligible (portNode p) = false → (p = 4 ∨ p = 5) → exec (.schedSelect p) s = .next s) ∧
  (∀ s sub f l,
    let len := if cellsOf f.frame.len ≤ 1 then max 84 (f.frame.len + (s.node 0x3005).overhead)
      else f.frame.len + (s.node 0x3005).overhead
    s.inRun 5 = true → s.hove = false → s.sched.ready = true → s.sched.queues = [(sub * 64 + 5, f :: l)] →
    (s.node sub).rate = 0 → (s.node (0x1000 + sub * 8)).rate = 0 → (s.node 0x3005).rate = 0 →
    len ≤ s.sched.deficit.getD (sub * 8 + 5) 0 →
    ∃ t, s.select 5 = some (f, sub * 64 + 5, t) ∧
      t.sched.queues = (if l.isEmpty then [] else [(sub * 64 + 5, l)]) ∧
      t.sched.deficit = (if l.isEmpty then s.sched.deficit.drop1 (sub * 8 + 5)
        else s.sched.deficit.put (sub * 8 + 5) (s.sched.deficit.getD (sub * 8 + 5) 0 - len)) ∧
      t.sched.cnt = s.sched.cnt.inc 0 ∧ t.sched.nodes = s.sched.nodes ∧
      exec (.schedSelect 5) s = .next ((t.rawCopy f.frame).leaveQueue f 5)) ∧
  (∀ s k x, k < 4 → s.sched.snd.getD k {} = x → x.enable = true → s.inRun 5 = true → s.sched.ready = true → s.hove = false →
    s.sched.tick % x.period = 0 → x.lastTick ≠ some s.sched.tick →
    (x.writing ≠ 0 ∨ 2 ^ x.ringLog2 < (x.prod - x.cons).toNat + (x.count + 1)) →
    exec (.soundingRound k) s = .next { s with sched.snd := s.sched.snd.set k { x with
      lastTick := some s.sched.tick, round := x.round + 1, skip := x.skip + 1 } }) ∧
  (∀ s k x, k < 4 → s.sched.snd.getD k {} = x → x.lastTick = some s.sched.tick → exec (.soundingRound k) s = .next s) ∧
  (∀ s k x, k < 4 → s.sched.snd.getD k {} = x → x.enable = true → s.inRun 5 = true → s.sched.ready = true → s.hove = false →
    s.sched.tick % x.period = 0 → x.lastTick ≠ some s.sched.tick → x.writing = 0 →
    (x.prod - x.cons).toNat + (x.count + 1) ≤ 2 ^ x.ringLog2 →
    Completes (.soundingRound k) s (fun t =>
      -- PROD counts the records that have left; while Bus Master Enable is 0 they wait
      t.sched = { s.sched with snd := s.sched.snd.set k (
        if s.linkReady = true ∧ s.host.cfg0.bme = false then
          { x with lastTick := some s.sched.tick, round := x.round + 1, writing := x.count + 1 }
        else { x with
          lastTick := some s.sched.tick, round := x.round + 1, prod := x.prod + BitVec.ofNat 32 (x.count + 1) }) } ∧
      t.flow = s.flow ∧ t.cls = s.cls ∧ t.sw = s.sw ∧ t.ciph = s.ciph ∧ t.ports = s.ports ∧ SameGrid s t ∧ SameInst s t ∧
      SameRings s t ∧ SameBoard s t ∧ SameProc s t)) ∧
  (∀ s, s.inRun 6 = true → s.sched.ready = true →
    exec .meterRefresh s = .next { s with sched.meters := s.sched.meters.mapVals (fun _ m =>
      if m.valid then m.credit (s.sched.profiles.getD m.profile {}) s.meterClock else m) })

/-- R253, R254, R259, R264 to R266: the scheduler's commands, once past the common checks, stage a node's change, set a meter
profile, assign meters with full buckets, read one, and switch a sounding set on or off. -/
def Obligations.SchedulerCommandsConfigure : Prop :=
  (∀ s c, let op : Op := { code := 0x0208, inst := .inst, states := 0x3E }
    let t := s.opened op c
    s.ready op c = true → t.sched.ready = true → shareBad c.data 100000 true false false = none →
    Answers (.instSetShare c) s op c
      { st := { t with sched.nodes := t.sched.nodes.put c.inst { t.node c.inst with staged := some (shareStaged c.data) } }
        later := true, limit := 2 * msTicks }) ∧
  (∀ s c, let op : Op := { code := 0x0701 }
    let t := s.opened op c
    s.ready op c = true → t.sched.ready = true → (c.handle = 512 ∨ c.handle = 513) →
    shareBad c.data 100000 true false false = none →
    Answers (.schedNodeConfig c) s op c
      { st := { t with
          sched.nodes := t.sched.nodes.put c.handle { t.node c.handle with staged := some (shareStaged c.data) } }
        later := true, limit := 2 * msTicks }) ∧
  (∀ s c n, let op : Op := { code := 0x0702 }
    let t := s.opened op c
    s.ready op c = true → t.sched.ready = true → byteAt c.data 0 = 1 → n = profileOf c.data → leAt c.data 2 2 ≤ 4095 →
    8 ≤ n.cir → n.cir ≤ n.pir → n.pir ≤ 100000000 → 64 ≤ n.cbs → n.cbs ≤ 16777215 → 64 ≤ n.pbs → n.pbs ≤ 16777215 →
    Answers (.schedMeterProfile c) s op c (Reply.ok { t with
      sched.profiles := t.sched.profiles.put (leAt c.data 2 2) n })) ∧
  -- R265: a meter's buckets are clipped to its profile's sizes at its next update
  (∀ (m : Meter) pr clock, (m.credit pr clock).tc ≤ pr.cbs * 64 ∧ (m.credit pr clock).tp ≤ pr.pbs * 64 ∧
    (m.credit pr clock).last = clock) ∧
  (∀ s c, let op : Op := { code := 0x0702 }
    let t := s.opened op c
    let pr := t.sched.profiles.getD (leAt c.data 2 2) {}
    s.ready op c = true → t.sched.ready = true → byteAt c.data 0 = 2 → leAt c.data 2 2 ≤ 4095 → leAt c.data 4 4 < 524288 →
    leAt c.data 8 4 = 1 → t.mem.errors = [] →
    Answers (.schedMeterAssign c) s op c (Reply.ok { t with
      sched.meters := t.sched.meters.put (leAt c.data 4 4)
        { tc := pr.cbs * 64, tp := pr.pbs * 64, last := t.meterClock, profile := leAt c.data 2 2, valid := true, lost := false } })) ∧
  (∀ s c m, let op : Op := { code := 0x0702 }
    let t := s.opened op c
    s.ready op c = true → t.sched.ready = true → byteAt c.data 0 = 3 → leAt c.data 4 4 < 524288 →
    t.sched.meters.find (leAt c.data 4 4) = some m → m.lost = false →
    Answers (.schedMeterRead c) s op c (Reply.ok t (leBytes 4 (m.tc / 64) ++ leBytes 4 (m.tp / 64) ++ leBytes 2 m.profile ++
      [BitVec.ofNat 8 (if m.valid then 1 else 0)]))) ∧
  -- of a LOST record VALID and LOST read as they are; the rest is a free value (log entry 145)
  (∀ s c m, let op : Op := { code := 0x0702 }
    let t := s.opened op c
    s.ready op c = true → t.sched.ready = true → byteAt c.data 0 = 3 → leAt c.data 4 4 < 524288 →
    t.sched.meters.find (leAt c.data 4 4) = some m → m.lost = true →
    ∃ x : Bytes, x.length = 10 ∧ Answers (.schedMeterRead c) s op c
      (Reply.ok { t with free := t.free + 1 } (x ++ [BitVec.ofNat 8 ((if m.valid then 1 else 0) + 2)]))) ∧
  (∀ s c, let op : Op := { code := 0x0703 }
    let t := s.opened op c
    s.ready op c = true → t.sched.ready = true → byteAt c.data 0 ≤ 3 → bit (byteAt c.data 1) 0 = false →
    soundingBad (soundingOf c.data) = none →
    Answers (.schedSoundingConfig c) s op c (Reply.ok { t with
      sched.snd := t.sched.snd.modify (byteAt c.data 0) (fun y => { y with enable := false }) })) ∧
  (∀ s c x, let op : Op := { code := 0x0703 }
    let t := s.opened op c
    s.ready op c = true → t.sched.ready = true → byteAt c.data 0 ≤ 3 → x = soundingOf c.data → x.enable = true →
    soundingBad x = none → soundingLoad (t.sched.snd.set (byteAt c.data 0) x) = true →
    Answers (.schedSoundingConfig c) s op c (Reply.ok { t with
      sched.snd := t.sched.snd.set (byteAt c.data 0) { x with
        skip := (t.sched.snd.getD (byteAt c.data 0) {}).skip, lastTick := some t.sched.tick } }))

/-- R219 to R223, R238 to R243: the commands of class 6 and the lodestar's, once past the common checks: a context is created,
rekeyed with a higher generation, returned, or freed with its final packet number; the lodestar is fused or loaded; an alarm whose
cause has gone is cleared. -/
def Obligations.CipherCommandsChangeTheirContext : Prop :=
  (∀ s c, let op : Op := { code := 0x0601, tenant := true, inst := .either, lens := [128], zeroAt := some (64, 44), zeroIf := true,
                           writes := true }
    let t := s.opened op c
    let b := bufferOf op c
    let x := ctxOf b (slice b 32 32) 0xFFFF t.ciph.kcv
    s.ready op c = true → cmdTenant c = none → c.paramLen = 128 → t.ctxOwner c.handle = none → c.handle < 2 ^ 20 → ctxBad b = none →
    bit (byteAt b 1) 0 = false → t.ctx c.handle = none → (byteAt b 0 = 1 ∨ byteAt b 0 = 3) →
    (∀ p ∈ t.ciph.ctxs, p.2.label ≠ slice b 32 32) →
    Answers (.ctxCreate c) s op c (Reply.ok { t with ciph.ctxs := t.ciph.ctxs.put c.handle x })) ∧
  (∀ s c x, let op : Op := { code := 0x0602, tenant := true, inst := .either, lens := [0, 44], zeroAt := none, writes := true }
    let t := s.opened op c
    s.ready op c = true → cmdTenant c = none → c.paramLen = 0 → c.handle < 2 ^ 20 → t.ctx c.handle = some x → x.state ≠ .lost →
    x.imported = false → labelGen x.label < leAt c.data 0 2 → t.pinned c.handle = false →
    Answers (.ctxRekey c) s op c (Reply.ok { t with
      ciph.ctxs := t.ciph.ctxs.put c.handle { x with
        label := overlay x.label 2 (beBytes 2 (leAt c.data 0 2)), pn := if x.tx then 1 else 0, next := 1, start := 1, bitmap := 0
        warned := false, kcv := t.ciph.kcv, state := .live }
      ciph.cache := t.ciph.cache.filter (fun k => k.handle != c.handle) })) ∧
  (∀ s c x, let op : Op := { code := 0x0602, tenant := true, inst := .either, lens := [0, 44], zeroAt := none, writes := true }
    let t := s.opened op c
    s.ready op c = true → cmdTenant c = none → c.paramLen = 0 → c.handle < 2 ^ 20 → t.ctx c.handle = some x → x.state ≠ .lost →
    x.imported = false → leAt c.data 0 2 ≤ labelGen x.label →
    Answers (.ctxRekey c) s op c (Reply.bad t 24)) ∧
  (∀ s c x, let op : Op := { code := 0x0604, tenant := true, inst := .either, lens := [64], reads := false, writes := true }
    let t := s.opened op c
    s.ready op c = true → cmdTenant c = none → c.handle < 2 ^ 20 → t.ctx c.handle = some x → x.state ≠ .lost →
    Answers (.ctxQuery c) s op c
      { st := t, buf := x.record
        data := [BitVec.ofNat 8 x.state.code, if x.kcv = t.ciph.kcv then 1 else 0] }) ∧
  (∀ s c x, let op : Op := { code := 0x0603, tenant := true, inst := .either }
    let t := s.opened op c
    s.ready op c = true → cmdTenant c = none → c.handle < 2 ^ 20 → t.ctx c.handle = some x → t.pinned c.handle = false →
    t.ciph.jobs = [] →
    Answers (.ctxDestroy c) s op c (Reply.ok { t with
      ciph.ctxs := t.ciph.ctxs.drop1 c.handle
      ciph.sa := t.ciph.sa.filter (· != c.handle)
      ciph.cache := t.ciph.cache.filter (fun k => k.handle != c.handle) }
      (leBytes 8 (if x.tx then x.next - 1 else x.pn.toNat)))) ∧
  (∀ s c, let op : Op := { code := 0x0E04 }
    let t := s.opened op c
    s.ready op c = true → t.ciph.present = 0 → byteAt c.data 0 = 31 → t.ciph.lode = .alarmed →
    Answers (.secAlarmClear c) s op c
      (Reply.ok (State.alertSettle { t with ciph.latched := 0, ciph.lode := .empty }) [0, 0])) ∧
  (∀ s c, let op : Op := { code := 0x0E01, lens := [96], writes := true, zeroAt := some (8, 60) }
    let t := s.opened op c
    let b := bufferOf op c
    s.ready op c = true → c.paramLen = 96 → byteAt b 0 = 3 → t.ciph.enrolment = none →
    Answers (.secLodestarLoad c) s op c
      { Reply.ok { t with ciph.enrolment := some (slice b 20 32) } with buf := zeros 60, bufOff := 8 })

/-- R225 to R228, R233 to R235: the inbound SA table is rebuilt; a raw lane has one holder, who alone runs blocks and gives the lane
back, and whose hold expires; a key that has been produced enters the cache; a suspended operation leaves its lane. -/
def Obligations.CipherEventsAndRawLanes : Prop :=
  (∀ s, s.inRun 8 = true → s.helmRuns = true → s.ciph.ready = false →
    exec .ciphSaRebuildDone s = .next { s with
      ciph.ready := true
      ciph.sa := (s.ciph.ctxs.filter (fun p => (p.2.op == 2 || p.2.op == 4) && p.2.state != .lost)).map (·.1) }) ∧
  (∀ s t n, n < 3 → t < 128 → s.inRun 8 = true → s.helmRuns = true → t ∉ (s.rawLane n).lostBy → (s.rawLane n).held = false →
    exec (.rawLockTake t n) s = .next { s with ciph.raw := s.ciph.raw.set n { s.rawLane n with
      held := true, owner := t, since := s.now, status := 0 } }) ∧
  (∀ s t n, n < 3 → s.inRun 8 = true → s.helmRuns = true → t ∉ (s.rawLane n).lostBy → (s.rawLane n).held = true →
    exec (.rawLockTake t n) s = .next s) ∧
  (∀ s t n k big b, n < 3 → s.inRun 8 = true → s.helmRuns = true → t ∉ (s.rawLane n).lostBy → (s.rawLane n).held = true →
    (s.rawLane n).owner = t → (s.rawLane n).key = some (k, big) →
    exec (.rawLaneGo t n none b false) s = .next { s with ciph.raw := s.ciph.raw.set n { s.rawLane n with
      block := aesEncrypt k (slice b 0 16), status := 0 } }) ∧
  -- with no key loaded the block's result is open: sixteen octets of free values, the lane otherwise as a run leaves it
  (∀ s t n b dec, n < 3 → s.inRun 8 = true → s.helmRuns = true → t ∉ (s.rawLane n).lostBy → (s.rawLane n).held = true →
    (s.rawLane n).owner = t → (s.rawLane n).key = none →
    ∃ r : Bytes, exec (.rawLaneGo t n none b dec) s = .next { s with
      free := s.free + 2, ciph.raw := s.ciph.raw.set n { s.rawLane n with block := r, status := 0 } }) ∧
  (∀ s t n l b dec, n < 3 → s.inRun 8 = true → s.helmRuns = true → t ∉ (s.rawLane n).lostBy → (s.rawLane n).held = true →
    (s.rawLane n).owner = t → labelKind l ≠ 7 →
    exec (.rawLaneGo t n (some (.label l)) b dec) s = .next
      { s with ciph.raw := s.ciph.raw.set n { s.rawLane n with status := 1 } }) ∧
  -- R234: a thread may load no key of its own; Binnacle runs blocks on lane 43 under one
  (∀ s t n k b dec, n < 3 → s.inRun 8 = true → s.helmRuns = true → t ∉ (s.rawLane n).lostBy → (s.rawLane n).held = true →
    (s.rawLane n).owner = t →
    exec (.rawLaneGo t n (some (.own k)) b dec) s = .next
      { s with ciph.raw := s.ciph.raw.set n { s.rawLane n with status := 1 } }) ∧
  (∀ s t k b, s.inRun 8 = true → s.inRun 3 = true →
    exec (.rawLaneGo t 3 (some (.own k)) b false) s = .next { s with ciph.raw := s.ciph.raw.set 3 { s.rawLane 3 with
      key := some (k, decide (16 < k.length)), block := aesEncrypt k (slice b 0 16), status := 0 } }) ∧
  (∀ s t n, n < 3 → s.inRun 8 = true → s.helmRuns = true → t ∉ (s.rawLane n).lostBy → (s.rawLane n).held = true →
    (s.rawLane n).owner = t →
    exec (.rawLockRelease t n) s = .next { s with ciph.raw := s.ciph.raw.set n { s.rawLane n with held := false, key := none } }) ∧
  (∀ s n, n < 3 → (s.rawLane n).held = true → (s.rawLane n).since + s.ciph.rawHoldUs * 1250 ≤ s.now →
    exec (.rawHoldExpiry n) s = .next { s with
      ciph.raw := s.ciph.raw.set n { s.rawLane n with held := false, key := none, lostBy := addNew (s.rawLane n).lostBy (s.rawLane n).owner }
      ciph.cnt := s.ciph.cnt.inc 14 }) ∧
  (∀ s n, n < 3 → (s.rawLane n).held = true → s.now < (s.rawLane n).since + s.ciph.rawHoldUs * 1250 →
    exec (.rawHoldExpiry n) s = .next s) ∧
  -- the access after an expiry performs nothing, and the next one is an access again
  (∀ s t n, n < 3 → s.inRun 8 = true → s.helmRuns = true → t ∈ (s.rawLane n).lostBy →
    exec (.rawLockTake t n) s = .next { s with ciph.raw := s.ciph.raw.set n { s.rawLane n with
      lostBy := (s.rawLane n).lostBy.filter (· != t), status := 2 } }) ∧
  -- a key that has been derived (or unwrapped) is cached, and the operation that waited for it is carried out with it
  (∀ s x j k, s.inRun 8 = true → s.ciph.jobs = [j] → j.place = .key → s.lodeLoaded = true → s.ctx j.handle = some x →
    x.state = .live → x.kcv = s.ciph.kcv → x.imported = false → s.errBits 1 (0x380000000 + j.handle * 64) 64 = 0 →
    isTxCode j.code = false → j.args = none → s.ciph.cache = [] → s.ctxKey j.handle x = some k →
    exec (.keyDeriveDone j.handle) s = .next
      (let r := ((s.putKey j.handle x k).ciphCount 7).cipherOp j.frame j.handle j.code (s.ctxArgs x k) none
       r.2.jobEnd 0 { j with pn := none } r.1)) ∧
  (∀ s x j k, s.inRun 8 = true → s.inRun 11 = true → s.ciph.jobs = [j] → j.place = .key → s.lodeLoaded = true →
    s.ctx j.handle = some x → x.state = .live → x.kcv = s.ciph.kcv → x.imported = true →
    s.errBits 1 (0x380000000 + j.handle * 64) 64 = 0 →
    isTxCode j.code = false → j.args = none → s.ciph.cache = [] → s.ctxKey j.handle x = some k →
    exec (.keyUnwrapDone j.handle) s = .next
      (let r := ((s.putKey j.handle x k).ciphCount 8).cipherOp j.frame j.handle j.code (s.ctxArgs x k) none
       r.2.jobEnd 0 { j with pn := none } r.1)) ∧
  -- R225: a key that no operation waits for changes nothing
  (∀ s h, s.misses.contains h = false → exec (.keyDeriveDone h) s = .next s ∧ exec (.keyUnwrapDone h) s = .next s) ∧
  (∀ s j n, s.inRun 8 = true → s.ciph.jobs = [j] → j.place = .lane n → s.dechan.accepted = [] →
    exec .cipherSuspend s = .next { s with
      ciph.jobs := [{ j with place := .store, seq := s.ciph.suspended }], ciph.suspended := s.ciph.suspended + 1
      ciph.cnt := s.ciph.cnt.inc 11 }) ∧
  -- R227, R242: an operation that was dispatched before it was suspended ends with what it was dispatched with
  (∀ s j a, s.inRun 8 = true → s.ciph.jobs = [j] → j.place = .store → j.args = some a →
    exec .cipherResume s = .next (State.laneFreed
      (let r := s.cipherOp j.frame j.handle j.code a j.pn
       r.2.jobEnd 0 j r.1))) ∧
  -- one that was not waits for its key again where the cache has it no longer
  (∀ s j x, s.inRun 8 = true → s.ciph.jobs = [j] → j.place = .store → j.args = none → s.dechan.accepted = [] →
    s.lodeLoaded = true → s.ctx j.handle = some x → x.state = .live → x.kcv = s.ciph.kcv →
    s.errBits 1 (0x380000000 + j.handle * 64) 64 = 0 → s.ciph.cache = [] →
    exec .cipherResume s = .next { s with ciph.jobs := [{ j with place := .key, late := false }] }) ∧
  -- whatever waits, the data of one of the operations arrives; which one is a free value where there are several (log entry 159)
  (∀ s, s.inRun 8 = true → s.awaiting ≠ [] → ∃ p ∈ s.awaiting, ∃ f,
    exec .cipherResume s = .next (State.dataArrives { s with free := f } p.1 p.2)) ∧
  (∀ s, s.awaiting = [] → exec .cipherResume s = .next s)

/-- R293, R417, R427, R440, R441, R488: what PERST_N, the turn-off message, a Warm reset, the two Function Level Resets and
DEV_RESET_UNIT leave behind. -/
def Obligations.ResetsLeaveWhatTheyName : Prop :=
  (∀ s, s.host.perstHigh = false → s.inRun 0 = true → s.inRun 2 = true → s.power.wakeN = true →
    s.power.wakeTarget.getD 5 0 = 0 →
    exec .perstDeassert s = .next { s with
      host := { s.host with perstHigh := true, perstAt := s.now, ready := false, linkUp := true, linkSince := s.now }
      power := { s.power with l2 := false, wakeN := false }
      out := s.out ++ [.land .wakeN true] }) ∧
  (∀ s, s.host.perstHigh = false → s.inRun 0 = true → s.power.wakeN = false → 2 ≤ s.power.wakeTarget.getD 5 0 →
    s.power.wakeTarget.getD 5 0 < 2 ^ 14 →
    Completes .perstDeassert s (fun t =>
      bit t.power.wakeCause 5 = true ∧ t.host.perstHigh = true ∧ t.power.l2 = false ∧
      SamePath s t ∧ SameGrid s t ∧ SameInst s t ∧ SameRings s t ∧ SameProc s t ∧ t.err = s.err ∧ t.evt = s.evt)) ∧
  (∀ s, s.linkReady = true → s.host.tags = [] → s.boot.loading = none → s.sw.busy = false →
    (∀ m < 16, (s.mover m).active = none) →
    exec .pmeTurnOff s = .next { s with
      sched.snd := s.sched.snd.map Sounding.settle
      out := s.out ++ [.pmeToAck], power.l2 := true
      host.linkUp := false, host.linkSince := s.now, host.waiting := [], host.parts := [], alm.marks := []
      host.cfg0 :=
        { errs := s.host.cfg0.errs, firstErr := s.host.cfg0.firstErr, fatal := s.host.cfg0.fatal, advisory := s.host.cfg0.advisory
          uncMask := s.host.cfg0.uncMask, corMask := s.host.cfg0.corMask, hdrSeq := s.host.cfg0.hdrSeq
          linkCtl2 := s.host.cfg0.linkCtl2 }
      host.cfg1 :=
        { errs := s.host.cfg1.errs, firstErr := s.host.cfg1.firstErr, fatal := s.host.cfg1.fatal, advisory := s.host.cfg1.advisory
          uncMask := s.host.cfg1.uncMask, corMask := s.host.cfg1.corMask, hdrSeq := s.host.cfg1.hdrSeq
          linkCtl2 := s.host.cfg1.linkCtl2 }
      host.xlats := [], err.hostCnt := s.err.hostCnt.add 5 s.host.waiting.length }) ∧
  (∀ s, s.linkReady = true → s.host.perstHigh = true → s.host.cfg0.bme = true → s.boot.loading = none → s.sw.busy = true →
    s.sw.job.dir = false →
    Completes .pcieLinkDown s (fun t =>
      t.sw.busy = false ∧ t.sw.result = 2 ∧ t.sw.done = 0 ∧ t.sw.actions = s.sw.actions ∧ t.sw.templates = s.sw.templates ∧
      t.host.linkUp = false ∧ t.ports = s.ports ∧ t.recd = s.recd)) ∧
  (∀ s, s.host.perstHigh = true →
    Completes .warmReset s (fun t =>
      t.host.perstHigh = false ∧ t.host.linkUp = false ∧ t.host.tags = [] ∧ t.host.waiting = [] ∧ t.host.xlats = [] ∧
      t.insts = [] ∧ t.bounds = [] ∧ t.reflex = {} ∧ t.cls = {} ∧ t.ciph.ctxs = [] ∧ t.ciph.cache = [] ∧
      t.err.viol0 = [] ∧ t.err.viol1 = [] ∧ t.mig.transferKey = none ∧ t.helm.thr = [] ∧ t.helm.grant = none ∧
      t.helm.challenge = none ∧ t.dechan.secEnable = false ∧ t.time.sets = [])) ∧
  (∀ s, s.linkReady = true → s.helm.grant = none →
    exec (.flr .pf1) s = .next
      (let t := s.fnReset .pf1
       let u : State := { t with
         dechan.smbox := List.replicate 4 {}, dechan.secEnable := false
         dechan.accepted := t.dechan.accepted.filter (fun a => a.ring != secRing)
         err.viol1 := [], err.violNext1 := 0, host.msix1 := [], rings := t.rings.put secRing { log2 := 4 }
         mig.transferKey := none, mig.armedUntil := none }
       (u.setVote 1 2 false).setVote 1 3 false)) ∧
  (∀ s, s.linkReady = true →
    Completes (.flr .pf0) s (fun t =>
      t.insts = [] ∧ t.bounds = [] ∧ t.reflex = {} ∧ t.cls = {} ∧ t.ciph.ctxs = [] ∧ t.err.viol0 = [] ∧
      t.err.viol1 = s.err.viol1 ∧ t.host.xlats = [] ∧ t.time.sets = [] ∧ t.helm.cores = s.helm.cores ∧ t.helm.grant = s.helm.grant ∧
      t.helm.threadSel = 0 ∧ t.helm.bp = List.replicate 16 0 ∧ t.helm.breakEn = false ∧ t.boot.meas = s.boot.meas ∧
      t.ciph.lodestar = s.ciph.lodestar ∧ t.dechan.secEnable = s.dechan.secEnable)) ∧
  (∀ s c, let op : Op := { code := 0x0103 }
    let t := s.opened op c
    s.ready op c = true → byteAt c.data 0 = 5 → Answers (.devResetUnit c) s op c (Reply.ok { t with reflex := {} })) ∧
  (∀ s c, let op : Op := { code := 0x0103 }
    let t := s.opened op c
    s.ready op c = true → byteAt c.data 0 = 4 →
    Answers (.devResetUnit c) s op c (Reply.ok { t with alm := {} })) ∧
  (∀ s c, let op : Op := { code := 0x0103 }
    let t := s.opened op c
    s.ready op c = true → byteAt c.data 0 = 9 →
    Answers (.devResetUnit c) s op c (Reply.ok (State.setMac { t with err.loopA := 0 } .a
      { present := (t.mac .a).present, intLos := (t.mac .a).intLos, modBuf := (t.mac .a).modBuf }))) ∧
  (∀ s c, let op : Op := { code := 0x0103 }
    let t := s.opened op c
    s.ready op c = true → byteAt c.data 0 = 0 ∨ 10 < byteAt c.data 0 →
    Answers (.devResetUnit c) s op c (Reply.no t 0xB 24))

/-- R186, R187, R236, R237, R293, R482: an alarm destroys the lodestar and what was derived from it; configuration requests are
answered once the endpoint is ready; the table transfer, the exception path, the millisecond tick, the growth of the holdover bound
and the event enable do what their registers say. -/
def Obligations.AlarmsConfigurationAndTables : Prop :=
  (∀ s k, s.inRun 0 = true → k ≤ 4 → bit s.ciph.present k = false → s.ciph.jobs = [] → s.helm.grant = none →
    (∀ a ∈ s.dechan.accepted, a.opcode ≠ 0x0603) →
    exec (.alarmTrip k true) s = .next (State.alertSettle (State.event (State.msi { s with
      ciph := { s.ciph with
        cnt := s.ciph.cnt.inc 15
        present := s.ciph.present ||| 2 ^ k, latched := s.ciph.latched ||| 2 ^ k
        lodestar := zeros 32, lode := .alarmed, kcv := 0, eraseCount := (s.ciph.eraseCount + 1) % 2 ^ 32, cache := []
        raw := s.ciph.raw.map (fun l => { l with key := none })
        ctxs := s.ciph.ctxs.mapVals (fun _ x => if x.tx then { x with next := x.pn.toNat } else x) }
      mig.transferKey := none, mig.armedUntil := none
      reflex.slots := s.reflex.slots.mapVals (fun _ x =>
        if x.state = .armed ∧ x.tmpl.auth then { x with heldKey := true } else x) } .pf1 1) 15))) ∧
  (∀ s k, s.inRun 0 = true → k ≤ 4 →
    Completes (.alarmTrip k false) s (fun t =>
      bit t.ciph.present k = false ∧ (∀ j, j < 5 → j ≠ k → bit t.ciph.present j = bit s.ciph.present j) ∧
      t.ciph.latched = s.ciph.latched ∧ t.ciph.lode = s.ciph.lode ∧ t.ciph.lodestar = s.ciph.lodestar ∧
      t.flow = s.flow ∧ t.cls = s.cls ∧ t.ports = s.ports ∧ SameGrid s t ∧ SameInst s t ∧ SameRings s t ∧ SameBoard s t ∧
      SameHost s t ∧ SameProc s t)) ∧
  (∀ s fn off, s.linkReady = true → s.host.ready = true ∨ s.elapsed s.host.perstAt (50 * msTicks) = true →
    exec (.configRequest fn off none) s = .next { s with
      host.ready := true, out := s.out ++ [.cpl .sc (leBytes 4 (s.cfgRead fn (off / 4 * 4)))] }) ∧
  (∀ s v, s.linkReady = true → s.host.ready = true → s.inRun 2 = true →
    Completes (.configRequest .pf0 0x2A4 (some (v, 15))) s (fun t =>
      t.host.cfg0 = { s.host.cfg0 with pasidEn := bit v.toNat 16 } ∧ t.out = s.out ++ [.cpl .sc []] ∧
      SamePath s t ∧ SameGrid s t ∧ SameInst s t ∧ SameRings s t ∧ SameBoard s t ∧ SameProc s t)) ∧
  (∀ s v, s.linkReady = true → s.evt.cause = 0 →
    exec (.evtEnableWrite v) s = .next { s with evt.enable := v.toNat % 2 ^ 23 }) ∧
  (∀ s v b, s.linkReady = true → b < 23 → bit v.toNat b = true → bit s.evt.enable b = false → s.evt.cause = 2 ^ b →
    exec (.evtEnableWrite v) s = .next (State.msi { s with evt.enable := v.toNat % 2 ^ 23 } .pf0 (16 + b))) ∧
  (∀ s, s.inRun 6 = true → s.helm.thr = [] → exec .flowMsTick s = .next { s with flow.ms := s.flow.ms + 1 }) ∧
  (∀ s, s.inRun 12 = true → s.time.quality = .holdover → s.now = s.time.boundAt + msTicks → s.time.bound ≤ boundMax →
    (TimeSt.grow s.time s.time.cfg.holdoverPpb).bound ≤ s.time.cfg.boundMaxMs * 1000000 →
    Completes .boundGrowth s (fun t =>
      s.time.bound ≤ t.time.bound ∧ t.time.boundAt = s.now ∧
      SamePath s t ∧ t.alm = s.alm ∧ t.reflex = s.reflex ∧ t.recd = s.recd ∧ SameInst s t ∧ SameRings s t ∧ SameBoard s t ∧
      SameHost s t ∧ SameProc s t)) ∧
  (∀ s v, s.linkReady = true → s.inRun 5 = true → s.sw.busy = false → bit v.toNat 31 = true → v.toNat % 4 ≠ 3 →
    1 ≤ bits v.toNat 28 16 → bits v.toNat 28 16 ≤ 4096 → bits v.toNat 15 4 + bits v.toNat 28 16 ≤ tableSize (v.toNat % 4) →
    exec (.tableTransferStart v) s = .next { s with
      sw.table := v.toNat % 4, sw.dir := bit v.toNat 2, sw.first := bits v.toNat 15 4, sw.count := bits v.toNat 28 16
      sw.busy := true, sw.done := 0
      sw.job := { addr := s.sw.tblAddr.toNat, table := v.toNat % 4, dir := bit v.toNat 2, first := bits v.toNat 15 4
                  count := bits v.toNat 28 16 } }) ∧
  (∀ s v, s.linkReady = true → s.inRun 5 = true → s.sw.busy = true → bit v.toNat 31 = true →
    exec (.tableTransferStart v) s = .next s) ∧
  (∀ s v, s.linkReady = true → s.inRun 5 = true → s.sw.busy = true → bit v.toNat 31 = false →
    exec (.tableTransferStart v) s = .next { s with
      sw.table := v.toNat % 4, sw.dir := bit v.toNat 2, sw.first := bits v.toNat 15 4, sw.count := bits v.toNat 28 16 }) ∧
  (∀ s b tag, s.sw.busy = true → s.inRun 5 = true → s.linkReady = true → s.host.cfg0.bme = true → s.sw.job.dir = false →
    s.sw.job.table = 0 → s.sw.job.count = 1 → s.sw.job.addr % 128 = 0 → s.err.injectTimeout = false → s.freeTag .pf0 = some tag →
    exec (.tableTransferDone { got := b, fail := none }) s = .next
      (State.tableEnd { s with
        out := s.out ++ [.readReq .pf0 none (s.xlate .pf0 none s.sw.job.addr) 16 tag]
        sw.actions := s.sw.actions.put s.sw.job.first (slice b 0 16) } 0 1)) ∧
  (∀ s b tag, s.sw.busy = true → s.inRun 5 = true → s.linkReady = true → s.host.cfg0.bme = true → s.sw.job.dir = false →
    s.sw.job.table = 1 → s.sw.job.count = 3 → b.length = 512 → s.err.injectTimeout = false → s.freeTag .pf0 = some tag →
    Completes (.tableTransferDone { got := b, fail := some (.errorCpl false 0) }) s (fun t =>
      t.sw.busy = false ∧ t.sw.result = 2 ∧ t.sw.done = 2 ∧ t.sw.actions = s.sw.actions ∧
      t.sw.templates = (s.sw.templates.put s.sw.job.first (slice b 0 256)).put (s.sw.job.first + 1) (slice b 256 256) ∧
      t.flow = s.flow ∧ t.cls = s.cls ∧ t.ports = s.ports ∧ t.recd = s.recd)) ∧
  (∀ s r, s.sw.busy = true → s.inRun 5 = true → s.linkReady = true → s.host.cfg0.bme = true → s.sw.job.dir = true →
    exec (.tableTransferDone r) s = .next ((s.post0 s.sw.job.addr
      ((List.range s.sw.job.count).flatMap (fun k => s.sw.entry s.sw.job.table (s.sw.job.first + k)))).tableEnd 0 s.sw.job.count)) ∧
  (∀ s e es, s.helmRuns = true → s.hove = false → s.sw.exc = e :: es → (s.ring (mgrBase + 12)).state = .enabled →
    Completes .exceptionFrame s (fun t =>
      t.sw.exc = es ∧ (∃ f, (t.ring (mgrBase + 12)).frames = (s.ring (mgrBase + 12)).frames ++ [f] ∧ f.body = e.body ∧
        f.excReason = e.reason ∧ f.src = e.src ∧ f.stamp = e.stamp) ∧
      t.flow = s.flow ∧ t.cls = s.cls ∧ t.sched = s.sched ∧ t.ciph = s.ciph ∧ t.ports = s.ports ∧ SameGrid s t ∧ SameInst s t ∧
      t.dechan = s.dechan ∧ SameBoard s t ∧ SameHost s t ∧ SameProc s t)) ∧
  (∀ s e es, s.helmRuns = true → s.hove = false → s.sw.exc = e :: es → (s.ring (mgrBase + 12)).state ≠ .enabled →
    exec .exceptionFrame s = .next { s with sw.exc := es, sw.actCnt := s.sw.actCnt.inc 7 })

/-- R414 to R417, R419, R426, R466, R468, R484: rails, wake sources, the entry into Stop with its seal, the start, and a droop that trips
an armed latch. -/
def Obligations.DomainsStopStartAndWake : Prop :=
  (∀ s, s.power.vin12 = false → s.power.vaux33 = false →
    Completes (.railGood .vaux33) s (fun t =>
      t.power.vaux33 = true ∧ t.power.vin12 = false ∧ t.dom 0 = .run ∧ (∀ d, 1 ≤ d → t.dom d = .stop) ∧
      t.ciph.enrolment = s.ciph.enrolment ∧ t.insts = [] ∧ t.rings = State.reset.rings ∧ t.dram = [] ∧ t.now = s.now)) ∧
  (∀ s, s.power.vaux33 = true →
    Completes (.railGood .vin12) s (fun t =>
      t.power.vin12 = true ∧ t.power.dom = s.power.dom ∧ t.power.votes = s.power.votes ∧
      SamePath s t ∧ SameGrid s t ∧ SameInst s t ∧ SameRings s t ∧ SameHost s t ∧ SameProc s t ∧ t.mem = s.mem ∧
      t.boot = s.boot)) ∧
  (∀ s, s.power.vin12 = true →
    Completes (.railLost .vaux33) s (fun t => t = { s with power.vaux33 := false })) ∧
  (∀ s, s.power.dom.length = 14 → s.power.vaux33 = true →
    Completes (.railLost .vin12) s (fun t =>
      t.power.vin12 = false ∧ (∀ d, 2 ≤ d → t.dom d = .stop) ∧ t.dom 0 = s.dom 0 ∧ t.dom 1 = s.dom 1 ∧
      t.power.votes = s.power.votes)) ∧
  (∀ s b x, s.power.banks.find b = some x → x.armed = true →
    exec (.droopTrip b) s = .next { s with power.banks := s.power.banks.put b { x with tripped := true } }) ∧
  (∀ s b x, s.power.banks.find b = some x → x.armed = false → exec (.droopTrip b) s = .next s) ∧
  (∀ s k d, s.power.votes.length = 14 → k < 2 → s.inRun 0 = true → d < 14 → d ≠ 0 → bit (s.power.wakeTarget.getD k 0) d = true →
    Completes (.wakeSource k) s (fun t =>
      bit (t.votes d) 0 = true ∧ t.power.wakeCause = s.power.wakeCause ||| 2 ^ k ∧ t.power.dom = s.power.dom ∧
      SamePath s t ∧ SameGrid s t ∧ SameInst s t ∧ SameRings s t ∧ SameHost s t ∧ SameProc s t)) ∧
  (∀ s m d, s.power.votes.length = 14 → s.linkReady = true → d < 14 → d ≠ 0 → bit m d = true →
    Completes (.pwrWake m) s (fun t =>
      bit (t.votes d) 0 = true ∧ t.power.wakeCause = s.power.wakeCause ||| 2 ^ 6 ∧ t.power.dom = s.power.dom ∧
      SamePath s t ∧ SameGrid s t ∧ SameInst s t ∧ SameRings s t ∧ SameHost s t ∧ SameProc s t)) ∧
  (∀ s d, s.mayStop d = true → d ≠ 5 →
    exec (.domainStopEntry d) s = .next { s with power.dom := s.power.dom.set d .draining }) ∧
  (∀ s d, d ≠ 0 → s.dom d = .draining → s.wanted d = true → s.dechan.accepted = [] →
    exec (.domainStopSeal d) s = .next { s with power.dom := s.power.dom.set d .run }) ∧
  -- step 4: both seal words are written and the latch armed, and the count has risen by one
  (∀ s b, b < 32 → s.power.dom.length = 14 → s.power.stopCount.length = 14 → s.dom 7 = .draining → s.wanted 7 = false → s.dechan.accepted = [] →
    (∀ k, (s.clsBank k).move = none) →
    Completes (.domainStopSeal 7) s (fun t =>
      t.dom 7 = .stop ∧ t.stopCount 7 = s.stopCount 7 + 1 ∧
      t.power.banks.find (32 + b) = some
        { w0 := s.stopCount 7 + 1, w1 := ~~~(s.stopCount 7 + 1) ^^^ BitVec.ofNat 32 ((32 + b) * 256), armed := true, tripped := false } ∧
      t.cls = s.cls ∧ t.flow = s.flow ∧ SameGrid s t ∧ SameInst s t ∧ t.rings = s.rings)) ∧
  (∀ s d, d ≠ 0 → s.dom d = .draining → s.wanted d = true → s.dechan.accepted = [] →
    exec (.domainStart d) s = .next { s with power.dom := s.power.dom.set d .run }) ∧
  -- CLKREQ_N is low while D2 is out of Stop and released in Stop
  (∀ s, s.power.dom.length = 14 → s.mayStartDomain 2 = true → s.dechan.accepted = [] →
    Completes (.domainStart 2) s (fun t => t.dom 2 = .run ∧ t.power.clkreqLow = true)) ∧
  (∀ s, s.power.dom.length = 14 → s.dom 2 = .draining → s.wanted 2 = false → s.dechan.accepted = [] →
    bit s.power.wakeSet 2 = false →
    Completes (.domainStopSeal 2) s (fun t => t.dom 2 = .stop ∧ t.power.clkreqLow = false)) ∧
  -- a first start of D7 clears the classifier's banks; after a Stop a bank whose seal does not hold is LOST
  (∀ s, s.power.dom.length = 14 → s.mayStartDomain 7 = true → s.power.hasRun.getD 7 false = false → s.dechan.accepted = [] →
    Completes (.domainStart 7) s (fun t => t.dom 7 = .run ∧ t.cls.banks = List.replicate 32 {})) ∧
  (∀ s b, b < 32 → s.cls.banks.length = 32 → s.power.dom.length = 14 → s.mayStartDomain 7 = true →
    s.power.hasRun.getD 7 false = true → s.dechan.accepted = [] → s.bankHolds 7 (32 + b) = false →
    Completes (.domainStart 7) s (fun t => t.dom 7 = .run ∧ t.cls.banks[b]? = some { state := .lost })) ∧
  (∀ s b, b < 32 → s.cls.banks.length = 32 → s.power.dom.length = 14 → s.mayStartDomain 7 = true →
    s.power.hasRun.getD 7 false = true → s.dechan.accepted = [] → s.bankHolds 7 (32 + b) = true →
    Completes (.domainStart 7) s (fun t => t.dom 7 = .run ∧
      t.cls.banks[b]? = (s.cls.banks[b]?).map (fun x => { x with tie := 0, move := none })))

/-- R410, R413, R414, R422 to R424: a scrub pass ends, a client's panic is counted, the LINK vote goes after a second, the manager's
votes change and are queried, and the last wake is reported. -/
def Obligations.VotesQueriesAndScrub : Prop :=
  (∀ s ce, s.power.scrub.running = true → s.mem.errors = [] →
    exec (.scrubPassEnd ce 0) s = .next { s with
      mem.cnt := s.mem.cnt.add 6 ce
      power.scrub := { s.power.scrub with
        running := s.mem.patrol, wake := false
        ce := if s.power.scrub.wake then s.power.scrub.ce + ce else s.power.scrub.ce
        done := true } }) ∧
  (∀ s ce ue, s.power.scrub.running = false → exec (.scrubPassEnd ce ue) s = .next s) ∧
  (∀ s k n, s.inRun 11 = true → k ≤ 6 → k ∉ s.mem.panic → n ≤ 8 →
    Completes (.dramPanic k true n) s (fun t =>
      k ∈ t.mem.panic ∧ t.mem.cnt = (s.mem.cnt.add 10 n).inc 9 ∧ t = { s with mem := t.mem })) ∧
  (∀ s k n, s.inRun 11 = true → k ≤ 6 → n ≤ 8 →
    exec (.dramPanic k false n) s = .next { s with
      mem.cnt := s.mem.cnt.add 10 n, mem.panic := s.mem.panic.filter (· != k) }) ∧
  (∀ s t, s.power.signalLostAt = some t → t + secTicks ≤ s.now →
    exec .linkVoteRelease s = .next { s with power.signalLostAt := none }) ∧
  (∀ s t, s.power.signalLostAt = some t → s.now < t + secTicks → exec .linkVoteRelease s = .next s) ∧
  -- R415: Binnacle takes a vote directly where Helm does not run, and on its own reading of the entry where Helm does
  (∀ s c, let op : Op := { code := 0x0B01, exempt := true, asks := s.helmRuns }
    let q := (s.opened op c).voteAsk c
    s.ready op c = true → 1 ≤ byteAt c.data 0 → byteAt c.data 0 ≤ 3 → bit (leAt c.data 2 2) 0 = false →
    bit (leAt c.data 2 2) 14 = false → bit (leAt c.data 2 2) 15 = false → q.1.isSome = true →
    Answers (.pwrVote c) s op c (q.1.getD (Reply.ok q.2))) ∧
  (∀ (s : State) c, (s.helmRuns = false → s.voteAsk c = (none, s)) ∧
    (s.helmRuns = true → s.voteAsk c = s.askBinnacle 3 0x0B01 c c.ask [])) ∧
  -- MANAGER votes: set, cleared, replaced; a vote that wakes nothing, or without WAIT, is answered at once
  (∀ s c, let op : Op := { code := 0x0B01, exempt := true, asks := s.helmRuns }
    let q := (s.opened op c).voteAsk c
    let u := q.2.managerVote (byteAt c.data 0) (leAt c.data 2 2)
    q.1.isNone = true → s.ready op c = true → 1 ≤ byteAt c.data 0 → byteAt c.data 0 ≤ 3 → bit (leAt c.data 2 2) 0 = false →
    bit (leAt c.data 2 2) 14 = false → bit (leAt c.data 2 2) 15 = false → u.toStart = 0 → bit (byteAt c.data 1) 0 = false →
    Answers (.pwrVote c) s op c (Reply.ok u (u.voteReply c))) ∧
  (∀ (s : State) d m, s.power.votes.length = 14 → d < 14 → d ≠ 0 →
    (bit m d = true → bit ((s.managerVote 1 m).power.votes.getD d 0).toNat 0 = true) ∧
    (bit m d = true → bit ((s.managerVote 2 m).power.votes.getD d 0).toNat 0 = false) ∧
    bit ((s.managerVote 3 m).power.votes.getD d 0).toNat 0 = bit m d ∧
    (bit m d = false → (s.managerVote 1 m).power.votes.getD d 0 = s.power.votes.getD d 0 ∧
      (s.managerVote 2 m).power.votes.getD d 0 = s.power.votes.getD d 0)) ∧
  (∀ s c, let op : Op := { code := 0x0B01, exempt := true, asks := s.helmRuns }
    let t := s.opened op c
    s.ready op c = true → byteAt c.data 0 = 0 ∨ 3 < byteAt c.data 0 → Answers (.pwrVote c) s op c (Reply.bad t 24)) ∧
  (∀ s c, let op : Op := { code := 0x0B02, exempt := true }
    let t := s.opened op c
    s.ready op c = true →
    Answers (.pwrQuery c) s op c (Reply.ok t (leBytes 2 t.runMask ++ leBytes 2 (maskOf 14 t.changing) ++ [0] ++
      ((List.range 13).map (fun k => BitVec.ofNat 8 (t.votes (k + 1)))) ++ leBytes 2 t.power.wakeCause))) ∧
  (∀ s c, let op : Op := { code := 0x0106, exempt := true }
    let t := s.opened op c
    s.ready op c = true →
    Answers (.devWakeReport c) s op c (Reply.ok t (leBytes 4 t.power.report.seq.toNat ++ leBytes 2 t.power.report.lostA ++
      leBytes 2 t.power.report.cause ++ leBytes 4 t.power.report.lostCls ++ leBytes 2 t.power.report.woken ++
      leBytes 2 t.power.report.droop ++ leBytes 4 t.power.report.runUs ++ leBytes 4 t.power.scrub.ce ++
      leBytes 4 t.power.scrub.ue ++ [if t.power.scrub.done then 1 else 0])))

/-- R431 to R437, R396, R397, R480: Binnacle's boot, the load of Helm's image, its start, its readiness and its restart; SEC_MEASURE
reads and rechecks the measurements. -/
def Obligations.BinnacleBootsAndLoadsHelm : Prop :=
  (∀ s, s.inRun 3 = true → s.boot.phase = .selfTest →
    exec (.binnacleBoot 0) s = .next (s.setBoot { s.boot with
      selftest := 0, meas := s.boot.meas.set 0 (beBytes 48 Config.romDigest.toNat), pllLost := s.boot.pllLost / 2 * 2
      phase := .awaitImage, clockPll := true })) ∧
  (∀ s f, s.inRun 3 = true → s.boot.phase = .selfTest → f ≠ 0 →
    Completes (.binnacleBoot f) s (fun t => t.boot.phase = .failed ∧ t.boot.reason = 1 ∧ t.boot.selftest = f.toNat)) ∧
  (∀ s f, s.boot.phase ≠ .selfTest → exec (.binnacleBoot f) s = .next s) ∧
  -- what a change of Binnacle's registers does beside, inside hove-to: SMBOX 3, vector 6 and the device event
  (∀ (s : State) b, s.boot.causes ≠ 0 → b.causes = s.boot.causes → b.phase = s.boot.phase → b.word = s.boot.word →
    s.setBoot b = { s with boot := b }) ∧
  (∀ (s : State) b, s.boot.causes ≠ 0 → b.causes ≠ 0 → b.phase ≠ s.boot.phase → b.word ≠ s.boot.word →
    s.setBoot b = (State.msi { s with boot := b, dechan.smboxPost := true } .pf1 6).event 19) ∧
  (∀ s, s.linkReady = true → s.goAccepted = false →
    exec .imageLoad s = .next { s with boot.bootReject := true } ∧ exec .imageLoadReuse s = .next { s with boot.bootReject := true }) ∧
  (∀ s, s.linkReady = true → s.inRun 3 = true → s.boot.phase = .awaitImage ∨ s.boot.phase = .helmHalted →
    Completes .imageLoad s (fun t =>
      t.boot.phase = .loading ∧ t.boot.loading = some (false, s.boot.imageAddr.toNat, s.boot.imageLen) ∧ t.mem.hashLocked = true ∧
      t.helm.cores = 0 ∧ t.helm.thr = [])) ∧
  (∀ s, s.linkReady = true → s.inRun 3 = true → s.boot.phase = .awaitImage ∨ s.boot.phase = .helmHalted →
    Completes .imageLoadReuse s (fun t =>
      t.boot.phase = .loading ∧ t.boot.loading = some (true, s.boot.imageAddr.toNat, s.boot.imageLen) ∧ t.mem.hashLocked = true ∧
      t.helm.cores = 0 ∧ t.helm.thr = [])) ∧
  (∀ s a n b tag, s.boot.loading = some (false, a, n) → s.inRun 3 = true → s.inRun 4 = true → s.inRun 11 = true →
    s.linkReady = true → s.host.cfg0.bme = true → s.err.injectTimeout = false → s.freeTag .pf0 = some tag →
    exec (.imageLoadDone (.data b)) s = .next (((s.emitReads .pf0 none a n tag).dramWrite imageBase (slice b 0 n)).loadCheck (some n) (slice b 0 n))) ∧
  (∀ s r a n b, s.boot.loading = some (false, a, n) → s.inRun 3 = true → s.inRun 4 = true → s.inRun 11 = true →
    r = .data b → s.linkReady = true → s.host.cfg0.bme = false → exec (.imageLoadDone r) s = .next s) ∧
  -- an image whose length or fields are wrong, or whose signature fails, leaves Binnacle waiting with its REASON; a valid image
  -- is measured
  (∀ (s : State) n b, ¬(n % 4096 ≠ 0 ∨ n ≠ leAt b 8 4) → 5 ≤ s.boot.meas.length → s.boot.causes ≠ 0 →
    match imageFault b with
    | some r =>
      (s.loadCheck (some n) b).boot = { s.boot with phase := .awaitImage, reason := r, loading := none, imageValid := false }
    | none =>
      (s.loadCheck (some n) b).boot.phase = .helmStarting ∧
      (s.loadCheck (some n) b).boot.meas[1]? = some (sha384 (b.take 64 ++ b.drop 512)) ∧
      (s.loadCheck (some n) b).boot.meas[2]? = some (sha384 (slice b 64 97)) ∧
      (s.loadCheck (some n) b).boot.validLoads = s.boot.validLoads + 1 ∧ (s.loadCheck (some n) b).boot.imageValid = true) ∧
  (∀ (s : State) n b, n % 4096 ≠ 0 ∨ n ≠ leAt b 8 4 → s.loadCheck (some n) b = s.loadFail 3) ∧
  (∀ s k, s.inRun 4 = true → bit s.helm.cores k = true → bit s.boot.pllLost 0 = false →
    exec (.helmClockSwitch k) s = .next { s with helm.onPll := s.helm.onPll ||| 2 ^ k }) ∧
  (∀ s, s.inRun 3 = true → s.inRun 4 = true → s.helm.cores = 255 → s.boot.phase = .helmStarting → s.helm.onPll = 255 →
    s.boot.causes ≠ 0 →
    Completes .helmReady s (fun t =>
      t.boot.phase = .running ∧ t.boot.reason = 0 ∧ t.boot.causes = s.boot.causes / 2 * 2 ∧ t.helm.restarting = none)) ∧
  (∀ s, s.inRun 3 = true → s.inRun 4 = true → s.helm.cores = 255 → s.boot.phase = .helmStarting → s.helm.onPll ≠ 255 →
    Completes .helmReady s (fun t => t.boot = s.boot ∧ (2 < s.dechan.internal.length →
      ∃ low, low < 4 ∧ (t.dechan.internal.getD 2 {}).word = BitVec.ofNat 32 (2 ^ 19 + low * 2 ^ 16)))) ∧
  (∀ s, s.inRun 3 = true → s.boot.phase = .helmStarting → s.boot.helmStart + 150 * msTicks ≤ s.now →
    Completes .helmReadyTimeout s (fun t => t.boot.phase = .helmHalted ∧ t.boot.reason = 9 ∧ t.helm.cores = 0 ∧ t.helm.thr = [])) ∧
  (∀ s, s.boot.phase = .helmStarting → s.now < s.boot.helmStart + 150 * msTicks → exec .helmReadyTimeout s = .next s) ∧
  (∀ s, s.helm.restartDue = true → s.inRun 3 = true → s.inRun 4 = true → s.boot.phase = .running → s.restartLimit = true →
    Completes .helmRestart s (fun t => t.boot.phase = .helmHalted ∧ t.boot.reason = 10 ∧ t.helm.cores = 0)) ∧
  (∀ s, s.helm.restartDue = true → s.inRun 3 = true → s.inRun 4 = true → s.boot.phase = .running → s.restartLimit = false →
    s.boot.imageValid = false →
    Completes .helmRestart s (fun t => t.boot.phase = .helmHalted ∧ t.boot.reason = 8 ∧ t.helm.cores = 0)) ∧
  (∀ s, s.helm.restartDue = false → exec .helmRestart s = .next s) ∧
  (∀ s c, let op : Op := { code := 0x0E03, lens := [400], reads := false, writes := true }
    let t := s.opened op c
    byteAt c.data 0 = 1 → s.ready op c = true →
    Answers (.secMeasureRead c) s op c
      { st := t, buf := (List.range 8).flatMap (fun k => slice (t.boot.meas.getD k []) 0 48) ++ leBytes 4 t.boot.word ++
          leBytes 4 t.boot.validLoads ++ zeros 8 }) ∧
  (∀ s c, let op : Op := { code := 0x0E03, lens := [0], reads := false, writes := true }
    let t := s.opened op c
    byteAt c.data 0 = 2 → s.ready op c = true → t.boot.imageValid = false →
    Answers (.secMeasureRecheck c) s op c { Reply.ok t [0, 2] with notify := true })

/-- R314, R390, R442, R444 to R447: the causes of hove-to come and go as Table 18-7 says; DEV_HOVE_TO, DEV_CONFIGURE and DEV_QUERY
answer what they report. -/
def Obligations.HoveToCausesAndDeviceCommands : Prop :=
  (∀ s, s.inRun 3 = true → s.host.perstHigh = true → s.host.linkUp = false → s.power.l2 = false → bit s.boot.causes 1 = false →
    s.host.linkSince + s.boot.hostLostGrace * msTicks < s.now →
    exec .hostLostGraceExpiry s = .next (s.setBoot { s.boot with causes := s.boot.causes ||| 2 })) ∧
  (∀ s, s.now ≤ s.host.linkSince + s.boot.hostLostGrace * msTicks ∨ s.host.linkUp = true ∨ s.power.l2 = true →
    exec .hostLostGraceExpiry s = .next s) ∧
  (∀ s, s.inRun 3 = true → s.boot.hostResume = true → bit s.boot.causes 1 = true → s.host.linkUp = true →
    s.host.linkSince + 10 * msTicks ≤ s.now →
    Completes .hostResumeExpiry s (fun t => bit t.boot.causes 1 = false ∧
      (∀ k, k < 4 → k ≠ 1 → bit t.boot.causes k = bit s.boot.causes k) ∧ t.boot.phase = s.boot.phase)) ∧
  (∀ s, s.boot.hostResume = false → exec .hostResumeExpiry s = .next s) ∧
  (∀ s, s.inRun 3 = true →
    Completes (.pllLockLoss true) s (fun t =>
      bit t.boot.pllLost 0 = true ∧ bit t.boot.causes 2 = true ∧ t.hove = true ∧ t.helm.onPll = 0)) ∧
  (∀ s, s.inRun 6 = true →
    Completes (.pllLockLoss false) s (fun t => bit t.boot.pllLost 1 = true ∧ bit t.boot.causes 2 = true ∧ t.hove = true)) ∧
  (∀ s fn, s.inRun 2 = true →
    exec (.uncorrectableInternalError fn) s = .next ((s.aer fn .uncorrectableInternal).raiseCause 4)) ∧
  (∀ s, s.coreRuns 0 = true → (s.thread 0).state = .faultHalt → (s.thread 0).faultAt + 150 * msTicks ≤ s.now →
    s.helm.restartDue = false →
    Completes .supervisorFaultTimeout s (fun t => t.helm.restartDue = true ∧ bit t.boot.causes 0 = true ∧ t.hove = true)) ∧
  (∀ s, (s.thread 0).state ≠ .faultHalt → exec .supervisorFaultTimeout s = .next s) ∧
  (∀ s c, let op : Op := { code := 0x0105, exempt := true }
    let t := (s.opened op c).raiseCause 8
    s.ready op c = true → byteAt c.data 0 = 1 →
    Answers (.devHoveToEnter c) s op c (Reply.ok t
      ([BitVec.ofNat 8 t.boot.causes, if t.boot.causes = 0 then 0 else 1, 0, 0] ++ leBytes 4 t.boot.hoveCount.toNat))) ∧
  (∀ s c, let op : Op := { code := 0x0105, exempt := true }
    let t := (s.opened op c).clearCause (if (s.opened op c).host.linkUp then 10 else 8)
    s.ready op c = true → byteAt c.data 0 = 2 →
    Answers (.devHoveToLeave c) s op c (Reply.ok t
      ([BitVec.ofNat 8 t.boot.causes, if t.boot.causes = 0 then 0 else 1, 0, 0] ++ leBytes 4 t.boot.hoveCount.toNat))) ∧
  (∀ s c, let op : Op := { code := 0x0105, exempt := true }
    let t := s.opened op c
    s.ready op c = true → byteAt c.data 0 = 3 →
    Answers (.devHoveToStatus c) s op c (Reply.ok t
      ([BitVec.ofNat 8 t.boot.causes, if t.boot.causes = 0 then 0 else 1, 0, 0] ++ leBytes 4 t.boot.hoveCount.toNat))) ∧
  (∀ s c, let op : Op := { code := 0x0102 }
    let t := s.opened op c
    s.ready op c = true → byteAt c.data 0 = 7 → byteAt c.data 1 ≤ 1 → 1 ≤ leAt c.data 2 2 → leAt c.data 2 2 ≤ 1000 →
    10 ≤ leAt c.data 4 4 → leAt c.data 4 4 ≤ 10000 → byteAt c.data 8 ≤ 1 →
    Answers (.devConfigure c) s op c (Reply.ok { t with
      boot := { t.boot with
        becalmPolicy := byteAt c.data 1, becalmWindow := leAt c.data 2 2, hostLostGrace := leAt c.data 4 4
        hostResume := byteAt c.data 8 == 1 } }
      ([0, BitVec.ofNat 8 (byteAt c.data 1)] ++ leBytes 2 (leAt c.data 2 2) ++ leBytes 4 (leAt c.data 4 4) ++
        [BitVec.ofNat 8 (byteAt c.data 8)]))) ∧
  (∀ s c, let op : Op := { code := 0x0102 }
    let t := s.opened op c
    s.ready op c = true → bit (byteAt c.data 0) 0 = true → byteAt c.data 1 ≤ 1 → leAt c.data 2 2 = 0 ∨ 1000 < leAt c.data 2 2 →
    Answers (.devConfigure c) s op c (Reply.bad t 26)) ∧
  (∀ s c, let op : Op := { code := 0x0101, exempt := true }
    let t := s.opened op c
    s.ready op c = true → t.inRun 12 = true →
    Answers (.devQuery c) s op c (Reply.ok t
      ([0x42, 0x42, 1, if Config.gradeC then 1 else 0] ++ leBytes 8 Config.serial.toNat ++ leBytes 4 Config.romVersion.toNat ++
        leBytes 4 t.boot.runVersion.toNat ++ leBytes 4 t.boot.word ++ leBytes 2 t.runMask ++
        [BitVec.ofNat 8 t.ciph.lode.code, BitVec.ofNat 8 t.time.quality.code] ++ leBytes 4 t.boot.hoveCount.toNat)))

/-- R281, R288, R323 to R328: a transmit descriptor is checked, read and sent, or completes with the status its fields earn; a
registration takes its slot of the connection; NVMET_CONNECT opens a connection, RESYNC names where a PDU begins, NVMET_CLOSE ends it. -/
def Obligations.TransmitAndStorageDescriptors : Prop :=
  (∀ s r d ds b late tag, isTxRing r = true → s.linkReady = true → s.host.cfg0.bme = true → s.inRun 5 = true → s.hove = false →
    s.ownerLive r = true → (s.ring r).state = .enabled → (s.ring r).descs = d :: ds → d.started = false → txDescOk d.body = true →
    txFlag d.body 2 = false → txFlag d.body 3 = false → txFlag d.body 5 = false → txLen d.body ≤ 9212 →
    s.ringInBounds r (leAt d.body 0 8) (txLen d.body) true false = true → s.err.injectTimeout = false → s.freeTag .pf0 = some tag →
    exec (.txDescriptor r (.data []) (.data b) late) s = .next
      (((s.emitReads .pf0 (s.ringPasid r) (leAt d.body 0 8) (txLen d.body) tag).txProduce r d 1).pipeline (txFrame r d (pad60 (slice b 0 (txLen d.body))) 0) late)) ∧
  (∀ s r d ds t f late tag, s.freeTag .pf0 = some tag → isTxRing r = true → s.linkReady = true → s.host.cfg0.bme = true → s.inRun 5 = true → s.hove = false →
    s.ownerLive r = true → (s.ring r).state = .enabled → (s.ring r).descs = d :: ds → d.started = false → txDescOk d.body = false →
    exec (.txDescriptor r t f late) s = .next (s.completeDesc r d (txCompletion d r 9 0))) ∧
  (∀ s r d ds t f late tag, s.freeTag .pf0 = some tag → isTxRing r = true → s.linkReady = true → s.host.cfg0.bme = true → s.inRun 5 = true → s.hove = false →
    s.ownerLive r = true → (s.ring r).state = .enabled → (s.ring r).descs = d :: ds → d.started = false → txDescOk d.body = true →
    txFlag d.body 2 = false → 9212 < txLen d.body →
    exec (.txDescriptor r t f late) s = .next (s.completeDesc r d (txCompletion d r 1 0))) ∧
  (∀ s r d ds f late tag, s.freeTag .pf0 = some tag → isTxRing r = true → s.linkReady = true → s.host.cfg0.bme = true → s.inRun 5 = true → s.hove = false →
    s.ownerLive r = true → (s.ring r).state = .enabled → (s.ring r).descs = d :: ds → d.started = false → txDescOk d.body = true →
    txFlag d.body 2 = false → txFlag d.body 5 = false → txLen d.body ≤ 9212 →
    s.ringInBounds r (leAt d.body 0 8) (txLen d.body) true false = false →
    exec (.txDescriptor r (.data []) f late) s = .next
      ((s.violBounds r (leAt d.body 0 8)).completeDesc r d (txCompletion d r 8 0))) ∧
  (∀ s i d ds cn, let r := i * 16 + 13
    let k := leAt d.body 12 2
    let slot := leAt d.body 14 2 % cn.depth
    let u : State := { s with rings := s.rings.put r ((s.ring r).updDesc d.idx (fun e => { e with started := true })) }
    let g : Registration :=
      { cid := leAt d.body 14 2, pieces := [(leAt d.body 0 8, leAt d.body 8 4)], len := leAt d.body 8 4, tag := leAt d.body 24 2 }
    i < 512 → s.linkReady = true → s.host.cfg0.bme = true → s.inRun 5 = true → s.inRun 13 = true → s.hove = false →
    s.ownerActive r = true → (s.ring r).state = .enabled → (s.ring r).descs = d :: ds → d.started = false → regOk d.body = true →
    bit (byteAt d.body 16) 5 = false → s.recd.conns.find k = some cn → cn.inst = i → cn.regs.has slot = false →
    s.ringInBounds r (leAt d.body 0 8) (leAt d.body 8 4) false true = true →
    exec (.registration i (.data [])) s = .next (State.completeDesc
      { u with recd.conns := u.recd.conns.put k { cn with regs := cn.regs.put slot g } }
      r d (regCompletion d r 0))) ∧
  (∀ s c f pl n k, let op : Op := { code := 0x0A04, tenant := true, inst := .inst, lens := [128], states := 0x1E }
    let t := s.opened op c
    let b := bufferOf op c
    let h := leAt b 40 3 % 2 ^ 20
    let e := imageFields t b none
    let cn : Conn := { inst := nvmetInst c, handle := h, depth := leAt b 68 2, hdgst := bit (byteAt b 70) 0, ddgst := bit (byteAt b 70) 1 }
    s.ready op c = true → bit (byteAt b 70) 2 = false → c.handle = 2 ^ 32 - 1 → t.inFlowQuota (nvmetInst c) h = true →
    t.connectBreaks (nvmetInst c) e = false → actDest e.action % 512 = nvmetInst c → t.flowReady = true → t.imageBad b = none →
    connectBad b = none → t.flow.handles.find h = none → t.flow.findKey e.profile e.key = none →
    t.recd.conns.firstFree 0 4096 = some k → t.connDepth + leAt b 68 2 ≤ 262144 →
    t.flow.insert { e with handle := h, flags := (e.flags ||| 4) ||| 8, owner := nvmetInst c } = some (f, pl, n) →
    Answers (.nvmetConnect c) s op c (Reply.ok
      (State.setStream { t with flow := f, recd.conns := t.recd.conns.put k cn } k cn (leAt b 64 4) 0 0) (leBytes 2 k))) ∧
  (∀ s c x, let op : Op := { code := 0x0A04, tenant := true, inst := .inst, lens := [128], states := 0x1E }
    let t := s.opened op c
    let b := bufferOf op c
    s.ready op c = true → bit (byteAt b 70) 2 = true → t.recd.conns.find c.handle = some x → x.inst = nvmetInst c →
    Answers (.nvmetConnectResync c) s op c (Reply.ok { t with
      recd.conns := t.recd.conns.put c.handle { x with resync := some (leAt b 64 4) } })) ∧
  (∀ s c x pl, let op : Op := { code := 0x0A05, tenant := true, inst := .inst, states := 0x3E }
    let t := s.opened op c
    s.ready op c = true → t.recd.conns.find c.handle = some x → x.inst = nvmetInst c → t.flow.findHandle x.handle = some pl →
    Answers (.nvmetClose c) s op c (Reply.ok
      (let u := t.flowDeleteAt pl
       { u with recd.conns := u.recd.conns.drop1 c.handle }))) ∧
  (∀ s c x, let op : Op := { code := 0x0A05, tenant := true, inst := .inst, states := 0x3E }
    let t := s.opened op c
    s.ready op c = true → t.recd.conns.find c.handle = some x → x.inst ≠ nvmetInst c →
    Answers (.nvmetClose c) s op c (Reply.denied t 1)) ∧
  (∀ s c, let op : Op := { code := 0x0A05, tenant := true, inst := .inst, states := 0x3E }
    let t := s.opened op c
    s.ready op c = true → t.recd.conns.find c.handle = none →
    Answers (.nvmetClose c) s op c (Reply.no t 8 0))

/-- R338, R350, R351, R359: the life of an instance (Table 14-7): what each command of class 2 does once it is past the common
checks, and when the replies of INST_QUIESCE and INST_RESET come. -/
def Obligations.InstancesLiveByTheirStates : Prop :=
  (∀ s c br, let op : Op := { code := 0x0201, inst := .inst, lens := [192] }
    let t := s.opened op c
    let b := bufferOf op c
    let q := t.askBinnacle 1 0x0201 c br b
    let x : Inst := { state := .absent, flowBase := leAt b 4 4, flowCount := leAt b 8 4, ctxBase := leAt b 12 4, ctxCount := leAt b 16 4
                      q0 := { base := leAt b 24 8, log2 := byteAt b 32 }, q14 := { base := leAt b 40 8, log2 := byteAt b 33 }
                      q15 := { base := leAt b 48 8, log2 := byteAt b 34 } }
    let bt : Bounds := { pasid := leAt b 0 4 % 2 ^ 20, ranges := rangesAt b 64 }
    s.ready op c = true → (t.inst c.inst).state = .absent →
    (∀ p ∈ t.bounds, p.1 ≠ c.inst → p.2.pasid ≠ leAt b 0 4 % 2 ^ 20) →
    t.quotaTaken (leAt b 4 4) (leAt b 8 4) (leAt b 12 4) (leAt b 16 4) = false → createBad b = none →
    (∀ p ∈ createRings b, bt.allows p.2.base (2 ^ p.2.log2 * ringEntry (c.inst * 16 + p.1)) true true = true) → q.1 = none →
    Answers (.instCreate c br) s op c (Reply.ok
      (((((State.setInst { q.2 with bounds := q.2.bounds.put c.inst bt } c.inst x).instRings c.inst x).schedPurge c.inst).setInstState
        c.inst .configured)))) ∧
  (∀ s c br, let op : Op := { code := 0x0201, inst := .inst, lens := [192] }
    let t := s.opened op c
    s.ready op c = true → (t.inst c.inst).state ≠ .absent → Answers (.instCreate c br) s op c (Reply.no t 7 1)) ∧
  (∀ s c, let op : Op := { code := 0x0202, inst := .inst, states := 0x02 }
    let t := (s.opened op c).enableRings c.inst
    s.ready op c = true →
    Answers (.instEnable c) s op c (Reply.ok
      (((t.setInst c.inst { t.inst c.inst with faultLimit := leAt c.data 0 2 }).setInstState c.inst .active).reflexEnable c.inst))) ∧
  (∀ s c, let op : Op := { code := 0x0203, inst := .inst, states := 0x04 }
    let t := s.opened op c
    s.ready op c = true → leAt c.data 0 2 ≤ 10000 →
    Answers (.instQuiesce c) s op c
      { st := (t.setInstState c.inst .quiescing).dropRx c.inst, later := true
        limit := ((if leAt c.data 0 2 = 0 then 100 else leAt c.data 0 2) + 2) * msTicks }) ∧
  (∀ s i, s.quiesced i = true →
    exec (.instQuiesceDone i) s = .next (s.replyAll (fun a => a.opcode == 0x0203 && !a.waits && a.cmd.inst == i) 0 0)) ∧
  (∀ s i, s.quiesced i = false → exec (.instQuiesceDone i) s = .next s) ∧
  (∀ s i a, s.quiesced i = false → s.dechan.accepted = [a] → a.opcode = 0x0203 → a.waits = false → a.cmd.inst = i → leAt a.cmd.data 0 2 = 0 →
    a.at_ + 100 * msTicks ≤ s.now → exec (.instQuiesceTimeout i) s = .next (s.reply a 0xD 0 [] [])) ∧
  (∀ s i a, s.quiesced i = false → s.dechan.accepted = [a] → a.opcode = 0x0203 → a.waits = false → a.cmd.inst = i → leAt a.cmd.data 0 2 = 0 →
    s.now < a.at_ + 100 * msTicks → exec (.instQuiesceTimeout i) s = .next s) ∧
  (∀ s c, let op : Op := { code := 0x0204, inst := .inst, states := 0x08 }
    let t := s.opened op c
    s.ready op c = true →
    Answers (.instFreeze c) s op c
      (if t.quiesced c.inst then Reply.ok ((t.refetch c.inst).setInstState c.inst .frozen) else Reply.no t 9 1)) ∧
  (∀ s c, let op : Op := { code := 0x0205, inst := .inst, states := 0x38 }
    let t := s.opened op c
    s.ready op c = true → (t.inst c.inst).state = .frozen →
    Answers (.instResume c) s op c (Reply.ok ((t.setInstState c.inst .active).flushHeld c.inst))) ∧
  (∀ s c, let op : Op := { code := 0x0205, inst := .inst, states := 0x38 }
    let t := s.opened op c
    s.ready op c = true → (t.inst c.inst).state = .faulted → (t.ring (c.inst * 16)).state ≠ .error →
    Answers (.instResume c) s op c (Reply.ok (((t.setInstState c.inst .active).flushHeld c.inst).reflexResume c.inst))) ∧
  (∀ s c, let op : Op := { code := 0x0205, inst := .inst, states := 0x38 }
    let t := s.opened op c
    s.ready op c = true → (t.inst c.inst).state = .faulted → (t.ring (c.inst * 16)).state = .error →
    Answers (.instResume c) s op c (Reply.no t 9 2)) ∧
  (∀ s c, let op : Op := { code := 0x0207, inst := .inst, states := 0x3E }
    let t := (s.opened op c).instReset c.inst .configured
    s.ready op c = true → t.accessLeft c.inst = false → Answers (.instReset c) s op c (Reply.ok t)) ∧
  -- what the reset leaves: the instance at its new state, its three rings configured and DISABLED, the others gone
  (∀ (s : State) i, i < 512 →
    ((s.instReset i .configured).inst i).state = .configured ∧
    ((s.instReset i .configured).ring (i * 16)).state = .disabled ∧ ((s.instReset i .configured).ring (i * 16)).configured = true ∧
    (∀ q, 1 ≤ q → q ≤ 13 → (s.instReset i .configured).rings.find (i * 16 + q) = none)) ∧
  (∀ s c br, let op : Op := { code := 0x0206, inst := .inst, states := 0x3E, asks := true }
    let q := (s.opened op c).askBinnacle 2 0x0206 c br []
    let t := q.2.instReset c.inst .absent
    let u : State := { t with
      bounds := t.bounds.drop1 c.inst, insts := t.insts.drop1 c.inst
      snap := t.snap.keep (fun k _ => decide (k < 2 ^ 20 + c.inst * 0x1000) || decide (2 ^ 20 + (c.inst + 1) * 0x1000 ≤ k))
      rings := t.rings.filter (fun p => decide (mgrBase ≤ p.1) || p.1 / 16 != c.inst) }
    s.ready op c = true → q.1 = none → u.accessLeft c.inst = false →
    Answers (.instDestroy c br) s op c (Reply.ok u))

/-- R336, R346, R363, R364, R373, R376, R422: Binnacle reads the entry and the buffer that Helm names and acts only when they suit the
request; an opcode of no chapter is accepted and answered UNSUPPORTED. -/
def Obligations.BinnacleActsOnWhatItReads : Prop :=
  -- what a request comes to once the entry and the buffer have been read
  (∀ (s : State) req ring idx codes b act e d tag, s.binnacleServes = true → s.host.cfg0.bme = true → s.helm.thr = [] →
    b.entry = .data e → b.buf = .data d → s.err.injectTimeout = false → s.freeTag .pf0 = some tag →
    codes.any (entrySuits e) = true → leAt e 0 2 ≠ 0x0C02 → leAt e 6 2 ≠ 0 →
    let u := s.emitReads .pf0 none ((s.ring (mgrBase + ring % 4)).slotAddr 64 (BitVec.ofNat 16 idx)) 64 tag
    let v := u.emitReads .pf0 none (leAt e 16 8) (leAt e 6 2) tag
    s.binnacleRequest req ring idx codes b act =
      (match act e d v with
       | some t => t.binnacleAnswer idx ring 0
       | none => v.binnacleRefuse req ring idx)) ∧
  (∀ s ring idx b e d tag, s.binnacleServes = true → s.host.cfg0.bme = true → s.helm.thr = [] → b.entry = .data e → b.buf = .data d →
    s.err.injectTimeout = false → s.freeTag .pf0 = some tag → entrySuits e 0x0201 = true → leAt e 4 2 ≤ 511 → leAt e 6 2 ≠ 0 →
    s.bounds.has (leAt e 4 2) = false → rangesBad d 64 = none → (∀ p ∈ s.bounds, p.2.pasid ≠ leAt d 0 4 % 2 ^ 20) →
    let u := s.emitReads .pf0 none ((s.ring (mgrBase + ring % 4)).slotAddr 64 (BitVec.ofNat 16 idx)) 64 tag
    let v := u.emitReads .pf0 none (leAt e 16 8) (leAt e 6 2) tag
    exec (.boundsWrite ring idx b) s = .next (State.binnacleAnswer
      { v with bounds := s.bounds.put (leAt e 4 2) { pasid := leAt d 0 4 % 2 ^ 20, ranges := rangesAt d 64 } } idx ring 0)) ∧
  (∀ s ring idx b e tag, s.binnacleServes = true → s.host.cfg0.bme = true → s.helm.thr = [] → b.entry = .data e →
    s.err.injectTimeout = false → s.freeTag .pf0 = some tag → entrySuits e 0x0206 = true → leAt e 4 2 ≤ 511 → leAt e 6 2 = 0 →
    let u := s.emitReads .pf0 none ((s.ring (mgrBase + ring % 4)).slotAddr 64 (BitVec.ofNat 16 idx)) 64 tag
    exec (.boundsClear ring idx b) s = .next (State.binnacleAnswer { u with bounds := s.bounds.drop1 (leAt e 4 2) } idx ring 0)) ∧
  (∀ s ring idx b e tag, s.binnacleServes = true → s.host.cfg0.bme = true → s.helm.thr = [] → b.entry = .data e →
    s.err.injectTimeout = false → s.freeTag .pf0 = some tag → entrySuits e 0x0206 = false →
    let u := s.emitReads .pf0 none ((s.ring (mgrBase + ring % 4)).slotAddr 64 (BitVec.ofNat 16 idx)) 64 tag
    exec (.boundsClear ring idx b) s = .next (u.binnacleRefuse 2 ring idx)) ∧
  (∀ s ring idx b, s.binnacleServes = true → s.host.cfg0.bme = false → exec (.boundsClear ring idx b) s = .next s) ∧
  (∀ s ring idx b e tag, s.binnacleServes = true → s.host.cfg0.bme = true → s.helm.thr = [] → b.entry = .data e →
    s.err.injectTimeout = false → s.freeTag .pf0 = some tag → entrySuits e 0x0B01 = true → leAt e 6 2 = 0 → 1 ≤ byteAt e 24 →
    byteAt e 24 ≤ 3 → bit (leAt e 26 2) 0 = false → bit (leAt e 26 2) 14 = false → bit (leAt e 26 2) 15 = false →
    let u := (s.emitReads .pf0 none ((s.ring (mgrBase + ring % 4)).slotAddr 64 (BitVec.ofNat 16 idx)) 64 tag).managerVote
      (byteAt e 24) (leAt e 26 2)
    u.toStart = 0 → exec (.powerVote ring idx b) s = .next (u.binnacleAnswer idx ring 0)) ∧
  (∀ s ring idx b e h k x tag, s.binnacleServes = true → s.host.cfg0.bme = true → s.helm.thr = [] → b.entry = .data e →
    s.err.injectTimeout = false → s.freeTag .pf0 = some tag → entrySuits e 0x0C01 = true → leAt e 6 2 = 0 → s.armedKey = some k →
    s.ctx h = some x → x.hasBlob = true → s.lodeLoaded = true →
    let u := s.emitReads .pf0 none ((s.ring (mgrBase + ring % 4)).slotAddr 64 (BitVec.ofNat 16 idx)) 64 tag
    exec (.keyTransferWrap ring idx b h) s = .next ((u.makeBlob h x k (zeros 8)).2.2.binnacleAnswer idx ring 0)) ∧
  (∀ s code c, let op : Op := { code := code % 65536, inst := .either }
    listedOpcodes.contains (code % 65536) = false → s.accepts op c = true → c.own = 0 →
    exec (.unsupportedOpcode code c) s = .next ((Reply.no (s.accept op c) 0xB 0).finish (s.acceptance op c))) ∧
  (∀ s code c, listedOpcodes.contains (code % 65536) = true → exec (.unsupportedOpcode code c) s = .next s)

/-- R369 to R377: the dirty log starts, is harvested and stops; the transfer key is armed for its lifetime, disarmed, and expires; a
waypoint is saved. -/
def Obligations.MigrationCommandsAndTransferKey : Prop :=
  (∀ s c, let op : Op := { code := 0x0C03, inst := .inst, states := 0x1C }
    let t := s.opened op c
    let l : DirtyLog := { base := leAt c.data 8 8, pages := t.boundPages c.inst, marked := [], lost := false }
    (s.ready op c = true → byteAt c.data 0 = 1 → leAt c.data 8 8 % 64 = 0 → t.boundPages c.inst ≤ leAt c.data 16 4 * 8 →
    (t.mig.dirty.drop1 c.inst).length < 16 → t.boundPages c.inst ≤ 33554432 →
    Answers (.dirtyLogStart c) s op c (Reply.ok { t with mig.dirty := t.mig.dirty.put c.inst l }))) ∧
  (∀ s c l, let op : Op := { code := 0x0C03, inst := .inst, states := 0x1C }
    let t := s.opened op c
    let u := t.post0 (leAt c.data 8 8) l.bitmap
    s.ready op c = true → byteAt c.data 0 = 2 → leAt c.data 8 8 % 64 = 0 → t.mig.dirty.find c.inst = some l → l.lost = false →
    Answers (.dirtyLogHarvest c) s op c (Reply.ok { u with
      mig.dirty := u.mig.dirty.put c.inst { l with marked := [] } } (leBytes 4 l.marked.length ++ [0]))) ∧
  -- the bitmap has the page's bit set exactly for the pages written; a lost log marks every page
  (∀ (l : DirtyLog) p, p < l.pages → bit (byteAt l.bitmap (p / 8)) (p % 8) = (l.lost || l.marked.contains p)) ∧
  (∀ s c l, let op : Op := { code := 0x0C03, inst := .inst, states := 0x1C }
    let t := s.opened op c
    s.ready op c = true → byteAt c.data 0 = 3 → t.mig.dirty.find c.inst = some l →
    Answers (.dirtyLogStop c) s op c (Reply.ok { t with mig.dirty := t.mig.dirty.drop1 c.inst })) ∧
  (∀ s c, let op : Op := { code := 0x0C03, inst := .inst, states := 0x1C }
    let t := s.opened op c
    s.ready op c = true → byteAt c.data 0 = 3 → t.mig.dirty.find c.inst = none →
    Answers (.dirtyLogStop c) s op c (Reply.no t 8 0)) ∧
  (∀ s c k, let op : Op := { code := 0x0E02, exempt := true }
    let t := s.opened op c
    s.ready op c = true → byteAt c.data 0 = 1 → t.mig.key = some k → leAt c.data 4 3 = keyKcv k → 60 ≤ leAt c.data 8 4 →
    leAt c.data 8 4 ≤ 86400 →
    Answers (.secTransferKeyArm c) s op c
      (Reply.ok { t with mig.armedUntil := some (t.now + leAt c.data 8 4 * secTicks) } (leBytes 4 (leAt c.data 8 4)))) ∧
  (∀ s c, let op : Op := { code := 0x0E02, exempt := true }
    let t := s.opened op c
    s.ready op c = true → byteAt c.data 0 = 1 → t.mig.transferKey = none →
    Answers (.secTransferKeyArm c) s op c (Reply.no t 8 0)) ∧
  (∀ s c, let op : Op := { code := 0x0E02, exempt := true }
    let t := s.opened op c
    s.ready op c = true → byteAt c.data 0 = 2 →
    Answers (.secTransferKeyDisarm c) s op c (Reply.ok { t with mig.transferKey := none, mig.armedUntil := none })) ∧
  (∀ s u, s.mig.armedUntil = some u → u ≤ s.now →
    exec .transferKeyExpiry s = .next { s with mig.transferKey := none, mig.armedUntil := none }) ∧
  (∀ s u, s.mig.armedUntil = some u → s.now < u → exec .transferKeyExpiry s = .next s) ∧
  (∀ s c, let op : Op := { code := 0x0C01, inst := .inst, states := 0x10, asks := s.savesBlob c.inst }
    let t := s.opened op c
    let len := waypointLength [16, (t.quotaFlows c.inst).length, 0, 9, 8, (t.quotaSlots c.inst).length, 0, 1]
    let d := t.drawBytes 8
    let u := d.2
    let body := (List.range 16).flatMap (u.ringSection c.inst) ++ (t.quotaFlows c.inst).flatMap (u.flowSection c.inst) ++
      u.nodeSection c.inst true ++ (List.range 8).flatMap (fun v => u.nodeSection (svcNode c.inst v) false) ++
      (List.range 8).flatMap (u.watchSection c.inst) ++ (t.quotaSlots c.inst).flatMap (fun p => slotSection p.1 p.2) ++
      u.boundSection c.inst
    let head := u.waypointHeader c.inst d.1 len body false
      (spanOf ((t.quotaFlows c.inst).map (fun e => e.handle - (t.inst c.inst).flowBase))) 0
      [16, (t.quotaFlows c.inst).length, 0, 9, 8, (t.quotaSlots c.inst).length, 0, 1]
    s.ready op c = true → leAt c.data 0 8 % 64 = 0 → bit (byteAt c.data 12) 0 = false → t.quotaCtxs c.inst = [] →
    len ≤ leAt c.data 8 4 → t.flow.scanDue = false →
    Answers (.waypointSave c) s op c (Reply.ok ((u.post0 (leAt c.data 0 8 + 128) body).post0 (leAt c.data 0 8) head)
      (leBytes 4 len ++ leBytes 4 (t.quotaFlows c.inst).length ++ leBytes 4 0 ++ leBytes 4 (t.quotaLost c.inst) ++ d.1))) ∧
  (∀ s c, let op : Op := { code := 0x0C01, inst := .inst, states := 0x10, asks := s.savesBlob c.inst }
    let t := s.opened op c
    s.ready op c = true → leAt c.data 0 8 % 64 ≠ 0 → Answers (.waypointSave c) s op c (Reply.bad t 24)) ∧
  -- R373: a save that carries a blob passes through Binnacle, which reads the entry itself
  (∀ (s : State) c, s.savesBlob c.inst = true → s.saveAsk c = s.askBinnacle 4 0x0C01 c c.ask [])

/-- R455 to R461: a picture's records, the audit's pictures and their end, the snapshot, loopback and the injected errors. -/
def Obligations.LedgersAndDiagnostics : Prop :=
  (∀ s c, let op : Op := { code := 0x0104 }
    let t := s.opened op c
    let n := if byteAt c.data 2 = 0 then 3 else byteAt c.data 2
    s.ready op c = true → 2 ≤ n → n ≤ 8 → 1 ≤ leAt c.data 4 4 → leAt c.data 4 4 ≤ 65536 → leAt c.data 8 8 % 32 = 0 →
    t.err.audit = none →
    Answers (.devLedgerAudit c) s op c
      { st := { t with
          err.audit := some { cmdRing := cmdRing c, cmdIdx := (s.ring (cmdRing c)).fetch.toNat, ledgers := leAt c.data 0 2 % 1024
                              pictures := n, taken := 0, dropped := 0, reportBase := leAt c.data 8 8
                              reportEntries := leAt c.data 4 4, seen := [], lastAt := t.now }
          err.ready := false }
        later := true, limit := 2 * msTicks + (n - 1) * msTicks }) ∧
  (∀ s c, let op : Op := { code := 0x0104 }
    let t := s.opened op c
    s.ready op c = true → byteAt c.data 2 = 1 ∨ 8 < byteAt c.data 2 → Answers (.devLedgerAudit c) s op c (Reply.bad t 26)) ∧
  (∀ s a, s.err.audit = some a → s.inRun 2 = true → a.taken = 0 ∨ a.lastAt + msTicks ≤ s.now → a.taken + 1 < a.pictures →
    exec .ledgerPicture s = .next { s with err.audit := some { a with
      taken := a.taken + 1, dropped := a.dropped ||| s.unpictured a.ledgers, seen := a.seen ++ [s.picture a.ledgers]
      lastAt := s.now } }) ∧
  (∀ s a, s.err.audit = some a → a.taken ≠ 0 → s.now < a.lastAt + msTicks → exec .ledgerPicture s = .next s) ∧
  -- the last picture of an audit in which every object balances: no records, and the result registers
  (∀ s a, s.err.audit = some a → s.inRun 2 = true → a.taken + 1 = a.pictures → a.taken ≠ 0 → a.lastAt + msTicks ≤ s.now →
    a.ledgers = 0 → a.seen.flatten = [] → s.dechan.accepted = [] →
    Completes .ledgerPicture s (fun t =>
      t.err.audit = none ∧ t.err.ready = true ∧ t.err.persistent = 0 ∧ t.err.auditSeq = (s.err.auditSeq + 1) % 65536 ∧
      SamePath s t ∧ SameGrid s t ∧ SameInst s t ∧ t.rings = s.rings)) ∧
  -- ledger 2 of an enabled ring always balances: free, published and fetched entries sum to its size
  (∀ r (x : Ring), (x.pi - x.oldest).toNat ≤ 2 ^ x.log2 → (x.fetch - x.oldest).toNat ≤ (x.pi - x.oldest).toNat →
    countDiff (x.ledger r) = 0) ∧
  (∀ s c b, let op : Op := { code := 0x0D01, lens := [6208], reads := false, writes := true, exempt := true }
    let t := s.opened op c
    s.ready op c = true → byteAt c.data 0 = 0 → t.helm.snapshot = some b →
    Answers (.diagSnapshotRead c) s op c { st := t, data := leBytes 4 (leAt b 4 4), buf := slice b 0 6208 }) ∧
  (∀ s c, let op : Op := { code := 0x0D01, lens := [6208], reads := false, writes := true, exempt := true }
    let t := s.opened op c
    s.ready op c = true → byteAt c.data 0 = 0 → t.helm.snapshot = none →
    Answers (.diagSnapshotRead c) s op c (Reply.no t 8 0)) ∧
  (∀ s c b, let op : Op := { code := 0x0D01, lens := [6208], reads := false, writes := true, exempt := true }
    let t := (s.opened op c).takeSnapshot 3
    s.ready op c = true → byteAt c.data 0 = 1 → t.helm.snapshot = some b →
    Answers (.diagSnapshotTake c) s op c { st := t, data := leBytes 4 (leAt b 4 4), buf := slice b 0 6208 }) ∧
  (∀ s c, let op : Op := { code := 0x0D02 }
    let t := s.opened op c
    s.ready op c = true → byteAt c.data 0 = 0 → byteAt c.data 1 ≤ 2 →
    Answers (.diagLoopback c) s op c (Reply.ok { t with err.loopA := byteAt c.data 1 })) ∧
  (∀ s c, let op : Op := { code := 0x0D02 }
    let t := s.opened op c
    s.ready op c = true → byteAt c.data 0 = 1 → byteAt c.data 1 ≤ 2 →
    Answers (.diagLoopback c) s op c (Reply.ok { t with err.loopB := byteAt c.data 1 })) ∧
  (∀ s c, let op : Op := { code := 0x0D02 }
    let t := s.opened op c
    s.ready op c = true → byteAt c.data 0 = 2 ∨ byteAt c.data 0 = 3 → Answers (.diagLoopback c) s op c (Reply.no t 0xB 24)) ∧
  (∀ s c g, let op : Op := { code := 0x0D03 }
    let t := s.opened op c
    s.ready op c = true → t.helm.grant = some g → t.now < g.until_ → byteAt c.data 0 = 3 →
    Answers (.diagInject c) s op c (Reply.ok { t with err.injectTimeout := true })) ∧
  (∀ s c g, let op : Op := { code := 0x0D03 }
    let t := s.opened op c
    let w := leAt c.data 8 8 / 8 * 8
    s.ready op c = true → t.helm.grant = some g → t.now < g.until_ → byteAt c.data 0 = 2 → byteAt c.data 1 = 2 →
    leAt c.data 8 8 < 0x3C0000000 → (∀ e ∈ t.mem.errors, ¬(e.1 = 1 ∧ e.2.1 = w)) →
    Answers (.diagInject c) s op c (Reply.ok { t with mem.errors := t.mem.errors ++ [(1, w, 3)] })) ∧
  (∀ s c, let op : Op := { code := 0x0D03 }
    let t := s.opened op c
    s.ready op c = true → t.helm.grant = none → Answers (.diagInject c) s op c (Reply.denied t 5))

/-- R5 to R10, R294, R295, R478, R479, R483: the register spaces. A read returns the register, zero and a count while its block is
in Stop; debug registers need a grant; a write merges the enabled octets; RW1C bits clear; a page of an absent instance is a violation. -/
def Obligations.RegisterSpacesReadAndWrite : Prop :=
  (∀ s off, s.linkReady = true → off < 0x10000 → off % 4 = 0 → s.snap = [] →
    exec (.registerRead .pf0 0 ⟨off, false⟩) s = .next { s with out := s.out ++ [.cpl .sc (leBytes 4 (manifestReg off))] }) ∧
  -- a request of two Dwords reads both; one that is not aligned to its length is Completer Abort and a violation
  (∀ s off, s.linkReady = true → off < 0x10000 → off % 8 = 0 → s.snap = [] →
    exec (.registerRead .pf0 0 ⟨off, true⟩) s = .next { s with
      out := s.out ++ [.cpl .sc (leBytes 4 (manifestReg off) ++ leBytes 4 (manifestReg (off + 4)))] }) ∧
  (∀ s off, s.linkReady = true → off < 2 ^ 20 → off % 8 = 4 →
    exec (.registerRead .pf0 0 ⟨off, true⟩) s = .next
      (((s.violPf0 4 (0 + 8 * 256) off).aer .pf0 .completerAbort).emit (.cpl .ca []))) ∧
  (∀ s off v be w f, s.linkReady = true → off < 2 ^ 20 → off % 8 = 4 →
    exec (.registerWrite .pf0 0 off v ⟨be, [(w, f)]⟩) s = .next ((s.violPf0 4 (0 + 8 * 256) off).aer .pf0 .completerAbort)) ∧
  (∀ s off v be w f d, s.linkReady = true → off < 2 ^ 20 → off % 8 = 0 → blockDomain off = some d →
    blockDomain (off + 4) = some d → s.inRun d = false →
    exec (.registerWrite .pf0 0 off v ⟨be, [(w, f)]⟩) s = .next { s with err.stopped := s.err.stopped + 1 + 1 }) ∧
  (∀ s off d, s.linkReady = true → off < 2 ^ 20 → off % 4 = 0 → blockDomain off = some d → s.inRun d = false →
    exec (.registerRead .pf0 0 ⟨off, false⟩) s = .next { s with
      err.stopped := s.err.stopped + 1, out := s.out ++ [.cpl .sc [0, 0, 0, 0]] }) ∧
  (∀ s off, s.linkReady = true → 0xD0000 ≤ off → off < 0xE0000 → off % 4 = 0 → s.inRun 4 = true → s.dbgOpen = false →
    exec (.registerRead .pf0 0 ⟨off, false⟩) s = .next { ((s.violPf0 5 0 off).aer .pf0 .completerAbort) with
      out := ((s.violPf0 5 0 off).aer .pf0 .completerAbort).out ++ [.cpl .ca []] }) ∧
  (∀ s off v be, s.linkReady = true → 0xD0000 ≤ off → off < 0xE0000 → off % 4 = 0 → s.inRun 4 = true → s.dbgOpen = false →
    exec (.registerWrite .pf0 0 off v ⟨be, []⟩) s = .next (s.violPf0 5 0 off)) ∧
  (∀ s off v be d, s.linkReady = true → off < 2 ^ 20 → off % 4 = 0 → blockDomain off = some d → s.inRun d = false →
    exec (.registerWrite .pf0 0 off v ⟨be, []⟩) s = .next { s with err.stopped := s.err.stopped + 1 }) ∧
  (∀ s off v be, s.linkReady = true → off < 0x10000 → off % 4 = 0 → exec (.registerWrite .pf0 0 off v ⟨be, []⟩) s = .next s) ∧
  -- TIME_NOW: a read of the nanoseconds takes the seconds and the fraction with it, and their reads return what was taken
  (∀ s, s.linkReady = true → s.inRun 12 = true → s.snap = [] →
    Completes (.registerRead .pf0 0 ⟨0x60000, false⟩) s (fun t =>
      t.out = s.out ++ [.cpl .sc (leBytes 4 s.time.ns)] ∧
      t.snap.find 0x60004 = some (BitVec.ofNat 32 (s.time.sec % 2 ^ 32)) ∧
      t.snap.find 0x60008 = some (BitVec.ofNat 32 (s.time.sec / 2 ^ 32 % 65536)) ∧
      t = { s with out := t.out, snap := t.snap })) ∧
  (∀ s v, s.linkReady = true → s.inRun 12 = true → s.snap.find 0x60004 = some v →
    exec (.registerRead .pf0 0 ⟨0x60004, false⟩) s = .next { s with out := s.out ++ [.cpl .sc (leBytes 4 v.toNat)] }) ∧
  -- octets that are not enabled keep what the register holds
  (∀ s v be, s.linkReady = true → s.inRun 5 = true → be < 16 → s.sched.nodeSel < 65536 →
    exec (.registerWrite .pf0 0 0xA0010 v ⟨be, []⟩) s = .next { s with
      sched.nodeSel := mergeBe s.sched.nodeSel v.toNat be % 65536 }) ∧
  (∀ (old v be k : Nat), k < 4 → be < 16 → (mergeBe old v be) / 256 ^ k % 256 = if bit be k then v / 256 ^ k % 256 else old / 256 ^ k % 256) ∧
  -- RW1C: a one clears, a zero leaves
  (∀ s v, s.linkReady = true →
    Completes (.registerWrite .pf0 0 0x22000 v ⟨15, []⟩) s (fun t =>
      (∀ b, b < 23 → bit t.evt.cause b = (bit s.evt.cause b && !bit v.toNat b)) ∧
      t = { s with evt.cause := t.evt.cause })) ∧
  (∀ s i o v be, s.linkReady = true → i < 512 → o < 0x1000 → o % 4 = 0 → (s.inst i).state = .absent →
    exec (.registerWrite .pf0 2 (i * 0x1000 + o) v ⟨be, []⟩) s = .next (s.violPf0 2 i (i * 0x1000 + o))) ∧
  (∀ s i o, s.linkReady = true → i < 512 → o < 0x1000 → o % 4 = 0 → (s.inst i).state = .absent → s.snap = [] →
    Completes (.registerRead .pf0 2 ⟨(i * 0x1000 + o), false⟩) s (fun t =>
      t.out = s.out ++ [.cpl .sc [0, 0, 0, 0]] ∧ t = { s with out := t.out, snap := t.snap })) ∧
  (∀ s, s.linkReady = true → s.ciph.lode = .loaded →
    exec (.registerRead .pf1 0 ⟨0x100, false⟩) s = .next { s with out := s.out ++ [.cpl .sc (leBytes 4
      (s.ciph.lode.code + (if s.ciph.enrolment.isSome then 4 else 0) + s.ciph.kcv * 256))] }) ∧
  (∀ s, s.linkReady = true →
    exec (.registerRead .pf1 0 ⟨0x100C, false⟩) s = .next { s with out := s.out ++ [.cpl .sc (leBytes 4 (s.ring secRing).pi.toNat)] })

/-- R32 to R38, R42, R44 to R49, R51, R69, R70, R486: a frame received on a ring port, the duplicate window, the frame from the
interlink, supervision, verification, peer delay and the choice of a frame at egress. -/
def Obligations.RingPlaneDecidesAndForwards : Prop :=
  -- R38: a number ahead of the window passes; one within it passes once; one behind it passes and is out of window
  (∀ (e : NodeEntry) x q, x < 3 → e.high.length = 3 → e.map.length = 3 → 1 ≤ (q - e.high.getD x 0).toNat →
    (q - e.high.getD x 0).toNat ≤ 32767 →
    (e.decide_ x q).1 = true ∧ (e.decide_ x q).2.1 = false ∧ (e.decide_ x q).2.2.high.getD x 0 = q ∧
    ((e.decide_ x q).2.2.decide_ x q).1 = false) ∧
  (∀ (e : NodeEntry) x q, (e.high.getD x 0 - q).toNat ≤ 63 → (e.map.getD x 0).getLsbD (e.high.getD x 0 - q).toNat = true →
    e.decide_ x q = (false, false, e)) ∧
  (∀ (e : NodeEntry) x q, 63 < (e.high.getD x 0 - q).toNat → 32767 < (q - e.high.getD x 0).toNat → e.decide_ x q = (true, true, e)) ∧
  -- a good frame that carries no number, in HSR mode: only the interlink, by the address rule; an own frame is removed
  (∀ s p b i, isRing p = true → s.receives p = true → i.verify = none → i.pmac = 0 → (s.mac p).preemptEn = false →
    (s.mac p).fec ≠ 1 → s.ports.ring.mode = 1 → ¬(isPause b = true ∧ rxGood b i = true) →
    exec (.ringFrameRx p b i) s = .next (s.ringRx p b i)) ∧
  (∀ (s : State) p b inner q cut ptp, s.ringOwn b = true → s.ringPass p b inner q cut ptp = s.stat p 56 1) ∧
  (∀ s p b i, isRing p = true → s.receives p = true → i.verify = none → (s.mac p).fec ≠ 1 → s.ports.ring.mode = 3 →
    exec (.ringFrameRx p b i) s = .next (s.plainFrame p b i)) ∧
  -- R56: the RS-FEC codewords corrected and uncorrectable as the frame came in are counted on a port that uses RS-FEC
  (∀ s p b i, isRing p = true → s.receives p = true → i.verify = none → (s.mac p).fec = 1 → s.ports.ring.mode = 3 →
    exec (.ringFrameRx p b i) s = .next (((s.stat p 10 i.fecCorr).stat p 11 i.fecUncorr).plainFrame p b i)) ∧
  (∀ s p b i, isRing p = true → s.receives p = true → i.verify = some true → (s.mac p).fec ≠ 1 → (s.mac p).preempt = 1 →
    exec (.ringFrameRx p b i) s = .next (s.setMac p { s.mac p with preempt := 2 })) ∧
  (∀ s p b i, isRing p = true → s.receives p = true → i.verify = some false → (s.mac p).fec ≠ 1 → s.ports.ring.mode ≠ 0 →
    exec (.ringFrameRx p b i) s = .next { s with out := s.out ++ [.mPacket p true] }) ∧
  -- the interlink's first frame: the same number on both ring ports with link
  (∀ s f fs, s.ports.ring.il = f :: fs → s.inRun 1 = true → s.inRun 5 = true → s.hove = false → s.ports.ring.mode = 1 →
    s.ports.ring.redbox = false → f.body.length + 10 ≤ 9216 → s.ports.c.linkUp = true → s.ports.d.linkUp = true →
    exec .interlinkTx s = .next { s with
      ports.ring.il := fs, ports.ring.hsrSeq := s.ports.ring.hsrSeq + 1, ports.ring.nextId := s.ports.ring.nextId + 1
      ports.c.host := s.ports.c.host ++ [f.il (hsrInsert f.body s.ports.ring.hsrSeq) s.ports.ring.nextId false]
      ports.d.host := s.ports.d.host ++ [f.il (hsrInsert f.body s.ports.ring.hsrSeq) s.ports.ring.nextId false] }) ∧
  (∀ s f fs, s.ports.ring.il = f :: fs → s.inRun 1 = true → s.inRun 5 = true → s.hove = false → s.ports.ring.mode = 1 →
    9216 < f.body.length + 10 → f.origin = none →
    exec .interlinkTx s = .next ((({ s with ports.ring.il := fs } : State).stat .c 62 1).stat .d 62 1)) ∧
  (∀ s, s.ports.ring.il = [] → exec .interlinkTx s = .next s) ∧
  -- supervision: the node's own address, both sequence numbers, on each ring port with link
  (∀ s, let r := s.ports.ring
    let b := r.supFrame r.nodeMac (r.supSeq.getD r.nodeMac 0)
    s.inRun 1 = true → r.mode = 1 → r.supEn = true → r.nodeMac ≠ 0 → r.supAt.find r.nodeMac = none →
    s.ports.c.linkUp = true → s.ports.d.linkUp = false →
    exec (.supervisionTx r.nodeMac) s = .next { s with
      ports.ring.supSeq := r.supSeq.put r.nodeMac (r.supSeq.getD r.nodeMac 0 + 1)
      ports.ring.supAt := r.supAt.put r.nodeMac s.now
      ports.ring.hsrSeq := r.hsrSeq + 1
      ports.c.express := s.ports.c.express ++ [{ body := hsrInsert b r.hsrSeq, kind := .express, own := true }] }) ∧
  -- with no link on either ring port nothing is sent and no number is drawn
  (∀ s, let r := s.ports.ring
    s.inRun 1 = true → r.mode = 1 → r.supEn = true → r.nodeMac ≠ 0 → r.supAt.find r.nodeMac = none →
    s.ports.c.linkUp = false → s.ports.d.linkUp = false →
    exec (.supervisionTx r.nodeMac) s = .next { s with ports.ring.supAt := r.supAt.put r.nodeMac s.now }) ∧
  (∀ s a t, s.ports.ring.supAt.find a = some t → s.now < t + s.ports.ring.supMs * msTicks → exec (.supervisionTx a) s = .next s) ∧
  (∀ s p, isRing p = true → s.inRun 1 = true → (s.mac p).preempt = 1 → (s.mac p).verifyTries = 3 →
    (s.mac p).verifyAt + (s.mac p).verifyTime * msTicks ≤ s.now →
    exec (.preemptVerifyTx p) s = .next (s.setMac p { s.mac p with preempt := 3 })) ∧
  (∀ s p, isRing p = true → s.inRun 1 = true → (s.mac p).preempt = 1 → (s.mac p).verifyTries = 0 →
    exec (.preemptVerifyTx p) s = .next
      (((s.setMac p { s.mac p with verifyTries := 1, verifyAt := s.now }).stat p 45 1).emit (.mPacket p false))) ∧
  (∀ s, s.inRun 1 = true → s.ports.ring.mode = 1 → s.ports.ring.nodeMac ≠ 0 → s.ports.ring.pdelayAt = 0 →
    s.ports.c.linkUp = false → s.ports.d.linkUp = false →
    exec .ringPdelayTx s = .next { s with ports.ring.pdelayAt := s.now }) ∧
  (∀ s, s.inRun 1 = true → s.ports.ring.mode = 1 → s.ports.ring.nodeMac ≠ 0 → s.ports.ring.pdelayAt = 0 →
    s.ports.c.linkUp = true → s.ports.d.linkUp = false → 1 ≤ s.ports.ring.delay.length →
    Completes .ringPdelayTx s (fun t =>
      (∃ f, t.ports.c.express = s.ports.c.express ++ [f] ∧ ptpOff f.body = some 14 ∧ ptpType f.body 14 = ptpPdelayReq ∧ f.own = true) ∧
      t.ports.ring.pdelayAt = s.now ∧ t.ports.d = s.ports.d ∧
      (t.ports.ring.delay.getD 0 {}).seq = ((s.ports.ring.delay.getD 0 {}).seq + 1) % 65536)) ∧
  -- egress: express frames, then the rest of a preempted one, then forwarded frames, then the host's
  (∀ s p f fs, isRing p = true → (s.mac p).tx = none → s.mayStart p = true → (s.mac p).express = f :: fs →
    exec (.ringEgressSelect p 0) s = .next ((s.setMac p { s.mac p with express := fs }).portStart p f)) ∧
  (∀ s p h, isRing p = true → (s.mac p).tx = none → s.mayStart p = true → (s.mac p).express = [] → (s.mac p).held = some h →
    exec (.ringEgressSelect p 0) s = .next ((s.setMac p { s.mac p with held := none, tx := some h }).stat p 43 1)) ∧
  (∀ s p f fs, isRing p = true → (s.mac p).tx = none → s.mayStart p = true → (s.mac p).express = [] → (s.mac p).held = none →
    (s.mac p).forwarded = f :: fs →
    exec (.ringEgressSelect p 0) s = .next ((s.setMac p { s.mac p with forwarded := fs }).portStart p f)) ∧
  (∀ s p f fs, isRing p = true → (s.mac p).tx = none → s.mayStart p = true → (s.mac p).express = [] → (s.mac p).held = none →
    (s.mac p).forwarded = [] → (s.mac p).host = f :: fs →
    exec (.ringEgressSelect p 0) s = .next ((s.setMac p { s.mac p with host := fs }).portStart p f))

/-- R32, R34, R36, R48, R51, R52, R53, R70: the forms of the ring plane that complete: a respond mPacket ends verification, an own frame
and a fragment of a frame are removed, the interlink's first frame leaves on both ring ports in HSR and PRP mode, a supervision frame, a
verify mPacket and a peer-delay request are sent, and a port starts the frame that is first in its order. -/
def Obligations.RingFormsComplete : Prop :=
  (∀ s p b i, isRing p = true → s.receives p = true → (s.mac p).fec ≠ 1 → i.verify = some true → (s.mac p).preempt = 1 →
    exec (.ringFrameRx p b i) s = .next (s.setMac p { s.mac p with preempt := 2 })) ∧
  (∀ s p b i, isRing p = true → s.receives p = true → (s.mac p).fec ≠ 1 → i.verify = none → i.pmac = 2 →
    s.ports.ring.mode = 1 → (s.mac p).preemptEn = true →
    exec (.ringFrameRx p b i) s = .next (s.stat p 41 1)) ∧
  (∀ s p b i, isRing p = true → s.receives p = true → (s.mac p).fec ≠ 1 → i.verify = none → i.pmac = 0 →
    (s.mac p).preemptEn = false → s.ports.ring.mode = 1 → beAt b 6 6 = s.ports.ring.nodeMac → s.ports.ring.nodeMac ≠ 0 →
    rxGood b i = true → isPause b = false → ptpOff b = none →
    exec (.ringFrameRx p b i) s = .next ((((s.statGood p b false).ringNote p b)).stat p 56 1)) ∧
  (∀ s p b i, isRing p = true → s.receives p = true → (s.mac p).fec ≠ 1 → i.verify = none → i.pmac = 0 →
    (s.mac p).preemptEn = false → s.ports.ring.mode = 1 → b.length < 60 →
    exec (.ringFrameRx p b i) s = .next ((s.stat p 15 (b.length + 4)).stat p 7 1)) ∧
  (∀ s f fs, s.ports.ring.il = f :: fs → s.inRun 1 = true → s.inRun 5 = true → s.hove = false → s.ports.ring.mode = 1 →
    s.ports.ring.redbox = false → f.body.length + 10 ≤ 9216 → s.ports.c.linkUp = true → s.ports.d.linkUp = false →
    exec .interlinkTx s = .next { s with
      ports.ring.il := fs, ports.ring.hsrSeq := s.ports.ring.hsrSeq + 1, ports.ring.nextId := s.ports.ring.nextId + 1
      ports.c.host := s.ports.c.host ++ [f.il (hsrInsert f.body s.ports.ring.hsrSeq) 0 false] }) ∧
  (∀ s f fs n at_, s.ports.ring.il = f :: fs → s.inRun 1 = true → s.inRun 5 = true → s.hove = false → s.ports.ring.mode = 2 →
    s.ports.ring.redbox = false → f.body.length + 10 ≤ 9216 → s.ports.c.linkUp = true → s.ports.d.linkUp = true →
    s.ports.ring.prpSeq.find (beAt f.body 0 6) = some (n, at_) →
    exec .interlinkTx s = .next { s with
      ports.ring.il := fs, ports.ring.prpSeq := s.ports.ring.prpSeq.put (beAt f.body 0 6) (n + 1, s.now)
      ports.ring.nextId := s.ports.ring.nextId + 1
      ports.c.host := s.ports.c.host ++ [f.il (prpAppend f.body n (lanOf .c)) s.ports.ring.nextId true]
      ports.d.host := s.ports.d.host ++ [f.il (prpAppend f.body n (lanOf .d)) s.ports.ring.nextId true] }) ∧
  (∀ s, let r := s.ports.ring
    let b := r.supFrame r.nodeMac (r.supSeq.getD r.nodeMac 0)
    s.inRun 1 = true → r.mode = 1 → r.supEn = true → r.nodeMac ≠ 0 → r.supAt.find r.nodeMac = none →
    s.ports.c.linkUp = true → s.ports.d.linkUp = true →
    exec (.supervisionTx r.nodeMac) s = .next { s with
      ports.ring.supSeq := r.supSeq.put r.nodeMac (r.supSeq.getD r.nodeMac 0 + 1)
      ports.ring.supAt := r.supAt.put r.nodeMac s.now
      ports.ring.hsrSeq := r.hsrSeq + 1
      ports.c.express := s.ports.c.express ++ [{ body := hsrInsert b r.hsrSeq, kind := .express, own := true }]
      ports.d.express := s.ports.d.express ++ [{ body := hsrInsert b r.hsrSeq, kind := .express, own := true }] }) ∧
  (∀ s p, isRing p = true → s.inRun 1 = true → (s.mac p).preempt = 1 → (s.mac p).verifyTries < 3 →
    (s.mac p).verifyAt + (s.mac p).verifyTime * msTicks ≤ s.now →
    exec (.preemptVerifyTx p) s = .next
      (((s.setMac p { s.mac p with verifyTries := (s.mac p).verifyTries + 1, verifyAt := s.now }).stat p 45 1).emit (.mPacket p false))) ∧
  (∀ s p f fs, isRing p = true → (s.mac p).tx = none → s.mayStart p = true → (s.mac p).express = f :: fs → f.ringIn = none →
    f.timeIn = none → f.reflex = none → f.origin = none → ptpOff f.body = none →
    exec (.ringEgressSelect p 0) s = .next (s.setMac p { s.mac p with express := fs, tx := some { f := f } })) ∧
  (∀ s p f fs, isRing p = true → (s.mac p).tx = none → s.mayStart p = true → (s.mac p).express = [] → (s.mac p).held = none →
    (s.mac p).forwarded = [] → (s.mac p).host = f :: fs → f.ringIn = none → f.timeIn = none → f.reflex = none → f.origin = none →
    ptpOff f.body = none →
    exec (.ringEgressSelect p 0) s = .next (s.setMac p { s.mac p with host := fs, tx := some { f := f } })) ∧
  (∀ s p, isRing p = true → (s.mac p).tx = none → s.mayStart p = true → (s.mac p).express = [] → (s.mac p).held = none →
    (s.mac p).forwarded = [] → (s.mac p).host = [] → exec (.ringEgressSelect p 0) s = .next s) ∧
  (∀ s d ds, s.inRun 1 = true → s.ports.ring.mode = 2 → s.ports.ring.nodeMac ≠ 0 → s.ports.ring.pdelayAt = 0 →
    s.ports.c.linkUp = true → s.ports.d.linkUp = false → s.ports.ring.delay = d :: ds → d.t1 = none →
    exec .ringPdelayTx s = .next { s with
      ports.ring.pdelayAt := s.now
      ports.ring.delay := { d with seq := (d.seq + 1) % 65536, t4 := none, valid := d.valid && decide (d.misses < 3) } :: ds
      ports.c.express := s.ports.c.express ++
        [{ body := ptpMessage ptpPeerMac s.ports.ring.nodeMac ptpPdelayReq 0 0 0 (portIdentity .c) ((d.seq + 1) % 65536) 0 (zeros 20)
           kind := .express, own := true }] })

/-- R31, R36, R40, R50, R51, R60 to R62, R69, R85: the ring plane's timers, its link and RING_CONFIG. -/
def Obligations.RingTimersLinkAndConfig : Prop :=
  (∀ s p, isRing p = true → s.inRun 1 = true → s.ports.ring.mode = 0 → (s.mac p).lock = false → (s.mac p).lockLostAt = none →
    (s.mac p).attemptAt + 2 * msTicks ≤ s.now →
    exec (.ringAutoAttemptExpiry p) s = .next (s.setMac p { s.mac p with
      attempt := ((s.mac p).attempt + 1) % 4, attemptAt := s.now })) ∧
  (∀ s p, s.ports.ring.mode ≠ 0 ∨ (s.mac p).lock = true ∨ s.now < (s.mac p).attemptAt + 2 * msTicks →
    exec (.ringAutoAttemptExpiry p) s = .next s) ∧
  (∀ s p t, isRing p = true → s.inRun 1 = true → s.ports.ring.mode = 0 → (s.mac p).lockLostAt = some t → t + 10 * msTicks ≤ s.now →
    exec (.ringLockLossTimeout p) s = .next (s.setMac p { s.mac p with
      lockLostAt := none, attempt := 0, attemptAt := s.now, rate := 0, fec := 0 })) ∧
  (∀ s p t, (s.mac p).lockLostAt = some t → s.now < t + 10 * msTicks → exec (.ringLockLossTimeout p) s = .next s) ∧
  -- in AUTO a lock fixes the rate and FEC of the attempt; a loss of lock is kept for ten milliseconds
  (∀ s, s.inRun 1 = true → s.ports.c.enable = true → s.ports.ring.mode = 0 → s.ports.c.lock = false → s.ports.c.lockLostAt = none →
    s.ports.c.attempt = 2 → s.ports.c.linkUp = false →
    Completes (.portLinkChange .c true) s (fun t =>
      t.ports.c.linkUp = true ∧ t.ports.c.lock = true ∧ t.ports.c.rate = 4 ∧ t.ports.c.fec = 0 ∧ t.ports.c.linkChange = true ∧
      bit t.evt.cause 10 = true ∧ t.ports.a = s.ports.a ∧ t.ports.b = s.ports.b ∧ t.ports.d = s.ports.d ∧
      SameGrid s t ∧ SameInst s t ∧ SameRings s t)) ∧
  (∀ s, s.inRun 1 = true → s.ports.c.enable = true → s.ports.c.lock = true → s.ports.c.linkUp = true →
    Completes (.portLinkChange .c false) s (fun t =>
      t.ports.c.linkUp = false ∧ t.ports.c.lock = false ∧ t.ports.c.lockLostAt = some s.now ∧ t.ports.c.preempt = 0 ∧
      t.ports.a = s.ports.a ∧ t.ports.b = s.ports.b ∧ t.ports.d = s.ports.d ∧ SameGrid s t ∧ SameInst s t ∧ SameRings s t)) ∧
  (∀ s a e, s.ports.ring.nodes.find a = some e → s.inRun 1 = true → e.last + s.ports.ring.forgetMs * msTicks ≤ s.now →
    exec (.nodeEntryForget a) s = .next { s with ports.ring.nodes := s.ports.ring.nodes.drop1 a }) ∧
  (∀ s a e, s.ports.ring.nodes.find a = some e → s.now < e.last + s.ports.ring.forgetMs * msTicks →
    exec (.nodeEntryForget a) s = .next s) ∧
  (∀ s a t, s.ports.ring.proxies.find a = some t → s.inRun 1 = true → t + 60 * secTicks ≤ s.now →
    exec (.proxyEntryExpiry a) s = .next { s with
      ports.ring.proxies := s.ports.ring.proxies.drop1 a, ports.ring.supSeq := s.ports.ring.supSeq.drop1 a
      ports.ring.supAt := s.ports.ring.supAt.drop1 a }) ∧
  (∀ s a t, s.ports.ring.proxies.find a = some t → s.now < t + 60 * secTicks → exec (.proxyEntryExpiry a) s = .next s) ∧
  (∀ s a n t, s.ports.ring.prpSeq.find a = some (n, t) → s.inRun 1 = true → t + 60 * secTicks ≤ s.now →
    exec (.prpSeqCounterRelease a) s = .next { s with ports.ring.prpSeq := s.ports.ring.prpSeq.drop1 a }) ∧
  (∀ s,
    Completes .tcPendingExpiry s (fun t =>
      (∀ d ∈ t.ports.ring.delay, ∀ e ∈ d.pending, s.now < e.since + 100 * msTicks) ∧
      (∀ x ∈ t.time.ports, ∀ e ∈ x.pending, s.now < e.since + 100 * msTicks) ∧
      t.ports.ring.delay.map (·.meas) = s.ports.ring.delay.map (·.meas) ∧
      t.flow = s.flow ∧ t.cls = s.cls ∧ t.sw = s.sw ∧ t.sched = s.sched ∧ t.ciph = s.ciph ∧ t.alm = s.alm ∧ t.reflex = s.reflex ∧
      t.recd = s.recd ∧ SameInst s t ∧ SameRings s t ∧ SameBoard s t ∧ SameHost s t ∧ SameProc s t)) ∧
  (∀ s p t, (s.mac p).ownAt = some t → t + 2 * s.ports.ring.supMs * msTicks ≤ s.now →
    exec (.ownSeenTimeout p) s = .next (s.setMac p { s.mac p with ownAt := none })) ∧
  (∀ s p t, (s.mac p).ownAt = some t → s.now < t + 2 * s.ports.ring.supMs * msTicks → exec (.ownSeenTimeout p) s = .next s) ∧
  (∀ s, s.inRun 1 = true → exec .ringPllLockLoss s = .next { s with ports.ring.pllLost := true }) ∧
  (∀ s c, let op : Op := { code := 0x0801 }
    let t := s.opened op c
    s.ready op c = true → ringConfigBad c.data = none → byteAt c.data 0 ≠ 0 →
    ∃ u, Answers (.ringConfig c) s op c (Reply.ok u) ∧
      u.ports.ring.mode = byteAt c.data 0 ∧ u.ports.ring.nodeMac = beAt c.data 12 6 ∧ u.ports.ring.forgetMs = leAt c.data 6 2 ∧
      u.ports.ring.supMs = leAt c.data 8 2 ∧ u.ports.ring.configured = true ∧ u.ports.ring.redbox = bit (byteAt c.data 1) 0 ∧
      (t.ports.ring.mode ≠ byteAt c.data 0 → u.ports.ring.nodes = [] ∧ u.ports.ring.proxies = [] ∧ u.ports.ring.prpSeq = []) ∧
      u.ports.a = t.ports.a ∧ u.ports.b = t.ports.b) ∧
  (∀ s c o, let op : Op := { code := 0x0801 }
    let t := s.opened op c
    s.ready op c = true → ringConfigBad c.data = some o → Answers (.ringConfig c) s op c (Reply.bad t o)) ∧
  (∀ s c, let op : Op := { code := 0x0801 }
    let t := s.opened op c
    s.ready op c = true → ringConfigBad c.data = none → byteAt c.data 0 = 0 → t.reflexOnRing = true →
    Answers (.ringConfig c) s op c (Reply.no t 9 1))

/-- R53 to R59, R64, R255, R460: the MACs: reception by the perfect filter, pause and its watchdog, the end of a frame, underrun, the
host's writes, and the module's transactions and pins. -/
def Obligations.MacsReceiveSendAndPause : Prop :=
  -- a good unicast frame that the filter admits goes into the pipeline; one that it does not is filtered and counted
  (∀ s p b i, s.receives p = true → s.plain p = true → i.verify = none → s.loopMode p = 0 → (s.mac p).fec ≠ 1 →
    exec (.portFrameRx p b i) s = .next (s.plainFrame p b i)) ∧
  (∀ s p b i, s.receives p = true → s.plain p = true → i.verify = none → s.loopMode p = 0 → (s.mac p).fec = 1 →
    exec (.portFrameRx p b i) s = .next (((s.stat p 10 i.fecCorr).stat p 11 i.fecUncorr).plainFrame p b i)) ∧
  (∀ s p b i, s.loopMode p ≠ 0 ∨ s.receives p = false → exec (.portFrameRx p b i) s = .next s) ∧
  (∀ (s : State) p b i, (s.mac p).preemptEn = false → i.pmac = 0 → rxGood b i = false →
    s.plainFrame p b i = s.statBad p b i) ∧
  (∀ (s : State) p b, ptpOff b = none → (s.mac p).accepts (beAt b 0 6) = false → s.plainRx p b = s.stat p 12 1) ∧
  (∀ (s : State) p b, ptpOff b = none → (s.mac p).accepts (beAt b 0 6) = true → isRing p = false → s.hove = false → s.inRun 5 = true →
    s.plainRx p b = s.portPipeline p b) ∧
  (∀ (s : State) p b, ptpOff b = none → (s.mac p).accepts (beAt b 0 6) = true → isRing p = false → s.hove = true →
    s.plainRx p b = s.stat p 13 1) ∧
  (∀ (m : Mac) a, m.promisc = false → m.mcAll = false → (∀ f ∈ m.filt, f ≠ (a, true)) → m.accepts a = isBroadcast a) ∧
  -- pause: honoured for its quanta of 512 bit times at the port's rate, when enabled
  (∀ (s : State) p q, let t := s.stat p 5 1
    t.honoursPause p = true → (t.mac p).ignoring = false → portMbps (t.mac p).rate ≠ 0 → q ≠ 0 → (t.mac p).pauseSince = none →
    s.pauseRx p q = t.setMac p { t.mac p with
      pauseUntil := t.now + q * 640000 / portMbps (t.mac p).rate, pauseSince := some t.now }) ∧
  (∀ s p (q : BitVec 16), s.receives p = true → s.loopMode p = 0 →
    exec (.pauseFrameRx p q) s = .next ((s.statGood p (beBytes 6 0x0180C2000001 ++ zeros 6 ++ beBytes 2 0x8808 ++ beBytes 2 1 ++
      beBytes 2 q.toNat ++ zeros 42) false).pauseRx p q.toNat)) ∧
  (∀ s p t, (s.mac p).pauseSince = some t → s.honoursPause p = true → (s.mac p).pauseLimit ≠ 0 → s.paused p = true →
    t + (s.mac p).pauseLimit * msTicks ≤ s.now →
    exec (.pauseWdTrip p) s = .next (((s.setMac p { s.mac p with
      ignoring := true, recoverAt := s.now, pauseUntil := s.now, pauseSince := none }).stat p 46 1).event p.num)) ∧
  (∀ s p t, (s.mac p).pauseSince = some t → (s.mac p).pauseLimit = 0 → exec (.pauseWdTrip p) s = .next s) ∧
  (∀ s p, (s.mac p).ignoring = true → (s.mac p).recoverAt + (s.mac p).pauseRecover * msTicks ≤ s.now →
    exec (.pauseWdRecover p) s = .next (s.setMac p { s.mac p with ignoring := false })) ∧
  (∀ s p, (s.mac p).ignoring = true → s.now < (s.mac p).recoverAt + (s.mac p).pauseRecover * msTicks →
    exec (.pauseWdRecover p) s = .next s) ∧
  -- the end of a frame of the adapter's own: it has left the port
  (∀ s p x, (s.mac p).tx = some x → x.loop = 0 → x.f.origin = none → x.f.stomp = false → isSupervision x.f.body = false →
    exec (.portFrameTxEnd p) s = .next
      ((State.emit (s.setMac p { s.mac p with tx := none }) (.frame p x.f.body false)).statGood p x.f.body true)) ∧
  (∀ s p, (s.mac p).tx = none → exec (.portFrameTxEnd p) s = .next s) ∧
  (∀ s p x q, (s.mac p).tx = some x → x.f.origin = some q → x.early = true →
    exec (.txUnderrun p) s = .next
      (((s.setMac p { s.mac p with txStart := min 9216 ((s.mac p).txStart + 256) }).stat p 29 1).txEnd p true (some (2, 0)))) ∧
  -- a frame that began only once it was whole in the buffer cannot run short
  (∀ s p x, (s.mac p).tx = some x → x.early = false → exec (.txUnderrun p) s = .next s) ∧
  -- writes of MAC_CTRL
  (∀ s p v, isRing p = false → s.linkReady = true → s.inRun (portDomain p) = true → rateListed (bits v.toNat 3 1) (bits v.toNat 5 4) = false →
    exec (.macCtrlWrite p v) s = .next (s.setMac p { s.mac p with cfgReject := true })) ∧
  (∀ s p v, isRing p = true → s.linkReady = true → s.inRun 1 = true →
    exec (.macCtrlWrite p v) s = .next (s.setMac p { s.mac p with
      promisc := bit v.toNat 6, mcAll := bit v.toNat 7, pauseRx := bit v.toNat 8 })) ∧
  (∀ s p v, isRing p = false → s.linkReady = true → s.inRun (portDomain p) = true → bits v.toNat 3 1 = (s.mac p).rate →
    bits v.toNat 5 4 = (s.mac p).fec → rateListed (s.mac p).rate (s.mac p).fec = true → bit v.toNat 0 = true →
    exec (.macCtrlWrite p v) s = .next (s.setMac p { s.mac p with
      enable := true, promisc := bit v.toNat 6, mcAll := bit v.toNat 7, pauseRx := bit v.toNat 8 })) ∧
  (∀ s p n v, n < 16 → s.linkReady = true → s.inRun (portDomain p) = true → bit v.toNat 31 = true →
    exec (.macFiltCommit p n v) s = .next (s.setMac p { s.mac p with
      filtHi := (s.mac p).filtHi.set n (BitVec.ofNat 32 (v.toNat % 65536 + 2 ^ 31))
      filt := (s.mac p).filt.set n (v.toNat % 65536 * 2 ^ 32 + ((s.mac p).filtLo.getD n 0).toNat, true) })) ∧
  (∀ s p v, s.linkReady = true → s.inRun (portDomain p) = true → bit v.toNat 31 = true → bit v.toNat 6 = true →
    exec (.macStatClear p v) s = .next (s.setMac p { s.mac p with
      clrIndex := v.toNat % 64, clrAll := true, stat := List.replicate 64 0, half := 0, wrap := 0 })) ∧
  (∀ s p v, s.linkReady = true → s.inRun (portDomain p) = true → bit v.toNat 31 = true → bit v.toNat 6 = false →
    exec (.macStatClear p v) s = .next (s.setMac p { s.mac p with
      clrIndex := v.toNat % 64, clrAll := false, stat := (s.mac p).stat.set (v.toNat % 64) 0
      half := (s.mac p).half &&& ~~~((1 : W64) <<< (v.toNat % 64)), wrap := (s.mac p).wrap &&& ~~~((1 : W64) <<< (v.toNat % 64)) })) ∧
  -- modules
  (∀ s p v, s.linkReady = true → s.inRun (portDomain p) = true → (s.mac p).modBusy = false → bit v.toNat 24 = true →
    bit v.toNat 7 = false → 1 ≤ bits v.toNat 23 16 → bits v.toNat 23 16 ≤ 128 →
    exec (.modTransactionStart p v) s = .next ((s.setMac p { s.mac p with
      modDev := v.toNat % 128, modWrite := false, modOffset := bits v.toNat 15 8, modLen := bits v.toNat 23 16
      modFast := bit v.toNat 25, modBusy := true, modDone := 0 }).emit
        (.twoWire p (v.toNat % 128) (bits v.toNat 15 8) (bits v.toNat 23 16) none))) ∧
  (∀ s p v, s.linkReady = true → s.inRun (portDomain p) = true → (s.mac p).modBusy = true →
    exec (.modTransactionStart p v) s = .next s) ∧
  (∀ s p n d, (s.mac p).modBusy = true → (s.mac p).modWrite = false →
    exec (.modTransactionDone p 0 n d) s = .next ((s.setMac p { s.mac p with
      modBusy := false, modResult := 0, modDone := (s.mac p).modLen
      modBuf := overlay (s.mac p).modBuf 0 (slice d 0 (s.mac p).modLen) }).event (4 + p.num))) ∧
  (∀ s p a b c, isRing p = false → s.inRun (portDomain p) = true →
    exec (.modulePinChange p a b c) s = .next (s.setMac p { s.mac p with present := a, intLos := b })) ∧
  (∀ s p a b c, isRing p = true → s.inRun 1 = true →
    exec (.modulePinChange p a b c) s = .next (s.setMac p { s.mac p with present := a, intLos := b, resetFault := c }))

/-- R92, R100 to R106, R110, R113, R114, R118: rows are opened at their instant with the streams subscribed then, sealed in order after
their window, and filled by the frames that are ingested; a watch is acknowledged. -/
def Obligations.AlmanacRowsOpenFillAndSeal : Prop :=
  -- R92: the nominal instant, and the first row at or after an instant
  (∀ rate t, 0 < rate → rate ≤ 96000 → t ≤ nominal rate (firstRow rate t) ∧
    (firstRow rate t = 0 ∨ nominal rate (firstRow rate t - 1) < t)) ∧
  (∀ s k a, let n := max a.next (firstRow a.rate s.tbNs)
    s.alm.tab.find k = some a → s.inRun 12 = true → s.alm.hoveTo = false → nominal a.rate n ≤ s.tbNs + 100000 →
    a.open_.length < a.slots → a.holds.find (n % a.rows) = none →
    exec (.almRowOpen k) s = .next (State.post0
      { s with alm.tab := s.alm.tab.put k { a with
          open_ := a.open_ ++ [{ n := n, cols := s.alm.streams.foldl (fun (m : KMap Nat) (p : Nat × SvStream) =>
            if p.2.alm == k && !p.2.ending then m.put p.2.column p.1 else m) [] }]
          next := n + 1, holds := a.holds.put (n % a.rows) n } }
      (a.statusBase + n % a.rows * 64 + 48) (leBytes 8 n ++ [1] ++ zeros 7))) ∧
  (∀ s k a, s.alm.tab.find k = some a → s.tbNs + 100000 < nominal a.rate (max a.next (firstRow a.rate s.tbNs)) →
    exec (.almRowOpen k) s = .next s) ∧
  (∀ s k a, s.alm.tab.find k = some a → a.slots ≤ a.open_.length → exec (.almRowOpen k) s = .next s) ∧
  (∀ s k a r rs, s.alm.tab.find k = some a → a.open_ = r :: rs → s.tbNs < nominal a.rate r.n + a.window * 1000 →
    exec (.almRowSeal k) s = .next s) ∧
  -- a complete row with no watch and no recording: the almanac counts it, and nothing else of the adapter changes but what is posted
  (∀ s k a r, s.alm.tab.find k = some a → a.open_ = [r] → s.inRun 12 = true → s.alm.hoveTo = false →
    nominal a.rate r.n + a.window * 1000 ≤ s.tbNs → (∀ col, col < a.cols → r.cells.has col = true) → s.alm.watches = [] →
    bit s.recd.cfg.almMask k = false → s.time.unsynced = false →
    Completes (.almRowSeal k) s (fun t =>
      (∃ a', t.alm.tab.find k = some a' ∧ a'.open_ = [] ∧ a'.lastSealed = some r.n ∧ a'.sealSeq = a.sealSeq + 1 ∧
        a'.sealed = a.sealed + 1 ∧ a'.incomplete = a.incomplete ∧ a'.missing = a.missing ∧ a'.rate = a.rate) ∧
      SamePath s t ∧ t.time = s.time ∧ t.reflex = s.reflex ∧ t.recd = s.recd ∧ SameInst s t ∧ SameRings s t ∧ SameBoard s t ∧
      SameProc s t)) ∧
  -- R106: a subscribed column without a cell is filled as MISSING when its stream does not substitute
  (∀ (s : State) a n id st, s.alm.streams.find id = some st → st.subst = false →
    (s.fillCell a n id).1 = false ∧ (s.fillCell a n id).2.1 = cellBytes [] n 0 0 2 0x7FFFFFFF 0) ∧
  (∀ s q qs x, let t : State := { s with alm.queue := qs }
    s.alm.queue = q :: qs → s.inRun 12 = true → s.alm.hoveTo = false → (pbPdu q.body etSv) = some x → readSv x.2.2 = none →
    s.alm.streams = [] → exec .svFrameIngest s = .next { t with alm.cnt := s.alm.cnt.inc 0 }) ∧
  (∀ s q qs id st appid sim p xs, s.alm.queue = q :: qs → s.inRun 12 = true → s.alm.hoveTo = false →
    pbPdu q.body etSv = some (appid, sim, p) → readSv p = some xs → s.alm.streams = [(id, st)] → st.dst = beAt q.body 0 6 →
    st.appid = appid → (xs.head?.map (·.svid)).getD [] = st.svid →
    exec .svFrameIngest s = .next (State.svAccept { s with alm.queue := qs } id st q sim xs)) ∧
  (∀ s, s.alm.queue = [] → exec .svFrameIngest s = .next s) ∧
  -- R102: an ASDU goes to the open row of its instant once; a late one is counted
  (∀ (s : State) id st a sim t x n arr r, s.alm.streams.find id = some st → s.alm.tab.find st.alm = some a →
    asduRow st a.rate x t = some (n, arr) → nominal a.rate n ≤ t + 100000 → a.lastSealed = none →
    a.open_.find? (fun q => q.n == n) = some r → r.cols.find st.column = some id → r.cells.has st.column = true →
    s.placeAsdu id sim t x = (false, s.streamCount id 1)) ∧
  (∀ (s : State) id st a sim t x n arr m, s.alm.streams.find id = some st → s.alm.tab.find st.alm = some a →
    asduRow st a.rate x t = some (n, arr) → nominal a.rate n ≤ t + 100000 → a.lastSealed = some m → n ≤ m →
    s.placeAsdu id sim t x = (false, (s.streamCount id 7).almCount 3)) ∧
  (∀ (st : SvStream) rate (x : Asdu) t, x.smpSynch ≠ 0 → rate ≤ x.smpCnt → asduRow st rate x t = none) ∧
  (∀ s i w last (v : W32), let k := i * 8 + v.toNat % 8
    i < 512 → s.linkReady = true → (s.inst i).state ≠ .absent → s.alm.watches.find k = some w →
    (s.alm.tab.find w.alm).bind (·.lastSealed) = some last → s.inRun 12 = true → v.toNat / 256 = last % 2 ^ 24 →
    exec (.watchAck i v) s = .next { s with alm.watches := s.alm.watches.put k { w with due := some (last + 1), overrun := false } }) ∧
  (∀ s i v, i < 512 → s.linkReady = true → (s.inst i).state = .absent →
    exec (.watchAck i v) s = .next (s.violPf0 2 i (i * 0x1000 + 0x800))) ∧
  (∀ s v, s.linkReady = true → s.inRun 12 = true → bit v.toNat 0 = true →
    exec (.almClrIngestMax v) s = .next { s with alm.ingestMax := 0 })

/-- R98, R99, R103, R111, R112, R116, R117: the almanac commands, once past the common checks. -/
def Obligations.AlmanacCommandsSubscribeAndCreate : Prop :=
  (∀ s c a, let op : Op := { code := 0x0802, lens := [128], needsD12 := true }
    let t := s.opened op c
    let b := bufferOf op c
    s.ready op c = true → c.handle ≤ 1023 → t.alm.tab.find (byteAt b 12) = some a → svBad b (some a) = none →
    bit (byteAt b 14) 2 = false → t.alm.streams = [] →
    Answers (.svSubscribe c) s op c (Reply.ok { t with alm.streams := [(c.handle, readStream b)] })) ∧
  (∀ s c, let op : Op := { code := 0x0802, lens := [128], needsD12 := true }
    let t := s.opened op c
    let b := bufferOf op c
    s.ready op c = true → c.handle ≤ 1023 → t.alm.tab.find (byteAt b 12) = none → svBad b none = none →
    Answers (.svSubscribe c) s op c (Reply.no t 8 0)) ∧
  (∀ s c st, let op : Op := { code := 0x0803, needsD12 := true }
    let t := s.opened op c
    s.ready op c = true → t.alm.streams = [(c.handle, st)] → st.ending = false →
    (∀ p ∈ t.alm.tab, p.2.open_ = []) →
    Answers (.svUnsubscribe c) s op c (Reply.ok { t with
      alm.streams := [], alm.streamOld := t.alm.streamOld.put c.handle st.cnt })) ∧
  (∀ s c, let op : Op := { code := 0x0803, needsD12 := true }
    let t := s.opened op c
    s.ready op c = true → t.alm.streams.find c.handle = none → Answers (.svUnsubscribe c) s op c (Reply.no t 8 0)) ∧
  (∀ s c, let op : Op := { code := 0x0804, lens := [64], needsD12 := true }
    let t := s.opened op c
    let b := bufferOf op c
    let rate := leAt b 0 4
    let entries := if leAt b 40 2 = 0 then 65536 else leAt b 40 2
    let need := slotsNeeded rate (leAt b 10 2)
    let a : Almanac :=
      { rate := rate, rows := leAt b 4 4, cols := leAt b 8 2, window := leAt b 10 2, early := bit (byteAt b 12) 0
        cellBase := leAt b 16 8, statusBase := leAt b 24 8, sealBase := leAt b 32 8, sealEntries := entries
        slots := need, next := firstRow rate (t.tbNs + 100000) }
    s.ready op c = true → bit (byteAt b 12) 7 = false → c.handle ≤ 15 → t.alm.tab.has c.handle = false →
    need ≤ t.alm.slotsFree → leAt b 4 4 ≠ 0 → almBad b (leAt b 4 4) entries = none →
    Answers (.almCreate c) s op c (Reply.ok { t with
      alm.tab := t.alm.tab.put c.handle a, alm.marks := t.alm.marks.filter (fun m => m.alm != some c.handle) })) ∧
  (∀ s c, let op : Op := { code := 0x0804, lens := [64], needsD12 := true }
    let t := s.opened op c
    let b := bufferOf op c
    s.ready op c = true → bit (byteAt b 12) 7 = false → c.handle ≤ 15 → t.alm.tab.has c.handle = false →
    t.alm.slotsFree < slotsNeeded (leAt b 0 4) (leAt b 10 2) → Answers (.almCreate c) s op c (Reply.no t 4 0)) ∧
  (∀ s c a, let op : Op := { code := 0x0804, lens := [64], needsD12 := true }
    let t := s.opened op c
    let b := bufferOf op c
    s.ready op c = true → bit (byteAt b 12) 7 = true → c.handle ≤ 15 → t.alm.tab.find c.handle = some a → a.open_ = [] →
    t.alm.streams = [] →
    Answers (.almDestroy c) s op c (Reply.ok { t with
      alm.tab := t.alm.tab.drop1 c.handle, alm.tabOld := t.alm.tabOld.put c.handle a })) ∧
  (∀ s c, let op : Op := { code := 0x0805, tenant := true, inst := .inst, needsD12 := true, states := 0x3E }
    let t := s.opened op c
    let d := c.data
    let w : Watch := { alm := byteAt d 0, ackRequired := bit (byteAt d 2) 1, lateOnly := bit (byteAt d 2) 2, lubber := leAt d 4 4
                       decimate := leAt d 8 2, phase := leAt d 10 2 }
    s.ready op c = true → bit (byteAt d 2) 7 = false → byteAt d 0 ≤ 15 → (c.inst * 16 + byteAt d 0 % 16) ∈ t.alm.rights →
    t.alm.tab.has (byteAt d 0) = true → byteAt d 1 ≤ 7 → bit (byteAt d 2) 0 = true → 1000 ≤ leAt d 4 4 → leAt d 4 4 ≤ 1000000 →
    1 ≤ leAt d 8 2 → leAt d 8 2 ≤ 4096 → leAt d 10 2 < leAt d 8 2 →
    Answers (.almWatch c) s op c (Reply.ok { t with alm.watches := t.alm.watches.put (c.inst * 8 + byteAt d 1) w })) ∧
  -- the fields are held to their ranges whether the watch is set or cleared
  (∀ s c, let op : Op := { code := 0x0805, tenant := true, inst := .inst, needsD12 := true, states := 0x3E }
    let t := s.opened op c
    let d := c.data
    s.ready op c = true → bit (byteAt d 2) 7 = false → byteAt d 0 ≤ 15 → (c.inst * 16 + byteAt d 0 % 16) ∈ t.alm.rights →
    t.alm.tab.has (byteAt d 0) = true → byteAt d 1 ≤ 7 →
    (leAt d 4 4 < 1000 ∨ 1000000 < leAt d 4 4 → Answers (.almWatch c) s op c (Reply.bad t 28)) ∧
    (1000 ≤ leAt d 4 4 → leAt d 4 4 ≤ 1000000 → leAt d 8 2 = 0 ∨ 4096 < leAt d 8 2 →
      Answers (.almWatch c) s op c (Reply.bad t 32)) ∧
    (1000 ≤ leAt d 4 4 → leAt d 4 4 ≤ 1000000 → 1 ≤ leAt d 8 2 → leAt d 8 2 ≤ 4096 → leAt d 8 2 ≤ leAt d 10 2 →
      Answers (.almWatch c) s op c (Reply.bad t 34))) ∧
  (∀ s c i, let op : Op := { code := 0x0805, tenant := true, inst := .inst, needsD12 := true, states := 0x3E }
    let t := s.opened op c
    s.ready op c = true → cmdTenant c = some i → bit (byteAt c.data 2) 7 = false → (c.inst * 16 + byteAt c.data 0 % 16) ∉ t.alm.rights →
    Answers (.almWatch c) s op c (Reply.denied t 0)) ∧
  (∀ s c, let op : Op := { code := 0x0805, tenant := true, inst := .inst, needsD12 := true, states := 0x3E }
    let t := s.opened op c
    s.ready op c = true → cmdTenant c = none → bit (byteAt c.data 2) 7 = true → bit (byteAt c.data 2) 6 = true →
    byteAt c.data 0 ≤ 15 → t.alm.tab.has (byteAt c.data 0) = true →
    Answers (.almWatch c) s op c (Reply.ok { t with alm.rights := addNew t.alm.rights (c.inst * 16 + byteAt c.data 0 % 16) }))

/-- R120, R122, R126 to R129, R133, R134, R137, R142: a slot is staged and written from its host page; a new state takes the next stNum
and starts the schedule; a write behind a frame that has not left is held one deep; the next transmission follows when it is due. -/
def Obligations.ReflexWritesPublishAndRetransmit : Prop :=
  (∀ s i k lo, i < 512 → k < 8 → s.linkReady = true → s.inRun 12 = true → (s.inst i).state ≠ .absent →
    exec (.reflexStage i k lo) s = .next { s with
      reflex.slots := s.reflex.slots.upd (i * 8 + k) (fun x => { x with staged := lo }) }) ∧
  (∀ s i k lo, i < 512 → k < 8 → s.linkReady = true → s.inRun 12 = true → (s.inst i).state = .absent →
    exec (.reflexStage i k lo) s = .next (s.violPf0 2 i (i * 0x1000 + 0x80 + 8 * k))) ∧
  -- a write of an EMPTY or LOADED slot, or for an instance that is not ACTIVE, is a violation
  (∀ s i k hi, i < 512 → k < 8 → s.linkReady = true → s.inRun 12 = true → (s.inst i).state ≠ .absent →
    s.slot (i * 8 + k) = none →
    exec (.reflexWrite i k none hi) s = .next (s.violInst i 7 k k (i * 0x1000 + 0x84 + 8 * k))) ∧
  -- a malformed write: counted and refused with reason 1
  (∀ s i k hi x, i < 512 → k < 8 → s.linkReady = true → s.inRun 12 = true → (s.inst i).state = .active →
    s.slot (i * 8 + k) = some x → x.state = .armed → x.isHeld = false → hi.toNat / 1024 ≠ 0 →
    exec (.reflexWrite i k none hi) s = .next ((s.reflexCount 3).reflexRefused (i * 8 + k) 1 (BitVec.ofNat 8 hi.toNat))) ∧
  -- values that do not change without FORCE are absorbed; others publish with the next stNum
  (∀ s i k hi x, i < 512 → k < 8 → s.linkReady = true → s.inRun 12 = true → (s.inst i).state = .active →
    s.slot (i * 8 + k) = some x → x.state = .armed → x.isHeld = false → hi.toNat < 256 →
    x.staged.toNat ||| x.tmpl.mask = x.tmpl.mask → x.held = none → s.slotBusy (i * 8 + k) = false →
    exec (.reflexWrite i k none hi) s = .next
      (if x.staged = x.values then { s with reflex.cnt := s.reflex.cnt.inc 4 }
       else s.newState (i * 8 + k) { x with
         values := x.staged, seq := BitVec.ofNat 8 hi.toNat, stNum := if x.stNum = 0xFFFFFFFF then 1 else x.stNum + 1 } (some s.now))) ∧
  (∀ s i k hi x, i < 512 → k < 8 → s.linkReady = true → s.inRun 12 = true → (s.inst i).state = .active →
    s.slot (i * 8 + k) = some x → x.state = .armed → x.isHeld = false → hi.toNat < 256 →
    x.staged.toNat ||| x.tmpl.mask = x.tmpl.mask → x.held = none → s.slotBusy (i * 8 + k) = true →
    exec (.reflexWrite i k none hi) s = .next (s.setSlot (i * 8 + k) { x with held := some (x.staged, hi, s.now) })) ∧
  -- in hove-to a write to a HELD slot is counted
  (∀ s i k hi x, i < 512 → k < 8 → s.linkReady = true → s.inRun 12 = true → (s.inst i).state = .active →
    s.slot (i * 8 + k) = some x → x.state = .armed → x.isHeld = true → s.hove = true →
    exec (.reflexWrite i k none hi) s = .next { s with reflex.cnt := s.reflex.cnt.inc 6 }) ∧
  -- outside hove-to a write to a HELD slot is refused with reason 2 and counted (which of counters 5 and 6 is the model's choice, log
  -- entry 142)
  (∀ s i k hi x, i < 512 → k < 8 → s.linkReady = true → s.inRun 12 = true → (s.inst i).state = .active →
    s.slot (i * 8 + k) = some x → x.state = .armed → x.isHeld = true → s.hove = false →
    ∃ j, (j = 5 ∨ j = 6) ∧ exec (.reflexWrite i k none hi) s = .next
      (({ s with free := s.free + 1, reflex.cnt := s.reflex.cnt.inc j } : State).reflexRefused (i * 8 + k) 2 (BitVec.ofNat 8 hi.toNat))) ∧
  -- R127, R134: what a new state leaves in its slot
  (∀ (s : State) k x since, (s.newState k x since).slot k = some { x with
    sqNum := BitVec.ofNat 32 x.tmpl.sqFirst, t := s.utcTime, tNs := s.tbNs, staged := x.values, step := 1
    due := some (s.tbNs + x.tmpl.gap 0) }) ∧
  (∀ s i k x lo hi since, i < 512 → k < 8 → s.slot (i * 8 + k) = some x → x.held = some (lo, hi, since) → s.inRun 12 = true →
    x.state = .armed → x.isHeld = false → s.publishing (i * 8 + k) = true → s.slotBusy (i * 8 + k) = false →
    exec (.reflexHeldRelease i k) s = .next
      ((s.setSlot (i * 8 + k) { x with held := none }).reflexApply (i * 8 + k) { x with held := none } lo hi since)) ∧
  (∀ s i k x, i < 512 → k < 8 → s.slot (i * 8 + k) = some x → s.slotBusy (i * 8 + k) = true → exec (.reflexHeldRelease i k) s = .next s) ∧
  (∀ s i k x due, i < 512 → k < 8 → s.slot (i * 8 + k) = some x → x.due = some due → s.tbNs < due →
    exec (.reflexRetransmit i k) s = .next s) ∧
  (∀ s i k x due, i < 512 → k < 8 → s.slot (i * 8 + k) = some x → x.due = some due → due ≤ s.tbNs → s.inRun 12 = true →
    x.state = .armed → x.heldHove = false → x.heldKey = false → s.publishing (i * 8 + k) = true →
    Completes (.reflexRetransmit i k) s (fun t => t.slot (i * 8 + k) = some { x with
      sqNum := if x.sqNum = 0xFFFFFFFF then 1 else x.sqNum + 1, step := x.step + 1, due := some (due + x.tmpl.gap x.step) })) ∧
  (∀ s i k x due, i < 512 → k < 8 → s.slot (i * 8 + k) = some x → x.due = some due → due ≤ s.tbNs → s.inRun 12 = true →
    x.state = .armed → x.heldHove = false → x.heldKey = true → s.publishing (i * 8 + k) = true →
    exec (.reflexRetransmit i k) s = .next { s with
      reflex.slots := s.reflex.slots.put (i * 8 + k) { x with step := x.step + 1, due := some (due + x.tmpl.gap x.step) }
      reflex.cnt := s.reflex.cnt.inc 5 }) ∧
  (∀ s v, s.linkReady = true → s.inRun 12 = true → bit v.toNat 0 = true →
    exec (.reflexClrMax v) s = .next { s with reflex.max := 0 }) ∧
  -- R137: a slot whose key is missing sends nothing
  (∀ (s : State) x tx, (s.signed x (x.frame (x.tmpl.talOf x.step))).1 = none →
    (s.transmit x tx).out = (s.signed x (x.frame (x.tmpl.talOf x.step))).2.out ∧
    (s.transmit x tx).ports = (s.signed x (x.frame (x.tmpl.talOf x.step))).2.ports)

/-- R121, R123, R124, R138 to R141: templates are loaded, armed and disarmed; GOOSE control blocks are subscribed, tracked and expire. -/
def Obligations.ReflexTemplatesAndGoose : Prop :=
  (∀ s c, let op : Op := { code := 0x0807, inst := .inst, lens := (List.range 453).map (· + 188), needsD12 := true, states := 0x3E }
    let t := s.opened op c
    let b := bufferOf op c
    s.ready op c = true → c.handle ≤ 7 → templateBad b = none → c.paramLen = 128 + leAt b 0 2 → bit (byteAt b 13) 0 = false →
    t.slot (c.inst * 8 + c.handle) = none →
    Answers (.reflexLoad c) s op c (Reply.ok { t with
      reflex.slots := t.reflex.slots.put (c.inst * 8 + c.handle) { tmpl := readTemplate b } })) ∧
  -- every one of the eight intervals and times allowed to live is held to its range, whatever NRETX says
  (∀ b j, j < 8 → leAt b (16 + 2 * j) 2 = 0 ∨ leAt b (32 + 2 * j) 2 = 0 → templateBad b ≠ none) ∧
  (∀ s c o, let op : Op := { code := 0x0807, inst := .inst, lens := (List.range 453).map (· + 188), needsD12 := true, states := 0x3E }
    let t := s.opened op c
    s.ready op c = true → c.handle ≤ 7 → templateBad (bufferOf op c) = some o → Answers (.reflexLoad c) s op c (Reply.badBuf t o)) ∧
  (∀ s c x, let op : Op := { code := 0x0807, inst := .inst, lens := (List.range 453).map (· + 188), needsD12 := true, states := 0x3E }
    let t := s.opened op c
    let b := bufferOf op c
    s.ready op c = true → c.handle ≤ 7 → templateBad b = none → c.paramLen = 128 + leAt b 0 2 →
    t.slot (c.inst * 8 + c.handle) = some x → x.state = .armed → x.isHeld = false →
    Answers (.reflexLoad c) s op c (Reply.conflict t 3 2 0x03 c.handle)) ∧
  (∀ s c x, let op : Op := { code := 0x0808, tenant := true, inst := .inst, needsD12 := true, states := 0x1E }
    let t := s.opened op c
    let k := c.inst * 8 + byteAt c.data 0
    let v := leAt c.data 8 4
    let y : Slot := { x with
      state := .armed, heldHove := false, heldKey := false, values := BitVec.ofNat 32 v, staged := BitVec.ofNat 32 v
      stNum := if bit (byteAt c.data 1) 1 then nextNum x.stNum
        else if BitVec.ofNat 32 (leAt c.data 4 4) = 0 then 1 else BitVec.ofNat 32 (leAt c.data 4 4)
      step := 0, due := none, held := none }
    s.ready op c = true → bit (byteAt c.data 1) 0 = true → byteAt c.data 0 ≤ 7 → t.slot k = some x → x.state = .loaded →
    x.tmpl.auth = false → bit x.tmpl.ports 2 = false → bit x.tmpl.ports 3 = false → v ||| x.tmpl.mask = x.tmpl.mask →
    Answers (.reflexArm c) s op c (Reply.ok (if (t.setSlot k y).publishing k then (t.setSlot k y).newState k y none else t.setSlot k y))) ∧
  (∀ s c x, let op : Op := { code := 0x0808, tenant := true, inst := .inst, needsD12 := true, states := 0x3E }
    let t := s.opened op c
    let k := c.inst * 8 + byteAt c.data 0
    s.ready op c = true → bit (byteAt c.data 1) 0 = false → byteAt c.data 0 ≤ 7 → t.slot k = some x →
    Answers (.reflexDisarm c) s op c (Reply.ok (t.setSlot k { x with
      state := .loaded, heldHove := false, heldKey := false, due := none, step := 0, held := none }))) ∧
  (∀ s c, let op : Op := { code := 0x0808, tenant := true, inst := .inst, needsD12 := true, states := 0x3E }
    let t := s.opened op c
    s.ready op c = true → bit (byteAt c.data 1) 0 = false → byteAt c.data 0 ≤ 7 → t.slot (c.inst * 8 + byteAt c.data 0) = none →
    Answers (.reflexDisarm c) s op c (Reply.conflict t 3 0 0x0E (byteAt c.data 0))) ∧
  (∀ s c, let op : Op := { code := 0x0806, lens := [192], needsD12 := true }
    let t := s.opened op c
    let b := bufferOf op c
    s.ready op c = true → c.handle ≤ 4095 → bit (byteAt b 12) 7 = false → bit (byteAt b 12) 6 = false → bit (byteAt b 12) 0 = false →
    1 ≤ leAt b 14 2 → leAt b 14 2 ≤ 96 → leAt b 16 8 % 1024 = 0 → t.reflex.goose = [] →
    Answers (.gooseSubscribe c) s op c (Reply.ok { t with reflex.goose := [(c.handle, readGooseCb b)] })) ∧
  (∀ s c, let op : Op := { code := 0x0806, lens := [192], needsD12 := true }
    let t := s.opened op c
    let b := bufferOf op c
    s.ready op c = true → c.handle ≤ 4095 → bit (byteAt b 12) 7 = true → t.reflex.goose.has c.handle = true →
    Answers (.gooseSubscribe c) s op c (Reply.ok { t with reflex.goose := t.reflex.goose.drop1 c.handle })) ∧
  (∀ s q qs appid sim p g cb x, s.reflex.queue = q :: qs → s.inRun 12 = true → pbPdu q.body etGoose = some (appid, sim, p) →
    readGoose p = some g → s.reflex.goose = [(cb, x)] → x.dst = beAt q.body 0 6 → x.appid = appid → x.ref = g.ref →
    g.data.length ≤ 984 → g.tal ≠ 0 → x.checkConfRev = false → sim = false → x.auth = false →
    exec .gooseFrameRx s = .next (State.gooseTrack { s with reflex.queue := qs } cb x g sim q)) ∧
  (∀ s q qs appid sim p g, s.reflex.queue = q :: qs → s.inRun 12 = true → pbPdu q.body etGoose = some (appid, sim, p) →
    readGoose p = some g → s.reflex.goose = [] →
    exec .gooseFrameRx s = .next { s with reflex.queue := qs, reflex.unmatched := s.reflex.unmatched + 1 }) ∧
  (∀ s, s.reflex.queue = [] → exec .gooseFrameRx s = .next s) ∧
  -- tracking: the block is LIVE with the frame's numbers, and expires its time allowed to live after the frame's stamp
  (∀ (s : State) cb x g sim q, s.reflex.goose.find cb = some x → x.recordOnChange = false → x.watchers = [] →
    ∃ y, (s.gooseTrack cb x g sim q).reflex.goose.find cb = some y ∧ y.state = .live ∧ y.stNum = g.stNum ∧ y.sqNum = g.sqNum ∧
      y.expires = s.fullStamp q.stamp + g.tal * 1000000) ∧
  (∀ s cb x, s.reflex.goose.find cb = some x → s.inRun 12 = true → x.state = .live → x.expires ≤ s.tbNs → x.watchers = [] →
    Completes (.gooseExpired cb) s (fun t =>
      (∃ y, t.reflex.goose.find cb = some y ∧ y.state = .expired ∧ y.gen = x.gen + 1 ∧ y.cnt = x.cnt.inc 4 ∧
        y.stNum = x.stNum ∧ (27 ≤ x.boardImg.length → bit (byteAt y.boardImg 26) 4 = true)) ∧
      SamePath s t ∧ t.time = s.time ∧ t.alm = s.alm ∧ t.recd = s.recd ∧ SameInst s t ∧ SameRings s t ∧ SameBoard s t ∧
      SameProc s t)) ∧
  (∀ s cb x, s.reflex.goose.find cb = some x → s.tbNs < x.expires → exec (.gooseExpired cb) s = .next s)

/-- R268 to R287: the recorder's writer, its triggers and events, and the export to a drive: records are written in place and no other
octet of the DRAM changes; a trigger opens an event or extends the open one; capture is configured; the queue pair is attached and
detached; events are exported, released and time out. -/
def Obligations.RecorderWritesTriggersAndExports : Prop :=
  (∀ s q qs, s.recd.queue = q :: qs → s.inRun 13 = true → s.recd.running = true → s.recd.held = false → s.recd.dropped = 0 →
    q.octets ≠ [] → s.recd.off + q.octets.length ≤ 65536 → Mem.wf s.dram = true →
    Completes .recWriter s (fun t =>
      let at_ := 0x800000 + s.recd.block * 65536 + s.recd.off
      t.recd.queue = qs ∧ t.recd.off = s.recd.off + q.octets.length ∧ t.recd.block = s.recd.block ∧ t.recd.cnt = s.recd.cnt.inc 0 ∧
      t.dram.readN at_ q.octets.length = q.octets ∧
      (∀ a, a < at_ ∨ at_ + q.octets.length ≤ a → t.dram.read a = s.dram.read a) ∧ Mem.wf t.dram = true ∧
      SamePath s t ∧ t.time = s.time ∧ t.alm = s.alm ∧ t.reflex = s.reflex ∧ SameInst s t ∧ SameRings s t ∧ SameHost s t ∧
      t.power = s.power ∧ t.boot = s.boot ∧ t.helm = s.helm)) ∧
  (∀ s, s.recd.queue = [] ∨ s.recd.running = false ∨ s.recd.held = true → exec .recWriter s = .next s) ∧
  (∀ s k e, s.recd.openEvent = some (k, e) → s.inRun 13 = true → s.recd.running = true → s.recd.held = false → s.inRun 12 = true →
    e.endNs ≤ s.tbNs →
    exec .recEventClose s = .next ((s.setEvent k { e with state := .closed }).event 16)) ∧
  (∀ s k e, s.recd.openEvent = some (k, e) → s.tbNs < e.endNs → exec .recEventClose s = .next s) ∧
  (∀ s c, let op : Op := { code := 0x0A01, lens := [128] }
    let t := s.opened op c
    let b := bufferOf op c
    s.ready op c = true → recConfigBad b = none → t.recd.running = false → t.recd.qp.state = .detached → t.recd.events = [] →
    t.recd.cfg.enable = false →
    Answers (.recConfig c) s op c (Reply.ok (if bit (byteAt b 0) 0 then State.captureStart { t with recd.cfg := readRecCfg b }
      else { t with recd.cfg := readRecCfg b }))) ∧
  (∀ s c, let op : Op := { code := 0x0A01, lens := [128] }
    let t := s.opened op c
    let b := bufferOf op c
    s.ready op c = true → recConfigBad b = none → t.recd.running = true → byteAt b 6 ≠ t.recd.cfg.sizeGib →
    Answers (.recConfig c) s op c (Reply.no t 9 0)) ∧
  -- a trigger extends the event that is open; without one it takes the lowest free slot
  (∀ (s : State) src id t k e, s.inRun 13 = true → s.recd.running = true → s.recd.held = false → s.inRun 12 = true →
    s.recd.openEvent = some (k, e) → (s.trigger src id t).1 = some (k, false)) ∧
  (∀ (s : State) src id t k, s.inRun 13 = true → s.recd.running = true → s.recd.held = false → s.inRun 12 = true →
    s.recd.openEvent = none → s.recd.events.firstFree 0 64 = some k → (s.trigger src id t).1 = some (k, true)) ∧
  (∀ s c k new, let op : Op := { code := 0x0A02, tenant := s.mayTrigger c, inst := .either }
    let t := s.opened op c
    let r := t.trigger 1 0xFFFF t.tbNs
    s.ready op c = true → cmdTenant c = none → bit (byteAt c.data 0) 0 = false → t.inRun 13 = true → t.recd.running = true →
    t.recd.held = false → t.inRun 12 = true → r.1 = some (k, new) →
    Answers (.recTrigger c) s op c (Reply.ok r.2 ([BitVec.ofNat 8 k, if new then 1 else 2, 0, 0] ++
      leBytes 8 (((r.2.recd.events.find k).map (·.seq)).getD 0)))) ∧
  (∀ s c i k new, let op : Op := { code := 0x0A02, tenant := true, inst := .either }
    let t := s.opened op c
    let r := t.trigger 2 i t.tbNs
    s.ready op c = true → cmdTenant c = some i → i ∈ s.recd.cfg.rights → bit (byteAt c.data 0) 0 = false → t.inRun 13 = true →
    t.recd.running = true → t.recd.held = false → t.inRun 12 = true → r.1 = some (k, new) →
    Answers (.recTrigger c) s op c (Reply.ok r.2 ([BitVec.ofNat 8 k, if new then 1 else 2, 0, 0] ++
      leBytes 8 (((r.2.recd.events.find k).map (·.seq)).getD 0)))) ∧
  -- a tenant without the trigger right is refused before anything of the command is judged
  (∀ s c i, let op : Op := { code := 0x0A02, inst := .either }
    c.own = 0 → cmdTenant c = some i → i ∉ s.recd.cfg.rights → s.accepts op c = true → s.bufferWaits op c = false →
    exec (.recTrigger c) s = .next ((Reply.denied (s.accept op c) 0).finish (s.acceptance op c))) ∧
  (∀ s c, let op : Op := { code := 0x0A03 }
    let t := s.opened op c
    let d := c.data
    let q : Qp := { state := .attached, qid := leAt d 2 2, depth := leAt d 4 2, lbaShift := byteAt d 6, xferShift := byteAt d 7
                    sqDb := leAt d 8 8, cqDb := leAt d 16 8, nsid := leAt d 24 4
                    timeoutMs := if leAt d 28 4 = 0 then 5000 else leAt d 28 4 }
    s.ready op c = true → byteAt d 0 = 1 → t.attachBad d = none → t.recd.qp.state = .detached →
    Answers (.recExportAttach c) s op c (Reply.ok { t with recd.qp := q })) ∧
  (∀ s c, let op : Op := { code := 0x0A03 }
    let t := s.opened op c
    s.ready op c = true → byteAt c.data 0 = 2 → t.recd.qp.state ≠ .detached → t.recd.qp.outstanding = [] → t.recd.exp = none →
    Answers (.recExportDetach c) s op c (Reply.ok { t with recd.qp := {} })) ∧
  (∀ s c, let op : Op := { code := 0x0A03 }
    let t := s.opened op c
    s.ready op c = true → byteAt c.data 0 = 2 → t.recd.qp.state = .detached →
    Answers (.recExportDetach c) s op c (Reply.no t 8 2)) ∧
  (∀ s c e, let op : Op := { code := 0x0A03 }
    let t := s.opened op c
    s.ready op c = true → byteAt c.data 0 = 3 → byteAt c.data 1 ≤ 63 → t.recd.events.find (byteAt c.data 1) = some e →
    t.recd.qp.state = .attached → e.state = .closed → t.recd.exp = none →
    Answers (.recExportExport c) s op c (exportStart (byteAt c.data 1) e c.data t) ∧
      (t.hove = true → ∃ x, (exportStart (byteAt c.data 1) e c.data t).st.recd.exp = some x ∧ x.event = byteAt c.data 1 ∧
        x.lba = leAt c.data 8 8)) ∧
  (∀ s c e, let op : Op := { code := 0x0A03 }
    let t := s.opened op c
    s.ready op c = true → byteAt c.data 0 = 4 → byteAt c.data 1 ≤ 63 → t.recd.events.find (byteAt c.data 1) = some e →
    t.recd.qp.state = .attached → e.state = .closed → Answers (.recExportRelease c) s op c (Reply.ok (t.freeEvent (byteAt c.data 1)))) ∧
  (∀ s c e, let op : Op := { code := 0x0A03 }
    let t := s.opened op c
    s.ready op c = true → byteAt c.data 0 = 4 → byteAt c.data 1 ≤ 63 → t.recd.events.find (byteAt c.data 1) = some e →
    t.recd.qp.state = .attached → e.state ≠ .closed →
    Answers (.recExportRelease c) s op c (Reply.conflict t 6 e.state.code 4 0)) ∧
  -- without an attached pair, BROKEN included, no event is exported or released
  (∀ s c e, let op : Op := { code := 0x0A03 }
    let t := s.opened op c
    s.ready op c = true → byteAt c.data 0 = 4 → byteAt c.data 1 ≤ 63 → t.recd.events.find (byteAt c.data 1) = some e →
    t.recd.qp.state ≠ .attached → Answers (.recExportRelease c) s op c (Reply.no t 8 2)) ∧
  -- a completion whose phase tag is new, for a command that is outstanding
  (∀ s cid since n, let b := s.dram.readN (0x510000 + s.recd.qp.cqHead * 16) 16
    s.inRun 13 = true → s.recd.qp.state = .attached → s.errBits 1 (0x510000 + s.recd.qp.cqHead * 16) 16 = 0 →
    s.recd.qp.outstanding = [(cid, since, n)] → leAt b 12 4 % 65536 = cid → leAt b 12 4 / 65536 % 2 = s.recd.qp.phase →
    s.recd.exp = none → s.hove = true → s.recd.qp.consumed + 1 < s.recd.qp.depth / 2 → s.dechan.accepted = [] →
    Completes .nvmeCompletion s (fun t =>
      t.recd.qp.outstanding = [] ∧ t.recd.qp.cqHead = (s.recd.qp.cqHead + 1) % s.recd.qp.depth ∧
      t.recd.qp.sqHead = leAt b 8 2 ∧ t.recd.cnt = s.recd.cnt.inc 7 ∧ t.dram = s.dram)) ∧
  (∀ s, s.recd.qp.state = .detached → exec .nvmeCompletion s = .next s) ∧
  (∀ s o, s.inRun 13 = true → s.recd.qp.state = .attached → s.recd.qp.outstanding = [o] → o.2.1 + s.recd.qp.timeoutMs * msTicks ≤ s.now →
    s.recd.exp = none → s.dechan.accepted = [] →
    exec .nvmeCmdTimeout s = .next { s with recd.qp := { s.recd.qp with state := .broken, outstanding := [], staged := [] } }) ∧
  (∀ s o, s.recd.qp.outstanding = [o] → s.now < o.2.1 + s.recd.qp.timeoutMs * msTicks → exec .nvmeCmdTimeout s = .next s)

/-- R65, R74 to R82, R89: the time base counts by its increment; PPS edges, IRIG-B frames and servo updates make, keep and lose time; the
PPS output pulses at whole seconds its mode allows. That the offsets of an update come from the state is the model's choice (log entry 1). -/
def Obligations.SourcesAndServoKeepTime : Prop :=
  -- one clock edge adds the increment, exactly
  (∀ t : TimeSt, (t.sec * nsPerSec + t.ns + (t.frac + t.incr) / 2 ^ 32) / nsPerSec < 2 ^ 48 →
    (t.edge.sec * nsPerSec + t.edge.ns) * 2 ^ 32 + t.edge.frac = (t.sec * nsPerSec + t.ns) * 2 ^ 32 + t.frac + t.incr ∧
    t.edge.ns < nsPerSec ∧ t.edge.incr = t.incr ∧ t.edge.quality = t.quality ∧ t.edge.bound = t.bound) ∧
  -- PPS_EDGE: a first edge; a second one 1 s ± 1 ms later; any other edge
  (∀ s, s.inRun 12 = true → s.time.ppsValid = false → s.time.ppsFirst = none →
    exec .ppsEdge s = .next { s with time.ppsFirst := some s.now }) ∧
  (∀ s t, s.inRun 12 = true → s.time.ppsValid = false → s.time.ppsFirst = some t →
    s.now + msTicks < t + secTicks ∨ t + secTicks + msTicks < s.now →
    exec .ppsEdge s = .next { s with time.ppsFirst := some s.now }) ∧
  (∀ s t, s.inRun 12 = true → s.time.ppsValid = false → s.time.ppsFirst = some t → t + secTicks ≤ s.now + msTicks →
    s.now ≤ t + secTicks + msTicks → s.time.sets = [] →
    exec .ppsEdge s = .next (let phase : Int := (s.tbNs : Int) - s.time.cfg.ppsIn
      { s with time := { s.time with
        ppsValid := true, ppsFirst := none, ppsAt := s.now, ppsNs := phase.toNat
        meas := s.time.meas.put 3 (secondOffset phase) } })) ∧
  (∀ s, s.inRun 12 = true → s.time.ppsValid = true → s.now + msTicks < s.time.ppsAt + secTicks ∨ s.time.ppsAt + secTicks + msTicks < s.now →
    exec .ppsEdge s = .next { s with time.cnt := s.time.cnt.inc 0 }) ∧
  (∀ s, s.inRun 12 = true → s.time.ppsValid = true → s.time.ppsAt + 1500 * msTicks ≤ s.now →
    TimeSt.select { s.time with ppsValid := false, ppsFirst := none } s.now = s.time.source →
    exec .ppsLoss s = .next { s with time := { s.time with ppsValid := false, ppsFirst := none } }) ∧
  (∀ s, s.inRun 12 = true → s.time.ppsValid = true → s.time.ppsAt + 1500 * msTicks ≤ s.now → s.time.source = .pps →
    s.time.cfg.srcs = [.pps] → s.time.hostOk = false → s.time.quality = .locked → s.time.bound ≤ boundMax →
    Completes .ppsLoss s (fun t => t.time.quality = .holdover ∧ t.time.source = .none ∧ t.time.bound = s.time.bound ∧
      t.time.incr = s.time.incr ∧ t.time.swNext = s.time.swNext + 1 ∧
      (t.time.swLog.find (s.time.swNext.toNat % 64)).map (fun e => (e.cause, e.step, e.source, e.quality)) = some (5, 0, 0, 2))) ∧
  (∀ s, s.now < s.time.ppsAt + 1500 * msTicks → exec .ppsLoss s = .next s) ∧
  -- IRIG_FRAME: out of range; the first that decodes; one that does not follow the previous valid frame, while the source is valid (it stays
  -- the one compared with) and while it is not; one that follows
  (∀ s f, s.inRun 12 = true → s.time.irigSecond f = none → exec (.irigFrame f) s = .next { s with time.cnt := s.time.cnt.inc 1 }) ∧
  (∀ s f n, s.inRun 12 = true → s.time.irigSecond f = some n → s.time.irigLast = none →
    exec (.irigFrame f) s = .next { s with time.irigLast := some (n, f.sec == 60) }) ∧
  (∀ s f n last, s.inRun 12 = true → s.time.irigSecond f = some n → s.time.irigLast = some (last, false) → n ≠ last + 1 → s.time.irigValid = true →
    exec (.irigFrame f) s = .next { s with time.cnt := s.time.cnt.inc 1 }) ∧
  (∀ s f n last, s.inRun 12 = true → s.time.irigSecond f = some n → s.time.irigLast = some (last, false) → n ≠ last + 1 → s.time.irigValid = false →
    exec (.irigFrame f) s = .next { s with time := { s.time with irigLast := some (n, f.sec == 60), cnt := s.time.cnt.inc 1 } }) ∧
  (∀ s f last, s.inRun 12 = true → s.time.irigSecond f = some (last + 1) → s.time.irigLast = some (last, false) →
    s.time.ppsValid = false →
    exec (.irigFrame f) s = .next { s with time := { s.time with
      irigLast := some (last + 1, f.sec == 60), irigValid := true, irigAt := s.now, irigNs := s.tbNs
      irigYear := !(f.code == 1 || f.code == 2 || f.code == 3), irigCf := f.cf.toNat, pairOk := false
      meas := s.time.meas.put 4 ((s.tbNs : Int) - ((last + 1) * nsPerSec : Nat)) } }) ∧
  (∀ t : TimeSt, ∀ f : IrigFrame, 7 < f.code ∨ 59 < f.min ∨ 23 < f.hour ∨ f.day = 0 ∨ 366 < f.day ∨ 60 < f.sec → t.irigSecond f = none) ∧
  (∀ s, s.inRun 12 = true → s.time.irigValid = true → s.time.irigAt + 2 * secTicks ≤ s.now →
    TimeSt.select { s.time with irigValid := false, irigLast := none, pairOk := false } s.now = s.time.source →
    exec .irigLoss s = .next { s with time := { s.time with irigValid := false, irigLast := none, pairOk := false } }) ∧
  -- PPS_OUT_PULSE: a whole second reached, in a mode that allows the pulse, and in one that does not
  (∀ s, let sec := ((s.tbNs : Int) + s.time.cfg.ppsOut).toNat / nsPerSec
    s.inRun 12 = true → s.time.ppsOutSec < sec →
    (s.time.cfg.ppsMode = 1 ∨ s.time.cfg.ppsMode = 2 ∧ s.time.quality = .locked) →
    exec .ppsOutPulse s = .next (State.emit { s with time := { s.time with
      ppsOutSec := sec, ppsOffAt := some (s.now + s.time.cfg.ppsWidth * 5 / 4) } } (.land .ppsOut true))) ∧
  (∀ s, let sec := ((s.tbNs : Int) + s.time.cfg.ppsOut).toNat / nsPerSec
    s.inRun 12 = true → s.time.ppsOutSec < sec →
    (s.time.cfg.ppsMode = 0 ∨ s.time.cfg.ppsMode = 2 ∧ s.time.quality ≠ .locked) →
    exec .ppsOutPulse s = .next { s with time.ppsOutSec := sec }) ∧
  -- SERVO_UPDATE: in LOCKED; towards a fix; the fix; without Helm
  (∀ s n v o, s.inRun 12 = true → s.helmRuns = true → s.hove = false → s.time.select s.now = s.time.source → s.time.quality = .locked →
    s.time.meas.find s.time.source.code = some o → o.natAbs ≤ 1000 →
    exec (.servoUpdate n v) s = .next { s with time := { s.time with
      meas := [], incr := clampIncr n.toNat, filtered := v, beyond := 0, boundOver := 0, boundAt := s.now, servoAt := s.now
      bound := min boundMax (TimeSt.accuracy { s.time with meas := [] } + v.natAbs + 8) } }) ∧
  (∀ s n v o, s.inRun 12 = true → s.helmRuns = true → s.hove = false → s.time.select s.now = s.time.source → s.time.quality ≠ .locked →
    s.time.meas.find s.time.source.code = some o → s.time.fix.length < 3 →
    exec (.servoUpdate n v) s = .next { s with time := { s.time with
      meas := [], incr := clampIncr n.toNat, filtered := v, fix := s.time.fix ++ [o] } }) ∧
  (∀ s n v, s.inRun 12 = true → s.helmRuns = true → s.hove = false → s.time.select s.now = s.time.source →
    s.time.meas.find s.time.source.code = none → exec (.servoUpdate n v) s = .next { s with time.meas := [] }) ∧
  (∀ s n v, s.helmRuns = false → exec (.servoUpdate n v) s = .next s) ∧
  -- R78: a fix makes LOCKED; beyond 1 µs it steps by the negated mean, otherwise the time base stands
  (∀ (s : State) (x : Int) (old : Nat), s.time.reckFirst = false → x.natAbs ≤ 4000 →
    (s.fixAt x old).time.quality = .locked ∧ (s.fixAt x old).tbNs = s.tbNs ∧
    (s.fixAt x old).time.bound = min boundMax (s.time.accuracy + ceilDiv x.natAbs 4 + 8)) ∧
  (∀ (s : State) (x : Int) (old : Nat), s.time.reckFirst = false → 4000 < x.natAbs → 0 ≤ (s.tbNs : Int) - meanRound x →
    ((s.tbNs : Int) - meanRound x).toNat / nsPerSec < 2 ^ 48 →
    (s.fixAt x old).time.quality = .locked ∧ ((s.fixAt x old).tbNs : Int) = s.tbNs - meanRound x) ∧
  -- SERVO_WATCHDOG
  (∀ s, s.inRun 12 = true → s.time.quality = .locked → s.time.servoAt + 2 * secTicks ≤ s.now → s.time.bound ≤ boundMax →
    Completes .servoWatchdog s (fun t => t.time.quality = .holdover ∧ t.time.servoWd = true ∧ t.time.cnt = s.time.cnt.inc 2 ∧
      t.time.incr = s.time.incr ∧ t.time.bound = s.time.bound)) ∧
  (∀ s, s.time.quality ≠ .locked → exec .servoWatchdog s = .next s)

/-- R72, R73, R87 to R90: the PTP instance takes its messages, measures as slave, sends as master, and TIME_CONFIG, TIME_SET and TIME_QUERY do
what their tables say. Message layout and the clock algorithm follow IEEE 1588 (PRESUMED, log entry 16). -/
def Obligations.PtpAndTimeCommands : Prop :=
  (∀ s, s.time.rxq = [] → exec .ptpMsgRx s = .next s) ∧
  (∀ s, s.ptpServed = false → exec .ptpMsgRx s = .next s) ∧
  (∀ s m ms o, s.time.rxq = m :: ms → s.ptpServed = true → ptpOff m.frame = some o → ptpDomain m.frame o ≠ s.time.cfg.domain →
    exec .ptpMsgRx s = .next { s with time.rxq := ms }) ∧
  -- a one-step Sync from the master gives an offset; a two-step one waits for its Follow_Up
  (∀ s m ms o a, s.time.rxq = m :: ms → s.ptpServed = true → s.ptpPort m.port = true → ptpOff m.frame = some o →
    ptpDomain m.frame o = s.time.cfg.domain → ptpType m.frame o = ptpSync →
    (s.time.ports.getD m.port.num {}).state = .slave → (s.time.ports.getD m.port.num {}).best = some a → a.sender = ptpSender m.frame o →
    ptpTwoStep m.frame o = false →
    exec .ptpMsgRx s = .next (State.syncOffset { s with time.rxq := ms } m.port m.ns (ptpStamp m.frame (o + 34)) (ptpCorr m.frame o))) ∧
  (∀ s m ms o a, s.time.rxq = m :: ms → s.ptpServed = true → s.ptpPort m.port = true → ptpOff m.frame = some o →
    ptpDomain m.frame o = s.time.cfg.domain → ptpType m.frame o = ptpSync →
    (s.time.ports.getD m.port.num {}).state = .slave → (s.time.ports.getD m.port.num {}).best = some a → a.sender = ptpSender m.frame o →
    ptpTwoStep m.frame o = true →
    exec .ptpMsgRx s = .next (State.updPtp { s with time.rxq := ms } m.port (fun x => { x with
      pendSync := some (ptpSender m.frame o, ptpSeq m.frame o, m.ns, ptpCorr m.frame o) }))) ∧
  -- a peer-delay request on port A or B is answered
  (∀ s m ms o, s.time.rxq = m :: ms → s.ptpServed = true → s.ptpPort m.port = true → ptpOff m.frame = some o →
    ptpDomain m.frame o = s.time.cfg.domain → ptpType m.frame o = ptpPdelayReq → m.port = .a ∨ m.port = .b →
    exec .ptpMsgRx s = .next (State.answerPdelay { s with time.rxq := ms } m.port m.ns (Config.portMac m.port.num).toNat m.frame o)) ∧
  -- as master: Sync and Announce leave when they are due, and only as master
  (∀ s (p : Port), s.ptpMaster p = true → (∀ l, (s.time.ports.getD p.num {}).syncTx = some l → l + logTicks s.time.cfg.logSync ≤ s.now) →
    exec (.ptpSyncTx p) s = .next (State.ptpSend (s.updPtp p (fun y => { y with syncTx := some s.now, syncSeq := (y.syncSeq + 1) % 65536 })) p
      (ptpMessage ptpMac (s.ptpMacOf p) ptpSync s.time.cfg.domain (if s.time.cfg.oneStep then 0 else 0x0200) 0 (portIdentity p)
        (s.time.ports.getD p.num {}).syncSeq (BitVec.ofInt 8 s.time.cfg.logSync).toNat (zeros 10)))) ∧
  (∀ s (p : Port), s.ptpMaster p = false → exec (.ptpSyncTx p) s = .next s ∧ exec (.ptpAnnounceTx p) s = .next s) ∧
  (∀ s (p : Port), s.ptpMaster p = true → s.time.slave = none → s.time.cfg.gmCapable = true →
    (∀ l, (s.time.ports.getD p.num {}).annTx = some l → l + logTicks s.time.cfg.logAnnounce ≤ s.now) →
    exec (.ptpAnnounceTx p) s = .next (State.ptpSend (s.updPtp p (fun y => { y with annTx := some s.now, annSeq := (y.annSeq + 1) % 65536 })) p
      (ptpMessage ptpMac (s.ptpMacOf p) ptpAnnounce s.time.cfg.domain 0x0004 0 (portIdentity p) (s.time.ports.getD p.num {}).annSeq
        s.time.cfg.logAnnounce (zeros 10 ++ beBytes 2 s.time.cfg.taiUtc ++
          [0, BitVec.ofNat 8 s.time.cfg.priority1, BitVec.ofNat 8 s.time.cfg.clockClass, BitVec.ofNat 8 (accuracyCode s.time.bound)] ++
          beBytes 2 0xFFFF ++ [BitVec.ofNat 8 s.time.cfg.priority2] ++ beBytes 8 Config.serial.toNat ++ beBytes 2 0 ++ [0xA0])))) ∧
  (∀ s : State, s.time.cfg.gmCapable = false → s.ownAnnounce.clockClass = 255) ∧
  (∀ s, s.ptpServed = true → s.ptpPort .a = true → s.ptpPort .b = false → (s.mac .a).linkUp = true →
    (s.time.ports.getD 0 {}).pdTx = none →
    exec .ptpPdelayTx s = .next (let q := ((s.time.ports.getD 0 {}).pdSeq + 1) % 65536
      State.sendExpress (s.updPtp .a (fun y => { y with pdTx := some s.now, pdSeq := q, pdT1 := none, pdResp := none })) .a
        { body := ptpMessage ptpPeerMac (Config.portMac 0).toNat ptpPdelayReq s.time.cfg.domain 0 0 (portIdentity .a) q 0x7F (zeros 20)
          kind := .express })) ∧
  (∀ s, s.ptpServed = false → exec .ptpPdelayTx s = .next s) ∧
  (∀ s (p : Port) a, s.ptpServed = true → (s.time.ports.getD p.num {}).best = some a →
    (s.time.ports.getD p.num {}).bestAt + s.time.cfg.announceTimeout * logTicks s.time.cfg.logAnnounce ≤ s.now →
    exec (.announceTimeout p) s = .next (State.bmca (s.updPtp p (fun y => { y with best := none })))) ∧
  (∀ s (p : Port), (s.time.ports.getD p.num {}).best = none → exec (.announceTimeout p) s = .next s) ∧
  -- R73, R77: what the algorithm makes of the ports
  (∀ (s : State) best k, s.ptpPort (Port.ofNum k) = false → s.portDecision best k = .disabled) ∧
  (∀ (s : State) k a, s.ptpPort (Port.ofNum k) = true → s.time.cfg.role ≠ 3 → s.time.cfg.gmCapable = false → s.portDecision (some (k, a)) k = .slave) ∧
  (∀ (s : State) a, s.ptpPort .d = true → s.time.cfg.role ≠ 3 → s.time.cfg.gmCapable = false → s.portDecision (some (2, a)) 3 = .passive) ∧
  -- TIME_CONFIG
  (∀ s c, let op : Op := { code := 0x0901 }
    let t := s.opened op c
    s.ready op c = true → timeConfigBad c.data = none → t.inRun 12 = true →
    Answers (.timeConfig c) s op c (Reply.ok (State.bmcaPorts { t with time := { t.time with
      kept := some (readTimeCfg c.data), cfg := readTimeCfg c.data } }))) ∧
  (∀ s c, let op : Op := { code := 0x0901 }
    let t := s.opened op c
    s.ready op c = true → timeConfigBad c.data = none → t.inRun 12 = false →
    Answers (.timeConfig c) s op c (Reply.ok { t with time.kept := some (readTimeCfg c.data) })) ∧
  (∀ s c o, let op : Op := { code := 0x0901 }
    s.ready op c = true → timeConfigBad c.data = some o → Answers (.timeConfig c) s op c (Reply.bad (s.opened op c) o)) ∧
  (∀ d, (3 < byteAt d 0 → timeConfigBad d = some 24) ∧
    (timeConfigBad d = none → 2 ≤ byteAt d 9 ∧ 1000 ≤ leAt d 14 4 ∧ leAt d 14 4 ≤ 500000000 ∧ 10 ≤ leAt d 24 2 ∧ leAt d 24 2 ≤ 20000 ∧
      1 ≤ leAt d 30 2 ∧ leAt d 30 2 ≤ 4294)) ∧
  -- TIME_SET: in LOCKED, whatever NS holds; NS out of range; at once; at the next PPS edge; none within 2 s
  (∀ s c, let op : Op := { code := 0x0902, needsD12 := true }
    let t := s.opened op c
    s.ready op c = true → t.time.quality = .locked →
    Answers (.timeSet c) s op c (Reply.conflict t 4 3 7 0)) ∧
  (∀ s c, let op : Op := { code := 0x0902, needsD12 := true }
    let t := s.opened op c
    s.ready op c = true → t.time.quality ≠ .locked → nsPerSec ≤ leAt c.data 6 4 →
    Answers (.timeSet c) s op c (Reply.bad t 30)) ∧
  (∀ s c, let op : Op := { code := 0x0902, needsD12 := true }
    let t := s.opened op c
    s.ready op c = true → leAt c.data 6 4 < nsPerSec → t.time.quality ≠ .locked → bit (byteAt c.data 14) 0 = false →
    Answers (.timeSet c) s op c (Reply.ok (t.applySet (leAt c.data 0 6 * nsPerSec + leAt c.data 6 4) (leAt c.data 10 4)))) ∧
  (∀ s c, let op : Op := { code := 0x0902, needsD12 := true }
    let t := s.opened op c
    s.ready op c = true → leAt c.data 6 4 < nsPerSec → t.time.quality ≠ .locked → bit (byteAt c.data 14) 0 = true →
    Answers (.timeSet c) s op c { st := { t with time.sets := t.time.sets ++ [{
        ring := (s.acceptance op c).ring, idx := (s.acceptance op c).idx, sec := leAt c.data 0 6, ns := leAt c.data 6 4
        bound := leAt c.data 10 4, since := t.now }] }, later := true, limit := 2 * secTicks + 2 * msTicks }) ∧
  (∀ (s : State) ns bound, ns / nsPerSec < 2 ^ 48 → (s.applySet ns bound).tbNs = ns ∧
    (s.applySet ns bound).time.source = .host ∧ (s.applySet ns bound).time.hostOk = true ∧
    (s.applySet ns bound).time.quality = (if bound = 0xFFFFFFFF then .unknown else .holdover)) ∧
  (∀ s p a, s.time.sets = [p] → p.since + 2 * secTicks ≤ s.now →
    s.dechan.accepted.find? (fun a => a.ring == p.ring && a.idx == p.idx) = some a →
    exec .timeSetPpsTimeout s = .next (State.reply { s with time.sets := [] } a 0xD 0 [] [])) ∧
  (∀ s, (∀ p ∈ s.time.sets, s.now < p.since + 2 * secTicks) → exec .timeSetPpsTimeout s = .next s) ∧
  (∀ s c, let op : Op := { code := 0x0903, exempt := true }
    let t := s.opened op c
    s.ready op c = true → Answers (.timeQuery c) s op c (Reply.ok t t.timeQuery)) ∧
  (∀ s : State, s.inRun 12 = true → leAt s.timeQuery 0 6 = s.time.sec % 2 ^ 48 ∧ leAt s.timeQuery 6 4 = s.time.ns % 2 ^ 32 ∧
    byteAt s.timeQuery 12 = s.time.quality.code ∧ byteAt s.timeQuery 13 = s.time.source.code)

/-- R378, R380 to R386, R389, Table 16-2: which thread issues, what each instruction of Table 16-2 does to its thread and to others, and
that a nonzero unused field is fault ILLEGAL. The order of issue is that of the commands (log entry 25). -/
def Obligations.HelmThreadsIssueTheirInstructions : Prop :=
  -- a thread that is not RUNNABLE, or whose core is in reset, issues nothing; a breakpoint halts before the instruction
  (∀ s t op, (s.coreRuns (t % 128) && (s.thread (t % 128)).state == .runnable) = false → exec (.fork t op) s = .next s ∧
    exec (.exit t op) s = .next s ∧ exec (.join t op) s = .next s ∧ exec (.wait t op) s = .next s ∧ exec (.signal t op) s = .next s ∧
    exec (.evmap t op) s = .next s ∧ exec (.timer t op) s = .next s ∧ exec (.settrap t op) s = .next s ∧ exec (.class_ t op) s = .next s ∧
    exec (.break_ t op) s = .next s ∧ ∀ w what, exec (.loadStore t w what) s = .next s) ∧
  (∀ s t op, t < 128 → s.coreRuns t = true → (s.thread t).state = .runnable → s.breakpoint (s.thread t).pc = true →
    (s.thread t).skipBp = false → exec (.class_ t op) s = .next (State.calmAfter (s.setThread t { s.thread t with
      state := .debugHalt, prior := .runnable, stepping := false }) s)) ∧
  (∀ s t op, s.issues t = true → op.rd ≠ 0 ∨ op.rt ≠ 0 ∨ op.imm ≠ 0 →
    exec (.exit t op) s = .next (s.faults t .illegal 0 (helmWord op 0x01)) ∧
    exec (.signal t op) s = .next (s.faults t .illegal 0 (helmWord op 0x04)) ∧
    exec (.timer t op) s = .next (s.faults t .illegal 0 (helmWord op 0x06)) ∧
    exec (.settrap t op) s = .next (s.faults t .illegal 0 (helmWord op 0x07)) ∧
    exec (.class_ t op) s = .next (s.faults t .illegal 0 (helmWord op 0x0D))) ∧
  -- FORK: the lowest free thread but thread 0; none free; a core that does not exist
  (∀ s t op k, s.issues t = true → op.imm.toNat % 16 = 0 → 0 < k → k < 128 → (∀ j, 0 < j → j < k → (s.thread j).state ≠ .free) →
    (s.thread k).state = .free →
    exec (.fork t op) s = .next (State.retire ((((s.issued t).setThread k
      (Thread.setReg (Thread.setReg { state := .runnable, cls := op.imm.toNat / 16, pc := BitVec.ofNat 32 (s.rsVal t op) }
        1 (BitVec.ofNat 32 (s.rtVal t op))) 2 (BitVec.ofNat 32 t))).result t op (BitVec.ofNat 32 k)).helmCount 0) s t)) ∧
  (∀ s t op, s.issues t = true → op.imm.toNat % 16 = 0 → (∀ j, 0 < j → j < 128 → (s.thread j).state ≠ .free) →
    exec (.fork t op) s = .next (State.retire (((s.issued t).result t op 0xFFFFFFFF).helmCount 1) s t)) ∧
  (∀ s t op, s.issues t = true → 9 ≤ op.imm.toNat % 16 → exec (.fork t op) s = .next (s.faults t .illegal 0 (helmWord op 0x00))) ∧
  -- EXIT and JOIN
  (∀ s t op, s.issues t = true → op.rd = 0 → op.rt = 0 → op.imm = 0 →
    exec (.exit t op) s = .next (State.retire ((s.issued t).threadExit t (BitVec.ofNat 32 (s.rsVal t op))) s t)) ∧
  (∀ (s : State) t v, let u := (s.threadLeave t).setThread t { (s.threadLeave t).thread t with state := .done, exitVal := v }
    (u.joiner t = none → s.threadExit t v = u) ∧
    (∀ j, u.joiner t = some j → (u.thread j).state = .waitJoin → s.threadExit t v = u.joinTake j t)) ∧
  (∀ (s : State) j t, s.helm.thr.sorted = true → j ≠ t →
    ((s.joinTake j t).thread t).state = .free ∧ ((s.joinTake j t).thread j).state = .runnable ∧
    ((s.thread j).rd ≠ 0 → (s.thread j).rd < (s.thread j).regs.length →
      ((s.joinTake j t).thread j).reg (s.thread j).rd = (s.thread t).exitVal)) ∧
  (∀ s t op k, s.issues t = true → op.rt = 0 → op.imm = 0 → s.rsVal t op % 128 = k → k ≠ t → (s.thread k).state = .done →
    (s.issued t).joiner k = none →
    exec (.join t op) s = .next (State.retire (((s.issued t).setThread t { (s.issued t).thread t with
      state := .waitJoin, target := k, rd := op.rd.toNat }).joinTake t k) s t)) ∧
  (∀ s t op k, s.issues t = true → op.rt = 0 → op.imm = 0 → s.rsVal t op % 128 = k → k ≠ t → (s.thread k).state ≠ .done →
    (s.thread k).state ≠ .free → (s.issued t).joiner k = none →
    exec (.join t op) s = .next (State.retire ((s.issued t).setThread t { (s.issued t).thread t with
      state := .waitJoin, target := k, rd := op.rd.toNat }) s t)) ∧
  (∀ s t op, s.issues t = true → op.rt = 0 → op.imm = 0 → s.rsVal t op % 128 = t →
    exec (.join t op) s = .next (s.faults t .badJoin 0 (helmWord op 0x02))) ∧
  -- WAIT, SIGNAL, EVMAP, TIMER
  (∀ s t op, s.issues t = true → op.rt = 0 → op.imm = 0 →
    maskOf 8 (fun k => bit (s.rsVal t op % 256) k && ((s.thread t).inputs.getD k none).isSome) ≠ 0 →
    (s.thread t).latched &&& (s.rsVal t op % 256) = 0 →
    exec (.wait t op) s = .next (State.retire ((s.issued t).setThread t { (s.issued t).thread t with
      state := .waitEvent, mask := s.rsVal t op % 256, rd := op.rd.toNat }) s t)) ∧
  (∀ s t op, s.issues t = true → op.rt = 0 → op.imm = 0 →
    maskOf 8 (fun k => bit (s.rsVal t op % 256) k && ((s.thread t).inputs.getD k none).isSome) = 0 →
    exec (.wait t op) s = .next (s.faults t .badWait 0 (helmWord op 0x03))) ∧
  (∀ s t op, s.issues t = true → op.rd = 0 → op.rt = 0 → op.imm = 0 → s.rsVal t op ≤ 63 →
    exec (.signal t op) s = .next (State.retire ((s.issued t).pulse (960 + s.rsVal t op)) s t)) ∧
  (∀ s t op, s.issues t = true → op.rd = 0 → op.rt = 0 → op.imm = 0 → 64 ≤ s.rsVal t op →
    exec (.signal t op) s = .next (s.faults t .badEvent 0 (helmWord op 0x04))) ∧
  (∀ s t op src, s.issues t = true → op.rd = 0 → op.imm = 0 → s.rtVal t op = src → src < 832 ∨ src = 832 + t ∨ 960 ≤ src ∧ src < 1024 →
    exec (.evmap t op) s = .next (State.retire ((s.issued t).setThread t { (s.issued t).thread t with
      inputs := (s.thread t).inputs.set (s.rsVal t op % 8) (some src)
      latched := (s.thread t).latched - ((s.thread t).latched &&& 2 ^ (s.rsVal t op % 8)) +
        b2n ((s.issued t).evLevel src) * 2 ^ (s.rsVal t op % 8) }) s t)) ∧
  (∀ s t op, s.issues t = true → op.rd = 0 → op.imm = 0 → bit (s.rtVal t op) 31 = true →
    exec (.evmap t op) s = .next (State.retire ((s.issued t).setThread t { (s.issued t).thread t with
      inputs := (s.thread t).inputs.set (s.rsVal t op % 8) none
      latched := (s.thread t).latched - ((s.thread t).latched &&& 2 ^ (s.rsVal t op % 8)) }) s t)) ∧
  (∀ s t op, s.issues t = true → op.rd = 0 → op.imm = 0 → 1024 ≤ s.rtVal t op → s.rtVal t op < 2 ^ 31 →
    exec (.evmap t op) s = .next (s.faults t .badEvent 0 (helmWord op 0x05))) ∧
  (∀ s t op, s.issues t = true → op.rd = 0 → op.rt = 0 → op.imm = 0 →
    exec (.timer t op) s = .next (State.retire ((s.issued t).setThread t { (s.issued t).thread t with
      timer := if s.rsVal t op = 0 then none else some (s.now + ceilDiv (s.rsVal t op * 25) 2) }) s t)) ∧
  -- SETTRAP, CLASS, BREAK
  (∀ s t op, s.issues t = true → op.rd = 0 → op.rt = 0 → op.imm = 0 →
    exec (.settrap t op) s = .next (State.retire ((s.issued t).setThread t { (s.issued t).thread t with
      trap := BitVec.ofNat 32 (s.rsVal t op), trapActive := false }) s t)) ∧
  (∀ s t op, s.issues t = true → op.rd = 0 → op.rt = 0 → op.imm = 0 →
    exec (.class_ t op) s = .next (State.retire ((s.issued t).setThread t { (s.issued t).thread t with cls := s.rsVal t op % 4 }) s t)) ∧
  (∀ s t op, s.issues t = true → op.rd = 0 → op.rs = 0 → op.rt = 0 → op.imm = 0 →
    exec (.break_ t op) s = .next (s.faults t .break_ 0 (helmWord op 0x0E))) ∧
  (∀ s t op, t < 128 → s.coreRuns t = true → (s.thread t).state = .runnable → s.helm.breakEn = true → s.breakpoint (s.thread t).pc = false →
    op.rd = 0 → op.rs = 0 → op.rt = 0 → op.imm = 0 →
    Completes (.break_ t op) s (fun u => (u.thread t).state = .debugHalt ∧ (u.thread t).prior = .runnable)) ∧
  -- R384: what a pulse delivers
  (∀ (s : State) t src, s.helm.thr.sorted = true → (s.thread t).state ≠ .free → (s.thread t).inputsOf src ≠ 0 →
    (s.pulse src).thread t = (s.thread t).deliver ((s.thread t).inputsOf src)) ∧
  -- R391: a step ends in DEBUG_HALT
  (∀ (s : State) t, (s.thread t).stepping = true → (s.thread t).state = .runnable →
    ((s.afterStep t).thread t).state = .debugHalt ∧ ((s.afterStep t).thread t).prior = .runnable) ∧
  -- ordinary instructions: a computation, a store and a load of the core's data SRAM, and an address outside
  (∀ s t w rd v, s.issues t = true → exec (.loadStore t w (.compute rd v none)) s =
    .next (State.retire ((s.issued t).setThread t (((s.issued t).thread t).setReg rd.toNat v)) s t)) ∧
  (∀ s t w off v, s.issues t = true → off % 4 = 0 → off + 4 ≤ 2 ^ 18 →
    exec (.loadStore t w (.store (.dataSram off) 4 v)) s = .next (State.retire { s.issued t with
      helm.sram := (s.issued t).helm.sram.writeN (t / 16 * 2 ^ 19 + 2 ^ 18 + off) (leBytes 4 v.toNat) } s t)) ∧
  (∀ s t w off rd, s.issues t = true → off % 4 = 0 → off + 4 ≤ 2 ^ 18 →
    exec (.loadStore t w (.load rd (.dataSram off) 4 false)) s = .next (State.retire ((s.issued t).setThread t
      (((s.issued t).thread t).setReg rd.toNat (BitVec.ofNat 32 (leNat (s.helm.sram.readN (t / 16 * 2 ^ 19 + 2 ^ 18 + off) 4))))) s t)) ∧
  (∀ s t w off v, s.issues t = true → off % 4 ≠ 0 →
    exec (.loadStore t w (.store (.dataSram off) 4 v)) s = .next (s.faults t .align (t / 16 * 2 ^ 19 + 2 ^ 18 + off) w)) ∧
  (∀ s t w a v, s.issues t = true → exec (.loadStore t w (.store (.outside a) 4 v)) s = .next (s.faults t .access a.toNat w)) ∧
  (∀ s t w c k v, s.issues t = true → t ≠ 0 → exec (.loadStore t w (.store (.rose c k) 4 v)) s = .next (s.faults t .access 0 w))

/-- R382, R387 to R390, R392: channels carry whole messages in order between threads, supervisor instructions act for thread 0 alone, and a
fault goes to channel 255, to the trap handler, or halts the thread. -/
def Obligations.HelmChannelsSupervisorAndFaults : Prop :=
  (∀ s t op, (s.coreRuns (t % 128) && (s.thread (t % 128)).state == .runnable) = false → exec (.chstage t op) s = .next s ∧
    exec (.chcommit t op) s = .next s ∧ exec (.chrecv t op) s = .next s ∧ exec (.thrctlResume t op) s = .next s ∧
    exec (.thrctlKill t op) s = .next s ∧ exec (.chcfg t op) s = .next s) ∧
  -- CHSTAGE
  (∀ s t op, s.issues t = true → op.rd = 0 → op.imm = 0 → (s.chan (s.rtVal t op % 256)).depth ≠ 0 →
    ((s.thread t).stageCh = none ∨ (s.thread t).stageCh = some (s.rtVal t op % 256)) →
    exec (.chstage t op) s = .next (State.retire ((s.issued t).setThread t { (s.issued t).thread t with
      stageCh := some (s.rtVal t op % 256)
      stage := (s.thread t).stage.put (s.rtVal t op / 256 % 8) (BitVec.ofNat 32 (s.rsVal t op)) }) s t)) ∧
  (∀ s t op c, s.issues t = true → op.rd = 0 → op.imm = 0 → ((s.chan (s.rtVal t op % 256)).depth = 0 ∨
    (s.thread t).stageCh = some c ∧ c ≠ s.rtVal t op % 256) →
    exec (.chstage t op) s = .next (s.faults t .channel 0 (helmWord op 0x08))) ∧
  -- CHCOMMIT: room; full without BLOCK; full with BLOCK; a bad length
  (∀ s t op, let c := s.rsVal t op % 256
    let n := s.rsVal t op / 256 % 16
    let x := (s.issued t).thread t
    s.issues t = true → op.rt = 0 → op.imm.toNat ≤ 1 → 1 ≤ n → n ≤ 8 → (s.thread t).stageCh.getD c = c →
    (s.chan c).msgs.length < (s.chan c).depth →
    exec (.chcommit t op) s = .next (State.retire ((((s.issued t).setThread t (x.committed op.rd.toNat)).chanPut c
      ((List.range n).map (fun k => (s.thread t).stage.getD k 0))).serve c) s t)) ∧
  (∀ s t op, let c := s.rsVal t op % 256
    let n := s.rsVal t op / 256 % 16
    s.issues t = true → op.rt = 0 → op.imm = 0 → 1 ≤ n → n ≤ 8 → (s.thread t).stageCh.getD c = c → 0 < (s.chan c).depth →
    (s.chan c).depth ≤ (s.chan c).msgs.length →
    exec (.chcommit t op) s = .next (State.retire ((s.issued t).result t op 1) s t)) ∧
  (∀ s t op, let c := s.rsVal t op % 256
    let n := s.rsVal t op / 256 % 16
    s.issues t = true → op.rt = 0 → op.imm = 1 → 1 ≤ n → n ≤ 8 → (s.thread t).stageCh.getD c = c → 0 < (s.chan c).depth →
    (s.chan c).depth ≤ (s.chan c).msgs.length →
    exec (.chcommit t op) s = .next (State.retire (((s.issued t).setChan c { s.chan c with
      senders := (s.chan c).senders ++ [t] }).setThread t { (s.issued t).thread t with
        state := .waitSend, chan := c, rd := op.rd.toNat
        sending := (List.range n).map (fun k => (s.thread t).stage.getD k 0) }) s t)) ∧
  (∀ s t op, s.issues t = true → op.rt = 0 → op.imm.toNat ≤ 1 → s.rsVal t op / 256 % 16 = 0 ∨ 8 < s.rsVal t op / 256 % 16 →
    exec (.chcommit t op) s = .next (s.faults t .channel 0 (helmWord op 0x09))) ∧
  -- CHRECV: a message; none; none with BLOCK; the fault channel
  (∀ s t op m ms, let c := s.rsVal t op % 256
    s.issues t = true → op.rt = 0 → op.imm.toNat ≤ 1 → c ≠ 255 → 0 < (s.chan c).depth → (s.chan c).msgs = m :: ms →
    exec (.chrecv t op) s = .next (State.retire ((((s.issued t).setChan c { s.chan c with msgs := ms }).setThread t
      (((s.issued t).thread t).takeMsg op.rd.toNat m)).serve c) s t)) ∧
  (∀ s t op, let c := s.rsVal t op % 256
    s.issues t = true → op.rt = 0 → op.imm = 0 → c ≠ 255 → 0 < (s.chan c).depth → (s.chan c).msgs = [] →
    exec (.chrecv t op) s = .next (State.retire ((s.issued t).result t op 0) s t)) ∧
  (∀ s t op, let c := s.rsVal t op % 256
    s.issues t = true → op.rt = 0 → op.imm = 1 → c ≠ 255 → 0 < (s.chan c).depth → (s.chan c).msgs = [] →
    exec (.chrecv t op) s = .next (State.retire (((s.issued t).setChan c { s.chan c with
      receivers := (s.chan c).receivers ++ [t] }).setThread t { (s.issued t).thread t with
        state := .waitRecv, chan := c, rd := op.rd.toNat }) s t)) ∧
  (∀ s t op, s.issues t = true → t ≠ 0 → op.rt = 0 → op.imm.toNat ≤ 1 → s.rsVal t op % 256 = 255 →
    exec (.chrecv t op) s = .next (s.faults t .access 0 (helmWord op 0x0A))) ∧
  -- a waiting receiver takes the message that comes
  (∀ (s : State) c m t n, s.chan c = { depth := 1, msgs := [m], receivers := [t] } → (s.thread t).state = .waitRecv →
    (s.serveChan (n + 2) c).thread t = { (s.thread t).takeMsg (s.thread t).rd m with state := .runnable } ∧
    (s.serveChan (n + 2) c).chan c = { depth := 1 }) ∧
  -- THRCTL and CHCFG
  (∀ s op k, s.issues 0 = true → op.rd = 0 → op.imm = 0 → s.rsVal 0 op = k → 0 < k → (s.thread k).state = .faultHalt →
    exec (.thrctlResume 0 op) s = .next (State.retire ((s.issued 0).setThread k { s.thread k with
      state := .runnable, pc := BitVec.ofNat 32 (s.rtVal 0 op) }) s 0)) ∧
  (∀ s op k, s.issues 0 = true → op.rd = 0 → op.imm = 1 → s.rsVal 0 op = k → 0 < k → (s.thread k).state = .faultHalt →
    exec (.thrctlKill 0 op) s = .next (State.retire ((s.issued 0).threadKill k) s 0)) ∧
  (∀ s op, s.issues 0 = true → op.rd = 0 → op.imm.toNat ≤ 1 → s.rsVal 0 op = 0 →
    exec (.thrctlResume 0 op) s = .next (State.retire (s.issued 0) s 0) ∧ exec (.thrctlKill 0 op) s = .next (State.retire (s.issued 0) s 0)) ∧
  (∀ s t op, s.issues t = true → t ≠ 0 → op.rd = 0 → op.imm.toNat ≤ 1 →
    exec (.thrctlResume t op) s = .next (s.faults t .illegal 0 (helmWord op 0x0B)) ∧
    exec (.thrctlKill t op) s = .next (s.faults t .illegal 0 (helmWord op 0x0B))) ∧
  (∀ s op, let c := s.rsVal 0 op % 256
    s.issues 0 = true → op.rd = 0 → op.imm = 0 → s.rtVal 0 op ≤ 64 → s.helm.chans = [(c, { depth := (s.chan c).depth })] →
    exec (.chcfg 0 op) s = .next (State.retire ((s.issued 0).setChan c { depth := s.rtVal 0 op }) s 0)) ∧
  (∀ s op, s.issues 0 = true → op.rd = 0 → op.imm = 0 → 64 < s.rtVal 0 op →
    exec (.chcfg 0 op) s = .next (s.faults 0 .channel 0 (helmWord op 0x0C))) ∧
  (∀ s t op, s.issues t = true → t ≠ 0 → op.rd = 0 → op.imm = 0 →
    exec (.chcfg t op) s = .next (s.faults t .illegal 0 (helmWord op 0x0C))) ∧
  -- R389, R390: where a fault goes
  (∀ (s : State) t k a w, t ≠ 0 → (s.thread 0).state = .runnable → (s.thread t).state = .runnable → (s.chan 255).msgs = [] →
    0 < (s.chan 255).depth → (s.chan 255).receivers = [] → (s.chan 255).senders = [] →
    ((s.threadFault t k a w).thread t).pc = (s.thread t).pc ∧ ((s.threadFault t k a w).thread t).state = .faultHalt ∧
    ((s.threadFault t k a w).chan 255).msgs.length = 1 ∧
    ((((s.threadFault t k a w).chan 255).msgs.headD []).drop 1).take 3 = [(s.thread t).pc, BitVec.ofNat 32 a, w] ∧
    (s.threadFault t k a w).helm.cnt = s.helm.cnt.inc 2) ∧
  (∀ (s : State) k a w, (s.thread 0).trap ≠ 0 → (s.thread 0).trapActive = false →
    ((s.threadFault 0 k a w).thread 0).pc = (s.thread 0).trap ∧ ((s.threadFault 0 k a w).thread 0).trapActive = true ∧
    ((s.threadFault 0 k a w).thread 0).state = (s.thread 0).state ∧ (s.threadFault 0 k a w).helm.cnt = s.helm.cnt.inc 3) ∧
  (∀ (s : State) k a w, (s.thread 0).trap = 0 →
    ((s.threadFault 0 k a w).thread 0).state = .faultHalt ∧ ((s.threadFault 0 k a w).thread 0).faultAt = s.now ∧
    ((s.threadFault 0 k a w).thread 0).pc = (s.thread 0).pc ∧ (s.threadFault 0 k a w).helm.cnt = s.helm.cnt.inc 4 ∧
    (s.threadFault 0 k a w).helm.snapSeq = s.helm.snapSeq + 1)

/-- R384, R390 to R395, R402 to R404: an armed timer fires at its deadline; the becalmed detector takes a snapshot and tells Binnacle; the
debugger acts on the selected thread while a grant is live; grants are made, used once, end and are revoked. -/
def Obligations.HelmTimersDebuggerAndDetector : Prop :=
  (∀ s t d, t < 128 → (s.thread t).timer = some d → d ≤ s.now → s.coreRuns t = true →
    exec (.helmTimerFire t) s = .next (State.calmAfter ((s.setThread t { s.thread t with timer := none }).pulse (832 + t)) s)) ∧
  (∀ s t d, t < 128 → (s.thread t).timer = some d → s.now < d → exec (.helmTimerFire t) s = .next s) ∧
  (∀ s t, t < 128 → (s.thread t).timer = none → exec (.helmTimerFire t) s = .next s) ∧
  -- BECALMED_DETECT
  (∀ s, s.inRun 4 = true → s.helm.cores ≠ 0 → s.calm = true → s.helm.calmArmed = true →
    s.helm.calmSince + s.boot.becalmWindow * msTicks ≤ s.now →
    Completes .becalmedDetect s (fun t => t.helm.becalmed = true ∧ t.helm.calmArmed = false ∧ t.helm.cnt = s.helm.cnt.inc 5 ∧
      t.helm.snapSeq = s.helm.snapSeq + 1 ∧ t.helm.snapshot.isSome = true ∧
      t.helm.restartDue = (s.helm.restartDue || s.boot.becalmPolicy == 1) ∧ t.helm.thr = s.helm.thr ∧ t.helm.chans = s.helm.chans ∧
      SamePath s t ∧ SameGrid s t ∧ SameInst s t ∧ SameRings s t ∧ SameBoard s t)) ∧
  (∀ s, s.calm = false ∨ s.helm.calmArmed = false → exec .becalmedDetect s = .next s) ∧
  -- R394: what is calm
  (∀ (s : State) t, (s.thread t).state = .runnable ∨ (s.thread t).state = .debugHalt → s.calm = false) ∧
  -- without a grant, a write of the HELM block is a violation
  (∀ s, s.linkReady = true → s.inRun 4 = true → s.dbgOpen = false →
    exec .helmDbgHalt s = .next (s.violPf0 5 0 0xD0020) ∧ exec .helmDbgResume s = .next (s.violPf0 5 0 0xD0020) ∧
    exec .helmDbgStep s = .next (s.violPf0 5 0 0xD0020) ∧ exec .helmDbgKill s = .next (s.violPf0 5 0 0xD0020) ∧
    ∀ k v, k < 32 → exec (.helmDbgRegWrite k v) s = .next (s.violPf0 5 0 (0xD0100 + 4 * k))) ∧
  (∀ (s : State) g, s.helm.grant = some g → s.dbgOpen = (bit g.scope 0 && decide (s.now < g.until_))) ∧
  -- HALT, RESUME, STEP, KILL and a register of the selected thread
  (∀ s t, s.linkReady = true → s.inRun 4 = true → s.dbgOpen = true → s.helm.threadSel = t → t < 128 →
    (s.thread t).state = .runnable ∨ (s.thread t).state = .waitEvent ∨ (s.thread t).state = .faultHalt →
    exec .helmDbgHalt s = .next (State.calmAfter (s.setThread t { s.thread t with
      state := .debugHalt, prior := (s.thread t).state, stepping := false }) s)) ∧
  (∀ s t, s.linkReady = true → s.inRun 4 = true → s.dbgOpen = true → s.helm.threadSel = t → t < 128 →
    (s.thread t).state = .free ∨ (s.thread t).state = .done →
    exec .helmDbgHalt s = .next (State.calmAfter { s with helm.dbgReject := true } s)) ∧
  (∀ s t, s.linkReady = true → s.inRun 4 = true → s.dbgOpen = true → s.helm.threadSel = t → t < 128 →
    (s.thread t).state = .debugHalt → (s.thread t).prior = .runnable →
    exec .helmDbgResume s = .next (State.calmAfter (s.setThread t { s.thread t with state := .runnable, skipBp := true }) s)) ∧
  (∀ s t, s.linkReady = true → s.inRun 4 = true → s.dbgOpen = true → s.helm.threadSel = t → t < 128 →
    (s.thread t).state = .debugHalt → (s.thread t).prior = .waitEvent → (s.thread t).latched &&& (s.thread t).mask ≠ 0 →
    exec .helmDbgResume s = .next (State.calmAfter (s.setThread t
      (Thread.waitEnd { s.thread t with state := .waitEvent, skipBp := true })) s)) ∧
  (∀ s t, s.linkReady = true → s.inRun 4 = true → s.dbgOpen = true → s.helm.threadSel = t → t < 128 →
    (s.thread t).state = .debugHalt → (s.thread t).prior = .runnable →
    exec .helmDbgStep s = .next (State.calmAfter (s.setThread t { s.thread t with
      state := .runnable, stepping := true, skipBp := true }) s)) ∧
  (∀ s t, s.linkReady = true → s.inRun 4 = true → s.dbgOpen = true → s.helm.threadSel = t → t < 128 →
    (s.thread t).state ≠ .debugHalt →
    exec .helmDbgResume s = .next (State.calmAfter { s with helm.dbgReject := true } s) ∧
    exec .helmDbgStep s = .next (State.calmAfter { s with helm.dbgReject := true } s) ∧
    ∀ k v, exec (.helmDbgRegWrite k v) s = .next (State.calmAfter { s with helm.dbgReject := true } s)) ∧
  (∀ s t, s.linkReady = true → s.inRun 4 = true → s.dbgOpen = true → s.helm.threadSel = t → 0 < t → t < 128 →
    (s.thread t).state ≠ .free → exec .helmDbgKill s = .next (State.calmAfter (s.threadKill t) s)) ∧
  (∀ s, s.linkReady = true → s.inRun 4 = true → s.dbgOpen = true → s.helm.threadSel = 0 →
    exec .helmDbgKill s = .next (State.calmAfter { s with helm.dbgReject := true } s)) ∧
  (∀ s t k v, s.linkReady = true → s.inRun 4 = true → s.dbgOpen = true → s.helm.threadSel = t → t < 128 → k < 32 →
    (s.thread t).state = .debugHalt →
    exec (.helmDbgRegWrite k v) s = .next (State.calmAfter (s.setThread t ((s.thread t).setReg k v)) s)) ∧
  -- R392: what a kill leaves: the thread in the pool, the joiner with 0xFFFFFFFF
  (∀ (s : State) t, (s.threadLeave t).helm.thr.sorted = true → ({ s.threadLeave t with
      helm.thr := (s.threadLeave t).helm.thr.drop1 t } : State).joiner t = none →
    ((s.threadKill t).thread t).state = .free ∧ (s.threadKill t).helm.cnt = (s.threadLeave t).helm.cnt.inc 7) ∧
  -- DEBUG_GRANT_END, and what the end of a grant does
  (∀ s g, s.helm.grant = some g → s.now < g.until_ → exec .debugGrantEnd s = .next s) ∧
  (∀ s, s.helm.grant = none → exec .debugGrantEnd s = .next s) ∧
  (∀ s g, s.helm.grant = some g → g.until_ ≤ s.now → exec .debugGrantEnd s = .next s.grantEnd) ∧
  (∀ s : State, s.helm.grant.isSome = true → (∀ p ∈ s.helm.thr, p.2.state ≠ .debugHalt) →
    s.grantEnd = State.calmAfter { s with helm := { s.helm with
      grant := none, breakEn := false, bp := s.helm.bp.map (fun b => b &&& ~~~(1 : W32)) } } s) ∧
  -- SEC_DEBUG_AUTHORIZE: a challenge of 16 octets that nobody chose (a free value); a grant; a spent or missing challenge; REVOKE
  (∀ s c, let op := opSecDebug c
    let t := s.opened op c
    s.ready op c = true → byteAt c.data 0 = 1 →
    Answers (.secDebugChallenge c) s op c (Reply.ok { (t.drawBytes 16).2 with helm.challenge := some (t.drawBytes 16).1 }
      (zeros 4 ++ (t.drawBytes 16).1))) ∧
  (∀ s c, let op := opSecDebug c
    s.ready op c = true → byteAt c.data 0 = 2 → (s.opened op c).helm.challenge = none →
    Answers (.secDebugGrant c) s op c (Reply.no (s.opened op c) 8 0)) ∧
  -- GRANT: the challenge is spent; the credential is for this adapter and this challenge, its key is fused, its signature holds
  (∀ s c ch, let op := opSecDebug c
    let t := s.opened op c
    let b := bufferOf op c
    let u : State := { t with helm.challenge := none }
    let hash := beNat (sha384 (slice b 64 97))
    s.ready op c = true → byteAt c.data 0 = 2 → t.helm.challenge = some ch → byteAt b 0 % 8 ≠ 0 → 1 ≤ leAt b 4 4 → leAt b 4 4 ≤ 86400 →
    Answers (.secDebugGrant c) s op c
      (if leAt b 8 8 ≠ Config.serial.toNat then Reply.badBuf u 8
       else if slice b 16 16 ≠ ch then Reply.badBuf u 16
       else if hash ≠ Config.meltoamKeyHash.toNat ∧ some hash ≠ Config.customerKeyHash.map (·.toNat) then
         Reply.no (u.violPf1 11 1 0) 0xA 11
       else if ecdsaVerify (slice b 64 97) (slice b 0 64) (slice b 164 96) = false then Reply.no (u.violPf1 11 2 0) 0xA 11
       else Reply.ok { u with helm.grant := some { scope := byteAt b 0 % 8, until_ := t.now + leAt b 4 4 * secTicks } }
         (leBytes 4 (leAt b 4 4)))) ∧
  (∀ s c, let op := opSecDebug c
    let t := s.opened op c
    s.ready op c = true → byteAt c.data 0 = 3 → Answers (.secDebugRevoke c) s op c (Reply.ok t.grantEnd))

/-- R398 to R401: a mover is locked, loaded, promoted, run to its end and released by its holder; octets are copied, filled or compared, and
an error holds the mover until it is acknowledged. On-die addresses are the model's (log entries 25 and 135). -/
def Obligations.MoversCopyFillAndCompare : Prop :=
  (∀ s t m, s.moverReach t m = true → (s.mover m).held = false →
    exec (.moverLockTake t m) s = .next (s.setMover m { s.mover m with held := true, owner := t })) ∧
  (∀ s t m, (s.mover m).held = true → exec (.moverLockTake t m) s = .next s) ∧
  (∀ s t m ws w, s.moverReach t m = true → (s.mover m).held = true → (s.mover m).owner = t → bit (ws.getD 5 0).toNat 31 = true →
    exec (.moverGo t m ws w) s = .next (s.setMover m { s.mover m with shadow := some (readSet ws) })) ∧
  (∀ s t m ws w, s.moverReach t m = true → (s.mover m).held = true → (s.mover m).owner ≠ t →
    exec (.moverGo t m ws w) s = .next ((s.threadFault t .access 0 w).calmAfter s) ∧
    exec (.moverErrAck t m w) s = .next ((s.threadFault t .access 0 w).calmAfter s) ∧
    exec (.moverRelease t m) s = .next s) ∧
  -- promotion, and a register set of no length
  (∀ s m y, s.inRun 4 = true → (s.mover m).shadow = some y → (s.mover m).active = none → (s.mover m).errHold = false → y.mode < 3 →
    y.badLen = false →
    exec (.moverPromote m) s = .next (State.calmAfter ((s.setMover m { s.mover m with shadow := none, active := some y }).pulse (16 + m)) s)) ∧
  (∀ s m y, s.inRun 4 = true → (s.mover m).shadow = some y → (s.mover m).active = none → (s.mover m).errHold = false → y.mode < 3 →
    y.len = 0 →
    exec (.moverPromote m) s = .next (State.calmAfter (((s.setMover m { s.mover m with
      shadow := none, error := 5, errHold := true, done := 0 }).pulse (16 + m)).pulse m) s)) ∧
  (∀ s m, (s.mover m).active.isSome = true ∨ (s.mover m).errHold = true → exec (.moverPromote m) s = .next s) ∧
  -- the end of a transfer
  (∀ s m src dst, (s.mover m).active = none → exec (.moverTransferEnd m src dst) s = .next s) ∧
  (∀ s m x src dst, s.inRun 4 = true → (s.mover m).active = some x → x.mode = 1 → x.dstSpace = 3 → x.dst + x.len ≤ 2 ^ 23 →
    x.dstFixed = false →
    exec (.moverTransferEnd m src dst) s = .next (State.calmAfter ((s.sideWrite x
      ((List.range x.len).map (fun i => BitVec.ofNat 8 (x.fill / 256 ^ (i % 8))))).moverEnd m 0 x.len none) s)) ∧
  (∀ s m x src dst, s.inRun 4 = true → (s.mover m).active = some x → x.mode = 0 → x.srcSpace = 3 → x.dstSpace = 3 →
    x.src + x.len ≤ 2 ^ 23 → x.dst + x.len ≤ 2 ^ 23 → x.srcFixed = false → x.dstFixed = false →
    exec (.moverTransferEnd m src dst) s = .next (State.calmAfter ((s.sideWrite x (s.helm.sram.readN x.src x.len)).moverEnd m 0 x.len none) s)) ∧
  (∀ s m x src dst, s.inRun 4 = true → (s.mover m).active = some x → x.mode = 1 → x.dstSpace = 3 → 2 ^ 23 + 32 * 65536 ≤ x.dst → 0 < x.len →
    x.dstFixed = false →
    exec (.moverTransferEnd m src dst) s = .next (State.calmAfter ((s.sideWrite x []).moverEnd m 4 0 none) s)) ∧
  (∀ (s : State) m code n, m < s.helm.movers.length → ∃ y, (s.moverEnd m code n none).mover m = y ∧ y.active = none ∧ y.error = code ∧
    y.errHold = (code != 0) ∧ y.done = BitVec.ofNat 32 n ∧ y.shadow = (s.mover m).shadow ∧ y.held = (s.mover m).held) ∧
  -- what a write to the on-die memory stores, in Helm SRAM (below 8 MiB), and that it stores nothing else there; and in a classifier bank
  -- (above it): the line of the position as its octets make it (R182)
  (∀ (s : State) (x : MoverSet) b a, x.dstSpace = 3 → x.dstFixed = false → a < x.dst ∨ x.dst + b.length ≤ a →
    (s.sideWrite x b).helm.sram.read a = s.helm.sram.read a) ∧
  (∀ (s : State) (x : MoverSet) b i, x.dstSpace = 3 → x.dstFixed = false → Mem.wf s.helm.sram = true → i < b.length → x.dst + b.length ≤ 2 ^ 23 →
    (s.sideWrite x b).helm.sram.read (x.dst + i) = b.getD i 0) ∧
  (∀ (s : State) (x : MoverSet) b k pos, x.dstSpace = 3 → x.dstFixed = false → 1 ≤ (s.clsBank k).width →
    b.length = 32 * (s.clsBank k).width → (pos + 1) * (32 * (s.clsBank k).width) ≤ 65536 →
    x.dst = 2 ^ 23 + 65536 * k + pos * (32 * (s.clsBank k).width) →
    s.sideWrite x b = s.setClsBank k ((s.clsBank k).putLine pos b)) ∧
  -- ERR_ACK and release
  (∀ s t m w, s.moverReach t m = true → (s.mover m).held = true → (s.mover m).owner = t →
    exec (.moverErrAck t m w) s = .next (s.setMover m { s.mover m with errHold := false, error := 0 })) ∧
  (∀ s t m, s.moverReach t m = true → (s.mover m).held = true → (s.mover m).owner = t → m < s.helm.movers.length →
    (s.mover m).shadow = none →
    exec (.moverRelease t m) s = .next (s.setMover m { s.mover m with held := false, shadow := none }))

/-- R375 to R377, Table 15-3: WAYPOINT_RESTORE checks the waypoint in the table's order and, once every check has passed, restores it in one
step and leaves the instance FROZEN. -/
def Obligations.WaypointRestoreChecksThenRestores : Prop :=
  (∀ s c br b f, let op : Op := { code := 0x0C02, inst := .inst, states := 0x02, asks := true }
    let t := s.opened op c
    let u := t.emitReads .pf0 none (leAt c.data 0 8) (leAt c.data 8 4) ((t.freeTag .pf0).getD 0)
    let w := slice b 0 (leAt c.data 8 4)
    s.ready op c = true → u.effRead .pf0 c.buf = .data b → waypointBad w (leAt c.data 8 4) = none → u.restoreEarly w c.inst = none →
    bit (byteAt c.data 12) 0 = false →
    u.restoreLate w c.inst (u.restoreBounds w c.inst false) (bit (byteAt c.data 12) 1) = .ok f →
    Answers (.waypointRestore c br) s op c
      (u.restoreApply w c.inst (u.restoreBounds w c.inst false) f (bit (byteAt c.data 12) 1))) ∧
  -- with BOUNDS, Binnacle is asked to write j's entry first
  (∀ s c br b f v, let op : Op := { code := 0x0C02, inst := .inst, states := 0x02, asks := true }
    let t := s.opened op c
    let u := t.emitReads .pf0 none (leAt c.data 0 8) (leAt c.data 8 4) ((t.freeTag .pf0).getD 0)
    let w := slice b 0 (leAt c.data 8 4)
    s.ready op c = true → u.effRead .pf0 c.buf = .data b → waypointBad w (leAt c.data 8 4) = none → u.restoreEarly w c.inst = none →
    bit (byteAt c.data 12) 0 = true →
    u.restoreLate w c.inst (u.restoreBounds w c.inst true) (bit (byteAt c.data 12) 1) = .ok f →
    u.restoreAsk c br w = (none, v) →
    Answers (.waypointRestore c br) s op c
      (v.restoreApply w c.inst (u.restoreBounds w c.inst true) f (bit (byteAt c.data 12) 1))) ∧
  -- orders 1 to 4 of Table 15-3, in their order
  (∀ s c br b o, let op : Op := { code := 0x0C02, inst := .inst, states := 0x02, asks := true }
    let t := s.opened op c
    let u := t.emitReads .pf0 none (leAt c.data 0 8) (leAt c.data 8 4) ((t.freeTag .pf0).getD 0)
    let w := slice b 0 (leAt c.data 8 4)
    s.ready op c = true → u.effRead .pf0 c.buf = .data b → waypointBad w (leAt c.data 8 4) = some o →
    Answers (.waypointRestore c br) s op c (Reply.badBuf u o)) ∧
  (∀ s c br b r, let op : Op := { code := 0x0C02, inst := .inst, states := 0x02, asks := true }
    let t := s.opened op c
    let u := t.emitReads .pf0 none (leAt c.data 0 8) (leAt c.data 8 4) ((t.freeTag .pf0).getD 0)
    let w := slice b 0 (leAt c.data 8 4)
    s.ready op c = true → u.effRead .pf0 c.buf = .data b → waypointBad w (leAt c.data 8 4) = none →
    u.restoreEarly w c.inst = some r → Answers (.waypointRestore c br) s op c r) ∧
  (∀ (s : State) w j, s.mig.restored.contains (leAt w 8 8) = true → s.restoreEarly w j = some (Reply.no s 7 5)) ∧
  (∀ (s : State) w j, s.mig.restored.contains (leAt w 8 8) = false → (s.inst j).flowCount < leAt w 32 4 →
    s.restoreEarly w j = some (Reply.no s 4 1)) ∧
  (∀ (s : State) w j, s.mig.restored.contains (leAt w 8 8) = false → leAt w 32 4 ≤ (s.inst j).flowCount →
    (s.inst j).ctxCount < leAt w 36 4 → s.restoreEarly w j = some (Reply.no s 4 2)) ∧
  (∀ (s : State) w j h v, s.mig.restored.contains (leAt w 8 8) = false → leAt w 32 4 ≤ (s.inst j).flowCount →
    leAt w 36 4 ≤ (s.inst j).ctxCount → (h, v) ∈ s.flow.handles → (s.inst j).flowBase ≤ h →
    h < (s.inst j).flowBase + (s.inst j).flowCount → s.restoreEarly w j = some (Reply.no s 7 4)) ∧
  (∀ w n, leAt w 0 4 ≠ 0x54505957 → waypointBad w n = some 0) ∧
  (∀ w n, leAt w 0 4 = 0x54505957 → leAt w 4 2 ≠ 1 → waypointBad w n = some 4) ∧
  -- what a restore leaves: the bounds, the flows, a FROZEN instance, and the waypoint among those restored
  (∀ (s : State) w j bt f cls, j < 512 →
    (s.restoreApply w j bt f cls).status = 0 ∧
    ((s.restoreApply w j bt f cls).st.inst j).state = .frozen ∧
    (s.restoreApply w j bt f cls).st.bounds.find j = some bt ∧
    (s.restoreApply w j bt f cls).st.mig.restored.contains (leAt w 8 8) = true ∧
    (s.restoreApply w j bt f cls).st.mig.restored.length ≤ 64 ∧
    (s.restoreApply w j bt f cls).st.dram = s.dram ∧ (s.restoreApply w j bt f cls).st.now = s.now) ∧
  -- the state of a restored ring: ENABLED, DRAINING and ERROR become ENABLED; STOPPED and DISABLED stay
  (∀ q e, byteAt e 0 = 1 ∨ byteAt e 0 = 2 ∨ byteAt e 0 = 4 → (readRing q e).state = .enabled ∧ (readRing q e).inPlace = (q == 0)) ∧
  (∀ q e, byteAt e 0 = 3 → (readRing q e).state = .stopped) ∧
  (∀ q e, q < 14 → (readRing q e).fetch = (readRing q e).oldest)

/-- A step takes the command at the front of the queue and carries it out on the state with the queue's rest. -/
def Obligations.StepTakesTheFrontCommand : Prop :=
  ∀ c rest s, s.pending = c :: rest → step s = exec c { s with pending := rest }

/-- With nothing waiting, one clock of the model passes (the model's choice, log entry 1): the time base counts while D12 is in Run, its bound
grows once a millisecond in HOLDOVER (R79), and a PPS pulse ends at its width. -/
def Obligations.IdleStepPassesOneClock : Prop :=
  (∀ s, s.pending = [] → s.inRun 12 = false → step s = .next { s with now := s.now + 1 }) ∧
  (∀ s, s.pending = [] → s.inRun 12 = true → (s.time.quality = .locked ∨ s.time.quality = .unknown) → s.time.ppsOffAt = none →
    step s = .next { s with now := s.now + 1, time := s.time.edge }) ∧
  (∀ s, s.pending = [] → s.inRun 12 = true → s.time.quality = .holdover → s.time.ppsOffAt = none → s.time.boundAt ≤ s.now →
    (s.now + 1 - s.time.boundAt) % msTicks = 0 → s.time.boundOver = 0 → s.time.bound + s.time.cfg.holdoverPpb ≤ s.time.cfg.boundMaxMs * 1000000 →
    s.time.cfg.boundMaxMs ≤ 4294 →
    ∃ t, step s = .next t ∧ t.time.bound = s.time.bound + ceilDiv s.time.cfg.holdoverPpb 1000 ∧ t.time.quality = .holdover ∧
      t.time.boundAt = s.now + 1) ∧
  (∀ s, s.pending = [] → s.inRun 12 = true → s.time.quality = .locked → s.time.ppsOffAt = some (s.now + 1) →
    step s = .next (State.emit { s with now := s.now + 1, time := { s.time.edge with ppsOffAt := none } } (.land .ppsOut false)))

/-- What stands before the first good rail: every domain in Stop (that reset is taken there is the model's choice, log entry 6), the adapter hove-to by the boot cause alone (Table 18-7), no
instance, flow, almanac, thread or command, empty memories, and the Cold values chapter 03 gives the time base. -/
def Obligations.ResetStartsWithEverythingStopped : Prop :=
  State.reset.pending = [] ∧ (∀ d, d < 14 → State.reset.inRun d = false) ∧ State.reset.hove = true ∧ State.reset.boot.causes = 1 ∧
  State.reset.time.incr = 0xCCCCCCCD ∧ State.reset.time.quality = .unknown ∧ State.reset.time.source = .none ∧
  State.reset.time.bound = 0xFFFFFFFF ∧ State.reset.time.swNext = 0 ∧
  (∀ i, (State.reset.inst i).state = .absent) ∧ (∀ r, (State.reset.ring r).state = .disabled) ∧
  (∀ t, (State.reset.thread t).state = .free) ∧ (∀ k, State.reset.slot k = none) ∧ State.reset.flow.slots = [] ∧
  State.reset.alm.tab = [] ∧ State.reset.dechan.accepted = [] ∧ State.reset.dechan.logNext = 0 ∧
  State.reset.ciph.lode = .empty ∧ State.reset.ciph.ctxs = [] ∧ State.reset.bounds = [] ∧ State.reset.out = [] ∧
  State.reset.host.linkUp = false ∧ State.reset.ports.ring.mode = 0

/-- Every command, in every state, completes in a next state and leaves the commands that wait as they are: none is added, dropped or
reordered, and a step takes only the one at the front. -/
def Obligations.EveryCommandCompletesAndKeepsTheQueue : Prop :=
  (∀ c s, ∃ t, exec c s = .next t ∧ t.pending = s.pending) ∧
  (∀ s, ∃ t, step s = .next t ∧ t.pending = s.pending.tail)

/-- From every state whose waiting commands carry operands in range, a step gives such a state. -/
def Obligations.WaitingCommandsStayWellFormed : Prop :=
  ∀ s t, s.pending.all Instr.wf = true → step s = .next t → t.pending.all Instr.wf = true

/-- The state after reset meets the invariants: its queue is well-formed, and its memories stand in their canonical form. -/
def Obligations.InvariantsHoldAtReset : Prop :=
  State.reset.pending.all Instr.wf = true ∧ Mem.wf State.reset.dram = true ∧ Mem.wf State.reset.helm.sram = true ∧
  State.reset.helm.thr.sorted = true

/-- R344, R346, Table 14-3: an entry that is not the next to be accepted does nothing; the common checks are made in the table's order, and the
first that fails gives the reply. -/
def Obligations.CommandsAreCheckedInTheirOrder : Prop :=
  (∀ (s : State) op c body, s.waitingEntry op c = none → s.takes op c = false → s.runCmd op c body = s) ∧
  (∀ (s : State) op c body, s.waitingEntry op c = none → (s.ring (cmdRing c)).state ≠ .enabled ∨ (s.ring (cmdRing c)).fetch = (s.ring (cmdRing c)).pi ∨
    8 ≤ (s.inProgress (cmdRing c)).length ∨ s.linkReady = false → s.runCmd op c body = s) ∧
  -- R343: an entry with FENCE is accepted and waits for the earlier commands of its ring
  (∀ (s : State) op c body, s.waitingEntry op c = none → s.takes op c = true → bit c.flags.toNat 6 = true →
    s.inProgress (cmdRing c) ≠ [] → s.runCmd op c body = s.enqueue op c) ∧
  (∀ (s : State) op c body a b, s.waitingEntry op c = some a → bit a.cmd.flags.toNat 6 = true → b ∈ s.inProgress a.ring →
    (b.idx - (s.ring a.ring).oldest).toNat < (a.idx - (s.ring a.ring).oldest).toNat → s.runCmd op c body = s) ∧
  -- R345: so is one that names the instance of a command that has not replied, whatever ring that came on
  (∀ (s : State) op c body a, s.waitingEntry op c = none → s.takes op c = true → a ∈ s.dechan.accepted → a.cmd.inst = c.inst →
    c.inst ≠ 0xFFFF → isReset op.code = false → a.opcode ≠ 0x0303 → s.runCmd op c body = s.enqueue op c) ∧
  (∀ (s : State) op c body a b, s.waitingEntry op c = some a → b ∈ s.dechan.accepted → b.waits = false →
    s.blocks a.opcode a.cmd b = true → s.runCmd op c body = s) ∧
  -- once the wait has ended, it is carried out, and its reply goes to its own entry
  (∀ (s : State) op c body a, s.waitingEntry op c = some a → s.served a.ring = true → s.stillWaits a = false →
    s.bufferWaits op c = false →
    s.runCmd op c body = (State.checked (s.resume a) op c body).finish { a with waits := false }) ∧
  (∀ (s : State) op c body, s.accepts op c = true → c.own = 0 → op.secure ≠ (c.ring == .sec) →
    s.runCmd op c body = (Reply.no (s.accept op c) 6 3).finish (s.acceptance op c)) ∧
  (∀ (s : State) op c body i, s.accepts op c = true → c.own = 0 → op.secure = false → c.ring = .inst i → op.tenant = false →
    s.runCmd op c body = (Reply.no (s.accept op c) 6 0).finish (s.acceptance op c)) ∧
  (∀ (s : State) op c body i, s.accepts op c = true → c.own = 0 → op.secure = false → c.ring = .inst i → op.tenant = true →
    op.inst = .inst → c.inst < 512 → c.inst ≠ i % 512 → s.runCmd op c body = (Reply.no (s.accept op c) 6 1).finish (s.acceptance op c)) ∧
  (∀ (s : State) op c body m, s.accepts op c = true → c.own = 0 → op.secure = false → c.ring = .mgr m → op.mgr = true →
    op.inst = .inst → 512 ≤ c.inst → s.runCmd op c body = (Reply.bad (s.accept op c) 4).finish (s.acceptance op c)) ∧
  (∀ (s : State) op c body m, s.accepts op c = true → c.own = 0 → op.secure = false → c.ring = .mgr m → op.mgr = true →
    op.inst = .inst → c.inst < 512 → op.lens.contains c.paramLen = false →
    s.runCmd op c body = (Reply.bad (s.accept op c) 6).finish (s.acceptance op c)) ∧
  (∀ (s : State) op c body m, s.accepts op c = true → c.own = 0 → op.secure = false → c.ring = .mgr m → op.mgr = true →
    op.inst = .inst → c.inst < 512 → op.lens.contains c.paramLen = true → c.addr % 8 ≠ 0 →
    s.runCmd op c body = (Reply.bad (s.accept op c) 16).finish (s.acceptance op c)) ∧
  -- a tenant's buffer outside its bounds
  (∀ (s : State) op c body i, s.accepts op c = true → checkEntry op c = none → cmdTenant c = some i → s.bufferOk op c = false →
    (s.accept op c).bounds = s.bounds →
    s.runCmd op c body = (Reply.no ((s.accept op c).violInst i 1 0xFF 0xFF c.addr) 0xA 1).finish (s.acceptance op c)) ∧
  -- an entry whose buffer is to be read waits for a tag (R301)
  (∀ (s : State) op c body, s.accepts op c = true → s.bufferWaits op c = true → s.runCmd op c body = s.readWait (ringFn (cmdRing c))) ∧
  (∀ (s : State) op c, op.asks = false → c.paramLen = 0 → s.bufferWaits op c = false) ∧
  -- DEGRADED, then the state of the instance named
  (∀ (s : State) op c body, s.accepts op c = true → checkEntry op c = none → s.bufferOk op c = true → c.paramLen = 0 → s.bufferWaits op c = false → s.hove = true →
    op.secure = false → op.exempt = false → s.runCmd op c body = (Reply.no (s.accept op c) 0xE 1).finish (s.acceptance op c)) ∧
  (∀ (s : State) op c body, s.accepts op c = true → checkEntry op c = none → s.bufferOk op c = true → c.paramLen = 0 → s.bufferWaits op c = false → s.hove = false →
    s.inRun 4 = true → s.inRun 12 = false → op.secure = false → op.needsD12 = true →
    s.runCmd op c body = (Reply.no (s.accept op c) 0xE 5).finish (s.acceptance op c)) ∧
  (∀ (s : State) op c body, s.accepts op c = true → checkEntry op c = none → s.bufferOk op c = true → c.paramLen = 0 → s.bufferWaits op c = false → s.hove = false →
    s.inRun 4 = true → s.inRun 12 = true → op.states ≠ 0 → c.inst < 512 → bit op.states (s.inst c.inst).state.code = false →
    s.runCmd op c body = (Reply.conflict (s.accept op c) 1 (s.inst c.inst).state.code op.states 0).finish (s.acceptance op c))

/-- R343, R344, R360: an accepted entry moves FETCH and shows PENDING; a reply ends exactly its command, counts a status that is not OK, and
is logged where Table 14-13 says so. -/
def Obligations.RepliesEndTheirCommands : Prop :=
  (∀ (s : State) op c,
    ((s.accept op c).ring (cmdRing c)).fetch = (s.ring (cmdRing c)).fetch + 1 ∧
    (s.accept op c).dechan.cnt = s.dechan.cnt.inc 0 ∧ (s.accept op c).dechan.accepted = s.dechan.accepted ∧
    (s.accept op c).insts = s.insts ∧ (s.accept op c).flow = s.flow ∧ (s.accept op c).time = s.time) ∧
  (∀ (s : State) op c,
    ((s.enqueue op c).ring (cmdRing c)).fetch = (s.ring (cmdRing c)).fetch + 1 ∧
    (s.enqueue op c).dechan.cnt = s.dechan.cnt.inc 0 ∧
    (s.enqueue op c).dechan.accepted = s.dechan.accepted ++ [{ s.acceptance op c with waits := true }] ∧
    SamePath s (s.enqueue op c) ∧ SameGrid s (s.enqueue op c) ∧ (s.enqueue op c).insts = s.insts) ∧
  (∀ (s : State) a st d data buf,
    (s.reply a st d data buf).dechan.accepted = s.dechan.accepted.filter (fun b => !(b.ring == a.ring && b.idx == a.idx)) ∧
    (s.reply a st d data buf).insts = s.insts ∧ (s.reply a st d data buf).bounds = s.bounds ∧
    (s.reply a st d data buf).flow = s.flow ∧ (s.reply a st d data buf).cls = s.cls ∧ (s.reply a st d data buf).sched = s.sched ∧
    (s.reply a st d data buf).ciph = s.ciph ∧ (s.reply a st d data buf).time = s.time ∧ (s.reply a st d data buf).alm = s.alm ∧
    (s.reply a st d data buf).reflex = s.reflex ∧ (s.reply a st d data buf).recd = s.recd ∧ (s.reply a st d data buf).helm = s.helm ∧
    (s.reply a st d data buf).power = s.power ∧ (s.reply a st d data buf).mem = s.mem ∧ (s.reply a st d data buf).boot = s.boot ∧
    (s.reply a st d data buf).pending = s.pending) ∧
  (∀ (s : State) a d data buf, a.opcode / 256 ≠ 2 → s.now ≤ a.deadline →
    (s.reply a 0 d data buf).dechan.cnt = s.dechan.cnt ∧ (s.reply a 0 d data buf).dechan.log = s.dechan.log ∧
    (s.reply a 0 d data buf).dechan.logNext = s.dechan.logNext) ∧
  (∀ (s : State) a d data buf, s.now ≤ a.deadline → s.dechan.logNext < 2 ^ 32 →
    (s.reply a 2 d data buf).dechan.cnt = s.dechan.cnt.inc 1 ∧
    (s.reply a 2 d data buf).dechan.logNext = (s.dechan.logNext + 1) % 2 ^ 32 ∧
    ∃ e, (s.reply a 2 d data buf).dechan.log.find (s.dechan.logNext % 256) = some e ∧ e.status = 2 ∧ e.opcode = a.opcode ∧
      e.seq = a.cmd.seq ∧ e.inst = a.cmd.inst ∧ e.handle = a.cmd.handle ∧ e.detail = d ∧ e.logSeq = s.dechan.logNext)

/-- A write of DRAM stores its octets and no others, and keeps the memory's canonical form; a new word has no error left in it. What an octet
that nothing has written reads as, 0, is the model's choice (log entry 3). -/
def Obligations.MemoryWritesStoreTheirOctets : Prop :=
  (∀ (s : State) a b, Mem.wf s.dram = true → Mem.wf (s.dramWrite a b).dram = true) ∧
  (∀ (s : State) a b i, Mem.wf s.dram = true → i < b.length → (s.dramWrite a b).dram.read (a + i) = b.getD i 0) ∧
  (∀ (s : State) a b c, c < a ∨ a + b.length ≤ c → (s.dramWrite a b).dram.read c = s.dram.read c) ∧
  (∀ (s : State) a b e, e ∈ (s.dramWrite a b).mem.errors → e ∈ s.mem.errors ∧ ¬(e.1 = 1 ∧ a < e.2.1 + 8 ∧ e.2.1 < a + b.length)) ∧
  (∀ (s : State) a b, SamePath s (s.dramWrite a b) ∧ SameGrid s (s.dramWrite a b) ∧ SameInst s (s.dramWrite a b) ∧
    SameRings s (s.dramWrite a b) ∧ SameHost s (s.dramWrite a b) ∧ (s.dramWrite a b).helm = s.helm) ∧
  (∀ (m n : Mem), Mem.wf m = true → Mem.wf n = true → (∀ a, m.read a = n.read a) → m = n)

/-- R16, R27, R378: no instruction of a Helm thread changes an instance, its bounds, a ring, the flow or classifier tables, the scheduler, a port,
a grid unit, the power state or DRAM. -/
def Obligations.HelmInstructionsStayWithinHelm : Prop :=
  ∀ i s t, (∃ k o, i = .fork k o ∨ i = .exit k o ∨ i = .join k o ∨ i = .wait k o ∨ i = .signal k o ∨ i = .evmap k o ∨ i = .timer k o ∨
      i = .settrap k o ∨ i = .chstage k o ∨ i = .chcommit k o ∨ i = .chrecv k o ∨ i = .thrctlResume k o ∨ i = .thrctlKill k o ∨
      i = .chcfg k o ∨ i = .class_ k o ∨ i = .break_ k o) ∨ (∃ k w what, i = .loadStore k w what) ∨ (∃ k, i = .helmTimerFire k) →
    exec i s = .next t →
    SameInst s t ∧ SameRings s t ∧ SameGrid s t ∧ SameBoard s t ∧ t.flow = s.flow ∧ t.cls = s.cls ∧ t.sw = s.sw ∧ t.sched = s.sched ∧
      t.ports = s.ports ∧ t.dram = s.dram ∧ t.now = s.now

/-- R126, whole: the staging register of a slot holds the published VALUES after arming and after each new state; a write of LO changes nothing
but it; a write of HI takes it; one request over both halves stages LO first. -/
def Obligations.StagedValuesBecomeTheReflexWrite : Prop :=
  (∀ (s : State) k x since, ((s.newState k x since).slot k).map (·.staged) = some x.values) ∧
  (∀ s c x, let op : Op := { code := 0x0808, tenant := true, inst := .inst, needsD12 := true, states := 0x1E }
    let t := s.opened op c
    let k := c.inst * 8 + byteAt c.data 0
    s.ready op c = true → bit (byteAt c.data 1) 0 = true → byteAt c.data 0 ≤ 7 → t.slot k = some x → x.state = .loaded →
    x.tmpl.auth = false → bit x.tmpl.ports 2 = false → bit x.tmpl.ports 3 = false → leAt c.data 8 4 ||| x.tmpl.mask = x.tmpl.mask →
    Completes (.reflexArm c) s (fun u => ∃ y, u.slot k = some y ∧ y.state = .armed ∧ y.values = BitVec.ofNat 32 (leAt c.data 8 4) ∧
      y.staged = y.values)) ∧
  (∀ s i k lo, i < 512 → k < 8 → s.linkReady = true → s.inRun 12 = true → (s.inst i).state ≠ .absent →
    exec (.reflexStage i k lo) s = .next { s with
      reflex.slots := s.reflex.slots.upd (i * 8 + k) (fun x => { x with staged := lo }) }) ∧
  (∀ s i k hi x, i < 512 → k < 8 → s.linkReady = true → s.inRun 12 = true → (s.inst i).state = .active →
    s.slot (i * 8 + k) = some x → x.state = .armed → x.isHeld = false → hi.toNat < 256 →
    x.staged.toNat ||| x.tmpl.mask = x.tmpl.mask → x.staged ≠ x.values → x.held = none → s.slotBusy (i * 8 + k) = false →
    exec (.reflexWrite i k none hi) s = .next (s.newState (i * 8 + k) { x with
      values := x.staged, seq := BitVec.ofNat 8 hi.toNat, stNum := nextNum x.stNum } (some s.now))) ∧
  (∀ s i k lo hi, i < 512 → k < 8 → s.linkReady = true → s.inRun 12 = true → (s.inst i).state ≠ .absent →
    exec (.reflexWrite i k (some lo) hi) s = exec (.reflexWrite i k none hi) { s with
      reflex.slots := s.reflex.slots.upd (i * 8 + k) (fun x => { x with staged := lo }) })

/-- R342, whole, for every command: the octets 13 to 15 that the adapter ignores are no part of a command here; an entry whose OWN is not 0 is
answered BAD_PARAM with detail 60, whatever else it holds, and nothing of its opcode is done. -/
def Obligations.EntriesPublishedWithOwnAreAnswered : Prop :=
  (∀ (s : State) op c body, s.accepts op c = true → c.own ≠ 0 →
    s.runCmd op c body = (Reply.bad { s.accept op c with dechan.cnt := (s.accept op c).dechan.cnt.inc 3 } 60).finish (s.acceptance op c)) ∧
  (∀ (s : State) op c body body', s.accepts op c = true → c.own ≠ 0 → s.runCmd op c body = s.runCmd op c body') ∧
  (∀ s c, let op : Op := { code := 0x0903, exempt := true }
    s.accepts op c = true → c.own ≠ 0 →
    Completes (.timeQuery c) s (fun t => t.dechan.cnt = ((s.dechan.cnt.inc 0).inc 3).inc 1 ∧ t.time = s.time ∧
      t.dechan.accepted = s.dechan.accepted.filter (fun b => !(b.ring == cmdRing c && b.idx == (s.ring (cmdRing c)).fetch))))

/-- R76, whole: at each whole second of the time base, advanced by PPS_OUT_DELAY, a mode that allows it raises the output for
PPS_OUT_WIDTH_NS; another mode gives no edge; a pulse that has begun runs to its end whatever the mode becomes. -/
def Obligations.PpsOutputFollowsItsMode : Prop :=
  (∀ t : TimeSt, t.ppsAllowed = (t.cfg.ppsMode == 1 || (t.cfg.ppsMode == 2 && t.quality == .locked) ||
    (t.cfg.ppsMode == 3 && (t.quality == .locked || t.quality == .holdover)))) ∧
  (∀ s, let sec := ((s.tbNs : Int) + s.time.cfg.ppsOut).toNat / nsPerSec
    s.inRun 12 = true → s.time.ppsOutSec < sec →
    exec .ppsOutPulse s = .next (if s.time.ppsAllowed then State.emit { s with time := { s.time with
        ppsOutSec := sec, ppsOffAt := some (s.now + s.time.cfg.ppsWidth * 5 / 4) } } (.land .ppsOut true)
      else { s with time.ppsOutSec := sec })) ∧
  (∀ s, ((s.tbNs : Int) + s.time.cfg.ppsOut).toNat / nsPerSec ≤ s.time.ppsOutSec → exec .ppsOutPulse s = .next s) ∧
  (∀ s u, s.pending = [] → s.inRun 12 = true → s.time.quality = .locked ∨ s.time.quality = .unknown → s.time.ppsOffAt = some u →
    s.now + 1 < u → step s = .next { s with now := s.now + 1, time := s.time.edge }) ∧
  (∀ s u, s.pending = [] → s.inRun 12 = true → s.time.quality = .locked ∨ s.time.quality = .unknown → s.time.ppsOffAt = some u →
    u ≤ s.now + 1 →
    step s = .next (State.emit { s with now := s.now + 1, time := { s.time.edge with ppsOffAt := none } } (.land .ppsOut false)))

/-- R73, whole: without GM_CAPABLE the adapter announces clockClass 255 and no port is master where no other clock is announced; with it, it
announces CLOCK_CLASS and the clockAccuracy of its bound, and its ports are master. -/
def Obligations.GrandmasterOnlyWhenCapable : Prop :=
  (∀ (s : State) k, s.time.cfg.gmCapable = false → s.portDecision none k ≠ .master ∧ s.ownAnnounce.clockClass = 255) ∧
  (∀ (s : State) k, s.time.cfg.gmCapable = true → s.ptpPort (Port.ofNum k) = true → s.time.cfg.role ≠ 3 →
    s.portDecision none k = .master) ∧
  (∀ s : State, s.time.cfg.gmCapable = true → s.ownAnnounce.clockClass = s.time.cfg.clockClass ∧
    s.ownAnnounce.accuracy = accuracyCode s.time.bound ∧ s.ownAnnounce.gm = Config.serial.toNat ∧ s.ownAnnounce.steps = 0)

/-- R175, whole: CLS_DELETE of an entry leaves its position free and every other entry where it was. -/
def Obligations.ClassifierDeletionMovesNothing : Prop :=
  ∀ s c, let op : Op := { code := 0x0503 }
    let x := (s.opened op c).clsBank c.handle
    let pos := leAt c.data 0 2
    s.ready op c = true → c.handle < 32 → (s.opened op c).cls.banks.length = 32 → x.state = .populated → x.entries.sorted = true →
    pos < x.capacity → x.entries.has pos = true →
    Completes (.clsDelete c) s (fun t =>
      (t.clsBank c.handle).entries.find pos = none ∧
      (∀ p, p ≠ pos → (t.clsBank c.handle).entries.find p = x.entries.find p) ∧
      (∀ h, h < 32 → h ≠ c.handle → t.clsBank h = (s.opened op c).clsBank h) ∧
      t.flow = s.flow ∧ t.sched = s.sched ∧ t.ciph = s.ciph ∧ SameInst s t)

/-- R316, whole: the page of an ABSENT instance reads as zero, and a write to it does nothing but record a violation of kind PAGE_ABSENT with
source PF 0. -/
def Obligations.AbsentPagesReadZeroAndRefuseWrites : Prop :=
  (∀ s i o, s.linkReady = true → i < 512 → o < 0x1000 → o % 4 = 0 → (s.inst i).state = .absent → s.snap.find (snapKey 2 (i * 0x1000 + o)) = none →
    Completes (.registerRead .pf0 2 ⟨(i * 0x1000 + o), false⟩) s (fun t =>
      t.out = s.out ++ [.cpl .sc [0, 0, 0, 0]] ∧ t = { s with out := t.out, snap := t.snap })) ∧
  (∀ s i o v be, s.linkReady = true → i < 512 → o < 0x1000 → o % 4 = 0 → (s.inst i).state = .absent →
    exec (.registerWrite .pf0 2 (i * 0x1000 + o) v ⟨be, []⟩) s = .next (s.violPf0 2 i (i * 0x1000 + o))) ∧
  (∀ (s : State) i o, ∃ r, (s.violPf0 2 i o).err.viol0.find (s.err.violNext0 % 256) = some r ∧ r.kind = 2 ∧ r.srcType = 1 ∧ r.srcId = 0 ∧ r.addr = o) ∧
  (∀ (s : State) i o, SamePath s (s.violPf0 2 i o) ∧ SameGrid s (s.violPf0 2 i o) ∧ SameInst s (s.violPf0 2 i o) ∧
    SameRings s (s.violPf0 2 i o) ∧ SameProc s (s.violPf0 2 i o))

/-- R473: what the four STATUS lands show, 0 off, 1 on, 2 blinking; a land of a domain in Stop is undriven and its indicator off (R468). -/
def Obligations.StatusLandsShowTheAdapter : Prop :=
  (∀ s : State, s.inRun 0 = true → s.led 0 = if s.ciph.latched = 0 then 1 else 2) ∧
  (∀ s : State, s.inRun 0 = false → s.led 0 = 0) ∧
  (∀ s : State, s.inRun 1 = true → s.led 1 = b2n s.ports.c.linkUp ∧ s.led 2 = b2n s.ports.d.linkUp) ∧
  (∀ s : State, s.inRun 1 = false → s.led 1 = 0 ∧ s.led 2 = 0) ∧
  (∀ s : State, s.inRun 2 = true → s.inRun 3 = true → s.led 3 = if s.hove then 2 else if s.boot.phase = .running then 1 else 0) ∧
  (∀ s : State, s.inRun 2 = false → s.led 3 = 0)
end

