-- ==== Sys2Proof/Laws/Ops.lean ====
section
/-!
SUPPORT. Laws/Ops.lean: what each shared operation leaves unchanged, one lemma per operation.
-/

set_option Elab.async false
namespace Sys2Proof.Machine

open Sys2Proof

@[simp] theorem draw_keeps (s : State) :
    s.draw.2.now = s.now ∧ s.draw.2.host = s.host ∧ s.draw.2.power = s.power ∧ s.draw.2.mem = s.mem ∧
      s.draw.2.boot = s.boot ∧ s.draw.2.err = s.err ∧ s.draw.2.evt = s.evt ∧ s.draw.2.module_ = s.module_ ∧
      s.draw.2.insts = s.insts ∧ s.draw.2.bounds = s.bounds ∧ s.draw.2.rings = s.rings ∧ s.draw.2.dechan = s.dechan ∧
      s.draw.2.mig = s.mig ∧ s.draw.2.time = s.time ∧ s.draw.2.flow = s.flow ∧ s.draw.2.cls = s.cls ∧ s.draw.2.sw = s.sw ∧
      s.draw.2.sched = s.sched ∧ s.draw.2.ciph = s.ciph ∧ s.draw.2.ports = s.ports ∧ s.draw.2.alm = s.alm ∧
      s.draw.2.reflex = s.reflex ∧ s.draw.2.recd = s.recd ∧ s.draw.2.helm = s.helm ∧ s.draw.2.dram = s.dram ∧
      s.draw.2.snap = s.snap ∧ s.draw.2.out = s.out ∧ s.draw.2.pending = s.pending := by
  simp [State.draw]

@[simp] theorem pulse_keeps (s : State) (n : Nat) :
    (s.pulse n).now = s.now ∧ (s.pulse n).free = s.free ∧ (s.pulse n).host = s.host ∧ (s.pulse n).power = s.power ∧
      (s.pulse n).mem = s.mem ∧ (s.pulse n).boot = s.boot ∧ (s.pulse n).err = s.err ∧ (s.pulse n).evt = s.evt ∧
      (s.pulse n).module_ = s.module_ ∧ (s.pulse n).insts = s.insts ∧ (s.pulse n).bounds = s.bounds ∧
      (s.pulse n).rings = s.rings ∧ (s.pulse n).dechan = s.dechan ∧ (s.pulse n).mig = s.mig ∧ (s.pulse n).time = s.time ∧
      (s.pulse n).flow = s.flow ∧ (s.pulse n).cls = s.cls ∧ (s.pulse n).sw = s.sw ∧ (s.pulse n).sched = s.sched ∧
      (s.pulse n).ciph = s.ciph ∧ (s.pulse n).ports = s.ports ∧ (s.pulse n).alm = s.alm ∧ (s.pulse n).reflex = s.reflex ∧
      (s.pulse n).recd = s.recd ∧ (s.pulse n).dram = s.dram ∧ (s.pulse n).snap = s.snap ∧ (s.pulse n).out = s.out ∧
      (s.pulse n).pending = s.pending := by
  simp only [State.pulse]
  split <;> simp

@[simp] theorem levelRise_keeps (s : State) (n : Nat) (a b : Bool) :
    (s.levelRise n a b).now = s.now ∧ (s.levelRise n a b).free = s.free ∧ (s.levelRise n a b).host = s.host ∧
      (s.levelRise n a b).power = s.power ∧ (s.levelRise n a b).mem = s.mem ∧ (s.levelRise n a b).boot = s.boot ∧
      (s.levelRise n a b).err = s.err ∧ (s.levelRise n a b).evt = s.evt ∧ (s.levelRise n a b).module_ = s.module_ ∧
      (s.levelRise n a b).insts = s.insts ∧ (s.levelRise n a b).bounds = s.bounds ∧ (s.levelRise n a b).rings = s.rings ∧
      (s.levelRise n a b).dechan = s.dechan ∧ (s.levelRise n a b).mig = s.mig ∧ (s.levelRise n a b).time = s.time ∧
      (s.levelRise n a b).flow = s.flow ∧ (s.levelRise n a b).cls = s.cls ∧ (s.levelRise n a b).sw = s.sw ∧
      (s.levelRise n a b).sched = s.sched ∧ (s.levelRise n a b).ciph = s.ciph ∧ (s.levelRise n a b).ports = s.ports ∧
      (s.levelRise n a b).alm = s.alm ∧ (s.levelRise n a b).reflex = s.reflex ∧ (s.levelRise n a b).recd = s.recd ∧
      (s.levelRise n a b).dram = s.dram ∧ (s.levelRise n a b).snap = s.snap ∧ (s.levelRise n a b).out = s.out ∧
      (s.levelRise n a b).pending = s.pending := by
  simp only [State.levelRise]
  split <;> simp

@[simp] theorem setCfg_keeps (s : State) (fn : Fn) (x : CfgSpace) :
    (s.setCfg fn x).now = s.now ∧ (s.setCfg fn x).free = s.free ∧ (s.setCfg fn x).power = s.power ∧
      (s.setCfg fn x).mem = s.mem ∧ (s.setCfg fn x).boot = s.boot ∧ (s.setCfg fn x).err = s.err ∧ (s.setCfg fn x).evt = s.evt ∧
      (s.setCfg fn x).module_ = s.module_ ∧ (s.setCfg fn x).insts = s.insts ∧ (s.setCfg fn x).bounds = s.bounds ∧
      (s.setCfg fn x).rings = s.rings ∧ (s.setCfg fn x).dechan = s.dechan ∧ (s.setCfg fn x).mig = s.mig ∧
      (s.setCfg fn x).time = s.time ∧ (s.setCfg fn x).flow = s.flow ∧ (s.setCfg fn x).cls = s.cls ∧ (s.setCfg fn x).sw = s.sw ∧
      (s.setCfg fn x).sched = s.sched ∧ (s.setCfg fn x).ciph = s.ciph ∧ (s.setCfg fn x).ports = s.ports ∧
      (s.setCfg fn x).alm = s.alm ∧ (s.setCfg fn x).reflex = s.reflex ∧ (s.setCfg fn x).recd = s.recd ∧
      (s.setCfg fn x).helm = s.helm ∧ (s.setCfg fn x).dram = s.dram ∧ (s.setCfg fn x).snap = s.snap ∧
      (s.setCfg fn x).out = s.out ∧ (s.setCfg fn x).pending = s.pending := by
  cases fn <;> simp [State.setCfg]

@[simp] theorem emit_keeps (s : State) (o : Output) :
    (s.emit o).now = s.now ∧ (s.emit o).free = s.free ∧ (s.emit o).host = s.host ∧ (s.emit o).power = s.power ∧
      (s.emit o).mem = s.mem ∧ (s.emit o).boot = s.boot ∧ (s.emit o).err = s.err ∧ (s.emit o).evt = s.evt ∧
      (s.emit o).module_ = s.module_ ∧ (s.emit o).insts = s.insts ∧ (s.emit o).bounds = s.bounds ∧ (s.emit o).rings = s.rings ∧
      (s.emit o).dechan = s.dechan ∧ (s.emit o).mig = s.mig ∧ (s.emit o).time = s.time ∧ (s.emit o).flow = s.flow ∧
      (s.emit o).cls = s.cls ∧ (s.emit o).sw = s.sw ∧ (s.emit o).sched = s.sched ∧ (s.emit o).ciph = s.ciph ∧
      (s.emit o).ports = s.ports ∧ (s.emit o).alm = s.alm ∧ (s.emit o).reflex = s.reflex ∧ (s.emit o).recd = s.recd ∧
      (s.emit o).helm = s.helm ∧ (s.emit o).dram = s.dram ∧ (s.emit o).snap = s.snap ∧ (s.emit o).pending = s.pending := by
  simp [State.emit]

@[simp] theorem emitReq_keeps (s : State) (o : Output) :
    (s.emitReq o).now = s.now ∧ (s.emitReq o).free = s.free ∧ (s.emitReq o).host = s.host ∧ (s.emitReq o).power = s.power ∧
      (s.emitReq o).mem = s.mem ∧ (s.emitReq o).boot = s.boot ∧ (s.emitReq o).err = s.err ∧ (s.emitReq o).evt = s.evt ∧
      (s.emitReq o).module_ = s.module_ ∧ (s.emitReq o).insts = s.insts ∧ (s.emitReq o).bounds = s.bounds ∧
      (s.emitReq o).rings = s.rings ∧ (s.emitReq o).dechan = s.dechan ∧ (s.emitReq o).mig = s.mig ∧
      (s.emitReq o).time = s.time ∧ (s.emitReq o).flow = s.flow ∧ (s.emitReq o).cls = s.cls ∧ (s.emitReq o).sw = s.sw ∧
      (s.emitReq o).sched = s.sched ∧ (s.emitReq o).ciph = s.ciph ∧ (s.emitReq o).ports = s.ports ∧ (s.emitReq o).alm = s.alm ∧
      (s.emitReq o).reflex = s.reflex ∧ (s.emitReq o).recd = s.recd ∧ (s.emitReq o).helm = s.helm ∧
      (s.emitReq o).dram = s.dram ∧ (s.emitReq o).snap = s.snap ∧ (s.emitReq o).pending = s.pending := by
  cases o <;> simp [State.emitReq]

@[simp] theorem issue_keeps (s : State) (fn : Fn) (o : Output) :
    (s.issue fn o).now = s.now ∧ (s.issue fn o).free = s.free ∧ (s.issue fn o).power = s.power ∧ (s.issue fn o).mem = s.mem ∧
      (s.issue fn o).boot = s.boot ∧ (s.issue fn o).evt = s.evt ∧ (s.issue fn o).module_ = s.module_ ∧
      (s.issue fn o).insts = s.insts ∧ (s.issue fn o).bounds = s.bounds ∧ (s.issue fn o).rings = s.rings ∧
      (s.issue fn o).dechan = s.dechan ∧ (s.issue fn o).mig = s.mig ∧ (s.issue fn o).time = s.time ∧
      (s.issue fn o).flow = s.flow ∧ (s.issue fn o).cls = s.cls ∧ (s.issue fn o).sw = s.sw ∧ (s.issue fn o).sched = s.sched ∧
      (s.issue fn o).ciph = s.ciph ∧ (s.issue fn o).ports = s.ports ∧ (s.issue fn o).alm = s.alm ∧
      (s.issue fn o).reflex = s.reflex ∧ (s.issue fn o).recd = s.recd ∧ (s.issue fn o).helm = s.helm ∧
      (s.issue fn o).dram = s.dram ∧ (s.issue fn o).snap = s.snap ∧ (s.issue fn o).pending = s.pending := by
  simp only [State.issue]
  (repeat' split) <;> simp

@[simp] theorem post_keeps (s : State) (fn : Fn) (p : Option Nat) (a : Nat) (b : Bytes) :
    (s.post fn p a b).now = s.now ∧ (s.post fn p a b).free = s.free ∧ (s.post fn p a b).power = s.power ∧
      (s.post fn p a b).mem = s.mem ∧ (s.post fn p a b).boot = s.boot ∧ (s.post fn p a b).evt = s.evt ∧
      (s.post fn p a b).module_ = s.module_ ∧ (s.post fn p a b).insts = s.insts ∧ (s.post fn p a b).bounds = s.bounds ∧
      (s.post fn p a b).rings = s.rings ∧ (s.post fn p a b).dechan = s.dechan ∧ (s.post fn p a b).mig = s.mig ∧
      (s.post fn p a b).time = s.time ∧ (s.post fn p a b).flow = s.flow ∧ (s.post fn p a b).cls = s.cls ∧
      (s.post fn p a b).sw = s.sw ∧ (s.post fn p a b).sched = s.sched ∧ (s.post fn p a b).ciph = s.ciph ∧
      (s.post fn p a b).ports = s.ports ∧ (s.post fn p a b).alm = s.alm ∧ (s.post fn p a b).reflex = s.reflex ∧
      (s.post fn p a b).recd = s.recd ∧ (s.post fn p a b).helm = s.helm ∧ (s.post fn p a b).dram = s.dram ∧
      (s.post fn p a b).snap = s.snap ∧ (s.post fn p a b).pending = s.pending := by
  simp only [State.post]
  split <;> simp

@[simp] theorem post0_keeps (s : State) (a : Nat) (b : Bytes) :
    (s.post0 a b).now = s.now ∧ (s.post0 a b).free = s.free ∧ (s.post0 a b).power = s.power ∧ (s.post0 a b).mem = s.mem ∧
      (s.post0 a b).boot = s.boot ∧ (s.post0 a b).evt = s.evt ∧ (s.post0 a b).module_ = s.module_ ∧
      (s.post0 a b).insts = s.insts ∧ (s.post0 a b).bounds = s.bounds ∧ (s.post0 a b).rings = s.rings ∧
      (s.post0 a b).dechan = s.dechan ∧ (s.post0 a b).mig = s.mig ∧ (s.post0 a b).time = s.time ∧ (s.post0 a b).flow = s.flow ∧
      (s.post0 a b).cls = s.cls ∧ (s.post0 a b).sw = s.sw ∧ (s.post0 a b).sched = s.sched ∧ (s.post0 a b).ciph = s.ciph ∧
      (s.post0 a b).ports = s.ports ∧ (s.post0 a b).alm = s.alm ∧ (s.post0 a b).reflex = s.reflex ∧
      (s.post0 a b).recd = s.recd ∧ (s.post0 a b).helm = s.helm ∧ (s.post0 a b).dram = s.dram ∧ (s.post0 a b).snap = s.snap ∧
      (s.post0 a b).pending = s.pending := by
  simp [State.post0]

@[simp] theorem reqFold_keeps (s : State) (l : List Output) :
    (l.foldl State.emitReq s).now = s.now ∧ (l.foldl State.emitReq s).free = s.free ∧
      (l.foldl State.emitReq s).host = s.host ∧ (l.foldl State.emitReq s).power = s.power ∧
      (l.foldl State.emitReq s).mem = s.mem ∧ (l.foldl State.emitReq s).boot = s.boot ∧ (l.foldl State.emitReq s).err = s.err ∧
      (l.foldl State.emitReq s).evt = s.evt ∧ (l.foldl State.emitReq s).module_ = s.module_ ∧
      (l.foldl State.emitReq s).insts = s.insts ∧ (l.foldl State.emitReq s).bounds = s.bounds ∧
      (l.foldl State.emitReq s).rings = s.rings ∧ (l.foldl State.emitReq s).dechan = s.dechan ∧
      (l.foldl State.emitReq s).mig = s.mig ∧ (l.foldl State.emitReq s).time = s.time ∧
      (l.foldl State.emitReq s).flow = s.flow ∧ (l.foldl State.emitReq s).cls = s.cls ∧ (l.foldl State.emitReq s).sw = s.sw ∧
      (l.foldl State.emitReq s).sched = s.sched ∧ (l.foldl State.emitReq s).ciph = s.ciph ∧
      (l.foldl State.emitReq s).ports = s.ports ∧ (l.foldl State.emitReq s).alm = s.alm ∧
      (l.foldl State.emitReq s).reflex = s.reflex ∧ (l.foldl State.emitReq s).recd = s.recd ∧
      (l.foldl State.emitReq s).helm = s.helm ∧ (l.foldl State.emitReq s).dram = s.dram ∧
      (l.foldl State.emitReq s).snap = s.snap ∧ (l.foldl State.emitReq s).pending = s.pending := by
  induction l generalizing s with
  | nil => simp
  | cons a l ih => simp [ih]

@[simp] theorem postMeasured_keeps (s : State) (m : PostMark) :
    (s.postMeasured m).now = s.now ∧ (s.postMeasured m).free = s.free ∧ (s.postMeasured m).host = s.host ∧
      (s.postMeasured m).power = s.power ∧ (s.postMeasured m).mem = s.mem ∧ (s.postMeasured m).boot = s.boot ∧
      (s.postMeasured m).err = s.err ∧ (s.postMeasured m).evt = s.evt ∧ (s.postMeasured m).module_ = s.module_ ∧
      (s.postMeasured m).insts = s.insts ∧ (s.postMeasured m).bounds = s.bounds ∧ (s.postMeasured m).rings = s.rings ∧
      (s.postMeasured m).dechan = s.dechan ∧ (s.postMeasured m).mig = s.mig ∧ (s.postMeasured m).time = s.time ∧
      (s.postMeasured m).flow = s.flow ∧ (s.postMeasured m).cls = s.cls ∧ (s.postMeasured m).sw = s.sw ∧
      (s.postMeasured m).sched = s.sched ∧ (s.postMeasured m).ciph = s.ciph ∧ (s.postMeasured m).ports = s.ports ∧
      (s.postMeasured m).reflex = s.reflex ∧ (s.postMeasured m).recd = s.recd ∧ (s.postMeasured m).helm = s.helm ∧
      (s.postMeasured m).dram = s.dram ∧ (s.postMeasured m).snap = s.snap ∧ (s.postMeasured m).out = s.out ∧
      (s.postMeasured m).pending = s.pending := by
  simp only [State.postMeasured]
  (repeat' split) <;> simp

@[simp] theorem measureFold_keeps (s : State) (l : List PostMark) :
    (l.foldl State.postMeasured s).now = s.now ∧ (l.foldl State.postMeasured s).free = s.free ∧
      (l.foldl State.postMeasured s).host = s.host ∧ (l.foldl State.postMeasured s).power = s.power ∧
      (l.foldl State.postMeasured s).mem = s.mem ∧ (l.foldl State.postMeasured s).boot = s.boot ∧
      (l.foldl State.postMeasured s).err = s.err ∧ (l.foldl State.postMeasured s).evt = s.evt ∧
      (l.foldl State.postMeasured s).module_ = s.module_ ∧ (l.foldl State.postMeasured s).insts = s.insts ∧
      (l.foldl State.postMeasured s).bounds = s.bounds ∧ (l.foldl State.postMeasured s).rings = s.rings ∧
      (l.foldl State.postMeasured s).dechan = s.dechan ∧ (l.foldl State.postMeasured s).mig = s.mig ∧
      (l.foldl State.postMeasured s).time = s.time ∧ (l.foldl State.postMeasured s).flow = s.flow ∧
      (l.foldl State.postMeasured s).cls = s.cls ∧ (l.foldl State.postMeasured s).sw = s.sw ∧
      (l.foldl State.postMeasured s).sched = s.sched ∧ (l.foldl State.postMeasured s).ciph = s.ciph ∧
      (l.foldl State.postMeasured s).ports = s.ports ∧ (l.foldl State.postMeasured s).reflex = s.reflex ∧
      (l.foldl State.postMeasured s).recd = s.recd ∧ (l.foldl State.postMeasured s).helm = s.helm ∧
      (l.foldl State.postMeasured s).dram = s.dram ∧ (l.foldl State.postMeasured s).snap = s.snap ∧
      (l.foldl State.postMeasured s).out = s.out ∧ (l.foldl State.postMeasured s).pending = s.pending := by
  induction l generalizing s with
  | nil => simp
  | cons a l ih => simp [ih]

@[simp] theorem notePost_keeps (s : State) (m : PostMark) :
    (s.notePost m).now = s.now ∧ (s.notePost m).free = s.free ∧ (s.notePost m).host = s.host ∧
      (s.notePost m).power = s.power ∧ (s.notePost m).mem = s.mem ∧ (s.notePost m).boot = s.boot ∧ (s.notePost m).err = s.err ∧
      (s.notePost m).evt = s.evt ∧ (s.notePost m).module_ = s.module_ ∧ (s.notePost m).insts = s.insts ∧
      (s.notePost m).bounds = s.bounds ∧ (s.notePost m).rings = s.rings ∧ (s.notePost m).dechan = s.dechan ∧
      (s.notePost m).mig = s.mig ∧ (s.notePost m).time = s.time ∧ (s.notePost m).flow = s.flow ∧ (s.notePost m).cls = s.cls ∧
      (s.notePost m).sw = s.sw ∧ (s.notePost m).sched = s.sched ∧ (s.notePost m).ciph = s.ciph ∧
      (s.notePost m).ports = s.ports ∧ (s.notePost m).reflex = s.reflex ∧ (s.notePost m).recd = s.recd ∧
      (s.notePost m).helm = s.helm ∧ (s.notePost m).dram = s.dram ∧ (s.notePost m).snap = s.snap ∧ (s.notePost m).out = s.out ∧
      (s.notePost m).pending = s.pending := by
  simp only [State.notePost]
  (repeat' split) <;> simp

@[simp] theorem roundsSettle_keeps (s : State) :
    s.roundsSettle.now = s.now ∧ s.roundsSettle.free = s.free ∧ s.roundsSettle.host = s.host ∧
      s.roundsSettle.power = s.power ∧ s.roundsSettle.mem = s.mem ∧ s.roundsSettle.boot = s.boot ∧ s.roundsSettle.err = s.err ∧
      s.roundsSettle.evt = s.evt ∧ s.roundsSettle.module_ = s.module_ ∧ s.roundsSettle.insts = s.insts ∧
      s.roundsSettle.bounds = s.bounds ∧ s.roundsSettle.rings = s.rings ∧ s.roundsSettle.dechan = s.dechan ∧
      s.roundsSettle.mig = s.mig ∧ s.roundsSettle.time = s.time ∧ s.roundsSettle.flow = s.flow ∧ s.roundsSettle.cls = s.cls ∧
      s.roundsSettle.sw = s.sw ∧ s.roundsSettle.ciph = s.ciph ∧ s.roundsSettle.ports = s.ports ∧ s.roundsSettle.alm = s.alm ∧
      s.roundsSettle.reflex = s.reflex ∧ s.roundsSettle.recd = s.recd ∧ s.roundsSettle.helm = s.helm ∧
      s.roundsSettle.dram = s.dram ∧ s.roundsSettle.snap = s.snap ∧ s.roundsSettle.out = s.out ∧
      s.roundsSettle.pending = s.pending := by
  simp [State.roundsSettle]

@[simp] theorem flushWaiting_keeps (s : State) (fn : Fn) :
    (s.flushWaiting fn).now = s.now ∧ (s.flushWaiting fn).free = s.free ∧ (s.flushWaiting fn).power = s.power ∧
      (s.flushWaiting fn).mem = s.mem ∧ (s.flushWaiting fn).boot = s.boot ∧ (s.flushWaiting fn).err = s.err ∧
      (s.flushWaiting fn).evt = s.evt ∧ (s.flushWaiting fn).module_ = s.module_ ∧ (s.flushWaiting fn).insts = s.insts ∧
      (s.flushWaiting fn).bounds = s.bounds ∧ (s.flushWaiting fn).rings = s.rings ∧ (s.flushWaiting fn).dechan = s.dechan ∧
      (s.flushWaiting fn).mig = s.mig ∧ (s.flushWaiting fn).time = s.time ∧ (s.flushWaiting fn).flow = s.flow ∧
      (s.flushWaiting fn).cls = s.cls ∧ (s.flushWaiting fn).sw = s.sw ∧ (s.flushWaiting fn).ciph = s.ciph ∧
      (s.flushWaiting fn).ports = s.ports ∧ (s.flushWaiting fn).reflex = s.reflex ∧ (s.flushWaiting fn).recd = s.recd ∧
      (s.flushWaiting fn).helm = s.helm ∧ (s.flushWaiting fn).dram = s.dram ∧ (s.flushWaiting fn).snap = s.snap ∧
      (s.flushWaiting fn).pending = s.pending := by
  cases fn <;> simp [State.flushWaiting]

@[simp] theorem setMsix_keeps (s : State) (fn : Fn) (v : Nat) (e : MsixEntry) :
    (s.setMsix fn v e).now = s.now ∧ (s.setMsix fn v e).free = s.free ∧ (s.setMsix fn v e).power = s.power ∧
      (s.setMsix fn v e).mem = s.mem ∧ (s.setMsix fn v e).boot = s.boot ∧ (s.setMsix fn v e).err = s.err ∧
      (s.setMsix fn v e).evt = s.evt ∧ (s.setMsix fn v e).module_ = s.module_ ∧ (s.setMsix fn v e).insts = s.insts ∧
      (s.setMsix fn v e).bounds = s.bounds ∧ (s.setMsix fn v e).rings = s.rings ∧ (s.setMsix fn v e).dechan = s.dechan ∧
      (s.setMsix fn v e).mig = s.mig ∧ (s.setMsix fn v e).time = s.time ∧ (s.setMsix fn v e).flow = s.flow ∧
      (s.setMsix fn v e).cls = s.cls ∧ (s.setMsix fn v e).sw = s.sw ∧ (s.setMsix fn v e).sched = s.sched ∧
      (s.setMsix fn v e).ciph = s.ciph ∧ (s.setMsix fn v e).ports = s.ports ∧ (s.setMsix fn v e).alm = s.alm ∧
      (s.setMsix fn v e).reflex = s.reflex ∧ (s.setMsix fn v e).recd = s.recd ∧ (s.setMsix fn v e).helm = s.helm ∧
      (s.setMsix fn v e).dram = s.dram ∧ (s.setMsix fn v e).snap = s.snap ∧ (s.setMsix fn v e).out = s.out ∧
      (s.setMsix fn v e).pending = s.pending := by
  simp only [State.setMsix]
  cases fn <;> (repeat' split) <;> simp

@[simp] theorem msi_keeps (s : State) (fn : Fn) (v : Nat) :
    (s.msi fn v).now = s.now ∧ (s.msi fn v).free = s.free ∧ (s.msi fn v).power = s.power ∧ (s.msi fn v).mem = s.mem ∧
      (s.msi fn v).boot = s.boot ∧ (s.msi fn v).evt = s.evt ∧ (s.msi fn v).module_ = s.module_ ∧ (s.msi fn v).insts = s.insts ∧
      (s.msi fn v).bounds = s.bounds ∧ (s.msi fn v).rings = s.rings ∧ (s.msi fn v).dechan = s.dechan ∧
      (s.msi fn v).mig = s.mig ∧ (s.msi fn v).time = s.time ∧ (s.msi fn v).flow = s.flow ∧ (s.msi fn v).cls = s.cls ∧
      (s.msi fn v).sw = s.sw ∧ (s.msi fn v).sched = s.sched ∧ (s.msi fn v).ciph = s.ciph ∧ (s.msi fn v).ports = s.ports ∧
      (s.msi fn v).alm = s.alm ∧ (s.msi fn v).reflex = s.reflex ∧ (s.msi fn v).recd = s.recd ∧ (s.msi fn v).helm = s.helm ∧
      (s.msi fn v).dram = s.dram ∧ (s.msi fn v).snap = s.snap ∧ (s.msi fn v).pending = s.pending := by
  simp only [State.msi]
  (repeat' split) <;> simp

@[simp] theorem msiRelease_keeps (s : State) (fn : Fn) (v : Nat) :
    (s.msiRelease fn v).now = s.now ∧ (s.msiRelease fn v).free = s.free ∧ (s.msiRelease fn v).power = s.power ∧
      (s.msiRelease fn v).mem = s.mem ∧ (s.msiRelease fn v).boot = s.boot ∧ (s.msiRelease fn v).evt = s.evt ∧
      (s.msiRelease fn v).module_ = s.module_ ∧ (s.msiRelease fn v).insts = s.insts ∧ (s.msiRelease fn v).bounds = s.bounds ∧
      (s.msiRelease fn v).rings = s.rings ∧ (s.msiRelease fn v).dechan = s.dechan ∧ (s.msiRelease fn v).mig = s.mig ∧
      (s.msiRelease fn v).time = s.time ∧ (s.msiRelease fn v).flow = s.flow ∧ (s.msiRelease fn v).cls = s.cls ∧
      (s.msiRelease fn v).sw = s.sw ∧ (s.msiRelease fn v).sched = s.sched ∧ (s.msiRelease fn v).ciph = s.ciph ∧
      (s.msiRelease fn v).ports = s.ports ∧ (s.msiRelease fn v).alm = s.alm ∧ (s.msiRelease fn v).reflex = s.reflex ∧
      (s.msiRelease fn v).recd = s.recd ∧ (s.msiRelease fn v).helm = s.helm ∧ (s.msiRelease fn v).dram = s.dram ∧
      (s.msiRelease fn v).snap = s.snap ∧ (s.msiRelease fn v).pending = s.pending := by
  simp only [State.msiRelease]
  (repeat' split) <;> simp

@[simp] theorem instMsi_keeps (s : State) (i v : Nat) :
    (s.instMsi i v).now = s.now ∧ (s.instMsi i v).free = s.free ∧ (s.instMsi i v).power = s.power ∧
      (s.instMsi i v).mem = s.mem ∧ (s.instMsi i v).boot = s.boot ∧ (s.instMsi i v).evt = s.evt ∧
      (s.instMsi i v).module_ = s.module_ ∧ (s.instMsi i v).insts = s.insts ∧ (s.instMsi i v).bounds = s.bounds ∧
      (s.instMsi i v).rings = s.rings ∧ (s.instMsi i v).dechan = s.dechan ∧ (s.instMsi i v).mig = s.mig ∧
      (s.instMsi i v).time = s.time ∧ (s.instMsi i v).flow = s.flow ∧ (s.instMsi i v).cls = s.cls ∧ (s.instMsi i v).sw = s.sw ∧
      (s.instMsi i v).sched = s.sched ∧ (s.instMsi i v).ciph = s.ciph ∧ (s.instMsi i v).ports = s.ports ∧
      (s.instMsi i v).alm = s.alm ∧ (s.instMsi i v).reflex = s.reflex ∧ (s.instMsi i v).recd = s.recd ∧
      (s.instMsi i v).helm = s.helm ∧ (s.instMsi i v).dram = s.dram ∧ (s.instMsi i v).snap = s.snap ∧
      (s.instMsi i v).pending = s.pending := by
  simp [State.instMsi]

@[simp] theorem event_keeps (s : State) (b : Nat) :
    (s.event b).now = s.now ∧ (s.event b).free = s.free ∧ (s.event b).power = s.power ∧ (s.event b).mem = s.mem ∧
      (s.event b).boot = s.boot ∧ (s.event b).module_ = s.module_ ∧ (s.event b).insts = s.insts ∧
      (s.event b).bounds = s.bounds ∧ (s.event b).rings = s.rings ∧ (s.event b).dechan = s.dechan ∧ (s.event b).mig = s.mig ∧
      (s.event b).time = s.time ∧ (s.event b).flow = s.flow ∧ (s.event b).cls = s.cls ∧ (s.event b).sw = s.sw ∧
      (s.event b).sched = s.sched ∧ (s.event b).ciph = s.ciph ∧ (s.event b).ports = s.ports ∧ (s.event b).alm = s.alm ∧
      (s.event b).reflex = s.reflex ∧ (s.event b).recd = s.recd ∧ (s.event b).helm = s.helm ∧ (s.event b).dram = s.dram ∧
      (s.event b).snap = s.snap ∧ (s.event b).pending = s.pending := by
  simp only [State.event]
  (repeat' split) <;> simp

@[simp] theorem errBit_keeps (s : State) (k : Nat) :
    (s.errBit k).now = s.now ∧ (s.errBit k).free = s.free ∧ (s.errBit k).power = s.power ∧ (s.errBit k).mem = s.mem ∧
      (s.errBit k).boot = s.boot ∧ (s.errBit k).module_ = s.module_ ∧ (s.errBit k).insts = s.insts ∧
      (s.errBit k).bounds = s.bounds ∧ (s.errBit k).rings = s.rings ∧ (s.errBit k).dechan = s.dechan ∧
      (s.errBit k).mig = s.mig ∧ (s.errBit k).time = s.time ∧ (s.errBit k).flow = s.flow ∧ (s.errBit k).cls = s.cls ∧
      (s.errBit k).sw = s.sw ∧ (s.errBit k).sched = s.sched ∧ (s.errBit k).ciph = s.ciph ∧ (s.errBit k).ports = s.ports ∧
      (s.errBit k).alm = s.alm ∧ (s.errBit k).reflex = s.reflex ∧ (s.errBit k).recd = s.recd ∧ (s.errBit k).helm = s.helm ∧
      (s.errBit k).dram = s.dram ∧ (s.errBit k).snap = s.snap ∧ (s.errBit k).pending = s.pending := by
  simp only [State.errBit]
  (repeat' split) <;> simp

@[simp] theorem hostError_keeps (s : State) (a b d e f g : Nat) :
    (s.hostError a b d e f g).now = s.now ∧ (s.hostError a b d e f g).free = s.free ∧
      (s.hostError a b d e f g).power = s.power ∧ (s.hostError a b d e f g).mem = s.mem ∧
      (s.hostError a b d e f g).boot = s.boot ∧ (s.hostError a b d e f g).module_ = s.module_ ∧
      (s.hostError a b d e f g).insts = s.insts ∧ (s.hostError a b d e f g).bounds = s.bounds ∧
      (s.hostError a b d e f g).rings = s.rings ∧ (s.hostError a b d e f g).dechan = s.dechan ∧
      (s.hostError a b d e f g).mig = s.mig ∧ (s.hostError a b d e f g).time = s.time ∧
      (s.hostError a b d e f g).flow = s.flow ∧ (s.hostError a b d e f g).cls = s.cls ∧ (s.hostError a b d e f g).sw = s.sw ∧
      (s.hostError a b d e f g).sched = s.sched ∧ (s.hostError a b d e f g).ciph = s.ciph ∧
      (s.hostError a b d e f g).ports = s.ports ∧ (s.hostError a b d e f g).alm = s.alm ∧
      (s.hostError a b d e f g).reflex = s.reflex ∧ (s.hostError a b d e f g).recd = s.recd ∧
      (s.hostError a b d e f g).helm = s.helm ∧ (s.hostError a b d e f g).dram = s.dram ∧
      (s.hostError a b d e f g).snap = s.snap ∧ (s.hostError a b d e f g).pending = s.pending := by
  simp [State.hostError]

@[simp] theorem aer_keeps (s : State) (fn : Fn) (e : AerError) :
    (s.aer fn e).now = s.now ∧ (s.aer fn e).free = s.free ∧ (s.aer fn e).power = s.power ∧ (s.aer fn e).mem = s.mem ∧
      (s.aer fn e).boot = s.boot ∧ (s.aer fn e).err = s.err ∧ (s.aer fn e).evt = s.evt ∧ (s.aer fn e).module_ = s.module_ ∧
      (s.aer fn e).insts = s.insts ∧ (s.aer fn e).bounds = s.bounds ∧ (s.aer fn e).rings = s.rings ∧
      (s.aer fn e).dechan = s.dechan ∧ (s.aer fn e).mig = s.mig ∧ (s.aer fn e).time = s.time ∧ (s.aer fn e).flow = s.flow ∧
      (s.aer fn e).cls = s.cls ∧ (s.aer fn e).sw = s.sw ∧ (s.aer fn e).sched = s.sched ∧ (s.aer fn e).ciph = s.ciph ∧
      (s.aer fn e).ports = s.ports ∧ (s.aer fn e).alm = s.alm ∧ (s.aer fn e).reflex = s.reflex ∧ (s.aer fn e).recd = s.recd ∧
      (s.aer fn e).helm = s.helm ∧ (s.aer fn e).dram = s.dram ∧ (s.aer fn e).snap = s.snap ∧ (s.aer fn e).out = s.out ∧
      (s.aer fn e).pending = s.pending := by
  simp [State.aer]

@[simp] theorem timeOutTag_keeps (s : State) (fn : Fn) (t a : Nat) :
    (s.timeOutTag fn t a).now = s.now ∧ (s.timeOutTag fn t a).free = s.free ∧ (s.timeOutTag fn t a).power = s.power ∧
      (s.timeOutTag fn t a).mem = s.mem ∧ (s.timeOutTag fn t a).boot = s.boot ∧ (s.timeOutTag fn t a).module_ = s.module_ ∧
      (s.timeOutTag fn t a).insts = s.insts ∧ (s.timeOutTag fn t a).bounds = s.bounds ∧ (s.timeOutTag fn t a).rings = s.rings ∧
      (s.timeOutTag fn t a).dechan = s.dechan ∧ (s.timeOutTag fn t a).mig = s.mig ∧ (s.timeOutTag fn t a).time = s.time ∧
      (s.timeOutTag fn t a).flow = s.flow ∧ (s.timeOutTag fn t a).cls = s.cls ∧ (s.timeOutTag fn t a).sw = s.sw ∧
      (s.timeOutTag fn t a).sched = s.sched ∧ (s.timeOutTag fn t a).ciph = s.ciph ∧ (s.timeOutTag fn t a).ports = s.ports ∧
      (s.timeOutTag fn t a).alm = s.alm ∧ (s.timeOutTag fn t a).reflex = s.reflex ∧ (s.timeOutTag fn t a).recd = s.recd ∧
      (s.timeOutTag fn t a).helm = s.helm ∧ (s.timeOutTag fn t a).dram = s.dram ∧ (s.timeOutTag fn t a).snap = s.snap ∧
      (s.timeOutTag fn t a).pending = s.pending := by
  simp [State.timeOutTag]

@[simp] theorem timeoutMet_keeps (s : State) (fn : Fn) :
    (s.timeoutMet fn).now = s.now ∧ (s.timeoutMet fn).free = s.free ∧ (s.timeoutMet fn).host = s.host ∧
      (s.timeoutMet fn).power = s.power ∧ (s.timeoutMet fn).mem = s.mem ∧ (s.timeoutMet fn).boot = s.boot ∧
      (s.timeoutMet fn).evt = s.evt ∧ (s.timeoutMet fn).module_ = s.module_ ∧ (s.timeoutMet fn).insts = s.insts ∧
      (s.timeoutMet fn).bounds = s.bounds ∧ (s.timeoutMet fn).rings = s.rings ∧ (s.timeoutMet fn).dechan = s.dechan ∧
      (s.timeoutMet fn).mig = s.mig ∧ (s.timeoutMet fn).time = s.time ∧ (s.timeoutMet fn).flow = s.flow ∧
      (s.timeoutMet fn).cls = s.cls ∧ (s.timeoutMet fn).sw = s.sw ∧ (s.timeoutMet fn).sched = s.sched ∧
      (s.timeoutMet fn).ciph = s.ciph ∧ (s.timeoutMet fn).ports = s.ports ∧ (s.timeoutMet fn).alm = s.alm ∧
      (s.timeoutMet fn).reflex = s.reflex ∧ (s.timeoutMet fn).recd = s.recd ∧ (s.timeoutMet fn).helm = s.helm ∧
      (s.timeoutMet fn).dram = s.dram ∧ (s.timeoutMet fn).snap = s.snap ∧ (s.timeoutMet fn).out = s.out ∧
      (s.timeoutMet fn).pending = s.pending := by
  simp [State.timeoutMet]

@[simp] theorem emitFold_keeps (s : State) (fn : Fn) (p : Option Nat) (f : Nat → Nat) (t : Nat) (l : List (Nat × Nat)) :
    ((l.foldl (fun t_ q => t_.emit (.readReq fn p (f q.1) q.2 t)) s)).now = s.now ∧
      ((l.foldl (fun t_ q => t_.emit (.readReq fn p (f q.1) q.2 t)) s)).free = s.free ∧
      ((l.foldl (fun t_ q => t_.emit (.readReq fn p (f q.1) q.2 t)) s)).host = s.host ∧
      ((l.foldl (fun t_ q => t_.emit (.readReq fn p (f q.1) q.2 t)) s)).power = s.power ∧
      ((l.foldl (fun t_ q => t_.emit (.readReq fn p (f q.1) q.2 t)) s)).mem = s.mem ∧
      ((l.foldl (fun t_ q => t_.emit (.readReq fn p (f q.1) q.2 t)) s)).boot = s.boot ∧
      ((l.foldl (fun t_ q => t_.emit (.readReq fn p (f q.1) q.2 t)) s)).err = s.err ∧
      ((l.foldl (fun t_ q => t_.emit (.readReq fn p (f q.1) q.2 t)) s)).evt = s.evt ∧
      ((l.foldl (fun t_ q => t_.emit (.readReq fn p (f q.1) q.2 t)) s)).module_ = s.module_ ∧
      ((l.foldl (fun t_ q => t_.emit (.readReq fn p (f q.1) q.2 t)) s)).insts = s.insts ∧
      ((l.foldl (fun t_ q => t_.emit (.readReq fn p (f q.1) q.2 t)) s)).bounds = s.bounds ∧
      ((l.foldl (fun t_ q => t_.emit (.readReq fn p (f q.1) q.2 t)) s)).rings = s.rings ∧
      ((l.foldl (fun t_ q => t_.emit (.readReq fn p (f q.1) q.2 t)) s)).dechan = s.dechan ∧
      ((l.foldl (fun t_ q => t_.emit (.readReq fn p (f q.1) q.2 t)) s)).mig = s.mig ∧
      ((l.foldl (fun t_ q => t_.emit (.readReq fn p (f q.1) q.2 t)) s)).time = s.time ∧
      ((l.foldl (fun t_ q => t_.emit (.readReq fn p (f q.1) q.2 t)) s)).flow = s.flow ∧
      ((l.foldl (fun t_ q => t_.emit (.readReq fn p (f q.1) q.2 t)) s)).cls = s.cls ∧
      ((l.foldl (fun t_ q => t_.emit (.readReq fn p (f q.1) q.2 t)) s)).sw = s.sw ∧
      ((l.foldl (fun t_ q => t_.emit (.readReq fn p (f q.1) q.2 t)) s)).sched = s.sched ∧
      ((l.foldl (fun t_ q => t_.emit (.readReq fn p (f q.1) q.2 t)) s)).ciph = s.ciph ∧
      ((l.foldl (fun t_ q => t_.emit (.readReq fn p (f q.1) q.2 t)) s)).ports = s.ports ∧
      ((l.foldl (fun t_ q => t_.emit (.readReq fn p (f q.1) q.2 t)) s)).alm = s.alm ∧
      ((l.foldl (fun t_ q => t_.emit (.readReq fn p (f q.1) q.2 t)) s)).reflex = s.reflex ∧
      ((l.foldl (fun t_ q => t_.emit (.readReq fn p (f q.1) q.2 t)) s)).recd = s.recd ∧
      ((l.foldl (fun t_ q => t_.emit (.readReq fn p (f q.1) q.2 t)) s)).helm = s.helm ∧
      ((l.foldl (fun t_ q => t_.emit (.readReq fn p (f q.1) q.2 t)) s)).dram = s.dram ∧
      ((l.foldl (fun t_ q => t_.emit (.readReq fn p (f q.1) q.2 t)) s)).snap = s.snap ∧
      ((l.foldl (fun t_ q => t_.emit (.readReq fn p (f q.1) q.2 t)) s)).pending = s.pending := by
  induction l generalizing s with
  | nil => simp
  | cons a l ih => simp [ih]

@[simp] theorem emitReads_keeps (s : State) (fn : Fn) (p : Option Nat) (a n t : Nat) :
    (s.emitReads fn p a n t).now = s.now ∧ (s.emitReads fn p a n t).free = s.free ∧ (s.emitReads fn p a n t).host = s.host ∧
      (s.emitReads fn p a n t).power = s.power ∧ (s.emitReads fn p a n t).mem = s.mem ∧
      (s.emitReads fn p a n t).boot = s.boot ∧ (s.emitReads fn p a n t).err = s.err ∧ (s.emitReads fn p a n t).evt = s.evt ∧
      (s.emitReads fn p a n t).module_ = s.module_ ∧ (s.emitReads fn p a n t).insts = s.insts ∧
      (s.emitReads fn p a n t).bounds = s.bounds ∧ (s.emitReads fn p a n t).rings = s.rings ∧
      (s.emitReads fn p a n t).dechan = s.dechan ∧ (s.emitReads fn p a n t).mig = s.mig ∧
      (s.emitReads fn p a n t).time = s.time ∧ (s.emitReads fn p a n t).flow = s.flow ∧ (s.emitReads fn p a n t).cls = s.cls ∧
      (s.emitReads fn p a n t).sw = s.sw ∧ (s.emitReads fn p a n t).sched = s.sched ∧ (s.emitReads fn p a n t).ciph = s.ciph ∧
      (s.emitReads fn p a n t).ports = s.ports ∧ (s.emitReads fn p a n t).alm = s.alm ∧
      (s.emitReads fn p a n t).reflex = s.reflex ∧ (s.emitReads fn p a n t).recd = s.recd ∧
      (s.emitReads fn p a n t).helm = s.helm ∧ (s.emitReads fn p a n t).dram = s.dram ∧
      (s.emitReads fn p a n t).snap = s.snap ∧ (s.emitReads fn p a n t).pending = s.pending := by
  simp [State.emitReads]

@[simp] theorem emitReadsFold_keeps (s : State) (fn : Fn) (p : Option Nat) (l : List (Nat × Nat)) :
    ((l.foldl (fun s q => s.emitReads fn p q.1 q.2 ((s.freeTag fn).getD 0)) s)).now = s.now ∧
      ((l.foldl (fun s q => s.emitReads fn p q.1 q.2 ((s.freeTag fn).getD 0)) s)).free = s.free ∧
      ((l.foldl (fun s q => s.emitReads fn p q.1 q.2 ((s.freeTag fn).getD 0)) s)).host = s.host ∧
      ((l.foldl (fun s q => s.emitReads fn p q.1 q.2 ((s.freeTag fn).getD 0)) s)).power = s.power ∧
      ((l.foldl (fun s q => s.emitReads fn p q.1 q.2 ((s.freeTag fn).getD 0)) s)).mem = s.mem ∧
      ((l.foldl (fun s q => s.emitReads fn p q.1 q.2 ((s.freeTag fn).getD 0)) s)).boot = s.boot ∧
      ((l.foldl (fun s q => s.emitReads fn p q.1 q.2 ((s.freeTag fn).getD 0)) s)).err = s.err ∧
      ((l.foldl (fun s q => s.emitReads fn p q.1 q.2 ((s.freeTag fn).getD 0)) s)).evt = s.evt ∧
      ((l.foldl (fun s q => s.emitReads fn p q.1 q.2 ((s.freeTag fn).getD 0)) s)).module_ = s.module_ ∧
      ((l.foldl (fun s q => s.emitReads fn p q.1 q.2 ((s.freeTag fn).getD 0)) s)).insts = s.insts ∧
      ((l.foldl (fun s q => s.emitReads fn p q.1 q.2 ((s.freeTag fn).getD 0)) s)).bounds = s.bounds ∧
      ((l.foldl (fun s q => s.emitReads fn p q.1 q.2 ((s.freeTag fn).getD 0)) s)).rings = s.rings ∧
      ((l.foldl (fun s q => s.emitReads fn p q.1 q.2 ((s.freeTag fn).getD 0)) s)).dechan = s.dechan ∧
      ((l.foldl (fun s q => s.emitReads fn p q.1 q.2 ((s.freeTag fn).getD 0)) s)).mig = s.mig ∧
      ((l.foldl (fun s q => s.emitReads fn p q.1 q.2 ((s.freeTag fn).getD 0)) s)).time = s.time ∧
      ((l.foldl (fun s q => s.emitReads fn p q.1 q.2 ((s.freeTag fn).getD 0)) s)).flow = s.flow ∧
      ((l.foldl (fun s q => s.emitReads fn p q.1 q.2 ((s.freeTag fn).getD 0)) s)).cls = s.cls ∧
      ((l.foldl (fun s q => s.emitReads fn p q.1 q.2 ((s.freeTag fn).getD 0)) s)).sw = s.sw ∧
      ((l.foldl (fun s q => s.emitReads fn p q.1 q.2 ((s.freeTag fn).getD 0)) s)).sched = s.sched ∧
      ((l.foldl (fun s q => s.emitReads fn p q.1 q.2 ((s.freeTag fn).getD 0)) s)).ciph = s.ciph ∧
      ((l.foldl (fun s q => s.emitReads fn p q.1 q.2 ((s.freeTag fn).getD 0)) s)).ports = s.ports ∧
      ((l.foldl (fun s q => s.emitReads fn p q.1 q.2 ((s.freeTag fn).getD 0)) s)).alm = s.alm ∧
      ((l.foldl (fun s q => s.emitReads fn p q.1 q.2 ((s.freeTag fn).getD 0)) s)).reflex = s.reflex ∧
      ((l.foldl (fun s q => s.emitReads fn p q.1 q.2 ((s.freeTag fn).getD 0)) s)).recd = s.recd ∧
      ((l.foldl (fun s q => s.emitReads fn p q.1 q.2 ((s.freeTag fn).getD 0)) s)).helm = s.helm ∧
      ((l.foldl (fun s q => s.emitReads fn p q.1 q.2 ((s.freeTag fn).getD 0)) s)).dram = s.dram ∧
      ((l.foldl (fun s q => s.emitReads fn p q.1 q.2 ((s.freeTag fn).getD 0)) s)).snap = s.snap ∧
      ((l.foldl (fun s q => s.emitReads fn p q.1 q.2 ((s.freeTag fn).getD 0)) s)).pending = s.pending := by
  induction l generalizing s with
  | nil => simp
  | cons a l ih => simp [ih]

@[simp] theorem readResult_keeps (s : State) (fn : Fn) (a : Nat) (r : HostRead) :
    (s.readResult fn a r).2.now = s.now ∧ (s.readResult fn a r).2.free = s.free ∧ (s.readResult fn a r).2.power = s.power ∧
      (s.readResult fn a r).2.mem = s.mem ∧ (s.readResult fn a r).2.boot = s.boot ∧
      (s.readResult fn a r).2.module_ = s.module_ ∧ (s.readResult fn a r).2.insts = s.insts ∧
      (s.readResult fn a r).2.bounds = s.bounds ∧ (s.readResult fn a r).2.rings = s.rings ∧
      (s.readResult fn a r).2.dechan = s.dechan ∧ (s.readResult fn a r).2.mig = s.mig ∧ (s.readResult fn a r).2.time = s.time ∧
      (s.readResult fn a r).2.flow = s.flow ∧ (s.readResult fn a r).2.cls = s.cls ∧ (s.readResult fn a r).2.sw = s.sw ∧
      (s.readResult fn a r).2.sched = s.sched ∧ (s.readResult fn a r).2.ciph = s.ciph ∧
      (s.readResult fn a r).2.ports = s.ports ∧ (s.readResult fn a r).2.alm = s.alm ∧
      (s.readResult fn a r).2.reflex = s.reflex ∧ (s.readResult fn a r).2.recd = s.recd ∧
      (s.readResult fn a r).2.helm = s.helm ∧ (s.readResult fn a r).2.dram = s.dram ∧ (s.readResult fn a r).2.snap = s.snap ∧
      (s.readResult fn a r).2.pending = s.pending := by
  unfold State.readResult
  generalize State.effRead _ fn r = e
  cases e <;> dsimp only <;> (try split) <;> simp

@[simp] theorem hostReads_keeps (s : State) (fn : Fn) (p : Option Nat) (l : List (Nat × Nat)) (r : HostRead) :
    (s.hostReads fn p l r).2.now = s.now ∧ (s.hostReads fn p l r).2.free = s.free ∧
      (s.hostReads fn p l r).2.power = s.power ∧ (s.hostReads fn p l r).2.mem = s.mem ∧
      (s.hostReads fn p l r).2.boot = s.boot ∧ (s.hostReads fn p l r).2.module_ = s.module_ ∧
      (s.hostReads fn p l r).2.insts = s.insts ∧ (s.hostReads fn p l r).2.bounds = s.bounds ∧
      (s.hostReads fn p l r).2.rings = s.rings ∧ (s.hostReads fn p l r).2.dechan = s.dechan ∧
      (s.hostReads fn p l r).2.mig = s.mig ∧ (s.hostReads fn p l r).2.time = s.time ∧ (s.hostReads fn p l r).2.flow = s.flow ∧
      (s.hostReads fn p l r).2.cls = s.cls ∧ (s.hostReads fn p l r).2.sw = s.sw ∧ (s.hostReads fn p l r).2.sched = s.sched ∧
      (s.hostReads fn p l r).2.ciph = s.ciph ∧ (s.hostReads fn p l r).2.ports = s.ports ∧
      (s.hostReads fn p l r).2.alm = s.alm ∧ (s.hostReads fn p l r).2.reflex = s.reflex ∧
      (s.hostReads fn p l r).2.recd = s.recd ∧ (s.hostReads fn p l r).2.helm = s.helm ∧
      (s.hostReads fn p l r).2.dram = s.dram ∧ (s.hostReads fn p l r).2.snap = s.snap ∧
      (s.hostReads fn p l r).2.pending = s.pending := by
  simp [State.hostReads]

@[simp] theorem hostRead_keeps (s : State) (fn : Fn) (p : Option Nat) (a n : Nat) (r : HostRead) :
    (s.hostRead fn p a n r).2.now = s.now ∧ (s.hostRead fn p a n r).2.free = s.free ∧
      (s.hostRead fn p a n r).2.power = s.power ∧ (s.hostRead fn p a n r).2.mem = s.mem ∧
      (s.hostRead fn p a n r).2.boot = s.boot ∧ (s.hostRead fn p a n r).2.module_ = s.module_ ∧
      (s.hostRead fn p a n r).2.insts = s.insts ∧ (s.hostRead fn p a n r).2.bounds = s.bounds ∧
      (s.hostRead fn p a n r).2.rings = s.rings ∧ (s.hostRead fn p a n r).2.dechan = s.dechan ∧
      (s.hostRead fn p a n r).2.mig = s.mig ∧ (s.hostRead fn p a n r).2.time = s.time ∧
      (s.hostRead fn p a n r).2.flow = s.flow ∧ (s.hostRead fn p a n r).2.cls = s.cls ∧ (s.hostRead fn p a n r).2.sw = s.sw ∧
      (s.hostRead fn p a n r).2.sched = s.sched ∧ (s.hostRead fn p a n r).2.ciph = s.ciph ∧
      (s.hostRead fn p a n r).2.ports = s.ports ∧ (s.hostRead fn p a n r).2.alm = s.alm ∧
      (s.hostRead fn p a n r).2.reflex = s.reflex ∧ (s.hostRead fn p a n r).2.recd = s.recd ∧
      (s.hostRead fn p a n r).2.helm = s.helm ∧ (s.hostRead fn p a n r).2.dram = s.dram ∧
      (s.hostRead fn p a n r).2.snap = s.snap ∧ (s.hostRead fn p a n r).2.pending = s.pending := by
  simp [State.hostRead]

@[simp] theorem readWait_keeps (s : State) (fn : Fn) :
    (s.readWait fn).now = s.now ∧ (s.readWait fn).free = s.free ∧ (s.readWait fn).host = s.host ∧
      (s.readWait fn).power = s.power ∧ (s.readWait fn).mem = s.mem ∧ (s.readWait fn).boot = s.boot ∧
      (s.readWait fn).evt = s.evt ∧ (s.readWait fn).module_ = s.module_ ∧ (s.readWait fn).insts = s.insts ∧
      (s.readWait fn).bounds = s.bounds ∧ (s.readWait fn).rings = s.rings ∧ (s.readWait fn).dechan = s.dechan ∧
      (s.readWait fn).mig = s.mig ∧ (s.readWait fn).time = s.time ∧ (s.readWait fn).flow = s.flow ∧
      (s.readWait fn).cls = s.cls ∧ (s.readWait fn).sw = s.sw ∧ (s.readWait fn).sched = s.sched ∧
      (s.readWait fn).ciph = s.ciph ∧ (s.readWait fn).ports = s.ports ∧ (s.readWait fn).alm = s.alm ∧
      (s.readWait fn).reflex = s.reflex ∧ (s.readWait fn).recd = s.recd ∧ (s.readWait fn).helm = s.helm ∧
      (s.readWait fn).dram = s.dram ∧ (s.readWait fn).snap = s.snap ∧ (s.readWait fn).out = s.out ∧
      (s.readWait fn).pending = s.pending := by
  simp only [State.readWait]
  split <;> simp

@[simp] theorem logUe_keeps (s : State) (a b d e : Nat) (f : Bool) :
    (s.logUe a b d e f).now = s.now ∧ (s.logUe a b d e f).free = s.free ∧ (s.logUe a b d e f).power = s.power ∧
      (s.logUe a b d e f).boot = s.boot ∧ (s.logUe a b d e f).module_ = s.module_ ∧ (s.logUe a b d e f).insts = s.insts ∧
      (s.logUe a b d e f).bounds = s.bounds ∧ (s.logUe a b d e f).rings = s.rings ∧ (s.logUe a b d e f).dechan = s.dechan ∧
      (s.logUe a b d e f).mig = s.mig ∧ (s.logUe a b d e f).time = s.time ∧ (s.logUe a b d e f).flow = s.flow ∧
      (s.logUe a b d e f).cls = s.cls ∧ (s.logUe a b d e f).sw = s.sw ∧ (s.logUe a b d e f).sched = s.sched ∧
      (s.logUe a b d e f).ciph = s.ciph ∧ (s.logUe a b d e f).ports = s.ports ∧ (s.logUe a b d e f).alm = s.alm ∧
      (s.logUe a b d e f).reflex = s.reflex ∧ (s.logUe a b d e f).recd = s.recd ∧ (s.logUe a b d e f).helm = s.helm ∧
      (s.logUe a b d e f).dram = s.dram ∧ (s.logUe a b d e f).snap = s.snap ∧ (s.logUe a b d e f).pending = s.pending := by
  simp [State.logUe]

@[simp] theorem dramRead_keeps (s : State) (a n : Nat) :
    (s.dramRead a n).2.now = s.now ∧ (s.dramRead a n).2.free = s.free ∧ (s.dramRead a n).2.power = s.power ∧
      (s.dramRead a n).2.boot = s.boot ∧ (s.dramRead a n).2.module_ = s.module_ ∧ (s.dramRead a n).2.insts = s.insts ∧
      (s.dramRead a n).2.bounds = s.bounds ∧ (s.dramRead a n).2.rings = s.rings ∧ (s.dramRead a n).2.dechan = s.dechan ∧
      (s.dramRead a n).2.mig = s.mig ∧ (s.dramRead a n).2.time = s.time ∧ (s.dramRead a n).2.flow = s.flow ∧
      (s.dramRead a n).2.cls = s.cls ∧ (s.dramRead a n).2.sw = s.sw ∧ (s.dramRead a n).2.sched = s.sched ∧
      (s.dramRead a n).2.ciph = s.ciph ∧ (s.dramRead a n).2.ports = s.ports ∧ (s.dramRead a n).2.alm = s.alm ∧
      (s.dramRead a n).2.reflex = s.reflex ∧ (s.dramRead a n).2.recd = s.recd ∧ (s.dramRead a n).2.helm = s.helm ∧
      (s.dramRead a n).2.dram = s.dram ∧ (s.dramRead a n).2.snap = s.snap ∧ (s.dramRead a n).2.pending = s.pending := by
  simp only [State.dramRead]
  (repeat' split) <;> simp

@[simp] theorem dramWrite_keeps (s : State) (a : Nat) (b : Bytes) :
    (s.dramWrite a b).now = s.now ∧ (s.dramWrite a b).free = s.free ∧ (s.dramWrite a b).host = s.host ∧
      (s.dramWrite a b).power = s.power ∧ (s.dramWrite a b).boot = s.boot ∧ (s.dramWrite a b).err = s.err ∧
      (s.dramWrite a b).evt = s.evt ∧ (s.dramWrite a b).module_ = s.module_ ∧ (s.dramWrite a b).insts = s.insts ∧
      (s.dramWrite a b).bounds = s.bounds ∧ (s.dramWrite a b).rings = s.rings ∧ (s.dramWrite a b).dechan = s.dechan ∧
      (s.dramWrite a b).mig = s.mig ∧ (s.dramWrite a b).time = s.time ∧ (s.dramWrite a b).flow = s.flow ∧
      (s.dramWrite a b).cls = s.cls ∧ (s.dramWrite a b).sw = s.sw ∧ (s.dramWrite a b).sched = s.sched ∧
      (s.dramWrite a b).ciph = s.ciph ∧ (s.dramWrite a b).ports = s.ports ∧ (s.dramWrite a b).alm = s.alm ∧
      (s.dramWrite a b).reflex = s.reflex ∧ (s.dramWrite a b).recd = s.recd ∧ (s.dramWrite a b).helm = s.helm ∧
      (s.dramWrite a b).snap = s.snap ∧ (s.dramWrite a b).out = s.out ∧ (s.dramWrite a b).pending = s.pending := by
  simp [State.dramWrite]

@[simp] theorem setInst_keeps (s : State) (i : Nat) (x : Inst) :
    (s.setInst i x).now = s.now ∧ (s.setInst i x).free = s.free ∧ (s.setInst i x).host = s.host ∧
      (s.setInst i x).power = s.power ∧ (s.setInst i x).mem = s.mem ∧ (s.setInst i x).boot = s.boot ∧
      (s.setInst i x).err = s.err ∧ (s.setInst i x).evt = s.evt ∧ (s.setInst i x).module_ = s.module_ ∧
      (s.setInst i x).bounds = s.bounds ∧ (s.setInst i x).rings = s.rings ∧ (s.setInst i x).dechan = s.dechan ∧
      (s.setInst i x).mig = s.mig ∧ (s.setInst i x).time = s.time ∧ (s.setInst i x).flow = s.flow ∧
      (s.setInst i x).cls = s.cls ∧ (s.setInst i x).sw = s.sw ∧ (s.setInst i x).sched = s.sched ∧
      (s.setInst i x).ciph = s.ciph ∧ (s.setInst i x).ports = s.ports ∧ (s.setInst i x).alm = s.alm ∧
      (s.setInst i x).reflex = s.reflex ∧ (s.setInst i x).recd = s.recd ∧ (s.setInst i x).helm = s.helm ∧
      (s.setInst i x).dram = s.dram ∧ (s.setInst i x).snap = s.snap ∧ (s.setInst i x).out = s.out ∧
      (s.setInst i x).pending = s.pending := by
  simp [State.setInst]

@[simp] theorem setRing_keeps (s : State) (i : Nat) (x : Ring) :
    (s.setRing i x).now = s.now ∧ (s.setRing i x).free = s.free ∧ (s.setRing i x).host = s.host ∧
      (s.setRing i x).power = s.power ∧ (s.setRing i x).mem = s.mem ∧ (s.setRing i x).boot = s.boot ∧
      (s.setRing i x).err = s.err ∧ (s.setRing i x).evt = s.evt ∧ (s.setRing i x).module_ = s.module_ ∧
      (s.setRing i x).insts = s.insts ∧ (s.setRing i x).bounds = s.bounds ∧ (s.setRing i x).dechan = s.dechan ∧
      (s.setRing i x).mig = s.mig ∧ (s.setRing i x).time = s.time ∧ (s.setRing i x).flow = s.flow ∧
      (s.setRing i x).cls = s.cls ∧ (s.setRing i x).sw = s.sw ∧ (s.setRing i x).sched = s.sched ∧
      (s.setRing i x).ciph = s.ciph ∧ (s.setRing i x).ports = s.ports ∧ (s.setRing i x).alm = s.alm ∧
      (s.setRing i x).reflex = s.reflex ∧ (s.setRing i x).recd = s.recd ∧ (s.setRing i x).helm = s.helm ∧
      (s.setRing i x).dram = s.dram ∧ (s.setRing i x).snap = s.snap ∧ (s.setRing i x).out = s.out ∧
      (s.setRing i x).pending = s.pending := by
  simp [State.setRing]

@[simp] theorem markDirty_keeps (s : State) (i a n : Nat) :
    (s.markDirty i a n).now = s.now ∧ (s.markDirty i a n).free = s.free ∧ (s.markDirty i a n).host = s.host ∧
      (s.markDirty i a n).power = s.power ∧ (s.markDirty i a n).mem = s.mem ∧ (s.markDirty i a n).boot = s.boot ∧
      (s.markDirty i a n).err = s.err ∧ (s.markDirty i a n).evt = s.evt ∧ (s.markDirty i a n).module_ = s.module_ ∧
      (s.markDirty i a n).insts = s.insts ∧ (s.markDirty i a n).bounds = s.bounds ∧ (s.markDirty i a n).rings = s.rings ∧
      (s.markDirty i a n).dechan = s.dechan ∧ (s.markDirty i a n).time = s.time ∧ (s.markDirty i a n).flow = s.flow ∧
      (s.markDirty i a n).cls = s.cls ∧ (s.markDirty i a n).sw = s.sw ∧ (s.markDirty i a n).sched = s.sched ∧
      (s.markDirty i a n).ciph = s.ciph ∧ (s.markDirty i a n).ports = s.ports ∧ (s.markDirty i a n).alm = s.alm ∧
      (s.markDirty i a n).reflex = s.reflex ∧ (s.markDirty i a n).recd = s.recd ∧ (s.markDirty i a n).helm = s.helm ∧
      (s.markDirty i a n).dram = s.dram ∧ (s.markDirty i a n).snap = s.snap ∧ (s.markDirty i a n).out = s.out ∧
      (s.markDirty i a n).pending = s.pending := by
  simp only [State.markDirty]
  split <;> simp

@[simp] theorem postRing_keeps (s : State) (r a : Nat) (b : Bytes) :
    (s.postRing r a b).now = s.now ∧ (s.postRing r a b).free = s.free ∧ (s.postRing r a b).power = s.power ∧
      (s.postRing r a b).mem = s.mem ∧ (s.postRing r a b).boot = s.boot ∧ (s.postRing r a b).evt = s.evt ∧
      (s.postRing r a b).module_ = s.module_ ∧ (s.postRing r a b).insts = s.insts ∧ (s.postRing r a b).bounds = s.bounds ∧
      (s.postRing r a b).rings = s.rings ∧ (s.postRing r a b).dechan = s.dechan ∧ (s.postRing r a b).time = s.time ∧
      (s.postRing r a b).flow = s.flow ∧ (s.postRing r a b).cls = s.cls ∧ (s.postRing r a b).sw = s.sw ∧
      (s.postRing r a b).sched = s.sched ∧ (s.postRing r a b).ciph = s.ciph ∧ (s.postRing r a b).ports = s.ports ∧
      (s.postRing r a b).alm = s.alm ∧ (s.postRing r a b).reflex = s.reflex ∧ (s.postRing r a b).recd = s.recd ∧
      (s.postRing r a b).helm = s.helm ∧ (s.postRing r a b).dram = s.dram ∧ (s.postRing r a b).snap = s.snap ∧
      (s.postRing r a b).pending = s.pending := by
  simp only [State.postRing]
  (repeat' split) <;> simp

@[simp] theorem msiFold_keeps (s : State) (fn : Fn) (l : List Nat) :
    ((l.foldl (fun s v => s.msi fn v) s)).now = s.now ∧ ((l.foldl (fun s v => s.msi fn v) s)).free = s.free ∧
      ((l.foldl (fun s v => s.msi fn v) s)).power = s.power ∧ ((l.foldl (fun s v => s.msi fn v) s)).mem = s.mem ∧
      ((l.foldl (fun s v => s.msi fn v) s)).boot = s.boot ∧ ((l.foldl (fun s v => s.msi fn v) s)).evt = s.evt ∧
      ((l.foldl (fun s v => s.msi fn v) s)).module_ = s.module_ ∧ ((l.foldl (fun s v => s.msi fn v) s)).insts = s.insts ∧
      ((l.foldl (fun s v => s.msi fn v) s)).bounds = s.bounds ∧ ((l.foldl (fun s v => s.msi fn v) s)).rings = s.rings ∧
      ((l.foldl (fun s v => s.msi fn v) s)).dechan = s.dechan ∧ ((l.foldl (fun s v => s.msi fn v) s)).mig = s.mig ∧
      ((l.foldl (fun s v => s.msi fn v) s)).time = s.time ∧ ((l.foldl (fun s v => s.msi fn v) s)).flow = s.flow ∧
      ((l.foldl (fun s v => s.msi fn v) s)).cls = s.cls ∧ ((l.foldl (fun s v => s.msi fn v) s)).sw = s.sw ∧
      ((l.foldl (fun s v => s.msi fn v) s)).sched = s.sched ∧ ((l.foldl (fun s v => s.msi fn v) s)).ciph = s.ciph ∧
      ((l.foldl (fun s v => s.msi fn v) s)).ports = s.ports ∧ ((l.foldl (fun s v => s.msi fn v) s)).alm = s.alm ∧
      ((l.foldl (fun s v => s.msi fn v) s)).reflex = s.reflex ∧ ((l.foldl (fun s v => s.msi fn v) s)).recd = s.recd ∧
      ((l.foldl (fun s v => s.msi fn v) s)).helm = s.helm ∧ ((l.foldl (fun s v => s.msi fn v) s)).dram = s.dram ∧
      ((l.foldl (fun s v => s.msi fn v) s)).snap = s.snap ∧ ((l.foldl (fun s v => s.msi fn v) s)).pending = s.pending := by
  induction l generalizing s with
  | nil => simp
  | cons a l ih => simp [ih]

@[simp] theorem signal_keeps (s : State) (r : Nat) :
    (s.signal r).now = s.now ∧ (s.signal r).free = s.free ∧ (s.signal r).power = s.power ∧ (s.signal r).mem = s.mem ∧
      (s.signal r).boot = s.boot ∧ (s.signal r).evt = s.evt ∧ (s.signal r).module_ = s.module_ ∧ (s.signal r).insts = s.insts ∧
      (s.signal r).bounds = s.bounds ∧ (s.signal r).dechan = s.dechan ∧ (s.signal r).mig = s.mig ∧ (s.signal r).time = s.time ∧
      (s.signal r).flow = s.flow ∧ (s.signal r).cls = s.cls ∧ (s.signal r).sw = s.sw ∧ (s.signal r).sched = s.sched ∧
      (s.signal r).ciph = s.ciph ∧ (s.signal r).ports = s.ports ∧ (s.signal r).alm = s.alm ∧ (s.signal r).reflex = s.reflex ∧
      (s.signal r).recd = s.recd ∧ (s.signal r).helm = s.helm ∧ (s.signal r).dram = s.dram ∧ (s.signal r).snap = s.snap ∧
      (s.signal r).pending = s.pending := by
  simp [State.signal]

@[simp] theorem moderate_keeps (s : State) (r v : Nat) :
    (s.moderate r v).now = s.now ∧ (s.moderate r v).free = s.free ∧ (s.moderate r v).power = s.power ∧
      (s.moderate r v).mem = s.mem ∧ (s.moderate r v).boot = s.boot ∧ (s.moderate r v).evt = s.evt ∧
      (s.moderate r v).module_ = s.module_ ∧ (s.moderate r v).insts = s.insts ∧ (s.moderate r v).bounds = s.bounds ∧
      (s.moderate r v).dechan = s.dechan ∧ (s.moderate r v).mig = s.mig ∧ (s.moderate r v).time = s.time ∧
      (s.moderate r v).flow = s.flow ∧ (s.moderate r v).cls = s.cls ∧ (s.moderate r v).sw = s.sw ∧
      (s.moderate r v).sched = s.sched ∧ (s.moderate r v).ciph = s.ciph ∧ (s.moderate r v).ports = s.ports ∧
      (s.moderate r v).alm = s.alm ∧ (s.moderate r v).reflex = s.reflex ∧ (s.moderate r v).recd = s.recd ∧
      (s.moderate r v).helm = s.helm ∧ (s.moderate r v).dram = s.dram ∧ (s.moderate r v).snap = s.snap ∧
      (s.moderate r v).pending = s.pending := by
  simp only [State.moderate]
  (repeat' split) <;> simp

@[simp] theorem produce_keeps (s : State) (p : Nat) (b : Bytes) :
    (s.produce p b).now = s.now ∧ (s.produce p b).free = s.free ∧ (s.produce p b).power = s.power ∧
      (s.produce p b).mem = s.mem ∧ (s.produce p b).boot = s.boot ∧ (s.produce p b).evt = s.evt ∧
      (s.produce p b).module_ = s.module_ ∧ (s.produce p b).insts = s.insts ∧ (s.produce p b).bounds = s.bounds ∧
      (s.produce p b).dechan = s.dechan ∧ (s.produce p b).time = s.time ∧ (s.produce p b).flow = s.flow ∧
      (s.produce p b).cls = s.cls ∧ (s.produce p b).sw = s.sw ∧ (s.produce p b).sched = s.sched ∧
      (s.produce p b).ciph = s.ciph ∧ (s.produce p b).ports = s.ports ∧ (s.produce p b).alm = s.alm ∧
      (s.produce p b).reflex = s.reflex ∧ (s.produce p b).recd = s.recd ∧ (s.produce p b).helm = s.helm ∧
      (s.produce p b).dram = s.dram ∧ (s.produce p b).snap = s.snap ∧ (s.produce p b).pending = s.pending := by
  simp [State.produce]

@[simp] theorem putEvent_keeps (s : State) (i k : Nat) (b : Bytes) :
    (s.putEvent i k b).now = s.now ∧ (s.putEvent i k b).free = s.free ∧ (s.putEvent i k b).power = s.power ∧
      (s.putEvent i k b).mem = s.mem ∧ (s.putEvent i k b).boot = s.boot ∧ (s.putEvent i k b).evt = s.evt ∧
      (s.putEvent i k b).module_ = s.module_ ∧ (s.putEvent i k b).bounds = s.bounds ∧ (s.putEvent i k b).dechan = s.dechan ∧
      (s.putEvent i k b).time = s.time ∧ (s.putEvent i k b).flow = s.flow ∧ (s.putEvent i k b).cls = s.cls ∧
      (s.putEvent i k b).sw = s.sw ∧ (s.putEvent i k b).sched = s.sched ∧ (s.putEvent i k b).ciph = s.ciph ∧
      (s.putEvent i k b).ports = s.ports ∧ (s.putEvent i k b).alm = s.alm ∧ (s.putEvent i k b).reflex = s.reflex ∧
      (s.putEvent i k b).recd = s.recd ∧ (s.putEvent i k b).helm = s.helm ∧ (s.putEvent i k b).dram = s.dram ∧
      (s.putEvent i k b).snap = s.snap ∧ (s.putEvent i k b).pending = s.pending := by
  simp [State.putEvent]

@[simp] theorem writeEvent_keeps (s : State) (i k : Nat) (b : Bytes) :
    (s.writeEvent i k b).now = s.now ∧ (s.writeEvent i k b).free = s.free ∧ (s.writeEvent i k b).power = s.power ∧
      (s.writeEvent i k b).mem = s.mem ∧ (s.writeEvent i k b).boot = s.boot ∧ (s.writeEvent i k b).evt = s.evt ∧
      (s.writeEvent i k b).module_ = s.module_ ∧ (s.writeEvent i k b).bounds = s.bounds ∧
      (s.writeEvent i k b).dechan = s.dechan ∧ (s.writeEvent i k b).time = s.time ∧ (s.writeEvent i k b).flow = s.flow ∧
      (s.writeEvent i k b).cls = s.cls ∧ (s.writeEvent i k b).sw = s.sw ∧ (s.writeEvent i k b).sched = s.sched ∧
      (s.writeEvent i k b).ciph = s.ciph ∧ (s.writeEvent i k b).ports = s.ports ∧ (s.writeEvent i k b).alm = s.alm ∧
      (s.writeEvent i k b).reflex = s.reflex ∧ (s.writeEvent i k b).recd = s.recd ∧ (s.writeEvent i k b).helm = s.helm ∧
      (s.writeEvent i k b).dram = s.dram ∧ (s.writeEvent i k b).snap = s.snap ∧ (s.writeEvent i k b).pending = s.pending := by
  simp [State.writeEvent]

@[simp] theorem flushLost_keeps (s : State) (i : Nat) (st : InstState) :
    (s.flushLost i st).now = s.now ∧ (s.flushLost i st).free = s.free ∧ (s.flushLost i st).power = s.power ∧
      (s.flushLost i st).mem = s.mem ∧ (s.flushLost i st).boot = s.boot ∧ (s.flushLost i st).evt = s.evt ∧
      (s.flushLost i st).module_ = s.module_ ∧ (s.flushLost i st).bounds = s.bounds ∧ (s.flushLost i st).dechan = s.dechan ∧
      (s.flushLost i st).time = s.time ∧ (s.flushLost i st).flow = s.flow ∧ (s.flushLost i st).cls = s.cls ∧
      (s.flushLost i st).sw = s.sw ∧ (s.flushLost i st).sched = s.sched ∧ (s.flushLost i st).ciph = s.ciph ∧
      (s.flushLost i st).ports = s.ports ∧ (s.flushLost i st).alm = s.alm ∧ (s.flushLost i st).reflex = s.reflex ∧
      (s.flushLost i st).recd = s.recd ∧ (s.flushLost i st).helm = s.helm ∧ (s.flushLost i st).dram = s.dram ∧
      (s.flushLost i st).snap = s.snap ∧ (s.flushLost i st).pending = s.pending := by
  simp only [State.flushLost]
  split <;> simp

@[simp] theorem instEventIn_keeps (s : State) (i : Nat) (st : InstState) (k : Nat) (b : Bytes) :
    (s.instEventIn i st k b).now = s.now ∧ (s.instEventIn i st k b).free = s.free ∧
      (s.instEventIn i st k b).power = s.power ∧ (s.instEventIn i st k b).mem = s.mem ∧
      (s.instEventIn i st k b).boot = s.boot ∧ (s.instEventIn i st k b).evt = s.evt ∧
      (s.instEventIn i st k b).module_ = s.module_ ∧ (s.instEventIn i st k b).bounds = s.bounds ∧
      (s.instEventIn i st k b).dechan = s.dechan ∧ (s.instEventIn i st k b).time = s.time ∧
      (s.instEventIn i st k b).flow = s.flow ∧ (s.instEventIn i st k b).cls = s.cls ∧ (s.instEventIn i st k b).sw = s.sw ∧
      (s.instEventIn i st k b).sched = s.sched ∧ (s.instEventIn i st k b).ciph = s.ciph ∧
      (s.instEventIn i st k b).ports = s.ports ∧ (s.instEventIn i st k b).alm = s.alm ∧
      (s.instEventIn i st k b).reflex = s.reflex ∧ (s.instEventIn i st k b).recd = s.recd ∧
      (s.instEventIn i st k b).helm = s.helm ∧ (s.instEventIn i st k b).dram = s.dram ∧
      (s.instEventIn i st k b).snap = s.snap ∧ (s.instEventIn i st k b).pending = s.pending := by
  simp only [State.instEventIn]
  split <;> simp

@[simp] theorem instEvent_keeps (s : State) (i k : Nat) (b : Bytes) :
    (s.instEvent i k b).now = s.now ∧ (s.instEvent i k b).free = s.free ∧ (s.instEvent i k b).power = s.power ∧
      (s.instEvent i k b).mem = s.mem ∧ (s.instEvent i k b).boot = s.boot ∧ (s.instEvent i k b).evt = s.evt ∧
      (s.instEvent i k b).module_ = s.module_ ∧ (s.instEvent i k b).bounds = s.bounds ∧ (s.instEvent i k b).dechan = s.dechan ∧
      (s.instEvent i k b).time = s.time ∧ (s.instEvent i k b).flow = s.flow ∧ (s.instEvent i k b).cls = s.cls ∧
      (s.instEvent i k b).sw = s.sw ∧ (s.instEvent i k b).sched = s.sched ∧ (s.instEvent i k b).ciph = s.ciph ∧
      (s.instEvent i k b).ports = s.ports ∧ (s.instEvent i k b).alm = s.alm ∧ (s.instEvent i k b).reflex = s.reflex ∧
      (s.instEvent i k b).recd = s.recd ∧ (s.instEvent i k b).helm = s.helm ∧ (s.instEvent i k b).dram = s.dram ∧
      (s.instEvent i k b).snap = s.snap ∧ (s.instEvent i k b).pending = s.pending := by
  simp [State.instEvent]

@[simp] theorem actCount_keeps (s : State) (k : Nat) :
    (s.actCount k).now = s.now ∧ (s.actCount k).free = s.free ∧ (s.actCount k).host = s.host ∧
      (s.actCount k).power = s.power ∧ (s.actCount k).mem = s.mem ∧ (s.actCount k).boot = s.boot ∧ (s.actCount k).err = s.err ∧
      (s.actCount k).evt = s.evt ∧ (s.actCount k).module_ = s.module_ ∧ (s.actCount k).insts = s.insts ∧
      (s.actCount k).bounds = s.bounds ∧ (s.actCount k).rings = s.rings ∧ (s.actCount k).dechan = s.dechan ∧
      (s.actCount k).mig = s.mig ∧ (s.actCount k).time = s.time ∧ (s.actCount k).flow = s.flow ∧ (s.actCount k).cls = s.cls ∧
      (s.actCount k).sched = s.sched ∧ (s.actCount k).ciph = s.ciph ∧ (s.actCount k).ports = s.ports ∧
      (s.actCount k).alm = s.alm ∧ (s.actCount k).reflex = s.reflex ∧ (s.actCount k).recd = s.recd ∧
      (s.actCount k).helm = s.helm ∧ (s.actCount k).dram = s.dram ∧ (s.actCount k).snap = s.snap ∧ (s.actCount k).out = s.out ∧
      (s.actCount k).pending = s.pending := by
  simp [State.actCount]

@[simp] theorem writeInPlace_keeps (s : State) (w : Waiting) :
    (s.writeInPlace w).now = s.now ∧ (s.writeInPlace w).free = s.free ∧ (s.writeInPlace w).power = s.power ∧
      (s.writeInPlace w).mem = s.mem ∧ (s.writeInPlace w).boot = s.boot ∧ (s.writeInPlace w).evt = s.evt ∧
      (s.writeInPlace w).module_ = s.module_ ∧ (s.writeInPlace w).insts = s.insts ∧ (s.writeInPlace w).bounds = s.bounds ∧
      (s.writeInPlace w).dechan = s.dechan ∧ (s.writeInPlace w).time = s.time ∧ (s.writeInPlace w).flow = s.flow ∧
      (s.writeInPlace w).cls = s.cls ∧ (s.writeInPlace w).sw = s.sw ∧ (s.writeInPlace w).sched = s.sched ∧
      (s.writeInPlace w).ciph = s.ciph ∧ (s.writeInPlace w).ports = s.ports ∧ (s.writeInPlace w).alm = s.alm ∧
      (s.writeInPlace w).reflex = s.reflex ∧ (s.writeInPlace w).recd = s.recd ∧ (s.writeInPlace w).helm = s.helm ∧
      (s.writeInPlace w).dram = s.dram ∧ (s.writeInPlace w).snap = s.snap ∧ (s.writeInPlace w).pending = s.pending := by
  simp [State.writeInPlace]

@[simp] theorem releaseInPlace_keeps (s : State) (n r : Nat) :
    (State.releaseInPlace n r s).now = s.now ∧ (State.releaseInPlace n r s).free = s.free ∧
      (State.releaseInPlace n r s).power = s.power ∧ (State.releaseInPlace n r s).mem = s.mem ∧
      (State.releaseInPlace n r s).boot = s.boot ∧ (State.releaseInPlace n r s).evt = s.evt ∧
      (State.releaseInPlace n r s).module_ = s.module_ ∧ (State.releaseInPlace n r s).insts = s.insts ∧
      (State.releaseInPlace n r s).bounds = s.bounds ∧ (State.releaseInPlace n r s).dechan = s.dechan ∧
      (State.releaseInPlace n r s).time = s.time ∧ (State.releaseInPlace n r s).flow = s.flow ∧
      (State.releaseInPlace n r s).cls = s.cls ∧ (State.releaseInPlace n r s).sw = s.sw ∧
      (State.releaseInPlace n r s).sched = s.sched ∧ (State.releaseInPlace n r s).ciph = s.ciph ∧
      (State.releaseInPlace n r s).ports = s.ports ∧ (State.releaseInPlace n r s).alm = s.alm ∧
      (State.releaseInPlace n r s).reflex = s.reflex ∧ (State.releaseInPlace n r s).recd = s.recd ∧
      (State.releaseInPlace n r s).helm = s.helm ∧ (State.releaseInPlace n r s).dram = s.dram ∧
      (State.releaseInPlace n r s).snap = s.snap ∧ (State.releaseInPlace n r s).pending = s.pending := by
  induction n generalizing s with
  | zero => simp [State.releaseInPlace]
  | succ n ih => cases hw : List.find? (fun w => w.idx == (s.ring r).oldest) (s.ring r).held <;> simp [State.releaseInPlace, hw, ih]

@[simp] theorem toComplRing_keeps (s : State) (p : Nat) (w : Waiting) :
    (s.toComplRing p w).now = s.now ∧ (s.toComplRing p w).free = s.free ∧ (s.toComplRing p w).power = s.power ∧
      (s.toComplRing p w).mem = s.mem ∧ (s.toComplRing p w).boot = s.boot ∧ (s.toComplRing p w).evt = s.evt ∧
      (s.toComplRing p w).module_ = s.module_ ∧ (s.toComplRing p w).insts = s.insts ∧ (s.toComplRing p w).bounds = s.bounds ∧
      (s.toComplRing p w).dechan = s.dechan ∧ (s.toComplRing p w).time = s.time ∧ (s.toComplRing p w).flow = s.flow ∧
      (s.toComplRing p w).cls = s.cls ∧ (s.toComplRing p w).sw = s.sw ∧ (s.toComplRing p w).sched = s.sched ∧
      (s.toComplRing p w).ciph = s.ciph ∧ (s.toComplRing p w).ports = s.ports ∧ (s.toComplRing p w).alm = s.alm ∧
      (s.toComplRing p w).reflex = s.reflex ∧ (s.toComplRing p w).recd = s.recd ∧ (s.toComplRing p w).helm = s.helm ∧
      (s.toComplRing p w).dram = s.dram ∧ (s.toComplRing p w).snap = s.snap ∧ (s.toComplRing p w).pending = s.pending := by
  simp only [State.toComplRing]
  (repeat' split) <;> simp

@[simp] theorem markSwitch_keeps (s : State) (r : Nat) :
    (s.markSwitch r).now = s.now ∧ (s.markSwitch r).free = s.free ∧ (s.markSwitch r).power = s.power ∧
      (s.markSwitch r).mem = s.mem ∧ (s.markSwitch r).boot = s.boot ∧ (s.markSwitch r).evt = s.evt ∧
      (s.markSwitch r).module_ = s.module_ ∧ (s.markSwitch r).insts = s.insts ∧ (s.markSwitch r).bounds = s.bounds ∧
      (s.markSwitch r).dechan = s.dechan ∧ (s.markSwitch r).time = s.time ∧ (s.markSwitch r).flow = s.flow ∧
      (s.markSwitch r).cls = s.cls ∧ (s.markSwitch r).sw = s.sw ∧ (s.markSwitch r).sched = s.sched ∧
      (s.markSwitch r).ciph = s.ciph ∧ (s.markSwitch r).ports = s.ports ∧ (s.markSwitch r).alm = s.alm ∧
      (s.markSwitch r).reflex = s.reflex ∧ (s.markSwitch r).recd = s.recd ∧ (s.markSwitch r).helm = s.helm ∧
      (s.markSwitch r).dram = s.dram ∧ (s.markSwitch r).snap = s.snap ∧ (s.markSwitch r).pending = s.pending := by
  simp only [State.markSwitch]
  (repeat' split) <;> simp

@[simp] theorem completeDesc_keeps (s : State) (r : Nat) (d : Desc) (b : Bytes) :
    (s.completeDesc r d b).now = s.now ∧ (s.completeDesc r d b).free = s.free ∧ (s.completeDesc r d b).power = s.power ∧
      (s.completeDesc r d b).mem = s.mem ∧ (s.completeDesc r d b).boot = s.boot ∧ (s.completeDesc r d b).evt = s.evt ∧
      (s.completeDesc r d b).module_ = s.module_ ∧ (s.completeDesc r d b).insts = s.insts ∧
      (s.completeDesc r d b).bounds = s.bounds ∧ (s.completeDesc r d b).dechan = s.dechan ∧
      (s.completeDesc r d b).time = s.time ∧ (s.completeDesc r d b).flow = s.flow ∧ (s.completeDesc r d b).cls = s.cls ∧
      (s.completeDesc r d b).sw = s.sw ∧ (s.completeDesc r d b).sched = s.sched ∧ (s.completeDesc r d b).ciph = s.ciph ∧
      (s.completeDesc r d b).ports = s.ports ∧ (s.completeDesc r d b).alm = s.alm ∧ (s.completeDesc r d b).reflex = s.reflex ∧
      (s.completeDesc r d b).recd = s.recd ∧ (s.completeDesc r d b).helm = s.helm ∧ (s.completeDesc r d b).dram = s.dram ∧
      (s.completeDesc r d b).snap = s.snap ∧ (s.completeDesc r d b).pending = s.pending := by
  simp only [State.completeDesc]
  (repeat' split) <;> simp

@[simp] theorem setNode_keeps (s : State) (i : Nat) (n : Node) :
    (s.setNode i n).now = s.now ∧ (s.setNode i n).free = s.free ∧ (s.setNode i n).host = s.host ∧
      (s.setNode i n).power = s.power ∧ (s.setNode i n).mem = s.mem ∧ (s.setNode i n).boot = s.boot ∧
      (s.setNode i n).err = s.err ∧ (s.setNode i n).evt = s.evt ∧ (s.setNode i n).module_ = s.module_ ∧
      (s.setNode i n).insts = s.insts ∧ (s.setNode i n).bounds = s.bounds ∧ (s.setNode i n).rings = s.rings ∧
      (s.setNode i n).dechan = s.dechan ∧ (s.setNode i n).mig = s.mig ∧ (s.setNode i n).time = s.time ∧
      (s.setNode i n).flow = s.flow ∧ (s.setNode i n).cls = s.cls ∧ (s.setNode i n).sw = s.sw ∧ (s.setNode i n).ciph = s.ciph ∧
      (s.setNode i n).ports = s.ports ∧ (s.setNode i n).alm = s.alm ∧ (s.setNode i n).reflex = s.reflex ∧
      (s.setNode i n).recd = s.recd ∧ (s.setNode i n).helm = s.helm ∧ (s.setNode i n).dram = s.dram ∧
      (s.setNode i n).snap = s.snap ∧ (s.setNode i n).out = s.out ∧ (s.setNode i n).pending = s.pending := by
  simp [State.setNode]

@[simp] theorem occUp_keeps (s : State) (i n : Nat) :
    (s.occUp i n).now = s.now ∧ (s.occUp i n).free = s.free ∧ (s.occUp i n).host = s.host ∧ (s.occUp i n).power = s.power ∧
      (s.occUp i n).mem = s.mem ∧ (s.occUp i n).boot = s.boot ∧ (s.occUp i n).err = s.err ∧ (s.occUp i n).evt = s.evt ∧
      (s.occUp i n).module_ = s.module_ ∧ (s.occUp i n).insts = s.insts ∧ (s.occUp i n).bounds = s.bounds ∧
      (s.occUp i n).rings = s.rings ∧ (s.occUp i n).dechan = s.dechan ∧ (s.occUp i n).mig = s.mig ∧
      (s.occUp i n).time = s.time ∧ (s.occUp i n).flow = s.flow ∧ (s.occUp i n).cls = s.cls ∧ (s.occUp i n).sw = s.sw ∧
      (s.occUp i n).ciph = s.ciph ∧ (s.occUp i n).ports = s.ports ∧ (s.occUp i n).alm = s.alm ∧
      (s.occUp i n).reflex = s.reflex ∧ (s.occUp i n).recd = s.recd ∧ (s.occUp i n).helm = s.helm ∧
      (s.occUp i n).dram = s.dram ∧ (s.occUp i n).snap = s.snap ∧ (s.occUp i n).out = s.out ∧ (s.occUp i n).pending = s.pending := by
  simp [State.occUp]

@[simp] theorem occDown_keeps (s : State) (i n : Nat) :
    (s.occDown i n).now = s.now ∧ (s.occDown i n).free = s.free ∧ (s.occDown i n).host = s.host ∧
      (s.occDown i n).power = s.power ∧ (s.occDown i n).mem = s.mem ∧ (s.occDown i n).boot = s.boot ∧
      (s.occDown i n).err = s.err ∧ (s.occDown i n).evt = s.evt ∧ (s.occDown i n).module_ = s.module_ ∧
      (s.occDown i n).insts = s.insts ∧ (s.occDown i n).bounds = s.bounds ∧ (s.occDown i n).rings = s.rings ∧
      (s.occDown i n).dechan = s.dechan ∧ (s.occDown i n).mig = s.mig ∧ (s.occDown i n).time = s.time ∧
      (s.occDown i n).flow = s.flow ∧ (s.occDown i n).cls = s.cls ∧ (s.occDown i n).sw = s.sw ∧ (s.occDown i n).ciph = s.ciph ∧
      (s.occDown i n).ports = s.ports ∧ (s.occDown i n).alm = s.alm ∧ (s.occDown i n).reflex = s.reflex ∧
      (s.occDown i n).recd = s.recd ∧ (s.occDown i n).helm = s.helm ∧ (s.occDown i n).dram = s.dram ∧
      (s.occDown i n).snap = s.snap ∧ (s.occDown i n).out = s.out ∧ (s.occDown i n).pending = s.pending := by
  simp [State.occDown]

@[simp] theorem freeCells_keeps (s : State) (n : Nat) (d : Bool) :
    (s.freeCells n d).now = s.now ∧ (s.freeCells n d).free = s.free ∧ (s.freeCells n d).host = s.host ∧
      (s.freeCells n d).power = s.power ∧ (s.freeCells n d).mem = s.mem ∧ (s.freeCells n d).boot = s.boot ∧
      (s.freeCells n d).err = s.err ∧ (s.freeCells n d).evt = s.evt ∧ (s.freeCells n d).module_ = s.module_ ∧
      (s.freeCells n d).insts = s.insts ∧ (s.freeCells n d).bounds = s.bounds ∧ (s.freeCells n d).rings = s.rings ∧
      (s.freeCells n d).dechan = s.dechan ∧ (s.freeCells n d).mig = s.mig ∧ (s.freeCells n d).time = s.time ∧
      (s.freeCells n d).flow = s.flow ∧ (s.freeCells n d).cls = s.cls ∧ (s.freeCells n d).sw = s.sw ∧
      (s.freeCells n d).ciph = s.ciph ∧ (s.freeCells n d).ports = s.ports ∧ (s.freeCells n d).alm = s.alm ∧
      (s.freeCells n d).reflex = s.reflex ∧ (s.freeCells n d).recd = s.recd ∧ (s.freeCells n d).helm = s.helm ∧
      (s.freeCells n d).dram = s.dram ∧ (s.freeCells n d).snap = s.snap ∧ (s.freeCells n d).out = s.out ∧
      (s.freeCells n d).pending = s.pending := by
  simp only [State.freeCells]
  split <;> simp

@[simp] theorem releaseCells_keeps (s : State) (h n : Nat) (d : Bool) :
    (s.releaseCells h n d).now = s.now ∧ (s.releaseCells h n d).free = s.free ∧ (s.releaseCells h n d).host = s.host ∧
      (s.releaseCells h n d).power = s.power ∧ (s.releaseCells h n d).mem = s.mem ∧ (s.releaseCells h n d).boot = s.boot ∧
      (s.releaseCells h n d).err = s.err ∧ (s.releaseCells h n d).evt = s.evt ∧ (s.releaseCells h n d).module_ = s.module_ ∧
      (s.releaseCells h n d).insts = s.insts ∧ (s.releaseCells h n d).bounds = s.bounds ∧
      (s.releaseCells h n d).rings = s.rings ∧ (s.releaseCells h n d).dechan = s.dechan ∧ (s.releaseCells h n d).mig = s.mig ∧
      (s.releaseCells h n d).time = s.time ∧ (s.releaseCells h n d).flow = s.flow ∧ (s.releaseCells h n d).cls = s.cls ∧
      (s.releaseCells h n d).sw = s.sw ∧ (s.releaseCells h n d).ciph = s.ciph ∧ (s.releaseCells h n d).ports = s.ports ∧
      (s.releaseCells h n d).alm = s.alm ∧ (s.releaseCells h n d).reflex = s.reflex ∧ (s.releaseCells h n d).recd = s.recd ∧
      (s.releaseCells h n d).helm = s.helm ∧ (s.releaseCells h n d).dram = s.dram ∧ (s.releaseCells h n d).snap = s.snap ∧
      (s.releaseCells h n d).out = s.out ∧ (s.releaseCells h n d).pending = s.pending := by
  simp only [State.releaseCells]
  (repeat' split) <;> simp

@[simp] theorem freeRx_keeps (s : State) (r : Nat) (f : RxFrame) :
    (s.freeRx r f).now = s.now ∧ (s.freeRx r f).free = s.free ∧ (s.freeRx r f).host = s.host ∧
      (s.freeRx r f).power = s.power ∧ (s.freeRx r f).mem = s.mem ∧ (s.freeRx r f).boot = s.boot ∧ (s.freeRx r f).err = s.err ∧
      (s.freeRx r f).evt = s.evt ∧ (s.freeRx r f).module_ = s.module_ ∧ (s.freeRx r f).insts = s.insts ∧
      (s.freeRx r f).bounds = s.bounds ∧ (s.freeRx r f).rings = s.rings ∧ (s.freeRx r f).dechan = s.dechan ∧
      (s.freeRx r f).mig = s.mig ∧ (s.freeRx r f).time = s.time ∧ (s.freeRx r f).flow = s.flow ∧ (s.freeRx r f).cls = s.cls ∧
      (s.freeRx r f).sw = s.sw ∧ (s.freeRx r f).ciph = s.ciph ∧ (s.freeRx r f).ports = s.ports ∧ (s.freeRx r f).alm = s.alm ∧
      (s.freeRx r f).reflex = s.reflex ∧ (s.freeRx r f).recd = s.recd ∧ (s.freeRx r f).helm = s.helm ∧
      (s.freeRx r f).dram = s.dram ∧ (s.freeRx r f).snap = s.snap ∧ (s.freeRx r f).out = s.out ∧
      (s.freeRx r f).pending = s.pending := by
  simp [State.freeRx]

@[simp] theorem descEnd_keeps (s : State) (d : Option (Nat × BitVec 16)) (g n : Nat) (f : FrameFate) :
    (s.descEnd d g n f).now = s.now ∧ (s.descEnd d g n f).free = s.free ∧ (s.descEnd d g n f).power = s.power ∧
      (s.descEnd d g n f).mem = s.mem ∧ (s.descEnd d g n f).boot = s.boot ∧ (s.descEnd d g n f).evt = s.evt ∧
      (s.descEnd d g n f).module_ = s.module_ ∧ (s.descEnd d g n f).insts = s.insts ∧ (s.descEnd d g n f).bounds = s.bounds ∧
      (s.descEnd d g n f).dechan = s.dechan ∧ (s.descEnd d g n f).time = s.time ∧ (s.descEnd d g n f).flow = s.flow ∧
      (s.descEnd d g n f).cls = s.cls ∧ (s.descEnd d g n f).sw = s.sw ∧ (s.descEnd d g n f).sched = s.sched ∧
      (s.descEnd d g n f).ciph = s.ciph ∧ (s.descEnd d g n f).ports = s.ports ∧ (s.descEnd d g n f).alm = s.alm ∧
      (s.descEnd d g n f).reflex = s.reflex ∧ (s.descEnd d g n f).recd = s.recd ∧ (s.descEnd d g n f).helm = s.helm ∧
      (s.descEnd d g n f).dram = s.dram ∧ (s.descEnd d g n f).snap = s.snap ∧ (s.descEnd d g n f).pending = s.pending := by
  simp only [State.descEnd]
  (repeat' split) <;> simp

@[simp] theorem rxEnd_keeps (s : State) (f : RxFrame) (x : Option (Nat × Nat)) :
    (s.rxEnd f x).now = s.now ∧ (s.rxEnd f x).free = s.free ∧ (s.rxEnd f x).power = s.power ∧ (s.rxEnd f x).mem = s.mem ∧
      (s.rxEnd f x).boot = s.boot ∧ (s.rxEnd f x).evt = s.evt ∧ (s.rxEnd f x).module_ = s.module_ ∧
      (s.rxEnd f x).insts = s.insts ∧ (s.rxEnd f x).bounds = s.bounds ∧ (s.rxEnd f x).dechan = s.dechan ∧
      (s.rxEnd f x).time = s.time ∧ (s.rxEnd f x).flow = s.flow ∧ (s.rxEnd f x).cls = s.cls ∧ (s.rxEnd f x).sw = s.sw ∧
      (s.rxEnd f x).sched = s.sched ∧ (s.rxEnd f x).ciph = s.ciph ∧ (s.rxEnd f x).ports = s.ports ∧ (s.rxEnd f x).alm = s.alm ∧
      (s.rxEnd f x).reflex = s.reflex ∧ (s.rxEnd f x).recd = s.recd ∧ (s.rxEnd f x).helm = s.helm ∧
      (s.rxEnd f x).dram = s.dram ∧ (s.rxEnd f x).snap = s.snap ∧ (s.rxEnd f x).pending = s.pending := by
  simp [State.rxEnd]

@[simp] theorem dropFold_keeps (s : State) (r : Nat) (l : List RxFrame) (g : RxFrame → Option (Nat × Nat)) :
    ((l.foldl (fun s f => ((s.freeRx r f).actCount 7).rxEnd f (g f)) s)).now = s.now ∧
      ((l.foldl (fun s f => ((s.freeRx r f).actCount 7).rxEnd f (g f)) s)).free = s.free ∧
      ((l.foldl (fun s f => ((s.freeRx r f).actCount 7).rxEnd f (g f)) s)).power = s.power ∧
      ((l.foldl (fun s f => ((s.freeRx r f).actCount 7).rxEnd f (g f)) s)).mem = s.mem ∧
      ((l.foldl (fun s f => ((s.freeRx r f).actCount 7).rxEnd f (g f)) s)).boot = s.boot ∧
      ((l.foldl (fun s f => ((s.freeRx r f).actCount 7).rxEnd f (g f)) s)).evt = s.evt ∧
      ((l.foldl (fun s f => ((s.freeRx r f).actCount 7).rxEnd f (g f)) s)).module_ = s.module_ ∧
      ((l.foldl (fun s f => ((s.freeRx r f).actCount 7).rxEnd f (g f)) s)).insts = s.insts ∧
      ((l.foldl (fun s f => ((s.freeRx r f).actCount 7).rxEnd f (g f)) s)).bounds = s.bounds ∧
      ((l.foldl (fun s f => ((s.freeRx r f).actCount 7).rxEnd f (g f)) s)).dechan = s.dechan ∧
      ((l.foldl (fun s f => ((s.freeRx r f).actCount 7).rxEnd f (g f)) s)).time = s.time ∧
      ((l.foldl (fun s f => ((s.freeRx r f).actCount 7).rxEnd f (g f)) s)).flow = s.flow ∧
      ((l.foldl (fun s f => ((s.freeRx r f).actCount 7).rxEnd f (g f)) s)).cls = s.cls ∧
      ((l.foldl (fun s f => ((s.freeRx r f).actCount 7).rxEnd f (g f)) s)).ciph = s.ciph ∧
      ((l.foldl (fun s f => ((s.freeRx r f).actCount 7).rxEnd f (g f)) s)).ports = s.ports ∧
      ((l.foldl (fun s f => ((s.freeRx r f).actCount 7).rxEnd f (g f)) s)).alm = s.alm ∧
      ((l.foldl (fun s f => ((s.freeRx r f).actCount 7).rxEnd f (g f)) s)).reflex = s.reflex ∧
      ((l.foldl (fun s f => ((s.freeRx r f).actCount 7).rxEnd f (g f)) s)).recd = s.recd ∧
      ((l.foldl (fun s f => ((s.freeRx r f).actCount 7).rxEnd f (g f)) s)).helm = s.helm ∧
      ((l.foldl (fun s f => ((s.freeRx r f).actCount 7).rxEnd f (g f)) s)).dram = s.dram ∧
      ((l.foldl (fun s f => ((s.freeRx r f).actCount 7).rxEnd f (g f)) s)).snap = s.snap ∧
      ((l.foldl (fun s f => ((s.freeRx r f).actCount 7).rxEnd f (g f)) s)).pending = s.pending := by
  induction l generalizing s with
  | nil => simp
  | cons a l ih => simp [ih]

@[simp] theorem dropFrames_keeps (s : State) (r : Nat) :
    (s.dropFrames r).now = s.now ∧ (s.dropFrames r).free = s.free ∧ (s.dropFrames r).power = s.power ∧
      (s.dropFrames r).mem = s.mem ∧ (s.dropFrames r).boot = s.boot ∧ (s.dropFrames r).evt = s.evt ∧
      (s.dropFrames r).module_ = s.module_ ∧ (s.dropFrames r).insts = s.insts ∧ (s.dropFrames r).bounds = s.bounds ∧
      (s.dropFrames r).dechan = s.dechan ∧ (s.dropFrames r).time = s.time ∧ (s.dropFrames r).flow = s.flow ∧
      (s.dropFrames r).cls = s.cls ∧ (s.dropFrames r).ciph = s.ciph ∧ (s.dropFrames r).ports = s.ports ∧
      (s.dropFrames r).alm = s.alm ∧ (s.dropFrames r).reflex = s.reflex ∧ (s.dropFrames r).recd = s.recd ∧
      (s.dropFrames r).helm = s.helm ∧ (s.dropFrames r).dram = s.dram ∧ (s.dropFrames r).snap = s.snap ∧
      (s.dropFrames r).pending = s.pending := by
  unfold State.dropFrames
  dsimp only
  split <;> simp [dropFold_keeps s r _ (fun _ => some (6, 7)), dropFold_keeps (s.setRing r _) r _ (fun _ => some (6, 7))]

@[simp] theorem dropRxFold_keeps (s : State) (l : List Nat) :
    (l.foldl State.dropFrames s).now = s.now ∧ (l.foldl State.dropFrames s).free = s.free ∧
      (l.foldl State.dropFrames s).power = s.power ∧ (l.foldl State.dropFrames s).mem = s.mem ∧
      (l.foldl State.dropFrames s).boot = s.boot ∧ (l.foldl State.dropFrames s).evt = s.evt ∧
      (l.foldl State.dropFrames s).module_ = s.module_ ∧ (l.foldl State.dropFrames s).insts = s.insts ∧
      (l.foldl State.dropFrames s).bounds = s.bounds ∧ (l.foldl State.dropFrames s).dechan = s.dechan ∧
      (l.foldl State.dropFrames s).time = s.time ∧ (l.foldl State.dropFrames s).flow = s.flow ∧
      (l.foldl State.dropFrames s).cls = s.cls ∧ (l.foldl State.dropFrames s).ciph = s.ciph ∧
      (l.foldl State.dropFrames s).ports = s.ports ∧ (l.foldl State.dropFrames s).alm = s.alm ∧
      (l.foldl State.dropFrames s).reflex = s.reflex ∧ (l.foldl State.dropFrames s).recd = s.recd ∧
      (l.foldl State.dropFrames s).helm = s.helm ∧ (l.foldl State.dropFrames s).dram = s.dram ∧
      (l.foldl State.dropFrames s).snap = s.snap ∧ (l.foldl State.dropFrames s).pending = s.pending := by
  induction l generalizing s with
  | nil => simp
  | cons a l ih => simp [ih]

@[simp] theorem dropRx_keeps (s : State) (i : Nat) :
    (s.dropRx i).now = s.now ∧ (s.dropRx i).free = s.free ∧ (s.dropRx i).power = s.power ∧ (s.dropRx i).mem = s.mem ∧
      (s.dropRx i).boot = s.boot ∧ (s.dropRx i).evt = s.evt ∧ (s.dropRx i).module_ = s.module_ ∧ (s.dropRx i).insts = s.insts ∧
      (s.dropRx i).bounds = s.bounds ∧ (s.dropRx i).dechan = s.dechan ∧ (s.dropRx i).time = s.time ∧
      (s.dropRx i).flow = s.flow ∧ (s.dropRx i).cls = s.cls ∧ (s.dropRx i).ciph = s.ciph ∧ (s.dropRx i).ports = s.ports ∧
      (s.dropRx i).alm = s.alm ∧ (s.dropRx i).reflex = s.reflex ∧ (s.dropRx i).recd = s.recd ∧ (s.dropRx i).helm = s.helm ∧
      (s.dropRx i).dram = s.dram ∧ (s.dropRx i).snap = s.snap ∧ (s.dropRx i).pending = s.pending := by
  simp [State.dropRx]

@[simp] theorem setInstState_keeps (s : State) (i : Nat) (st : InstState) :
    (s.setInstState i st).now = s.now ∧ (s.setInstState i st).free = s.free ∧ (s.setInstState i st).power = s.power ∧
      (s.setInstState i st).mem = s.mem ∧ (s.setInstState i st).boot = s.boot ∧ (s.setInstState i st).evt = s.evt ∧
      (s.setInstState i st).module_ = s.module_ ∧ (s.setInstState i st).bounds = s.bounds ∧
      (s.setInstState i st).dechan = s.dechan ∧ (s.setInstState i st).time = s.time ∧ (s.setInstState i st).flow = s.flow ∧
      (s.setInstState i st).cls = s.cls ∧ (s.setInstState i st).ciph = s.ciph ∧ (s.setInstState i st).ports = s.ports ∧
      (s.setInstState i st).alm = s.alm ∧ (s.setInstState i st).reflex = s.reflex ∧ (s.setInstState i st).recd = s.recd ∧
      (s.setInstState i st).helm = s.helm ∧ (s.setInstState i st).dram = s.dram ∧ (s.setInstState i st).snap = s.snap ∧
      (s.setInstState i st).pending = s.pending := by
  simp only [State.setInstState]
  (repeat' split) <;> simp

@[simp] theorem logViolation_keeps (s : State) (p : Bool) (a b d e f : Nat) :
    (s.logViolation p a b d e f).now = s.now ∧ (s.logViolation p a b d e f).free = s.free ∧
      (s.logViolation p a b d e f).power = s.power ∧ (s.logViolation p a b d e f).mem = s.mem ∧
      (s.logViolation p a b d e f).boot = s.boot ∧ (s.logViolation p a b d e f).module_ = s.module_ ∧
      (s.logViolation p a b d e f).insts = s.insts ∧ (s.logViolation p a b d e f).bounds = s.bounds ∧
      (s.logViolation p a b d e f).rings = s.rings ∧ (s.logViolation p a b d e f).dechan = s.dechan ∧
      (s.logViolation p a b d e f).mig = s.mig ∧ (s.logViolation p a b d e f).time = s.time ∧
      (s.logViolation p a b d e f).flow = s.flow ∧ (s.logViolation p a b d e f).cls = s.cls ∧
      (s.logViolation p a b d e f).sw = s.sw ∧ (s.logViolation p a b d e f).sched = s.sched ∧
      (s.logViolation p a b d e f).ciph = s.ciph ∧ (s.logViolation p a b d e f).ports = s.ports ∧
      (s.logViolation p a b d e f).alm = s.alm ∧ (s.logViolation p a b d e f).reflex = s.reflex ∧
      (s.logViolation p a b d e f).recd = s.recd ∧ (s.logViolation p a b d e f).helm = s.helm ∧
      (s.logViolation p a b d e f).dram = s.dram ∧ (s.logViolation p a b d e f).snap = s.snap ∧
      (s.logViolation p a b d e f).pending = s.pending := by
  simp only [State.logViolation]
  split <;> simp

@[simp] theorem chargeViolation_keeps (s : State) (i k r a : Nat) :
    (s.chargeViolation i k r a).now = s.now ∧ (s.chargeViolation i k r a).free = s.free ∧
      (s.chargeViolation i k r a).power = s.power ∧ (s.chargeViolation i k r a).mem = s.mem ∧
      (s.chargeViolation i k r a).boot = s.boot ∧ (s.chargeViolation i k r a).evt = s.evt ∧
      (s.chargeViolation i k r a).module_ = s.module_ ∧ (s.chargeViolation i k r a).bounds = s.bounds ∧
      (s.chargeViolation i k r a).dechan = s.dechan ∧ (s.chargeViolation i k r a).time = s.time ∧
      (s.chargeViolation i k r a).flow = s.flow ∧ (s.chargeViolation i k r a).cls = s.cls ∧
      (s.chargeViolation i k r a).ciph = s.ciph ∧ (s.chargeViolation i k r a).ports = s.ports ∧
      (s.chargeViolation i k r a).alm = s.alm ∧ (s.chargeViolation i k r a).reflex = s.reflex ∧
      (s.chargeViolation i k r a).recd = s.recd ∧ (s.chargeViolation i k r a).helm = s.helm ∧
      (s.chargeViolation i k r a).dram = s.dram ∧ (s.chargeViolation i k r a).snap = s.snap ∧
      (s.chargeViolation i k r a).pending = s.pending := by
  simp only [State.chargeViolation]
  split <;> simp

@[simp] theorem violInst_keeps (s : State) (i k r d a : Nat) :
    (s.violInst i k r d a).now = s.now ∧ (s.violInst i k r d a).free = s.free ∧ (s.violInst i k r d a).power = s.power ∧
      (s.violInst i k r d a).mem = s.mem ∧ (s.violInst i k r d a).boot = s.boot ∧ (s.violInst i k r d a).module_ = s.module_ ∧
      (s.violInst i k r d a).bounds = s.bounds ∧ (s.violInst i k r d a).dechan = s.dechan ∧
      (s.violInst i k r d a).time = s.time ∧ (s.violInst i k r d a).flow = s.flow ∧ (s.violInst i k r d a).cls = s.cls ∧
      (s.violInst i k r d a).ciph = s.ciph ∧ (s.violInst i k r d a).ports = s.ports ∧ (s.violInst i k r d a).alm = s.alm ∧
      (s.violInst i k r d a).reflex = s.reflex ∧ (s.violInst i k r d a).recd = s.recd ∧ (s.violInst i k r d a).helm = s.helm ∧
      (s.violInst i k r d a).dram = s.dram ∧ (s.violInst i k r d a).snap = s.snap ∧ (s.violInst i k r d a).pending = s.pending := by
  simp [State.violInst]

@[simp] theorem violPf0_keeps (s : State) (k d a : Nat) :
    (s.violPf0 k d a).now = s.now ∧ (s.violPf0 k d a).free = s.free ∧ (s.violPf0 k d a).power = s.power ∧
      (s.violPf0 k d a).mem = s.mem ∧ (s.violPf0 k d a).boot = s.boot ∧ (s.violPf0 k d a).module_ = s.module_ ∧
      (s.violPf0 k d a).insts = s.insts ∧ (s.violPf0 k d a).bounds = s.bounds ∧ (s.violPf0 k d a).rings = s.rings ∧
      (s.violPf0 k d a).dechan = s.dechan ∧ (s.violPf0 k d a).mig = s.mig ∧ (s.violPf0 k d a).time = s.time ∧
      (s.violPf0 k d a).flow = s.flow ∧ (s.violPf0 k d a).cls = s.cls ∧ (s.violPf0 k d a).sw = s.sw ∧
      (s.violPf0 k d a).sched = s.sched ∧ (s.violPf0 k d a).ciph = s.ciph ∧ (s.violPf0 k d a).ports = s.ports ∧
      (s.violPf0 k d a).alm = s.alm ∧ (s.violPf0 k d a).reflex = s.reflex ∧ (s.violPf0 k d a).recd = s.recd ∧
      (s.violPf0 k d a).helm = s.helm ∧ (s.violPf0 k d a).dram = s.dram ∧ (s.violPf0 k d a).snap = s.snap ∧
      (s.violPf0 k d a).pending = s.pending := by
  simp [State.violPf0]

@[simp] theorem violPf1_keeps (s : State) (k d a : Nat) :
    (s.violPf1 k d a).now = s.now ∧ (s.violPf1 k d a).free = s.free ∧ (s.violPf1 k d a).power = s.power ∧
      (s.violPf1 k d a).mem = s.mem ∧ (s.violPf1 k d a).boot = s.boot ∧ (s.violPf1 k d a).module_ = s.module_ ∧
      (s.violPf1 k d a).insts = s.insts ∧ (s.violPf1 k d a).bounds = s.bounds ∧ (s.violPf1 k d a).rings = s.rings ∧
      (s.violPf1 k d a).dechan = s.dechan ∧ (s.violPf1 k d a).mig = s.mig ∧ (s.violPf1 k d a).time = s.time ∧
      (s.violPf1 k d a).flow = s.flow ∧ (s.violPf1 k d a).cls = s.cls ∧ (s.violPf1 k d a).sw = s.sw ∧
      (s.violPf1 k d a).sched = s.sched ∧ (s.violPf1 k d a).ciph = s.ciph ∧ (s.violPf1 k d a).ports = s.ports ∧
      (s.violPf1 k d a).alm = s.alm ∧ (s.violPf1 k d a).reflex = s.reflex ∧ (s.violPf1 k d a).recd = s.recd ∧
      (s.violPf1 k d a).helm = s.helm ∧ (s.violPf1 k d a).dram = s.dram ∧ (s.violPf1 k d a).snap = s.snap ∧
      (s.violPf1 k d a).pending = s.pending := by
  simp [State.violPf1]

@[simp] theorem violBounds_keeps (s : State) (r a : Nat) :
    (s.violBounds r a).now = s.now ∧ (s.violBounds r a).free = s.free ∧ (s.violBounds r a).power = s.power ∧
      (s.violBounds r a).mem = s.mem ∧ (s.violBounds r a).boot = s.boot ∧ (s.violBounds r a).module_ = s.module_ ∧
      (s.violBounds r a).bounds = s.bounds ∧ (s.violBounds r a).dechan = s.dechan ∧ (s.violBounds r a).time = s.time ∧
      (s.violBounds r a).flow = s.flow ∧ (s.violBounds r a).cls = s.cls ∧ (s.violBounds r a).ciph = s.ciph ∧
      (s.violBounds r a).ports = s.ports ∧ (s.violBounds r a).alm = s.alm ∧ (s.violBounds r a).reflex = s.reflex ∧
      (s.violBounds r a).recd = s.recd ∧ (s.violBounds r a).helm = s.helm ∧ (s.violBounds r a).dram = s.dram ∧
      (s.violBounds r a).snap = s.snap ∧ (s.violBounds r a).pending = s.pending := by
  simp only [State.violBounds]
  split <;> simp

@[simp] theorem ringError_keeps (s : State) (r : Nat) (k : BitVec 16) (n : Nat) :
    (s.ringError r k n).now = s.now ∧ (s.ringError r k n).free = s.free ∧ (s.ringError r k n).power = s.power ∧
      (s.ringError r k n).mem = s.mem ∧ (s.ringError r k n).boot = s.boot ∧ (s.ringError r k n).evt = s.evt ∧
      (s.ringError r k n).module_ = s.module_ ∧ (s.ringError r k n).bounds = s.bounds ∧ (s.ringError r k n).dechan = s.dechan ∧
      (s.ringError r k n).time = s.time ∧ (s.ringError r k n).flow = s.flow ∧ (s.ringError r k n).cls = s.cls ∧
      (s.ringError r k n).ciph = s.ciph ∧ (s.ringError r k n).ports = s.ports ∧ (s.ringError r k n).alm = s.alm ∧
      (s.ringError r k n).reflex = s.reflex ∧ (s.ringError r k n).recd = s.recd ∧ (s.ringError r k n).helm = s.helm ∧
      (s.ringError r k n).dram = s.dram ∧ (s.ringError r k n).snap = s.snap ∧ (s.ringError r k n).pending = s.pending := by
  simp only [State.ringError]
  (repeat' split) <;> simp

@[simp] theorem forgetDescs_keeps (s : State) (p : Nat → Bool) :
    (s.forgetDescs p).now = s.now ∧ (s.forgetDescs p).free = s.free ∧ (s.forgetDescs p).host = s.host ∧
      (s.forgetDescs p).power = s.power ∧ (s.forgetDescs p).mem = s.mem ∧ (s.forgetDescs p).boot = s.boot ∧
      (s.forgetDescs p).err = s.err ∧ (s.forgetDescs p).evt = s.evt ∧ (s.forgetDescs p).module_ = s.module_ ∧
      (s.forgetDescs p).insts = s.insts ∧ (s.forgetDescs p).bounds = s.bounds ∧ (s.forgetDescs p).dechan = s.dechan ∧
      (s.forgetDescs p).mig = s.mig ∧ (s.forgetDescs p).time = s.time ∧ (s.forgetDescs p).flow = s.flow ∧
      (s.forgetDescs p).cls = s.cls ∧ (s.forgetDescs p).sw = s.sw ∧ (s.forgetDescs p).alm = s.alm ∧
      (s.forgetDescs p).reflex = s.reflex ∧ (s.forgetDescs p).recd = s.recd ∧ (s.forgetDescs p).helm = s.helm ∧
      (s.forgetDescs p).dram = s.dram ∧ (s.forgetDescs p).snap = s.snap ∧ (s.forgetDescs p).out = s.out ∧
      (s.forgetDescs p).pending = s.pending := by
  simp [State.forgetDescs]

@[simp] theorem alertSettle_keeps (s : State) :
    s.alertSettle.now = s.now ∧ s.alertSettle.free = s.free ∧ s.alertSettle.host = s.host ∧ s.alertSettle.power = s.power ∧
      s.alertSettle.mem = s.mem ∧ s.alertSettle.boot = s.boot ∧ s.alertSettle.err = s.err ∧ s.alertSettle.evt = s.evt ∧
      s.alertSettle.insts = s.insts ∧ s.alertSettle.bounds = s.bounds ∧ s.alertSettle.rings = s.rings ∧
      s.alertSettle.dechan = s.dechan ∧ s.alertSettle.mig = s.mig ∧ s.alertSettle.time = s.time ∧ s.alertSettle.flow = s.flow ∧
      s.alertSettle.cls = s.cls ∧ s.alertSettle.sw = s.sw ∧ s.alertSettle.sched = s.sched ∧ s.alertSettle.ciph = s.ciph ∧
      s.alertSettle.ports = s.ports ∧ s.alertSettle.alm = s.alm ∧ s.alertSettle.reflex = s.reflex ∧
      s.alertSettle.recd = s.recd ∧ s.alertSettle.helm = s.helm ∧ s.alertSettle.dram = s.dram ∧ s.alertSettle.snap = s.snap ∧
      s.alertSettle.pending = s.pending := by
  simp only [State.alertSettle]
  (repeat' split) <;> simp

end Sys2Proof.Machine
end

