-- ==== Sys2Proof/Laws/Dechan.lean ====
section
/-!
SUPPORT. Laws/Dechan.lean: what the acceptance of a Dechan command and its reply leave unchanged, and how a command that is
ready is carried out.
-/

set_option Elab.async false
namespace Sys2Proof.Machine

open Sys2Proof

@[simp] theorem accept_keeps (s : State) (o : Op) (c : Cmd) :
    (s.accept o c).now = s.now ∧ (s.accept o c).free = s.free ∧ (s.accept o c).power = s.power ∧ (s.accept o c).mem = s.mem ∧
      (s.accept o c).boot = s.boot ∧ (s.accept o c).evt = s.evt ∧ (s.accept o c).module_ = s.module_ ∧
      (s.accept o c).insts = s.insts ∧ (s.accept o c).bounds = s.bounds ∧ (s.accept o c).time = s.time ∧
      (s.accept o c).flow = s.flow ∧ (s.accept o c).cls = s.cls ∧ (s.accept o c).sw = s.sw ∧ (s.accept o c).sched = s.sched ∧
      (s.accept o c).ciph = s.ciph ∧ (s.accept o c).ports = s.ports ∧ (s.accept o c).alm = s.alm ∧
      (s.accept o c).reflex = s.reflex ∧ (s.accept o c).recd = s.recd ∧ (s.accept o c).helm = s.helm ∧
      (s.accept o c).dram = s.dram ∧ (s.accept o c).snap = s.snap ∧ (s.accept o c).pending = s.pending := by
  simp [State.accept]

@[simp] theorem logReply_keeps (s : State) (a : Accepted) (x y : Nat) (l : Bool) :
    (s.logReply a x y l).now = s.now ∧ (s.logReply a x y l).free = s.free ∧ (s.logReply a x y l).host = s.host ∧
      (s.logReply a x y l).power = s.power ∧ (s.logReply a x y l).mem = s.mem ∧ (s.logReply a x y l).boot = s.boot ∧
      (s.logReply a x y l).err = s.err ∧ (s.logReply a x y l).evt = s.evt ∧ (s.logReply a x y l).module_ = s.module_ ∧
      (s.logReply a x y l).insts = s.insts ∧ (s.logReply a x y l).bounds = s.bounds ∧ (s.logReply a x y l).rings = s.rings ∧
      (s.logReply a x y l).mig = s.mig ∧ (s.logReply a x y l).time = s.time ∧ (s.logReply a x y l).flow = s.flow ∧
      (s.logReply a x y l).cls = s.cls ∧ (s.logReply a x y l).sw = s.sw ∧ (s.logReply a x y l).sched = s.sched ∧
      (s.logReply a x y l).ciph = s.ciph ∧ (s.logReply a x y l).ports = s.ports ∧ (s.logReply a x y l).alm = s.alm ∧
      (s.logReply a x y l).reflex = s.reflex ∧ (s.logReply a x y l).recd = s.recd ∧ (s.logReply a x y l).helm = s.helm ∧
      (s.logReply a x y l).dram = s.dram ∧ (s.logReply a x y l).snap = s.snap ∧ (s.logReply a x y l).out = s.out ∧
      (s.logReply a x y l).pending = s.pending := by
  simp [State.logReply]

@[simp] theorem replySignal_keeps (s : State) (r : Nat) (q : Bool) :
    (s.replySignal r q).now = s.now ∧ (s.replySignal r q).free = s.free ∧ (s.replySignal r q).power = s.power ∧
      (s.replySignal r q).mem = s.mem ∧ (s.replySignal r q).boot = s.boot ∧ (s.replySignal r q).evt = s.evt ∧
      (s.replySignal r q).module_ = s.module_ ∧ (s.replySignal r q).insts = s.insts ∧ (s.replySignal r q).bounds = s.bounds ∧
      (s.replySignal r q).dechan = s.dechan ∧ (s.replySignal r q).mig = s.mig ∧ (s.replySignal r q).time = s.time ∧
      (s.replySignal r q).flow = s.flow ∧ (s.replySignal r q).cls = s.cls ∧ (s.replySignal r q).sw = s.sw ∧
      (s.replySignal r q).sched = s.sched ∧ (s.replySignal r q).ciph = s.ciph ∧ (s.replySignal r q).ports = s.ports ∧
      (s.replySignal r q).alm = s.alm ∧ (s.replySignal r q).reflex = s.reflex ∧ (s.replySignal r q).recd = s.recd ∧
      (s.replySignal r q).helm = s.helm ∧ (s.replySignal r q).dram = s.dram ∧ (s.replySignal r q).snap = s.snap ∧
      (s.replySignal r q).pending = s.pending := by
  simp only [State.replySignal]
  (repeat' split) <;> simp

@[simp] theorem ringWindDown_keeps (s : State) (r : Nat) :
    (s.ringWindDown r).now = s.now ∧ (s.ringWindDown r).free = s.free ∧ (s.ringWindDown r).host = s.host ∧
      (s.ringWindDown r).power = s.power ∧ (s.ringWindDown r).mem = s.mem ∧ (s.ringWindDown r).boot = s.boot ∧
      (s.ringWindDown r).err = s.err ∧ (s.ringWindDown r).evt = s.evt ∧ (s.ringWindDown r).module_ = s.module_ ∧
      (s.ringWindDown r).insts = s.insts ∧ (s.ringWindDown r).bounds = s.bounds ∧ (s.ringWindDown r).dechan = s.dechan ∧
      (s.ringWindDown r).mig = s.mig ∧ (s.ringWindDown r).time = s.time ∧ (s.ringWindDown r).flow = s.flow ∧
      (s.ringWindDown r).cls = s.cls ∧ (s.ringWindDown r).sw = s.sw ∧ (s.ringWindDown r).sched = s.sched ∧
      (s.ringWindDown r).ciph = s.ciph ∧ (s.ringWindDown r).ports = s.ports ∧ (s.ringWindDown r).alm = s.alm ∧
      (s.ringWindDown r).reflex = s.reflex ∧ (s.ringWindDown r).recd = s.recd ∧ (s.ringWindDown r).helm = s.helm ∧
      (s.ringWindDown r).dram = s.dram ∧ (s.ringWindDown r).snap = s.snap ∧ (s.ringWindDown r).out = s.out ∧
      (s.ringWindDown r).pending = s.pending := by
  simp only [State.ringWindDown]
  split <;> simp

@[simp] theorem reply_keeps (s : State) (a : Accepted) (x y : Nat) (d b : Bytes) :
    (s.reply a x y d b).now = s.now ∧ (s.reply a x y d b).free = s.free ∧ (s.reply a x y d b).power = s.power ∧
      (s.reply a x y d b).mem = s.mem ∧ (s.reply a x y d b).boot = s.boot ∧ (s.reply a x y d b).evt = s.evt ∧
      (s.reply a x y d b).module_ = s.module_ ∧ (s.reply a x y d b).insts = s.insts ∧ (s.reply a x y d b).bounds = s.bounds ∧
      (s.reply a x y d b).time = s.time ∧ (s.reply a x y d b).flow = s.flow ∧ (s.reply a x y d b).cls = s.cls ∧
      (s.reply a x y d b).sw = s.sw ∧ (s.reply a x y d b).sched = s.sched ∧ (s.reply a x y d b).ciph = s.ciph ∧
      (s.reply a x y d b).ports = s.ports ∧ (s.reply a x y d b).alm = s.alm ∧ (s.reply a x y d b).reflex = s.reflex ∧
      (s.reply a x y d b).recd = s.recd ∧ (s.reply a x y d b).helm = s.helm ∧ (s.reply a x y d b).dram = s.dram ∧
      (s.reply a x y d b).snap = s.snap ∧ (s.reply a x y d b).pending = s.pending := by
  simp only [State.reply]
  (repeat' split) <;> simp

@[simp] theorem replyFold_keeps (s : State) (l : List Accepted) (x y : Nat) :
    ((l.foldl (fun s a => s.reply a x y [] []) s)).now = s.now ∧
      ((l.foldl (fun s a => s.reply a x y [] []) s)).free = s.free ∧
      ((l.foldl (fun s a => s.reply a x y [] []) s)).power = s.power ∧
      ((l.foldl (fun s a => s.reply a x y [] []) s)).mem = s.mem ∧
      ((l.foldl (fun s a => s.reply a x y [] []) s)).boot = s.boot ∧
      ((l.foldl (fun s a => s.reply a x y [] []) s)).evt = s.evt ∧
      ((l.foldl (fun s a => s.reply a x y [] []) s)).module_ = s.module_ ∧
      ((l.foldl (fun s a => s.reply a x y [] []) s)).insts = s.insts ∧
      ((l.foldl (fun s a => s.reply a x y [] []) s)).bounds = s.bounds ∧
      ((l.foldl (fun s a => s.reply a x y [] []) s)).time = s.time ∧
      ((l.foldl (fun s a => s.reply a x y [] []) s)).flow = s.flow ∧
      ((l.foldl (fun s a => s.reply a x y [] []) s)).cls = s.cls ∧ ((l.foldl (fun s a => s.reply a x y [] []) s)).sw = s.sw ∧
      ((l.foldl (fun s a => s.reply a x y [] []) s)).sched = s.sched ∧
      ((l.foldl (fun s a => s.reply a x y [] []) s)).ciph = s.ciph ∧
      ((l.foldl (fun s a => s.reply a x y [] []) s)).ports = s.ports ∧
      ((l.foldl (fun s a => s.reply a x y [] []) s)).alm = s.alm ∧
      ((l.foldl (fun s a => s.reply a x y [] []) s)).reflex = s.reflex ∧
      ((l.foldl (fun s a => s.reply a x y [] []) s)).recd = s.recd ∧
      ((l.foldl (fun s a => s.reply a x y [] []) s)).helm = s.helm ∧
      ((l.foldl (fun s a => s.reply a x y [] []) s)).dram = s.dram ∧
      ((l.foldl (fun s a => s.reply a x y [] []) s)).snap = s.snap ∧
      ((l.foldl (fun s a => s.reply a x y [] []) s)).pending = s.pending := by
  induction l generalizing s with
  | nil => simp
  | cons a l ih => simp [ih]

@[simp] theorem replyAll_keeps (s : State) (p : Accepted → Bool) (x y : Nat) :
    (s.replyAll p x y).now = s.now ∧ (s.replyAll p x y).free = s.free ∧ (s.replyAll p x y).power = s.power ∧
      (s.replyAll p x y).mem = s.mem ∧ (s.replyAll p x y).boot = s.boot ∧ (s.replyAll p x y).evt = s.evt ∧
      (s.replyAll p x y).module_ = s.module_ ∧ (s.replyAll p x y).insts = s.insts ∧ (s.replyAll p x y).bounds = s.bounds ∧
      (s.replyAll p x y).time = s.time ∧ (s.replyAll p x y).flow = s.flow ∧ (s.replyAll p x y).cls = s.cls ∧
      (s.replyAll p x y).sw = s.sw ∧ (s.replyAll p x y).sched = s.sched ∧ (s.replyAll p x y).ciph = s.ciph ∧
      (s.replyAll p x y).ports = s.ports ∧ (s.replyAll p x y).alm = s.alm ∧ (s.replyAll p x y).reflex = s.reflex ∧
      (s.replyAll p x y).recd = s.recd ∧ (s.replyAll p x y).helm = s.helm ∧ (s.replyAll p x y).dram = s.dram ∧
      (s.replyAll p x y).snap = s.snap ∧ (s.replyAll p x y).pending = s.pending := by
  simp [State.replyAll]

@[simp] theorem enqueue_keeps (s : State) (o : Op) (c : Cmd) :
    (s.enqueue o c).now = s.now ∧ (s.enqueue o c).free = s.free ∧ (s.enqueue o c).power = s.power ∧
      (s.enqueue o c).mem = s.mem ∧ (s.enqueue o c).boot = s.boot ∧ (s.enqueue o c).evt = s.evt ∧
      (s.enqueue o c).module_ = s.module_ ∧ (s.enqueue o c).insts = s.insts ∧ (s.enqueue o c).bounds = s.bounds ∧
      (s.enqueue o c).time = s.time ∧ (s.enqueue o c).flow = s.flow ∧ (s.enqueue o c).cls = s.cls ∧
      (s.enqueue o c).sw = s.sw ∧ (s.enqueue o c).sched = s.sched ∧ (s.enqueue o c).ciph = s.ciph ∧
      (s.enqueue o c).ports = s.ports ∧ (s.enqueue o c).alm = s.alm ∧ (s.enqueue o c).reflex = s.reflex ∧
      (s.enqueue o c).recd = s.recd ∧ (s.enqueue o c).helm = s.helm ∧ (s.enqueue o c).dram = s.dram ∧
      (s.enqueue o c).snap = s.snap ∧ (s.enqueue o c).pending = s.pending := by
  simp [State.enqueue]

/-- A waiting entry that is carried out leaves everything as it was but the list of accepted entries. -/
@[simp] theorem resume_keeps (s : State) (a : Accepted) :
    (s.resume a).now = s.now ∧ (s.resume a).free = s.free ∧ (s.resume a).host = s.host ∧ (s.resume a).power = s.power ∧
      (s.resume a).mem = s.mem ∧ (s.resume a).boot = s.boot ∧ (s.resume a).err = s.err ∧ (s.resume a).evt = s.evt ∧
      (s.resume a).module_ = s.module_ ∧ (s.resume a).insts = s.insts ∧ (s.resume a).bounds = s.bounds ∧
      (s.resume a).rings = s.rings ∧ (s.resume a).mig = s.mig ∧ (s.resume a).time = s.time ∧ (s.resume a).flow = s.flow ∧
      (s.resume a).cls = s.cls ∧ (s.resume a).sw = s.sw ∧ (s.resume a).sched = s.sched ∧ (s.resume a).ciph = s.ciph ∧
      (s.resume a).ports = s.ports ∧ (s.resume a).alm = s.alm ∧ (s.resume a).reflex = s.reflex ∧ (s.resume a).recd = s.recd ∧
      (s.resume a).helm = s.helm ∧ (s.resume a).dram = s.dram ∧ (s.resume a).snap = s.snap ∧ (s.resume a).out = s.out ∧
      (s.resume a).pending = s.pending := by
  simp [State.resume]

/-! ### A command that is ready -/

/-- An entry that is accepted and need not wait: it stands until a tag is usable for its buffer, or is carried out. -/
theorem serveEntry_accepts {s : State} {op : Op} {c : Cmd} (h : s.accepts op c = true) (stall : Bool) (go : State → Reply) :
    s.serveEntry op c stall go =
      if stall then s.readWait (ringFn (cmdRing c)) else (go (s.accept op c)).finish (s.acceptance op c) := by
  simp only [State.accepts, Bool.and_eq_true, Bool.not_eq_true', Option.isNone_iff_eq_none] at h
  simp [State.serveEntry, h.1.1, h.1.2, h.2]

theorem issue_injectTimeout (s : State) (fn : Fn) (o : Output) : (s.issue fn o).err.injectTimeout = s.err.injectTimeout := by
  simp only [State.issue]
  (repeat' split) <;> simp

theorem postRing_injectTimeout (s : State) (r a : Nat) (b : Bytes) :
    (s.postRing r a b).err.injectTimeout = s.err.injectTimeout := by
  simp only [State.postRing, State.post]
  (repeat' split) <;> simp [issue_injectTimeout]

theorem accept_injectTimeout (s : State) (op : Op) (c : Cmd) :
    (s.accept op c).err.injectTimeout = s.err.injectTimeout := by
  simp [State.accept, postRing_injectTimeout]

theorem accept_effRead (s : State) (op : Op) (c : Cmd) (fn : Fn) (r : HostRead) :
    (s.accept op c).effRead fn r = s.effRead fn r := by
  simp [State.effRead, accept_injectTimeout]

theorem emitReads_effRead (s : State) (fn f : Fn) (p : Option Nat) (a n t : Nat) (r : HostRead) :
    (s.emitReads f p a n t).effRead fn r = s.effRead fn r := by
  simp [State.effRead]

/-- What the effective read brings back is what the command carries. -/
theorem effRead_data {s : State} {fn : Fn} {r : HostRead} {b : Bytes} (h : s.effRead fn r = .data b) : r = .data b := by
  unfold State.effRead at h
  split at h
  · cases h
  · exact h

theorem hostRead_data {s : State} {fn : Fn} {p : Option Nat} {a n : Nat} {r : HostRead} {b : Bytes} (h : s.effRead fn r = .data b) :
    s.hostRead fn p a n r = (some b, s.emitReads fn p a n ((s.freeTag fn).getD 0)) := by
  simp only [State.hostRead, State.hostReads, List.foldl_cons, List.foldl_nil, State.readResult, emitReads_effRead, h]

@[simp] theorem opened_keeps (s : State) (op : Op) (c : Cmd) :
    (s.opened op c).now = s.now ∧ (s.opened op c).free = s.free ∧ (s.opened op c).power = s.power ∧
      (s.opened op c).mem = s.mem ∧ (s.opened op c).boot = s.boot ∧ (s.opened op c).evt = s.evt ∧
      (s.opened op c).module_ = s.module_ ∧ (s.opened op c).insts = s.insts ∧ (s.opened op c).bounds = s.bounds ∧
      (s.opened op c).time = s.time ∧ (s.opened op c).flow = s.flow ∧ (s.opened op c).cls = s.cls ∧
      (s.opened op c).sw = s.sw ∧ (s.opened op c).sched = s.sched ∧ (s.opened op c).ciph = s.ciph ∧
      (s.opened op c).ports = s.ports ∧ (s.opened op c).alm = s.alm ∧ (s.opened op c).reflex = s.reflex ∧
      (s.opened op c).recd = s.recd ∧ (s.opened op c).helm = s.helm ∧ (s.opened op c).dram = s.dram ∧
      (s.opened op c).snap = s.snap ∧ (s.opened op c).pending = s.pending := by
  simp only [State.opened]
  split <;> simp

/-- The entry that is being carried out is the one that was accepted. -/
@[simp] theorem accept_cur (s : State) (op : Op) (c : Cmd) : (s.accept op c).dechan.cur = (s.ring (cmdRing c)).fetch := by
  simp [State.accept, State.acceptance]

@[simp] theorem opened_cur (s : State) (op : Op) (c : Cmd) : (s.opened op c).dechan.cur = (s.ring (cmdRing c)).fetch := by
  simp only [State.opened]
  split <;> simp

/-- A ready command is carried out on the opened state, and its outcome becomes its reply. -/
theorem runCmd_ready {s : State} {op : Op} {c : Cmd} (h : s.ready op c = true) (body : Bytes → State → Reply) :
    s.runCmd op c body =
      ((body (bufferOf op c) (s.opened op c)).zeroing op
        (if op.reads && c.paramLen != 0 then (match c.buf with | .data b => b | _ => []) else [])).finish (s.acceptance op c) ∨
    (op.reads && c.paramLen != 0) = false ∧
      s.runCmd op c body = (body [] (s.opened op c)).finish (s.acceptance op c) := by
  simp only [State.ready, Bool.and_eq_true, Option.isNone_iff_eq_none] at h
  obtain ⟨⟨⟨⟨⟨⟨ha, hw⟩, he⟩, hb⟩, hr⟩, hd⟩, hc⟩ := h
  have hb' : (s.accept op c).bufferOk op c = true := by
    simpa [State.bufferOk, State.inBounds] using hb
  have hd' (t : State) (h1 : t.boot = s.boot) (h2 : t.power = s.power) : t.degraded op c = none := by
    simpa [State.degraded, State.hove, State.inRun, h1, h2] using hd
  have hc' (t : State) (h1 : t.insts = s.insts) : t.stateConflict op c = none := by
    simpa [State.stateConflict, State.inst, h1] using hc
  have carry (t : State) (h1 : t.boot = s.boot) (h2 : t.power = s.power) (h3 : t.insts = s.insts) (b : Bytes) :
      t.carryOut op c b body = body b t := by
    simp [State.carryOut, hd' t h1 h2, hc' t h3]
  by_cases hrd : (op.reads && c.paramLen != 0) = true
  · left
    have hne : op.reads = true ∧ (c.paramLen == 0) = false := by simpa using hrd
    simp only [State.bufferReads, hne.1, hne.2] at hr
    cases hx : s.effRead (ringFn (cmdRing c)) c.buf with
    | data b =>
      have hbuf := effRead_data hx
      have hx' : (s.accept op c).effRead (ringFn (cmdRing c)) c.buf = .data b := by rw [accept_effRead, hx]
      simp only [State.runCmd, serveEntry_accepts ha, Bool.eq_false_of_not_eq_true' hw, State.checked, he, hb', hrd, hostRead_data hx', if_true, Bool.not_true, Bool.false_eq_true, if_false]
      rw [carry _ (by simp) (by simp) (by simp)]
      simp [State.opened, bufferOf, hrd, hbuf]
    | errorCpl p q => simp [hx] at hr
    | timeout => simp [hx] at hr
  · right
    have hrd' : (op.reads && c.paramLen != 0) = false := by simpa using hrd
    refine ⟨hrd', ?_⟩
    simp only [State.runCmd, serveEntry_accepts ha, Bool.eq_false_of_not_eq_true' hw, State.checked, he, hb', hrd', if_true, Bool.not_true, Bool.false_eq_true, if_false]
    rw [carry _ (by simp) (by simp) (by simp)]
    simp only [State.opened, hrd', Bool.false_eq_true, if_false]

/-- A ready command whose opcode zeroes nothing: it is carried out on the opened state, and its outcome is its reply. -/
theorem runCmd_plain {s : State} {op : Op} {c : Cmd} (h : s.ready op c = true) (hz : op.zeroAt = none)
    (body : Bytes → State → Reply) :
    s.runCmd op c body = (body (bufferOf op c) (s.opened op c)).finish (s.acceptance op c) := by
  rcases runCmd_ready h body with h | ⟨hn, h⟩
  · simpa [Reply.zeroing, hz] using h
  · simpa [bufferOf, hn] using h

/-- A command whose meaning is `runCmd` answers with its body's reply, where it is ready. -/
theorem answers_of {i : Instr} {s : State} {op : Op} {c : Cmd} {r : Reply} {body : Bytes → State → Reply}
    (hx : exec i s = .next (s.runCmd op c body)) (h : s.ready op c = true) (hz : op.zeroAt = none)
    (hb : body (bufferOf op c) (s.opened op c) = r) : Answers i s op c r := by
  unfold Answers
  rw [hx, runCmd_plain h hz, hb]

/-! ### Replies -/

@[simp] theorem reply_ok_st (s : State) (d : Bytes) (n : Nat) : (Reply.ok s d n).st = s := rfl
@[simp] theorem reply_no_st (s : State) (a b : Nat) : (Reply.no s a b).st = s := rfl
@[simp] theorem reply_bad_st (s : State) (n : Nat) : (Reply.bad s n).st = s := rfl
@[simp] theorem reply_badBuf_st (s : State) (n : Nat) : (Reply.badBuf s n).st = s := rfl
@[simp] theorem reply_conflict_st (s : State) (a b c d : Nat) : (Reply.conflict s a b c d).st = s := rfl
@[simp] theorem reply_denied_st (s : State) (n : Nat) : (Reply.denied s n).st = s := rfl
@[simp] theorem reply_zeroing_st (r : Reply) (op : Op) (b : Bytes) : (r.zeroing op b).st = r.st := by
  simp only [Reply.zeroing]
  (repeat' split) <;> rfl

/-- A reply touches its ring, the command counters and log, and what a posted write and a message touch. -/
@[simp] theorem finish_keeps (r : Reply) (a : Accepted) :
    (r.finish a).now = r.st.now ∧ (r.finish a).free = r.st.free ∧ (r.finish a).power = r.st.power ∧
      (r.finish a).mem = r.st.mem ∧ (r.finish a).boot = r.st.boot ∧ (r.finish a).evt = r.st.evt ∧
      (r.finish a).module_ = r.st.module_ ∧ (r.finish a).insts = r.st.insts ∧ (r.finish a).bounds = r.st.bounds ∧
      (r.finish a).time = r.st.time ∧ (r.finish a).flow = r.st.flow ∧ (r.finish a).cls = r.st.cls ∧
      (r.finish a).sw = r.st.sw ∧ (r.finish a).sched = r.st.sched ∧ (r.finish a).ciph = r.st.ciph ∧
      (r.finish a).ports = r.st.ports ∧ (r.finish a).alm = r.st.alm ∧ (r.finish a).reflex = r.st.reflex ∧
      (r.finish a).recd = r.st.recd ∧ (r.finish a).helm = r.st.helm ∧ (r.finish a).dram = r.st.dram ∧
      (r.finish a).snap = r.st.snap ∧ (r.finish a).pending = r.st.pending := by
  simp only [Reply.finish]
  (repeat' split) <;> simp

end Sys2Proof.Machine
end

