-- ==== Sys2Proof/Laws/Flow.lean ====
section
/-!
SUPPORT. Laws/Flow.lean: what moves of flow entries leave of the table: handles, records, seeds, profiles, jobs and registers.
-/

set_option Elab.async false
namespace Sys2Proof.Machine

open Sys2Proof

/-- `g` is `f` but for the places of entries, the slots' fingerprints and the counters. -/
def Flow.Moved (f g : Flow) : Prop := g = { f with slots := g.slots, fps := g.fps, ovf := g.ovf, cnt := g.cnt }

theorem Flow.Moved.refl (f : Flow) : f.Moved f := rfl

theorem Flow.Moved.trans {f g h : Flow} (a : f.Moved g) (b : g.Moved h) : f.Moved h := by
  unfold Flow.Moved at *
  rw [a] at b
  exact b

/-- A chain of moves is a move. -/
theorem Flow.Moved.foldl {α : Type} (step : Flow × Nat → α → Flow × Nat) (h : ∀ (r : Flow × Nat) x, r.1.Moved (step r x).1) (l : List α)
    (r : Flow × Nat) : r.1.Moved (l.foldl step r).1 := by
  induction l generalizing r with
  | nil => exact .refl _
  | cons x l ih => exact (h r x).trans (ih _)

theorem Flow.putAt_moved (f : Flow) (p : FlowPlace) (e : FlowEntry) : f.Moved (f.putAt p e) := by cases p <;> rfl

theorem Flow.clearAt_moved (f : Flow) (p : FlowPlace) : f.Moved (f.clearAt p) := by cases p <;> rfl

theorem Flow.backfill_moved (f : Flow) (c : Nat × Nat) : f.Moved (f.backfill c) := by
  unfold Flow.backfill
  split
  · exact (f.putAt_moved _ _).trans (Flow.clearAt_moved _ _)
  · exact .refl f

theorem Flow.vacate_moved (f : Flow) (p : FlowPlace) : f.Moved (f.vacate p) := by
  cases p with
  | slot t b i => exact (f.clearAt_moved (.slot t b i)).trans (Flow.backfill_moved _ _)
  | ovf k => exact f.clearAt_moved (.ovf k)

theorem Flow.takeBack_moved (f : Flow) (o : Nat × FlowEntry) : f.Moved (f.takeBack o) := by
  unfold Flow.takeBack
  split
  · exact (f.putAt_moved _ _).trans (Flow.clearAt_moved _ _)
  · exact .refl f

theorem Flow.takeAllBack_moved (f : Flow) : f.Moved f.takeAllBack := by
  unfold Flow.takeAllBack
  generalize f.ovf = l
  induction l generalizing f with
  | nil => exact .refl f
  | cons o l ih => exact (f.takeBack_moved o).trans (ih _)

theorem Flow.displace_moved (f : Flow) (d : Nat × Nat) (l : List Nat) : f.Moved (f.displace d l) := by
  induction l with
  | nil => exact .refl f
  | cons k l ih =>
    cases l with
    | nil =>
      unfold Flow.displace
      split
      · exact (f.putAt_moved _ _).trans (Flow.clearAt_moved _ _)
      · exact .refl f
    | cons j l =>
      unfold Flow.displace
      dsimp only
      split
      · exact ih.trans ((Flow.putAt_moved _ _ _).trans (Flow.clearAt_moved _ _))
      · exact ih

theorem Flow.makeSlot_moved {f g : Flow} {limit p n : Nat} {key : Bytes} {at_ : FlowPlace}
    (h : f.makeSlot limit p key = some (g, at_, n)) : f.Moved g := by
  unfold Flow.makeSlot at h
  split at h
  · dsimp only at h
    split at h
    · cases h; exact .refl f
    · split at h
      · rename_i dest path _
        obtain ⟨k, _, hk⟩ := Option.map_eq_some_iff.mp h
        cases hk
        exact (f.displace_moved dest path).trans rfl
      · cases h
  · cases h

theorem Flow.relocate_moved {f g : Flow} {limit : Nat} {at_ : FlowPlace} (h : f.relocate limit at_ = some g) : f.Moved g := by
  unfold Flow.relocate at h
  split at h
  · cases h
  · split at h
    · rename_i hm
      cases h
      exact (Flow.makeSlot_moved hm).trans ((Flow.putAt_moved _ _ _).trans (Flow.vacate_moved _ _))
    · split at h
      · cases h
      · obtain ⟨k, _, hk⟩ := Option.map_eq_some_iff.mp h
        cases hk
        exact (Flow.putAt_moved _ _ _).trans (Flow.vacate_moved _ _)

theorem walkOne_moved (w : Swing) (r : Flow × Nat) (at_ : FlowPlace) : r.1.Moved (walkOne w r at_).1 := by
  unfold walkOne
  split
  · rename_i h; exact Flow.relocate_moved h
  · exact .refl _

theorem Flow.walk_moved (f : Flow) (w : Swing) : f.Moved (f.walk w).1 := by
  unfold Flow.walk
  exact (Flow.Moved.foldl _ (walkOne_moved w) _ (f, 0)).trans (Flow.Moved.foldl _ (walkOne_moved w) _ _)

theorem Flow.settle_moved (w : Swing) (k : Nat) (r : Flow × Nat) : r.1.Moved (Flow.settle w k r).1 := by
  induction k generalizing r with
  | zero => exact .refl _
  | succ k ih =>
    unfold Flow.settle
    split
    · exact .refl _
    · dsimp only
      split
      · exact (r.1.walk_moved w).trans (ih _)
      · exact r.1.walk_moved w

theorem Flow.swingWork_moved (f : Flow) (w : Swing) : f.Moved (f.swingWork w).1 :=
  (f.walk_moved w).trans (Flow.settle_moved w _ _)

end Sys2Proof.Machine
end

