-- ==== Sys2Proof/Laws/Word.lean ====
section
/-!
SUPPORT. Laws/Word.lean: what a read finds after a write, in a keyed table and in a byte memory, and that both keep their
canonical form.
-/

set_option Elab.async false
namespace Sys2Proof

/-! ### Keyed tables -/

@[simp] theorem KMap.find_nil {α : Type} (k : Nat) : KMap.find ([] : KMap α) k = none := rfl

@[simp] theorem KMap.find_put_same {α : Type} (m : KMap α) (k : Nat) (v : α) : (KMap.put m k v).find k = some v := by
  induction m with
  | nil => simp [KMap.put, KMap.find]
  | cons p m ih =>
    obtain ⟨j, w⟩ := p
    unfold KMap.put
    split
    · simp [KMap.find]
    · split
      · simp [KMap.find]
      · simp [KMap.find, *]

theorem KMap.find_put_ne {α : Type} (m : KMap α) {k j : Nat} (v : α) (h : j ≠ k) : (KMap.put m k v).find j = KMap.find m j := by
  induction m with
  | nil => simp [KMap.put, KMap.find, Ne.symm h]
  | cons p m ih =>
    obtain ⟨i, w⟩ := p
    unfold KMap.put
    split
    · simp [KMap.find, Ne.symm h]
    · split
      · subst i
        simp [KMap.find, Ne.symm h]
      · by_cases e : i = j <;> simp [KMap.find, *]

@[simp] theorem KMap.getD_put_same {α : Type} (m : KMap α) (k : Nat) (v d : α) : KMap.getD (KMap.put m k v) k d = v := by
  simp [KMap.getD]

theorem KMap.getD_put_ne {α : Type} (m : KMap α) {k j : Nat} (v d : α) (h : j ≠ k) :
    KMap.getD (KMap.put m k v) j d = KMap.getD m j d := by
  simp [KMap.getD, KMap.find_put_ne m v h]

@[simp] theorem KMap.put_put {α : Type} (m : KMap α) (k : Nat) (v w : α) :
    KMap.put (KMap.put m k v) k w = KMap.put m k w := by
  induction m with
  | nil => simp [KMap.put]
  | cons p m ih =>
    obtain ⟨j, u⟩ := p
    by_cases h1 : k < j
    · simp [KMap.put, h1]
    · by_cases h2 : j = k
      · subst h2
        simp [KMap.put]
      · simp [KMap.put, h1, h2, ih]

theorem KMap.find_mapVals {α : Type} (m : KMap α) (f : Nat → α → α) (k : Nat) :
    (KMap.mapVals m f).find k = (KMap.find m k).map (f k) := by
  induction m with
  | nil => rfl
  | cons p m ih =>
    obtain ⟨j, w⟩ := p
    by_cases h : j = k
    · subst h
      simp [KMap.mapVals, KMap.find]
    · simpa [KMap.mapVals, KMap.find, h] using ih

theorem KMap.find_drop1_ne {α : Type} (m : KMap α) {k j : Nat} (h : j ≠ k) : (KMap.drop1 m k).find j = KMap.find m j := by
  induction m with
  | nil => rfl
  | cons p m ih =>
    obtain ⟨i, w⟩ := p
    unfold KMap.drop1
    split
    · subst i
      simp [KMap.find, Ne.symm h]
    · by_cases e : i = j <;> simp [KMap.find, *]

/-- Below the first key of a sorted table nothing is listed. -/
theorem KMap.find_lt {α : Type} (m : KMap α) (j : Nat) (w : α) (h : KMap.sorted ((j, w) :: m) = true) (k : Nat) (hk : k ≤ j) :
    KMap.find m k = none := by
  induction m generalizing j w with
  | nil => rfl
  | cons p m ih =>
    obtain ⟨i, u⟩ := p
    simp only [KMap.sorted, Bool.and_eq_true, decide_eq_true_eq] at h
    have : i ≠ k := by omega
    simp only [KMap.find, this, if_false]
    exact ih i u h.2 (by omega)

theorem KMap.sorted_tail {α : Type} (p : Nat × α) (m : KMap α) (h : KMap.sorted (p :: m) = true) : KMap.sorted m = true := by
  cases m with
  | nil => rfl
  | cons q m =>
    simp only [KMap.sorted, Bool.and_eq_true] at h
    exact h.2

theorem KMap.find_drop1_same {α : Type} (m : KMap α) (k : Nat) (h : KMap.sorted m = true) : (KMap.drop1 m k).find k = none := by
  induction m with
  | nil => rfl
  | cons p m ih =>
    obtain ⟨j, w⟩ := p
    unfold KMap.drop1
    split
    · exact KMap.find_lt m j w h k (by omega)
    · rename_i e
      simp only [KMap.find, e, if_false]
      exact ih (KMap.sorted_tail _ _ h)

/-- A put keeps the order, and the first key of the result is `k` or the first key of the table. -/
theorem KMap.sorted_put {α : Type} (m : KMap α) (k : Nat) (v : α) (h : KMap.sorted m = true) :
    KMap.sorted (KMap.put m k v) = true := by
  induction m with
  | nil => rfl
  | cons p m ih =>
    obtain ⟨j, w⟩ := p
    have iht := ih (KMap.sorted_tail _ _ h)
    unfold KMap.put
    split
    · rename_i hk
      simp [KMap.sorted, hk, h]
    · split
      · subst k
        cases m with
        | nil => rfl
        | cons q m =>
          obtain ⟨i, u⟩ := q
          simpa [KMap.sorted] using h
      · cases m with
        | nil =>
          simp only [KMap.put, KMap.sorted, Bool.and_true, decide_eq_true_eq]
          omega
        | cons q m =>
          obtain ⟨i, u⟩ := q
          simp only [KMap.sorted, Bool.and_eq_true, decide_eq_true_eq] at h
          unfold KMap.put at iht ⊢
          split
          · rename_i hi
            rw [if_pos hi] at iht
            simp only [KMap.sorted, Bool.and_eq_true, decide_eq_true_eq] at iht ⊢
            exact ⟨by omega, iht⟩
          · rename_i hi
            rw [if_neg hi] at iht
            split
            · rename_i he
              rw [if_pos he] at iht
              simp only [KMap.sorted, Bool.and_eq_true, decide_eq_true_eq]
              exact ⟨by omega, iht⟩
            · rename_i he
              rw [if_neg he] at iht
              simp only [KMap.sorted, Bool.and_eq_true, decide_eq_true_eq]
              exact ⟨h.1, iht⟩

theorem KMap.sorted_drop1 {α : Type} (m : KMap α) (k : Nat) (h : KMap.sorted m = true) : KMap.sorted (KMap.drop1 m k) = true := by
  induction m with
  | nil => rfl
  | cons p m ih =>
    obtain ⟨j, w⟩ := p
    have ht := KMap.sorted_tail _ _ h
    unfold KMap.drop1
    split
    · exact ht
    · have iht := ih ht
      cases m with
      | nil => rfl
      | cons q m =>
        obtain ⟨i, u⟩ := q
        simp only [KMap.sorted, Bool.and_eq_true, decide_eq_true_eq] at h
        unfold KMap.drop1 at iht ⊢
        split
        · rename_i he
          rw [if_pos he] at iht
          cases m with
          | nil => rfl
          | cons r m =>
            obtain ⟨l, x⟩ := r
            simp only [KMap.sorted, Bool.and_eq_true, decide_eq_true_eq] at h iht ⊢
            exact ⟨by omega, h.2.2⟩
        · rename_i he
          rw [if_neg he] at iht
          simp only [KMap.sorted, Bool.and_eq_true, decide_eq_true_eq]
          exact ⟨h.1, iht⟩

/-! ### Byte memories -/

theorem Mem.read_write_ne (m : Mem) {a b : Nat} (v : Byte) (h : b ≠ a) : (Mem.write m a v).read b = Mem.read m b := by
  unfold Mem.write Mem.read KMap.getD
  split
  · rw [KMap.find_drop1_ne m h]
  · rw [KMap.find_put_ne m v h]

theorem Mem.read_write_same (m : Mem) (a : Nat) (v : Byte) (h : KMap.sorted m = true) : (Mem.write m a v).read a = v := by
  unfold Mem.write Mem.read KMap.getD
  split
  · rename_i e
    rw [KMap.find_drop1_same m a h, e]
    rfl
  · rw [KMap.find_put_same]
    rfl

theorem Mem.mem_put {m : Mem} {a : Nat} {v : Byte} {p : Nat × Byte} (h : p ∈ KMap.put m a v) : p ∈ m ∨ p = (a, v) := by
  induction m with
  | nil => simp_all [KMap.put]
  | cons q m ih =>
    obtain ⟨j, w⟩ := q
    unfold KMap.put at h
    split at h
    · simp_all
      tauto
    · split at h <;> simp_all
      · tauto
      · rcases h with h | h
        · exact Or.inl (Or.inl h)
        · rcases ih h with h | h
          · exact Or.inl (Or.inr h)
          · exact Or.inr h

theorem Mem.mem_drop1 {m : Mem} {a : Nat} {p : Nat × Byte} (h : p ∈ KMap.drop1 m a) : p ∈ m := by
  induction m with
  | nil => exact h
  | cons q m ih =>
    obtain ⟨j, w⟩ := q
    unfold KMap.drop1 at h
    split at h
    · exact List.mem_cons_of_mem _ h
    · rcases List.mem_cons.mp h with h | h
      · exact h ▸ List.mem_cons_self
      · exact List.mem_cons_of_mem _ (ih h)

/-- A write keeps the canonical form of a byte memory. -/
theorem Mem.wf_write (m : Mem) (a : Nat) (v : Byte) (h : Mem.wf m = true) : Mem.wf (Mem.write m a v) = true := by
  unfold Mem.wf at *
  simp only [Bool.and_eq_true, List.all_eq_true] at *
  unfold Mem.write
  split
  · exact ⟨KMap.sorted_drop1 m a h.1, fun p hp => h.2 p (Mem.mem_drop1 hp)⟩
  · rename_i hv
    refine ⟨KMap.sorted_put m a v h.1, fun p hp => ?_⟩
    rcases Mem.mem_put hp with hp | hp
    · exact h.2 p hp
    · simpa [hp] using hv

/-- A string written keeps the canonical form. -/
theorem Mem.wf_writeN (m : Mem) (a : Nat) (b : Bytes) (h : Mem.wf m = true) : Mem.wf (Mem.writeN m a b) = true := by
  induction b generalizing m a with
  | nil => exact h
  | cons v b ih => exact ih _ _ (Mem.wf_write m a v h)

/-- An octet outside the string written reads as before. -/
theorem Mem.read_writeN_outside (m : Mem) (a : Nat) (b : Bytes) (c : Nat) (h : c < a ∨ a + b.length ≤ c) :
    (Mem.writeN m a b).read c = Mem.read m c := by
  induction b generalizing m a with
  | nil => rfl
  | cons v b ih =>
    rw [List.length_cons] at h
    rw [show Mem.writeN m a (v :: b) = Mem.writeN (Mem.write m a v) (a + 1) b from rfl, ih _ _ (by omega),
      Mem.read_write_ne m v (by omega)]

/-- An octet of the string written reads as written. -/
theorem Mem.read_writeN_inside (m : Mem) (a : Nat) (b : Bytes) (i : Nat) (h : i < b.length) (hm : Mem.wf m = true) :
    (Mem.writeN m a b).read (a + i) = b.getD i 0 := by
  induction b generalizing m a i with
  | nil => exact absurd h (by simp)
  | cons v b ih =>
    rw [show Mem.writeN m a (v :: b) = Mem.writeN (Mem.write m a v) (a + 1) b from rfl]
    cases i with
    | zero =>
      rw [Mem.read_writeN_outside _ _ _ _ (by omega)]
      simp only [Nat.add_zero, List.getD_cons_zero]
      unfold Mem.wf at hm
      exact Mem.read_write_same m a v (by simp_all)
    | succ i =>
      rw [List.length_cons] at h
      have := ih (Mem.write m a v) (a + 1) i (by omega) (Mem.wf_write m a v hm)
      rw [show a + (i + 1) = a + 1 + i by omega, this, List.getD_cons_succ]

end Sys2Proof
end

