-- ==== Sys2Proof/Laws/Helm.lean ====
section
/-!
SUPPORT. Laws/Helm.lean: how an instruction of a Helm thread is issued, and what a change of one thread leaves (chapter 16).
-/

set_option Elab.async false
namespace Sys2Proof.Machine

open Sys2Proof

@[simp] theorem thread_setThread_same (s : State) (t : Nat) (x : Thread) : (s.setThread t x).thread t = x := by
  simp [State.thread, State.setThread]

theorem thread_setThread_ne (s : State) {t u : Nat} (x : Thread) (h : u ≠ t) : (s.setThread t x).thread u = s.thread u := by
  simp [State.thread, State.setThread, KMap.getD_put_ne _ _ _ h]

@[simp] theorem setThread_setThread (s : State) (t : Nat) (x y : Thread) : (s.setThread t x).setThread t y = s.setThread t y := by
  simp [State.setThread]

@[simp] theorem chan_setThread (s : State) (t c : Nat) (x : Thread) : (s.setThread t x).chan c = s.chan c := rfl

@[simp] theorem chan_setChan_same (s : State) (c : Nat) (x : Chan) : (s.setChan c x).chan c = x := by
  simp [State.chan, State.setChan]

@[simp] theorem thread_setChan (s : State) (t c : Nat) (x : Chan) : (s.setChan c x).thread t = s.thread t := rfl

/-- A thread that issues, and whose instruction has an effect. -/
theorem issueInstr_ok {s r : State} {t : Nat} {w : W32} {act : Nat → State → HelmEnd} (h : s.issues t = true)
    (ha : act t (s.issued t) = .ok r) : s.issueInstr t w act = r.retire s t := by
  simp only [State.issues, Bool.and_eq_true, decide_eq_true_eq, Bool.not_eq_true'] at h
  obtain ⟨⟨⟨h1, h2⟩, h3⟩, h4⟩ := h
  have e : t % 128 = t := Nat.mod_eq_of_lt h1
  have b : s.breakpoint (s.thread t).pc = false := by simp [State.breakpoint, h4]
  simp only [State.issueInstr, e, h2, h3, b, setThread_setThread, ← State.issued.eq_1, ha]
  rfl

/-- A thread that issues, and whose instruction faults. -/
theorem issueInstr_error {s : State} {t : Nat} {w : W32} {act : Nat → State → HelmEnd} {k : HelmFault} {a : Nat}
    (h : s.issues t = true) (ha : act t (s.issued t) = .error (k, a)) : s.issueInstr t w act = s.faults t k a w := by
  simp only [State.issues, Bool.and_eq_true, decide_eq_true_eq, Bool.not_eq_true'] at h
  obtain ⟨⟨⟨h1, h2⟩, h3⟩, h4⟩ := h
  have e : t % 128 = t := Nat.mod_eq_of_lt h1
  have b : s.breakpoint (s.thread t).pc = false := by simp [State.breakpoint, h4]
  simp only [State.issueInstr, e, h2, h3, b, setThread_setThread, ← State.issued.eq_1, ha]
  rfl

theorem issueOp_ok {s r : State} {t func : Nat} {o : HelmOp} {used : Bool} {act : Nat → State → HelmEnd} (h : s.issues t = true)
    (hu : used = true) (ha : act t (s.issued t) = .ok r) : s.issueOp t func o used act = r.retire s t := by
  subst hu; exact issueInstr_ok h ha

theorem issueOp_error {s : State} {t func : Nat} {o : HelmOp} {used : Bool} {act : Nat → State → HelmEnd} {k : HelmFault} {a : Nat}
    (h : s.issues t = true) (hu : used = true) (ha : act t (s.issued t) = .error (k, a)) :
    s.issueOp t func o used act = s.faults t k a (helmWord o func) := by
  subst hu; exact issueInstr_error h ha

/-- A nonzero field that the instruction does not use is fault ILLEGAL (R382). -/
theorem issueOp_unused {s : State} {t func : Nat} {o : HelmOp} {used : Bool} {act : Nat → State → HelmEnd} (h : s.issues t = true)
    (hu : used = false) : s.issueOp t func o used act = s.faults t .illegal 0 (helmWord o func) := by
  subst hu; exact issueInstr_error h rfl

/-- A thread that is not RUNNABLE, or whose core is in reset, issues nothing. -/
theorem issueInstr_none {s : State} {t : Nat} {w : W32} {act : Nat → State → HelmEnd}
    (h : (s.coreRuns (t % 128) && (s.thread (t % 128)).state == .runnable) = false) : s.issueInstr t w act = s := by
  simp [State.issueInstr, h]

/-- A thread that nobody joined becomes DONE. -/
theorem threadExit_done (s : State) (t : Nat) (v : W32) (u : State)
    (hu : (s.threadLeave t).setThread t { (s.threadLeave t).thread t with state := .done, exitVal := v } = u)
    (h : u.joiner t = none) : s.threadExit t v = u := by
  unfold State.threadExit
  extract_lets a y b
  have e : b = u := hu
  clear_value b
  subst e
  rw [h]

/-- The thread that waits in JOIN takes a thread that exits. -/
theorem threadExit_joined (s : State) (t : Nat) (v : W32) (u : State) (j : Nat)
    (hu : (s.threadLeave t).setThread t { (s.threadLeave t).thread t with state := .done, exitVal := v } = u)
    (h : u.joiner t = some j) (h1 : (u.thread j).state = .waitJoin) : s.threadExit t v = u.joinTake j t := by
  unfold State.threadExit
  extract_lets a y b
  have e : b = u := hu
  clear_value b
  subst e
  rw [h]
  exact if_pos h1

end Sys2Proof.Machine
end

