-- ==== Sys2Proof/Laws/Host.lean ====
section
/-!
SUPPORT. Laws/Host.lean: what messages, events and reported errors leave of the endpoint: configuration, tags, windows and
translations stay; while the link is up nothing is counted as discarded.
-/

set_option Elab.async false
namespace Sys2Proof.Machine

open Sys2Proof

/-- The endpoint but for what waits to leave and the vectors' pending bits. -/
def HostCore (s t : State) : Prop :=
  t.host.perstHigh = s.host.perstHigh ∧ t.host.linkUp = s.host.linkUp ∧ t.host.linkSince = s.host.linkSince ∧
  t.host.ready = s.host.ready ∧ t.host.perstAt = s.host.perstAt ∧ t.host.cfg0 = s.host.cfg0 ∧ t.host.cfg1 = s.host.cfg1 ∧
  t.host.tags = s.host.tags ∧ t.host.stagedWin = s.host.stagedWin ∧ t.host.activeWin = s.host.activeWin ∧
  t.host.changing = s.host.changing ∧ t.host.heldPeer = s.host.heldPeer ∧ t.host.winReject = s.host.winReject ∧
  t.host.winLast = s.host.winLast ∧ t.host.winSel = s.host.winSel ∧ t.host.winCnt = s.host.winCnt ∧
  t.host.xlats = s.host.xlats

theorem HostCore.refl (s : State) : HostCore s s := by simp [HostCore]

theorem HostCore.trans {s t u : State} (h : HostCore s t) (g : HostCore t u) : HostCore s u := by
  simp_all [HostCore]

theorem HostCore.of_host {s t : State} (h : t.host = s.host) : HostCore s t := by simp [HostCore, h]

theorem issue_core (s : State) (fn : Fn) (o : Output) : HostCore s (s.issue fn o) := by
  unfold State.issue
  split
  · exact HostCore.refl s
  · split
    · exact HostCore.of_host rfl
    · split
      · exact HostCore.of_host (emitReq_keeps s o).2.2.1
      · simp [HostCore]

theorem setMsix_core (s : State) (fn : Fn) (v : Nat) (e : MsixEntry) : HostCore s (s.setMsix fn v e) := by
  cases fn
  · unfold State.setMsix
    dsimp only
    split <;> simp [HostCore]
  · simp [State.setMsix, HostCore]

theorem msi_core (s : State) (fn : Fn) (v : Nat) : HostCore s (s.msi fn v) := by
  unfold State.msi
  split
  · exact HostCore.refl s
  · dsimp only
    split
    · exact issue_core s fn _
    · exact setMsix_core s fn v _

theorem event_core (s : State) (b : Nat) : HostCore s (s.event b) := by
  unfold State.event
  dsimp only
  split
  · exact HostCore.trans (HostCore.of_host rfl) (msi_core _ _ _)
  · exact HostCore.of_host rfl

theorem errBit_core (s : State) (k : Nat) : HostCore s (s.errBit k) := by
  unfold State.errBit
  split
  · exact HostCore.refl s
  · exact HostCore.trans (HostCore.of_host rfl) (event_core _ _)

theorem hostError_core (s : State) (a b c d e f : Nat) : HostCore s (s.hostError a b c d e f) := by
  unfold State.hostError
  exact HostCore.trans (HostCore.of_host rfl) (errBit_core _ _)

theorem logViolation_core (s : State) (p : Bool) (a b c d e : Nat) : HostCore s (s.logViolation p a b c d e) := by
  unfold State.logViolation
  dsimp only
  split
  · exact HostCore.of_host rfl
  · exact HostCore.trans (HostCore.of_host rfl) (errBit_core _ _)

/-! ### While the link is up -/

theorem issue_err (s : State) (fn : Fn) (o : Output) (h : s.linkReady = true) : (s.issue fn o).err = s.err := by
  simp only [State.linkReady, Bool.and_eq_true] at h
  unfold State.issue
  simp only [h, Bool.not_true, Bool.false_eq_true, if_false]
  split <;> simp

theorem msi_err (s : State) (fn : Fn) (v : Nat) (h : s.linkReady = true) : (s.msi fn v).err = s.err := by
  unfold State.msi
  split
  · rfl
  · dsimp only
    split
    · exact issue_err s fn _ h
    · simp

theorem event_err (s : State) (b : Nat) (h : s.linkReady = true) : (s.event b).err = s.err := by
  unfold State.event
  dsimp only
  split
  · rw [msi_err]
    exact h
  · rfl

theorem errBit_err (s : State) (k : Nat) (h : s.linkReady = true) :
    (s.errBit k).err = if bit s.err.summary k then s.err else { s.err with summary := s.err.summary ||| 2 ^ k } := by
  unfold State.errBit
  split
  · simp [*]
  · rw [event_err _ _ (by exact h)]

end Sys2Proof.Machine
end

