-- ==== Sys2Proof/Laws/QueueHost.lean ====
section
/-! SUPPORT. The queue of waiting commands is touched by no operation and by no command of
the endpoint, the rings, the classifier, the flow table and the scheduler: one lemma per
definition, each from the lemmas of the definitions it calls. A lemma `<name>_pending_of` says the same of a pair that has
been taken apart. -/

set_option Elab.async false

namespace Sys2Proof.Machine
open Sys2Proof

/-! ### Endpoint -/

@[simp] theorem foldl_pending {α : Type} (f : State → α → State) (l : List α) (s : State)
    (h : ∀ s a, (f s a).pending = s.pending) : (l.foldl f s).pending = s.pending := by
  induction l generalizing s with
  | nil => rfl
  | cons a l ih => rw [List.foldl_cons, ih, h]

@[simp] theorem ite_pending {p : Prop} [Decidable p] (a b : State) :
    (if p then a else b).pending = if p then a.pending else b.pending := by
  split <;> rfl

@[simp] theorem ite_st {p : Prop} [Decidable p] (a b : Reply) :
    (if p then a else b).st = if p then a.st else b.st := by
  split <;> rfl

theorem draw_of {s t : State} {w : W64} (h : s.draw = (w, t)) : t.pending = s.pending := by
  have := draw_keeps s
  rw [h] at this
  simp_all

theorem drawBytes_pending (s : State) (n : Nat) : (s.drawBytes n).2.pending = s.pending := rfl

theorem drawBytes_of {s t : State} {n : Nat} {w : Bytes} (h : s.drawBytes n = (w, t)) : t.pending = s.pending := by
  have := drawBytes_pending s n
  rw [h] at this
  exact this

theorem takeCells_pending (s : State) (c : Nat) : ∀ r, s.takeCells c = some r → r.2.pending = s.pending := by
  unfold State.takeCells
  intro r h
  (repeat' split at h) <;> (try cases h) <;> simp_all

theorem takeCells_of {s t : State} {c : Nat} {b : Bool} (h : s.takeCells c = some (b, t)) : t.pending = s.pending :=
  takeCells_pending s c _ h

theorem holdCells_of {s t : State} {h c : Nat} {b : Bool} (hh : s.holdCells h c = some (b, t)) : t.pending = s.pending := by
  unfold State.holdCells at hh
  split at hh
  · exact takeCells_of hh
  · split at hh
    · cases hh
      rfl
    · cases hc : s.takeCells c with
      | none => simp [hc] at hh
      | some r =>
        simp only [hc, Option.map_some, Option.some.injEq, Prod.mk.injEq] at hh
        rw [← hh.2]
        exact takeCells_pending s c r hc

theorem readResult_of {s t : State} {fn : Fn} {a : Nat} {r : HostRead} {o : Option Bytes}
    (h : s.readResult fn a r = (o, t)) :
    t.pending = s.pending := by
  have := readResult_keeps s fn a r
  rw [h] at this
  simp_all

theorem hostReads_of {s t : State} {fn : Fn} {p : Option Nat} {l : List (Nat × Nat)} {r : HostRead} {o : Option Bytes}
    (h : s.hostReads fn p l r = (o, t)) : t.pending = s.pending := by
  have := hostReads_keeps s fn p l r
  rw [h] at this
  simp_all

theorem hostRead_of {s t : State} {fn : Fn} {p : Option Nat} {a n : Nat} {r : HostRead} {o : Option Bytes}
    (h : s.hostRead fn p a n r = (o, t)) : t.pending = s.pending := by
  have := hostRead_keeps s fn p a n r
  rw [h] at this
  simp_all

theorem dramRead_of {s t : State} {a n : Nat} {o : Option Bytes} (h : s.dramRead a n = (o, t)) : t.pending = s.pending := by
  have := dramRead_keeps s a n
  rw [h] at this
  simp_all

@[simp] theorem carryOut_pending (s : State) (op : Op) (c : Cmd) (b : Bytes) (body : Bytes → State → Reply)
    (h : ∀ b s, (body b s).st.pending = s.pending) : (s.carryOut op c b body).st.pending = s.pending := by
  unfold State.carryOut
  (repeat' split) <;> simp [h]

@[simp] theorem checked_pending (s : State) (op : Op) (c : Cmd) (body : Bytes → State → Reply)
    (h : ∀ b s, (body b s).st.pending = s.pending) : (s.checked op c body).st.pending = s.pending := by
  unfold State.checked
  (repeat' split) <;> simp_all [hostRead_of]
  all_goals (rename_i h1; simp [hostRead_of h1])

@[simp] theorem serveEntry_pending (s : State) (op : Op) (c : Cmd) (stall : Bool) (go : State → Reply)
    (h : ∀ t, (go t).st.pending = t.pending) : (s.serveEntry op c stall go).pending = s.pending := by
  unfold State.serveEntry
  (repeat' split) <;> simp [h]

@[simp] theorem runCmd_pending (s : State) (op : Op) (c : Cmd) (body : Bytes → State → Reply)
    (h : ∀ b s, (body b s).st.pending = s.pending) : (s.runCmd op c body).pending = s.pending := by
  unfold State.runCmd
  exact serveEntry_pending _ _ _ _ _ (fun t => checked_pending t op c body h)

theorem pairFold_pending {α δ : Type} (g : α × State → δ → α × State) (l : List δ) (r : α × State)
    (h : ∀ r x, (g r x).2.pending = r.2.pending) : (l.foldl g r).2.pending = r.2.pending := by
  induction l generalizing r with
  | nil => rfl
  | cons a l ih => rw [List.foldl_cons, ih, h]

theorem someSnd_pending {α : Type} {s : State} {o : Option (α × State)} (h : ∀ r, o = some r → r.2.pending = s.pending)
    (r : α × State) (e : o = some r) : r.2.pending = s.pending := h r e

theorem hostRead_snd (s : State) (fn : Fn) (p : Option Nat) (a n : Nat) (r : HostRead) :
    (s.hostRead fn p a n r).2.pending = s.pending :=
  hostRead_of (o := (s.hostRead fn p a n r).1) Prod.mk.eta.symm
@[simp] theorem msiReleaseAll_pending (s : State) (fn : Fn) :
    (State.msiReleaseAll s fn).pending = s.pending := by
  unfold State.msiReleaseAll
  dsimp only
  (repeat' split) <;> (try simp [*]) <;> (try grind)

@[simp] theorem cfgWrite_pending (s : State) (fn : Fn) (off v : Nat) :
    (State.cfgWrite s fn off v).pending = s.pending := by
  unfold State.cfgWrite
  dsimp only
  (repeat' split) <;> (try simp [*]) <;> (try grind)

@[simp] theorem violFn_pending (s : State) (fn : Fn) (kind detail addr : Nat) :
    (State.violFn s fn kind detail addr).pending = s.pending := by
  unfold State.violFn
  (try dsimp only)
  (repeat' split) <;> simp [*]

@[simp] theorem inBlock_pending (s : State) (d : Nat) (act : State → State) (h_act : ∀ y0,
    (act y0).pending = y0.pending) :
    (State.inBlock s d act).pending = s.pending := by
  unfold State.inBlock
  dsimp only
  (repeat' split) <;> grind

@[simp] theorem badAccess_pending (s : State) (fn : Fn) (bar off len : Nat) (write : Bool) :
    (State.badAccess s fn bar off len write).pending = s.pending := by
  unfold State.badAccess
  dsimp only
  (repeat' split) <;> (try simp [*]) <;> (try grind)

theorem execBarBadAccess_pending (fn : Fn) (off : BarOff) (len : Nat) (write : Bool) (s : State) :
    ∃ t, (execBarBadAccess fn off len write s) = .next t ∧ t.pending = s.pending := by
  unfold execBarBadAccess
  (try dsimp only)
  (repeat' split) <;> (refine ⟨_, rfl, ?_⟩) <;> (try simp [*]) <;> (try grind)

theorem execHostUnsupportedRequest_pending (fn : Fn) (posted : Bool) (s : State) :
    ∃ t, (execHostUnsupportedRequest fn posted s) = .next t ∧ t.pending = s.pending := by
  unfold execHostUnsupportedRequest
  (try dsimp only)
  (repeat' split) <;> (refine ⟨_, rfl, ?_⟩) <;> (try simp [*]) <;> (try grind)

@[simp] theorem peerReject_pending (s : State) (q : PeerReq) :
    (State.peerReject s q).pending = s.pending := by
  unfold State.peerReject
  dsimp only
  (repeat' split) <;> (try simp [*]) <;> (try grind)

@[simp] theorem cplSplit_pending (s : State) (a : Nat) (b : Bytes) :
    (State.cplSplit s a b).pending = s.pending := by
  unfold State.cplSplit
  dsimp only
  (repeat' split) <;> (try simp [*]) <;> (try grind)

@[simp] theorem peerServe_pending (s : State) (q : PeerReq) :
    (State.peerServe s q).pending = s.pending := by
  unfold State.peerServe
  dsimp only
  (repeat' split) <;> (try simp [*]) <;> (try grind [→ dramRead_of])

@[simp] theorem peerHold_pending (s : State) (q : PeerReq) :
    (State.peerHold s q).pending = s.pending := by
  unfold State.peerHold
  dsimp only
  (repeat' split) <;> grind

theorem execPeerRequest_pending (q : PeerReq) (s : State) :
    ∃ t, (execPeerRequest q s) = .next t ∧ t.pending = s.pending := by
  unfold execPeerRequest
  (try dsimp only)
  (repeat' split) <;> (refine ⟨_, rfl, ?_⟩) <;> (try simp [*]) <;> (try grind)

theorem execWinCommit_pending (window : Nat) (s : State) :
    ∃ t, (execWinCommit window s) = .next t ∧ t.pending = s.pending := by
  unfold execWinCommit
  (try dsimp only)
  (repeat' split) <;> (refine ⟨_, rfl, ?_⟩) <;> grind

theorem execWinChangeDone_pending (s : State) :
    ∃ t, (execWinChangeDone s) = .next t ∧ t.pending = s.pending := by
  unfold execWinChangeDone
  (try dsimp only)
  (repeat' split) <;> (refine ⟨_, rfl, ?_⟩) <;> (try simp [*]) <;> (try grind)

@[simp] theorem winReset_pending (s : State) :
    (State.winReset s).pending = s.pending := by
  simp [State.winReset, *]

@[simp] theorem setXlats_pending (s : State) (l : List Xlat) :
    (State.setXlats s l).pending = s.pending := by
  simp [State.setXlats, *]

@[simp] theorem deliver_pending (s : State) (p : Purpose) (b : Option Bytes) :
    (State.deliver s p b).pending = s.pending := by
  cases p <;> cases b <;> simp only [State.deliver] <;> (repeat' split) <;> simp

@[simp] theorem partCame_pending (s : State) (p : Purpose) (addr : Nat) (b : Bytes) :
    (State.partCame s p addr b).pending = s.pending := by
  unfold State.partCame
  dsimp only
  (repeat' split) <;> (try simp [*]) <;> (try grind)

@[simp] theorem partLost_pending (s : State) (p : Purpose) :
    (State.partLost s p).pending = s.pending := by
  unfold State.partLost
  dsimp only
  (repeat' split) <;> (try simp [*]) <;> (try grind)

theorem execHostCompletionRx_pending (tag completer : Nat) (fn : Fn) (status : CplStatus) (body : Bytes)
    (last : Bool) (s : State) :
    ∃ t, (execHostCompletionRx tag completer fn status body last s) = .next t ∧ t.pending = s.pending := by
  unfold execHostCompletionRx
  (try dsimp only)
  (repeat' split) <;> (refine ⟨_, rfl, ?_⟩) <;> (try simp [*]) <;> (try grind)

theorem execCompletionTimeout_pending (tag : Nat) (s : State) :
    ∃ t, (execCompletionTimeout tag s) = .next t ∧ t.pending = s.pending := by
  unfold execCompletionTimeout
  (try dsimp only)
  (repeat' split) <;> (refine ⟨_, rfl, ?_⟩) <;> (try simp [*]) <;> (try grind)

theorem execTagQuarantineEnd_pending (tag : Nat) (s : State) :
    ∃ t, (execTagQuarantineEnd tag s) = .next t ∧ t.pending = s.pending := by
  unfold execTagQuarantineEnd
  (try dsimp only)
  (repeat' split) <;> (refine ⟨_, rfl, ?_⟩) <;> grind

theorem requestOne_pending (s : State) (fn : Fn) (pasid : Option Nat) (what : Purpose) (addr len : Nat) :
    ∀ t, (State.requestOne s fn pasid what addr len) = some t → t.pending = s.pending := by
  unfold State.requestOne
  intro t h
  (repeat' split at h) <;> (try cases h) <;> simp_all

theorem requestFold_pending (fn : Fn) (pasid : Option Nat) (what : Purpose) (s : State) (l : List (Nat × Nat)) (o : Option State)
    (ho : ∀ t, o = some t → t.pending = s.pending) :
    ∀ t, l.foldl (fun r p => r.bind (fun s => s.requestOne fn pasid what p.1 p.2)) o = some t → t.pending = s.pending := by
  induction l generalizing o with
  | nil => exact ho
  | cons p l ih =>
    apply ih
    intro t h
    cases o with
    | none => cases h
    | some u =>
      simp only [Option.bind_some] at h
      rw [requestOne_pending u fn pasid what p.1 p.2 t h, ho u rfl]

theorem requestRead_pending (s : State) (fn : Fn) (pasid : Option Nat) (what : Purpose) (addr len : Nat) :
    ∀ t, (State.requestRead s fn pasid what addr len) = some t → t.pending = s.pending := by
  intro t h; exact requestFold_pending fn pasid what s _ (some s) (by intro t h; cases h; rfl) t h

theorem execAtsInvalidate_pending (page : Nat) (pasid : Option Nat) (s : State) :
    ∃ t, (execAtsInvalidate page pasid s) = .next t ∧ t.pending = s.pending := by
  unfold execAtsInvalidate
  (try dsimp only)
  (repeat' split) <;> (refine ⟨_, rfl, ?_⟩) <;> (try simp [*]) <;> (try grind)

theorem execMsixUnmask_pending (fn : Fn) (vec : Nat) (s : State) :
    ∃ t, (execMsixUnmask fn vec s) = .next t ∧ t.pending = s.pending := by
  unfold execMsixUnmask
  (try dsimp only)
  (repeat' split) <;> (refine ⟨_, rfl, ?_⟩) <;> (try simp [*]) <;> (try grind)

@[simp] theorem endRequests_pending (s : State) :
    (State.endRequests s).pending = s.pending := by
  unfold State.endRequests
  dsimp only
  (repeat' split) <;> (try simp [*]) <;> (try grind)

@[simp] theorem linkDown_pending (s : State) :
    (State.linkDown s).pending = s.pending := by
  unfold State.linkDown
  dsimp only
  (repeat' split) <;> (try simp [*]) <;> (try grind)

@[simp] theorem aerLink_pending (s old : State) (e : AerError) :
    (State.aerLink s old e).pending = s.pending := by
  unfold State.aerLink
  dsimp only
  (repeat' split) <;> (try simp [*]) <;> (try grind)

theorem execPcieLinkUp_pending (s : State) :
    ∃ t, (execPcieLinkUp s) = .next t ∧ t.pending = s.pending := by
  unfold execPcieLinkUp
  (try dsimp only)
  (repeat' split) <;> (refine ⟨_, rfl, ?_⟩) <;> grind

/-! ### Rings -/

@[simp] theorem violDoorbell_pending (s : State) (r why : Nat) :
    (State.violDoorbell s r why).pending = s.pending := by
  unfold State.violDoorbell
  dsimp only
  (repeat' split) <;> (try simp [*]) <;> (try grind)

@[simp] theorem ring_doorbell_pending (s : State) (r : Nat) (v : W32) :
    (State.ring_doorbell s r v).pending = s.pending := by
  unfold State.ring_doorbell
  dsimp only
  (repeat' split) <;> (try simp [*]) <;> (try grind)

theorem execDoorbell_pending (ring : Nat) (value : W32) (s : State) :
    ∃ t, (execDoorbell ring value s) = .next t ∧ t.pending = s.pending := by
  unfold execDoorbell
  (try dsimp only)
  (repeat' split) <;> (refine ⟨_, rfl, ?_⟩) <;> (try simp [*]) <;> (try grind)

@[simp] theorem askTranslation_pending (s : State) (pasid : Option Nat) (addr : Nat) :
    (State.askTranslation s pasid addr).pending = s.pending := by
  unfold State.askTranslation
  dsimp only
  split
  · cases h : s.requestRead .pf0 pasid (.translation (addr / 4096) pasid) addr 8 with
    | none => simp
    | some t => simp [requestRead_pending _ _ _ _ _ _ t h]
  · rfl

theorem execDescriptorFetch_pending (ring : Nat) (s : State) :
    ∃ t, (execDescriptorFetch ring s) = .next t ∧ t.pending = s.pending := by
  unfold execDescriptorFetch
  (try dsimp only)
  (repeat' split) <;> (refine ⟨_, rfl, ?_⟩; (try simp [*]) <;> (try grind [requestRead_pending, askTranslation_pending]); done)

@[simp] theorem scatter_pending (s : State) (x1 : Nat) (x2 : List (Nat × Nat)) (x3 : Bytes) :
    (State.scatter s x1 x2 x3).pending = s.pending := by
  induction x2 generalizing s x3 with
  | nil => simp [State.scatter]
  | cons q l ih =>
    obtain ⟨a, n⟩ := q
    simp [State.scatter, ih]

@[simp] theorem rxOffer_pending (s : State) (r : Nat) (d : Desc) (t : HostRead) :
    (State.rxOffer s r d t).2.pending = s.pending := by
  unfold State.rxOffer
  dsimp only
  (repeat' split) <;> grind [→ hostRead_of]
theorem rxOffer_pending_of (s : State) (r : Nat) (d : Desc) (t : HostRead) {p0_ : RxOffer} {t_ : State} (hp_ : (State.rxOffer s r d t) = (p0_, t_)) : t_.pending = s.pending := by
  have := rxOffer_pending s r d t
  rw [hp_] at this
  exact this

@[simp] theorem takeBuffers_pending (s : State) (r : Nat) (x0 : List Desc) (x1 : List HostRead) (x2 : Nat) :
    (State.takeBuffers s r x0 x1 x2).2.pending = s.pending := by
  induction x0 generalizing s x1 x2 with
  | nil => cases x2 <;> simp [State.takeBuffers]
  | cons d ds ih =>
    cases x2 with
    | zero => simp [State.takeBuffers]
    | succ n =>
      simp only [State.takeBuffers]
      split <;> simp [ih, rxOffer_pending]
theorem takeBuffers_pending_of (s : State) (r : Nat) (x0 : List Desc) (x1 : List HostRead) (x2 : Nat) {p0_ : Option (List (Desc × RxOffer))} {t_ : State} (hp_ : (State.takeBuffers s r x0 x1 x2) = (p0_, t_)) : t_.pending = s.pending := by
  have := takeBuffers_pending s r x0 x1 x2
  rw [hp_] at this
  exact this

@[simp] theorem fillBuffers_pending (s : State) (x1 : Nat) (x2 : RxFrame) (x3 : Bytes) (x4 : List (Desc × RxOffer)) :
    (State.fillBuffers s x1 x2 x3 x4).pending = s.pending := by
  induction x4 generalizing s x3 with
  | nil => simp [State.fillBuffers]
  | cons q l ih =>
    obtain ⟨d, o⟩ := q
    cases o <;> simp [State.fillBuffers, ih]

@[simp] theorem rxDelivered_pending (s : State) (r : Nat) :
    (State.rxDelivered s r).pending = s.pending := by
  simp [State.rxDelivered, *]

@[simp] theorem popFrame_pending (s : State) (r : Nat) :
    (State.popFrame s r).pending = s.pending := by
  unfold State.popFrame
  dsimp only
  (repeat' split) <;> (try simp [*]) <;> (try grind)

@[simp] theorem rxTake_pending (s : State) (ring : Nat) (f : RxFrame) (got : List (Desc × RxOffer)) :
    (State.rxTake s ring f got).pending = s.pending := by
  unfold State.rxTake
  dsimp only
  (repeat' split) <;> (try simp [*]) <;> (try grind)

theorem execRxFrameDeliver_pending (ring : Nat) (tables : List HostRead) (s : State) :
    ∃ t, (execRxFrameDeliver ring tables s) = .next t ∧ t.pending = s.pending := by
  unfold execRxFrameDeliver
  (try dsimp only)
  (repeat' split) <;> (refine ⟨_, rfl, ?_⟩) <;> (try simp [*]) <;> (try grind [→ takeBuffers_pending_of])

theorem execTaggedCompletionResume_pending (ring : Nat) (s : State) :
    ∃ t, (execTaggedCompletionResume ring s) = .next t ∧ t.pending = s.pending := by
  unfold execTaggedCompletionResume
  (try dsimp only)
  (repeat' split) <;> (refine ⟨_, rfl, ?_⟩) <;> (try simp [*]) <;> (try grind)

theorem execEventsLost_pending (inst : Nat) (s : State) :
    ∃ t, (execEventsLost inst s) = .next t ∧ t.pending = s.pending := by
  unfold execEventsLost
  (try dsimp only)
  (repeat' split) <;> (refine ⟨_, rfl, ?_⟩) <;> (try simp [*]) <;> (try grind)

theorem execIntHoldoffExpiry_pending (ring : Nat) (s : State) :
    ∃ t, (execIntHoldoffExpiry ring s) = .next t ∧ t.pending = s.pending := by
  unfold execIntHoldoffExpiry
  (try dsimp only)
  (repeat' split) <;> (refine ⟨_, rfl, ?_⟩) <;> (try simp [*]) <;> (try grind)

theorem ringConflict_pending (s : State) (r legal : Nat) :
    ∀ t, (State.ringConflict s r legal) = some t → t.st.pending = s.pending := by
  intro t h
  unfold State.ringConflict at h
  dsimp only at h
  split at h <;> cases h
  rfl

@[simp] theorem queueBody_pending (c : Cmd) (ring0 : Bool) (legal : Nat) (body : Nat → State → Reply) (s : State)
    (h_body : ∀ y0 y1, (body y0 y1).st.pending = y1.pending) :
    (queueBody c ring0 legal body s).st.pending = s.pending := by
  unfold queueBody
  split
  · simp
  · split
    · simp
    · split
      · rename_i h
        exact ringConflict_pending _ _ _ _ h
      · simp [h_body]

@[simp] theorem queueConfigBody_pending (c : Cmd) (r : Nat) (s : State) :
    (queueConfigBody c r s).st.pending = s.pending := by
  unfold queueConfigBody
  dsimp only
  (repeat' split) <;> (try simp [*]) <;> (try grind)

theorem execQueueConfig_pending (c : Cmd) (s : State) :
    ∃ t, (execQueueConfig c s) = .next t ∧ t.pending = s.pending := by
  refine ⟨_, rfl, ?_⟩; apply runCmd_pending; intro _ _; (repeat' split) <;> simp_all

@[simp] theorem queueEnableBody_pending (c : Cmd) (r : Nat) (s : State) :
    (queueEnableBody c r s).st.pending = s.pending := by
  unfold queueEnableBody
  dsimp only
  (repeat' split) <;> (try simp [*]) <;> (try grind)

theorem execQueueEnable_pending (c : Cmd) (s : State) :
    ∃ t, (execQueueEnable c s) = .next t ∧ t.pending = s.pending := by
  unfold execQueueEnable
  (try dsimp only)
  (repeat' split) <;> (refine ⟨_, rfl, ?_⟩) <;> (try simp [*]) <;> (try grind)

@[simp] theorem flushRx_pending (s : State) (r : Nat) :
    (State.flushRx s r).pending = s.pending := by
  unfold State.flushRx
  dsimp only
  (repeat' split) <;> (try simp [*]) <;> (try grind)

theorem execQueueDrain_pending (c : Cmd) (s : State) :
    ∃ t, (execQueueDrain c s) = .next t ∧ t.pending = s.pending := by
  refine ⟨_, rfl, ?_⟩; apply runCmd_pending; intro _ _; (repeat' split) <;> simp_all

theorem execRingStopped_pending (ring : Nat) (s : State) :
    ∃ t, (execRingStopped ring s) = .next t ∧ t.pending = s.pending := by
  unfold execRingStopped
  (try dsimp only)
  (repeat' split) <;> (refine ⟨_, rfl, ?_⟩) <;> (try simp [*]) <;> (try grind)

theorem execQueueDisable_pending (c : Cmd) (s : State) :
    ∃ t, (execQueueDisable c s) = .next t ∧ t.pending = s.pending := by
  refine ⟨_, rfl, ?_⟩; apply runCmd_pending; intro _ _; (repeat' split) <;> simp_all

@[simp] theorem queueSetModeBody_pending (c : Cmd) (r : Nat) (s : State) :
    (queueSetModeBody c r s).st.pending = s.pending := by
  unfold queueSetModeBody
  dsimp only
  (repeat' split) <;> (try simp [*]) <;> (try grind)

theorem execQueueSetMode_pending (c : Cmd) (s : State) :
    ∃ t, (execQueueSetMode c s) = .next t ∧ t.pending = s.pending := by
  unfold execQueueSetMode
  (try dsimp only)
  (repeat' split) <;> (refine ⟨_, rfl, ?_⟩) <;> (try simp [*]) <;> (try grind)

theorem execQueueQuery_pending (c : Cmd) (s : State) :
    ∃ t, (execQueueQuery c s) = .next t ∧ t.pending = s.pending := by
  refine ⟨_, rfl, ?_⟩
  apply runCmd_pending
  intro _ _
  apply queueBody_pending
  intros
  rfl

theorem execSecRingDoorbell_pending (value : W32) (s : State) :
    ∃ t, (execSecRingDoorbell value s) = .next t ∧ t.pending = s.pending := by
  unfold execSecRingDoorbell
  (try dsimp only)
  (repeat' split) <;> (refine ⟨_, rfl, ?_⟩) <;> (try simp [*]) <;> (try grind)

@[simp] theorem setVote_pending (s : State) (holder d : Nat) (on : Bool) :
    (State.setVote s holder d on).pending = s.pending := by
  simp [State.setVote, *]

@[simp] theorem ringStart_pending (s : State) (r : Nat) :
    (State.ringStart s r).pending = s.pending := by
  unfold State.ringStart
  dsimp only
  (repeat' split) <;> (try simp [*]) <;> (try grind)

@[simp] theorem ringStop_pending (s : State) (r : Nat) :
    (State.ringStop s r).pending = s.pending := by
  unfold State.ringStop
  dsimp only
  (repeat' split) <;> (try simp [*]) <;> (try grind)

theorem execSecRingEnable_pending (value : W32) (s : State) :
    ∃ t, (execSecRingEnable value s) = .next t ∧ t.pending = s.pending := by
  unfold execSecRingEnable
  (try dsimp only)
  (repeat' split) <;> (refine ⟨_, rfl, ?_⟩) <;> (try simp [*]) <;> (try grind)

@[simp] theorem mring0Cfg_pending (s : State) (v : Nat) :
    (State.mring0Cfg s v).pending = s.pending := by
  unfold State.mring0Cfg
  dsimp only
  (repeat' split) <;> (try simp [*]) <;> (try grind)

theorem execMring0Enable_pending (value : W32) (s : State) :
    ∃ t, (execMring0Enable value s) = .next t ∧ t.pending = s.pending := by
  unfold execMring0Enable
  (try dsimp only)
  (repeat' split) <;> (refine ⟨_, rfl, ?_⟩) <;> (try simp [*]) <;> (try grind)

theorem execMring0Disable_pending (value : W32) (s : State) :
    ∃ t, (execMring0Disable value s) = .next t ∧ t.pending = s.pending := by
  unfold execMring0Disable
  (try dsimp only)
  (repeat' split) <;> (refine ⟨_, rfl, ?_⟩) <;> (try simp [*]) <;> (try grind)

/-! ### Classifier -/

@[simp] theorem setClsBank_pending (s : State) (b : Nat) (x : ClsBank) :
    (State.setClsBank s b x).pending = s.pending := by
  simp [State.setClsBank, *]

@[simp] theorem clsLookup_pending (s : State) (src : Nat) (vals : List Nat → List Nat) :
    (State.clsLookup s src vals).2.pending = s.pending := by
  unfold State.clsLookup
  dsimp only
  (repeat' split) <;> (try simp [*]) <;> (try grind)
theorem clsLookup_pending_of (s : State) (src : Nat) (vals : List Nat → List Nat) {p0_ : Option ClsHit} {t_ : State} (hp_ : (State.clsLookup s src vals) = (p0_, t_)) : t_.pending = s.pending := by
  have := clsLookup_pending s src vals
  rw [hp_] at this
  exact this

@[simp] theorem clsBankBody_pending (c : Cmd) (body : ClsBank → State → Reply) (s : State) (h_body : ∀ y0 y1,
    (body y0 y1).st.pending = y1.pending) :
    (clsBankBody c body s).st.pending = s.pending := by
  unfold clsBankBody
  dsimp only
  (repeat' split) <;> (try simp [*]) <;> (try grind)

@[simp] theorem clsBankConfigBody_pending (c : Cmd) (s : State) :
    (clsBankConfigBody c s).st.pending = s.pending := by
  unfold clsBankConfigBody
  dsimp only
  (repeat' split) <;> (try simp [*]) <;> (try grind)

theorem execClsBankConfig_pending (c : Cmd) (s : State) :
    ∃ t, (execClsBankConfig c s) = .next t ∧ t.pending = s.pending := by
  unfold execClsBankConfig
  (try dsimp only)
  (repeat' split) <;> (refine ⟨_, rfl, ?_⟩) <;> (try simp [*]) <;> (try grind)

@[simp] theorem clsInsertBody_pending (c : Cmd) (b : Bytes) (x : ClsBank) (s : State) :
    (clsInsertBody c b x s).st.pending = s.pending := by
  unfold clsInsertBody
  dsimp only
  (repeat' split) <;> (try simp [*]) <;> (try grind)

theorem execClsInsert_pending (c : Cmd) (s : State) :
    ∃ t, (execClsInsert c s) = .next t ∧ t.pending = s.pending := by
  unfold execClsInsert
  (try dsimp only)
  (repeat' split) <;> (refine ⟨_, rfl, ?_⟩) <;> (try simp [*]) <;> (try grind)

@[simp] theorem clsMoveEnd_pending (s : State) (bank : Nat) :
    (State.clsMoveEnd s bank).pending = s.pending := by
  unfold State.clsMoveEnd
  dsimp only
  (repeat' split) <;> (try simp [*]) <;> (try grind)

theorem execClsBlockMoveDone_pending (bank : Nat) (s : State) :
    ∃ t, (execClsBlockMoveDone bank s) = .next t ∧ t.pending = s.pending := by
  unfold execClsBlockMoveDone
  (try dsimp only)
  (repeat' split) <;> (refine ⟨_, rfl, ?_⟩) <;> (try simp [*]) <;> (try grind)

@[simp] theorem clsDrain_pending (s : State) :
    (State.clsDrain s).pending = s.pending := by
  simp [State.clsDrain, *]

theorem execClsDelete_pending (c : Cmd) (s : State) :
    ∃ t, (execClsDelete c s) = .next t ∧ t.pending = s.pending := by
  unfold execClsDelete
  (try dsimp only)
  (repeat' split) <;> (refine ⟨_, rfl, ?_⟩) <;> (try simp [*]) <;> (try grind)

@[simp] theorem clsQueryBody_pending (c : Cmd) (b : Bytes) (x : ClsBank) (s : State) :
    (clsQueryBody c b x s).st.pending = s.pending := by
  unfold clsQueryBody
  dsimp only
  (repeat' split) <;> (try simp [*]) <;> (try grind)

theorem execClsQuery_pending (c : Cmd) (s : State) :
    ∃ t, (execClsQuery c s) = .next t ∧ t.pending = s.pending := by
  unfold execClsQuery
  (try dsimp only)
  (repeat' split) <;> (refine ⟨_, rfl, ?_⟩) <;> (try simp [*]) <;> (try grind)

@[simp] theorem chartLine_pending (s : State) (chart : List (Nat × HostRead)) (base len k : Nat) :
    (State.chartLine s chart base len k).2.pending = s.pending := by
  unfold State.chartLine
  dsimp only
  (repeat' split) <;> grind [→ readResult_of]
theorem chartLine_pending_of (s : State) (chart : List (Nat × HostRead)) (base len k : Nat) {p0_ : Option Bytes} {t_ : State} (hp_ : (State.chartLine s chart base len k) = (p0_, t_)) : t_.pending = s.pending := by
  have := chartLine_pending s chart base len k
  rw [hp_] at this
  exact this

@[simp] theorem chartPass_pending (chart : List (Nat × HostRead)) (base len : Nat) (differs : Nat → Bytes → Bool)
    (x0 : List Nat) (s : State) :
    (State.chartPass chart base len differs x0 s).2.pending = s.pending := by
  induction x0 generalizing s with | nil => simp [State.chartPass] | cons q l ih => unfold State.chartPass; dsimp only; (repeat' split) <;> (try simp [ih, *]) <;> (try grind [→ chartLine_pending_of])
theorem chartPass_pending_of (chart : List (Nat × HostRead)) (base len : Nat) (differs : Nat → Bytes → Bool) (x0 : List Nat) (s : State) {p0_ : List Nat} {t_ : State} (hp_ : (State.chartPass chart base len differs x0 s) = (p0_, t_)) : t_.pending = s.pending := by
  have := chartPass_pending chart base len differs x0 s
  rw [hp_] at this
  exact this

@[simp] theorem chartReads_pending (s : State) (base len first count : Nat) :
    (State.chartReads s base len first count).pending = s.pending := by
  simp [State.chartReads, *]

@[simp] theorem clsChartCheckBody_pending (c : Cmd) (b : Bytes) (chart : List (Nat × HostRead)) (x : ClsBank)
    (s : State) :
    (clsChartCheckBody c b chart x s).st.pending = s.pending := by
  unfold clsChartCheckBody
  dsimp only
  (repeat' split) <;> (try simp [*]) <;> (try grind)

theorem execClsChartCheck_pending (c : Cmd) (chart : List (Nat × HostRead)) (s : State) :
    ∃ t, (execClsChartCheck c chart s) = .next t ∧ t.pending = s.pending := by
  unfold execClsChartCheck
  (try dsimp only)
  (repeat' split) <;> (refine ⟨_, rfl, ?_⟩) <;> (try simp [*]) <;> (try grind)

@[simp] theorem clsRecheck_pending (s : State) (k : ClsCheck) (position : Nat) (line : Option Bytes) :
    (State.clsRecheck s k position line).pending = s.pending := by
  unfold State.clsRecheck
  dsimp only
  (repeat' split) <;> (try simp [*]) <;> (try grind)

theorem execClsChartRecheck_pending (position : Nat) (line : HostRead) (s : State) :
    ∃ t, (execClsChartRecheck position line s) = .next t ∧ t.pending = s.pending := by
  unfold execClsChartRecheck
  (try dsimp only)
  (repeat' split) <;> (refine ⟨_, rfl, ?_⟩) <;> (try simp [*]) <;> (try grind)

@[simp] theorem endClsCheck_pending (s : State) (k : ClsCheck) (outcome : Nat) :
    (State.endClsCheck s k outcome).pending = s.pending := by
  unfold State.endClsCheck
  dsimp only
  (repeat' split) <;> (try simp [*]) <;> (try grind)

theorem execClsChartCheckDone_pending (s : State) :
    ∃ t, (execClsChartCheckDone s) = .next t ∧ t.pending = s.pending := by
  unfold execClsChartCheckDone
  (try dsimp only)
  (repeat' split) <;> (refine ⟨_, rfl, ?_⟩) <;> (try simp [*]) <;> (try grind)

@[simp] theorem clsReset_pending (s : State) :
    (State.clsReset s).pending = s.pending := by
  unfold State.clsReset
  (try dsimp only)
  (repeat' split) <;> simp [*]

/-! ### FlowBase -/

@[simp] theorem flowDeleteAt_pending (s : State) (pl : FlowPlace) :
    (State.flowDeleteAt s pl).pending = s.pending := by
  unfold State.flowDeleteAt
  dsimp only
  (repeat' split) <;> grind

@[simp] theorem flowDeleteQuota_pending (s : State) (base count : Nat) :
    (State.flowDeleteQuota s base count).pending = s.pending := by
  unfold State.flowDeleteQuota
  apply foldl_pending
  intro s a
  split <;> simp

@[simp] theorem qdrRead_pending (s : State) (bank off : Nat) :
    (State.qdrRead s bank off).2.pending = s.pending := by
  unfold State.qdrRead
  dsimp only
  (repeat' split) <;> (try simp [*]) <;> (try grind)
theorem qdrRead_pending_of (s : State) (bank off : Nat) {p0_ : Bool} {t_ : State} (hp_ : (State.qdrRead s bank off) = (p0_, t_)) : t_.pending = s.pending := by
  have := qdrRead_pending s bank off
  rw [hp_] at this
  exact this

@[simp] theorem qdrWrite_pending (s : State) (bank off : Nat) :
    (State.qdrWrite s bank off).pending = s.pending := by
  unfold State.qdrWrite
  dsimp only
  (repeat' split) <;> grind

@[simp] theorem lookupSlots_pending (p : Nat) (key : Bytes) (c : Nat × Nat) (x0 : List Nat) (s : State) :
    (State.lookupSlots p key c x0 s).2.pending = s.pending := by
  induction x0 generalizing s with | nil => simp [State.lookupSlots] | cons q l ih => unfold State.lookupSlots; dsimp only; (repeat' split) <;> (try simp [ih, *]) <;> (try grind [→ qdrRead_pending_of])
theorem lookupSlots_pending_of (p : Nat) (key : Bytes) (c : Nat × Nat) (x0 : List Nat) (s : State) {p0_ : Option Nat} {t_ : State} (hp_ : (State.lookupSlots p key c x0 s) = (p0_, t_)) : t_.pending = s.pending := by
  have := lookupSlots_pending p key c x0 s
  rw [hp_] at this
  exact this

@[simp] theorem readTags_pending (x0 : List (Nat × Nat)) (s : State) :
    (State.readTags x0 s).2.pending = s.pending := by
  induction x0 generalizing s with | nil => simp [State.readTags] | cons q l ih => unfold State.readTags; dsimp only; (repeat' split) <;> (try simp [ih, *]) <;> (try grind [→ qdrRead_pending_of])
theorem readTags_pending_of (x0 : List (Nat × Nat)) (s : State) {p0_ : List (Nat × Nat)} {t_ : State} (hp_ : (State.readTags x0 s) = (p0_, t_)) : t_.pending = s.pending := by
  have := readTags_pending x0 s
  rw [hp_] at this
  exact this

@[simp] theorem lookupTagged_pending (p : Nat) (key : Bytes) (x0 : List (Nat × Nat)) (s : State) :
    (State.lookupTagged p key x0 s).2.pending = s.pending := by
  induction x0 generalizing s with
  | nil => simp [State.lookupTagged]
  | cons c cs ih =>
    simp only [State.lookupTagged]
    split <;> rename_i h
    · exact lookupSlots_pending_of _ _ _ _ _ h
    · rw [ih]
      exact lookupSlots_pending_of _ _ _ _ _ h
theorem lookupTagged_pending_of (p : Nat) (key : Bytes) (x0 : List (Nat × Nat)) (s : State) {p0_ : Option FlowPlace} {t_ : State} (hp_ : (State.lookupTagged p key x0 s) = (p0_, t_)) : t_.pending = s.pending := by
  have := lookupTagged_pending p key x0 s
  rw [hp_] at this
  exact this

@[simp] theorem lookupBuckets_pending (p : Nat) (key : Bytes) (cs : List (Nat × Nat)) (s : State) :
    (State.lookupBuckets p key cs s).2.pending = s.pending := by
  unfold State.lookupBuckets
  dsimp only
  (repeat' split) <;> grind [→ readTags_pending_of, → lookupTagged_pending_of]
theorem lookupBuckets_pending_of (p : Nat) (key : Bytes) (cs : List (Nat × Nat)) (s : State) {p0_ : Option FlowPlace} {t_ : State} (hp_ : (State.lookupBuckets p key cs s) = (p0_, t_)) : t_.pending = s.pending := by
  have := lookupBuckets_pending p key cs s
  rw [hp_] at this
  exact this

@[simp] theorem flowMatch_pending (s : State) (h len : Nat) (fin rst : Bool) :
    (State.flowMatch s h len fin rst).pending = s.pending := by
  unfold State.flowMatch
  dsimp only
  (repeat' split) <;> (try simp [*]) <;> (try grind [→ qdrRead_pending_of])

@[simp] theorem flowLookup_pending (s : State) (p : Nat) (key : Bytes) :
    (State.flowLookup s p key).2.pending = s.pending := by
  unfold State.flowLookup
  dsimp only
  (repeat' split) <;> grind [→ lookupBuckets_pending_of]
theorem flowLookup_pending_of (s : State) (p : Nat) (key : Bytes) {p0_ : Option FlowEntry} {t_ : State} (hp_ : (State.flowLookup s p key) = (p0_, t_)) : t_.pending = s.pending := by
  have := flowLookup_pending s p key
  rw [hp_] at this
  exact this

/-! ### FlowTable -/

theorem flowPermit_pending (s : State) (h : Nat) (owner : Option Nat) (e : FlowEntry) :
    ∀ t, (State.flowPermit s h owner e) = some t → t.st.pending = s.pending := by
  unfold State.flowPermit
  intro t h
  (repeat' split at h) <;> (try cases h) <;> simp_all

@[simp] theorem flowInsertBody_pending (c : Cmd) (b : Bytes) (s : State) :
    (flowInsertBody c b s).st.pending = s.pending := by
  unfold flowInsertBody
  dsimp only
  (repeat' split) <;> (try simp (disch := (intros; (repeat' split) <;> simp_all)) [*]) <;> grind [flowPermit_pending]

theorem execFlowInsert_pending (c : Cmd) (s : State) :
    ∃ t, (execFlowInsert c s) = .next t ∧ t.pending = s.pending := by
  unfold execFlowInsert
  (try dsimp only)
  (repeat' split) <;> (refine ⟨_, rfl, ?_⟩) <;> (try simp [*]) <;> (try grind)

@[simp] theorem flowWriteBody_pending (c : Cmd) (b : Bytes) (s : State) :
    (flowWriteBody c b s).st.pending = s.pending := by
  unfold flowWriteBody
  dsimp only
  split
  · simp
  · split
    · simp
    · split
      · rename_i h
        exact flowPermit_pending _ _ _ _ _ h
      · (repeat' split) <;> simp

theorem execFlowWrite_pending (c : Cmd) (s : State) :
    ∃ t, (execFlowWrite c s) = .next t ∧ t.pending = s.pending := by
  refine ⟨_, rfl, ?_⟩
  apply runCmd_pending
  intro _ _
  exact flowWriteBody_pending _ _ _

@[simp] theorem flowDeleteBody_pending (c : Cmd) (s : State) :
    (flowDeleteBody c s).st.pending = s.pending := by
  unfold flowDeleteBody
  dsimp only
  (repeat' split) <;> (try simp [*]) <;> (try grind)

theorem execFlowDelete_pending (c : Cmd) (s : State) :
    ∃ t, (execFlowDelete c s) = .next t ∧ t.pending = s.pending := by
  unfold execFlowDelete
  (try dsimp only)
  (repeat' split) <;> (refine ⟨_, rfl, ?_⟩) <;> (try simp [*]) <;> (try grind)

@[simp] theorem flowQueryBody_pending (c : Cmd) (b : Bytes) (s : State) :
    (flowQueryBody c b s).st.pending = s.pending := by
  unfold flowQueryBody
  dsimp only
  (repeat' split) <;> (try simp [*]) <;> (try grind)

theorem execFlowQuery_pending (c : Cmd) (s : State) :
    ∃ t, (execFlowQuery c s) = .next t ∧ t.pending = s.pending := by
  unfold execFlowQuery
  (try dsimp only)
  (repeat' split) <;> (refine ⟨_, rfl, ?_⟩) <;> (try simp [*]) <;> (try grind)

@[simp] theorem freshSeeds_pending (s : State) (no : List W64) :
    (State.freshSeeds s no).2.2.pending = s.pending := by
  unfold State.freshSeeds
  dsimp only
  (repeat' split) <;> grind [→ draw_of]
theorem freshSeeds_pending_of (s : State) (no : List W64) {p0_ : W64} {p1_ : W64} {t_ : State} (hp_ : (State.freshSeeds s no) = (p0_, p1_, t_)) : t_.pending = s.pending := by
  have := freshSeeds_pending s no
  rw [hp_] at this
  exact this

@[simp] theorem flowSwingBody_pending (c : Cmd) (s : State) :
    (flowSwingBody c s).st.pending = s.pending := by
  unfold flowSwingBody
  dsimp only
  (repeat' split) <;> (try simp [*]) <;> (try grind [→ freshSeeds_pending_of])

theorem execFlowSwing_pending (c : Cmd) (s : State) :
    ∃ t, (execFlowSwing c s) = .next t ∧ t.pending = s.pending := by
  unfold execFlowSwing
  (try dsimp only)
  (repeat' split) <;> (refine ⟨_, rfl, ?_⟩) <;> (try simp [*]) <;> (try grind)

@[simp] theorem flowJobEnd_pending (s : State) (job outcome a b : Nat) :
    (State.flowJobEnd s job outcome a b).pending = s.pending := by
  unfold State.flowJobEnd
  dsimp only
  (repeat' split) <;> (try simp [*]) <;> (try grind)

theorem execFlowSwingStall_pending (s : State) :
    ∃ t, (execFlowSwingStall s) = .next t ∧ t.pending = s.pending := by
  unfold execFlowSwingStall
  (try dsimp only)
  (repeat' split) <;> (refine ⟨_, rfl, ?_⟩) <;> (try simp [*]) <;> (try grind)

theorem execFlowSwingComplete_pending (s : State) :
    ∃ t, (execFlowSwingComplete s) = .next t ∧ t.pending = s.pending := by
  unfold execFlowSwingComplete
  (try dsimp only)
  (repeat' split) <;> (refine ⟨_, rfl, ?_⟩) <;> (try simp [*]) <;> (try grind)

@[simp] theorem flowChartCheckBody_pending (c : Cmd) (chart : List (Nat × HostRead)) (b : Bytes) (s : State) :
    (flowChartCheckBody c chart b s).st.pending = s.pending := by
  unfold flowChartCheckBody
  dsimp only
  (repeat' split) <;> (try simp [*]) <;> (try grind)

theorem execFlowChartCheck_pending (c : Cmd) (chart : List (Nat × HostRead)) (s : State) :
    ∃ t, (execFlowChartCheck c chart s) = .next t ∧ t.pending = s.pending := by
  unfold execFlowChartCheck
  (try dsimp only)
  (repeat' split) <;> (refine ⟨_, rfl, ?_⟩) <;> (try simp [*]) <;> (try grind)

@[simp] theorem flowRecheck_pending (s : State) (k : FlowCheck) (h : Nat) (line : Option Bytes) :
    (State.flowRecheck s k h line).pending = s.pending := by
  unfold State.flowRecheck
  dsimp only
  (repeat' split) <;> (try simp [*]) <;> (try grind)

theorem execFlowChartRecheck_pending (handle : Nat) (line : HostRead) (s : State) :
    ∃ t, (execFlowChartRecheck handle line s) = .next t ∧ t.pending = s.pending := by
  unfold execFlowChartRecheck
  (try dsimp only)
  (repeat' split) <;> (refine ⟨_, rfl, ?_⟩) <;> (try simp [*]) <;> (try grind)

theorem execFlowChartCheckDone_pending (s : State) :
    ∃ t, (execFlowChartCheckDone s) = .next t ∧ t.pending = s.pending := by
  unfold execFlowChartCheckDone
  (try dsimp only)
  (repeat' split) <;> (refine ⟨_, rfl, ?_⟩) <;> (try simp [*]) <;> (try grind)

@[simp] theorem flowReloadBody_pending (c : Cmd) (b : Bytes) (s : State) :
    (flowReloadBody c b s).st.pending = s.pending := by
  unfold flowReloadBody
  dsimp only
  (repeat' split) <;> (try simp [*]) <;> (try grind)

theorem execFlowReloadBank_pending (c : Cmd) (s : State) :
    ∃ t, (execFlowReloadBank c s) = .next t ∧ t.pending = s.pending := by
  unfold execFlowReloadBank
  (try dsimp only)
  (repeat' split) <;> (refine ⟨_, rfl, ?_⟩) <;> (try simp [*]) <;> (try grind)

theorem reloadOne_pending (base : Nat) (lines : List (Nat × HostRead)) (r : State × Nat × Nat) (h : Nat) :
    (reloadOne base lines r h).1.pending = r.1.pending := by
  unfold reloadOne
  split
  · rename_i hr
    simp [chartLine_pending_of _ _ _ _ _ hr]
  · rename_i hr
    split
    · simp [chartLine_pending_of _ _ _ _ _ hr]
    · dsimp only
      (repeat' split) <;> simp [chartLine_pending_of _ _ _ _ _ hr]

theorem reloadFold_pending (base : Nat) (lines : List (Nat × HostRead)) (hs : List Nat) (r : State × Nat × Nat) :
    (hs.foldl (reloadOne base lines) r).1.pending = r.1.pending := by
  induction hs generalizing r with
  | nil => rfl
  | cons a l ih => rw [List.foldl_cons, ih, reloadOne_pending]

theorem execFlowReloadDone_pending (lines : List (Nat × HostRead)) (s : State) :
    ∃ t, (execFlowReloadDone lines s) = .next t ∧ t.pending = s.pending := by
  unfold execFlowReloadDone
  dsimp only
  (repeat' split) <;> refine ⟨_, rfl, ?_⟩ <;> simp [reloadFold_pending]

theorem execFlowWakeScanDone_pending (s : State) :
    ∃ t, (execFlowWakeScanDone s) = .next t ∧ t.pending = s.pending := by
  unfold execFlowWakeScanDone
  (try dsimp only)
  (repeat' split) <;> (refine ⟨_, rfl, ?_⟩) <;> (try simp [*]) <;> (try grind [→ draw_of])

theorem reportAged_pending (s : State) (e : FlowEntry) (del : Bool) (r : FlowRec) :
    ∀ t, (State.reportAged s e del r) = some t → t.pending = s.pending := by
  intro t h
  unfold State.reportAged at h
  dsimp only at h
  (repeat' split at h) <;> cases h <;> (try split) <;> simp

@[simp] theorem sweepOne_pending (s : State) (h : Nat) :
    (State.sweepOne s h).pending = s.pending := by
  unfold State.sweepOne
  dsimp only
  (repeat' split) <;> (try rfl)
  all_goals
    rename_i h _
    have := reportAged_pending _ _ _ _ _ h
    simp_all

theorem execFlowAgingSweep_pending (s : State) :
    ∃ t, (execFlowAgingSweep s) = .next t ∧ t.pending = s.pending := by
  unfold execFlowAgingSweep
  (try dsimp only)
  (repeat' split) <;> (refine ⟨_, rfl, ?_⟩) <;> (try simp [*]) <;> (try grind)

theorem execFlowProfCommit_pending (value : W32) (s : State) :
    ∃ t, (execFlowProfCommit value s) = .next t ∧ t.pending = s.pending := by
  unfold execFlowProfCommit
  (try dsimp only)
  (repeat' split) <;> (refine ⟨_, rfl, ?_⟩) <;> (try simp [*]) <;> (try grind)

@[simp] theorem flowReset_pending (s : State) :
    (State.flowReset s).pending = s.pending := by
  unfold State.flowReset
  dsimp only
  (repeat' split) <;> (try simp [*]) <;> (try grind)

@[simp] theorem flowCold_pending (s : State) :
    (State.flowCold s).pending = s.pending := by
  unfold State.flowCold
  dsimp only
  (repeat' split) <;> grind [→ freshSeeds_pending_of]

@[simp] theorem flowLose_pending (s : State) (lost : Nat) :
    (State.flowLose s lost).pending = s.pending := by
  unfold State.flowLose
  dsimp only
  (repeat' split) <;> grind [→ freshSeeds_pending_of]

/-! ### Sched -/

@[simp] theorem descMore_pending (s : State) (f : Frame) (n : Nat) :
    (State.descMore s f n).pending = s.pending := by
  unfold State.descMore
  (try dsimp only)
  (repeat' split) <;> simp [*]

@[simp] theorem descNote_pending (s : State) (f : Frame) (g : Desc → Desc) :
    (State.descNote s f g).pending = s.pending := by
  unfold State.descNote
  (try dsimp only)
  (repeat' split) <;> simp [*]

@[simp] theorem frameEnd_pending (s : State) (f : Frame) (fail : Option (Nat × Nat)) :
    (State.frameEnd s f fail).pending = s.pending := by
  simp [State.frameEnd, *]

@[simp] theorem frameTaken_pending (s : State) (f : Frame) :
    (State.frameTaken s f).pending = s.pending := by
  simp [State.frameTaken, *]

@[simp] theorem stampTx_pending (s : State) (f : Frame) (delay : Nat) :
    (State.stampTx s f delay).pending = s.pending := by
  simp [State.stampTx, *]

@[simp] theorem schedCount_pending (s : State) (k : Nat) :
    (State.schedCount s k).pending = s.pending := by
  simp [State.schedCount, *]

@[simp] theorem setQueue_pending (s : State) (q : Nat) (l : List Queued) :
    (State.setQueue s q l).pending = s.pending := by
  simp [State.setQueue, *]

@[simp] theorem charge_pending (s : State) (id len : Nat) :
    (State.charge s id len).pending = s.pending := by
  unfold State.charge
  dsimp only
  (repeat' split) <;> (try simp [*]) <;> (try grind)

theorem execSchedRefill_pending (s : State) :
    ∃ t, (execSchedRefill s) = .next t ∧ t.pending = s.pending := by
  unfold execSchedRefill
  (try dsimp only)
  (repeat' split) <;> (refine ⟨_, rfl, ?_⟩) <;> (try simp [*]) <;> (try grind)

@[simp] theorem nodeDrop_pending (s : State) (id : Nat) :
    (State.nodeDrop s id).pending = s.pending := by
  unfold State.nodeDrop
  dsimp only
  (repeat' split) <;> (try simp [*]) <;> (try grind)

@[simp] theorem enqueueFrame_pending (s : State) (f : Frame) (v p : Nat) :
    (State.enqueueFrame s f v p).2.pending = s.pending := by
  unfold State.enqueueFrame
  dsimp only
  (repeat' split) <;> (try simp [*]) <;> (try grind [→ holdCells_of])
theorem enqueueFrame_pending_of (s : State) (f : Frame) (v p : Nat) {p0_ : Option (Nat × Nat)} {t_ : State} (hp_ : (State.enqueueFrame s f v p) = (p0_, t_)) : t_.pending = s.pending := by
  have := enqueueFrame_pending s f v p
  rw [hp_] at this
  exact this

@[simp] theorem leaveQueue_pending (s : State) (q : Queued) (p : Nat) :
    (State.leaveQueue s q p).pending = s.pending := by
  simp [State.leaveQueue, *]

@[simp] theorem admitRx_pending (s : State) (r : Nat) (f : RxFrame) :
    (State.admitRx s r f).2.pending = s.pending := by
  unfold State.admitRx
  dsimp only
  (repeat' split) <;> (try simp [*]) <;> (try grind [→ holdCells_of])
theorem admitRx_pending_of (s : State) (r : Nat) (f : RxFrame) {p0_ : Bool} {t_ : State} (hp_ : (State.admitRx s r f) = (p0_, t_)) : t_.pending = s.pending := by
  have := admitRx_pending s r f
  rw [hp_] at this
  exact this

theorem selectLoop_of {p n : Nat} {s t : State} {f : Queued} {q : Nat} (h : State.selectLoop p n s = some (f, q, t)) :
    t.pending = s.pending := by
  induction n generalizing s with
  | zero => cases h
  | succ n ih =>
    unfold State.selectLoop at h
    dsimp only at h
    (repeat' split at h) <;> first
      | (have e := ih h; exact e)
      | (cases h <;> simp)

theorem select_of {p : Nat} {s t : State} {f : Queued} {q : Nat} (h : s.select p = some (f, q, t)) : t.pending = s.pending := by
  unfold State.select at h
  (repeat' split at h) <;> (try cases h)
  exact selectLoop_of h

@[simp] theorem discardQueues_pending (s : State) (pred : Nat → Bool) (k : Nat) (fail : Nat × Nat) :
    (State.discardQueues s pred k fail).pending = s.pending := by
  unfold State.discardQueues
  dsimp only
  (repeat' split) <;> (try simp [*]) <;> (try grind)

@[simp] theorem schedHove_pending (s : State) :
    (State.schedHove s).pending = s.pending := by
  unfold State.schedHove
  dsimp only
  (repeat' split) <;> (try simp [*]) <;> (try grind)

@[simp] theorem schedPurge_pending (s : State) (i : Nat) :
    (State.schedPurge s i).pending = s.pending := by
  unfold State.schedPurge
  dsimp only
  (repeat' split) <;> (try simp [*]) <;> (try grind)

@[simp] theorem mtrCount_pending (s : State) (k : Nat) :
    (State.mtrCount s k).pending = s.pending := by
  simp [State.mtrCount, *]

@[simp] theorem meterRun_pending (s : State) (k len : Nat) (inYellow : Bool) :
    (State.meterRun s k len inYellow).2.2.pending = s.pending := by
  unfold State.meterRun
  dsimp only
  (repeat' split) <;> (try simp [*]) <;> (try grind [→ qdrRead_pending_of])
theorem meterRun_pending_of (s : State) (k len : Nat) (inYellow : Bool) {p0_ : Colour} {p1_ : Nat} {t_ : State} (hp_ : (State.meterRun s k len inYellow) = (p0_, p1_, t_)) : t_.pending = s.pending := by
  have := meterRun_pending s k len inYellow
  rw [hp_] at this
  exact this

theorem execMeterRefresh_pending (s : State) :
    ∃ t, (execMeterRefresh s) = .next t ∧ t.pending = s.pending := by
  unfold execMeterRefresh
  (try dsimp only)
  (repeat' split) <;> (refine ⟨_, rfl, ?_⟩) <;> grind

@[simp] theorem meterLose_pending (s : State) (lost : Nat) :
    (State.meterLose s lost).pending = s.pending := by
  simp [State.meterLose, *]

theorem execSoundingRound_pending (set : Nat) (s : State) :
    ∃ t, (execSoundingRound set s) = .next t ∧ t.pending = s.pending := by
  unfold execSoundingRound
  (try dsimp only)
  (repeat' split) <;> (refine ⟨_, rfl, ?_⟩) <;> (try simp [*]) <;> (try grind)

@[simp] theorem stageNode_pending (s : State) (id : Nat) (data : Bytes) :
    (State.stageNode s id data).st.pending = s.pending := by
  unfold State.stageNode
  dsimp only
  (repeat' split) <;> (try simp [*]) <;> (try grind)

@[simp] theorem instSetShareBody_pending (c : Cmd) (s : State) :
    (instSetShareBody c s).st.pending = s.pending := by
  unfold instSetShareBody
  (try dsimp only)
  (repeat' split) <;> simp [*]

theorem execInstSetShare_pending (c : Cmd) (s : State) :
    ∃ t, (execInstSetShare c s) = .next t ∧ t.pending = s.pending := by
  unfold execInstSetShare
  (try dsimp only)
  (repeat' split) <;> (refine ⟨_, rfl, ?_⟩) <;> (try simp [*]) <;> (try grind)

@[simp] theorem schedNodeConfigBody_pending (c : Cmd) (s : State) :
    (schedNodeConfigBody c s).st.pending = s.pending := by
  unfold schedNodeConfigBody
  dsimp only
  (repeat' split) <;> (try simp [*]) <;> (try grind)

theorem execSchedNodeConfig_pending (c : Cmd) (s : State) :
    ∃ t, (execSchedNodeConfig c s) = .next t ∧ t.pending = s.pending := by
  unfold execSchedNodeConfig
  (try dsimp only)
  (repeat' split) <;> (refine ⟨_, rfl, ?_⟩) <;> (try simp [*]) <;> (try grind)

@[simp] theorem meterCmd_pending (c : Cmd) (kind : Nat) (body : State → Reply) (s : State) (h_body : ∀ y0,
    (body y0).st.pending = y0.pending) :
    (meterCmd c kind body s).st.pending = s.pending := by
  simp [meterCmd, *]

@[simp] theorem meterProfileBody_pending (c : Cmd) (s : State) :
    (meterProfileBody c s).st.pending = s.pending := by
  unfold meterProfileBody
  dsimp only
  (repeat' split) <;> (try simp [*]) <;> (try grind)

theorem execSchedMeterProfile_pending (c : Cmd) (s : State) :
    ∃ t, (execSchedMeterProfile c s) = .next t ∧ t.pending = s.pending := by
  unfold execSchedMeterProfile
  (try dsimp only)
  (repeat' split) <;> (refine ⟨_, rfl, ?_⟩) <;> (try simp [*]) <;> (try grind)

@[simp] theorem meterAssignBody_pending (c : Cmd) (s : State) :
    (meterAssignBody c s).st.pending = s.pending := by
  unfold meterAssignBody
  dsimp only
  (repeat' split) <;> (try simp [*]) <;> (try grind)

theorem execSchedMeterAssign_pending (c : Cmd) (s : State) :
    ∃ t, (execSchedMeterAssign c s) = .next t ∧ t.pending = s.pending := by
  unfold execSchedMeterAssign
  (try dsimp only)
  (repeat' split) <;> (refine ⟨_, rfl, ?_⟩) <;> (try simp [*]) <;> (try grind)

@[simp] theorem meterReadBody_pending (c : Cmd) (s : State) :
    (meterReadBody c s).st.pending = s.pending := by
  unfold meterReadBody
  dsimp only
  (repeat' split) <;> (try simp [*]) <;> (try grind)

theorem execSchedMeterRead_pending (c : Cmd) (s : State) :
    ∃ t, (execSchedMeterRead c s) = .next t ∧ t.pending = s.pending := by
  unfold execSchedMeterRead
  (try dsimp only)
  (repeat' split) <;> (refine ⟨_, rfl, ?_⟩) <;> (try simp [*]) <;> (try grind)

@[simp] theorem soundingBody_pending (c : Cmd) (s : State) :
    (soundingBody c s).st.pending = s.pending := by
  unfold soundingBody
  dsimp only
  (repeat' split) <;> (try simp [*]) <;> (try grind)

theorem execSchedSoundingConfig_pending (c : Cmd) (s : State) :
    ∃ t, (execSchedSoundingConfig c s) = .next t ∧ t.pending = s.pending := by
  unfold execSchedSoundingConfig
  (try dsimp only)
  (repeat' split) <;> (refine ⟨_, rfl, ?_⟩) <;> (try simp [*]) <;> (try grind)

@[simp] theorem schedReset_pending (s : State) :
    (State.schedReset s).pending = s.pending := by
  simp [State.schedReset, *]

@[simp] theorem schedWake_pending (s : State) (keptLost : Bool) :
    (State.schedWake s keptLost).pending = s.pending := by
  simp [State.schedWake, *]

end Sys2Proof.Machine
end

