-- ==== Sys2Proof/Laws/QueueFrame.lean ====
section
/-! SUPPORT. The queue of waiting commands is touched by no operation and by no command of
the security engine, the NVMe target, the pipeline, the ports and the redundancy ring: one lemma per
definition, each from the lemmas of the definitions it calls. A lemma `<name>_pending_of` says the same of a pair that has
been taken apart. -/

set_option Elab.async false

namespace Sys2Proof.Machine
open Sys2Proof

/-! ### Cipher -/

@[simp] theorem ciphCount_pending (s : State) (k : Nat) :
    (State.ciphCount s k).pending = s.pending := by
  simp [State.ciphCount, *]

@[simp] theorem setCtx_pending (s : State) (h : Nat) (x : Ctx) :
    (State.setCtx s h x).pending = s.pending := by
  simp [State.setCtx, *]

@[simp] theorem ctxEvent_pending (s : State) (x : Ctx) (kind : Nat) (body : Bytes) :
    (State.ctxEvent s x kind body).pending = s.pending := by
  simp [State.ctxEvent, *]

@[simp] theorem touchKey_pending (s : State) (h : Nat) :
    (State.touchKey s h).pending = s.pending := by
  simp [State.touchKey, *]

@[simp] theorem putKey_pending (s : State) (h : Nat) (x : Ctx) (key : Bytes) :
    (State.putKey s h x key).pending = s.pending := by
  unfold State.putKey
  dsimp only
  (repeat' split) <;> (try simp [*]) <;> (try grind)

@[simp] theorem needKey_pending (s : State) (h : Nat) (x : Ctx) (unwrap : Bool) :
    (State.needKey s h x unwrap).pending = s.pending := by
  simp [State.needKey, *]

@[simp] theorem loadKey_pending (s : State) (h : Nat) (x : Ctx) :
    (State.loadKey s h x).2.pending = s.pending := by
  unfold State.loadKey
  (try dsimp only)
  (repeat' split) <;> simp [*]
theorem loadKey_pending_of (s : State) (h : Nat) (x : Ctx) {p0_ : Bool} {t_ : State} (hp_ : (State.loadKey s h x) = (p0_, t_)) : t_.pending = s.pending := by
  have := loadKey_pending s h x
  rw [hp_] at this
  exact this

@[simp] theorem ctxUsable_pending (s : State) (h : Nat) :
    (State.ctxUsable s h).2.pending = s.pending := by
  unfold State.ctxUsable
  (try dsimp only)
  (repeat' split) <;> simp [*]
theorem ctxUsable_pending_of (s : State) (h : Nat) {p0_ : Except (Nat × Nat) Ctx} {t_ : State} (hp_ : (State.ctxUsable s h) = (p0_, t_)) : t_.pending = s.pending := by
  have := ctxUsable_pending s h
  rw [hp_] at this
  exact this

@[simp] theorem pbCheck_pending (s : State) (h : Nat) (b : Bytes) :
    (State.pbCheck s h b).2.pending = s.pending := by
  unfold State.pbCheck
  grind [ciphCount_pending, touchKey_pending, ctxUsable_pending, → ctxUsable_pending_of]
theorem pbCheck_pending_of (s : State) (h : Nat) (b : Bytes) {p0_ : Bool} {t_ : State} (hp_ : (State.pbCheck s h b) = (p0_, t_)) : t_.pending = s.pending := by
  have := pbCheck_pending s h b
  rw [hp_] at this
  exact this

@[simp] theorem assignPn_pending (s : State) (h : Nat) (x : Ctx) :
    (State.assignPn s h x).2.pending = s.pending := by
  unfold State.assignPn
  dsimp only
  (repeat' split) <;> (try simp [*]) <;> (try grind)
theorem assignPn_pending_of (s : State) (h : Nat) (x : Ctx) {p0_ : Option Nat} {t_ : State} (hp_ : (State.assignPn s h x) = (p0_, t_)) : t_.pending = s.pending := by
  have := assignPn_pending s h x
  rw [hp_] at this
  exact this

@[simp] theorem pnResume_pending (s : State) :
    (State.pnResume s).pending = s.pending := by
  simp [State.pnResume, *]

theorem execCiphSaRebuildDone_pending (s : State) :
    ∃ t, (execCiphSaRebuildDone s) = .next t ∧ t.pending = s.pending := by
  unfold execCiphSaRebuildDone
  (try dsimp only)
  (repeat' split) <;> (refine ⟨_, rfl, ?_⟩) <;> grind

@[simp] theorem setRaw_pending (s : State) (n : Nat) (x : RawLane) :
    (State.setRaw s n x).pending = s.pending := by
  simp [State.setRaw, *]

@[simp] theorem rawAccess_pending (s : State) (thread lane : Nat) (act : RawLane → State) (h_act : ∀ y0,
    (act y0).pending = s.pending) :
    (State.rawAccess s thread lane act).pending = s.pending := by
  unfold State.rawAccess
  dsimp only
  (repeat' split) <;> (try simp [*]) <;> (try grind)

theorem execRawLockTake_pending (thread lane : Nat) (s : State) :
    ∃ t, (execRawLockTake thread lane s) = .next t ∧ t.pending = s.pending := by
  unfold execRawLockTake
  (try dsimp only)
  (repeat' split) <;> (refine ⟨_, rfl, ?_⟩) <;> (try simp [*]) <;> (try grind)

@[simp] theorem rawRun_pending (s : State) (lane : Nat) (x : RawLane) (load : Option RawLoad) (block : Bytes)
    (decrypt : Bool) :
    (State.rawRun s lane x load block decrypt).pending = s.pending := by
  unfold State.rawRun
  dsimp only
  (repeat' split) <;> (try simp [*]) <;> (try grind [→ drawBytes_of])

theorem execRawLaneGo_pending (thread lane : Nat) (load : Option RawLoad) (block : Bytes) (decrypt : Bool)
    (s : State) :
    ∃ t, (execRawLaneGo thread lane load block decrypt s) = .next t ∧ t.pending = s.pending := by
  unfold execRawLaneGo
  (try dsimp only)
  (repeat' split) <;> (refine ⟨_, rfl, ?_⟩; (try simp [*]) <;> (try grind [setRaw_pending, rawAccess_pending, → drawBytes_of]); done)

theorem execRawLockRelease_pending (thread lane : Nat) (s : State) :
    ∃ t, (execRawLockRelease thread lane s) = .next t ∧ t.pending = s.pending := by
  unfold execRawLockRelease
  (try dsimp only)
  (repeat' split) <;> (refine ⟨_, rfl, ?_⟩) <;> (try simp [*]) <;> (try grind)

theorem execRawHoldExpiry_pending (lane : Nat) (s : State) :
    ∃ t, (execRawHoldExpiry lane s) = .next t ∧ t.pending = s.pending := by
  unfold execRawHoldExpiry
  (try dsimp only)
  (repeat' split) <;> (refine ⟨_, rfl, ?_⟩) <;> (try simp [*]) <;> (try grind)

@[simp] theorem rawDrop_pending (s : State) (thread : Nat) :
    (State.rawDrop s thread).pending = s.pending := by
  simp [State.rawDrop, *]

@[simp] theorem ctxBody_pending (c : Cmd) (create : Bool) (body : State → Reply) (s : State) (h_body : ∀ y0,
    (body y0).st.pending = y0.pending) :
    (ctxBody c create body s).st.pending = s.pending := by
  unfold ctxBody
  (try dsimp only)
  (repeat' split) <;> simp [*]

@[simp] theorem wrapKey_pending (s : State) (h : Nat) (x : Ctx) (key : Bytes) :
    (State.wrapKey s h x key).2.pending = s.pending := by
  unfold State.wrapKey
  dsimp only
  (repeat' split) <;> grind [→ drawBytes_of]
theorem wrapKey_pending_of (s : State) (h : Nat) (x : Ctx) (key : Bytes) {p0_ : Ctx} {t_ : State} (hp_ : (State.wrapKey s h x key) = (p0_, t_)) : t_.pending = s.pending := by
  have := wrapKey_pending s h x key
  rw [hp_] at this
  exact this

@[simp] theorem ctxCreateBody_pending (c : Cmd) (b : Bytes) (s : State) :
    (ctxCreateBody c b s).st.pending = s.pending := by
  simp only [ctxCreateBody]
  (repeat' split) <;> simp

theorem execCtxCreate_pending (c : Cmd) (s : State) :
    ∃ t, (execCtxCreate c s) = .next t ∧ t.pending = s.pending := by
  refine ⟨_, rfl, ?_⟩
  apply runCmd_pending
  intro _ _
  apply ctxBody_pending
  intro _
  exact ctxCreateBody_pending _ _ _

@[simp] theorem ctxRekeyBody_pending (c : Cmd) (b : Bytes) (s : State) :
    (ctxRekeyBody c b s).st.pending = s.pending := by
  unfold ctxRekeyBody
  dsimp only
  (repeat' split) <;> (try simp [*]) <;> (try grind [→ loadKey_pending_of, → wrapKey_pending_of])

theorem execCtxRekey_pending (c : Cmd) (s : State) :
    ∃ t, (execCtxRekey c s) = .next t ∧ t.pending = s.pending := by
  unfold execCtxRekey
  (try dsimp only)
  (repeat' split) <;> (refine ⟨_, rfl, ?_⟩) <;> (try simp [*]) <;> (try grind)

@[simp] theorem ctxFree_pending (s : State) (h : Nat) :
    (State.ctxFree s h).pending = s.pending := by
  simp [State.ctxFree, *]

@[simp] theorem ctxQueryBody_pending (c : Cmd) (s : State) :
    (ctxQueryBody c s).st.pending = s.pending := by
  unfold ctxQueryBody
  (try dsimp only)
  (repeat' split) <;> simp [*]

theorem execCtxQuery_pending (c : Cmd) (s : State) :
    ∃ t, (execCtxQuery c s) = .next t ∧ t.pending = s.pending := by
  unfold execCtxQuery
  (try dsimp only)
  (repeat' split) <;> (refine ⟨_, rfl, ?_⟩) <;> (try simp [*]) <;> (try grind)

@[simp] theorem ctxDestroyQuota_pending (s : State) (base count : Nat) :
    (State.ctxDestroyQuota s base count).pending = s.pending := by
  simp [State.ctxDestroyQuota, *]

@[simp] theorem repin_pending (s : State) :
    (State.repin s).pending = s.pending := by
  simp [State.repin, *]

@[simp] theorem loadLodestar_pending (s : State) (key : Bytes) :
    (State.loadLodestar s key).pending = s.pending := by
  unfold State.loadLodestar
  dsimp only
  (repeat' split) <;> (try simp [*]) <;> (try grind)

@[simp] theorem lodestarBody_pending (done : State → State) (b : Bytes) (s : State) (h_done : ∀ y0,
    (done y0).pending = y0.pending) :
    (lodestarBody done b s).st.pending = s.pending := by
  unfold lodestarBody
  dsimp only
  (repeat' split) <;> (try simp [*]) <;> (try grind)

@[simp] theorem alarmClearBody_pending (c : Cmd) (s : State) :
    (alarmClearBody c s).st.pending = s.pending := by
  unfold alarmClearBody
  dsimp only
  (repeat' split) <;> (try simp [*]) <;> (try grind)

theorem execSecAlarmClear_pending (c : Cmd) (s : State) :
    ∃ t, (execSecAlarmClear c s) = .next t ∧ t.pending = s.pending := by
  unfold execSecAlarmClear
  (try dsimp only)
  (repeat' split) <;> (refine ⟨_, rfl, ?_⟩) <;> (try simp [*]) <;> (try grind)

@[simp] theorem ctxLose_pending (s : State) (lost : Nat) :
    (State.ctxLose s lost).pending = s.pending := by
  unfold State.ctxLose
  dsimp only
  (repeat' split) <;> (try simp [*]) <;> (try grind)

@[simp] theorem cipherCold_pending (s : State) :
    (State.cipherCold s).pending = s.pending := by
  unfold State.cipherCold
  dsimp only
  (repeat' split) <;> (try simp [*]) <;> (try grind)

@[simp] theorem cipherReset_pending (s : State) :
    (State.cipherReset s).pending = s.pending := by
  simp [State.cipherReset, *]

/-! ### Nvmet -/

@[simp] theorem nvmetCount_pending (s : State) (k : Nat) :
    (State.nvmetCount s k).pending = s.pending := by
  simp [State.nvmetCount, *]

@[simp] theorem setConn_pending (s : State) (k : Nat) (c : Conn) :
    (State.setConn s k c).pending = s.pending := by
  simp [State.setConn, *]

@[simp] theorem setStream_pending (s : State) (k : Nat) (c : Conn) (nxt state left : Nat) :
    (State.setStream s k c nxt state left).pending = s.pending := by
  simp [State.setStream, *]

@[simp] theorem connEvent_pending (s : State) (c : Conn) (kind : Nat) :
    (State.connEvent s c kind).pending = s.pending := by
  unfold State.connEvent
  dsimp only
  (repeat' split) <;> (try simp [*]) <;> (try grind [→ drawBytes_of])

@[simp] theorem connError_pending (s : State) (c : Conn) :
    (State.connError s c).pending = s.pending := by
  simp [State.connError, *]

@[simp] theorem pduEnd_pending (s : State) (k : Nat) (c : Conn) :
    (State.pduEnd s k c).2.pending = s.pending := by
  unfold State.pduEnd
  dsimp only
  (repeat' split) <;> (try simp [*]) <;> (try grind)
theorem pduEnd_pending_of (s : State) (k : Nat) (c : Conn) {p0_ : Conn} {t_ : State} (hp_ : (State.pduEnd s k c) = (p0_, t_)) : t_.pending = s.pending := by
  have := pduEnd_pending s k c
  rw [hp_] at this
  exact this

theorem pduParse_pending (k n : Nat) (p : Parse) (b : Bytes) : (pduParse k n p b).st.pending = p.st.pending := by
  induction n generalizing p b with
  | zero => rfl
  | succ n ih =>
    unfold pduParse
    dsimp only
    (repeat' split) <;> simp [ih] <;> (repeat' split) <;> simp

theorem settle_pending (k : Nat) (p : Parse) : (p.settle k).st.pending = p.st.pending := by
  unfold Parse.settle
  dsimp only
  split <;> simp

@[simp] theorem streamRun_pending (s : State) (k : Nat) (c : Conn) (seq : Nat) (b : Bytes) :
    (State.streamRun s k c seq b).2.2.pending = s.pending := by
  simp only [State.streamRun]
  simp [settle_pending, pduParse_pending]
theorem streamRun_pending_of (s : State) (k : Nat) (c : Conn) (seq : Nat) (b : Bytes) {p0_ : Bytes} {p1_ : Nat} {t_ : State} (hp_ : (State.streamRun s k c seq b) = (p0_, p1_, t_)) : t_.pending = s.pending := by
  have := streamRun_pending s k c seq b
  rw [hp_] at this
  exact this

@[simp] theorem nvmetRx_pending (s : State) (h : Nat) (b : Bytes) :
    (State.nvmetRx s h b).2.2.pending = s.pending := by
  unfold State.nvmetRx
  dsimp only
  (repeat' split) <;> (try simp [*]) <;> (try grind [→ streamRun_pending_of])
theorem nvmetRx_pending_of (s : State) (h : Nat) (b : Bytes) {p0_ : Bytes} {p1_ : Nat} {t_ : State} (hp_ : (State.nvmetRx s h b) = (p0_, p1_, t_)) : t_.pending = s.pending := by
  have := nvmetRx_pending s h b
  rw [hp_] at this
  exact this

@[simp] theorem register_pending (s : State) (r : Nat) (d : Desc) (ps : List (Nat × Nat)) :
    (State.register s r d ps).pending = s.pending := by
  unfold State.register
  dsimp only
  (repeat' split) <;> (try simp [*]) <;> (try grind)

@[simp] theorem regTable_pending (s : State) (r : Nat) (d : Desc) (n len : Nat) (t : Option Bytes) :
    (State.regTable s r d n len t).pending = s.pending := by
  unfold State.regTable
  (try dsimp only)
  (repeat' split) <;> simp [*]

@[simp] theorem registerDesc_pending (s : State) (r : Nat) (d : Desc) (table : HostRead) :
    (State.registerDesc s r d table).pending = s.pending := by
  unfold State.registerDesc
  dsimp only
  (repeat' split) <;> (try simp [*]) <;> (try grind [→ hostRead_of])

theorem execRegistration_pending (inst : Nat) (table : HostRead) (s : State) :
    ∃ t, (execRegistration inst table s) = .next t ∧ t.pending = s.pending := by
  unfold execRegistration
  (try dsimp only)
  (repeat' split) <;> (refine ⟨_, rfl, ?_⟩) <;> (try simp [*]) <;> (try grind)

@[simp] theorem nvmetInsert_pending (c : Cmd) (b : Bytes) (s : State) :
    (nvmetInsert c b s).st.pending = s.pending := by
  unfold nvmetInsert
  dsimp only
  (repeat' split) <;> (try simp [*]) <;> (try grind)

@[simp] theorem connBody_pending (c : Cmd) (body : Conn → State → Reply) (s : State) (h_body : ∀ y0 y1,
    (body y0 y1).st.pending = y1.pending) :
    (connBody c body s).st.pending = s.pending := by
  unfold connBody
  (try dsimp only)
  (repeat' split) <;> simp [*]

@[simp] theorem resyncBody_pending (c : Cmd) (b : Bytes) (k : Conn) (s : State) :
    (resyncBody c b k s).st.pending = s.pending := by
  simp [resyncBody, *]

@[simp] theorem connectBody_pending (c : Cmd) (b : Bytes) (s : State) :
    (connectBody c b s).st.pending = s.pending := by
  simp [connectBody, *]

theorem execNvmetConnect_pending (c : Cmd) (s : State) :
    ∃ t, (execNvmetConnect c s) = .next t ∧ t.pending = s.pending := by
  unfold execNvmetConnect
  (try dsimp only)
  (repeat' split) <;> (refine ⟨_, rfl, ?_⟩) <;> (try simp [*]) <;> (try grind)

theorem execNvmetConnectResync_pending (c : Cmd) (s : State) :
    ∃ t, (execNvmetConnectResync c s) = .next t ∧ t.pending = s.pending := by
  unfold execNvmetConnectResync
  (try dsimp only)
  (repeat' split) <;> (refine ⟨_, rfl, ?_⟩) <;> (try simp [*]) <;> (try grind)

@[simp] theorem connClose_pending (s : State) (k : Nat) :
    (State.connClose s k).pending = s.pending := by
  unfold State.connClose
  dsimp only
  (repeat' split) <;> (try simp [*]) <;> (try grind)

theorem execNvmetClose_pending (c : Cmd) (s : State) :
    ∃ t, (execNvmetClose c s) = .next t ∧ t.pending = s.pending := by
  unfold execNvmetClose
  (try dsimp only)
  (repeat' split) <;> (refine ⟨_, rfl, ?_⟩) <;> (try simp [*]) <;> (try grind)

@[simp] theorem connCloseInst_pending (s : State) (i : Nat) :
    (State.connCloseInst s i).pending = s.pending := by
  simp [State.connCloseInst, *]

/-! ### Pipeline -/

@[simp] theorem actDrop_pending (s : State) (f : Frame) (k : Nat) :
    (State.actDrop s f k).pending = s.pending := by
  simp [State.actDrop, *]

@[simp] theorem setMac_pending (s : State) (p : Port) (m : Mac) :
    (State.setMac s p m).pending = s.pending := by
  unfold State.setMac
  dsimp only
  (repeat' split) <;> grind

@[simp] theorem stat_pending (s : State) (p : Port) (k n : Nat) :
    (State.stat s p k n).pending = s.pending := by
  unfold State.stat
  dsimp only
  (repeat' split) <;> (try simp [*]) <;> (try grind)

@[simp] theorem ilDrop_pending (s : State) (p : Port) :
    (State.ilDrop s p).pending = s.pending := by
  simp [State.ilDrop, *]

@[simp] theorem setTokens_pending (s : State) (t : Nat) :
    (State.setTokens s t).pending = s.pending := by
  simp [State.setTokens, *]

@[simp] theorem queueExc_pending (s : State) (e : ExcFrame) (t : Nat) :
    (State.queueExc s e t).pending = s.pending := by
  simp [State.queueExc, *]

@[simp] theorem toHelm_pending (s : State) (f : Frame) (reason dest : Nat) :
    (State.toHelm s f reason dest).pending = s.pending := by
  unfold State.toHelm
  dsimp only
  (repeat' split) <;> (try simp [*]) <;> (try grind)

@[simp] theorem giveHelm_pending (s : State) (f : Frame) (reason dest : Nat) :
    (State.giveHelm s f reason dest).pending = s.pending := by
  simp [State.giveHelm, *]

@[simp] theorem mirror_pending (s : State) (f : Frame) (svc : Nat) :
    (State.mirror s f svc).pending = s.pending := by
  unfold State.mirror
  split
  · simp
  · split <;> rename_i h <;> simp [enqueueFrame_pending_of _ _ _ _ h]

@[simp] theorem sendPort_pending (s : State) (f : Frame) (svc port : Nat) :
    (State.sendPort s f svc port).pending = s.pending := by
  unfold State.sendPort
  dsimp only
  (repeat' split) <;> (try simp [*]) <;> (try grind [→ draw_of, → enqueueFrame_pending_of])

@[simp] theorem sendInst_pending (s : State) (f : Frame) (found : Found) (i q : Nat) :
    (State.sendInst s f found i q).pending = s.pending := by
  unfold State.sendInst
  dsimp only
  (repeat' split) <;> (try simp [*]) <;> (try grind [→ admitRx_pending_of, → nvmetRx_pending_of])

@[simp] theorem sendMember_pending (s : State) (f : Frame) (found : Found) (m : Nat) :
    (State.sendMember s f found m).pending = s.pending := by
  simp [State.sendMember, *]

@[simp] theorem replicate_pending (s : State) (f : Frame) (found : Found) :
    (State.replicate s f found).pending = s.pending := by
  unfold State.replicate
  dsimp only
  (repeat' split) <;> (try simp [*]) <;> (try grind)

@[simp] theorem deliverFrame_pending (s : State) (f : Frame) (found : Found) :
    (State.deliverFrame s f found).pending = s.pending := by
  unfold State.deliverFrame
  dsimp only
  (repeat' split) <;> (try simp [*]) <;> (try grind)

@[simp] theorem afterTx_pending (s : State) (f : Frame) (found : Found) :
    (State.afterTx s f found).pending = s.pending := by
  unfold State.afterTx
  dsimp only
  (repeat' split) <;> (try simp [*]) <;> (try grind)

@[simp] theorem cipherDrop_pending (s : State) (f : Frame) (k : Nat) :
    (State.cipherDrop s f k).pending = s.pending := by
  unfold State.cipherDrop
  dsimp only
  (repeat' split) <;> (try simp [*]) <;> (try grind [→ draw_of])

@[simp] theorem cipherOp_pending (s : State) (f : Frame) (h code : Nat) (a : CipherArgs) (pn : Option Nat) :
    (State.cipherOp s f h code a pn).2.pending = s.pending := by
  unfold State.cipherOp
  dsimp only
  (repeat' split) <;> (try simp [*]) <;> (try grind)
theorem cipherOp_pending_of (s : State) (f : Frame) (h code : Nat) (a : CipherArgs) (pn : Option Nat) {p0_ : Option Frame} {t_ : State} (hp_ : (State.cipherOp s f h code a pn) = (p0_, t_)) : t_.pending = s.pending := by
  have := cipherOp_pending s f h code a pn
  rw [hp_] at this
  exact this

@[simp] theorem addJob_pending (s : State) (j : CipherJob) :
    (State.addJob s j).pending = s.pending := by
  simp [State.addJob, *]

@[simp] theorem cipherDone_pending (cont : Frame → Found → State → State) (s : State) (j : CipherJob) (f : Frame)
    (found : Found) (h_cont : ∀ y0 y1 y2, (cont y0 y1 y2).pending = y2.pending) :
    (State.cipherDone cont s j f found).pending = s.pending := by
  simp [State.cipherDone, *]

@[simp] theorem opGo_pending (s : State) (j : CipherJob) (x : Ctx) (key : Bytes) :
    (State.opGo s j x key).2.pending = s.pending := by
  unfold State.opGo
  dsimp only
  (repeat' split) <;> (try simp [*]) <;> (try grind [→ assignPn_pending_of, → cipherOp_pending_of])
theorem opGo_pending_of (s : State) (j : CipherJob) (x : Ctx) (key : Bytes) {p0_ : Dispatched} {t_ : State} (hp_ : (State.opGo s j x key) = (p0_, t_)) : t_.pending = s.pending := by
  have := opGo_pending s j x key
  rw [hp_] at this
  exact this

@[simp] theorem cipherStart_pending (cont : Frame → Found → State → State) (mk : Found → CipherNext) (s : State)
    (f : Frame) (found : Found) (h code : Nat) (late : Bool) (h_cont : ∀ y0 y1 y2, (cont y0 y1 y2).pending = y2.pending) :
    (State.cipherStart cont mk s f found h code late).pending = s.pending := by
  unfold State.cipherStart
  dsimp only
  (repeat' split) <;> (try simp [*]) <;> (try grind [→ ctxUsable_pending_of, → opGo_pending_of])

@[simp] theorem checksums_pending (s : State) (f : Frame) :
    (State.checksums s f).2.pending = s.pending := by
  unfold State.checksums
  dsimp only
  (repeat' split) <;> (try simp [*]) <;> (try grind)
theorem checksums_pending_of (s : State) (f : Frame) {p0_ : Frame} {t_ : State} (hp_ : (State.checksums s f) = (p0_, t_)) : t_.pending = s.pending := by
  have := checksums_pending s f
  rw [hp_] at this
  exact this

@[simp] theorem execTx_pending (s : State) (f : Frame) (found : Found) (late : Bool) :
    (State.execTx s f found late).pending = s.pending := by
  unfold State.execTx
  dsimp only
  (repeat' split) <;> (try simp [*]) <;> (try grind [→ checksums_pending_of])

@[simp] theorem steer_pending (s : State) (f : Frame) (dest : Nat) :
    (State.steer s f dest).pending = s.pending := by
  unfold State.steer
  dsimp only
  (repeat' split) <;> grind

@[simp] theorem missAction_pending (s : State) (miss : Nat) (key : Bytes) (hit : Option ClsHit) :
    (State.missAction s miss key hit).2.pending = s.pending := by
  unfold State.missAction
  dsimp only
  (repeat' split) <;> grind [→ draw_of]
theorem missAction_pending_of (s : State) (miss : Nat) (key : Bytes) (hit : Option ClsHit) {p0_ : Looked} {t_ : State} (hp_ : (State.missAction s miss key hit) = (p0_, t_)) : t_.pending = s.pending := by
  have := missAction_pending s miss key hit
  rw [hp_] at this
  exact this

@[simp] theorem frameLookup_pending (s : State) (f : Frame) :
    (State.frameLookup s f).2.pending = s.pending := by
  unfold State.frameLookup
  dsimp only
  (repeat' split) <;> (try simp [*]) <;> (try grind [→ clsLookup_pending_of, → flowLookup_pending_of, → missAction_pending_of])
theorem frameLookup_pending_of (s : State) (f : Frame) {p0_ : Looked} {t_ : State} (hp_ : (State.frameLookup s f) = (p0_, t_)) : t_.pending = s.pending := by
  have := frameLookup_pending s f
  rw [hp_] at this
  exact this

@[simp] theorem frameMeter_pending (s : State) (f : Frame) (e : FlowEntry) :
    (State.frameMeter s f e).2.2.pending = s.pending := by
  simp [State.frameMeter, *]
theorem frameMeter_pending_of (s : State) (f : Frame) (e : FlowEntry) {p0_ : Colour} {p1_ : Nat} {t_ : State} (hp_ : (State.frameMeter s f e) = (p0_, p1_, t_)) : t_.pending = s.pending := by
  have := frameMeter_pending s f e
  rw [hp_] at this
  exact this

@[simp] theorem frameMatch_pending (s : State) (f : Frame) (record key template group : Bytes)
    (entry : Option FlowEntry) (outer : Nat := 0) :
    (State.frameMatch s f record key template group entry outer).2.pending = s.pending := by
  unfold State.frameMatch
  dsimp only
  (repeat' split) <;> (try simp [*]) <;> (try grind [→ meterRun_pending_of])
theorem frameMatch_pending_of (s : State) (f : Frame) (record key template group : Bytes) (entry : Option FlowEntry) (outer : Nat := 0) {p0_ : Option (Frame × Found)} {t_ : State} (hp_ : (State.frameMatch s f record key template group entry outer) = (p0_, t_)) : t_.pending = s.pending := by
  have := frameMatch_pending s f record key template group entry outer
  rw [hp_] at this
  exact this

@[simp] theorem takenMatch_pending (s : State) (f : Frame) (entry : Option FlowEntry) :
    (State.takenMatch s f entry).pending = s.pending := by
  unfold State.takenMatch
  dsimp only
  (repeat' split) <;> (try simp [*]) <;> (try grind [→ frameMeter_pending_of])

@[simp] theorem lookedOut_pending (s : State) (f : Frame) (l : Looked) :
    (State.lookedOut s f l).pending = s.pending := by
  unfold State.lookedOut
  dsimp only
  (repeat' split) <;> (try simp [*]) <;> (try grind [→ draw_of])

@[simp] theorem innerPass_pending (s : State) (f : Frame) (late : Bool) :
    (State.innerPass s f late).pending = s.pending := by
  unfold State.innerPass
  dsimp only
  (repeat' split) <;> (try simp [*]) <;> (try grind [→ frameLookup_pending_of, → frameMatch_pending_of])

@[simp] theorem afterRx_pending (s : State) (f : Frame) (found : Found) :
    (State.afterRx s f found).pending = s.pending := by
  unfold State.afterRx
  dsimp only
  (repeat' split) <;> (try simp [*]) <;> (try grind)

@[simp] theorem execInner_pending (s : State) (f : Frame) (found : Found) :
    (State.execInner s f found).pending = s.pending := by
  unfold State.execInner
  dsimp only
  (repeat' split) <;> (try simp [*]) <;> (try grind)

@[simp] theorem execRecord_pending (s : State) (f : Frame) (found : Found) (late : Bool) :
    (State.execRecord s f found late).pending = s.pending := by
  simp [State.execRecord, *]

@[simp] theorem pipeline_pending (s : State) (f : Frame) (late : Bool) :
    (State.pipeline s f late).pending = s.pending := by
  unfold State.pipeline
  dsimp only
  (repeat' split) <;> (try simp [*]) <;> (try grind [→ frameLookup_pending_of, → frameMatch_pending_of])

@[simp] theorem jobContinue_pending (s : State) (j : CipherJob) (f : Frame) :
    (State.jobContinue s j f).pending = s.pending := by
  unfold State.jobContinue
  (try dsimp only)
  (repeat' split) <;> simp [*]

@[simp] theorem jobLeave_pending (s : State) (i : Nat) (j : CipherJob) :
    (State.jobLeave s i j).pending = s.pending := by
  unfold State.jobLeave
  dsimp only
  (repeat' split) <;> (try simp [*]) <;> (try grind)

@[simp] theorem jobRelease_pending (x0 : Nat) (s : State) :
    (State.jobRelease x0 s).pending = s.pending := by
  induction x0 generalizing s with
  | zero => simp [State.jobRelease]
  | succ n ih =>
    simp only [State.jobRelease]
    split <;> simp [ih]

@[simp] theorem jobSet_pending (s : State) (i : Nat) (j : CipherJob) :
    (State.jobSet s i j).pending = s.pending := by
  simp [State.jobSet, *]

@[simp] theorem jobEnd_pending (s : State) (i : Nat) (j : CipherJob) (out : Option Frame) :
    (State.jobEnd s i j out).pending = s.pending := by
  unfold State.jobEnd
  dsimp only
  (repeat' split) <;> (try simp [*]) <;> (try grind)

@[simp] theorem jobFinish_pending (s : State) (i : Nat) (j : CipherJob) (a : CipherArgs) :
    (State.jobFinish s i j a).pending = s.pending := by
  unfold State.jobFinish
  dsimp only
  (repeat' split) <;> (try simp [*]) <;> (try grind [→ cipherOp_pending_of])

@[simp] theorem jobRun_pending (s : State) (i : Nat) (j : CipherJob) :
    (State.jobRun s i j).pending = s.pending := by
  unfold State.jobRun
  split
  · simp
  · split <;> rename_i h
    · simp [ctxUsable_pending_of _ _ h]
    · (repeat' split) <;> (try simp [ctxUsable_pending_of _ _ h]) <;> rename_i h2 <;>
        simp [ctxUsable_pending_of _ _ h, opGo_pending_of _ _ _ _ h2]

@[simp] theorem waitersGo_pending (x0 : Nat) (s : State) :
    (State.waitersGo x0 s).pending = s.pending := by
  induction x0 generalizing s with
  | zero => simp [State.waitersGo]
  | succ n ih =>
    simp only [State.waitersGo]
    split <;> simp [ih]

@[simp] theorem jobsOfKey_pending (h : Nat) (x0 : Nat) (s : State) :
    (State.jobsOfKey h x0 s).pending = s.pending := by
  induction x0 generalizing s with
  | zero => simp [State.jobsOfKey]
  | succ n ih =>
    unfold State.jobsOfKey
    split <;> simp [ih]

@[simp] theorem keyReady_pending (s : State) (h : Nat) (imported : Bool) :
    (State.keyReady s h imported).pending = s.pending := by
  unfold State.keyReady
  dsimp only
  (repeat' split) <;> (try simp [*]) <;> (try grind [→ loadKey_pending_of, → ctxUsable_pending_of])

theorem execKeyDeriveDone_pending (handle : Nat) (s : State) :
    ∃ t, (execKeyDeriveDone handle s) = .next t ∧ t.pending = s.pending := by
  unfold execKeyDeriveDone
  (try dsimp only)
  (repeat' split) <;> (refine ⟨_, rfl, ?_⟩) <;> (try simp [*]) <;> (try grind)

theorem execKeyUnwrapDone_pending (handle : Nat) (s : State) :
    ∃ t, (execKeyUnwrapDone handle s) = .next t ∧ t.pending = s.pending := by
  unfold execKeyUnwrapDone
  (try dsimp only)
  (repeat' split) <;> (refine ⟨_, rfl, ?_⟩) <;> (try simp [*]) <;> (try grind)

@[simp] theorem destroyDone_pending (s : State) :
    (State.destroyDone s).pending = s.pending := by
  unfold State.destroyDone
  apply foldl_pending
  intro s a
  dsimp only
  (repeat' split) <;> simp

@[simp] theorem laneFreed_pending (s : State) :
    (State.laneFreed s).pending = s.pending := by
  simp [State.laneFreed, *]

@[simp] theorem spillOne_pending (s : State) :
    (State.spillOne s).pending = s.pending := by
  unfold State.spillOne
  dsimp only
  (repeat' split) <;> (try simp [*]) <;> (try grind [→ drawBytes_of])

theorem execCipherSuspend_pending (s : State) :
    ∃ t, (execCipherSuspend s) = .next t ∧ t.pending = s.pending := by
  unfold execCipherSuspend
  (try dsimp only)
  (repeat' split) <;> (refine ⟨_, rfl, ?_⟩) <;> (try simp [*]) <;> (try grind)

@[simp] theorem unspill_pending (s : State) (n : Nat) :
    (State.unspill s n).2.pending = s.pending := by
  unfold State.unspill
  dsimp only
  (repeat' split) <;> grind [→ dramRead_of]
theorem unspill_pending_of (s : State) (n : Nat) {p0_ : Bool} {t_ : State} (hp_ : (State.unspill s n) = (p0_, t_)) : t_.pending = s.pending := by
  have := unspill_pending s n
  rw [hp_] at this
  exact this

@[simp] theorem jobResume_pending (s : State) (i : Nat) (j : CipherJob) :
    (State.jobResume s i j).pending = s.pending := by
  unfold State.jobResume
  (try dsimp only)
  (repeat' split) <;> simp [*]

@[simp] theorem dataArrives_pending (s : State) (j : CipherJob) (i : Nat) : (s.dataArrives j i).pending = s.pending := by
  unfold State.dataArrives
  (try dsimp only)
  (repeat' split) <;> (try simp [*]) <;> (try grind [→ cipherOp_pending_of])

theorem execCipherResume_pending (s : State) :
    ∃ t, (execCipherResume s) = .next t ∧ t.pending = s.pending := by
  unfold execCipherResume
  (try dsimp only)
  (repeat' split) <;> (refine ⟨_, rfl, ?_⟩) <;> simp

@[simp] theorem ctxDestroyBody_pending (c : Cmd) (s : State) :
    (ctxDestroyBody c s).st.pending = s.pending := by
  unfold ctxDestroyBody
  (try dsimp only)
  (repeat' split) <;> simp [*]

theorem execCtxDestroy_pending (c : Cmd) (s : State) :
    ∃ t, (execCtxDestroy c s) = .next t ∧ t.pending = s.pending := by
  unfold execCtxDestroy
  (try dsimp only)
  (repeat' split) <;> (refine ⟨_, rfl, ?_⟩) <;> (try simp [*]) <;> (try grind)

@[simp] theorem jobsAbandon_pending (s : State) :
    (State.jobsAbandon s).pending = s.pending := by
  unfold State.jobsAbandon
  dsimp only
  (repeat' split) <;> (try simp [*]) <;> (try grind)

@[simp] theorem tableEnd_pending (s : State) (result done : Nat) :
    (State.tableEnd s result done).pending = s.pending := by
  unfold State.tableEnd
  dsimp only
  (repeat' split) <;> (try simp [*]) <;> (try grind)

theorem execTableTransferStart_pending (value : W32) (s : State) :
    ∃ t, (execTableTransferStart value s) = .next t ∧ t.pending = s.pending := by
  unfold execTableTransferStart
  (try dsimp only)
  (repeat' split) <;> (refine ⟨_, rfl, ?_⟩) <;> (try simp [*]) <;> (try grind)

theorem execTableTransferDone_pending (data : MoverRead) (s : State) :
    ∃ t, (execTableTransferDone data s) = .next t ∧ t.pending = s.pending := by
  unfold execTableTransferDone
  (try dsimp only)
  (repeat' split) <;> (refine ⟨_, rfl, ?_⟩) <;> (try simp [*]) <;> (try grind [→ hostRead_of])

theorem execExceptionFrame_pending (s : State) :
    ∃ t, (execExceptionFrame s) = .next t ∧ t.pending = s.pending := by
  unfold execExceptionFrame
  (try dsimp only)
  (repeat' split) <;> (refine ⟨_, rfl, ?_⟩) <;> (try simp [*]) <;> (try grind)

@[simp] theorem loopback_pending (s : State) (q : Queued) :
    (State.loopback s q).pending = s.pending := by
  unfold State.loopback
  dsimp only
  (repeat' split) <;> (try simp [*]) <;> (try grind)

@[simp] theorem switchReset_pending (s : State) :
    (State.switchReset s).pending = s.pending := by
  simp [State.switchReset, *]

@[simp] theorem switchCold_pending (s : State) :
    (State.switchCold s).pending = s.pending := by
  simp [State.switchCold, *]

/-! ### Ports -/

@[simp] theorem statGood_pending (s : State) (p : Port) (b : Bytes) (tx : Bool) :
    (State.statGood s p b tx).pending = s.pending := by
  unfold State.statGood
  dsimp only
  (repeat' split) <;> (try simp [*]) <;> (try grind)

@[simp] theorem statBad_pending (s : State) (p : Port) (b : Bytes) (i : RxInfo) :
    (State.statBad s p b i).pending = s.pending := by
  unfold State.statBad
  dsimp only
  (repeat' split) <;> (try simp [*]) <;> (try grind)

@[simp] theorem statPmac_pending (s : State) (p : Port) (i : RxInfo) :
    (State.statPmac s p i).pending = s.pending := by
  simp [State.statPmac, *]

@[simp] theorem statFec_pending (s : State) (p : Port) (i : RxInfo) :
    (State.statFec s p i).pending = s.pending := by
  simp [State.statFec, *]

@[simp] theorem pauseRx_pending (s : State) (p : Port) (quanta : Nat) :
    (State.pauseRx s p quanta).pending = s.pending := by
  unfold State.pauseRx
  dsimp only
  (repeat' split) <;> (try simp [*]) <;> (try grind)

theorem execPauseFrameRx_pending (port : Port) (quanta : BitVec 16) (s : State) :
    ∃ t, (execPauseFrameRx port quanta s) = .next t ∧ t.pending = s.pending := by
  unfold execPauseFrameRx
  (try dsimp only)
  (repeat' split) <;> (refine ⟨_, rfl, ?_⟩) <;> (try simp [*]) <;> (try grind)

theorem execPauseWdTrip_pending (port : Port) (s : State) :
    ∃ t, (execPauseWdTrip port s) = .next t ∧ t.pending = s.pending := by
  unfold execPauseWdTrip
  (try dsimp only)
  (repeat' split) <;> (refine ⟨_, rfl, ?_⟩) <;> (try simp [*]) <;> (try grind)

theorem execPauseWdRecover_pending (port : Port) (s : State) :
    ∃ t, (execPauseWdRecover port s) = .next t ∧ t.pending = s.pending := by
  unfold execPauseWdRecover
  (try dsimp only)
  (repeat' split) <;> (refine ⟨_, rfl, ?_⟩) <;> (try simp [*]) <;> (try grind)

@[simp] theorem ptpKeep_pending (s : State) (p : Port) (b : Bytes) :
    (State.ptpKeep s p b).pending = s.pending := by
  unfold State.ptpKeep
  dsimp only
  (repeat' split) <;> (try simp [*]) <;> (try grind)

@[simp] theorem portPipeline_pending (s : State) (p : Port) (b : Bytes) :
    (State.portPipeline s p b).pending = s.pending := by
  simp [State.portPipeline, *]

@[simp] theorem plainRx_pending (s : State) (p : Port) (b : Bytes) :
    (State.plainRx s p b).pending = s.pending := by
  unfold State.plainRx
  dsimp only
  (repeat' split) <;> (try simp [*]) <;> (try grind)

@[simp] theorem plainFrame_pending (s : State) (p : Port) (b : Bytes) (i : RxInfo) :
    (State.plainFrame s p b i).pending = s.pending := by
  unfold State.plainFrame
  dsimp only
  (repeat' split) <;> (try simp [*]) <;> (try grind)

theorem execPortFrameRx_pending (port : Port) (frame : Bytes) (info : RxInfo) (s : State) :
    ∃ t, (execPortFrameRx port frame info s) = .next t ∧ t.pending = s.pending := by
  unfold execPortFrameRx
  (try dsimp only)
  (repeat' split) <;> (refine ⟨_, rfl, ?_⟩) <;> (try simp [*]) <;> (try grind)

@[simp] theorem ringCorrect_pending (s : State) (p : Port) (b : Bytes) (t linkDelay : Nat) :
    (State.ringCorrect s p b t linkDelay).2.pending = s.pending := by
  unfold State.ringCorrect
  dsimp only
  (repeat' split) <;> grind
theorem ringCorrect_pending_of (s : State) (p : Port) (b : Bytes) (t linkDelay : Nat) {p0_ : Bytes} {t_ : State} (hp_ : (State.ringCorrect s p b t linkDelay) = (p0_, t_)) : t_.pending = s.pending := by
  have := ringCorrect_pending s p b t linkDelay
  rw [hp_] at this
  exact this

@[simp] theorem tcCorrect_pending (s : State) (p : Port) (b : Bytes) (timeIn linkDelay : Nat) :
    (State.tcCorrect s p b timeIn linkDelay).2.pending = s.pending := by
  unfold State.tcCorrect
  dsimp only
  (repeat' split) <;> grind
theorem tcCorrect_pending_of (s : State) (p : Port) (b : Bytes) (timeIn linkDelay : Nat) {p0_ : Bytes} {t_ : State} (hp_ : (State.tcCorrect s p b timeIn linkDelay) = (p0_, t_)) : t_.pending = s.pending := by
  have := tcCorrect_pending s p b timeIn linkDelay
  rw [hp_] at this
  exact this

@[simp] theorem ringNextSeq_pending (s : State) (dst : Nat) :
    (State.ringNextSeq s dst).2.2.pending = s.pending := by
  unfold State.ringNextSeq
  dsimp only
  (repeat' split) <;> grind
theorem ringNextSeq_pending_of (s : State) (dst : Nat) {p0_ : BitVec 16} {p1_ : Bool} {t_ : State} (hp_ : (State.ringNextSeq s dst) = (p0_, p1_, t_)) : t_.pending = s.pending := by
  have := ringNextSeq_pending s dst
  rw [hp_] at this
  exact this

@[simp] theorem sharedCount_pending (s : State) (p : Port) (shared : Bool) :
    (State.sharedCount s p shared).pending = s.pending := by
  simp [State.sharedCount, *]

@[simp] theorem ptpEgress_pending (s : State) (p : Port) (f : PortFrame) :
    (State.ptpEgress s p f).2.pending = s.pending := by
  unfold State.ptpEgress
  dsimp only
  (repeat' split) <;> (try simp [*]) <;> (try grind [→ ringNextSeq_pending_of])
theorem ptpEgress_pending_of (s : State) (p : Port) (f : PortFrame) {p0_ : PortFrame} {t_ : State} (hp_ : (State.ptpEgress s p f) = (p0_, t_)) : t_.pending = s.pending := by
  have := ptpEgress_pending s p f
  rw [hp_] at this
  exact this

@[simp] theorem reflexStart_pending (s : State) (p : Port) (f : PortFrame) :
    (State.reflexStart s p f).pending = s.pending := by
  unfold State.reflexStart
  dsimp only
  (repeat' split) <;> grind

@[simp] theorem portStart_pending (s : State) (p : Port) (f : PortFrame) :
    (State.portStart s p f).pending = s.pending := by
  unfold State.portStart
  dsimp only
  (repeat' split) <;> (try simp [*]) <;> (try grind [→ ringCorrect_pending_of, → tcCorrect_pending_of, → ptpEgress_pending_of])

@[simp] theorem originEnd_pending (s : State) (p : Port) (f : PortFrame) (fail : Option (Nat × Nat)) :
    (State.originEnd s p f fail).pending = s.pending := by
  unfold State.originEnd
  (try dsimp only)
  (repeat' split) <;> simp [*]

@[simp] theorem txEnd_pending (s : State) (p : Port) (bad : Bool) (fail : Option (Nat × Nat)) :
    (State.txEnd s p bad fail).pending = s.pending := by
  unfold State.txEnd
  dsimp only
  (repeat' split) <;> (try simp [*]) <;> (try grind)

theorem execPortFrameTxEnd_pending (port : Port) (s : State) :
    ∃ t, (execPortFrameTxEnd port s) = .next t ∧ t.pending = s.pending := by
  unfold execPortFrameTxEnd
  (try dsimp only)
  (repeat' split) <;> (refine ⟨_, rfl, ?_⟩) <;> (try simp [*]) <;> (try grind)

theorem execTxUnderrun_pending (port : Port) (s : State) :
    ∃ t, (execTxUnderrun port s) = .next t ∧ t.pending = s.pending := by
  unfold execTxUnderrun
  (try dsimp only)
  (repeat' split) <;> (refine ⟨_, rfl, ?_⟩) <;> (try simp [*]) <;> (try grind)

@[simp] theorem linkChanged_pending (s : State) (p : Port) (m : Mac) :
    (State.linkChanged s p m).pending = s.pending := by
  simp [State.linkChanged, *]

theorem execMacCtrlWrite_pending (port : Port) (value : W32) (s : State) :
    ∃ t, (execMacCtrlWrite port value s) = .next t ∧ t.pending = s.pending := by
  unfold execMacCtrlWrite
  (try dsimp only)
  (repeat' split) <;> (refine ⟨_, rfl, ?_⟩) <;> (try simp [*]) <;> (try grind)

theorem execMacFiltCommit_pending (port : Port) (n : Nat) (value : W32) (s : State) :
    ∃ t, (execMacFiltCommit port n value s) = .next t ∧ t.pending = s.pending := by
  unfold execMacFiltCommit
  (try dsimp only)
  (repeat' split) <;> (refine ⟨_, rfl, ?_⟩) <;> (try simp [*]) <;> (try grind)

theorem execMacStatClear_pending (port : Port) (value : W32) (s : State) :
    ∃ t, (execMacStatClear port value s) = .next t ∧ t.pending = s.pending := by
  refine ⟨_, rfl, ?_⟩
  apply inBlock_pending
  intro s
  dsimp only
  split
  · simp
  · split <;> simp

@[simp] theorem modEnd_pending (s : State) (p : Port) (m : Mac) :
    (State.modEnd s p m).pending = s.pending := by
  simp [State.modEnd, *]

theorem execModTransactionStart_pending (port : Port) (value : W32) (s : State) :
    ∃ t, (execModTransactionStart port value s) = .next t ∧ t.pending = s.pending := by
  refine ⟨_, rfl, ?_⟩
  apply inBlock_pending
  intro s
  dsimp only
  (repeat' split) <;> simp

theorem execModTransactionDone_pending (port : Port) (result n : Nat) (data : Bytes) (s : State) :
    ∃ t, (execModTransactionDone port result n data s) = .next t ∧ t.pending = s.pending := by
  unfold execModTransactionDone
  (try dsimp only)
  (repeat' split) <;> (refine ⟨_, rfl, ?_⟩) <;> (try simp [*]) <;> (try grind)

theorem execModulePinChange_pending (port : Port) (present intLos fault : Bool) (s : State) :
    ∃ t, (execModulePinChange port present intLos fault s) = .next t ∧ t.pending = s.pending := by
  unfold execModulePinChange
  (try dsimp only)
  (repeat' split) <;> (refine ⟨_, rfl, ?_⟩) <;> (try simp [*]) <;> (try grind)

@[simp] theorem macReset_pending (s : State) (p : Port) :
    (State.macReset s p).pending = s.pending := by
  unfold State.macReset
  dsimp only
  (repeat' split) <;> (try simp [*]) <;> (try grind)

/-! ### Ring -/

theorem execRingAutoAttemptExpiry_pending (port : Port) (s : State) :
    ∃ t, (execRingAutoAttemptExpiry port s) = .next t ∧ t.pending = s.pending := by
  unfold execRingAutoAttemptExpiry
  (try dsimp only)
  (repeat' split) <;> (refine ⟨_, rfl, ?_⟩) <;> (try simp [*]) <;> (try grind)

theorem execRingLockLossTimeout_pending (port : Port) (s : State) :
    ∃ t, (execRingLockLossTimeout port s) = .next t ∧ t.pending = s.pending := by
  unfold execRingLockLossTimeout
  (try dsimp only)
  (repeat' split) <;> (refine ⟨_, rfl, ?_⟩) <;> (try simp [*]) <;> (try grind)

@[simp] theorem preemptStart_pending (s : State) (p : Port) :
    (State.preemptStart s p).pending = s.pending := by
  unfold State.preemptStart
  dsimp only
  (repeat' split) <;> (try simp [*]) <;> (try grind)

@[simp] theorem noteSignal_pending (s : State) (p : Port) :
    (State.noteSignal s p).pending = s.pending := by
  unfold State.noteSignal
  dsimp only
  (repeat' split) <;> grind

theorem execPortLinkChange_pending (port : Port) (up : Bool) (s : State) :
    ∃ t, (execPortLinkChange port up s) = .next t ∧ t.pending = s.pending := by
  unfold execPortLinkChange
  (try dsimp only)
  (repeat' split) <;> (refine ⟨_, rfl, ?_⟩) <;> (try simp [*]) <;> (try grind)

theorem nodeFold_pending (g : List Nat × NodeEntry × State → Nat → List Nat × NodeEntry × State) (l : List Nat)
    (r : List Nat × NodeEntry × State) (h : ∀ r x, (g r x).2.2.pending = r.2.2.pending) : (l.foldl g r).2.2.pending = r.2.2.pending := by
  induction l generalizing r with
  | nil => rfl
  | cons a l ih => rw [List.foldl_cons, ih, h]

@[simp] theorem nodeDecide_pending (s : State) (p : Port) (a : Nat) (q : BitVec 16) (xs : List Nat) :
    (State.nodeDecide s p a q xs).2.pending = s.pending := by
  unfold State.nodeDecide
  dsimp only
  split
  · split <;> simp
  · simp [nodeFold_pending]
theorem nodeDecide_pending_of (s : State) (p : Port) (a : Nat) (q : BitVec 16) (xs : List Nat) {p0_ : List Nat} {t_ : State} (hp_ : (State.nodeDecide s p a q xs) = (p0_, t_)) : t_.pending = s.pending := by
  have := nodeDecide_pending s p a q xs
  rw [hp_] at this
  exact this

theorem execNodeEntryForget_pending (addr : Nat) (s : State) :
    ∃ t, (execNodeEntryForget addr s) = .next t ∧ t.pending = s.pending := by
  unfold execNodeEntryForget
  (try dsimp only)
  (repeat' split) <;> (refine ⟨_, rfl, ?_⟩) <;> grind

@[simp] theorem ringForward_pending (s : State) (p : Port) (b : Bytes) (stored stomp : Bool) :
    (State.ringForward s p b stored stomp).pending = s.pending := by
  unfold State.ringForward
  dsimp only
  (repeat' split) <;> (try simp [*]) <;> (try grind)

@[simp] theorem ringDeliver_pending (s : State) (p : Port) (b : Bytes) :
    (State.ringDeliver s p b).pending = s.pending := by
  simp [State.ringDeliver, *]

@[simp] theorem ringNote_pending (s : State) (p : Port) (b : Bytes) :
    (State.ringNote s p b).pending = s.pending := by
  unfold State.ringNote
  dsimp only
  (repeat' split) <;> (try simp [*]) <;> (try grind)

@[simp] theorem updDelay_pending (s : State) (p : Port) (f : RingDelay → RingDelay) :
    (State.updDelay s p f).pending = s.pending := by
  simp [State.updDelay, *]

@[simp] theorem sendExpress_pending (s : State) (p : Port) (f : PortFrame) :
    (State.sendExpress s p f).pending = s.pending := by
  unfold State.sendExpress
  dsimp only
  (repeat' split) <;> (try simp [*]) <;> (try grind)

@[simp] theorem answerPdelay_pending (s : State) (p : Port) (at_ src : Nat) (b : Bytes) (o : Nat) :
    (State.answerPdelay s p at_ src b o).pending = s.pending := by
  unfold State.answerPdelay
  dsimp only
  (repeat' split) <;> (try simp [*]) <;> (try grind)

@[simp] theorem pdelayRx_pending (s : State) (p : Port) (b : Bytes) (o : Nat) :
    (State.pdelayRx s p b o).pending = s.pending := by
  unfold State.pdelayRx
  dsimp only
  (repeat' split) <;> (try simp [*]) <;> (try grind)

theorem execRingPdelayTx_pending (s : State) :
    ∃ t, (execRingPdelayTx s) = .next t ∧ t.pending = s.pending := by
  unfold execRingPdelayTx
  (try dsimp only)
  (repeat' split) <;> (refine ⟨_, rfl, ?_⟩) <;> (try simp [*]) <;> (try grind)

theorem execTcPendingExpiry_pending (s : State) :
    ∃ t, (execTcPendingExpiry s) = .next t ∧ t.pending = s.pending := by
  unfold execTcPendingExpiry
  (try dsimp only)
  (repeat' split) <;> (refine ⟨_, rfl, ?_⟩) <;> grind

@[simp] theorem ringPass_pending (s : State) (p : Port) (b inner : Bytes) (q : Option (BitVec 16)) (cut ptp : Bool) :
    (State.ringPass s p b inner q cut ptp).pending = s.pending := by
  unfold State.ringPass
  dsimp only
  (repeat' split) <;> (try simp [*]) <;> (try grind [→ nodeDecide_pending_of])

@[simp] theorem ringRx_pending (s : State) (p : Port) (b : Bytes) (i : RxInfo) :
    (State.ringRx s p b i).pending = s.pending := by
  unfold State.ringRx
  dsimp only
  (repeat' split) <;> (try simp [*]) <;> (try grind [→ nodeDecide_pending_of])

theorem execRingFrameRx_pending (port : Port) (frame : Bytes) (info : RxInfo) (s : State) :
    ∃ t, (execRingFrameRx port frame info s) = .next t ∧ t.pending = s.pending := by
  unfold execRingFrameRx
  (try dsimp only)
  (repeat' split) <;> (refine ⟨_, rfl, ?_⟩) <;> (try simp [*]) <;> (try grind)

@[simp] theorem proxyLearn_pending (s : State) (a : Nat) :
    (State.proxyLearn s a).2.pending = s.pending := by
  unfold State.proxyLearn
  dsimp only
  (repeat' split) <;> grind
theorem proxyLearn_pending_of (s : State) (a : Nat) {p0_ : Bool} {t_ : State} (hp_ : (State.proxyLearn s a) = (p0_, t_)) : t_.pending = s.pending := by
  have := proxyLearn_pending s a
  rw [hp_] at this
  exact this

@[simp] theorem ilRefuse_pending (s : State) (f : PortFrame) (fs : List PortFrame) (fail : Nat × Nat) :
    (State.ilRefuse s f fs fail).pending = s.pending := by
  unfold State.ilRefuse
  dsimp only
  (repeat' split) <;> (try simp [*]) <;> (try grind)

@[simp] theorem ilNextId_pending (s : State) :
    (State.ilNextId s).pending = s.pending := by
  simp [State.ilNextId, *]

@[simp] theorem ilCopy_pending (s : State) (f : PortFrame) (q : BitVec 16) (id : Nat) (full shared : Bool)
    (p : Port) :
    (State.ilCopy s f q id full shared p).pending = s.pending := by
  unfold State.ilCopy
  dsimp only
  (repeat' split) <;> (try simp [*]) <;> (try grind)

@[simp] theorem ilSend_pending (s : State) (f : PortFrame) (links : List Port) :
    (State.ilSend s f links).pending = s.pending := by
  unfold State.ilSend
  dsimp only
  (repeat' split) <;> (try simp [*]) <;> (try grind [→ ringNextSeq_pending_of, → proxyLearn_pending_of])

theorem execInterlinkTx_pending (s : State) :
    ∃ t, (execInterlinkTx s) = .next t ∧ t.pending = s.pending := by
  unfold execInterlinkTx
  (try dsimp only)
  (repeat' split) <;> (refine ⟨_, rfl, ?_⟩) <;> (try simp [*]) <;> (try grind)

theorem execProxyEntryExpiry_pending (addr : Nat) (s : State) :
    ∃ t, (execProxyEntryExpiry addr s) = .next t ∧ t.pending = s.pending := by
  unfold execProxyEntryExpiry
  (try dsimp only)
  (repeat' split) <;> (refine ⟨_, rfl, ?_⟩) <;> grind

theorem execPrpSeqCounterRelease_pending (addr : Nat) (s : State) :
    ∃ t, (execPrpSeqCounterRelease addr s) = .next t ∧ t.pending = s.pending := by
  unfold execPrpSeqCounterRelease
  (try dsimp only)
  (repeat' split) <;> (refine ⟨_, rfl, ?_⟩) <;> grind

theorem execSupervisionTx_pending (addr : Nat) (s : State) :
    ∃ t, (execSupervisionTx addr s) = .next t ∧ t.pending = s.pending := by
  unfold execSupervisionTx
  (try dsimp only)
  (repeat' split) <;> (refine ⟨_, rfl, ?_⟩) <;> (try simp [*]) <;> (try grind [→ ringNextSeq_pending_of])

theorem execPreemptVerifyTx_pending (port : Port) (s : State) :
    ∃ t, (execPreemptVerifyTx port s) = .next t ∧ t.pending = s.pending := by
  unfold execPreemptVerifyTx
  (try dsimp only)
  (repeat' split) <;> (refine ⟨_, rfl, ?_⟩) <;> (try simp [*]) <;> (try grind)

@[simp] theorem egressNext_pending (s : State) (p : Port) :
    (State.egressNext s p).pending = s.pending := by
  unfold State.egressNext
  dsimp only
  (repeat' split) <;> (try simp [*]) <;> (try grind)

theorem execRingEgressSelect_pending (port : Port) (sent : Nat) (s : State) :
    ∃ t, (execRingEgressSelect port sent s) = .next t ∧ t.pending = s.pending := by
  unfold execRingEgressSelect
  (try dsimp only)
  (repeat' split) <;> (refine ⟨_, rfl, ?_⟩) <;> (try simp [*]) <;> (try grind)

@[simp] theorem ringPortConfig_pending (s : State) (p : Port) (d : Bytes) :
    (State.ringPortConfig s p d).pending = s.pending := by
  unfold State.ringPortConfig
  dsimp only
  (repeat' split) <;> (try simp [*]) <;> (try grind)

@[simp] theorem ringConfigBody_pending (c : Cmd) (s : State) :
    (ringConfigBody c s).st.pending = s.pending := by
  unfold ringConfigBody
  dsimp only
  (repeat' split) <;> (try simp [*]) <;> (try grind)

theorem execOwnSeenTimeout_pending (port : Port) (s : State) :
    ∃ t, (execOwnSeenTimeout port s) = .next t ∧ t.pending = s.pending := by
  unfold execOwnSeenTimeout
  (try dsimp only)
  (repeat' split) <;> (refine ⟨_, rfl, ?_⟩) <;> (try simp [*]) <;> (try grind)

theorem execRingPllLockLoss_pending (s : State) :
    ∃ t, (execRingPllLockLoss s) = .next t ∧ t.pending = s.pending := by
  unfold execRingPllLockLoss
  (try dsimp only)
  (repeat' split) <;> (refine ⟨_, rfl, ?_⟩) <;> grind

@[simp] theorem ringStartUp_pending (s : State) (nodesKept : Bool) :
    (State.ringStartUp s nodesKept).pending = s.pending := by
  simp [State.ringStartUp, *]

end Sys2Proof.Machine
end

