-- ==== Sys2Proof/Laws/QueueGrid.lean ====
section
/-! SUPPORT. The queue of waiting commands is touched by no operation and by no command of
the time unit, the recorder, the almanac, the transmit path and the reflex unit: one lemma per
definition, each from the lemmas of the definitions it calls. A lemma `<name>_pending_of` says the same of a pair that has
been taken apart. -/

set_option Elab.async false

namespace Sys2Proof.Machine
open Sys2Proof

/-! ### Time -/

@[simp] theorem timeStep_pending (s : State) (step : Int) :
    (State.timeStep s step).pending = s.pending := by
  simp [State.timeStep, *]

@[simp] theorem setQuality_pending (s : State) (q : Quality) (bound : Nat) :
    (State.setQuality s q bound).pending = s.pending := by
  simp [State.setQuality, *]

@[simp] theorem swLogEntry_pending (s : State) (cause : Nat) (step : Int) (oldIncr : Nat) :
    (State.swLogEntry s cause step oldIncr).pending = s.pending := by
  unfold State.swLogEntry
  dsimp only
  (repeat' split) <;> (try simp [*]) <;> (try grind)

@[simp] theorem holdoverFrom_pending (s : State) (old : Nat) :
    (State.holdoverFrom s old).pending = s.pending := by
  unfold State.holdoverFrom
  dsimp only
  (repeat' split) <;> (try simp [*]) <;> (try grind)

@[simp] theorem holdover_pending (s : State) :
    (State.holdover s).pending = s.pending := by
  simp [State.holdover, *]

@[simp] theorem boundGrowth_pending (s : State) :
    (State.boundGrowth s).pending = s.pending := by
  unfold State.boundGrowth
  dsimp only
  (repeat' split) <;> (try simp [*]) <;> (try grind)

@[simp] theorem tick_pending (s : State) :
    (State.tick s).pending = s.pending := by
  unfold State.tick
  dsimp only
  (repeat' split) <;> (try simp [*]) <;> (try grind)

@[simp] theorem changeSource_pending (s : State) (x : Source) (old : Nat) :
    (State.changeSource s x old).pending = s.pending := by
  unfold State.changeSource
  dsimp only
  (repeat' split) <;> (try simp [*]) <;> (try grind)

@[simp] theorem sourceLost_pending (s : State) :
    (State.sourceLost s).pending = s.pending := by
  unfold State.sourceLost
  dsimp only
  (repeat' split) <;> (try simp [*]) <;> (try grind)

@[simp] theorem measured_pending (s : State) (x : Source) (off : Int) :
    (State.measured s x off).pending = s.pending := by
  simp [State.measured, *]

@[simp] theorem fixAt_pending (s : State) (x : Int) (old : Nat) :
    (State.fixAt s x old).pending = s.pending := by
  unfold State.fixAt
  dsimp only
  (repeat' split) <;> (try simp [*]) <;> (try grind)

@[simp] theorem servoTake_pending (s : State) (off filtered : Int) (old : Nat) :
    (State.servoTake s off filtered old).pending = s.pending := by
  unfold State.servoTake
  dsimp only
  (repeat' split) <;> (try simp [*]) <;> (try grind)

theorem execServoUpdate_pending (incr : BitVec 36) (filtered : Int) (s : State) :
    ∃ t, (execServoUpdate incr filtered s) = .next t ∧ t.pending = s.pending := by
  unfold execServoUpdate
  (try dsimp only)
  (repeat' split) <;> (refine ⟨_, rfl, ?_⟩) <;> (try simp [*]) <;> (try grind)

theorem execServoWatchdog_pending (s : State) :
    ∃ t, (execServoWatchdog s) = .next t ∧ t.pending = s.pending := by
  unfold execServoWatchdog
  (try dsimp only)
  (repeat' split) <;> (refine ⟨_, rfl, ?_⟩) <;> (try simp [*]) <;> (try grind)

@[simp] theorem applySet_pending (s : State) (ns bound : Nat) :
    (State.applySet s ns bound).pending = s.pending := by
  unfold State.applySet
  dsimp only
  (repeat' split) <;> (try simp [*]) <;> (try grind)

@[simp] theorem setReply_pending (s : State) (p : PendingSet) (status detail : Nat) (data : Bytes) :
    (State.setReply s p status detail data).pending = s.pending := by
  unfold State.setReply
  (try dsimp only)
  (repeat' split) <;> simp [*]

@[simp] theorem setsAtEdge_pending (s : State) :
    (State.setsAtEdge s).pending = s.pending := by
  unfold State.setsAtEdge
  dsimp only
  (repeat' split) <;> (try simp [*]) <;> (try grind)

@[simp] theorem ppsGood_pending (s : State) :
    (State.ppsGood s).pending = s.pending := by
  unfold State.ppsGood
  dsimp only
  (repeat' split) <;> (try simp [*]) <;> (try grind)

theorem execPpsEdge_pending (s : State) :
    ∃ t, (execPpsEdge s) = .next t ∧ t.pending = s.pending := by
  unfold execPpsEdge
  (try dsimp only)
  (repeat' split) <;> (refine ⟨_, rfl, ?_⟩) <;> (try simp [*]) <;> (try grind)

theorem execPpsLoss_pending (s : State) :
    ∃ t, (execPpsLoss s) = .next t ∧ t.pending = s.pending := by
  unfold execPpsLoss
  (try dsimp only)
  (repeat' split) <;> (refine ⟨_, rfl, ?_⟩) <;> (try simp [*]) <;> (try grind)

@[simp] theorem irigGood_pending (s : State) (f : IrigFrame) (sec : Nat) :
    (State.irigGood s f sec).pending = s.pending := by
  unfold State.irigGood
  dsimp only
  (repeat' split) <;> (try simp [*]) <;> (try grind)

theorem execIrigFrame_pending (f : IrigFrame) (s : State) :
    ∃ t, (execIrigFrame f s) = .next t ∧ t.pending = s.pending := by
  unfold execIrigFrame
  (try dsimp only)
  (repeat' split) <;> (refine ⟨_, rfl, ?_⟩) <;> (try simp [*]) <;> (try grind)

theorem execIrigLoss_pending (s : State) :
    ∃ t, (execIrigLoss s) = .next t ∧ t.pending = s.pending := by
  unfold execIrigLoss
  (try dsimp only)
  (repeat' split) <;> (refine ⟨_, rfl, ?_⟩) <;> (try simp [*]) <;> (try grind)

theorem execPpsOutPulse_pending (s : State) :
    ∃ t, (execPpsOutPulse s) = .next t ∧ t.pending = s.pending := by
  unfold execPpsOutPulse
  (try dsimp only)
  (repeat' split) <;> (refine ⟨_, rfl, ?_⟩) <;> (try simp [*]) <;> (try grind)

@[simp] theorem bmcaPorts_pending (s : State) :
    (State.bmcaPorts s).pending = s.pending := by
  simp [State.bmcaPorts, *]

@[simp] theorem bmca_pending (s : State) :
    (State.bmca s).pending = s.pending := by
  simp [State.bmca, *]

@[simp] theorem updPtp_pending (s : State) (p : Port) (f : PtpPort → PtpPort) :
    (State.updPtp s p f).pending = s.pending := by
  simp [State.updPtp, *]

@[simp] theorem syncOffset_pending (s : State) (p : Port) (rx : Nat) (origin : Nat) (corr : Int) :
    (State.syncOffset s p rx origin corr).pending = s.pending := by
  unfold State.syncOffset
  dsimp only
  (repeat' split) <;> (try simp [*]) <;> (try grind)

@[simp] theorem announceRx_pending (s : State) (p : Port) (b : Bytes) (o : Nat) :
    (State.announceRx s p b o).pending = s.pending := by
  unfold State.announceRx
  dsimp only
  (repeat' split) <;> (try simp [*]) <;> (try grind)

@[simp] theorem pdelayRespRx_pending (s : State) (m : PtpRx) (b : Bytes) (o : Nat) :
    (State.pdelayRespRx s m b o).pending = s.pending := by
  unfold State.pdelayRespRx
  dsimp only
  (repeat' split) <;> (try simp [*]) <;> (try grind)

@[simp] theorem ptpMsg_pending (s : State) (m : PtpRx) (o : Nat) :
    (State.ptpMsg s m o).pending = s.pending := by
  unfold State.ptpMsg
  dsimp only
  (repeat' split) <;> (try simp [*]) <;> (try grind)

theorem execPtpMsgRx_pending (s : State) :
    ∃ t, (execPtpMsgRx s) = .next t ∧ t.pending = s.pending := by
  unfold execPtpMsgRx
  (try dsimp only)
  (repeat' split) <;> (refine ⟨_, rfl, ?_⟩) <;> (try simp [*]) <;> (try grind)

@[simp] theorem ptpSend_pending (s : State) (p : Port) (b : Bytes) :
    (State.ptpSend s p b).pending = s.pending := by
  unfold State.ptpSend
  dsimp only
  (repeat' split) <;> (try simp [*]) <;> (try grind [→ ringNextSeq_pending_of])

theorem execPtpSyncTx_pending (port : Port) (s : State) :
    ∃ t, (execPtpSyncTx port s) = .next t ∧ t.pending = s.pending := by
  unfold execPtpSyncTx
  (try dsimp only)
  (repeat' split) <;> (refine ⟨_, rfl, ?_⟩) <;> (try simp [*]) <;> (try grind)

theorem execPtpAnnounceTx_pending (port : Port) (s : State) :
    ∃ t, (execPtpAnnounceTx port s) = .next t ∧ t.pending = s.pending := by
  unfold execPtpAnnounceTx
  (try dsimp only)
  (repeat' split) <;> (refine ⟨_, rfl, ?_⟩) <;> (try simp [*]) <;> (try grind)

theorem execPtpPdelayTx_pending (s : State) :
    ∃ t, (execPtpPdelayTx s) = .next t ∧ t.pending = s.pending := by
  unfold execPtpPdelayTx
  (try dsimp only)
  (repeat' split) <;> (refine ⟨_, rfl, ?_⟩) <;> (try simp [*]) <;> (try grind)

theorem execAnnounceTimeout_pending (port : Port) (s : State) :
    ∃ t, (execAnnounceTimeout port s) = .next t ∧ t.pending = s.pending := by
  unfold execAnnounceTimeout
  (try dsimp only)
  (repeat' split) <;> (refine ⟨_, rfl, ?_⟩) <;> (try simp [*]) <;> (try grind)

@[simp] theorem timeConfigBody_pending (c : Cmd) (s : State) :
    (timeConfigBody c s).st.pending = s.pending := by
  unfold timeConfigBody
  dsimp only
  (repeat' split) <;> (try simp [*]) <;> (try grind)

theorem execTimeConfig_pending (c : Cmd) (s : State) :
    ∃ t, (execTimeConfig c s) = .next t ∧ t.pending = s.pending := by
  unfold execTimeConfig
  (try dsimp only)
  (repeat' split) <;> (refine ⟨_, rfl, ?_⟩) <;> (try simp [*]) <;> (try grind)

@[simp] theorem timeSetBody_pending (c : Cmd) (s : State) :
    (timeSetBody c s).st.pending = s.pending := by
  unfold timeSetBody
  dsimp only
  (repeat' split) <;> (try simp [*]) <;> (try grind)

theorem execTimeSet_pending (c : Cmd) (s : State) :
    ∃ t, (execTimeSet c s) = .next t ∧ t.pending = s.pending := by
  unfold execTimeSet
  (try dsimp only)
  (repeat' split) <;> (refine ⟨_, rfl, ?_⟩) <;> (try simp [*]) <;> (try grind)

theorem execTimeSetPpsTimeout_pending (s : State) :
    ∃ t, (execTimeSetPpsTimeout s) = .next t ∧ t.pending = s.pending := by
  unfold execTimeSetPpsTimeout
  (try dsimp only)
  (repeat' split) <;> (refine ⟨_, rfl, ?_⟩) <;> (try simp [*]) <;> (try grind)

theorem execTimeQuery_pending (c : Cmd) (s : State) :
    ∃ t, (execTimeQuery c s) = .next t ∧ t.pending = s.pending := by
  refine ⟨_, rfl, ?_⟩; apply runCmd_pending; intro _ _; (repeat' split) <;> simp_all

@[simp] theorem timeStop_pending (s : State) :
    (State.timeStop s).pending = s.pending := by
  simp [State.timeStop, *]

theorem execRingConfig_pending (c : Cmd) (s : State) :
    ∃ t, (execRingConfig c s) = .next t ∧ t.pending = s.pending := by
  unfold execRingConfig
  (try dsimp only)
  (repeat' split) <;> (refine ⟨_, rfl, ?_⟩) <;> (try simp [*]) <;> (try grind)

@[simp] theorem timeStart_pending (s : State) :
    (State.timeStart s).pending = s.pending := by
  unfold State.timeStart
  dsimp only
  (repeat' split) <;> (try simp [*]) <;> (try grind)

/-! ### Recorder -/

@[simp] theorem dramClear_pending (s : State) (a n : Nat) :
    (State.dramClear s a n).pending = s.pending := by
  simp [State.dramClear, *]

@[simp] theorem recCount_pending (s : State) (k : Nat) :
    (State.recCount s k).pending = s.pending := by
  simp [State.recCount, *]

@[simp] theorem writeIndex_pending (s : State) (j : Nat) :
    (State.writeIndex s j).pending = s.pending := by
  unfold State.writeIndex
  (try dsimp only)
  (repeat' split) <;> simp [*]

@[simp] theorem setEvent_pending (s : State) (k : Nat) (e : RecEvent) :
    (State.setEvent s k e).pending = s.pending := by
  unfold State.setEvent
  dsimp only
  (repeat' split) <;> (try simp [*]) <;> (try grind)

@[simp] theorem cover_pending (s : State) (j : Nat) (up : Bool) :
    (State.cover s j up).pending = s.pending := by
  unfold State.cover
  dsimp only
  (repeat' split) <;> (try simp [*]) <;> (try grind)

@[simp] theorem freeEvent_pending (s : State) (k : Nat) :
    (State.freeEvent s k).pending = s.pending := by
  unfold State.freeEvent
  dsimp only
  (repeat' split) <;> (try simp [*]) <;> (try grind)

@[simp] theorem loseOldest_pending (s : State) :
    (State.loseOldest s).2.pending = s.pending := by
  unfold State.loseOldest
  dsimp only
  (repeat' split) <;> (try simp [*]) <;> (try grind)
theorem loseOldest_pending_of (s : State) {p0_ : Bool} {t_ : State} (hp_ : (State.loseOldest s) = (p0_, t_)) : t_.pending = s.pending := by
  have := loseOldest_pending s
  rw [hp_] at this
  exact this

@[simp] theorem recDrop_pending (s : State) :
    (State.recDrop s).pending = s.pending := by
  unfold State.recDrop
  dsimp only
  (repeat' split) <;> (try simp [*]) <;> (try grind)

@[simp] theorem record_pending (s : State) (kind t a b : Nat) (body : Bytes) :
    (State.record s kind t a b body).pending = s.pending := by
  unfold State.record
  dsimp only
  (repeat' split) <;> (try simp [*]) <;> (try grind)

@[simp] theorem leaveBlock_pending (s : State) :
    (State.leaveBlock s).pending = s.pending := by
  simp [State.leaveBlock, *]

@[simp] theorem enterBlock_pending (s : State) (j : Nat) :
    (State.enterBlock s j).pending = s.pending := by
  unfold State.enterBlock
  dsimp only
  (repeat' split) <;> (try simp [*]) <;> (try grind)

@[simp] theorem writeOctets_pending (x0 : Nat) (s : State) (x2 : Bytes) :
    (State.writeOctets x0 s x2).pending = s.pending := by
  induction x0 generalizing s x2 with
  | zero => cases x2 <;> rfl
  | succ n ih =>
    cases x2 with
    | nil => rfl
    | cons q l =>
      unfold State.writeOctets
      rw [ih]
      dsimp only
      split <;> simp

@[simp] theorem endBlock_pending (s : State) :
    (State.endBlock s).pending = s.pending := by
  unfold State.endBlock
  dsimp only
  (repeat' split) <;> (try simp [*]) <;> (try grind)

theorem place_pending (s : State) (len : Nat) :
    ∀ t, (State.place s len) = some t → t.pending = s.pending := by
  unfold State.place
  intro t h
  dsimp only at h
  split at h
  · cases h
    rfl
  · simp only [Option.map_eq_some_iff] at h
    obtain ⟨_, _, rfl⟩ := h
    simp

theorem placeOver_pending (x0 : Nat) (s : State) (x2 : Nat) :
    (State.placeOver x0 s x2).2.pending = s.pending ∧ ∀ t, (State.placeOver x0 s x2).1 = some t → t.pending = s.pending := by
  induction x0 generalizing s with
  | zero => exact ⟨rfl, fun t h => place_pending _ _ _ h⟩
  | succ n ih =>
    unfold State.placeOver
    split
    · rename_i h
      exact ⟨rfl, fun t e => by cases e; exact place_pending _ _ _ h⟩
    · split
      · exact ⟨rfl, fun t e => by cases e⟩
      · split
        rename_i h
        split
        · have := ih ‹_›
          rw [loseOldest_pending_of _ h] at this
          exact this
        · exact ⟨loseOldest_pending_of _ h, fun t e => by cases e⟩

@[simp] theorem writeRecord_pending (s : State) (r : Bytes) :
    (State.writeRecord s r).2.pending = s.pending := by
  unfold State.writeRecord
  split
  · rename_i h
    have := (placeOver_pending 64 s r.length).1
    rw [h] at this
    exact this
  · rename_i h
    have := (placeOver_pending 64 s r.length).2 _ (by rw [h])
    simp only [recCount_pending, writeOctets_pending]
    split <;> simp [this]
theorem writeRecord_pending_of (s : State) (r : Bytes) {p0_ : Bool} {t_ : State} (hp_ : (State.writeRecord s r) = (p0_, t_)) : t_.pending = s.pending := by
  have := writeRecord_pending s r
  rw [hp_] at this
  exact this

@[simp] theorem recGap_pending (s : State) :
    (State.recGap s).2.pending = s.pending := by
  unfold State.recGap
  dsimp only
  (repeat' split) <;> grind [→ writeRecord_pending_of]
theorem recGap_pending_of (s : State) {p0_ : Bool} {t_ : State} (hp_ : (State.recGap s) = (p0_, t_)) : t_.pending = s.pending := by
  have := recGap_pending s
  rw [hp_] at this
  exact this

@[simp] theorem recPut_pending (s : State) (b : Bytes) :
    (State.recPut s b).pending = s.pending := by
  unfold State.recPut
  dsimp only
  (repeat' split) <;> (try simp [*]) <;> (try grind [→ writeRecord_pending_of])

theorem execRecWriter_pending (s : State) :
    ∃ t, (execRecWriter s) = .next t ∧ t.pending = s.pending := by
  unfold execRecWriter
  (try dsimp only)
  (repeat' split) <;> (refine ⟨_, rfl, ?_⟩) <;> (try simp [*]) <;> (try grind [→ recGap_pending_of])

@[simp] theorem rawCopy_pending (s : State) (f : Frame) :
    (State.rawCopy s f).pending = s.pending := by
  unfold State.rawCopy
  dsimp only
  (repeat' split) <;> (try simp [*]) <;> (try grind)

@[simp] theorem trigger_pending (s : State) (source id t : Nat) :
    (State.trigger s source id t).2.pending = s.pending := by
  unfold State.trigger
  dsimp only
  (repeat' split) <;> (try simp [*]) <;> (try grind [→ loseOldest_pending_of])
theorem trigger_pending_of (s : State) (source id t : Nat) {p0_ : Option (Nat × Bool)} {t_ : State} (hp_ : (State.trigger s source id t) = (p0_, t_)) : t_.pending = s.pending := by
  have := trigger_pending s source id t
  rw [hp_] at this
  exact this

@[simp] theorem closeEvent_pending (s : State) (hove : Bool) :
    (State.closeEvent s hove).pending = s.pending := by
  unfold State.closeEvent
  (try dsimp only)
  (repeat' split) <;> simp [*]

theorem execRecEventClose_pending (s : State) :
    ∃ t, (execRecEventClose s) = .next t ∧ t.pending = s.pending := by
  unfold execRecEventClose
  (try dsimp only)
  (repeat' split) <;> (refine ⟨_, rfl, ?_⟩) <;> (try simp [*]) <;> (try grind)

@[simp] theorem stage_pending (s : State) (off n : Nat) (e : Export) :
    (State.stage s off n e).2.pending = s.pending := by
  unfold State.stage
  dsimp only
  (repeat' split) <;> (try simp [*]) <;> (try grind)
theorem stage_pending_of (s : State) (off n : Nat) (e : Export) {p0_ : Export} {t_ : State} (hp_ : (State.stage s off n e) = (p0_, t_)) : t_.pending = s.pending := by
  have := stage_pending s off n e
  rw [hp_] at this
  exact this

@[simp] theorem submit_pending (s : State) (op : Nat) (piece : Option (Nat × Nat)) (e : Export) :
    (State.submit s op piece e).pending = s.pending := by
  unfold State.submit
  dsimp only
  (repeat' split) <;> (try simp [*]) <;> (try grind)

@[simp] theorem submitAll_pending (x0 : Nat) (s : State) :
    (State.submitAll x0 s).pending = s.pending := by
  induction x0 generalizing s with | zero => simp [State.submitAll] | succ n ih => unfold State.submitAll; dsimp only; (repeat' split) <;> (try simp [ih, *]) <;> (try grind)

@[simp] theorem batch_pending (s : State) :
    (State.batch s).pending = s.pending := by
  unfold State.batch
  dsimp only
  (repeat' split) <;> (try simp [*]) <;> (try grind)

@[simp] theorem exportEnd_pending (s : State) (outcome status cid : Nat) :
    (State.exportEnd s outcome status cid).pending = s.pending := by
  unfold State.exportEnd
  dsimp only
  (repeat' split) <;> (try simp [*]) <;> (try grind)

@[simp] theorem detachDone_pending (s : State) :
    (State.detachDone s).pending = s.pending := by
  unfold State.detachDone
  dsimp only
  (repeat' split) <;> (try simp [*]) <;> (try grind)

@[simp] theorem cqTaken_pending (s : State) (q : Qp) :
    (State.cqTaken s q).pending = s.pending := by
  unfold State.cqTaken
  dsimp only
  (repeat' split) <;> (try simp [*]) <;> (try grind)

@[simp] theorem exportNote_pending (s : State) (status cid lbas : Nat) :
    (State.exportNote s status cid lbas).pending = s.pending := by
  unfold State.exportNote
  dsimp only
  (repeat' split) <;> grind

@[simp] theorem exportStop_pending (s : State) (outcome st c : Nat) :
    (State.exportStop s outcome st c).pending = s.pending := by
  unfold State.exportStop
  dsimp only
  (repeat' split) <;> (try simp [*]) <;> (try grind)

@[simp] theorem exportSettle_pending (s : State) :
    (State.exportSettle s).pending = s.pending := by
  unfold State.exportSettle
  dsimp only
  (repeat' split) <;> (try simp [*]) <;> (try grind)

@[simp] theorem cqEntry_pending (s : State) (b : Bytes) :
    (State.cqEntry s b).pending = s.pending := by
  unfold State.cqEntry
  dsimp only
  (repeat' split) <;> (try simp [*]) <;> (try grind)

theorem execNvmeCompletion_pending (s : State) :
    ∃ t, (execNvmeCompletion s) = .next t ∧ t.pending = s.pending := by
  unfold execNvmeCompletion
  (try dsimp only)
  (repeat' split) <;> (refine ⟨_, rfl, ?_⟩) <;> (try simp [*]) <;> (try grind [→ dramRead_of])

theorem execNvmeCmdTimeout_pending (s : State) :
    ∃ t, (execNvmeCmdTimeout s) = .next t ∧ t.pending = s.pending := by
  unfold execNvmeCmdTimeout
  (try dsimp only)
  (repeat' split) <;> (refine ⟨_, rfl, ?_⟩) <;> (try simp [*]) <;> (try grind)

@[simp] theorem captureStart_pending (s : State) :
    (State.captureStart s).pending = s.pending := by
  unfold State.captureStart
  dsimp only
  (repeat' split) <;> (try simp [*]) <;> (try grind)

@[simp] theorem captureStop_pending (s : State) :
    (State.captureStop s).pending = s.pending := by
  unfold State.captureStop
  dsimp only
  (repeat' split) <;> (try simp [*]) <;> (try grind)

@[simp] theorem recConfigBody_pending (b : Bytes) (s : State) :
    (recConfigBody b s).st.pending = s.pending := by
  unfold recConfigBody
  dsimp only
  (repeat' split) <;> (try simp [*]) <;> (try grind)

theorem execRecConfig_pending (c : Cmd) (s : State) :
    ∃ t, (execRecConfig c s) = .next t ∧ t.pending = s.pending := by
  unfold execRecConfig
  (try dsimp only)
  (repeat' split) <;> (refine ⟨_, rfl, ?_⟩) <;> (try simp [*]) <;> (try grind)

@[simp] theorem recTriggerBody_pending (c : Cmd) (s : State) :
    (recTriggerBody c s).st.pending = s.pending := by
  unfold recTriggerBody
  dsimp only
  (repeat' split) <;> (try simp [*]) <;> (try grind [→ trigger_pending_of])

theorem execRecTrigger_pending (c : Cmd) (s : State) :
    ∃ t, (execRecTrigger c s) = .next t ∧ t.pending = s.pending := by
  unfold execRecTrigger
  (try dsimp only)
  (repeat' split) <;> (refine ⟨_, rfl, ?_⟩) <;> (try simp [*]) <;> (try grind)

@[simp] theorem exportAttach_pending (c : Cmd) (s : State) :
    (exportAttach c s).st.pending = s.pending := by
  unfold exportAttach
  dsimp only
  (repeat' split) <;> (try simp [*]) <;> (try grind)

@[simp] theorem exportDetach_pending (s : State) :
    (exportDetach s).st.pending = s.pending := by
  unfold exportDetach
  dsimp only
  (repeat' split) <;> (try simp [*]) <;> (try grind)

@[simp] theorem exportStart_pending (k : Nat) (e : RecEvent) (d : Bytes) (s : State) :
    (exportStart k e d s).st.pending = s.pending := by
  unfold exportStart
  dsimp only
  (repeat' split) <;> (try simp [*]) <;> (try grind [→ draw_of])

@[simp] theorem exportEvent_pending (c : Cmd) (release : Bool) (s : State) :
    (exportEvent c release s).st.pending = s.pending := by
  unfold exportEvent
  dsimp only
  (repeat' split) <;> (try simp [*]) <;> (try grind)

@[simp] theorem recExportBody_pending (c : Cmd) (s : State) :
    (recExportBody c s).st.pending = s.pending := by
  unfold recExportBody
  dsimp only
  (repeat' split) <;> (try simp [*]) <;> (try grind)

theorem recExport_pending (c : Cmd) (s : State) :
    ∃ t, (recExport c s) = .next t ∧ t.pending = s.pending := by
  unfold recExport
  (try dsimp only)
  (repeat' split) <;> (refine ⟨_, rfl, ?_⟩) <;> (try simp [*]) <;> (try grind)

theorem execRecExportAttach_pending (c : Cmd) (s : State) :
    ∃ t, (execRecExportAttach c s) = .next t ∧ t.pending = s.pending := by
  unfold execRecExportAttach
  (try dsimp only)
  (repeat' split) <;> (refine ⟨_, rfl, ?_⟩) <;> (try simp [*]) <;> (try grind)

theorem execRecExportDetach_pending (c : Cmd) (s : State) :
    ∃ t, (execRecExportDetach c s) = .next t ∧ t.pending = s.pending := by
  unfold execRecExportDetach
  (try dsimp only)
  (repeat' split) <;> (refine ⟨_, rfl, ?_⟩) <;> (try simp [*]) <;> (try grind)

theorem execRecExportExport_pending (c : Cmd) (s : State) :
    ∃ t, (execRecExportExport c s) = .next t ∧ t.pending = s.pending := by
  unfold execRecExportExport
  (try dsimp only)
  (repeat' split) <;> (refine ⟨_, rfl, ?_⟩) <;> (try simp [*]) <;> (try grind)

theorem execRecExportRelease_pending (c : Cmd) (s : State) :
    ∃ t, (execRecExportRelease c s) = .next t ∧ t.pending = s.pending := by
  unfold execRecExportRelease
  (try dsimp only)
  (repeat' split) <;> (refine ⟨_, rfl, ?_⟩) <;> (try simp [*]) <;> (try grind)

@[simp] theorem recHove_pending (s : State) (entering : Bool) :
    (State.recHove s entering).pending = s.pending := by
  unfold State.recHove
  dsimp only
  (repeat' split) <;> (try simp [*]) <;> (try grind)

@[simp] theorem recStop_pending (s : State) :
    (State.recStop s).pending = s.pending := by
  unfold State.recStop
  dsimp only
  (repeat' split) <;> (try simp [*]) <;> (try grind)

@[simp] theorem recReset_pending (s : State) :
    (State.recReset s).pending = s.pending := by
  unfold State.recReset
  dsimp only
  (repeat' split) <;> (try simp [*]) <;> (try grind)

/-! ### Almanac -/

@[simp] theorem writeCell_pending (s : State) (a : Almanac) (n col : Nat) (b : Bytes) :
    (State.writeCell s a n col b).pending = s.pending := by
  simp [State.writeCell, *]

@[simp] theorem setAlm_pending (s : State) (k : Nat) (a : Almanac) :
    (State.setAlm s k a).pending = s.pending := by
  simp [State.setAlm, *]

@[simp] theorem activePut_pending (s : State) (i kind : Nat) (body : Bytes) :
    (State.activePut s i kind body).2.pending = s.pending := by
  unfold State.activePut
  dsimp only
  (repeat' split) <;> (try simp [*]) <;> (try grind)
theorem activePut_pending_of (s : State) (i kind : Nat) (body : Bytes) {p0_ : EventFate} {t_ : State} (hp_ : (State.activePut s i kind body) = (p0_, t_)) : t_.pending = s.pending := by
  have := activePut_pending s i kind body
  rw [hp_] at this
  exact this

@[simp] theorem activeEvent_pending (s : State) (i kind : Nat) (body : Bytes) :
    (State.activeEvent s i kind body).2.pending = s.pending := by
  unfold State.activeEvent
  split
  · rename_i h
    simp [activePut_pending_of _ _ _ _ h]
  · simp
theorem activeEvent_pending_of (s : State) (i kind : Nat) (body : Bytes) {p0_ : EventFate} {t_ : State} (hp_ : (State.activeEvent s i kind body) = (p0_, t_)) : t_.pending = s.pending := by
  have := activeEvent_pending s i kind body
  rw [hp_] at this
  exact this

@[simp] theorem setWatch_pending (s : State) (k : Nat) (w : Watch) :
    (State.setWatch s k w).pending = s.pending := by
  simp [State.setWatch, *]

@[simp] theorem dropWatches_pending (s : State) (p : Nat → Watch → Bool) :
    (State.dropWatches s p).pending = s.pending := by
  simp [State.dropWatches, *]

@[simp] theorem watchCount_pending (s : State) (k c : Nat) :
    (State.watchCount s k c).pending = s.pending := by
  simp [State.watchCount, *]

@[simp] theorem watchPut_pending (s : State) (k kind : Nat) (body : Bytes) :
    (State.watchPut s k kind body).2.pending = s.pending := by
  unfold State.watchPut
  grind [activePut_pending, watchCount_pending, → activePut_pending_of]
theorem watchPut_pending_of (s : State) (k kind : Nat) (body : Bytes) {p0_ : Bool} {t_ : State} (hp_ : (State.watchPut s k kind body) = (p0_, t_)) : t_.pending = s.pending := by
  have := watchPut_pending s k kind body
  rw [hp_] at this
  exact this

@[simp] theorem watchSignal_pending (s : State) (k kind : Nat) :
    (State.watchSignal s k kind).pending = s.pending := by
  simp [State.watchSignal, *]

@[simp] theorem watchEvent_pending (s : State) (k kind : Nat) (body : Bytes) :
    (State.watchEvent s k kind body).pending = s.pending := by
  unfold State.watchEvent
  grind [watchPut_pending, watchSignal_pending, → watchPut_pending_of]

@[simp] theorem notifyWatch_pending (s : State) (k : Nat) (a : Almanac) (n : Nat) (off : Int)
    (flags missing j : Nat) (w : Watch) :
    (State.notifyWatch s k a n off flags missing j w).2.pending = s.pending := by
  unfold State.notifyWatch
  dsimp only
  (repeat' split) <;> (try simp [*]) <;> (try grind [→ watchPut_pending_of])
theorem notifyWatch_pending_of (s : State) (k : Nat) (a : Almanac) (n : Nat) (off : Int) (flags missing j : Nat) (w : Watch) {p0_ : Bool} {t_ : State} (hp_ : (State.notifyWatch s k a n off flags missing j w) = (p0_, t_)) : t_.pending = s.pending := by
  have := notifyWatch_pending s k a n off flags missing j w
  rw [hp_] at this
  exact this

@[simp] theorem notifyWatches_pending (s : State) (k : Nat) (a : Almanac) (n : Nat) (off : Int)
    (flags missing : Nat) :
    (State.notifyWatches s k a n off flags missing).pending = s.pending := by
  unfold State.notifyWatches
  dsimp only
  rw [foldl_pending _ _ _ (by intro s a; simp)]
  exact pairFold_pending _ _ _ (by intro r x; simp)

@[simp] theorem watchOverrun_pending (s : State) (k : Nat) (a : Almanac) (old : Nat) :
    (State.watchOverrun s k a old).pending = s.pending := by
  unfold State.watchOverrun
  dsimp only
  (repeat' split) <;> (try simp [*]) <;> (try grind)

@[simp] theorem fillCell_pending (s : State) (a : Almanac) (n stream : Nat) :
    (State.fillCell s a n stream).2.2.pending = s.pending := by
  unfold State.fillCell
  dsimp only
  (repeat' split) <;> grind [→ draw_of]
theorem fillCell_pending_of (s : State) (a : Almanac) (n stream : Nat) {p0_ : Bool} {p1_ : Bytes} {t_ : State} (hp_ : (State.fillCell s a n stream) = (p0_, p1_, t_)) : t_.pending = s.pending := by
  have := fillCell_pending s a n stream
  rw [hp_] at this
  exact this

theorem quadFold_pending {α β γ δ : Type} (g : α × β × γ × State → δ → α × β × γ × State) (l : List δ) (r : α × β × γ × State)
    (h : ∀ r x, (g r x).2.2.2.pending = r.2.2.2.pending) : (l.foldl g r).2.2.2.pending = r.2.2.2.pending := by
  induction l generalizing r with
  | nil => rfl
  | cons a l ih => rw [List.foldl_cons, ih, h]

@[simp] theorem fillRow_pending (s : State) (a : Almanac) (r : Row) :
    (State.fillRow s a r).2.2.2.pending = s.pending := by
  unfold State.fillRow
  apply quadFold_pending
  intro r x
  dsimp only
  (repeat' split) <;> simp
theorem fillRow_pending_of (s : State) (a : Almanac) (r : Row) {p0_ : Nat} {p1_ : Nat} {p2_ : Bytes} {t_ : State} (hp_ : (State.fillRow s a r) = (p0_, p1_, p2_, t_)) : t_.pending = s.pending := by
  have := fillRow_pending s a r
  rw [hp_] at this
  exact this

@[simp] theorem noteValid_pending (s : State) (r : Row) :
    (State.noteValid s r).pending = s.pending := by
  simp (disch := (intros; (repeat' split) <;> simp_all)) [State.noteValid, *]

@[simp] theorem dropEnded_pending (s : State) :
    (State.dropEnded s).pending = s.pending := by
  simp [State.dropEnded, *]

@[simp] theorem sealRow_pending (s : State) (k instant : Nat) (aborted : Bool) :
    (State.sealRow s k instant aborted).pending = s.pending := by
  unfold State.sealRow
  dsimp only
  (repeat' split) <;> (try simp [*]) <;> (try grind [→ fillRow_pending_of])

@[simp] theorem sealChain_pending (x0 : Nat) (x1 : Nat) (s : State) :
    (State.sealChain x0 x1 s).pending = s.pending := by
  induction x0 generalizing x1 s with
  | zero => rfl
  | succ n ih =>
    unfold State.sealChain
    split
    · split
      · split
        · simp [ih]
        · rfl
      · rfl
    · rfl

@[simp] theorem abortRows_pending (s : State) (k : Nat) :
    (State.abortRows s k).pending = s.pending := by
  unfold State.abortRows
  (try dsimp only)
  (repeat' split) <;> simp [*]

theorem execAlmRowOpen_pending (alm : Nat) (s : State) :
    ∃ t, (execAlmRowOpen alm s) = .next t ∧ t.pending = s.pending := by
  unfold execAlmRowOpen
  (try dsimp only)
  (repeat' split) <;> (refine ⟨_, rfl, ?_⟩) <;> (try simp [*]) <;> (try grind)

theorem execAlmRowSeal_pending (alm : Nat) (s : State) :
    ∃ t, (execAlmRowSeal alm s) = .next t ∧ t.pending = s.pending := by
  unfold execAlmRowSeal
  (try dsimp only)
  (repeat' split) <;> (refine ⟨_, rfl, ?_⟩) <;> (try simp [*]) <;> (try grind)

@[simp] theorem streamCount_pending (s : State) (st k : Nat) :
    (State.streamCount s st k).pending = s.pending := by
  simp [State.streamCount, *]

@[simp] theorem almCount_pending (s : State) (k : Nat) :
    (State.almCount s k).pending = s.pending := by
  simp [State.almCount, *]

@[simp] theorem placeAsdu_pending (s : State) (id : Nat) (sim : Bool) (t : Nat) (x : Asdu) :
    (State.placeAsdu s id sim t x).2.pending = s.pending := by
  unfold State.placeAsdu
  dsimp only
  (repeat' split) <;> (try simp [*]) <;> (try grind)
theorem placeAsdu_pending_of (s : State) (id : Nat) (sim : Bool) (t : Nat) (x : Asdu) {p0_ : Bool} {t_ : State} (hp_ : (State.placeAsdu s id sim t x) = (p0_, t_)) : t_.pending = s.pending := by
  have := placeAsdu_pending s id sim t x
  rw [hp_] at this
  exact this

@[simp] theorem ingestTime_pending (s : State) (at_ : Nat) :
    (State.ingestTime s at_).pending = s.pending := by
  simp [State.ingestTime, *]

@[simp] theorem svPlace_pending (s : State) (id : Nat) (sim : Bool) (t : Nat) (xs : List Asdu) :
    (State.svPlace s id sim t xs).2.pending = s.pending := by
  unfold State.svPlace
  apply pairFold_pending
  intro r x
  simp
theorem svPlace_pending_of (s : State) (id : Nat) (sim : Bool) (t : Nat) (xs : List Asdu) {p0_ : Bool} {t_ : State} (hp_ : (State.svPlace s id sim t xs) = (p0_, t_)) : t_.pending = s.pending := by
  have := svPlace_pending s id sim t xs
  rw [hp_] at this
  exact this

@[simp] theorem svAuth_pending (s : State) (st : SvStream) (b : Bytes) :
    (State.svAuth s st b).2.pending = s.pending := by
  unfold State.svAuth
  (try dsimp only)
  (repeat' split) <;> simp [*]
theorem svAuth_pending_of (s : State) (st : SvStream) (b : Bytes) {p0_ : Bool} {t_ : State} (hp_ : (State.svAuth s st b) = (p0_, t_)) : t_.pending = s.pending := by
  have := svAuth_pending s st b
  rw [hp_] at this
  exact this

@[simp] theorem svAccept_pending (s : State) (id : Nat) (st : SvStream) (q : Steered) (sim : Bool) (xs : List Asdu) :
    (State.svAccept s id st q sim xs).pending = s.pending := by
  unfold State.svAccept
  dsimp only
  (repeat' split) <;> (try simp [*]) <;> (try grind [→ svPlace_pending_of, → svAuth_pending_of])

theorem execSvFrameIngest_pending (s : State) :
    ∃ t, (execSvFrameIngest s) = .next t ∧ t.pending = s.pending := by
  unfold execSvFrameIngest
  (try dsimp only)
  (repeat' split) <;> (refine ⟨_, rfl, ?_⟩) <;> (try simp [*]) <;> (try grind)

theorem execWatchAck_pending (inst : Nat) (value : W32) (s : State) :
    ∃ t, (execWatchAck inst value s) = .next t ∧ t.pending = s.pending := by
  unfold execWatchAck
  (try dsimp only)
  (repeat' split) <;> (refine ⟨_, rfl, ?_⟩) <;> (try simp [*]) <;> (try grind)

theorem execAlmClrIngestMax_pending (value : W32) (s : State) :
    ∃ t, (execAlmClrIngestMax value s) = .next t ∧ t.pending = s.pending := by
  unfold execAlmClrIngestMax
  (try dsimp only)
  (repeat' split) <;> (refine ⟨_, rfl, ?_⟩) <;> (try simp [*]) <;> (try grind)

@[simp] theorem pinKey_pending (s : State) (h : Nat) :
    (State.pinKey s h).pending = s.pending := by
  unfold State.pinKey
  (try dsimp only)
  (repeat' split) <;> simp [*]

@[simp] theorem svSubscribeBody_pending (c : Cmd) (b : Bytes) (s : State) :
    (svSubscribeBody c b s).st.pending = s.pending := by
  unfold svSubscribeBody
  dsimp only
  (repeat' split) <;> (try simp [*]) <;> (try grind)

theorem execSvSubscribe_pending (c : Cmd) (s : State) :
    ∃ t, (execSvSubscribe c s) = .next t ∧ t.pending = s.pending := by
  unfold execSvSubscribe
  (try dsimp only)
  (repeat' split) <;> (refine ⟨_, rfl, ?_⟩) <;> (try simp [*]) <;> (try grind)

@[simp] theorem svUnsubscribeBody_pending (c : Cmd) (s : State) :
    (svUnsubscribeBody c s).st.pending = s.pending := by
  unfold svUnsubscribeBody
  dsimp only
  (repeat' split) <;> (try simp [*]) <;> (try grind)

theorem execSvUnsubscribe_pending (c : Cmd) (s : State) :
    ∃ t, (execSvUnsubscribe c s) = .next t ∧ t.pending = s.pending := by
  unfold execSvUnsubscribe
  (try dsimp only)
  (repeat' split) <;> (refine ⟨_, rfl, ?_⟩) <;> (try simp [*]) <;> (try grind)

@[simp] theorem almCreateBody_pending (c : Cmd) (b : Bytes) (s : State) :
    (almCreateBody c b s).st.pending = s.pending := by
  unfold almCreateBody
  dsimp only
  (repeat' split) <;> (try simp [*]) <;> (try grind)

@[simp] theorem almDestroy_pending (s : State) (k : Nat) :
    (State.almDestroy s k).pending = s.pending := by
  unfold State.almDestroy
  dsimp only
  (repeat' split) <;> (try simp [*]) <;> (try grind)

@[simp] theorem almDestroyBody_pending (c : Cmd) (s : State) :
    (almDestroyBody c s).st.pending = s.pending := by
  unfold almDestroyBody
  dsimp only
  (repeat' split) <;> (try simp [*]) <;> (try grind)

@[simp] theorem almBody_pending (c : Cmd) (b : Bytes) (s : State) :
    (almBody c b s).st.pending = s.pending := by
  simp [almBody, *]

theorem execAlmCreate_pending (c : Cmd) (s : State) :
    ∃ t, (execAlmCreate c s) = .next t ∧ t.pending = s.pending := by
  unfold execAlmCreate
  (try dsimp only)
  (repeat' split) <;> (refine ⟨_, rfl, ?_⟩) <;> (try simp [*]) <;> (try grind)

theorem execAlmDestroy_pending (c : Cmd) (s : State) :
    ∃ t, (execAlmDestroy c s) = .next t ∧ t.pending = s.pending := by
  unfold execAlmDestroy
  (try dsimp only)
  (repeat' split) <;> (refine ⟨_, rfl, ?_⟩) <;> (try simp [*]) <;> (try grind)

@[simp] theorem almWatchBody_pending (c : Cmd) (s : State) :
    (almWatchBody c s).st.pending = s.pending := by
  unfold almWatchBody
  dsimp only
  (repeat' split) <;> (try simp [*]) <;> (try grind)

theorem execAlmWatch_pending (c : Cmd) (s : State) :
    ∃ t, (execAlmWatch c s) = .next t ∧ t.pending = s.pending := by
  unfold execAlmWatch
  (try dsimp only)
  (repeat' split) <;> (refine ⟨_, rfl, ?_⟩) <;> (try simp [*]) <;> (try grind)

@[simp] theorem almWipe_pending (s : State) :
    (State.almWipe s).pending = s.pending := by
  simp [State.almWipe, *]

@[simp] theorem almInstReset_pending (s : State) (i : Nat) :
    (State.almInstReset s i).pending = s.pending := by
  simp [State.almInstReset, *]

@[simp] theorem almHove_pending (s : State) (entering : Bool) :
    (State.almHove s entering).pending = s.pending := by
  unfold State.almHove
  dsimp only
  (repeat' split) <;> (try simp [*]) <;> (try grind)

/-! ### Transmit -/

@[simp] theorem txPieces_pending (s : State) (r : Nat) (d : Bytes) (t : HostRead) :
    (State.txPieces s r d t).2.pending = s.pending := by
  unfold State.txPieces
  dsimp only
  (repeat' split) <;> grind [→ hostRead_of]
theorem txPieces_pending_of (s : State) (r : Nat) (d : Bytes) (t : HostRead) {p0_ : TxPieces} {t_ : State} (hp_ : (State.txPieces s r d t) = (p0_, t_)) : t_.pending = s.pending := by
  have := txPieces_pending s r d t
  rw [hp_] at this
  exact this

@[simp] theorem txProduce_pending (s : State) (r : Nat) (d : Desc) (n : Nat) :
    (State.txProduce s r d n).pending = s.pending := by
  simp [State.txProduce, *]

@[simp] theorem segmentsGo_pending (s : State) (fs : List Frame) (record key template group : Bytes)
    (entry : Option FlowEntry) (late : Bool) :
    (State.segmentsGo s fs record key template group entry late).pending = s.pending := by
  unfold State.segmentsGo
  apply foldl_pending
  intro s f
  split <;> rename_i h <;> simp [frameMatch_pending_of _ _ _ _ _ _ _ _ h]

@[simp] theorem sendSegments_pending (s : State) (r : Nat) (d : Desc) (b : Bytes) (late : Bool) :
    (State.sendSegments s r d b late).pending = s.pending := by
  unfold State.sendSegments
  dsimp only
  (repeat' split) <;> (try simp [*]) <;> (try grind [→ frameLookup_pending_of])

@[simp] theorem txData_pending (s : State) (r : Nat) (d : Desc) (b : Bytes) (late : Bool) :
    (State.txData s r d b late).pending = s.pending := by
  unfold State.txData
  dsimp only
  (repeat' split) <;> (try simp [*]) <;> (try grind)

@[simp] theorem txRun_pending (s : State) (r : Nat) (d : Desc) (table frame : HostRead) (late : Bool) :
    (State.txRun s r d table frame late).pending = s.pending := by
  unfold State.txRun
  dsimp only
  (repeat' split) <;> (try simp [*]) <;> (try grind [→ hostReads_of, → txPieces_pending_of])

theorem execTxDescriptor_pending (ring : Nat) (table frame : HostRead) (late : Bool) (s : State) :
    ∃ t, (execTxDescriptor ring table frame late s) = .next t ∧ t.pending = s.pending := by
  unfold execTxDescriptor
  (try dsimp only)
  (repeat' split) <;> (refine ⟨_, rfl, ?_⟩) <;> (try simp [*]) <;> (try grind)

@[simp] theorem portSelect_pending (s : State) (p : Port) :
    (State.portSelect s p).pending = s.pending := by
  unfold State.portSelect
  split
  · rfl
  · split
    · simp
    · split
      · rename_i h
        simp [select_of h]
      · rfl

@[simp] theorem ringSelect_pending (s : State) (p : Port) :
    (State.ringSelect s p).pending = s.pending := by
  unfold State.ringSelect
  (repeat' split) <;> (try rfl)
  all_goals
    rename_i h
    simp [select_of h]

/-! ### Egress -/

@[simp] theorem recorderSelect_pending (s : State) :
    (State.recorderSelect s).pending = s.pending := by
  unfold State.recorderSelect
  split
  · rename_i h
    simp [select_of h]
  · rfl

@[simp] theorem loopSelect_pending (s : State) :
    (State.loopSelect s).pending = s.pending := by
  unfold State.loopSelect
  split
  · rename_i h
    simp [select_of h]
  · rfl

theorem execSchedSelect_pending (port : Nat) (s : State) :
    ∃ t, (execSchedSelect port s) = .next t ∧ t.pending = s.pending := by
  unfold execSchedSelect
  (try dsimp only)
  (repeat' split) <;> (refine ⟨_, rfl, ?_⟩) <;> (try simp [*]) <;> (try grind)

/-! ### Reflex -/

@[simp] theorem setSlot_pending (s : State) (k : Nat) (x : Slot) :
    (State.setSlot s k x).pending = s.pending := by
  simp [State.setSlot, *]

@[simp] theorem reflexCount_pending (s : State) (k : Nat) :
    (State.reflexCount s k).pending = s.pending := by
  simp [State.reflexCount, *]

@[simp] theorem signed_pending (s : State) (x : Slot) (f : Bytes) :
    (State.signed s x f).2.pending = s.pending := by
  unfold State.signed
  grind [ciphCount_pending, touchKey_pending, ctxUsable_pending, → ctxUsable_pending_of]
theorem signed_pending_of (s : State) (x : Slot) (f : Bytes) {p0_ : Option Bytes} {t_ : State} (hp_ : (State.signed s x f) = (p0_, t_)) : t_.pending = s.pending := by
  have := signed_pending s x f
  rw [hp_] at this
  exact this

@[simp] theorem reflexSend_pending (s : State) (ports : Nat) (f : Bytes) (tx : ReflexTx) :
    (State.reflexSend s ports f tx).pending = s.pending := by
  unfold State.reflexSend
  dsimp only
  (repeat' split) <;> (try simp [*]) <;> (try grind [→ ringNextSeq_pending_of])

@[simp] theorem selfDeliver_pending (s : State) (f : Bytes) :
    (State.selfDeliver s f).pending = s.pending := by
  unfold State.selfDeliver
  dsimp only
  (repeat' split) <;> grind

@[simp] theorem transmit_pending (s : State) (x : Slot) (tx : ReflexTx) :
    (State.transmit s x tx).pending = s.pending := by
  unfold State.transmit
  dsimp only
  (repeat' split) <;> (try simp [*]) <;> (try grind [→ signed_pending_of])

@[simp] theorem newState_pending (s : State) (k : Nat) (x : Slot) (since : Option Nat) :
    (State.newState s k x since).pending = s.pending := by
  unfold State.newState
  dsimp only
  (repeat' split) <;> (try simp [*]) <;> (try grind)

@[simp] theorem slotResume_pending (s : State) (k : Nat) (x : Slot) :
    (State.slotResume s k x).pending = s.pending := by
  unfold State.slotResume
  dsimp only
  (repeat' split) <;> (try simp [*]) <;> (try grind)

theorem execReflexStage_pending (inst slot : Nat) (lo : W32) (s : State) :
    ∃ t, (execReflexStage inst slot lo s) = .next t ∧ t.pending = s.pending := by
  unfold execReflexStage
  (try dsimp only)
  (repeat' split) <;> (refine ⟨_, rfl, ?_⟩) <;> (try simp [*]) <;> (try grind)

@[simp] theorem reflexRefused_pending (s : State) (k reason : Nat) (seq : Byte) :
    (State.reflexRefused s k reason seq).pending = s.pending := by
  unfold State.reflexRefused
  dsimp only
  (repeat' split) <;> (try simp [*]) <;> (try grind)

@[simp] theorem reflexApply_pending (s : State) (k : Nat) (x : Slot) (lo hi : W32) (since : Nat) :
    (State.reflexApply s k x lo hi since).pending = s.pending := by
  simp [State.reflexApply, *]

@[simp] theorem reflexArmed_pending (s : State) (k : Nat) (x : Slot) (hi : W32) :
    (State.reflexArmed s k x hi).pending = s.pending := by
  unfold State.reflexArmed
  dsimp only
  (repeat' split) <;> (try simp [*]) <;> (try grind [→ trigger_pending_of])

@[simp] theorem reflexHeld_pending (s : State) :
    (State.reflexHeld s).pending = s.pending := by
  unfold State.reflexHeld
  dsimp only
  (repeat' split) <;> (try simp [*]) <;> (try grind [→ draw_of])

theorem execReflexWrite_pending (inst slot : Nat) (lo : Option W32) (hi : W32) (s : State) :
    ∃ t, (execReflexWrite inst slot lo hi s) = .next t ∧ t.pending = s.pending := by
  unfold execReflexWrite
  (try dsimp only)
  (repeat' split) <;> (refine ⟨_, rfl, ?_⟩) <;> (try simp [*]) <;> (try grind)

theorem execReflexHeldRelease_pending (inst slot : Nat) (s : State) :
    ∃ t, (execReflexHeldRelease inst slot s) = .next t ∧ t.pending = s.pending := by
  unfold execReflexHeldRelease
  (try dsimp only)
  (repeat' split) <;> (refine ⟨_, rfl, ?_⟩) <;> (try simp [*]) <;> (try grind)

theorem execReflexRetransmit_pending (inst slot : Nat) (s : State) :
    ∃ t, (execReflexRetransmit inst slot s) = .next t ∧ t.pending = s.pending := by
  unfold execReflexRetransmit
  (try dsimp only)
  (repeat' split) <;> (refine ⟨_, rfl, ?_⟩) <;> (try simp [*]) <;> (try grind)

@[simp] theorem reflexLoadBody_pending (c : Cmd) (b : Bytes) (s : State) :
    (reflexLoadBody c b s).st.pending = s.pending := by
  unfold reflexLoadBody
  dsimp only
  (repeat' split) <;> (try simp [*]) <;> (try grind)

theorem execReflexLoad_pending (c : Cmd) (s : State) :
    ∃ t, (execReflexLoad c s) = .next t ∧ t.pending = s.pending := by
  unfold execReflexLoad
  (try dsimp only)
  (repeat' split) <;> (refine ⟨_, rfl, ?_⟩) <;> (try simp [*]) <;> (try grind)

@[simp] theorem slotArm_pending (c : Cmd) (k : Nat) (x : Slot) (s : State) :
    (slotArm c k x s).st.pending = s.pending := by
  unfold slotArm
  dsimp only
  (repeat' split) <;> (try simp [*]) <;> (try grind)

@[simp] theorem reflexArmBody_pending (c : Cmd) (s : State) :
    (reflexArmBody c s).st.pending = s.pending := by
  unfold reflexArmBody
  dsimp only
  (repeat' split) <;> (try simp [*]) <;> (try grind)

theorem execReflexArm_pending (c : Cmd) (s : State) :
    ∃ t, (execReflexArm c s) = .next t ∧ t.pending = s.pending := by
  unfold execReflexArm
  (try dsimp only)
  (repeat' split) <;> (refine ⟨_, rfl, ?_⟩) <;> (try simp [*]) <;> (try grind)

theorem execReflexDisarm_pending (c : Cmd) (s : State) :
    ∃ t, (execReflexDisarm c s) = .next t ∧ t.pending = s.pending := by
  unfold execReflexDisarm
  (try dsimp only)
  (repeat' split) <;> (refine ⟨_, rfl, ?_⟩) <;> (try simp [*]) <;> (try grind)

theorem execReflexClrMax_pending (value : W32) (s : State) :
    ∃ t, (execReflexClrMax value s) = .next t ∧ t.pending = s.pending := by
  unfold execReflexClrMax
  (try dsimp only)
  (repeat' split) <;> (refine ⟨_, rfl, ?_⟩) <;> (try simp [*]) <;> (try grind)

@[simp] theorem eachSlot_pending (s : State) (p : Nat → Slot → Bool) (f : State → Nat → Slot → State)
    (h_f : ∀ y0 y1 y2, (f y0 y1 y2).pending = y0.pending) :
    (State.eachSlot s p f).pending = s.pending := by
  simp [State.eachSlot, *]

@[simp] theorem slotFree_pending (s : State) (k : Nat) (x : Slot) :
    (State.slotFree s k x).pending = s.pending := by
  unfold State.slotFree
  dsimp only
  (repeat' split) <;> (try simp [*]) <;> (try grind)

@[simp] theorem reflexHove_pending (s : State) (entering : Bool) :
    (State.reflexHove s entering).pending = s.pending := by
  unfold State.reflexHove
  dsimp only
  (repeat' split) <;> (try simp [*]) <;> (try grind)

@[simp] theorem reflexNoKey_pending (s : State) :
    (State.reflexNoKey s).pending = s.pending := by
  simp [State.reflexNoKey, *]

@[simp] theorem reflexKeyBack_pending (s : State) :
    (State.reflexKeyBack s).pending = s.pending := by
  simp [State.reflexKeyBack, *]

@[simp] theorem reflexEnable_pending (s : State) (i : Nat) :
    (State.reflexEnable s i).pending = s.pending := by
  simp [State.reflexEnable, *]

@[simp] theorem reflexResume_pending (s : State) (i : Nat) :
    (State.reflexResume s i).pending = s.pending := by
  simp [State.reflexResume, *]

@[simp] theorem reflexInstReset_pending (s : State) (i : Nat) :
    (State.reflexInstReset s i).pending = s.pending := by
  simp [State.reflexInstReset, *]

@[simp] theorem reflexWipe_pending (s : State) :
    (State.reflexWipe s).pending = s.pending := by
  simp [State.reflexWipe, *]

@[simp] theorem gooseCount_pending (s : State) (cb k : Nat) :
    (State.gooseCount s cb k).pending = s.pending := by
  simp [State.gooseCount, *]

@[simp] theorem writeBoard_pending (s : State) (cb : Nat) (x : GooseCb) (img : Bytes) :
    (State.writeBoard s cb x img).pending = s.pending := by
  unfold State.writeBoard
  dsimp only
  (repeat' split) <;> (try simp [*]) <;> (try grind)

@[simp] theorem gooseEvents_pending (s : State) (cb kind flags : Nat) :
    (State.gooseEvents s cb kind flags).pending = s.pending := by
  unfold State.gooseEvents
  split
  · rfl
  · apply foldl_pending
    intro s i
    split <;> rename_i h <;> simp [activeEvent_pending_of _ _ _ _ h]

@[simp] theorem gooseTrack_pending (s : State) (cb : Nat) (x : GooseCb) (g : GoosePdu) (sim : Bool) (q : Steered) :
    (State.gooseTrack s cb x g sim q).pending = s.pending := by
  unfold State.gooseTrack
  dsimp only
  (repeat' split) <;> (try simp [*]) <;> (try grind [→ trigger_pending_of])

theorem execGooseFrameRx_pending (s : State) :
    ∃ t, (execGooseFrameRx s) = .next t ∧ t.pending = s.pending := by
  unfold execGooseFrameRx
  (try dsimp only)
  (repeat' split) <;> (refine ⟨_, rfl, ?_⟩) <;> (try simp [*]) <;> (try grind [→ pbCheck_pending_of])

theorem execGooseExpired_pending (cb : Nat) (s : State) :
    ∃ t, (execGooseExpired cb s) = .next t ∧ t.pending = s.pending := by
  unfold execGooseExpired
  (try dsimp only)
  (repeat' split) <;> (refine ⟨_, rfl, ?_⟩) <;> (try simp [*]) <;> (try grind)

@[simp] theorem gooseSubscribeBody_pending (c : Cmd) (b : Bytes) (s : State) :
    (gooseSubscribeBody c b s).st.pending = s.pending := by
  unfold gooseSubscribeBody
  dsimp only
  (repeat' split) <;> (try simp [*]) <;> (try grind)

theorem execGooseSubscribe_pending (c : Cmd) (s : State) :
    ∃ t, (execGooseSubscribe c s) = .next t ∧ t.pending = s.pending := by
  unfold execGooseSubscribe
  (try dsimp only)
  (repeat' split) <;> (refine ⟨_, rfl, ?_⟩) <;> (try simp [*]) <;> (try grind)

end Sys2Proof.Machine
end

