-- ==== Sys2Proof/Laws/QueueHelm.lean ====
section
/-! SUPPORT. The queue of waiting commands is touched by no operation and by no command of
the Helm, the instances, hove-to, the mailboxes and the boot: one lemma per
definition, each from the lemmas of the definitions it calls. A lemma `<name>_pending_of` says the same of a pair that has
been taken apart. -/

set_option Elab.async false

namespace Sys2Proof.Machine
open Sys2Proof

/-! ### Helm -/

@[simp] theorem setThread_pending (s : State) (t : Nat) (x : Thread) :
    (State.setThread s t x).pending = s.pending := by
  simp [State.setThread, *]

@[simp] theorem setChan_pending (s : State) (c : Nat) (x : Chan) :
    (State.setChan s c x).pending = s.pending := by
  simp [State.setChan, *]

@[simp] theorem helmCount_pending (s : State) (k : Nat) :
    (State.helmCount s k).pending = s.pending := by
  simp [State.helmCount, *]

@[simp] theorem helmEvent_pending (s : State) (k : Nat) :
    (State.helmEvent s k).pending = s.pending := by
  unfold State.helmEvent
  dsimp only
  (repeat' split) <;> (try simp [*]) <;> (try grind)

@[simp] theorem chanPut_pending (s : State) (c : Nat) (m : List W32) :
    (State.chanPut s c m).pending = s.pending := by
  unfold State.chanPut
  dsimp only
  (repeat' split) <;> (try simp [*]) <;> (try grind)

@[simp] theorem serveChan_pending (x0 : Nat) (x1 : Nat) (s : State) :
    (State.serveChan x0 x1 s).pending = s.pending := by
  induction x0 generalizing x1 s with | zero => simp [State.serveChan] | succ n ih => unfold State.serveChan; dsimp only; (repeat' split) <;> (try simp [ih, *]) <;> (try grind)

@[simp] theorem serve_pending (s : State) (c : Nat) :
    (State.serve s c).pending = s.pending := by
  simp [State.serve, *]

@[simp] theorem moverFree_pending (s : State) (m : Nat) :
    (State.moverFree s m).pending = s.pending := by
  unfold State.moverFree
  dsimp only
  (repeat' split) <;> (try simp [*]) <;> (try grind)

@[simp] theorem threadLeave_pending (s : State) (t : Nat) :
    (State.threadLeave s t).pending = s.pending := by
  unfold State.threadLeave
  dsimp only
  (repeat' split) <;> (try simp [*]) <;> (try grind)

@[simp] theorem joinTake_pending (s : State) (j t : Nat) :
    (State.joinTake s j t).pending = s.pending := by
  unfold State.joinTake
  dsimp only
  (repeat' split) <;> (try simp [*]) <;> (try grind)

@[simp] theorem threadExit_pending (s : State) (t : Nat) (v : W32) :
    (State.threadExit s t v).pending = s.pending := by
  unfold State.threadExit
  dsimp only
  (repeat' split) <;> (try simp [*]) <;> (try grind)

@[simp] theorem threadKill_pending (s : State) (t : Nat) :
    (State.threadKill s t).pending = s.pending := by
  unfold State.threadKill
  dsimp only
  (repeat' split) <;> (try simp [*]) <;> (try grind)

@[simp] theorem takeSnapshot_pending (s : State) (cause : Nat) :
    (State.takeSnapshot s cause).pending = s.pending := by
  unfold State.takeSnapshot
  dsimp only
  (repeat' split) <;> grind [→ draw_of]

@[simp] theorem threadFault_pending (s : State) (t : Nat) (kind : HelmFault) (addr : Nat) (word : W32) :
    (State.threadFault s t kind addr word).pending = s.pending := by
  unfold State.threadFault
  dsimp only
  (repeat' split) <;> (try simp [*]) <;> (try grind [→ draw_of])

@[simp] theorem calmAfter_pending (s old : State) :
    (State.calmAfter s old).pending = s.pending := by
  unfold State.calmAfter
  dsimp only
  (repeat' split) <;> grind

@[simp] theorem debugHalt_pending (s : State) (t : Nat) :
    (State.debugHalt s t).pending = s.pending := by
  unfold State.debugHalt
  dsimp only
  (repeat' split) <;> (try simp [*]) <;> (try grind)

@[simp] theorem afterStep_pending (s : State) (t : Nat) :
    (State.afterStep s t).pending = s.pending := by
  unfold State.afterStep
  dsimp only
  (repeat' split) <;> (try simp [*]) <;> (try grind)

@[simp] theorem issueInstr_pending (s : State) (thread : Nat) (word : W32) (act : Nat → State → HelmEnd)
    (h_act : ∀ y0 y1, ∀ r_, (act y0 y1) = .ok r_ → r_.pending = y1.pending) :
    (State.issueInstr s thread word act).pending = s.pending := by
  unfold State.issueInstr
  dsimp only
  split
  · rfl
  · split
    · simp
    · rw [calmAfter_pending, afterStep_pending]
      split
      · rename_i h
        rw [h_act _ _ _ h]
        simp
      · simp

@[simp] theorem issueOp_pending (s : State) (thread func : Nat) (o : HelmOp) (used : Bool)
    (act : Nat → State → HelmEnd) (h_act : ∀ y0 y1, ∀ r_, (act y0 y1) = .ok r_ → r_.pending = y1.pending) :
    (State.issueOp s thread func o used act).pending = s.pending := by
  unfold State.issueOp
  apply issueInstr_pending
  intro t s r h
  split at h
  · exact h_act _ _ _ h
  · cases h

@[simp] theorem result_pending (s : State) (t : Nat) (o : HelmOp) (v : W32) :
    (State.result s t o v).pending = s.pending := by
  simp [State.result, *]

theorem execFork_pending (thread : Nat) (op : HelmOp) (s : State) :
    ∃ t, (execFork thread op s) = .next t ∧ t.pending = s.pending := by
  refine ⟨_, rfl, ?_⟩; (first | apply issueOp_pending | apply issueInstr_pending); (try intro t s r h); (try dsimp only at h); (repeat' split at h) <;> cases h <;> (repeat' split) <;> (try rfl) <;> simp

theorem execExit_pending (thread : Nat) (op : HelmOp) (s : State) :
    ∃ t, (execExit thread op s) = .next t ∧ t.pending = s.pending := by
  refine ⟨_, rfl, ?_⟩
  apply issueOp_pending
  intro t s r h
  obtain rfl := Except.ok.inj h
  simp

theorem execJoin_pending (thread : Nat) (op : HelmOp) (s : State) :
    ∃ t, (execJoin thread op s) = .next t ∧ t.pending = s.pending := by
  refine ⟨_, rfl, ?_⟩; (first | apply issueOp_pending | apply issueInstr_pending); (try intro t s r h); (try dsimp only at h); (repeat' split at h) <;> cases h <;> (repeat' split) <;> (try rfl) <;> simp

theorem execWait_pending (thread : Nat) (op : HelmOp) (s : State) :
    ∃ t, (execWait thread op s) = .next t ∧ t.pending = s.pending := by
  refine ⟨_, rfl, ?_⟩; (first | apply issueOp_pending | apply issueInstr_pending); (try intro t s r h); (try dsimp only at h); (repeat' split at h) <;> cases h <;> (repeat' split) <;> (try rfl) <;> simp

theorem execSignal_pending (thread : Nat) (op : HelmOp) (s : State) :
    ∃ t, (execSignal thread op s) = .next t ∧ t.pending = s.pending := by
  refine ⟨_, rfl, ?_⟩; (first | apply issueOp_pending | apply issueInstr_pending); (try intro t s r h); (try dsimp only at h); (repeat' split at h) <;> cases h <;> (repeat' split) <;> (try rfl) <;> simp

theorem execEvmap_pending (thread : Nat) (op : HelmOp) (s : State) :
    ∃ t, (execEvmap thread op s) = .next t ∧ t.pending = s.pending := by
  refine ⟨_, rfl, ?_⟩; (first | apply issueOp_pending | apply issueInstr_pending); (try intro t s r h); (try dsimp only at h); (repeat' split at h) <;> cases h <;> (repeat' split) <;> (try rfl) <;> simp

theorem execTimer_pending (thread : Nat) (op : HelmOp) (s : State) :
    ∃ t, (execTimer thread op s) = .next t ∧ t.pending = s.pending := by
  refine ⟨_, rfl, ?_⟩; (first | apply issueOp_pending | apply issueInstr_pending); (try intro t s r h); (try dsimp only at h); (repeat' split at h) <;> cases h <;> (repeat' split) <;> (try rfl) <;> simp

theorem execSettrap_pending (thread : Nat) (op : HelmOp) (s : State) :
    ∃ t, (execSettrap thread op s) = .next t ∧ t.pending = s.pending := by
  refine ⟨_, rfl, ?_⟩; (first | apply issueOp_pending | apply issueInstr_pending); (try intro t s r h); (try dsimp only at h); (repeat' split at h) <;> cases h <;> (repeat' split) <;> (try rfl) <;> simp

theorem execChstage_pending (thread : Nat) (op : HelmOp) (s : State) :
    ∃ t, (execChstage thread op s) = .next t ∧ t.pending = s.pending := by
  refine ⟨_, rfl, ?_⟩; (first | apply issueOp_pending | apply issueInstr_pending); (try intro t s r h); (try dsimp only at h); (repeat' split at h) <;> cases h <;> (repeat' split) <;> (try rfl) <;> simp

theorem execChcommit_pending (thread : Nat) (op : HelmOp) (s : State) :
    ∃ t, (execChcommit thread op s) = .next t ∧ t.pending = s.pending := by
  refine ⟨_, rfl, ?_⟩; (first | apply issueOp_pending | apply issueInstr_pending); (try intro t s r h); (try dsimp only at h); (repeat' split at h) <;> cases h <;> (repeat' split) <;> (try rfl) <;> simp

theorem execChrecv_pending (thread : Nat) (op : HelmOp) (s : State) :
    ∃ t, (execChrecv thread op s) = .next t ∧ t.pending = s.pending := by
  refine ⟨_, rfl, ?_⟩; (first | apply issueOp_pending | apply issueInstr_pending); (try intro t s r h); (try dsimp only at h); (repeat' split at h) <;> cases h <;> (repeat' split) <;> (try rfl) <;> simp

theorem thrctl_pending (op : HelmOp) (t : Nat) (s : State) :
    ∀ t_, (thrctl op t s) = .ok t_ → t_.pending = s.pending := by
  intro t_ h
  unfold thrctl at h
  dsimp only at h
  (repeat' split at h) <;> first
    | (rw [← Except.ok.inj h]; simp; done)
    | (rw [← Except.ok.inj h]; done)
    | cases h

theorem execThrctlResume_pending (thread : Nat) (op : HelmOp) (s : State) :
    ∃ t, (execThrctlResume thread op s) = .next t ∧ t.pending = s.pending := by
  refine ⟨_, rfl, ?_⟩
  apply issueOp_pending
  intro t s r h
  exact thrctl_pending _ _ _ _ h

theorem execThrctlKill_pending (thread : Nat) (op : HelmOp) (s : State) :
    ∃ t, (execThrctlKill thread op s) = .next t ∧ t.pending = s.pending := by
  refine ⟨_, rfl, ?_⟩
  apply issueOp_pending
  intro t s r h
  exact thrctl_pending _ _ _ _ h

theorem execChcfg_pending (thread : Nat) (op : HelmOp) (s : State) :
    ∃ t, (execChcfg thread op s) = .next t ∧ t.pending = s.pending := by
  refine ⟨_, rfl, ?_⟩; (first | apply issueOp_pending | apply issueInstr_pending); (try intro t s r h); (try dsimp only at h); (repeat' split at h) <;> cases h <;> (repeat' split) <;> (try rfl) <;> simp

theorem execClass__pending (thread : Nat) (op : HelmOp) (s : State) :
    ∃ t, (execClass_ thread op s) = .next t ∧ t.pending = s.pending := by
  refine ⟨_, rfl, ?_⟩; (first | apply issueOp_pending | apply issueInstr_pending); (try intro t s r h); (try dsimp only at h); (repeat' split at h) <;> cases h <;> (repeat' split) <;> (try rfl) <;> simp

theorem execBreak__pending (thread : Nat) (op : HelmOp) (s : State) :
    ∃ t, (execBreak_ thread op s) = .next t ∧ t.pending = s.pending := by
  refine ⟨_, rfl, ?_⟩; (first | apply issueOp_pending | apply issueInstr_pending); (try intro t s r h); (try dsimp only at h); (repeat' split at h) <;> cases h <;> (repeat' split) <;> (try rfl) <;> simp

@[simp] theorem rawLoad_pending (s : State) (t lane r : Nat) (rd : BitVec 5) :
    (State.rawLoad s t lane r rd).pending = s.pending := by
  unfold State.rawLoad
  dsimp only
  (repeat' split) <;> (try simp [*]) <;> (try grind)

theorem helmOther_pending (what : HelmOther) (t : Nat) (s : State) :
    ∀ t_, (helmOther what t s) = .ok t_ → t_.pending = s.pending := by
  intro t_ h
  unfold helmOther at h
  dsimp only at h
  (repeat' split at h) <;> cases h <;> simp

theorem execLoadStore_pending (thread : Nat) (word : W32) (what : HelmOther) (s : State) :
    ∃ t, (execLoadStore thread word what s) = .next t ∧ t.pending = s.pending := by
  refine ⟨_, rfl, ?_⟩
  apply issueInstr_pending
  intro t s r h
  exact helmOther_pending _ _ _ _ h

theorem execHelmTimerFire_pending (thread : Nat) (s : State) :
    ∃ t, (execHelmTimerFire thread s) = .next t ∧ t.pending = s.pending := by
  unfold execHelmTimerFire
  (try dsimp only)
  (repeat' split) <;> (refine ⟨_, rfl, ?_⟩) <;> (try simp [*]) <;> (try grind)

@[simp] theorem dbgWrite_pending (s : State) (off : Nat) (act : State → State) (h_act : ∀ y0,
    (act y0).pending = y0.pending) :
    (State.dbgWrite s off act).pending = s.pending := by
  simp [State.dbgWrite, *]

@[simp] theorem debugResume_pending (s : State) (t : Nat) :
    (State.debugResume s t).pending = s.pending := by
  unfold State.debugResume
  dsimp only
  (repeat' split) <;> (try simp [*]) <;> (try grind)

@[simp] theorem dbgReject_pending (s : State) :
    (State.dbgReject s).pending = s.pending := by
  simp [State.dbgReject, *]

theorem execHelmDbgHalt_pending (s : State) :
    ∃ t, (execHelmDbgHalt s) = .next t ∧ t.pending = s.pending := by
  unfold execHelmDbgHalt
  (try dsimp only)
  (repeat' split) <;> (refine ⟨_, rfl, ?_⟩) <;> (try simp [*]) <;> (try grind)

theorem execHelmDbgResume_pending (s : State) :
    ∃ t, (execHelmDbgResume s) = .next t ∧ t.pending = s.pending := by
  unfold execHelmDbgResume
  (try dsimp only)
  (repeat' split) <;> (refine ⟨_, rfl, ?_⟩) <;> (try simp [*]) <;> (try grind)

theorem execHelmDbgStep_pending (s : State) :
    ∃ t, (execHelmDbgStep s) = .next t ∧ t.pending = s.pending := by
  unfold execHelmDbgStep
  (try dsimp only)
  (repeat' split) <;> (refine ⟨_, rfl, ?_⟩) <;> (try simp [*]) <;> (try grind)

theorem execHelmDbgKill_pending (s : State) :
    ∃ t, (execHelmDbgKill s) = .next t ∧ t.pending = s.pending := by
  unfold execHelmDbgKill
  (try dsimp only)
  (repeat' split) <;> (refine ⟨_, rfl, ?_⟩) <;> (try simp [*]) <;> (try grind)

theorem execHelmDbgRegWrite_pending (k : Nat) (value : W32) (s : State) :
    ∃ t, (execHelmDbgRegWrite k value s) = .next t ∧ t.pending = s.pending := by
  unfold execHelmDbgRegWrite
  (try dsimp only)
  (repeat' split) <;> (refine ⟨_, rfl, ?_⟩) <;> (try simp [*]) <;> (try grind)

@[simp] theorem grantEnd_pending (s : State) :
    (State.grantEnd s).pending = s.pending := by
  unfold State.grantEnd
  dsimp only
  (repeat' split) <;> (try simp [*]) <;> (try grind)

theorem execDebugGrantEnd_pending (s : State) :
    ∃ t, (execDebugGrantEnd s) = .next t ∧ t.pending = s.pending := by
  unfold execDebugGrantEnd
  (try dsimp only)
  (repeat' split) <;> (refine ⟨_, rfl, ?_⟩) <;> (try simp [*]) <;> (try grind)

@[simp] theorem debugGrant_pending (b : Bytes) (s : State) :
    (debugGrant b s).st.pending = s.pending := by
  unfold debugGrant
  dsimp only
  (repeat' split) <;> (try simp [*]) <;> (try grind)

@[simp] theorem secDebugBody_pending (c : Cmd) (b : Bytes) (s : State) :
    (secDebugBody c b s).st.pending = s.pending := by
  unfold secDebugBody
  dsimp only
  (repeat' split) <;> (try simp [*]) <;> (try grind [→ drawBytes_of])

theorem execSecDebugChallenge_pending (c : Cmd) (s : State) :
    ∃ t, (execSecDebugChallenge c s) = .next t ∧ t.pending = s.pending := by
  unfold execSecDebugChallenge
  (try dsimp only)
  (repeat' split) <;> (refine ⟨_, rfl, ?_⟩) <;> (try simp [*]) <;> (try grind)

theorem execSecDebugGrant_pending (c : Cmd) (s : State) :
    ∃ t, (execSecDebugGrant c s) = .next t ∧ t.pending = s.pending := by
  unfold execSecDebugGrant
  (try dsimp only)
  (repeat' split) <;> (refine ⟨_, rfl, ?_⟩) <;> (try simp [*]) <;> (try grind)

theorem execSecDebugRevoke_pending (c : Cmd) (s : State) :
    ∃ t, (execSecDebugRevoke c s) = .next t ∧ t.pending = s.pending := by
  unfold execSecDebugRevoke
  (try dsimp only)
  (repeat' split) <;> (refine ⟨_, rfl, ?_⟩) <;> (try simp [*]) <;> (try grind)

theorem execBecalmedDetect_pending (s : State) :
    ∃ t, (execBecalmedDetect s) = .next t ∧ t.pending = s.pending := by
  unfold execBecalmedDetect
  (try dsimp only)
  (repeat' split) <;> (refine ⟨_, rfl, ?_⟩) <;> (try simp [*]) <;> (try grind)

@[simp] theorem coresReset_pending (s : State) :
    (State.coresReset s).pending = s.pending := by
  simp [State.coresReset, *]

@[simp] theorem helmStart_pending (s : State) (entry : Nat) :
    (State.helmStart s entry).pending = s.pending := by
  unfold State.helmStart
  dsimp only
  (repeat' split) <;> (try simp [*]) <;> (try grind)

/-! ### Instance -/

@[simp] theorem askRefused_pending (s : State) (req r : Nat) (idx : BitVec 16) :
    (State.askRefused s req r idx).2.pending = s.pending ∧ ∀ t, (State.askRefused s req r idx).1 = some t → t.st.pending = s.pending := by
  unfold State.askRefused
  exact ⟨by simp, fun t h => by rw [← Option.some.inj h]; simp⟩

@[simp] theorem askBuffer_pending (s : State) (req r : Nat) (idx : BitVec 16) (len : Nat) (helmBuf : Bytes)
    (d : Option Bytes) :
    (State.askBuffer s req r idx len helmBuf d).2.pending = s.pending ∧ ∀ t, (State.askBuffer s req r idx len helmBuf d).1 = some t → t.st.pending = s.pending := by
  unfold State.askBuffer State.askRefused
  (repeat' split) <;> (refine ⟨?_, ?_⟩ <;> simp)

@[simp] theorem askEntry_pending (s : State) (req opcode : Nat) (c : Cmd) (b : BinRead) (helmBuf : Bytes)
    (idx : BitVec 16) (e : Option Bytes) :
    (State.askEntry s req opcode c b helmBuf idx e).2.pending = s.pending ∧ ∀ t, (State.askEntry s req opcode c b helmBuf idx e).1 = some t → t.st.pending = s.pending := by
  unfold State.askEntry
  split
  · exact ⟨rfl, fun t h => by rw [← Option.some.inj h]; rfl⟩
  · split
    · exact askRefused_pending _ _ _ _
    · split
      · exact ⟨rfl, fun t h => by cases h⟩
      · dsimp only
        generalize hq : State.hostRead _ _ _ _ _ _ = q
        have hp := hostRead_of (o := q.1) (t := q.2) hq
        have := askBuffer_pending q.2 req (cmdRing c) idx c.paramLen helmBuf q.1
        simp_all

@[simp] theorem askBinnacle_pending (s : State) (req opcode : Nat) (c : Cmd) (b : BinRead) (helmBuf : Bytes) :
    (State.askBinnacle s req opcode c b helmBuf).2.pending = s.pending ∧ ∀ t, (State.askBinnacle s req opcode c b helmBuf).1 = some t → t.st.pending = s.pending := by
  unfold State.askBinnacle
  dsimp only
  generalize hq : State.hostRead _ _ _ _ _ _ = q
  have hp := hostRead_of (o := q.1) (t := q.2) hq
  have := askEntry_pending q.2 req opcode c b helmBuf s.dechan.cur q.1
  simp_all

@[simp] theorem instRings_pending (s : State) (i : Nat) (x : Inst) :
    (State.instRings s i x).pending = s.pending := by
  unfold State.instRings
  dsimp only
  (repeat' split) <;> (try simp [*]) <;> (try grind)

@[simp] theorem instCreateBody_pending (c : Cmd) (br : BinRead) (b : Bytes) (s : State) :
    (instCreateBody c br b s).st.pending = s.pending := by
  unfold instCreateBody
  dsimp only
  have hq := askBinnacle_pending s 1 0x0201 c br b
  (repeat' split) <;> (try simp [hq.1]; done)
  rename_i h
  exact hq.2 _ h

theorem execInstCreate_pending (c : Cmd) (b : BinRead) (s : State) :
    ∃ t, (execInstCreate c b s) = .next t ∧ t.pending = s.pending := by
  unfold execInstCreate
  (try dsimp only)
  (repeat' split) <;> (refine ⟨_, rfl, ?_⟩) <;> (try simp [*]) <;> (try grind)

@[simp] theorem enableRings_pending (s : State) (i : Nat) :
    (State.enableRings s i).pending = s.pending := by
  unfold State.enableRings
  dsimp only
  (repeat' split) <;> (try simp [*]) <;> (try grind)

theorem execInstEnable_pending (c : Cmd) (s : State) :
    ∃ t, (execInstEnable c s) = .next t ∧ t.pending = s.pending := by
  unfold execInstEnable
  (try dsimp only)
  (repeat' split) <;> (refine ⟨_, rfl, ?_⟩) <;> (try simp [*]) <;> (try grind)

theorem execInstQuiesce_pending (c : Cmd) (s : State) :
    ∃ t, (execInstQuiesce c s) = .next t ∧ t.pending = s.pending := by
  (refine ⟨_, rfl, ?_⟩; simp [execInstQuiesce])

theorem execInstQuiesceDone_pending (inst : Nat) (s : State) :
    ∃ t, (execInstQuiesceDone inst s) = .next t ∧ t.pending = s.pending := by
  unfold execInstQuiesceDone
  (try dsimp only)
  (repeat' split) <;> (refine ⟨_, rfl, ?_⟩) <;> (try simp [*]) <;> (try grind)

theorem execInstQuiesceTimeout_pending (inst : Nat) (s : State) :
    ∃ t, (execInstQuiesceTimeout inst s) = .next t ∧ t.pending = s.pending := by
  unfold execInstQuiesceTimeout
  (try dsimp only)
  (repeat' split) <;> (refine ⟨_, rfl, ?_⟩) <;> (try simp [*]) <;> (try grind)

@[simp] theorem refetch_pending (s : State) (i : Nat) :
    (State.refetch s i).pending = s.pending := by
  unfold State.refetch
  dsimp only
  (repeat' split) <;> (try simp [*]) <;> (try grind)

theorem execInstFreeze_pending (c : Cmd) (s : State) :
    ∃ t, (execInstFreeze c s) = .next t ∧ t.pending = s.pending := by
  unfold execInstFreeze
  (try dsimp only)
  (repeat' split) <;> (refine ⟨_, rfl, ?_⟩) <;> (try simp [*]) <;> (try grind)

@[simp] theorem flushHeld_pending (s : State) (i : Nat) :
    (State.flushHeld s i).pending = s.pending := by
  unfold State.flushHeld
  dsimp only
  (repeat' split) <;> (try simp [*]) <;> (try grind)

theorem execInstResume_pending (c : Cmd) (s : State) :
    ∃ t, (execInstResume c s) = .next t ∧ t.pending = s.pending := by
  unfold execInstResume
  (try dsimp only)
  (repeat' split) <;> (refine ⟨_, rfl, ?_⟩) <;> (try simp [*]) <;> (try grind)

@[simp] theorem endAccess_pending (s : State) (i : Nat) :
    (State.endAccess s i).pending = s.pending := by
  simp [State.endAccess, *]

@[simp] theorem maskVectors_pending (s : State) (i : Nat) :
    (State.maskVectors s i).pending = s.pending := by
  simp [State.maskVectors, *]

@[simp] theorem instClear_pending (s : State) (i : Nat) :
    (State.instClear s i).pending = s.pending := by
  unfold State.instClear
  dsimp only
  (repeat' split) <;> (try simp [*]) <;> (try grind)

@[simp] theorem instReset_pending (s : State) (i : Nat) (new : InstState) :
    (State.instReset s i new).pending = s.pending := by
  unfold State.instReset
  dsimp only
  (repeat' split) <;> (try simp [*]) <;> (try grind)

@[simp] theorem resetReply_pending (s : State) (i : Nat) :
    (State.resetReply s i).st.pending = s.pending := by
  simp [State.resetReply, *]

theorem execInstReset_pending (c : Cmd) (s : State) :
    ∃ t, (execInstReset c s) = .next t ∧ t.pending = s.pending := by
  unfold execInstReset
  (try dsimp only)
  (repeat' split) <;> (refine ⟨_, rfl, ?_⟩) <;> (try simp [*]) <;> (try grind)

theorem execInstDestroy_pending (c : Cmd) (b : BinRead) (s : State) :
    ∃ t, (execInstDestroy c b s) = .next t ∧ t.pending = s.pending := by
  refine ⟨_, rfl, ?_⟩
  apply runCmd_pending
  intro _ s
  dsimp only
  have hq := askBinnacle_pending s 2 0x0206 c b []
  split
  · rename_i h
    exact hq.2 _ h
  · simp [hq.1]

@[simp] theorem instsGone_pending (s : State) :
    (State.instsGone s).pending = s.pending := by
  unfold State.instsGone
  dsimp only
  (repeat' split) <;> (try simp [*]) <;> (try grind)

/-! ### Hove -/

@[simp] theorem hovePort_pending (s : State) (p : Port) :
    (State.hovePort s p).pending = s.pending := by
  unfold State.hovePort
  dsimp only
  (repeat' split) <;> (try simp [*]) <;> (try grind)

@[simp] theorem hoveRing_pending (s : State) (r : Nat) :
    (State.hoveRing s r).pending = s.pending := by
  simp [State.hoveRing, *]

@[simp] theorem hoveEnter_pending (s : State) :
    (State.hoveEnter s).pending = s.pending := by
  unfold State.hoveEnter
  dsimp only
  (repeat' split) <;> (try simp [*]) <;> (try grind)

@[simp] theorem hoveLeave_pending (s : State) :
    (State.hoveLeave s).pending = s.pending := by
  simp [State.hoveLeave, *]

@[simp] theorem setBoot_pending (s : State) (b : Boot) :
    (State.setBoot s b).pending = s.pending := by
  unfold State.setBoot
  dsimp only
  (repeat' split) <;> (try simp [*]) <;> (try grind)

@[simp] theorem raiseCause_pending (s : State) (m : Nat) :
    (State.raiseCause s m).pending = s.pending := by
  unfold State.raiseCause
  dsimp only
  (repeat' split) <;> (try simp [*]) <;> (try grind)

@[simp] theorem clearCause_pending (s : State) (m : Nat) :
    (State.clearCause s m).pending = s.pending := by
  unfold State.clearCause
  dsimp only
  (repeat' split) <;> (try simp [*]) <;> (try grind)

@[simp] theorem setPhase_pending (s : State) (p : Phase) (reason : Nat) :
    (State.setPhase s p reason).pending = s.pending := by
  unfold State.setPhase
  dsimp only
  (repeat' split) <;> (try simp [*]) <;> (try grind)

theorem execHostLostGraceExpiry_pending (s : State) :
    ∃ t, (execHostLostGraceExpiry s) = .next t ∧ t.pending = s.pending := by
  unfold execHostLostGraceExpiry
  (try dsimp only)
  (repeat' split) <;> (refine ⟨_, rfl, ?_⟩) <;> (try simp [*]) <;> (try grind)

theorem execHostResumeExpiry_pending (s : State) :
    ∃ t, (execHostResumeExpiry s) = .next t ∧ t.pending = s.pending := by
  unfold execHostResumeExpiry
  (try dsimp only)
  (repeat' split) <;> (refine ⟨_, rfl, ?_⟩) <;> (try simp [*]) <;> (try grind)

theorem execPllLockLoss_pending (system : Bool) (s : State) :
    ∃ t, (execPllLockLoss system s) = .next t ∧ t.pending = s.pending := by
  unfold execPllLockLoss
  (try dsimp only)
  (repeat' split) <;> (refine ⟨_, rfl, ?_⟩) <;> (try simp [*]) <;> (try grind)

theorem execUncorrectableInternalError_pending (fn : Fn) (s : State) :
    ∃ t, (execUncorrectableInternalError fn s) = .next t ∧ t.pending = s.pending := by
  unfold execUncorrectableInternalError
  (try dsimp only)
  (repeat' split) <;> (refine ⟨_, rfl, ?_⟩) <;> (try simp [*]) <;> (try grind)

theorem execSupervisorFaultTimeout_pending (s : State) :
    ∃ t, (execSupervisorFaultTimeout s) = .next t ∧ t.pending = s.pending := by
  unfold execSupervisorFaultTimeout
  (try dsimp only)
  (repeat' split) <;> (refine ⟨_, rfl, ?_⟩) <;> (try simp [*]) <;> (try grind)

@[simp] theorem devHoveToBody_pending (c : Cmd) (s : State) :
    (devHoveToBody c s).st.pending = s.pending := by
  unfold devHoveToBody
  dsimp only
  (repeat' split) <;> (try simp [*]) <;> (try grind)

theorem devHoveTo_pending (c : Cmd) (s : State) :
    ∃ t, (devHoveTo c s) = .next t ∧ t.pending = s.pending := by
  unfold devHoveTo
  (try dsimp only)
  (repeat' split) <;> (refine ⟨_, rfl, ?_⟩) <;> (try simp [*]) <;> (try grind)

theorem execDevHoveToEnter_pending (c : Cmd) (s : State) :
    ∃ t, (execDevHoveToEnter c s) = .next t ∧ t.pending = s.pending := by
  unfold execDevHoveToEnter
  (try dsimp only)
  (repeat' split) <;> (refine ⟨_, rfl, ?_⟩) <;> (try simp [*]) <;> (try grind)

theorem execDevHoveToLeave_pending (c : Cmd) (s : State) :
    ∃ t, (execDevHoveToLeave c s) = .next t ∧ t.pending = s.pending := by
  unfold execDevHoveToLeave
  (try dsimp only)
  (repeat' split) <;> (refine ⟨_, rfl, ?_⟩) <;> (try simp [*]) <;> (try grind)

theorem execDevHoveToStatus_pending (c : Cmd) (s : State) :
    ∃ t, (execDevHoveToStatus c s) = .next t ∧ t.pending = s.pending := by
  unfold execDevHoveToStatus
  (try dsimp only)
  (repeat' split) <;> (refine ⟨_, rfl, ?_⟩) <;> (try simp [*]) <;> (try grind)

@[simp] theorem devConfigureBody_pending (c : Cmd) (s : State) :
    (devConfigureBody c s).st.pending = s.pending := by
  unfold devConfigureBody
  dsimp only
  (repeat' split) <;> (try simp [*]) <;> (try grind)

theorem execDevConfigure_pending (c : Cmd) (s : State) :
    ∃ t, (execDevConfigure c s) = .next t ∧ t.pending = s.pending := by
  unfold execDevConfigure
  (try dsimp only)
  (repeat' split) <;> (refine ⟨_, rfl, ?_⟩) <;> (try simp [*]) <;> (try grind)

theorem execDevQuery_pending (c : Cmd) (s : State) :
    ∃ t, (execDevQuery c s) = .next t ∧ t.pending = s.pending := by
  refine ⟨_, rfl, ?_⟩; apply runCmd_pending; intro _ _; (repeat' split) <;> simp_all

/-! ### Mailbox -/

@[simp] theorem setMbox_pending (s : State) (n : Nat) (x : Mbox) :
    (State.setMbox s n x).pending = s.pending := by
  unfold State.setMbox
  dsimp only
  (repeat' split) <;> (try simp [*]) <;> (try grind)

@[simp] theorem setSmbox_pending (s : State) (n : Nat) (x : Mbox) :
    (State.setSmbox s n x).pending = s.pending := by
  unfold State.setSmbox
  dsimp only
  (repeat' split) <;> (try simp [*]) <;> (try grind)

@[simp] theorem mboxWrite_pending (s : State) (n : Nat) (w : W32) :
    (State.mboxWrite s n w).pending = s.pending := by
  simp [State.mboxWrite, *]

@[simp] theorem mboxRead_pending (s : State) (n : Nat) :
    (State.mboxRead s n).2.pending = s.pending := by
  unfold State.mboxRead
  dsimp only
  (repeat' split) <;> (try simp [*]) <;> (try grind)
theorem mboxRead_pending_of (s : State) (n : Nat) {p0_ : W32} {t_ : State} (hp_ : (State.mboxRead s n) = (p0_, t_)) : t_.pending = s.pending := by
  have := mboxRead_pending s n
  rw [hp_] at this
  exact this

@[simp] theorem smboxWrite_pending (s : State) (n : Nat) (w : W32) :
    (State.smboxWrite s n w).pending = s.pending := by
  simp [State.smboxWrite, *]

@[simp] theorem smboxRead_pending (s : State) (n : Nat) :
    (State.smboxRead s n).2.pending = s.pending := by
  unfold State.smboxRead
  dsimp only
  (repeat' split) <;> (try simp [*]) <;> (try grind)
theorem smboxRead_pending_of (s : State) (n : Nat) {p0_ : W32} {t_ : State} (hp_ : (State.smboxRead s n) = (p0_, t_)) : t_.pending = s.pending := by
  have := smboxRead_pending s n
  rw [hp_] at this
  exact this

theorem execMboxWrite_pending (n : Nat) (w : W32) (s : State) :
    ∃ t, (execMboxWrite n w s) = .next t ∧ t.pending = s.pending := by
  unfold execMboxWrite
  (try dsimp only)
  (repeat' split) <;> (refine ⟨_, rfl, ?_⟩) <;> (try simp [*]) <;> (try grind)

theorem execMboxTake_pending (n : Nat) (s : State) :
    ∃ t, (execMboxTake n s) = .next t ∧ t.pending = s.pending := by
  unfold execMboxTake
  (try dsimp only)
  (repeat' split) <;> (refine ⟨_, rfl, ?_⟩) <;> (try simp [*]) <;> (try grind [→ mboxRead_pending_of])

theorem execSmboxWrite_pending (n : Nat) (w : W32) (s : State) :
    ∃ t, (execSmboxWrite n w s) = .next t ∧ t.pending = s.pending := by
  unfold execSmboxWrite
  (try dsimp only)
  (repeat' split) <;> (refine ⟨_, rfl, ?_⟩) <;> (try simp [*]) <;> (try grind)

theorem execSmboxTake_pending (n : Nat) (s : State) :
    ∃ t, (execSmboxTake n s) = .next t ∧ t.pending = s.pending := by
  unfold execSmboxTake
  (try dsimp only)
  (repeat' split) <;> (refine ⟨_, rfl, ?_⟩) <;> (try simp [*]) <;> (try grind [→ smboxRead_pending_of])

theorem execMboxLivenessReply_pending (s : State) :
    ∃ t, (execMboxLivenessReply s) = .next t ∧ t.pending = s.pending := by
  unfold execMboxLivenessReply
  (try dsimp only)
  (repeat' split) <;> (refine ⟨_, rfl, ?_⟩) <;> (try simp [*]) <;> (try grind)

theorem execSmboxReply_pending (s : State) :
    ∃ t, (execSmboxReply s) = .next t ∧ t.pending = s.pending := by
  unfold execSmboxReply
  (try dsimp only)
  (repeat' split) <;> (refine ⟨_, rfl, ?_⟩) <;> (try simp [*]) <;> (try grind)

theorem execBinnacleStatePost_pending (s : State) :
    ∃ t, (execBinnacleStatePost s) = .next t ∧ t.pending = s.pending := by
  unfold execBinnacleStatePost
  (try dsimp only)
  (repeat' split) <;> (refine ⟨_, rfl, ?_⟩) <;> (try simp [*]) <;> (try grind)

/-! ### Boot -/

theorem execBinnacleBoot_pending (failed : Byte) (s : State) :
    ∃ t, (execBinnacleBoot failed s) = .next t ∧ t.pending = s.pending := by
  unfold execBinnacleBoot
  (try dsimp only)
  (repeat' split) <;> (refine ⟨_, rfl, ?_⟩) <;> (try simp [*]) <;> (try grind)

@[simp] theorem hashLock_pending (s : State) :
    (State.hashLock s).pending = s.pending := by
  unfold State.hashLock
  dsimp only
  (repeat' split) <;> grind

@[simp] theorem imageCopy_pending (s : State) :
    (State.imageCopy s).2.pending = s.pending := by
  unfold State.imageCopy
  grind [→ dramRead_of]
theorem imageCopy_pending_of (s : State) {p0_ : Option Bytes} {t_ : State} (hp_ : (State.imageCopy s) = (p0_, t_)) : t_.pending = s.pending := by
  have := imageCopy_pending s
  rw [hp_] at this
  exact this

@[simp] theorem startImage_pending (s : State) (b : Bytes) :
    (State.startImage s b).pending = s.pending := by
  unfold State.startImage
  dsimp only
  (repeat' split) <;> (try simp [*]) <;> (try grind)

@[simp] theorem helmStop_pending (s : State) :
    (State.helmStop s).pending = s.pending := by
  unfold State.helmStop
  dsimp only
  (repeat' split) <;> (try simp [*]) <;> (try grind)

@[simp] theorem helmHalt_pending (s : State) (reason : Nat) :
    (State.helmHalt s reason).pending = s.pending := by
  unfold State.helmHalt
  dsimp only
  (repeat' split) <;> (try simp [*]) <;> (try grind)

@[simp] theorem helmLaunch_pending (s : State) :
    (State.helmLaunch s).pending = s.pending := by
  unfold State.helmLaunch
  grind [imageCopy_pending, startImage_pending, helmHalt_pending, → imageCopy_pending_of]

theorem execHelmRestart_pending (s : State) :
    ∃ t, (execHelmRestart s) = .next t ∧ t.pending = s.pending := by
  unfold execHelmRestart
  (try dsimp only)
  (repeat' split) <;> (refine ⟨_, rfl, ?_⟩) <;> (try simp [*]) <;> (try grind)

@[simp] theorem retagRings_pending (s : State) :
    (State.retagRings s).pending = s.pending := by
  simp [State.retagRings, *]

@[simp] theorem binnacleAnswer_pending (s : State) (idx ring status : Nat) :
    (State.binnacleAnswer s idx ring status).pending = s.pending := by
  unfold State.binnacleAnswer
  dsimp only
  (repeat' split) <;> (try simp [*]) <;> (try grind [→ draw_of])

theorem execHelmReady_pending (s : State) :
    ∃ t, (execHelmReady s) = .next t ∧ t.pending = s.pending := by
  unfold execHelmReady
  (try dsimp only)
  (repeat' split) <;> (refine ⟨_, rfl, ?_⟩) <;> (try simp [*]) <;> (try grind)

theorem execHelmReadyTimeout_pending (s : State) :
    ∃ t, (execHelmReadyTimeout s) = .next t ∧ t.pending = s.pending := by
  unfold execHelmReadyTimeout
  (try dsimp only)
  (repeat' split) <;> (refine ⟨_, rfl, ?_⟩) <;> (try simp [*]) <;> (try grind)

theorem execHelmClockSwitch_pending (core : Nat) (s : State) :
    ∃ t, (execHelmClockSwitch core s) = .next t ∧ t.pending = s.pending := by
  unfold execHelmClockSwitch
  (try dsimp only)
  (repeat' split) <;> (refine ⟨_, rfl, ?_⟩) <;> grind

@[simp] theorem go_pending (s : State) (reuse : Bool) :
    (State.go s reuse).pending = s.pending := by
  unfold State.go
  dsimp only
  (repeat' split) <;> (try simp [*]) <;> (try grind)

theorem execImageLoad_pending (s : State) :
    ∃ t, (execImageLoad s) = .next t ∧ t.pending = s.pending := by
  unfold execImageLoad
  (try dsimp only)
  (repeat' split) <;> (refine ⟨_, rfl, ?_⟩) <;> (try simp [*]) <;> (try grind)

theorem execImageLoadReuse_pending (s : State) :
    ∃ t, (execImageLoadReuse s) = .next t ∧ t.pending = s.pending := by
  unfold execImageLoadReuse
  (try dsimp only)
  (repeat' split) <;> (refine ⟨_, rfl, ?_⟩) <;> (try simp [*]) <;> (try grind)

@[simp] theorem loadFail_pending (s : State) (reason : Nat) :
    (State.loadFail s reason).pending = s.pending := by
  unfold State.loadFail
  dsimp only
  (repeat' split) <;> (try simp [*]) <;> (try grind)

@[simp] theorem loadOk_pending (s : State) (b : Bytes) :
    (State.loadOk s b).pending = s.pending := by
  unfold State.loadOk
  dsimp only
  (repeat' split) <;> (try simp [*]) <;> (try grind)

@[simp] theorem loadCheck_pending (s : State) (len : Option Nat) (b : Bytes) :
    (State.loadCheck s len b).pending = s.pending := by
  unfold State.loadCheck
  (try dsimp only)
  (repeat' split) <;> simp [*]

theorem execImageLoadDone_pending (image : HostRead) (s : State) :
    ∃ t, (execImageLoadDone image s) = .next t ∧ t.pending = s.pending := by
  unfold execImageLoadDone
  (try dsimp only)
  (repeat' split) <;> (refine ⟨_, rfl, ?_⟩) <;> (try simp [*]) <;> (try grind [→ hostRead_of, → imageCopy_pending_of])

@[simp] theorem secMeasureBody_pending (c : Cmd) (s : State) :
    (secMeasureBody c s).st.pending = s.pending := by
  unfold secMeasureBody
  dsimp only
  (repeat' split) <;> (try simp [*]) <;> (try grind [→ imageCopy_pending_of])

theorem execSecMeasureRead_pending (c : Cmd) (s : State) :
    ∃ t, (execSecMeasureRead c s) = .next t ∧ t.pending = s.pending := by
  unfold execSecMeasureRead
  (try dsimp only)
  (repeat' split) <;> (refine ⟨_, rfl, ?_⟩) <;> (try simp [*]) <;> (try grind)

theorem execSecMeasureRecheck_pending (c : Cmd) (s : State) :
    ∃ t, (execSecMeasureRecheck c s) = .next t ∧ t.pending = s.pending := by
  unfold execSecMeasureRecheck
  (try dsimp only)
  (repeat' split) <;> (refine ⟨_, rfl, ?_⟩) <;> (try simp [*]) <;> (try grind)

end Sys2Proof.Machine
end

