-- ==== Sys2Proof/Laws/QueuePower.lean ====
section
/-! SUPPORT. The queue of waiting commands is touched by no operation and by no command of
power, the movers, reset, migration, BINNACLE, the ledger and SMBus: one lemma per
definition, each from the lemmas of the definitions it calls. A lemma `<name>_pending_of` says the same of a pair that has
been taken apart. -/

set_option Elab.async false

namespace Sys2Proof.Machine
open Sys2Proof

/-! ### Power -/

@[simp] theorem setDom_pending (s : State) (d : Nat) (x : DomState) :
    (State.setDom s d x).pending = s.pending := by
  simp [State.setDom, *]

@[simp] theorem sealBanks_pending (s : State) (d : Nat) :
    (State.sealBanks s d).pending = s.pending := by
  simp [State.sealBanks, *]

theorem execDroopTrip_pending (bank : Nat) (s : State) :
    ∃ t, (execDroopTrip bank s) = .next t ∧ t.pending = s.pending := by
  unfold execDroopTrip
  (try dsimp only)
  (repeat' split) <;> (refine ⟨_, rfl, ?_⟩) <;> grind

@[simp] theorem upD1_pending (s : State) (first : Bool) (lost : Nat) :
    (State.upD1 s first lost).pending = s.pending := by
  simp [State.upD1, *]

@[simp] theorem upD2_pending (s : State) :
    (State.upD2 s).pending = s.pending := by
  unfold State.upD2
  dsimp only
  (repeat' split) <;> (try simp [*]) <;> (try grind)

@[simp] theorem upD3_pending (s : State) :
    (State.upD3 s).pending = s.pending := by
  unfold State.upD3
  dsimp only
  (repeat' split) <;> (try simp [*]) <;> (try grind)

@[simp] theorem upD4_pending (s : State) (first : Bool) :
    (State.upD4 s first).pending = s.pending := by
  unfold State.upD4
  dsimp only
  (repeat' split) <;> (try simp [*]) <;> (try grind)

@[simp] theorem upD5_pending (s : State) (first : Bool) :
    (State.upD5 s first).pending = s.pending := by
  unfold State.upD5
  dsimp only
  (repeat' split) <;> (try simp [*]) <;> (try grind)

@[simp] theorem upD6_pending (s : State) (first : Bool) (lost : Nat) :
    (State.upD6 s first lost).pending = s.pending := by
  unfold State.upD6
  dsimp only
  (repeat' split) <;> (try simp [*]) <;> (try grind)

@[simp] theorem upD7_pending (s : State) (first : Bool) (lost : Nat) :
    (State.upD7 s first lost).pending = s.pending := by
  unfold State.upD7
  dsimp only
  (repeat' split) <;> grind

@[simp] theorem upD11_pending (s : State) (first : Bool) (lost : Nat) :
    (State.upD11 s first lost).pending = s.pending := by
  unfold State.upD11
  dsimp only
  (repeat' split) <;> (try simp [*]) <;> (try grind)

@[simp] theorem upD13_pending (s : State) :
    (State.upD13 s).pending = s.pending := by
  simp [State.upD13, *]

@[simp] theorem domainUp_pending (s : State) (d : Nat) (first : Bool) (lost : Nat) :
    (State.domainUp s d first lost).pending = s.pending := by
  simp [State.domainUp, *]

@[simp] theorem clkreqSettle_pending (s : State) :
    (State.clkreqSettle s).pending = s.pending := by
  unfold State.clkreqSettle
  dsimp only
  (repeat' split) <;> (try simp [*]) <;> (try grind)

@[simp] theorem domainOff_pending (s : State) (d : Nat) :
    (State.domainOff s d).pending = s.pending := by
  unfold State.domainOff
  dsimp only
  (repeat' split) <;> (try simp [*]) <;> (try grind)

@[simp] theorem powerReplies_pending (s : State) :
    (State.powerReplies s).pending = s.pending := by
  simp [State.powerReplies, *]

@[simp] theorem wakeBegin_pending (s : State) (mask : Nat) :
    (State.wakeBegin s mask).pending = s.pending := by
  simp [State.wakeBegin, *]

@[simp] theorem managerVote_pending (s : State) (action mask : Nat) :
    (State.managerVote s action mask).pending = s.pending := by
  simp [State.managerVote, *]

/-- Binnacle's answer to a vote leaves the queue alone, and so does the reply it may bring. -/
theorem voteAsk_pending (s : State) (c : Cmd) :
    (s.voteAsk c).2.pending = s.pending ∧ ∀ t, (s.voteAsk c).1 = some t → t.st.pending = s.pending := by
  unfold State.voteAsk
  split
  · exact askBinnacle_pending _ _ _ _ _ _
  · exact ⟨rfl, fun t h => by cases h⟩

theorem voteAsk_pending_of {s t : State} {c : Cmd} {o : Option Reply} (h : s.voteAsk c = (o, t)) :
    t.pending = s.pending ∧ ∀ r, o = some r → r.st.pending = s.pending := by
  have := voteAsk_pending s c
  rw [h] at this
  exact this

@[simp] theorem pwrVoteBody_pending (c : Cmd) (s : State) :
    (pwrVoteBody c s).st.pending = s.pending := by
  unfold pwrVoteBody
  dsimp only
  (repeat' split) <;> (try simp [*]) <;> (try grind [→ voteAsk_pending_of])

theorem execPwrVote_pending (c : Cmd) (s : State) :
    ∃ t, (execPwrVote c s) = .next t ∧ t.pending = s.pending := by
  unfold execPwrVote
  (try dsimp only)
  (repeat' split) <;> (refine ⟨_, rfl, ?_⟩) <;> (try simp [*]) <;> (try grind)

theorem execPwrQuery_pending (c : Cmd) (s : State) :
    ∃ t, (execPwrQuery c s) = .next t ∧ t.pending = s.pending := by
  refine ⟨_, rfl, ?_⟩; apply runCmd_pending; intro _ _; (repeat' split) <;> simp_all

theorem execDevWakeReport_pending (c : Cmd) (s : State) :
    ∃ t, (execDevWakeReport c s) = .next t ∧ t.pending = s.pending := by
  refine ⟨_, rfl, ?_⟩; apply runCmd_pending; intro _ _; (repeat' split) <;> simp_all

@[simp] theorem drainCells_pending (s : State) :
    (State.drainCells s).pending = s.pending := by
  unfold State.drainCells
  dsimp only
  (repeat' split) <;> (try simp [*]) <;> (try grind [→ draw_of])

theorem execDomainStopEntry_pending (d : Nat) (s : State) :
    ∃ t, (execDomainStopEntry d s) = .next t ∧ t.pending = s.pending := by
  unfold execDomainStopEntry
  (try dsimp only)
  (repeat' split) <;> (refine ⟨_, rfl, ?_⟩) <;> (try simp [*]) <;> (try grind)

theorem execDomainStopSeal_pending (d : Nat) (s : State) :
    ∃ t, (execDomainStopSeal d s) = .next t ∧ t.pending = s.pending := by
  unfold execDomainStopSeal
  (try dsimp only)
  (repeat' split) <;> (refine ⟨_, rfl, ?_⟩) <;> (try simp [*]) <;> (try grind)

@[simp] theorem wakeEnd_pending (s : State) :
    (State.wakeEnd s).pending = s.pending := by
  unfold State.wakeEnd
  dsimp only
  (repeat' split) <;> (try simp [*]) <;> (try grind)

theorem execDomainStart_pending (d : Nat) (s : State) :
    ∃ t, (execDomainStart d s) = .next t ∧ t.pending = s.pending := by
  unfold execDomainStart
  (try dsimp only)
  (repeat' split) <;> (refine ⟨_, rfl, ?_⟩) <;> (try simp [*]) <;> (try grind)

@[simp] theorem assertWake_pending (s : State) :
    (State.assertWake s).pending = s.pending := by
  unfold State.assertWake
  dsimp only
  (repeat' split) <;> (try simp [*]) <;> (try grind)

@[simp] theorem fireWake_pending (s : State) (source mask : Nat) :
    (State.fireWake s source mask).pending = s.pending := by
  unfold State.fireWake
  dsimp only
  (repeat' split) <;> (try simp [*]) <;> (try grind)

theorem execWakeSource_pending (source : Nat) (s : State) :
    ∃ t, (execWakeSource source s) = .next t ∧ t.pending = s.pending := by
  unfold execWakeSource
  (try dsimp only)
  (repeat' split) <;> (refine ⟨_, rfl, ?_⟩) <;> (try simp [*]) <;> (try grind)

theorem execPwrWake_pending (target : Nat) (s : State) :
    ∃ t, (execPwrWake target s) = .next t ∧ t.pending = s.pending := by
  unfold execPwrWake
  (try dsimp only)
  (repeat' split) <;> (refine ⟨_, rfl, ?_⟩) <;> (try simp [*]) <;> (try grind)

theorem execLinkVoteRelease_pending (s : State) :
    ∃ t, (execLinkVoteRelease s) = .next t ∧ t.pending = s.pending := by
  unfold execLinkVoteRelease
  (try dsimp only)
  (repeat' split) <;> (refine ⟨_, rfl, ?_⟩) <;> grind

@[simp] theorem d0Start_pending (s : State) :
    (State.d0Start s).pending = s.pending := by
  simp [State.d0Start, *]

theorem execRailGood_pending (rail : Rail) (s : State) :
    ∃ t, (execRailGood rail s) = .next t ∧ t.pending = s.pending := by
  unfold execRailGood
  (try dsimp only)
  (repeat' split) <;> (refine ⟨_, rfl, ?_⟩) <;> (try simp [*]) <;> (try grind)

@[simp] theorem supplyLost_pending (s : State) (ds : List Nat) :
    (State.supplyLost s ds).pending = s.pending := by
  unfold State.supplyLost
  dsimp only
  (repeat' split) <;> (try simp [*]) <;> (try grind)

theorem execRailLost_pending (rail : Rail) (s : State) :
    ∃ t, (execRailLost rail s) = .next t ∧ t.pending = s.pending := by
  unfold execRailLost
  (try dsimp only)
  (repeat' split) <;> (refine ⟨_, rfl, ?_⟩) <;> (try simp [*]) <;> (try grind)

@[simp] theorem scrubLog_pending (x0 : Nat) (x1 : List (Nat × Nat × Nat)) (s : State) :
    (State.scrubLog x0 x1 s).pending = s.pending := by
  induction x0 generalizing x1 s with
  | zero => rfl
  | succ n ih =>
    cases x1 with
    | nil => simp [State.scrubLog, ih]
    | cons e es => simp [State.scrubLog, ih]

theorem execScrubPassEnd_pending (ce ue : Nat) (s : State) :
    ∃ t, (execScrubPassEnd ce ue s) = .next t ∧ t.pending = s.pending := by
  unfold execScrubPassEnd
  (try dsimp only)
  (repeat' split) <;> (refine ⟨_, rfl, ?_⟩) <;> (try simp [*]) <;> (try grind)

theorem execDramPanic_pending (client : Nat) (up : Bool) (postponed : Nat) (s : State) :
    ∃ t, (execDramPanic client up postponed s) = .next t ∧ t.pending = s.pending := by
  unfold execDramPanic
  (try dsimp only)
  (repeat' split) <;> (refine ⟨_, rfl, ?_⟩) <;> grind

/-! ### Mover -/

@[simp] theorem setMover_pending (s : State) (m : Nat) (x : Mover) :
    (State.setMover s m x).pending = s.pending := by
  simp [State.setMover, *]

theorem execMoverLockTake_pending (thread mover : Nat) (s : State) :
    ∃ t, (execMoverLockTake thread mover s) = .next t ∧ t.pending = s.pending := by
  unfold execMoverLockTake
  (try dsimp only)
  (repeat' split) <;> (refine ⟨_, rfl, ?_⟩) <;> (try simp [*]) <;> (try grind)

@[simp] theorem moverWrite_pending (s : State) (thread mover : Nat) (word : W32) (act : Mover → State)
    (h_act : ∀ y0, (act y0).pending = s.pending) :
    (State.moverWrite s thread mover word act).pending = s.pending := by
  unfold State.moverWrite
  dsimp only
  (repeat' split) <;> (try simp [*]) <;> (try grind)

theorem execMoverGo_pending (thread mover : Nat) (words : List W32) (word : W32) (s : State) :
    ∃ t, (execMoverGo thread mover words word s) = .next t ∧ t.pending = s.pending := by
  unfold execMoverGo
  (try dsimp only)
  (repeat' split) <;> (refine ⟨_, rfl, ?_⟩) <;> (try simp [*]) <;> (try grind)

theorem execMoverPromote_pending (mover : Nat) (s : State) :
    ∃ t, (execMoverPromote mover s) = .next t ∧ t.pending = s.pending := by
  unfold execMoverPromote
  (try dsimp only)
  (repeat' split) <;> (refine ⟨_, rfl, ?_⟩) <;> (try simp [*]) <;> (try grind [→ draw_of])

theorem execMoverErrAck_pending (thread mover : Nat) (word : W32) (s : State) :
    ∃ t, (execMoverErrAck thread mover word s) = .next t ∧ t.pending = s.pending := by
  unfold execMoverErrAck
  (try dsimp only)
  (repeat' split) <;> (refine ⟨_, rfl, ?_⟩) <;> (try simp [*]) <;> (try grind)

theorem execMoverRelease_pending (thread mover : Nat) (s : State) :
    ∃ t, (execMoverRelease thread mover s) = .next t ∧ t.pending = s.pending := by
  unfold execMoverRelease
  (try dsimp only)
  (repeat' split) <;> (refine ⟨_, rfl, ?_⟩) <;> (try simp [*]) <;> (try grind)

@[simp] theorem qdrByte_pending (s : State) (a : Nat) :
    (State.qdrByte s a).2.pending = s.pending := by
  unfold State.qdrByte
  dsimp only
  (repeat' split) <;> grind [→ draw_of]
theorem qdrByte_pending_of (s : State) (a : Nat) {p0_ : Byte} {t_ : State} (hp_ : (State.qdrByte s a) = (p0_, t_)) : t_.pending = s.pending := by
  have := qdrByte_pending s a
  rw [hp_] at this
  exact this

@[simp] theorem rawImage_pending (s : State) (key : Nat) :
    (State.rawImage s key).2.pending = s.pending := by
  unfold State.rawImage
  grind [→ drawBytes_of]
theorem rawImage_pending_of (s : State) (key : Nat) {p0_ : Bytes} {t_ : State} (hp_ : (State.rawImage s key) = (p0_, t_)) : t_.pending = s.pending := by
  have := rawImage_pending s key
  rw [hp_] at this
  exact this

@[simp] theorem keepFp_pending (s t : State) (c : Nat × Nat) (i : Nat) : (s.keepFp t c i).pending = t.pending := rfl

@[simp] theorem validPut_pending (s : State) (c : Nat × Nat) (i : Nat) (v : Bool) :
    (State.validPut s c i v).pending = s.pending := by
  unfold State.validPut
  dsimp only
  rw [keepFp_pending]
  (repeat' split) <;> simp

@[simp] theorem slotPut_pending (s : State) (c : Nat × Nat) (i k : Nat) (v : Byte) :
    (State.slotPut s c i k v).pending = s.pending := by
  unfold State.slotPut
  dsimp only
  rw [keepFp_pending]
  (repeat' split) <;> simp

@[simp] theorem fpPut_pending (s : State) (c : Nat × Nat) (k : Nat) (v : Byte) :
    (State.fpPut s c k v).pending = s.pending := by
  simp [State.fpPut, *]

@[simp] theorem qdrPut_pending (s : State) (a : Nat) (v : Byte) :
    (State.qdrPut s a v).pending = s.pending := by
  unfold State.qdrPut
  dsimp only
  (repeat' split) <;> (try simp [*]) <;> (try grind)

@[simp] theorem dramPut_pending (s : State) (a : Nat) (v : Byte) :
    (State.dramPut s a v).pending = s.pending := by
  unfold State.dramPut
  dsimp only
  split
  · split
    · split <;> simp
    · simp
  · split <;> simp
  · rw [foldl_pending _ _ _ (by intro s n; (repeat' split) <;> simp)]
    simp
  · simp

@[simp] theorem clsPut_pending (x0 : Nat) (x1 : Nat) (x2 : Bytes) (s : State) :
    (State.clsPut x0 x1 x2 s).pending = s.pending := by
  induction x0 generalizing x1 x2 s with | zero => simp [State.clsPut] | succ n ih => unfold State.clsPut; dsimp only; (repeat' split) <;> (try simp [ih, *]) <;> (try grind)

@[simp] theorem sideByte_pending (s : State) (space a : Nat) :
    (State.sideByte s space a).2.pending = s.pending := by
  unfold State.sideByte
  (try dsimp only)
  (repeat' split) <;> simp [*]
theorem sideByte_pending_of (s : State) (space a : Nat) {p0_ : Byte} {t_ : State} (hp_ : (State.sideByte s space a) = (p0_, t_)) : t_.pending = s.pending := by
  have := sideByte_pending s space a
  rw [hp_] at this
  exact this

@[simp] theorem sideRead_pending (s : State) (space base : Nat) (fixed : Bool) (n : Nat) (r : MoverRead) :
    (State.sideRead s space base fixed n r).2.pending = s.pending := by
  unfold State.sideRead
  dsimp only
  split
  · rfl
  · exact pairFold_pending _ _ _ (fun a i => by simp)
theorem sideRead_pending_of (s : State) (space base : Nat) (fixed : Bool) (n : Nat) (r : MoverRead) {p0_ : Bytes} {t_ : State} (hp_ : (State.sideRead s space base fixed n r) = (p0_, t_)) : t_.pending = s.pending := by
  have := sideRead_pending s space base fixed n r
  rw [hp_] at this
  exact this

@[simp] theorem sideRequests_pending (s : State) (x : MoverSet) (base : Nat) (fixed : Bool) (n : Nat) :
    (State.sideRequests s x base fixed n).pending = s.pending := by
  unfold State.sideRequests
  dsimp only
  (repeat' split) <;> (try simp [*]) <;> (try grind)

@[simp] theorem hostPut_pending (s : State) (x : MoverSet) (a : Nat) (b : Bytes) :
    (State.hostPut s x a b).pending = s.pending := by
  simp [State.hostPut, *]

@[simp] theorem onDiePut_pending (s : State) (a : Nat) (b : Bytes) :
    (State.onDiePut s a b).pending = s.pending := by
  unfold State.onDiePut
  dsimp only
  (repeat' split) <;> (try simp [*]) <;> (try grind)

@[simp] theorem memoryPut_pending (s : State) (space a : Nat) (b : Bytes) :
    (State.memoryPut s space a b).pending = s.pending := by
  simp [State.memoryPut, *]

@[simp] theorem sideWrite_pending (s : State) (x : MoverSet) (b : Bytes) :
    (State.sideWrite s x b).pending = s.pending := by
  unfold State.sideWrite
  dsimp only
  (repeat' split) <;> (try simp [*]) <;> (try grind)

@[simp] theorem sideFail_pending (s : State) (x : MoverSet) (space code addr : Nat) (r : MoverRead) :
    (State.sideFail s x space code addr r).pending = s.pending := by
  unfold State.sideFail
  (try dsimp only)
  (repeat' split) <;> simp [*]

@[simp] theorem moverEnd_pending (s : State) (m code n : Nat) (mismatch : Option Nat) :
    (State.moverEnd s m code n mismatch).pending = s.pending := by
  unfold State.moverEnd
  dsimp only
  (repeat' split) <;> (try simp [*]) <;> (try grind)

@[simp] theorem moverSource_pending (s : State) (x : MoverSet) (n : Nat) (src : MoverRead) :
    (State.moverSource s x n src).2.pending = s.pending := by
  unfold State.moverSource
  (try dsimp only)
  (repeat' split) <;> simp [*]
theorem moverSource_pending_of (s : State) (x : MoverSet) (n : Nat) (src : MoverRead) {p0_ : Bytes} {t_ : State} (hp_ : (State.moverSource s x n src) = (p0_, t_)) : t_.pending = s.pending := by
  have := moverSource_pending s x n src
  rw [hp_] at this
  exact this

@[simp] theorem moverApply_pending (s : State) (x : MoverSet) (n : Nat) (b : Bytes) (dst : MoverRead) :
    (State.moverApply s x n b dst).2.pending = s.pending := by
  unfold State.moverApply
  dsimp only
  (repeat' split) <;> (try simp [*]) <;> (try grind [→ sideRead_pending_of])
theorem moverApply_pending_of (s : State) (x : MoverSet) (n : Nat) (b : Bytes) (dst : MoverRead) {p0_ : Option Nat} {t_ : State} (hp_ : (State.moverApply s x n b dst) = (p0_, t_)) : t_.pending = s.pending := by
  have := moverApply_pending s x n b dst
  rw [hp_] at this
  exact this

theorem execMoverTransferEnd_pending (mover : Nat) (src dst : MoverRead) (s : State) :
    ∃ t, (execMoverTransferEnd mover src dst s) = .next t ∧ t.pending = s.pending := by
  unfold execMoverTransferEnd
  split
  · exact ⟨_, rfl, rfl⟩
  · split
    · exact ⟨_, rfl, rfl⟩
    · split
      · exact ⟨_, rfl, by simp⟩
      · refine ⟨_, rfl, ?_⟩
        rw [calmAfter_pending, moverEnd_pending]
        simp only [ite_pending, sideFail_pending, moverApply_pending, moverSource_pending, sideRequests_pending, ite_self]

/-! ### Reset -/

theorem execPerstDeassert_pending (s : State) :
    ∃ t, (execPerstDeassert s) = .next t ∧ t.pending = s.pending := by
  unfold execPerstDeassert
  (try dsimp only)
  (repeat' split) <;> (refine ⟨_, rfl, ?_⟩) <;> (try simp [*]) <;> (try grind)

@[simp] theorem readsEnd_pending (s : State) :
    (State.readsEnd s).pending = s.pending := by
  unfold State.readsEnd
  split
  · rfl
  · dsimp only
    rw [foldl_pending _ _ _ (by intro s m; (repeat' split) <;> simp)]
    (repeat' split) <;> simp

@[simp] theorem linkLost_pending (s : State) :
    (State.linkLost s).pending = s.pending := by
  simp [State.linkLost, *]

theorem execPcieLinkDown_pending (s : State) :
    ∃ t, (execPcieLinkDown s) = .next t ∧ t.pending = s.pending := by
  unfold execPcieLinkDown
  (try dsimp only)
  (repeat' split) <;> (refine ⟨_, rfl, ?_⟩) <;> (try simp [*]) <;> (try grind)

theorem execPmeTurnOff_pending (s : State) :
    ∃ t, (execPmeTurnOff s) = .next t ∧ t.pending = s.pending := by
  unfold execPmeTurnOff
  (try dsimp only)
  (repeat' split) <;> (refine ⟨_, rfl, ?_⟩) <;> (try simp [*]) <;> (try grind)

@[simp] theorem warmRegs_pending (s : State) :
    (State.warmRegs s).pending = s.pending := by
  simp [State.warmRegs, *]

@[simp] theorem recUnitReset_pending (s : State) :
    (State.recUnitReset s).pending = s.pending := by
  simp [State.recUnitReset, *]

@[simp] theorem warmUnits_pending (s : State) :
    (State.warmUnits s).pending = s.pending := by
  unfold State.warmUnits
  dsimp only
  (repeat' split) <;> (try simp [*]) <;> (try grind)

@[simp] theorem warmShared_pending (s : State) :
    (State.warmShared s).pending = s.pending := by
  simp [State.warmShared, *]

@[simp] theorem binnacleReboot_pending (s : State) :
    (State.binnacleReboot s).pending = s.pending := by
  unfold State.binnacleReboot
  dsimp only
  (repeat' split) <;> (try simp [*]) <;> (try grind)

@[simp] theorem secureReset_pending (s : State) :
    (State.secureReset s).pending = s.pending := by
  unfold State.secureReset
  dsimp only
  (repeat' split) <;> (try simp [*]) <;> (try grind)

theorem execWarmReset_pending (s : State) :
    ∃ t, (execWarmReset s) = .next t ∧ t.pending = s.pending := by
  unfold execWarmReset
  (try dsimp only)
  (repeat' split) <;> (refine ⟨_, rfl, ?_⟩) <;> (try simp [*]) <;> (try grind)

@[simp] theorem fnReset_pending (s : State) (fn : Fn) :
    (State.fnReset s fn).pending = s.pending := by
  unfold State.fnReset
  dsimp only
  (repeat' split) <;> (try simp [*]) <;> (try grind)

@[simp] theorem helmRegsWarm_pending (s : State) :
    (State.helmRegsWarm s).pending = s.pending := by
  simp [State.helmRegsWarm, *]

@[simp] theorem flrPf0_pending (s : State) :
    (State.flrPf0 s).pending = s.pending := by
  unfold State.flrPf0
  dsimp only
  (repeat' split) <;> (try simp [*]) <;> (try grind)

@[simp] theorem flrPf1_pending (s : State) :
    (State.flrPf1 s).pending = s.pending := by
  simp [State.flrPf1, *]

@[simp] theorem flr_pending (s : State) (fn : Fn) :
    (State.flr s fn).pending = s.pending := by
  unfold State.flr
  (try dsimp only)
  (repeat' split) <;> simp [*]

theorem execFlr_pending (fn : Fn) (s : State) :
    ∃ t, (execFlr fn s) = .next t ∧ t.pending = s.pending := by
  unfold execFlr
  (try dsimp only)
  (repeat' split) <;> (refine ⟨_, rfl, ?_⟩) <;> (try simp [*]) <;> (try grind)

theorem execConfigRequest_pending (fn : Fn) (off : Nat) (wr : Option (W32 × Nat)) (s : State) :
    ∃ t, (execConfigRequest fn off wr s) = .next t ∧ t.pending = s.pending := by
  unfold execConfigRequest
  (try dsimp only)
  (repeat' split) <;> (refine ⟨_, rfl, ?_⟩) <;> (try simp [*]) <;> (try grind [→ draw_of])

theorem unitReset_pending (s : State) (unit : Nat) :
    ∀ t, (State.unitReset s unit) = some t → t.pending = s.pending := by
  unfold State.unitReset
  intro t h
  by_cases h0 : unit = 1
  · rw [if_pos h0] at h
    rw [← Option.some.inj h]
    exact flowReset_pending s
  rw [if_neg h0] at h
  by_cases h1 : unit = 2
  · rw [if_pos h1] at h
    rw [← Option.some.inj h]
    exact clsReset_pending s
  rw [if_neg h1] at h
  by_cases h2 : unit = 3
  · rw [if_pos h2] at h
    rw [← Option.some.inj h]
    exact switchReset_pending s
  rw [if_neg h2] at h
  by_cases h3 : unit = 4
  · rw [if_pos h3] at h
    rw [← Option.some.inj h]
    exact almWipe_pending s
  rw [if_neg h3] at h
  by_cases h4 : unit = 5
  · rw [if_pos h4] at h
    rw [← Option.some.inj h]
    exact reflexWipe_pending s
  rw [if_neg h4] at h
  by_cases h5 : unit = 6
  · rw [if_pos h5] at h
    rw [← Option.some.inj h]
    exact schedReset_pending s
  rw [if_neg h5] at h
  by_cases h6 : unit = 7
  · rw [if_pos h6] at h
    rw [← Option.some.inj h]
    exact recUnitReset_pending s
  rw [if_neg h6] at h
  by_cases h7 : unit = 8
  · rw [if_pos h7] at h
    rw [← Option.some.inj h]
    exact winReset_pending s
  rw [if_neg h7] at h
  by_cases h8 : unit = 9
  · rw [if_pos h8] at h
    rw [← Option.some.inj h]
    exact macReset_pending s .a
  rw [if_neg h8] at h
  by_cases h9 : unit = 10
  · rw [if_pos h9] at h
    rw [← Option.some.inj h]
    exact macReset_pending s .b
  rw [if_neg h9] at h
  cases h

theorem execDevResetUnit_pending (c : Cmd) (s : State) :
    ∃ t, (execDevResetUnit c s) = .next t ∧ t.pending = s.pending := by
  refine ⟨_, rfl, ?_⟩
  apply runCmd_pending
  intro _ s
  split
  · rename_i h
    simp [unitReset_pending _ _ _ h]
  · simp

@[simp] theorem alarm_pending (s : State) (source : Nat) :
    (State.alarm s source).pending = s.pending := by
  unfold State.alarm
  dsimp only
  (repeat' split) <;> (try simp [*]) <;> (try grind)

theorem execAlarmTrip_pending (source : Nat) (present : Bool) (s : State) :
    ∃ t, (execAlarmTrip source present s) = .next t ∧ t.pending = s.pending := by
  unfold execAlarmTrip
  (try dsimp only)
  (repeat' split) <;> (refine ⟨_, rfl, ?_⟩) <;> (try simp [*]) <;> (try grind)

theorem execSecLodestarLoad_pending (c : Cmd) (s : State) :
    ∃ t, (execSecLodestarLoad c s) = .next t ∧ t.pending = s.pending := by
  unfold execSecLodestarLoad
  (try dsimp only)
  (repeat' split) <;> (refine ⟨_, rfl, ?_⟩) <;> (try simp [*]) <;> (try grind)

/-! ### Migration -/

@[simp] theorem dirtyStart_pending (c : Cmd) (s : State) :
    (dirtyStart c s).st.pending = s.pending := by
  unfold dirtyStart
  dsimp only
  (repeat' split) <;> (try simp [*]) <;> (try grind)

@[simp] theorem dirtyHarvest_pending (c : Cmd) (l : DirtyLog) (s : State) :
    (dirtyHarvest c l s).st.pending = s.pending := by
  unfold dirtyHarvest
  dsimp only
  (repeat' split) <;> (try simp [*]) <;> (try grind)

@[simp] theorem dirtyLogBody_pending (c : Cmd) (s : State) :
    (dirtyLogBody c s).st.pending = s.pending := by
  unfold dirtyLogBody
  dsimp only
  (repeat' split) <;> (try simp [*]) <;> (try grind)

@[simp] theorem dirtyLog_pending (c : Cmd) (s : State) :
    (dirtyLog c s).pending = s.pending := by
  simp [dirtyLog, *]

theorem execDirtyLogStart_pending (c : Cmd) (s : State) :
    ∃ t, (execDirtyLogStart c s) = .next t ∧ t.pending = s.pending := by
  unfold execDirtyLogStart
  (try dsimp only)
  (repeat' split) <;> (refine ⟨_, rfl, ?_⟩) <;> (try simp [*]) <;> (try grind)

theorem execDirtyLogHarvest_pending (c : Cmd) (s : State) :
    ∃ t, (execDirtyLogHarvest c s) = .next t ∧ t.pending = s.pending := by
  unfold execDirtyLogHarvest
  (try dsimp only)
  (repeat' split) <;> (refine ⟨_, rfl, ?_⟩) <;> (try simp [*]) <;> (try grind)

theorem execDirtyLogStop_pending (c : Cmd) (s : State) :
    ∃ t, (execDirtyLogStop c s) = .next t ∧ t.pending = s.pending := by
  unfold execDirtyLogStop
  (try dsimp only)
  (repeat' split) <;> (refine ⟨_, rfl, ?_⟩) <;> (try simp [*]) <;> (try grind)

@[simp] theorem eraseTransfer_pending (s : State) :
    (State.eraseTransfer s).pending = s.pending := by
  simp [State.eraseTransfer, *]

@[simp] theorem secTransferBody_pending (c : Cmd) (s : State) :
    (secTransferBody c s).st.pending = s.pending := by
  unfold secTransferBody
  dsimp only
  (repeat' split) <;> (try simp [*]) <;> (try grind)

@[simp] theorem secTransfer_pending (c : Cmd) (s : State) :
    (secTransfer c s).pending = s.pending := by
  simp [secTransfer, *]

theorem execSecTransferKeyArm_pending (c : Cmd) (s : State) :
    ∃ t, (execSecTransferKeyArm c s) = .next t ∧ t.pending = s.pending := by
  unfold execSecTransferKeyArm
  (try dsimp only)
  (repeat' split) <;> (refine ⟨_, rfl, ?_⟩) <;> (try simp [*]) <;> (try grind)

theorem execSecTransferKeyDisarm_pending (c : Cmd) (s : State) :
    ∃ t, (execSecTransferKeyDisarm c s) = .next t ∧ t.pending = s.pending := by
  unfold execSecTransferKeyDisarm
  (try dsimp only)
  (repeat' split) <;> (refine ⟨_, rfl, ?_⟩) <;> (try simp [*]) <;> (try grind)

theorem execTransferKeyExpiry_pending (s : State) :
    ∃ t, (execTransferKeyExpiry s) = .next t ∧ t.pending = s.pending := by
  unfold execTransferKeyExpiry
  (try dsimp only)
  (repeat' split) <;> (refine ⟨_, rfl, ?_⟩) <;> (try simp [*]) <;> (try grind)

@[simp] theorem makeBlob_pending (s : State) (h : Nat) (x : Ctx) (key id : Bytes) :
    (State.makeBlob s h x key id).2.2.pending = s.pending := by
  unfold State.makeBlob
  split
  · simp
  · simp [drawBytes_pending]
theorem makeBlob_pending_of (s : State) (h : Nat) (x : Ctx) (key id : Bytes) {p0_ : Ctx} {p1_ : Bytes} {t_ : State} (hp_ : (State.makeBlob s h x key id) = (p0_, p1_, t_)) : t_.pending = s.pending := by
  have := makeBlob_pending s h x key id
  rw [hp_] at this
  exact this

@[simp] theorem ctxSection_pending (s : State) (base h : Nat) (x : Ctx) (key : Option Bytes) (id : Bytes) :
    (State.ctxSection s base h x key id).2.2.pending = s.pending := by
  unfold State.ctxSection
  dsimp only
  (repeat' split) <;> grind [→ makeBlob_pending_of]
theorem ctxSection_pending_of (s : State) (base h : Nat) (x : Ctx) (key : Option Bytes) (id : Bytes) {p0_ : Bytes} {p1_ : Bool} {t_ : State} (hp_ : (State.ctxSection s base h x key id) = (p0_, p1_, t_)) : t_.pending = s.pending := by
  have := ctxSection_pending s base h x key id
  rw [hp_] at this
  exact this

theorem tripleFold_pending {α β δ : Type} (g : α × β × State → δ → α × β × State) (l : List δ) (r : α × β × State)
    (h : ∀ r x, (g r x).2.2.pending = r.2.2.pending) : (l.foldl g r).2.2.pending = r.2.2.pending := by
  induction l generalizing r with
  | nil => rfl
  | cons a l ih => rw [List.foldl_cons, ih, h]

@[simp] theorem ctxSections_pending (s : State) (base : Nat) (cs : KMap Ctx) (key : Option Bytes) (id : Bytes) :
    (State.ctxSections s base cs key id).2.2.pending = s.pending := by
  unfold State.ctxSections
  apply tripleFold_pending
  intro r x
  simp
theorem ctxSections_pending_of (s : State) (base : Nat) (cs : KMap Ctx) (key : Option Bytes) (id : Bytes) {p0_ : Bytes} {p1_ : Bool} {t_ : State} (hp_ : (State.ctxSections s base cs key id) = (p0_, p1_, t_)) : t_.pending = s.pending := by
  have := ctxSections_pending s base cs key id
  rw [hp_] at this
  exact this

theorem saveRefused_pending (s : State) (c : Cmd) (len : Nat) (cs : KMap Ctx) :
    ∀ t, (State.saveRefused s c len cs) = some t → t.st.pending = s.pending := by
  unfold State.saveRefused
  dsimp only
  intro t h
  split_ifs at h <;> first | (cases h; done) | (cases h; rfl) | (rw [← Option.some.inj h]; rfl)

/-- Binnacle's answer to a save leaves the queue alone, and so does the reply it may bring. -/
theorem saveAsk_pending (s : State) (c : Cmd) :
    (s.saveAsk c).2.pending = s.pending ∧ ∀ t, (s.saveAsk c).1 = some t → t.st.pending = s.pending := by
  unfold State.saveAsk
  split
  · exact askBinnacle_pending _ _ _ _ _ _
  · exact ⟨rfl, fun t h => by cases h⟩

theorem saveAsk_pending_of {s t : State} {c : Cmd} {o : Option Reply} (h : s.saveAsk c = (o, t)) :
    t.pending = s.pending ∧ ∀ r, o = some r → r.st.pending = s.pending := by
  have := saveAsk_pending s c
  rw [h] at this
  exact this

@[simp] theorem waypointSaveBody_pending (c : Cmd) (s : State) :
    (waypointSaveBody c s).st.pending = s.pending := by
  unfold waypointSaveBody
  dsimp only
  (repeat' split) <;> (try simp (disch := (intros; (repeat' split) <;> simp_all)) [*]) <;> grind [ctxSections_pending, saveRefused_pending, → saveAsk_pending_of, → drawBytes_of, → ctxSections_pending_of]

theorem execWaypointSave_pending (c : Cmd) (s : State) :
    ∃ t, (execWaypointSave c s) = .next t ∧ t.pending = s.pending := by
  unfold execWaypointSave
  (try dsimp only)
  (repeat' split) <;> (refine ⟨_, rfl, ?_⟩) <;> (try simp [*]) <;> (try grind)

theorem clsRestoreBad_pending (s : State) (w : Bytes) :
    ∀ t, (State.clsRestoreBad s w) = some t → t.st.pending = s.pending := by
  intro t h
  unfold State.clsRestoreBad at h
  obtain ⟨e, _, he⟩ := List.exists_of_findSome?_eq_some h
  dsimp only at he
  (repeat' split at he) <;> first
    | (rw [← Option.some.inj he]; rfl)
    | cases he

@[simp] theorem restoreCtx_pending (s : State) (e id : Bytes) (key : Option Bytes) (sameKcv : Bool) (i j : Nat) :
    (State.restoreCtx s e id key sameKcv i j).pending = s.pending := by
  unfold State.restoreCtx
  dsimp only
  (repeat' split) <;> (try simp [*]) <;> (try grind [→ draw_of, → wrapKey_pending_of])

@[simp] theorem restoreNodes_pending (s : State) (w : Bytes) (j : Nat) :
    (State.restoreNodes s w j).pending = s.pending := by
  simp [State.restoreNodes, *]

@[simp] theorem restoreWatch_pending (s : State) (e : Bytes) (j : Nat) :
    (State.restoreWatch s e j).1.pending = s.pending := by
  unfold State.restoreWatch
  dsimp only
  (repeat' split) <;> (try simp [*]) <;> (try grind)
theorem restoreWatch_pending_of (s : State) (e : Bytes) (j : Nat) {t_ : State} {p1_ : Nat} (hp_ : (State.restoreWatch s e j) = (t_, p1_)) : t_.pending = s.pending := by
  have := restoreWatch_pending s e j
  rw [hp_] at this
  exact this

theorem firstFold_pending {α δ : Type} (g : State × α → δ → State × α) (l : List δ) (r : State × α)
    (h : ∀ r x, (g r x).1.pending = r.1.pending) : (l.foldl g r).1.pending = r.1.pending := by
  induction l generalizing r with
  | nil => rfl
  | cons a l ih => rw [List.foldl_cons, ih, h]

@[simp] theorem restoreWatches_pending (s : State) (w : Bytes) (j : Nat) :
    (State.restoreWatches s w j).1.pending = s.pending := by
  unfold State.restoreWatches
  have h := firstFold_pending (fun (a : State × Nat) (e : Nat × Bytes) =>
    let r := a.1.restoreWatch e.2 j
    (r.1, a.2 + r.2)) (wpEntries w 4) (s, 0) (fun r x => by simp)
  dsimp only at h ⊢
  split <;> exact h
theorem restoreWatches_pending_of (s : State) (w : Bytes) (j : Nat) {t_ : State} {p1_ : Nat} (hp_ : (State.restoreWatches s w j) = (t_, p1_)) : t_.pending = s.pending := by
  have := restoreWatches_pending s w j
  rw [hp_] at this
  exact this

@[simp] theorem restoreSlots_pending (s : State) (w : Bytes) (j : Nat) :
    (State.restoreSlots s w j).pending = s.pending := by
  simp [State.restoreSlots, *]

@[simp] theorem restoreCls_pending (s : State) (w : Bytes) :
    (State.restoreCls s w).pending = s.pending := by
  unfold State.restoreCls
  dsimp only
  (repeat' split) <;> (try simp [*]) <;> (try grind)

@[simp] theorem restoreRings_pending (s : State) (w : Bytes) (j : Nat) :
    (State.restoreRings s w j).pending = s.pending := by
  unfold State.restoreRings
  dsimp only
  (repeat' split) <;> (try simp [*]) <;> (try grind)

theorem restoreEarly_pending (s : State) (w : Bytes) (j : Nat) :
    ∀ t, (State.restoreEarly s w j) = some t → t.st.pending = s.pending := by
  intro t h
  unfold State.restoreEarly at h
  dsimp only at h
  (repeat' split at h) <;> first
    | (rw [← Option.some.inj h]; rfl)
    | cases h

@[simp] theorem restoreApply_pending (s : State) (w : Bytes) (j : Nat) (bt : Bounds) (f : Flow) (withCls : Bool) :
    (State.restoreApply s w j bt f withCls).st.pending = s.pending := by
  unfold State.restoreApply
  dsimp only
  (repeat' split) <;> (try simp [*]) <;> (try grind [→ restoreWatches_pending_of])

@[simp] theorem restoreSection_pending (s : State) (r : Nat) (sec : Bytes) (d : Option Bytes) :
    (State.restoreSection s r sec d).2.pending = s.pending ∧ ∀ t, (State.restoreSection s r sec d).1 = some t → t.st.pending = s.pending := by
  unfold State.restoreSection
  split
  · exact ⟨rfl, fun t h => by rw [← Option.some.inj h]; rfl⟩
  · split
    · exact ⟨rfl, fun t h => by cases h⟩
    · exact askRefused_pending _ _ _ _

@[simp] theorem restoreAsk_pending (s : State) (c : Cmd) (br : BinRead) (w : Bytes) :
    (State.restoreAsk s c br w).2.pending = s.pending ∧ ∀ t, (State.restoreAsk s c br w).1 = some t → t.st.pending = s.pending := by
  have ha := askBinnacle_pending s 1 0x0C02 c br []
  unfold State.restoreAsk
  generalize s.askBinnacle 1 0x0C02 c br [] = q at ha ⊢
  dsimp only
  split
  · rename_i r h
    exact ⟨ha.1, fun t ht => by rw [← Option.some.inj ht]; exact ha.2 r h⟩
  · generalize hd : State.hostRead _ _ _ _ _ _ = d
    have hh := (hostRead_of (o := d.1) (t := d.2) hd).trans ha.1
    have hs := restoreSection_pending d.2 (cmdRing c) (slice w (wpOff w 7) 128) d.1
    exact ⟨hs.1.trans hh, fun t ht => (hs.2 t ht).trans hh⟩

theorem restoreLate_pending (s : State) (w : Bytes) (j : Nat) (bt : Bounds) (k : Bool) (r : Reply)
    (h : s.restoreLate w j bt k = .error r) : r.st.pending = s.pending := by
  unfold State.restoreLate at h
  split at h
  · rw [← Except.error.inj h]
    simp
  · split at h
    · rename_i hc
      rw [← Except.error.inj h]
      split at hc
      · exact clsRestoreBad_pending _ _ _ hc
      · cases hc
    · split at h
      · rw [← Except.error.inj h]
        simp
      · split at h
        · rw [← Except.error.inj h]
          simp
        · split at h
          · rw [← Except.error.inj h]
            simp
          · cases h

@[simp] theorem restoreGo_pending (s : State) (c : Cmd) (br : BinRead) (w : Bytes) (bt : Bounds) (f : Flow) :
    (State.restoreGo s c br w bt f).st.pending = s.pending := by
  unfold State.restoreGo
  dsimp only
  have hq := restoreAsk_pending s c br w
  split
  · split
    · rename_i r h
      exact hq.2 _ h
    · simp [hq.1]
  · simp

@[simp] theorem restoreRead_pending (s : State) (c : Cmd) (br : BinRead) (w : Bytes) :
    (State.restoreRead s c br w).st.pending = s.pending := by
  unfold State.restoreRead
  dsimp only
  split
  · rfl
  · split
    · rename_i h
      exact restoreEarly_pending _ _ _ _ h
    · split
      · rename_i h
        exact restoreLate_pending _ _ _ _ _ _ h
      · simp

@[simp] theorem waypointRestoreBody_pending (c : Cmd) (br : BinRead) (s : State) :
    (waypointRestoreBody c br s).st.pending = s.pending := by
  unfold waypointRestoreBody
  dsimp only
  split <;> simp

theorem execWaypointRestore_pending (c : Cmd) (b : BinRead) (s : State) :
    ∃ t, (execWaypointRestore c b s) = .next t ∧ t.pending = s.pending := by
  unfold execWaypointRestore
  (try dsimp only)
  (repeat' split) <;> (refine ⟨_, rfl, ?_⟩) <;> (try simp [*]) <;> (try grind)

/-! ### Binnacle -/

@[simp] theorem binnacleRefuse_pending (s : State) (req ring idx : Nat) :
    (State.binnacleRefuse s req ring idx).pending = s.pending := by
  simp [State.binnacleRefuse, *]

@[simp] theorem binnacleAct_pending (s : State) (req ring idx : Nat) (act : Bytes → Bytes → State → Option State)
    (e : Bytes) (d : Option Bytes) (h_act : ∀ y0 y1 y2, ∀ t, (act y0 y1 y2) = some t → t.pending = y2.pending) :
    (State.binnacleAct s req ring idx act e d).pending = s.pending := by
  unfold State.binnacleAct
  split
  · simp
  · split
    · rename_i h
      simp [h_act _ _ _ _ h]
    · simp

@[simp] theorem binnacleEntry_pending (s : State) (req ring idx : Nat) (codes : List Nat) (b : BinRead)
    (act : Bytes → Bytes → State → Option State) (e : Option Bytes) (h_act : ∀ y0 y1 y2, ∀ t, (act y0 y1 y2) = some t → t.pending = y2.pending) :
    (State.binnacleEntry s req ring idx codes b act e).pending = s.pending := by
  unfold State.binnacleEntry
  split
  · simp
  · split
    · simp
    · dsimp only
      split
      · exact binnacleAct_pending _ _ _ _ _ _ _ h_act
      · exact (binnacleAct_pending _ _ _ _ _ _ _ h_act).trans (hostRead_snd _ _ _ _ _ _)

@[simp] theorem binnacleRequest_pending (s : State) (req ring idx : Nat) (codes : List Nat) (b : BinRead)
    (act : Bytes → Bytes → State → Option State) (h_act : ∀ y0 y1 y2, ∀ t, (act y0 y1 y2) = some t → t.pending = y2.pending) :
    (State.binnacleRequest s req ring idx codes b act).pending = s.pending := by
  unfold State.binnacleRequest
  split
  · rfl
  · split
    · simp
    · dsimp only
      exact (binnacleEntry_pending _ _ _ _ _ _ _ _ h_act).trans ((hostRead_snd _ _ _ _ _ _).trans (by simp))

theorem boundsWriteAct_pending (e d : Bytes) (s : State) :
    ∀ t, (boundsWriteAct e d s) = some t → t.pending = s.pending := by
  unfold boundsWriteAct
  grind

theorem execBoundsWrite_pending (ring idx : Nat) (b : BinRead) (s : State) :
    ∃ t, (execBoundsWrite ring idx b s) = .next t ∧ t.pending = s.pending := by
  refine ⟨_, rfl, binnacleRequest_pending _ _ _ _ _ _ _ ?_⟩
  intro e d s t h
  unfold boundsWriteAct at h
  dsimp only at h
  (repeat' split at h) <;> first | (cases h; done) | (rw [← Option.some.inj h])

theorem execBoundsClear_pending (ring idx : Nat) (b : BinRead) (s : State) :
    ∃ t, (execBoundsClear ring idx b s) = .next t ∧ t.pending = s.pending := by
  unfold execBoundsClear
  (try dsimp only)
  (repeat' split) <;> (refine ⟨_, rfl, ?_⟩) <;> (try simp [*]) <;> (try grind)

theorem execPowerVote_pending (ring idx : Nat) (b : BinRead) (s : State) :
    ∃ t, (execPowerVote ring idx b s) = .next t ∧ t.pending = s.pending := by
  unfold execPowerVote
  (try dsimp only)
  (repeat' split) <;> (refine ⟨_, rfl, ?_⟩; (try simp [*]) <;> (try grind [wakeBegin_pending, managerVote_pending, binnacleRequest_pending]); done)

theorem execKeyTransferWrap_pending (ring idx : Nat) (b : BinRead) (handle : Nat) (s : State) :
    ∃ t, (execKeyTransferWrap ring idx b handle s) = .next t ∧ t.pending = s.pending := by
  refine ⟨_, rfl, binnacleRequest_pending _ _ _ _ _ _ _ ?_⟩
  intro e d s t h
  split at h
  · split at h
    · rw [← Option.some.inj h]
      simp
    · cases h
  · cases h

theorem execUnsupportedOpcode_pending (opcode : Nat) (c : Cmd) (s : State) :
    ∃ t, (execUnsupportedOpcode opcode c s) = .next t ∧ t.pending = s.pending := by
  unfold execUnsupportedOpcode
  dsimp only
  split
  · exact ⟨_, rfl, rfl⟩
  · refine ⟨_, rfl, serveEntry_pending _ _ _ _ _ (fun t => ?_)⟩
    split <;> rfl

/-! ### Ledger -/

@[simp] theorem auditEnd_pending (s : State) (a : Audit) :
    (State.auditEnd s a).pending = s.pending := by
  unfold State.auditEnd
  dsimp only
  (repeat' split) <;> (try simp [*]) <;> (try grind)

theorem execLedgerPicture_pending (s : State) :
    ∃ t, (execLedgerPicture s) = .next t ∧ t.pending = s.pending := by
  unfold execLedgerPicture
  (try dsimp only)
  (repeat' split) <;> (refine ⟨_, rfl, ?_⟩) <;> (try simp [*]) <;> (try grind)

@[simp] theorem ledgerAuditBody_pending (c : Cmd) (s : State) :
    (ledgerAuditBody c s).st.pending = s.pending := by
  unfold ledgerAuditBody
  dsimp only
  (repeat' split) <;> (try simp [*]) <;> (try grind)

theorem execDevLedgerAudit_pending (c : Cmd) (s : State) :
    ∃ t, (execDevLedgerAudit c s) = .next t ∧ t.pending = s.pending := by
  unfold execDevLedgerAudit
  (try dsimp only)
  (repeat' split) <;> (refine ⟨_, rfl, ?_⟩) <;> (try simp [*]) <;> (try grind)

@[simp] theorem snapshotBody_pending (c : Cmd) (s : State) :
    (snapshotBody c s).st.pending = s.pending := by
  unfold snapshotBody
  dsimp only
  (repeat' split) <;> (try simp [*]) <;> (try grind)

@[simp] theorem diagSnapshot_pending (c : Cmd) (s : State) :
    (diagSnapshot c s).pending = s.pending := by
  simp [diagSnapshot, *]

theorem execDiagSnapshotRead_pending (c : Cmd) (s : State) :
    ∃ t, (execDiagSnapshotRead c s) = .next t ∧ t.pending = s.pending := by
  unfold execDiagSnapshotRead
  (try dsimp only)
  (repeat' split) <;> (refine ⟨_, rfl, ?_⟩) <;> (try simp [*]) <;> (try grind)

theorem execDiagSnapshotTake_pending (c : Cmd) (s : State) :
    ∃ t, (execDiagSnapshotTake c s) = .next t ∧ t.pending = s.pending := by
  unfold execDiagSnapshotTake
  (try dsimp only)
  (repeat' split) <;> (refine ⟨_, rfl, ?_⟩) <;> (try simp [*]) <;> (try grind)

theorem execDiagLoopback_pending (c : Cmd) (s : State) :
    ∃ t, (execDiagLoopback c s) = .next t ∧ t.pending = s.pending := by
  (refine ⟨_, rfl, ?_⟩; simp [execDiagLoopback])

@[simp] theorem inject_pending (s : State) (w : Nat × Nat) (n : Nat) :
    (State.inject s w n).pending = s.pending := by
  simp [State.inject, *]

theorem execDiagInject_pending (c : Cmd) (s : State) :
    ∃ t, (execDiagInject c s) = .next t ∧ t.pending = s.pending := by
  unfold execDiagInject
  (try dsimp only)
  (repeat' split) <;> (refine ⟨_, rfl, ?_⟩) <;> (try simp [*]) <;> (try grind)

/-! ### Smbus -/

theorem smbusWord_pending (s : State) (command : Nat) :
    ∀ r, s.smbusWord command = some r → r.2.pending = s.pending := by
  unfold State.smbusWord
  intro r h
  split_ifs at h
  all_goals first
    | (rw [← Option.some.inj h]; done)
    | (rw [← Option.some.inj h]; exact draw_of rfl)

theorem execSmbusRead_pending (command : Nat) (word : SmbusForm) (s : State) :
    ∃ t, (execSmbusRead command word s) = .next t ∧ t.pending = s.pending := by
  unfold execSmbusRead
  split
  · exact ⟨_, rfl, rfl⟩
  · split
    · split
      · rename_i r h
        exact ⟨_, rfl, by simp [smbusWord_pending s command r h]⟩
      · exact ⟨_, rfl, by simp⟩
    · exact ⟨_, rfl, by simp⟩

theorem execSmbusAlertResponse_pending (s : State) :
    ∃ t, (execSmbusAlertResponse s) = .next t ∧ t.pending = s.pending := by
  unfold execSmbusAlertResponse
  (try dsimp only)
  (repeat' split) <;> (refine ⟨_, rfl, ?_⟩) <;> (try simp [*]) <;> (try grind)

theorem execSmbAlert_pending (temp : BitVec 16) (s : State) :
    ∃ t, (execSmbAlert temp s) = .next t ∧ t.pending = s.pending := by
  unfold execSmbAlert
  (try dsimp only)
  (repeat' split) <;> (refine ⟨_, rfl, ?_⟩) <;> (try simp [*]) <;> (try grind)

@[simp] theorem evtEnable_pending (s : State) (v : Nat) :
    (State.evtEnable s v).pending = s.pending := by
  unfold State.evtEnable
  dsimp only
  (repeat' split) <;> (try simp [*]) <;> (try grind)

theorem execEvtEnableWrite_pending (value : W32) (s : State) :
    ∃ t, (execEvtEnableWrite value s) = .next t ∧ t.pending = s.pending := by
  unfold execEvtEnableWrite
  (try dsimp only)
  (repeat' split) <;> (refine ⟨_, rfl, ?_⟩) <;> (try simp [*]) <;> (try grind)

theorem execFlowMsTick_pending (s : State) :
    ∃ t, (execFlowMsTick s) = .next t ∧ t.pending = s.pending := by
  unfold execFlowMsTick
  (try dsimp only)
  (repeat' split) <;> (refine ⟨_, rfl, ?_⟩) <;> (try simp [*]) <;> (try grind)

theorem execBoundGrowth_pending (s : State) :
    ∃ t, (execBoundGrowth s) = .next t ∧ t.pending = s.pending := by
  unfold execBoundGrowth
  (try dsimp only)
  (repeat' split) <;> (refine ⟨_, rfl, ?_⟩) <;> (try simp [*]) <;> (try grind)

end Sys2Proof.Machine
end

