-- ==== Sys2Proof/Laws/QueueReg.lean ====
section
/-! SUPPORT. The queue of waiting commands is touched by no operation and by no command of
the register accesses: one lemma per
definition, each from the lemmas of the definitions it calls. A lemma `<name>_pending_of` says the same of a pair that has
been taken apart. -/

set_option Elab.async false

namespace Sys2Proof.Machine
open Sys2Proof

/-! ### RegPort -/

theorem afterOut_pending (o : Out) (s : State) (h : ∃ t, o = .next t ∧ t.pending = s.pending) :
    (afterOut o s).pending = s.pending := by
  obtain ⟨t, rfl, hp⟩ := h
  exact hp

@[simp] theorem afterAlmClrIngestMax_pending (value : W32) (s : State) : (afterOut (execAlmClrIngestMax value s) s).pending = s.pending :=
  afterOut_pending _ _ (execAlmClrIngestMax_pending value s)

@[simp] theorem afterDoorbell_pending (ring : Nat) (value : W32) (s : State) : (afterOut (execDoorbell ring value s) s).pending = s.pending :=
  afterOut_pending _ _ (execDoorbell_pending ring value s)

@[simp] theorem afterFlowProfCommit_pending (value : W32) (s : State) : (afterOut (execFlowProfCommit value s) s).pending = s.pending :=
  afterOut_pending _ _ (execFlowProfCommit_pending value s)

@[simp] theorem afterHelmDbgHalt_pending (s : State) : (afterOut (execHelmDbgHalt s) s).pending = s.pending :=
  afterOut_pending _ _ (execHelmDbgHalt_pending s)

@[simp] theorem afterHelmDbgKill_pending (s : State) : (afterOut (execHelmDbgKill s) s).pending = s.pending :=
  afterOut_pending _ _ (execHelmDbgKill_pending s)

@[simp] theorem afterHelmDbgRegWrite_pending (k : Nat) (value : W32) (s : State) : (afterOut (execHelmDbgRegWrite k value s) s).pending = s.pending :=
  afterOut_pending _ _ (execHelmDbgRegWrite_pending k value s)

@[simp] theorem afterHelmDbgResume_pending (s : State) : (afterOut (execHelmDbgResume s) s).pending = s.pending :=
  afterOut_pending _ _ (execHelmDbgResume_pending s)

@[simp] theorem afterHelmDbgStep_pending (s : State) : (afterOut (execHelmDbgStep s) s).pending = s.pending :=
  afterOut_pending _ _ (execHelmDbgStep_pending s)

@[simp] theorem afterMacCtrlWrite_pending (port : Port) (value : W32) (s : State) : (afterOut (execMacCtrlWrite port value s) s).pending = s.pending :=
  afterOut_pending _ _ (execMacCtrlWrite_pending port value s)

@[simp] theorem afterMacFiltCommit_pending (port : Port) (n : Nat) (value : W32) (s : State) : (afterOut (execMacFiltCommit port n value s) s).pending = s.pending :=
  afterOut_pending _ _ (execMacFiltCommit_pending port n value s)

@[simp] theorem afterMacStatClear_pending (port : Port) (value : W32) (s : State) : (afterOut (execMacStatClear port value s) s).pending = s.pending :=
  afterOut_pending _ _ (execMacStatClear_pending port value s)

@[simp] theorem afterModTransactionStart_pending (port : Port) (value : W32) (s : State) : (afterOut (execModTransactionStart port value s) s).pending = s.pending :=
  afterOut_pending _ _ (execModTransactionStart_pending port value s)

@[simp] theorem afterMring0Disable_pending (value : W32) (s : State) : (afterOut (execMring0Disable value s) s).pending = s.pending :=
  afterOut_pending _ _ (execMring0Disable_pending value s)

@[simp] theorem afterMring0Enable_pending (value : W32) (s : State) : (afterOut (execMring0Enable value s) s).pending = s.pending :=
  afterOut_pending _ _ (execMring0Enable_pending value s)

@[simp] theorem afterMsixUnmask_pending (fn : Fn) (vec : Nat) (s : State) : (afterOut (execMsixUnmask fn vec s) s).pending = s.pending :=
  afterOut_pending _ _ (execMsixUnmask_pending fn vec s)

@[simp] theorem afterPwrWake_pending (target : Nat) (s : State) : (afterOut (execPwrWake target s) s).pending = s.pending :=
  afterOut_pending _ _ (execPwrWake_pending target s)

@[simp] theorem afterReflexClrMax_pending (value : W32) (s : State) : (afterOut (execReflexClrMax value s) s).pending = s.pending :=
  afterOut_pending _ _ (execReflexClrMax_pending value s)

@[simp] theorem afterReflexStage_pending (inst slot : Nat) (lo : W32) (s : State) : (afterOut (execReflexStage inst slot lo s) s).pending = s.pending :=
  afterOut_pending _ _ (execReflexStage_pending inst slot lo s)

@[simp] theorem afterReflexWrite_pending (inst slot : Nat) (lo : Option W32) (hi : W32) (s : State) : (afterOut (execReflexWrite inst slot lo hi s) s).pending = s.pending :=
  afterOut_pending _ _ (execReflexWrite_pending inst slot lo hi s)

@[simp] theorem afterSecRingDoorbell_pending (value : W32) (s : State) : (afterOut (execSecRingDoorbell value s) s).pending = s.pending :=
  afterOut_pending _ _ (execSecRingDoorbell_pending value s)

@[simp] theorem afterSecRingEnable_pending (value : W32) (s : State) : (afterOut (execSecRingEnable value s) s).pending = s.pending :=
  afterOut_pending _ _ (execSecRingEnable_pending value s)

@[simp] theorem afterTableTransferStart_pending (value : W32) (s : State) : (afterOut (execTableTransferStart value s) s).pending = s.pending :=
  afterOut_pending _ _ (execTableTransferStart_pending value s)

@[simp] theorem afterWatchAck_pending (inst : Nat) (value : W32) (s : State) : (afterOut (execWatchAck inst value s) s).pending = s.pending :=
  afterOut_pending _ _ (execWatchAck_pending inst value s)

@[simp] theorem afterWinCommit_pending (window : Nat) (s : State) : (afterOut (execWinCommit window s) s).pending = s.pending :=
  afterOut_pending _ _ (execWinCommit_pending window s)

@[simp] theorem macPins_pending (s : State) (p : Port) (v : Nat) :
    (State.macPins s p v).pending = s.pending := by
  unfold State.macPins
  dsimp only
  (repeat' split) <;> (try simp [*]) <;> (try grind)

@[simp] theorem macWrite_pending (s : State) (p : Port) (o v z : Nat) :
    (State.macWrite s p o v z).pending = s.pending := by
  unfold State.macWrite
  dsimp only
  (repeat' split) <;> (try simp [*]) <;> (try grind)

@[simp] theorem timeWrite_pending (s : State) (o z : Nat) :
    (State.timeWrite s o z).pending = s.pending := by
  unfold State.timeWrite
  dsimp only
  (repeat' split) <;> grind

@[simp] theorem almWrite_pending (s : State) (o v z : Nat) :
    (State.almWrite s o v z).pending = s.pending := by
  unfold State.almWrite
  dsimp only
  (repeat' split) <;> (try simp [*]) <;> (try grind)

/-! ### RegFlow -/

@[simp] theorem profStage_pending (s : State) (p w v : Nat) :
    (State.profStage s p w v).pending = s.pending := by
  unfold State.profStage
  dsimp only
  (repeat' split) <;> grind

@[simp] theorem flowWrite_pending (s : State) (o v z : Nat) :
    (State.flowWrite s o v z).pending = s.pending := by
  unfold State.flowWrite
  dsimp only
  (repeat' split) <;> (try simp [*]) <;> (try grind)

@[simp] theorem switchWrite_pending (s : State) (o v z : Nat) :
    (State.switchWrite s o v z).pending = s.pending := by
  unfold State.switchWrite
  dsimp only
  (repeat' split) <;> (try simp [*]) <;> (try grind)

@[simp] theorem ciphWrite_pending (s : State) (o z : Nat) :
    (State.ciphWrite s o z).pending = s.pending := by
  unfold State.ciphWrite
  dsimp only
  (repeat' split) <;> grind

@[simp] theorem schedWrite_pending (s : State) (o v : Nat) :
    (State.schedWrite s o v).pending = s.pending := by
  unfold State.schedWrite
  dsimp only
  (repeat' split) <;> grind

@[simp] theorem flowBlockWrite_pending (s : State) (o v z : Nat) :
    (State.flowBlockWrite s o v z).pending = s.pending := by
  unfold State.flowBlockWrite
  dsimp only
  (repeat' split) <;> (try simp [*]) <;> (try grind)

/-! ### RegHost -/

@[simp] theorem baseWrite_pending (s : State) (r : Nat) (enable hi : Bool) (v : Nat) :
    (State.baseWrite s r enable hi v).pending = s.pending := by
  unfold State.baseWrite
  dsimp only
  (repeat' split) <;> (try simp [*]) <;> (try grind)

@[simp] theorem globalWrite_pending (s : State) (o v z : Nat) :
    (State.globalWrite s o v z).pending = s.pending := by
  unfold State.globalWrite
  dsimp only
  (repeat' split) <;> (try simp [*]) <;> (try grind)

@[simp] theorem msixWrite_pending (s : State) (fn : Fn) (vec w v : Nat) :
    (State.msixWrite s fn vec w v).pending = s.pending := by
  unfold State.msixWrite
  dsimp only
  (repeat' split) <;> (try simp [*]) <;> (try grind)

@[simp] theorem evtWrite_pending (s : State) (o v z : Nat) :
    (State.evtWrite s o v z).pending = s.pending := by
  unfold State.evtWrite
  dsimp only
  (repeat' split) <;> (try simp [*]) <;> (try grind)

@[simp] theorem mboxRegWrite_pending (s : State) (o v z : Nat) :
    (State.mboxRegWrite s o v z).pending = s.pending := by
  unfold State.mboxRegWrite
  dsimp only
  (repeat' split) <;> (try simp [*]) <;> (try grind)

@[simp] theorem memWrite_pending (s : State) (o v z : Nat) :
    (State.memWrite s o v z).pending = s.pending := by
  unfold State.memWrite
  dsimp only
  (repeat' split) <;> grind

@[simp] theorem winWrite_pending (s : State) (o v z : Nat) :
    (State.winWrite s o v z).pending = s.pending := by
  unfold State.winWrite
  dsimp only
  (repeat' split) <;> (try simp [*]) <;> (try grind)

@[simp] theorem dbgCtrl_pending (s : State) (v z : Nat) :
    (State.dbgCtrl s v z).pending = s.pending := by
  unfold State.dbgCtrl
  dsimp only
  split <;> (try split) <;> (repeat' split) <;> simp [*]

@[simp] theorem helmWrite_pending (s : State) (o v z : Nat) :
    (State.helmWrite s o v z).pending = s.pending := by
  unfold State.helmWrite
  dsimp only
  (repeat' split) <;> (try simp [*]) <;> (try grind)

@[simp] theorem pwrWrite_pending (s : State) (o v z : Nat) :
    (State.pwrWrite s o v z).pending = s.pending := by
  unfold State.pwrWrite
  dsimp only
  (repeat' split) <;> (try simp [*]) <;> (try grind)

@[simp] theorem errWrite_pending (s : State) (o z : Nat) :
    (State.errWrite s o z).pending = s.pending := by
  unfold State.errWrite
  dsimp only
  (repeat' split) <;> grind

@[simp] theorem pushWrite_pending (s : State) (r o v be : Nat) :
    (State.pushWrite s r o v be).pending = s.pending := by
  unfold State.pushWrite
  dsimp only
  (repeat' split) <;> (try simp [*]) <;> (try grind)

@[simp] theorem instPageWrite_pending (s : State) (i o v be : Nat) :
    (State.instPageWrite s i o v be).pending = s.pending := by
  unfold State.instPageWrite
  dsimp only
  (repeat' split) <;> (try simp [*]) <;> (try grind)

@[simp] theorem bar2Write_pending (s : State) (off v be : Nat) :
    (State.bar2Write s off v be).pending = s.pending := by
  unfold State.bar2Write
  dsimp only
  (repeat' split) <;> (try simp [*]) <;> (try grind)

@[simp] theorem pf1Write_pending (s : State) (o v z : Nat) :
    (State.pf1Write s o v z).pending = s.pending := by
  unfold State.pf1Write
  dsimp only
  (repeat' split) <;> (try simp [*]) <;> (try grind)

/-! ### Register -/

@[simp] theorem pf0Read_pending (s : State) (bar off : Nat) :
    (State.pf0Read s bar off).2.pending = s.pending := by
  simp [State.pf0Read, *]
theorem pf0Read_pending_of (s : State) (bar off : Nat) {p0_ : Nat} {t_ : State} (hp_ : (State.pf0Read s bar off) = (p0_, t_)) : t_.pending = s.pending := by
  have := pf0Read_pending s bar off
  rw [hp_] at this
  exact this

theorem ite_snd_pending {α : Type} {c : Prop} [Decidable c] {a b : α × State} {s : State} (ha : a.2.pending = s.pending)
    (hb : b.2.pending = s.pending) : (if c then a else b).2.pending = s.pending := by
  split <;> assumption

theorem mboxPair_pending (s : State) (k : Nat) : (some (s.mboxRead k).1.toNat, (s.mboxRead k).2).2.pending = s.pending :=
  mboxRead_pending s k

theorem freePair_pending (s : State) (o : Nat) (b : Bool) :
    (some (s.pf0Read 0 o).1, if b then (s.pf0Read 0 o).2.draw.2 else (s.pf0Read 0 o).2).2.pending = s.pending := by
  cases b <;> simp

@[simp] theorem readBar0_pending (s : State) (o : Nat) :
    (State.readBar0 s o).2.pending = s.pending := by
  unfold State.readBar0
  exact ite_snd_pending rfl (ite_snd_pending (by simp) (ite_snd_pending (mboxPair_pending s _) (freePair_pending s o _)))
theorem readBar0_pending_of (s : State) (o : Nat) {p0_ : Option Nat} {t_ : State} (hp_ : (State.readBar0 s o) = (p0_, t_)) : t_.pending = s.pending := by
  have := readBar0_pending s o
  rw [hp_] at this
  exact this

@[simp] theorem readDw_pending (s : State) (fn : Fn) (bar o : Nat) :
    (State.readDw s fn bar o).2.pending = s.pending := by
  unfold State.readDw
  dsimp only
  (repeat' split) <;> grind [→ smboxRead_pending_of, → pf0Read_pending_of, → readBar0_pending_of]
theorem readDw_pending_of (s : State) (fn : Fn) (bar o : Nat) {p0_ : Option Nat} {t_ : State} (hp_ : (State.readDw s fn bar o) = (p0_, t_)) : t_.pending = s.pending := by
  have := readDw_pending s fn bar o
  rw [hp_] at this
  exact this

@[simp] theorem readEnd_pending (s : State) (fn : Fn) (vs : List (Option Nat)) :
    (State.readEnd s fn vs).pending = s.pending := by
  simp [State.readEnd, *]

theorem execRegisterRead_pending (fn : Fn) (bar : Nat) (off : ReadDws) (s : State) :
    ∃ t, (execRegisterRead fn bar off s) = .next t ∧ t.pending = s.pending := by
  unfold execRegisterRead
  (try dsimp only)
  (repeat' split) <;> (refine ⟨_, rfl, ?_⟩) <;> (try simp [*]) <;> (try grind [→ smboxRead_pending_of, → pf0Read_pending_of])

@[simp] theorem bar0Write_pending (s : State) (off v z : Nat) :
    (State.bar0Write s off v z).pending = s.pending := by
  unfold State.bar0Write
  dsimp only
  (repeat' split) <;> (try simp [*]) <;> (try grind)

@[simp] theorem writeBar0_pending (s : State) (o v be : Nat) :
    (State.writeBar0 s o v be).pending = s.pending := by
  unfold State.writeBar0
  dsimp only
  (repeat' split) <;> (try simp [*]) <;> (try grind)

@[simp] theorem writeDw_pending (s : State) (fn : Fn) (bar o v be : Nat) :
    (State.writeDw s fn bar o v be).pending = s.pending := by
  unfold State.writeDw
  (try dsimp only)
  (repeat' split) <;> simp [*]

@[simp] theorem writeMore_pending (s : State) (fn : Fn) (bar : Nat) (x0 : Nat) (x1 : List (W32 × Nat)) :
    (State.writeMore s fn bar x0 x1).pending = s.pending := by
  induction x1 generalizing s x0 with
  | nil => simp [State.writeMore]
  | cons m ms ih => simp [State.writeMore, ih]

theorem execRegisterWrite_pending (fn : Fn) (bar off : Nat) (value : W32) (be : WriteDws) (s : State) :
    ∃ t, (execRegisterWrite fn bar off value be s) = .next t ∧ t.pending = s.pending := by
  unfold execRegisterWrite
  (try dsimp only)
  (repeat' split) <;> (refine ⟨_, rfl, ?_⟩) <;> (try simp [*]) <;> (try grind)

end Sys2Proof.Machine
end

