-- ==== Sys2Proof/Laws/State.lean ====
section
/-!
SUPPORT. Laws/State.lean: each update of one part of the state, field by field: what it writes, and every field that it leaves.
-/

set_option Elab.async false

namespace Sys2Proof.Machine

open Sys2Proof

/-! ### `State.setAlm` -/

@[simp] theorem State.setAlm_now (s : State) (k : Nat) (a : Almanac) : (s.setAlm k a).now = s.now := rfl
@[simp] theorem State.setAlm_free (s : State) (k : Nat) (a : Almanac) : (s.setAlm k a).free = s.free := rfl
@[simp] theorem State.setAlm_host (s : State) (k : Nat) (a : Almanac) : (s.setAlm k a).host = s.host := rfl
@[simp] theorem State.setAlm_power (s : State) (k : Nat) (a : Almanac) : (s.setAlm k a).power = s.power := rfl
@[simp] theorem State.setAlm_mem (s : State) (k : Nat) (a : Almanac) : (s.setAlm k a).mem = s.mem := rfl
@[simp] theorem State.setAlm_boot (s : State) (k : Nat) (a : Almanac) : (s.setAlm k a).boot = s.boot := rfl
@[simp] theorem State.setAlm_err (s : State) (k : Nat) (a : Almanac) : (s.setAlm k a).err = s.err := rfl
@[simp] theorem State.setAlm_evt (s : State) (k : Nat) (a : Almanac) : (s.setAlm k a).evt = s.evt := rfl
@[simp] theorem State.setAlm_module (s : State) (k : Nat) (a : Almanac) : (s.setAlm k a).module_ = s.module_ := rfl
@[simp] theorem State.setAlm_insts (s : State) (k : Nat) (a : Almanac) : (s.setAlm k a).insts = s.insts := rfl
@[simp] theorem State.setAlm_bounds (s : State) (k : Nat) (a : Almanac) : (s.setAlm k a).bounds = s.bounds := rfl
@[simp] theorem State.setAlm_rings (s : State) (k : Nat) (a : Almanac) : (s.setAlm k a).rings = s.rings := rfl
@[simp] theorem State.setAlm_dechan (s : State) (k : Nat) (a : Almanac) : (s.setAlm k a).dechan = s.dechan := rfl
@[simp] theorem State.setAlm_mig (s : State) (k : Nat) (a : Almanac) : (s.setAlm k a).mig = s.mig := rfl
@[simp] theorem State.setAlm_time (s : State) (k : Nat) (a : Almanac) : (s.setAlm k a).time = s.time := rfl
@[simp] theorem State.setAlm_flow (s : State) (k : Nat) (a : Almanac) : (s.setAlm k a).flow = s.flow := rfl
@[simp] theorem State.setAlm_cls (s : State) (k : Nat) (a : Almanac) : (s.setAlm k a).cls = s.cls := rfl
@[simp] theorem State.setAlm_sw (s : State) (k : Nat) (a : Almanac) : (s.setAlm k a).sw = s.sw := rfl
@[simp] theorem State.setAlm_sched (s : State) (k : Nat) (a : Almanac) : (s.setAlm k a).sched = s.sched := rfl
@[simp] theorem State.setAlm_ciph (s : State) (k : Nat) (a : Almanac) : (s.setAlm k a).ciph = s.ciph := rfl
@[simp] theorem State.setAlm_ports (s : State) (k : Nat) (a : Almanac) : (s.setAlm k a).ports = s.ports := rfl
@[simp] theorem State.setAlm_alm (s : State) (k : Nat) (a : Almanac) : (s.setAlm k a).alm = { s.alm with tab := s.alm.tab.put k a } := rfl
@[simp] theorem State.setAlm_reflex (s : State) (k : Nat) (a : Almanac) : (s.setAlm k a).reflex = s.reflex := rfl
@[simp] theorem State.setAlm_recd (s : State) (k : Nat) (a : Almanac) : (s.setAlm k a).recd = s.recd := rfl
@[simp] theorem State.setAlm_helm (s : State) (k : Nat) (a : Almanac) : (s.setAlm k a).helm = s.helm := rfl
@[simp] theorem State.setAlm_dram (s : State) (k : Nat) (a : Almanac) : (s.setAlm k a).dram = s.dram := rfl
@[simp] theorem State.setAlm_snap (s : State) (k : Nat) (a : Almanac) : (s.setAlm k a).snap = s.snap := rfl
@[simp] theorem State.setAlm_out (s : State) (k : Nat) (a : Almanac) : (s.setAlm k a).out = s.out := rfl
@[simp] theorem State.setAlm_pending (s : State) (k : Nat) (a : Almanac) : (s.setAlm k a).pending = s.pending := rfl

/-! ### `State.setWatch` -/

@[simp] theorem State.setWatch_now (s : State) (k : Nat) (w : Watch) : (s.setWatch k w).now = s.now := rfl
@[simp] theorem State.setWatch_free (s : State) (k : Nat) (w : Watch) : (s.setWatch k w).free = s.free := rfl
@[simp] theorem State.setWatch_host (s : State) (k : Nat) (w : Watch) : (s.setWatch k w).host = s.host := rfl
@[simp] theorem State.setWatch_power (s : State) (k : Nat) (w : Watch) : (s.setWatch k w).power = s.power := rfl
@[simp] theorem State.setWatch_mem (s : State) (k : Nat) (w : Watch) : (s.setWatch k w).mem = s.mem := rfl
@[simp] theorem State.setWatch_boot (s : State) (k : Nat) (w : Watch) : (s.setWatch k w).boot = s.boot := rfl
@[simp] theorem State.setWatch_err (s : State) (k : Nat) (w : Watch) : (s.setWatch k w).err = s.err := rfl
@[simp] theorem State.setWatch_evt (s : State) (k : Nat) (w : Watch) : (s.setWatch k w).evt = s.evt := rfl
@[simp] theorem State.setWatch_module (s : State) (k : Nat) (w : Watch) : (s.setWatch k w).module_ = s.module_ := rfl
@[simp] theorem State.setWatch_insts (s : State) (k : Nat) (w : Watch) : (s.setWatch k w).insts = s.insts := rfl
@[simp] theorem State.setWatch_bounds (s : State) (k : Nat) (w : Watch) : (s.setWatch k w).bounds = s.bounds := rfl
@[simp] theorem State.setWatch_rings (s : State) (k : Nat) (w : Watch) : (s.setWatch k w).rings = s.rings := rfl
@[simp] theorem State.setWatch_dechan (s : State) (k : Nat) (w : Watch) : (s.setWatch k w).dechan = s.dechan := rfl
@[simp] theorem State.setWatch_mig (s : State) (k : Nat) (w : Watch) : (s.setWatch k w).mig = s.mig := rfl
@[simp] theorem State.setWatch_time (s : State) (k : Nat) (w : Watch) : (s.setWatch k w).time = s.time := rfl
@[simp] theorem State.setWatch_flow (s : State) (k : Nat) (w : Watch) : (s.setWatch k w).flow = s.flow := rfl
@[simp] theorem State.setWatch_cls (s : State) (k : Nat) (w : Watch) : (s.setWatch k w).cls = s.cls := rfl
@[simp] theorem State.setWatch_sw (s : State) (k : Nat) (w : Watch) : (s.setWatch k w).sw = s.sw := rfl
@[simp] theorem State.setWatch_sched (s : State) (k : Nat) (w : Watch) : (s.setWatch k w).sched = s.sched := rfl
@[simp] theorem State.setWatch_ciph (s : State) (k : Nat) (w : Watch) : (s.setWatch k w).ciph = s.ciph := rfl
@[simp] theorem State.setWatch_ports (s : State) (k : Nat) (w : Watch) : (s.setWatch k w).ports = s.ports := rfl
@[simp] theorem State.setWatch_alm (s : State) (k : Nat) (w : Watch) : (s.setWatch k w).alm = { s.alm with watches := s.alm.watches.put k w } := rfl
@[simp] theorem State.setWatch_reflex (s : State) (k : Nat) (w : Watch) : (s.setWatch k w).reflex = s.reflex := rfl
@[simp] theorem State.setWatch_recd (s : State) (k : Nat) (w : Watch) : (s.setWatch k w).recd = s.recd := rfl
@[simp] theorem State.setWatch_helm (s : State) (k : Nat) (w : Watch) : (s.setWatch k w).helm = s.helm := rfl
@[simp] theorem State.setWatch_dram (s : State) (k : Nat) (w : Watch) : (s.setWatch k w).dram = s.dram := rfl
@[simp] theorem State.setWatch_snap (s : State) (k : Nat) (w : Watch) : (s.setWatch k w).snap = s.snap := rfl
@[simp] theorem State.setWatch_out (s : State) (k : Nat) (w : Watch) : (s.setWatch k w).out = s.out := rfl
@[simp] theorem State.setWatch_pending (s : State) (k : Nat) (w : Watch) : (s.setWatch k w).pending = s.pending := rfl

/-! ### `State.setCtx` -/

@[simp] theorem State.setCtx_now (s : State) (h : Nat) (x : Ctx) : (s.setCtx h x).now = s.now := rfl
@[simp] theorem State.setCtx_free (s : State) (h : Nat) (x : Ctx) : (s.setCtx h x).free = s.free := rfl
@[simp] theorem State.setCtx_host (s : State) (h : Nat) (x : Ctx) : (s.setCtx h x).host = s.host := rfl
@[simp] theorem State.setCtx_power (s : State) (h : Nat) (x : Ctx) : (s.setCtx h x).power = s.power := rfl
@[simp] theorem State.setCtx_mem (s : State) (h : Nat) (x : Ctx) : (s.setCtx h x).mem = s.mem := rfl
@[simp] theorem State.setCtx_boot (s : State) (h : Nat) (x : Ctx) : (s.setCtx h x).boot = s.boot := rfl
@[simp] theorem State.setCtx_err (s : State) (h : Nat) (x : Ctx) : (s.setCtx h x).err = s.err := rfl
@[simp] theorem State.setCtx_evt (s : State) (h : Nat) (x : Ctx) : (s.setCtx h x).evt = s.evt := rfl
@[simp] theorem State.setCtx_module (s : State) (h : Nat) (x : Ctx) : (s.setCtx h x).module_ = s.module_ := rfl
@[simp] theorem State.setCtx_insts (s : State) (h : Nat) (x : Ctx) : (s.setCtx h x).insts = s.insts := rfl
@[simp] theorem State.setCtx_bounds (s : State) (h : Nat) (x : Ctx) : (s.setCtx h x).bounds = s.bounds := rfl
@[simp] theorem State.setCtx_rings (s : State) (h : Nat) (x : Ctx) : (s.setCtx h x).rings = s.rings := rfl
@[simp] theorem State.setCtx_dechan (s : State) (h : Nat) (x : Ctx) : (s.setCtx h x).dechan = s.dechan := rfl
@[simp] theorem State.setCtx_mig (s : State) (h : Nat) (x : Ctx) : (s.setCtx h x).mig = s.mig := rfl
@[simp] theorem State.setCtx_time (s : State) (h : Nat) (x : Ctx) : (s.setCtx h x).time = s.time := rfl
@[simp] theorem State.setCtx_flow (s : State) (h : Nat) (x : Ctx) : (s.setCtx h x).flow = s.flow := rfl
@[simp] theorem State.setCtx_cls (s : State) (h : Nat) (x : Ctx) : (s.setCtx h x).cls = s.cls := rfl
@[simp] theorem State.setCtx_sw (s : State) (h : Nat) (x : Ctx) : (s.setCtx h x).sw = s.sw := rfl
@[simp] theorem State.setCtx_sched (s : State) (h : Nat) (x : Ctx) : (s.setCtx h x).sched = s.sched := rfl
@[simp] theorem State.setCtx_ciph (s : State) (h : Nat) (x : Ctx) : (s.setCtx h x).ciph = { s.ciph with ctxs := s.ciph.ctxs.put h x } := rfl
@[simp] theorem State.setCtx_ports (s : State) (h : Nat) (x : Ctx) : (s.setCtx h x).ports = s.ports := rfl
@[simp] theorem State.setCtx_alm (s : State) (h : Nat) (x : Ctx) : (s.setCtx h x).alm = s.alm := rfl
@[simp] theorem State.setCtx_reflex (s : State) (h : Nat) (x : Ctx) : (s.setCtx h x).reflex = s.reflex := rfl
@[simp] theorem State.setCtx_recd (s : State) (h : Nat) (x : Ctx) : (s.setCtx h x).recd = s.recd := rfl
@[simp] theorem State.setCtx_helm (s : State) (h : Nat) (x : Ctx) : (s.setCtx h x).helm = s.helm := rfl
@[simp] theorem State.setCtx_dram (s : State) (h : Nat) (x : Ctx) : (s.setCtx h x).dram = s.dram := rfl
@[simp] theorem State.setCtx_snap (s : State) (h : Nat) (x : Ctx) : (s.setCtx h x).snap = s.snap := rfl
@[simp] theorem State.setCtx_out (s : State) (h : Nat) (x : Ctx) : (s.setCtx h x).out = s.out := rfl
@[simp] theorem State.setCtx_pending (s : State) (h : Nat) (x : Ctx) : (s.setCtx h x).pending = s.pending := rfl

/-! ### `State.setRaw` -/

@[simp] theorem State.setRaw_now (s : State) (n : Nat) (x : RawLane) : (s.setRaw n x).now = s.now := rfl
@[simp] theorem State.setRaw_free (s : State) (n : Nat) (x : RawLane) : (s.setRaw n x).free = s.free := rfl
@[simp] theorem State.setRaw_host (s : State) (n : Nat) (x : RawLane) : (s.setRaw n x).host = s.host := rfl
@[simp] theorem State.setRaw_power (s : State) (n : Nat) (x : RawLane) : (s.setRaw n x).power = s.power := rfl
@[simp] theorem State.setRaw_mem (s : State) (n : Nat) (x : RawLane) : (s.setRaw n x).mem = s.mem := rfl
@[simp] theorem State.setRaw_boot (s : State) (n : Nat) (x : RawLane) : (s.setRaw n x).boot = s.boot := rfl
@[simp] theorem State.setRaw_err (s : State) (n : Nat) (x : RawLane) : (s.setRaw n x).err = s.err := rfl
@[simp] theorem State.setRaw_evt (s : State) (n : Nat) (x : RawLane) : (s.setRaw n x).evt = s.evt := rfl
@[simp] theorem State.setRaw_module (s : State) (n : Nat) (x : RawLane) : (s.setRaw n x).module_ = s.module_ := rfl
@[simp] theorem State.setRaw_insts (s : State) (n : Nat) (x : RawLane) : (s.setRaw n x).insts = s.insts := rfl
@[simp] theorem State.setRaw_bounds (s : State) (n : Nat) (x : RawLane) : (s.setRaw n x).bounds = s.bounds := rfl
@[simp] theorem State.setRaw_rings (s : State) (n : Nat) (x : RawLane) : (s.setRaw n x).rings = s.rings := rfl
@[simp] theorem State.setRaw_dechan (s : State) (n : Nat) (x : RawLane) : (s.setRaw n x).dechan = s.dechan := rfl
@[simp] theorem State.setRaw_mig (s : State) (n : Nat) (x : RawLane) : (s.setRaw n x).mig = s.mig := rfl
@[simp] theorem State.setRaw_time (s : State) (n : Nat) (x : RawLane) : (s.setRaw n x).time = s.time := rfl
@[simp] theorem State.setRaw_flow (s : State) (n : Nat) (x : RawLane) : (s.setRaw n x).flow = s.flow := rfl
@[simp] theorem State.setRaw_cls (s : State) (n : Nat) (x : RawLane) : (s.setRaw n x).cls = s.cls := rfl
@[simp] theorem State.setRaw_sw (s : State) (n : Nat) (x : RawLane) : (s.setRaw n x).sw = s.sw := rfl
@[simp] theorem State.setRaw_sched (s : State) (n : Nat) (x : RawLane) : (s.setRaw n x).sched = s.sched := rfl
@[simp] theorem State.setRaw_ciph (s : State) (n : Nat) (x : RawLane) : (s.setRaw n x).ciph = { s.ciph with raw := s.ciph.raw.set n x } := rfl
@[simp] theorem State.setRaw_ports (s : State) (n : Nat) (x : RawLane) : (s.setRaw n x).ports = s.ports := rfl
@[simp] theorem State.setRaw_alm (s : State) (n : Nat) (x : RawLane) : (s.setRaw n x).alm = s.alm := rfl
@[simp] theorem State.setRaw_reflex (s : State) (n : Nat) (x : RawLane) : (s.setRaw n x).reflex = s.reflex := rfl
@[simp] theorem State.setRaw_recd (s : State) (n : Nat) (x : RawLane) : (s.setRaw n x).recd = s.recd := rfl
@[simp] theorem State.setRaw_helm (s : State) (n : Nat) (x : RawLane) : (s.setRaw n x).helm = s.helm := rfl
@[simp] theorem State.setRaw_dram (s : State) (n : Nat) (x : RawLane) : (s.setRaw n x).dram = s.dram := rfl
@[simp] theorem State.setRaw_snap (s : State) (n : Nat) (x : RawLane) : (s.setRaw n x).snap = s.snap := rfl
@[simp] theorem State.setRaw_out (s : State) (n : Nat) (x : RawLane) : (s.setRaw n x).out = s.out := rfl
@[simp] theorem State.setRaw_pending (s : State) (n : Nat) (x : RawLane) : (s.setRaw n x).pending = s.pending := rfl

/-! ### `State.setClsBank` -/

@[simp] theorem State.setClsBank_now (s : State) (b : Nat) (x : ClsBank) : (s.setClsBank b x).now = s.now := rfl
@[simp] theorem State.setClsBank_free (s : State) (b : Nat) (x : ClsBank) : (s.setClsBank b x).free = s.free := rfl
@[simp] theorem State.setClsBank_host (s : State) (b : Nat) (x : ClsBank) : (s.setClsBank b x).host = s.host := rfl
@[simp] theorem State.setClsBank_power (s : State) (b : Nat) (x : ClsBank) : (s.setClsBank b x).power = s.power := rfl
@[simp] theorem State.setClsBank_mem (s : State) (b : Nat) (x : ClsBank) : (s.setClsBank b x).mem = s.mem := rfl
@[simp] theorem State.setClsBank_boot (s : State) (b : Nat) (x : ClsBank) : (s.setClsBank b x).boot = s.boot := rfl
@[simp] theorem State.setClsBank_err (s : State) (b : Nat) (x : ClsBank) : (s.setClsBank b x).err = s.err := rfl
@[simp] theorem State.setClsBank_evt (s : State) (b : Nat) (x : ClsBank) : (s.setClsBank b x).evt = s.evt := rfl
@[simp] theorem State.setClsBank_module (s : State) (b : Nat) (x : ClsBank) : (s.setClsBank b x).module_ = s.module_ := rfl
@[simp] theorem State.setClsBank_insts (s : State) (b : Nat) (x : ClsBank) : (s.setClsBank b x).insts = s.insts := rfl
@[simp] theorem State.setClsBank_bounds (s : State) (b : Nat) (x : ClsBank) : (s.setClsBank b x).bounds = s.bounds := rfl
@[simp] theorem State.setClsBank_rings (s : State) (b : Nat) (x : ClsBank) : (s.setClsBank b x).rings = s.rings := rfl
@[simp] theorem State.setClsBank_dechan (s : State) (b : Nat) (x : ClsBank) : (s.setClsBank b x).dechan = s.dechan := rfl
@[simp] theorem State.setClsBank_mig (s : State) (b : Nat) (x : ClsBank) : (s.setClsBank b x).mig = s.mig := rfl
@[simp] theorem State.setClsBank_time (s : State) (b : Nat) (x : ClsBank) : (s.setClsBank b x).time = s.time := rfl
@[simp] theorem State.setClsBank_flow (s : State) (b : Nat) (x : ClsBank) : (s.setClsBank b x).flow = s.flow := rfl
@[simp] theorem State.setClsBank_cls (s : State) (b : Nat) (x : ClsBank) : (s.setClsBank b x).cls = { s.cls with banks := s.cls.banks.set b x } := rfl
@[simp] theorem State.setClsBank_sw (s : State) (b : Nat) (x : ClsBank) : (s.setClsBank b x).sw = s.sw := rfl
@[simp] theorem State.setClsBank_sched (s : State) (b : Nat) (x : ClsBank) : (s.setClsBank b x).sched = s.sched := rfl
@[simp] theorem State.setClsBank_ciph (s : State) (b : Nat) (x : ClsBank) : (s.setClsBank b x).ciph = s.ciph := rfl
@[simp] theorem State.setClsBank_ports (s : State) (b : Nat) (x : ClsBank) : (s.setClsBank b x).ports = s.ports := rfl
@[simp] theorem State.setClsBank_alm (s : State) (b : Nat) (x : ClsBank) : (s.setClsBank b x).alm = s.alm := rfl
@[simp] theorem State.setClsBank_reflex (s : State) (b : Nat) (x : ClsBank) : (s.setClsBank b x).reflex = s.reflex := rfl
@[simp] theorem State.setClsBank_recd (s : State) (b : Nat) (x : ClsBank) : (s.setClsBank b x).recd = s.recd := rfl
@[simp] theorem State.setClsBank_helm (s : State) (b : Nat) (x : ClsBank) : (s.setClsBank b x).helm = s.helm := rfl
@[simp] theorem State.setClsBank_dram (s : State) (b : Nat) (x : ClsBank) : (s.setClsBank b x).dram = s.dram := rfl
@[simp] theorem State.setClsBank_snap (s : State) (b : Nat) (x : ClsBank) : (s.setClsBank b x).snap = s.snap := rfl
@[simp] theorem State.setClsBank_out (s : State) (b : Nat) (x : ClsBank) : (s.setClsBank b x).out = s.out := rfl
@[simp] theorem State.setClsBank_pending (s : State) (b : Nat) (x : ClsBank) : (s.setClsBank b x).pending = s.pending := rfl

/-! ### `State.setXlats` -/

@[simp] theorem State.setXlats_now (s : State) (l : List Xlat) : (s.setXlats l).now = s.now := rfl
@[simp] theorem State.setXlats_free (s : State) (l : List Xlat) : (s.setXlats l).free = s.free := rfl
@[simp] theorem State.setXlats_host (s : State) (l : List Xlat) : (s.setXlats l).host = { s.host with xlats := l } := rfl
@[simp] theorem State.setXlats_power (s : State) (l : List Xlat) : (s.setXlats l).power = s.power := rfl
@[simp] theorem State.setXlats_mem (s : State) (l : List Xlat) : (s.setXlats l).mem = s.mem := rfl
@[simp] theorem State.setXlats_boot (s : State) (l : List Xlat) : (s.setXlats l).boot = s.boot := rfl
@[simp] theorem State.setXlats_err (s : State) (l : List Xlat) : (s.setXlats l).err = s.err := rfl
@[simp] theorem State.setXlats_evt (s : State) (l : List Xlat) : (s.setXlats l).evt = s.evt := rfl
@[simp] theorem State.setXlats_module (s : State) (l : List Xlat) : (s.setXlats l).module_ = s.module_ := rfl
@[simp] theorem State.setXlats_insts (s : State) (l : List Xlat) : (s.setXlats l).insts = s.insts := rfl
@[simp] theorem State.setXlats_bounds (s : State) (l : List Xlat) : (s.setXlats l).bounds = s.bounds := rfl
@[simp] theorem State.setXlats_rings (s : State) (l : List Xlat) : (s.setXlats l).rings = s.rings := rfl
@[simp] theorem State.setXlats_dechan (s : State) (l : List Xlat) : (s.setXlats l).dechan = s.dechan := rfl
@[simp] theorem State.setXlats_mig (s : State) (l : List Xlat) : (s.setXlats l).mig = s.mig := rfl
@[simp] theorem State.setXlats_time (s : State) (l : List Xlat) : (s.setXlats l).time = s.time := rfl
@[simp] theorem State.setXlats_flow (s : State) (l : List Xlat) : (s.setXlats l).flow = s.flow := rfl
@[simp] theorem State.setXlats_cls (s : State) (l : List Xlat) : (s.setXlats l).cls = s.cls := rfl
@[simp] theorem State.setXlats_sw (s : State) (l : List Xlat) : (s.setXlats l).sw = s.sw := rfl
@[simp] theorem State.setXlats_sched (s : State) (l : List Xlat) : (s.setXlats l).sched = s.sched := rfl
@[simp] theorem State.setXlats_ciph (s : State) (l : List Xlat) : (s.setXlats l).ciph = s.ciph := rfl
@[simp] theorem State.setXlats_ports (s : State) (l : List Xlat) : (s.setXlats l).ports = s.ports := rfl
@[simp] theorem State.setXlats_alm (s : State) (l : List Xlat) : (s.setXlats l).alm = s.alm := rfl
@[simp] theorem State.setXlats_reflex (s : State) (l : List Xlat) : (s.setXlats l).reflex = s.reflex := rfl
@[simp] theorem State.setXlats_recd (s : State) (l : List Xlat) : (s.setXlats l).recd = s.recd := rfl
@[simp] theorem State.setXlats_helm (s : State) (l : List Xlat) : (s.setXlats l).helm = s.helm := rfl
@[simp] theorem State.setXlats_dram (s : State) (l : List Xlat) : (s.setXlats l).dram = s.dram := rfl
@[simp] theorem State.setXlats_snap (s : State) (l : List Xlat) : (s.setXlats l).snap = s.snap := rfl
@[simp] theorem State.setXlats_out (s : State) (l : List Xlat) : (s.setXlats l).out = s.out := rfl
@[simp] theorem State.setXlats_pending (s : State) (l : List Xlat) : (s.setXlats l).pending = s.pending := rfl

/-! ### `State.setThread` -/

@[simp] theorem State.setThread_now (s : State) (t : Nat) (x : Thread) : (s.setThread t x).now = s.now := rfl
@[simp] theorem State.setThread_free (s : State) (t : Nat) (x : Thread) : (s.setThread t x).free = s.free := rfl
@[simp] theorem State.setThread_host (s : State) (t : Nat) (x : Thread) : (s.setThread t x).host = s.host := rfl
@[simp] theorem State.setThread_power (s : State) (t : Nat) (x : Thread) : (s.setThread t x).power = s.power := rfl
@[simp] theorem State.setThread_mem (s : State) (t : Nat) (x : Thread) : (s.setThread t x).mem = s.mem := rfl
@[simp] theorem State.setThread_boot (s : State) (t : Nat) (x : Thread) : (s.setThread t x).boot = s.boot := rfl
@[simp] theorem State.setThread_err (s : State) (t : Nat) (x : Thread) : (s.setThread t x).err = s.err := rfl
@[simp] theorem State.setThread_evt (s : State) (t : Nat) (x : Thread) : (s.setThread t x).evt = s.evt := rfl
@[simp] theorem State.setThread_module (s : State) (t : Nat) (x : Thread) : (s.setThread t x).module_ = s.module_ := rfl
@[simp] theorem State.setThread_insts (s : State) (t : Nat) (x : Thread) : (s.setThread t x).insts = s.insts := rfl
@[simp] theorem State.setThread_bounds (s : State) (t : Nat) (x : Thread) : (s.setThread t x).bounds = s.bounds := rfl
@[simp] theorem State.setThread_rings (s : State) (t : Nat) (x : Thread) : (s.setThread t x).rings = s.rings := rfl
@[simp] theorem State.setThread_dechan (s : State) (t : Nat) (x : Thread) : (s.setThread t x).dechan = s.dechan := rfl
@[simp] theorem State.setThread_mig (s : State) (t : Nat) (x : Thread) : (s.setThread t x).mig = s.mig := rfl
@[simp] theorem State.setThread_time (s : State) (t : Nat) (x : Thread) : (s.setThread t x).time = s.time := rfl
@[simp] theorem State.setThread_flow (s : State) (t : Nat) (x : Thread) : (s.setThread t x).flow = s.flow := rfl
@[simp] theorem State.setThread_cls (s : State) (t : Nat) (x : Thread) : (s.setThread t x).cls = s.cls := rfl
@[simp] theorem State.setThread_sw (s : State) (t : Nat) (x : Thread) : (s.setThread t x).sw = s.sw := rfl
@[simp] theorem State.setThread_sched (s : State) (t : Nat) (x : Thread) : (s.setThread t x).sched = s.sched := rfl
@[simp] theorem State.setThread_ciph (s : State) (t : Nat) (x : Thread) : (s.setThread t x).ciph = s.ciph := rfl
@[simp] theorem State.setThread_ports (s : State) (t : Nat) (x : Thread) : (s.setThread t x).ports = s.ports := rfl
@[simp] theorem State.setThread_alm (s : State) (t : Nat) (x : Thread) : (s.setThread t x).alm = s.alm := rfl
@[simp] theorem State.setThread_reflex (s : State) (t : Nat) (x : Thread) : (s.setThread t x).reflex = s.reflex := rfl
@[simp] theorem State.setThread_recd (s : State) (t : Nat) (x : Thread) : (s.setThread t x).recd = s.recd := rfl
@[simp] theorem State.setThread_helm (s : State) (t : Nat) (x : Thread) : (s.setThread t x).helm = { s.helm with thr := s.helm.thr.put t x } := rfl
@[simp] theorem State.setThread_dram (s : State) (t : Nat) (x : Thread) : (s.setThread t x).dram = s.dram := rfl
@[simp] theorem State.setThread_snap (s : State) (t : Nat) (x : Thread) : (s.setThread t x).snap = s.snap := rfl
@[simp] theorem State.setThread_out (s : State) (t : Nat) (x : Thread) : (s.setThread t x).out = s.out := rfl
@[simp] theorem State.setThread_pending (s : State) (t : Nat) (x : Thread) : (s.setThread t x).pending = s.pending := rfl

/-! ### `State.setChan` -/

@[simp] theorem State.setChan_now (s : State) (c : Nat) (x : Chan) : (s.setChan c x).now = s.now := rfl
@[simp] theorem State.setChan_free (s : State) (c : Nat) (x : Chan) : (s.setChan c x).free = s.free := rfl
@[simp] theorem State.setChan_host (s : State) (c : Nat) (x : Chan) : (s.setChan c x).host = s.host := rfl
@[simp] theorem State.setChan_power (s : State) (c : Nat) (x : Chan) : (s.setChan c x).power = s.power := rfl
@[simp] theorem State.setChan_mem (s : State) (c : Nat) (x : Chan) : (s.setChan c x).mem = s.mem := rfl
@[simp] theorem State.setChan_boot (s : State) (c : Nat) (x : Chan) : (s.setChan c x).boot = s.boot := rfl
@[simp] theorem State.setChan_err (s : State) (c : Nat) (x : Chan) : (s.setChan c x).err = s.err := rfl
@[simp] theorem State.setChan_evt (s : State) (c : Nat) (x : Chan) : (s.setChan c x).evt = s.evt := rfl
@[simp] theorem State.setChan_module (s : State) (c : Nat) (x : Chan) : (s.setChan c x).module_ = s.module_ := rfl
@[simp] theorem State.setChan_insts (s : State) (c : Nat) (x : Chan) : (s.setChan c x).insts = s.insts := rfl
@[simp] theorem State.setChan_bounds (s : State) (c : Nat) (x : Chan) : (s.setChan c x).bounds = s.bounds := rfl
@[simp] theorem State.setChan_rings (s : State) (c : Nat) (x : Chan) : (s.setChan c x).rings = s.rings := rfl
@[simp] theorem State.setChan_dechan (s : State) (c : Nat) (x : Chan) : (s.setChan c x).dechan = s.dechan := rfl
@[simp] theorem State.setChan_mig (s : State) (c : Nat) (x : Chan) : (s.setChan c x).mig = s.mig := rfl
@[simp] theorem State.setChan_time (s : State) (c : Nat) (x : Chan) : (s.setChan c x).time = s.time := rfl
@[simp] theorem State.setChan_flow (s : State) (c : Nat) (x : Chan) : (s.setChan c x).flow = s.flow := rfl
@[simp] theorem State.setChan_cls (s : State) (c : Nat) (x : Chan) : (s.setChan c x).cls = s.cls := rfl
@[simp] theorem State.setChan_sw (s : State) (c : Nat) (x : Chan) : (s.setChan c x).sw = s.sw := rfl
@[simp] theorem State.setChan_sched (s : State) (c : Nat) (x : Chan) : (s.setChan c x).sched = s.sched := rfl
@[simp] theorem State.setChan_ciph (s : State) (c : Nat) (x : Chan) : (s.setChan c x).ciph = s.ciph := rfl
@[simp] theorem State.setChan_ports (s : State) (c : Nat) (x : Chan) : (s.setChan c x).ports = s.ports := rfl
@[simp] theorem State.setChan_alm (s : State) (c : Nat) (x : Chan) : (s.setChan c x).alm = s.alm := rfl
@[simp] theorem State.setChan_reflex (s : State) (c : Nat) (x : Chan) : (s.setChan c x).reflex = s.reflex := rfl
@[simp] theorem State.setChan_recd (s : State) (c : Nat) (x : Chan) : (s.setChan c x).recd = s.recd := rfl
@[simp] theorem State.setChan_helm (s : State) (c : Nat) (x : Chan) : (s.setChan c x).helm = { s.helm with chans := s.helm.chans.put c x } := rfl
@[simp] theorem State.setChan_dram (s : State) (c : Nat) (x : Chan) : (s.setChan c x).dram = s.dram := rfl
@[simp] theorem State.setChan_snap (s : State) (c : Nat) (x : Chan) : (s.setChan c x).snap = s.snap := rfl
@[simp] theorem State.setChan_out (s : State) (c : Nat) (x : Chan) : (s.setChan c x).out = s.out := rfl
@[simp] theorem State.setChan_pending (s : State) (c : Nat) (x : Chan) : (s.setChan c x).pending = s.pending := rfl

/-! ### `State.setMover` -/

@[simp] theorem State.setMover_now (s : State) (m : Nat) (x : Mover) : (s.setMover m x).now = s.now := rfl
@[simp] theorem State.setMover_free (s : State) (m : Nat) (x : Mover) : (s.setMover m x).free = s.free := rfl
@[simp] theorem State.setMover_host (s : State) (m : Nat) (x : Mover) : (s.setMover m x).host = s.host := rfl
@[simp] theorem State.setMover_power (s : State) (m : Nat) (x : Mover) : (s.setMover m x).power = s.power := rfl
@[simp] theorem State.setMover_mem (s : State) (m : Nat) (x : Mover) : (s.setMover m x).mem = s.mem := rfl
@[simp] theorem State.setMover_boot (s : State) (m : Nat) (x : Mover) : (s.setMover m x).boot = s.boot := rfl
@[simp] theorem State.setMover_err (s : State) (m : Nat) (x : Mover) : (s.setMover m x).err = s.err := rfl
@[simp] theorem State.setMover_evt (s : State) (m : Nat) (x : Mover) : (s.setMover m x).evt = s.evt := rfl
@[simp] theorem State.setMover_module (s : State) (m : Nat) (x : Mover) : (s.setMover m x).module_ = s.module_ := rfl
@[simp] theorem State.setMover_insts (s : State) (m : Nat) (x : Mover) : (s.setMover m x).insts = s.insts := rfl
@[simp] theorem State.setMover_bounds (s : State) (m : Nat) (x : Mover) : (s.setMover m x).bounds = s.bounds := rfl
@[simp] theorem State.setMover_rings (s : State) (m : Nat) (x : Mover) : (s.setMover m x).rings = s.rings := rfl
@[simp] theorem State.setMover_dechan (s : State) (m : Nat) (x : Mover) : (s.setMover m x).dechan = s.dechan := rfl
@[simp] theorem State.setMover_mig (s : State) (m : Nat) (x : Mover) : (s.setMover m x).mig = s.mig := rfl
@[simp] theorem State.setMover_time (s : State) (m : Nat) (x : Mover) : (s.setMover m x).time = s.time := rfl
@[simp] theorem State.setMover_flow (s : State) (m : Nat) (x : Mover) : (s.setMover m x).flow = s.flow := rfl
@[simp] theorem State.setMover_cls (s : State) (m : Nat) (x : Mover) : (s.setMover m x).cls = s.cls := rfl
@[simp] theorem State.setMover_sw (s : State) (m : Nat) (x : Mover) : (s.setMover m x).sw = s.sw := rfl
@[simp] theorem State.setMover_sched (s : State) (m : Nat) (x : Mover) : (s.setMover m x).sched = s.sched := rfl
@[simp] theorem State.setMover_ciph (s : State) (m : Nat) (x : Mover) : (s.setMover m x).ciph = s.ciph := rfl
@[simp] theorem State.setMover_ports (s : State) (m : Nat) (x : Mover) : (s.setMover m x).ports = s.ports := rfl
@[simp] theorem State.setMover_alm (s : State) (m : Nat) (x : Mover) : (s.setMover m x).alm = s.alm := rfl
@[simp] theorem State.setMover_reflex (s : State) (m : Nat) (x : Mover) : (s.setMover m x).reflex = s.reflex := rfl
@[simp] theorem State.setMover_recd (s : State) (m : Nat) (x : Mover) : (s.setMover m x).recd = s.recd := rfl
@[simp] theorem State.setMover_helm (s : State) (m : Nat) (x : Mover) : (s.setMover m x).helm = { s.helm with movers := s.helm.movers.set m x } := rfl
@[simp] theorem State.setMover_dram (s : State) (m : Nat) (x : Mover) : (s.setMover m x).dram = s.dram := rfl
@[simp] theorem State.setMover_snap (s : State) (m : Nat) (x : Mover) : (s.setMover m x).snap = s.snap := rfl
@[simp] theorem State.setMover_out (s : State) (m : Nat) (x : Mover) : (s.setMover m x).out = s.out := rfl
@[simp] theorem State.setMover_pending (s : State) (m : Nat) (x : Mover) : (s.setMover m x).pending = s.pending := rfl

/-! ### `State.setConn` -/

@[simp] theorem State.setConn_now (s : State) (k : Nat) (c : Conn) : (s.setConn k c).now = s.now := rfl
@[simp] theorem State.setConn_free (s : State) (k : Nat) (c : Conn) : (s.setConn k c).free = s.free := rfl
@[simp] theorem State.setConn_host (s : State) (k : Nat) (c : Conn) : (s.setConn k c).host = s.host := rfl
@[simp] theorem State.setConn_power (s : State) (k : Nat) (c : Conn) : (s.setConn k c).power = s.power := rfl
@[simp] theorem State.setConn_mem (s : State) (k : Nat) (c : Conn) : (s.setConn k c).mem = s.mem := rfl
@[simp] theorem State.setConn_boot (s : State) (k : Nat) (c : Conn) : (s.setConn k c).boot = s.boot := rfl
@[simp] theorem State.setConn_err (s : State) (k : Nat) (c : Conn) : (s.setConn k c).err = s.err := rfl
@[simp] theorem State.setConn_evt (s : State) (k : Nat) (c : Conn) : (s.setConn k c).evt = s.evt := rfl
@[simp] theorem State.setConn_module (s : State) (k : Nat) (c : Conn) : (s.setConn k c).module_ = s.module_ := rfl
@[simp] theorem State.setConn_insts (s : State) (k : Nat) (c : Conn) : (s.setConn k c).insts = s.insts := rfl
@[simp] theorem State.setConn_bounds (s : State) (k : Nat) (c : Conn) : (s.setConn k c).bounds = s.bounds := rfl
@[simp] theorem State.setConn_rings (s : State) (k : Nat) (c : Conn) : (s.setConn k c).rings = s.rings := rfl
@[simp] theorem State.setConn_dechan (s : State) (k : Nat) (c : Conn) : (s.setConn k c).dechan = s.dechan := rfl
@[simp] theorem State.setConn_mig (s : State) (k : Nat) (c : Conn) : (s.setConn k c).mig = s.mig := rfl
@[simp] theorem State.setConn_time (s : State) (k : Nat) (c : Conn) : (s.setConn k c).time = s.time := rfl
@[simp] theorem State.setConn_flow (s : State) (k : Nat) (c : Conn) : (s.setConn k c).flow = s.flow := rfl
@[simp] theorem State.setConn_cls (s : State) (k : Nat) (c : Conn) : (s.setConn k c).cls = s.cls := rfl
@[simp] theorem State.setConn_sw (s : State) (k : Nat) (c : Conn) : (s.setConn k c).sw = s.sw := rfl
@[simp] theorem State.setConn_sched (s : State) (k : Nat) (c : Conn) : (s.setConn k c).sched = s.sched := rfl
@[simp] theorem State.setConn_ciph (s : State) (k : Nat) (c : Conn) : (s.setConn k c).ciph = s.ciph := rfl
@[simp] theorem State.setConn_ports (s : State) (k : Nat) (c : Conn) : (s.setConn k c).ports = s.ports := rfl
@[simp] theorem State.setConn_alm (s : State) (k : Nat) (c : Conn) : (s.setConn k c).alm = s.alm := rfl
@[simp] theorem State.setConn_reflex (s : State) (k : Nat) (c : Conn) : (s.setConn k c).reflex = s.reflex := rfl
@[simp] theorem State.setConn_recd (s : State) (k : Nat) (c : Conn) : (s.setConn k c).recd = { s.recd with conns := s.recd.conns.put k c } := rfl
@[simp] theorem State.setConn_helm (s : State) (k : Nat) (c : Conn) : (s.setConn k c).helm = s.helm := rfl
@[simp] theorem State.setConn_dram (s : State) (k : Nat) (c : Conn) : (s.setConn k c).dram = s.dram := rfl
@[simp] theorem State.setConn_snap (s : State) (k : Nat) (c : Conn) : (s.setConn k c).snap = s.snap := rfl
@[simp] theorem State.setConn_out (s : State) (k : Nat) (c : Conn) : (s.setConn k c).out = s.out := rfl
@[simp] theorem State.setConn_pending (s : State) (k : Nat) (c : Conn) : (s.setConn k c).pending = s.pending := rfl

/-! ### `State.setInst` -/

@[simp] theorem State.setInst_now (s : State) (i : Nat) (x : Inst) : (s.setInst i x).now = s.now := rfl
@[simp] theorem State.setInst_free (s : State) (i : Nat) (x : Inst) : (s.setInst i x).free = s.free := rfl
@[simp] theorem State.setInst_host (s : State) (i : Nat) (x : Inst) : (s.setInst i x).host = s.host := rfl
@[simp] theorem State.setInst_power (s : State) (i : Nat) (x : Inst) : (s.setInst i x).power = s.power := rfl
@[simp] theorem State.setInst_mem (s : State) (i : Nat) (x : Inst) : (s.setInst i x).mem = s.mem := rfl
@[simp] theorem State.setInst_boot (s : State) (i : Nat) (x : Inst) : (s.setInst i x).boot = s.boot := rfl
@[simp] theorem State.setInst_err (s : State) (i : Nat) (x : Inst) : (s.setInst i x).err = s.err := rfl
@[simp] theorem State.setInst_evt (s : State) (i : Nat) (x : Inst) : (s.setInst i x).evt = s.evt := rfl
@[simp] theorem State.setInst_module (s : State) (i : Nat) (x : Inst) : (s.setInst i x).module_ = s.module_ := rfl
@[simp] theorem State.setInst_insts (s : State) (i : Nat) (x : Inst) : (s.setInst i x).insts = s.insts.put i x := rfl
@[simp] theorem State.setInst_bounds (s : State) (i : Nat) (x : Inst) : (s.setInst i x).bounds = s.bounds := rfl
@[simp] theorem State.setInst_rings (s : State) (i : Nat) (x : Inst) : (s.setInst i x).rings = s.rings := rfl
@[simp] theorem State.setInst_dechan (s : State) (i : Nat) (x : Inst) : (s.setInst i x).dechan = s.dechan := rfl
@[simp] theorem State.setInst_mig (s : State) (i : Nat) (x : Inst) : (s.setInst i x).mig = s.mig := rfl
@[simp] theorem State.setInst_time (s : State) (i : Nat) (x : Inst) : (s.setInst i x).time = s.time := rfl
@[simp] theorem State.setInst_flow (s : State) (i : Nat) (x : Inst) : (s.setInst i x).flow = s.flow := rfl
@[simp] theorem State.setInst_cls (s : State) (i : Nat) (x : Inst) : (s.setInst i x).cls = s.cls := rfl
@[simp] theorem State.setInst_sw (s : State) (i : Nat) (x : Inst) : (s.setInst i x).sw = s.sw := rfl
@[simp] theorem State.setInst_sched (s : State) (i : Nat) (x : Inst) : (s.setInst i x).sched = s.sched := rfl
@[simp] theorem State.setInst_ciph (s : State) (i : Nat) (x : Inst) : (s.setInst i x).ciph = s.ciph := rfl
@[simp] theorem State.setInst_ports (s : State) (i : Nat) (x : Inst) : (s.setInst i x).ports = s.ports := rfl
@[simp] theorem State.setInst_alm (s : State) (i : Nat) (x : Inst) : (s.setInst i x).alm = s.alm := rfl
@[simp] theorem State.setInst_reflex (s : State) (i : Nat) (x : Inst) : (s.setInst i x).reflex = s.reflex := rfl
@[simp] theorem State.setInst_recd (s : State) (i : Nat) (x : Inst) : (s.setInst i x).recd = s.recd := rfl
@[simp] theorem State.setInst_helm (s : State) (i : Nat) (x : Inst) : (s.setInst i x).helm = s.helm := rfl
@[simp] theorem State.setInst_dram (s : State) (i : Nat) (x : Inst) : (s.setInst i x).dram = s.dram := rfl
@[simp] theorem State.setInst_snap (s : State) (i : Nat) (x : Inst) : (s.setInst i x).snap = s.snap := rfl
@[simp] theorem State.setInst_out (s : State) (i : Nat) (x : Inst) : (s.setInst i x).out = s.out := rfl
@[simp] theorem State.setInst_pending (s : State) (i : Nat) (x : Inst) : (s.setInst i x).pending = s.pending := rfl

/-! ### `State.setRing` -/

@[simp] theorem State.setRing_now (s : State) (r : Nat) (x : Ring) : (s.setRing r x).now = s.now := rfl
@[simp] theorem State.setRing_free (s : State) (r : Nat) (x : Ring) : (s.setRing r x).free = s.free := rfl
@[simp] theorem State.setRing_host (s : State) (r : Nat) (x : Ring) : (s.setRing r x).host = s.host := rfl
@[simp] theorem State.setRing_power (s : State) (r : Nat) (x : Ring) : (s.setRing r x).power = s.power := rfl
@[simp] theorem State.setRing_mem (s : State) (r : Nat) (x : Ring) : (s.setRing r x).mem = s.mem := rfl
@[simp] theorem State.setRing_boot (s : State) (r : Nat) (x : Ring) : (s.setRing r x).boot = s.boot := rfl
@[simp] theorem State.setRing_err (s : State) (r : Nat) (x : Ring) : (s.setRing r x).err = s.err := rfl
@[simp] theorem State.setRing_evt (s : State) (r : Nat) (x : Ring) : (s.setRing r x).evt = s.evt := rfl
@[simp] theorem State.setRing_module (s : State) (r : Nat) (x : Ring) : (s.setRing r x).module_ = s.module_ := rfl
@[simp] theorem State.setRing_insts (s : State) (r : Nat) (x : Ring) : (s.setRing r x).insts = s.insts := rfl
@[simp] theorem State.setRing_bounds (s : State) (r : Nat) (x : Ring) : (s.setRing r x).bounds = s.bounds := rfl
@[simp] theorem State.setRing_rings (s : State) (r : Nat) (x : Ring) : (s.setRing r x).rings = s.rings.put r x := rfl
@[simp] theorem State.setRing_dechan (s : State) (r : Nat) (x : Ring) : (s.setRing r x).dechan = s.dechan := rfl
@[simp] theorem State.setRing_mig (s : State) (r : Nat) (x : Ring) : (s.setRing r x).mig = s.mig := rfl
@[simp] theorem State.setRing_time (s : State) (r : Nat) (x : Ring) : (s.setRing r x).time = s.time := rfl
@[simp] theorem State.setRing_flow (s : State) (r : Nat) (x : Ring) : (s.setRing r x).flow = s.flow := rfl
@[simp] theorem State.setRing_cls (s : State) (r : Nat) (x : Ring) : (s.setRing r x).cls = s.cls := rfl
@[simp] theorem State.setRing_sw (s : State) (r : Nat) (x : Ring) : (s.setRing r x).sw = s.sw := rfl
@[simp] theorem State.setRing_sched (s : State) (r : Nat) (x : Ring) : (s.setRing r x).sched = s.sched := rfl
@[simp] theorem State.setRing_ciph (s : State) (r : Nat) (x : Ring) : (s.setRing r x).ciph = s.ciph := rfl
@[simp] theorem State.setRing_ports (s : State) (r : Nat) (x : Ring) : (s.setRing r x).ports = s.ports := rfl
@[simp] theorem State.setRing_alm (s : State) (r : Nat) (x : Ring) : (s.setRing r x).alm = s.alm := rfl
@[simp] theorem State.setRing_reflex (s : State) (r : Nat) (x : Ring) : (s.setRing r x).reflex = s.reflex := rfl
@[simp] theorem State.setRing_recd (s : State) (r : Nat) (x : Ring) : (s.setRing r x).recd = s.recd := rfl
@[simp] theorem State.setRing_helm (s : State) (r : Nat) (x : Ring) : (s.setRing r x).helm = s.helm := rfl
@[simp] theorem State.setRing_dram (s : State) (r : Nat) (x : Ring) : (s.setRing r x).dram = s.dram := rfl
@[simp] theorem State.setRing_snap (s : State) (r : Nat) (x : Ring) : (s.setRing r x).snap = s.snap := rfl
@[simp] theorem State.setRing_out (s : State) (r : Nat) (x : Ring) : (s.setRing r x).out = s.out := rfl
@[simp] theorem State.setRing_pending (s : State) (r : Nat) (x : Ring) : (s.setRing r x).pending = s.pending := rfl

/-! ### `State.setNode` -/

@[simp] theorem State.setNode_now (s : State) (id : Nat) (n : Node) : (s.setNode id n).now = s.now := rfl
@[simp] theorem State.setNode_free (s : State) (id : Nat) (n : Node) : (s.setNode id n).free = s.free := rfl
@[simp] theorem State.setNode_host (s : State) (id : Nat) (n : Node) : (s.setNode id n).host = s.host := rfl
@[simp] theorem State.setNode_power (s : State) (id : Nat) (n : Node) : (s.setNode id n).power = s.power := rfl
@[simp] theorem State.setNode_mem (s : State) (id : Nat) (n : Node) : (s.setNode id n).mem = s.mem := rfl
@[simp] theorem State.setNode_boot (s : State) (id : Nat) (n : Node) : (s.setNode id n).boot = s.boot := rfl
@[simp] theorem State.setNode_err (s : State) (id : Nat) (n : Node) : (s.setNode id n).err = s.err := rfl
@[simp] theorem State.setNode_evt (s : State) (id : Nat) (n : Node) : (s.setNode id n).evt = s.evt := rfl
@[simp] theorem State.setNode_module (s : State) (id : Nat) (n : Node) : (s.setNode id n).module_ = s.module_ := rfl
@[simp] theorem State.setNode_insts (s : State) (id : Nat) (n : Node) : (s.setNode id n).insts = s.insts := rfl
@[simp] theorem State.setNode_bounds (s : State) (id : Nat) (n : Node) : (s.setNode id n).bounds = s.bounds := rfl
@[simp] theorem State.setNode_rings (s : State) (id : Nat) (n : Node) : (s.setNode id n).rings = s.rings := rfl
@[simp] theorem State.setNode_dechan (s : State) (id : Nat) (n : Node) : (s.setNode id n).dechan = s.dechan := rfl
@[simp] theorem State.setNode_mig (s : State) (id : Nat) (n : Node) : (s.setNode id n).mig = s.mig := rfl
@[simp] theorem State.setNode_time (s : State) (id : Nat) (n : Node) : (s.setNode id n).time = s.time := rfl
@[simp] theorem State.setNode_flow (s : State) (id : Nat) (n : Node) : (s.setNode id n).flow = s.flow := rfl
@[simp] theorem State.setNode_cls (s : State) (id : Nat) (n : Node) : (s.setNode id n).cls = s.cls := rfl
@[simp] theorem State.setNode_sw (s : State) (id : Nat) (n : Node) : (s.setNode id n).sw = s.sw := rfl
@[simp] theorem State.setNode_sched (s : State) (id : Nat) (n : Node) : (s.setNode id n).sched = { s.sched with nodes := s.sched.nodes.put id n } := rfl
@[simp] theorem State.setNode_ciph (s : State) (id : Nat) (n : Node) : (s.setNode id n).ciph = s.ciph := rfl
@[simp] theorem State.setNode_ports (s : State) (id : Nat) (n : Node) : (s.setNode id n).ports = s.ports := rfl
@[simp] theorem State.setNode_alm (s : State) (id : Nat) (n : Node) : (s.setNode id n).alm = s.alm := rfl
@[simp] theorem State.setNode_reflex (s : State) (id : Nat) (n : Node) : (s.setNode id n).reflex = s.reflex := rfl
@[simp] theorem State.setNode_recd (s : State) (id : Nat) (n : Node) : (s.setNode id n).recd = s.recd := rfl
@[simp] theorem State.setNode_helm (s : State) (id : Nat) (n : Node) : (s.setNode id n).helm = s.helm := rfl
@[simp] theorem State.setNode_dram (s : State) (id : Nat) (n : Node) : (s.setNode id n).dram = s.dram := rfl
@[simp] theorem State.setNode_snap (s : State) (id : Nat) (n : Node) : (s.setNode id n).snap = s.snap := rfl
@[simp] theorem State.setNode_out (s : State) (id : Nat) (n : Node) : (s.setNode id n).out = s.out := rfl
@[simp] theorem State.setNode_pending (s : State) (id : Nat) (n : Node) : (s.setNode id n).pending = s.pending := rfl

/-! ### `State.setTokens` -/

@[simp] theorem State.setTokens_now (s : State) (t : Nat) : (s.setTokens t).now = s.now := rfl
@[simp] theorem State.setTokens_free (s : State) (t : Nat) : (s.setTokens t).free = s.free := rfl
@[simp] theorem State.setTokens_host (s : State) (t : Nat) : (s.setTokens t).host = s.host := rfl
@[simp] theorem State.setTokens_power (s : State) (t : Nat) : (s.setTokens t).power = s.power := rfl
@[simp] theorem State.setTokens_mem (s : State) (t : Nat) : (s.setTokens t).mem = s.mem := rfl
@[simp] theorem State.setTokens_boot (s : State) (t : Nat) : (s.setTokens t).boot = s.boot := rfl
@[simp] theorem State.setTokens_err (s : State) (t : Nat) : (s.setTokens t).err = s.err := rfl
@[simp] theorem State.setTokens_evt (s : State) (t : Nat) : (s.setTokens t).evt = s.evt := rfl
@[simp] theorem State.setTokens_module (s : State) (t : Nat) : (s.setTokens t).module_ = s.module_ := rfl
@[simp] theorem State.setTokens_insts (s : State) (t : Nat) : (s.setTokens t).insts = s.insts := rfl
@[simp] theorem State.setTokens_bounds (s : State) (t : Nat) : (s.setTokens t).bounds = s.bounds := rfl
@[simp] theorem State.setTokens_rings (s : State) (t : Nat) : (s.setTokens t).rings = s.rings := rfl
@[simp] theorem State.setTokens_dechan (s : State) (t : Nat) : (s.setTokens t).dechan = s.dechan := rfl
@[simp] theorem State.setTokens_mig (s : State) (t : Nat) : (s.setTokens t).mig = s.mig := rfl
@[simp] theorem State.setTokens_time (s : State) (t : Nat) : (s.setTokens t).time = s.time := rfl
@[simp] theorem State.setTokens_flow (s : State) (t : Nat) : (s.setTokens t).flow = s.flow := rfl
@[simp] theorem State.setTokens_cls (s : State) (t : Nat) : (s.setTokens t).cls = s.cls := rfl
@[simp] theorem State.setTokens_sw (s : State) (t : Nat) : (s.setTokens t).sw = { s.sw with tokens := t, tokensAt := s.now } := rfl
@[simp] theorem State.setTokens_sched (s : State) (t : Nat) : (s.setTokens t).sched = s.sched := rfl
@[simp] theorem State.setTokens_ciph (s : State) (t : Nat) : (s.setTokens t).ciph = s.ciph := rfl
@[simp] theorem State.setTokens_ports (s : State) (t : Nat) : (s.setTokens t).ports = s.ports := rfl
@[simp] theorem State.setTokens_alm (s : State) (t : Nat) : (s.setTokens t).alm = s.alm := rfl
@[simp] theorem State.setTokens_reflex (s : State) (t : Nat) : (s.setTokens t).reflex = s.reflex := rfl
@[simp] theorem State.setTokens_recd (s : State) (t : Nat) : (s.setTokens t).recd = s.recd := rfl
@[simp] theorem State.setTokens_helm (s : State) (t : Nat) : (s.setTokens t).helm = s.helm := rfl
@[simp] theorem State.setTokens_dram (s : State) (t : Nat) : (s.setTokens t).dram = s.dram := rfl
@[simp] theorem State.setTokens_snap (s : State) (t : Nat) : (s.setTokens t).snap = s.snap := rfl
@[simp] theorem State.setTokens_out (s : State) (t : Nat) : (s.setTokens t).out = s.out := rfl
@[simp] theorem State.setTokens_pending (s : State) (t : Nat) : (s.setTokens t).pending = s.pending := rfl

/-! ### `State.setDom` -/

@[simp] theorem State.setDom_now (s : State) (d : Nat) (x : DomState) : (s.setDom d x).now = s.now := rfl
@[simp] theorem State.setDom_free (s : State) (d : Nat) (x : DomState) : (s.setDom d x).free = s.free := rfl
@[simp] theorem State.setDom_host (s : State) (d : Nat) (x : DomState) : (s.setDom d x).host = s.host := rfl
@[simp] theorem State.setDom_power (s : State) (d : Nat) (x : DomState) : (s.setDom d x).power = { s.power with dom := s.power.dom.set d x } := rfl
@[simp] theorem State.setDom_mem (s : State) (d : Nat) (x : DomState) : (s.setDom d x).mem = s.mem := rfl
@[simp] theorem State.setDom_boot (s : State) (d : Nat) (x : DomState) : (s.setDom d x).boot = s.boot := rfl
@[simp] theorem State.setDom_err (s : State) (d : Nat) (x : DomState) : (s.setDom d x).err = s.err := rfl
@[simp] theorem State.setDom_evt (s : State) (d : Nat) (x : DomState) : (s.setDom d x).evt = s.evt := rfl
@[simp] theorem State.setDom_module (s : State) (d : Nat) (x : DomState) : (s.setDom d x).module_ = s.module_ := rfl
@[simp] theorem State.setDom_insts (s : State) (d : Nat) (x : DomState) : (s.setDom d x).insts = s.insts := rfl
@[simp] theorem State.setDom_bounds (s : State) (d : Nat) (x : DomState) : (s.setDom d x).bounds = s.bounds := rfl
@[simp] theorem State.setDom_rings (s : State) (d : Nat) (x : DomState) : (s.setDom d x).rings = s.rings := rfl
@[simp] theorem State.setDom_dechan (s : State) (d : Nat) (x : DomState) : (s.setDom d x).dechan = s.dechan := rfl
@[simp] theorem State.setDom_mig (s : State) (d : Nat) (x : DomState) : (s.setDom d x).mig = s.mig := rfl
@[simp] theorem State.setDom_time (s : State) (d : Nat) (x : DomState) : (s.setDom d x).time = s.time := rfl
@[simp] theorem State.setDom_flow (s : State) (d : Nat) (x : DomState) : (s.setDom d x).flow = s.flow := rfl
@[simp] theorem State.setDom_cls (s : State) (d : Nat) (x : DomState) : (s.setDom d x).cls = s.cls := rfl
@[simp] theorem State.setDom_sw (s : State) (d : Nat) (x : DomState) : (s.setDom d x).sw = s.sw := rfl
@[simp] theorem State.setDom_sched (s : State) (d : Nat) (x : DomState) : (s.setDom d x).sched = s.sched := rfl
@[simp] theorem State.setDom_ciph (s : State) (d : Nat) (x : DomState) : (s.setDom d x).ciph = s.ciph := rfl
@[simp] theorem State.setDom_ports (s : State) (d : Nat) (x : DomState) : (s.setDom d x).ports = s.ports := rfl
@[simp] theorem State.setDom_alm (s : State) (d : Nat) (x : DomState) : (s.setDom d x).alm = s.alm := rfl
@[simp] theorem State.setDom_reflex (s : State) (d : Nat) (x : DomState) : (s.setDom d x).reflex = s.reflex := rfl
@[simp] theorem State.setDom_recd (s : State) (d : Nat) (x : DomState) : (s.setDom d x).recd = s.recd := rfl
@[simp] theorem State.setDom_helm (s : State) (d : Nat) (x : DomState) : (s.setDom d x).helm = s.helm := rfl
@[simp] theorem State.setDom_dram (s : State) (d : Nat) (x : DomState) : (s.setDom d x).dram = s.dram := rfl
@[simp] theorem State.setDom_snap (s : State) (d : Nat) (x : DomState) : (s.setDom d x).snap = s.snap := rfl
@[simp] theorem State.setDom_out (s : State) (d : Nat) (x : DomState) : (s.setDom d x).out = s.out := rfl
@[simp] theorem State.setDom_pending (s : State) (d : Nat) (x : DomState) : (s.setDom d x).pending = s.pending := rfl

/-! ### `State.setSlot` -/

@[simp] theorem State.setSlot_now (s : State) (k : Nat) (x : Slot) : (s.setSlot k x).now = s.now := rfl
@[simp] theorem State.setSlot_free (s : State) (k : Nat) (x : Slot) : (s.setSlot k x).free = s.free := rfl
@[simp] theorem State.setSlot_host (s : State) (k : Nat) (x : Slot) : (s.setSlot k x).host = s.host := rfl
@[simp] theorem State.setSlot_power (s : State) (k : Nat) (x : Slot) : (s.setSlot k x).power = s.power := rfl
@[simp] theorem State.setSlot_mem (s : State) (k : Nat) (x : Slot) : (s.setSlot k x).mem = s.mem := rfl
@[simp] theorem State.setSlot_boot (s : State) (k : Nat) (x : Slot) : (s.setSlot k x).boot = s.boot := rfl
@[simp] theorem State.setSlot_err (s : State) (k : Nat) (x : Slot) : (s.setSlot k x).err = s.err := rfl
@[simp] theorem State.setSlot_evt (s : State) (k : Nat) (x : Slot) : (s.setSlot k x).evt = s.evt := rfl
@[simp] theorem State.setSlot_module (s : State) (k : Nat) (x : Slot) : (s.setSlot k x).module_ = s.module_ := rfl
@[simp] theorem State.setSlot_insts (s : State) (k : Nat) (x : Slot) : (s.setSlot k x).insts = s.insts := rfl
@[simp] theorem State.setSlot_bounds (s : State) (k : Nat) (x : Slot) : (s.setSlot k x).bounds = s.bounds := rfl
@[simp] theorem State.setSlot_rings (s : State) (k : Nat) (x : Slot) : (s.setSlot k x).rings = s.rings := rfl
@[simp] theorem State.setSlot_dechan (s : State) (k : Nat) (x : Slot) : (s.setSlot k x).dechan = s.dechan := rfl
@[simp] theorem State.setSlot_mig (s : State) (k : Nat) (x : Slot) : (s.setSlot k x).mig = s.mig := rfl
@[simp] theorem State.setSlot_time (s : State) (k : Nat) (x : Slot) : (s.setSlot k x).time = s.time := rfl
@[simp] theorem State.setSlot_flow (s : State) (k : Nat) (x : Slot) : (s.setSlot k x).flow = s.flow := rfl
@[simp] theorem State.setSlot_cls (s : State) (k : Nat) (x : Slot) : (s.setSlot k x).cls = s.cls := rfl
@[simp] theorem State.setSlot_sw (s : State) (k : Nat) (x : Slot) : (s.setSlot k x).sw = s.sw := rfl
@[simp] theorem State.setSlot_sched (s : State) (k : Nat) (x : Slot) : (s.setSlot k x).sched = s.sched := rfl
@[simp] theorem State.setSlot_ciph (s : State) (k : Nat) (x : Slot) : (s.setSlot k x).ciph = s.ciph := rfl
@[simp] theorem State.setSlot_ports (s : State) (k : Nat) (x : Slot) : (s.setSlot k x).ports = s.ports := rfl
@[simp] theorem State.setSlot_alm (s : State) (k : Nat) (x : Slot) : (s.setSlot k x).alm = s.alm := rfl
@[simp] theorem State.setSlot_reflex (s : State) (k : Nat) (x : Slot) : (s.setSlot k x).reflex = { s.reflex with slots := s.reflex.slots.put k x } := rfl
@[simp] theorem State.setSlot_recd (s : State) (k : Nat) (x : Slot) : (s.setSlot k x).recd = s.recd := rfl
@[simp] theorem State.setSlot_helm (s : State) (k : Nat) (x : Slot) : (s.setSlot k x).helm = s.helm := rfl
@[simp] theorem State.setSlot_dram (s : State) (k : Nat) (x : Slot) : (s.setSlot k x).dram = s.dram := rfl
@[simp] theorem State.setSlot_snap (s : State) (k : Nat) (x : Slot) : (s.setSlot k x).snap = s.snap := rfl
@[simp] theorem State.setSlot_out (s : State) (k : Nat) (x : Slot) : (s.setSlot k x).out = s.out := rfl
@[simp] theorem State.setSlot_pending (s : State) (k : Nat) (x : Slot) : (s.setSlot k x).pending = s.pending := rfl

/-! ### `State.setVote` -/

@[simp] theorem State.setVote_now (s : State) (holder d : Nat) (on : Bool) : (s.setVote holder d on).now = s.now := rfl
@[simp] theorem State.setVote_free (s : State) (holder d : Nat) (on : Bool) : (s.setVote holder d on).free = s.free := rfl
@[simp] theorem State.setVote_host (s : State) (holder d : Nat) (on : Bool) : (s.setVote holder d on).host = s.host := rfl
@[simp] theorem State.setVote_mem (s : State) (holder d : Nat) (on : Bool) : (s.setVote holder d on).mem = s.mem := rfl
@[simp] theorem State.setVote_boot (s : State) (holder d : Nat) (on : Bool) : (s.setVote holder d on).boot = s.boot := rfl
@[simp] theorem State.setVote_err (s : State) (holder d : Nat) (on : Bool) : (s.setVote holder d on).err = s.err := rfl
@[simp] theorem State.setVote_evt (s : State) (holder d : Nat) (on : Bool) : (s.setVote holder d on).evt = s.evt := rfl
@[simp] theorem State.setVote_module (s : State) (holder d : Nat) (on : Bool) : (s.setVote holder d on).module_ = s.module_ := rfl
@[simp] theorem State.setVote_insts (s : State) (holder d : Nat) (on : Bool) : (s.setVote holder d on).insts = s.insts := rfl
@[simp] theorem State.setVote_bounds (s : State) (holder d : Nat) (on : Bool) : (s.setVote holder d on).bounds = s.bounds := rfl
@[simp] theorem State.setVote_rings (s : State) (holder d : Nat) (on : Bool) : (s.setVote holder d on).rings = s.rings := rfl
@[simp] theorem State.setVote_dechan (s : State) (holder d : Nat) (on : Bool) : (s.setVote holder d on).dechan = s.dechan := rfl
@[simp] theorem State.setVote_mig (s : State) (holder d : Nat) (on : Bool) : (s.setVote holder d on).mig = s.mig := rfl
@[simp] theorem State.setVote_time (s : State) (holder d : Nat) (on : Bool) : (s.setVote holder d on).time = s.time := rfl
@[simp] theorem State.setVote_flow (s : State) (holder d : Nat) (on : Bool) : (s.setVote holder d on).flow = s.flow := rfl
@[simp] theorem State.setVote_cls (s : State) (holder d : Nat) (on : Bool) : (s.setVote holder d on).cls = s.cls := rfl
@[simp] theorem State.setVote_sw (s : State) (holder d : Nat) (on : Bool) : (s.setVote holder d on).sw = s.sw := rfl
@[simp] theorem State.setVote_sched (s : State) (holder d : Nat) (on : Bool) : (s.setVote holder d on).sched = s.sched := rfl
@[simp] theorem State.setVote_ciph (s : State) (holder d : Nat) (on : Bool) : (s.setVote holder d on).ciph = s.ciph := rfl
@[simp] theorem State.setVote_ports (s : State) (holder d : Nat) (on : Bool) : (s.setVote holder d on).ports = s.ports := rfl
@[simp] theorem State.setVote_alm (s : State) (holder d : Nat) (on : Bool) : (s.setVote holder d on).alm = s.alm := rfl
@[simp] theorem State.setVote_reflex (s : State) (holder d : Nat) (on : Bool) : (s.setVote holder d on).reflex = s.reflex := rfl
@[simp] theorem State.setVote_recd (s : State) (holder d : Nat) (on : Bool) : (s.setVote holder d on).recd = s.recd := rfl
@[simp] theorem State.setVote_helm (s : State) (holder d : Nat) (on : Bool) : (s.setVote holder d on).helm = s.helm := rfl
@[simp] theorem State.setVote_dram (s : State) (holder d : Nat) (on : Bool) : (s.setVote holder d on).dram = s.dram := rfl
@[simp] theorem State.setVote_snap (s : State) (holder d : Nat) (on : Bool) : (s.setVote holder d on).snap = s.snap := rfl
@[simp] theorem State.setVote_out (s : State) (holder d : Nat) (on : Bool) : (s.setVote holder d on).out = s.out := rfl
@[simp] theorem State.setVote_pending (s : State) (holder d : Nat) (on : Bool) : (s.setVote holder d on).pending = s.pending := rfl

/-! ### `State.setQueue` -/

@[simp] theorem State.setQueue_now (s : State) (q : Nat) (l : List Queued) : (s.setQueue q l).now = s.now := rfl
@[simp] theorem State.setQueue_free (s : State) (q : Nat) (l : List Queued) : (s.setQueue q l).free = s.free := rfl
@[simp] theorem State.setQueue_host (s : State) (q : Nat) (l : List Queued) : (s.setQueue q l).host = s.host := rfl
@[simp] theorem State.setQueue_power (s : State) (q : Nat) (l : List Queued) : (s.setQueue q l).power = s.power := rfl
@[simp] theorem State.setQueue_mem (s : State) (q : Nat) (l : List Queued) : (s.setQueue q l).mem = s.mem := rfl
@[simp] theorem State.setQueue_boot (s : State) (q : Nat) (l : List Queued) : (s.setQueue q l).boot = s.boot := rfl
@[simp] theorem State.setQueue_err (s : State) (q : Nat) (l : List Queued) : (s.setQueue q l).err = s.err := rfl
@[simp] theorem State.setQueue_evt (s : State) (q : Nat) (l : List Queued) : (s.setQueue q l).evt = s.evt := rfl
@[simp] theorem State.setQueue_module (s : State) (q : Nat) (l : List Queued) : (s.setQueue q l).module_ = s.module_ := rfl
@[simp] theorem State.setQueue_insts (s : State) (q : Nat) (l : List Queued) : (s.setQueue q l).insts = s.insts := rfl
@[simp] theorem State.setQueue_bounds (s : State) (q : Nat) (l : List Queued) : (s.setQueue q l).bounds = s.bounds := rfl
@[simp] theorem State.setQueue_rings (s : State) (q : Nat) (l : List Queued) : (s.setQueue q l).rings = s.rings := rfl
@[simp] theorem State.setQueue_dechan (s : State) (q : Nat) (l : List Queued) : (s.setQueue q l).dechan = s.dechan := rfl
@[simp] theorem State.setQueue_mig (s : State) (q : Nat) (l : List Queued) : (s.setQueue q l).mig = s.mig := rfl
@[simp] theorem State.setQueue_time (s : State) (q : Nat) (l : List Queued) : (s.setQueue q l).time = s.time := rfl
@[simp] theorem State.setQueue_flow (s : State) (q : Nat) (l : List Queued) : (s.setQueue q l).flow = s.flow := rfl
@[simp] theorem State.setQueue_cls (s : State) (q : Nat) (l : List Queued) : (s.setQueue q l).cls = s.cls := rfl
@[simp] theorem State.setQueue_sw (s : State) (q : Nat) (l : List Queued) : (s.setQueue q l).sw = s.sw := rfl
@[simp] theorem State.setQueue_ciph (s : State) (q : Nat) (l : List Queued) : (s.setQueue q l).ciph = s.ciph := rfl
@[simp] theorem State.setQueue_ports (s : State) (q : Nat) (l : List Queued) : (s.setQueue q l).ports = s.ports := rfl
@[simp] theorem State.setQueue_alm (s : State) (q : Nat) (l : List Queued) : (s.setQueue q l).alm = s.alm := rfl
@[simp] theorem State.setQueue_reflex (s : State) (q : Nat) (l : List Queued) : (s.setQueue q l).reflex = s.reflex := rfl
@[simp] theorem State.setQueue_recd (s : State) (q : Nat) (l : List Queued) : (s.setQueue q l).recd = s.recd := rfl
@[simp] theorem State.setQueue_helm (s : State) (q : Nat) (l : List Queued) : (s.setQueue q l).helm = s.helm := rfl
@[simp] theorem State.setQueue_dram (s : State) (q : Nat) (l : List Queued) : (s.setQueue q l).dram = s.dram := rfl
@[simp] theorem State.setQueue_snap (s : State) (q : Nat) (l : List Queued) : (s.setQueue q l).snap = s.snap := rfl
@[simp] theorem State.setQueue_out (s : State) (q : Nat) (l : List Queued) : (s.setQueue q l).out = s.out := rfl
@[simp] theorem State.setQueue_pending (s : State) (q : Nat) (l : List Queued) : (s.setQueue q l).pending = s.pending := rfl

/-! ### `State.updDelay` -/

@[simp] theorem State.updDelay_now (s : State) (p : Port) (f : RingDelay → RingDelay) : (s.updDelay p f).now = s.now := rfl
@[simp] theorem State.updDelay_free (s : State) (p : Port) (f : RingDelay → RingDelay) : (s.updDelay p f).free = s.free := rfl
@[simp] theorem State.updDelay_host (s : State) (p : Port) (f : RingDelay → RingDelay) : (s.updDelay p f).host = s.host := rfl
@[simp] theorem State.updDelay_power (s : State) (p : Port) (f : RingDelay → RingDelay) : (s.updDelay p f).power = s.power := rfl
@[simp] theorem State.updDelay_mem (s : State) (p : Port) (f : RingDelay → RingDelay) : (s.updDelay p f).mem = s.mem := rfl
@[simp] theorem State.updDelay_boot (s : State) (p : Port) (f : RingDelay → RingDelay) : (s.updDelay p f).boot = s.boot := rfl
@[simp] theorem State.updDelay_err (s : State) (p : Port) (f : RingDelay → RingDelay) : (s.updDelay p f).err = s.err := rfl
@[simp] theorem State.updDelay_evt (s : State) (p : Port) (f : RingDelay → RingDelay) : (s.updDelay p f).evt = s.evt := rfl
@[simp] theorem State.updDelay_module (s : State) (p : Port) (f : RingDelay → RingDelay) : (s.updDelay p f).module_ = s.module_ := rfl
@[simp] theorem State.updDelay_insts (s : State) (p : Port) (f : RingDelay → RingDelay) : (s.updDelay p f).insts = s.insts := rfl
@[simp] theorem State.updDelay_bounds (s : State) (p : Port) (f : RingDelay → RingDelay) : (s.updDelay p f).bounds = s.bounds := rfl
@[simp] theorem State.updDelay_rings (s : State) (p : Port) (f : RingDelay → RingDelay) : (s.updDelay p f).rings = s.rings := rfl
@[simp] theorem State.updDelay_dechan (s : State) (p : Port) (f : RingDelay → RingDelay) : (s.updDelay p f).dechan = s.dechan := rfl
@[simp] theorem State.updDelay_mig (s : State) (p : Port) (f : RingDelay → RingDelay) : (s.updDelay p f).mig = s.mig := rfl
@[simp] theorem State.updDelay_time (s : State) (p : Port) (f : RingDelay → RingDelay) : (s.updDelay p f).time = s.time := rfl
@[simp] theorem State.updDelay_flow (s : State) (p : Port) (f : RingDelay → RingDelay) : (s.updDelay p f).flow = s.flow := rfl
@[simp] theorem State.updDelay_cls (s : State) (p : Port) (f : RingDelay → RingDelay) : (s.updDelay p f).cls = s.cls := rfl
@[simp] theorem State.updDelay_sw (s : State) (p : Port) (f : RingDelay → RingDelay) : (s.updDelay p f).sw = s.sw := rfl
@[simp] theorem State.updDelay_sched (s : State) (p : Port) (f : RingDelay → RingDelay) : (s.updDelay p f).sched = s.sched := rfl
@[simp] theorem State.updDelay_ciph (s : State) (p : Port) (f : RingDelay → RingDelay) : (s.updDelay p f).ciph = s.ciph := rfl
@[simp] theorem State.updDelay_alm (s : State) (p : Port) (f : RingDelay → RingDelay) : (s.updDelay p f).alm = s.alm := rfl
@[simp] theorem State.updDelay_reflex (s : State) (p : Port) (f : RingDelay → RingDelay) : (s.updDelay p f).reflex = s.reflex := rfl
@[simp] theorem State.updDelay_recd (s : State) (p : Port) (f : RingDelay → RingDelay) : (s.updDelay p f).recd = s.recd := rfl
@[simp] theorem State.updDelay_helm (s : State) (p : Port) (f : RingDelay → RingDelay) : (s.updDelay p f).helm = s.helm := rfl
@[simp] theorem State.updDelay_dram (s : State) (p : Port) (f : RingDelay → RingDelay) : (s.updDelay p f).dram = s.dram := rfl
@[simp] theorem State.updDelay_snap (s : State) (p : Port) (f : RingDelay → RingDelay) : (s.updDelay p f).snap = s.snap := rfl
@[simp] theorem State.updDelay_out (s : State) (p : Port) (f : RingDelay → RingDelay) : (s.updDelay p f).out = s.out := rfl
@[simp] theorem State.updDelay_pending (s : State) (p : Port) (f : RingDelay → RingDelay) : (s.updDelay p f).pending = s.pending := rfl

/-! ### `State.updPtp` -/

@[simp] theorem State.updPtp_now (s : State) (p : Port) (f : PtpPort → PtpPort) : (s.updPtp p f).now = s.now := rfl
@[simp] theorem State.updPtp_free (s : State) (p : Port) (f : PtpPort → PtpPort) : (s.updPtp p f).free = s.free := rfl
@[simp] theorem State.updPtp_host (s : State) (p : Port) (f : PtpPort → PtpPort) : (s.updPtp p f).host = s.host := rfl
@[simp] theorem State.updPtp_power (s : State) (p : Port) (f : PtpPort → PtpPort) : (s.updPtp p f).power = s.power := rfl
@[simp] theorem State.updPtp_mem (s : State) (p : Port) (f : PtpPort → PtpPort) : (s.updPtp p f).mem = s.mem := rfl
@[simp] theorem State.updPtp_boot (s : State) (p : Port) (f : PtpPort → PtpPort) : (s.updPtp p f).boot = s.boot := rfl
@[simp] theorem State.updPtp_err (s : State) (p : Port) (f : PtpPort → PtpPort) : (s.updPtp p f).err = s.err := rfl
@[simp] theorem State.updPtp_evt (s : State) (p : Port) (f : PtpPort → PtpPort) : (s.updPtp p f).evt = s.evt := rfl
@[simp] theorem State.updPtp_module (s : State) (p : Port) (f : PtpPort → PtpPort) : (s.updPtp p f).module_ = s.module_ := rfl
@[simp] theorem State.updPtp_insts (s : State) (p : Port) (f : PtpPort → PtpPort) : (s.updPtp p f).insts = s.insts := rfl
@[simp] theorem State.updPtp_bounds (s : State) (p : Port) (f : PtpPort → PtpPort) : (s.updPtp p f).bounds = s.bounds := rfl
@[simp] theorem State.updPtp_rings (s : State) (p : Port) (f : PtpPort → PtpPort) : (s.updPtp p f).rings = s.rings := rfl
@[simp] theorem State.updPtp_dechan (s : State) (p : Port) (f : PtpPort → PtpPort) : (s.updPtp p f).dechan = s.dechan := rfl
@[simp] theorem State.updPtp_mig (s : State) (p : Port) (f : PtpPort → PtpPort) : (s.updPtp p f).mig = s.mig := rfl
@[simp] theorem State.updPtp_time (s : State) (p : Port) (f : PtpPort → PtpPort) : (s.updPtp p f).time = { s.time with ports := s.time.ports.modify p.num f } := rfl
@[simp] theorem State.updPtp_flow (s : State) (p : Port) (f : PtpPort → PtpPort) : (s.updPtp p f).flow = s.flow := rfl
@[simp] theorem State.updPtp_cls (s : State) (p : Port) (f : PtpPort → PtpPort) : (s.updPtp p f).cls = s.cls := rfl
@[simp] theorem State.updPtp_sw (s : State) (p : Port) (f : PtpPort → PtpPort) : (s.updPtp p f).sw = s.sw := rfl
@[simp] theorem State.updPtp_sched (s : State) (p : Port) (f : PtpPort → PtpPort) : (s.updPtp p f).sched = s.sched := rfl
@[simp] theorem State.updPtp_ciph (s : State) (p : Port) (f : PtpPort → PtpPort) : (s.updPtp p f).ciph = s.ciph := rfl
@[simp] theorem State.updPtp_ports (s : State) (p : Port) (f : PtpPort → PtpPort) : (s.updPtp p f).ports = s.ports := rfl
@[simp] theorem State.updPtp_alm (s : State) (p : Port) (f : PtpPort → PtpPort) : (s.updPtp p f).alm = s.alm := rfl
@[simp] theorem State.updPtp_reflex (s : State) (p : Port) (f : PtpPort → PtpPort) : (s.updPtp p f).reflex = s.reflex := rfl
@[simp] theorem State.updPtp_recd (s : State) (p : Port) (f : PtpPort → PtpPort) : (s.updPtp p f).recd = s.recd := rfl
@[simp] theorem State.updPtp_helm (s : State) (p : Port) (f : PtpPort → PtpPort) : (s.updPtp p f).helm = s.helm := rfl
@[simp] theorem State.updPtp_dram (s : State) (p : Port) (f : PtpPort → PtpPort) : (s.updPtp p f).dram = s.dram := rfl
@[simp] theorem State.updPtp_snap (s : State) (p : Port) (f : PtpPort → PtpPort) : (s.updPtp p f).snap = s.snap := rfl
@[simp] theorem State.updPtp_out (s : State) (p : Port) (f : PtpPort → PtpPort) : (s.updPtp p f).out = s.out := rfl
@[simp] theorem State.updPtp_pending (s : State) (p : Port) (f : PtpPort → PtpPort) : (s.updPtp p f).pending = s.pending := rfl

/-! ### `State.setMac` -/

@[simp] theorem State.setMac_now (s : State) (p : Port) (m : Mac) : (s.setMac p m).now = s.now := by cases p <;> rfl
@[simp] theorem State.setMac_free (s : State) (p : Port) (m : Mac) : (s.setMac p m).free = s.free := by cases p <;> rfl
@[simp] theorem State.setMac_host (s : State) (p : Port) (m : Mac) : (s.setMac p m).host = s.host := by cases p <;> rfl
@[simp] theorem State.setMac_power (s : State) (p : Port) (m : Mac) : (s.setMac p m).power = s.power := by cases p <;> rfl
@[simp] theorem State.setMac_mem (s : State) (p : Port) (m : Mac) : (s.setMac p m).mem = s.mem := by cases p <;> rfl
@[simp] theorem State.setMac_boot (s : State) (p : Port) (m : Mac) : (s.setMac p m).boot = s.boot := by cases p <;> rfl
@[simp] theorem State.setMac_err (s : State) (p : Port) (m : Mac) : (s.setMac p m).err = s.err := by cases p <;> rfl
@[simp] theorem State.setMac_evt (s : State) (p : Port) (m : Mac) : (s.setMac p m).evt = s.evt := by cases p <;> rfl
@[simp] theorem State.setMac_module (s : State) (p : Port) (m : Mac) : (s.setMac p m).module_ = s.module_ := by cases p <;> rfl
@[simp] theorem State.setMac_insts (s : State) (p : Port) (m : Mac) : (s.setMac p m).insts = s.insts := by cases p <;> rfl
@[simp] theorem State.setMac_bounds (s : State) (p : Port) (m : Mac) : (s.setMac p m).bounds = s.bounds := by cases p <;> rfl
@[simp] theorem State.setMac_rings (s : State) (p : Port) (m : Mac) : (s.setMac p m).rings = s.rings := by cases p <;> rfl
@[simp] theorem State.setMac_dechan (s : State) (p : Port) (m : Mac) : (s.setMac p m).dechan = s.dechan := by cases p <;> rfl
@[simp] theorem State.setMac_mig (s : State) (p : Port) (m : Mac) : (s.setMac p m).mig = s.mig := by cases p <;> rfl
@[simp] theorem State.setMac_time (s : State) (p : Port) (m : Mac) : (s.setMac p m).time = s.time := by cases p <;> rfl
@[simp] theorem State.setMac_flow (s : State) (p : Port) (m : Mac) : (s.setMac p m).flow = s.flow := by cases p <;> rfl
@[simp] theorem State.setMac_cls (s : State) (p : Port) (m : Mac) : (s.setMac p m).cls = s.cls := by cases p <;> rfl
@[simp] theorem State.setMac_sw (s : State) (p : Port) (m : Mac) : (s.setMac p m).sw = s.sw := by cases p <;> rfl
@[simp] theorem State.setMac_sched (s : State) (p : Port) (m : Mac) : (s.setMac p m).sched = s.sched := by cases p <;> rfl
@[simp] theorem State.setMac_ciph (s : State) (p : Port) (m : Mac) : (s.setMac p m).ciph = s.ciph := by cases p <;> rfl
@[simp] theorem State.setMac_alm (s : State) (p : Port) (m : Mac) : (s.setMac p m).alm = s.alm := by cases p <;> rfl
@[simp] theorem State.setMac_reflex (s : State) (p : Port) (m : Mac) : (s.setMac p m).reflex = s.reflex := by cases p <;> rfl
@[simp] theorem State.setMac_recd (s : State) (p : Port) (m : Mac) : (s.setMac p m).recd = s.recd := by cases p <;> rfl
@[simp] theorem State.setMac_helm (s : State) (p : Port) (m : Mac) : (s.setMac p m).helm = s.helm := by cases p <;> rfl
@[simp] theorem State.setMac_dram (s : State) (p : Port) (m : Mac) : (s.setMac p m).dram = s.dram := by cases p <;> rfl
@[simp] theorem State.setMac_snap (s : State) (p : Port) (m : Mac) : (s.setMac p m).snap = s.snap := by cases p <;> rfl
@[simp] theorem State.setMac_out (s : State) (p : Port) (m : Mac) : (s.setMac p m).out = s.out := by cases p <;> rfl
@[simp] theorem State.setMac_pending (s : State) (p : Port) (m : Mac) : (s.setMac p m).pending = s.pending := by cases p <;> rfl

/-! ### `State.setCfg` -/

@[simp] theorem State.setCfg_now (s : State) (fn : Fn) (c : CfgSpace) : (s.setCfg fn c).now = s.now := by cases fn <;> rfl
@[simp] theorem State.setCfg_free (s : State) (fn : Fn) (c : CfgSpace) : (s.setCfg fn c).free = s.free := by cases fn <;> rfl
@[simp] theorem State.setCfg_power (s : State) (fn : Fn) (c : CfgSpace) : (s.setCfg fn c).power = s.power := by cases fn <;> rfl
@[simp] theorem State.setCfg_mem (s : State) (fn : Fn) (c : CfgSpace) : (s.setCfg fn c).mem = s.mem := by cases fn <;> rfl
@[simp] theorem State.setCfg_boot (s : State) (fn : Fn) (c : CfgSpace) : (s.setCfg fn c).boot = s.boot := by cases fn <;> rfl
@[simp] theorem State.setCfg_err (s : State) (fn : Fn) (c : CfgSpace) : (s.setCfg fn c).err = s.err := by cases fn <;> rfl
@[simp] theorem State.setCfg_evt (s : State) (fn : Fn) (c : CfgSpace) : (s.setCfg fn c).evt = s.evt := by cases fn <;> rfl
@[simp] theorem State.setCfg_module (s : State) (fn : Fn) (c : CfgSpace) : (s.setCfg fn c).module_ = s.module_ := by cases fn <;> rfl
@[simp] theorem State.setCfg_insts (s : State) (fn : Fn) (c : CfgSpace) : (s.setCfg fn c).insts = s.insts := by cases fn <;> rfl
@[simp] theorem State.setCfg_bounds (s : State) (fn : Fn) (c : CfgSpace) : (s.setCfg fn c).bounds = s.bounds := by cases fn <;> rfl
@[simp] theorem State.setCfg_rings (s : State) (fn : Fn) (c : CfgSpace) : (s.setCfg fn c).rings = s.rings := by cases fn <;> rfl
@[simp] theorem State.setCfg_dechan (s : State) (fn : Fn) (c : CfgSpace) : (s.setCfg fn c).dechan = s.dechan := by cases fn <;> rfl
@[simp] theorem State.setCfg_mig (s : State) (fn : Fn) (c : CfgSpace) : (s.setCfg fn c).mig = s.mig := by cases fn <;> rfl
@[simp] theorem State.setCfg_time (s : State) (fn : Fn) (c : CfgSpace) : (s.setCfg fn c).time = s.time := by cases fn <;> rfl
@[simp] theorem State.setCfg_flow (s : State) (fn : Fn) (c : CfgSpace) : (s.setCfg fn c).flow = s.flow := by cases fn <;> rfl
@[simp] theorem State.setCfg_cls (s : State) (fn : Fn) (c : CfgSpace) : (s.setCfg fn c).cls = s.cls := by cases fn <;> rfl
@[simp] theorem State.setCfg_sw (s : State) (fn : Fn) (c : CfgSpace) : (s.setCfg fn c).sw = s.sw := by cases fn <;> rfl
@[simp] theorem State.setCfg_sched (s : State) (fn : Fn) (c : CfgSpace) : (s.setCfg fn c).sched = s.sched := by cases fn <;> rfl
@[simp] theorem State.setCfg_ciph (s : State) (fn : Fn) (c : CfgSpace) : (s.setCfg fn c).ciph = s.ciph := by cases fn <;> rfl
@[simp] theorem State.setCfg_ports (s : State) (fn : Fn) (c : CfgSpace) : (s.setCfg fn c).ports = s.ports := by cases fn <;> rfl
@[simp] theorem State.setCfg_alm (s : State) (fn : Fn) (c : CfgSpace) : (s.setCfg fn c).alm = s.alm := by cases fn <;> rfl
@[simp] theorem State.setCfg_reflex (s : State) (fn : Fn) (c : CfgSpace) : (s.setCfg fn c).reflex = s.reflex := by cases fn <;> rfl
@[simp] theorem State.setCfg_recd (s : State) (fn : Fn) (c : CfgSpace) : (s.setCfg fn c).recd = s.recd := by cases fn <;> rfl
@[simp] theorem State.setCfg_helm (s : State) (fn : Fn) (c : CfgSpace) : (s.setCfg fn c).helm = s.helm := by cases fn <;> rfl
@[simp] theorem State.setCfg_dram (s : State) (fn : Fn) (c : CfgSpace) : (s.setCfg fn c).dram = s.dram := by cases fn <;> rfl
@[simp] theorem State.setCfg_snap (s : State) (fn : Fn) (c : CfgSpace) : (s.setCfg fn c).snap = s.snap := by cases fn <;> rfl
@[simp] theorem State.setCfg_out (s : State) (fn : Fn) (c : CfgSpace) : (s.setCfg fn c).out = s.out := by cases fn <;> rfl
@[simp] theorem State.setCfg_pending (s : State) (fn : Fn) (c : CfgSpace) : (s.setCfg fn c).pending = s.pending := by cases fn <;> rfl

end Sys2Proof.Machine
end

