-- ==== Sys2Proof/Laws/Time.lean ====
section
/-!
SUPPORT. Laws/Time.lean: what a change of quality, a step and a switch-log entry do to the time base (chapter 03).
-/

set_option Elab.async false
namespace Sys2Proof.Machine

open Sys2Proof

/-- A switch-log entry changes the log and its next number, nothing else of the time base. -/
theorem swLogEntry_time (s : State) (cause : Nat) (step : Int) (oldIncr : Nat) :
    (s.swLogEntry cause step oldIncr).time = { s.time with
      swNext := s.time.swNext + 1
      swLog := s.time.swLog.put (s.time.swNext.toNat % 64)
        { sec := s.time.sec, seq := s.time.swNext.toNat, ns := s.time.ns, step := step, oldIncr := oldIncr
          newIncr := s.time.incr, cause := cause, source := s.time.source.code, quality := s.time.quality.code
          bound := s.time.bound } } := by
  simp [State.swLogEntry]

theorem swLogEntry_tbNs (s : State) (cause : Nat) (step : Int) (oldIncr : Nat) :
    (s.swLogEntry cause step oldIncr).tbNs = s.tbNs := by
  simp [State.swLogEntry, State.tbNs]

theorem swLogEntry_source (s : State) (cause : Nat) (step : Int) (oldIncr : Nat) :
    (s.swLogEntry cause step oldIncr).time.source = s.time.source := by
  rw [swLogEntry_time]

theorem swLogEntry_quality (s : State) (cause : Nat) (step : Int) (oldIncr : Nat) :
    (s.swLogEntry cause step oldIncr).time.quality = s.time.quality := by
  rw [swLogEntry_time]

theorem swLogEntry_bound (s : State) (cause : Nat) (step : Int) (oldIncr : Nat) :
    (s.swLogEntry cause step oldIncr).time.bound = s.time.bound := by
  rw [swLogEntry_time]

theorem swLogEntry_hostOk (s : State) (cause : Nat) (step : Int) (oldIncr : Nat) :
    (s.swLogEntry cause step oldIncr).time.hostOk = s.time.hostOk := by
  rw [swLogEntry_time]

theorem setQuality_quality (s : State) (q : Quality) (bound : Nat) : (s.setQuality q bound).time.quality = q := rfl

theorem setQuality_tbNs (s : State) (q : Quality) (bound : Nat) : (s.setQuality q bound).tbNs = s.tbNs := rfl

theorem setQuality_source (s : State) (q : Quality) (bound : Nat) : (s.setQuality q bound).time.source = s.time.source := rfl

theorem setQuality_hostOk (s : State) (q : Quality) (bound : Nat) : (s.setQuality q bound).time.hostOk = s.time.hostOk := rfl

theorem setQuality_bound (s : State) (q : Quality) (bound : Nat) :
    (s.setQuality q bound).time.bound = if q = .unknown then 0xFFFFFFFF else min boundMax bound := rfl

theorem setNs_ns (t : TimeSt) (n : Nat) (h : n / nsPerSec < 2 ^ 48) : (t.setNs n).sec * nsPerSec + (t.setNs n).ns = n := by
  simp only [TimeSt.setNs]
  rw [Nat.mod_eq_of_lt h, Nat.div_add_mod']

theorem timeStep_tbNs (s : State) (step : Int) (h : ((s.tbNs : Int) + step).toNat / nsPerSec < 2 ^ 48) :
    (s.timeStep step).tbNs = ((s.tbNs : Int) + step).toNat :=
  setNs_ns s.time _ h

theorem timeStep_quality (s : State) (step : Int) : (s.timeStep step).time.quality = s.time.quality := rfl

theorem applySet_quality (s : State) (ns bound : Nat) :
    (s.applySet ns bound).time.quality = if bound = 0xFFFFFFFF then .unknown else .holdover :=
  (swLogEntry_quality _ _ _ _).trans (setQuality_quality _ _ _)

theorem applySet_source (s : State) (ns bound : Nat) : (s.applySet ns bound).time.source = .host :=
  (swLogEntry_source _ _ _ _).trans (setQuality_source _ _ _)

theorem applySet_hostOk (s : State) (ns bound : Nat) : (s.applySet ns bound).time.hostOk = true :=
  (swLogEntry_hostOk _ _ _ _).trans (setQuality_hostOk _ _ _)

/-- One clock edge adds the increment, exactly (R65). -/
theorem edge_value (t : TimeSt) (h : (t.sec * nsPerSec + t.ns + (t.frac + t.incr) / 2 ^ 32) / nsPerSec < 2 ^ 48) :
    (t.edge.sec * nsPerSec + t.edge.ns) * 2 ^ 32 + t.edge.frac = (t.sec * nsPerSec + t.ns) * 2 ^ 32 + t.frac + t.incr := by
  simp only [TimeSt.edge, TimeSt.setNs]
  rw [Nat.mod_eq_of_lt h, Nat.div_add_mod']
  omega

theorem edge_incr (t : TimeSt) : t.edge.incr = t.incr := by cases t; rfl

theorem edge_quality (t : TimeSt) : t.edge.quality = t.quality := by cases t; rfl

theorem edge_bound (t : TimeSt) : t.edge.bound = t.bound := by cases t; rfl

end Sys2Proof.Machine
end

