-- ==== Sys2Proof/Tests/Slice0.lean ====
section
/-!
SUPPORT. Tests/Slice0.lean: tests of the model, and for every statement a state and operands that meet its hypotheses.
-/

set_option maxRecDepth 20000
set_option Elab.async false

namespace Sys2Proof.Tests

open Sys2Proof Sys2Proof.Machine

/-! ### Well-formedness: an ill-formed term for each check -/

/-- An entry with nothing wrong in it. -/
def goodCmd : Cmd :=
  { ring := .mgr 3, seq := 0, inst := 65535, paramLen := 4294967295, handle := 4294967295, flags := 0, addr := 18446744073709551615
    data := zeros 36, own := 0, buf := .timeout }

/-- Each field of an entry at the first value that does not fit. -/
def badCmds : List Cmd :=
  [{ goodCmd with ring := .mgr 4 }, { goodCmd with ring := .inst 512 }, { goodCmd with inst := 65536 },
    { goodCmd with paramLen := 4294967296 }, { goodCmd with handle := 4294967296 }, { goodCmd with addr := 18446744073709551616 },
    { goodCmd with data := zeros 35 }]

theorem test_wf_entry : goodCmd.wf = true ∧ badCmds.all (fun c => !c.wf) = true := by decide

theorem test_wf_entry_commands :
    ((
    [.ctxCreate, .ctxRekey, .ctxDestroy, .ctxQuery, .secLodestarLoad, .secAlarmClear, .clsBankConfig, .clsInsert,
    .clsDelete, .clsQuery, .pwrVote, .pwrQuery, .devWakeReport, .queueConfig, .queueEnable, .queueDrain,
    .queueDisable, .queueSetMode, .queueQuery, .instEnable, .instQuiesce, .instFreeze, .instResume, .instReset,
    .dirtyLogStart, .dirtyLogHarvest, .dirtyLogStop, .waypointSave, .secTransferKeyArm, .secTransferKeyDisarm,
    .secMeasureRead, .secMeasureRecheck, .devQuery, .devConfigure, .devResetUnit, .devHoveToEnter, .devHoveToLeave,
    .devHoveToStatus, .devLedgerAudit, .diagSnapshotRead, .diagSnapshotTake, .diagLoopback, .diagInject, .flowInsert,
    .flowWrite, .flowDelete, .flowQuery, .flowSwing, .flowReloadBank, .ringConfig, .svSubscribe, .svUnsubscribe,
    .almCreate, .almDestroy, .almWatch, .reflexLoad, .reflexArm, .reflexDisarm, .gooseSubscribe, .recConfig,
    .recTrigger, .recExportAttach, .recExportDetach, .recExportExport, .recExportRelease, .nvmetConnect,
    .nvmetConnectResync, .nvmetClose, .instSetShare, .schedNodeConfig, .schedMeterProfile, .schedMeterAssign,
    .schedMeterRead, .schedSoundingConfig, .timeConfig, .timeSet, .timeQuery, .secDebugChallenge, .secDebugGrant,
    .secDebugRevoke] : List (Cmd → Instr)).all (fun k => (k goodCmd).wf && badCmds.all (fun c => !(k c).wf))) = true := by decide +kernel

theorem test_wf_operands_1 :
    ([.keyDeriveDone 1048576, .keyUnwrapDone 1048576, .rawLockTake 128 0, .rawLockTake 0 4,
      .rawLaneGo 128 0 none (zeros 16) false, .rawLaneGo 0 4 none (zeros 16) false,
      .rawLaneGo 0 0 none (zeros 15) false, .rawLaneGo 0 0 (some (.label (zeros 31))) (zeros 16) false,
      .rawLaneGo 0 0 (some (.own (zeros 31))) (zeros 16) false, .rawLockRelease 128 0, .rawLockRelease 0 4,
      .rawHoldExpiry 4, .clsBlockMoveDone 32, .clsChartCheck ({ goodCmd with inst := 65536 }) [],
      .clsChartCheck goodCmd [(1048576, .timeout)], .clsChartRecheck 2048 .timeout, .configRequest .pf0 4096 none,
      .configRequest .pf0 0 (some (0, 16)), .alarmTrip 5 false, .droopTrip 12, .wakeSource 6, .pwrWake 16384,
      .domainStopEntry 14, .domainStopEntry 0, .domainStopSeal 14, .domainStopSeal 0] : List Instr).all (fun i => !i.wf) = true := by decide +kernel

theorem test_wf_operands_2 :
    ([.domainStart 14, .domainStart 0, .scrubPassEnd 4294967296 0, .scrubPassEnd 0 4294967296, .dramPanic 7 false 0,
      .barBadAccess .pf0 ⟨0, 0⟩ 4097 false, .barBadAccess .pf0 ⟨0, 1048576⟩ 0 false,
      .barBadAccess .pf0 ⟨2, 4194304⟩ 0 false, .barBadAccess .pf0 ⟨1, 0⟩ 0 false,
      .barBadAccess .pf1 ⟨0, 65536⟩ 0 false, .barBadAccess .pf1 ⟨2, 0⟩ 0 false,
      .peerRequest ⟨0, 17179869184, 0, none, false⟩, .peerRequest ⟨65536, 0, 0, none, false⟩,
      .peerRequest ⟨0, 0, 4097, none, false⟩, .winCommit 16, .hostCompletionRx 1024 0 .pf0 .sc (zeros 14) false,
      .hostCompletionRx 0 65536 .pf0 .sc (zeros 14) false, .completionTimeout 1024, .tagQuarantineEnd 1024,
      .atsInvalidate 4503599627370496 none, .msixUnmask .pf0 2112, .msixUnmask .pf1 16, .doorbell 8225 0,
      .descriptorFetch 8225, .txDescriptor 8225 .timeout .timeout false, .rxFrameDeliver 8225 []] : List Instr).all (fun i => !i.wf) = true := by decide +kernel

theorem test_wf_operands_3 :
    ([.registration 512 .timeout, .taggedCompletionResume 8225, .eventsLost 513, .intHoldoffExpiry 8225,
      .instCreate ({ goodCmd with inst := 65536 }) ⟨.timeout, .timeout⟩, .ringStopped 8225, .instQuiesceDone 512,
      .instQuiesceTimeout 512, .instDestroy ({ goodCmd with inst := 65536 }) ⟨.timeout, .timeout⟩, .mboxWrite 8 0,
      .mboxTake 8, .smboxWrite 4 0, .smboxTake 4, .boundsWrite 8225 0 ⟨.timeout, .timeout⟩,
      .boundsClear 8225 0 ⟨.timeout, .timeout⟩, .powerVote 8225 0 ⟨.timeout, .timeout⟩,
      .keyTransferWrap 8225 0 ⟨.timeout, .timeout⟩ 0, .keyTransferWrap 0 0 ⟨.timeout, .timeout⟩ 1048576,
      .unsupportedOpcode 65536 goodCmd, .unsupportedOpcode 0 ({ goodCmd with inst := 65536 }),
      .waypointRestore ({ goodCmd with inst := 65536 }) ⟨.timeout, .timeout⟩, .helmClockSwitch 8,
      .smbusRead 256 ⟨false, false⟩, .registerWrite .pf0 0 0 0 ⟨16, []⟩, .registerWrite .pf0 0 0 0 ⟨15, [(0, 16)]⟩,
      .registerWrite .pf0 0 0 0 ⟨15, List.replicate 16 (0, 0)⟩] : List Instr).all (fun i => !i.wf) = true := by decide +kernel

theorem test_wf_operands_4 :
    ([.registerWrite .pf0 0 1048576 0 ⟨15, []⟩, .registerWrite .pf0 2 4194304 0 ⟨15, []⟩,
      .registerWrite .pf0 1 0 0 ⟨15, []⟩, .registerWrite .pf1 0 65536 0 ⟨15, []⟩, .registerWrite .pf1 2 0 0 ⟨15, []⟩,
      .registerRead .pf0 0 ⟨1048576, false⟩, .registerRead .pf0 2 ⟨4194304, false⟩, .registerRead .pf0 1 ⟨0, false⟩,
      .registerRead .pf1 0 ⟨65536, false⟩, .registerRead .pf1 2 ⟨0, false⟩,
      .flowChartCheck ({ goodCmd with inst := 65536 }) [], .flowChartCheck goodCmd [(1048576, .timeout)],
      .flowChartRecheck 1048576 .timeout, .flowReloadDone [(1048576, .timeout)],
      .ringFrameRx .c (zeros 13) ({ badFcs := false, codeErr := false, pmac := 3, verify := none }),
      .ringFrameRx .c (zeros 9217) ({ badFcs := false, codeErr := false, pmac := 3, verify := none }),
      .ringFrameRx .c (zeros 14) ({ badFcs := false, codeErr := false, pmac := 4, verify := none }),
      .ringFrameRx .c (zeros 14) ({ badFcs := false, codeErr := false, pmac := 0, verify := none, fecCorr := 65536 }),
      .ringFrameRx .c (zeros 14) ({ badFcs := false, codeErr := false, pmac := 0, verify := none, fecUncorr := 65536 }),
      .nodeEntryForget 281474976710656, .proxyEntryExpiry 281474976710656, .prpSeqCounterRelease 281474976710656,
      .supervisionTx 281474976710656, .ringEgressSelect .c 9223,
      .portFrameRx .c (zeros 13) ({ badFcs := false, codeErr := false, pmac := 3, verify := none }),
      .portFrameRx .c (zeros 9217) ({ badFcs := false, codeErr := false, pmac := 3, verify := none })] : List Instr).all (fun i => !i.wf) = true := by decide +kernel

theorem test_wf_operands_5 :
    ([.portFrameRx .c (zeros 14) ({ badFcs := false, codeErr := false, pmac := 4, verify := none }),
      .portFrameRx .c (zeros 14) ({ badFcs := false, codeErr := false, pmac := 0, verify := none, fecCorr := 65536 }),
      .portFrameRx .c (zeros 14) ({ badFcs := false, codeErr := false, pmac := 0, verify := none, fecUncorr := 65536 }),
      .macFiltCommit .c 16 0, .modTransactionDone .c 3 0 (zeros 14), .modTransactionDone .c 0 129 (zeros 14),
      .modTransactionDone .c 0 0 (zeros 129), .almRowOpen 16, .almRowSeal 16, .watchAck 512 0, .reflexStage 512 0 0,
      .reflexStage 0 8 0, .reflexWrite 512 0 none 0, .reflexWrite 0 8 none 0, .reflexHeldRelease 512 0,
      .reflexHeldRelease 0 8, .reflexRetransmit 512 0, .reflexRetransmit 0 8, .gooseExpired 4096, .schedSelect 6,
      .soundingRound 4, .irigFrame ⟨8 , 0, 0, 0, 1, 0, 0⟩, .irigFrame ⟨0, 61, 0, 0, 1, 0, 0⟩,
      .irigFrame ⟨0, 0, 60, 0, 1, 0, 0⟩, .irigFrame ⟨0, 0, 0, 24, 1, 0, 0⟩, .irigFrame ⟨0, 0, 0, 0, 367, 0, 0⟩] : List Instr).all (fun i => !i.wf) = true := by decide +kernel

theorem test_wf_operands_6 :
    ([.irigFrame ⟨0, 0, 0, 0, 1, 100, 0⟩, .fork 128 ⟨0, 0, 0, 0⟩, .exit 128 ⟨0, 0, 0, 0⟩, .join 128 ⟨0, 0, 0, 0⟩,
      .wait 128 ⟨0, 0, 0, 0⟩, .signal 128 ⟨0, 0, 0, 0⟩, .evmap 128 ⟨0, 0, 0, 0⟩, .timer 128 ⟨0, 0, 0, 0⟩,
      .settrap 128 ⟨0, 0, 0, 0⟩, .chstage 128 ⟨0, 0, 0, 0⟩, .chcommit 128 ⟨0, 0, 0, 0⟩, .chrecv 128 ⟨0, 0, 0, 0⟩,
      .thrctlResume 128 ⟨0, 0, 0, 0⟩, .thrctlKill 128 ⟨0, 0, 0, 0⟩, .chcfg 128 ⟨0, 0, 0, 0⟩, .class_ 128 ⟨0, 0, 0, 0⟩,
      .break_ 128 ⟨0, 0, 0, 0⟩, .loadStore 128 0 .illegal, .loadStore 0 0 (.load 0 (.instrSram 262144) 4 false),
      .loadStore 0 0 (.store (.dataSram 262144) 4 0), .loadStore 0 0 (.store (.sharedSram 4194304) 4 0),
      .loadStore 0 0 (.load 0 (.rose 8 0) 4 false), .loadStore 0 0 (.load 0 (.rose 0 4) 4 false),
      .loadStore 0 0 (.load 0 (.rawLane 3 0) 4 false), .loadStore 0 0 (.load 0 (.rawLane 0 6) 4 false),
      .loadStore 0 0 (.load 0 (.outside 0) 3 false)] : List Instr).all (fun i => !i.wf) = true := by decide +kernel

theorem test_wf_operands_7 :
    ([.loadStore 0 0 (.store (.outside 0) 3 0), .helmTimerFire 128, .helmDbgRegWrite 32 0, .moverLockTake 128 0,
      .moverLockTake 0 16, .moverGo 128 0 (List.replicate 8 0) 0, .moverGo 0 16 (List.replicate 8 0) 0,
      .moverGo 0 0 (List.replicate 7 0) 0, .moverPromote 16, .moverTransferEnd 16 ⟨[], none⟩ ⟨[], none⟩,
      .moverErrAck 128 0 0, .moverErrAck 0 16 0, .moverRelease 128 0, .moverRelease 0 16] : List Instr).all (fun i => !i.wf) = true := by decide +kernel

/-! The operands at the last value that fits. -/

theorem test_wf_bounds_1 :
    ([.keyDeriveDone 1048575, .keyUnwrapDone 1048575, .rawLockTake 127 0, .rawLockTake 0 3,
      .rawLaneGo 127 0 none (zeros 16) false, .rawLaneGo 0 3 none (zeros 16) false,
      .rawLaneGo 0 0 none (zeros 16) false, .rawLaneGo 0 0 (some (.label (zeros 32))) (zeros 16) false,
      .rawLaneGo 0 0 (some (.own (zeros 32))) (zeros 16) false, .rawLockRelease 127 0, .rawLockRelease 0 3,
      .rawHoldExpiry 3, .clsBlockMoveDone 31, .clsChartCheck goodCmd [], .clsChartCheck goodCmd [(1048575, .timeout)],
      .clsChartRecheck 2047 .timeout, .configRequest .pf0 4095 none, .configRequest .pf0 0 (some (0, 15)),
      .alarmTrip 4 false, .droopTrip 11, .wakeSource 5, .pwrWake 16383, .domainStopEntry 13, .domainStopEntry 1,
      .domainStopSeal 13, .domainStopSeal 1] : List Instr).all Instr.wf = true := by decide +kernel

theorem test_wf_bounds_2 :
    ([.domainStart 13, .domainStart 1, .scrubPassEnd 4294967295 0, .scrubPassEnd 0 4294967295, .dramPanic 6 false 0,
      .barBadAccess .pf0 ⟨0, 0⟩ 4096 false, .barBadAccess .pf0 ⟨0, 1048575⟩ 0 false,
      .barBadAccess .pf0 ⟨2, 4194303⟩ 0 false, .barBadAccess .pf1 ⟨0, 65535⟩ 0 false,
      .peerRequest ⟨0, 17179869183, 0, none, false⟩, .peerRequest ⟨65535, 0, 0, none, false⟩,
      .peerRequest ⟨0, 0, 4096, none, false⟩, .winCommit 15, .hostCompletionRx 1023 0 .pf0 .sc (zeros 14) false,
      .hostCompletionRx 0 65535 .pf0 .sc (zeros 14) false, .completionTimeout 1023, .tagQuarantineEnd 1023,
      .atsInvalidate 4503599627370495 none, .msixUnmask .pf0 2111, .msixUnmask .pf1 15, .doorbell 8224 0,
      .descriptorFetch 8224, .txDescriptor 8224 .timeout .timeout false, .rxFrameDeliver 8224 [],
      .registration 511 .timeout, .taggedCompletionResume 8224] : List Instr).all Instr.wf = true := by decide +kernel

theorem test_wf_bounds_3 :
    ([.eventsLost 512, .intHoldoffExpiry 8224, .instCreate goodCmd ⟨.timeout, .timeout⟩, .ringStopped 8224,
      .instQuiesceDone 511, .instQuiesceTimeout 511, .instDestroy goodCmd ⟨.timeout, .timeout⟩, .mboxWrite 7 0,
      .mboxTake 7, .smboxWrite 3 0, .smboxTake 3, .boundsWrite 8224 0 ⟨.timeout, .timeout⟩,
      .boundsClear 8224 0 ⟨.timeout, .timeout⟩, .powerVote 8224 0 ⟨.timeout, .timeout⟩,
      .keyTransferWrap 8224 0 ⟨.timeout, .timeout⟩ 0, .keyTransferWrap 0 0 ⟨.timeout, .timeout⟩ 1048575,
      .unsupportedOpcode 65535 goodCmd, .unsupportedOpcode 0 goodCmd, .waypointRestore goodCmd ⟨.timeout, .timeout⟩,
      .helmClockSwitch 7, .smbusRead 255 ⟨false, false⟩, .registerWrite .pf0 0 0 0 ⟨15, []⟩,
      .registerWrite .pf0 0 0 0 ⟨15, [(0, 15)]⟩, .registerWrite .pf0 0 0 0 ⟨15, List.replicate 15 (0, 0)⟩,
      .registerWrite .pf0 0 1048575 0 ⟨15, []⟩, .registerWrite .pf0 2 4194303 0 ⟨15, []⟩] : List Instr).all Instr.wf = true := by decide +kernel

theorem test_wf_bounds_4 :
    ([.registerWrite .pf1 0 65535 0 ⟨15, []⟩, .registerRead .pf0 0 ⟨1048575, false⟩, .registerRead .pf0 2 ⟨4194303, false⟩,
      .registerRead .pf1 0 ⟨65535, false⟩, .flowChartCheck goodCmd [], .flowChartCheck goodCmd [(1048575, .timeout)],
      .flowChartRecheck 1048575 .timeout, .flowReloadDone [(1048575, .timeout)],
      .ringFrameRx .c (zeros 14) ({ badFcs := false, codeErr := false, pmac := 3, verify := none }),
      .ringFrameRx .c (zeros 9216) ({ badFcs := false, codeErr := false, pmac := 3, verify := none }),
      .ringFrameRx .c (zeros 14) ({ badFcs := false, codeErr := false, pmac := 3, verify := none }),
      .ringFrameRx .c (zeros 14) ({ badFcs := false, codeErr := false, pmac := 0, verify := none, fecCorr := 65535 }),
      .ringFrameRx .c (zeros 14) ({ badFcs := false, codeErr := false, pmac := 0, verify := none, fecUncorr := 65535 }),
      .nodeEntryForget 281474976710655, .proxyEntryExpiry 281474976710655, .prpSeqCounterRelease 281474976710655,
      .supervisionTx 281474976710655, .ringEgressSelect .c 9222,
      .portFrameRx .c (zeros 14) ({ badFcs := false, codeErr := false, pmac := 3, verify := none }),
      .portFrameRx .c (zeros 9216) ({ badFcs := false, codeErr := false, pmac := 3, verify := none }),
      .portFrameRx .c (zeros 14) ({ badFcs := false, codeErr := false, pmac := 3, verify := none }),
      .portFrameRx .c (zeros 14) ({ badFcs := false, codeErr := false, pmac := 0, verify := none, fecCorr := 65535 }),
      .portFrameRx .c (zeros 14) ({ badFcs := false, codeErr := false, pmac := 0, verify := none, fecUncorr := 65535 }),
      .macFiltCommit .c 15 0, .modTransactionDone .c 2 0 (zeros 14), .modTransactionDone .c 0 128 (zeros 14)] : List Instr).all Instr.wf = true := by decide +kernel

theorem test_wf_bounds_5 :
    ([.modTransactionDone .c 0 0 (zeros 128), .almRowOpen 15, .almRowSeal 15, .watchAck 511 0, .reflexStage 511 0 0,
      .reflexStage 0 7 0, .reflexWrite 511 0 none 0, .reflexWrite 0 7 none 0, .reflexHeldRelease 511 0,
      .reflexHeldRelease 0 7, .reflexRetransmit 511 0, .reflexRetransmit 0 7, .gooseExpired 4095, .schedSelect 5,
      .soundingRound 3, .irigFrame ⟨7 , 0, 0, 0, 1, 0, 0⟩, .irigFrame ⟨0, 60, 0, 0, 1, 0, 0⟩,
      .irigFrame ⟨0, 0, 59, 0, 1, 0, 0⟩, .irigFrame ⟨0, 0, 0, 23, 1, 0, 0⟩, .irigFrame ⟨0, 0, 0, 0, 366, 0, 0⟩,
      .irigFrame ⟨0, 0, 0, 0, 1, 99, 0⟩, .fork 127 ⟨0, 0, 0, 0⟩, .exit 127 ⟨0, 0, 0, 0⟩, .join 127 ⟨0, 0, 0, 0⟩,
      .wait 127 ⟨0, 0, 0, 0⟩, .signal 127 ⟨0, 0, 0, 0⟩] : List Instr).all Instr.wf = true := by decide +kernel

theorem test_wf_bounds_6 :
    ([.evmap 127 ⟨0, 0, 0, 0⟩, .timer 127 ⟨0, 0, 0, 0⟩, .settrap 127 ⟨0, 0, 0, 0⟩, .chstage 127 ⟨0, 0, 0, 0⟩,
      .chcommit 127 ⟨0, 0, 0, 0⟩, .chrecv 127 ⟨0, 0, 0, 0⟩, .thrctlResume 127 ⟨0, 0, 0, 0⟩,
      .thrctlKill 127 ⟨0, 0, 0, 0⟩, .chcfg 127 ⟨0, 0, 0, 0⟩, .class_ 127 ⟨0, 0, 0, 0⟩, .break_ 127 ⟨0, 0, 0, 0⟩,
      .loadStore 127 0 .illegal, .loadStore 0 0 (.load 0 (.instrSram 262143) 4 false),
      .loadStore 0 0 (.store (.dataSram 262143) 4 0), .loadStore 0 0 (.store (.sharedSram 4194303) 4 0),
      .loadStore 0 0 (.load 0 (.rose 7 3) 4 false), .loadStore 0 0 (.load 0 (.outside 0) 2 false),
      .loadStore 0 0 (.load 0 (.rawLane 2 0) 4 false), .loadStore 0 0 (.load 0 (.rawLane 0 5) 4 false),
      .loadStore 0 0 (.load 0 (.outside 0) 1 false), .loadStore 0 0 (.store (.outside 0) 2 0), .helmTimerFire 127,
      .helmDbgRegWrite 31 0, .moverLockTake 127 0, .moverLockTake 0 15, .moverGo 127 0 (List.replicate 8 0) 0] : List Instr).all Instr.wf = true := by decide +kernel

theorem test_wf_bounds_7 :
    ([.moverGo 0 15 (List.replicate 8 0) 0, .moverGo 0 0 (List.replicate 8 0) 0, .moverPromote 15,
      .moverTransferEnd 15 ⟨[], none⟩ ⟨[], none⟩, .moverErrAck 127 0 0, .moverErrAck 0 15 0, .moverRelease 127 0,
      .moverRelease 0 15] : List Instr).all Instr.wf = true := by decide +kernel

/-! ### The rows give no bits -/

theorem test_no_word_spells_a_command : decodeTableWord 0 0 = none ∧ decodeTableWord 32 5 = none := by decide

theorem test_no_word_changes_the_queue : (State.reset.withFetchWord 32 5).pending = [] := by decide +kernel

/-! ### Known answers of the functions the manual takes from standards -/

/-- CRC-32C of the nine digits, from RFC 3720 and the CRC catalogue: E3069283. -/
theorem test_crc32c : crc32c [49, 50, 51, 52, 53, 54, 55, 56, 57] = [0x83, 0x92, 0x06, 0xE3] := by decide +kernel

/-- AES-128 of FIPS 197, appendix C.1. -/
theorem test_aes128 :
    aesEncrypt ((List.range 16).map (BitVec.ofNat 8)) ((List.range 16).map (fun k => BitVec.ofNat 8 (k * 17))) =
      [0x69, 0xC4, 0xE0, 0xD8, 0x6A, 0x7B, 0x04, 0x30, 0xD8, 0xCD, 0xB7, 0x80, 0x70, 0xB4, 0xC5, 0x5A] := by decide +kernel

/-- The first round constant of SHA-384, the first initial value, and what one round leaves in place (FIPS 180-4, 4.2.3, 5.3.4). -/
theorem test_sha384_constants :
    cbrtBits (2 * 2 ^ 192) 67 0 % 2 ^ 64 = 0x428A2F98D728AE22 ∧ sqrtBits (23 * 2 ^ 128) 67 0 % 2 ^ 64 = 0xCBBB9D5DC1059ED8 ∧
      (shaRound [1, 2, 3, 4, 5, 6, 7, 8] (0, 0)).drop 5 = [5, 6, 7] := by decide +kernel

/-! ### States and operands that meet the statements' hypotheses -/

/-- A state in which everything runs: every domain in Run, the link up, Helm started, no hove-to cause, an instance in each
state, and a published entry on the command rings. -/
def w : State :=
  { now := 1000000000000
    host := { perstHigh := true, linkUp := true, ready := true, cfg0 := { memEn := true, bme := true, msixEn := true }
              cfg1 := { memEn := true, bme := true, msixEn := true } }
    power := { vin12 := true, vaux33 := true, dom := List.replicate 14 .run, hasRun := List.replicate 14 true, wakeN := true
               recorded := List.replicate 14 true }
    boot := { phase := .running, causes := 0, clockPll := true, imageValid := true }
    insts := [(1, { state := .active, flowBase := 100, flowCount := 10, ctxBase := 100, ctxCount := 10 }),
      (2, { state := .configured }), (3, { state := .quiescing }), (4, { state := .frozen }), (5, { state := .faulted })]
    bounds := [(1, { pasid := 1, ranges := [{ base := 0, pages := 1048576, read := true, write := true }] })]
    rings := [(16, { state := .enabled, pi := 1 }), (17, { state := .enabled, pi := 1 }), (23, { state := .enabled, pi := 1 }),
      (31, { state := .enabled }), (8192, { state := .enabled, pi := 1 }), (8193, { state := .enabled, pi := 1 }),
      (8224, { log2 := 4, state := .enabled, pi := 1 })]
    dechan := { secEnable := true, mring0Enable := true }
    time := { sec := 1000, ns := 5 }
    flow := { profs := List.replicate 16 { fields := [1, 0, 0, 0, 0, 0, 0, 0], tenantOk := true } }
    sched := { ready := true }
    ciph := { ready := true, lode := .loaded, kcv := 5 }
    ports := { a := { enable := true, linkUp := true, rate := 1 }, b := { enable := true, linkUp := true, rate := 1 }
               c := { enable := true, linkUp := true, lock := true, rate := 1, lpmode := false, resetFault := false }
               d := { enable := true, linkUp := true, lock := true, rate := 1, lpmode := false, resetFault := false } }
    helm := { cores := 255, onPll := 255, thr := [(0, { state := .runnable })] } }

/-- `n` zero octets with values written into them: at each place, in so many octets, least significant first. -/
def pat (n : Nat) : List (Nat × Nat × Nat) → Bytes
  | [] => zeros n
  | (o, k, v) :: l => overlay (pat n l) o (leBytes k v)

/-- A KCV fits its three octets, and those octets of a data field read back. -/
theorem kcv_octets (k : Bytes) : leAt (pat 36 [(0, 1, 1), (4, 3, keyKcv k), (8, 4, 86400)]) 4 3 = keyKcv k := by
  have lt : keyKcv k < 16777216 := by
    unfold keyKcv
    generalize deriveKey k ([8] ++ zeros 31) false = l
    match l with
    | [] => simp [leNat]
    | [a] => simp [leNat]; omega
    | [a, b] => simp [leNat]; omega
    | a :: b :: c :: _ => simp [leNat]; omega
  generalize keyKcv k = n at lt ⊢
  show leNat [BitVec.ofNat 8 n, BitVec.ofNat 8 (n / 256), BitVec.ofNat 8 (n / 256 / 256)] = n
  simp [leNat]
  omega

/-- A command of the manager on ring 0 for instance `i`, with its data field. -/
def mc (i : Nat) (d : List (Nat × Nat × Nat)) : Cmd :=
  { ring := .mgr 0, seq := 0, inst := i, paramLen := 0, handle := 0, flags := 0, addr := 0, data := pat 36 d, own := 0, buf := .timeout }

/-- The same with a parameter buffer of `n` octets. -/
def mb (i : Nat) (d : List (Nat × Nat × Nat)) (n : Nat) (b : List (Nat × Nat × Nat)) : Cmd :=
  { mc i d with paramLen := n, addr := 4096, buf := .data (pat n b) }

/-- The hypotheses of `Obligations.SmbusReadsAndAlertLine` can be met, clause by clause. -/
theorem test_witness_SmbusReadsAndAlertLine :
    (∃ (s : State), s.inRun 0 = true) ∧
    (∃ (s : State) (temp : BitVec 16), s.inRun 0 = true ∧ s.module_.alertAsserted = false ∧
    (110 * 256 ≤ temp.toInt ∨ s.ciph.latched ≠ 0)) ∧
    (∃ (s : State) (temp : BitVec 16), s.inRun 0 = true ∧ s.module_.alertAsserted = false ∧ temp.toInt < 110 * 256 ∧
    s.ciph.latched = 0) ∧
    (∃ (s : State), s.inRun 0 = true ∧ s.module_.alertAsserted = true) ∧
    (∃ (s : State) (temp : BitVec 16), s.inRun 0 = true ∧ s.module_.alertAsserted = true ∧
    s.module_.alertRead = true ∧ temp.toInt < 110 * 256 ∧ s.ciph.latched = 0) :=
  ⟨⟨w, by decide +kernel⟩,
    ⟨w, 28160, by decide +kernel⟩,
    ⟨w, 28159, by decide +kernel⟩,
    ⟨{ w with module_.alertAsserted := true }, by decide +kernel⟩,
    ⟨{ w with module_ := { alertAsserted := true, alertRead := true } }, 28159, by decide +kernel⟩⟩

/-- The hypotheses of `Obligations.MailboxWordsPassAndAreAnswered` can be met, clause by clause. -/
theorem test_witness_MailboxWordsPassAndAreAnswered :
    (∃ (s : State) (n : Nat), s.linkReady = true ∧ n < 4 ∧ (s.mbox n).full = true) ∧
    (∃ (s : State) (n : Nat), s.linkReady = true ∧ n < 4 ∧ (s.mbox n).full = false) ∧
    (∃ (s : State) (n : Nat), s.linkReady = true ∧ 4 ≤ n) ∧
    (∃ (s : State) (n : Nat), s.linkReady = true ∧ 4 ≤ n ∧ n < 8 ∧ (s.mbox n).full = true) ∧
    (∃ (s : State) (n : Nat), s.linkReady = true ∧ (n < 4 ∨ (s.mbox n).full = false ∧ n < 8)) ∧
    (∃ (s : State) (n : Nat), s.linkReady = true ∧ n < 2 ∧ (s.smbox n).full = true) ∧
    (∃ (s : State) (n : Nat), s.linkReady = true ∧ n < 2 ∧ (s.smbox n).full = false) ∧
    (∃ (s : State) (n : Nat), s.linkReady = true ∧ 2 ≤ n ∧ n < 4 ∧ (s.smbox n).full = true) ∧
    (∃ (s : State) (a : Mbox) (b : Mbox) (rest : List Mbox), s.helmRuns = true ∧ s.dechan.mbox = a :: rest ∧
    a.full = true ∧ rest[3]? = some b ∧ b.full = false) ∧
    (∃ (s : State) (a : Mbox) (b : Mbox) (c : Mbox) (d : Mbox), s.binnacleLives = true ∧
    s.dechan.smbox = [a, b, c, d] ∧ a.full = true ∧ c.full = false) ∧
    (∃ (s : State) (a : Mbox) (b : Mbox) (c : Mbox) (d : Mbox), s.binnacleLives = true ∧
    s.dechan.smbox = [a, b, c, d] ∧ d.full = false ∧ s.dechan.smboxPost = true) :=
  ⟨⟨{ w with dechan.mbox := List.replicate 8 { full := true } }, 3, by decide +kernel⟩,
    ⟨w, 3, by decide +kernel⟩,
    ⟨w, 4, by decide +kernel⟩,
    ⟨{ w with dechan.mbox := List.replicate 8 { full := true } }, 7, by decide +kernel⟩,
    ⟨w, 7, by decide +kernel⟩,
    ⟨{ w with dechan.smbox := List.replicate 4 { full := true } }, 1, by decide +kernel⟩,
    ⟨w, 1, by decide +kernel⟩,
    ⟨{ w with dechan.smbox := List.replicate 4 { full := true } }, 3, by decide +kernel⟩,
    ⟨{ w with dechan.mbox := { full := true } :: List.replicate 7 {} }, { full := true }, {}, List.replicate 7 {},
    by decide +kernel⟩,
    ⟨{ w with dechan.smbox := [{ full := true }, {}, {}, {}] }, { full := true }, {}, {}, {}, by decide +kernel⟩,
    ⟨{ w with dechan := { smboxPost := true } }, {}, {}, {}, {}, by decide +kernel⟩⟩

/-- The hypotheses of `Obligations.HostRequestsAndLink` can be met, clause by clause. -/
theorem test_witness_HostRequestsAndLink :
    (∃ (s : State) (bar : Nat) (off : Nat) (len : Nat) (wr : Bool), s.linkReady = true ∧ ¬((len = 4 ∨ len = 8) ∧
    off % len = 0) ∧ ¬(bar = 2 ∧ wr = true ∧ 0 < len ∧ inPushSlot off len = true)) ∧
    (∃ (s : State), s.linkReady = true) ∧
    (∃ (s : State), s.linkReady = true) ∧
    (∃ (s : State), s.linkReady = true) ∧
    (∃ (s : State) (vec : Nat) (e : MsixEntry), s.linkReady = true ∧ vec < 16 ∧ s.host.msix1.find vec = some e ∧
    e.pending = false) ∧
    (∃ (s : State) (vec : Nat) (e : MsixEntry), s.linkReady = true ∧ vec < 16 ∧ s.host.msix1.find vec = some e ∧
    e.pending = true ∧ s.host.cfg1.msixEn = true ∧ s.host.cfg1.msixMask = false ∧ s.host.cfg1.bme = true) ∧
    (∃ (s : State), s.inRun 2 = true ∧ s.host.perstHigh = true ∧ s.host.linkUp = false) ∧
    (∃ (s : State), s.inRun 2 = true ∧ s.host.linkUp = true ∧ s.host.perstHigh = true ∧ s.host.tags = [] ∧
    s.power.l2 = true ∧ (∀ x, s.boot.loading ≠ some (false, x)) ∧ s.sw.busy = false ∧ (∀ m < 16,
    (s.mover m).active = none)) :=
  ⟨⟨w, 0, 2, 4, false, by decide +kernel⟩,
    ⟨w, by decide +kernel⟩,
    ⟨w, by decide +kernel⟩,
    ⟨w, by decide +kernel⟩,
    ⟨{ w with host.msix1 := [(15, {})] }, 15, {}, by decide +kernel⟩,
    ⟨{ w with host.msix1 := [(15, { pending := true })] }, 15, { pending := true }, by decide +kernel⟩,
    ⟨{ w with host.linkUp := false }, by decide +kernel⟩,
    ⟨{ w with power.l2 := true }, by decide +kernel, by decide +kernel, by decide +kernel, rfl, rfl,
    fun x => by simp [w], rfl, by decide +kernel⟩⟩

/-- The hypotheses of `Obligations.TagsAreFreedAndQuarantined` can be met, clause by clause. -/
theorem test_witness_TagsAreFreedAndQuarantined :
    (∃ (s : State) (tag : Nat), s.linkReady = true ∧ s.host.tags.find tag = none) ∧
    (∃ (s : State) (tag : Nat) (fn : Fn) (what : Purpose) (since : Nat) (addr : Nat) (len : Nat) (got : Bytes) (b : Bytes),
    s.linkReady = true ∧ s.host.tags.find tag = some (.outstanding fn what since addr len got) ∧
    (got ++ b).length ≤ len) ∧
    (∃ (s : State) (tag : Nat) (since : Nat) (addr : Nat) (len : Nat) (got : Bytes) (b : Bytes) (r : Nat) (idx : Nat) (n : Nat),
    s.linkReady = true ∧ s.host.tags.find tag = some (.outstanding .pf0 (.descriptors r idx n) since addr len got) ∧
    (got ++ b).length = len ∧ (s.ring r).state = .enabled ∧ s.host.parts = [] ∧ (∀ p ∈ s.host.tags.drop1 tag,
    ∀ f since addr len got, p.2 ≠ .outstanding f (.descriptors r idx n) since addr len got)) ∧
    (∃ (s : State) (tag : Nat) (since : Nat) (addr : Nat) (len : Nat) (got : Bytes) (b : Bytes) (r : Nat) (idx : Nat) (n : Nat) (other : Nat) (f : Fn) (since' : Nat) (addr' : Nat) (len' : Nat) (got' : Bytes),
    s.linkReady = true ∧ s.host.tags.find tag = some (.outstanding .pf0 (.descriptors r idx n) since addr len got) ∧
    (got ++ b).length = len ∧ (other,
    .outstanding f (.descriptors r idx n) since' addr' len' got') ∈ s.host.tags.drop1 tag) ∧
    (∃ (s : State) (tag : Nat) (fn : Fn) (what : Purpose) (since : Nat) (addr : Nat) (len : Nat) (got : Bytes),
    s.host.tags.find tag = some (.outstanding fn what since addr len got) ∧ s.now < since + (s.cfg fn).timeoutTicks) ∧
    (∃ (s : State) (tag : Nat) (fn : Fn) (since : Nat) (addr : Nat) (len : Nat) (got : Bytes),
    s.host.tags.find tag = some (.outstanding fn .stale since addr len got) ∧ since + (s.cfg fn).timeoutTicks ≤ s.now) ∧
    (∃ (s : State) (tag : Nat) (u : Nat), s.host.tags.find tag = some (.quarantined u)) :=
  ⟨⟨w, 0, by decide +kernel⟩,
    ⟨{ w with host.tags := [(0, .outstanding .pf0 .stale 0 0 64 [])] }, 0, .pf0, .stale, 0, 0, 64, [], zeros 64,
    by decide +kernel⟩,
    ⟨{ w with host.tags := [(0, .outstanding .pf0 (.descriptors 17 0 1) 0 0 64 [])] }, 0, 0, 0, 64, [], zeros 64, 17,
    0, 1, by decide +kernel, rfl, by decide +kernel, by decide +kernel, rfl, fun p h => by cases h⟩,
    ⟨{ w with host.tags := [(0, .outstanding .pf0 (.descriptors 17 0 4) 0 0 64 []), (1, .outstanding .pf0 (.descriptors 17 0 4) 0 64 64 [])] },
    0, 0, 0, 64, [], zeros 64, 17, 0, 4, 1, .pf0, 0, 64, 64, [], by decide +kernel⟩,
    ⟨{ w with host.tags := [(0, .outstanding .pf0 .stale 999999999999 0 64 [])] }, 0, .pf0, .stale, 999999999999, 0,
    64, [], by decide +kernel⟩,
    ⟨{ w with host.tags := [(0, .outstanding .pf0 .stale 0 0 64 [])] }, 0, .pf0, 0, 0, 64, [], by decide +kernel⟩,
    ⟨{ w with host.tags := [(0, .quarantined 5)] }, 0, 5, by decide +kernel⟩⟩

/-- The hypotheses of `Obligations.PeerWindowsTranslateOrReject` can be met, clause by clause. -/
theorem test_witness_PeerWindowsTranslateOrReject :
    (∃ (s : State) (q : PeerReq) (n : Nat) (b : Bytes), s.linkReady = true ∧ s.inRun 13 = true ∧
    s.host.holdFull = false ∧ q.poisoned = false ∧ q.wr = some b ∧ s.host.changing = none ∧ n < 16 ∧
    (s.win n).enable = true ∧ (s.win n).write = true ∧ ((s.win n).ridCheck = true → (s.win n).rid = q.rid) ∧
    (s.win n).base * 65536 ≤ q.addr ∧ q.addr + b.length ≤ ((s.win n).base + (s.win n).size) * 65536 ∧ (∀ m < n,
    (s.win m).enable = false)) ∧
    (∃ (s : State) (q : PeerReq), s.linkReady = true ∧ s.inRun 13 = true ∧ s.host.holdFull = false ∧
    q.poisoned = false ∧ q.wr = none ∧ s.host.changing = none ∧ (∀ n < 16, (s.win n).enable = false)) ∧
    (∃ (s : State) (w : Nat), s.linkReady = true ∧ s.inRun 13 = true ∧ w < 16 ∧
    s.winRejects w (s.host.stagedWin.getD w {}) = 0) ∧
    (∃ (s : State) (w : Nat) (r : Nat), s.linkReady = true ∧ s.inRun 13 = true ∧ w < 16 ∧
    s.winRejects w (s.host.stagedWin.getD w {}) = r ∧ r ≠ 0) ∧
    (∃ (s : State) (n : Nat) (w : Win), s.host.changing = some (n, w) ∧ s.host.heldPeer = []) ∧
    (∃ (s : State) (q : PeerReq) (n : Nat) (w : Win), s.linkReady = true ∧ s.inRun 13 = true ∧
    s.host.holdFull = false ∧ q.poisoned = false ∧ s.host.changing = some (n, w) ∧ (s.win n).touches q = true) ∧
    (∃ (s : State), s.linkReady = true ∧ s.host.holdFull = true) :=
  ⟨⟨{ w with host.activeWin := [(15, { base := 0, size := 1, enable := true, read := true, write := true })] },
    { rid := 0, addr := 65532, len := 4, wr := some (zeros 4), poisoned := false }, 15, zeros 4, by decide +kernel⟩,
    ⟨w, { rid := 0, addr := 65532, len := 4, wr := none, poisoned := false }, by decide +kernel⟩,
    ⟨w, 15, by decide +kernel⟩,
    ⟨{ w with host.stagedWin := [(15, { base := 262144, size := 1 })] }, 15, 2, by decide +kernel⟩,
    ⟨{ w with host.changing := some (15, {}) }, 15, {}, by decide +kernel⟩,
    ⟨{ w with host.activeWin := [(15, { base := 0, size := 1, enable := true, read := true, write := true })], host.changing := some (15, { base := 0, size := 1, enable := true, read := true, write := true }) },
    { rid := 0, addr := 0, len := 4, wr := none, poisoned := false }, 15,
    { base := 0, size := 1, enable := true, read := true, write := true }, by decide +kernel⟩,
    ⟨{ w with host.holdFull := true }, by decide +kernel⟩⟩

/-- The hypotheses of `Obligations.DoorbellsPublishOrViolate` can be met, clause by clause. -/
theorem test_witness_DoorbellsPublishOrViolate :
    (∃ (s : State) (r : Nat) (v : W32), s.linkReady = true ∧ r < mgrBase ∧ (s.inst (r / 16)).state ≠ .absent ∧
    (s.ring r).state ≠ .disabled ∧ r % 16 ≠ 0 ∧ r % 16 < 14 ∧ bits v.toNat 17 16 ≤ 2 ∧
    (BitVec.ofNat 16 v.toNat - (s.ring r).oldest).toNat ≤ 2 ^ (s.ring r).log2 ∧
    bits v.toNat 17 16 ≤ (BitVec.ofNat 16 v.toNat - (s.ring r).pi).toNat) ∧
    (∃ (s : State) (r : Nat) (v : W32), s.linkReady = true ∧ r < mgrBase ∧ (s.inst (r / 16)).state ≠ .absent ∧
    (s.ring r).state ≠ .disabled ∧ r % 16 ≠ 0 ∧ r % 16 < 14 ∧ bits v.toNat 17 16 ≤ 2 ∧
    2 ^ (s.ring r).log2 < (BitVec.ofNat 16 v.toNat - (s.ring r).oldest).toNat) ∧
    (∃ (s : State) (r : Nat), s.linkReady = true ∧ r < mgrBase ∧ (s.inst (r / 16)).state ≠ .absent ∧
    (s.ring r).state = .disabled) ∧
    (∃ (s : State) (r : Nat), s.linkReady = true ∧ r < mgrBase ∧ (s.inst (r / 16)).state = .absent) ∧
    (∃ (s : State), s.linkReady = true ∧ (s.ring secRing).state ≠ .disabled) ∧
    (∃ (s : State) (v : W32), s.linkReady = true ∧ s.dechan.secEnable = false ∧ bit v.toNat 4 = true) ∧
    (∃ (s : State) (v : W32), s.linkReady = true ∧ s.dechan.mring0Enable = false ∧ bit v.toNat 4 = true) ∧
    (∃ (s : State) (v : W32), s.linkReady = true ∧ s.dechan.mring0Enable = true ∧ bit v.toNat 4 = false ∧
    (s.ring mgrBase).state = .enabled ∧ s.inProgress mgrBase = []) :=
  ⟨⟨w, 17, 64, by decide +kernel⟩,
    ⟨w, 17, 65, by decide +kernel⟩,
    ⟨w, 18, by decide +kernel⟩,
    ⟨w, 1, by decide +kernel⟩,
    ⟨w, by decide +kernel⟩,
    ⟨{ w with dechan.secEnable := false }, 16, by decide +kernel⟩,
    ⟨{ w with dechan.mring0Enable := false }, 16, by decide +kernel⟩,
    ⟨w, 0, by decide +kernel⟩⟩

/-- The hypotheses of `Obligations.DescriptorsCompletionsAndEvents` can be met, clause by clause. -/
theorem test_witness_DescriptorsCompletionsAndEvents :
    (∃ (s : State) (r : Nat) (k : BitVec 16) (b : Bytes), s.mayFetch r = true ∧ isCmdRing r = false ∧
    (s.ring r).pushed.find? (fun p => p.1 == (s.ring r).fetch) = some (k, b)) ∧
    (∃ (s : State) (r : Nat) (t : Nat), s.mayFetch r = true ∧ isCmdRing r = true ∧ (∀ p ∈ (s.ring r).pushed,
    p.1 ≠ (s.ring r).fetch) ∧ (s.ring r).slotAddr 64 (s.ring r).fetch % 64 = 0 ∧ s.freeTag (ringFn r) = some t) ∧
    (∃ (s : State) (r : Nat), s.mayFetch r = true ∧ isCmdRing r = true ∧ (∀ p ∈ (s.ring r).pushed,
    p.1 ≠ (s.ring r).fetch) ∧ (s.ring r).slotAddr 64 (s.ring r).fetch % 64 = 0 ∧ s.freeTag (ringFn r) = none) ∧
    (∃ (s : State) (r : Nat) (p : BitVec 16 × Bytes), s.mayFetch r = true ∧ isCmdRing r = true ∧
    p ∈ (s.ring r).pushed ∧ p.1 = (s.ring r).fetch) ∧
    (∃ (s : State) (r : Nat) (f : RxFrame) (fs : List RxFrame) (d : Desc) (ds : List Desc), isRxRing r = true ∧
    s.linkReady = true ∧ s.host.cfg0.bme = true ∧ s.inRun 5 = true ∧ s.hove = false ∧ s.ownerActive r = true ∧
    (s.ring r).state = .enabled ∧ s.waitsCompl r = false ∧ (s.ring r).frames = f :: fs ∧ (s.ring r).descs = d :: ds ∧
    d.started = false ∧ rxDescOk d.body = true ∧ bit (byteAt d.body 16) 5 = false ∧ f.body ≠ [] ∧
    f.body.length ≤ leAt d.body 8 4 ∧ s.ringInBounds r (leAt d.body 0 8) f.body.length false true = true) ∧
    (∃ (s : State) (r : Nat) (w : Waiting), isProducer r = true ∧ s.linkReady = true ∧ s.ownerLive r = true ∧
    (s.ring r).held = [w] ∧ (s.ring r).room = true ∧ (byteAt w.body 27 = 1 ∨ byteAt w.body 27 = 2) ∧ w.ring ≠ r ∧
    (s.ring w.ring).held = [] ∧ (s.ring w.ring).switch = none) ∧
    (∃ (s : State) (i : Nat), i < 512 ∧ s.linkReady = true ∧ (s.inst i).state = .active ∧
    (s.ring (i * 16 + 15)).room = true ∧ (s.inst i).lost ≠ 0) ∧
    (∃ (s : State) (r : Nat), 0 < (s.ring r).modPending ∧ (s.ring r).modStart + (s.ring r).holdoff * 625 ≤ s.now) ∧
    (∃ (s : State) (r : Nat), 0 < (s.ring r).modPending ∧ s.now < (s.ring r).modStart + (s.ring r).holdoff * 625) ∧
    (∃ (s : State) (r : Nat), r < mgrBase ∧ s.drained r = true ∧ (∀ a ∈ s.dechan.accepted, a.opcode ≠ 0x0303)) :=
  ⟨⟨{ w with rings := [(17, { state := .enabled, pi := 1, pushed := [(0, zeros 32)] })] }, 17, 0, zeros 32,
    by decide +kernel⟩,
    ⟨w, 8192, 0, by decide +kernel⟩,
    ⟨{ w with host.tags := (List.range 1024).map (fun t => (t, .quarantined 0)) }, 8192, by decide +kernel⟩,
    ⟨{ w with rings := [(8192, { state := .enabled, pi := 1, pushed := [(0, zeros 64)] })] }, 8192, (0, zeros 64),
    by decide +kernel⟩,
    ⟨{ w with rings := [(23, { state := .enabled, pi := 1, fetch := 1, descs := [{ idx := 0, body := pat 32 [(8, 4, 64)], inPlace := false }], frames := [{ body := zeros 64, src := 0, srcInst := 0xFFFF, stamp := none, csum := 0, flags := 0, placed := 0, handle := 0, excReason := 0, excDest := 0, cells := 1, dramCells := false, share := 0 }] })] },
    23,
    { body := zeros 64, src := 0, srcInst := 0xFFFF, stamp := none, csum := 0, flags := 0, placed := 0, handle := 0, excReason := 0, excDest := 0, cells := 1, dramCells := false, share := 0 },
    [], { idx := 0, body := pat 32 [(8, 4, 64)], inPlace := false }, [], by decide +kernel⟩,
    ⟨{ w with rings := [(30, { state := .enabled, held := [{ ring := 17, idx := 0, body := pat 32 [(27, 1, 1)] }] })] },
    30, { ring := 17, idx := 0, body := pat 32 [(27, 1, 1)] }, by decide +kernel⟩,
    ⟨{ w with insts := [(511, { state := .active, lost := 1 })], rings := [(8191, { state := .enabled })] }, 511,
    by decide +kernel⟩,
    ⟨{ w with rings := [(30, { modPending := 1 })] }, 30, by decide +kernel⟩,
    ⟨{ w with rings := [(30, { modPending := 1, holdoff := 1, modStart := 999999999999 })] }, 30, by decide +kernel⟩,
    ⟨{ w with rings := [(17, { state := .draining })] }, 17, by decide +kernel⟩⟩

/-- The hypotheses of `Obligations.QueueCommandsChangeTheirRing` can be met, clause by clause. -/
theorem test_witness_QueueCommandsChangeTheirRing :
    (∃ (s : State) (c : Cmd) (r : Nat),
    let op : Op := { code := 0x0301, tenant := true, inst := .either, states := 0x3E }; let t := s.opened op c;
    s.ready op c = true ∧ cmdQueue c = some r ∧ r ≠ mgrBase ∧ ¬(r < mgrBase ∧ (r % 16 = 0 ∨ 14 ≤ r % 16)) ∧
    (t.ring r).state = .disabled ∧ 6 ≤ byteAt c.data 1 ∧ byteAt c.data 1 ≤ 15 ∧ leAt c.data 4 2 ≤ 1023 ∧
    leAt c.data 8 8 % 4096 = 0 ∧
    t.ringInBounds r (leAt c.data 8 8) (2 ^ byteAt c.data 1 * ringEntry r) true true = true) ∧
    (∃ (s : State) (c : Cmd) (r : Nat),
    let op : Op := { code := 0x0302, tenant := true, inst := .either, states := 0x3E }; let t := s.opened op c;
    s.ready op c = true ∧ cmdQueue c = some r ∧ r < mgrBase ∧ hasMode r = true ∧ (t.ring r).state = .disabled ∧
    (t.ring r).configured = true ∧ (t.ring r).retag = false ∧ bit (byteAt c.data 1) 0 = false ∧
    (t.ring r).descs = [] ∧ (t.ring r).held = [] ∧ t.forgetDescs (· == r) = t) ∧
    (∃ (s : State) (c : Cmd) (r : Nat),
    let op : Op := { code := 0x0303, tenant := true, inst := .either, states := 0x0C }; let t := s.opened op c;
    s.ready op c = true ∧ cmdQueue c = some r ∧ r ≠ mgrBase ∧ isCmdRing r = false ∧ isProducer r = false ∧
    isRxRing r = false ∧ (t.ring r).state = .enabled) ∧
    (∃ (s : State) (c : Cmd) (r : Nat),
    let op : Op := { code := 0x0304, tenant := true, inst := .either, states := 0x3E }; let t := s.opened op c;
    s.ready op c = true ∧ cmdQueue c = some r ∧ r ≠ mgrBase ∧ isCmdRing r = false ∧ isProducer r = false ∧
    (t.ring r).state = .stopped ∧ (t.ring r).frames = [] ∧ t.forgetDescs (· == r) = t) ∧
    (∃ (s : State) (c : Cmd) (r : Nat),
    let op : Op := { code := 0x0305, tenant := true, inst := .either, states := 0x3E }; let t := s.opened op c;
    s.ready op c = true ∧ cmdQueue c = some r ∧ r ≠ mgrBase ∧ (t.ring r).state ≠ .error ∧
    bit (byteAt c.data 1) 0 = false ∧ bit (byteAt c.data 1) 2 = true ∧ leAt c.data 4 2 ≤ 1023) ∧
    (∃ (s : State) (c : Cmd) (r : Nat),
    let op : Op := { code := 0x0306, tenant := true, inst := .either, states := 0x3E, exempt := true };
    s.ready op c = true ∧ cmdQueue c = some r ∧ isProducer r = false) :=
  ⟨⟨w, mc 1 [(0, 1, 2), (1, 1, 15), (4, 2, 1023)], 18, by dsimp only; decide +kernel⟩,
    ⟨{ w with rings := [(18, { configured := true }), (8192, { state := .enabled, pi := 1 })] }, mc 1 [(0, 1, 2)], 18,
    by decide +kernel⟩,
    ⟨w, mc 1 [(0, 1, 1)], 17, by dsimp only; decide +kernel⟩,
    ⟨{ w with rings := [(17, { state := .stopped }), (8192, { state := .enabled, pi := 1 })] }, mc 1 [(0, 1, 1)], 17,
    by dsimp only; decide +kernel⟩,
    ⟨w, mc 1 [(0, 1, 1), (1, 1, 4), (4, 2, 1023)], 17, by dsimp only; decide +kernel⟩,
    ⟨w, mc 1 [(0, 1, 1)], 17, by dsimp only; decide +kernel⟩⟩

/-- The hypotheses of `Obligations.ClassifierCommandsChangeTheirBank` can be met, clause by clause. -/
theorem test_witness_ClassifierCommandsChangeTheirBank :
    (∃ (s : State) (c : Cmd), let op : Op := { code := 0x0501 }; s.ready op c = true ∧ c.handle < 32 ∧
    s.inRun 7 = true ∧ bit (byteAt c.data 1) 1 = true ∧
    (byteAt c.data 0 = 1 ∨ byteAt c.data 0 = 2 ∨ byteAt c.data 0 = 4) ∧ badSelector c.data (byteAt c.data 0) = none) ∧
    (∃ (s : State) (c : Cmd), let op : Op := { code := 0x0502, lens := [32, 64, 128] }; let t := s.opened op c;
    let x := t.clsBank c.handle; let b := bufferOf op c; let e := imageEntry b x.width; s.ready op c = true ∧
    c.handle < 32 ∧ s.inRun 7 = true ∧ (x.state = .empty ∨ x.state = .populated) ∧ c.paramLen = 32 * x.width ∧
    e.steer ≠ 3 ∧ badBound b x.width = none ∧ bit (byteAt b 4) 7 = true ∧ leAt b 6 2 < x.capacity ∧
    x.ordered (leAt b 6 2) e.priority = true) ∧
    (∃ (s : State) (c : Cmd) (p : Nat) (f : Nat) (n : Nat), let op : Op := { code := 0x0502, lens := [32, 64, 128] };
    let t := s.opened op c; let x := t.clsBank c.handle; let b := bufferOf op c; let e := imageEntry b x.width;
    s.ready op c = true ∧ c.handle < 32 ∧ s.inRun 7 = true ∧ (x.state = .empty ∨ x.state = .populated) ∧
    c.paramLen = 32 * x.width ∧ e.steer ≠ 3 ∧ badBound b x.width = none ∧ bit (byteAt b 4) 7 = false ∧
    x.place e.priority = some (p, f, n) ∧ n ≠ 0) ∧
    (∃ (s : State) (b : Nat) (m : ClsMove), s.inRun 7 = true ∧ (s.clsBank b).move = some m ∧ (∀ a ∈ s.dechan.accepted,
    a.opcode ≠ 0x0502)) ∧
    (∃ (s : State) (c : Cmd), let op : Op := { code := 0x0503 }; let t := s.opened op c; let x := t.clsBank c.handle;
    s.ready op c = true ∧ c.handle < 32 ∧ s.inRun 7 = true ∧ x.state = .populated ∧ leAt c.data 0 2 < x.capacity ∧
    x.entries.has (leAt c.data 0 2) = true) ∧
    (∃ (s : State) (c : Cmd),
    let op : Op := { code := 0x0504, lens := [32, 64, 128], reads := bit (byteAt c.data 2) 0, writes := true };
    let t := s.opened op c; let x := t.clsBank c.handle; s.ready op c = true ∧ c.handle < 32 ∧ s.inRun 7 = true ∧
    (x.state = .empty ∨ x.state = .populated) ∧ c.paramLen = 32 * x.width ∧ bit (byteAt c.data 2) 0 = false ∧
    leAt c.data 0 2 < x.capacity) ∧
    (∃ (s : State) (c : Cmd),
    let op : Op := { code := 0x0504, lens := [32, 64, 128], reads := bit (byteAt c.data 2) 0, writes := true };
    let t := s.opened op c; let x := t.clsBank c.handle; s.ready op c = true ∧ c.handle < 32 ∧ s.inRun 7 = true ∧
    (x.state = .empty ∨ x.state = .populated) ∧ c.paramLen = 32 * x.width ∧ bit (byteAt c.data 2) 0 = true) ∧
    (∃ (s : State) (c : Cmd), let op : Op := { code := 0x0505, lens := [32] }; let t := s.opened op c;
    let x := t.clsBank c.handle; let b := bufferOf op c; s.ready op c = true ∧ c.handle < 32 ∧ s.inRun 7 = true ∧
    (x.state = .empty ∨ x.state = .populated) ∧ leAt b 0 8 % 32 = 0 ∧ leAt b 8 8 % 16 = 0 ∧ 0 < leAt b 16 4 ∧
    leAt b 16 4 ≤ 65536 ∧ t.cls.check = none ∧ s.err.injectTimeout = false) ∧
    (∃ (s : State) (k : ClsCheck) (m : Mismatch) (p : Nat) (line : Bytes), s.cls.check = some k ∧
    k.waiting.find? (fun w => w.what == p) = some m ∧ s.hove = false ∧ s.inRun 7 = true ∧
    s.elapsed m.since (s.cls.settleMs * msTicks) = true ∧ (s.clsBank k.bank).move = none ∧ (∀ a ∈ s.dechan.accepted,
    ¬(0x0501 ≤ a.opcode ∧ a.opcode ≤ 0x0505)) ∧ s.readHeld .pf0 = false ∧ s.err.injectTimeout = false ∧
    (s.clsBank k.bank).line p = slice line 0 (32 * (s.clsBank k.bank).width)) ∧
    (∃ (s : State) (k : ClsCheck), s.cls.check = some k ∧ k.waiting = [] ∧ s.hove = false) :=
  ⟨⟨w, { mc 65535 [(0, 1, 4), (1, 1, 2), (4, 4, 16843009)] with handle := 31 }, by dsimp only; decide +kernel⟩,
    ⟨{ w with cls.banks := (List.replicate 32 {}).set 31 { state := .populated, width := 1, enable := true, entries := [(5, { priority := 9, action := 0, steer := 0, pass := false, units := [(0, 1)] })] } },
    { mb 65535 [] 32 [(0, 2, 3), (4, 1, 128), (6, 2, 2047), (24, 8, 1)] with handle := 31 },
    by dsimp only; decide +kernel⟩,
    ⟨{ w with cls.banks := (List.replicate 32 {}).set 31 { state := .populated, width := 1, enable := true, entries := [(0, { priority := 9, action := 0, steer := 0, pass := false, units := [(0, 1)] })] } },
    { mb 65535 [] 32 [(0, 2, 20), (24, 8, 1)] with handle := 31 }, 0, 1, 1, by dsimp only; decide +kernel⟩,
    ⟨{ w with cls.banks := (List.replicate 32 {}).set 31 { state := .populated, width := 1, move := some { entry := { priority := 0, action := 0, steer := 0, pass := false, units := [] }, target := 0, free := 0, moved := 0 } } },
    31,
    { entry := { priority := 0, action := 0, steer := 0, pass := false, units := [] }, target := 0, free := 0, moved := 0 },
    by decide +kernel⟩,
    ⟨{ w with cls.banks := (List.replicate 32 {}).set 31 { state := .populated, width := 1, enable := true, entries := [(2047, { priority := 9, action := 0, steer := 0, pass := false, units := [(0, 1)] })] } },
    { mc 65535 [(0, 2, 2047)] with handle := 31 }, by dsimp only; decide +kernel⟩,
    ⟨{ w with cls.banks := (List.replicate 32 {}).set 31 { state := .populated, width := 1, enable := true, entries := [(2047, { priority := 9, action := 0, steer := 0, pass := false, units := [(0, 1)] })] } },
    { mb 65535 [(0, 2, 2047)] 32 [] with handle := 31 }, by dsimp only; decide +kernel⟩,
    ⟨{ w with cls.banks := (List.replicate 32 {}).set 31 { state := .populated, width := 1, enable := true, entries := [(2047, { priority := 9, action := 0, steer := 0, pass := false, units := [(0, 1)] })] } },
    { mb 65535 [(2, 1, 1)] 32 [] with handle := 31 }, by dsimp only; decide +kernel⟩,
    ⟨{ w with cls.banks := (List.replicate 32 {}).set 31 { state := .populated, width := 1, enable := true, entries := [(2047, { priority := 9, action := 0, steer := 0, pass := false, units := [(0, 1)] })] } },
    { mb 65535 [] 32 [(16, 4, 65536)] with handle := 31 }, by dsimp only; decide +kernel⟩,
    ⟨{ w with cls := { banks := (List.replicate 32 {}).set 31 { state := .populated, width := 1, enable := true, entries := [(2047, { priority := 9, action := 0, steer := 0, pass := false, units := [(0, 1)] })] }, check := some { bank := 31, chartBase := 0, reportBase := 0, reportEntries := 1, waiting := [{ what := 5, since := 0 }], mismatches := 0, written := 0, full := false } } },
    { bank := 31, chartBase := 0, reportBase := 0, reportEntries := 1, waiting := [{ what := 5, since := 0 }], mismatches := 0, written := 0, full := false },
    { what := 5, since := 0 }, 5, zeros 128, by decide +kernel⟩,
    ⟨{ w with cls.check := some { bank := 31, chartBase := 0, reportBase := 0, reportEntries := 1, waiting := [], mismatches := 0, written := 0, full := false } },
    { bank := 31, chartBase := 0, reportBase := 0, reportEntries := 1, waiting := [], mismatches := 0, written := 0, full := false },
    by decide +kernel⟩⟩

/-- The hypotheses of `Obligations.FlowCommandsChangeTheTable` can be met, clause by clause. -/
theorem test_witness_FlowCommandsChangeTheTable :
    (∃ (s : State) (c : Cmd) (f : Flow) (pl : FlowPlace) (n : Nat),
    let op : Op := { code := 0x0401, tenant := true, inst := .either, lens := [64] }; let t := s.opened op c;
    let b := bufferOf op c; let e := imageFields t b none; s.ready op c = true ∧ cmdTenant c = none ∧
    t.flowOwner c.handle = none ∧ bit e.flags 2 = false ∧ t.flowReady = true ∧ c.handle < 2 ^ 20 ∧
    t.imageBad b = none ∧ t.flow.handles.find c.handle ≠ some false ∧ t.flow.findKey e.profile e.key = none ∧
    Flow.insert t.flow { e with handle := c.handle } = some (f, pl, n)) ∧
    (∃ (s : State) (c : Cmd), let op : Op := { code := 0x0401, tenant := true, inst := .either, lens := [64] };
    let t := s.opened op c; let b := bufferOf op c; s.ready op c = true ∧ cmdTenant c = none ∧
    t.flowOwner c.handle = none ∧ bit (imageFields t b none).flags 2 = false ∧ t.flowReady = true ∧
    c.handle < 2 ^ 20 ∧ t.imageBad b = none ∧ t.flow.handles.find c.handle = some false) ∧
    (∃ (f : Flow) (e : FlowEntry) (c0 : Nat × Nat) (c1 : Nat × Nat) (i : Nat) (is : List Nat),
    f.cands e.profile e.key = [c0, c1] ∧ (f.freeSlots c1).length ≤ (f.freeSlots c0).length ∧ f.freeSlots c0 = i :: is) ∧
    (∃ (s : State) (c : Cmd) (pl : FlowPlace) (x : FlowEntry),
    let op : Op := { code := 0x0402, tenant := true, inst := .either, lens := [64] }; let t := s.opened op c;
    let b := bufferOf op c; let e := imageFields t b none; s.ready op c = true ∧ cmdTenant c = none ∧
    t.flow.findHandle c.handle = some pl ∧ t.flow.entry pl = some x ∧ bit x.flags 2 = false ∧ bit x.flags 3 = false ∧
    bit e.flags 2 = false ∧ t.flowReady = true ∧ c.handle < 2 ^ 20 ∧ t.imageBad b = none ∧
    t.flow.handles.find c.handle = some false ∧ x.profile = e.profile ∧ x.key = e.key ∧ bit c.flags.toNat 0 = false) ∧
    (∃ (s : State) (c : Cmd) (pl : FlowPlace) (x : FlowEntry),
    let op : Op := { code := 0x0403, tenant := true, inst := .either }; let t := s.opened op c; s.ready op c = true ∧
    cmdTenant c = none ∧ t.flow.findHandle c.handle = some pl ∧ t.flow.entry pl = some x ∧ bit x.flags 2 = false ∧
    t.flowReady = true ∧ t.flow.handles.has c.handle = true) ∧
    (∃ (s : State) (c : Cmd) (pl : FlowPlace) (x : FlowEntry),
    let op : Op := { code := 0x0404, tenant := true, inst := .either, lens := [96], reads := bit c.flags.toNat 0, writes := true };
    let t := s.opened op c; s.ready op c = true ∧ cmdTenant c = none ∧ bit c.flags.toNat 0 = false ∧
    t.flow.findHandle c.handle = some pl ∧ t.flow.entry pl = some x ∧ t.flowReady = true ∧ c.handle < 2 ^ 20 ∧
    t.flow.handles.find c.handle = some false) ∧
    (∃ (s : State) (v : W32), s.linkReady = true ∧ s.inRun 5 = true ∧ bit v.toNat 31 = true ∧ bit v.toNat 16 = false ∧
    (∀ p < 16, bit v.toNat p = true → s.profRejects p = false)) :=
  ⟨⟨w, { mb 65535 [] 64 [(43, 1, 128)] with handle := 5 },
    ((w.flow.insert { key := zeros 40, profile := 0, handle := 5, flags := 128, meter := 0, owner := 0, action := pat 16 [] }).getD (w.flow,
    .ovf 0, 0)).1,
    ((w.flow.insert { key := zeros 40, profile := 0, handle := 5, flags := 128, meter := 0, owner := 0, action := pat 16 [] }).getD (w.flow,
    .ovf 0, 0)).2.1,
    ((w.flow.insert { key := zeros 40, profile := 0, handle := 5, flags := 128, meter := 0, owner := 0, action := pat 16 [] }).getD (w.flow,
    .ovf 0, 0)).2.2, by dsimp only; decide +kernel⟩,
    ⟨{ w with flow.ovf := [(0, { key := zeros 40, profile := 0, handle := 5, flags := 128, meter := 0, owner := 0, action := pat 16 [] })], flow.handles := [(5, false)] },
    { mb 65535 [] 64 [(43, 1, 128)] with handle := 5 }, by dsimp only; decide +kernel⟩,
    ⟨{}, { key := zeros 40, profile := 0, handle := 5, flags := 128, meter := 0, owner := 0, action := pat 16 [] },
    ((Flow.cands {} 0 (zeros 40)).getD 0 (0, 0)), ((Flow.cands {} 0 (zeros 40)).getD 1 (0, 0)), 0,
    [1, 2, 3, 4, 5, 6, 7], by decide +kernel⟩,
    ⟨{ w with flow.ovf := [(0, { key := zeros 40, profile := 0, handle := 5, flags := 128, meter := 0, owner := 0, action := pat 16 [] })], flow.handles := [(5, false)] },
    { mb 65535 [] 64 [(43, 1, 128)] with handle := 5 }, .ovf 0,
    { key := zeros 40, profile := 0, handle := 5, flags := 128, meter := 0, owner := 0, action := pat 16 [] },
    by dsimp only; decide +kernel⟩,
    ⟨{ w with flow.ovf := [(0, { key := zeros 40, profile := 0, handle := 5, flags := 128, meter := 0, owner := 0, action := pat 16 [] })], flow.handles := [(5, false)] },
    { mc 65535 [] with handle := 5 }, .ovf 0,
    { key := zeros 40, profile := 0, handle := 5, flags := 128, meter := 0, owner := 0, action := pat 16 [] },
    by dsimp only; decide +kernel⟩,
    ⟨{ w with flow.ovf := [(0, { key := zeros 40, profile := 0, handle := 5, flags := 128, meter := 0, owner := 0, action := pat 16 [] })], flow.handles := [(5, false)] },
    { mb 65535 [] 96 [] with handle := 5 }, .ovf 0,
    { key := zeros 40, profile := 0, handle := 5, flags := 128, meter := 0, owner := 0, action := pat 16 [] },
    by dsimp only; decide +kernel⟩,
    ⟨w, 0x80008000, by decide +kernel⟩⟩

/-- The hypotheses of `Obligations.FlowBackgroundJobsRun` can be met, clause by clause. -/
theorem test_witness_FlowBackgroundJobsRun :
    (∃ (s : State) (c : Cmd), let op : Op := { code := 0x0405 }; let t := s.opened op c;
    let a := BitVec.ofNat 64 (leAt c.data 0 8); let b := BitVec.ofNat 64 (leAt c.data 8 8); s.ready op c = true ∧
    c.handle = 0 ∧ a ≠ 0 ∧ b ≠ 0 ∧ a ≠ b ∧ a ≠ t.flow.seedA ∧ a ≠ t.flow.seedB ∧ b ≠ t.flow.seedA ∧ b ≠ t.flow.seedB ∧
    50 ≤ leAt c.data 16 2 ∧ leAt c.data 16 2 ≤ 1000 ∧ 1 ≤ leAt c.data 18 2 ∧ leAt c.data 18 2 ≤ 256 ∧
    t.flowReady = true ∧ t.flow.jobCode = 0) ∧
    (∃ (s : State) (w : Swing), s.flow.swing = some w ∧ s.flowReady = true ∧ s.hove = false ∧
    (s.flow.swingWork w).1.stuck = 0) ∧
    (∃ (s : State) (w : Swing), s.flow.swing = some w ∧ w.stalled = false ∧ s.flowReady = true ∧ s.hove = false) ∧
    (∃ (s : State) (c : Cmd), let op : Op := { code := 0x0406, lens := [32] }; let t := s.opened op c;
    let b := bufferOf op c; s.ready op c = true ∧ c.handle = 0 ∧ leAt b 0 8 % 64 = 0 ∧ leAt b 8 8 % 16 = 0 ∧
    0 < leAt b 16 4 ∧ leAt b 16 4 ≤ 1048576 ∧ rangeBad b = none ∧ 10 ≤ byteAt b 29 ∧ byteAt b 29 ≤ 250 ∧
    t.flowReady = true ∧ t.flow.jobCode = 0 ∧ s.err.injectTimeout = false) ∧
    (∃ (s : State) (k : FlowCheck) (h : Nat) (m : Mismatch) (line : Bytes), s.flow.job = .check k ∧
    k.waiting.find? (fun w => w.what == h) = some m ∧ s.hove = false ∧ s.flowReady = true ∧
    s.elapsed m.since (s.flow.settleMs * msTicks) = true ∧ (∀ a ∈ s.dechan.accepted, ¬(0x0401 ≤ a.opcode ∧
    a.opcode ≤ 0x0404)) ∧ s.readHeld .pf0 = false ∧ s.err.injectTimeout = false ∧
    s.flow.compare k.tags h (slice line 0 64) = none) ∧
    (∃ (s : State) (k : FlowCheck), s.flow.job = .check k ∧ k.waiting = [] ∧ s.hove = false ∧ s.flowReady = true) ∧
    (∃ (s : State) (c : Cmd), let op : Op := { code := 0x0407, lens := [32] }; let t := s.opened op c;
    let b := bufferOf op c; s.ready op c = true ∧ c.handle = 0 ∧ leAt b 0 8 % 64 = 0 ∧ rangeBad b = none ∧
    t.flowReady = true ∧ t.flow.jobCode = 0) ∧
    (∃ (s : State) (base : Nat) (first : Nat) (count : Nat), s.flow.job = .reload base first count ∧ s.hove = false ∧
    s.flowReady = true ∧ s.readHeld .pf0 = false ∧ (∀ p ∈ s.flow.handles, p.2 = false)) ∧
    (∃ (s : State) (base : Nat) (first : Nat) (count : Nat) (h : Nat), s.flow.job = .reload base first count ∧
    s.hove = false ∧ s.flowReady = true ∧ s.readHeld .pf0 = false ∧ s.flow.handles = [(h, true)] ∧ first ≤ h ∧
    h < first + count ∧ s.flowOwner h = none) ∧
    (∃ (s : State), s.flow.scanDue = true ∧ s.inRun 6 = true ∧ s.helmRuns = true ∧ s.hove = false ∧ s.insts = []) ∧
    (∃ (s : State) (h : Nat) (pl : FlowPlace) (e : FlowEntry), s.inRun 6 = true ∧
    s.flow.sweepMs ≤ (s.flow.ms.toNat + 2 ^ 32 - s.flow.lastSweep) % 2 ^ 32 ∧ s.flow.firstSweep = false ∧
    s.flow.handles = [(h, false)] ∧ s.flow.findHandle h = some pl ∧ s.flow.entry pl = some e ∧ bit e.flags 0 = true ∧
    (s.flow.ms - (s.flow.recs.getD h {}).lastMs).toNat < (s.flow.profs.getD e.profile {}).ageLimit * 1000) ∧
    (∃ (s : State), s.inRun 6 = true ∧ (s.flow.ms.toNat + 2 ^ 32 - s.flow.lastSweep) % 2 ^ 32 < s.flow.sweepMs) ∧
    (∃ (s : State), s.hove = true) :=
  ⟨⟨w, { mc 65535 [(0, 8, 11), (8, 8, 12), (16, 2, 1000), (18, 2, 256)] with handle := 0 },
    by dsimp only; decide +kernel⟩,
    ⟨{ w with flow.swing := some { seedA := 3, seedB := 4, budget := 50, maxMoves := 1, cursor := 0, stalled := false, everStalled := false, moves := 0 } },
    { seedA := 3, seedB := 4, budget := 50, maxMoves := 1, cursor := 0, stalled := false, everStalled := false, moves := 0 },
    by decide +kernel⟩,
    ⟨{ w with flow.swing := some { seedA := 3, seedB := 4, budget := 50, maxMoves := 1, cursor := 0, stalled := false, everStalled := false, moves := 0 }, flow.slots := (flowCands 3 4 0 (zeros 40)).flatMap (fun c => (List.range 8).map (fun i => (slotKey c.1 c.2 i, ({ key := zeros 40, profile := 0, handle := 5, flags := 128, meter := 0, owner := 0, action := pat 16 [] } : FlowEntry)))) ++ [(slotKey 1 5 0, ({ key := zeros 40, profile := 0, handle := 5, flags := 128, meter := 0, owner := 0, action := pat 16 [] } : FlowEntry))] },
    { seedA := 3, seedB := 4, budget := 50, maxMoves := 1, cursor := 0, stalled := false, everStalled := false, moves := 0 },
    by decide +kernel⟩,
    ⟨w, { mb 65535 [] 32 [(16, 4, 1048576), (29, 1, 250)] with handle := 0 }, by dsimp only; decide +kernel⟩,
    ⟨{ w with flow.job := .check { chartBase := 0, reportBase := 0, reportEntries := 1, first := 0, count := 1, tags := false, budget := 10, waiting := [{ what := 5, since := 0 }], compared := 0, mismatches := 0, written := 0, full := false } },
    { chartBase := 0, reportBase := 0, reportEntries := 1, first := 0, count := 1, tags := false, budget := 10, waiting := [{ what := 5, since := 0 }], compared := 0, mismatches := 0, written := 0, full := false },
    5, { what := 5, since := 0 }, zeros 64, by decide +kernel⟩,
    ⟨{ w with flow.job := .check { chartBase := 0, reportBase := 0, reportEntries := 1, first := 0, count := 1, tags := false, budget := 10, waiting := [], compared := 0, mismatches := 0, written := 0, full := false } },
    { chartBase := 0, reportBase := 0, reportEntries := 1, first := 0, count := 1, tags := false, budget := 10, waiting := [], compared := 0, mismatches := 0, written := 0, full := false },
    by decide +kernel⟩,
    ⟨w, { mb 65535 [] 32 [] with handle := 0 }, by dsimp only; decide +kernel⟩,
    ⟨{ w with flow.job := .reload 0 0 1 }, 0, 0, 1, by decide +kernel⟩,
    ⟨{ w with flow := { w.flow with job := .reload 4096 5 1, handles := [(5, true)] } }, 4096, 5, 1, 5,
    by decide +kernel⟩,
    ⟨{ w with flow.scanDue := true, insts := [] }, by decide +kernel⟩,
    ⟨{ w with flow.ovf := [(0, { key := zeros 40, profile := 0, handle := 5, flags := 129, meter := 0, owner := 0, action := pat 16 [] })], flow.handles := [(5, false)], flow.firstSweep := false, flow.ms := 1000, flow.lastSweep := 0 },
    5, .ovf 0,
    { key := zeros 40, profile := 0, handle := 5, flags := 129, meter := 0, owner := 0, action := pat 16 [] },
    by decide +kernel⟩,
    ⟨{ w with flow.ms := 999, flow.lastSweep := 0 }, by decide +kernel⟩,
    ⟨{ w with boot.causes := 2 }, by decide +kernel⟩⟩

/-- The hypotheses of `Obligations.SchedulerRefillsSelectsAndSounds` can be met, clause by clause. -/
theorem test_witness_SchedulerRefillsSelectsAndSounds :
    (∃ (s : State), s.inRun 5 = true ∧ s.sched.tickAt ≠ some (s.now / 1250) ∧ (∀ a ∈ s.dechan.accepted,
    a.opcode ≠ 0x0208 ∧ a.opcode ≠ 0x0701)) ∧
    (∃ (s : State), s.sched.tickAt = some (s.now / 1250)) ∧
    (∃ (n : Node), n.rate = 0) ∧
    (∃ (n : Node), n.rate ≠ 0) ∧
    (∃ (n : Node), n.rate ≠ 0 ∧ 0 ≤ n.credit) ∧
    (∃ (n : Node), n.rate ≠ 0 ∧ n.credit < 0) ∧
    (∃ (s : State) (p : Nat), s.inRun 5 = true ∧ s.eligible (portNode p) = false ∧ (p = 4 ∨ p = 5)) ∧
    (∃ (s : State) (sub : Nat) (f : Queued) (l : List Queued),
    let len := if cellsOf f.frame.len ≤ 1 then max 84 (f.frame.len + (s.node 0x3005).overhead) else f.frame.len + (s.node 0x3005).overhead;
    s.inRun 5 = true ∧ s.hove = false ∧ s.sched.ready = true ∧ s.sched.queues = [(sub * 64 + 5, f :: l)] ∧
    (s.node sub).rate = 0 ∧ (s.node (0x1000 + sub * 8)).rate = 0 ∧ (s.node 0x3005).rate = 0 ∧
    len ≤ s.sched.deficit.getD (sub * 8 + 5) 0) ∧
    (∃ (s : State) (k : Nat) (x : Sounding), k < 4 ∧ s.sched.snd.getD k {} = x ∧ x.enable = true ∧ s.inRun 5 = true ∧
    s.sched.ready = true ∧ s.hove = false ∧ s.sched.tick % x.period = 0 ∧ x.lastTick ≠ some s.sched.tick ∧
    (x.writing ≠ 0 ∨ 2 ^ x.ringLog2 < (x.prod - x.cons).toNat + (x.count + 1))) ∧
    (∃ (s : State) (k : Nat) (x : Sounding), k < 4 ∧ s.sched.snd.getD k {} = x ∧ x.lastTick = some s.sched.tick) ∧
    (∃ (s : State) (k : Nat) (x : Sounding), k < 4 ∧ s.sched.snd.getD k {} = x ∧ x.enable = true ∧ s.inRun 5 = true ∧
    s.sched.ready = true ∧ s.hove = false ∧ s.sched.tick % x.period = 0 ∧ x.lastTick ≠ some s.sched.tick ∧
    x.writing = 0 ∧ (x.prod - x.cons).toNat + (x.count + 1) ≤ 2 ^ x.ringLog2) ∧
    (∃ (s : State), s.inRun 6 = true ∧ s.sched.ready = true) :=
  ⟨⟨w, by decide +kernel⟩,
    ⟨{ w with sched := { ready := true, tickAt := some 800000000 } }, by decide +kernel⟩,
    ⟨{}, by decide +kernel⟩,
    ⟨{ rate := 1 }, by decide +kernel⟩,
    ⟨{ rate := 1 }, by decide +kernel⟩,
    ⟨{ rate := 1, credit := -1 }, by decide +kernel⟩,
    ⟨{ w with sched.nodes := [(0x3004, { rate := 1, credit := -1 })] }, 4, by decide +kernel⟩,
    ⟨{ w with sched.queues := [(5, [{ frame := { body := zeros 60, srcPort := 0 }, cells := 1, dram := false, at_ := 0 }])], sched.deficit := [(5, 2000)] },
    0, { frame := { body := zeros 60, srcPort := 0 }, cells := 1, dram := false, at_ := 0 }, [],
    by dsimp only; decide +kernel⟩,
    ⟨{ w with sched.snd := (List.replicate 4 {}).set 3 { enable := true, ringLog2 := 6, cons := 4294967233 } }, 3,
    { enable := true, ringLog2 := 6, cons := 4294967233 }, by decide +kernel⟩,
    ⟨{ w with sched := { ready := true, tick := 5, snd := List.replicate 4 { lastTick := some 5 } } }, 3,
    { lastTick := some 5 }, by decide +kernel⟩,
    ⟨{ w with sched.snd := (List.replicate 4 {}).set 3 { enable := true, ringLog2 := 6, cons := 4294967234 } }, 3,
    { enable := true, ringLog2 := 6, cons := 4294967234 }, by decide +kernel⟩,
    ⟨w, by decide +kernel⟩⟩

/-- The hypotheses of `Obligations.SchedulerCommandsConfigure` can be met, clause by clause. -/
theorem test_witness_SchedulerCommandsConfigure :
    (∃ (s : State) (c : Cmd), let op : Op := { code := 0x0208, inst := .inst, states := 0x3E };
    let t := s.opened op c; s.ready op c = true ∧ t.sched.ready = true ∧
    shareBad c.data 100000 true false false = none) ∧
    (∃ (s : State) (c : Cmd), let op : Op := { code := 0x0701 }; let t := s.opened op c; s.ready op c = true ∧
    t.sched.ready = true ∧ (c.handle = 512 ∨ c.handle = 513) ∧ shareBad c.data 100000 true false false = none) ∧
    (∃ (s : State) (c : Cmd) (n : MeterProfile), let op : Op := { code := 0x0702 }; let t := s.opened op c;
    s.ready op c = true ∧ t.sched.ready = true ∧ byteAt c.data 0 = 1 ∧ n = profileOf c.data ∧ leAt c.data 2 2 ≤ 4095 ∧
    8 ≤ n.cir ∧ n.cir ≤ n.pir ∧ n.pir ≤ 100000000 ∧ 64 ≤ n.cbs ∧ n.cbs ≤ 16777215 ∧ 64 ≤ n.pbs ∧ n.pbs ≤ 16777215) ∧
    (∃ (s : State) (c : Cmd), let op : Op := { code := 0x0702 }; let t := s.opened op c; s.ready op c = true ∧
    t.sched.ready = true ∧ byteAt c.data 0 = 2 ∧ leAt c.data 2 2 ≤ 4095 ∧ leAt c.data 4 4 < 524288 ∧
    leAt c.data 8 4 = 1 ∧ t.mem.errors = []) ∧
    (∃ (s : State) (c : Cmd) (m : Meter), let op : Op := { code := 0x0702 }; let t := s.opened op c;
    s.ready op c = true ∧ t.sched.ready = true ∧ byteAt c.data 0 = 3 ∧ leAt c.data 4 4 < 524288 ∧
    t.sched.meters.find (leAt c.data 4 4) = some m ∧ m.lost = false) ∧
    (∃ (s : State) (c : Cmd) (m : Meter), let op : Op := { code := 0x0702 }; let t := s.opened op c;
    s.ready op c = true ∧ t.sched.ready = true ∧ byteAt c.data 0 = 3 ∧ leAt c.data 4 4 < 524288 ∧
    t.sched.meters.find (leAt c.data 4 4) = some m ∧ m.lost = true) ∧
    (∃ (s : State) (c : Cmd), let op : Op := { code := 0x0703 }; let t := s.opened op c; s.ready op c = true ∧
    t.sched.ready = true ∧ byteAt c.data 0 ≤ 3 ∧ bit (byteAt c.data 1) 0 = false ∧
    soundingBad (soundingOf c.data) = none) ∧
    (∃ (s : State) (c : Cmd) (x : Sounding), let op : Op := { code := 0x0703 }; let t := s.opened op c;
    s.ready op c = true ∧ t.sched.ready = true ∧ byteAt c.data 0 ≤ 3 ∧ x = soundingOf c.data ∧ x.enable = true ∧
    soundingBad x = none ∧ soundingLoad (t.sched.snd.set (byteAt c.data 0) x) = true) :=
  ⟨⟨w, mc 1 [], by dsimp only; decide +kernel⟩,
    ⟨w, { mc 65535 [] with handle := 513 }, by dsimp only; decide +kernel⟩,
    ⟨w, mc 65535 [(0, 1, 1), (2, 2, 4095), (4, 4, 8), (8, 4, 100000000), (12, 4, 64), (16, 4, 16777215)],
    profileOf (pat 36 [(0, 1, 1), (2, 2, 4095), (4, 4, 8), (8, 4, 100000000), (12, 4, 64), (16, 4, 16777215)]),
    by dsimp only; decide +kernel⟩,
    ⟨w, mc 65535 [(0, 1, 2), (2, 2, 4095), (4, 4, 524287), (8, 4, 1)], by dsimp only; decide +kernel⟩,
    ⟨{ w with sched.meters := [(524287, {})] }, mc 65535 [(0, 1, 3), (4, 4, 524287)], {},
    by dsimp only; decide +kernel⟩,
    ⟨{ w with sched := { ready := true, meters := [(524287, { lost := true })] } },
    mc 65535 [(0, 1, 3), (4, 4, 524287)], { lost := true }, by dsimp only; decide +kernel⟩,
    ⟨w, mc 65535 [(0, 1, 3), (2, 2, 1), (6, 2, 1), (8, 1, 1), (9, 1, 1), (10, 1, 6)], by dsimp only; decide +kernel⟩,
    ⟨w, mc 65535 [(0, 1, 3), (1, 1, 1), (2, 2, 1000), (4, 2, 513), (6, 2, 1), (8, 1, 1), (9, 1, 1), (10, 1, 6)],
    soundingOf (pat 36 [(0, 1, 3), (1, 1, 1), (2, 2, 1000), (4, 2, 513), (6, 2, 1), (8, 1, 1), (9, 1, 1), (10, 1, 6)]),
    by dsimp only; decide +kernel⟩⟩

/-- The hypotheses of `Obligations.CipherCommandsChangeTheirContext` can be met, clause by clause. -/
theorem test_witness_CipherCommandsChangeTheirContext :
    (∃ (s : State) (c : Cmd),
    let op : Op := { code := 0x0601, tenant := true, inst := .either, lens := [128], zeroAt := some (64, 44), zeroIf := true, writes := true };
    let t := s.opened op c; let b := bufferOf op c; s.ready op c = true ∧ cmdTenant c = none ∧ c.paramLen = 128 ∧
    t.ctxOwner c.handle = none ∧ c.handle < 2 ^ 20 ∧ ctxBad b = none ∧ bit (byteAt b 1) 0 = false ∧
    t.ctx c.handle = none ∧ (byteAt b 0 = 1 ∨ byteAt b 0 = 3) ∧ (∀ p ∈ t.ciph.ctxs, p.2.label ≠ slice b 32 32)) ∧
    (∃ (s : State) (c : Cmd) (x : Ctx),
    let op : Op := { code := 0x0602, tenant := true, inst := .either, lens := [0, 44], zeroAt := none, writes := true };
    let t := s.opened op c; s.ready op c = true ∧ cmdTenant c = none ∧ c.paramLen = 0 ∧ c.handle < 2 ^ 20 ∧
    t.ctx c.handle = some x ∧ x.state ≠ .lost ∧ x.imported = false ∧ labelGen x.label < leAt c.data 0 2 ∧
    t.pinned c.handle = false) ∧
    (∃ (s : State) (c : Cmd) (x : Ctx),
    let op : Op := { code := 0x0602, tenant := true, inst := .either, lens := [0, 44], zeroAt := none, writes := true };
    let t := s.opened op c; s.ready op c = true ∧ cmdTenant c = none ∧ c.paramLen = 0 ∧ c.handle < 2 ^ 20 ∧
    t.ctx c.handle = some x ∧ x.state ≠ .lost ∧ x.imported = false ∧ leAt c.data 0 2 ≤ labelGen x.label) ∧
    (∃ (s : State) (c : Cmd) (x : Ctx),
    let op : Op := { code := 0x0604, tenant := true, inst := .either, lens := [64], reads := false, writes := true };
    let t := s.opened op c; s.ready op c = true ∧ cmdTenant c = none ∧ c.handle < 2 ^ 20 ∧ t.ctx c.handle = some x ∧
    x.state ≠ .lost) ∧
    (∃ (s : State) (c : Cmd) (x : Ctx), let op : Op := { code := 0x0603, tenant := true, inst := .either };
    let t := s.opened op c; s.ready op c = true ∧ cmdTenant c = none ∧ c.handle < 2 ^ 20 ∧ t.ctx c.handle = some x ∧
    t.pinned c.handle = false ∧ t.ciph.jobs = []) ∧
    (∃ (s : State) (c : Cmd), let op : Op := { code := 0x0E04 }; let t := s.opened op c; s.ready op c = true ∧
    t.ciph.present = 0 ∧ byteAt c.data 0 = 31 ∧ t.ciph.lode = .alarmed) ∧
    (∃ (s : State) (c : Cmd), let op : Op := { code := 0x0E01, lens := [96], writes := true, zeroAt := some (8, 60) };
    let t := s.opened op c; let b := bufferOf op c; s.ready op c = true ∧ c.paramLen = 96 ∧ byteAt b 0 = 3 ∧
    t.ciph.enrolment = none) :=
  ⟨⟨w, { mb 65535 [] 128 [(0, 1, 1), (32, 1, 1)] with handle := 5 }, by dsimp only; decide +kernel⟩,
    ⟨{ w with ciph.ctxs := [(5, { label := pat 32 [(0, 1, 1)], pn := 1, kcv := 5, op := 1, flags := 0, owner := 0xFFFF })] },
    { mc 65535 [(0, 2, 1)] with handle := 5 },
    { label := pat 32 [(0, 1, 1)], pn := 1, kcv := 5, op := 1, flags := 0, owner := 0xFFFF },
    by dsimp only; decide +kernel⟩,
    ⟨{ w with ciph.ctxs := [(5, { label := pat 32 [(0, 1, 1)], pn := 1, kcv := 5, op := 1, flags := 0, owner := 0xFFFF })] },
    { mc 65535 [(0, 2, 0)] with handle := 5 },
    { label := pat 32 [(0, 1, 1)], pn := 1, kcv := 5, op := 1, flags := 0, owner := 0xFFFF },
    by dsimp only; decide +kernel⟩,
    ⟨{ w with ciph.ctxs := [(5, { label := pat 32 [(0, 1, 1)], pn := 1, kcv := 5, op := 1, flags := 0, owner := 0xFFFF })] },
    { mb 65535 [] 64 [] with handle := 5 },
    { label := pat 32 [(0, 1, 1)], pn := 1, kcv := 5, op := 1, flags := 0, owner := 0xFFFF },
    by dsimp only; decide +kernel⟩,
    ⟨{ w with ciph.ctxs := [(5, { label := pat 32 [(0, 1, 1)], pn := 1, kcv := 5, op := 1, flags := 0, owner := 0xFFFF })] },
    { mc 65535 [] with handle := 5 },
    { label := pat 32 [(0, 1, 1)], pn := 1, kcv := 5, op := 1, flags := 0, owner := 0xFFFF },
    by dsimp only; decide +kernel⟩,
    ⟨{ w with ciph.lode := .alarmed }, { mc 65535 [(0, 1, 31)] with ring := .sec }, by dsimp only; decide +kernel⟩,
    ⟨w, { mb 65535 [] 96 [(0, 1, 3)] with ring := .sec }, by dsimp only; decide +kernel⟩⟩

/-- The hypotheses of `Obligations.CipherEventsAndRawLanes` can be met, clause by clause. -/
theorem test_witness_CipherEventsAndRawLanes :
    (∃ (s : State), s.inRun 8 = true ∧ s.helmRuns = true ∧ s.ciph.ready = false) ∧
    (∃ (s : State) (t : Nat) (n : Nat), n < 3 ∧ t < 128 ∧ s.inRun 8 = true ∧ s.helmRuns = true ∧
    t ∉ (s.rawLane n).lostBy ∧ (s.rawLane n).held = false) ∧
    (∃ (s : State) (t : Nat) (n : Nat), n < 3 ∧ s.inRun 8 = true ∧ s.helmRuns = true ∧ t ∉ (s.rawLane n).lostBy ∧
    (s.rawLane n).held = true) ∧
    (∃ (s : State) (t : Nat) (n : Nat) (k : Bytes) (big : Bool), n < 3 ∧ s.inRun 8 = true ∧ s.helmRuns = true ∧
    t ∉ (s.rawLane n).lostBy ∧ (s.rawLane n).held = true ∧ (s.rawLane n).owner = t ∧ (s.rawLane n).key = some (k,
    big)) ∧
    (∃ (s : State) (t : Nat) (n : Nat), n < 3 ∧ s.inRun 8 = true ∧ s.helmRuns = true ∧ t ∉ (s.rawLane n).lostBy ∧
    (s.rawLane n).held = true ∧ (s.rawLane n).owner = t ∧ (s.rawLane n).key = none) ∧
    (∃ (s : State) (t : Nat) (n : Nat) (l : Bytes), n < 3 ∧ s.inRun 8 = true ∧ s.helmRuns = true ∧
    t ∉ (s.rawLane n).lostBy ∧ (s.rawLane n).held = true ∧ (s.rawLane n).owner = t ∧ labelKind l ≠ 7) ∧
    (∃ (s : State) (t : Nat) (n : Nat), n < 3 ∧ s.inRun 8 = true ∧ s.helmRuns = true ∧ t ∉ (s.rawLane n).lostBy ∧
    (s.rawLane n).held = true ∧ (s.rawLane n).owner = t) ∧
    (∃ (s : State), s.inRun 8 = true ∧ s.inRun 3 = true) ∧
    (∃ (s : State) (t : Nat) (n : Nat), n < 3 ∧ s.inRun 8 = true ∧ s.helmRuns = true ∧ t ∉ (s.rawLane n).lostBy ∧
    (s.rawLane n).held = true ∧ (s.rawLane n).owner = t) ∧
    (∃ (s : State) (n : Nat), n < 3 ∧ (s.rawLane n).held = true ∧
    (s.rawLane n).since + s.ciph.rawHoldUs * 1250 ≤ s.now) ∧
    (∃ (s : State) (n : Nat), n < 3 ∧ (s.rawLane n).held = true ∧
    s.now < (s.rawLane n).since + s.ciph.rawHoldUs * 1250) ∧
    (∃ (s : State) (t : Nat) (n : Nat), n < 3 ∧ s.inRun 8 = true ∧ s.helmRuns = true ∧ t ∈ (s.rawLane n).lostBy) ∧
    (∃ (s : State) (x : Ctx) (j : CipherJob) (k : Bytes), s.inRun 8 = true ∧ s.ciph.jobs = [j] ∧ j.place = .key ∧
    s.lodeLoaded = true ∧ s.ctx j.handle = some x ∧ x.state = .live ∧ x.kcv = s.ciph.kcv ∧ x.imported = false ∧
    s.errBits 1 (0x380000000 + j.handle * 64) 64 = 0 ∧ isTxCode j.code = false ∧ j.args = none ∧ s.ciph.cache = [] ∧
    s.ctxKey j.handle x = some k) ∧
    (∃ (s : State) (x : Ctx) (j : CipherJob) (k : Bytes), s.inRun 8 = true ∧ s.inRun 11 = true ∧ s.ciph.jobs = [j] ∧
    j.place = .key ∧ s.lodeLoaded = true ∧ s.ctx j.handle = some x ∧ x.state = .live ∧ x.kcv = s.ciph.kcv ∧
    x.imported = true ∧ s.errBits 1 (0x380000000 + j.handle * 64) 64 = 0 ∧ isTxCode j.code = false ∧ j.args = none ∧
    s.ciph.cache = [] ∧ s.ctxKey j.handle x = some k) ∧
    (∃ (s : State) (h : Nat), s.misses.contains h = false) ∧
    (∃ (s : State) (j : CipherJob) (n : Nat), s.inRun 8 = true ∧ s.ciph.jobs = [j] ∧ j.place = .lane n ∧
    s.dechan.accepted = []) ∧
    (∃ (s : State) (j : CipherJob) (a : CipherArgs), s.inRun 8 = true ∧ s.ciph.jobs = [j] ∧ j.place = .store ∧
    j.args = some a) ∧
    (∃ (s : State) (j : CipherJob) (x : Ctx), s.inRun 8 = true ∧ s.ciph.jobs = [j] ∧ j.place = .store ∧
    j.args = none ∧ s.dechan.accepted = [] ∧ s.lodeLoaded = true ∧ s.ctx j.handle = some x ∧ x.state = .live ∧
    x.kcv = s.ciph.kcv ∧ s.errBits 1 (0x380000000 + j.handle * 64) 64 = 0 ∧ s.ciph.cache = []) ∧
    (∃ (s : State), s.inRun 8 = true ∧ s.awaiting ≠ []) ∧
    (∃ (s : State), s.awaiting = []) :=
  ⟨⟨{ w with ciph.ready := false }, by decide +kernel⟩,
    ⟨w, 127, 2, by decide +kernel⟩,
    ⟨{ w with ciph.raw := (List.replicate 4 {}).set 2 { held := true, owner := 127 } }, 0, 2, by decide +kernel⟩,
    ⟨{ w with ciph.raw := (List.replicate 4 {}).set 2 { held := true, owner := 127, key := some (zeros 16, false) } },
    127, 2, zeros 16, false, by decide +kernel⟩,
    ⟨{ w with ciph.raw := (List.replicate 4 {}).set 2 { held := true, owner := 127 } }, 127, 2, by decide +kernel⟩,
    ⟨{ w with ciph.raw := (List.replicate 4 {}).set 2 { held := true, owner := 127 } }, 127, 2, zeros 32,
    by decide +kernel⟩,
    ⟨{ w with ciph.raw := (List.replicate 4 {}).set 2 { held := true, owner := 127 } }, 127, 2, by decide +kernel⟩,
    ⟨w, by decide +kernel⟩,
    ⟨{ w with ciph.raw := (List.replicate 4 {}).set 2 { held := true, owner := 127 } }, 127, 2, by decide +kernel⟩,
    ⟨{ w with ciph.raw := (List.replicate 4 {}).set 2 { held := true, owner := 127, since := 999999937500 } }, 2,
    by decide +kernel⟩,
    ⟨{ w with ciph.raw := (List.replicate 4 {}).set 2 { held := true, owner := 127, since := 999999937501 } }, 2,
    by decide +kernel⟩,
    ⟨{ w with ciph.raw := (List.replicate 4 {}).set 2 { lostBy := [126, 127] } }, 127, 2, by decide +kernel⟩,
    ⟨{ w with ciph.ctxs := [(5, { label := pat 32 [(0, 1, 1)], pn := 1, kcv := 5, op := 1, flags := 0, owner := 0xFFFF })], ciph.jobs := [{ frame := { body := zeros 60, srcPort := 0 }, handle := 5, code := 6, place := .key, pn := none, next := .transmit { record := zeros 16, svc := 0, markDei := false, template := [], group := [], key := [] } }] },
    { label := pat 32 [(0, 1, 1)], pn := 1, kcv := 5, op := 1, flags := 0, owner := 0xFFFF },
    { frame := { body := zeros 60, srcPort := 0 }, handle := 5, code := 6, place := .key, pn := none, next := .transmit { record := zeros 16, svc := 0, markDei := false, template := [], group := [], key := [] } },
    _, by decide +kernel, rfl, rfl, by decide +kernel, by decide +kernel, rfl, rfl, rfl, by decide +kernel,
    by decide +kernel, rfl, rfl, rfl⟩,
    ⟨{ w with ciph.ctxs := [(5, { label := pat 32 [(0, 1, 1)], pn := 1, kcv := 5, op := 1, flags := 1, owner := 0xFFFF, tag := gcmTag (deriveKey (zeros 32) (wrapLabel 5) true) (zeros 12) [] (zeros 32) })], ciph.jobs := [{ frame := { body := zeros 60, srcPort := 0 }, handle := 5, code := 6, place := .key, pn := none, next := .transmit { record := zeros 16, svc := 0, markDei := false, template := [], group := [], key := [] } }] }, { label := pat 32 [(0, 1, 1)], pn := 1, kcv := 5, op := 1, flags := 1, owner := 0xFFFF, tag := gcmTag (deriveKey (zeros 32) (wrapLabel 5) true) (zeros 12) [] (zeros 32) }, { frame := { body := zeros 60, srcPort := 0 }, handle := 5, code := 6, place := .key, pn := none, next := .transmit { record := zeros 16, svc := 0, markDei := false, template := [], group := [], key := [] } }, (gcmCrypt (deriveKey (zeros 32) (wrapLabel 5) true) (zeros 12) (zeros 32)).take 16, by decide +kernel, by decide +kernel, rfl, rfl, by decide +kernel, rfl, rfl, rfl, rfl, by decide +kernel, by decide +kernel, rfl, by
        have h : labelK256 (pat 32 [(0, 1, 1)]) = false := by decide +kernel
        have h2 : bit 1 0 = true := by decide
        simp [State.ctxKey, Ctx.imported, gcmOpen, State.errBits, h, h2, w]⟩,
    ⟨w, 0, by decide +kernel⟩,
    ⟨{ w with ciph.jobs := [{ frame := { body := zeros 60, srcPort := 0 }, handle := 5, code := 6, place := .lane 3, pn := none, next := .transmit { record := zeros 16, svc := 0, markDei := false, template := [], group := [], key := [] } }] },
    { frame := { body := zeros 60, srcPort := 0 }, handle := 5, code := 6, place := .lane 3, pn := none, next := .transmit { record := zeros 16, svc := 0, markDei := false, template := [], group := [], key := [] } },
    3, by decide +kernel⟩,
    ⟨{ w with ciph.jobs := [{ frame := { body := zeros 60, srcPort := 0 }, handle := 5, code := 6, place := .store, pn := none, next := .transmit { record := zeros 16, svc := 0, markDei := false, template := [], group := [], key := [] }, args := some { key := zeros 16, label := zeros 32, xpn := false, integrityOnly := false, includeSci := false, ssci := 0, salt := [] } }] },
    { frame := { body := zeros 60, srcPort := 0 }, handle := 5, code := 6, place := .store, pn := none, next := .transmit { record := zeros 16, svc := 0, markDei := false, template := [], group := [], key := [] }, args := some { key := zeros 16, label := zeros 32, xpn := false, integrityOnly := false, includeSci := false, ssci := 0, salt := [] } },
    { key := zeros 16, label := zeros 32, xpn := false, integrityOnly := false, includeSci := false, ssci := 0, salt := [] },
    by decide +kernel⟩,
    ⟨{ w with ciph.ctxs := [(5, { label := pat 32 [(0, 1, 1)], pn := 1, kcv := 5, op := 1, flags := 0, owner := 0xFFFF })], ciph.jobs := [{ frame := { body := zeros 60, srcPort := 0 }, handle := 5, code := 6, place := .store, pn := none, next := .transmit { record := zeros 16, svc := 0, markDei := false, template := [], group := [], key := [] } }] },
    { frame := { body := zeros 60, srcPort := 0 }, handle := 5, code := 6, place := .store, pn := none, next := .transmit { record := zeros 16, svc := 0, markDei := false, template := [], group := [], key := [] } },
    { label := pat 32 [(0, 1, 1)], pn := 1, kcv := 5, op := 1, flags := 0, owner := 0xFFFF }, by decide +kernel⟩,
    ⟨{ w with ciph.jobs := [{ frame := { body := zeros 60, srcPort := 0 }, handle := 5, code := 6, place := .store, pn := none, next := .transmit { record := zeros 16, svc := 0, markDei := false, template := [], group := [], key := [] } }] },
    by decide +kernel⟩,
    ⟨w, by decide +kernel⟩⟩

/-- The hypotheses of `Obligations.ResetsLeaveWhatTheyName` can be met, clause by clause. -/
theorem test_witness_ResetsLeaveWhatTheyName :
    (∃ (s : State), s.host.perstHigh = false ∧ s.inRun 0 = true ∧ s.inRun 2 = true ∧ s.power.wakeN = true ∧
    s.power.wakeTarget.getD 5 0 = 0) ∧
    (∃ (s : State), s.host.perstHigh = false ∧ s.inRun 0 = true ∧ s.power.wakeN = false ∧
    2 ≤ s.power.wakeTarget.getD 5 0 ∧ s.power.wakeTarget.getD 5 0 < 2 ^ 14) ∧
    (∃ (s : State), s.linkReady = true ∧ s.host.tags = [] ∧ s.boot.loading = none ∧ s.sw.busy = false ∧ (∀ m < 16,
    (s.mover m).active = none)) ∧
    (∃ (s : State), s.linkReady = true ∧ s.host.perstHigh = true ∧ s.host.cfg0.bme = true ∧ s.boot.loading = none ∧
    s.sw.busy = true ∧ s.sw.job.dir = false) ∧
    (∃ (s : State), s.host.perstHigh = true) ∧
    (∃ (s : State), s.linkReady = true ∧ s.helm.grant = none) ∧
    (∃ (s : State), s.linkReady = true) ∧
    (∃ (s : State) (c : Cmd), let op : Op := { code := 0x0103 }; s.ready op c = true ∧ byteAt c.data 0 = 5) ∧
    (∃ (s : State) (c : Cmd), let op : Op := { code := 0x0103 }; s.ready op c = true ∧ byteAt c.data 0 = 4) ∧
    (∃ (s : State) (c : Cmd), let op : Op := { code := 0x0103 }; s.ready op c = true ∧ byteAt c.data 0 = 9) ∧
    (∃ (s : State) (c : Cmd), let op : Op := { code := 0x0103 }; s.ready op c = true ∧
    (byteAt c.data 0 = 0 ∨ 10 < byteAt c.data 0)) :=
  ⟨⟨{ w with host.perstHigh := false, power.wakeTarget := [0, 0, 2, 2, 0, 0] }, by decide +kernel⟩,
    ⟨{ w with host.perstHigh := false, power.wakeN := false }, by decide +kernel⟩,
    ⟨w, by decide +kernel⟩,
    ⟨{ w with sw.busy := true }, by decide +kernel⟩,
    ⟨w, by decide +kernel⟩,
    ⟨w, by decide +kernel⟩,
    ⟨w, by decide +kernel⟩,
    ⟨w, mc 65535 [(0, 1, 5)], by dsimp only; decide +kernel⟩,
    ⟨w, mc 65535 [(0, 1, 4)], by dsimp only; decide +kernel⟩,
    ⟨w, mc 65535 [(0, 1, 9)], by dsimp only; decide +kernel⟩,
    ⟨w, mc 65535 [(0, 1, 11)], by dsimp only; decide +kernel⟩⟩

/-- The hypotheses of `Obligations.AlarmsConfigurationAndTables` can be met, clause by clause. -/
theorem test_witness_AlarmsConfigurationAndTables :
    (∃ (s : State) (k : Nat), s.inRun 0 = true ∧ k ≤ 4 ∧ bit s.ciph.present k = false ∧ s.ciph.jobs = [] ∧
    s.helm.grant = none ∧ (∀ a ∈ s.dechan.accepted, a.opcode ≠ 0x0603)) ∧
    (∃ (s : State) (k : Nat), s.inRun 0 = true ∧ k ≤ 4) ∧
    (∃ (s : State), s.linkReady = true ∧ (s.host.ready = true ∨ s.elapsed s.host.perstAt (50 * msTicks) = true)) ∧
    (∃ (s : State), s.linkReady = true ∧ s.host.ready = true ∧ s.inRun 2 = true) ∧
    (∃ (s : State), s.linkReady = true ∧ s.evt.cause = 0) ∧
    (∃ (s : State) (v : W32) (b : Nat), s.linkReady = true ∧ b < 23 ∧ bit v.toNat b = true ∧
    bit s.evt.enable b = false ∧ s.evt.cause = 2 ^ b) ∧
    (∃ (s : State), s.inRun 6 = true ∧ s.helm.thr = []) ∧
    (∃ (s : State), s.inRun 12 = true ∧ s.time.quality = .holdover ∧ s.now = s.time.boundAt + msTicks ∧
    s.time.bound ≤ boundMax ∧ (TimeSt.grow s.time s.time.cfg.holdoverPpb).bound ≤ s.time.cfg.boundMaxMs * 1000000) ∧
    (∃ (s : State) (v : W32), s.linkReady = true ∧ s.inRun 5 = true ∧ s.sw.busy = false ∧ bit v.toNat 31 = true ∧
    v.toNat % 4 ≠ 3 ∧ 1 ≤ bits v.toNat 28 16 ∧ bits v.toNat 28 16 ≤ 4096 ∧
    bits v.toNat 15 4 + bits v.toNat 28 16 ≤ tableSize (v.toNat % 4)) ∧
    (∃ (s : State) (v : W32), s.linkReady = true ∧ s.inRun 5 = true ∧ s.sw.busy = true ∧ bit v.toNat 31 = true) ∧
    (∃ (s : State) (v : W32), s.linkReady = true ∧ s.inRun 5 = true ∧ s.sw.busy = true ∧ bit v.toNat 31 = false) ∧
    (∃ (s : State) (tag : Nat), s.sw.busy = true ∧ s.inRun 5 = true ∧ s.linkReady = true ∧ s.host.cfg0.bme = true ∧
    s.sw.job.dir = false ∧ s.sw.job.table = 0 ∧ s.sw.job.count = 1 ∧ s.sw.job.addr % 128 = 0 ∧
    s.err.injectTimeout = false ∧ s.freeTag .pf0 = some tag) ∧
    (∃ (s : State) (b : Bytes) (tag : Nat), s.sw.busy = true ∧ s.inRun 5 = true ∧ s.linkReady = true ∧
    s.host.cfg0.bme = true ∧ s.sw.job.dir = false ∧ s.sw.job.table = 1 ∧ s.sw.job.count = 3 ∧ b.length = 512 ∧
    s.err.injectTimeout = false ∧ s.freeTag .pf0 = some tag) ∧
    (∃ (s : State), s.sw.busy = true ∧ s.inRun 5 = true ∧ s.linkReady = true ∧ s.host.cfg0.bme = true ∧
    s.sw.job.dir = true) ∧
    (∃ (s : State) (e : ExcFrame) (es : List ExcFrame), s.helmRuns = true ∧ s.hove = false ∧ s.sw.exc = e :: es ∧
    (s.ring (mgrBase + 12)).state = .enabled) ∧
    (∃ (s : State) (e : ExcFrame) (es : List ExcFrame), s.helmRuns = true ∧ s.hove = false ∧ s.sw.exc = e :: es ∧
    (s.ring (mgrBase + 12)).state ≠ .enabled) :=
  ⟨⟨w, 4, by decide +kernel⟩,
    ⟨w, 4, by decide +kernel⟩,
    ⟨w, by decide +kernel⟩,
    ⟨w, by decide +kernel⟩,
    ⟨w, by decide +kernel⟩,
    ⟨{ w with evt.cause := 4194304 }, 4194304, 22, by decide +kernel⟩,
    ⟨{ w with helm.thr := [] }, by decide +kernel⟩,
    ⟨{ w with time.quality := .holdover, time.boundAt := 999998750000, time.bound := 0 }, by decide +kernel⟩,
    ⟨w, 2147614704, by decide +kernel⟩,
    ⟨{ w with sw.busy := true }, 0x80000000, by decide +kernel⟩,
    ⟨{ w with sw.busy := true }, 0, by decide +kernel⟩,
    ⟨{ w with sw.busy := true, sw.job.count := 1 }, 0, by decide +kernel⟩,
    ⟨{ w with sw.busy := true, sw.job := { table := 1, count := 3 } }, zeros 512, 0, by decide +kernel⟩,
    ⟨{ w with sw.busy := true, sw.job.dir := true }, by decide +kernel⟩,
    ⟨{ w with sw.exc := [{ body := zeros 60, reason := 0, dest := 0, src := 0, srcInst := 0xFFFF, stamp := none, csum := 0 }], rings := [(8204, { state := .enabled })] },
    { body := zeros 60, reason := 0, dest := 0, src := 0, srcInst := 0xFFFF, stamp := none, csum := 0 }, [],
    by decide +kernel⟩,
    ⟨{ w with sw.exc := [{ body := zeros 60, reason := 0, dest := 0, src := 0, srcInst := 0xFFFF, stamp := none, csum := 0 }] },
    { body := zeros 60, reason := 0, dest := 0, src := 0, srcInst := 0xFFFF, stamp := none, csum := 0 }, [],
    by decide +kernel⟩⟩

/-- The hypotheses of `Obligations.DomainsStopStartAndWake` can be met, clause by clause. -/
theorem test_witness_DomainsStopStartAndWake :
    (∃ (s : State), s.power.vin12 = false ∧ s.power.vaux33 = false) ∧
    (∃ (s : State), s.power.vaux33 = true) ∧
    (∃ (s : State), s.power.vin12 = true) ∧
    (∃ (s : State), s.power.dom.length = 14 ∧ s.power.vaux33 = true) ∧
    (∃ (s : State) (b : Nat) (x : SealBank), s.power.banks.find b = some x ∧ x.armed = true) ∧
    (∃ (s : State) (b : Nat) (x : SealBank), s.power.banks.find b = some x ∧ x.armed = false) ∧
    (∃ (s : State) (k : Nat) (d : Nat), s.power.votes.length = 14 ∧ k < 2 ∧ s.inRun 0 = true ∧ d < 14 ∧ d ≠ 0 ∧
    bit (s.power.wakeTarget.getD k 0) d = true) ∧
    (∃ (s : State) (m : Nat) (d : Nat), s.power.votes.length = 14 ∧ s.linkReady = true ∧ d < 14 ∧ d ≠ 0 ∧
    bit m d = true) ∧
    (∃ (s : State) (d : Nat), s.mayStop d = true ∧ d ≠ 5) ∧
    (∃ (s : State) (d : Nat), d ≠ 0 ∧ s.dom d = .draining ∧ s.wanted d = true ∧ s.dechan.accepted = []) ∧
    (∃ (s : State) (b : Nat), b < 32 ∧ s.power.dom.length = 14 ∧ s.power.stopCount.length = 14 ∧ s.dom 7 = .draining ∧
    s.wanted 7 = false ∧ s.dechan.accepted = [] ∧ (∀ k, (s.clsBank k).move = none)) ∧
    (∃ (s : State) (d : Nat), d ≠ 0 ∧ s.dom d = .draining ∧ s.wanted d = true ∧ s.dechan.accepted = []) ∧
    (∃ (s : State), s.power.dom.length = 14 ∧ s.mayStartDomain 2 = true ∧ s.dechan.accepted = []) ∧
    (∃ (s : State), s.power.dom.length = 14 ∧ s.dom 2 = .draining ∧ s.wanted 2 = false ∧ s.dechan.accepted = [] ∧
    bit s.power.wakeSet 2 = false) ∧
    (∃ (s : State), s.power.dom.length = 14 ∧ s.mayStartDomain 7 = true ∧ s.power.hasRun.getD 7 false = false ∧
    s.dechan.accepted = []) ∧
    (∃ (s : State) (b : Nat), b < 32 ∧ s.cls.banks.length = 32 ∧ s.power.dom.length = 14 ∧ s.mayStartDomain 7 = true ∧
    s.power.hasRun.getD 7 false = true ∧ s.dechan.accepted = [] ∧ s.bankHolds 7 (32 + b) = false) ∧
    (∃ (s : State) (b : Nat), b < 32 ∧ s.cls.banks.length = 32 ∧ s.power.dom.length = 14 ∧ s.mayStartDomain 7 = true ∧
    s.power.hasRun.getD 7 false = true ∧ s.dechan.accepted = [] ∧ s.bankHolds 7 (32 + b) = true) :=
  ⟨⟨{ w with power.vin12 := false, power.vaux33 := false }, by decide +kernel⟩,
    ⟨w, by decide +kernel⟩,
    ⟨w, by decide +kernel⟩,
    ⟨w, by decide +kernel⟩,
    ⟨{ w with power.banks := [(3, { armed := true })] }, 3, { armed := true }, by decide +kernel⟩,
    ⟨{ w with power.banks := [(3, {})] }, 3, {}, by decide +kernel⟩,
    ⟨{ w with power.wakeTarget := [0, 8192, 2, 2, 0, 12] }, 1, 13, by decide +kernel⟩,
    ⟨w, 8192, 13, by decide +kernel⟩,
    ⟨{ w with power.votes := (List.replicate 14 1).set 13 0 }, 13, by decide +kernel⟩,
    ⟨{ w with power.dom := (List.replicate 14 .run).set 13 .draining }, 13, by decide +kernel⟩,
    ⟨{ w with power.votes := List.replicate 14 0, power.dom := (List.replicate 14 .run).set 7 .draining }, 31,
    by decide, rfl, rfl, rfl, by decide +kernel, rfl,
    fun k => (Nat.lt_or_ge k 32).elim (fun h => (by decide +kernel : ∀ k < 32,
    (w.clsBank k).move = none) k h) (fun h => by simp [State.clsBank, w, h])⟩,
    ⟨{ w with power.dom := (List.replicate 14 .run).set 13 .draining }, 13, by decide +kernel⟩,
    ⟨{ w with power := { w.power with dom := (List.replicate 14 .run).set 2 .stop, votes := List.replicate 14 1 } },
    by decide +kernel⟩,
    ⟨{ w with power := { w.power with dom := (List.replicate 14 .run).set 2 .draining, votes := List.replicate 14 0 }, host.perstHigh := false },
    by decide +kernel⟩,
    ⟨{ w with power.dom := (List.replicate 14 .run).set 7 .stop, power.hasRun := (List.replicate 14 true).set 7 false },
    by decide +kernel⟩,
    ⟨{ w with power.dom := (List.replicate 14 .run).set 7 .stop }, 31, by decide +kernel⟩,
    ⟨{ w with power.dom := (List.replicate 14 .run).set 7 .stop, power.banks := [(63, { w1 := sealWord1 0 63 })] },
    31, by decide +kernel⟩⟩

/-- The hypotheses of `Obligations.VotesQueriesAndScrub` can be met, clause by clause. -/
theorem test_witness_VotesQueriesAndScrub :
    (∃ (s : State), s.power.scrub.running = true ∧ s.mem.errors = []) ∧
    (∃ (s : State), s.power.scrub.running = false) ∧
    (∃ (s : State) (k : Nat) (n : Nat), s.inRun 11 = true ∧ k ≤ 6 ∧ k ∉ s.mem.panic ∧ n ≤ 8) ∧
    (∃ (s : State) (k : Nat) (n : Nat), s.inRun 11 = true ∧ k ≤ 6 ∧ n ≤ 8) ∧
    (∃ (s : State) (t : Nat), s.power.signalLostAt = some t ∧ t + secTicks ≤ s.now) ∧
    (∃ (s : State) (t : Nat), s.power.signalLostAt = some t ∧ s.now < t + secTicks) ∧
    (∃ (s : State) (c : Cmd), let op : Op := { code := 0x0B01, exempt := true, asks := s.helmRuns };
    let q := (s.opened op c).voteAsk c; s.ready op c = true ∧ 1 ≤ byteAt c.data 0 ∧ byteAt c.data 0 ≤ 3 ∧
    bit (leAt c.data 2 2) 0 = false ∧ bit (leAt c.data 2 2) 14 = false ∧ bit (leAt c.data 2 2) 15 = false ∧
    q.1.isSome = true) ∧
    (∃ (s : State) (c : Cmd), let op : Op := { code := 0x0B01, exempt := true, asks := s.helmRuns };
    let q := (s.opened op c).voteAsk c; let u := q.2.managerVote (byteAt c.data 0) (leAt c.data 2 2);
    q.1.isNone = true ∧ s.ready op c = true ∧ 1 ≤ byteAt c.data 0 ∧ byteAt c.data 0 ≤ 3 ∧
    bit (leAt c.data 2 2) 0 = false ∧ bit (leAt c.data 2 2) 14 = false ∧ bit (leAt c.data 2 2) 15 = false ∧
    u.toStart = 0 ∧ bit (byteAt c.data 1) 0 = false) ∧
    (∃ (s : State) (d : Nat), s.power.votes.length = 14 ∧ d < 14 ∧ d ≠ 0) ∧
    (∃ (s : State) (c : Cmd), let op : Op := { code := 0x0B01, exempt := true, asks := s.helmRuns };
    s.ready op c = true ∧ (byteAt c.data 0 = 0 ∨ 3 < byteAt c.data 0)) ∧
    (∃ (s : State) (c : Cmd), let op : Op := { code := 0x0B02, exempt := true }; s.ready op c = true) ∧
    (∃ (s : State) (c : Cmd), let op : Op := { code := 0x0106, exempt := true }; s.ready op c = true) :=
  ⟨⟨{ w with power.scrub.running := true }, by decide +kernel⟩,
    ⟨w, by decide +kernel⟩,
    ⟨w, 6, 8, by decide +kernel⟩,
    ⟨w, 6, 8, by decide +kernel⟩,
    ⟨{ w with power.signalLostAt := some 998750000000 }, 998750000000, by decide +kernel⟩,
    ⟨{ w with power.signalLostAt := some 998750000001 }, 998750000001, by decide +kernel⟩,
    ⟨w, mc 65535 [(0, 1, 3), (2, 2, 16382)], by dsimp only; decide +kernel⟩,
    ⟨w,
    { mc 65535 [(0, 1, 3), (2, 2, 16382)] with ask := ⟨.data (pat 64 [(0, 2, 2817), (4, 2, 65535), (13, 1, 1), (24, 1, 3), (26, 2, 16382)]), .timeout⟩ },
    by dsimp only; decide +kernel⟩,
    ⟨w, 13, by decide +kernel⟩,
    ⟨w, mc 65535 [(0, 1, 4)], by dsimp only; decide +kernel⟩,
    ⟨w, mc 65535 [], by dsimp only; decide +kernel⟩,
    ⟨w, mc 65535 [], by dsimp only; decide +kernel⟩⟩

/-- The hypotheses of `Obligations.BinnacleBootsAndLoadsHelm` can be met, clause by clause. -/
theorem test_witness_BinnacleBootsAndLoadsHelm :
    (∃ (s : State), s.inRun 3 = true ∧ s.boot.phase = .selfTest) ∧
    (∃ (s : State) (f : Byte), s.inRun 3 = true ∧ s.boot.phase = .selfTest ∧ f ≠ 0) ∧
    (∃ (s : State), s.boot.phase ≠ .selfTest) ∧
    (∃ (s : State) (b : Boot), s.boot.causes ≠ 0 ∧ b.causes = s.boot.causes ∧ b.phase = s.boot.phase ∧
    b.word = s.boot.word) ∧
    (∃ (s : State) (b : Boot), s.boot.causes ≠ 0 ∧ b.causes ≠ 0 ∧ b.phase ≠ s.boot.phase ∧ b.word ≠ s.boot.word) ∧
    (∃ (s : State), s.linkReady = true ∧ s.goAccepted = false) ∧
    (∃ (s : State), s.linkReady = true ∧ s.inRun 3 = true ∧ (s.boot.phase = .awaitImage ∨ s.boot.phase = .helmHalted)) ∧
    (∃ (s : State), s.linkReady = true ∧ s.inRun 3 = true ∧ (s.boot.phase = .awaitImage ∨ s.boot.phase = .helmHalted)) ∧
    (∃ (s : State) (a : Nat) (n : Nat) (tag : Nat), s.boot.loading = some (false, a, n) ∧ s.inRun 3 = true ∧
    s.inRun 4 = true ∧ s.inRun 11 = true ∧ s.linkReady = true ∧ s.host.cfg0.bme = true ∧ s.err.injectTimeout = false ∧
    s.freeTag .pf0 = some tag) ∧
    (∃ (s : State) (r : HostRead) (a : Nat) (n : Nat) (b : Bytes), s.boot.loading = some (false, a, n) ∧
    s.inRun 3 = true ∧ s.inRun 4 = true ∧ s.inRun 11 = true ∧ r = .data b ∧ s.linkReady = true ∧
    s.host.cfg0.bme = false) ∧
    (∃ (s : State) (n : Nat) (b : Bytes), ¬(n % 4096 ≠ 0 ∨ n ≠ leAt b 8 4) ∧ 5 ≤ s.boot.meas.length ∧
    s.boot.causes ≠ 0) ∧
    (∃ (n : Nat) (b : Bytes), (n % 4096 ≠ 0 ∨ n ≠ leAt b 8 4)) ∧
    (∃ (s : State) (k : Nat), s.inRun 4 = true ∧ bit s.helm.cores k = true ∧ bit s.boot.pllLost 0 = false) ∧
    (∃ (s : State), s.inRun 3 = true ∧ s.inRun 4 = true ∧ s.helm.cores = 255 ∧ s.boot.phase = .helmStarting ∧
    s.helm.onPll = 255 ∧ s.boot.causes ≠ 0) ∧
    (∃ (s : State), s.inRun 3 = true ∧ s.inRun 4 = true ∧ s.helm.cores = 255 ∧ s.boot.phase = .helmStarting ∧
    s.helm.onPll ≠ 255) ∧
    (∃ (s : State), s.inRun 3 = true ∧ s.boot.phase = .helmStarting ∧ s.boot.helmStart + 150 * msTicks ≤ s.now) ∧
    (∃ (s : State), s.boot.phase = .helmStarting ∧ s.now < s.boot.helmStart + 150 * msTicks) ∧
    (∃ (s : State), s.helm.restartDue = true ∧ s.inRun 3 = true ∧ s.inRun 4 = true ∧ s.boot.phase = .running ∧
    s.restartLimit = true) ∧
    (∃ (s : State), s.helm.restartDue = true ∧ s.inRun 3 = true ∧ s.inRun 4 = true ∧ s.boot.phase = .running ∧
    s.restartLimit = false ∧ s.boot.imageValid = false) ∧
    (∃ (s : State), s.helm.restartDue = false) ∧
    (∃ (s : State) (c : Cmd), let op : Op := { code := 0x0E03, lens := [400], reads := false, writes := true };
    byteAt c.data 0 = 1 ∧ s.ready op c = true) ∧
    (∃ (s : State) (c : Cmd), let op : Op := { code := 0x0E03, lens := [0], reads := false, writes := true };
    let t := s.opened op c; byteAt c.data 0 = 2 ∧ s.ready op c = true ∧ t.boot.imageValid = false) :=
  ⟨⟨{ w with boot.phase := .selfTest }, by decide +kernel⟩,
    ⟨{ w with boot.phase := .selfTest }, 1, by decide +kernel⟩,
    ⟨w, by decide +kernel⟩,
    ⟨{ w with boot.causes := 1 }, ({ w with boot.causes := 1 }).boot, by decide +kernel⟩,
    ⟨{ w with boot.causes := 1 }, {}, by decide +kernel⟩,
    ⟨w, by decide +kernel⟩,
    ⟨{ w with boot.phase := .awaitImage }, by decide +kernel⟩,
    ⟨{ w with boot.phase := .helmHalted }, by decide +kernel⟩,
    ⟨{ w with boot.loading := some (false, 0, 4096) }, 0, 4096, 0, by decide +kernel⟩,
    ⟨{ w with boot.loading := some (false, 0, 4096), host.cfg0.bme := false }, .data [], 0, 4096, [],
    by decide +kernel⟩,
    ⟨{ w with boot.causes := 1 }, 4096, pat 4096 [(8, 4, 4096)], by decide +kernel⟩,
    ⟨1, [], by decide +kernel⟩,
    ⟨w, 7, by decide +kernel⟩,
    ⟨{ w with boot.phase := .helmStarting, boot.causes := 1 }, by decide +kernel⟩,
    ⟨{ w with boot.phase := .helmStarting, boot.causes := 1, helm.onPll := 254 }, by decide +kernel⟩,
    ⟨{ w with boot.phase := .helmStarting, boot.helmStart := 999812500000 }, by decide +kernel⟩,
    ⟨{ w with boot.phase := .helmStarting, boot.helmStart := 999812500001 }, by decide +kernel⟩,
    ⟨{ w with helm.restartDue := true, helm.restartAt := [1, 2, 12500000001] }, by decide +kernel⟩,
    ⟨{ w with helm.restartDue := true, boot.imageValid := false }, by decide +kernel⟩,
    ⟨w, by decide +kernel⟩,
    ⟨w, { mb 65535 [(0, 1, 1)] 400 [] with ring := .sec }, by dsimp only; decide +kernel⟩,
    ⟨{ w with boot.imageValid := false }, { mc 65535 [(0, 1, 2)] with ring := .sec }, by dsimp only; decide +kernel⟩⟩

/-- The hypotheses of `Obligations.HoveToCausesAndDeviceCommands` can be met, clause by clause. -/
theorem test_witness_HoveToCausesAndDeviceCommands :
    (∃ (s : State), s.inRun 3 = true ∧ s.host.perstHigh = true ∧ s.host.linkUp = false ∧ s.power.l2 = false ∧
    bit s.boot.causes 1 = false ∧ s.host.linkSince + s.boot.hostLostGrace * msTicks < s.now) ∧
    (∃ (s : State),
    (s.now ≤ s.host.linkSince + s.boot.hostLostGrace * msTicks ∨ s.host.linkUp = true ∨ s.power.l2 = true)) ∧
    (∃ (s : State), s.inRun 3 = true ∧ s.boot.hostResume = true ∧ bit s.boot.causes 1 = true ∧ s.host.linkUp = true ∧
    s.host.linkSince + 10 * msTicks ≤ s.now) ∧
    (∃ (s : State), s.boot.hostResume = false) ∧
    (∃ (s : State), s.inRun 3 = true) ∧
    (∃ (s : State), s.inRun 6 = true) ∧
    (∃ (s : State), s.inRun 2 = true) ∧
    (∃ (s : State), s.coreRuns 0 = true ∧ (s.thread 0).state = .faultHalt ∧
    (s.thread 0).faultAt + 150 * msTicks ≤ s.now ∧ s.helm.restartDue = false) ∧
    (∃ (s : State), (s.thread 0).state ≠ .faultHalt) ∧
    (∃ (s : State) (c : Cmd), let op : Op := { code := 0x0105, exempt := true }; s.ready op c = true ∧
    byteAt c.data 0 = 1) ∧
    (∃ (s : State) (c : Cmd), let op : Op := { code := 0x0105, exempt := true }; s.ready op c = true ∧
    byteAt c.data 0 = 2) ∧
    (∃ (s : State) (c : Cmd), let op : Op := { code := 0x0105, exempt := true }; s.ready op c = true ∧
    byteAt c.data 0 = 3) ∧
    (∃ (s : State) (c : Cmd), let op : Op := { code := 0x0102 }; s.ready op c = true ∧ byteAt c.data 0 = 7 ∧
    byteAt c.data 1 ≤ 1 ∧ 1 ≤ leAt c.data 2 2 ∧ leAt c.data 2 2 ≤ 1000 ∧ 10 ≤ leAt c.data 4 4 ∧
    leAt c.data 4 4 ≤ 10000 ∧ byteAt c.data 8 ≤ 1) ∧
    (∃ (s : State) (c : Cmd), let op : Op := { code := 0x0102 }; s.ready op c = true ∧
    bit (byteAt c.data 0) 0 = true ∧ byteAt c.data 1 ≤ 1 ∧ (leAt c.data 2 2 = 0 ∨ 1000 < leAt c.data 2 2)) ∧
    (∃ (s : State) (c : Cmd), let op : Op := { code := 0x0101, exempt := true }; let t := s.opened op c;
    s.ready op c = true ∧ t.inRun 12 = true) :=
  ⟨⟨{ w with host.linkUp := false, host.linkSince := 999874999999 }, by decide +kernel⟩,
    ⟨w, by decide +kernel⟩,
    ⟨{ w with boot.hostResume := true, boot.causes := 2, host.linkSince := 999987500000 }, by decide +kernel⟩,
    ⟨w, by decide +kernel⟩,
    ⟨w, by decide +kernel⟩,
    ⟨w, by decide +kernel⟩,
    ⟨w, by decide +kernel⟩,
    ⟨{ w with helm.thr := [(0, { state := .faultHalt, faultAt := 999812500000 })] }, by decide +kernel⟩,
    ⟨w, by decide +kernel⟩,
    ⟨w, mc 65535 [(0, 1, 1)], by dsimp only; decide +kernel⟩,
    ⟨w, mc 65535 [(0, 1, 2)], by dsimp only; decide +kernel⟩,
    ⟨w, mc 65535 [(0, 1, 3)], by dsimp only; decide +kernel⟩,
    ⟨w, mc 65535 [(0, 1, 7), (1, 1, 1), (2, 2, 1000), (4, 4, 10000), (8, 1, 1)], by dsimp only; decide +kernel⟩,
    ⟨w, mc 65535 [(0, 1, 1), (2, 2, 1001)], by dsimp only; decide +kernel⟩,
    ⟨w, mc 65535 [], by dsimp only; decide +kernel⟩⟩

/-- The hypotheses of `Obligations.TransmitAndStorageDescriptors` can be met, clause by clause. -/
theorem test_witness_TransmitAndStorageDescriptors :
    (∃ (s : State) (r : Nat) (d : Desc) (ds : List Desc) (tag : Nat), isTxRing r = true ∧ s.linkReady = true ∧
    s.host.cfg0.bme = true ∧ s.inRun 5 = true ∧ s.hove = false ∧ s.ownerLive r = true ∧ (s.ring r).state = .enabled ∧
    (s.ring r).descs = d :: ds ∧ d.started = false ∧ txDescOk d.body = true ∧ txFlag d.body 2 = false ∧
    txFlag d.body 3 = false ∧ txFlag d.body 5 = false ∧ txLen d.body ≤ 9212 ∧
    s.ringInBounds r (leAt d.body 0 8) (txLen d.body) true false = true ∧ s.err.injectTimeout = false ∧
    s.freeTag .pf0 = some tag) ∧
    (∃ (s : State) (r : Nat) (d : Desc) (ds : List Desc) (tag : Nat), s.freeTag .pf0 = some tag ∧ isTxRing r = true ∧
    s.linkReady = true ∧ s.host.cfg0.bme = true ∧ s.inRun 5 = true ∧ s.hove = false ∧ s.ownerLive r = true ∧
    (s.ring r).state = .enabled ∧ (s.ring r).descs = d :: ds ∧ d.started = false ∧ txDescOk d.body = false) ∧
    (∃ (s : State) (r : Nat) (d : Desc) (ds : List Desc) (tag : Nat), s.freeTag .pf0 = some tag ∧ isTxRing r = true ∧
    s.linkReady = true ∧ s.host.cfg0.bme = true ∧ s.inRun 5 = true ∧ s.hove = false ∧ s.ownerLive r = true ∧
    (s.ring r).state = .enabled ∧ (s.ring r).descs = d :: ds ∧ d.started = false ∧ txDescOk d.body = true ∧
    txFlag d.body 2 = false ∧ 9212 < txLen d.body) ∧
    (∃ (s : State) (r : Nat) (d : Desc) (ds : List Desc) (tag : Nat), s.freeTag .pf0 = some tag ∧ isTxRing r = true ∧
    s.linkReady = true ∧ s.host.cfg0.bme = true ∧ s.inRun 5 = true ∧ s.hove = false ∧ s.ownerLive r = true ∧
    (s.ring r).state = .enabled ∧ (s.ring r).descs = d :: ds ∧ d.started = false ∧ txDescOk d.body = true ∧
    txFlag d.body 2 = false ∧ txFlag d.body 5 = false ∧ txLen d.body ≤ 9212 ∧
    s.ringInBounds r (leAt d.body 0 8) (txLen d.body) true false = false) ∧
    (∃ (s : State) (i : Nat) (d : Desc) (ds : List Desc) (cn : Conn), let r := i * 16 + 13; let k := leAt d.body 12 2;
    let slot := leAt d.body 14 2 % cn.depth; i < 512 ∧ s.linkReady = true ∧ s.host.cfg0.bme = true ∧
    s.inRun 5 = true ∧ s.inRun 13 = true ∧ s.hove = false ∧ s.ownerActive r = true ∧ (s.ring r).state = .enabled ∧
    (s.ring r).descs = d :: ds ∧ d.started = false ∧ regOk d.body = true ∧ bit (byteAt d.body 16) 5 = false ∧
    s.recd.conns.find k = some cn ∧ cn.inst = i ∧ cn.regs.has slot = false ∧
    s.ringInBounds r (leAt d.body 0 8) (leAt d.body 8 4) false true = true) ∧
    (∃ (s : State) (c : Cmd) (f : Flow) (pl : FlowPlace) (n : Nat) (k : Nat),
    let op : Op := { code := 0x0A04, tenant := true, inst := .inst, lens := [128], states := 0x1E };
    let t := s.opened op c; let b := bufferOf op c; let h := leAt b 40 3 % 2 ^ 20; let e := imageFields t b none;
    s.ready op c = true ∧ bit (byteAt b 70) 2 = false ∧ c.handle = 2 ^ 32 - 1 ∧ t.inFlowQuota (nvmetInst c) h = true ∧
    t.connectBreaks (nvmetInst c) e = false ∧ actDest e.action % 512 = nvmetInst c ∧ t.flowReady = true ∧
    t.imageBad b = none ∧ connectBad b = none ∧ t.flow.handles.find h = none ∧ t.flow.findKey e.profile e.key = none ∧
    t.recd.conns.firstFree 0 4096 = some k ∧ t.connDepth + leAt b 68 2 ≤ 262144 ∧
    t.flow.insert { e with handle := h, flags := (e.flags ||| 4) ||| 8, owner := nvmetInst c } = some (f, pl, n)) ∧
    (∃ (s : State) (c : Cmd) (x : Conn),
    let op : Op := { code := 0x0A04, tenant := true, inst := .inst, lens := [128], states := 0x1E };
    let t := s.opened op c; let b := bufferOf op c; s.ready op c = true ∧ bit (byteAt b 70) 2 = true ∧
    t.recd.conns.find c.handle = some x ∧ x.inst = nvmetInst c) ∧
    (∃ (s : State) (c : Cmd) (x : Conn) (pl : FlowPlace),
    let op : Op := { code := 0x0A05, tenant := true, inst := .inst, states := 0x3E }; let t := s.opened op c;
    s.ready op c = true ∧ t.recd.conns.find c.handle = some x ∧ x.inst = nvmetInst c ∧
    t.flow.findHandle x.handle = some pl) ∧
    (∃ (s : State) (c : Cmd) (x : Conn),
    let op : Op := { code := 0x0A05, tenant := true, inst := .inst, states := 0x3E }; let t := s.opened op c;
    s.ready op c = true ∧ t.recd.conns.find c.handle = some x ∧ x.inst ≠ nvmetInst c) ∧
    (∃ (s : State) (c : Cmd), let op : Op := { code := 0x0A05, tenant := true, inst := .inst, states := 0x3E };
    let t := s.opened op c; s.ready op c = true ∧ t.recd.conns.find c.handle = none) :=
  ⟨⟨{ w with rings := [(17, { state := .enabled, pi := 1, fetch := 1, descs := [{ idx := 0, body := pat 32 [(8, 4, 9212)], inPlace := false }] })] },
    17, { idx := 0, body := pat 32 [(8, 4, 9212)], inPlace := false }, [], 0, by decide +kernel⟩,
    ⟨{ w with rings := [(17, { state := .enabled, pi := 1, fetch := 1, descs := [{ idx := 0, body := pat 32 [(8, 4, 13)], inPlace := false }] })] },
    17, { idx := 0, body := pat 32 [(8, 4, 13)], inPlace := false }, [], 0, by decide +kernel⟩,
    ⟨{ w with rings := [(17, { state := .enabled, pi := 1, fetch := 1, descs := [{ idx := 0, body := pat 32 [(8, 4, 9213)], inPlace := false }] })] },
    17, { idx := 0, body := pat 32 [(8, 4, 9213)], inPlace := false }, [], 0, by decide +kernel⟩,
    ⟨{ w with rings := [(17, { state := .enabled, pi := 1, fetch := 1, descs := [{ idx := 0, body := pat 32 [(0, 8, 4294967295), (8, 4, 60)], inPlace := false }] })] },
    17, { idx := 0, body := pat 32 [(0, 8, 4294967295), (8, 4, 60)], inPlace := false }, [], 0, by decide +kernel⟩,
    ⟨{ w with recd.conns := [(4095, { inst := 1, handle := 105, depth := 8, hdgst := false, ddgst := false })], rings := [(29, { state := .enabled, pi := 1, fetch := 1, descs := [{ idx := 0, body := pat 32 [(8, 4, 1), (12, 2, 4095)], inPlace := false }] })] },
    1, { idx := 0, body := pat 32 [(8, 4, 1), (12, 2, 4095)], inPlace := false }, [],
    { inst := 1, handle := 105, depth := 8, hdgst := false, ddgst := false }, by dsimp only; decide +kernel⟩,
    ⟨w,
    { mb 1 [] 128 [(40, 2, 105), (43, 1, 128), (48, 1, 2), (50, 2, 3585), (68, 2, 1024)] with handle := 2 ^ 32 - 1 },
    ((w.flow.insert { imageFields w (pat 128 [(40, 2, 105), (43, 1, 128), (48, 1, 2), (50, 2, 3585), (68, 2, 1024)]) none with handle := 105, flags := ((imageFields w (pat 128 [(40, 2, 105), (43, 1, 128), (48, 1, 2), (50, 2, 3585), (68, 2, 1024)]) none).flags ||| 4) ||| 8, owner := 1 }).getD (w.flow,
    .ovf 0, 0)).1,
    ((w.flow.insert { imageFields w (pat 128 [(40, 2, 105), (43, 1, 128), (48, 1, 2), (50, 2, 3585), (68, 2, 1024)]) none with handle := 105, flags := ((imageFields w (pat 128 [(40, 2, 105), (43, 1, 128), (48, 1, 2), (50, 2, 3585), (68, 2, 1024)]) none).flags ||| 4) ||| 8, owner := 1 }).getD (w.flow,
    .ovf 0, 0)).2.1,
    ((w.flow.insert { imageFields w (pat 128 [(40, 2, 105), (43, 1, 128), (48, 1, 2), (50, 2, 3585), (68, 2, 1024)]) none with handle := 105, flags := ((imageFields w (pat 128 [(40, 2, 105), (43, 1, 128), (48, 1, 2), (50, 2, 3585), (68, 2, 1024)]) none).flags ||| 4) ||| 8, owner := 1 }).getD (w.flow,
    .ovf 0, 0)).2.2, 0, by dsimp only; decide +kernel⟩,
    ⟨{ w with recd.conns := [(4095, { inst := 1, handle := 105, depth := 8, hdgst := false, ddgst := false })] },
    { mb 1 [] 128 [(70, 1, 4)] with handle := 4095 },
    { inst := 1, handle := 105, depth := 8, hdgst := false, ddgst := false }, by dsimp only; decide +kernel⟩,
    ⟨{ w with recd.conns := [(4095, { inst := 1, handle := 105, depth := 8, hdgst := false, ddgst := false })], flow.ovf := [(0, { key := zeros 40, profile := 0, handle := 105, flags := 128, meter := 0, owner := 0, action := pat 16 [] })], flow.handles := [(105, false)] },
    { mc 1 [] with handle := 4095 }, { inst := 1, handle := 105, depth := 8, hdgst := false, ddgst := false }, .ovf 0,
    by dsimp only; decide +kernel⟩,
    ⟨{ w with recd.conns := [(5, { inst := 2, handle := 100, depth := 1, hdgst := false, ddgst := false })] },
    { mc 1 [] with handle := 5 }, { inst := 2, handle := 100, depth := 1, hdgst := false, ddgst := false },
    by dsimp only; decide +kernel⟩,
    ⟨w, { mc 1 [] with handle := 4095 }, by dsimp only; decide +kernel⟩⟩

/-- The hypotheses of `Obligations.InstancesLiveByTheirStates` can be met, clause by clause. -/
theorem test_witness_InstancesLiveByTheirStates :
    (∃ (s : State) (c : Cmd) (br : BinRead), let op : Op := { code := 0x0201, inst := .inst, lens := [192] };
    let t := s.opened op c; let b := bufferOf op c; let q := t.askBinnacle 1 0x0201 c br b;
    let bt : Bounds := { pasid := leAt b 0 4 % 2 ^ 20, ranges := rangesAt b 64 }; s.ready op c = true ∧
    (t.inst c.inst).state = .absent ∧ (∀ p ∈ t.bounds, p.1 ≠ c.inst → p.2.pasid ≠ leAt b 0 4 % 2 ^ 20) ∧
    t.quotaTaken (leAt b 4 4) (leAt b 8 4) (leAt b 12 4) (leAt b 16 4) = false ∧ createBad b = none ∧
    (∀ p ∈ createRings b, bt.allows p.2.base (2 ^ p.2.log2 * ringEntry (c.inst * 16 + p.1)) true true = true) ∧
    q.1 = none) ∧
    (∃ (s : State) (c : Cmd), let op : Op := { code := 0x0201, inst := .inst, lens := [192] }; let t := s.opened op c;
    s.ready op c = true ∧ (t.inst c.inst).state ≠ .absent) ∧
    (∃ (s : State) (c : Cmd), let op : Op := { code := 0x0202, inst := .inst, states := 0x02 }; s.ready op c = true) ∧
    (∃ (s : State) (c : Cmd), let op : Op := { code := 0x0203, inst := .inst, states := 0x04 }; s.ready op c = true ∧
    leAt c.data 0 2 ≤ 10000) ∧
    (∃ (s : State) (i : Nat), s.quiesced i = true) ∧
    (∃ (s : State) (i : Nat), s.quiesced i = false) ∧
    (∃ (s : State) (i : Nat) (a : Accepted), s.quiesced i = false ∧ s.dechan.accepted = [a] ∧ a.opcode = 0x0203 ∧
    a.waits = false ∧ a.cmd.inst = i ∧ leAt a.cmd.data 0 2 = 0 ∧ a.at_ + 100 * msTicks ≤ s.now) ∧
    (∃ (s : State) (i : Nat) (a : Accepted), s.quiesced i = false ∧ s.dechan.accepted = [a] ∧ a.opcode = 0x0203 ∧
    a.waits = false ∧ a.cmd.inst = i ∧ leAt a.cmd.data 0 2 = 0 ∧ s.now < a.at_ + 100 * msTicks) ∧
    (∃ (s : State) (c : Cmd), let op : Op := { code := 0x0204, inst := .inst, states := 0x08 }; s.ready op c = true) ∧
    (∃ (s : State) (c : Cmd), let op : Op := { code := 0x0205, inst := .inst, states := 0x38 };
    let t := s.opened op c; s.ready op c = true ∧ (t.inst c.inst).state = .frozen) ∧
    (∃ (s : State) (c : Cmd), let op : Op := { code := 0x0205, inst := .inst, states := 0x38 };
    let t := s.opened op c; s.ready op c = true ∧ (t.inst c.inst).state = .faulted ∧
    (t.ring (c.inst * 16)).state ≠ .error) ∧
    (∃ (s : State) (c : Cmd), let op : Op := { code := 0x0205, inst := .inst, states := 0x38 };
    let t := s.opened op c; s.ready op c = true ∧ (t.inst c.inst).state = .faulted ∧
    (t.ring (c.inst * 16)).state = .error) ∧
    (∃ (s : State) (c : Cmd), let op : Op := { code := 0x0207, inst := .inst, states := 0x3E };
    let t := (s.opened op c).instReset c.inst .configured; s.ready op c = true ∧ t.accessLeft c.inst = false) ∧
    (∃ (i : Nat), i < 512) ∧
    (∃ (s : State) (c : Cmd) (br : BinRead),
    let op : Op := { code := 0x0206, inst := .inst, states := 0x3E, asks := true };
    let q := (s.opened op c).askBinnacle 2 0x0206 c br []; let t := q.2.instReset c.inst .absent;
    let u : State := { t with bounds := t.bounds.drop1 c.inst, insts := t.insts.drop1 c.inst, snap := t.snap.keep (fun k _ => decide (k < 2 ^ 20 + c.inst * 0x1000) || decide (2 ^ 20 + (c.inst + 1) * 0x1000 ≤ k)), rings := t.rings.filter (fun p => decide (mgrBase ≤ p.1) || p.1 / 16 != c.inst) };
    s.ready op c = true ∧ q.1 = none ∧ u.accessLeft c.inst = false) :=
  ⟨⟨w,
    mb 511 [] 192 [(0, 4, 7), (4, 4, 200), (8, 4, 10), (12, 4, 200), (16, 4, 10), (24, 8, 4096), (32, 1, 15), (33, 1, 15), (34, 1, 6), (40, 8, 8192), (48, 8, 16384), (72, 4, 1048576), (76, 1, 3)],
    ⟨.data (pat 64 [(0, 2, 513), (4, 2, 511), (6, 2, 192), (13, 1, 1), (16, 8, 4096)]),
    .data (pat 192 [(0, 4, 7), (4, 4, 200), (8, 4, 10), (12, 4, 200), (16, 4, 10), (24, 8, 4096), (32, 1, 15), (33, 1, 15), (34, 1, 6), (40, 8, 8192), (48, 8, 16384), (72, 4, 1048576), (76, 1, 3)])⟩,
    by dsimp only; decide +kernel⟩,
    ⟨w, mb 1 [] 192 [], by dsimp only; decide +kernel⟩,
    ⟨w, mc 2 [], by dsimp only; decide +kernel⟩,
    ⟨w, mc 1 [(0, 2, 10000)], by dsimp only; decide +kernel⟩,
    ⟨w, 1, by decide +kernel⟩,
    ⟨{ w with rings := [(17, { descs := [{ idx := 0, body := pat 32 [], inPlace := false }] })] }, 1,
    by decide +kernel⟩,
    ⟨{ w with rings := [(17, { descs := [{ idx := 0, body := pat 32 [], inPlace := false }] })], dechan.accepted := [{ ring := 8193, idx := 0, opcode := 0x0203, cmd := mc 1 [], at_ := 999875000000, deadline := 0 }] },
    1, { ring := 8193, idx := 0, opcode := 0x0203, cmd := mc 1 [], at_ := 999875000000, deadline := 0 },
    by decide +kernel⟩,
    ⟨{ w with rings := [(17, { descs := [{ idx := 0, body := pat 32 [], inPlace := false }] })], dechan.accepted := [{ ring := 8193, idx := 0, opcode := 0x0203, cmd := mc 1 [], at_ := 999875000001, deadline := 0 }] },
    1, { ring := 8193, idx := 0, opcode := 0x0203, cmd := mc 1 [], at_ := 999875000001, deadline := 0 },
    by decide +kernel⟩,
    ⟨w, mc 3 [], by dsimp only; decide +kernel⟩,
    ⟨w, mc 4 [], by dsimp only; decide +kernel⟩,
    ⟨w, mc 5 [], by dsimp only; decide +kernel⟩,
    ⟨{ w with rings := [(80, { state := .error }), (8192, { state := .enabled, pi := 1 })] }, mc 5 [],
    by dsimp only; decide +kernel⟩,
    ⟨w, mc 1 [], by dsimp only; decide +kernel⟩,
    ⟨511, by decide +kernel⟩,
    ⟨w, mc 1 [], ⟨.data (pat 64 [(0, 2, 518), (4, 2, 1), (13, 1, 1)]), .timeout⟩, by dsimp only; decide +kernel⟩⟩

/-- The hypotheses of `Obligations.BinnacleActsOnWhatItReads` can be met, clause by clause. -/
theorem test_witness_BinnacleActsOnWhatItReads :
    (∃ (s : State) (codes : List Nat) (b : BinRead) (e : Bytes) (d : Bytes) (tag : Nat), s.binnacleServes = true ∧
    s.host.cfg0.bme = true ∧ s.helm.thr = [] ∧ b.entry = .data e ∧ b.buf = .data d ∧ s.err.injectTimeout = false ∧
    s.freeTag .pf0 = some tag ∧ codes.any (entrySuits e) = true ∧ leAt e 0 2 ≠ 0x0C02 ∧ leAt e 6 2 ≠ 0) ∧
    (∃ (s : State) (b : BinRead) (e : Bytes) (d : Bytes) (tag : Nat), s.binnacleServes = true ∧
    s.host.cfg0.bme = true ∧ s.helm.thr = [] ∧ b.entry = .data e ∧ b.buf = .data d ∧ s.err.injectTimeout = false ∧
    s.freeTag .pf0 = some tag ∧ entrySuits e 0x0201 = true ∧ leAt e 4 2 ≤ 511 ∧ leAt e 6 2 ≠ 0 ∧
    s.bounds.has (leAt e 4 2) = false ∧ rangesBad d 64 = none ∧ (∀ p ∈ s.bounds, p.2.pasid ≠ leAt d 0 4 % 2 ^ 20)) ∧
    (∃ (s : State) (b : BinRead) (e : Bytes) (tag : Nat), s.binnacleServes = true ∧ s.host.cfg0.bme = true ∧
    s.helm.thr = [] ∧ b.entry = .data e ∧ s.err.injectTimeout = false ∧ s.freeTag .pf0 = some tag ∧
    entrySuits e 0x0206 = true ∧ leAt e 4 2 ≤ 511 ∧ leAt e 6 2 = 0) ∧
    (∃ (s : State) (b : BinRead) (e : Bytes) (tag : Nat), s.binnacleServes = true ∧ s.host.cfg0.bme = true ∧
    s.helm.thr = [] ∧ b.entry = .data e ∧ s.err.injectTimeout = false ∧ s.freeTag .pf0 = some tag ∧
    entrySuits e 0x0206 = false) ∧
    (∃ (s : State), s.binnacleServes = true ∧ s.host.cfg0.bme = false) ∧
    (∃ (s : State) (ring : Nat) (idx : Nat) (b : BinRead) (e : Bytes) (tag : Nat), s.binnacleServes = true ∧
    s.host.cfg0.bme = true ∧ s.helm.thr = [] ∧ b.entry = .data e ∧ s.err.injectTimeout = false ∧
    s.freeTag .pf0 = some tag ∧ entrySuits e 0x0B01 = true ∧ leAt e 6 2 = 0 ∧ 1 ≤ byteAt e 24 ∧ byteAt e 24 ≤ 3 ∧
    bit (leAt e 26 2) 0 = false ∧ bit (leAt e 26 2) 14 = false ∧ bit (leAt e 26 2) 15 = false ∧
    (let u := (s.emitReads .pf0 none ((s.ring (mgrBase + ring % 4)).slotAddr 64 (BitVec.ofNat 16 idx)) 64 tag).managerVote (byteAt e 24) (leAt e 26 2);
    u.toStart = 0)) ∧
    (∃ (s : State) (b : BinRead) (e : Bytes) (h : Nat) (k : Bytes) (x : Ctx) (tag : Nat), s.binnacleServes = true ∧
    s.host.cfg0.bme = true ∧ s.helm.thr = [] ∧ b.entry = .data e ∧ s.err.injectTimeout = false ∧
    s.freeTag .pf0 = some tag ∧ entrySuits e 0x0C01 = true ∧ leAt e 6 2 = 0 ∧ s.armedKey = some k ∧ s.ctx h = some x ∧
    x.hasBlob = true ∧ s.lodeLoaded = true) ∧
    (∃ (s : State) (code : Nat) (c : Cmd), let op : Op := { code := code % 65536, inst := .either };
    listedOpcodes.contains (code % 65536) = false ∧ s.accepts op c = true ∧ c.own = 0) ∧
    (∃ (code : Nat), listedOpcodes.contains (code % 65536) = true) :=
  ⟨⟨{ w with helm.thr := [] }, [0x0201], ⟨.data (pat 64 [(13, 1, 1), (0, 2, 513), (4, 2, 511), (6, 2, 192)]),
    .data (pat 192 [(0, 4, 7)])⟩, pat 64 [(13, 1, 1), (0, 2, 513), (4, 2, 511), (6, 2, 192)], pat 192 [(0, 4, 7)], 0,
    by decide +kernel⟩,
    ⟨{ w with helm.thr := [] }, ⟨.data (pat 64 [(13, 1, 1), (0, 2, 513), (4, 2, 511), (6, 2, 192)]),
    .data (pat 192 [(0, 4, 7)])⟩, pat 64 [(13, 1, 1), (0, 2, 513), (4, 2, 511), (6, 2, 192)], pat 192 [(0, 4, 7)], 0,
    by decide +kernel⟩,
    ⟨{ w with helm.thr := [] }, ⟨.data (pat 64 [(13, 1, 1), (0, 2, 518), (4, 2, 511)]), .timeout⟩,
    pat 64 [(13, 1, 1), (0, 2, 518), (4, 2, 511)], 0, by decide +kernel⟩,
    ⟨{ w with helm.thr := [] }, ⟨.data (zeros 64), .timeout⟩, zeros 64, 0, by decide +kernel⟩,
    ⟨{ w with host.cfg0.bme := false }, by decide +kernel⟩,
    ⟨{ w with helm.thr := [] }, 0, 0, ⟨.data (pat 64 [(13, 1, 1), (0, 2, 2817), (24, 1, 3), (26, 2, 16382)]),
    .timeout⟩, pat 64 [(13, 1, 1), (0, 2, 2817), (24, 1, 3), (26, 2, 16382)], 0, by decide +kernel⟩,
    ⟨{ w with mig.armedUntil := some 5, mig.transferKey := some 0, helm.thr := [], ciph.ctxs := [(5, { label := pat 32 [(0, 1, 1)], pn := 1, kcv := 5, op := 1, flags := 1, owner := 0xFFFF })] },
    ⟨.data (pat 64 [(13, 1, 1), (0, 2, 3073)]), .timeout⟩, pat 64 [(13, 1, 1), (0, 2, 3073)], 5, leBytes 32 0,
    { label := pat 32 [(0, 1, 1)], pn := 1, kcv := 5, op := 1, flags := 1, owner := 0xFFFF }, 0, by decide +kernel⟩,
    ⟨w, 0, mc 65535 [], by dsimp only; decide +kernel⟩,
    ⟨0x0101, by decide +kernel⟩⟩

/-- The hypotheses of `Obligations.MigrationCommandsAndTransferKey` can be met, clause by clause. -/
theorem test_witness_MigrationCommandsAndTransferKey :
    (∃ (s : State) (c : Cmd), let op : Op := { code := 0x0C03, inst := .inst, states := 0x1C };
    let t := s.opened op c; s.ready op c = true ∧ byteAt c.data 0 = 1 ∧ leAt c.data 8 8 % 64 = 0 ∧
    t.boundPages c.inst ≤ leAt c.data 16 4 * 8 ∧ (t.mig.dirty.drop1 c.inst).length < 16 ∧
    t.boundPages c.inst ≤ 33554432) ∧
    (∃ (s : State) (c : Cmd) (l : DirtyLog), let op : Op := { code := 0x0C03, inst := .inst, states := 0x1C };
    let t := s.opened op c; s.ready op c = true ∧ byteAt c.data 0 = 2 ∧ leAt c.data 8 8 % 64 = 0 ∧
    t.mig.dirty.find c.inst = some l ∧ l.lost = false) ∧
    (∃ (l : DirtyLog) (p : Nat), p < l.pages) ∧
    (∃ (s : State) (c : Cmd) (l : DirtyLog), let op : Op := { code := 0x0C03, inst := .inst, states := 0x1C };
    let t := s.opened op c; s.ready op c = true ∧ byteAt c.data 0 = 3 ∧ t.mig.dirty.find c.inst = some l) ∧
    (∃ (s : State) (c : Cmd), let op : Op := { code := 0x0C03, inst := .inst, states := 0x1C };
    let t := s.opened op c; s.ready op c = true ∧ byteAt c.data 0 = 3 ∧ t.mig.dirty.find c.inst = none) ∧
    (∃ (s : State) (c : Cmd) (k : Bytes), let op : Op := { code := 0x0E02, exempt := true }; let t := s.opened op c;
    s.ready op c = true ∧ byteAt c.data 0 = 1 ∧ t.mig.key = some k ∧ leAt c.data 4 3 = keyKcv k ∧
    60 ≤ leAt c.data 8 4 ∧ leAt c.data 8 4 ≤ 86400) ∧
    (∃ (s : State) (c : Cmd), let op : Op := { code := 0x0E02, exempt := true }; let t := s.opened op c;
    s.ready op c = true ∧ byteAt c.data 0 = 1 ∧ t.mig.transferKey = none) ∧
    (∃ (s : State) (c : Cmd), let op : Op := { code := 0x0E02, exempt := true }; s.ready op c = true ∧
    byteAt c.data 0 = 2) ∧
    (∃ (s : State) (u : Nat), s.mig.armedUntil = some u ∧ u ≤ s.now) ∧
    (∃ (s : State) (u : Nat), s.mig.armedUntil = some u ∧ s.now < u) ∧
    (∃ (s : State) (c : Cmd),
    let op : Op := { code := 0x0C01, inst := .inst, states := 0x10, asks := s.savesBlob c.inst };
    let t := s.opened op c;
    let len := waypointLength [16, (t.quotaFlows c.inst).length, 0, 9, 8, (t.quotaSlots c.inst).length, 0, 1];
    s.ready op c = true ∧ leAt c.data 0 8 % 64 = 0 ∧ bit (byteAt c.data 12) 0 = false ∧ t.quotaCtxs c.inst = [] ∧
    len ≤ leAt c.data 8 4 ∧ t.flow.scanDue = false) ∧
    (∃ (s : State) (c : Cmd),
    let op : Op := { code := 0x0C01, inst := .inst, states := 0x10, asks := s.savesBlob c.inst };
    s.ready op c = true ∧ leAt c.data 0 8 % 64 ≠ 0) ∧
    (∃ (s : State) (c : Cmd), s.savesBlob c.inst = true) :=
  ⟨⟨w, mc 1 [(0, 1, 1), (16, 4, 131072)], by dsimp only; decide +kernel⟩,
    ⟨{ w with mig.dirty := [(4, { base := 0, pages := 8, marked := [], lost := false })] }, mc 4 [(0, 1, 2)],
    { base := 0, pages := 8, marked := [], lost := false }, by dsimp only; decide +kernel⟩,
    ⟨{ base := 0, pages := 8, marked := [], lost := false }, 7, by decide +kernel⟩,
    ⟨{ w with mig.dirty := [(4, { base := 0, pages := 8, marked := [], lost := false })] }, mc 4 [(0, 1, 3)],
    { base := 0, pages := 8, marked := [], lost := false }, by dsimp only; decide +kernel⟩,
    ⟨w, mc 1 [(0, 1, 3)], by dsimp only; decide +kernel⟩,
    ⟨{ w with mig.transferKey := some 0 }, { mc 65535 [(0, 1, 1), (4, 3, keyKcv (leBytes 32 0)), (8, 4, 86400)] with ring := .sec },
    leBytes 32 0, by dsimp only; refine ⟨?_, ?_, ?_, kcv_octets _, ?_, ?_⟩ <;> decide +kernel⟩,
    ⟨w, { mc 65535 [(0, 1, 1)] with ring := .sec }, by dsimp only; decide +kernel⟩,
    ⟨w, { mc 65535 [(0, 1, 2)] with ring := .sec }, by dsimp only; decide +kernel⟩,
    ⟨{ w with mig.armedUntil := some 1000000000000 }, 1000000000000, by decide +kernel⟩,
    ⟨{ w with mig.armedUntil := some 1000000000001 }, 1000000000001, by decide +kernel⟩,
    ⟨w, mc 4 [(8, 4, 4294967295)], by dsimp only; decide +kernel⟩,
    ⟨w, mc 4 [(0, 8, 32)], by dsimp only; decide +kernel⟩,
    ⟨{ w with ciph.ctxs := [(109, { label := pat 32 [(0, 1, 1)], pn := 1, kcv := 5, op := 1, flags := 1, owner := 1 })] },
    mc 1 [], by decide +kernel⟩⟩

/-- The hypotheses of `Obligations.LedgersAndDiagnostics` can be met, clause by clause. -/
theorem test_witness_LedgersAndDiagnostics :
    (∃ (s : State) (c : Cmd), let op : Op := { code := 0x0104 }; let t := s.opened op c;
    let n := if byteAt c.data 2 = 0 then 3 else byteAt c.data 2; s.ready op c = true ∧ 2 ≤ n ∧ n ≤ 8 ∧
    1 ≤ leAt c.data 4 4 ∧ leAt c.data 4 4 ≤ 65536 ∧ leAt c.data 8 8 % 32 = 0 ∧ t.err.audit = none) ∧
    (∃ (s : State) (c : Cmd), let op : Op := { code := 0x0104 }; s.ready op c = true ∧
    (byteAt c.data 2 = 1 ∨ 8 < byteAt c.data 2)) ∧
    (∃ (s : State) (a : Audit), s.err.audit = some a ∧ s.inRun 2 = true ∧ (a.taken = 0 ∨ a.lastAt + msTicks ≤ s.now) ∧
    a.taken + 1 < a.pictures) ∧
    (∃ (s : State) (a : Audit), s.err.audit = some a ∧ a.taken ≠ 0 ∧ s.now < a.lastAt + msTicks) ∧
    (∃ (s : State) (a : Audit), s.err.audit = some a ∧ s.inRun 2 = true ∧ a.taken + 1 = a.pictures ∧ a.taken ≠ 0 ∧
    a.lastAt + msTicks ≤ s.now ∧ a.ledgers = 0 ∧ a.seen.flatten = [] ∧ s.dechan.accepted = []) ∧
    (∃ (x : Ring), (x.pi - x.oldest).toNat ≤ 2 ^ x.log2 ∧ (x.fetch - x.oldest).toNat ≤ (x.pi - x.oldest).toNat) ∧
    (∃ (s : State) (c : Cmd) (b : Bytes),
    let op : Op := { code := 0x0D01, lens := [6208], reads := false, writes := true, exempt := true };
    let t := s.opened op c; s.ready op c = true ∧ byteAt c.data 0 = 0 ∧ t.helm.snapshot = some b) ∧
    (∃ (s : State) (c : Cmd),
    let op : Op := { code := 0x0D01, lens := [6208], reads := false, writes := true, exempt := true };
    let t := s.opened op c; s.ready op c = true ∧ byteAt c.data 0 = 0 ∧ t.helm.snapshot = none) ∧
    (∃ (s : State) (c : Cmd) (b : Bytes),
    let op : Op := { code := 0x0D01, lens := [6208], reads := false, writes := true, exempt := true };
    let t := (s.opened op c).takeSnapshot 3; s.ready op c = true ∧ byteAt c.data 0 = 1 ∧ t.helm.snapshot = some b) ∧
    (∃ (s : State) (c : Cmd), let op : Op := { code := 0x0D02 }; s.ready op c = true ∧ byteAt c.data 0 = 0 ∧
    byteAt c.data 1 ≤ 2) ∧
    (∃ (s : State) (c : Cmd), let op : Op := { code := 0x0D02 }; s.ready op c = true ∧ byteAt c.data 0 = 1 ∧
    byteAt c.data 1 ≤ 2) ∧
    (∃ (s : State) (c : Cmd), let op : Op := { code := 0x0D02 }; s.ready op c = true ∧
    (byteAt c.data 0 = 2 ∨ byteAt c.data 0 = 3)) ∧
    (∃ (s : State) (c : Cmd) (g : Grant), let op : Op := { code := 0x0D03 }; let t := s.opened op c;
    s.ready op c = true ∧ t.helm.grant = some g ∧ t.now < g.until_ ∧ byteAt c.data 0 = 3) ∧
    (∃ (s : State) (c : Cmd) (g : Grant), let op : Op := { code := 0x0D03 }; let t := s.opened op c;
    let w := leAt c.data 8 8 / 8 * 8; s.ready op c = true ∧ t.helm.grant = some g ∧ t.now < g.until_ ∧
    byteAt c.data 0 = 2 ∧ byteAt c.data 1 = 2 ∧ leAt c.data 8 8 < 0x3C0000000 ∧ (∀ e ∈ t.mem.errors, ¬(e.1 = 1 ∧
    e.2.1 = w))) ∧
    (∃ (s : State) (c : Cmd), let op : Op := { code := 0x0D03 }; let t := s.opened op c; s.ready op c = true ∧
    t.helm.grant = none) :=
  ⟨⟨w, mc 65535 [(2, 1, 8), (4, 4, 65536)], by dsimp only; decide +kernel⟩,
    ⟨w, mc 65535 [(2, 1, 9)], by dsimp only; decide +kernel⟩,
    ⟨{ w with err.audit := some { cmdRing := 8192, cmdIdx := 0, ledgers := 0, pictures := 2, taken := 0, dropped := 0, reportBase := 0, reportEntries := 1, seen := [], lastAt := 0 } },
    { cmdRing := 8192, cmdIdx := 0, ledgers := 0, pictures := 2, taken := 0, dropped := 0, reportBase := 0, reportEntries := 1, seen := [], lastAt := 0 },
    by decide +kernel⟩,
    ⟨{ w with err.audit := some { cmdRing := 8192, cmdIdx := 0, ledgers := 0, pictures := 2, taken := 1, dropped := 0, reportBase := 0, reportEntries := 1, seen := [], lastAt := 999998750001 } },
    { cmdRing := 8192, cmdIdx := 0, ledgers := 0, pictures := 2, taken := 1, dropped := 0, reportBase := 0, reportEntries := 1, seen := [], lastAt := 999998750001 },
    by decide +kernel⟩,
    ⟨{ w with err.audit := some { cmdRing := 8192, cmdIdx := 0, ledgers := 0, pictures := 2, taken := 1, dropped := 0, reportBase := 0, reportEntries := 1, seen := [], lastAt := 999998750000 } },
    { cmdRing := 8192, cmdIdx := 0, ledgers := 0, pictures := 2, taken := 1, dropped := 0, reportBase := 0, reportEntries := 1, seen := [], lastAt := 999998750000 },
    by decide +kernel⟩,
    ⟨{ pi := 64, fetch := 64 }, by decide +kernel⟩,
    ⟨{ w with helm.snapshot := some (zeros 4) }, mb 65535 [(0, 1, 0)] 6208 [], zeros 4, by dsimp only; decide +kernel⟩,
    ⟨w, mb 65535 [(0, 1, 0)] 6208 [], by dsimp only; decide +kernel⟩,
    ⟨w, mb 65535 [(0, 1, 1)] 6208 [], _, by decide +kernel, by decide +kernel, rfl⟩,
    ⟨w, mc 65535 [(1, 1, 2)], by dsimp only; decide +kernel⟩,
    ⟨w, mc 65535 [(0, 1, 1), (1, 1, 2)], by dsimp only; decide +kernel⟩,
    ⟨w, mc 65535 [(0, 1, 3)], by dsimp only; decide +kernel⟩,
    ⟨{ w with helm.grant := some { scope := 8, until_ := 1000000000001 } }, mc 65535 [(0, 1, 3)],
    { scope := 8, until_ := 1000000000001 }, by dsimp only; decide +kernel⟩,
    ⟨{ w with helm.grant := some { scope := 8, until_ := 1000000000001 } },
    mc 65535 [(0, 1, 2), (1, 1, 2), (8, 8, 16106127359)], { scope := 8, until_ := 1000000000001 },
    by dsimp only; decide +kernel⟩,
    ⟨w, mc 65535 [], by dsimp only; decide +kernel⟩⟩

/-- The hypotheses of `Obligations.RegisterSpacesReadAndWrite` can be met, clause by clause. -/
theorem test_witness_RegisterSpacesReadAndWrite :
    (∃ (s : State) (off : Nat), s.linkReady = true ∧ off < 0x10000 ∧ off % 4 = 0 ∧ s.snap = []) ∧
    (∃ (s : State) (off : Nat), s.linkReady = true ∧ off < 0x10000 ∧ off % 8 = 0 ∧ s.snap = []) ∧
    (∃ (s : State) (off : Nat), s.linkReady = true ∧ off < 2 ^ 20 ∧ off % 8 = 4) ∧
    (∃ (s : State) (off : Nat), s.linkReady = true ∧ off < 2 ^ 20 ∧ off % 8 = 4) ∧
    (∃ (s : State) (off : Nat) (d : Nat), s.linkReady = true ∧ off < 2 ^ 20 ∧ off % 8 = 0 ∧ blockDomain off = some d ∧
    blockDomain (off + 4) = some d ∧ s.inRun d = false) ∧
    (∃ (s : State) (off : Nat) (d : Nat), s.linkReady = true ∧ off < 2 ^ 20 ∧ off % 4 = 0 ∧ blockDomain off = some d ∧
    s.inRun d = false) ∧
    (∃ (s : State) (off : Nat), s.linkReady = true ∧ 0xD0000 ≤ off ∧ off < 0xE0000 ∧ off % 4 = 0 ∧ s.inRun 4 = true ∧
    s.dbgOpen = false) ∧
    (∃ (s : State) (off : Nat), s.linkReady = true ∧ 0xD0000 ≤ off ∧ off < 0xE0000 ∧ off % 4 = 0 ∧ s.inRun 4 = true ∧
    s.dbgOpen = false) ∧
    (∃ (s : State) (off : Nat) (d : Nat), s.linkReady = true ∧ off < 2 ^ 20 ∧ off % 4 = 0 ∧ blockDomain off = some d ∧
    s.inRun d = false) ∧
    (∃ (s : State) (off : Nat), s.linkReady = true ∧ off < 0x10000 ∧ off % 4 = 0) ∧
    (∃ (s : State), s.linkReady = true ∧ s.inRun 12 = true ∧ s.snap = []) ∧
    (∃ (s : State) (v : W32), s.linkReady = true ∧ s.inRun 12 = true ∧ s.snap.find 0x60004 = some v) ∧
    (∃ (s : State) (be : Nat), s.linkReady = true ∧ s.inRun 5 = true ∧ be < 16 ∧ s.sched.nodeSel < 65536) ∧
    (∃ (be : Nat) (k : Nat), k < 4 ∧ be < 16) ∧
    (∃ (s : State), s.linkReady = true) ∧
    (∃ (s : State) (i : Nat) (o : Nat), s.linkReady = true ∧ i < 512 ∧ o < 0x1000 ∧ o % 4 = 0 ∧
    (s.inst i).state = .absent) ∧
    (∃ (s : State) (i : Nat) (o : Nat), s.linkReady = true ∧ i < 512 ∧ o < 0x1000 ∧ o % 4 = 0 ∧
    (s.inst i).state = .absent ∧ s.snap = []) ∧
    (∃ (s : State), s.linkReady = true ∧ s.ciph.lode = .loaded) ∧
    (∃ (s : State), s.linkReady = true) :=
  ⟨⟨w, 0xFFFC, by decide +kernel⟩,
    ⟨w, 0, by decide +kernel⟩,
    ⟨w, 1048572, by decide +kernel⟩,
    ⟨w, 1048572, by decide +kernel⟩,
    ⟨{ w with power.dom := (List.replicate 14 .run).set 12 .stop }, 0x60000, 12, by decide +kernel⟩,
    ⟨{ w with power.dom := (List.replicate 14 .run).set 12 .stop }, 0x6FFFC, 12, by decide +kernel⟩,
    ⟨w, 0xDFFFC, by decide +kernel⟩,
    ⟨w, 0xDFFFC, by decide +kernel⟩,
    ⟨{ w with power.dom := (List.replicate 14 .run).set 12 .stop }, 0x6FFFC, 12, by decide +kernel⟩,
    ⟨w, 0xFFFC, by decide +kernel⟩,
    ⟨w, by decide +kernel⟩,
    ⟨{ w with snap := [(0x60004, 5)] }, 5, by decide +kernel⟩,
    ⟨w, 15, by decide +kernel⟩,
    ⟨15, 3, by decide +kernel⟩,
    ⟨w, by decide +kernel⟩,
    ⟨w, 511, 0xFFC, by decide +kernel⟩,
    ⟨w, 511, 0xFFC, by decide +kernel⟩,
    ⟨w, by decide +kernel⟩,
    ⟨w, by decide +kernel⟩⟩

/-- The hypotheses of `Obligations.RingPlaneDecidesAndForwards` can be met, clause by clause. -/
theorem test_witness_RingPlaneDecidesAndForwards :
    (∃ (e : NodeEntry) (x : Nat) (q : BitVec 16), x < 3 ∧ e.high.length = 3 ∧ e.map.length = 3 ∧
    1 ≤ (q - e.high.getD x 0).toNat ∧ (q - e.high.getD x 0).toNat ≤ 32767) ∧
    (∃ (e : NodeEntry) (x : Nat) (q : BitVec 16), (e.high.getD x 0 - q).toNat ≤ 63 ∧
    (e.map.getD x 0).getLsbD (e.high.getD x 0 - q).toNat = true) ∧
    (∃ (e : NodeEntry) (x : Nat) (q : BitVec 16), 63 < (e.high.getD x 0 - q).toNat ∧
    32767 < (q - e.high.getD x 0).toNat) ∧
    (∃ (s : State) (p : Port) (b : Bytes) (i : RxInfo), isRing p = true ∧ s.receives p = true ∧ i.verify = none ∧
    i.pmac = 0 ∧ (s.mac p).preemptEn = false ∧ (s.mac p).fec ≠ 1 ∧ s.ports.ring.mode = 1 ∧ ¬(isPause b = true ∧
    rxGood b i = true)) ∧
    (∃ (s : State) (b : Bytes), s.ringOwn b = true) ∧
    (∃ (s : State) (p : Port) (i : RxInfo), isRing p = true ∧ s.receives p = true ∧ i.verify = none ∧
    (s.mac p).fec ≠ 1 ∧ s.ports.ring.mode = 3) ∧
    (∃ (s : State) (p : Port) (i : RxInfo), isRing p = true ∧ s.receives p = true ∧ i.verify = none ∧
    (s.mac p).fec = 1 ∧ s.ports.ring.mode = 3) ∧
    (∃ (s : State) (p : Port) (i : RxInfo), isRing p = true ∧ s.receives p = true ∧ i.verify = some true ∧
    (s.mac p).fec ≠ 1 ∧ (s.mac p).preempt = 1) ∧
    (∃ (s : State) (p : Port) (i : RxInfo), isRing p = true ∧ s.receives p = true ∧ i.verify = some false ∧
    (s.mac p).fec ≠ 1 ∧ s.ports.ring.mode ≠ 0) ∧
    (∃ (s : State) (f : PortFrame) (fs : List PortFrame), s.ports.ring.il = f :: fs ∧ s.inRun 1 = true ∧
    s.inRun 5 = true ∧ s.hove = false ∧ s.ports.ring.mode = 1 ∧ s.ports.ring.redbox = false ∧
    f.body.length + 10 ≤ 9216 ∧ s.ports.c.linkUp = true ∧ s.ports.d.linkUp = true) ∧
    (∃ (s : State) (f : PortFrame) (fs : List PortFrame), s.ports.ring.il = f :: fs ∧ s.inRun 1 = true ∧
    s.inRun 5 = true ∧ s.hove = false ∧ s.ports.ring.mode = 1 ∧ 9216 < f.body.length + 10 ∧ f.origin = none) ∧
    (∃ (s : State), s.ports.ring.il = []) ∧
    (∃ (s : State), let r := s.ports.ring; s.inRun 1 = true ∧ r.mode = 1 ∧ r.supEn = true ∧ r.nodeMac ≠ 0 ∧
    r.supAt.find r.nodeMac = none ∧ s.ports.c.linkUp = true ∧ s.ports.d.linkUp = false) ∧
    (∃ (s : State), let r := s.ports.ring; s.inRun 1 = true ∧ r.mode = 1 ∧ r.supEn = true ∧ r.nodeMac ≠ 0 ∧
    r.supAt.find r.nodeMac = none ∧ s.ports.c.linkUp = false ∧ s.ports.d.linkUp = false) ∧
    (∃ (s : State) (a : Nat) (t : Nat), s.ports.ring.supAt.find a = some t ∧ s.now < t + s.ports.ring.supMs * msTicks) ∧
    (∃ (s : State) (p : Port), isRing p = true ∧ s.inRun 1 = true ∧ (s.mac p).preempt = 1 ∧
    (s.mac p).verifyTries = 3 ∧ (s.mac p).verifyAt + (s.mac p).verifyTime * msTicks ≤ s.now) ∧
    (∃ (s : State) (p : Port), isRing p = true ∧ s.inRun 1 = true ∧ (s.mac p).preempt = 1 ∧ (s.mac p).verifyTries = 0) ∧
    (∃ (s : State), s.inRun 1 = true ∧ s.ports.ring.mode = 1 ∧ s.ports.ring.nodeMac ≠ 0 ∧ s.ports.ring.pdelayAt = 0 ∧
    s.ports.c.linkUp = false ∧ s.ports.d.linkUp = false) ∧
    (∃ (s : State), s.inRun 1 = true ∧ s.ports.ring.mode = 1 ∧ s.ports.ring.nodeMac ≠ 0 ∧ s.ports.ring.pdelayAt = 0 ∧
    s.ports.c.linkUp = true ∧ s.ports.d.linkUp = false ∧ 1 ≤ s.ports.ring.delay.length) ∧
    (∃ (s : State) (p : Port) (f : PortFrame) (fs : List PortFrame), isRing p = true ∧ (s.mac p).tx = none ∧
    s.mayStart p = true ∧ (s.mac p).express = f :: fs) ∧
    (∃ (s : State) (p : Port) (h : Sending), isRing p = true ∧ (s.mac p).tx = none ∧ s.mayStart p = true ∧
    (s.mac p).express = [] ∧ (s.mac p).held = some h) ∧
    (∃ (s : State) (p : Port) (f : PortFrame) (fs : List PortFrame), isRing p = true ∧ (s.mac p).tx = none ∧
    s.mayStart p = true ∧ (s.mac p).express = [] ∧ (s.mac p).held = none ∧ (s.mac p).forwarded = f :: fs) ∧
    (∃ (s : State) (p : Port) (f : PortFrame) (fs : List PortFrame), isRing p = true ∧ (s.mac p).tx = none ∧
    s.mayStart p = true ∧ (s.mac p).express = [] ∧ (s.mac p).held = none ∧ (s.mac p).forwarded = [] ∧
    (s.mac p).host = f :: fs) :=
  ⟨⟨{ last := 0, high := [0, 0, 0], map := [0, 0, 0x8000000000000000] }, 2, 32767, by decide +kernel⟩,
    ⟨{ last := 0, high := [0, 0, 0], map := [0, 0, 0x8000000000000000] }, 2, 65473, by decide +kernel⟩,
    ⟨{ last := 0, high := [0, 0, 0], map := [0, 0, 0x8000000000000000] }, 2, 65472, by decide +kernel⟩,
    ⟨{ w with ports.ring.mode := 1 }, .c, zeros 60, { badFcs := false, codeErr := false, pmac := 0, verify := none },
    by decide +kernel⟩,
    ⟨{ w with ports.ring.mode := 1, ports.ring.nodeMac := 5 }, pat 60 [(11, 1, 5)], by decide +kernel⟩,
    ⟨{ w with ports.ring.mode := 3 }, .d, { badFcs := false, codeErr := false, pmac := 0, verify := none },
    by decide +kernel⟩,
    ⟨{ w with ports.c := { w.ports.c with fec := 1 }, ports.ring := { mode := 3 } }, .c,
    { badFcs := false, codeErr := false, pmac := 0, verify := none }, by decide +kernel⟩,
    ⟨{ w with ports.c.preempt := 1 }, .c, { badFcs := false, codeErr := false, pmac := 0, verify := some true },
    by decide +kernel⟩,
    ⟨{ w with ports.ring.mode := 1 }, .c, { badFcs := false, codeErr := false, pmac := 0, verify := some false },
    by decide +kernel⟩,
    ⟨{ w with ports.ring.mode := 1, ports.ring.il := [{ body := zeros 9206, kind := .host }] },
    { body := zeros 9206, kind := .host }, [], by decide +kernel⟩,
    ⟨{ w with ports.ring.mode := 1, ports.ring.il := [{ body := zeros 9207, kind := .host }] },
    { body := zeros 9207, kind := .host }, [], by decide +kernel⟩,
    ⟨w, by decide +kernel⟩,
    ⟨{ w with ports.ring := { mode := 1, supEn := true, nodeMac := 5 }, ports.d := {} },
    by dsimp only; decide +kernel⟩,
    ⟨{ w with ports.c := { w.ports.c with linkUp := false }, ports.d := { w.ports.d with linkUp := false }, ports.ring := { mode := 1, supEn := true, nodeMac := 5 } },
    by dsimp only; decide +kernel⟩,
    ⟨{ w with ports.ring.supAt := [(5, 997500000001)] }, 5, 997500000001, by decide +kernel⟩,
    ⟨{ w with ports.c.preempt := 1, ports.c.verifyTries := 3, ports.c.verifyAt := 999987500000 }, .c,
    by decide +kernel⟩,
    ⟨{ w with ports.c.preempt := 1 }, .c, by decide +kernel⟩,
    ⟨{ w with ports.ring := { mode := 1, nodeMac := 5 }, ports.c := {}, ports.d := {} }, by decide +kernel⟩,
    ⟨{ w with ports.ring := { mode := 1, nodeMac := 5 }, ports.d := {} }, by decide +kernel⟩,
    ⟨{ w with ports.c.express := [{ body := zeros 60, kind := .host }] }, .c, { body := zeros 60, kind := .host }, [],
    by decide +kernel⟩,
    ⟨{ w with ports.c.held := some { f := { body := zeros 60, kind := .host } } }, .c,
    { f := { body := zeros 60, kind := .host } }, by decide +kernel⟩,
    ⟨{ w with ports.c.forwarded := [{ body := zeros 60, kind := .host }] }, .c, { body := zeros 60, kind := .host },
    [], by decide +kernel⟩,
    ⟨{ w with ports.c.host := [{ body := zeros 60, kind := .host }] }, .c, { body := zeros 60, kind := .host }, [],
    by decide +kernel⟩⟩

/-- The hypotheses of `Obligations.RingFormsComplete` can be met, clause by clause. -/
theorem test_witness_RingFormsComplete :
    (∃ (s : State) (p : Port) (i : RxInfo), isRing p = true ∧ s.receives p = true ∧ (s.mac p).fec ≠ 1 ∧
    i.verify = some true ∧ (s.mac p).preempt = 1) ∧
    (∃ (s : State) (p : Port) (i : RxInfo), isRing p = true ∧ s.receives p = true ∧ (s.mac p).fec ≠ 1 ∧
    i.verify = none ∧ i.pmac = 2 ∧ s.ports.ring.mode = 1 ∧ (s.mac p).preemptEn = true) ∧
    (∃ (s : State) (p : Port) (b : Bytes) (i : RxInfo), isRing p = true ∧ s.receives p = true ∧ (s.mac p).fec ≠ 1 ∧
    i.verify = none ∧ i.pmac = 0 ∧ (s.mac p).preemptEn = false ∧ s.ports.ring.mode = 1 ∧
    beAt b 6 6 = s.ports.ring.nodeMac ∧ s.ports.ring.nodeMac ≠ 0 ∧ rxGood b i = true ∧ isPause b = false ∧
    ptpOff b = none) ∧
    (∃ (s : State) (p : Port) (b : Bytes) (i : RxInfo), isRing p = true ∧ s.receives p = true ∧ (s.mac p).fec ≠ 1 ∧
    i.verify = none ∧ i.pmac = 0 ∧ (s.mac p).preemptEn = false ∧ s.ports.ring.mode = 1 ∧ b.length < 60) ∧
    (∃ (s : State) (f : PortFrame) (fs : List PortFrame), s.ports.ring.il = f :: fs ∧ s.inRun 1 = true ∧
    s.inRun 5 = true ∧ s.hove = false ∧ s.ports.ring.mode = 1 ∧ s.ports.ring.redbox = false ∧
    f.body.length + 10 ≤ 9216 ∧ s.ports.c.linkUp = true ∧ s.ports.d.linkUp = false) ∧
    (∃ (s : State) (f : PortFrame) (fs : List PortFrame) (n : BitVec 16) (at_ : Nat), s.ports.ring.il = f :: fs ∧
    s.inRun 1 = true ∧ s.inRun 5 = true ∧ s.hove = false ∧ s.ports.ring.mode = 2 ∧ s.ports.ring.redbox = false ∧
    f.body.length + 10 ≤ 9216 ∧ s.ports.c.linkUp = true ∧ s.ports.d.linkUp = true ∧
    s.ports.ring.prpSeq.find (beAt f.body 0 6) = some (n, at_)) ∧
    (∃ (s : State), let r := s.ports.ring; s.inRun 1 = true ∧ r.mode = 1 ∧ r.supEn = true ∧ r.nodeMac ≠ 0 ∧
    r.supAt.find r.nodeMac = none ∧ s.ports.c.linkUp = true ∧ s.ports.d.linkUp = true) ∧
    (∃ (s : State) (p : Port), isRing p = true ∧ s.inRun 1 = true ∧ (s.mac p).preempt = 1 ∧
    (s.mac p).verifyTries < 3 ∧ (s.mac p).verifyAt + (s.mac p).verifyTime * msTicks ≤ s.now) ∧
    (∃ (s : State) (p : Port) (f : PortFrame) (fs : List PortFrame), isRing p = true ∧ (s.mac p).tx = none ∧
    s.mayStart p = true ∧ (s.mac p).express = f :: fs ∧ f.ringIn = none ∧ f.timeIn = none ∧ f.reflex = none ∧
    f.origin = none ∧ ptpOff f.body = none) ∧
    (∃ (s : State) (p : Port) (f : PortFrame) (fs : List PortFrame), isRing p = true ∧ (s.mac p).tx = none ∧
    s.mayStart p = true ∧ (s.mac p).express = [] ∧ (s.mac p).held = none ∧ (s.mac p).forwarded = [] ∧
    (s.mac p).host = f :: fs ∧ f.ringIn = none ∧ f.timeIn = none ∧ f.reflex = none ∧ f.origin = none ∧
    ptpOff f.body = none) ∧
    (∃ (s : State) (p : Port), isRing p = true ∧ (s.mac p).tx = none ∧ s.mayStart p = true ∧ (s.mac p).express = [] ∧
    (s.mac p).held = none ∧ (s.mac p).forwarded = [] ∧ (s.mac p).host = []) ∧
    (∃ (s : State) (d : RingDelay) (ds : List RingDelay), s.inRun 1 = true ∧ s.ports.ring.mode = 2 ∧
    s.ports.ring.nodeMac ≠ 0 ∧ s.ports.ring.pdelayAt = 0 ∧ s.ports.c.linkUp = true ∧ s.ports.d.linkUp = false ∧
    s.ports.ring.delay = d :: ds ∧ d.t1 = none) :=
  ⟨⟨{ w with ports.c := { w.ports.c with preempt := 1 } }, .c,
    { badFcs := false, codeErr := false, pmac := 0, verify := some true }, by decide +kernel⟩,
    ⟨{ w with ports.c := { w.ports.c with preemptEn := true }, ports.ring := { mode := 1 } }, .c,
    { badFcs := false, codeErr := false, pmac := 2, verify := none }, by decide +kernel⟩,
    ⟨{ w with ports.ring := { mode := 1, nodeMac := 5 } }, .c, pat 60 [(11, 1, 5)],
    { badFcs := false, codeErr := false, pmac := 0, verify := none }, by decide +kernel⟩,
    ⟨{ w with ports.ring := { mode := 1 } }, .d, zeros 59,
    { badFcs := false, codeErr := false, pmac := 0, verify := none }, by decide +kernel⟩,
    ⟨{ w with ports.d := { w.ports.d with linkUp := false }, ports.ring := { mode := 1, il := [{ body := zeros 60, kind := .host }] } },
    { body := zeros 60, kind := .host }, [], by decide +kernel⟩,
    ⟨{ w with ports.ring := { mode := 2, il := [{ body := zeros 60, kind := .host }], prpSeq := [(0, (65535, 7))] } },
    { body := zeros 60, kind := .host }, [], 65535, 7, by decide +kernel⟩,
    ⟨{ w with ports.ring := { mode := 1, supEn := true, nodeMac := 5 } }, by dsimp only; decide +kernel⟩,
    ⟨{ w with ports.c := { w.ports.c with preempt := 1, verifyTries := 2 } }, .c, by decide +kernel⟩,
    ⟨{ w with ports.c := { w.ports.c with express := [{ body := zeros 60, kind := .express }] } }, .c,
    { body := zeros 60, kind := .express }, [], by decide +kernel⟩,
    ⟨{ w with ports.d := { w.ports.d with host := [{ body := zeros 60, kind := .host }] } }, .d,
    { body := zeros 60, kind := .host }, [], by decide +kernel⟩,
    ⟨w, .d, by decide +kernel⟩,
    ⟨{ w with ports.d := { w.ports.d with linkUp := false }, ports.ring := { mode := 2, nodeMac := 5, delay := [{}, {}] } },
    {}, [{}], by decide +kernel⟩⟩

/-- The hypotheses of `Obligations.RingTimersLinkAndConfig` can be met, clause by clause. -/
theorem test_witness_RingTimersLinkAndConfig :
    (∃ (s : State) (p : Port), isRing p = true ∧ s.inRun 1 = true ∧ s.ports.ring.mode = 0 ∧ (s.mac p).lock = false ∧
    (s.mac p).lockLostAt = none ∧ (s.mac p).attemptAt + 2 * msTicks ≤ s.now) ∧
    (∃ (s : State) (p : Port),
    (s.ports.ring.mode ≠ 0 ∨ (s.mac p).lock = true ∨ s.now < (s.mac p).attemptAt + 2 * msTicks)) ∧
    (∃ (s : State) (p : Port) (t : Nat), isRing p = true ∧ s.inRun 1 = true ∧ s.ports.ring.mode = 0 ∧
    (s.mac p).lockLostAt = some t ∧ t + 10 * msTicks ≤ s.now) ∧
    (∃ (s : State) (p : Port) (t : Nat), (s.mac p).lockLostAt = some t ∧ s.now < t + 10 * msTicks) ∧
    (∃ (s : State), s.inRun 1 = true ∧ s.ports.c.enable = true ∧ s.ports.ring.mode = 0 ∧ s.ports.c.lock = false ∧
    s.ports.c.lockLostAt = none ∧ s.ports.c.attempt = 2 ∧ s.ports.c.linkUp = false) ∧
    (∃ (s : State), s.inRun 1 = true ∧ s.ports.c.enable = true ∧ s.ports.c.lock = true ∧ s.ports.c.linkUp = true) ∧
    (∃ (s : State) (a : Nat) (e : NodeEntry), s.ports.ring.nodes.find a = some e ∧ s.inRun 1 = true ∧
    e.last + s.ports.ring.forgetMs * msTicks ≤ s.now) ∧
    (∃ (s : State) (a : Nat) (e : NodeEntry), s.ports.ring.nodes.find a = some e ∧
    s.now < e.last + s.ports.ring.forgetMs * msTicks) ∧
    (∃ (s : State) (a : Nat) (t : Nat), s.ports.ring.proxies.find a = some t ∧ s.inRun 1 = true ∧
    t + 60 * secTicks ≤ s.now) ∧
    (∃ (s : State) (a : Nat) (t : Nat), s.ports.ring.proxies.find a = some t ∧ s.now < t + 60 * secTicks) ∧
    (∃ (s : State) (a : Nat) (n : BitVec 16) (t : Nat), s.ports.ring.prpSeq.find a = some (n, t) ∧ s.inRun 1 = true ∧
    t + 60 * secTicks ≤ s.now) ∧
    (∃ (s : State) (p : Port) (t : Nat), (s.mac p).ownAt = some t ∧ t + 2 * s.ports.ring.supMs * msTicks ≤ s.now) ∧
    (∃ (s : State) (p : Port) (t : Nat), (s.mac p).ownAt = some t ∧ s.now < t + 2 * s.ports.ring.supMs * msTicks) ∧
    (∃ (s : State), s.inRun 1 = true) ∧
    (∃ (s : State) (c : Cmd), let op : Op := { code := 0x0801 }; s.ready op c = true ∧ ringConfigBad c.data = none ∧
    byteAt c.data 0 ≠ 0) ∧
    (∃ (s : State) (c : Cmd) (o : Nat), let op : Op := { code := 0x0801 }; s.ready op c = true ∧
    ringConfigBad c.data = some o) ∧
    (∃ (s : State) (c : Cmd), let op : Op := { code := 0x0801 }; let t := s.opened op c; s.ready op c = true ∧
    ringConfigBad c.data = none ∧ byteAt c.data 0 = 0 ∧ t.reflexOnRing = true) :=
  ⟨⟨{ w with ports.c := { attemptAt := 999997500000 } }, .c, by decide +kernel⟩,
    ⟨w, .c, by decide +kernel⟩,
    ⟨{ w with ports.c.lockLostAt := some 999987500000 }, .c, 999987500000, by decide +kernel⟩,
    ⟨{ w with ports.c.lockLostAt := some 999987500001 }, .c, 999987500001, by decide +kernel⟩,
    ⟨{ w with ports.c := { enable := true, attempt := 2 } }, by decide +kernel⟩,
    ⟨w, by decide +kernel⟩,
    ⟨{ w with ports.ring.nodes := [(5, { last := 999500000000, high := [0, 0, 0], map := [0, 0, 0x8000000000000000] })] },
    5, { last := 999500000000, high := [0, 0, 0], map := [0, 0, 0x8000000000000000] }, by decide +kernel⟩,
    ⟨{ w with ports.ring.nodes := [(5, { last := 999500000001, high := [0, 0, 0], map := [0, 0, 0x8000000000000000] })] },
    5, { last := 999500000001, high := [0, 0, 0], map := [0, 0, 0x8000000000000000] }, by decide +kernel⟩,
    ⟨{ w with ports.ring.proxies := [(5, 925000000000)] }, 5, 925000000000, by decide +kernel⟩,
    ⟨{ w with ports.ring.proxies := [(5, 925000000001)] }, 5, 925000000001, by decide +kernel⟩,
    ⟨{ w with ports.ring.prpSeq := [(5, (0, 925000000000))] }, 5, 0, 925000000000, by decide +kernel⟩,
    ⟨{ w with ports.c.ownAt := some 995000000000 }, .c, 995000000000, by decide +kernel⟩,
    ⟨{ w with ports.c.ownAt := some 995000000001 }, .c, 995000000001, by decide +kernel⟩,
    ⟨w, by decide +kernel⟩,
    ⟨w, mc 65535 [(0, 1, 1), (2, 1, 3), (3, 1, 3), (6, 2, 10), (8, 2, 10000), (17, 1, 5), (21, 1, 128)],
    by dsimp only; decide +kernel⟩,
    ⟨w, mc 65535 [], 30, by dsimp only; decide +kernel⟩,
    ⟨{ w with reflex.slots := [(8, { tmpl := { frame := zeros 60, offSt := 0, offSq := 4, offT := 8, offTal := 16, offAuth := 0, ports := 4, auth := false, sqFirst := 0, nretx := 0, interval := [], tal := [], heartbeat := 1000, talHb := 2000, authCtx := 0, authFrom := 0, tagLen := 0, patch := [(20, 1, 0)] }, state := .armed })] },
    mc 65535 [(6, 2, 10), (8, 2, 100), (21, 1, 1)], by dsimp only; decide +kernel⟩⟩

/-- The hypotheses of `Obligations.MacsReceiveSendAndPause` can be met, clause by clause. -/
theorem test_witness_MacsReceiveSendAndPause :
    (∃ (s : State) (p : Port) (i : RxInfo), s.receives p = true ∧ s.plain p = true ∧ i.verify = none ∧
    s.loopMode p = 0 ∧ (s.mac p).fec ≠ 1) ∧
    (∃ (s : State) (p : Port) (i : RxInfo), s.receives p = true ∧ s.plain p = true ∧ i.verify = none ∧
    s.loopMode p = 0 ∧ (s.mac p).fec = 1) ∧
    (∃ (s : State) (p : Port), (s.loopMode p ≠ 0 ∨ s.receives p = false)) ∧
    (∃ (s : State) (p : Port) (b : Bytes) (i : RxInfo), (s.mac p).preemptEn = false ∧ i.pmac = 0 ∧ rxGood b i = false) ∧
    (∃ (s : State) (p : Port) (b : Bytes), ptpOff b = none ∧ (s.mac p).accepts (beAt b 0 6) = false) ∧
    (∃ (s : State) (p : Port) (b : Bytes), ptpOff b = none ∧ (s.mac p).accepts (beAt b 0 6) = true ∧
    isRing p = false ∧ s.hove = false ∧ s.inRun 5 = true) ∧
    (∃ (s : State) (p : Port) (b : Bytes), ptpOff b = none ∧ (s.mac p).accepts (beAt b 0 6) = true ∧
    isRing p = false ∧ s.hove = true) ∧
    (∃ (m : Mac) (a : Nat), m.promisc = false ∧ m.mcAll = false ∧ (∀ f ∈ m.filt, f ≠ (a, true))) ∧
    (∃ (s : State) (p : Port) (q : Nat), let t := s.stat p 5 1; t.honoursPause p = true ∧ (t.mac p).ignoring = false ∧
    portMbps (t.mac p).rate ≠ 0 ∧ q ≠ 0 ∧ (t.mac p).pauseSince = none) ∧
    (∃ (s : State) (p : Port), s.receives p = true ∧ s.loopMode p = 0) ∧
    (∃ (s : State) (p : Port) (t : Nat), (s.mac p).pauseSince = some t ∧ s.honoursPause p = true ∧
    (s.mac p).pauseLimit ≠ 0 ∧ s.paused p = true ∧ t + (s.mac p).pauseLimit * msTicks ≤ s.now) ∧
    (∃ (s : State) (p : Port) (t : Nat), (s.mac p).pauseSince = some t ∧ (s.mac p).pauseLimit = 0) ∧
    (∃ (s : State) (p : Port), (s.mac p).ignoring = true ∧
    (s.mac p).recoverAt + (s.mac p).pauseRecover * msTicks ≤ s.now) ∧
    (∃ (s : State) (p : Port), (s.mac p).ignoring = true ∧
    s.now < (s.mac p).recoverAt + (s.mac p).pauseRecover * msTicks) ∧
    (∃ (s : State) (p : Port) (x : Sending), (s.mac p).tx = some x ∧ x.loop = 0 ∧ x.f.origin = none ∧
    x.f.stomp = false ∧ isSupervision x.f.body = false) ∧
    (∃ (s : State) (p : Port), (s.mac p).tx = none) ∧
    (∃ (s : State) (p : Port) (x : Sending) (q : Queued × Nat), (s.mac p).tx = some x ∧ x.f.origin = some q ∧
    x.early = true) ∧
    (∃ (s : State) (p : Port) (x : Sending), (s.mac p).tx = some x ∧ x.early = false) ∧
    (∃ (s : State) (p : Port) (v : W32), isRing p = false ∧ s.linkReady = true ∧ s.inRun (portDomain p) = true ∧
    rateListed (bits v.toNat 3 1) (bits v.toNat 5 4) = false) ∧
    (∃ (s : State) (p : Port), isRing p = true ∧ s.linkReady = true ∧ s.inRun 1 = true) ∧
    (∃ (s : State) (p : Port) (v : W32), isRing p = false ∧ s.linkReady = true ∧ s.inRun (portDomain p) = true ∧
    bits v.toNat 3 1 = (s.mac p).rate ∧ bits v.toNat 5 4 = (s.mac p).fec ∧
    rateListed (s.mac p).rate (s.mac p).fec = true ∧ bit v.toNat 0 = true) ∧
    (∃ (s : State) (p : Port) (n : Nat) (v : W32), n < 16 ∧ s.linkReady = true ∧ s.inRun (portDomain p) = true ∧
    bit v.toNat 31 = true) ∧
    (∃ (s : State) (p : Port) (v : W32), s.linkReady = true ∧ s.inRun (portDomain p) = true ∧ bit v.toNat 31 = true ∧
    bit v.toNat 6 = true) ∧
    (∃ (s : State) (p : Port) (v : W32), s.linkReady = true ∧ s.inRun (portDomain p) = true ∧ bit v.toNat 31 = true ∧
    bit v.toNat 6 = false) ∧
    (∃ (s : State) (p : Port) (v : W32), s.linkReady = true ∧ s.inRun (portDomain p) = true ∧
    (s.mac p).modBusy = false ∧ bit v.toNat 24 = true ∧ bit v.toNat 7 = false ∧ 1 ≤ bits v.toNat 23 16 ∧
    bits v.toNat 23 16 ≤ 128) ∧
    (∃ (s : State) (p : Port), s.linkReady = true ∧ s.inRun (portDomain p) = true ∧ (s.mac p).modBusy = true) ∧
    (∃ (s : State) (p : Port), (s.mac p).modBusy = true ∧ (s.mac p).modWrite = false) ∧
    (∃ (s : State) (p : Port), isRing p = false ∧ s.inRun (portDomain p) = true) ∧
    (∃ (s : State) (p : Port), isRing p = true ∧ s.inRun 1 = true) :=
  ⟨⟨w, .a, { badFcs := false, codeErr := false, pmac := 0, verify := none }, by decide +kernel⟩,
    ⟨{ w with ports.b := { w.ports.b with fec := 1 } }, .b,
    { badFcs := false, codeErr := false, pmac := 0, verify := none }, by decide +kernel⟩,
    ⟨{ w with err.loopA := 1 }, .a, by decide +kernel⟩,
    ⟨w, .a, zeros 59, { badFcs := false, codeErr := false, pmac := 0, verify := none }, by decide +kernel⟩,
    ⟨w, .a, zeros 60, by decide +kernel⟩,
    ⟨w, .a, (List.replicate 6 0xFF ++ zeros 54), by decide +kernel⟩,
    ⟨{ w with boot.causes := 1 }, .a, (List.replicate 6 0xFF ++ zeros 54), by decide +kernel⟩,
    ⟨{ mcAll := false }, 5, by decide +kernel⟩,
    ⟨{ w with ports.a.pauseRx := true }, .a, 1, by dsimp only; decide +kernel⟩,
    ⟨w, .a, by decide +kernel⟩,
    ⟨{ w with ports.a.pauseRx := true, ports.a.pauseSince := some 999875000000, ports.a.pauseUntil := 1000000000001 },
    .a, 999875000000, by decide +kernel⟩,
    ⟨{ w with ports.a.pauseSince := some 5, ports.a.pauseLimit := 0 }, .a, 5, by decide +kernel⟩,
    ⟨{ w with ports.a.ignoring := true, ports.a.recoverAt := 998750000000 }, .a, by decide +kernel⟩,
    ⟨{ w with ports.a.ignoring := true, ports.a.recoverAt := 998750000001 }, .a, by decide +kernel⟩,
    ⟨{ w with ports.a.tx := some { f := { body := zeros 60, kind := .host } } }, .a,
    { f := { body := zeros 60, kind := .host } }, by decide +kernel⟩,
    ⟨w, .a, by decide +kernel⟩,
    ⟨{ w with ports.a.tx := some { f := { body := zeros 60, kind := .host, origin := some ({ frame := { body := zeros 60, srcPort := 0 }, cells := 1, dram := false, at_ := 0 }, 0) }, early := true } },
    .a,
    { f := { body := zeros 60, kind := .host, origin := some ({ frame := { body := zeros 60, srcPort := 0 }, cells := 1, dram := false, at_ := 0 }, 0) }, early := true },
    ({ frame := { body := zeros 60, srcPort := 0 }, cells := 1, dram := false, at_ := 0 }, 0), by decide +kernel⟩,
    ⟨{ w with ports.a.tx := some { f := { body := zeros 60, kind := .host } } }, .a,
    { f := { body := zeros 60, kind := .host } }, by decide +kernel⟩,
    ⟨w, .a, 6, by decide +kernel⟩,
    ⟨w, .c, by decide +kernel⟩,
    ⟨{ w with ports.a.fec := 1 }, .a, 19, by decide +kernel⟩,
    ⟨w, .a, 15, 2147483648, by decide +kernel⟩,
    ⟨w, .a, 2147483712, by decide +kernel⟩,
    ⟨w, .a, 2147483648, by decide +kernel⟩,
    ⟨w, .a, 25165824, by decide +kernel⟩,
    ⟨{ w with ports.a.modBusy := true }, .a, by decide +kernel⟩,
    ⟨{ w with ports.a.modBusy := true }, .a, by decide +kernel⟩,
    ⟨w, .a, by decide +kernel⟩,
    ⟨w, .c, by decide +kernel⟩⟩

/-- The hypotheses of `Obligations.AlmanacRowsOpenFillAndSeal` can be met, clause by clause. -/
theorem test_witness_AlmanacRowsOpenFillAndSeal :
    (∃ (rate : Nat), 0 < rate ∧ rate ≤ 96000) ∧
    (∃ (s : State) (k : Nat) (a : Almanac), let n := max a.next (firstRow a.rate s.tbNs); s.alm.tab.find k = some a ∧
    s.inRun 12 = true ∧ s.alm.hoveTo = false ∧ nominal a.rate n ≤ s.tbNs + 100000 ∧ a.open_.length < a.slots ∧
    a.holds.find (n % a.rows) = none) ∧
    (∃ (s : State) (k : Nat) (a : Almanac), s.alm.tab.find k = some a ∧
    s.tbNs + 100000 < nominal a.rate (max a.next (firstRow a.rate s.tbNs))) ∧
    (∃ (s : State) (k : Nat) (a : Almanac), s.alm.tab.find k = some a ∧ a.slots ≤ a.open_.length) ∧
    (∃ (s : State) (k : Nat) (a : Almanac) (r : Row) (rs : List Row), s.alm.tab.find k = some a ∧ a.open_ = r :: rs ∧
    s.tbNs < nominal a.rate r.n + a.window * 1000) ∧
    (∃ (s : State) (k : Nat) (a : Almanac) (r : Row), s.alm.tab.find k = some a ∧ a.open_ = [r] ∧ s.inRun 12 = true ∧
    s.alm.hoveTo = false ∧ nominal a.rate r.n + a.window * 1000 ≤ s.tbNs ∧ (∀ col,
    col < a.cols → r.cells.has col = true) ∧ s.alm.watches = [] ∧ bit s.recd.cfg.almMask k = false ∧
    s.time.unsynced = false) ∧
    (∃ (s : State) (id : Nat) (st : SvStream), s.alm.streams.find id = some st ∧ st.subst = false) ∧
    (∃ (s : State) (q : Steered) (qs : List Steered) (x : Nat × Bool × Bytes), s.alm.queue = q :: qs ∧
    s.inRun 12 = true ∧ s.alm.hoveTo = false ∧ (pbPdu q.body etSv) = some x ∧ readSv x.2.2 = none ∧
    s.alm.streams = []) ∧
    (∃ (s : State) (q : Steered) (qs : List Steered) (id : Nat) (st : SvStream) (appid : Nat) (sim : Bool) (p : Bytes) (xs : List Asdu),
    s.alm.queue = q :: qs ∧ s.inRun 12 = true ∧ s.alm.hoveTo = false ∧ pbPdu q.body etSv = some (appid, sim, p) ∧
    readSv p = some xs ∧ s.alm.streams = [(id, st)] ∧ st.dst = beAt q.body 0 6 ∧ st.appid = appid ∧
    (xs.head?.map (·.svid)).getD [] = st.svid) ∧
    (∃ (s : State), s.alm.queue = []) ∧
    (∃ (s : State) (id : Nat) (st : SvStream) (a : Almanac) (t : Nat) (x : Asdu) (n : Nat) (arr : Bool) (r : Row),
    s.alm.streams.find id = some st ∧ s.alm.tab.find st.alm = some a ∧ asduRow st a.rate x t = some (n, arr) ∧
    nominal a.rate n ≤ t + 100000 ∧ a.lastSealed = none ∧ a.open_.find? (fun q => q.n == n) = some r ∧
    r.cols.find st.column = some id ∧ r.cells.has st.column = true) ∧
    (∃ (s : State) (id : Nat) (st : SvStream) (a : Almanac) (t : Nat) (x : Asdu) (n : Nat) (arr : Bool) (m : Nat),
    s.alm.streams.find id = some st ∧ s.alm.tab.find st.alm = some a ∧ asduRow st a.rate x t = some (n, arr) ∧
    nominal a.rate n ≤ t + 100000 ∧ a.lastSealed = some m ∧ n ≤ m) ∧
    (∃ (rate : Nat) (x : Asdu), x.smpSynch ≠ 0 ∧ rate ≤ x.smpCnt) ∧
    (∃ (s : State) (i : Nat) (w : Watch) (last : Nat) (v : W32), let k := i * 8 + v.toNat % 8; i < 512 ∧
    s.linkReady = true ∧ (s.inst i).state ≠ .absent ∧ s.alm.watches.find k = some w ∧
    (s.alm.tab.find w.alm).bind (·.lastSealed) = some last ∧ s.inRun 12 = true ∧ v.toNat / 256 = last % 2 ^ 24) ∧
    (∃ (s : State) (i : Nat), i < 512 ∧ s.linkReady = true ∧ (s.inst i).state = .absent) ∧
    (∃ (s : State) (v : W32), s.linkReady = true ∧ s.inRun 12 = true ∧ bit v.toNat 0 = true) :=
  ⟨⟨96000, by decide +kernel⟩,
    ⟨{ w with alm.tab := [(0, { rate := 96000, rows := 4096, cols := 1, window := 500, early := false, cellBase := 0, statusBase := 0, sealBase := 0, sealEntries := 64, slots := 3 })] },
    0,
    { rate := 96000, rows := 4096, cols := 1, window := 500, early := false, cellBase := 0, statusBase := 0, sealBase := 0, sealEntries := 64, slots := 3 },
    by dsimp only; decide +kernel⟩,
    ⟨{ w with alm.tab := [(0, { rate := 4000, rows := 4096, cols := 1, window := 500, early := false, cellBase := 0, statusBase := 0, sealBase := 0, sealEntries := 64, slots := 3 })] },
    0,
    { rate := 4000, rows := 4096, cols := 1, window := 500, early := false, cellBase := 0, statusBase := 0, sealBase := 0, sealEntries := 64, slots := 3 },
    by decide +kernel⟩,
    ⟨{ w with alm.tab := [(0, { rate := 4000, rows := 4096, cols := 1, window := 500, early := false, cellBase := 0, statusBase := 0, sealBase := 0, sealEntries := 64, slots := 0 })] },
    0,
    { rate := 4000, rows := 4096, cols := 1, window := 500, early := false, cellBase := 0, statusBase := 0, sealBase := 0, sealEntries := 64, slots := 0 },
    by decide +kernel⟩,
    ⟨{ w with alm.tab := [(0, { rate := 4000, rows := 4096, cols := 1, window := 500, early := false, cellBase := 0, statusBase := 0, sealBase := 0, sealEntries := 64, slots := 3, open_ := [{ n := 4000000, cols := [] }] })] },
    0,
    { rate := 4000, rows := 4096, cols := 1, window := 500, early := false, cellBase := 0, statusBase := 0, sealBase := 0, sealEntries := 64, slots := 3, open_ := [{ n := 4000000, cols := [] }] },
    { n := 4000000, cols := [] }, [], by decide +kernel⟩,
    ⟨{ w with alm.tab := [(0, { rate := 4000, rows := 4096, cols := 1, window := 500, early := false, cellBase := 0, statusBase := 0, sealBase := 0, sealEntries := 64, slots := 3, open_ := [{ n := 3998000, cols := [(0, 5)], cells := [(0, zeros 64)] }] })], time.bound := 1000 },
    0,
    { rate := 4000, rows := 4096, cols := 1, window := 500, early := false, cellBase := 0, statusBase := 0, sealBase := 0, sealEntries := 64, slots := 3, open_ := [{ n := 3998000, cols := [(0, 5)], cells := [(0, zeros 64)] }] },
    { n := 3998000, cols := [(0, 5)], cells := [(0, zeros 64)] }, by decide +kernel⟩,
    ⟨{ w with alm.streams := [(5, { dst := 5, appid := 1, confRev := 1, alm := 0, nval := 1, subst := false, acceptSim := false, auth := false, checkConfRev := false, requireSync := false, substMax := 1, column := 0, delayNom := 0, authCtx := 0, svid := [65] })] },
    5,
    { dst := 5, appid := 1, confRev := 1, alm := 0, nval := 1, subst := false, acceptSim := false, auth := false, checkConfRev := false, requireSync := false, substMax := 1, column := 0, delayNom := 0, authCtx := 0, svid := [65] },
    by decide +kernel⟩,
    ⟨{ w with alm.queue := [{ body := (([0, 0, 0, 0, 0, 5, 0, 0, 0, 0, 0, 0, 0x88, 0xBA, 0, 1, 0, 9, 0, 0, 0, 0] : Bytes) ++ zeros 38), stamp := (0, 0), at_ := 0 }] },
    { body := (([0, 0, 0, 0, 0, 5, 0, 0, 0, 0, 0, 0, 0x88, 0xBA, 0, 1, 0, 9, 0, 0, 0, 0] : Bytes) ++ zeros 38), stamp := (0, 0), at_ := 0 },
    [], (1, false, [0]), by decide +kernel⟩,
    ⟨{ w with alm.queue := [{ body := (([0, 0, 0, 0, 0, 5, 0, 0, 0, 0, 0, 0, 0x88, 0xBA, 0, 1, 0, 43, 0, 0, 0, 0] : Bytes) ++ ([0x60, 33, 0x80, 1, 1, 0xA2, 28, 0x30, 26, 0x80, 1, 65, 0x82, 2, 0, 0, 0x83, 4, 0, 0, 0, 1, 0x85, 1, 2, 0x87, 8, 0, 0, 0, 0, 0, 0, 0, 0] : Bytes) ++ zeros 10), stamp := (0, 0), at_ := 0 }], alm.streams := [(5, { dst := 5, appid := 1, confRev := 1, alm := 0, nval := 1, subst := false, acceptSim := false, auth := false, checkConfRev := false, requireSync := false, substMax := 1, column := 0, delayNom := 0, authCtx := 0, svid := [65] })] },
    { body := (([0, 0, 0, 0, 0, 5, 0, 0, 0, 0, 0, 0, 0x88, 0xBA, 0, 1, 0, 43, 0, 0, 0, 0] : Bytes) ++ ([0x60, 33, 0x80, 1, 1, 0xA2, 28, 0x30, 26, 0x80, 1, 65, 0x82, 2, 0, 0, 0x83, 4, 0, 0, 0, 1, 0x85, 1, 2, 0x87, 8, 0, 0, 0, 0, 0, 0, 0, 0] : Bytes) ++ zeros 10), stamp := (0, 0), at_ := 0 },
    [], 5,
    { dst := 5, appid := 1, confRev := 1, alm := 0, nval := 1, subst := false, acceptSim := false, auth := false, checkConfRev := false, requireSync := false, substMax := 1, column := 0, delayNom := 0, authCtx := 0, svid := [65] },
    1, false,
    ([0x60, 33, 0x80, 1, 1, 0xA2, 28, 0x30, 26, 0x80, 1, 65, 0x82, 2, 0, 0, 0x83, 4, 0, 0, 0, 1, 0x85, 1, 2, 0x87, 8, 0, 0, 0, 0, 0, 0, 0, 0] : Bytes),
    [{ svid := [65], smpCnt := 0, confRev := 1, smpSynch := 2, values := zeros 8 }], by decide +kernel⟩,
    ⟨w, by decide +kernel⟩,
    ⟨{ w with alm.streams := [(5, { dst := 5, appid := 1, confRev := 1, alm := 0, nval := 1, subst := false, acceptSim := false, auth := false, checkConfRev := false, requireSync := false, substMax := 1, column := 0, delayNom := 0, authCtx := 0, svid := [65] })], alm.tab := [(0, { rate := 4000, rows := 4096, cols := 1, window := 500, early := false, cellBase := 0, statusBase := 0, sealBase := 0, sealEntries := 64, slots := 3, open_ := [{ n := 4000000, cols := [(0, 5)], cells := [(0, zeros 64)] }] })] },
    5,
    { dst := 5, appid := 1, confRev := 1, alm := 0, nval := 1, subst := false, acceptSim := false, auth := false, checkConfRev := false, requireSync := false, substMax := 1, column := 0, delayNom := 0, authCtx := 0, svid := [65] },
    { rate := 4000, rows := 4096, cols := 1, window := 500, early := false, cellBase := 0, statusBase := 0, sealBase := 0, sealEntries := 64, slots := 3, open_ := [{ n := 4000000, cols := [(0, 5)], cells := [(0, zeros 64)] }] },
    1000000000000, { svid := [65], smpCnt := 0, confRev := 1, smpSynch := 2, values := zeros 8 }, 4000000, false,
    { n := 4000000, cols := [(0, 5)], cells := [(0, zeros 64)] }, by decide +kernel⟩,
    ⟨{ w with alm.streams := [(5, { dst := 5, appid := 1, confRev := 1, alm := 0, nval := 1, subst := false, acceptSim := false, auth := false, checkConfRev := false, requireSync := false, substMax := 1, column := 0, delayNom := 0, authCtx := 0, svid := [65] })], alm.tab := [(0, { rate := 4000, rows := 4096, cols := 1, window := 500, early := false, cellBase := 0, statusBase := 0, sealBase := 0, sealEntries := 64, slots := 3, lastSealed := some 4000000 })] },
    5,
    { dst := 5, appid := 1, confRev := 1, alm := 0, nval := 1, subst := false, acceptSim := false, auth := false, checkConfRev := false, requireSync := false, substMax := 1, column := 0, delayNom := 0, authCtx := 0, svid := [65] },
    { rate := 4000, rows := 4096, cols := 1, window := 500, early := false, cellBase := 0, statusBase := 0, sealBase := 0, sealEntries := 64, slots := 3, lastSealed := some 4000000 },
    1000000000000, { svid := [65], smpCnt := 0, confRev := 1, smpSynch := 2, values := zeros 8 }, 4000000, false,
    4000000, by decide +kernel⟩,
    ⟨4000, { svid := [65], smpCnt := 4000, confRev := 1, smpSynch := 2, values := zeros 8 }, by decide +kernel⟩,
    ⟨{ w with alm.watches := [(15, { alm := 0, ackRequired := true, lateOnly := false, lubber := 1000, decimate := 1, phase := 0 })], alm.tab := [(0, { rate := 4000, rows := 4096, cols := 1, window := 500, early := false, cellBase := 0, statusBase := 0, sealBase := 0, sealEntries := 64, slots := 3, lastSealed := some 5 })] },
    1, { alm := 0, ackRequired := true, lateOnly := false, lubber := 1000, decimate := 1, phase := 0 }, 5, 1287,
    by dsimp only; decide +kernel⟩,
    ⟨w, 511, by decide +kernel⟩,
    ⟨w, 1, by decide +kernel⟩⟩

/-- The hypotheses of `Obligations.AlmanacCommandsSubscribeAndCreate` can be met, clause by clause. -/
theorem test_witness_AlmanacCommandsSubscribeAndCreate :
    (∃ (s : State) (c : Cmd) (a : Almanac), let op : Op := { code := 0x0802, lens := [128], needsD12 := true };
    let t := s.opened op c; let b := bufferOf op c; s.ready op c = true ∧ c.handle ≤ 1023 ∧
    t.alm.tab.find (byteAt b 12) = some a ∧ svBad b (some a) = none ∧ bit (byteAt b 14) 2 = false ∧
    t.alm.streams = []) ∧
    (∃ (s : State) (c : Cmd), let op : Op := { code := 0x0802, lens := [128], needsD12 := true };
    let t := s.opened op c; let b := bufferOf op c; s.ready op c = true ∧ c.handle ≤ 1023 ∧
    t.alm.tab.find (byteAt b 12) = none ∧ svBad b none = none) ∧
    (∃ (s : State) (c : Cmd) (st : SvStream), let op : Op := { code := 0x0803, needsD12 := true };
    let t := s.opened op c; s.ready op c = true ∧ t.alm.streams = [(c.handle, st)] ∧ st.ending = false ∧
    (∀ p ∈ t.alm.tab, p.2.open_ = [])) ∧
    (∃ (s : State) (c : Cmd), let op : Op := { code := 0x0803, needsD12 := true }; let t := s.opened op c;
    s.ready op c = true ∧ t.alm.streams.find c.handle = none) ∧
    (∃ (s : State) (c : Cmd), let op : Op := { code := 0x0804, lens := [64], needsD12 := true };
    let t := s.opened op c; let b := bufferOf op c; let rate := leAt b 0 4;
    let entries := if leAt b 40 2 = 0 then 65536 else leAt b 40 2; let need := slotsNeeded rate (leAt b 10 2);
    s.ready op c = true ∧ bit (byteAt b 12) 7 = false ∧ c.handle ≤ 15 ∧ t.alm.tab.has c.handle = false ∧
    need ≤ t.alm.slotsFree ∧ leAt b 4 4 ≠ 0 ∧ almBad b (leAt b 4 4) entries = none) ∧
    (∃ (s : State) (c : Cmd), let op : Op := { code := 0x0804, lens := [64], needsD12 := true };
    let t := s.opened op c; let b := bufferOf op c; s.ready op c = true ∧ bit (byteAt b 12) 7 = false ∧
    c.handle ≤ 15 ∧ t.alm.tab.has c.handle = false ∧ t.alm.slotsFree < slotsNeeded (leAt b 0 4) (leAt b 10 2)) ∧
    (∃ (s : State) (c : Cmd) (a : Almanac), let op : Op := { code := 0x0804, lens := [64], needsD12 := true };
    let t := s.opened op c; let b := bufferOf op c; s.ready op c = true ∧ bit (byteAt b 12) 7 = true ∧ c.handle ≤ 15 ∧
    t.alm.tab.find c.handle = some a ∧ a.open_ = [] ∧ t.alm.streams = []) ∧
    (∃ (s : State) (c : Cmd),
    let op : Op := { code := 0x0805, tenant := true, inst := .inst, needsD12 := true, states := 0x3E };
    let t := s.opened op c; let d := c.data; s.ready op c = true ∧ bit (byteAt d 2) 7 = false ∧ byteAt d 0 ≤ 15 ∧
    (c.inst * 16 + byteAt d 0 % 16) ∈ t.alm.rights ∧ t.alm.tab.has (byteAt d 0) = true ∧ byteAt d 1 ≤ 7 ∧
    bit (byteAt d 2) 0 = true ∧ 1000 ≤ leAt d 4 4 ∧ leAt d 4 4 ≤ 1000000 ∧ 1 ≤ leAt d 8 2 ∧ leAt d 8 2 ≤ 4096 ∧
    leAt d 10 2 < leAt d 8 2) ∧
    (∃ (s : State) (c : Cmd),
    let op : Op := { code := 0x0805, tenant := true, inst := .inst, needsD12 := true, states := 0x3E };
    let t := s.opened op c; let d := c.data; s.ready op c = true ∧ bit (byteAt d 2) 7 = false ∧ byteAt d 0 ≤ 15 ∧
    (c.inst * 16 + byteAt d 0 % 16) ∈ t.alm.rights ∧ t.alm.tab.has (byteAt d 0) = true ∧ byteAt d 1 ≤ 7) ∧
    (∃ (s : State) (c : Cmd) (i : Nat),
    let op : Op := { code := 0x0805, tenant := true, inst := .inst, needsD12 := true, states := 0x3E };
    let t := s.opened op c; s.ready op c = true ∧ cmdTenant c = some i ∧ bit (byteAt c.data 2) 7 = false ∧
    (c.inst * 16 + byteAt c.data 0 % 16) ∉ t.alm.rights) ∧
    (∃ (s : State) (c : Cmd),
    let op : Op := { code := 0x0805, tenant := true, inst := .inst, needsD12 := true, states := 0x3E };
    let t := s.opened op c; s.ready op c = true ∧ cmdTenant c = none ∧ bit (byteAt c.data 2) 7 = true ∧
    bit (byteAt c.data 2) 6 = true ∧ byteAt c.data 0 ≤ 15 ∧ t.alm.tab.has (byteAt c.data 0) = true) :=
  ⟨⟨{ w with alm.tab := [(15, { rate := 4000, rows := 4096, cols := 1, window := 500, early := false, cellBase := 0, statusBase := 0, sealBase := 0, sealEntries := 64, slots := 3 })] },
    { mb 65535 [] 128 [(12, 1, 15), (13, 1, 14), (15, 1, 1), (18, 2, 64)] with handle := 1023 },
    { rate := 4000, rows := 4096, cols := 1, window := 500, early := false, cellBase := 0, statusBase := 0, sealBase := 0, sealEntries := 64, slots := 3 },
    by dsimp only; decide +kernel⟩,
    ⟨w, { mb 65535 [] 128 [(12, 1, 15), (13, 1, 14), (15, 1, 1), (18, 2, 64)] with handle := 1023 },
    by dsimp only; decide +kernel⟩,
    ⟨{ w with alm.streams := [(1023, { dst := 5, appid := 1, confRev := 1, alm := 0, nval := 1, subst := false, acceptSim := false, auth := false, checkConfRev := false, requireSync := false, substMax := 1, column := 0, delayNom := 0, authCtx := 0, svid := [65] })] },
    { mc 65535 [] with handle := 1023 },
    { dst := 5, appid := 1, confRev := 1, alm := 0, nval := 1, subst := false, acceptSim := false, auth := false, checkConfRev := false, requireSync := false, substMax := 1, column := 0, delayNom := 0, authCtx := 0, svid := [65] },
    by dsimp only; decide +kernel⟩,
    ⟨w, mc 65535 [], by dsimp only; decide +kernel⟩,
    ⟨w, { mb 65535 [] 64 [(0, 4, 96000), (4, 4, 4096), (8, 2, 1024), (10, 2, 500), (40, 2, 64)] with handle := 15 },
    by dsimp only; decide +kernel⟩,
    ⟨{ w with alm.tab := [(0, { rate := 4000, rows := 4096, cols := 1, window := 500, early := false, cellBase := 0, statusBase := 0, sealBase := 0, sealEntries := 64, slots := 256 })] },
    { mb 65535 [] 64 [(0, 4, 96000), (10, 2, 500)] with handle := 15 }, by dsimp only; decide +kernel⟩,
    ⟨{ w with alm.tab := [(15, { rate := 4000, rows := 4096, cols := 1, window := 500, early := false, cellBase := 0, statusBase := 0, sealBase := 0, sealEntries := 64, slots := 3 })] },
    { mb 65535 [] 64 [(12, 1, 128)] with handle := 15 },
    { rate := 4000, rows := 4096, cols := 1, window := 500, early := false, cellBase := 0, statusBase := 0, sealBase := 0, sealEntries := 64, slots := 3 },
    by dsimp only; decide +kernel⟩,
    ⟨{ w with alm.tab := [(15, { rate := 4000, rows := 4096, cols := 1, window := 500, early := false, cellBase := 0, statusBase := 0, sealBase := 0, sealEntries := 64, slots := 3 })], alm.rights := [31] },
    mc 1 [(0, 1, 15), (1, 1, 7), (2, 1, 1), (4, 4, 1000000), (8, 2, 4096), (10, 2, 4095)],
    by dsimp only; decide +kernel⟩,
    ⟨{ w with alm := { rights := [31], tab := [(15, { rate := 4000, rows := 4096, cols := 1, window := 500, early := false, cellBase := 0, statusBase := 0, sealBase := 0, sealEntries := 64, slots := 3 })] } },
    mc 1 [(0, 1, 15), (1, 1, 7)], by dsimp only; decide +kernel⟩,
    ⟨w, { mc 1 [] with ring := .inst 1 }, 1, by dsimp only; decide +kernel⟩,
    ⟨{ w with alm.tab := [(15, { rate := 4000, rows := 4096, cols := 1, window := 500, early := false, cellBase := 0, statusBase := 0, sealBase := 0, sealEntries := 64, slots := 3 })] },
    mc 1 [(0, 1, 15), (2, 1, 192)], by dsimp only; decide +kernel⟩⟩

/-- The hypotheses of `Obligations.ReflexWritesPublishAndRetransmit` can be met, clause by clause. -/
theorem test_witness_ReflexWritesPublishAndRetransmit :
    (∃ (s : State) (i : Nat) (k : Nat), i < 512 ∧ k < 8 ∧ s.linkReady = true ∧ s.inRun 12 = true ∧
    (s.inst i).state ≠ .absent) ∧
    (∃ (s : State) (i : Nat) (k : Nat), i < 512 ∧ k < 8 ∧ s.linkReady = true ∧ s.inRun 12 = true ∧
    (s.inst i).state = .absent) ∧
    (∃ (s : State) (i : Nat) (k : Nat), i < 512 ∧ k < 8 ∧ s.linkReady = true ∧ s.inRun 12 = true ∧
    (s.inst i).state ≠ .absent ∧ s.slot (i * 8 + k) = none) ∧
    (∃ (s : State) (i : Nat) (k : Nat) (hi : W32) (x : Slot), i < 512 ∧ k < 8 ∧ s.linkReady = true ∧
    s.inRun 12 = true ∧ (s.inst i).state = .active ∧ s.slot (i * 8 + k) = some x ∧ x.state = .armed ∧
    x.isHeld = false ∧ hi.toNat / 1024 ≠ 0) ∧
    (∃ (s : State) (i : Nat) (k : Nat) (hi : W32) (x : Slot), i < 512 ∧ k < 8 ∧ s.linkReady = true ∧
    s.inRun 12 = true ∧ (s.inst i).state = .active ∧ s.slot (i * 8 + k) = some x ∧ x.state = .armed ∧
    x.isHeld = false ∧ hi.toNat < 256 ∧ x.staged.toNat ||| x.tmpl.mask = x.tmpl.mask ∧ x.held = none ∧
    s.slotBusy (i * 8 + k) = false) ∧
    (∃ (s : State) (i : Nat) (k : Nat) (hi : W32) (x : Slot), i < 512 ∧ k < 8 ∧ s.linkReady = true ∧
    s.inRun 12 = true ∧ (s.inst i).state = .active ∧ s.slot (i * 8 + k) = some x ∧ x.state = .armed ∧
    x.isHeld = false ∧ hi.toNat < 256 ∧ x.staged.toNat ||| x.tmpl.mask = x.tmpl.mask ∧ x.held = none ∧
    s.slotBusy (i * 8 + k) = true) ∧
    (∃ (s : State) (i : Nat) (k : Nat) (x : Slot), i < 512 ∧ k < 8 ∧ s.linkReady = true ∧ s.inRun 12 = true ∧
    (s.inst i).state = .active ∧ s.slot (i * 8 + k) = some x ∧ x.state = .armed ∧ x.isHeld = true ∧ s.hove = true) ∧
    (∃ (s : State) (i : Nat) (k : Nat) (x : Slot), i < 512 ∧ k < 8 ∧ s.linkReady = true ∧ s.inRun 12 = true ∧
    (s.inst i).state = .active ∧ s.slot (i * 8 + k) = some x ∧ x.state = .armed ∧ x.isHeld = true ∧ s.hove = false) ∧
    (∃ (s : State) (i : Nat) (k : Nat) (x : Slot) (lo : W32) (hi : W32) (since : Nat), i < 512 ∧ k < 8 ∧
    s.slot (i * 8 + k) = some x ∧ x.held = some (lo, hi, since) ∧ s.inRun 12 = true ∧ x.state = .armed ∧
    x.isHeld = false ∧ s.publishing (i * 8 + k) = true ∧ s.slotBusy (i * 8 + k) = false) ∧
    (∃ (s : State) (i : Nat) (k : Nat) (x : Slot), i < 512 ∧ k < 8 ∧ s.slot (i * 8 + k) = some x ∧
    s.slotBusy (i * 8 + k) = true) ∧
    (∃ (s : State) (i : Nat) (k : Nat) (x : Slot) (due : Nat), i < 512 ∧ k < 8 ∧ s.slot (i * 8 + k) = some x ∧
    x.due = some due ∧ s.tbNs < due) ∧
    (∃ (s : State) (i : Nat) (k : Nat) (x : Slot) (due : Nat), i < 512 ∧ k < 8 ∧ s.slot (i * 8 + k) = some x ∧
    x.due = some due ∧ due ≤ s.tbNs ∧ s.inRun 12 = true ∧ x.state = .armed ∧ x.heldHove = false ∧ x.heldKey = false ∧
    s.publishing (i * 8 + k) = true) ∧
    (∃ (s : State) (i : Nat) (k : Nat) (x : Slot) (due : Nat), i < 512 ∧ k < 8 ∧ s.slot (i * 8 + k) = some x ∧
    x.due = some due ∧ due ≤ s.tbNs ∧ s.inRun 12 = true ∧ x.state = .armed ∧ x.heldHove = false ∧ x.heldKey = true ∧
    s.publishing (i * 8 + k) = true) ∧
    (∃ (s : State) (v : W32), s.linkReady = true ∧ s.inRun 12 = true ∧ bit v.toNat 0 = true) ∧
    (∃ (s : State) (x : Slot), (s.signed x (x.frame (x.tmpl.talOf x.step))).1 = none) :=
  ⟨⟨w, 1, 7, by decide +kernel⟩,
    ⟨w, 511, 7, by decide +kernel⟩,
    ⟨w, 1, 7, by decide +kernel⟩,
    ⟨{ w with reflex.slots := [(15, { tmpl := { frame := zeros 60, offSt := 0, offSq := 4, offT := 8, offTal := 16, offAuth := 0, ports := 1, auth := false, sqFirst := 0, nretx := 0, interval := [], tal := [], heartbeat := 1000, talHb := 2000, authCtx := 0, authFrom := 0, tagLen := 0, patch := [(20, 1, 0)] }, state := .armed })] },
    1, 7, 1024,
    { tmpl := { frame := zeros 60, offSt := 0, offSq := 4, offT := 8, offTal := 16, offAuth := 0, ports := 1, auth := false, sqFirst := 0, nretx := 0, interval := [], tal := [], heartbeat := 1000, talHb := 2000, authCtx := 0, authFrom := 0, tagLen := 0, patch := [(20, 1, 0)] }, state := .armed },
    by decide +kernel⟩,
    ⟨{ w with reflex.slots := [(15, { tmpl := { frame := zeros 60, offSt := 0, offSq := 4, offT := 8, offTal := 16, offAuth := 0, ports := 1, auth := false, sqFirst := 0, nretx := 0, interval := [], tal := [], heartbeat := 1000, talHb := 2000, authCtx := 0, authFrom := 0, tagLen := 0, patch := [(20, 1, 0)] }, state := .armed })] },
    1, 7, 255,
    { tmpl := { frame := zeros 60, offSt := 0, offSq := 4, offT := 8, offTal := 16, offAuth := 0, ports := 1, auth := false, sqFirst := 0, nretx := 0, interval := [], tal := [], heartbeat := 1000, talHb := 2000, authCtx := 0, authFrom := 0, tagLen := 0, patch := [(20, 1, 0)] }, state := .armed },
    by decide +kernel⟩,
    ⟨{ w with reflex.slots := [(15, { tmpl := { frame := zeros 60, offSt := 0, offSq := 4, offT := 8, offTal := 16, offAuth := 0, ports := 1, auth := false, sqFirst := 0, nretx := 0, interval := [], tal := [], heartbeat := 1000, talHb := 2000, authCtx := 0, authFrom := 0, tagLen := 0, patch := [(20, 1, 0)] }, state := .armed })], ports.a.express := [{ body := zeros 60, kind := .express, reflex := some { slot := 15, since := none, due := none, isNew := true } }] },
    1, 7, 255,
    { tmpl := { frame := zeros 60, offSt := 0, offSq := 4, offT := 8, offTal := 16, offAuth := 0, ports := 1, auth := false, sqFirst := 0, nretx := 0, interval := [], tal := [], heartbeat := 1000, talHb := 2000, authCtx := 0, authFrom := 0, tagLen := 0, patch := [(20, 1, 0)] }, state := .armed },
    by decide +kernel⟩,
    ⟨{ w with reflex.slots := [(15, { tmpl := { frame := zeros 60, offSt := 0, offSq := 4, offT := 8, offTal := 16, offAuth := 0, ports := 1, auth := false, sqFirst := 0, nretx := 0, interval := [], tal := [], heartbeat := 1000, talHb := 2000, authCtx := 0, authFrom := 0, tagLen := 0, patch := [(20, 1, 0)] }, state := .armed, heldHove := true })], boot.causes := 2 },
    1, 7,
    { tmpl := { frame := zeros 60, offSt := 0, offSq := 4, offT := 8, offTal := 16, offAuth := 0, ports := 1, auth := false, sqFirst := 0, nretx := 0, interval := [], tal := [], heartbeat := 1000, talHb := 2000, authCtx := 0, authFrom := 0, tagLen := 0, patch := [(20, 1, 0)] }, state := .armed, heldHove := true },
    by decide +kernel⟩,
    ⟨{ w with reflex.slots := [(15, { tmpl := { frame := zeros 60, offSt := 0, offSq := 4, offT := 8, offTal := 16, offAuth := 0, ports := 1, auth := false, sqFirst := 0, nretx := 0, interval := [], tal := [], heartbeat := 1000, talHb := 2000, authCtx := 0, authFrom := 0, tagLen := 0, patch := [(20, 1, 0)] }, state := .armed, heldKey := true })] },
    1, 7,
    { tmpl := { frame := zeros 60, offSt := 0, offSq := 4, offT := 8, offTal := 16, offAuth := 0, ports := 1, auth := false, sqFirst := 0, nretx := 0, interval := [], tal := [], heartbeat := 1000, talHb := 2000, authCtx := 0, authFrom := 0, tagLen := 0, patch := [(20, 1, 0)] }, state := .armed, heldKey := true },
    by decide +kernel⟩,
    ⟨{ w with reflex.slots := [(15, { tmpl := { frame := zeros 60, offSt := 0, offSq := 4, offT := 8, offTal := 16, offAuth := 0, ports := 1, auth := false, sqFirst := 0, nretx := 0, interval := [], tal := [], heartbeat := 1000, talHb := 2000, authCtx := 0, authFrom := 0, tagLen := 0, patch := [(20, 1, 0)] }, state := .armed, held := some (1, 2, 3) })] },
    1, 7,
    { tmpl := { frame := zeros 60, offSt := 0, offSq := 4, offT := 8, offTal := 16, offAuth := 0, ports := 1, auth := false, sqFirst := 0, nretx := 0, interval := [], tal := [], heartbeat := 1000, talHb := 2000, authCtx := 0, authFrom := 0, tagLen := 0, patch := [(20, 1, 0)] }, state := .armed, held := some (1, 2, 3) },
    1, 2, 3, by decide +kernel⟩,
    ⟨{ w with reflex.slots := [(15, { tmpl := { frame := zeros 60, offSt := 0, offSq := 4, offT := 8, offTal := 16, offAuth := 0, ports := 1, auth := false, sqFirst := 0, nretx := 0, interval := [], tal := [], heartbeat := 1000, talHb := 2000, authCtx := 0, authFrom := 0, tagLen := 0, patch := [(20, 1, 0)] }, state := .armed })], ports.a.express := [{ body := zeros 60, kind := .express, reflex := some { slot := 15, since := none, due := none, isNew := true } }] },
    1, 7,
    { tmpl := { frame := zeros 60, offSt := 0, offSq := 4, offT := 8, offTal := 16, offAuth := 0, ports := 1, auth := false, sqFirst := 0, nretx := 0, interval := [], tal := [], heartbeat := 1000, talHb := 2000, authCtx := 0, authFrom := 0, tagLen := 0, patch := [(20, 1, 0)] }, state := .armed },
    by decide +kernel⟩,
    ⟨{ w with reflex.slots := [(15, { tmpl := { frame := zeros 60, offSt := 0, offSq := 4, offT := 8, offTal := 16, offAuth := 0, ports := 1, auth := false, sqFirst := 0, nretx := 0, interval := [], tal := [], heartbeat := 1000, talHb := 2000, authCtx := 0, authFrom := 0, tagLen := 0, patch := [(20, 1, 0)] }, state := .armed, due := some 1000000000006 })] },
    1, 7,
    { tmpl := { frame := zeros 60, offSt := 0, offSq := 4, offT := 8, offTal := 16, offAuth := 0, ports := 1, auth := false, sqFirst := 0, nretx := 0, interval := [], tal := [], heartbeat := 1000, talHb := 2000, authCtx := 0, authFrom := 0, tagLen := 0, patch := [(20, 1, 0)] }, state := .armed, due := some 1000000000006 },
    1000000000006, by decide +kernel⟩,
    ⟨{ w with reflex.slots := [(15, { tmpl := { frame := zeros 60, offSt := 0, offSq := 4, offT := 8, offTal := 16, offAuth := 0, ports := 1, auth := false, sqFirst := 0, nretx := 0, interval := [], tal := [], heartbeat := 1000, talHb := 2000, authCtx := 0, authFrom := 0, tagLen := 0, patch := [(20, 1, 0)] }, state := .armed, due := some 1000000000005 })] },
    1, 7,
    { tmpl := { frame := zeros 60, offSt := 0, offSq := 4, offT := 8, offTal := 16, offAuth := 0, ports := 1, auth := false, sqFirst := 0, nretx := 0, interval := [], tal := [], heartbeat := 1000, talHb := 2000, authCtx := 0, authFrom := 0, tagLen := 0, patch := [(20, 1, 0)] }, state := .armed, due := some 1000000000005 },
    1000000000005, by decide +kernel⟩,
    ⟨{ w with reflex.slots := [(15, { tmpl := { frame := zeros 60, offSt := 0, offSq := 4, offT := 8, offTal := 16, offAuth := 0, ports := 1, auth := false, sqFirst := 0, nretx := 0, interval := [], tal := [], heartbeat := 1000, talHb := 2000, authCtx := 0, authFrom := 0, tagLen := 0, patch := [(20, 1, 0)] }, state := .armed, due := some 1000000000005, heldKey := true })] },
    1, 7,
    { tmpl := { frame := zeros 60, offSt := 0, offSq := 4, offT := 8, offTal := 16, offAuth := 0, ports := 1, auth := false, sqFirst := 0, nretx := 0, interval := [], tal := [], heartbeat := 1000, talHb := 2000, authCtx := 0, authFrom := 0, tagLen := 0, patch := [(20, 1, 0)] }, state := .armed, due := some 1000000000005, heldKey := true },
    1000000000005, by decide +kernel⟩,
    ⟨w, 1, by decide +kernel⟩,
    ⟨w,
    { tmpl := { frame := zeros 60, offSt := 0, offSq := 4, offT := 8, offTal := 16, offAuth := 0, ports := 1, auth := true, sqFirst := 0, nretx := 0, interval := [], tal := [], heartbeat := 1000, talHb := 2000, authCtx := 0, authFrom := 0, tagLen := 0, patch := [(20, 1, 0)] }, state := .armed },
    by decide +kernel⟩⟩

/-- The hypotheses of `Obligations.ReflexTemplatesAndGoose` can be met, clause by clause. -/
theorem test_witness_ReflexTemplatesAndGoose :
    (∃ (s : State) (c : Cmd),
    let op : Op := { code := 0x0807, inst := .inst, lens := (List.range 453).map (· + 188), needsD12 := true, states := 0x3E };
    let t := s.opened op c; let b := bufferOf op c; s.ready op c = true ∧ c.handle ≤ 7 ∧ templateBad b = none ∧
    c.paramLen = 128 + leAt b 0 2 ∧ bit (byteAt b 13) 0 = false ∧ t.slot (c.inst * 8 + c.handle) = none) ∧
    (∃ (b : Bytes) (j : Nat), j < 8 ∧ (leAt b (16 + 2 * j) 2 = 0 ∨ leAt b (32 + 2 * j) 2 = 0)) ∧
    (∃ (s : State) (c : Cmd) (o : Nat),
    let op : Op := { code := 0x0807, inst := .inst, lens := (List.range 453).map (· + 188), needsD12 := true, states := 0x3E };
    s.ready op c = true ∧ c.handle ≤ 7 ∧ templateBad (bufferOf op c) = some o) ∧
    (∃ (s : State) (c : Cmd) (x : Slot),
    let op : Op := { code := 0x0807, inst := .inst, lens := (List.range 453).map (· + 188), needsD12 := true, states := 0x3E };
    let t := s.opened op c; let b := bufferOf op c; s.ready op c = true ∧ c.handle ≤ 7 ∧ templateBad b = none ∧
    c.paramLen = 128 + leAt b 0 2 ∧ t.slot (c.inst * 8 + c.handle) = some x ∧ x.state = .armed ∧ x.isHeld = false) ∧
    (∃ (s : State) (c : Cmd) (x : Slot),
    let op : Op := { code := 0x0808, tenant := true, inst := .inst, needsD12 := true, states := 0x1E };
    let t := s.opened op c; let k := c.inst * 8 + byteAt c.data 0; let v := leAt c.data 8 4; s.ready op c = true ∧
    bit (byteAt c.data 1) 0 = true ∧ byteAt c.data 0 ≤ 7 ∧ t.slot k = some x ∧ x.state = .loaded ∧
    x.tmpl.auth = false ∧ bit x.tmpl.ports 2 = false ∧ bit x.tmpl.ports 3 = false ∧ v ||| x.tmpl.mask = x.tmpl.mask) ∧
    (∃ (s : State) (c : Cmd) (x : Slot),
    let op : Op := { code := 0x0808, tenant := true, inst := .inst, needsD12 := true, states := 0x3E };
    let t := s.opened op c; let k := c.inst * 8 + byteAt c.data 0; s.ready op c = true ∧
    bit (byteAt c.data 1) 0 = false ∧ byteAt c.data 0 ≤ 7 ∧ t.slot k = some x) ∧
    (∃ (s : State) (c : Cmd),
    let op : Op := { code := 0x0808, tenant := true, inst := .inst, needsD12 := true, states := 0x3E };
    let t := s.opened op c; s.ready op c = true ∧ bit (byteAt c.data 1) 0 = false ∧ byteAt c.data 0 ≤ 7 ∧
    t.slot (c.inst * 8 + byteAt c.data 0) = none) ∧
    (∃ (s : State) (c : Cmd), let op : Op := { code := 0x0806, lens := [192], needsD12 := true };
    let t := s.opened op c; let b := bufferOf op c; s.ready op c = true ∧ c.handle ≤ 4095 ∧
    bit (byteAt b 12) 7 = false ∧ bit (byteAt b 12) 6 = false ∧ bit (byteAt b 12) 0 = false ∧ 1 ≤ leAt b 14 2 ∧
    leAt b 14 2 ≤ 96 ∧ leAt b 16 8 % 1024 = 0 ∧ t.reflex.goose = []) ∧
    (∃ (s : State) (c : Cmd), let op : Op := { code := 0x0806, lens := [192], needsD12 := true };
    let t := s.opened op c; let b := bufferOf op c; s.ready op c = true ∧ c.handle ≤ 4095 ∧
    bit (byteAt b 12) 7 = true ∧ t.reflex.goose.has c.handle = true) ∧
    (∃ (s : State) (q : Steered) (qs : List Steered) (appid : Nat) (sim : Bool) (p : Bytes) (g : GoosePdu) (cb : Nat) (x : GooseCb),
    s.reflex.queue = q :: qs ∧ s.inRun 12 = true ∧ pbPdu q.body etGoose = some (appid, sim, p) ∧
    readGoose p = some g ∧ s.reflex.goose = [(cb, x)] ∧ x.dst = beAt q.body 0 6 ∧ x.appid = appid ∧ x.ref = g.ref ∧
    g.data.length ≤ 984 ∧ g.tal ≠ 0 ∧ x.checkConfRev = false ∧ sim = false ∧ x.auth = false) ∧
    (∃ (s : State) (q : Steered) (qs : List Steered) (appid : Nat) (sim : Bool) (p : Bytes) (g : GoosePdu),
    s.reflex.queue = q :: qs ∧ s.inRun 12 = true ∧ pbPdu q.body etGoose = some (appid, sim, p) ∧
    readGoose p = some g ∧ s.reflex.goose = []) ∧
    (∃ (s : State), s.reflex.queue = []) ∧
    (∃ (s : State) (cb : Nat) (x : GooseCb), s.reflex.goose.find cb = some x ∧ x.recordOnChange = false ∧
    x.watchers = []) ∧
    (∃ (s : State) (cb : Nat) (x : GooseCb), s.reflex.goose.find cb = some x ∧ s.inRun 12 = true ∧ x.state = .live ∧
    x.expires ≤ s.tbNs ∧ x.watchers = []) ∧
    (∃ (s : State) (cb : Nat) (x : GooseCb), s.reflex.goose.find cb = some x ∧ s.tbNs < x.expires) :=
  ⟨⟨w,
    { mb 1 [] 188 [(0, 2, 60), (48, 2, 10), (50, 2, 1), (16, 2, 1), (18, 2, 1), (20, 2, 1), (22, 2, 1), (24, 2, 1), (26, 2, 1), (28, 2, 1), (30, 2, 1), (32, 2, 65535), (34, 2, 65535), (36, 2, 65535), (38, 2, 65535), (40, 2, 65535), (42, 2, 65535), (44, 2, 65535), (46, 2, 65535)] with handle := 7 },
    by dsimp only; decide +kernel⟩,
    ⟨[], 0, by decide +kernel⟩,
    ⟨w,
    { mb 1 [] 188 [(0, 2, 60), (48, 2, 10), (50, 2, 1), (16, 2, 1), (18, 2, 1), (20, 2, 1), (22, 2, 1), (24, 2, 1), (26, 2, 1), (28, 2, 1), (30, 2, 1), (32, 2, 65535), (34, 2, 65535), (36, 2, 65535), (38, 2, 65535), (40, 2, 65535), (42, 2, 65535), (44, 2, 65535)] with handle := 7 },
    46, by dsimp only; decide +kernel⟩,
    ⟨{ w with reflex.slots := [(15, { tmpl := { frame := zeros 60, offSt := 0, offSq := 4, offT := 8, offTal := 16, offAuth := 0, ports := 1, auth := false, sqFirst := 0, nretx := 0, interval := [], tal := [], heartbeat := 1000, talHb := 2000, authCtx := 0, authFrom := 0, tagLen := 0, patch := [(20, 1, 0)] }, state := .armed })] },
    { mb 1 [] 188 [(0, 2, 60), (48, 2, 10), (50, 2, 1), (16, 2, 1), (18, 2, 1), (20, 2, 1), (22, 2, 1), (24, 2, 1), (26, 2, 1), (28, 2, 1), (30, 2, 1), (32, 2, 65535), (34, 2, 65535), (36, 2, 65535), (38, 2, 65535), (40, 2, 65535), (42, 2, 65535), (44, 2, 65535), (46, 2, 65535)] with handle := 7 },
    { tmpl := { frame := zeros 60, offSt := 0, offSq := 4, offT := 8, offTal := 16, offAuth := 0, ports := 1, auth := false, sqFirst := 0, nretx := 0, interval := [], tal := [], heartbeat := 1000, talHb := 2000, authCtx := 0, authFrom := 0, tagLen := 0, patch := [(20, 1, 0)] }, state := .armed },
    by dsimp only; decide +kernel⟩,
    ⟨{ w with reflex.slots := [(15, { tmpl := { frame := zeros 60, offSt := 0, offSq := 4, offT := 8, offTal := 16, offAuth := 0, ports := 1, auth := false, sqFirst := 0, nretx := 0, interval := [], tal := [], heartbeat := 1000, talHb := 2000, authCtx := 0, authFrom := 0, tagLen := 0, patch := [(20, 1, 0)] }, state := .loaded })] },
    mc 1 [(0, 1, 7), (1, 1, 1), (8, 4, 1)],
    { tmpl := { frame := zeros 60, offSt := 0, offSq := 4, offT := 8, offTal := 16, offAuth := 0, ports := 1, auth := false, sqFirst := 0, nretx := 0, interval := [], tal := [], heartbeat := 1000, talHb := 2000, authCtx := 0, authFrom := 0, tagLen := 0, patch := [(20, 1, 0)] }, state := .loaded },
    by dsimp only; decide +kernel⟩,
    ⟨{ w with reflex.slots := [(15, { tmpl := { frame := zeros 60, offSt := 0, offSq := 4, offT := 8, offTal := 16, offAuth := 0, ports := 1, auth := false, sqFirst := 0, nretx := 0, interval := [], tal := [], heartbeat := 1000, talHb := 2000, authCtx := 0, authFrom := 0, tagLen := 0, patch := [(20, 1, 0)] }, state := .armed })] },
    mc 1 [(0, 1, 7)],
    { tmpl := { frame := zeros 60, offSt := 0, offSq := 4, offT := 8, offTal := 16, offAuth := 0, ports := 1, auth := false, sqFirst := 0, nretx := 0, interval := [], tal := [], heartbeat := 1000, talHb := 2000, authCtx := 0, authFrom := 0, tagLen := 0, patch := [(20, 1, 0)] }, state := .armed },
    by dsimp only; decide +kernel⟩,
    ⟨w, mc 1 [(0, 1, 7)], by dsimp only; decide +kernel⟩,
    ⟨w, { mb 65535 [] 192 [(14, 2, 96)] with handle := 4095 }, by dsimp only; decide +kernel⟩,
    ⟨{ w with reflex.goose := [(4095, { dst := 5, appid := 1, confRev := 1, auth := false, acceptSim := false, checkConfRev := false, recordOnChange := false, board := 0, authCtx := 0, ref := [65], watchers := [] })] },
    { mb 65535 [] 192 [(12, 1, 128)] with handle := 4095 }, by dsimp only; decide +kernel⟩,
    ⟨{ w with reflex.queue := [{ body := (([0, 0, 0, 0, 0, 5, 0, 0, 0, 0, 0, 0, 0x88, 0xB8, 0, 1, 0, 41, 0, 0, 0, 0] : Bytes) ++ ([0x61, 31, 0x80, 1, 65, 0x81, 2, 3, 232, 0x84, 8, 0, 0, 0, 0, 0, 0, 0, 0, 0x85, 1, 1, 0x86, 1, 0, 0x88, 1, 1, 0xAB, 3, 0x83, 1, 0] : Bytes) ++ zeros 10), stamp := (0, 0), at_ := 0 }], reflex.goose := [(4095, { dst := 5, appid := 1, confRev := 1, auth := false, acceptSim := false, checkConfRev := false, recordOnChange := false, board := 0, authCtx := 0, ref := [65], watchers := [] })] },
    { body := (([0, 0, 0, 0, 0, 5, 0, 0, 0, 0, 0, 0, 0x88, 0xB8, 0, 1, 0, 41, 0, 0, 0, 0] : Bytes) ++ ([0x61, 31, 0x80, 1, 65, 0x81, 2, 3, 232, 0x84, 8, 0, 0, 0, 0, 0, 0, 0, 0, 0x85, 1, 1, 0x86, 1, 0, 0x88, 1, 1, 0xAB, 3, 0x83, 1, 0] : Bytes) ++ zeros 10), stamp := (0, 0), at_ := 0 },
    [], 1, false,
    ([0x61, 31, 0x80, 1, 65, 0x81, 2, 3, 232, 0x84, 8, 0, 0, 0, 0, 0, 0, 0, 0, 0x85, 1, 1, 0x86, 1, 0, 0x88, 1, 1, 0xAB, 3, 0x83, 1, 0] : Bytes),
    { ref := [65], tal := 1000, t := zeros 8, stNum := 1, sqNum := 0, test := false, confRev := 1, ndsCom := false, data := [0x83, 1, 0] },
    4095,
    { dst := 5, appid := 1, confRev := 1, auth := false, acceptSim := false, checkConfRev := false, recordOnChange := false, board := 0, authCtx := 0, ref := [65], watchers := [] },
    by decide +kernel⟩,
    ⟨{ w with reflex.queue := [{ body := (([0, 0, 0, 0, 0, 5, 0, 0, 0, 0, 0, 0, 0x88, 0xB8, 0, 1, 0, 41, 0, 0, 0, 0] : Bytes) ++ ([0x61, 31, 0x80, 1, 65, 0x81, 2, 3, 232, 0x84, 8, 0, 0, 0, 0, 0, 0, 0, 0, 0x85, 1, 1, 0x86, 1, 0, 0x88, 1, 1, 0xAB, 3, 0x83, 1, 0] : Bytes) ++ zeros 10), stamp := (0, 0), at_ := 0 }] },
    { body := (([0, 0, 0, 0, 0, 5, 0, 0, 0, 0, 0, 0, 0x88, 0xB8, 0, 1, 0, 41, 0, 0, 0, 0] : Bytes) ++ ([0x61, 31, 0x80, 1, 65, 0x81, 2, 3, 232, 0x84, 8, 0, 0, 0, 0, 0, 0, 0, 0, 0x85, 1, 1, 0x86, 1, 0, 0x88, 1, 1, 0xAB, 3, 0x83, 1, 0] : Bytes) ++ zeros 10), stamp := (0, 0), at_ := 0 },
    [], 1, false,
    ([0x61, 31, 0x80, 1, 65, 0x81, 2, 3, 232, 0x84, 8, 0, 0, 0, 0, 0, 0, 0, 0, 0x85, 1, 1, 0x86, 1, 0, 0x88, 1, 1, 0xAB, 3, 0x83, 1, 0] : Bytes),
    { ref := [65], tal := 1000, t := zeros 8, stNum := 1, sqNum := 0, test := false, confRev := 1, ndsCom := false, data := [0x83, 1, 0] },
    by decide +kernel⟩,
    ⟨w, by decide +kernel⟩,
    ⟨{ w with reflex.goose := [(4095, { dst := 5, appid := 1, confRev := 1, auth := false, acceptSim := false, checkConfRev := false, recordOnChange := false, board := 0, authCtx := 0, ref := [65], watchers := [] })] },
    4095,
    { dst := 5, appid := 1, confRev := 1, auth := false, acceptSim := false, checkConfRev := false, recordOnChange := false, board := 0, authCtx := 0, ref := [65], watchers := [] },
    by decide +kernel⟩,
    ⟨{ w with reflex.goose := [(4095, { dst := 5, appid := 1, confRev := 1, auth := false, acceptSim := false, checkConfRev := false, recordOnChange := false, board := 0, authCtx := 0, ref := [65], watchers := [], state := .live, expires := 1000000000005 })] },
    4095,
    { dst := 5, appid := 1, confRev := 1, auth := false, acceptSim := false, checkConfRev := false, recordOnChange := false, board := 0, authCtx := 0, ref := [65], watchers := [], state := .live, expires := 1000000000005 },
    by decide +kernel⟩,
    ⟨{ w with reflex.goose := [(4095, { dst := 5, appid := 1, confRev := 1, auth := false, acceptSim := false, checkConfRev := false, recordOnChange := false, board := 0, authCtx := 0, ref := [65], watchers := [], state := .live, expires := 1000000000006 })] },
    4095,
    { dst := 5, appid := 1, confRev := 1, auth := false, acceptSim := false, checkConfRev := false, recordOnChange := false, board := 0, authCtx := 0, ref := [65], watchers := [], state := .live, expires := 1000000000006 },
    by decide +kernel⟩⟩

/-- The hypotheses of `Obligations.RecorderWritesTriggersAndExports` can be met, clause by clause. -/
theorem test_witness_RecorderWritesTriggersAndExports :
    (∃ (s : State) (q : Rec) (qs : List Rec), s.recd.queue = q :: qs ∧ s.inRun 13 = true ∧ s.recd.running = true ∧
    s.recd.held = false ∧ s.recd.dropped = 0 ∧ q.octets ≠ [] ∧ s.recd.off + q.octets.length ≤ 65536 ∧
    Mem.wf s.dram = true) ∧
    (∃ (s : State), (s.recd.queue = [] ∨ s.recd.running = false ∨ s.recd.held = true)) ∧
    (∃ (s : State) (k : Nat) (e : RecEvent), s.recd.openEvent = some (k, e) ∧ s.inRun 13 = true ∧
    s.recd.running = true ∧ s.recd.held = false ∧ s.inRun 12 = true ∧ e.endNs ≤ s.tbNs) ∧
    (∃ (s : State) (k : Nat) (e : RecEvent), s.recd.openEvent = some (k, e) ∧ s.tbNs < e.endNs) ∧
    (∃ (s : State) (c : Cmd), let op : Op := { code := 0x0A01, lens := [128] }; let t := s.opened op c;
    let b := bufferOf op c; s.ready op c = true ∧ recConfigBad b = none ∧ t.recd.running = false ∧
    t.recd.qp.state = .detached ∧ t.recd.events = [] ∧ t.recd.cfg.enable = false) ∧
    (∃ (s : State) (c : Cmd), let op : Op := { code := 0x0A01, lens := [128] }; let t := s.opened op c;
    let b := bufferOf op c; s.ready op c = true ∧ recConfigBad b = none ∧ t.recd.running = true ∧
    byteAt b 6 ≠ t.recd.cfg.sizeGib) ∧
    (∃ (s : State) (k : Nat) (e : RecEvent), s.inRun 13 = true ∧ s.recd.running = true ∧ s.recd.held = false ∧
    s.inRun 12 = true ∧ s.recd.openEvent = some (k, e)) ∧
    (∃ (s : State) (k : Nat), s.inRun 13 = true ∧ s.recd.running = true ∧ s.recd.held = false ∧ s.inRun 12 = true ∧
    s.recd.openEvent = none ∧ s.recd.events.firstFree 0 64 = some k) ∧
    (∃ (s : State) (c : Cmd) (k : Nat) (new : Bool),
    let op : Op := { code := 0x0A02, tenant := s.mayTrigger c, inst := .either }; let t := s.opened op c;
    let r := t.trigger 1 0xFFFF t.tbNs; s.ready op c = true ∧ cmdTenant c = none ∧ bit (byteAt c.data 0) 0 = false ∧
    t.inRun 13 = true ∧ t.recd.running = true ∧ t.recd.held = false ∧ t.inRun 12 = true ∧ r.1 = some (k, new)) ∧
    (∃ (s : State) (c : Cmd) (i : Nat) (k : Nat) (new : Bool),
    let op : Op := { code := 0x0A02, tenant := true, inst := .either }; let t := s.opened op c;
    let r := t.trigger 2 i t.tbNs; s.ready op c = true ∧ cmdTenant c = some i ∧ i ∈ s.recd.cfg.rights ∧
    bit (byteAt c.data 0) 0 = false ∧ t.inRun 13 = true ∧ t.recd.running = true ∧ t.recd.held = false ∧
    t.inRun 12 = true ∧ r.1 = some (k, new)) ∧
    (∃ (s : State) (c : Cmd) (i : Nat), let op : Op := { code := 0x0A02, inst := .either }; c.own = 0 ∧
    cmdTenant c = some i ∧ i ∉ s.recd.cfg.rights ∧ s.accepts op c = true ∧ s.bufferWaits op c = false) ∧
    (∃ (s : State) (c : Cmd), let op : Op := { code := 0x0A03 }; let t := s.opened op c; let d := c.data;
    s.ready op c = true ∧ byteAt d 0 = 1 ∧ t.attachBad d = none ∧ t.recd.qp.state = .detached) ∧
    (∃ (s : State) (c : Cmd), let op : Op := { code := 0x0A03 }; let t := s.opened op c; s.ready op c = true ∧
    byteAt c.data 0 = 2 ∧ t.recd.qp.state ≠ .detached ∧ t.recd.qp.outstanding = [] ∧ t.recd.exp = none) ∧
    (∃ (s : State) (c : Cmd), let op : Op := { code := 0x0A03 }; let t := s.opened op c; s.ready op c = true ∧
    byteAt c.data 0 = 2 ∧ t.recd.qp.state = .detached) ∧
    (∃ (s : State) (c : Cmd) (e : RecEvent), let op : Op := { code := 0x0A03 }; let t := s.opened op c;
    s.ready op c = true ∧ byteAt c.data 0 = 3 ∧ byteAt c.data 1 ≤ 63 ∧ t.recd.events.find (byteAt c.data 1) = some e ∧
    t.recd.qp.state = .attached ∧ e.state = .closed ∧ t.recd.exp = none) ∧
    (∃ (s : State) (c : Cmd) (e : RecEvent), let op : Op := { code := 0x0A03 }; let t := s.opened op c;
    s.ready op c = true ∧ byteAt c.data 0 = 4 ∧ byteAt c.data 1 ≤ 63 ∧ t.recd.events.find (byteAt c.data 1) = some e ∧
    t.recd.qp.state = .attached ∧ e.state = .closed) ∧
    (∃ (s : State) (c : Cmd) (e : RecEvent), let op : Op := { code := 0x0A03 }; let t := s.opened op c;
    s.ready op c = true ∧ byteAt c.data 0 = 4 ∧ byteAt c.data 1 ≤ 63 ∧ t.recd.events.find (byteAt c.data 1) = some e ∧
    t.recd.qp.state = .attached ∧ e.state ≠ .closed) ∧
    (∃ (s : State) (c : Cmd) (e : RecEvent), let op : Op := { code := 0x0A03 }; let t := s.opened op c;
    s.ready op c = true ∧ byteAt c.data 0 = 4 ∧ byteAt c.data 1 ≤ 63 ∧ t.recd.events.find (byteAt c.data 1) = some e ∧
    t.recd.qp.state ≠ .attached) ∧
    (∃ (s : State) (cid : Nat) (since : Nat) (n : Nat), let b := s.dram.readN (0x510000 + s.recd.qp.cqHead * 16) 16;
    s.inRun 13 = true ∧ s.recd.qp.state = .attached ∧ s.errBits 1 (0x510000 + s.recd.qp.cqHead * 16) 16 = 0 ∧
    s.recd.qp.outstanding = [(cid, since, n)] ∧ leAt b 12 4 % 65536 = cid ∧
    leAt b 12 4 / 65536 % 2 = s.recd.qp.phase ∧ s.recd.exp = none ∧ s.hove = true ∧
    s.recd.qp.consumed + 1 < s.recd.qp.depth / 2 ∧ s.dechan.accepted = []) ∧
    (∃ (s : State), s.recd.qp.state = .detached) ∧
    (∃ (s : State) (o : Nat × Nat × Nat), s.inRun 13 = true ∧ s.recd.qp.state = .attached ∧
    s.recd.qp.outstanding = [o] ∧ o.2.1 + s.recd.qp.timeoutMs * msTicks ≤ s.now ∧ s.recd.exp = none ∧
    s.dechan.accepted = []) ∧
    (∃ (s : State) (o : Nat × Nat × Nat), s.recd.qp.outstanding = [o] ∧ s.now < o.2.1 + s.recd.qp.timeoutMs * msTicks) :=
  ⟨⟨{ w with recd.queue := [⟨[1]⟩], recd.running := true, recd.off := 65535 }, ⟨[1]⟩, [], by decide +kernel⟩,
    ⟨w, by decide +kernel⟩,
    ⟨{ w with recd.running := true, recd.events := [(63, { state := .open, source := 0, sourceId := 0, tNs := 0, endNs := 1000000000005, firstPos := 0, firstSeq := 0, blocks := [], seq := 0 })] },
    63,
    { state := .open, source := 0, sourceId := 0, tNs := 0, endNs := 1000000000005, firstPos := 0, firstSeq := 0, blocks := [], seq := 0 },
    by decide +kernel⟩,
    ⟨{ w with recd.running := true, recd.events := [(63, { state := .open, source := 0, sourceId := 0, tNs := 0, endNs := 1000000000006, firstPos := 0, firstSeq := 0, blocks := [], seq := 0 })] },
    63,
    { state := .open, source := 0, sourceId := 0, tNs := 0, endNs := 1000000000006, firstPos := 0, firstSeq := 0, blocks := [], seq := 0 },
    by decide +kernel⟩,
    ⟨w, mb 65535 [] 128 [(4, 2, 9216), (6, 1, 10)], by dsimp only; decide +kernel⟩,
    ⟨{ w with recd.running := true }, mb 65535 [] 128 [(4, 2, 9216), (6, 1, 10)], by dsimp only; decide +kernel⟩,
    ⟨{ w with recd.running := true, recd.events := [(63, { state := .open, source := 0, sourceId := 0, tNs := 0, endNs := 1000000000005, firstPos := 0, firstSeq := 0, blocks := [], seq := 0 })] },
    63,
    { state := .open, source := 0, sourceId := 0, tNs := 0, endNs := 1000000000005, firstPos := 0, firstSeq := 0, blocks := [], seq := 0 },
    by decide +kernel⟩,
    ⟨{ w with recd.running := true }, 0, by decide +kernel⟩,
    ⟨{ w with recd.running := true }, mc 65535 [], 0, true, by dsimp only; decide +kernel⟩,
    ⟨{ w with recd := { running := true, cfg := { rights := [1] } } }, { mc 1 [] with ring := .inst 1 }, 1,
    ((w.trigger 2 1 w.tbNs).1.getD (0, true)).1, true, by dsimp only; decide +kernel⟩,
    ⟨w, { mc 1 [] with ring := .inst 1 }, 1, by dsimp only; decide +kernel⟩,
    ⟨{ w with recd.cfg.peerBase := 65536 },
    mc 65535 [(0, 1, 1), (2, 2, 65534), (4, 2, 1024), (6, 1, 12), (7, 1, 16), (28, 4, 60000)],
    by dsimp only; decide +kernel⟩,
    ⟨{ w with recd.qp.state := .attached }, mc 65535 [(0, 1, 2)], by dsimp only; decide +kernel⟩,
    ⟨w, mc 65535 [(0, 1, 2)], by dsimp only; decide +kernel⟩,
    ⟨{ w with recd.running := true, recd.events := [(63, { state := .closed, source := 0, sourceId := 0, tNs := 0, endNs := 1000000000005, firstPos := 0, firstSeq := 0, blocks := [], seq := 0 })], recd.qp.state := .attached },
    mc 65535 [(0, 1, 3), (1, 1, 63)],
    { state := .closed, source := 0, sourceId := 0, tNs := 0, endNs := 1000000000005, firstPos := 0, firstSeq := 0, blocks := [], seq := 0 },
    by dsimp only; decide +kernel⟩,
    ⟨{ w with recd.running := true, recd.qp := { state := .attached }, recd.events := [(63, { state := .closed, source := 0, sourceId := 0, tNs := 0, endNs := 1000000000005, firstPos := 0, firstSeq := 0, blocks := [], seq := 0 })] },
    mc 65535 [(0, 1, 4), (1, 1, 63)],
    { state := .closed, source := 0, sourceId := 0, tNs := 0, endNs := 1000000000005, firstPos := 0, firstSeq := 0, blocks := [], seq := 0 },
    by dsimp only; decide +kernel⟩,
    ⟨{ w with recd.running := true, recd.qp := { state := .attached }, recd.events := [(63, { state := .open, source := 0, sourceId := 0, tNs := 0, endNs := 1000000000005, firstPos := 0, firstSeq := 0, blocks := [], seq := 0 })] },
    mc 65535 [(0, 1, 4), (1, 1, 63)],
    { state := .open, source := 0, sourceId := 0, tNs := 0, endNs := 1000000000005, firstPos := 0, firstSeq := 0, blocks := [], seq := 0 },
    by dsimp only; decide +kernel⟩,
    ⟨{ w with recd.events := [(63, { state := .closed, source := 0, sourceId := 0, tNs := 0, endNs := 1000000000005, firstPos := 0, firstSeq := 0, blocks := [], seq := 0 })], recd.qp := { state := .broken } },
    mc 65535 [(0, 1, 4), (1, 1, 63)],
    { state := .closed, source := 0, sourceId := 0, tNs := 0, endNs := 1000000000005, firstPos := 0, firstSeq := 0, blocks := [], seq := 0 },
    by dsimp only; decide +kernel⟩,
    ⟨{ w with dram := [(5308430, 1)], boot.causes := 2, recd.qp := { state := .attached, depth := 8, outstanding := [(0, 5, 1)] } },
    0, 5, 1, by dsimp only; decide +kernel⟩,
    ⟨w, by decide +kernel⟩,
    ⟨{ w with recd.qp := { state := .attached, outstanding := [(0, 993750000000, 1)] } }, (0, 993750000000, 1),
    by decide +kernel⟩,
    ⟨{ w with recd.qp := { state := .attached, outstanding := [(0, 993750000001, 1)] } }, (0, 993750000001, 1),
    by decide +kernel⟩⟩

/-- The hypotheses of `Obligations.SourcesAndServoKeepTime` can be met, clause by clause. -/
theorem test_witness_SourcesAndServoKeepTime :
    (∃ (t : TimeSt), (t.sec * nsPerSec + t.ns + (t.frac + t.incr) / 2 ^ 32) / nsPerSec < 2 ^ 48) ∧
    (∃ (s : State), s.inRun 12 = true ∧ s.time.ppsValid = false ∧ s.time.ppsFirst = none) ∧
    (∃ (s : State) (t : Nat), s.inRun 12 = true ∧ s.time.ppsValid = false ∧ s.time.ppsFirst = some t ∧
    (s.now + msTicks < t + secTicks ∨ t + secTicks + msTicks < s.now)) ∧
    (∃ (s : State) (t : Nat), s.inRun 12 = true ∧ s.time.ppsValid = false ∧ s.time.ppsFirst = some t ∧
    t + secTicks ≤ s.now + msTicks ∧ s.now ≤ t + secTicks + msTicks ∧ s.time.sets = []) ∧
    (∃ (s : State), s.inRun 12 = true ∧ s.time.ppsValid = true ∧
    (s.now + msTicks < s.time.ppsAt + secTicks ∨ s.time.ppsAt + secTicks + msTicks < s.now)) ∧
    (∃ (s : State), s.inRun 12 = true ∧ s.time.ppsValid = true ∧ s.time.ppsAt + 1500 * msTicks ≤ s.now ∧
    TimeSt.select { s.time with ppsValid := false, ppsFirst := none } s.now = s.time.source) ∧
    (∃ (s : State), s.inRun 12 = true ∧ s.time.ppsValid = true ∧ s.time.ppsAt + 1500 * msTicks ≤ s.now ∧
    s.time.source = .pps ∧ s.time.cfg.srcs = [.pps] ∧ s.time.hostOk = false ∧ s.time.quality = .locked ∧
    s.time.bound ≤ boundMax) ∧
    (∃ (s : State), s.now < s.time.ppsAt + 1500 * msTicks) ∧
    (∃ (s : State) (f : IrigFrame), s.inRun 12 = true ∧ s.time.irigSecond f = none) ∧
    (∃ (s : State) (f : IrigFrame) (n : Nat), s.inRun 12 = true ∧ s.time.irigSecond f = some n ∧
    s.time.irigLast = none) ∧
    (∃ (s : State) (f : IrigFrame) (n : Nat) (last : Nat), s.inRun 12 = true ∧ s.time.irigSecond f = some n ∧
    s.time.irigLast = some (last, false) ∧ n ≠ last + 1 ∧ s.time.irigValid = true) ∧
    (∃ (s : State) (f : IrigFrame) (n : Nat) (last : Nat), s.inRun 12 = true ∧ s.time.irigSecond f = some n ∧
    s.time.irigLast = some (last, false) ∧ n ≠ last + 1 ∧ s.time.irigValid = false) ∧
    (∃ (s : State) (f : IrigFrame) (last : Nat), s.inRun 12 = true ∧ s.time.irigSecond f = some (last + 1) ∧
    s.time.irigLast = some (last, false) ∧ s.time.ppsValid = false) ∧
    (∃ (f : IrigFrame), (7 < f.code ∨ 59 < f.min ∨ 23 < f.hour ∨ f.day = 0 ∨ 366 < f.day ∨ 60 < f.sec)) ∧
    (∃ (s : State), s.inRun 12 = true ∧ s.time.irigValid = true ∧ s.time.irigAt + 2 * secTicks ≤ s.now ∧
    TimeSt.select { s.time with irigValid := false, irigLast := none, pairOk := false } s.now = s.time.source) ∧
    (∃ (s : State), let sec := ((s.tbNs : Int) + s.time.cfg.ppsOut).toNat / nsPerSec; s.inRun 12 = true ∧
    s.time.ppsOutSec < sec ∧ (s.time.cfg.ppsMode = 1 ∨ s.time.cfg.ppsMode = 2 ∧ s.time.quality = .locked)) ∧
    (∃ (s : State), let sec := ((s.tbNs : Int) + s.time.cfg.ppsOut).toNat / nsPerSec; s.inRun 12 = true ∧
    s.time.ppsOutSec < sec ∧ (s.time.cfg.ppsMode = 0 ∨ s.time.cfg.ppsMode = 2 ∧ s.time.quality ≠ .locked)) ∧
    (∃ (s : State) (o : Int), s.inRun 12 = true ∧ s.helmRuns = true ∧ s.hove = false ∧
    s.time.select s.now = s.time.source ∧ s.time.quality = .locked ∧ s.time.meas.find s.time.source.code = some o ∧
    o.natAbs ≤ 1000) ∧
    (∃ (s : State) (o : Int), s.inRun 12 = true ∧ s.helmRuns = true ∧ s.hove = false ∧
    s.time.select s.now = s.time.source ∧ s.time.quality ≠ .locked ∧ s.time.meas.find s.time.source.code = some o ∧
    s.time.fix.length < 3) ∧
    (∃ (s : State), s.inRun 12 = true ∧ s.helmRuns = true ∧ s.hove = false ∧ s.time.select s.now = s.time.source ∧
    s.time.meas.find s.time.source.code = none) ∧
    (∃ (s : State), s.helmRuns = false) ∧
    (∃ (s : State) (x : Int), s.time.reckFirst = false ∧ x.natAbs ≤ 4000) ∧
    (∃ (s : State) (x : Int), s.time.reckFirst = false ∧ 4000 < x.natAbs ∧ 0 ≤ (s.tbNs : Int) - meanRound x ∧
    ((s.tbNs : Int) - meanRound x).toNat / nsPerSec < 2 ^ 48) ∧
    (∃ (s : State), s.inRun 12 = true ∧ s.time.quality = .locked ∧ s.time.servoAt + 2 * secTicks ≤ s.now ∧
    s.time.bound ≤ boundMax) ∧
    (∃ (s : State), s.time.quality ≠ .locked) :=
  ⟨⟨{ sec := 2 ^ 48 - 1, ns := 999999998 }, by decide +kernel⟩,
    ⟨w, by decide +kernel⟩,
    ⟨{ w with time.ppsFirst := some 0 }, 0, by decide +kernel⟩,
    ⟨{ w with time.ppsFirst := some 998750000000 }, 998750000000, by decide +kernel⟩,
    ⟨{ w with time.ppsValid := true }, by decide +kernel⟩,
    ⟨{ w with time.ppsValid := true, time.ppsAt := 998125000000 }, by decide +kernel⟩,
    ⟨{ w with time.ppsValid := true, time.source := .pps, time.cfg.srcs := [.pps], time.quality := .locked, time.bound := 0 },
    by decide +kernel⟩,
    ⟨{ w with time.ppsAt := 998125000001 }, by decide +kernel⟩,
    ⟨w, { code := 8, sec := 0, min := 0, hour := 0, day := 1, year := 0, cf := 0 }, by decide +kernel⟩,
    ⟨w, { code := 0, sec := 0, min := 0, hour := 0, day := 1, year := 0, cf := 0 },
    (w.time.irigSecond { code := 0, sec := 0, min := 0, hour := 0, day := 1, year := 0, cf := 0 }).getD 0,
    by decide +kernel⟩,
    ⟨{ w with time.irigLast := some (0, false), time.irigValid := true },
    { code := 0, sec := 0, min := 0, hour := 0, day := 1, year := 0, cf := 0 },
    (w.time.irigSecond { code := 0, sec := 0, min := 0, hour := 0, day := 1, year := 0, cf := 0 }).getD 0, 0,
    by decide +kernel⟩,
    ⟨{ w with time.irigLast := some (5, false) },
    { code := 0, sec := 0, min := 0, hour := 0, day := 1, year := 0, cf := 0 },
    (w.time.irigSecond { code := 0, sec := 0, min := 0, hour := 0, day := 1, year := 0, cf := 0 }).getD 0, 5,
    by decide +kernel⟩,
    ⟨{ w with time.irigLast := some ((w.time.irigSecond { code := 0, sec := 0, min := 0, hour := 0, day := 1, year := 0, cf := 0 }).getD 0 - 1, false) },
    { code := 0, sec := 0, min := 0, hour := 0, day := 1, year := 0, cf := 0 },
    (w.time.irigSecond { code := 0, sec := 0, min := 0, hour := 0, day := 1, year := 0, cf := 0 }).getD 0 - 1,
    by decide +kernel⟩,
    ⟨{ code := 8, sec := 0, min := 0, hour := 0, day := 1, year := 0, cf := 0 }, by decide +kernel⟩,
    ⟨{ w with time.irigValid := true, time.irigAt := 997500000000 }, by decide +kernel⟩,
    ⟨{ w with time.cfg.ppsMode := 1 }, by dsimp only; decide +kernel⟩,
    ⟨w, by dsimp only; decide +kernel⟩,
    ⟨{ w with time.quality := .locked, time.meas := [(0, 1000)] }, 1000, by decide +kernel⟩,
    ⟨{ w with time.meas := [(0, 5)] }, 5, by decide +kernel⟩,
    ⟨w, by decide +kernel⟩,
    ⟨{ w with boot.phase := .helmHalted }, by decide +kernel⟩,
    ⟨w, 4000, by decide +kernel⟩,
    ⟨w, 4001, by decide +kernel⟩,
    ⟨{ w with time.quality := .locked, time.servoAt := 997500000000, time.bound := 0 }, by decide +kernel⟩,
    ⟨w, by decide +kernel⟩⟩

/-- The hypotheses of `Obligations.PtpAndTimeCommands` can be met, clause by clause. -/
theorem test_witness_PtpAndTimeCommands :
    (∃ (s : State), s.time.rxq = []) ∧
    (∃ (s : State), s.ptpServed = false) ∧
    (∃ (s : State) (m : PtpRx) (ms : List PtpRx) (o : Nat), s.time.rxq = m :: ms ∧ s.ptpServed = true ∧
    ptpOff m.frame = some o ∧ ptpDomain m.frame o ≠ s.time.cfg.domain) ∧
    (∃ (s : State) (m : PtpRx) (ms : List PtpRx) (o : Nat) (a : Announce), s.time.rxq = m :: ms ∧ s.ptpServed = true ∧
    s.ptpPort m.port = true ∧ ptpOff m.frame = some o ∧ ptpDomain m.frame o = s.time.cfg.domain ∧
    ptpType m.frame o = ptpSync ∧ (s.time.ports.getD m.port.num {}).state = .slave ∧
    (s.time.ports.getD m.port.num {}).best = some a ∧ a.sender = ptpSender m.frame o ∧ ptpTwoStep m.frame o = false) ∧
    (∃ (s : State) (m : PtpRx) (ms : List PtpRx) (o : Nat) (a : Announce), s.time.rxq = m :: ms ∧ s.ptpServed = true ∧
    s.ptpPort m.port = true ∧ ptpOff m.frame = some o ∧ ptpDomain m.frame o = s.time.cfg.domain ∧
    ptpType m.frame o = ptpSync ∧ (s.time.ports.getD m.port.num {}).state = .slave ∧
    (s.time.ports.getD m.port.num {}).best = some a ∧ a.sender = ptpSender m.frame o ∧ ptpTwoStep m.frame o = true) ∧
    (∃ (s : State) (m : PtpRx) (ms : List PtpRx) (o : Nat), s.time.rxq = m :: ms ∧ s.ptpServed = true ∧
    s.ptpPort m.port = true ∧ ptpOff m.frame = some o ∧ ptpDomain m.frame o = s.time.cfg.domain ∧
    ptpType m.frame o = ptpPdelayReq ∧ (m.port = .a ∨ m.port = .b)) ∧
    (∃ (s : State) (p : Port), s.ptpMaster p = true ∧ (∀ l,
    (s.time.ports.getD p.num {}).syncTx = some l → l + logTicks s.time.cfg.logSync ≤ s.now)) ∧
    (∃ (s : State) (p : Port), s.ptpMaster p = false) ∧
    (∃ (s : State) (p : Port), s.ptpMaster p = true ∧ s.time.slave = none ∧ s.time.cfg.gmCapable = true ∧ (∀ l,
    (s.time.ports.getD p.num {}).annTx = some l → l + logTicks s.time.cfg.logAnnounce ≤ s.now)) ∧
    (∃ (s : State), s.time.cfg.gmCapable = false) ∧
    (∃ (s : State), s.ptpServed = true ∧ s.ptpPort .a = true ∧ s.ptpPort .b = false ∧ (s.mac .a).linkUp = true ∧
    (s.time.ports.getD 0 {}).pdTx = none) ∧
    (∃ (s : State), s.ptpServed = false) ∧
    (∃ (s : State) (p : Port) (a : Announce), s.ptpServed = true ∧ (s.time.ports.getD p.num {}).best = some a ∧
    (s.time.ports.getD p.num {}).bestAt + s.time.cfg.announceTimeout * logTicks s.time.cfg.logAnnounce ≤ s.now) ∧
    (∃ (s : State) (p : Port), (s.time.ports.getD p.num {}).best = none) ∧
    (∃ (s : State) (k : Nat), s.ptpPort (Port.ofNum k) = false) ∧
    (∃ (s : State) (k : Nat), s.ptpPort (Port.ofNum k) = true ∧ s.time.cfg.role ≠ 3 ∧ s.time.cfg.gmCapable = false) ∧
    (∃ (s : State), s.ptpPort .d = true ∧ s.time.cfg.role ≠ 3 ∧ s.time.cfg.gmCapable = false) ∧
    (∃ (s : State) (c : Cmd), let op : Op := { code := 0x0901 }; let t := s.opened op c; s.ready op c = true ∧
    timeConfigBad c.data = none ∧ t.inRun 12 = true) ∧
    (∃ (s : State) (c : Cmd), let op : Op := { code := 0x0901 }; let t := s.opened op c; s.ready op c = true ∧
    timeConfigBad c.data = none ∧ t.inRun 12 = false) ∧
    (∃ (s : State) (c : Cmd) (o : Nat), let op : Op := { code := 0x0901 }; s.ready op c = true ∧
    timeConfigBad c.data = some o) ∧
    (∃ (s : State) (c : Cmd), let op : Op := { code := 0x0902, needsD12 := true }; let t := s.opened op c;
    s.ready op c = true ∧ t.time.quality = .locked) ∧
    (∃ (s : State) (c : Cmd), let op : Op := { code := 0x0902, needsD12 := true }; let t := s.opened op c;
    s.ready op c = true ∧ t.time.quality ≠ .locked ∧ nsPerSec ≤ leAt c.data 6 4) ∧
    (∃ (s : State) (c : Cmd), let op : Op := { code := 0x0902, needsD12 := true }; let t := s.opened op c;
    s.ready op c = true ∧ leAt c.data 6 4 < nsPerSec ∧ t.time.quality ≠ .locked ∧ bit (byteAt c.data 14) 0 = false) ∧
    (∃ (s : State) (c : Cmd), let op : Op := { code := 0x0902, needsD12 := true }; let t := s.opened op c;
    s.ready op c = true ∧ leAt c.data 6 4 < nsPerSec ∧ t.time.quality ≠ .locked ∧ bit (byteAt c.data 14) 0 = true) ∧
    (∃ (ns : Nat), ns / nsPerSec < 2 ^ 48) ∧
    (∃ (s : State) (p : PendingSet) (a : Accepted), s.time.sets = [p] ∧ p.since + 2 * secTicks ≤ s.now ∧
    s.dechan.accepted.find? (fun a => a.ring == p.ring && a.idx == p.idx) = some a) ∧
    (∃ (s : State), (∀ p ∈ s.time.sets, s.now < p.since + 2 * secTicks)) ∧
    (∃ (s : State) (c : Cmd), let op : Op := { code := 0x0903, exempt := true }; s.ready op c = true) ∧
    (∃ (s : State), s.inRun 12 = true) :=
  ⟨⟨w, by decide +kernel⟩,
    ⟨{ w with boot.causes := 1 }, by decide +kernel⟩,
    ⟨{ w with time.rxq := [{ port := .a, frame := pat 60 [(12, 1, 136), (13, 1, 247), (18, 1, 1)], ns := 0 }] },
    { port := .a, frame := pat 60 [(12, 1, 136), (13, 1, 247), (18, 1, 1)], ns := 0 }, [], 14, by decide +kernel⟩,
    ⟨{ w with time.rxq := [{ port := .a, frame := pat 60 [(12, 1, 136), (13, 1, 247)], ns := 0 }], time.cfg.role := 1, time.cfg.ptpA := true, time.ports := [{ state := .slave, best := some { priority1 := 0, clockClass := 0, accuracy := 0, variance := 0, priority2 := 0, gm := 0, steps := 0, sender := 0, taiUtc := none } }, {}, {}, {}] },
    { port := .a, frame := pat 60 [(12, 1, 136), (13, 1, 247)], ns := 0 }, [], 14,
    { priority1 := 0, clockClass := 0, accuracy := 0, variance := 0, priority2 := 0, gm := 0, steps := 0, sender := 0, taiUtc := none },
    by decide +kernel⟩,
    ⟨{ w with time.rxq := [{ port := .a, frame := pat 60 [(12, 1, 136), (13, 1, 247), (20, 1, 2)], ns := 0 }], time.cfg.role := 1, time.cfg.ptpA := true, time.ports := [{ state := .slave, best := some { priority1 := 0, clockClass := 0, accuracy := 0, variance := 0, priority2 := 0, gm := 0, steps := 0, sender := 0, taiUtc := none } }, {}, {}, {}] },
    { port := .a, frame := pat 60 [(12, 1, 136), (13, 1, 247), (20, 1, 2)], ns := 0 }, [], 14,
    { priority1 := 0, clockClass := 0, accuracy := 0, variance := 0, priority2 := 0, gm := 0, steps := 0, sender := 0, taiUtc := none },
    by decide +kernel⟩,
    ⟨{ w with time.rxq := [{ port := .a, frame := pat 60 [(12, 1, 136), (13, 1, 247), (14, 1, 2)], ns := 0 }], time.cfg.role := 1, time.cfg.ptpA := true },
    { port := .a, frame := pat 60 [(12, 1, 136), (13, 1, 247), (14, 1, 2)], ns := 0 }, [], 14, by decide +kernel⟩,
    ⟨{ w with time.cfg.role := 1, time.cfg.ptpA := true, time.ports := [{ state := .master }, {}, {}, {}], time.cfg.gmCapable := true },
    .a, by decide +kernel, by intro l h; cases h⟩,
    ⟨w, .a, by decide +kernel⟩,
    ⟨{ w with time.cfg.role := 1, time.cfg.ptpA := true, time.ports := [{ state := .master }, {}, {}, {}], time.cfg.gmCapable := true },
    .a, by decide +kernel, by decide +kernel, by decide +kernel, by intro l h; cases h⟩,
    ⟨w, by decide +kernel⟩,
    ⟨{ w with time.cfg.role := 1, time.cfg.ptpA := true }, by decide +kernel⟩,
    ⟨{ w with boot.causes := 1 }, by decide +kernel⟩,
    ⟨{ w with time.ports := [{ best := some { priority1 := 0, clockClass := 0, accuracy := 0, variance := 0, priority2 := 0, gm := 0, steps := 0, sender := 0, taiUtc := none } }, {}, {}, {}] },
    .a,
    { priority1 := 0, clockClass := 0, accuracy := 0, variance := 0, priority2 := 0, gm := 0, steps := 0, sender := 0, taiUtc := none },
    by decide +kernel⟩,
    ⟨w, .a, by decide +kernel⟩,
    ⟨w, 0, by decide +kernel⟩,
    ⟨{ w with time.cfg.role := 1, time.cfg.ptpA := true }, 0, by decide +kernel⟩,
    ⟨{ w with time.cfg.role := 1, time.cfg.ptpRing := true, ports.ring.mode := 1 }, by decide +kernel⟩,
    ⟨w, mc 65535 [(9, 1, 2), (14, 4, 1000), (24, 2, 10), (30, 2, 1)], by dsimp only; decide +kernel⟩,
    ⟨{ w with power.dom := (List.replicate 14 .run).set 12 .stop },
    mc 65535 [(9, 1, 2), (14, 4, 1000), (24, 2, 10), (30, 2, 1)], by dsimp only; decide +kernel⟩,
    ⟨w, mc 65535 [], 33, by dsimp only; decide +kernel⟩,
    ⟨{ w with time.quality := .locked }, mc 65535 [(6, 4, 999999999)], by dsimp only; decide +kernel⟩,
    ⟨w, mc 65535 [(6, 4, 1000000000)], by dsimp only; decide +kernel⟩,
    ⟨w, mc 65535 [(6, 4, 999999999)], by dsimp only; decide +kernel⟩,
    ⟨w, mc 65535 [(6, 4, 999999999), (14, 1, 1)], by dsimp only; decide +kernel⟩,
    ⟨(2 ^ 48 - 1) * 1000000000, by decide +kernel⟩,
    ⟨{ w with time.sets := [{ ring := 8193, idx := 0, sec := 0, ns := 0, bound := 0, since := 997500000000 }], dechan.accepted := [{ ring := 8193, idx := 0, opcode := 0x0203, cmd := mc 1 [], at_ := 0, deadline := 0 }] },
    { ring := 8193, idx := 0, sec := 0, ns := 0, bound := 0, since := 997500000000 },
    { ring := 8193, idx := 0, opcode := 0x0203, cmd := mc 1 [], at_ := 0, deadline := 0 }, by decide +kernel⟩,
    ⟨w, by decide +kernel⟩,
    ⟨w, mc 65535 [], by dsimp only; decide +kernel⟩,
    ⟨w, by decide +kernel⟩⟩

/-- The hypotheses of `Obligations.HelmThreadsIssueTheirInstructions` can be met, clause by clause. -/
theorem test_witness_HelmThreadsIssueTheirInstructions :
    (∃ (s : State) (t : Nat), (s.coreRuns (t % 128) && (s.thread (t % 128)).state == .runnable) = false) ∧
    (∃ (s : State) (t : Nat), t < 128 ∧ s.coreRuns t = true ∧ (s.thread t).state = .runnable ∧
    s.breakpoint (s.thread t).pc = true ∧ (s.thread t).skipBp = false) ∧
    (∃ (s : State) (t : Nat) (op : HelmOp), s.issues t = true ∧ (op.rd ≠ 0 ∨ op.rt ≠ 0 ∨ op.imm ≠ 0)) ∧
    (∃ (s : State) (t : Nat) (op : HelmOp) (k : Nat), s.issues t = true ∧ op.imm.toNat % 16 = 0 ∧ 0 < k ∧ k < 128 ∧
    (∀ j, 0 < j → j < k → (s.thread j).state ≠ .free) ∧ (s.thread k).state = .free) ∧
    (∃ (s : State) (t : Nat) (op : HelmOp), s.issues t = true ∧ op.imm.toNat % 16 = 0 ∧ (∀ j,
    0 < j → j < 128 → (s.thread j).state ≠ .free)) ∧
    (∃ (s : State) (t : Nat) (op : HelmOp), s.issues t = true ∧ 9 ≤ op.imm.toNat % 16) ∧
    (∃ (s : State) (t : Nat) (op : HelmOp), s.issues t = true ∧ op.rd = 0 ∧ op.rt = 0 ∧ op.imm = 0) ∧
    (∃ (s : State) (j : Nat) (t : Nat), s.helm.thr.sorted = true ∧ j ≠ t) ∧
    (∃ (s : State) (t : Nat) (op : HelmOp) (k : Nat), s.issues t = true ∧ op.rt = 0 ∧ op.imm = 0 ∧
    s.rsVal t op % 128 = k ∧ k ≠ t ∧ (s.thread k).state = .done ∧ (s.issued t).joiner k = none) ∧
    (∃ (s : State) (t : Nat) (op : HelmOp) (k : Nat), s.issues t = true ∧ op.rt = 0 ∧ op.imm = 0 ∧
    s.rsVal t op % 128 = k ∧ k ≠ t ∧ (s.thread k).state ≠ .done ∧ (s.thread k).state ≠ .free ∧
    (s.issued t).joiner k = none) ∧
    (∃ (s : State) (t : Nat) (op : HelmOp), s.issues t = true ∧ op.rt = 0 ∧ op.imm = 0 ∧ s.rsVal t op % 128 = t) ∧
    (∃ (s : State) (t : Nat) (op : HelmOp), s.issues t = true ∧ op.rt = 0 ∧ op.imm = 0 ∧
    maskOf 8 (fun k => bit (s.rsVal t op % 256) k && ((s.thread t).inputs.getD k none).isSome) ≠ 0 ∧
    (s.thread t).latched &&& (s.rsVal t op % 256) = 0) ∧
    (∃ (s : State) (t : Nat) (op : HelmOp), s.issues t = true ∧ op.rt = 0 ∧ op.imm = 0 ∧
    maskOf 8 (fun k => bit (s.rsVal t op % 256) k && ((s.thread t).inputs.getD k none).isSome) = 0) ∧
    (∃ (s : State) (t : Nat) (op : HelmOp), s.issues t = true ∧ op.rd = 0 ∧ op.rt = 0 ∧ op.imm = 0 ∧
    s.rsVal t op ≤ 63) ∧
    (∃ (s : State) (t : Nat) (op : HelmOp), s.issues t = true ∧ op.rd = 0 ∧ op.rt = 0 ∧ op.imm = 0 ∧
    64 ≤ s.rsVal t op) ∧
    (∃ (s : State) (t : Nat) (op : HelmOp) (src : Nat), s.issues t = true ∧ op.rd = 0 ∧ op.imm = 0 ∧
    s.rtVal t op = src ∧ (src < 832 ∨ src = 832 + t ∨ 960 ≤ src ∧ src < 1024)) ∧
    (∃ (s : State) (t : Nat) (op : HelmOp), s.issues t = true ∧ op.rd = 0 ∧ op.imm = 0 ∧ bit (s.rtVal t op) 31 = true) ∧
    (∃ (s : State) (t : Nat) (op : HelmOp), s.issues t = true ∧ op.rd = 0 ∧ op.imm = 0 ∧ 1024 ≤ s.rtVal t op ∧
    s.rtVal t op < 2 ^ 31) ∧
    (∃ (s : State) (t : Nat) (op : HelmOp), s.issues t = true ∧ op.rd = 0 ∧ op.rt = 0 ∧ op.imm = 0) ∧
    (∃ (s : State) (t : Nat) (op : HelmOp), s.issues t = true ∧ op.rd = 0 ∧ op.rt = 0 ∧ op.imm = 0) ∧
    (∃ (s : State) (t : Nat) (op : HelmOp), s.issues t = true ∧ op.rd = 0 ∧ op.rt = 0 ∧ op.imm = 0) ∧
    (∃ (s : State) (t : Nat) (op : HelmOp), s.issues t = true ∧ op.rd = 0 ∧ op.rs = 0 ∧ op.rt = 0 ∧ op.imm = 0) ∧
    (∃ (s : State) (t : Nat) (op : HelmOp), t < 128 ∧ s.coreRuns t = true ∧ (s.thread t).state = .runnable ∧
    s.helm.breakEn = true ∧ s.breakpoint (s.thread t).pc = false ∧ op.rd = 0 ∧ op.rs = 0 ∧ op.rt = 0 ∧ op.imm = 0) ∧
    (∃ (s : State) (t : Nat) (src : Nat), s.helm.thr.sorted = true ∧ (s.thread t).state ≠ .free ∧
    (s.thread t).inputsOf src ≠ 0) ∧
    (∃ (s : State) (t : Nat), (s.thread t).stepping = true ∧ (s.thread t).state = .runnable) ∧
    (∃ (s : State) (t : Nat), s.issues t = true) ∧
    (∃ (s : State) (t : Nat) (off : Nat), s.issues t = true ∧ off % 4 = 0 ∧ off + 4 ≤ 2 ^ 18) ∧
    (∃ (s : State) (t : Nat) (off : Nat), s.issues t = true ∧ off % 4 = 0 ∧ off + 4 ≤ 2 ^ 18) ∧
    (∃ (s : State) (t : Nat) (off : Nat), s.issues t = true ∧ off % 4 ≠ 0) ∧
    (∃ (s : State) (t : Nat), s.issues t = true) ∧
    (∃ (s : State) (t : Nat), s.issues t = true ∧ t ≠ 0) :=
  ⟨⟨w, 5, by decide +kernel⟩,
    ⟨{ w with helm.breakEn := true, helm.bp := [1] }, 0, by decide +kernel⟩,
    ⟨w, 0, { rd := 1, rs := 0, rt := 0, imm := 0 }, by decide +kernel⟩,
    ⟨w, 0, { rd := 0, rs := 0, rt := 0, imm := 0 }, 1, by decide +kernel, by decide +kernel, by decide, by decide,
    by intro j a b; omega, by decide +kernel⟩,
    ⟨{ w with helm.thr := (List.range 128).map (fun k => (k, { state := .runnable })) }, 0, { rd := 0, rs := 0, rt := 0, imm := 0 }, by decide +kernel, by decide +kernel, by
        have h : ∀ j < 128, (State.thread { w with helm.thr := (List.range 128).map (fun k => (k, { state := .runnable })) } j).state ≠ .free := by decide +kernel
        exact fun j _ b => h j b⟩,
    ⟨w, 0, { rd := 0, rs := 0, rt := 0, imm := 9 }, by decide +kernel⟩,
    ⟨w, 0, { rd := 0, rs := 0, rt := 0, imm := 0 }, by decide +kernel⟩,
    ⟨{ w with helm.thr := [(0, { state := .runnable }), (127, { state := .runnable })] }, 127, 0, by decide +kernel⟩,
    ⟨{ w with helm.thr := [(0, { state := .done }), (127, { state := .runnable })] }, 127,
    { rd := 0, rs := 0, rt := 0, imm := 0 }, 0, by decide +kernel⟩,
    ⟨{ w with helm.thr := [(0, { state := .runnable }), (127, { state := .runnable })] }, 127,
    { rd := 0, rs := 0, rt := 0, imm := 0 }, 0, by decide +kernel⟩,
    ⟨w, 0, { rd := 0, rs := 0, rt := 0, imm := 0 }, by decide +kernel⟩,
    ⟨{ w with helm.thr := [(0, { state := .runnable, regs := (List.replicate 32 0).set 1 128, inputs := (List.replicate 8 none).set 7 (some 5) })] },
    0, { rd := 0, rs := 1, rt := 0, imm := 0 }, by decide +kernel⟩,
    ⟨w, 0, { rd := 0, rs := 0, rt := 0, imm := 0 }, by decide +kernel⟩,
    ⟨{ w with helm.thr := [(0, { state := .runnable, regs := (List.replicate 32 0).set 1 63 })] }, 0,
    { rd := 0, rs := 1, rt := 0, imm := 0 }, by decide +kernel⟩,
    ⟨{ w with helm.thr := [(0, { state := .runnable, regs := (List.replicate 32 0).set 1 64 })] }, 0,
    { rd := 0, rs := 1, rt := 0, imm := 0 }, by decide +kernel⟩,
    ⟨{ w with helm.thr := [(0, { state := .runnable, regs := (List.replicate 32 0).set 1 831 })] }, 0,
    { rd := 0, rs := 0, rt := 1, imm := 0 }, 831, by decide +kernel⟩,
    ⟨{ w with helm.thr := [(0, { state := .runnable, regs := (List.replicate 32 0).set 1 0x80000000 })] }, 0,
    { rd := 0, rs := 0, rt := 1, imm := 0 }, by decide +kernel⟩,
    ⟨{ w with helm.thr := [(0, { state := .runnable, regs := (List.replicate 32 0).set 1 1024 })] }, 0,
    { rd := 0, rs := 0, rt := 1, imm := 0 }, by decide +kernel⟩,
    ⟨w, 0, { rd := 0, rs := 0, rt := 0, imm := 0 }, by decide +kernel⟩,
    ⟨w, 0, { rd := 0, rs := 0, rt := 0, imm := 0 }, by decide +kernel⟩,
    ⟨w, 0, { rd := 0, rs := 0, rt := 0, imm := 0 }, by decide +kernel⟩,
    ⟨w, 0, { rd := 0, rs := 0, rt := 0, imm := 0 }, by decide +kernel⟩,
    ⟨{ w with helm.breakEn := true }, 0, { rd := 0, rs := 0, rt := 0, imm := 0 }, by decide +kernel⟩,
    ⟨{ w with helm.thr := [(127, { state := .runnable, inputs := (List.replicate 8 none).set 7 (some 5) })] }, 127, 5,
    by decide +kernel⟩,
    ⟨{ w with helm.thr := [(0, { state := .runnable, stepping := true })] }, 0, by decide +kernel⟩,
    ⟨w, 0, by decide +kernel⟩,
    ⟨w, 0, 262140, by decide +kernel⟩,
    ⟨w, 0, 262140, by decide +kernel⟩,
    ⟨w, 0, 262141, by decide +kernel⟩,
    ⟨w, 0, by decide +kernel⟩,
    ⟨{ w with helm.thr := [(0, { state := .runnable }), (127, { state := .runnable })] }, 127, by decide +kernel⟩⟩

/-- The hypotheses of `Obligations.HelmChannelsSupervisorAndFaults` can be met, clause by clause. -/
theorem test_witness_HelmChannelsSupervisorAndFaults :
    (∃ (s : State) (t : Nat), (s.coreRuns (t % 128) && (s.thread (t % 128)).state == .runnable) = false) ∧
    (∃ (s : State) (t : Nat) (op : HelmOp), s.issues t = true ∧ op.rd = 0 ∧ op.imm = 0 ∧
    (s.chan (s.rtVal t op % 256)).depth ≠ 0 ∧
    ((s.thread t).stageCh = none ∨ (s.thread t).stageCh = some (s.rtVal t op % 256))) ∧
    (∃ (s : State) (t : Nat) (op : HelmOp) (c : Nat), s.issues t = true ∧ op.rd = 0 ∧ op.imm = 0 ∧
    ((s.chan (s.rtVal t op % 256)).depth = 0 ∨ (s.thread t).stageCh = some c ∧ c ≠ s.rtVal t op % 256)) ∧
    (∃ (s : State) (t : Nat) (op : HelmOp), let c := s.rsVal t op % 256; let n := s.rsVal t op / 256 % 16;
    s.issues t = true ∧ op.rt = 0 ∧ op.imm.toNat ≤ 1 ∧ 1 ≤ n ∧ n ≤ 8 ∧ (s.thread t).stageCh.getD c = c ∧
    (s.chan c).msgs.length < (s.chan c).depth) ∧
    (∃ (s : State) (t : Nat) (op : HelmOp), let c := s.rsVal t op % 256; let n := s.rsVal t op / 256 % 16;
    s.issues t = true ∧ op.rt = 0 ∧ op.imm = 0 ∧ 1 ≤ n ∧ n ≤ 8 ∧ (s.thread t).stageCh.getD c = c ∧
    0 < (s.chan c).depth ∧ (s.chan c).depth ≤ (s.chan c).msgs.length) ∧
    (∃ (s : State) (t : Nat) (op : HelmOp), let c := s.rsVal t op % 256; let n := s.rsVal t op / 256 % 16;
    s.issues t = true ∧ op.rt = 0 ∧ op.imm = 1 ∧ 1 ≤ n ∧ n ≤ 8 ∧ (s.thread t).stageCh.getD c = c ∧
    0 < (s.chan c).depth ∧ (s.chan c).depth ≤ (s.chan c).msgs.length) ∧
    (∃ (s : State) (t : Nat) (op : HelmOp), s.issues t = true ∧ op.rt = 0 ∧ op.imm.toNat ≤ 1 ∧
    (s.rsVal t op / 256 % 16 = 0 ∨ 8 < s.rsVal t op / 256 % 16)) ∧
    (∃ (s : State) (t : Nat) (op : HelmOp) (m : List W32) (ms : List (List W32)), let c := s.rsVal t op % 256;
    s.issues t = true ∧ op.rt = 0 ∧ op.imm.toNat ≤ 1 ∧ c ≠ 255 ∧ 0 < (s.chan c).depth ∧ (s.chan c).msgs = m :: ms) ∧
    (∃ (s : State) (t : Nat) (op : HelmOp), let c := s.rsVal t op % 256; s.issues t = true ∧ op.rt = 0 ∧ op.imm = 0 ∧
    c ≠ 255 ∧ 0 < (s.chan c).depth ∧ (s.chan c).msgs = []) ∧
    (∃ (s : State) (t : Nat) (op : HelmOp), let c := s.rsVal t op % 256; s.issues t = true ∧ op.rt = 0 ∧ op.imm = 1 ∧
    c ≠ 255 ∧ 0 < (s.chan c).depth ∧ (s.chan c).msgs = []) ∧
    (∃ (s : State) (t : Nat) (op : HelmOp), s.issues t = true ∧ t ≠ 0 ∧ op.rt = 0 ∧ op.imm.toNat ≤ 1 ∧
    s.rsVal t op % 256 = 255) ∧
    (∃ (s : State) (c : Nat) (m : List W32) (t : Nat), s.chan c = { depth := 1, msgs := [m], receivers := [t] } ∧
    (s.thread t).state = .waitRecv) ∧
    (∃ (s : State) (op : HelmOp) (k : Nat), s.issues 0 = true ∧ op.rd = 0 ∧ op.imm = 0 ∧ s.rsVal 0 op = k ∧ 0 < k ∧
    (s.thread k).state = .faultHalt) ∧
    (∃ (s : State) (op : HelmOp) (k : Nat), s.issues 0 = true ∧ op.rd = 0 ∧ op.imm = 1 ∧ s.rsVal 0 op = k ∧ 0 < k ∧
    (s.thread k).state = .faultHalt) ∧
    (∃ (s : State) (op : HelmOp), s.issues 0 = true ∧ op.rd = 0 ∧ op.imm.toNat ≤ 1 ∧ s.rsVal 0 op = 0) ∧
    (∃ (s : State) (t : Nat) (op : HelmOp), s.issues t = true ∧ t ≠ 0 ∧ op.rd = 0 ∧ op.imm.toNat ≤ 1) ∧
    (∃ (s : State) (op : HelmOp), let c := s.rsVal 0 op % 256; s.issues 0 = true ∧ op.rd = 0 ∧ op.imm = 0 ∧
    s.rtVal 0 op ≤ 64 ∧ s.helm.chans = [(c, { depth := (s.chan c).depth })]) ∧
    (∃ (s : State) (op : HelmOp), s.issues 0 = true ∧ op.rd = 0 ∧ op.imm = 0 ∧ 64 < s.rtVal 0 op) ∧
    (∃ (s : State) (t : Nat) (op : HelmOp), s.issues t = true ∧ t ≠ 0 ∧ op.rd = 0 ∧ op.imm = 0) ∧
    (∃ (s : State) (t : Nat), t ≠ 0 ∧ (s.thread 0).state = .runnable ∧ (s.thread t).state = .runnable ∧
    (s.chan 255).msgs = [] ∧ 0 < (s.chan 255).depth ∧ (s.chan 255).receivers = [] ∧ (s.chan 255).senders = []) ∧
    (∃ (s : State), (s.thread 0).trap ≠ 0 ∧ (s.thread 0).trapActive = false) ∧
    (∃ (s : State), (s.thread 0).trap = 0) :=
  ⟨⟨w, 5, by decide +kernel⟩,
    ⟨{ w with helm.chans := [(0, { depth := 1 })] }, 0, { rd := 0, rs := 0, rt := 0, imm := 0 }, by decide +kernel⟩,
    ⟨w, 0, { rd := 0, rs := 0, rt := 0, imm := 0 }, 0, by decide +kernel⟩,
    ⟨{ w with helm.chans := [(0, { depth := 1 })], helm.thr := [(0, { state := .runnable, regs := (List.replicate 32 0).set 1 2048 })] },
    0, { rd := 0, rs := 1, rt := 0, imm := 0 }, by dsimp only; decide +kernel⟩,
    ⟨{ w with helm.chans := [(0, { depth := 1, msgs := [[1]] })], helm.thr := [(0, { state := .runnable, regs := (List.replicate 32 0).set 1 2048 })] },
    0, { rd := 0, rs := 1, rt := 0, imm := 0 }, by dsimp only; decide +kernel⟩,
    ⟨{ w with helm.chans := [(0, { depth := 1, msgs := [[1]] })], helm.thr := [(0, { state := .runnable, regs := (List.replicate 32 0).set 1 2048 })] },
    0, { rd := 0, rs := 1, rt := 0, imm := 1 }, by dsimp only; decide +kernel⟩,
    ⟨{ w with helm.thr := [(0, { state := .runnable, regs := (List.replicate 32 0).set 1 2304 })] }, 0,
    { rd := 0, rs := 1, rt := 0, imm := 1 }, by decide +kernel⟩,
    ⟨{ w with helm.chans := [(0, { depth := 1, msgs := [[1]] })] }, 0, { rd := 0, rs := 0, rt := 0, imm := 0 }, [1],
    [], by dsimp only; decide +kernel⟩,
    ⟨{ w with helm.chans := [(0, { depth := 1 })] }, 0, { rd := 0, rs := 0, rt := 0, imm := 0 },
    by dsimp only; decide +kernel⟩,
    ⟨{ w with helm.chans := [(0, { depth := 1 })] }, 0, { rd := 0, rs := 0, rt := 0, imm := 1 },
    by dsimp only; decide +kernel⟩,
    ⟨{ w with helm.thr := [(0, { state := .runnable }), (127, { state := .runnable, regs := (List.replicate 32 0).set 1 255 })] },
    127, { rd := 0, rs := 1, rt := 0, imm := 0 }, by decide +kernel⟩,
    ⟨{ w with helm.chans := [(5, { depth := 1, msgs := [[1]], receivers := [127] })], helm.thr := [(0, { state := .runnable }), (127, { state := .waitRecv })] },
    5, [1], 127, by decide +kernel⟩,
    ⟨{ w with helm.thr := [(0, { state := .runnable, regs := (List.replicate 32 0).set 1 127 }), (127, { state := .faultHalt })] },
    { rd := 0, rs := 1, rt := 0, imm := 0 }, 127, by decide +kernel⟩,
    ⟨{ w with helm.thr := [(0, { state := .runnable, regs := (List.replicate 32 0).set 1 127 }), (127, { state := .faultHalt })] },
    { rd := 0, rs := 1, rt := 0, imm := 1 }, 127, by decide +kernel⟩,
    ⟨w, { rd := 0, rs := 0, rt := 0, imm := 0 }, by decide +kernel⟩,
    ⟨{ w with helm.thr := [(0, { state := .runnable }), (127, { state := .runnable })] }, 127,
    { rd := 0, rs := 0, rt := 0, imm := 0 }, by decide +kernel⟩,
    ⟨{ w with helm.chans := [(0, { depth := 1 })], helm.thr := [(0, { state := .runnable, regs := (List.replicate 32 0).set 1 64 })] },
    { rd := 0, rs := 0, rt := 1, imm := 0 }, by dsimp only; decide +kernel⟩,
    ⟨{ w with helm.thr := [(0, { state := .runnable, regs := (List.replicate 32 0).set 1 65 })] },
    { rd := 0, rs := 0, rt := 1, imm := 0 }, by decide +kernel⟩,
    ⟨{ w with helm.thr := [(0, { state := .runnable }), (127, { state := .runnable })] }, 127,
    { rd := 0, rs := 0, rt := 0, imm := 0 }, by decide +kernel⟩,
    ⟨{ w with helm.chans := [(255, { depth := 1 })], helm.thr := [(0, { state := .runnable }), (127, { state := .runnable })] },
    127, by decide +kernel⟩,
    ⟨{ w with helm.thr := [(0, { state := .runnable, trap := 4 })] }, by decide +kernel⟩,
    ⟨w, by decide +kernel⟩⟩

/-- The hypotheses of `Obligations.HelmTimersDebuggerAndDetector` can be met, clause by clause. -/
theorem test_witness_HelmTimersDebuggerAndDetector :
    (∃ (s : State) (t : Nat) (d : Nat), t < 128 ∧ (s.thread t).timer = some d ∧ d ≤ s.now ∧ s.coreRuns t = true) ∧
    (∃ (s : State) (t : Nat) (d : Nat), t < 128 ∧ (s.thread t).timer = some d ∧ s.now < d) ∧
    (∃ (s : State) (t : Nat), t < 128 ∧ (s.thread t).timer = none) ∧
    (∃ (s : State), s.inRun 4 = true ∧ s.helm.cores ≠ 0 ∧ s.calm = true ∧ s.helm.calmArmed = true ∧
    s.helm.calmSince + s.boot.becalmWindow * msTicks ≤ s.now) ∧
    (∃ (s : State), (s.calm = false ∨ s.helm.calmArmed = false)) ∧
    (∃ (s : State) (t : Nat), ((s.thread t).state = .runnable ∨ (s.thread t).state = .debugHalt)) ∧
    (∃ (s : State), s.linkReady = true ∧ s.inRun 4 = true ∧ s.dbgOpen = false) ∧
    (∃ (s : State) (g : Grant), s.helm.grant = some g) ∧
    (∃ (s : State) (t : Nat), s.linkReady = true ∧ s.inRun 4 = true ∧ s.dbgOpen = true ∧ s.helm.threadSel = t ∧
    t < 128 ∧ ((s.thread t).state = .runnable ∨ (s.thread t).state = .waitEvent ∨ (s.thread t).state = .faultHalt)) ∧
    (∃ (s : State) (t : Nat), s.linkReady = true ∧ s.inRun 4 = true ∧ s.dbgOpen = true ∧ s.helm.threadSel = t ∧
    t < 128 ∧ ((s.thread t).state = .free ∨ (s.thread t).state = .done)) ∧
    (∃ (s : State) (t : Nat), s.linkReady = true ∧ s.inRun 4 = true ∧ s.dbgOpen = true ∧ s.helm.threadSel = t ∧
    t < 128 ∧ (s.thread t).state = .debugHalt ∧ (s.thread t).prior = .runnable) ∧
    (∃ (s : State) (t : Nat), s.linkReady = true ∧ s.inRun 4 = true ∧ s.dbgOpen = true ∧ s.helm.threadSel = t ∧
    t < 128 ∧ (s.thread t).state = .debugHalt ∧ (s.thread t).prior = .waitEvent ∧
    (s.thread t).latched &&& (s.thread t).mask ≠ 0) ∧
    (∃ (s : State) (t : Nat), s.linkReady = true ∧ s.inRun 4 = true ∧ s.dbgOpen = true ∧ s.helm.threadSel = t ∧
    t < 128 ∧ (s.thread t).state = .debugHalt ∧ (s.thread t).prior = .runnable) ∧
    (∃ (s : State) (t : Nat), s.linkReady = true ∧ s.inRun 4 = true ∧ s.dbgOpen = true ∧ s.helm.threadSel = t ∧
    t < 128 ∧ (s.thread t).state ≠ .debugHalt) ∧
    (∃ (s : State) (t : Nat), s.linkReady = true ∧ s.inRun 4 = true ∧ s.dbgOpen = true ∧ s.helm.threadSel = t ∧
    0 < t ∧ t < 128 ∧ (s.thread t).state ≠ .free) ∧
    (∃ (s : State), s.linkReady = true ∧ s.inRun 4 = true ∧ s.dbgOpen = true ∧ s.helm.threadSel = 0) ∧
    (∃ (s : State) (t : Nat) (k : Nat), s.linkReady = true ∧ s.inRun 4 = true ∧ s.dbgOpen = true ∧
    s.helm.threadSel = t ∧ t < 128 ∧ k < 32 ∧ (s.thread t).state = .debugHalt) ∧
    (∃ (s : State) (t : Nat), (s.threadLeave t).helm.thr.sorted = true ∧
    ({ s.threadLeave t with helm.thr := (s.threadLeave t).helm.thr.drop1 t } : State).joiner t = none) ∧
    (∃ (s : State) (g : Grant), s.helm.grant = some g ∧ s.now < g.until_) ∧
    (∃ (s : State), s.helm.grant = none) ∧
    (∃ (s : State) (g : Grant), s.helm.grant = some g ∧ g.until_ ≤ s.now) ∧
    (∃ (s : State), s.helm.grant.isSome = true ∧ (∀ p ∈ s.helm.thr, p.2.state ≠ .debugHalt)) ∧
    (∃ (s : State) (c : Cmd), let op := opSecDebug c; s.ready op c = true ∧ byteAt c.data 0 = 1) ∧
    (∃ (s : State) (c : Cmd), let op := opSecDebug c; s.ready op c = true ∧ byteAt c.data 0 = 2 ∧
    (s.opened op c).helm.challenge = none) ∧
    (∃ (s : State) (c : Cmd) (ch : Bytes), let op := opSecDebug c; let t := s.opened op c; let b := bufferOf op c;
    s.ready op c = true ∧ byteAt c.data 0 = 2 ∧ t.helm.challenge = some ch ∧ byteAt b 0 % 8 ≠ 0 ∧ 1 ≤ leAt b 4 4 ∧
    leAt b 4 4 ≤ 86400) ∧
    (∃ (s : State) (c : Cmd), let op := opSecDebug c; s.ready op c = true ∧ byteAt c.data 0 = 3) :=
  ⟨⟨{ w with helm.thr := [(0, { state := .runnable }), (127, { state := .runnable, timer := some 1000000000000 })] },
    127, 1000000000000, by decide +kernel⟩,
    ⟨{ w with helm.thr := [(0, { state := .runnable }), (127, { state := .runnable, timer := some 1000000000001 })] },
    127, 1000000000001, by decide +kernel⟩,
    ⟨w, 127, by decide +kernel⟩,
    ⟨{ w with helm.thr := [(0, { state := .waitEvent })], helm.calmSince := 999987500000 }, by decide +kernel⟩,
    ⟨w, by decide +kernel⟩,
    ⟨w, 0, by decide +kernel⟩,
    ⟨w, by decide +kernel⟩,
    ⟨{ w with helm.grant := some { scope := 1, until_ := 1000000000001 } }, { scope := 1, until_ := 1000000000001 },
    by decide +kernel⟩,
    ⟨{ w with helm.grant := some { scope := 1, until_ := 1000000000001 }, helm.threadSel := 127, helm.thr := [(127, { state := .waitEvent })] },
    127, by decide +kernel⟩,
    ⟨{ w with helm.grant := some { scope := 1, until_ := 1000000000001 }, helm.threadSel := 127, helm.thr := [(127, { state := .done })] },
    127, by decide +kernel⟩,
    ⟨{ w with helm.grant := some { scope := 1, until_ := 1000000000001 }, helm.threadSel := 127, helm.thr := [(127, { state := .debugHalt, prior := .runnable })] },
    127, by decide +kernel⟩,
    ⟨{ w with helm.grant := some { scope := 1, until_ := 1000000000001 }, helm.threadSel := 127, helm.thr := [(127, { state := .debugHalt, prior := .waitEvent, latched := 1, mask := 1 })] },
    127, by decide +kernel⟩,
    ⟨{ w with helm.grant := some { scope := 1, until_ := 1000000000001 }, helm.threadSel := 127, helm.thr := [(127, { state := .debugHalt, prior := .runnable })] },
    127, by decide +kernel⟩,
    ⟨{ w with helm.grant := some { scope := 1, until_ := 1000000000001 }, helm.threadSel := 127, helm.thr := [(127, { state := .runnable })] },
    127, by decide +kernel⟩,
    ⟨{ w with helm.grant := some { scope := 1, until_ := 1000000000001 }, helm.threadSel := 127, helm.thr := [(127, { state := .runnable })] },
    127, by decide +kernel⟩,
    ⟨{ w with helm.grant := some { scope := 1, until_ := 1000000000001 } }, by decide +kernel⟩,
    ⟨{ w with helm.grant := some { scope := 1, until_ := 1000000000001 }, helm.threadSel := 127, helm.thr := [(127, { state := .debugHalt })] },
    127, 31, by decide +kernel⟩,
    ⟨{ w with helm.thr := [(0, { state := .runnable }), (127, { state := .runnable })] }, 127, by decide +kernel⟩,
    ⟨{ w with helm.grant := some { scope := 1, until_ := 1000000000001 } }, { scope := 1, until_ := 1000000000001 },
    by decide +kernel⟩,
    ⟨w, by decide +kernel⟩,
    ⟨{ w with helm.grant := some { scope := 1, until_ := 1000000000000 } }, { scope := 1, until_ := 1000000000000 },
    by decide +kernel⟩,
    ⟨{ w with helm.grant := some { scope := 1, until_ := 1000000000001 } }, by decide +kernel⟩,
    ⟨w, { mc 65535 [(0, 1, 1)] with ring := .sec }, by dsimp only; decide +kernel⟩,
    ⟨w, { mb 65535 [(0, 1, 2)] 288 [] with ring := .sec }, by dsimp only; decide +kernel⟩,
    ⟨{ w with helm.challenge := some (zeros 16) },
    { mb 65535 [(0, 1, 2)] 288 [(0, 1, 1), (4, 4, 86400)] with ring := .sec }, zeros 16,
    by dsimp only; decide +kernel⟩,
    ⟨w, { mc 65535 [(0, 1, 3)] with ring := .sec }, by dsimp only; decide +kernel⟩⟩

/-- The hypotheses of `Obligations.MoversCopyFillAndCompare` can be met, clause by clause. -/
theorem test_witness_MoversCopyFillAndCompare :
    (∃ (s : State) (t : Nat) (m : Nat), s.moverReach t m = true ∧ (s.mover m).held = false) ∧
    (∃ (s : State) (m : Nat), (s.mover m).held = true) ∧
    (∃ (s : State) (t : Nat) (m : Nat) (ws : List W32), s.moverReach t m = true ∧ (s.mover m).held = true ∧
    (s.mover m).owner = t ∧ bit (ws.getD 5 0).toNat 31 = true) ∧
    (∃ (s : State) (t : Nat) (m : Nat), s.moverReach t m = true ∧ (s.mover m).held = true ∧ (s.mover m).owner ≠ t) ∧
    (∃ (s : State) (m : Nat) (y : MoverSet), s.inRun 4 = true ∧ (s.mover m).shadow = some y ∧
    (s.mover m).active = none ∧ (s.mover m).errHold = false ∧ y.mode < 3 ∧ y.badLen = false) ∧
    (∃ (s : State) (m : Nat) (y : MoverSet), s.inRun 4 = true ∧ (s.mover m).shadow = some y ∧
    (s.mover m).active = none ∧ (s.mover m).errHold = false ∧ y.mode < 3 ∧ y.len = 0) ∧
    (∃ (s : State) (m : Nat), ((s.mover m).active.isSome = true ∨ (s.mover m).errHold = true)) ∧
    (∃ (s : State) (m : Nat), (s.mover m).active = none) ∧
    (∃ (s : State) (m : Nat) (x : MoverSet), s.inRun 4 = true ∧ (s.mover m).active = some x ∧ x.mode = 1 ∧
    x.dstSpace = 3 ∧ x.dst + x.len ≤ 2 ^ 23 ∧ x.dstFixed = false) ∧
    (∃ (s : State) (m : Nat) (x : MoverSet), s.inRun 4 = true ∧ (s.mover m).active = some x ∧ x.mode = 0 ∧
    x.srcSpace = 3 ∧ x.dstSpace = 3 ∧ x.src + x.len ≤ 2 ^ 23 ∧ x.dst + x.len ≤ 2 ^ 23 ∧ x.srcFixed = false ∧
    x.dstFixed = false) ∧
    (∃ (s : State) (m : Nat) (x : MoverSet), s.inRun 4 = true ∧ (s.mover m).active = some x ∧ x.mode = 1 ∧
    x.dstSpace = 3 ∧ 2 ^ 23 + 32 * 65536 ≤ x.dst ∧ 0 < x.len ∧ x.dstFixed = false) ∧
    (∃ (s : State) (m : Nat), m < s.helm.movers.length) ∧
    (∃ (x : MoverSet) (b : Bytes) (a : Nat), x.dstSpace = 3 ∧ x.dstFixed = false ∧ (a < x.dst ∨ x.dst + b.length ≤ a)) ∧
    (∃ (s : State) (x : MoverSet) (b : Bytes) (i : Nat), x.dstSpace = 3 ∧ x.dstFixed = false ∧
    Mem.wf s.helm.sram = true ∧ i < b.length ∧ x.dst + b.length ≤ 2 ^ 23) ∧
    (∃ (s : State) (x : MoverSet) (b : Bytes) (k : Nat) (pos : Nat), x.dstSpace = 3 ∧ x.dstFixed = false ∧
    1 ≤ (s.clsBank k).width ∧ b.length = 32 * (s.clsBank k).width ∧ (pos + 1) * (32 * (s.clsBank k).width) ≤ 65536 ∧
    x.dst = 2 ^ 23 + 65536 * k + pos * (32 * (s.clsBank k).width)) ∧
    (∃ (s : State) (t : Nat) (m : Nat), s.moverReach t m = true ∧ (s.mover m).held = true ∧ (s.mover m).owner = t) ∧
    (∃ (s : State) (t : Nat) (m : Nat), s.moverReach t m = true ∧ (s.mover m).held = true ∧ (s.mover m).owner = t ∧
    m < s.helm.movers.length ∧ (s.mover m).shadow = none) :=
  ⟨⟨w, 0, 15, by decide +kernel⟩,
    ⟨{ w with helm.movers := (List.replicate 16 {}).set 15 { held := true } }, 15, by decide +kernel⟩,
    ⟨{ w with helm.movers := (List.replicate 16 {}).set 15 { held := true } }, 0, 15, [0, 0, 0, 0, 0, 0x80000000],
    by decide +kernel⟩,
    ⟨{ w with helm.movers := (List.replicate 16 {}).set 15 { held := true, owner := 5 } }, 0, 15, by decide +kernel⟩,
    ⟨{ w with helm.movers := (List.replicate 16 {}).set 15 { shadow := some { src := 0, dst := 0, len := 8, mode := 1, srcSpace := 3, dstSpace := 3, srcFixed := false, dstFixed := false, inst := 0, usePasid := false, fill := 0 } } },
    15,
    { src := 0, dst := 0, len := 8, mode := 1, srcSpace := 3, dstSpace := 3, srcFixed := false, dstFixed := false, inst := 0, usePasid := false, fill := 0 },
    by decide +kernel⟩,
    ⟨{ w with helm.movers := (List.replicate 16 {}).set 15 { shadow := some { src := 0, dst := 0, len := 0, mode := 1, srcSpace := 3, dstSpace := 3, srcFixed := false, dstFixed := false, inst := 0, usePasid := false, fill := 0 } } },
    15,
    { src := 0, dst := 0, len := 0, mode := 1, srcSpace := 3, dstSpace := 3, srcFixed := false, dstFixed := false, inst := 0, usePasid := false, fill := 0 },
    by decide +kernel⟩,
    ⟨{ w with helm.movers := (List.replicate 16 {}).set 15 { active := some { src := 0, dst := 0, len := 8, mode := 1, srcSpace := 3, dstSpace := 3, srcFixed := false, dstFixed := false, inst := 0, usePasid := false, fill := 0 } } },
    15, by decide +kernel⟩,
    ⟨w, 0, by decide +kernel⟩,
    ⟨{ w with helm.movers := (List.replicate 16 {}).set 15 { active := some { src := 0, dst := 8388600, len := 8, mode := 1, srcSpace := 3, dstSpace := 3, srcFixed := false, dstFixed := false, inst := 0, usePasid := false, fill := 0 } } },
    15,
    { src := 0, dst := 8388600, len := 8, mode := 1, srcSpace := 3, dstSpace := 3, srcFixed := false, dstFixed := false, inst := 0, usePasid := false, fill := 0 },
    by decide +kernel⟩,
    ⟨{ w with helm.movers := (List.replicate 16 {}).set 15 { active := some { src := 0, dst := 8388600, len := 8, mode := 0, srcSpace := 3, dstSpace := 3, srcFixed := false, dstFixed := false, inst := 0, usePasid := false, fill := 0 } } },
    15,
    { src := 0, dst := 8388600, len := 8, mode := 0, srcSpace := 3, dstSpace := 3, srcFixed := false, dstFixed := false, inst := 0, usePasid := false, fill := 0 },
    by decide +kernel⟩,
    ⟨{ w with helm.movers := (List.replicate 16 {}).set 15 { active := some { src := 0, dst := 10485760, len := 8, mode := 1, srcSpace := 3, dstSpace := 3, srcFixed := false, dstFixed := false, inst := 0, usePasid := false, fill := 0 } } },
    15,
    { src := 0, dst := 10485760, len := 8, mode := 1, srcSpace := 3, dstSpace := 3, srcFixed := false, dstFixed := false, inst := 0, usePasid := false, fill := 0 },
    by decide +kernel⟩,
    ⟨w, 15, by decide +kernel⟩,
    ⟨{ src := 0, dst := 0, len := 8, mode := 1, srcSpace := 3, dstSpace := 3, srcFixed := false, dstFixed := false, inst := 0, usePasid := false, fill := 0 },
    zeros 8, 8, by decide +kernel⟩,
    ⟨w,
    { src := 0, dst := 0, len := 8, mode := 1, srcSpace := 3, dstSpace := 3, srcFixed := false, dstFixed := false, inst := 0, usePasid := false, fill := 0 },
    zeros 8, 7, by decide +kernel⟩,
    ⟨{ w with cls.banks := (List.replicate 32 {}).set 31 { state := .populated, width := 1, enable := true, entries := [(5, { priority := 9, action := 0, steer := 0, pass := false, units := [(0, 1)] })] } },
    { src := 0, dst := 10485728, len := 32, mode := 0, srcSpace := 3, dstSpace := 3, srcFixed := false, dstFixed := false, inst := 0, usePasid := false, fill := 0 },
    zeros 32, 31, 2047, by decide +kernel⟩,
    ⟨{ w with helm.movers := (List.replicate 16 {}).set 15 { held := true } }, 0, 15, by decide +kernel⟩,
    ⟨{ w with helm.movers := (List.replicate 16 {}).set 15 { held := true } }, 0, 15, by decide +kernel⟩⟩

/-- The hypotheses of `Obligations.WaypointRestoreChecksThenRestores` can be met, clause by clause. -/
theorem test_witness_WaypointRestoreChecksThenRestores :
    (∃ (s : State) (c : Cmd) (b : Bytes) (f : Flow),
    let op : Op := { code := 0x0C02, inst := .inst, states := 0x02, asks := true }; let t := s.opened op c;
    let u := t.emitReads .pf0 none (leAt c.data 0 8) (leAt c.data 8 4) ((t.freeTag .pf0).getD 0);
    let w := slice b 0 (leAt c.data 8 4); s.ready op c = true ∧ u.effRead .pf0 c.buf = .data b ∧
    waypointBad w (leAt c.data 8 4) = none ∧ u.restoreEarly w c.inst = none ∧ bit (byteAt c.data 12) 0 = false ∧
    u.restoreLate w c.inst (u.restoreBounds w c.inst false) (bit (byteAt c.data 12) 1) = .ok f) ∧
    (∃ (s : State) (c : Cmd) (br : BinRead) (b : Bytes) (f : Flow) (v : State),
    let op : Op := { code := 0x0C02, inst := .inst, states := 0x02, asks := true }; let t := s.opened op c;
    let u := t.emitReads .pf0 none (leAt c.data 0 8) (leAt c.data 8 4) ((t.freeTag .pf0).getD 0);
    let w := slice b 0 (leAt c.data 8 4); s.ready op c = true ∧ u.effRead .pf0 c.buf = .data b ∧
    waypointBad w (leAt c.data 8 4) = none ∧ u.restoreEarly w c.inst = none ∧ bit (byteAt c.data 12) 0 = true ∧
    u.restoreLate w c.inst (u.restoreBounds w c.inst true) (bit (byteAt c.data 12) 1) = .ok f ∧
    u.restoreAsk c br w = (none, v)) ∧
    (∃ (s : State) (c : Cmd) (b : Bytes) (o : Nat),
    let op : Op := { code := 0x0C02, inst := .inst, states := 0x02, asks := true }; let t := s.opened op c;
    let u := t.emitReads .pf0 none (leAt c.data 0 8) (leAt c.data 8 4) ((t.freeTag .pf0).getD 0);
    let w := slice b 0 (leAt c.data 8 4); s.ready op c = true ∧ u.effRead .pf0 c.buf = .data b ∧
    waypointBad w (leAt c.data 8 4) = some o) ∧
    (∃ (s : State) (c : Cmd) (b : Bytes) (r : Reply),
    let op : Op := { code := 0x0C02, inst := .inst, states := 0x02, asks := true }; let t := s.opened op c;
    let u := t.emitReads .pf0 none (leAt c.data 0 8) (leAt c.data 8 4) ((t.freeTag .pf0).getD 0);
    let w := slice b 0 (leAt c.data 8 4); s.ready op c = true ∧ u.effRead .pf0 c.buf = .data b ∧
    waypointBad w (leAt c.data 8 4) = none ∧ u.restoreEarly w c.inst = some r) ∧
    (∃ (s : State) (w : Bytes), s.mig.restored.contains (leAt w 8 8) = true) ∧
    (∃ (s : State) (w : Bytes) (j : Nat), s.mig.restored.contains (leAt w 8 8) = false ∧
    (s.inst j).flowCount < leAt w 32 4) ∧
    (∃ (s : State) (w : Bytes) (j : Nat), s.mig.restored.contains (leAt w 8 8) = false ∧
    leAt w 32 4 ≤ (s.inst j).flowCount ∧ (s.inst j).ctxCount < leAt w 36 4) ∧
    (∃ (s : State) (w : Bytes) (j : Nat) (h : Nat) (v : Bool), s.mig.restored.contains (leAt w 8 8) = false ∧
    leAt w 32 4 ≤ (s.inst j).flowCount ∧ leAt w 36 4 ≤ (s.inst j).ctxCount ∧ (h, v) ∈ s.flow.handles ∧
    (s.inst j).flowBase ≤ h ∧ h < (s.inst j).flowBase + (s.inst j).flowCount) ∧
    (∃ (w : Bytes), leAt w 0 4 ≠ 0x54505957) ∧
    (∃ (w : Bytes), leAt w 0 4 = 0x54505957 ∧ leAt w 4 2 ≠ 1) ∧
    (∃ (j : Nat), j < 512) ∧
    (∃ (e : Bytes), (byteAt e 0 = 1 ∨ byteAt e 0 = 2 ∨ byteAt e 0 = 4)) ∧
    (∃ (e : Bytes), byteAt e 0 = 3) ∧
    (∃ (q : Nat), q < 14) :=
  ⟨⟨w, { mc 2 [(8, 4, 128)] with buf := .data (pat 128 [(0, 4, 1414551895), (4, 2, 1), (16, 4, 128)]) },
    pat 128 [(0, 4, 1414551895), (4, 2, 1), (16, 4, 128)], _, by decide +kernel, by decide +kernel, by decide +kernel,
    by decide +kernel, by decide +kernel, rfl⟩,
    ⟨{ w with bounds := [(2, { pasid := 2, ranges := [] })] },
    { mc 2 [(8, 4, 128), (12, 1, 1)] with buf := .data (pat 128 [(0, 4, 1414551895), (4, 2, 1), (16, 4, 128)]) },
    ⟨.data (pat 64 [(0, 2, 3074), (4, 2, 2), (13, 1, 1), (32, 4, 128), (36, 1, 1)]), .data []⟩,
    pat 128 [(0, 4, 1414551895), (4, 2, 1), (16, 4, 128)], _, _, by decide +kernel, by decide +kernel,
    by decide +kernel, by decide +kernel, by decide +kernel, rfl, rfl⟩,
    ⟨w, { mc 2 [(8, 4, 128)] with buf := .data (zeros 128) }, zeros 128, 0, by dsimp only; decide +kernel⟩,
    ⟨{ w with mig.restored := [0] },
    { mc 2 [(8, 4, 128)] with buf := .data (pat 128 [(0, 4, 1414551895), (4, 2, 1), (16, 4, 128)]) },
    pat 128 [(0, 4, 1414551895), (4, 2, 1), (16, 4, 128)], _, by decide +kernel, by decide +kernel, by decide +kernel,
    rfl⟩,
    ⟨{ w with mig.restored := [0] }, zeros 128, by decide +kernel⟩,
    ⟨w, pat 128 [(32, 4, 11)], 1, by decide +kernel⟩,
    ⟨w, pat 128 [(32, 4, 10), (36, 4, 11)], 1, by decide +kernel⟩,
    ⟨{ w with flow.handles := [(109, false)] }, pat 128 [(32, 4, 10), (36, 4, 10)], 1, 109, false, by decide +kernel⟩,
    ⟨[], by decide +kernel⟩,
    ⟨pat 128 [(0, 4, 0x54505957)], by decide +kernel⟩,
    ⟨511, by decide +kernel⟩,
    ⟨[4], by decide +kernel⟩,
    ⟨[3], by decide +kernel⟩,
    ⟨13, by decide +kernel⟩⟩

/-- The hypotheses of `Obligations.StepTakesTheFrontCommand` can be met, clause by clause. -/
theorem test_witness_StepTakesTheFrontCommand :
    ∃ (c : Instr) (rest : List Instr) (s : State), s.pending = c :: rest :=
  ⟨.helmDbgHalt, [], { w with pending := [.helmDbgHalt] }, by decide +kernel⟩

/-- The hypotheses of `Obligations.IdleStepPassesOneClock` can be met, clause by clause. -/
theorem test_witness_IdleStepPassesOneClock :
    (∃ (s : State), s.pending = [] ∧ s.inRun 12 = false) ∧
    (∃ (s : State), s.pending = [] ∧ s.inRun 12 = true ∧ (s.time.quality = .locked ∨ s.time.quality = .unknown) ∧
    s.time.ppsOffAt = none) ∧
    (∃ (s : State), s.pending = [] ∧ s.inRun 12 = true ∧ s.time.quality = .holdover ∧ s.time.ppsOffAt = none ∧
    s.time.boundAt ≤ s.now ∧ (s.now + 1 - s.time.boundAt) % msTicks = 0 ∧ s.time.boundOver = 0 ∧
    s.time.bound + s.time.cfg.holdoverPpb ≤ s.time.cfg.boundMaxMs * 1000000 ∧ s.time.cfg.boundMaxMs ≤ 4294) ∧
    (∃ (s : State), s.pending = [] ∧ s.inRun 12 = true ∧ s.time.quality = .locked ∧
    s.time.ppsOffAt = some (s.now + 1)) :=
  ⟨⟨{ w with power.dom := (List.replicate 14 .run).set 12 .stop }, by decide +kernel⟩,
    ⟨w, by decide +kernel⟩,
    ⟨{ w with time.quality := .holdover, time.boundAt := 999998750001, time.bound := 999998000 }, by decide +kernel⟩,
    ⟨{ w with time.quality := .locked, time.ppsOffAt := some 1000000000001 }, by decide +kernel⟩⟩

/-- The hypotheses of `Obligations.ResetStartsWithEverythingStopped` can be met, clause by clause. -/
theorem test_witness_ResetStartsWithEverythingStopped :
    ∃ (d : Nat), d < 14 :=
  ⟨13, by decide +kernel⟩

/-- The hypotheses of `Obligations.WaitingCommandsStayWellFormed` can be met, clause by clause. -/
theorem test_witness_WaitingCommandsStayWellFormed :
    ∃ (s : State) (t : State), s.pending.all Instr.wf = true ∧ step s = .next t :=
  ⟨w, _, by decide +kernel, rfl⟩

/-- The hypotheses of `Obligations.CommandsAreCheckedInTheirOrder` can be met, clause by clause. -/
theorem test_witness_CommandsAreCheckedInTheirOrder :
    (∃ (s : State) (op : Op) (c : Cmd), s.waitingEntry op c = none ∧ s.takes op c = false) ∧
    (∃ (s : State) (op : Op) (c : Cmd), s.waitingEntry op c = none ∧
    ((s.ring (cmdRing c)).state ≠ .enabled ∨ (s.ring (cmdRing c)).fetch = (s.ring (cmdRing c)).pi ∨ 8 ≤ (s.inProgress (cmdRing c)).length ∨ s.linkReady = false)) ∧
    (∃ (s : State) (op : Op) (c : Cmd), s.waitingEntry op c = none ∧ s.takes op c = true ∧
    bit c.flags.toNat 6 = true ∧ s.inProgress (cmdRing c) ≠ []) ∧
    (∃ (s : State) (op : Op) (c : Cmd) (a : Accepted) (b : Accepted), s.waitingEntry op c = some a ∧
    bit a.cmd.flags.toNat 6 = true ∧ b ∈ s.inProgress a.ring ∧
    (b.idx - (s.ring a.ring).oldest).toNat < (a.idx - (s.ring a.ring).oldest).toNat) ∧
    (∃ (s : State) (op : Op) (c : Cmd) (a : Accepted), s.waitingEntry op c = none ∧ s.takes op c = true ∧
    a ∈ s.dechan.accepted ∧ a.cmd.inst = c.inst ∧ c.inst ≠ 0xFFFF ∧ isReset op.code = false ∧ a.opcode ≠ 0x0303) ∧
    (∃ (s : State) (op : Op) (c : Cmd) (a : Accepted) (b : Accepted), s.waitingEntry op c = some a ∧
    b ∈ s.dechan.accepted ∧ b.waits = false ∧ s.blocks a.opcode a.cmd b = true) ∧
    (∃ (s : State) (op : Op) (c : Cmd) (a : Accepted), s.waitingEntry op c = some a ∧ s.served a.ring = true ∧
    s.stillWaits a = false ∧ s.bufferWaits op c = false) ∧
    (∃ (s : State) (op : Op) (c : Cmd), s.accepts op c = true ∧ c.own = 0 ∧ op.secure ≠ (c.ring == .sec)) ∧
    (∃ (s : State) (op : Op) (c : Cmd) (i : Nat), s.accepts op c = true ∧ c.own = 0 ∧ op.secure = false ∧
    c.ring = .inst i ∧ op.tenant = false) ∧
    (∃ (s : State) (op : Op) (c : Cmd) (i : Nat), s.accepts op c = true ∧ c.own = 0 ∧ op.secure = false ∧
    c.ring = .inst i ∧ op.tenant = true ∧ op.inst = .inst ∧ c.inst < 512 ∧ c.inst ≠ i % 512) ∧
    (∃ (s : State) (op : Op) (c : Cmd) (m : Nat), s.accepts op c = true ∧ c.own = 0 ∧ op.secure = false ∧
    c.ring = .mgr m ∧ op.mgr = true ∧ op.inst = .inst ∧ 512 ≤ c.inst) ∧
    (∃ (s : State) (op : Op) (c : Cmd) (m : Nat), s.accepts op c = true ∧ c.own = 0 ∧ op.secure = false ∧
    c.ring = .mgr m ∧ op.mgr = true ∧ op.inst = .inst ∧ c.inst < 512 ∧ op.lens.contains c.paramLen = false) ∧
    (∃ (s : State) (op : Op) (c : Cmd) (m : Nat), s.accepts op c = true ∧ c.own = 0 ∧ op.secure = false ∧
    c.ring = .mgr m ∧ op.mgr = true ∧ op.inst = .inst ∧ c.inst < 512 ∧ op.lens.contains c.paramLen = true ∧
    c.addr % 8 ≠ 0) ∧
    (∃ (s : State) (op : Op) (c : Cmd) (i : Nat), s.accepts op c = true ∧ checkEntry op c = none ∧
    cmdTenant c = some i ∧ s.bufferOk op c = false ∧ (s.accept op c).bounds = s.bounds) ∧
    (∃ (s : State) (op : Op) (c : Cmd), s.accepts op c = true ∧ s.bufferWaits op c = true) ∧
    (∃ (op : Op) (c : Cmd), op.asks = false ∧ c.paramLen = 0) ∧
    (∃ (s : State) (op : Op) (c : Cmd), s.accepts op c = true ∧ checkEntry op c = none ∧ s.bufferOk op c = true ∧
    c.paramLen = 0 ∧ s.bufferWaits op c = false ∧ s.hove = true ∧ op.secure = false ∧ op.exempt = false) ∧
    (∃ (s : State) (op : Op) (c : Cmd), s.accepts op c = true ∧ checkEntry op c = none ∧ s.bufferOk op c = true ∧
    c.paramLen = 0 ∧ s.bufferWaits op c = false ∧ s.hove = false ∧ s.inRun 4 = true ∧ s.inRun 12 = false ∧
    op.secure = false ∧ op.needsD12 = true) ∧
    (∃ (s : State) (op : Op) (c : Cmd), s.accepts op c = true ∧ checkEntry op c = none ∧ s.bufferOk op c = true ∧
    c.paramLen = 0 ∧ s.bufferWaits op c = false ∧ s.hove = false ∧ s.inRun 4 = true ∧ s.inRun 12 = true ∧
    op.states ≠ 0 ∧ c.inst < 512 ∧ bit op.states (s.inst c.inst).state.code = false) :=
  ⟨⟨w, { code := 0x0106 }, { mc 65535 [] with ring := .mgr 2 }, by decide +kernel⟩,
    ⟨w, { code := 0x0106 }, { mc 65535 [] with ring := .mgr 2 }, by decide +kernel⟩,
    ⟨{ w with dechan.accepted := [{ ring := 8192, idx := 0, opcode := 0x0203, cmd := mc 1 [], at_ := 0, deadline := 0 }] },
    { code := 0x0106 }, { mc 65535 [] with flags := 64 }, by decide +kernel⟩,
    ⟨{ w with dechan.accepted := [{ ring := 8192, idx := 0, opcode := 0x0202, cmd := mc 1 [], at_ := 0, deadline := 0 }, { ring := 8192, idx := 1, opcode := 0x0106, cmd := { mc 65535 [] with flags := 64 }, at_ := 0, deadline := 0, waits := true }] },
    { code := 0x0106 }, { mc 65535 [] with flags := 64 },
    { ring := 8192, idx := 1, opcode := 0x0106, cmd := { mc 65535 [] with flags := 64 }, at_ := 0, deadline := 0, waits := true },
    { ring := 8192, idx := 0, opcode := 0x0202, cmd := mc 1 [], at_ := 0, deadline := 0 }, by decide +kernel⟩,
    ⟨{ w with dechan.accepted := [{ ring := 8192, idx := 0, opcode := 0x0202, cmd := mc 1 [], at_ := 0, deadline := 0 }] },
    { code := 0x0202, inst := .inst }, mc 1 [],
    { ring := 8192, idx := 0, opcode := 0x0202, cmd := mc 1 [], at_ := 0, deadline := 0 }, by decide +kernel⟩,
    ⟨{ w with dechan.accepted := [{ ring := 8192, idx := 0, opcode := 0x0202, cmd := mc 1 [], at_ := 0, deadline := 0 }, { ring := 8192, idx := 1, opcode := 0x0202, cmd := mc 1 [], at_ := 0, deadline := 0, waits := true }] },
    { code := 0x0202, inst := .inst }, mc 1 [],
    { ring := 8192, idx := 1, opcode := 0x0202, cmd := mc 1 [], at_ := 0, deadline := 0, waits := true },
    { ring := 8192, idx := 0, opcode := 0x0202, cmd := mc 1 [], at_ := 0, deadline := 0 }, by decide +kernel⟩,
    ⟨{ w with dechan.accepted := [{ ring := 8192, idx := 1, opcode := 0x0202, cmd := mc 1 [], at_ := 0, deadline := 0, waits := true }] },
    { code := 0x0202, inst := .inst }, mc 1 [],
    { ring := 8192, idx := 1, opcode := 0x0202, cmd := mc 1 [], at_ := 0, deadline := 0, waits := true },
    by decide +kernel⟩,
    ⟨w, { code := 0x0E01 }, mc 65535 [], by decide +kernel⟩,
    ⟨w, { code := 0x0106 }, { mc 65535 [] with ring := .inst 1 }, 1, by decide +kernel⟩,
    ⟨w, { code := 0x0202, inst := .inst, tenant := true }, { mc 2 [] with ring := .inst 1 }, 1, by decide +kernel⟩,
    ⟨w, { code := 0x0202, inst := .inst }, mc 512 [], 0, by decide +kernel⟩,
    ⟨w, { code := 0x0202, inst := .inst }, mb 511 [] 8 [], 0, by decide +kernel⟩,
    ⟨w, { code := 0x0202, inst := .inst, lens := [8] }, { mb 511 [] 8 [] with addr := 4 }, 0, by decide +kernel⟩,
    ⟨w, { code := 0x0202, inst := .inst, tenant := true, lens := [8] },
    { mb 1 [] 8 [] with ring := .inst 1, addr := 4294967296 }, 1, by decide +kernel⟩,
    ⟨{ w with host.tags := (List.range 1024).map (fun t => (t, .quarantined 0)) }, { code := 0x0601, lens := [128] },
    mb 65535 [] 128 [], by decide +kernel⟩,
    ⟨{ code := 0x0903 }, mc 65535 [], by decide +kernel⟩,
    ⟨{ w with boot.causes := 1 }, { code := 0x0106 }, mc 65535 [], by decide +kernel⟩,
    ⟨{ w with power.dom := (List.replicate 14 .run).set 12 .stop }, { code := 0x0902, needsD12 := true }, mc 65535 [],
    by decide +kernel⟩,
    ⟨w, { code := 0x0202, inst := .inst, states := 4 }, mc 2 [], by decide +kernel⟩⟩

/-- The hypotheses of `Obligations.RepliesEndTheirCommands` can be met, clause by clause. -/
theorem test_witness_RepliesEndTheirCommands :
    (∃ (s : State) (a : Accepted), a.opcode / 256 ≠ 2 ∧ s.now ≤ a.deadline) ∧
    (∃ (s : State) (a : Accepted), s.now ≤ a.deadline ∧ s.dechan.logNext < 2 ^ 32) :=
  ⟨⟨w, { ring := 8193, idx := 0, opcode := 0x0106, cmd := mc 1 [], at_ := 0, deadline := 1000000000000 },
    by decide +kernel⟩,
    ⟨w, { ring := 8193, idx := 0, opcode := 0x0106, cmd := mc 1 [], at_ := 0, deadline := 1000000000000 },
    by decide +kernel⟩⟩

/-- The hypotheses of `Obligations.MemoryWritesStoreTheirOctets` can be met, clause by clause. -/
theorem test_witness_MemoryWritesStoreTheirOctets :
    (∃ (s : State), Mem.wf s.dram = true) ∧
    (∃ (s : State) (b : Bytes) (i : Nat), Mem.wf s.dram = true ∧ i < b.length) ∧
    (∃ (a : Nat) (b : Bytes) (c : Nat), (c < a ∨ a + b.length ≤ c)) ∧
    (∃ (s : State) (a : Nat) (b : Bytes) (e : Nat × Nat × Nat), e ∈ (s.dramWrite a b).mem.errors) ∧
    (∃ (m : Mem) (n : Mem), Mem.wf m = true ∧ Mem.wf n = true ∧ (∀ a, m.read a = n.read a)) :=
  ⟨⟨w, by decide +kernel⟩,
    ⟨w, zeros 8, 7, by decide +kernel⟩,
    ⟨0, zeros 8, 8, by decide +kernel⟩,
    ⟨{ w with mem.errors := [(1, 100, 1)] }, 0, [], (1, 100, 1), by decide +kernel⟩,
    ⟨[(5, 1)], [(5, 1)], by decide, by decide, fun _ => rfl⟩⟩

/-- The hypotheses of `Obligations.HelmInstructionsStayWithinHelm` can be met, clause by clause. -/
theorem test_witness_HelmInstructionsStayWithinHelm :
    ∃ (i : Instr) (s : State) (t : State), ((∃ k o,
    i = .fork k o ∨ i = .exit k o ∨ i = .join k o ∨ i = .wait k o ∨ i = .signal k o ∨ i = .evmap k o ∨ i = .timer k o ∨ i = .settrap k o ∨ i = .chstage k o ∨ i = .chcommit k o ∨ i = .chrecv k o ∨ i = .thrctlResume k o ∨ i = .thrctlKill k o ∨ i = .chcfg k o ∨ i = .class_ k o ∨ i = .break_ k o) ∨ (∃ k w what,
    i = .loadStore k w what) ∨ (∃ k, i = .helmTimerFire k)) ∧ exec i s = .next t :=
  ⟨.fork 0 { rd := 0, rs := 0, rt := 0, imm := 0 }, w, _, .inl ⟨0, _, .inl rfl⟩, rfl⟩

/-- The hypotheses of `Obligations.StagedValuesBecomeTheReflexWrite` can be met, clause by clause. -/
theorem test_witness_StagedValuesBecomeTheReflexWrite :
    (∃ (s : State) (c : Cmd) (x : Slot),
    let op : Op := { code := 0x0808, tenant := true, inst := .inst, needsD12 := true, states := 0x1E };
    let t := s.opened op c; let k := c.inst * 8 + byteAt c.data 0; s.ready op c = true ∧
    bit (byteAt c.data 1) 0 = true ∧ byteAt c.data 0 ≤ 7 ∧ t.slot k = some x ∧ x.state = .loaded ∧
    x.tmpl.auth = false ∧ bit x.tmpl.ports 2 = false ∧ bit x.tmpl.ports 3 = false ∧
    leAt c.data 8 4 ||| x.tmpl.mask = x.tmpl.mask) ∧
    (∃ (s : State) (i : Nat) (k : Nat), i < 512 ∧ k < 8 ∧ s.linkReady = true ∧ s.inRun 12 = true ∧
    (s.inst i).state ≠ .absent) ∧
    (∃ (s : State) (i : Nat) (k : Nat) (hi : W32) (x : Slot), i < 512 ∧ k < 8 ∧ s.linkReady = true ∧
    s.inRun 12 = true ∧ (s.inst i).state = .active ∧ s.slot (i * 8 + k) = some x ∧ x.state = .armed ∧
    x.isHeld = false ∧ hi.toNat < 256 ∧ x.staged.toNat ||| x.tmpl.mask = x.tmpl.mask ∧ x.staged ≠ x.values ∧
    x.held = none ∧ s.slotBusy (i * 8 + k) = false) ∧
    (∃ (s : State) (i : Nat) (k : Nat), i < 512 ∧ k < 8 ∧ s.linkReady = true ∧ s.inRun 12 = true ∧
    (s.inst i).state ≠ .absent) :=
  ⟨⟨{ w with reflex.slots := [(15, { tmpl := { frame := zeros 60, offSt := 0, offSq := 4, offT := 8, offTal := 16, offAuth := 0, ports := 1, auth := false, sqFirst := 0, nretx := 0, interval := [], tal := [], heartbeat := 1000, talHb := 2000, authCtx := 0, authFrom := 0, tagLen := 0, patch := [(20, 1, 0)] }, state := .loaded })] },
    mc 1 [(0, 1, 7), (1, 1, 1), (8, 4, 1)],
    { tmpl := { frame := zeros 60, offSt := 0, offSq := 4, offT := 8, offTal := 16, offAuth := 0, ports := 1, auth := false, sqFirst := 0, nretx := 0, interval := [], tal := [], heartbeat := 1000, talHb := 2000, authCtx := 0, authFrom := 0, tagLen := 0, patch := [(20, 1, 0)] }, state := .loaded },
    by dsimp only; decide +kernel⟩,
    ⟨w, 1, 7, by decide +kernel⟩,
    ⟨{ w with reflex.slots := [(15, { tmpl := { frame := zeros 60, offSt := 0, offSq := 4, offT := 8, offTal := 16, offAuth := 0, ports := 1, auth := false, sqFirst := 0, nretx := 0, interval := [], tal := [], heartbeat := 1000, talHb := 2000, authCtx := 0, authFrom := 0, tagLen := 0, patch := [(20, 1, 0)] }, state := .armed, staged := 1 })] },
    1, 7, 255,
    { tmpl := { frame := zeros 60, offSt := 0, offSq := 4, offT := 8, offTal := 16, offAuth := 0, ports := 1, auth := false, sqFirst := 0, nretx := 0, interval := [], tal := [], heartbeat := 1000, talHb := 2000, authCtx := 0, authFrom := 0, tagLen := 0, patch := [(20, 1, 0)] }, state := .armed, staged := 1 },
    by decide +kernel⟩,
    ⟨w, 1, 7, by decide +kernel⟩⟩

/-- The hypotheses of `Obligations.EntriesPublishedWithOwnAreAnswered` can be met, clause by clause. -/
theorem test_witness_EntriesPublishedWithOwnAreAnswered :
    (∃ (s : State) (op : Op) (c : Cmd), s.accepts op c = true ∧ c.own ≠ 0) ∧
    (∃ (s : State) (op : Op) (c : Cmd), s.accepts op c = true ∧ c.own ≠ 0) ∧
    (∃ (s : State) (c : Cmd), let op : Op := { code := 0x0903, exempt := true }; s.accepts op c = true ∧ c.own ≠ 0) :=
  ⟨⟨w, { code := 0x0106 }, { mc 65535 [] with own := 1 }, by decide +kernel⟩,
    ⟨w, { code := 0x0106 }, { mc 65535 [] with own := 1 }, by decide +kernel⟩,
    ⟨w, { mc 65535 [] with own := 1 }, by dsimp only; decide +kernel⟩⟩

/-- The hypotheses of `Obligations.PpsOutputFollowsItsMode` can be met, clause by clause. -/
theorem test_witness_PpsOutputFollowsItsMode :
    (∃ (s : State), let sec := ((s.tbNs : Int) + s.time.cfg.ppsOut).toNat / nsPerSec; s.inRun 12 = true ∧
    s.time.ppsOutSec < sec) ∧
    (∃ (s : State), ((s.tbNs : Int) + s.time.cfg.ppsOut).toNat / nsPerSec ≤ s.time.ppsOutSec) ∧
    (∃ (s : State) (u : Nat), s.pending = [] ∧ s.inRun 12 = true ∧
    (s.time.quality = .locked ∨ s.time.quality = .unknown) ∧ s.time.ppsOffAt = some u ∧ s.now + 1 < u) ∧
    (∃ (s : State) (u : Nat), s.pending = [] ∧ s.inRun 12 = true ∧
    (s.time.quality = .locked ∨ s.time.quality = .unknown) ∧ s.time.ppsOffAt = some u ∧ u ≤ s.now + 1) :=
  ⟨⟨w, by dsimp only; decide +kernel⟩,
    ⟨{ w with time.ppsOutSec := 1000 }, by decide +kernel⟩,
    ⟨{ w with time.ppsOffAt := some 1000000000002 }, 1000000000002, by decide +kernel⟩,
    ⟨{ w with time.ppsOffAt := some 1000000000001 }, 1000000000001, by decide +kernel⟩⟩

/-- The hypotheses of `Obligations.GrandmasterOnlyWhenCapable` can be met, clause by clause. -/
theorem test_witness_GrandmasterOnlyWhenCapable :
    (∃ (s : State), s.time.cfg.gmCapable = false) ∧
    (∃ (s : State) (k : Nat), s.time.cfg.gmCapable = true ∧ s.ptpPort (Port.ofNum k) = true ∧ s.time.cfg.role ≠ 3) ∧
    (∃ (s : State), s.time.cfg.gmCapable = true) :=
  ⟨⟨w, by decide +kernel⟩,
    ⟨{ w with time.cfg.gmCapable := true, time.cfg.role := 1, time.cfg.ptpA := true }, 0, by decide +kernel⟩,
    ⟨{ w with time.cfg.gmCapable := true }, by decide +kernel⟩⟩

/-- The hypotheses of `Obligations.ClassifierDeletionMovesNothing` can be met, clause by clause. -/
theorem test_witness_ClassifierDeletionMovesNothing :
    ∃ (s : State) (c : Cmd), let op : Op := { code := 0x0503 }; let x := (s.opened op c).clsBank c.handle;
    let pos := leAt c.data 0 2; s.ready op c = true ∧ c.handle < 32 ∧ (s.opened op c).cls.banks.length = 32 ∧
    x.state = .populated ∧ x.entries.sorted = true ∧ pos < x.capacity ∧ x.entries.has pos = true :=
  ⟨{ w with cls.banks := (List.replicate 32 {}).set 31 { state := .populated, width := 1, enable := true, entries := [(2047, { priority := 9, action := 0, steer := 0, pass := false, units := [(0, 1)] })] } },
  { mc 65535 [(0, 2, 2047)] with handle := 31 }, by dsimp only; decide +kernel⟩

/-- The hypotheses of `Obligations.AbsentPagesReadZeroAndRefuseWrites` can be met, clause by clause. -/
theorem test_witness_AbsentPagesReadZeroAndRefuseWrites :
    (∃ (s : State) (i : Nat) (o : Nat), s.linkReady = true ∧ i < 512 ∧ o < 0x1000 ∧ o % 4 = 0 ∧
    (s.inst i).state = .absent ∧ s.snap.find (snapKey 2 (i * 0x1000 + o)) = none) ∧
    (∃ (s : State) (i : Nat) (o : Nat), s.linkReady = true ∧ i < 512 ∧ o < 0x1000 ∧ o % 4 = 0 ∧
    (s.inst i).state = .absent) :=
  ⟨⟨w, 511, 0xFFC, by decide +kernel⟩,
    ⟨w, 511, 0xFFC, by decide +kernel⟩⟩

/-- The hypotheses of `Obligations.StatusLandsShowTheAdapter` can be met, clause by clause. -/
theorem test_witness_StatusLandsShowTheAdapter :
    (∃ (s : State), s.inRun 0 = true) ∧
    (∃ (s : State), s.inRun 0 = false) ∧
    (∃ (s : State), s.inRun 1 = true) ∧
    (∃ (s : State), s.inRun 1 = false) ∧
    (∃ (s : State), s.inRun 2 = true ∧ s.inRun 3 = true) ∧
    (∃ (s : State), s.inRun 2 = false) :=
  ⟨⟨w, by decide +kernel⟩,
    ⟨{ w with power.dom := (List.replicate 14 .run).set 0 .stop }, by decide +kernel⟩,
    ⟨w, by decide +kernel⟩,
    ⟨{ w with power.dom := (List.replicate 14 .run).set 1 .stop }, by decide +kernel⟩,
    ⟨w, by decide +kernel⟩,
    ⟨{ w with power.dom := (List.replicate 14 .run).set 2 .stop }, by decide +kernel⟩⟩

end Sys2Proof.Tests
end

/-!
The time base (chapter 03): the PPS output (R76), and who may be grandmaster (R73).
-/

namespace Sys2Proof.Machine

open Sys2Proof

/-! ### The clock that passes on an empty queue -/

theorem step_of_pending_nil {s : State} (h : s.pending = []) : step s = .next s.tick := by
  rw [step, h]

/-- R79: the bound grows in HOLDOVER and RECKONED only. -/
theorem boundGrowth_of_locked_or_unknown {s : State} (h : s.time.quality = .locked ∨ s.time.quality = .unknown) :
    s.boundGrowth = s := by
  have hstill : ¬(s.time.quality = .holdover ∨ s.time.quality = .reckoned) := by
    rcases h with h | h <;> simp [h]
  rw [State.boundGrowth]
  exact if_neg fun hgrows => hstill hgrows.1

theorem edge_ppsOffAt (t : TimeSt) : t.edge.ppsOffAt = t.ppsOffAt := by cases t; rfl

/-- Where the bound does not grow, one clock adds the increment, and ends the pulse whose time has come. -/
theorem tick_of_pulse {s : State} {u : Nat} (hrun : s.inRun 12 = true)
    (hq : s.time.quality = .locked ∨ s.time.quality = .unknown) (hu : s.time.ppsOffAt = some u) :
    s.tick = if u ≤ s.now + 1
      then State.emit { s with now := s.now + 1, time := { s.time.edge with ppsOffAt := none } } (.land .ppsOut false)
      else { s with now := s.now + 1, time := s.time.edge } := by
  have hrun' : State.inRun { s with now := s.now + 1 } 12 = true := hrun
  have hgrow : State.boundGrowth { s with now := s.now + 1, time := s.time.edge } =
      { s with now := s.now + 1, time := s.time.edge } :=
    boundGrowth_of_locked_or_unknown (by simpa only [edge_quality] using hq)
  simp only [State.tick, hrun', hgrow, edge_ppsOffAt, hu]
  exact if_neg (by decide)

/-! ### The PPS output (R76) -/

/-- The whole second of the time base, advanced by PPS_OUT_DELAY, that the output has reached. -/
def State.ppsSecond (s : State) : Nat := ((s.tbNs : Int) + s.time.cfg.ppsOut).toNat / nsPerSec

/-- A second that the output has not reached yet is taken once, with an edge where the mode allows it. -/
theorem exec_ppsOutPulse (s : State) :
    exec .ppsOutPulse s =
      if !s.inRun 12 || decide (s.ppsSecond ≤ s.time.ppsOutSec) then .next s
      else if s.time.ppsAllowed then
        .next (State.emit { s with time := { s.time with
          ppsOutSec := s.ppsSecond, ppsOffAt := some (s.now + s.time.cfg.ppsWidth * 5 / 4) } } (.land .ppsOut true))
      else .next { s with time.ppsOutSec := s.ppsSecond } := by
  rfl

theorem ppsOutPulse_of_no_new_second {s : State} (h : s.ppsSecond ≤ s.time.ppsOutSec) :
    exec .ppsOutPulse s = .next s := by
  rw [exec_ppsOutPulse, if_pos (by simp [h])]

theorem ppsOutPulse_of_new_second {s : State} (hrun : s.inRun 12 = true) (h : s.time.ppsOutSec < s.ppsSecond) :
    exec .ppsOutPulse s = .next (if s.time.ppsAllowed
      then State.emit { s with time := { s.time with
        ppsOutSec := s.ppsSecond, ppsOffAt := some (s.now + s.time.cfg.ppsWidth * 5 / 4) } } (.land .ppsOut true)
      else { s with time.ppsOutSec := s.ppsSecond }) := by
  rw [exec_ppsOutPulse, if_neg (by simp [hrun, h])]
  exact (apply_ite Host.Outcome.next _ _ _).symm

/-- Settles O56: a new second is taken as the mode says, and the pulse in progress is ended by the clock alone, which does not ask
for the mode. -/
theorem ppsOutputFollowsItsMode : Obligations.PpsOutputFollowsItsMode := by
  refine ⟨fun _ => rfl, fun s hrun h => ppsOutPulse_of_new_second hrun h, fun s h => ppsOutPulse_of_no_new_second h, ?_, ?_⟩
  · intro s u hnil hrun hq hu hlt
    rw [step_of_pending_nil hnil, tick_of_pulse hrun hq hu, if_neg (Nat.not_le.2 hlt)]
  · intro s u hnil hrun hq hu hle
    rw [step_of_pending_nil hnil, tick_of_pulse hrun hq hu, if_pos hle]

/-! ### The grandmaster (R73) -/

/-- What the algorithm decides where no other clock is announced. -/
theorem portDecision_none (s : State) (k : Nat) :
    s.portDecision none k =
      if !s.ptpPort (Port.ofNum k) then .disabled
      else if s.time.cfg.role = 3 then .listening
      else if s.time.cfg.gmCapable then .master else .listening := rfl

/-- R73: with no other clock announced, the ports that are master are the PTP ports of a GM_CAPABLE adapter whose ROLE is not TC only (3). -/
theorem portDecision_none_eq_master_iff (s : State) (k : Nat) :
    s.portDecision none k = .master ↔
      s.ptpPort (Port.ofNum k) = true ∧ s.time.cfg.role ≠ 3 ∧ s.time.cfg.gmCapable = true := by
  rw [portDecision_none]
  split_ifs <;> simp_all

theorem ownAnnounce_clockClass (s : State) :
    s.ownAnnounce.clockClass = if s.time.cfg.gmCapable then s.time.cfg.clockClass else 255 := rfl

/-- Settles O57: without another clock's Announce only GM_CAPABLE makes a port master, and it chooses the announced clockClass. -/
theorem grandmasterOnlyWhenCapable : Obligations.GrandmasterOnlyWhenCapable := by
  refine ⟨fun s k hgm => ⟨fun hmaster => ?_, ?_⟩, fun s k hgm hport hrole => ?_, fun s hgm => ⟨?_, rfl, rfl, rfl⟩⟩
  · obtain ⟨-, -, hcapable⟩ := (portDecision_none_eq_master_iff s k).1 hmaster
    exact Bool.false_ne_true (hgm.symm.trans hcapable)
  · rw [ownAnnounce_clockClass, hgm]; rfl
  · exact (portDecision_none_eq_master_iff s k).2 ⟨hport, hrole, hgm⟩
  · rw [ownAnnounce_clockClass, if_pos hgm]

end Sys2Proof.Machine

/-!
The reflex path (chapter 05): the staging register of a slot, from its arming to the write that takes it (R124, R126, R127).
-/

namespace Sys2Proof.Machine

open Sys2Proof

/-! ### Slots -/

@[simp] theorem slot_setSlot_same (s : State) (k : Nat) (x : Slot) : (s.setSlot k x).slot k = some x :=
  KMap.find_put_same s.reflex.slots k x

/-- R127, R134: what a new state leaves in its slot. -/
@[simp] theorem slot_newState_same (s : State) (k : Nat) (x : Slot) (since : Option Nat) :
    (s.newState k x since).slot k = some { x with
      sqNum := BitVec.ofNat 32 x.tmpl.sqFirst, t := s.utcTime, tNs := s.tbNs, staged := x.values, step := 1
      due := some (s.tbNs + x.tmpl.gap 0) } :=
  slot_setSlot_same _ k _

/-! ### Arming (R124) -/

/-- What ARM 1 makes of a slot: ARMED and free of holds, its values both published and staged. -/
def Slot.armedBy (x : Slot) (d : Bytes) : Slot :=
  { x with
    state := .armed, heldHove := false, heldKey := false
    values := BitVec.ofNat 32 (leAt d 8 4), staged := BitVec.ofNat 32 (leAt d 8 4)
    stNum := if bit (byteAt d 1) 1 then nextNum x.stNum
      else if BitVec.ofNat 32 (leAt d 4 4) = 0 then 1 else BitVec.ofNat 32 (leAt d 4 4)
    step := 0, due := none, held := none }

/-- A slot whose template names neither a key nor a ring port is armed once its values lie within the patch mask, and publishes where
its instance lets it. -/
theorem slotArm_of_plain {c : Cmd} {k : Nat} {x : Slot} {s : State} (hauth : x.tmpl.auth = false)
    (hc : bit x.tmpl.ports 2 = false) (hd : bit x.tmpl.ports 3 = false) (hmask : leAt c.data 8 4 ||| x.tmpl.mask = x.tmpl.mask) :
    slotArm c k x s =
      let t := s.setSlot k (x.armedBy c.data)
      Reply.ok (if t.publishing k then t.newState k (x.armedBy c.data) none else t) := by
  simp only [slotArm, hauth, hc, hd, hmask, Bool.or_self, Bool.false_eq_true, false_and, ne_eq, not_true_eq_false, if_false]
  rfl

/-- ARM 1 on a LOADED slot comes to its arming. -/
theorem reflexArmBody_of_loaded {c : Cmd} {s : State} {x : Slot} (harm : bit (byteAt c.data 1) 0 = true)
    (hn : byteAt c.data 0 ≤ 7) (hx : s.slot (c.inst * 8 + byteAt c.data 0) = some x) (hloaded : x.state = .loaded) :
    reflexArmBody c s = slotArm c (c.inst * 8 + byteAt c.data 0) x s := by
  simp [reflexArmBody, harm, hx, hloaded, Nat.not_lt.2 hn]

/-- Published at once or not, an armed slot stages the values that it publishes. -/
theorem slotArm_stages_values {c : Cmd} {k : Nat} {x : Slot} {s : State} (hauth : x.tmpl.auth = false)
    (hc : bit x.tmpl.ports 2 = false) (hd : bit x.tmpl.ports 3 = false) (hmask : leAt c.data 8 4 ||| x.tmpl.mask = x.tmpl.mask) :
    ∃ y, (slotArm c k x s).st.slot k = some y ∧ y.state = .armed ∧ y.values = BitVec.ofNat 32 (leAt c.data 8 4) ∧
      y.staged = y.values := by
  rw [slotArm_of_plain hauth hc hd hmask]
  dsimp only [reply_ok_st]
  split
  · exact ⟨_, slot_newState_same .., rfl, rfl, rfl⟩
  · exact ⟨_, slot_setSlot_same .., rfl, rfl, rfl⟩

/-- A reply leaves the slots as the command's body left them. -/
theorem slot_finish (r : Reply) (a : Accepted) (k : Nat) : (r.finish a).slot k = r.st.slot k := by
  simp [State.slot]

theorem exec_reflexArm_of_arm {c : Cmd} {s : State} (harm : bit (byteAt c.data 1) 0 = true) :
    exec (.reflexArm c) s = .next (s.runCmd { code := 0x0808, tenant := true, inst := .inst, needsD12 := true, states := 0x1E } c
      (fun _ s => reflexArmBody c s)) := by
  have hop : opReflexArm c = { code := 0x0808, tenant := true, inst := .inst, needsD12 := true, states := 0x1E } := by
    simp [opReflexArm, harm]
  rw [← hop]
  rfl

/-! ### Writes of a slot's halves (R126, R127) -/

/-- The staging register of slot `k` written; nothing where the slot is EMPTY. -/
def State.stageLo (s : State) (k : Nat) (lo : W32) : State :=
  { s with reflex.slots := s.reflex.slots.upd k (fun x => { x with staged := lo }) }

theorem slotIndex_of_lt {i k : Nat} (hinst : i < 512) (hslot : k < 8) : i % 512 * 8 + k % 8 = i * 8 + k := by omega

theorem slotIndex_div {i k : Nat} (hslot : k < 8) : (i * 8 + k) / 8 = i := by omega

theorem slotReach_of {s : State} (hlink : s.linkReady = true) (hrun : s.inRun 12 = true) : s.slotReach = true := by
  rw [State.slotReach, hlink, hrun, Bool.and_self]

section
variable {s : State} {i k : Nat} (hinst : i < 512) (hslot : k < 8) (hreach : s.slotReach = true)
include hinst hslot hreach

/-- A write of LO that reaches the page of a present instance stages it. -/
theorem exec_reflexStage_of_present (hpresent : (s.inst i).state ≠ .absent) (lo : W32) :
    exec (.reflexStage i k lo) s = .next (s.stageLo (i * 8 + k) lo) := by
  change execReflexStage i k lo s = _
  simp only [execReflexStage, slotIndex_of_lt hinst hslot, slotIndex_div hslot, hreach, hpresent, Bool.not_true,
    Bool.false_eq_true, if_false]
  rfl

/-- A request over both halves is the write of HI after LO has been staged. -/
theorem exec_reflexWrite_both_halves (hpresent : (s.inst i).state ≠ .absent) (lo hi : W32) :
    exec (.reflexWrite i k (some lo) hi) s = exec (.reflexWrite i k none hi) (s.stageLo (i * 8 + k) lo) := by
  have hreach' : (s.stageLo (i * 8 + k) lo).slotReach = true := hreach
  have hpresent' : ((s.stageLo (i * 8 + k) lo).inst i).state ≠ .absent := hpresent
  change execReflexWrite i k (some lo) hi s = execReflexWrite i k none hi (s.stageLo (i * 8 + k) lo)
  simp only [execReflexWrite, slotIndex_of_lt hinst hslot, slotIndex_div hslot, hreach, hpresent, hreach', hpresent', Bool.not_true,
    Bool.false_eq_true, if_false]
  rfl

/-- A write of HI to an ARMED slot of an ACTIVE instance is a reflex write. -/
theorem exec_reflexWrite_of_armed {x : Slot} (hactive : (s.inst i).state = .active) (hx : s.slot (i * 8 + k) = some x)
    (harmed : x.state = .armed) (hfree : x.isHeld = false) (hi : W32) :
    exec (.reflexWrite i k none hi) s = .next (s.reflexArmed (i * 8 + k) x hi) := by
  change execReflexWrite i k none hi s = _
  simp [execReflexWrite, slotIndex_of_lt hinst hslot, slotIndex_div hslot, hreach, hactive, hx, slotCode, harmed, hfree]

end

/-- Values that differ from the published ones make a new state (R127). -/
theorem reflexApply_of_changed {x : Slot} {lo : W32} (h : lo ≠ x.values) (s : State) (k : Nat) (hi : W32) (since : Nat) :
    s.reflexApply k x lo hi since =
      s.newState k { x with values := lo, seq := BitVec.ofNat 8 hi.toNat, stNum := nextNum x.stNum } (some since) :=
  if_neg fun hsame => h hsame.1

/-- A write whose HI holds SEQ only and whose staged values fit the patch mask is carried out at once where no frame is in its way
(R127, R129). -/
theorem reflexArmed_of_idle {s : State} {k : Nat} {x : Slot} {hi : W32} (hseq : hi.toNat < 256)
    (hmask : x.staged.toNat ||| x.tmpl.mask = x.tmpl.mask) (hheld : x.held = none) (hbusy : s.slotBusy k = false) :
    s.reflexArmed k x hi = s.reflexApply k x x.staged hi s.now := by
  have hreserved : hi.toNat / 1024 = 0 := Nat.div_eq_of_lt (by omega)
  have hrecord : bit hi.toNat 9 = false := Nat.testBit_lt_two_pow (by omega)
  simp [State.reflexArmed, hreserved, hrecord, hmask, hheld, hbusy]

/-- Settles O54: arming and every new state set the staging register to the published values, LO alone writes it, and HI publishes it. -/
theorem stagedValuesBecomeTheReflexWrite : Obligations.StagedValuesBecomeTheReflexWrite := by
  refine ⟨fun s k x since => ?_, ?_, ?_, ?_, ?_⟩
  · rw [slot_newState_same]; rfl
  · intro s c x op t k hready harm hn hx hloaded hauth hc hd hmask
    refine ⟨_, exec_reflexArm_of_arm harm, ?_⟩
    rw [runCmd_plain hready rfl, reflexArmBody_of_loaded harm hn hx hloaded]
    simpa only [slot_finish] using slotArm_stages_values hauth hc hd hmask
  · intro s i k lo hinst hslot hlink hrun hpresent
    exact exec_reflexStage_of_present hinst hslot (slotReach_of hlink hrun) hpresent lo
  · intro s i k hi x hinst hslot hlink hrun hactive hx harmed hfree hseq hmask hchanged hheld hbusy
    rw [exec_reflexWrite_of_armed hinst hslot (slotReach_of hlink hrun) hactive hx harmed hfree,
      reflexArmed_of_idle hseq hmask hheld hbusy, reflexApply_of_changed hchanged]
  · intro s i k lo hi hinst hslot hlink hrun hpresent
    exact exec_reflexWrite_both_halves hinst hslot (slotReach_of hlink hrun) hpresent lo hi

end Sys2Proof.Machine

/-!
The range classifier (chapter 07): CLS_DELETE (R175, R189) while D7 is in Stop.
-/

namespace Sys2Proof.Machine

open Sys2Proof

/-! ### Bank commands while D7 is in Stop (log entry 136) -/

@[simp] theorem inRun_opened (s : State) (op : Op) (c : Cmd) (d : Nat) : (s.opened op c).inRun d = s.inRun d := by
  simp [State.inRun]

/-- A bank that exists cannot be reached: the reply is BUSY, whatever the command would do. -/
theorem clsBankBody_of_stopped {s : State} {c : Cmd} (hbank : c.handle < 32) (hstop : s.inRun 7 = false)
    (body : ClsBank → State → Reply) : clsBankBody c body s = Reply.no s 9 0 := by
  rw [clsBankBody, if_neg (Nat.not_le.2 hbank), hstop]
  rfl

theorem clsDelete_busy_of_stopped {s : State} {c : Cmd} (hready : s.ready { code := 0x0503 } c = true)
    (hbank : c.handle < 32) (hstop : s.inRun 7 = false) :
    Answers (.clsDelete c) s { code := 0x0503 } c (Reply.no (s.opened { code := 0x0503 } c) 9 0) :=
  answers_of rfl hready rfl (clsBankBody_of_stopped hbank ((inRun_opened ..).trans hstop) _)

/-- So the deletion leaves every bank as it was, the entry it names included. -/
theorem clsDelete_keeps_banks_of_stopped {s : State} {c : Cmd} (hready : s.ready { code := 0x0503 } c = true)
    (hbank : c.handle < 32) (hstop : s.inRun 7 = false) :
    Completes (.clsDelete c) s (fun t => ∀ b, t.clsBank b = s.clsBank b) :=
  ⟨_, clsDelete_busy_of_stopped hready hbank hstop, fun b => by simp [State.clsBank]⟩

/-! ### A deletion that finds D7 in Stop -/

/-- D4 alone has a vote cast: the frame path has stopped, D7 with it, while D2, D3, D4 and D11, which do not require D7 (Table 1-3), serve
the manager's rings. Bank 3 retains one entry, at position 5 (R184). -/
def classifierStopped : State :=
  { host := { perstHigh := true, linkUp := true, ready := true, cfg0 := { memEn := true, bme := true } }
    power := { vin12 := true, hasRun := List.replicate 14 true, votes := (List.replicate 14 0).set 4 1
               dom := [.run, .stop, .run, .run, .run, .stop, .stop, .stop, .stop, .stop, .stop, .run, .stop, .stop] }
    boot := { phase := .running, causes := 0 }
    rings := [(8193, { state := .enabled, pi := 1 })]
    cls := { banks := (List.replicate 32 {}).set 3 { state := .populated, width := 1, enable := true, entries :=
      [(5, { priority := 9, action := 0, steer := 0, pass := false, units := [(0, 1)] })] } } }

/-- CLS_DELETE of position 5 of bank 3, from manager ring 1. -/
def deletePosition5 : Cmd :=
  { ring := .mgr 1, seq := 0, inst := 0xFFFF, paramLen := 0, handle := 3, flags := 0, addr := 0
    data := leBytes 2 5 ++ zeros 34, own := 0, buf := .data [] }

theorem ready_deletePosition5 : classifierStopped.ready { code := 0x0503 } deletePosition5 = true := by decide

/-- Refutes O58: the hypotheses do not ask for D7 in Run. With D7 in Stop the command passes the common checks, replies BUSY, and the
entry that it names stays where it was. -/
theorem not_classifierDeletionMovesNothing : ¬ Obligations.ClassifierDeletionMovesNothing := by
  unfold Obligations.ClassifierDeletionMovesNothing
  intro h
  obtain ⟨t, hexec, hfree, -⟩ := h classifierStopped deletePosition5 ready_deletePosition5 (by decide) (by decide) (by decide)
    (by decide) (by decide) (by decide)
  obtain ⟨u, hexec', hbanks⟩ := clsDelete_keeps_banks_of_stopped ready_deletePosition5 (by decide) (by decide)
  obtain rfl : t = u := Host.Outcome.next.inj (hexec.symm.trans hexec')
  have hkept : ((classifierStopped.clsBank 3).entries.find 5).isSome = true := by decide
  have hgone : (classifierStopped.clsBank 3).entries.find 5 = none := hbanks 3 ▸ hfree
  simp [hgone] at hkept

end Sys2Proof.Machine

/-!
The page of an ABSENT instance (chapter 13): reads of it, writes to it and the violation that a write records (R316).
-/

namespace Sys2Proof.Machine

open Sys2Proof

/-! ### The log of PF 0 keeps its records while an error is reported -/

@[simp] theorem issue_viol0 (s : State) (fn : Fn) (o : Output) : (s.issue fn o).err.viol0 = s.err.viol0 := by
  simp only [State.issue]
  (repeat' split) <;> simp

@[simp] theorem msi_viol0 (s : State) (fn : Fn) (v : Nat) : (s.msi fn v).err.viol0 = s.err.viol0 := by
  simp only [State.msi]
  (repeat' split) <;> simp

@[simp] theorem event_viol0 (s : State) (b : Nat) : (s.event b).err.viol0 = s.err.viol0 := by
  simp only [State.event]
  split <;> simp

@[simp] theorem errBit_viol0 (s : State) (k : Nat) : (s.errBit k).err.viol0 = s.err.viol0 := by
  simp only [State.errBit]
  split <;> simp

/-- R452: the record of a violation of PF 0, in the entry of the log that is next. -/
def State.violRecPf0 (s : State) (kind detail addr : Nat) : ViolRec :=
  { ns := s.stampNs, sec := s.stampSec, kind := kind, srcType := 1, srcId := 0, detail := detail, addr := addr
    seq := s.err.violNext0 }

theorem violPf0_find_next (s : State) (kind detail addr : Nat) :
    (s.violPf0 kind detail addr).err.viol0.find (s.err.violNext0 % 256) = some (s.violRecPf0 kind detail addr) :=
  (congrArg (KMap.find · _) (errBit_viol0 ..)).trans (KMap.find_put_same ..)

/-! ### One Dword of BAR 2 -/

section
variable {s : State} {off : Nat} (hlink : s.linkReady = true) (hoff : off < 2 ^ 22) (halign : off % 4 = 0)
include hlink hoff halign

theorem exec_registerRead_bar2 : exec (.registerRead .pf0 2 ⟨off, false⟩) s =
    .next ((s.pf0Read 2 off).2.emit (.cpl .sc (leBytes 4 (s.pf0Read 2 off).1))) := by
  have hdw : off / 4 * 4 = off := Nat.div_mul_cancel (Nat.dvd_of_mod_eq_zero halign)
  have hin : ¬barSize .pf0 2 ≤ off := Nat.not_le.2 hoff
  change execRegisterRead .pf0 2 ⟨off, false⟩ s = _
  simp [execRegisterRead, hdw, hlink, hin, State.readDw, State.readEnd]

theorem exec_registerWrite_bar2 (v : W32) (be : Nat) :
    exec (.registerWrite .pf0 2 off v ⟨be, []⟩) s = .next (s.bar2Write off v.toNat be) := by
  have hdw : off / 4 * 4 = off := Nat.div_mul_cancel (Nat.dvd_of_mod_eq_zero halign)
  have hin : ¬barSize .pf0 2 ≤ off := Nat.not_le.2 hoff
  change execRegisterWrite .pf0 2 off v ⟨be, []⟩ s = _
  simp [execRegisterWrite, hdw, hlink, hin, accessOk, halign, State.writeDw, State.writeMore]

end

/-- A register without a snapshot reads what it holds. -/
theorem pf0Read_value_of_unsnapped {s : State} {bar off : Nat} (h : s.snap.find (snapKey bar off) = none) :
    (s.pf0Read bar off).1 = s.pf0Reg bar off := by
  simp [State.pf0Read, h]

/-! ### The page of an ABSENT instance -/

section
variable {s : State} {i o : Nat} (hinst : i < 512) (hpage : o < 0x1000)
include hinst hpage

theorem instPage_lt : i * 0x1000 + o < 0x200000 := by omega

omit hinst in
theorem instPage_div : (i * 0x1000 + o) / 0x1000 = i := by omega

variable (habsent : (s.inst i).state = .absent)
include habsent

theorem bar2Reg_of_absent : s.bar2Reg (i * 0x1000 + o) = 0 := by
  simp only [State.bar2Reg, instPage_lt hinst hpage, instPage_div hpage, habsent, if_true]

theorem bar2Write_of_absent (v be : Nat) : s.bar2Write (i * 0x1000 + o) v be = s.violPf0 2 i (i * 0x1000 + o) := by
  simp only [State.bar2Write, instPage_lt hinst hpage, instPage_div hpage, habsent, if_true]

end

/-- Settles O59: on the page of an ABSENT instance a read of an unsnapshotted Dword returns zero, and a write is the PAGE_ABSENT
violation of PF 0 alone. -/
theorem absentPagesReadZeroAndRefuseWrites : Obligations.AbsentPagesReadZeroAndRefuseWrites := by
  have halign {i o : Nat} (h : o % 4 = 0) : (i * 0x1000 + o) % 4 = 0 := by omega
  have hbar {i o : Nat} (hinst : i < 512) (hpage : o < 0x1000) : i * 0x1000 + o < 2 ^ 22 :=
    (instPage_lt hinst hpage).trans (by decide)
  refine ⟨?_, ?_, ?_, ?_⟩
  · intro s i o hlink hinst hpage ho habsent hsnap
    have hzero : (s.pf0Read 2 (i * 0x1000 + o)).1 = 0 :=
      (pf0Read_value_of_unsnapped hsnap).trans (bar2Reg_of_absent hinst hpage habsent)
    refine ⟨_, exec_registerRead_bar2 hlink (hbar hinst hpage) (halign ho), ?_, rfl⟩
    rw [hzero]
    rfl
  · intro s i o v be hlink hinst hpage ho habsent
    rw [exec_registerWrite_bar2 hlink (hbar hinst hpage) (halign ho), bar2Write_of_absent hinst hpage habsent]
  · intro s i o
    exact ⟨_, violPf0_find_next s 2 i o, rfl, rfl, rfl, rfl⟩
  · intro s i o
    simp [SamePath, SameGrid, SameInst, SameRings, SameProc]

end Sys2Proof.Machine

/-!
The entry of a Dechan command (chapter 14): one published with a nonzero OWN (R342), from its acceptance to its reply.
-/

namespace Sys2Proof.Machine

open Sys2Proof

/-! ### The command registers across acceptance and reply (R343) -/

/-- Acceptance counts the command and makes it the current one. -/
theorem accept_dechan (s : State) (op : Op) (c : Cmd) :
    (s.accept op c).dechan = { s.dechan with cnt := s.dechan.cnt.inc 0, cur := (s.ring (cmdRing c)).fetch } := by
  simp [State.accept, State.acceptance]

/-- A reply other than OK that is in time and is not logged is counted once, and its command is no longer in progress. -/
theorem reply_dechan_of_refusal {s : State} {a : Accepted} {status : Nat} (hstatus : status ≠ 0) (hintime : s.now ≤ a.deadline)
    (hlog : logged status a.opcode = false) (detail : Nat) (data buf : Bytes) :
    (s.reply a status detail data buf).dechan =
      { s.dechan with
        cnt := s.dechan.cnt.inc 1
        accepted := s.dechan.accepted.filter (fun b => !(b.ring == a.ring && b.idx == a.idx)) } := by
  simp [State.reply, hstatus, Nat.not_lt.2 hintime, hlog]

/-- A reply that is written at once leaves the command registers as its posting leaves them. -/
theorem finish_dechan_of_now {r : Reply} (hnow : r.later = false) (a : Accepted) :
    (r.finish a).dechan =
      ((r.st.postRing a.ring (a.cmd.addr + r.bufOff) r.buf).reply a r.status r.detail r.data []).dechan := by
  simp only [Reply.finish, hnow, Bool.false_eq_true, if_false]
  split <;> simp

/-- R360: BAD_PARAM is logged for commands on instances alone. -/
theorem logged_badParam (opcode : Nat) : logged 3 opcode = (opcode / 256 == 2) := rfl

theorem finish_bad_dechan {s : State} {a : Accepted} (hintime : s.now ≤ a.deadline) (hclass : a.opcode / 256 ≠ 2) (off : Nat) :
    ((Reply.bad s off).finish a).dechan =
      { s.dechan with
        cnt := s.dechan.cnt.inc 1
        accepted := s.dechan.accepted.filter (fun b => !(b.ring == a.ring && b.idx == a.idx)) } := by
  have hlog : logged 3 a.opcode = false := by rw [logged_badParam, beq_eq_false_iff_ne]; exact hclass
  rw [finish_dechan_of_now rfl]
  simp only [Reply.bad]
  rw [reply_dechan_of_refusal (by decide) (by simpa using hintime) hlog]
  simp

/-! ### An entry published with a nonzero OWN (R342) -/

section
variable {c : Cmd} (hown : c.own ≠ 0)
include hown

/-- The first of the common checks of Table 14-3 is that of OWN. -/
theorem checkEntry_of_own (op : Op) : checkEntry op c = some (3, 60) := by
  rw [checkEntry, if_pos hown]

/-- The entry does not stand until a tag is usable: its parameter buffer is not read. -/
theorem bufferWaits_of_own (s : State) (op : Op) : s.bufferWaits op c = false := by
  simp [State.bufferWaits, checkEntry_of_own hown]

theorem checked_of_own (s : State) (op : Op) (body : Bytes → State → Reply) :
    s.checked op c body = Reply.bad { s with dechan.cnt := s.dechan.cnt.inc 3 } 60 := by
  simp only [State.checked, checkEntry_of_own hown]
  exact if_pos hown

theorem runCmd_of_own {s : State} {op : Op} (haccepts : s.accepts op c = true) (body : Bytes → State → Reply) :
    s.runCmd op c body =
      (Reply.bad { s.accept op c with dechan.cnt := (s.accept op c).dechan.cnt.inc 3 } 60).finish (s.acceptance op c) := by
  rw [State.runCmd, serveEntry_accepts haccepts, bufferWaits_of_own hown, checked_of_own hown]
  rfl

/-- Outside the class of the instance commands, whose replies are all logged (R360), the entry is counted as accepted, as published
with a nonzero OWN and as refused, and it is no longer in progress. -/
theorem runCmd_dechan_of_own {s : State} {op : Op} (haccepts : s.accepts op c = true) (hclass : op.code / 256 ≠ 2)
    (body : Bytes → State → Reply) :
    (s.runCmd op c body).dechan =
      { s.dechan with
        cnt := ((s.dechan.cnt.inc 0).inc 3).inc 1
        cur := (s.ring (cmdRing c)).fetch
        accepted := s.dechan.accepted.filter (fun b => !(b.ring == cmdRing c && b.idx == (s.ring (cmdRing c)).fetch)) } := by
  rw [runCmd_of_own hown haccepts, finish_bad_dechan ?intime hclass]
  case intime => simp [State.acceptance]
  simp [accept_dechan, State.acceptance]

theorem runCmd_time_of_own {s : State} {op : Op} (haccepts : s.accepts op c = true) (body : Bytes → State → Reply) :
    (s.runCmd op c body).time = s.time := by
  rw [runCmd_of_own hown haccepts]
  simp

end

/-- Settles O55: OWN is the first common check, so the entry is answered before its parameter buffer is read, whatever its opcode's body
would do. -/
theorem entriesPublishedWithOwnAreAnswered : Obligations.EntriesPublishedWithOwnAreAnswered := by
  refine ⟨?_, ?_, ?_⟩
  · intro s op c body haccepts hown
    exact runCmd_of_own hown haccepts body
  · intro s op c body body' haccepts hown
    rw [runCmd_of_own hown haccepts body, runCmd_of_own hown haccepts body']
  · intro s c op haccepts hown
    have hdechan := runCmd_dechan_of_own hown haccepts (by decide) (fun _ s => Reply.ok s s.timeQuery)
    exact ⟨_, rfl, by rw [hdechan], runCmd_time_of_own hown haccepts _, by rw [hdechan]⟩

end Sys2Proof.Machine

namespace Sys2Proof.Machine

open Sys2Proof

/-! ### The queue of waiting commands -/

theorem step_of_pending_cons {s : State} {c : Instr} {rest : List Instr} (h : s.pending = c :: rest) :
    step s = exec c { s with pending := rest } := by
  rw [step, h]

/-- Every command of the opcode table (chapter by chapter in the order of its rows) answers a next state with the same queue. -/
theorem exec_completes_keeping_pending : ∀ c s, ∃ t, exec c s = .next t ∧ t.pending = s.pending
  | .tableTransferStart value, s => execTableTransferStart_pending value s
  | .tableTransferDone data, s => execTableTransferDone_pending data s
  | .exceptionFrame, s => execExceptionFrame_pending s
  | .keyDeriveDone handle, s => execKeyDeriveDone_pending handle s
  | .keyUnwrapDone handle, s => execKeyUnwrapDone_pending handle s
  | .cipherSuspend, s => execCipherSuspend_pending s
  | .cipherResume, s => execCipherResume_pending s
  | .ciphSaRebuildDone, s => execCiphSaRebuildDone_pending s
  | .rawLockTake thread lane, s => execRawLockTake_pending thread lane s
  | .rawLaneGo thread lane load block decrypt, s => execRawLaneGo_pending thread lane load block decrypt s
  | .rawLockRelease thread lane, s => execRawLockRelease_pending thread lane s
  | .rawHoldExpiry lane, s => execRawHoldExpiry_pending lane s
  | .ctxCreate c, s => execCtxCreate_pending c s
  | .ctxRekey c, s => execCtxRekey_pending c s
  | .ctxDestroy c, s => execCtxDestroy_pending c s
  | .ctxQuery c, s => execCtxQuery_pending c s
  | .secLodestarLoad c, s => execSecLodestarLoad_pending c s
  | .secAlarmClear c, s => execSecAlarmClear_pending c s
  | .clsBankConfig c, s => execClsBankConfig_pending c s
  | .clsInsert c, s => execClsInsert_pending c s
  | .clsBlockMoveDone bank, s => execClsBlockMoveDone_pending bank s
  | .clsDelete c, s => execClsDelete_pending c s
  | .clsQuery c, s => execClsQuery_pending c s
  | .clsChartCheck c chart, s => execClsChartCheck_pending c chart s
  | .clsChartRecheck position line, s => execClsChartRecheck_pending position line s
  | .clsChartCheckDone, s => execClsChartCheckDone_pending s
  | .railGood rail, s => execRailGood_pending rail s
  | .railLost rail, s => execRailLost_pending rail s
  | .binnacleBoot failed, s => execBinnacleBoot_pending failed s
  | .perstDeassert, s => execPerstDeassert_pending s
  | .warmReset, s => execWarmReset_pending s
  | .flr fn, s => execFlr_pending fn s
  | .configRequest fn off wr, s => execConfigRequest_pending fn off wr s
  | .pcieLinkDown, s => execPcieLinkDown_pending s
  | .pcieLinkUp, s => execPcieLinkUp_pending s
  | .hostLostGraceExpiry, s => execHostLostGraceExpiry_pending s
  | .hostResumeExpiry, s => execHostResumeExpiry_pending s
  | .pmeTurnOff, s => execPmeTurnOff_pending s
  | .pllLockLoss system, s => execPllLockLoss_pending system s
  | .uncorrectableInternalError fn, s => execUncorrectableInternalError_pending fn s
  | .alarmTrip source present, s => execAlarmTrip_pending source present s
  | .droopTrip bank, s => execDroopTrip_pending bank s
  | .wakeSource source, s => execWakeSource_pending source s
  | .pwrWake target, s => execPwrWake_pending target s
  | .domainStopEntry d, s => execDomainStopEntry_pending d s
  | .domainStopSeal d, s => execDomainStopSeal_pending d s
  | .domainStart d, s => execDomainStart_pending d s
  | .scrubPassEnd ce ue, s => execScrubPassEnd_pending ce ue s
  | .dramPanic client up postponed, s => execDramPanic_pending client up postponed s
  | .pwrVote c, s => execPwrVote_pending c s
  | .pwrQuery c, s => execPwrQuery_pending c s
  | .devWakeReport c, s => execDevWakeReport_pending c s
  | .linkVoteRelease, s => execLinkVoteRelease_pending s
  | .barBadAccess fn off len write, s => execBarBadAccess_pending fn off len write s
  | .hostUnsupportedRequest fn posted, s => execHostUnsupportedRequest_pending fn posted s
  | .peerRequest q, s => execPeerRequest_pending q s
  | .winCommit window, s => execWinCommit_pending window s
  | .winChangeDone, s => execWinChangeDone_pending s
  | .hostCompletionRx tag completer fn status body last, s => execHostCompletionRx_pending tag completer fn status body last s
  | .completionTimeout tag, s => execCompletionTimeout_pending tag s
  | .tagQuarantineEnd tag, s => execTagQuarantineEnd_pending tag s
  | .atsInvalidate page pasid, s => execAtsInvalidate_pending page pasid s
  | .msixUnmask fn vec, s => execMsixUnmask_pending fn vec s
  | .doorbell ring value, s => execDoorbell_pending ring value s
  | .descriptorFetch ring, s => execDescriptorFetch_pending ring s
  | .txDescriptor ring table frame late, s => execTxDescriptor_pending ring table frame late s
  | .rxFrameDeliver ring tables, s => execRxFrameDeliver_pending ring tables s
  | .registration inst table, s => execRegistration_pending inst table s
  | .taggedCompletionResume ring, s => execTaggedCompletionResume_pending ring s
  | .eventsLost inst, s => execEventsLost_pending inst s
  | .intHoldoffExpiry ring, s => execIntHoldoffExpiry_pending ring s
  | .instCreate c b, s => execInstCreate_pending c b s
  | .queueConfig c, s => execQueueConfig_pending c s
  | .queueEnable c, s => execQueueEnable_pending c s
  | .queueDrain c, s => execQueueDrain_pending c s
  | .ringStopped ring, s => execRingStopped_pending ring s
  | .queueDisable c, s => execQueueDisable_pending c s
  | .queueSetMode c, s => execQueueSetMode_pending c s
  | .queueQuery c, s => execQueueQuery_pending c s
  | .instEnable c, s => execInstEnable_pending c s
  | .instQuiesce c, s => execInstQuiesce_pending c s
  | .instQuiesceDone inst, s => execInstQuiesceDone_pending inst s
  | .instQuiesceTimeout inst, s => execInstQuiesceTimeout_pending inst s
  | .instFreeze c, s => execInstFreeze_pending c s
  | .instResume c, s => execInstResume_pending c s
  | .instReset c, s => execInstReset_pending c s
  | .instDestroy c b, s => execInstDestroy_pending c b s
  | .secRingDoorbell value, s => execSecRingDoorbell_pending value s
  | .secRingEnable value, s => execSecRingEnable_pending value s
  | .mring0Enable value, s => execMring0Enable_pending value s
  | .mring0Disable value, s => execMring0Disable_pending value s
  | .mboxWrite n w, s => execMboxWrite_pending n w s
  | .mboxTake n, s => execMboxTake_pending n s
  | .mboxLivenessReply, s => execMboxLivenessReply_pending s
  | .smboxWrite n w, s => execSmboxWrite_pending n w s
  | .smboxTake n, s => execSmboxTake_pending n s
  | .smboxReply, s => execSmboxReply_pending s
  | .binnacleStatePost, s => execBinnacleStatePost_pending s
  | .boundsWrite ring idx b, s => execBoundsWrite_pending ring idx b s
  | .boundsClear ring idx b, s => execBoundsClear_pending ring idx b s
  | .powerVote ring idx b, s => execPowerVote_pending ring idx b s
  | .keyTransferWrap ring idx b handle, s => execKeyTransferWrap_pending ring idx b handle s
  | .helmReady, s => execHelmReady_pending s
  | .unsupportedOpcode opcode c, s => execUnsupportedOpcode_pending opcode c s
  | .dirtyLogStart c, s => execDirtyLogStart_pending c s
  | .dirtyLogHarvest c, s => execDirtyLogHarvest_pending c s
  | .dirtyLogStop c, s => execDirtyLogStop_pending c s
  | .waypointSave c, s => execWaypointSave_pending c s
  | .waypointRestore c b, s => execWaypointRestore_pending c b s
  | .secTransferKeyArm c, s => execSecTransferKeyArm_pending c s
  | .secTransferKeyDisarm c, s => execSecTransferKeyDisarm_pending c s
  | .transferKeyExpiry, s => execTransferKeyExpiry_pending s
  | .imageLoad, s => execImageLoad_pending s
  | .imageLoadReuse, s => execImageLoadReuse_pending s
  | .imageLoadDone image, s => execImageLoadDone_pending image s
  | .secMeasureRead c, s => execSecMeasureRead_pending c s
  | .secMeasureRecheck c, s => execSecMeasureRecheck_pending c s
  | .helmReadyTimeout, s => execHelmReadyTimeout_pending s
  | .helmClockSwitch core, s => execHelmClockSwitch_pending core s
  | .devQuery c, s => execDevQuery_pending c s
  | .devConfigure c, s => execDevConfigure_pending c s
  | .devResetUnit c, s => execDevResetUnit_pending c s
  | .devHoveToEnter c, s => execDevHoveToEnter_pending c s
  | .devHoveToLeave c, s => execDevHoveToLeave_pending c s
  | .devHoveToStatus c, s => execDevHoveToStatus_pending c s
  | .devLedgerAudit c, s => execDevLedgerAudit_pending c s
  | .ledgerPicture, s => execLedgerPicture_pending s
  | .diagSnapshotRead c, s => execDiagSnapshotRead_pending c s
  | .diagSnapshotTake c, s => execDiagSnapshotTake_pending c s
  | .diagLoopback c, s => execDiagLoopback_pending c s
  | .diagInject c, s => execDiagInject_pending c s
  | .evtEnableWrite value, s => execEvtEnableWrite_pending value s
  | .smbusRead command word, s => execSmbusRead_pending command word s
  | .smbusAlertResponse, s => execSmbusAlertResponse_pending s
  | .smbAlert temp, s => execSmbAlert_pending temp s
  | .registerWrite fn bar off value be, s => execRegisterWrite_pending fn bar off value be s
  | .registerRead fn bar off, s => execRegisterRead_pending fn bar off s
  | .flowInsert c, s => execFlowInsert_pending c s
  | .flowWrite c, s => execFlowWrite_pending c s
  | .flowDelete c, s => execFlowDelete_pending c s
  | .flowQuery c, s => execFlowQuery_pending c s
  | .flowSwing c, s => execFlowSwing_pending c s
  | .flowSwingStall, s => execFlowSwingStall_pending s
  | .flowSwingComplete, s => execFlowSwingComplete_pending s
  | .flowChartCheck c chart, s => execFlowChartCheck_pending c chart s
  | .flowChartRecheck handle line, s => execFlowChartRecheck_pending handle line s
  | .flowChartCheckDone, s => execFlowChartCheckDone_pending s
  | .flowReloadBank c, s => execFlowReloadBank_pending c s
  | .flowReloadDone lines, s => execFlowReloadDone_pending lines s
  | .flowWakeScanDone, s => execFlowWakeScanDone_pending s
  | .flowAgingSweep, s => execFlowAgingSweep_pending s
  | .flowProfCommit value, s => execFlowProfCommit_pending value s
  | .flowMsTick, s => execFlowMsTick_pending s
  | .ringAutoAttemptExpiry port, s => execRingAutoAttemptExpiry_pending port s
  | .ringLockLossTimeout port, s => execRingLockLossTimeout_pending port s
  | .portLinkChange port up, s => execPortLinkChange_pending port up s
  | .ringFrameRx port frame info, s => execRingFrameRx_pending port frame info s
  | .interlinkTx, s => execInterlinkTx_pending s
  | .nodeEntryForget addr, s => execNodeEntryForget_pending addr s
  | .proxyEntryExpiry addr, s => execProxyEntryExpiry_pending addr s
  | .prpSeqCounterRelease addr, s => execPrpSeqCounterRelease_pending addr s
  | .supervisionTx addr, s => execSupervisionTx_pending addr s
  | .preemptVerifyTx port, s => execPreemptVerifyTx_pending port s
  | .ringEgressSelect port sent, s => execRingEgressSelect_pending port sent s
  | .portFrameRx port frame info, s => execPortFrameRx_pending port frame info s
  | .pauseFrameRx port quanta, s => execPauseFrameRx_pending port quanta s
  | .pauseWdTrip port, s => execPauseWdTrip_pending port s
  | .pauseWdRecover port, s => execPauseWdRecover_pending port s
  | .txUnderrun port, s => execTxUnderrun_pending port s
  | .macCtrlWrite port value, s => execMacCtrlWrite_pending port value s
  | .macFiltCommit port n value, s => execMacFiltCommit_pending port n value s
  | .macStatClear port value, s => execMacStatClear_pending port value s
  | .modTransactionStart port value, s => execModTransactionStart_pending port value s
  | .modTransactionDone port result n data, s => execModTransactionDone_pending port result n data s
  | .modulePinChange port present intLos fault, s => execModulePinChange_pending port present intLos fault s
  | .ringConfig c, s => execRingConfig_pending c s
  | .svFrameIngest, s => execSvFrameIngest_pending s
  | .almRowOpen alm, s => execAlmRowOpen_pending alm s
  | .almRowSeal alm, s => execAlmRowSeal_pending alm s
  | .watchAck inst value, s => execWatchAck_pending inst value s
  | .svSubscribe c, s => execSvSubscribe_pending c s
  | .svUnsubscribe c, s => execSvUnsubscribe_pending c s
  | .almCreate c, s => execAlmCreate_pending c s
  | .almDestroy c, s => execAlmDestroy_pending c s
  | .almWatch c, s => execAlmWatch_pending c s
  | .almClrIngestMax value, s => execAlmClrIngestMax_pending value s
  | .reflexStage inst slot lo, s => execReflexStage_pending inst slot lo s
  | .reflexWrite inst slot lo hi, s => execReflexWrite_pending inst slot lo hi s
  | .reflexHeldRelease inst slot, s => execReflexHeldRelease_pending inst slot s
  | .reflexRetransmit inst slot, s => execReflexRetransmit_pending inst slot s
  | .reflexLoad c, s => execReflexLoad_pending c s
  | .reflexArm c, s => execReflexArm_pending c s
  | .reflexDisarm c, s => execReflexDisarm_pending c s
  | .reflexClrMax value, s => execReflexClrMax_pending value s
  | .gooseFrameRx, s => execGooseFrameRx_pending s
  | .gooseExpired cb, s => execGooseExpired_pending cb s
  | .gooseSubscribe c, s => execGooseSubscribe_pending c s
  | .recWriter, s => execRecWriter_pending s
  | .recEventClose, s => execRecEventClose_pending s
  | .recConfig c, s => execRecConfig_pending c s
  | .recTrigger c, s => execRecTrigger_pending c s
  | .recExportAttach c, s => execRecExportAttach_pending c s
  | .recExportDetach c, s => execRecExportDetach_pending c s
  | .recExportExport c, s => execRecExportExport_pending c s
  | .recExportRelease c, s => execRecExportRelease_pending c s
  | .nvmeCompletion, s => execNvmeCompletion_pending s
  | .nvmeCmdTimeout, s => execNvmeCmdTimeout_pending s
  | .nvmetConnect c, s => execNvmetConnect_pending c s
  | .nvmetConnectResync c, s => execNvmetConnectResync_pending c s
  | .nvmetClose c, s => execNvmetClose_pending c s
  | .instSetShare c, s => execInstSetShare_pending c s
  | .schedNodeConfig c, s => execSchedNodeConfig_pending c s
  | .schedMeterProfile c, s => execSchedMeterProfile_pending c s
  | .schedMeterAssign c, s => execSchedMeterAssign_pending c s
  | .schedMeterRead c, s => execSchedMeterRead_pending c s
  | .schedSoundingConfig c, s => execSchedSoundingConfig_pending c s
  | .schedRefill, s => execSchedRefill_pending s
  | .schedSelect port, s => execSchedSelect_pending port s
  | .portFrameTxEnd port, s => execPortFrameTxEnd_pending port s
  | .meterRefresh, s => execMeterRefresh_pending s
  | .soundingRound set, s => execSoundingRound_pending set s
  | .ptpMsgRx, s => execPtpMsgRx_pending s
  | .ptpSyncTx port, s => execPtpSyncTx_pending port s
  | .ptpAnnounceTx port, s => execPtpAnnounceTx_pending port s
  | .ptpPdelayTx, s => execPtpPdelayTx_pending s
  | .announceTimeout port, s => execAnnounceTimeout_pending port s
  | .ringPdelayTx, s => execRingPdelayTx_pending s
  | .tcPendingExpiry, s => execTcPendingExpiry_pending s
  | .ppsEdge, s => execPpsEdge_pending s
  | .ppsLoss, s => execPpsLoss_pending s
  | .irigFrame frame, s => execIrigFrame_pending frame s
  | .irigLoss, s => execIrigLoss_pending s
  | .ppsOutPulse, s => execPpsOutPulse_pending s
  | .servoUpdate incr filtered, s => execServoUpdate_pending incr filtered s
  | .servoWatchdog, s => execServoWatchdog_pending s
  | .timeConfig c, s => execTimeConfig_pending c s
  | .timeSet c, s => execTimeSet_pending c s
  | .timeSetPpsTimeout, s => execTimeSetPpsTimeout_pending s
  | .timeQuery c, s => execTimeQuery_pending c s
  | .ownSeenTimeout port, s => execOwnSeenTimeout_pending port s
  | .ringPllLockLoss, s => execRingPllLockLoss_pending s
  | .fork thread op, s => execFork_pending thread op s
  | .exit thread op, s => execExit_pending thread op s
  | .join thread op, s => execJoin_pending thread op s
  | .wait thread op, s => execWait_pending thread op s
  | .signal thread op, s => execSignal_pending thread op s
  | .evmap thread op, s => execEvmap_pending thread op s
  | .timer thread op, s => execTimer_pending thread op s
  | .settrap thread op, s => execSettrap_pending thread op s
  | .chstage thread op, s => execChstage_pending thread op s
  | .chcommit thread op, s => execChcommit_pending thread op s
  | .chrecv thread op, s => execChrecv_pending thread op s
  | .thrctlResume thread op, s => execThrctlResume_pending thread op s
  | .thrctlKill thread op, s => execThrctlKill_pending thread op s
  | .chcfg thread op, s => execChcfg_pending thread op s
  | .class_ thread op, s => execClass__pending thread op s
  | .break_ thread op, s => execBreak__pending thread op s
  | .loadStore thread word what, s => execLoadStore_pending thread word what s
  | .helmTimerFire thread, s => execHelmTimerFire_pending thread s
  | .supervisorFaultTimeout, s => execSupervisorFaultTimeout_pending s
  | .becalmedDetect, s => execBecalmedDetect_pending s
  | .helmRestart, s => execHelmRestart_pending s
  | .helmDbgHalt, s => execHelmDbgHalt_pending s
  | .helmDbgResume, s => execHelmDbgResume_pending s
  | .helmDbgStep, s => execHelmDbgStep_pending s
  | .helmDbgKill, s => execHelmDbgKill_pending s
  | .helmDbgRegWrite k value, s => execHelmDbgRegWrite_pending k value s
  | .debugGrantEnd, s => execDebugGrantEnd_pending s
  | .moverLockTake thread mover, s => execMoverLockTake_pending thread mover s
  | .moverGo thread mover words word, s => execMoverGo_pending thread mover words word s
  | .moverPromote mover, s => execMoverPromote_pending mover s
  | .moverTransferEnd mover src dst, s => execMoverTransferEnd_pending mover src dst s
  | .moverErrAck thread mover word, s => execMoverErrAck_pending thread mover word s
  | .moverRelease thread mover, s => execMoverRelease_pending thread mover s
  | .secDebugChallenge c, s => execSecDebugChallenge_pending c s
  | .secDebugGrant c, s => execSecDebugGrant_pending c s
  | .secDebugRevoke c, s => execSecDebugRevoke_pending c s
  | .boundGrowth, s => execBoundGrowth_pending s
/-- Settles O47: every command's meaning answers a next state and touches the queue nowhere; the step alone takes the front command. -/
theorem everyCommandCompletesAndKeepsTheQueue : Obligations.EveryCommandCompletesAndKeepsTheQueue := by
  refine ⟨exec_completes_keeping_pending, fun s => ?_⟩
  rcases hq : s.pending with _ | ⟨c, rest⟩
  · exact ⟨_, step_of_pending_nil hq, by rw [tick_pending, hq]; rfl⟩
  · rw [step_of_pending_cons hq]
    exact exec_completes_keeping_pending c _

/-- Settles O48: what waits after a step waited before it. -/
theorem waitingCommandsStayWellFormed : Obligations.WaitingCommandsStayWellFormed := by
  intro s t hwf hstep
  obtain ⟨u, hu, htail⟩ := everyCommandCompletesAndKeepsTheQueue.2 s
  obtain rfl := Host.Outcome.next.inj (hu.symm.trans hstep)
  rw [List.all_eq_true] at *
  exact fun c hc => hwf c (List.mem_of_mem_tail (htail ▸ hc))

/-- Settles O44, by the case of `step` that finds a command. -/
theorem stepTakesTheFrontCommand : Obligations.StepTakesTheFrontCommand :=
  fun _ _ _ h => step_of_pending_cons h

/-! ### One clock (R65, R79) -/

/-- A bound without an excess grows by the whole ns that the thousandths come to, up to the largest bound. -/
theorem grow_bound_of_exact {t : TimeSt} {x : Nat} (hover : t.boundOver = 0) (hmax : t.bound + ceilDiv x 1000 ≤ boundMax) :
    (t.grow x).bound = t.bound + ceilDiv x 1000 := by
  rw [TimeSt.grow, hover]
  split
  next hx => obtain rfl := Nat.le_zero.1 hx; rfl
  next => exact Nat.min_eq_right hmax

theorem grow_quality (t : TimeSt) (x : Nat) : (t.grow x).quality = t.quality := by
  unfold TimeSt.grow
  split <;> rfl

theorem grow_cfg (t : TimeSt) (x : Nat) : (t.grow x).cfg = t.cfg := by
  unfold TimeSt.grow
  split <;> rfl

theorem ceilDiv_thousand_le (x : Nat) : ceilDiv x 1000 ≤ x := by
  unfold ceilDiv
  omega

/-- The growth of a bound that stays within BOUND_MAX, in HOLDOVER, at the end of a millisecond. -/
theorem boundGrowth_of_holdover {s : State} (hq : s.time.quality = .holdover) (hat : s.time.boundAt < s.now)
    (hms : (s.now - s.time.boundAt) % msTicks = 0)
    (hmax : (s.time.grow s.time.cfg.holdoverPpb).bound ≤ s.time.cfg.boundMaxMs * 1000000) :
    s.boundGrowth = { s with time := { s.time.grow s.time.cfg.holdoverPpb with boundAt := s.now } } := by
  rw [State.boundGrowth]
  simp only [hq, hat, hms, true_or, and_self, if_true]
  exact if_neg (Nat.not_lt.2 ((grow_cfg ..).symm ▸ hmax))

theorem grow_ppsOffAt (t : TimeSt) (x : Nat) : (t.grow x).ppsOffAt = t.ppsOffAt := by
  unfold TimeSt.grow
  split <;> rfl

/-- A clock on which no pulse is pending, once the bound's growth is known. -/
theorem tick_of_no_pulse {s g : State} (hrun : s.inRun 12 = true)
    (hg : State.boundGrowth { s with now := s.now + 1, time := s.time.edge } = g) (hoff : g.time.ppsOffAt = none) : s.tick = g := by
  have hrun' : State.inRun { s with now := s.now + 1 } 12 = true := hrun
  simp [State.tick, hrun', hg, hoff]

theorem tick_of_stopped {s : State} (hstop : s.inRun 12 = false) : s.tick = { s with now := s.now + 1 } := by
  have hstop' : State.inRun { s with now := s.now + 1 } 12 = false := hstop
  simp [State.tick, hstop']

theorem edge_boundOver (t : TimeSt) : t.edge.boundOver = t.boundOver := by cases t; rfl

theorem edge_boundAt (t : TimeSt) : t.edge.boundAt = t.boundAt := by cases t; rfl

theorem edge_cfg (t : TimeSt) : t.edge.cfg = t.cfg := by cases t; rfl

/-- The clock at the end of a millisecond of HOLDOVER grows the bound. -/
theorem tick_of_holdover {s : State} (hrun : s.inRun 12 = true) (hq : s.time.quality = .holdover) (hoff : s.time.ppsOffAt = none)
    (hat : s.time.boundAt ≤ s.now) (hms : (s.now + 1 - s.time.boundAt) % msTicks = 0)
    (hmax : (s.time.edge.grow s.time.cfg.holdoverPpb).bound ≤ s.time.cfg.boundMaxMs * 1000000) :
    s.tick = { s with
      now := s.now + 1, time := { s.time.edge.grow s.time.cfg.holdoverPpb with boundAt := s.now + 1 } } := by
  have hgrow := boundGrowth_of_holdover (s := { s with now := s.now + 1, time := s.time.edge })
    (by simpa only [edge_quality] using hq) (by simpa only [edge_boundAt] using Nat.lt_succ_of_le hat)
    (by simpa only [edge_boundAt] using hms) (by simpa only [edge_cfg] using hmax)
  simp only [edge_cfg] at hgrow
  exact tick_of_no_pulse hrun hgrow (by simpa only [grow_ppsOffAt, edge_ppsOffAt] using hoff)

/-- Settles O45: with D12 in Run a clock is the edge of the time base, then the growth of its bound, then the end of a pulse. -/
theorem idleStepPassesOneClock : Obligations.IdleStepPassesOneClock := by
  refine ⟨?_, ?_, ?_, ?_⟩
  · intro s hnil hstop
    rw [step_of_pending_nil hnil, tick_of_stopped hstop]
  · intro s hnil hrun hq hoff
    have hgrow : State.boundGrowth { s with now := s.now + 1, time := s.time.edge } =
        { s with now := s.now + 1, time := s.time.edge } :=
      boundGrowth_of_locked_or_unknown (by simpa only [edge_quality] using hq)
    rw [step_of_pending_nil hnil, tick_of_no_pulse hrun hgrow (by simpa only [edge_ppsOffAt] using hoff)]
  · intro s hnil hrun hq hoff hat hms hover hbound hmax
    have hup := ceilDiv_thousand_le s.time.cfg.holdoverPpb
    have hgrown := grow_bound_of_exact (t := s.time.edge) (x := s.time.cfg.holdoverPpb) (by rw [edge_boundOver, hover])
      (by rw [edge_bound]; unfold boundMax; omega)
    rw [edge_bound] at hgrown
    refine ⟨_, (step_of_pending_nil hnil).trans (by rw [tick_of_holdover hrun hq hoff hat hms (by omega)]), hgrown, ?_, rfl⟩
    exact (grow_quality ..).trans ((edge_quality _).trans hq)
  · intro s hnil hrun hq hoff
    rw [step_of_pending_nil hnil, tick_of_pulse hrun (.inl hq) hoff, if_pos le_rfl]

/-! ### The state after reset -/

theorem reset_ring_state (r : Nat) : (State.reset.ring r).state = .disabled := by
  change (((if 8224 = r then some ({ log2 := 4 } : Ring) else none).getD {}) : Ring).state = _
  split <;> rfl

/-- Settles O46: every field of the reset state evaluates to its value. -/
theorem resetStartsWithEverythingStopped : Obligations.ResetStartsWithEverythingStopped := by
  refine ⟨rfl, by decide, rfl, rfl, rfl, rfl, rfl, rfl, rfl, ?_⟩
  exact ⟨fun _ => rfl, reset_ring_state, fun _ => rfl, fun _ => rfl, rfl, rfl, rfl, rfl, rfl, rfl, rfl, rfl, rfl, rfl⟩

/-- Settles O49: the queue and the tables that the invariants speak of are empty. -/
theorem invariantsHoldAtReset : Obligations.InvariantsHoldAtReset := by
  exact ⟨rfl, rfl, rfl, rfl⟩

/-! ### The STATUS lands (R473) -/

/-- Settles O60: each land follows the domain that drives it, and is off while that domain is in Stop. -/
theorem statusLandsShowTheAdapter : Obligations.StatusLandsShowTheAdapter := by
  refine ⟨fun s hrun => ?_, fun s hstop => ?_, fun s hrun => ?_, fun s hstop => ?_, fun s hrun hrun3 => ?_, fun s hstop => ?_⟩
  case refine_1 | refine_2 | refine_3 | refine_4 | refine_6 => simp [State.led, b2n, *]
  case refine_5 => simp [State.led, b2n, hrun, hrun3]

end Sys2Proof.Machine

/-!
The module's SMBus target and the mailbox channels (chapters 14, 18 and 20): what a read answers, when SMB_ALERT_N moves, and how a word
passes through a channel.
-/

namespace Sys2Proof.Machine

open Sys2Proof

/-! ### SMBus (R474) -/

section
variable {s : State} (hrun : s.inRun 0 = true)
include hrun

theorem exec_smbusRead_word {k v : Nat} {t : State} (pec : Bool) (h : s.smbusWord k = some (v, t)) :
    exec (.smbusRead k ⟨true, pec⟩) s = .next (t.emit (.smbus (some (smbusData pec k (leBytes 2 v))))) := by
  change execSmbusRead k ⟨true, pec⟩ s = _
  simp [execSmbusRead, hrun, h]

theorem exec_smbusRead_word_of_unlisted {k : Nat} (pec : Bool) (h : s.smbusWord k = none) :
    exec (.smbusRead k ⟨true, pec⟩) s = .next (s.emit (.smbus none)) := by
  change execSmbusRead k ⟨true, pec⟩ s = _
  simp [execSmbusRead, hrun, h]

theorem exec_smbusRead_byte (k : Nat) (pec : Bool) :
    exec (.smbusRead k ⟨false, pec⟩) s =
      .next (s.emit (.smbus ((s.smbusByte k).map fun v => smbusData pec k (leBytes 1 v)))) := by
  change execSmbusRead k ⟨false, pec⟩ s = _
  simp [execSmbusRead, hrun]

/-- The line with a cause and not asserted is asserted. -/
theorem alertSettle_of_due (hdue : s.alertDue = true) (hoff : s.module_.alertAsserted = false) :
    s.alertSettle =
      State.emit { s with module_.alertAsserted := true, module_.alertRead := false } (.land .smbAlertN false) := by
  simp [State.alertSettle, hrun, hdue, hoff]

/-- The line without a cause is released once the address has been read. -/
theorem alertSettle_of_cleared (hdue : s.alertDue = false) (hon : s.module_.alertAsserted = true) (hread : s.module_.alertRead = true) :
    s.alertSettle =
      State.emit { s with module_.alertAsserted := false, module_.alertRead := false } (.land .smbAlertN true) := by
  simp [State.alertSettle, hrun, hdue, hon, hread]

end

theorem alertSettle_of_steady {s : State} (h : s.alertDue = s.module_.alertAsserted) : s.alertSettle = s := by
  simp [State.alertSettle, h]

theorem alertDue_iff (s : State) : s.alertDue = true ↔ 110 * 256 ≤ s.module_.dieTemp.toInt ∨ s.ciph.latched ≠ 0 := by
  simp [State.alertDue]

theorem alertDue_eq_false_iff (s : State) : s.alertDue = false ↔ s.module_.dieTemp.toInt < 110 * 256 ∧ s.ciph.latched = 0 := by
  simp [State.alertDue]

/-- A new die temperature alone. -/
def State.withTemp (s : State) (temp : BitVec 16) : State := { s with module_.dieTemp := temp }

/-- The Alert Response Address has been read while the line was asserted. -/
def State.withAlertRead (s : State) : State := { s with module_.alertRead := true }

theorem exec_smbAlert (s : State) (temp : BitVec 16) : exec (.smbAlert temp) s = .next (s.withTemp temp).alertSettle := rfl

theorem exec_smbusAlertResponse {s : State} (hon : s.module_.alertAsserted = true) :
    exec .smbusAlertResponse s = .next s.withAlertRead.alertSettle :=
  congrArg Host.Outcome.next (if_pos hon)

theorem smbusWord_of_rail {s : State} {k : Nat} (hlow : 1 ≤ k) (hhigh : k ≤ 3) :
    s.smbusWord k = some ((Config.freeWord s.free).toNat % 65536, { s with free := s.free + 1 }) := by
  have hk : k ≠ 0 := by omega
  simp [State.smbusWord, State.draw, hk, hhigh]

theorem smbusWord_of_unlisted {s : State} {k : Nat} (hk : 6 ≤ k) : s.smbusWord k = none := by
  have h0 : k ≠ 0 := by omega
  have h3 : ¬k ≤ 3 := by omega
  have h4 : k ≠ 4 := by omega
  have h5 : k ≠ 5 := by omega
  simp [State.smbusWord, h0, h3, h4, h5]

theorem smbusByte_of_unlisted {s : State} {k : Nat} (hk : k < 6 ∨ 9 ≤ k) : s.smbusByte k = none := by
  have h6 : k ≠ 6 := by omega
  have h7 : k ≠ 7 := by omega
  have h8 : k ≠ 8 := by omega
  simp [State.smbusByte, h6, h7, h8]

theorem leBytes_b2n (b : Bool) : leBytes 1 (b2n b) = [if b then 1 else 0] := by cases b <;> rfl

/-- Settles O1: each command of Table 20-5 is one value of `smbusWord` or `smbusByte`, and the line follows its cause. -/
theorem smbusReadsAndAlertLine : Obligations.SmbusReadsAndAlertLine := by
  refine ⟨fun s pec hrun => ⟨?_, fun k hlow hhigh => ?_, ?_, ?_, ?_, ?_, ?_, fun k hk => ?_, fun k hk => ?_⟩,
    fun k b => ⟨rfl, rfl⟩, ?_, ?_, ?_, ?_⟩
  · exact exec_smbusRead_word hrun pec rfl
  · exact ⟨_, Nat.mod_lt _ (by decide), exec_smbusRead_word hrun pec (smbusWord_of_rail hlow hhigh)⟩
  · exact exec_smbusRead_word hrun pec rfl
  · exact exec_smbusRead_word hrun pec rfl
  · exact exec_smbusRead_byte hrun 6 pec
  · rw [exec_smbusRead_byte hrun 7 pec]
    exact congrArg (fun b => Host.Outcome.next (s.emit (.smbus (some (smbusData pec 7 b))))) (leBytes_b2n _)
  · exact exec_smbusRead_byte hrun 8 pec
  · exact exec_smbusRead_word_of_unlisted hrun pec (smbusWord_of_unlisted hk)
  · rw [exec_smbusRead_byte hrun k pec, smbusByte_of_unlisted hk]
    rfl
  · intro s temp hrun hoff hcause
    exact congrArg Host.Outcome.next (alertSettle_of_due (s := s.withTemp temp) hrun ((alertDue_iff _).2 hcause) hoff)
  · intro s temp hrun hoff hcool hquiet
    have hdue : (s.withTemp temp).alertDue = false := (alertDue_eq_false_iff _).2 ⟨hcool, hquiet⟩
    rw [exec_smbAlert, alertSettle_of_steady (hdue.trans hoff.symm)]
    rfl
  · intro s hrun hon
    rw [exec_smbusAlertResponse hon]
    split
    next hcleared =>
      exact congrArg Host.Outcome.next
        (alertSettle_of_cleared (s := s.withAlertRead) hrun ((alertDue_eq_false_iff _).2 hcleared) hon rfl)
    next hcause =>
      have hdue : s.withAlertRead.alertDue = true := by
        rw [← Bool.not_eq_false]
        exact fun h => hcause ((alertDue_eq_false_iff _).1 h)
      rw [alertSettle_of_steady (hdue.trans hon.symm)]
      rfl
  · intro s temp hrun hon hread hcool hquiet
    exact congrArg Host.Outcome.next
      (alertSettle_of_cleared (s := s.withTemp temp) hrun ((alertDue_eq_false_iff _).2 ⟨hcool, hquiet⟩) hon hread)

/-! ### Mailbox channels (R361) -/

/-- An entry written as it stands changes no list; one past the end is not written. -/
theorem set_getD_same {α : Type} (l : List α) (n : Nat) (d : α) : l.set n (l.getD n d) = l := by
  by_cases h : n < l.length
  · simp [h]
  · exact List.set_eq_of_length_le (Nat.not_lt.1 h)

/-- A channel rewritten with its present FULL bit moves nothing but the channel. -/
theorem setMbox_of_steady {s : State} {n : Nat} {x : Mbox} (h : x.full = (s.mbox n).full) :
    s.setMbox n x = { s with dechan.mbox := s.dechan.mbox.set n x } := by
  simp [State.setMbox, h]

theorem setSmbox_of_steady {s : State} {n : Nat} {x : Mbox} (h : x.full = (s.smbox n).full) :
    s.setSmbox n x = { s with dechan.smbox := s.dechan.smbox.set n x } := by
  simp [State.setSmbox, h]

/-- Helm hears of a channel of its own that fills, or of one of the host's that empties. -/
theorem setMbox_of_helm {s : State} {n : Nat} {x : Mbox} (hchange : x.full ≠ (s.mbox n).full) (hside : x.full = decide (n < 4)) :
    s.setMbox n x = State.pulse { s with dechan.mbox := s.dechan.mbox.set n x } (32 + n) := by
  by_cases hn : n < 4 <;> simp_all [State.setMbox]

/-- What a channel's change leaves as it was, whoever hears of it. -/
theorem setMbox_keeps (s : State) (n : Nat) (x : Mbox) :
    (s.setMbox n x).dechan = { s.dechan with mbox := s.dechan.mbox.set n x } ∧ (s.setMbox n x).rings = s.rings ∧
      (s.setMbox n x).insts = s.insts := by
  simp only [State.setMbox]
  (repeat' split) <;> simp

theorem setSmbox_keeps (s : State) (n : Nat) (x : Mbox) :
    (s.setSmbox n x).dechan = { s.dechan with smbox := s.dechan.smbox.set n x } ∧ (s.setSmbox n x).rings = s.rings ∧
      (s.setSmbox n x).insts = s.insts ∧ (s.setSmbox n x).boot = s.boot := by
  simp only [State.setSmbox]
  (repeat' split) <;> simp

theorem exec_mboxWrite {s : State} (hlink : s.linkReady = true) {n : Nat} (hn : n < 4) (w : W32) :
    exec (.mboxWrite n w) s = .next (s.setMbox n ((s.mbox n).put w)) := by
  change execMboxWrite n w s = _
  simp [execMboxWrite, State.mboxWrite, hlink, hn]

theorem exec_smboxWrite {s : State} (hlink : s.linkReady = true) {n : Nat} (hn : n < 2) (w : W32) :
    exec (.smboxWrite n w) s = .next (s.setSmbox n ((s.smbox n).put w)) := by
  change execSmboxWrite n w s = _
  simp [execSmboxWrite, State.smboxWrite, hlink, hn]

theorem exec_mboxTake {s : State} (hlink : s.linkReady = true) {n : Nat} (hlow : 4 ≤ n) (hhigh : n < 8) :
    exec (.mboxTake n) s =
      .next ((s.setMbox n (s.mbox n).take.2).emit (.cpl .sc (leBytes 4 (s.mbox n).take.1.toNat))) := by
  change execMboxTake n s = _
  simp [execMboxTake, State.mboxRead, hlink, hlow, hhigh]

theorem put_of_full {x : Mbox} (h : x.full = true) (w : W32) : x.put w = { x with overrun := true } := if_pos h
theorem put_of_empty {x : Mbox} (h : x.full = false) (w : W32) : x.put w = { x with word := w, full := true } := by
  simp [Mbox.put, h]
theorem take_of_full {x : Mbox} (h : x.full = true) : x.take = (x.word, { x with full := false }) := if_pos h
theorem take_of_empty {x : Mbox} (h : x.full = false) : x.take = (0, x) := by simp [Mbox.take, h]

/-- A word of the host on channel 0 while channel 4 is free for the answer. -/
theorem mboxLivenessReply_of_probe {s : State} (hhelm : s.helmRuns = true) (hfull : (s.mbox 0).full = true)
    (hfree : (s.mbox 4).full = false) :
    exec .mboxLivenessReply s =
      let t := s.setMbox 0 (s.mbox 0).take.2
      .next (t.setMbox 4 ((t.mbox 4).put
        (answerWord (if (s.mbox 0).word.toNat / 2 ^ 24 = 1 then 0x81 else 0xFF) (s.mbox 0).word))) := by
  change execMboxLivenessReply s = _
  simp [execMboxLivenessReply, hhelm, hfull, hfree]

/-- Settles O2: each word is one `put` or `take` of its channel, and `setMbox` and `setSmbox` say who hears of it. -/
theorem mailboxWordsPassAndAreAnswered : Obligations.MailboxWordsPassAndAreAnswered := by
  refine ⟨?overrun, ?fill, ?writeOther, ?take, ?takeOther, ?smboxOverrun, ?smboxFill, ?smboxTake, ?liveness, ?smboxReply,
    ?statePost⟩
  case overrun =>
    intro s n w hlink hn hfull
    rw [exec_mboxWrite hlink hn, put_of_full hfull, setMbox_of_steady (by rfl)]
  case fill =>
    intro s n w hlink hn hempty
    rw [exec_mboxWrite hlink hn, put_of_empty hempty, setMbox_of_helm (by simp [hempty]) (by simp [hn])]
  case writeOther =>
    intro s n w hlink hn
    change execMboxWrite n w s = _
    simp [execMboxWrite, State.mboxWrite, hlink, Nat.not_lt.2 hn]
  case take =>
    intro s n hlink hlow hhigh hfull
    rw [exec_mboxTake hlink hlow hhigh, take_of_full hfull, setMbox_of_helm (by simp [hfull]) (by simp [hlow])]
  case takeOther =>
    intro s n hlink h
    by_cases hn : n < 4
    · refine ⟨s.emit (.cpl .sc (leBytes 4 0)), ?_, rfl, fun k _ => rfl⟩
      change execMboxTake n s = _
      simp [execMboxTake, State.mboxRead, hlink, Nat.not_le.2 hn]
    · obtain ⟨hempty, hhigh⟩ := h.resolve_left hn
      refine ⟨_, exec_mboxTake hlink (Nat.not_lt.1 hn) hhigh, ?_⟩
      rw [take_of_empty hempty, setMbox_of_steady rfl]
      refine ⟨by simp [State.emit, leBytes], fun k _ => ?_⟩
      change (s.dechan.mbox.set n (s.dechan.mbox.getD n {})).getD k {} = _
      rw [set_getD_same]
  case smboxOverrun =>
    intro s n w hlink hn hfull
    rw [exec_smboxWrite hlink hn, put_of_full hfull, setSmbox_of_steady (by rfl)]
  case smboxFill =>
    intro s n w hlink hn hempty
    rw [exec_smboxWrite hlink hn, put_of_empty hempty]
    simp [State.setSmbox, hn, hempty]
  case smboxTake =>
    intro s n hlink hlow hhigh hfull
    change execSmboxTake n s = _
    simp [execSmboxTake, State.smboxRead, hlink, hlow, hhigh, take_of_full hfull, State.setSmbox, Nat.not_lt.2 hlow, hfull]
  case liveness =>
    intro s a b rest hhelm hmbox ha hb hfree
    have h0 : s.mbox 0 = a := by simp [State.mbox, hmbox]
    have h4 : s.mbox 4 = b := by simp [State.mbox, hmbox, hb]
    refine ⟨_, mboxLivenessReply_of_probe hhelm (by rw [h0, ha]) (by rw [h4, hfree]), ?_⟩
    have h4' : (s.setMbox 0 { a with full := false }).mbox 4 = b := by simp [State.mbox, setMbox_keeps, hmbox, hb]
    simp [h0, h4', take_of_full ha, put_of_empty hfree, setMbox_keeps, hmbox]
  case smboxReply =>
    intro s a b c d hlives hsmbox ha hc
    obtain ⟨word, full, overrun, intEn⟩ := b
    change ∃ t, execSmboxReply s = _ ∧ _
    cases full <;>
      simp [execSmboxReply, hlives, ha, hc, State.smbox, setSmbox_keeps, hsmbox, Mbox.take, Mbox.put,
        State.binnacleState]
  case statePost =>
    intro s a b c d hlives hsmbox hd hpost
    change ∃ t, execBinnacleStatePost s = _ ∧ _
    simp [execBinnacleStatePost, hlives, hpost, hd, setSmbox_keeps, put_of_empty, State.smbox, hsmbox, State.binnacleState]

end Sys2Proof.Machine

/-!
The host endpoint (chapter 12): requests that are refused, translations, messages and the link; tags and completions; peer windows.
-/

namespace Sys2Proof.Machine

open Sys2Proof

/-! ### Requests that are refused (R293, R294) -/

theorem accessOk_eq_false {bar off len : Nat} {wr : Bool} (hform : ¬((len = 4 ∨ len = 8) ∧ off % len = 0))
    (hslot : ¬(bar = 2 ∧ wr = true ∧ 0 < len ∧ inPushSlot off len = true)) : accessOk bar off len wr = false := by
  rw [← Bool.not_eq_true]
  simp only [accessOk, Bool.or_eq_true, Bool.and_eq_true, beq_iff_eq, decide_eq_true_eq, and_assoc]
  exact fun h => h.elim hform hslot

/-! ### Translations and messages (R308, R311) -/

theorem linkReady_iff (s : State) : s.linkReady = true ↔ s.inRun 2 = true ∧ s.host.linkUp = true := by
  simp [State.linkReady]

/-- A request of a function that may issue leaves at once. -/
theorem issue_of_ready {s : State} {fn : Fn} (hlink : s.linkReady = true) (hbme : (s.cfg fn).bme = true) (o : Output) :
    s.issue fn o = s.emitReq o := by
  obtain ⟨hrun, hup⟩ := (linkReady_iff s).1 hlink
  simp [State.issue, hrun, hup, hbme]

/-! ### The link (R312) -/

theorem foldl_eq_self {α β : Type} {f : α → β → α} {a : α} {l : List β} (h : ∀ b ∈ l, f a b = a) : l.foldl f a = a := by
  induction l with
  | nil => rfl
  | cons b l ih => rw [List.foldl_cons, h b (by simp), ih fun c hc => h c (by simp [hc])]

/-- With no image load, table transfer or mover under way, DL_Down ends no read of a unit. -/
theorem readsEnd_of_idle {s : State} (hload : ∀ x, s.boot.loading ≠ some (false, x)) (hsw : s.sw.busy = false)
    (hmover : ∀ m < 16, (s.mover m).active = none) : s.readsEnd = s := by
  unfold State.readsEnd
  split
  · rfl
  · split
    next hx => exact absurd hx (hload _)
    next =>
      simp only [hsw, Bool.false_and, Bool.false_eq_true, if_false]
      exact foldl_eq_self fun m hm => by simp [hmover m (List.mem_range.1 hm)]

/-- Settles O3: the endpoint answers from the request and the link alone; with nothing under way DL_Down only clears. -/
theorem hostRequestsAndLink : Obligations.HostRequestsAndLink := by
  refine ⟨?badAccess, ?posted, ?nonPosted, ?invalidate, ?unmask, ?unmaskSends, ?linkUp, ?linkDown⟩
  case badAccess =>
    intro s fn bar off len wr hlink hform hslot
    change execBarBadAccess fn ⟨bar, off⟩ len wr s = _
    simp [execBarBadAccess, State.badAccess, hlink, accessOk_eq_false hform hslot]
  case posted =>
    intro s fn hlink
    change execHostUnsupportedRequest fn true s = _
    simp [execHostUnsupportedRequest, hlink]
  case nonPosted =>
    intro s fn hlink
    change execHostUnsupportedRequest fn false s = _
    simp [execHostUnsupportedRequest, hlink]
  case invalidate =>
    intro s page pasid hlink
    change ∃ t, execAtsInvalidate page pasid s = _ ∧ _
    simp only [execAtsInvalidate, hlink]
    refine ⟨_, rfl, rfl, rfl, fun tag f since addr len got htag => ?_, ?_⟩
    · simp [State.emit, KMap.find_mapVals, htag]
    · simp [SamePath, SameGrid, SameInst, SameRings, SameBoard, SameProc, State.emit]
  case unmask =>
    intro s vec e hlink hvec hentry hpending
    change execMsixUnmask .pf1 vec s = _
    simp [execMsixUnmask, hlink, hvec, State.msixEntry, State.setMsix, State.msiRelease, KMap.getD, hentry, hpending]
  case unmaskSends =>
    intro s vec e hlink hvec hentry hpending hen hmask hbme
    change ∃ t, execMsixUnmask .pf1 vec s = _ ∧ _
    simp [execMsixUnmask, hlink, hvec, State.msixEntry, State.setMsix, State.msiRelease, KMap.getD, hentry, hpending,
      State.msixOn, State.cfg, hen, hmask]
    simp [State.linkReady, State.inRun] at hlink
    simp [State.issue, State.inRun, State.cfg, hlink, hbme, State.emitReq, State.emit, SamePath, SameGrid, SameInst, SameRings,
      SameBoard, SameProc]
  case linkUp =>
    intro s hrun hperst hup
    change execPcieLinkUp s = _
    simp [execPcieLinkUp, hrun, hperst, hup]
  case linkDown =>
    intro s hrun hup hperst htags hl2 hload hsw hmover
    change execPcieLinkDown s = _
    simp [execPcieLinkDown, State.linkReady, hrun, hup, hperst, hl2, State.linkLost, readsEnd_of_idle hload hsw hmover,
      State.linkDown, State.roundsSettle, State.endRequests, htags, KMap.keep, CfgSpace.reset]

/-! ### Completions and tags (R301 to R304) -/

theorem aer_cto (s : State) (fn f : Fn) (e : AerError) : ((s.aer fn e).cfg f).cto = (s.cfg f).cto := by
  cases fn <;> cases f <;> rfl

theorem aer_tags (s : State) (fn : Fn) (e : AerError) : (s.aer fn e).host.tags = s.host.tags := by
  cases fn <;> rfl

theorem hostError_cfg (s : State) (a b c d e f : Nat) (fn : Fn) : (s.hostError a b c d e f).cfg fn = s.cfg fn := by
  obtain ⟨-, -, -, -, -, h0, h1, -⟩ := hostError_core s a b c d e f
  cases fn
  · exact h0
  · exact h1

theorem hostError_tags (s : State) (a b c d e f : Nat) : (s.hostError a b c d e f).host.tags = s.host.tags := by
  obtain ⟨-, -, -, -, -, -, -, h, -⟩ := hostError_core s a b c d e f
  exact h

theorem timeoutTicks_congr {c d : CfgSpace} (h : c.cto = d.cto) : c.timeoutTicks = d.timeoutTicks := by
  simp [CfgSpace.timeoutTicks, h]

/-- What times out is logged and reported, and its tag is quarantined by the timeout value that was in force. -/
theorem timeOutTag_eq (s : State) (fn : Fn) (tag addr : Nat) :
    s.timeOutTag fn tag addr =
      let t := (s.hostError 2 fn.num 0 tag addr 1).aer fn .completionTimeout
      { t with host.tags := s.host.tags.put tag (.quarantined (s.now + 2 * (s.cfg fn).timeoutTicks)) } := by
  have hcto := timeoutTicks_congr ((aer_cto (s.hostError 2 fn.num 0 tag addr 1) fn fn .completionTimeout).trans
    (congrArg CfgSpace.cto (hostError_cfg ..)))
  simp [State.timeOutTag, aer_tags, hostError_tags, hcto]

/-- The request for `p` whose tag has been returned was not the last of its read. -/
theorem requested_of_mem {s : State} {p : Purpose} {tag since addr len : Nat} {f : Fn} {got : Bytes}
    (h : (tag, .outstanding f p since addr len got) ∈ s.host.tags) : s.requested p = true :=
  List.any_eq_true.2 ⟨_, h, by simp⟩

theorem requested_eq_false {s : State} {p : Purpose}
    (h : ∀ t ∈ s.host.tags, ∀ f since addr len got, t.2 ≠ .outstanding f p since addr len got) : s.requested p = false := by
  rw [State.requested, List.any_eq_false]
  intro t ht
  split
  next hx => exact fun heq => h t ht _ _ _ _ _ (hx.trans (by rw [eq_of_beq heq]))
  next => simp

/-- Settles O4: a completion ends, extends or misses an outstanding request of its function. -/
theorem tagsAreFreedAndQuarantined : Obligations.TagsAreFreedAndQuarantined := by
  refine ⟨?unexpected, ?part, ?lastPart, ?lastOfMany, ?early, ?late, ?quarantine⟩
  case unexpected =>
    intro s tag completer fn st b last hlink hfree
    change execHostCompletionRx tag completer fn st b last s = _
    simp [execHostCompletionRx, hlink, hfree]
  case part =>
    intro s tag completer fn what since addr len got b hlink htag hlen
    change execHostCompletionRx tag completer fn .sc b false s = _
    rw [List.length_append] at hlen
    simp [execHostCompletionRx, hlink, htag, hlen]
  case lastPart =>
    intro s tag completer since addr len got b r idx n hlink htag hlen hring hparts hlast
    change execHostCompletionRx tag completer .pf0 .sc b true s = _
    rw [List.length_append] at hlen
    have hdone := requested_eq_false (s := { s with host.tags := s.host.tags.drop1 tag }) hlast
    simp only [hparts] at hdone
    simp [State.ring] at hring
    simp [hring, execHostCompletionRx, hlink, htag, hlen, State.partCame, Purpose.grouped, hdone, hparts, State.deliver, State.ring,
      State.setRing, takeDescs]
  case lastOfMany =>
    intro s tag completer since addr len got b r idx n other f since' addr' len' got' hlink htag hlen hother
    change execHostCompletionRx tag completer .pf0 .sc b true s = _
    rw [List.length_append] at hlen
    have hmore := requested_of_mem (s := { s with host.tags := s.host.tags.drop1 tag }) hother
    simp [execHostCompletionRx, hlink, htag, hlen, State.partCame, Purpose.grouped, hmore]
  case early =>
    intro s tag fn what since addr len got htag hearly
    change execCompletionTimeout tag s = _
    simp [execCompletionTimeout, htag, State.elapsed, Nat.not_le.2 hearly]
  case late =>
    intro s tag fn since addr len got htag hdue
    change execCompletionTimeout tag s = _
    simp [execCompletionTimeout, htag, State.elapsed, hdue, State.partLost, Purpose.grouped, State.deliver, timeOutTag_eq]
  case quarantine =>
    intro s tag u htag
    change execTagQuarantineEnd tag s = _
    simp only [execTagQuarantineEnd, htag]
    split <;> rfl

/-! ### Peer windows (R297 to R300) -/

theorem peerRequest_of_unchanging {s : State} {q : PeerReq} (hlink : s.linkReady = true) (hrun : s.inRun 13 = true)
    (hhold : s.host.holdFull = false) (hpoison : q.poisoned = false) (hstill : s.host.changing = none) :
    exec (.peerRequest q) s = .next (s.peerServe q) := by
  change execPeerRequest q s = _
  simp [execPeerRequest, hlink, hrun, hhold, hpoison, hstill]

theorem admits_of_disabled {w : Win} (h : w.enable = false) (q : PeerReq) : w.admits q = false := by
  simp [Win.admits, h]

/-- The first window that admits a request translates it. -/
theorem peerTarget_of_first {s : State} {q : PeerReq} {n : Nat} (hn : n < 16) (hadmits : (s.win n).admits q = true)
    (hfirst : ∀ m < n, (s.win m).enable = false) :
    s.peerTarget q = some ((s.win n).target * 65536 + (q.addr - (s.win n).base * 65536)) := by
  have hfind : (List.range 16).find? (fun n => (s.win n).admits q) = some n :=
    List.find?_range_eq_some.2 ⟨hadmits, List.mem_range.2 hn, fun m hm => by simp [admits_of_disabled (hfirst m hm)]⟩
  rw [State.peerTarget, hfind]
  rfl

theorem peerTarget_of_none {s : State} {q : PeerReq} (h : ∀ n < 16, (s.win n).enable = false) : s.peerTarget q = none := by
  have hfind : (List.range 16).find? (fun n => (s.win n).admits q) = none :=
    List.find?_eq_none.2 fun n hn => by simp [admits_of_disabled (h n (List.mem_range.1 hn))]
  rw [State.peerTarget, hfind]
  rfl

theorem aer_winCnt (s : State) (fn : Fn) (e : AerError) : (s.aer fn e).host.winCnt = s.host.winCnt := by
  cases fn <;> rfl

theorem logViolation_winCnt (s : State) (p : Bool) (a b c d e : Nat) :
    (s.logViolation p a b c d e).host.winCnt = s.host.winCnt := by
  obtain ⟨-, -, -, -, -, -, -, -, -, -, -, -, -, -, -, h, -⟩ := logViolation_core s p a b c d e
  exact h

/-- Settles O5: the window that is first to admit a request translates it; a commit is staged or rejected, and applied when it is done. -/
theorem peerWindowsTranslateOrReject : Obligations.PeerWindowsTranslateOrReject := by
  refine ⟨?served, ?rejected, ?commit, ?commitRejected, ?change, ?held, ?waits⟩
  case served =>
    intro s q n b hlink hrun hhold hpoison hwr hstill hn hen hwrite hrid hlow hhigh hfirst
    have hadmits : (s.win n).admits q = true := by
      simp only [Win.admits, peerLen, hwr, hen, hwrite, winUnit, hlow, hhigh]
      cases hc : (s.win n).ridCheck <;> simp_all
    rw [peerRequest_of_unchanging hlink hrun hhold hpoison hstill, State.peerServe, peerTarget_of_first hn hadmits hfirst, hwr]
  case rejected =>
    intro s q hlink hrun hhold hpoison hwr hstill hoff
    rw [peerRequest_of_unchanging hlink hrun hhold hpoison hstill, State.peerServe, peerTarget_of_none hoff]
    simp [State.peerReject, hwr, b2n, aer_winCnt, logViolation_winCnt]
  case commit =>
    intro s w hlink hrun hw haccept
    change execWinCommit w s = _
    simp [execWinCommit, hlink, hrun, Nat.mod_eq_of_lt hw, haccept]
  case commitRejected =>
    intro s w r hlink hrun hw hreject hr
    change execWinCommit w s = _
    simp [execWinCommit, hlink, hrun, Nat.mod_eq_of_lt hw, hreject, hr]
  case change =>
    intro s n w hchanging hheld
    change execWinChangeDone s = _
    simp [execWinChangeDone, hchanging, hheld]
  case held =>
    intro s q n w hlink hrun hhold hpoison hchanging htouches
    change execPeerRequest q s = _
    simp [execPeerRequest, hlink, hrun, hhold, hpoison, hchanging, htouches, State.peerHold, State.holdRoom]
  case waits =>
    intro s q hlink hhold
    change execPeerRequest q s = _
    simp [execPeerRequest, hhold]

end Sys2Proof.Machine

/-!
Rings (chapter 13): doorbells, the fetch and completion of descriptors, events and moderation, and the queue commands of chapter 14.
-/

namespace Sys2Proof.Machine

open Sys2Proof

/-! ### The kinds of ring (Tables 13-2, 13-3) -/

theorem not_isCmdRing {r : Nat} (hr : r < mgrBase) (hq : r % 16 ≠ 0) : isCmdRing r = false := by
  have hsec : r ≠ secRing := by unfold mgrBase at hr; unfold secRing; omega
  simp [isCmdRing, hr, hq, hsec]

theorem not_isProducer {r : Nat} (hr : r < mgrBase) (hq : r % 16 < 14) : isProducer r = false := by
  simp [isProducer, hr, hq]

theorem not_isProducer_of_hasMode {r : Nat} (hr : r < mgrBase) (hmode : hasMode r = true) : isProducer r = false := by
  simp only [hasMode, isTxRing, isRxRing, isRegRing, hr, if_true, Bool.or_eq_true, Bool.and_eq_true, decide_eq_true_eq,
    beq_iff_eq] at hmode
  exact not_isProducer hr (by omega)

/-! ### Doorbells (R316, R319) -/

section
variable {s : State} {r : Nat} (hlink : s.linkReady = true) (hr : r < mgrBase)
include hlink hr

theorem exec_doorbell_of_live (hpresent : (s.inst (r / 16)).state ≠ .absent) (hring : (s.ring r).state ≠ .disabled) (v : W32) :
    exec (.doorbell r v) s = .next (s.ring_doorbell r v) := by
  have hlow : ¬mgrBase + 32 ≤ r := by omega
  change execDoorbell r v s = _
  simp [execDoorbell, hlink, hlow, hpresent, hring]

theorem exec_doorbell_of_disabled (hpresent : (s.inst (r / 16)).state ≠ .absent) (hring : (s.ring r).state = .disabled) (v : W32) :
    exec (.doorbell r v) s = .next { s with err.hostCnt := s.err.hostCnt.inc 6 } := by
  have hlow : ¬mgrBase + 32 ≤ r := by omega
  change execDoorbell r v s = _
  simp [execDoorbell, hlink, hlow, hpresent, hring]

theorem exec_doorbell_of_absent (habsent : (s.inst (r / 16)).state = .absent) (v : W32) :
    exec (.doorbell r v) s = .next (s.violPf0 2 (r / 16) (r / 16 * 0x1000 + 4 * (r % 16))) := by
  have hlow : ¬mgrBase + 32 ≤ r := by omega
  change execDoorbell r v s = _
  simp [execDoorbell, hlink, hlow, habsent, hr, doorbellOff]

end

/-- A doorbell on a descriptor ring of an instance: of its push slot it takes what the count says, and its index becomes the ring's. -/
theorem ring_doorbell_of_descriptors {s : State} {r : Nat} {v : W32} (hr : r < mgrBase) (hcmd : r % 16 ≠ 0) (hprod : r % 16 < 14)
    (hpush : bits v.toNat 17 16 ≤ 2) (hindex : (BitVec.ofNat 16 v.toNat - (s.ring r).oldest).toNat ≤ 2 ^ (s.ring r).log2)
    (hcount : bits v.toNat 17 16 ≤ (BitVec.ofNat 16 v.toNat - (s.ring r).pi).toNat) :
    s.ring_doorbell r v = s.setRing r { s.ring r with
      pi := BitVec.ofNat 16 v.toNat
      pushed := (s.ring r).pushed ++ pushedDescs (s.ring r) r (BitVec.ofNat 16 v.toNat) (bits v.toNat 17 16) } := by
  have hmgr : ¬mgrBase ≤ r := Nat.not_le.2 hr
  rw [State.ring_doorbell]
  generalize BitVec.ofNat 16 v.toNat = pi at *
  simp [pushLimit, not_isCmdRing hr hcmd, not_isProducer hr hprod, Nat.not_lt.2 hpush, -BitVec.toNat_sub, Nat.not_lt.2 hindex,
    Nat.not_lt.2 hcount, hmgr, hcmd]

theorem ring_doorbell_of_bad_index {s : State} {r : Nat} {v : W32} (hr : r < mgrBase) (hcmd : r % 16 ≠ 0) (hprod : r % 16 < 14)
    (hpush : bits v.toNat 17 16 ≤ 2) (hindex : 2 ^ (s.ring r).log2 < (BitVec.ofNat 16 v.toNat - (s.ring r).oldest).toNat) :
    s.ring_doorbell r v = s.violInst (r / 16) 3 (r % 16) (r % 16 + 256) (r / 16 * 0x1000 + 4 * (r % 16)) := by
  rw [State.ring_doorbell]
  generalize BitVec.ofNat 16 v.toNat = pi at *
  simp [pushLimit, not_isCmdRing hr hcmd, not_isProducer hr hprod, Nat.not_lt.2 hpush, -BitVec.toNat_sub, hindex, State.violDoorbell, ringNo, hr, doorbellOff]

theorem pushedDescs_of_descriptors {r : Nat} (hr : r < mgrBase) (hcmd : r % 16 ≠ 0) (x : Ring) (pi : BitVec 16) (n : Nat) :
    pushedDescs x r pi n = (List.range n).map (fun k => (pi - BitVec.ofNat 16 (n - k), slice x.push (32 * k) 32)) := by
  simp [pushedDescs, not_isCmdRing hr hcmd]

/-! ### Rings under an ENABLE bit (R367, R481) -/

theorem ring_put_same (s : State) (r : Nat) (x : Ring) : State.ring { s with rings := s.rings.put r x } r = x :=
  KMap.getD_put_same ..

@[simp] theorem ring_setRing_same (s : State) (r : Nat) (x : Ring) : (s.setRing r x).ring r = x := ring_put_same s r x

theorem ring_setRing_ne (s : State) {r q : Nat} (x : Ring) (h : q ≠ r) : (s.setRing r x).ring q = s.ring q :=
  KMap.getD_put_ne _ _ _ h

@[simp] theorem setRing_setRing (s : State) (r : Nat) (x y : Ring) : (s.setRing r x).setRing r y = s.setRing r y := by
  simp [State.setRing]

theorem mring0Log2_bits (v : Nat) : mring0Log2 (bits v 3 0) = if 6 ≤ bits v 3 0 then bits v 3 0 else 6 := by
  have hlt : bits v 3 0 < 2 ^ 4 := Nat.mod_lt _ (by decide)
  have hle : bits v 3 0 ≤ 15 := by omega
  simp [mring0Log2, hle]

/-- Settles O6: a doorbell is checked, then its index and pushes become the ring's; an ENABLE bit starts or stops its ring. -/
theorem doorbellsPublishOrViolate : Obligations.DoorbellsPublishOrViolate := by
  refine ⟨?descriptors, ?badIndex, ?disabled, ?absent, ?secDoorbell, ?secEnable, ?mringEnable, ?mringDisable⟩
  case descriptors =>
    intro s r v hlink hr hpresent hring hcmd hprod hpush hindex hcount
    rw [exec_doorbell_of_live hlink hr hpresent hring, ring_doorbell_of_descriptors hr hcmd hprod hpush hindex hcount,
      pushedDescs_of_descriptors hr hcmd]
    rfl
  case badIndex =>
    intro s r v hlink hr hpresent hring hcmd hprod hpush hindex
    rw [exec_doorbell_of_live hlink hr hpresent hring, ring_doorbell_of_bad_index hr hcmd hprod hpush hindex]
  case disabled =>
    intro s r v hlink hr hpresent hring
    exact exec_doorbell_of_disabled hlink hr hpresent hring v
  case absent =>
    intro s r v hlink hr habsent
    exact exec_doorbell_of_absent hlink hr habsent v
  case secDoorbell =>
    intro s v hlink hring
    change execSecRingDoorbell v s = _
    simp only [execSecRingDoorbell, hlink, hring, if_false, Bool.not_true, Bool.false_eq_true]
    split <;> rfl
  case secEnable =>
    intro s v hlink hoff hen
    change ∃ t, execSecRingEnable v s = _ ∧ _
    simp [execSecRingEnable, hlink, hoff, hen, State.setVote, State.ringStart, State.setRing, State.ring, secLog2, SamePath, SameGrid,
      SameInst, SameHost, SameProc]
  case mringEnable =>
    intro s v hlink hoff hen
    change execMring0Enable v s = _
    simp [execMring0Enable, hlink, hoff, hen, State.mring0Cfg, State.ringStart, State.setRing, State.ring, mring0Log2_bits]
  case mringDisable =>
    intro s v hlink hon hen hring hidle
    change execMring0Disable v s = _
    simp [State.ring] at hring
    simp [State.inProgress] at hidle
    simp [execMring0Disable, hlink, hon, hen, State.mring0Cfg, State.ringStop, State.setRing, State.ring, hring, State.ringWindDown,
      State.ringOn, State.inProgress]
    exact fun a ha h => absurd h (hidle a ha)

/-! ### Descriptor fetch (R292, R320, R321) -/

/-- A read of at most 64 aligned octets lies within one multiple of the Max Read Request Size: it is one request. -/
theorem readParts_of_within (x : CfgSpace) {addr len : Nat} (halign : addr % 64 = 0) (hpos : 0 < len) (hlen : len ≤ 64) :
    x.readParts addr len = [(addr, len)] := by
  obtain ⟨k, hk⟩ : ∃ k, x.readMax = 64 * (2 * k) := ⟨2 ^ min x.mrrs 5, by rw [CfgSpace.readMax]; ring⟩
  have hmax : 0 < x.readMax := Nat.mul_pos (by decide) (by positivity)
  obtain ⟨q, rfl⟩ := Nat.dvd_of_mod_eq_zero halign
  have hlow : 64 * q / x.readMax * x.readMax ≤ 64 * q := Nat.div_mul_le_self ..
  have hblock : (64 * q + 63) / x.readMax = 64 * q / x.readMax := by
    have hup : (64 * q + 63) / 64 = q := by omega
    rw [hk, ← Nat.div_div_eq_div_mul, hup, Nat.mul_div_mul_left _ _ (by decide)]
  have hlast : (64 * q + len - 1) / x.readMax = 64 * q / x.readMax := by
    apply le_antisymm
    · exact hblock ▸ Nat.div_le_div_right (by omega)
    · exact Nat.div_le_div_right (by omega)
  have hhigh : 64 * q + len ≤ (64 * q / x.readMax + 1) * x.readMax := by
    have hlt : 64 * q + 63 < (64 * q / x.readMax + 1) * x.readMax := by
      rw [← hblock]
      exact Nat.lt_mul_of_div_lt (Nat.lt_succ_self _) hmax
    omega
  simp [CfgSpace.readParts, hlast, Nat.max_eq_left hlow, Nat.min_eq_left hhigh, Nat.ne_of_gt hpos]

theorem readParts_of_entry (x : CfgSpace) {addr : Nat} (halign : addr % 64 = 0) : x.readParts addr 64 = [(addr, 64)] :=
  readParts_of_within x halign (by decide) le_rfl

theorem requestOne_of_tag {s : State} {fn : Fn} {t : Nat} (h : s.freeTag fn = some t) (pasid : Option Nat) (r k addr len : Nat) :
    s.requestOne fn pasid (.cmdEntry r k) addr len = some { s with
      host.tags := s.host.tags.put t (.outstanding fn (.cmdEntry r k) s.now addr len [])
      out := s.out ++ [.readReq fn pasid (s.xlate fn pasid addr) len t] } := by
  unfold State.requestOne
  rw [h]
  rfl

theorem requestOne_of_no_tag {s : State} {fn : Fn} (h : s.freeTag fn = none) (pasid : Option Nat) (what : Purpose) (addr len : Nat) :
    s.requestOne fn pasid what addr len = none := by
  unfold State.requestOne
  rw [h]

section
variable {s : State} {r : Nat} (hmay : s.mayFetch r = true) (hcmd : isCmdRing r = true)
include hmay hcmd

/-- A command entry that was not pushed is read with one request, where a tag is usable for it. -/
theorem exec_descriptorFetch_of_command {o : Option State} (hpushed : ∀ p ∈ (s.ring r).pushed, p.1 ≠ (s.ring r).fetch)
    (halign : (s.ring r).slotAddr 64 (s.ring r).fetch % 64 = 0)
    (hreq : s.requestOne (ringFn r) (s.ringPasid r) (.cmdEntry r (s.ring r).fetch.toNat)
      ((s.ring r).slotAddr 64 (s.ring r).fetch) 64 = o) :
    exec (.descriptorFetch r) s = .next (o.getD { s with err.hostCnt := s.err.hostCnt.inc 0 }) := by
  have hnone : (s.ring r).pushed.any (fun p => p.1 == (s.ring r).fetch) = false := by
    rw [List.any_eq_false]
    exact fun p hp => by simpa using hpushed p hp
  change execDescriptorFetch r s = _
  cases o <;>
    simp [execDescriptorFetch, hmay, hcmd, hnone, State.requestRead, readParts_of_entry _ halign, hreq]

theorem exec_descriptorFetch_of_pushed_command {p : BitVec 16 × Bytes} (hmem : p ∈ (s.ring r).pushed)
    (hp : p.1 = (s.ring r).fetch) : exec (.descriptorFetch r) s = .next s := by
  have hany : (s.ring r).pushed.any (fun p => p.1 == (s.ring r).fetch) = true := List.any_eq_true.2 ⟨p, hmem, by simp [hp]⟩
  change execDescriptorFetch r s = _
  simp only [execDescriptorFetch, hmay, hcmd, hany]
  rfl

end

theorem exec_descriptorFetch_of_pushed {s : State} {r : Nat} {k : BitVec 16} {b : Bytes} (hmay : s.mayFetch r = true)
    (hcmd : isCmdRing r = false) (hfind : (s.ring r).pushed.find? (fun p => p.1 == (s.ring r).fetch) = some (k, b)) :
    exec (.descriptorFetch r) s = .next (s.setRing r { s.ring r with
      fetch := (s.ring r).fetch + 1, pushed := (s.ring r).pushed.filter (fun p => p.1 != k)
      descs := (s.ring r).descs ++ [{ idx := k, body := b, inPlace := (s.ring r).modeAt k }] }) := by
  change execDescriptorFetch r s = _
  simp only [execDescriptorFetch, hmay, hcmd, hfind]
  rfl

/-! ### A frame that one buffer takes (R326) -/

section
variable {s : State} {r : Nat} {d : Desc} {ds : List Desc} {n : Nat} (hok : rxDescOk d.body = true)
  (htable : bit (byteAt d.body 16) 5 = false)

theorem bufferDescs_of_fit (hn : n ≠ 0) (hfit : n ≤ leAt d.body 8 4) : bufferDescs (d :: ds) n = [d] := by
  cases n with
  | zero => exact absurd rfl hn
  | succ m => simp [bufferDescs, Nat.sub_eq_zero_of_le hfit]

include hok htable

theorem rxOffer_of_plain (t : HostRead) : s.rxOffer r d t = (.pieces [(leAt d.body 0 8, leAt d.body 8 4)] (leAt d.body 8 4), s) := by
  simp [State.rxOffer, hok, hasTable, htable]

theorem takeBuffers_of_fit (hn : n ≠ 0) (hfit : n ≤ leAt d.body 8 4) :
    s.takeBuffers r (d :: ds) [] n =
      (some [(d, .pieces [(leAt d.body 0 8, leAt d.body 8 4)] (leAt d.body 8 4))], s) := by
  cases n with
  | zero => exact absurd rfl hn
  | succ m =>
    have hrest : m + 1 - leAt d.body 8 4 = 0 := Nat.sub_eq_zero_of_le hfit
    simp [State.takeBuffers, rxOffer_of_plain hok htable, hrest]

end

/-- The frame is written whole into the buffer, which completes with its length. -/
theorem rxTake_of_fit {s : State} {r a len : Nat} {f : RxFrame} {fs : List RxFrame} {d : Desc} (hframes : (s.ring r).frames = f :: fs)
    (hbody : f.body ≠ []) (hfit : f.body.length ≤ len) (hbounds : s.ringInBounds r a f.body.length false true = true) :
    s.rxTake r f [(d, .pieces [(a, len)] len)] =
      let t := (((s.setRing r { s.ring r with frames := fs }).freeRx r f).postRing r a f.body).completeDesc r d
        (rxCompletion d r f 0 f.body.length false)
      (if r < mgrBase then t.actCount 1 else t).rxEnd f none := by
  have hlen : f.body.length ≠ 0 := by simpa using hbody
  have hmin : min len f.body.length = f.body.length := Nat.min_eq_right hfit
  simp [State.rxTake, State.badPiece, spread, hmin, hlen, hbounds, State.popFrame, hframes, State.fillBuffers, State.scatter,
    State.rxDelivered]

/-! ### Completions that waited (R332) -/

theorem advance_keeps (n : Nat) (x : Ring) :
    (x.advance n).descs = x.descs ∧ (x.advance n).held = x.held ∧ (x.advance n).switch = x.switch ∧
      (x.advance n).fetch = x.fetch := by
  induction n generalizing x with
  | zero => simp [Ring.advance]
  | succ n ih =>
    rw [Ring.advance]
    split
    · simp [ih]
    · simp

theorem complete_keeps (x : Ring) (k : BitVec 16) :
    (x.complete k).held = x.held ∧ (x.complete k).switch = x.switch ∧ (x.complete k).fetch = x.fetch := by
  simp [Ring.complete, advance_keeps]

theorem complete_descs (x : Ring) (k : BitVec 16) : (x.complete k).descs = x.descs.filter (fun d => d.idx != k) := by
  simp [Ring.complete, advance_keeps]

/-- Moderation touches what waits for its signal, nothing else of any ring. -/
theorem moderate_ring (s : State) (r v q : Nat) :
    ((s.moderate r v).ring q).held = (s.ring q).held ∧ ((s.moderate r v).ring q).switch = (s.ring q).switch ∧
      ((s.moderate r v).ring q).fetch = (s.ring q).fetch ∧ ((s.moderate r v).ring q).descs = (s.ring q).descs := by
  have hmsi (l : List Nat) (t : State) : (l.foldl (fun s v => s.msi (ringFn r) v) t).ring q = t.ring q := by simp [State.ring]
  by_cases hq : q = r
  · subst hq
    simp only [State.moderate, State.signal]
    (repeat' split) <;> simp [hmsi]
  · simp only [State.moderate, State.signal]
    (repeat' split) <;> simp [hmsi, ring_setRing_ne _ _ hq]

theorem produce_ring_same (s : State) (p : Nat) (b : Bytes) :
    (s.produce p b).ring p = { s.ring p with fetch := (s.ring p).fetch + 1 } := by
  simp [State.produce, State.ring, State.setRing]

theorem produce_ring_ne (s : State) {p q : Nat} (b : Bytes) (h : q ≠ p) : (s.produce p b).ring q = s.ring q := by
  rw [State.produce]
  exact (ring_setRing_ne _ _ h).trans (by simp [State.ring])

/-- An entry of another ring that there is room for is written, and its descriptor has completed. -/
theorem toComplRing_of_room {s : State} {p : Nat} {w : Waiting} (hheld : (s.ring p).held = []) (hroom : (s.ring p).room = true)
    (hkind : byteAt w.body 27 = 1 ∨ byteAt w.body 27 = 2) :
    s.toComplRing p w =
      ((s.produce p w.body).setRing w.ring (((s.produce p w.body).ring w.ring).complete w.idx)).moderate w.ring
        (ringVector w.ring) := by
  have h5 : byteAt w.body 27 ≠ 5 := by omega
  have h4 : byteAt w.body 27 ≠ 4 := by omega
  simp [State.toComplRing, hheld, hroom, h5, h4]

/-- What the write of such an entry comes to, for its completion ring and for the descriptor's own. -/
theorem toComplRing_rings {s : State} {p : Nat} {w : Waiting} (hheld : (s.ring p).held = []) (hroom : (s.ring p).room = true)
    (hkind : byteAt w.body 27 = 1 ∨ byteAt w.body 27 = 2) (hne : w.ring ≠ p) :
    ((s.toComplRing p w).ring p).fetch = (s.ring p).fetch + 1 ∧
      ((s.toComplRing p w).ring w.ring).held = (s.ring w.ring).held ∧
      ((s.toComplRing p w).ring w.ring).switch = (s.ring w.ring).switch ∧
      ((s.toComplRing p w).ring w.ring).descs = (s.ring w.ring).descs.filter (fun d => d.idx != w.idx) := by
  simp [toComplRing_of_room hheld hroom hkind, moderate_ring, ring_setRing_ne _ _ hne.symm, produce_ring_same,
    produce_ring_ne _ _ hne, complete_keeps, complete_descs]

theorem markSwitch_of_none {s : State} {r : Nat} (h : (s.ring r).switch = none) : s.markSwitch r = s := by
  simp [State.markSwitch, h]

/-- The entry that waited alone is written once there is room: what its ring then holds is done. -/
theorem exec_taggedCompletionResume {s : State} {r : Nat} {w : Waiting} (hprod : isProducer r = true) (hlink : s.linkReady = true)
    (hlive : s.ownerLive r = true) (hheld : (s.ring r).held = [w]) (hroom : (s.ring r).room = true)
    (hkind : byteAt w.body 27 = 1 ∨ byteAt w.body 27 = 2) (hne : w.ring ≠ r) (hown : (s.ring w.ring).held = [])
    (hswitch : (s.ring w.ring).switch = none) :
    exec (.taggedCompletionResume r) s =
      let t := (s.setRing r { s.ring r with held := [] }).toComplRing r w
      .next (t.setRing r { t.ring r with held := [] }) := by
  have hother : (s.setRing r { s.ring r with held := [] }).ring w.ring = s.ring w.ring := ring_setRing_ne _ _ hne
  obtain ⟨-, hheld', hswitch', -⟩ := toComplRing_rings (s := s.setRing r { s.ring r with held := [] }) (p := r) (w := w)
    (by simp) (by simpa [Ring.room] using hroom) hkind hne
  rw [hother] at hheld' hswitch'
  change execTaggedCompletionResume r s = _
  simp only [execTaggedCompletionResume, hheld, hprod, hroom, hlink, hlive, Bool.and_self, if_true, ring_setRing_ne _ _ hne,
    hheld', hown, List.length_nil, State.releaseInPlace]
  rw [markSwitch_of_none (by rw [ring_setRing_ne _ _ hne, hswitch', hswitch])]

/-- Settles O7: what one fetch, one delivery and one completion change, each from the lemma about it. -/
theorem descriptorsCompletionsAndEvents : Obligations.DescriptorsCompletionsAndEvents := by
  refine ⟨?pushed, ?fetched, ?noTag, ?pushedCommand, ?receive, ?completion, ?lost, ?holdoffOver, ?holdoffRuns, ?stopped⟩
  case pushed =>
    intro s r k b hmay hcmd hfind
    exact exec_descriptorFetch_of_pushed hmay hcmd hfind
  case fetched =>
    intro s r t hmay hcmd hpushed halign htag
    exact exec_descriptorFetch_of_command hmay hcmd hpushed halign (requestOne_of_tag htag ..)
  case noTag =>
    intro s r hmay hcmd hpushed halign htag
    exact exec_descriptorFetch_of_command hmay hcmd hpushed halign (requestOne_of_no_tag htag ..)
  case pushedCommand =>
    intro s r p hmay hcmd hmem hp
    exact exec_descriptorFetch_of_pushed_command hmay hcmd hmem hp
  case receive =>
    intro s r f fs d ds hrx hlink hbme hrun hhove hactive hring hwaits hframes hdescs hfresh hok htable hbody hfit hbounds
    have hlen : f.body.length ≠ 0 := by simpa using hbody
    have hopen : s.rxOpen r = true := by simp [State.rxOpen, State.mayRead, State.cfg, *]
    change execRxFrameDeliver r [] s = _
    simp [execRxFrameDeliver, hopen, hframes, hdescs, hfresh, bufferDescs_of_fit hlen hfit, hasTable, htable,
      takeBuffers_of_fit hok htable hlen hfit, rxTake_of_fit hframes hbody hfit hbounds]
  case completion =>
    intro s r w hprod hlink hlive hheld hroom hkind hne hown hswitch
    obtain ⟨hfetch, hheld', hswitch', hdescs⟩ := toComplRing_rings (s := s.setRing r { s.ring r with held := [] }) (p := r) (w := w)
      (by simp) (by simpa [Ring.room] using hroom) hkind hne
    refine ⟨_, exec_taggedCompletionResume hprod hlink hlive hheld hroom hkind hne hown hswitch, ?_⟩
    simp [hfetch, ring_setRing_ne _ _ hne, hdescs, SamePath, SameGrid, SameBoard, SameProc]
  case lost =>
    intro s i hi hlink hactive hroom hlost
    have hle : i ≤ 512 := hi.le
    change execEventsLost i s = _
    simp [execEventsLost, hle, hlink, State.flushLost, hlost, eventRing, hi, hroom, hactive, eventState]
  case holdoffOver =>
    intro s r hpending hdue
    change execIntHoldoffExpiry r s = _
    simp [execIntHoldoffExpiry, hpending, State.elapsed, hdue, State.signal, State.setRing]
  case holdoffRuns =>
    intro s r hpending hearly
    change execIntHoldoffExpiry r s = _
    simp [execIntHoldoffExpiry, State.elapsed, Nat.not_le.2 hearly]
  case stopped =>
    intro s r hr hdrained hnone
    have hlow : r < mgrBase + 32 := by omega
    have hfilter (t : State) (ht : t.dechan = s.dechan) :
        t.replyAll (fun a => a.opcode == 0x0303 && !a.waits && cmdQueue a.cmd == some r) 0 0 = t := by
      rw [State.replyAll, ht, List.filter_eq_nil_iff.2 fun a ha => by simp [hnone a ha]]
      rfl
    refine ⟨_, ?_, rfl⟩
    change execRingStopped r s = _
    simp only [execRingStopped, hdrained, hlow, decide_true, Bool.and_self, if_true]
    rw [hfilter _ (by simp)]
    simp [ringOwner, ringNo, hr, State.setRing]

/-! ### Queue commands (R335, R339) -/

/-- Table 14-10: a queue command on a ring whose state its row lists. -/
theorem ringConflict_of_legal {s : State} {r legal : Nat} (h : bit legal (s.ring r).state.code = true) :
    s.ringConflict r legal = none := by
  simp [State.ringConflict, h]

/-- Settles O8: past the ring's own checks each command is one change of its ring. -/
theorem queueCommandsChangeTheirRing : Obligations.QueueCommandsChangeTheirRing := by
  refine ⟨?config, ?enable, ?drain, ?disable, ?setMode, ?query⟩
  case config =>
    intro s c r
    dsimp only
    intro hready hq hmgr hkind hring hlow hhigh hholdoff hbase hbounds
    refine answers_of rfl hready rfl ?_
    generalize State.opened s _ c = t at *
    have hlegal := ringConflict_of_legal (s := t) (r := r) (legal := 0x01) (by rw [hring]; rfl)
    simp [hq, hkind, queueBody, hmgr, hlegal, queueConfigBody, Nat.not_lt.2 hlow,
      Nat.not_lt.2 hhigh, Nat.not_lt.2 hholdoff, hbase, hbounds, State.setRing]
  case enable =>
    intro s c r
    dsimp only
    intro hready hq hr hmode hring hconf hretag hstart hdescs hheld hforget
    refine answers_of rfl hready rfl ?_
    generalize State.opened s _ c = t at *
    have hmgr : r ≠ mgrBase := hr.ne
    have hlegal := ringConflict_of_legal (s := t) (r := r) (legal := 0x19) (by rw [hring]; rfl)
    simp [hq, queueBody, hmgr, hlegal, hring, queueEnableBody, hstart, hconf, hretag, hforget,
      not_isProducer_of_hasMode hr hmode, State.setRing, hdescs, hheld]
  case drain =>
    intro s c r
    dsimp only
    intro hready hq hmgr hcmd hprod hrx hring
    refine answers_of rfl hready rfl ?_
    generalize State.opened s _ c = t at *
    have hlegal := ringConflict_of_legal (s := t) (r := r) (legal := 0x02) (by rw [hring]; rfl)
    simp [hq, hcmd, hprod, queueBody, hmgr, hlegal, hrx, State.setRing]
  case disable =>
    intro s c r
    dsimp only
    intro hready hq hmgr hcmd hprod hring hframes hforget
    refine answers_of rfl hready rfl ?_
    generalize State.opened s _ c = t at *
    have hlegal := ringConflict_of_legal (s := t) (r := r) (legal := 0x18) (by rw [hring]; rfl)
    simp [hq, hcmd, hprod, queueBody, hmgr, hlegal, hframes, hforget, State.setRing]
  case setMode =>
    intro s c r
    dsimp only
    intro hready hq hmgr hring hmode hmod hholdoff
    refine answers_of rfl hready rfl ?_
    generalize State.opened s _ c = t at *
    have hlegal := ringConflict_of_legal (s := t) (r := r) (legal := 0x1F) (by cases (t.ring r).state <;> rfl)
    simp [hq, queueBody, hmgr, hlegal, queueSetModeBody, hmode, hmod, Nat.not_lt.2 hholdoff, State.setRing]
  case query =>
    intro s c r
    dsimp only
    intro hready hq hprod
    refine answers_of rfl hready rfl ?_
    generalize State.opened s _ c = t at *
    have hlegal := ringConflict_of_legal (s := t) (r := r) (legal := 0x1F) (by cases (t.ring r).state <;> rfl)
    simp [hq, queueBody, hlegal, queueQueryData, hprod]

end Sys2Proof.Machine

/-!
The range classifier (chapter 07): its commands on a bank that can be reached, the block move and the chart check.
-/

namespace Sys2Proof.Machine

open Sys2Proof

/-! ### Bank commands while D7 runs (R184, R186, R188, R189) -/

theorem clsBankBody_of_reachable {s : State} {c : Cmd} (hbank : c.handle < 32) (hrun : s.inRun 7 = true)
    (hstate : (s.clsBank c.handle).state = .empty ∨ (s.clsBank c.handle).state = .populated) (body : ClsBank → State → Reply) :
    clsBankBody c body s = body (s.clsBank c.handle) s := by
  rw [clsBankBody, if_neg (Nat.not_le.2 hbank), hrun]
  rcases hstate with h | h <;> simp [h]

/-! ### The chart check (R183, R190) -/

theorem opened_injectTimeout (s : State) (op : Op) (c : Cmd) : (s.opened op c).err.injectTimeout = s.err.injectTimeout := by
  simp only [State.opened]
  split <;> simp [accept_injectTimeout]

/-- With no injected timeout, a read of PF 0 brings the octets that the command carries. -/
theorem readResult_of_data {s : State} (hinject : s.err.injectTimeout = false) (fn : Fn) (addr : Nat) (b : Bytes) :
    s.readResult fn addr (.data b) = (some b, s) := by
  simp [State.readResult, State.effRead, hinject]

/-- The octets of a chart's line: zeros where the chart lists none. -/
def chartOctets (chart : List (Nat × Bytes)) (len k : Nat) : Bytes :=
  slice (((chart.find? (fun p => p.1 == k)).map (·.2)).getD (zeros len)) 0 len

theorem chartLine_of_data {s : State} (hinject : s.err.injectTimeout = false) (chart : List (Nat × Bytes)) (base len k : Nat) :
    s.chartLine (chart.map (fun p => (p.1, .data p.2))) base len k = (some (chartOctets chart len k), s) := by
  have hline : ((((chart.map (fun p => (p.1, HostRead.data p.2))).find? (fun p => p.1 == k)).map (·.2)).getD (.data (zeros len))) =
      .data (((chart.find? (fun p => p.1 == k)).map (·.2)).getD (zeros len)) := by
    rw [List.find?_map]
    simp only [Function.comp_def]
    cases chart.find? (fun p => p.1 == k) <;> rfl
  rw [State.chartLine, hline, readResult_of_data hinject]
  rfl

/-- The first comparison of a chart that can be read keeps the lines that differ. -/
theorem chartPass_of_data {s : State} (hinject : s.err.injectTimeout = false) (chart : List (Nat × Bytes)) (base len : Nat)
    (differs : Nat → Bytes → Bool) (ks : List Nat) :
    State.chartPass (chart.map (fun p => (p.1, .data p.2))) base len differs ks s =
      (ks.filter (fun k => differs k (chartOctets chart len k)), s) := by
  induction ks with
  | nil => rfl
  | cons k ks ih =>
    rw [State.chartPass, chartLine_of_data hinject]
    simp only [ih, List.filter_cons]
    rfl

theorem lineMismatch_self (l : Bytes) : lineMismatch l l = none := if_pos rfl

/-- Settles O9: a reachable bank hands each command to its body. -/
theorem classifierCommandsChangeTheirBank : Obligations.ClassifierCommandsChangeTheirBank := by
  refine ⟨?bankConfig, ?insertAt, ?insertMoves, ?moveDone, ?delete, ?queryImage, ?querySearch, ?chartCheck, ?recheck, ?checkDone⟩
  case bankConfig =>
    intro s c
    dsimp only
    intro hready hbank hrun hclear hwidth hfields
    refine answers_of rfl hready rfl ?_
    rw [← inRun_opened s { code := 0x0501 } c] at hrun
    generalize State.opened s _ c = t at *
    have hbad : ¬(byteAt c.data 0 ≠ 1 ∧ byteAt c.data 0 ≠ 2 ∧ byteAt c.data 0 ≠ 4) := by omega
    simp only [clsBankConfigBody, Nat.not_le.2 hbank, hrun, hclear, hbad, hfields, Bool.not_true, Bool.false_eq_true, false_and,
      and_false, true_or, if_true, if_false, List.isEmpty_nil]
    rfl
  case insertAt =>
    intro s c
    dsimp only
    intro hready hbank hrun hstate hlen hsteer hbound hat hpos hordered
    refine answers_of rfl hready rfl ?_
    rw [← inRun_opened s { code := 0x0502, lens := [32, 64, 128] } c] at hrun
    generalize State.opened s _ c = t at *
    rw [clsBankBody_of_reachable hbank hrun hstate]
    simp [clsInsertBody, hlen, hsteer, hbound, hat, Nat.not_le.2 hpos, hordered, State.setClsBank, insertReply]
  case insertMoves =>
    intro s c p f n
    dsimp only
    intro hready hbank hrun hstate hlen hsteer hbound hat hplace hn
    refine answers_of rfl hready rfl ?_
    rw [← inRun_opened s { code := 0x0502, lens := [32, 64, 128] } c] at hrun
    generalize State.opened s _ c = t at *
    rw [clsBankBody_of_reachable hbank hrun hstate]
    simp [clsInsertBody, hlen, hsteer, hbound, hat, hplace, hn, State.setClsBank]
  case moveDone =>
    intro s b m hrun hmove hnone
    change ∃ t, execClsBlockMoveDone b s = _ ∧ _
    have hwaiting : s.dechan.accepted.filter (fun a => a.opcode == 0x0502 && !a.waits && a.cmd.handle == b) = [] :=
      List.filter_eq_nil_iff.2 fun a ha => by simp [hnone a ha]
    simp [execClsBlockMoveDone, hrun, State.clsMoveEnd, hmove, hwaiting, SameGrid, SameInst, SameBoard, SameHost]
  case delete =>
    intro s c
    dsimp only
    intro hready hbank hrun hstate hpos hhas
    refine answers_of rfl hready rfl ?_
    rw [← inRun_opened s { code := 0x0503 } c] at hrun
    generalize State.opened s _ c = t at *
    rw [clsBankBody_of_reachable hbank hrun (.inr hstate)]
    simp [Nat.not_le.2 hpos, hhas, State.setClsBank]
  case queryImage =>
    intro s c
    dsimp only
    intro hready hbank hrun hstate hlen hmode hpos
    refine answers_of rfl hready rfl ?_
    rw [← inRun_opened s { code := 0x0504, lens := [32, 64, 128], reads := bit (byteAt c.data 2) 0, writes := true } c] at hrun
    generalize State.opened s _ c = t at *
    rw [clsBankBody_of_reachable hbank hrun hstate]
    simp [clsQueryBody, hlen, hmode, Nat.not_le.2 hpos]
  case querySearch =>
    intro s c
    dsimp only
    intro hready hbank hrun hstate hlen hmode
    refine answers_of rfl hready rfl ?_
    rw [← inRun_opened s { code := 0x0504, lens := [32, 64, 128], reads := bit (byteAt c.data 2) 0, writes := true } c] at hrun
    generalize State.opened s _ c = t at *
    rw [clsBankBody_of_reachable hbank hrun hstate]
    simp [clsQueryBody, hlen, hmode]
  case chartCheck =>
    intro s c chart
    dsimp only
    intro hready hbank hrun hstate hbase hreport hpos hmax hidle hinject
    refine answers_of rfl hready rfl ?_
    rw [← inRun_opened s { code := 0x0505, lens := [32] } c] at hrun
    rw [← opened_injectTimeout s { code := 0x0505, lens := [32] } c] at hinject
    generalize State.opened s _ c = t at *
    have hn : ¬(leAt (bufferOf { code := 0x0505, lens := [32] } c) 16 4 = 0 ∨
      65536 < leAt (bufferOf { code := 0x0505, lens := [32] } c) 16 4) := by omega
    rw [clsBankBody_of_reachable hbank hrun hstate]
    simp only [clsChartCheckBody, hbase, hreport, hn, hidle, State.chartReads, Nat.mul_zero, Nat.add_zero]
    rw [chartPass_of_data (by simpa using hinject)]
    rfl
  case recheck =>
    intro s k m p line hcheck hfind hhove hrun hsettled hmove hnone hheld hinject hagrees
    have hreplied : s.unreplied 0x0501 0x0505 k.bank = false := by
      rw [State.unreplied, List.any_eq_false]
      exact fun a ha h => hnone a ha (by simp_all)
    change execClsChartRecheck p (.data line) s = _
    have hread := chartLine_of_data (s := s.chartReads k.chartBase (32 * (s.clsBank k.bank).width) p 1)
      (by simpa [State.chartReads] using hinject) [(p, line)] k.chartBase (32 * (s.clsBank k.bank).width) p
    have hbank : (s.chartReads k.chartBase (32 * (s.clsBank k.bank).width) p 1).clsBank k.bank = s.clsBank k.bank := by
      simp [State.chartReads, State.clsBank]
    have hline : chartOctets [(p, line)] (32 * (s.clsBank k.bank).width) p = (s.clsBank k.bank).line p := by
      simp [chartOctets, hagrees]
    simp only [List.map_cons, List.map_nil, hline] at hread
    simp [execClsChartRecheck, hcheck, hfind, hhove, hrun, hsettled, hmove, hreplied, hheld, hread, State.clsRecheck, hbank,
      lineMismatch_self]
    simp [State.chartReads]
  case checkDone =>
    intro s k hcheck hwaiting hhove
    change execClsChartCheckDone s = _
    simp [execClsChartCheckDone, hcheck, hwaiting, hhove, State.endClsCheck, b2n]

end Sys2Proof.Machine

/-!
The flow table (chapter 06): its commands, and its background jobs.
-/

namespace Sys2Proof.Machine

open Sys2Proof

/-! ### Flow commands (R152, R153, R155, R168, R490) -/

theorem legal_handle {h : Nat} (hlt : h < 2 ^ 20) : ¬flowHandles ≤ h := Nat.not_le.2 hlt

theorem flowQuotaOk_of_manager {s : State} {c : Cmd} (hmgr : cmdTenant c = none) (h : Nat) : s.flowQuotaOk c h = true := by
  simp [State.flowQuotaOk, hmgr]

/-- Where a handle's entry stands is what the handle names. -/
theorem entryOf_of_place {f : Flow} {h : Nat} {pl : FlowPlace} {x : FlowEntry} (hplace : f.findHandle h = some pl)
    (hentry : f.entry pl = some x) : f.entryOf h = some x := by
  simp [Flow.entryOf, hplace, hentry]

/-- R152 with a free slot in the emptier candidate: it is taken, and nothing is displaced. -/
theorem insert_of_free_slot {f : Flow} {e : FlowEntry} {c0 c1 : Nat × Nat} {i : Nat} {is : List Nat}
    (hcands : f.cands e.profile e.key = [c0, c1]) (hfuller : (f.freeSlots c1).length ≤ (f.freeSlots c0).length)
    (hfree : f.freeSlots c0 = i :: is) :
    f.insert e = some (({ f with handles := f.handles.put e.handle false, recs := f.recs.put e.handle {} } : Flow).putAt
      (.slot c0.1 c0.2 i) e, .slot c0.1 c0.2 i, 0) := by
  have hslot : f.makeSlot f.displaceMax e.profile e.key = some (f, .slot c0.1 c0.2 i, 0) := by
    unfold Flow.makeSlot
    rw [hcands]
    simp only [Nat.not_lt.2 hfuller, if_false]
    rw [hfree]
  simp [Flow.insert, Flow.makePlace, hslot]

theorem profRejects_of_select (s : State) (sel : Nat) (map : Bool) (p : Nat) :
    ({ s with flow.profSelect := sel, flow.profSelMap := map } : State).profRejects p = s.profRejects p := rfl

theorem prof_of_select (s : State) (sel : Nat) (map : Bool) (p : Nat) :
    ({ s with flow.profSelect := sel, flow.profSelMap := map } : State).prof p = s.prof p := rfl

/-- Settles O10: each command, its checks past, does what its body says to the entry it names. -/
theorem flowCommandsChangeTheTable : Obligations.FlowCommandsChangeTheTable := by
  refine ⟨?insert, ?duplicate, ?freeSlot, ?write, ?delete, ?query, ?profileCommit⟩
  case insert =>
    intro s c f pl n
    dsimp only
    intro hready hmgr howner hnvmet hflow hlt himage hfree hkey hinsert
    refine answers_of rfl hready rfl ?_
    generalize State.opened s _ c = t at *
    have hmanager : t.flow.insert { imageFields t (bufferOf _ c) none with handle := c.handle, owner := 0 } = some (f, pl, n) :=
      hinsert
    simp [flowInsertBody, hmgr, flowQuotaOk_of_manager, howner, State.flowPermit, hnvmet, hflow, 
      legal_handle hlt, himage, hfree, hkey, b2n, hmanager]
  case duplicate =>
    intro s c
    dsimp only
    intro hready hmgr howner hnvmet hflow hlt himage hused
    refine answers_of rfl hready rfl ?_
    generalize State.opened s _ c = t at *
    simp [flowInsertBody, hmgr, flowQuotaOk_of_manager, howner, State.flowPermit, hnvmet, hflow, 
      legal_handle hlt, himage, hused]
  case freeSlot =>
    intro f e c0 c1 i is hcands hfuller hfree
    exact insert_of_free_slot hcands hfuller hfree
  case write =>
    intro s c pl x
    dsimp only
    intro hready hmgr hplace hentry hold htenant hnvmet hflow hlt himage hused hprofile hkey hkeep
    refine answers_of rfl hready rfl ?_
    generalize State.opened s _ c = t at *
    simp [flowWriteBody, hmgr, flowQuotaOk_of_manager, entryOf_of_place hplace hentry, hold, htenant, State.flowPermit, hnvmet,
      hflow, legal_handle hlt, himage, hused, hplace, hentry, hprofile, hkey, hkeep, b2n]
  case delete =>
    intro s c pl x
    dsimp only
    intro hready hmgr hplace hentry hold hflow hhas
    refine answers_of rfl hready rfl ?_
    generalize State.opened s _ c = t at *
    simp [flowDeleteBody, flowQuotaOk_of_manager hmgr, entryOf_of_place hplace hentry, hold, hflow, hhas, hplace]
  case query =>
    intro s c pl x
    dsimp only
    intro hready hmgr hkeep hplace hentry hflow hlt hused
    refine answers_of rfl hready rfl ?_
    generalize State.opened s _ c = t at *
    simp [flowQueryBody, hkeep, flowQuotaOk_of_manager hmgr, hflow, legal_handle hlt, hused, hplace, hentry,
      Flow.queryImage]
  case profileCommit =>
    intro s v hlink hrun hgo hmap haccept
    have hnone : ¬∃ p < 16, bit v.toNat p = true ∧ s.profRejects p = true := by
      rintro ⟨p, hp, hbit, hreject⟩
      exact Bool.false_ne_true ((haccept p hp hbit).symm.trans hreject)
    change execFlowProfCommit v s = _
    rw [execFlowProfCommit, State.inBlock, hlink, hrun]
    simp [hgo, hmap, profRejects_of_select, prof_of_select, hnone]


/-! ### Background jobs (R156 to R166) -/

/-- A ready command's next state is its body's outcome with the reply. -/
theorem completes_of_ready {i : Instr} {s : State} {op : Op} {c : Cmd} {P : State → Prop} {body : Bytes → State → Reply}
    (hx : exec i s = .next (s.runCmd op c body)) (h : s.ready op c = true) (hz : op.zeroAt = none)
    (hp : P ((body (bufferOf op c) (s.opened op c)).finish (s.acceptance op c))) : Completes i s P :=
  ⟨_, hx.trans (congrArg _ (runCmd_plain h hz body)), hp⟩

theorem event_evtCnt (s : State) (b : Nat) : (s.event b).evt.cnt = s.evt.cnt.inc b := by
  simp only [State.event]
  split <;> simp

theorem flowReady_scanDue {s : State} (hready : s.flowReady = true) : s.flow.scanDue = false := by
  simp only [State.flowReady, Bool.and_eq_true, Bool.not_eq_true'] at hready
  exact hready.2

theorem idle_iff (f : Flow) : (f.jobCode == 0) = (!f.scanDue && f.swing.isNone && f.job == .none) := by
  unfold Flow.jobCode
  cases f.scanDue <;> cases f.swing <;> cases f.job <;> rfl

theorem jobs_of_moved {f g : Flow} (h : f.Moved g) :
    g.scanDue = f.scanDue ∧ g.swing = f.swing ∧ g.job = f.job ∧ g.handles = f.handles ∧ g.progress = f.progress := by
  rw [h]
  simp

/-- The sweeper clears HIT of an entry whose time has not run out, and leaves the entry. -/
theorem sweepOne_of_fresh {s : State} {h : Nat} {pl : FlowPlace} {e : FlowEntry} (hplace : s.flow.findHandle h = some pl)
    (hentry : s.flow.entry pl = some e) (hage : bit e.flags 0 = true)
    (htime : (s.flow.ms - (s.flow.recs.getD h {}).lastMs).toNat < (s.prof e.profile).ageLimit * 1000) :
    s.sweepOne h = { s with flow.recs := s.flow.recs.put h { s.flow.recs.getD h {} with
      flags := (s.flow.recs.getD h {}).flags - (s.flow.recs.getD h {}).flags % 2 } } := by
  simp only [State.sweepOne, hplace, hentry, hage, Bool.not_true, Bool.false_eq_true, if_false, htime, if_true]

/-- Settles O11: each job's state says how far it is, and its end writes the result. -/
theorem flowBackgroundJobsRun : Obligations.FlowBackgroundJobsRun := by
  refine ⟨?swing, ?swingDone, ?swingStall, ?chartCheck, ?recheck, ?checkDone, ?reload, ?reloadDone, ?reloadTimeout, ?wakeScan,
    ?aging, ?agingEarly, ?hove⟩
  case swing =>
    intro s c
    dsimp only
    intro hready hhandle ha hb hab haA haB hbA hbB hbudget hbudget' hmoves hmoves' hflow hidle
    refine answers_of rfl hready rfl ?_
    unfold flowSwingBody
    generalize State.opened s _ c = t at *
    generalize BitVec.ofNat 64 (leAt c.data 0 8) = a at *
    generalize BitVec.ofNat 64 (leAt c.data 8 8) = b at *
    replace ha : ¬a = 0#64 := ha
    replace hb : ¬b = 0#64 := hb
    have hbudgetNe : leAt c.data 16 2 ≠ 0 := by omega
    have hmovesNe : leAt c.data 18 2 ≠ 0 := by omega
    simp [hhandle, seedBad, ha, hb, hab, hab.symm, haA, haB, hbA, hbB, Nat.not_lt.2 hbudget, Nat.not_lt.2 hbudget', hbudgetNe,
      hmovesNe, Nat.not_lt.2 hmoves', hflow, hidle]
  case swingDone =>
    intro s w hswing hready hhove hstuck
    obtain ⟨hscan, -, hjob, -, -⟩ := jobs_of_moved (s.flow.swingWork_moved w)
    change ∃ t, execFlowSwingComplete s = _ ∧ _
    simp [execFlowSwingComplete, hswing, hready, hhove, hstuck, State.flowJobEnd, idle_iff, hscan, hjob, flowReady_scanDue hready,
      b2n, SameGrid, SameInst, SameRings, SameBoard]
  case swingStall =>
    intro s w hswing hstalled hready hhove
    change ∃ t, execFlowSwingStall s = _ ∧ _
    by_cases hstuck : (s.flow.swingWork w).1.stuck = 0 <;>
      simp [execFlowSwingStall, hswing, hstalled, hready, hhove, hstuck, event_evtCnt, SameGrid, SameInst, SameRings, SameBoard]
  case chartCheck =>
    intro s c chart
    dsimp only
    intro hready hhandle hbase hreport hpos hmax hrange hbudget hbudget' hflow hidle hinject
    refine completes_of_ready rfl hready rfl ?_
    rw [← opened_injectTimeout s { code := 0x0406, lens := [32] } c] at hinject
    have hframe := opened_keeps s { code := 0x0406, lens := [32] } c
    generalize hopened : State.opened s _ c = t at *
    generalize bufferOf { code := 0x0406, lens := [32] } c = b at *
    have hn : leAt b 16 4 ≠ 0 := by omega
    have hb : byteAt b 29 ≠ 0 := by omega
    simp only [flowChartCheckBody, hhandle, hbase, hreport, hn, Nat.not_lt.2 hmax, hrange, hb, Nat.not_lt.2 hbudget,
      Nat.not_lt.2 hbudget', hflow, hidle, State.chartReads, ne_eq, not_true, if_false, Bool.not_true, Bool.false_or,
      bne_self_eq_false, Bool.false_eq_true, not_false_eq_true, or_self, and_false]
    rw [chartPass_of_data (by simpa using hinject)]
    simp [chartOctets, hframe, SameGrid, Function.comp_def]
  case recheck =>
    intro s k h m line hcheck hfind hhove hready hsettled hnone hheld hinject hagrees
    have hreplied : s.unreplied 0x0401 0x0404 h = false := by
      rw [State.unreplied, List.any_eq_false]
      exact fun a ha hx => hnone a ha (by simp_all)
    change execFlowChartRecheck h (.data line) s = _
    have hread := chartLine_of_data (s := s.chartReads k.chartBase 64 h 1)
      (by simpa [State.chartReads] using hinject) [(h, line)] k.chartBase 64 h
    have hline : chartOctets [(h, line)] 64 h = slice line 0 64 := by simp [chartOctets]
    simp only [List.map_cons, List.map_nil, hline] at hread
    simp [execFlowChartRecheck, hcheck, hfind, hhove, hready, hsettled, hreplied, hheld, hread, State.flowRecheck]
    simp [State.chartReads, hagrees]
  case checkDone =>
    intro s k hcheck hwaiting hhove hready
    change execFlowChartCheckDone s = _
    simp [execFlowChartCheckDone, hcheck, hwaiting, hhove, hready, State.flowJobEnd, idle_iff, flowReady_scanDue hready]
  case reload =>
    intro s c
    dsimp only
    intro hready hhandle hbase hrange hflow hidle
    refine answers_of rfl hready rfl ?_
    generalize State.opened s _ c = t at *
    simp [flowReloadBody, hhandle, hbase, hrange, hflow, hidle]
  case reloadDone =>
    intro s base first count hjob hhove hready hheld hnone
    have hlost : s.flow.handles.filter (fun p => p.2 && decide (first ≤ p.1) && decide (p.1 < first + count) &&
        (s.flowOwner p.1).isNone) = [] := List.filter_eq_nil_iff.2 fun p hp => by simp [hnone p hp]
    change execFlowReloadDone [] s = _
    simp [execFlowReloadDone, hjob, hhove, hready, hheld, hlost, State.flowJobEnd, idle_iff, flowReady_scanDue hready]
  case reloadTimeout =>
    intro s base first count h hjob hhove hready hheld hhandles hfirst hlast howner
    change ∃ t, execFlowReloadDone [(h, .timeout)] s = _ ∧ _
    have hlost : s.flow.handles.filter (fun p => p.2 && decide (first ≤ p.1) && decide (p.1 < first + count) &&
        (s.flowOwner p.1).isNone) = [(h, true)] := by simp [hhandles, hfirst, hlast, howner]
    simp [execFlowReloadDone, hjob, hhove, hready, hheld, hlost, State.flowJobEnd, reloadOne, State.chartLine, State.readResult,
      State.effRead, State.chartReads, SameGrid, SameInst]
  case wakeScan =>
    intro s hscan hrun hhelm hhove hinsts
    obtain ⟨-, hswing, hjob, -, -⟩ := jobs_of_moved s.flow.takeAllBack_moved
    change ∃ t, execFlowWakeScanDone s = _ ∧ _
    simp [execFlowWakeScanDone, hscan, hrun, hhelm, hhove, hinsts, State.flowJobEnd, idle_iff, hswing, hjob, KMap.find_mapVals,
      SameGrid, SameInst, SameRings, SameBoard]
    intro h
    cases s.flow.handles.find h with
    | none => simp
    | some lost => cases lost <;> simp
  case aging =>
    intro s h pl e hrun hdue hfirst hhandles hplace hentry hage htime
    change execFlowAgingSweep s = _
    rw [execFlowAgingSweep, hrun, decide_eq_false (Nat.not_lt.2 hdue)]
    simp only [hfirst, hhandles, List.map_cons, List.map_nil, List.foldl_cons, List.foldl_nil, Bool.not_true, Bool.or_self,
      Bool.false_eq_true, if_false]
    exact congrArg _ (sweepOne_of_fresh hplace (by cases pl <;> exact hentry) hage htime)
  case agingEarly =>
    intro s hrun hearly
    change execFlowAgingSweep s = _
    rw [execFlowAgingSweep, decide_eq_true hearly]
    simp
  case hove =>
    intro s hhove
    change execFlowWakeScanDone s = _ ∧ execFlowSwingComplete s = _ ∧ execFlowChartCheckDone s = _
    refine ⟨by simp [execFlowWakeScanDone, hhove], ?_, ?_⟩
    · unfold execFlowSwingComplete
      cases s.flow.swing <;> simp [hhove]
    · unfold execFlowChartCheckDone
      cases s.flow.job <;> simp [hhove]

end Sys2Proof.Machine

/-!
The scheduler (chapter 10): refill, selection, meters, soundings, and its commands.
-/

namespace Sys2Proof.Machine

open Sys2Proof

/-! ### Refill and credit (R249, R253) -/

theorem replyAll_of_none {s : State} {p : Accepted → Bool} (h : ∀ a ∈ s.dechan.accepted, p a = false) (status detail : Nat) :
    s.replyAll p status detail = s := by
  rw [State.replyAll, List.filter_eq_nil_iff.2 fun a ha => by simp [h a ha]]
  rfl

/-! ### Selection of the only queue that waits (R252) -/

theorem atPtr_single (sub ptr : Nat) : atPtr [sub] ptr = some sub := by
  by_cases h : ptr ≤ sub <;> simp [atPtr, h]

theorem charge_of_unshaped {s : State} {id : Nat} (h : (s.node id).rate = 0) (len : Nat) : s.charge id len = s := by
  simp [State.charge, State.nodeRate, h]

theorem eligible_of_unshaped {s : State} {id : Nat} (h : (s.node id).rate = 0) : s.eligible id = true := by
  simp [State.eligible, State.nodeRate, h]

section
variable {s : State} {sub : Nat} {f : Queued} {l : List Queued}

theorem waiting_single (h : s.sched.queues = [(sub * 64 + 5, f :: l)]) : s.waiting 5 = [sub] := by
  have hp : (sub * 64 + 5) % 8 = 5 := by omega
  have hs : (sub * 64 + 5) / 64 = sub := by omega
  simp [State.waiting, h, hp, hs, addNew]

theorem queue_single (h : s.sched.queues = [(sub * 64 + 5, f :: l)]) (v : Nat) :
    s.queue (queueNo sub v 5) = if v = 0 then f :: l else [] := by
  by_cases hv : v = 0 <;> simp [State.queue, queueNo, h, KMap.getD, KMap.find, hv]

theorem bestService_single (h : s.sched.queues = [(sub * 64 + 5, f :: l)]) (hservice : (s.node (0x1000 + sub * 8)).rate = 0) :
    s.bestService sub 5 = some 0 := by
  have heligible : s.eligible (svcNode sub 0) = true := eligible_of_unshaped hservice
  simp [State.bestService, show (List.range 8).reverse = [7, 6, 5, 4, 3, 2, 1, 0] from rfl, queue_single h, heligible]

/-- The state after the head of the only queue has been taken: the rest waits, and its deficit pays for the frame. -/
def State.headTaken (s : State) (sub : Nat) (l : List Queued) (len : Nat) : State :=
  { s with
    sched.queues := if l.isEmpty then [] else [(sub * 64 + 5, l)]
    sched.deficit := if l.isEmpty then s.sched.deficit.drop1 (sub * 8 + 5)
      else s.sched.deficit.put (sub * 8 + 5) (s.sched.deficit.getD (sub * 8 + 5) 0 - len)
    sched.cnt := s.sched.cnt.inc 0 }

theorem selectLoop_single (h : s.sched.queues = [(sub * 64 + 5, f :: l)]) (hsub : (s.node sub).rate = 0)
    (hservice : (s.node (0x1000 + sub * 8)).rate = 0) (hport : (s.node 0x3005).rate = 0)
    (hpays : s.charged 5 f.frame ≤ s.sched.deficit.getD (sub * 8 + 5) 0) (k : Nat) :
    State.selectLoop 5 (k + 1) s = some (f, sub * 64 + 5, s.headTaken sub l (s.charged 5 f.frame)) := by
  have hsubOk : s.eligible sub = true := eligible_of_unshaped hsub
  have hqueue : s.queue (queueNo sub 0 5) = f :: l := by rw [queue_single h, if_pos rfl]
  have hno : queueNo sub 0 5 = sub * 64 + 5 := by simp [queueNo]
  rw [hno] at hqueue
  rw [State.selectLoop, waiting_single h]
  simp only [atPtr_single, hsubOk, if_true, bestService_single h hservice, hno, hqueue, Nat.not_lt.2 hpays, if_false]
  rw [charge_of_unshaped (id := svcNode sub 0) (by exact hservice), charge_of_unshaped (id := sub) (by exact hsub),
    charge_of_unshaped (id := portNode 5) (by exact hport)]
  cases l with
  | nil => simp [State.setQueue, State.schedCount, State.headTaken, h, KMap.drop1, State.waiting]
  | cons g l =>
    have hrest : State.waiting (s.setQueue (sub * 64 + 5) (g :: l)) 5 = [sub] :=
      waiting_single (f := g) (l := l) (by simp [State.setQueue, h, KMap.put])
    rw [hrest]
    simp [State.setQueue, State.schedCount, State.headTaken, h, KMap.put]

theorem select_single (h : s.sched.queues = [(sub * 64 + 5, f :: l)]) (hrun : s.inRun 5 = true) (hhove : s.hove = false)
    (hsub : (s.node sub).rate = 0) (hservice : (s.node (0x1000 + sub * 8)).rate = 0) (hport : (s.node 0x3005).rate = 0)
    (hpays : s.charged 5 f.frame ≤ s.sched.deficit.getD (sub * 8 + 5) 0) :
    s.select 5 = some (f, sub * 64 + 5, s.headTaken sub l (s.charged 5 f.frame)) := by
  have hsubOk : s.eligible sub = true := eligible_of_unshaped hsub
  have hportOk : s.eligible (portNode 5) = true := eligible_of_unshaped hport
  rw [State.select, hrun, hhove, hportOk, waiting_single h]
  simp only [List.all_cons, List.all_nil, hsubOk, bestService_single h hservice]
  exact selectLoop_single h hsub hservice hport hpays 31

end

/-! ### Soundings (R262, R263) -/

theorem roundDue_of {s : State} {k : Nat} {x : Sounding} (hk : k < 4) (hset : s.sched.snd.getD k {} = x) (henable : x.enable = true)
    (hrun : s.inRun 5 = true) (hready : s.sched.ready = true) (hhove : s.hove = false) (htick : s.sched.tick % x.period = 0)
    (hlast : x.lastTick ≠ some s.sched.tick) : s.roundDue k = true := by
  simp only [State.roundDue, hset]
  simp [hk, henable, hrun, hready, hhove, htick, hlast]

@[simp] theorem post0Fold_keeps {α : Type} (l : List α) (at_ : α → Nat) (b : α → Bytes) (s : State) :
    let t := l.foldl (fun (t : State) r => t.post0 (at_ r) (b r)) s
    t.now = s.now ∧ t.power = s.power ∧ t.mem = s.mem ∧ t.boot = s.boot ∧ t.module_ = s.module_ ∧ t.insts = s.insts ∧
      t.bounds = s.bounds ∧ t.rings = s.rings ∧ t.dechan = s.dechan ∧ t.mig = s.mig ∧ t.time = s.time ∧ t.flow = s.flow ∧
      t.cls = s.cls ∧ t.sw = s.sw ∧ t.sched = s.sched ∧ t.ciph = s.ciph ∧ t.ports = s.ports ∧ t.alm = s.alm ∧
      t.reflex = s.reflex ∧ t.recd = s.recd ∧ t.helm = s.helm ∧ t.dram = s.dram := by
  induction l generalizing s with
  | nil => simp
  | cons x l ih => simp only [List.foldl_cons]; simp only [ih]; simp

/-- Settles O12: a refill, a selection and a round are each due by the state's own clock, and then do the whole step. -/
theorem schedulerRefillsSelectsAndSounds : Obligations.SchedulerRefillsSelectsAndSounds := by
  refine ⟨?refill, ?refilled, ?unlimited, ?queued, ?idle, ?inDebt, ?nothing, ?recorder, ?skipped, ?roundOver, ?roundBegins,
    ?meterRefresh⟩
  case refill =>
    intro s hrun hdue hnone
    change execSchedRefill s = _
    have hwaits : (s.sched.tickAt != some (s.now / usTicks)) = true := by simpa [usTicks] using hdue
    simp only [execSchedRefill, State.refillDue, hrun, hwaits, Bool.and_self, Bool.not_true, Bool.false_eq_true, if_false]
    rw [replyAll_of_none fun a ha => by simp [hnone a ha]]
    rfl
  case refilled =>
    intro s hdone
    change execSchedRefill s = _
    have hdone' : (s.sched.tickAt != some (s.now / usTicks)) = false := by simp [hdone, usTicks]
    simp [execSchedRefill, State.refillDue, hdone']
  case unlimited =>
    intro n q hrate
    simp [Node.refill, hrate]
  case queued =>
    intro n hrate
    simp [Node.refill, hrate]
  case idle =>
    intro n hrate hcredit
    by_cases hzero : 0 < n.credit
    · simp [Node.refill, hrate, Int.not_lt.2 hcredit, hzero]
    · simp [Node.refill, hrate, Int.not_lt.2 hcredit, hzero]
      omega
  case inDebt =>
    intro n hrate hcredit
    simp [Node.refill, hrate, hcredit]
    split <;> omega
  case nothing =>
    intro s p hrun hblocked hp
    have hnone : s.select p = none := by simp [State.select, hblocked]
    rcases hp with rfl | rfl
    · change execSchedSelect 4 s = _
      simp [execSchedSelect, State.loopSelect, hnone]
    · change execSchedSelect 5 s = _
      simp [execSchedSelect, State.recorderSelect, hnone]
  case recorder =>
    intro s sub f l
    dsimp only
    intro hrun hhove hready hqueues hsub hservice hport hpays
    have hlen : s.charged 5 f.frame = if cellsOf f.frame.len ≤ 1 then max 84 (f.frame.len + (s.node 0x3005).overhead)
        else f.frame.len + (s.node 0x3005).overhead := by
      simp [State.charged, portNode]
    rw [← hlen] at hpays ⊢
    have hselect := select_single hqueues hrun hhove hsub hservice hport hpays
    refine ⟨_, hselect, rfl, rfl, rfl, rfl, ?_⟩
    change execSchedSelect 5 s = _
    simp [execSchedSelect, State.recorderSelect, hselect]
  case skipped =>
    intro s k x hk hset henable hrun hready hhove htick hlast hfull
    have hskip : ¬(x.writing = 0 ∧ (x.prod - x.cons).toNat + (x.count + 1) ≤ 2 ^ x.ringLog2) := by omega
    change execSoundingRound k s = _
    rw [execSoundingRound, roundDue_of hk hset henable hrun hready hhove htick hlast, hset]
    exact if_neg hskip
  case roundOver =>
    intro s k x hk hset hlast
    have hdone : s.roundDue k = false := by simp only [State.roundDue, hset]; simp [hlast]
    change execSoundingRound k s = _
    simp [execSoundingRound, hdone]
  case roundBegins =>
    intro s k x hk hset henable hrun hready hhove htick hlast hwriting hroom
    have hfits : x.writing = 0 ∧ (x.prod - x.cons).toNat + (x.count + 1) ≤ 2 ^ x.ringLog2 := ⟨hwriting, hroom⟩
    change ∃ t, execSoundingRound k s = _ ∧ _
    rw [execSoundingRound, roundDue_of hk hset henable hrun hready hhove htick hlast, hset]
    refine ⟨_, if_pos hfits, ?_⟩
    by_cases hwaits : s.linkReady = true ∧ s.host.cfg0.bme = false
    · have hbit : (s.linkReady && !(s.cfg .pf0).bme) = true := by simp [hwaits, State.cfg]
      simp only [hbit]
      simp [hwaits, SameGrid, SameInst, SameRings, SameBoard, SameProc]
      rfl
    · have hbit : (s.linkReady && !(s.cfg .pf0).bme) = false := by
        simpa [State.cfg] using fun h1 => by simpa [h1] using hwaits
      simp only [hbit]
      simp [hwaits, SameGrid, SameInst, SameRings, SameBoard, SameProc]
      rfl
  case meterRefresh =>
    intro s hrun hready
    change execMeterRefresh s = _
    simp [execMeterRefresh, hrun, hready, State.mprof]

/-! ### Commands (R253, R254, R259, R264 to R266) -/

/-- What a LOST meter's record reads as beside VALID and LOST (log entry 145). -/
def lostOctets (s : State) : Bytes := slice (leBytes 8 s.draw.1.toNat ++ leBytes 2 (s.draw.1.toNat / 2 ^ 40)) 0 10

theorem lostOctets_length (s : State) : (lostOctets s).length = 10 := by
  simp [lostOctets, slice]

/-- Settles O13: a command past its field checks stages, sets, assigns, reads or switches what it names. -/
theorem schedulerCommandsConfigure : Obligations.SchedulerCommandsConfigure := by
  refine ⟨?setShare, ?nodeConfig, ?profile, ?clipped, ?assign, ?read, ?readLost, ?soundingOff, ?soundingOn⟩
  case setShare =>
    intro s c
    dsimp only
    intro hready hsched hfields
    refine answers_of rfl hready rfl ?_
    generalize State.opened s _ c = t at *
    simp [instSetShareBody, hsched, hfields, State.stageNode, State.setNode]
  case nodeConfig =>
    intro s c
    dsimp only
    intro hready hsched hnode hfields
    refine answers_of rfl hready rfl ?_
    generalize State.opened s _ c = t at *
    have hlimit : t.nodeLimit c.handle = 100000 := by rcases hnode with h | h <;> simp [State.nodeLimit, h]
    have hnamed : nodeNamed c.handle = true := by rcases hnode with h | h <;> simp [nodeNamed, h]
    have hsub : c.handle < 0x1000 := by omega
    have hfields' : shareBad c.data (t.nodeLimit c.handle) (decide (c.handle < 0x1000))
        (decide (0x1000 ≤ c.handle) && decide (c.handle < 0x3000)) (decide (0x3000 ≤ c.handle)) = none := by
      rw [hlimit, decide_eq_true hsub, decide_eq_false (Nat.not_le.2 hsub),
        decide_eq_false (Nat.not_le.2 (hsub.trans (by decide)))]
      exact hfields
    simp only [schedNodeConfigBody, hnamed, hfields', Bool.not_true, Bool.false_eq_true, if_false]
    exact if_neg (by simp [hsched])
  case profile =>
    intro s c n
    dsimp only
    intro hready hsched hkind hn hprofile hcir hpir hpir' hcbs hcbs' hpbs hpbs'
    refine answers_of rfl hready rfl ?_
    generalize State.opened s _ c = t at *
    have hcir' : ¬100000000 < n.cir := by omega
    have hpir8 : ¬n.pir < 8 := by omega
    simp [meterCmd, hsched, hkind, meterProfileBody, ← hn, Nat.not_lt.2 hprofile, Nat.not_lt.2 hcir, hcir', hpir8,
      Nat.not_lt.2 hpir, Nat.not_lt.2 hpir', Nat.not_lt.2 hcbs, Nat.not_lt.2 hcbs', Nat.not_lt.2 hpbs, Nat.not_lt.2 hpbs']
  case clipped =>
    intro m pr clock
    exact ⟨Nat.min_le_left _ _, Nat.min_le_left _ _, rfl⟩
  case assign =>
    intro s c
    dsimp only
    intro hready hsched hkind hprofile hfirst hone herrors
    refine answers_of rfl hready rfl ?_
    generalize State.opened s _ c = t at *
    simp [meterCmd, hsched, hkind, meterAssignBody, Nat.not_lt.2 hprofile, meterCount, hone, State.qdrWrite, herrors, State.mprof,
      Nat.not_le.2 hfirst]
  case read =>
    intro s c m
    dsimp only
    intro hready hsched hkind hmeter hfind hkept
    refine answers_of rfl hready rfl ?_
    generalize State.opened s _ c = t at *
    simp [meterCmd, hsched, hkind, meterReadBody, meterCount, Nat.not_le.2 hmeter, State.meter, KMap.getD, hfind, hkept, b2n]
  case readLost =>
    intro s c m
    dsimp only
    intro hready hsched hkind hmeter hfind hlost
    refine ⟨lostOctets (s.opened { code := 0x0702 } c), lostOctets_length _, answers_of rfl hready rfl ?_⟩
    generalize State.opened s _ c = t at *
    simp [meterCmd, hsched, hkind, meterReadBody, meterCount, Nat.not_le.2 hmeter, State.meter, KMap.getD, hfind, hlost, b2n, lostOctets,
      State.draw]
  case soundingOff =>
    intro s c
    dsimp only
    intro hready hsched hset hoff hfields
    refine answers_of rfl hready rfl ?_
    generalize State.opened s _ c = t at *
    have hdisable : (soundingOf c.data).enable = false := hoff
    simp [soundingBody, hsched, Nat.not_lt.2 hset, hfields, hdisable]
  case soundingOn =>
    intro s c x
    dsimp only
    intro hready hsched hset hx henable hfields hload
    refine answers_of rfl hready rfl ?_
    generalize State.opened s _ c = t at *
    simp only [soundingBody, hsched, Nat.not_lt.2 hset, ← hx, hfields, henable, hload, Bool.not_true, Bool.false_eq_true, if_false,
      if_true]

end Sys2Proof.Machine

/-!
The cipher (chapter 09): context and lodestar commands, keys, raw lanes and suspended operations.
-/

namespace Sys2Proof.Machine

open Sys2Proof

/-! ### Commands that zero key material in their buffer (R238, R241, R242) -/

theorem byteAt_slice_zero (b : Bytes) {n k : Nat} (hk : k < n) : byteAt (slice b 0 n) k = byteAt b k := by
  unfold byteAt slice
  by_cases hlen : k < b.length
  · simp [List.getD_eq_getElem?_getD, hlen, hk]
  · simp [List.getD_eq_getElem?_getD, List.getElem?_append, hlen]

/-- The octets of a parameter buffer as the host read brings them. -/
def rawBuffer (c : Cmd) : Bytes :=
  match c.buf with
  | .data b => b
  | _ => []

theorem byteAt_bufferOf {op : Op} {c : Cmd} (hreads : op.reads = true) {k : Nat} (hk : k < c.paramLen) :
    byteAt (bufferOf op c) k = byteAt (rawBuffer c) k := by
  have hlen : c.paramLen ≠ 0 := by omega
  unfold bufferOf rawBuffer
  cases c.buf <;> simp [hreads, hlen, byteAt_slice_zero _ hk]

/-- A ready command that reads its buffer answers with its body's reply, the buffer zeroed where its opcode zeroes it. -/
theorem answers_of_reading {i : Instr} {s : State} {op : Op} {c : Cmd} {r : Reply} {body : Bytes → State → Reply}
    (hx : exec i s = .next (s.runCmd op c body)) (h : s.ready op c = true) (hreads : op.reads = true) (hlen : c.paramLen ≠ 0)
    (hb : (body (bufferOf op c) (s.opened op c)).zeroing op (rawBuffer c) = r) : Answers i s op c r := by
  have hread : (op.reads && c.paramLen != 0) = true := by simp [hreads, hlen]
  rcases runCmd_ready h body with hrun | ⟨hnone, -⟩
  · rw [if_pos hread] at hrun
    rw [Answers, hx, hrun, ← hb]
    rfl
  · simp [hread] at hnone

/-! ### Context commands (R219 to R223, R241 to R243) -/

theorem legal_ctx {h : Nat} (hlt : h < 2 ^ 20) : ¬ctxHandles ≤ h := Nat.not_le.2 hlt

theorem ctxBody_of_manager {s : State} {c : Cmd} (hmgr : cmdTenant c = none) (hlt : c.handle < 2 ^ 20) (body : State → Reply) :
    ctxBody c false body s = body s := by
  simp only [ctxBody, hmgr, Bool.false_and, Bool.false_eq_true, if_false, legal_ctx hlt]

theorem exec_ctxRekey_of_no_buffer (s : State) {c : Cmd} (hlen : c.paramLen = 0) :
    exec (.ctxRekey c) s = .next (s.runCmd
      { code := 0x0602, tenant := true, inst := .either, lens := [0, 44], zeroAt := none, writes := true } c
      (fun b s => ctxBody c false (ctxRekeyBody c b) s)) := by
  change execCtxRekey c s = _
  simp [execCtxRekey, hlen]

theorem bit_zero (k : Nat) : bit 0 k = false := Nat.zero_testBit k

/-- With every source named and none present no alarm stays latched (R240). -/
theorem latched_after_clear (latched : Nat) : maskOf 5 (fun k => bit latched k && (!bit 31 k || bit 0 k)) = 0 := by
  refine foldl_eq_self fun k hk => if_neg ?_
  have hnamed : bit 31 k = true := by
    have := List.mem_range.1 hk
    unfold bit
    interval_cases k <;> rfl
  simp [hnamed, bit_zero]

theorem pinned_of_ciph (s : State) (x : Cipher) (h : Nat) : ({ s with ciph := x } : State).pinned h = s.pinned h := rfl

/-- Settles O14: past the checks every command changes the one context it names. -/
theorem cipherCommandsChangeTheirContext : Obligations.CipherCommandsChangeTheirContext := by
  refine ⟨?create, ?rekey, ?rekeyBack, ?query, ?destroy, ?alarmClear, ?lodestarLoad⟩
  case create =>
    intro s c
    dsimp only
    intro hready hmgr hlen howner hlt hfields hderived hfree hop hlabel
    have hzero := hderived
    rw [byteAt_bufferOf (by rfl) (by omega)] at hzero
    refine answers_of_reading rfl hready rfl (by omega) ?_
    generalize State.opened s _ c = t at *
    generalize bufferOf _ c = b at *
    have himported : (ctxOf b (slice b 32 32) 0xFFFF t.ciph.kcv).imported = false := by
      simpa [ctxOf, Ctx.imported, bit, Nat.testBit_mod_two_pow (j := 4)] using hderived
    have htx : (ctxOf b (slice b 32 32) 0xFFFF t.ciph.kcv).tx = true := by
      rcases hop with h | h <;> simp [ctxOf, Ctx.tx, h]
    have hrx : ((ctxOf b (slice b 32 32) 0xFFFF t.ciph.kcv).op == 2 || (ctxOf b (slice b 32 32) 0xFFFF t.ciph.kcv).op == 4) = false := by
      rcases hop with h | h <;> simp [ctxOf, h]
    have hnew : t.ciph.ctxs.any (fun p => p.2.tx && p.2.state != CtxState.lost && p.2.label == slice b 32 32) = false :=
      List.any_eq_false.2 fun p hp => by simp [hlabel p hp]
    simp [ctxBody, hmgr, howner, legal_ctx hlt, ctxCreateBody, hfields, hnew, htx, hrx, himported, hfree, Reply.zeroing, hzero,
      State.setCtx]
  case rekey =>
    intro s c x
    dsimp only
    intro hready hmgr hlen hlt hctx hlost himported hgen hpinned
    refine answers_of (exec_ctxRekey_of_no_buffer s hlen) hready rfl ?_
    generalize State.opened s _ c = t at *
    simp [ctxBody_of_manager hmgr hlt, ctxRekeyBody, hctx, hlost, hlen, himported, Nat.not_le.2 hgen, State.setCtx, pinned_of_ciph, hpinned]
  case rekeyBack =>
    intro s c x
    dsimp only
    intro hready hmgr hlen hlt hctx hlost himported hgen
    refine answers_of (exec_ctxRekey_of_no_buffer s hlen) hready rfl ?_
    generalize State.opened s _ c = t at *
    simp [ctxBody_of_manager hmgr hlt, ctxRekeyBody, hctx, hlost, hlen, himported, hgen]
  case query =>
    intro s c x
    dsimp only
    intro hready hmgr hlt hctx hlost
    refine answers_of rfl hready rfl ?_
    generalize State.opened s _ c = t at *
    simp [ctxBody_of_manager hmgr hlt, ctxQueryBody, hctx, hlost, b2n]
    split <;> rfl
  case destroy =>
    intro s c x
    dsimp only
    intro hready hmgr hlt hctx hpinned hjobs
    refine answers_of rfl hready rfl ?_
    generalize State.opened s _ c = t at *
    simp [ctxBody_of_manager hmgr hlt, ctxDestroyBody, hctx, hpinned, hjobs, State.ctxFree, Ctx.finalPn]
  case alarmClear =>
    intro s c
    dsimp only
    intro hready hpresent hall halarmed
    refine answers_of rfl hready rfl ?_
    generalize State.opened s _ c = t at *
    simp [alarmClearBody, hall, hpresent, latched_after_clear, halarmed]
  case lodestarLoad =>
    intro s c
    dsimp only
    intro hready hlen hkind hnone
    refine answers_of_reading rfl hready rfl (by omega) ?_
    generalize State.opened s _ c = t at *
    simp [lodestarBody, hkind, hnone, Reply.zeroing]

/-! ### Raw lanes (R234, R235) -/

section
variable {s : State} {t n : Nat}

theorem rawAccess_of_holder (hlane : n < 3) (hrun : s.inRun 8 = true) (hhelm : s.helmRuns = true) (hkept : t ∉ (s.rawLane n).lostBy)
    (act : RawLane → State) : s.rawAccess t n act = act (s.rawLane n) := by
  have h2 : ¬2 < n := by omega
  simp [State.rawAccess, h2, hrun, hhelm, hkept]

theorem rawAccess_of_lost (hlane : n < 3) (hrun : s.inRun 8 = true) (hhelm : s.helmRuns = true) (hlost : t ∈ (s.rawLane n).lostBy)
    (act : RawLane → State) :
    s.rawAccess t n act = s.setRaw n { s.rawLane n with lostBy := (s.rawLane n).lostBy.filter (· != t), status := 2 } := by
  have h2 : ¬2 < n := by omega
  simp [State.rawAccess, h2, hrun, hhelm, hlost]

/-- A run by a lane's holder, its load permitted, is a run of the lane. -/
theorem exec_rawLaneGo_of_holder (hlane : n < 3) (hrun : s.inRun 8 = true) (hhelm : s.helmRuns = true)
    (hkept : t ∉ (s.rawLane n).lostBy) (hheld : (s.rawLane n).held = true) (howner : (s.rawLane n).owner = t)
    (load : Option RawLoad) (b : Bytes) (dec : Bool) :
    exec (.rawLaneGo t n load b dec) s =
      .next (if (load.map RawLoad.refused).getD false then s.setRaw n { s.rawLane n with status := 1 }
        else s.rawRun n (s.rawLane n) load b dec) := by
  have h3 : n ≠ 3 := by omega
  change execRawLaneGo t n load b dec s = _
  simp [execRawLaneGo, h3, rawAccess_of_holder hlane hrun hhelm hkept, hheld, howner]

end

/-! ### Operations of the unit (R215, R225, R227) -/

theorem jobFind_single {s : State} {j : CipherJob} (h : s.ciph.jobs = [j]) (p : CipherJob → Bool) :
    s.jobFind p = if p j then some (j, 0) else none := by
  cases hp : p j <;> simp [State.jobFind, h, hp]

/-- Lane 5 serves every operation, so a unit whose lanes are all free has one. -/
theorem jobLane_isSome {s : State} (h : ∀ j ∈ s.ciph.jobs, j.onLane = false) (j : CipherJob) : ∃ n, s.jobLane j = some n := by
  rw [← Option.isSome_iff_exists, State.jobLane, State.freeLane, List.find?_isSome]
  refine ⟨5, by simp, ?_⟩
  have hfree : s.laneFree 5 = true := by
    simp only [State.laneFree, Bool.not_eq_true', List.any_eq_false]
    intro k hk hlane
    have := h k hk
    simp only [beq_iff_eq] at hlane
    simp [CipherJob.onLane, hlane] at this
  simp [hfree, State.laneServes]

theorem ctxUsable_of_live {s : State} {h : Nat} {x : Ctx} (hlode : s.lodeLoaded = true) (hctx : s.ctx h = some x)
    (hlive : x.state = .live) (hkcv : x.kcv = s.ciph.kcv) (hgood : s.errBits 1 (0x380000000 + h * 64) 64 = 0) :
    s.ctxUsable h = (.ok x, s) := by
  simp [State.ctxUsable, hlode, hctx, hlive, hkcv, hgood]

theorem putKey_of_empty {s : State} (h : s.ciph.cache = []) (handle : Nat) (x : Ctx) (key : Bytes) :
    s.putKey handle x key = { s with
      ciph.cache := [{ handle := handle, gen := labelGen x.label, erase := s.ciph.eraseCount, key := key }] } := by
  simp [State.putKey, h, cacheSize]

theorem keyReady_of_no_miss {s : State} {h : Nat} (hnone : s.misses.contains h = false) (imported : Bool) :
    s.keyReady h imported = s := by
  rw [State.keyReady, hnone]
  rfl

/-- A receive operation whose key is cached and that finds a lane runs at once. -/
theorem jobRun_of_cached {s : State} {x : Ctx} {j : CipherJob} {key : Bytes} {n : Nat} (hargs : j.args = none)
    (husable : s.ctxUsable j.handle = (.ok x, s)) (hcached : s.cached j.handle x = some key) (hlane : s.jobLane j = some n)
    (hcode : isTxCode j.code = false) (i : Nat) :
    s.jobRun i j =
      (let r := s.cipherOp j.frame j.handle j.code (s.ctxArgs x key) none
       r.2.jobEnd i { j with pn := none } r.1) := by
  have hgo : s.opGo j x key =
      ((match (s.cipherOp j.frame j.handle j.code (s.ctxArgs x key) none).1 with
        | some g => .out g none
        | none => .gone),
       (s.cipherOp j.frame j.handle j.code (s.ctxArgs x key) none).2) := by
    rw [State.opGo, hcode]
    cases h : s.cipherOp j.frame j.handle j.code (s.ctxArgs x key) none with
    | mk out t => cases out <;> simp [h]
  unfold State.jobRun
  rw [hargs]
  simp only [husable, hcached, hlane, hgo]
  cases (s.cipherOp j.frame j.handle j.code (s.ctxArgs x key) none).1 <;> rfl

/-- An operation whose key is not cached waits for it. -/
theorem jobRun_of_no_key {s : State} {x : Ctx} {j : CipherJob} (hargs : j.args = none) (husable : s.ctxUsable j.handle = (.ok x, s))
    (hcached : s.cached j.handle x = none) (i : Nat) : s.jobRun i j = s.jobSet i { j with place := .key } := by
  unfold State.jobRun
  rw [hargs]
  simp only [husable, hcached]

/-- R225: the one operation that waits for a key runs with it, under the state in which the key is cached and counted. -/
theorem keyReady_of_waiter {s : State} {x : Ctx} {j : CipherJob} {k : Bytes} {imported : Bool} (hjobs : s.ciph.jobs = [j])
    (hplace : j.place = .key) (hlode : s.lodeLoaded = true) (hctx : s.ctx j.handle = some x) (hlive : x.state = .live)
    (hkcv : x.kcv = s.ciph.kcv) (himported : x.imported = imported) (hgood : s.errBits 1 (0x380000000 + j.handle * 64) 64 = 0)
    (hcode : isTxCode j.code = false) (hargs : j.args = none) (hcache : s.ciph.cache = []) (hkey : s.ctxKey j.handle x = some k) :
    s.keyReady j.handle imported =
      (let r := ((s.putKey j.handle x k).ciphCount (if imported then 8 else 7)).cipherOp j.frame j.handle j.code (s.ctxArgs x k) none
       r.2.jobEnd 0 { j with pn := none } r.1) := by
  have hmiss : s.misses.contains j.handle = true := by simp [State.misses, hjobs, hplace, addNew]
  have hload : (s.loadKey j.handle x).2 = (s.putKey j.handle x k).ciphCount (if imported then 8 else 7) := by
    simp [State.loadKey, hkey, himported]
  rw [putKey_of_empty hcache] at hload ⊢
  simp only [State.keyReady, hmiss, ctxUsable_of_live hlode hctx hlive hkcv hgood, himported, hload]
  generalize hs' : State.ciphCount _ _ = s'
  have hjobs' : s'.ciph.jobs = [j] := by rw [← hs']; exact hjobs
  have husable : s'.ctxUsable j.handle = (.ok x, s') :=
    ctxUsable_of_live (by rw [← hs']; exact hlode) (by rw [← hs']; exact hctx) hlive (by rw [← hs']; exact hkcv)
      (by rw [← hs']; exact hgood)
  have hcached : s'.cached j.handle x = some k := by rw [← hs']; simp [State.cached, State.ciphCount]
  obtain ⟨n, hlane⟩ := jobLane_isSome (s := s') (by simp [hjobs', CipherJob.onLane, hplace]) j
  have hopArgs : s'.ctxArgs x k = s.ctxArgs x k := by rw [← hs']; rfl
  have hfind : s'.jobFind (fun i => i.place == .key && i.handle == j.handle) = some (j, 0) := by
    rw [jobFind_single hjobs', hplace]
    simp
  simp only [Bool.not_true, Bool.false_eq_true, if_false, ne_eq, not_true, hjobs', List.length_cons, List.length_nil, Nat.zero_add,
    State.jobsOfKey, hfind, jobRun_of_cached hargs husable hcached hlane hcode, hopArgs]

theorem nextWaiter_of_none {s : State} {j : CipherJob} (hjobs : s.ciph.jobs = [j]) (hplace : j.place ≠ .wait) :
    s.nextWaiter = none := by
  have hnot : (j.place == .wait) = false := by simp [hplace]
  simp [State.nextWaiter, jobFind_single hjobs, hnot]

theorem nextWaiter_of_single {s : State} {j : CipherJob} (hjobs : s.ciph.jobs = [j]) (hplace : j.place = .wait) :
    s.nextWaiter = some (j, 0) := by
  obtain ⟨n, hlane⟩ := jobLane_isSome (s := s) (by simp [hjobs, CipherJob.onLane, hplace]) j
  simp only [State.nextWaiter, jobFind_single hjobs, hplace, hlane, beq_self_eq_true, Option.isSome_some, Bool.and_self, if_true]
  split_ifs <;> simp_all

theorem destroyDone_of_none {s : State} (h : s.dechan.accepted = []) : s.destroyDone = s := by
  simp [State.destroyDone, h]

theorem laneFreed_of_idle {s : State} {j : CipherJob} (hjobs : s.ciph.jobs = [j]) (hplace : j.place ≠ .wait)
    (haccepted : s.dechan.accepted = []) : s.laneFreed = s := by
  simp only [State.laneFreed, hjobs, List.length_cons, List.length_nil, State.waitersGo, nextWaiter_of_none hjobs hplace,
    destroyDone_of_none haccepted]

/-- The one operation that waits for a lane is dispatched. -/
theorem laneFreed_of_waiter {s : State} {j : CipherJob} (hjobs : s.ciph.jobs = [j]) (hplace : j.place = .wait) :
    s.laneFreed = (s.jobRun 0 j).destroyDone := by
  simp only [State.laneFreed, hjobs, List.length_cons, List.length_nil, State.waitersGo, nextWaiter_of_single hjobs hplace]

theorem awaiting_single {s : State} {j : CipherJob} (hjobs : s.ciph.jobs = [j]) (hplace : j.place = .store) :
    s.awaiting = [(j, 0)] := by
  simp [State.awaiting, hjobs, CipherJob.awaitsData, hplace]

theorem execCipherResume_single {s : State} {j : CipherJob} (hrun : s.inRun 8 = true) (hjobs : s.ciph.jobs = [j])
    (hplace : j.place = .store) : execCipherResume s = .next (s.jobResume 0 j).laneFreed := by
  rw [execCipherResume, hrun, awaiting_single hjobs hplace]
  simp [State.dataArrives, hplace]

/-- Settles O15: one operation or one lane at a time is followed to what it comes to. -/
theorem cipherEventsAndRawLanes : Obligations.CipherEventsAndRawLanes := by
  refine ⟨?rebuild, ?take, ?taken, ?runKey, ?runOwn, ?refused, ?noKey, ?secureLane, ?release, ?expires, ?holds, ?lost, ?derived,
    ?unwrapped, ?noMiss, ?suspend, ?resume, ?resumeRuns, ?resumeSome, ?resumeNone⟩
  case rebuild =>
    intro s hrun hhelm hready
    change execCiphSaRebuildDone s = _
    simp [execCiphSaRebuildDone, hrun, hhelm, hready]
  case take =>
    intro s t n hlane hthread hrun hhelm hkept hfree
    change execRawLockTake t n s = _
    have h127 : ¬127 < t := by omega
    simp [execRawLockTake, rawAccess_of_holder hlane hrun hhelm hkept, hfree, h127, State.setRaw]
  case taken =>
    intro s t n hlane hrun hhelm hkept hheld
    change execRawLockTake t n s = _
    simp [execRawLockTake, rawAccess_of_holder hlane hrun hhelm hkept, hheld]
  case runKey =>
    intro s t n k big b hlane hrun hhelm hkept hheld howner hkey
    rw [exec_rawLaneGo_of_holder hlane hrun hhelm hkept hheld howner]
    simp [State.rawRun, State.rawKey, hkey, State.setRaw]
  case runOwn =>
    intro s t n b dec hlane hrun hhelm hkept hheld howner hkey
    refine ⟨(s.drawBytes 16).1, ?_⟩
    rw [exec_rawLaneGo_of_holder hlane hrun hhelm hkept hheld howner]
    simp [State.rawRun, State.rawKey, hkey, State.setRaw, State.drawBytes, ceilDiv]
  case refused =>
    intro s t n l b dec hlane hrun hhelm hkept hheld howner hkind
    rw [exec_rawLaneGo_of_holder hlane hrun hhelm hkept hheld howner]
    simp [RawLoad.refused, hkind, State.setRaw]
  case noKey =>
    intro s t n k b dec hlane hrun hhelm hkept hheld howner
    rw [exec_rawLaneGo_of_holder hlane hrun hhelm hkept hheld howner]
    simp [RawLoad.refused, State.setRaw]
  case secureLane =>
    intro s t k b hrun hsecure
    change execRawLaneGo t 3 (some (.own k)) b false s = _
    simp [execRawLaneGo, hrun, hsecure, State.rawRun, State.rawKey, State.setRaw]
  case release =>
    intro s t n hlane hrun hhelm hkept hheld howner
    change execRawLockRelease t n s = _
    simp [execRawLockRelease, rawAccess_of_holder hlane hrun hhelm hkept, hheld, howner, State.setRaw]
  case expires =>
    intro s n hlane hheld hover
    change execRawHoldExpiry n s = _
    simp [execRawHoldExpiry, hlane, hheld, State.elapsed, usTicks, hover, State.setRaw, State.ciphCount]
  case holds =>
    intro s n hlane hheld hover
    change execRawHoldExpiry n s = _
    simp [execRawHoldExpiry, hlane, hheld, State.elapsed, usTicks, Nat.not_le.2 hover]
  case lost =>
    intro s t n hlane hrun hhelm hlost
    change execRawLockTake t n s = _
    simp [execRawLockTake, rawAccess_of_lost hlane hrun hhelm hlost, State.setRaw]
  case derived =>
    intro s x j k hrun hjobs hplace hlode hctx hlive hkcv himported hgood hcode hargs hcache hkey
    change execKeyDeriveDone j.handle s = _
    simp only [execKeyDeriveDone, hrun, if_true]
    exact congrArg _ (keyReady_of_waiter hjobs hplace hlode hctx hlive hkcv himported hgood hcode hargs hcache hkey)
  case unwrapped =>
    intro s x j k hrun hmem hjobs hplace hlode hctx hlive hkcv himported hgood hcode hargs hcache hkey
    change execKeyUnwrapDone j.handle s = _
    simp only [execKeyUnwrapDone, hrun, hmem, Bool.and_true, if_true]
    exact congrArg _ (keyReady_of_waiter hjobs hplace hlode hctx hlive hkcv himported hgood hcode hargs hcache hkey)
  case noMiss =>
    intro s h hnone
    change execKeyDeriveDone h s = _ ∧ execKeyUnwrapDone h s = _
    simp [execKeyDeriveDone, execKeyUnwrapDone, keyReady_of_no_miss hnone]
  case suspend =>
    intro s j n hrun hjobs hplace haccepted
    have hfind : s.jobFind CipherJob.onLane = some (j, 0) := by simp [jobFind_single hjobs, CipherJob.onLane, hplace]
    change execCipherSuspend s = _
    simp only [execCipherSuspend, hfind, hrun, hjobs]
    simp [State.jobSet, hjobs, hplace, storeSlots, State.ciphCount]
    exact laneFreed_of_idle rfl (by simp) haccepted
  case resume =>
    intro s j a hrun hjobs hplace hargs
    obtain ⟨n, hlane⟩ := jobLane_isSome (s := s) (by simp [hjobs, CipherJob.onLane, hplace]) j
    change execCipherResume s = _
    rw [execCipherResume_single hrun hjobs hplace]
    simp [State.jobResume, hargs, hlane, State.jobFinish]
  case resumeRuns =>
    intro s j x hrun hjobs hplace hargs haccepted hlode hctx hlive hkcv hgood hcache
    change execCipherResume s = _
    rw [execCipherResume_single hrun hjobs hplace]
    simp [State.jobResume, hargs, State.jobSet, hjobs]
    rw [laneFreed_of_waiter (by rfl) rfl]
    refine Eq.trans (congrArg State.destroyDone (jobRun_of_no_key (x := x) ?_ ?_ ?_ 0)) ?_
    · rfl
    · exact ctxUsable_of_live hlode hctx hlive hkcv hgood
    · simp [State.cached, hcache]
    · exact destroyDone_of_none haccepted
  case resumeSome =>
    intro s hrun hsome
    change ∃ p ∈ s.awaiting, ∃ f, execCipherResume s = _
    rw [execCipherResume, hrun]
    cases hawaiting : s.awaiting with
    | nil => exact absurd hawaiting hsome
    | cons p l =>
      cases l with
      | nil => exact ⟨p, by simp, s.free, rfl⟩
      | cons q l =>
        refine ⟨(p :: q :: l).getD (s.draw.1.toNat % (l.length + 2)) p, ?_, s.free + 1, rfl⟩
        have hlt : s.draw.1.toNat % (l.length + 2) < (p :: q :: l).length := Nat.mod_lt _ (Nat.succ_pos _)
        rw [List.getD_eq_getElem _ _ hlt]
        exact List.getElem_mem _
  case resumeNone =>
    intro s hnone
    change execCipherResume s = _
    simp [execCipherResume, hnone]

end Sys2Proof.Machine

/-!
Resets (R293, R440, R441), alarms (R236, R237), configuration requests and the table transfer (R210 to R212).
-/

namespace Sys2Proof.Machine

open Sys2Proof

/-! ### Function Level Reset (R190, R440) -/

/-- The link is up, and a chart check of classifier bank 0 runs. -/
def checkUnderWay : State :=
  { State.reset with
    power.dom := List.replicate 14 .run
    host.linkUp := true
    cls.check := some { bank := 0, chartBase := 0, reportBase := 0, reportEntries := 1, waiting := [], mismatches := 0, written := 0
                        full := false } }

/-- The check that a Function Level Reset of PF 0 ends leaves its result, with the next sequence number, in the classifier's
registers. -/
theorem flr_ends_check : (checkUnderWay.flr .pf0).cls.bgSeq = 1 := by decide +kernel

/-- Refutes O16: a Function Level Reset of PF 0 leaves the classifier's registers at their reset values only where no chart check
runs; one that runs ends, and its result is written (R190). -/
theorem not_resetsLeaveWhatTheyName : ¬ Obligations.ResetsLeaveWhatTheyName := by
  intro h
  obtain ⟨-, -, -, -, -, -, hflr, -⟩ := h
  have hlink : checkUnderWay.linkReady = true := by decide +kernel
  obtain ⟨t, ht, -, -, -, hcls, -⟩ := hflr checkUnderWay hlink
  change execFlr .pf0 checkUnderWay = _ at ht
  rw [execFlr, if_pos hlink] at ht
  injection ht with ht
  have hseq := flr_ends_check
  rw [ht, hcls] at hseq
  exact absurd hseq (by decide)

/-! ### Bits and octets of registers -/

theorem maskOf_succ (n : Nat) (f : Nat → Bool) : maskOf (n + 1) f = maskOf n f + if f n then 2 ^ n else 0 := by
  simp only [maskOf, List.range_succ, List.foldl_append, List.foldl_cons, List.foldl_nil]
  split <;> rfl

theorem maskOf_lt (n : Nat) (f : Nat → Bool) : maskOf n f < 2 ^ n := by
  induction n with
  | zero => simp [maskOf]
  | succ n ih =>
    rw [maskOf_succ, Nat.pow_succ]
    split <;> omega

theorem bit_maskOf (n : Nat) (f : Nat → Bool) (k : Nat) : bit (maskOf n f) k = (decide (k < n) && f k) := by
  induction n with
  | zero => simp [maskOf, bit]
  | succ n ih =>
    have hlt := maskOf_lt n f
    rw [maskOf_succ]
    unfold bit at *
    rcases Nat.lt_trichotomy k n with hk | rfl | hk
    · cases hf : f n
      · simp [ih, hk, Nat.lt_succ_of_lt hk]
      · simp [Nat.add_comm, Nat.testBit_two_pow_add_gt hk, ih, hk, Nat.lt_succ_of_lt hk]
    · cases hf : f k
      · simp [Nat.testBit_lt_two_pow hlt]
      · simp [Nat.add_comm, Nat.testBit_two_pow_add_eq, Nat.testBit_lt_two_pow hlt]
    · have hup : 2 ^ (n + 1) ≤ 2 ^ k := Nat.pow_le_pow_right (by decide) hk
      have hsmall : maskOf n f + (if f n then 2 ^ n else 0) < 2 ^ k := by
        rw [Nat.pow_succ] at hup
        split <;> omega
      simp [Nat.testBit_lt_two_pow hsmall, Nat.not_lt.2 hk]

/-- A write with every octet enabled writes the whole value. -/
theorem mergeBe_full (old : Nat) {v : Nat} (hv : v < 2 ^ 32) : mergeBe old v 15 = v := by
  have henabled : ∀ k < 4, bit 15 k = true := by
    intro k hk
    unfold bit
    interval_cases k <;> rfl
  simp [mergeBe, List.range_succ, henabled, leNat]
  omega

/-- Of a fold in which one element acts, that element's effect is left. -/
theorem foldl_eq_of_single {α β : Type} {f : α → β → α} {a : α} {l : List β} {b : β} (hnodup : l.Nodup) (hmem : b ∈ l)
    (hbefore : ∀ c ∈ l, c ≠ b → f a c = a) (hafter : ∀ c ∈ l, c ≠ b → f (f a b) c = f a b) : l.foldl f a = f a b := by
  obtain ⟨l1, l2, rfl⟩ := List.append_of_mem hmem
  obtain ⟨-, hcons, hdisjoint⟩ := List.nodup_append.1 hnodup
  rw [List.foldl_append, foldl_eq_self fun c hc => hbefore c (by simp [hc]) fun h => hdisjoint _ hc _ (by simp) h, List.foldl_cons]
  exact foldl_eq_self fun c hc => hafter c (by simp [hc]) fun h => (List.nodup_cons.1 hcons).1 (h ▸ hc)

/-! ### Alarms (R236, R237) -/

theorem jobsAbandon_of_idle {s : State} (hjobs : s.ciph.jobs = []) (hnone : ∀ a ∈ s.dechan.accepted, a.opcode ≠ 0x0603) :
    s.jobsAbandon = s := by
  have hdestroy : s.destroyDone = s := by
    rw [State.destroyDone, List.filter_eq_nil_iff.2 fun a ha => by simp [hnone a ha]]
    rfl
  have hsame : ({ s with ciph.jobs := [] } : State) = s := by rw [← hjobs]
  simp only [State.jobsAbandon, hjobs, List.filter_nil, List.foldl_nil, hsame, State.jobRelease, List.zipIdx_nil,
    List.find?_nil, hdestroy]

theorem grantEnd_of_none {s : State} (h : s.helm.grant = none) : s.grantEnd = s := by
  simp [State.grantEnd, h]

/-! ### The table transfer (R211, R212) -/

theorem tableEnd_sw (s : State) (result done : Nat) :
    (s.tableEnd result done).sw = { s.sw with busy := false, result := result, done := done } := by
  simp [State.tableEnd]

/-- A read that lies within one request leaves as that request. -/
theorem emitReads_of_within (s : State) (fn : Fn) (pasid : Option Nat) {addr len : Nat} (halign : addr % 64 = 0) (hpos : 0 < len)
    (hlen : len ≤ 64) (tag : Nat) :
    s.emitReads fn pasid addr len tag = { s with out := s.out ++ [.readReq fn pasid (s.xlate fn pasid addr) len tag] } := by
  rw [State.emitReads, readParts_of_within _ halign hpos hlen]
  rfl

/-! ### Growth of the bound (R79) -/

theorem le_grow_bound {t : TimeSt} {x : Nat} (hmax : t.bound ≤ boundMax) : t.bound ≤ (t.grow x).bound := by
  unfold TimeSt.grow
  split
  · exact le_rfl
  · exact le_min hmax (Nat.le_add_right _ _)

/-- Settles O17: each register's write and each event is one branch of its command. -/
theorem alarmsConfigurationAndTables : Obligations.AlarmsConfigurationAndTables := by
  refine ⟨?trip, ?tripped, ?configRead, ?powerState, ?enableNone, ?enableOne, ?msTick, ?growth, ?transfer, ?transferBusy,
    ?transferAborts, ?fromHost, ?fromHostShort, ?toHost, ?exception, ?exceptionLost⟩
  case trip =>
    intro s k hrun hk hnew hjobs hgrant hnone
    change execAlarmTrip k true s = _
    rw [execAlarmTrip, hrun, decide_eq_false (Nat.not_lt.2 hk)]
    simp only [hnew, Bool.not_true, Bool.or_self, Bool.false_eq_true, if_false, State.alarm]
    rw [jobsAbandon_of_idle (by exact hjobs) (by exact hnone), grantEnd_of_none (by exact hgrant)]
    rfl
  case tripped =>
    intro s k hrun hk
    change ∃ t, execAlarmTrip k false s = _ ∧ _
    rw [execAlarmTrip, hrun, decide_eq_false (Nat.not_lt.2 hk)]
    refine ⟨_, rfl, by simp [bit_maskOf], fun j hj hjk => by simp [bit_maskOf, hj, hjk], ?_⟩
    simp [SameGrid, SameInst, SameRings, SameBoard, SameHost, SameProc]
  case configRead =>
    intro s fn off hlink hsure
    change execConfigRequest fn off none s = _
    have hsure' : (s.host.ready || s.elapsed s.host.perstAt (50 * msTicks)) = true := by simpa using hsure
    simp only [execConfigRequest, hlink, hsure', Bool.not_true, Bool.false_eq_true, Bool.false_and, if_false, if_true]
    rfl
  case powerState =>
    intro s v hlink hready hrun
    change ∃ t, execConfigRequest .pf0 0x2A4 (some (v, 15)) s = _ ∧ _
    simp only [execConfigRequest, hlink, hready, Bool.true_or, Bool.not_true, Bool.false_eq_true, Bool.false_and, if_false, if_true,
      mergeBe_full _ v.isLt]
    refine ⟨_, rfl, ?_⟩
    simp [State.cfgWrite, State.setCfg, State.cfg, State.emit, SamePath, SameGrid, SameInst, SameRings, SameBoard, SameProc]
  case enableNone =>
    intro s v hlink hcause
    change execEvtEnableWrite v s = _
    rw [execEvtEnableWrite, if_pos hlink, State.evtEnable, foldl_eq_self fun b hb => by simp [hcause, bit_zero]]
  case enableOne =>
    intro s v b hlink hb hset hold hcause
    change execEvtEnableWrite v s = _
    rw [execEvtEnableWrite, if_pos hlink, State.evtEnable, foldl_eq_of_single (b := b) List.nodup_range (by simp [hb])]
    · have hbit : bit s.evt.cause b = true := by rw [hcause]; exact Nat.testBit_two_pow_self
      simp [hset, hold, hbit]
    · intro c hc hne
      have hbit : bit s.evt.cause c = false := by rw [hcause]; exact Nat.testBit_two_pow_of_ne hne.symm
      simp [hbit]
    · intro c hc hne
      have hbit : bit s.evt.cause c = false := by rw [hcause]; exact Nat.testBit_two_pow_of_ne hne.symm
      have hclear : bit s.evt.cause b = true := by rw [hcause]; exact Nat.testBit_two_pow_self
      simp [hset, hold, hclear, hbit]
  case msTick =>
    intro s hrun hthr
    change execFlowMsTick s = _
    simp [execFlowMsTick, hrun, State.pulse, hthr]
  case growth =>
    intro s hrun hquality hnow hbound hmax
    have hgrow := boundGrowth_of_holdover (s := s) hquality (by rw [hnow]; exact Nat.lt_add_of_pos_right (by decide))
      (by rw [hnow, Nat.add_sub_cancel_left, Nat.mod_self]) hmax
    change ∃ t, execBoundGrowth s = _ ∧ _
    rw [execBoundGrowth, if_pos hrun, hgrow]
    refine ⟨_, rfl, le_grow_bound hbound, rfl, ?_⟩
    simp [SamePath, SameInst, SameRings, SameBoard, SameHost, SameProc]
  case transfer =>
    intro s v hlink hrun hidle hgo htable hcount hcount' hfits
    have hillegal : ¬(v.toNat % 4 = 3 ∨ bits v.toNat 28 16 = 0 ∨ 4096 < bits v.toNat 28 16 ∨
        tableSize (v.toNat % 4) < bits v.toNat 15 4 + bits v.toNat 28 16) := by omega
    change execTableTransferStart v s = _
    rw [execTableTransferStart, State.inBlock, hlink, hrun, hidle]
    simp only [hgo, hillegal, Bool.false_and, Bool.false_eq_true, if_false, Bool.not_true, if_true]
  case transferBusy =>
    intro s v hlink hrun hbusy hgo
    change execTableTransferStart v s = _
    simp [execTableTransferStart, hrun, hbusy, hgo]
  case transferAborts =>
    intro s v hlink hrun hbusy hgo
    change execTableTransferStart v s = _
    rw [execTableTransferStart, State.inBlock, hlink, hrun, hbusy]
    simp [hgo]
  case fromHost =>
    intro s b tag hbusy hrun hlink hbme hdir htable hcount halign hinject htag
    have hmay : s.mayRead .pf0 = true := by rw [State.mayRead, hlink]; exact hbme
    have hheld : s.readHeld .pf0 = false := by simp [State.readHeld, hmay, htag]
    change execTableTransferDone _ s = _
    simp [execTableTransferDone, hbusy, hrun, hmay, hdir, hheld, htable, hcount, State.effPart, hinject, htag, Switching.takeEntries, Switching.put, tableEntry]
    rw [emitReads_of_within _ _ _ (by omega) (by decide) (by decide)]
  case fromHostShort =>
    intro s b tag hbusy hrun hlink hbme hdir htable hcount hlen hinject htag
    have hmay : s.mayRead .pf0 = true := by rw [State.mayRead, hlink]; exact hbme
    have hheld : s.readHeld .pf0 = false := by simp [State.readHeld, hmay, htag]
    change ∃ t, execTableTransferDone _ s = _ ∧ _
    simp [execTableTransferDone, hbusy, hrun, hmay, hdir, hheld, htable, hcount, State.effPart, hinject, htag, hlen, tableEntry, tableEnd_sw,
      Switching.takeEntries, Switching.put, List.range_succ]
    simp [State.tableEnd]
  case toHost =>
    intro s r hbusy hrun hlink hbme hdir
    have hmay : s.mayRead .pf0 = true := by rw [State.mayRead, hlink]; exact hbme
    change execTableTransferDone r s = _
    simp [execTableTransferDone, hbusy, hrun, hmay, hdir]
  case exception =>
    intro s e es hhelm hhove hexc hring
    change ∃ t, execExceptionFrame s = _ ∧ _
    have hring' : (State.ring { s with sw.exc := es } (mgrBase + 12)).state = .enabled := hring
    simp only [execExceptionFrame, hhelm, hhove, hexc, hring', Bool.not_true, Bool.or_self, Bool.false_eq_true, if_false, if_true]
    refine ⟨_, rfl, by simp, ⟨_, congrArg Ring.frames (ring_setRing_same _ _ _), rfl, rfl, rfl, rfl⟩, ?_⟩
    simp [SameGrid, SameInst, SameBoard, SameHost, SameProc]
  case exceptionLost =>
    intro s e es hhelm hhove hexc hring
    change execExceptionFrame s = _
    have hring' : (State.ring { s with sw.exc := es } (mgrBase + 12)).state ≠ .enabled := hring
    simp only [execExceptionFrame, hhelm, hhove, hexc, hring', Bool.not_true, Bool.or_self, Bool.false_eq_true, if_false]
    rfl

end Sys2Proof.Machine

/-!
What Helm's threads leave of the rest of the adapter (R16, R27, R378).
-/

namespace Sys2Proof.Machine

open Sys2Proof

/-! ### The adapter beside Helm -/

/-- A state without what Helm's threads can change: Helm, the raw lanes' unit, the endpoint, the error log, the manager events, the
outputs and the free values drawn. -/
def State.besideHelm (s : State) : State :=
  { s with helm := {}, ciph := {}, host := {}, err := {}, evt := {}, out := [], free := 0 }

section
variable (s : State)

@[simp] theorem besideHelm_helm (h : Helm) : ({ s with helm := h } : State).besideHelm = s.besideHelm := rfl

@[simp] theorem besideHelm_ciph (c : Cipher) : ({ s with ciph := c } : State).besideHelm = s.besideHelm := rfl

@[simp] theorem besideHelm_draw : s.draw.2.besideHelm = s.besideHelm := rfl

@[simp] theorem besideHelm_pulse (n : Nat) : (s.pulse n).besideHelm = s.besideHelm := by
  unfold State.pulse
  split <;> rfl

@[simp] theorem besideHelm_levelRise (n : Nat) (was is : Bool) : (s.levelRise n was is).besideHelm = s.besideHelm := by
  unfold State.levelRise
  split <;> simp

@[simp] theorem besideHelm_event (b : Nat) : (s.event b).besideHelm = s.besideHelm := by
  simp [State.besideHelm]

/-! ### Threads, channels and movers -/

@[simp] theorem besideHelm_setThread (t : Nat) (x : Thread) : (s.setThread t x).besideHelm = s.besideHelm := rfl

@[simp] theorem besideHelm_setChan (c : Nat) (x : Chan) : (s.setChan c x).besideHelm = s.besideHelm := rfl

@[simp] theorem besideHelm_helmCount (k : Nat) : (s.helmCount k).besideHelm = s.besideHelm := rfl

@[simp] theorem besideHelm_result (t : Nat) (o : HelmOp) (v : W32) : (s.result t o v).besideHelm = s.besideHelm := rfl

@[simp] theorem besideHelm_rawDrop (t : Nat) : (s.rawDrop t).besideHelm = s.besideHelm := rfl

@[simp] theorem besideHelm_setRaw (n : Nat) (x : RawLane) : (s.setRaw n x).besideHelm = s.besideHelm := rfl

@[simp] theorem besideHelm_helmEvent (k : Nat) : (s.helmEvent k).besideHelm = s.besideHelm := by
  rw [State.helmEvent, besideHelm_event]
  rfl

@[simp] theorem besideHelm_chanPut (c : Nat) (m : List W32) : (s.chanPut c m).besideHelm = s.besideHelm := by
  simp [State.chanPut]

@[simp] theorem besideHelm_serveChan (k c : Nat) : (State.serveChan k c s).besideHelm = s.besideHelm := by
  induction k generalizing s with
  | zero => rfl
  | succ k ih =>
    unfold State.serveChan
    dsimp only
    (repeat' split) <;> simp [ih]

@[simp] theorem besideHelm_serve (c : Nat) : (s.serve c).besideHelm = s.besideHelm := besideHelm_serveChan s 256 c

@[simp] theorem besideHelm_moverFree (m : Nat) : (s.moverFree m).besideHelm = s.besideHelm := by
  unfold State.moverFree
  split <;> simp

theorem besideHelm_foldl {α : Type} {f : State → α → State} (h : ∀ s a, (f s a).besideHelm = s.besideHelm) (l : List α) :
    (l.foldl f s).besideHelm = s.besideHelm := by
  induction l generalizing s with
  | nil => rfl
  | cons a l ih => rw [List.foldl_cons, ih, h]

/-! ### The end of a thread, faults and the debugger's halt -/

@[simp] theorem besideHelm_threadLeave (t : Nat) : (s.threadLeave t).besideHelm = s.besideHelm := by
  unfold State.threadLeave
  dsimp only
  rw [besideHelm_setThread, besideHelm_foldl _ (fun s m => by split <;> simp)]
  refine (besideHelm_helm _ _).trans ((besideHelm_rawDrop _ t).trans ?_)
  split <;> simp

@[simp] theorem besideHelm_joinTake (j t : Nat) : (s.joinTake j t).besideHelm = s.besideHelm := by
  simp [State.joinTake]

@[simp] theorem besideHelm_threadExit (t : Nat) (v : W32) : (s.threadExit t v).besideHelm = s.besideHelm := by
  unfold State.threadExit
  dsimp only
  (repeat' split) <;> simp

@[simp] theorem besideHelm_threadKill (t : Nat) : (s.threadKill t).besideHelm = s.besideHelm := by
  have hdrop : (State.helmCount { s.threadLeave t with helm.thr := (s.threadLeave t).helm.thr.drop1 t } 7).besideHelm = s.besideHelm :=
    ((besideHelm_helmCount _ 7).trans (besideHelm_helm _ _)).trans (besideHelm_threadLeave s t)
  unfold State.threadKill
  dsimp only
  split
  · exact (besideHelm_setThread _ _ _).trans hdrop
  · exact hdrop

@[simp] theorem besideHelm_takeSnapshot (cause : Nat) : (s.takeSnapshot cause).besideHelm = s.besideHelm := rfl

@[simp] theorem besideHelm_threadFault (t : Nat) (kind : HelmFault) (addr : Nat) (word : W32) :
    (s.threadFault t kind addr word).besideHelm = s.besideHelm := by
  unfold State.threadFault
  dsimp only
  (repeat' split) <;> simp

@[simp] theorem besideHelm_calmAfter (old : State) : (s.calmAfter old).besideHelm = s.besideHelm := by
  unfold State.calmAfter
  split <;> rfl

@[simp] theorem besideHelm_debugHalt (t : Nat) : (s.debugHalt t).besideHelm = s.besideHelm := rfl

@[simp] theorem besideHelm_afterStep (t : Nat) : (s.afterStep t).besideHelm = s.besideHelm := by
  unfold State.afterStep
  dsimp only
  (repeat' split) <;> simp

@[simp] theorem besideHelm_rawLoad (t lane r : Nat) (rd : BitVec 5) : (s.rawLoad t lane r rd).besideHelm = s.besideHelm := by
  unfold State.rawLoad
  dsimp only
  split <;> simp

end

/-! ### Issue -/

/-- How an instruction ends without a change beside Helm: a fault leaves no effect of it. -/
def LeavesBeside (s : State) : HelmEnd → Prop
  | .ok r => r.besideHelm = s.besideHelm
  | .error _ => True

@[simp] theorem leavesBeside_ok (s r : State) : LeavesBeside s (.ok r) ↔ r.besideHelm = s.besideHelm := Iff.rfl

@[simp] theorem leavesBeside_error (s : State) (e : HelmFault × Nat) : LeavesBeside s (.error e) ↔ True := Iff.rfl

/-- An instruction whose effect leaves the adapter beside Helm as it is. -/
def StaysInHelm (act : Nat → State → HelmEnd) : Prop := ∀ t s, LeavesBeside s (act t s)

theorem besideHelm_issueInstr {act : Nat → State → HelmEnd} (hact : StaysInHelm act) (s : State) (thread : Nat) (word : W32) :
    (s.issueInstr thread word act).besideHelm = s.besideHelm := by
  unfold State.issueInstr
  dsimp only
  split
  · rfl
  · split
    · simp
    · rw [besideHelm_calmAfter, besideHelm_afterStep]
      split
      next r hok =>
        have hr := hact (thread % 128) ((s.setThread (thread % 128) { s.thread (thread % 128) with skipBp := false }).setThread
          (thread % 128) { s.thread (thread % 128) with skipBp := false, pc := (s.thread (thread % 128)).pc + 4 })
        rw [hok] at hr
        exact hr
      next => simp

theorem besideHelm_issueOp {act : Nat → State → HelmEnd} (hact : StaysInHelm act) (s : State) (thread func : Nat) (o : HelmOp)
    (used : Bool) : (s.issueOp thread func o used act).besideHelm = s.besideHelm := by
  refine besideHelm_issueInstr (fun t s => ?_) s thread _
  split
  · exact hact t s
  · trivial

theorem staysInHelm_thrctl (op : HelmOp) : StaysInHelm (thrctl op) := by
  intro t s
  unfold thrctl
  dsimp only
  (repeat' split) <;> simp

theorem staysInHelm_helmOther (what : HelmOther) : StaysInHelm (helmOther what) := by
  intro t s
  cases what with
  | illegal => trivial
  | compute rd v tgt => simp [helmOther]
  | load rd a n bad =>
    simp only [helmOther]
    (repeat' split) <;> simp
  | store a n v =>
    simp only [helmOther]
    (repeat' split) <;> simp

theorem besideHelm_of_issueOp {s t : State} {thread func : Nat} {o : HelmOp} {used : Bool} {act : Nat → State → HelmEnd}
    (h : (.next (s.issueOp thread func o used act) : Out) = .next t) (hact : StaysInHelm act) : t.besideHelm = s.besideHelm := by
  obtain rfl := Host.Outcome.next.inj h
  exact besideHelm_issueOp hact s thread func o used

section
variable (k : Nat) (o : HelmOp) {s t : State}

theorem besideHelm_execFork (h : execFork k o s = .next t) : t.besideHelm = s.besideHelm := by
  refine besideHelm_of_issueOp h fun t s => ?_
  dsimp only
  (repeat' split) <;> simp

theorem besideHelm_execExit (h : execExit k o s = .next t) : t.besideHelm = s.besideHelm :=
  besideHelm_of_issueOp h fun t s => by simp

theorem besideHelm_execJoin (h : execJoin k o s = .next t) : t.besideHelm = s.besideHelm := by
  refine besideHelm_of_issueOp h fun t s => ?_
  dsimp only
  (repeat' split) <;> simp

theorem besideHelm_execWait (h : execWait k o s = .next t) : t.besideHelm = s.besideHelm := by
  refine besideHelm_of_issueOp h fun t s => ?_
  dsimp only
  split <;> simp

theorem besideHelm_execSignal (h : execSignal k o s = .next t) : t.besideHelm = s.besideHelm := by
  refine besideHelm_of_issueOp h fun t s => ?_
  dsimp only
  split <;> simp

theorem besideHelm_execEvmap (h : execEvmap k o s = .next t) : t.besideHelm = s.besideHelm := by
  refine besideHelm_of_issueOp h fun t s => ?_
  dsimp only
  (repeat' split) <;> simp

theorem besideHelm_execTimer (h : execTimer k o s = .next t) : t.besideHelm = s.besideHelm :=
  besideHelm_of_issueOp h fun t s => by simp

theorem besideHelm_execSettrap (h : execSettrap k o s = .next t) : t.besideHelm = s.besideHelm :=
  besideHelm_of_issueOp h fun t s => by simp

theorem besideHelm_execChstage (h : execChstage k o s = .next t) : t.besideHelm = s.besideHelm := by
  refine besideHelm_of_issueOp h fun t s => ?_
  dsimp only
  split <;> simp

theorem besideHelm_execChcommit (h : execChcommit k o s = .next t) : t.besideHelm = s.besideHelm := by
  refine besideHelm_of_issueOp h fun t s => ?_
  dsimp only
  (repeat' split) <;> simp

theorem besideHelm_execChrecv (h : execChrecv k o s = .next t) : t.besideHelm = s.besideHelm := by
  refine besideHelm_of_issueOp h fun t s => ?_
  dsimp only
  (repeat' split) <;> simp

theorem besideHelm_execChcfg (h : execChcfg k o s = .next t) : t.besideHelm = s.besideHelm := by
  refine besideHelm_of_issueOp h fun t s => ?_
  dsimp only
  (repeat' split) <;> simp

theorem besideHelm_execClass_ (h : execClass_ k o s = .next t) : t.besideHelm = s.besideHelm :=
  besideHelm_of_issueOp h fun t s => by simp

theorem besideHelm_execBreak_ (h : execBreak_ k o s = .next t) : t.besideHelm = s.besideHelm := by
  refine besideHelm_of_issueOp h fun t s => ?_
  split <;> simp

theorem besideHelm_execLoadStore (w : W32) (what : HelmOther) (h : execLoadStore k w what s = .next t) :
    t.besideHelm = s.besideHelm := by
  obtain rfl := Host.Outcome.next.inj h
  exact besideHelm_issueInstr (staysInHelm_helmOther what) s k w

theorem besideHelm_execHelmTimerFire (h : execHelmTimerFire k s = .next t) : t.besideHelm = s.besideHelm := by
  unfold execHelmTimerFire at h
  dsimp only at h
  (repeat' split at h) <;> obtain rfl := Host.Outcome.next.inj h <;> simp

end

/-- Settles O53: every effect of a thread's instruction is an operation that leaves the adapter beside Helm as it is. -/
theorem helmInstructionsStayWithinHelm : Obligations.HelmInstructionsStayWithinHelm := by
  unfold Obligations.HelmInstructionsStayWithinHelm
  intro i s t hi h
  have hb : t.besideHelm = s.besideHelm := by
    obtain ⟨k, o, hi⟩ | ⟨k, w, what, rfl⟩ | ⟨k, rfl⟩ := hi
    · obtain rfl | rfl | rfl | rfl | rfl | rfl | rfl | rfl | rfl | rfl | rfl | rfl | rfl | rfl | rfl | rfl := hi
      · exact besideHelm_execFork k o h
      · exact besideHelm_execExit k o h
      · exact besideHelm_execJoin k o h
      · exact besideHelm_execWait k o h
      · exact besideHelm_execSignal k o h
      · exact besideHelm_execEvmap k o h
      · exact besideHelm_execTimer k o h
      · exact besideHelm_execSettrap k o h
      · exact besideHelm_execChstage k o h
      · exact besideHelm_execChcommit k o h
      · exact besideHelm_execChrecv k o h
      · exact besideHelm_of_issueOp h (staysInHelm_thrctl o)
      · exact besideHelm_of_issueOp h (staysInHelm_thrctl o)
      · exact besideHelm_execChcfg k o h
      · exact besideHelm_execClass_ k o h
      · exact besideHelm_execBreak_ k o h
    · exact besideHelm_execLoadStore k w what h
    · exact besideHelm_execHelmTimerFire k h
  have field {α : Type} (f : State → α) (hf : ∀ u : State, f u.besideHelm = f u) : f t = f s := by rw [← hf t, hb, hf]
  refine ⟨⟨field (·.insts) ?_, field (·.bounds) ?_, field (·.mig) ?_⟩, ⟨field (·.rings) ?_, field (·.dechan) ?_⟩,
    ⟨field (·.time) ?_, field (·.alm) ?_, field (·.reflex) ?_, field (·.recd) ?_⟩,
    ⟨field (·.power) ?_, field (·.mem) ?_, field (·.boot) ?_, field (·.module_) ?_⟩,
    field (·.flow) ?_, field (·.cls) ?_, field (·.sw) ?_, field (·.sched) ?_, field (·.ports) ?_, field (·.dram) ?_, field (·.now) ?_⟩ <;>
    exact fun _ => rfl

end Sys2Proof.Machine

/-!
Power: rails, wakes, votes, Stop and start of the domains, scrub and panic (chapters 17 and 20).
-/

namespace Sys2Proof.Machine

open Sys2Proof

/-! ### CLKREQ_N and a wake's beginning (R468, R417) -/

/-- D2 needs its reference clock: it is out of Stop, or it is to start. -/
def State.clockNeeded (s : State) : Bool := s.dom 2 != .stop || (bit s.power.wakeSet 2 && !bit s.power.woken 2)

section
variable (s : State)

@[simp] theorem clkreqSettle_power : s.clkreqSettle.power = { s.power with clkreqLow := s.clockNeeded } := by
  unfold State.clkreqSettle
  dsimp only
  split
  next h => rw [State.clockNeeded, h]
  next => rfl

@[simp] theorem clkreqSettle_keeps :
    s.clkreqSettle.now = s.now ∧ s.clkreqSettle.host = s.host ∧ s.clkreqSettle.mem = s.mem ∧ s.clkreqSettle.boot = s.boot ∧
      s.clkreqSettle.err = s.err ∧ s.clkreqSettle.evt = s.evt ∧ s.clkreqSettle.insts = s.insts ∧
      s.clkreqSettle.bounds = s.bounds ∧ s.clkreqSettle.rings = s.rings ∧ s.clkreqSettle.dechan = s.dechan ∧
      s.clkreqSettle.mig = s.mig ∧ s.clkreqSettle.time = s.time ∧ s.clkreqSettle.flow = s.flow ∧ s.clkreqSettle.cls = s.cls ∧
      s.clkreqSettle.sw = s.sw ∧ s.clkreqSettle.sched = s.sched ∧ s.clkreqSettle.ciph = s.ciph ∧
      s.clkreqSettle.ports = s.ports ∧ s.clkreqSettle.alm = s.alm ∧ s.clkreqSettle.reflex = s.reflex ∧
      s.clkreqSettle.recd = s.recd ∧ s.clkreqSettle.helm = s.helm ∧ s.clkreqSettle.dram = s.dram := by
  unfold State.clkreqSettle
  dsimp only
  split <;> simp

@[simp] theorem wakeBegin_power_keeps (m : Nat) :
    (s.wakeBegin m).power.dom = s.power.dom ∧ (s.wakeBegin m).power.votes = s.power.votes ∧
      (s.wakeBegin m).power.vin12 = s.power.vin12 ∧ (s.wakeBegin m).power.vaux33 = s.power.vaux33 ∧
      (s.wakeBegin m).power.wakeCause = s.power.wakeCause := by
  simp [State.wakeBegin]

@[simp] theorem wakeBegin_keeps (m : Nat) :
    (s.wakeBegin m).now = s.now ∧ (s.wakeBegin m).host = s.host ∧ (s.wakeBegin m).mem = s.mem ∧ (s.wakeBegin m).boot = s.boot ∧
      (s.wakeBegin m).err = s.err ∧ (s.wakeBegin m).evt = s.evt ∧ (s.wakeBegin m).insts = s.insts ∧
      (s.wakeBegin m).bounds = s.bounds ∧ (s.wakeBegin m).rings = s.rings ∧ (s.wakeBegin m).dechan = s.dechan ∧
      (s.wakeBegin m).mig = s.mig ∧ (s.wakeBegin m).time = s.time ∧ (s.wakeBegin m).flow = s.flow ∧
      (s.wakeBegin m).cls = s.cls ∧ (s.wakeBegin m).sw = s.sw ∧ (s.wakeBegin m).sched = s.sched ∧
      (s.wakeBegin m).ciph = s.ciph ∧ (s.wakeBegin m).ports = s.ports ∧ (s.wakeBegin m).alm = s.alm ∧
      (s.wakeBegin m).reflex = s.reflex ∧ (s.wakeBegin m).recd = s.recd ∧ (s.wakeBegin m).helm = s.helm ∧
      (s.wakeBegin m).dram = s.dram := by
  simp [State.wakeBegin]

end

/-! ### The MANAGER vote (R415, R422) -/

/-- A vote byte with the MANAGER vote given or taken. -/
def castVote (v : Byte) (on : Bool) : Byte :=
  BitVec.ofNat 8 (if on then v.toNat ||| 2 ^ 0 else if bit v.toNat 0 then v.toNat - 2 ^ 0 else v.toNat)

theorem bit_castVote (v : Byte) (on : Bool) : bit (castVote v on).toNat 0 = on := by
  revert v on
  unfold castVote bit
  decide

/-- What PWR_VOTE makes of a domain's vote byte. -/
def voteAfter (action mask d : Nat) (v : Byte) : Byte :=
  if d = 0 then v
  else if action = 1 then (if bit mask d then castVote v true else v)
  else if action = 2 then (if bit mask d then castVote v false else v)
  else castVote v (bit mask d)

/-- One domain's turn in `managerVote`. -/
def managerVoteStep (action mask : Nat) (s : State) (d : Nat) : State :=
  if d = 0 then s
  else if action = 1 then (if bit mask d then s.setVote 0 d true else s)
  else if action = 2 then (if bit mask d then s.setVote 0 d false else s)
  else s.setVote 0 d (bit mask d)

theorem managerVoteStep_eq (action mask : Nat) (s : State) (d : Nat) :
    managerVoteStep action mask s d = { s with
      power.votes := s.power.votes.set d (voteAfter action mask d (s.power.votes.getD d 0)) } := by
  have hsame : s.power.votes.set d (s.power.votes.getD d 0) = s.power.votes := by
    by_cases hd : d < s.power.votes.length
    · simp [List.getD_eq_getElem?_getD, List.getElem?_eq_getElem hd]
    · exact List.set_eq_of_length_le (Nat.le_of_not_lt hd)
  unfold managerVoteStep voteAfter
  split
  · rw [hsame]
  split
  · split
    · rfl
    · rw [hsame]
  split
  · split
    · rfl
    · rw [hsame]
  · rfl

theorem managerVoteSteps_eq (action mask : Nat) (s : State) (n : Nat) :
    ∃ v : List Byte, (List.range n).foldl (managerVoteStep action mask) s = { s with power.votes := v } ∧
      v.length = s.power.votes.length ∧
      ∀ d < s.power.votes.length, v.getD d 0 =
        if d < n then voteAfter action mask d (s.power.votes.getD d 0) else s.power.votes.getD d 0 := by
  induction n with
  | zero => exact ⟨_, rfl, rfl, fun d _ => by simp⟩
  | succ n ih =>
    obtain ⟨v, hv, hlen, hget⟩ := ih
    rw [List.range_succ, List.foldl_append, hv, List.foldl_cons, List.foldl_nil, managerVoteStep_eq]
    refine ⟨_, rfl, by simp [hlen], fun d hd => ?_⟩
    rcases Nat.lt_trichotomy d n with h | rfl | h
    · have := hget d hd
      simp_all [List.getD_eq_getElem?_getD, Nat.ne_of_gt h, Nat.lt_succ_of_lt h]
    · have := hget d hd
      simp_all [List.getD_eq_getElem?_getD]
    · have := hget d hd
      simp_all [List.getD_eq_getElem?_getD, Nat.ne_of_lt h, Nat.not_lt.2 (Nat.le_of_lt h), Nat.not_lt.2 h]

theorem managerVote_eq (s : State) (action mask : Nat) (hlen : s.power.votes.length = 14) :
    ∃ v : List Byte, s.managerVote action mask = { s with power.votes := v } ∧
      ∀ d < 14, v.getD d 0 = voteAfter action mask d (s.power.votes.getD d 0) := by
  obtain ⟨v, hv, -, hget⟩ := managerVoteSteps_eq action mask s 14
  refine ⟨v, hv, fun d hd => ?_⟩
  rw [hget d (hlen ▸ hd), if_pos hd]

/-- A vote of the manager stands in the domain's mask (Table 17-3). -/
theorem bit_votes_of_cast {s : State} {d : Nat} (h : bit (s.power.votes.getD d 0).toNat 0 = true) : bit (s.votes d) 0 = true := by
  have hcast : ((s.power.votes.getD d 0).toNat % 4).testBit 0 = true := by
    rw [bit] at h
    rw [show (4 : Nat) = 2 ^ 2 from rfl, Nat.testBit_mod_two_pow, h]
    rfl
  unfold State.votes bit
  simp only [Nat.testBit_or, hcast, Bool.true_or]

/-! ### Wake sources (R417, R484) -/

@[simp] theorem assertWake_power_keeps (s : State) :
    s.assertWake.power.dom = s.power.dom ∧ s.assertWake.power.votes = s.power.votes ∧
      s.assertWake.power.wakeCause = s.power.wakeCause := by
  unfold State.assertWake
  split <;> simp

@[simp] theorem assertWake_keeps (s : State) :
    s.assertWake.now = s.now ∧ s.assertWake.host = s.host ∧ s.assertWake.err = s.err ∧ s.assertWake.evt = s.evt ∧
      s.assertWake.insts = s.insts ∧ s.assertWake.bounds = s.bounds ∧ s.assertWake.rings = s.rings ∧
      s.assertWake.dechan = s.dechan ∧ s.assertWake.mig = s.mig ∧ s.assertWake.time = s.time ∧ s.assertWake.flow = s.flow ∧
      s.assertWake.cls = s.cls ∧ s.assertWake.sw = s.sw ∧ s.assertWake.sched = s.sched ∧ s.assertWake.ciph = s.ciph ∧
      s.assertWake.ports = s.ports ∧ s.assertWake.alm = s.alm ∧ s.assertWake.reflex = s.reflex ∧
      s.assertWake.recd = s.recd ∧ s.assertWake.helm = s.helm ∧ s.assertWake.dram = s.dram := by
  unfold State.assertWake
  split <;> simp

theorem fireWake_votes {s : State} {k mask d : Nat} (hlen : s.power.votes.length = 14) (hd : d < 14) (h0 : d ≠ 0)
    (hbit : bit mask d = true) :
    bit ((s.fireWake k mask).votes d) 0 = true ∧ (s.fireWake k mask).power.wakeCause = s.power.wakeCause ||| 2 ^ k ∧
      (s.fireWake k mask).power.dom = s.power.dom ∧ SamePath s (s.fireWake k mask) ∧ SameGrid s (s.fireWake k mask) ∧
      SameInst s (s.fireWake k mask) ∧ SameRings s (s.fireWake k mask) ∧ SameHost s (s.fireWake k mask) ∧
      SameProc s (s.fireWake k mask) := by
  have hm : bit (mask % 2 ^ 14 / 2 * 2) d = true := by
    obtain ⟨e, rfl⟩ := Nat.exists_eq_succ_of_ne_zero h0
    unfold bit at *
    rw [Nat.testBit_succ, Nat.mul_div_cancel _ (by decide), ← Nat.testBit_succ, Nat.testBit_mod_two_pow, hbit, Bool.and_true,
      decide_eq_true hd]
  have hm0 : mask % 2 ^ 14 / 2 * 2 ≠ 0 := by
    intro h
    rw [h, bit_zero] at hm
    cases hm
  obtain ⟨v, hv, hget⟩ := managerVote_eq (s.wakeBegin (mask % 2 ^ 14 / 2 * 2)) 1 (mask % 2 ^ 14 / 2 * 2) (by simpa using hlen)
  have hvote : bit (v.getD d 0).toNat 0 = true := by
    rw [hget d hd, voteAfter, if_neg h0, if_pos rfl, if_pos hm, bit_castVote]
  have hfire : s.fireWake k mask = State.assertWake { s.wakeBegin (mask % 2 ^ 14 / 2 * 2) with
      power.votes := v, power.wakeCause := s.power.wakeCause ||| 2 ^ k } := by
    simp only [State.fireWake, if_neg hm0, hv, (wakeBegin_power_keeps s _).2.2.2.2]
  rw [hfire]
  refine ⟨bit_votes_of_cast (by simpa using hvote), ?_⟩
  simp [SamePath, SameGrid, SameInst, SameRings, SameHost, SameProc]


/-! ### A domain's supply goes off (R416, R426, R466) -/

theorem field_foldl {α β γ : Type} {f : α → β → α} (p : α → γ) (h : ∀ a b, p (f a b) = p a) (l : List β) (a : α) :
    p (l.foldl f a) = p a := by
  induction l generalizing a with
  | nil => rfl
  | cons b l ih => rw [List.foldl_cons, ih, h]

@[simp] theorem besideHelm_debugResume (s : State) (t : Nat) : (s.debugResume t).besideHelm = s.besideHelm := by
  unfold State.debugResume
  dsimp only
  (repeat' split) <;> simp

@[simp] theorem besideHelm_grantEnd (s : State) : s.grantEnd.besideHelm = s.besideHelm := by
  unfold State.grantEnd
  dsimp only
  split
  · rfl
  · rw [besideHelm_calmAfter, besideHelm_foldl _ fun s t => besideHelm_debugResume s t]
    exact besideHelm_helm s _

@[simp] theorem grantEnd_power (s : State) : s.grantEnd.power = s.power := congrArg (·.power) (besideHelm_grantEnd s)

@[simp] theorem grantEnd_dechan (s : State) : s.grantEnd.dechan = s.dechan := congrArg (·.dechan) (besideHelm_grantEnd s)

@[simp] theorem cipherCold_power (s : State) : s.cipherCold.power = s.power :=
  field_foldl State.power (fun s j => by simp [State.frameEnd]) _ _

@[simp] theorem destroyDone_power (s : State) : s.destroyDone.power = s.power :=
  field_foldl State.power (fun s a => by dsimp only; (repeat' split) <;> simp [State.ctxFree]) _ _

@[simp] theorem writeIndex_power (s : State) (j : Nat) : (s.writeIndex j).power = s.power := by
  unfold State.writeIndex
  split <;> simp

@[simp] theorem cover_power (s : State) (j : Nat) (up : Bool) : (s.cover j up).power = s.power := by
  unfold State.cover
  dsimp only
  split <;> simp

@[simp] theorem freeEvent_power (s : State) (k : Nat) : (s.freeEvent k).power = s.power := by
  unfold State.freeEvent
  split
  next e _ => exact field_foldl State.power (fun s j => cover_power s j false) _ _
  next => rfl

@[simp] theorem exportEnd_power (s : State) (o x y : Nat) : (s.exportEnd o x y).power = s.power := by
  unfold State.exportEnd
  split
  · rfl
  · dsimp only
    rw [(event_keeps _ _).2.2.1]
    (repeat' split) <;> simp [State.setEvent]

/-- A domain's end leaves the other domains, the votes and the rails. -/
theorem domainOff_power (s : State) (d : Nat) :
    (s.domainOff d).power.dom = s.power.dom.set d .stop ∧ (s.domainOff d).power.votes = s.power.votes ∧
      (s.domainOff d).power.vin12 = s.power.vin12 ∧ (s.domainOff d).power.vaux33 = s.power.vaux33 := by
  unfold State.domainOff
  extract_lets t e u
  have hu : u.power = { s.power with dom := s.power.dom.set d .stop } := rfl
  clear_value u
  have hdom : u.power.dom = s.power.dom.set d .stop ∧ u.power.votes = s.power.votes ∧ u.power.vin12 = s.power.vin12 ∧
      u.power.vaux33 = s.power.vaux33 := by simp [hu]
  split_ifs <;> simp +zetaDelta [State.recStop, State.coresReset, State.roundsSettle, hdom]

theorem stop_set (l : List DomState) (d e : Nat) :
    (l.set d .stop).getD e .stop = if e = d then .stop else l.getD e .stop := by
  rcases eq_or_ne e d with rfl | h
  · by_cases he : e < l.length <;> simp [List.getD_eq_getElem?_getD, he]
  · simp [List.getD_eq_getElem?_getD, h, Ne.symm h]

/-- One domain's turn in `supplyLost`. -/
def supplyStep (s : State) (d : Nat) : State :=
  if s.dom d = .stop then s else { s.domainOff d with power.recorded := s.power.recorded.set d false }

theorem supplyStep_power (s : State) (d : Nat) :
    (∀ e, (supplyStep s d).dom e = if e = d then .stop else s.dom e) ∧ (supplyStep s d).power.votes = s.power.votes ∧
      (supplyStep s d).power.vin12 = s.power.vin12 ∧ (supplyStep s d).power.vaux33 = s.power.vaux33 := by
  unfold supplyStep
  split
  next h => exact ⟨fun e => by split <;> simp_all, rfl, rfl, rfl⟩
  next h =>
    obtain ⟨hdom, hvotes, hvin, hvaux⟩ := domainOff_power s d
    exact ⟨fun e => by rw [State.dom, hdom, stop_set]; rfl, hvotes, hvin, hvaux⟩

theorem supplySteps_power (ds : List Nat) (s : State) :
    (∀ e, (ds.foldl supplyStep s).dom e = if e ∈ ds then .stop else s.dom e) ∧
      (ds.foldl supplyStep s).power.votes = s.power.votes ∧ (ds.foldl supplyStep s).power.vin12 = s.power.vin12 ∧
      (ds.foldl supplyStep s).power.vaux33 = s.power.vaux33 := by
  induction ds generalizing s with
  | nil => simp
  | cons d ds ih =>
    obtain ⟨hdom, hvotes, hvin, hvaux⟩ := supplyStep_power s d
    obtain ⟨hdoms, hvotess, hvins, hvauxs⟩ := ih (supplyStep s d)
    refine ⟨fun e => ?_, hvotess.trans hvotes, hvins.trans hvin, hvauxs.trans hvaux⟩
    rw [List.foldl_cons, hdoms, hdom]
    by_cases hd : e = d <;> by_cases hds : e ∈ ds <;> simp [hd, hds]

/-- Domains whose supply is lost are in Stop; the others, the votes and the rails stay (R466). -/
theorem supplyLost_power (s : State) (ds : List Nat) :
    (∀ e, (s.supplyLost ds).dom e = if e ∈ ds then .stop else s.dom e) ∧ (s.supplyLost ds).power.votes = s.power.votes ∧
      (s.supplyLost ds).power.vin12 = s.power.vin12 ∧ (s.supplyLost ds).power.vaux33 = s.power.vaux33 := by
  have hfold := supplySteps_power ds s
  unfold State.supplyLost
  simp only [State.dom, clkreqSettle_power]
  exact hfold

/-! ### Seals and the end of a Stop entry (R416, R419) -/

theorem powerReplies_of_none {s : State} (h : s.dechan.accepted = []) : s.powerReplies = s := by
  simp [State.powerReplies, h]

theorem clsDrain_of_idle {s : State} (h : ∀ k, (s.clsBank k).move = none) : s.clsDrain = s :=
  foldl_eq_self fun k _ => by rw [State.clsMoveEnd, h k]

theorem find_putAll_of_not_mem {α : Type} (f : Nat → α) {l : List Nat} {k : Nat} (h : k ∉ l) (m : KMap α) :
    (l.foldl (fun m b => KMap.put m b (f b)) m).find k = KMap.find m k := by
  induction l generalizing m with
  | nil => rfl
  | cons b l ih =>
    obtain ⟨hb, hl⟩ := not_or.1 fun hor => h (List.mem_cons.2 hor)
    rw [List.foldl_cons, ih hl, KMap.find_put_ne m (f b) hb]

theorem find_putAll {α : Type} (f : Nat → α) {l : List Nat} {k : Nat} (h : k ∈ l) (m : KMap α) :
    (l.foldl (fun m b => KMap.put m b (f b)) m).find k = some (f k) := by
  induction l generalizing m with
  | nil => cases h
  | cons b l ih =>
    rw [List.foldl_cons]
    by_cases hl : k ∈ l
    · exact ih hl _
    · obtain rfl : k = b := (List.mem_cons.1 h).resolve_right hl
      rw [find_putAll_of_not_mem f hl, KMap.find_put_same]

/-! ### A domain's start (R418, R420) -/

@[simp] theorem wakeEnd_keeps (s : State) :
    s.wakeEnd.power.dom = s.power.dom ∧ s.wakeEnd.cls = s.cls ∧ s.wakeEnd.dechan = s.dechan := by
  unfold State.wakeEnd
  dsimp only
  split <;> simp

/-- The lost banks of D7 as a mask. -/
theorem bit_lostBanks (p : Nat → Bool) {b : Nat} (hb : b < 32) :
    bit (((domBanks 7).filter p).foldl (fun a k => a + 2 ^ k) 0) (32 + b) = p (32 + b) := by
  have hmask : ((domBanks 7).filter p).foldl (fun a k => a + 2 ^ k) 0 = maskOf 64 (fun k => decide (32 ≤ k) && p k) := by
    have hlow : (List.range 32).foldl (fun a k => if (decide (32 ≤ k) && p k) = true then a + 2 ^ k else a) 0 = 0 :=
      foldl_eq_self fun k hk => by simp [Nat.not_le.2 (List.mem_range.1 hk)]
    rw [maskOf, show (64 : Nat) = 32 + 32 from rfl, List.range_add, List.foldl_append, hlow, List.foldl_filter]
    simp [domBanks, List.foldl_map, Nat.add_comm]
  rw [hmask, bit_maskOf]
  simp [show 32 + b < 64 by omega]

@[simp] theorem alertSettle_power (s : State) : s.alertSettle.power = s.power := by simp

theorem railGood_of_off {s : State} (hvin : s.power.vin12 = false) (hvaux : s.power.vaux33 = false) :
    Completes (.railGood .vaux33) s (fun t =>
      t.power.vaux33 = true ∧ t.power.vin12 = false ∧ t.dom 0 = .run ∧ (∀ d, 1 ≤ d → t.dom d = .stop) ∧
      t.ciph.enrolment = s.ciph.enrolment ∧ t.insts = [] ∧ t.rings = State.reset.rings ∧ t.dram = [] ∧ t.now = s.now) := by
  change ∃ t, execRailGood .vaux33 s = _ ∧ _
  refine ⟨_, rfl, ?_⟩
  simp only [hvin, hvaux, Bool.or_false, Bool.false_eq_true, if_false]
  have hstop : ∀ d, 1 ≤ d → ((List.replicate 14 DomState.stop).set 0 .run).getD d .stop = .stop := by
    intro d hd
    rw [List.getD_eq_getElem?_getD, List.getElem?_set_ne (Nat.ne_of_lt hd), List.getElem?_replicate]
    split <;> rfl
  split <;> simpa [State.dom, State.d0Start, State.reset] using hstop

theorem railLost_of_aux {s : State} (hlen : s.power.dom.length = 14) (hvaux : s.power.vaux33 = true) :
    Completes (.railLost .vin12) s (fun t =>
      t.power.vin12 = false ∧ (∀ d, 2 ≤ d → t.dom d = .stop) ∧ t.dom 0 = s.dom 0 ∧ t.dom 1 = s.dom 1 ∧
      t.power.votes = s.power.votes) := by
  have hds : ∀ d, d ∈ (List.range 14).filter (fun d => decide (2 ≤ d)) ↔ 2 ≤ d ∧ d < 14 := fun d => by
    simp [and_comm]
  change ∃ t, execRailLost .vin12 s = _ ∧ _
  unfold execRailLost
  extract_lets p u v
  have hlost := supplyLost_power u ((List.range 14).filter (fun d => decide (2 ≤ d)))
  have hu : u.power.vin12 = false ∧ u.power.vaux33 = s.power.vaux33 ∧ u.power.votes = s.power.votes ∧ u.dom = s.dom :=
    ⟨rfl, rfl, rfl, rfl⟩
  have hv : v = u.supplyLost ((List.range 14).filter (fun d => decide (2 ≤ d))) := rfl
  rw [← hv] at hlost
  clear_value v u
  obtain ⟨hdom, hvotes, hvin, haux⟩ := hlost
  obtain ⟨hoff, hvaux', hvotes', hdom'⟩ := hu
  rw [hoff, haux, hvaux', hvaux]
  refine ⟨v, rfl, hvin.trans hoff, fun d hd => ?_, ?_, ?_, hvotes.trans hvotes'⟩
  · rw [hdom, hdom']
    split
    · rfl
    next hmem => exact List.getD_eq_default _ _ (hlen ▸ Nat.le_of_not_lt fun hlt => hmem ((hds d).2 ⟨hd, hlt⟩))
  · rw [hdom, if_neg (by simp), hdom']
  · rw [hdom, if_neg (by simp), hdom']

theorem domainOff_classifier (s : State) :
    (s.domainOff 7).power = { s.power with dom := s.power.dom.set 7 .stop } ∧ (s.domainOff 7).dechan = s.dechan ∧
      (s.domainOff 7).cls = s.cls ∧ (s.domainOff 7).flow = s.flow ∧ SameGrid s (s.domainOff 7) ∧ SameInst s (s.domainOff 7) ∧
      (s.domainOff 7).rings = s.rings := by
  simp [State.domainOff, SameGrid, SameInst]

theorem sealBanks_classifier (s : State) {b : Nat} (hb : b < 32) :
    (s.sealBanks 7).power.banks.find (32 + b) = some { w0 := s.stopCount 7 + 1, w1 := sealWord1 (s.stopCount 7 + 1) (32 + b), armed := true } := by
  have hmem : 32 + b ∈ domBanks 7 := by simp [domBanks, Nat.add_comm, hb]
  unfold State.sealBanks
  dsimp only
  rw [find_putAll _ hmem]

@[simp] theorem sealBanks_keeps (s : State) (d : Nat) :
    (s.sealBanks d).cls = s.cls ∧ (s.sealBanks d).flow = s.flow ∧ (s.sealBanks d).time = s.time ∧ (s.sealBanks d).alm = s.alm ∧
      (s.sealBanks d).reflex = s.reflex ∧ (s.sealBanks d).recd = s.recd ∧ (s.sealBanks d).insts = s.insts ∧
      (s.sealBanks d).bounds = s.bounds ∧ (s.sealBanks d).mig = s.mig ∧ (s.sealBanks d).rings = s.rings := by
  simp [State.sealBanks]

theorem domainStopSeal_classifier {s : State} {b : Nat} (hb : b < 32) (hdom : s.power.dom.length = 14)
    (hcount : s.power.stopCount.length = 14) (hdrain : s.dom 7 = .draining) (hwant : s.wanted 7 = false)
    (hnone : s.dechan.accepted = []) (hidle : ∀ k, (s.clsBank k).move = none) :
    Completes (.domainStopSeal 7) s (fun t =>
      t.dom 7 = .stop ∧ t.stopCount 7 = s.stopCount 7 + 1 ∧
      t.power.banks.find (32 + b) = some
        { w0 := s.stopCount 7 + 1, w1 := ~~~(s.stopCount 7 + 1) ^^^ BitVec.ofNat 32 ((32 + b) * 256), armed := true, tripped := false } ∧
      t.cls = s.cls ∧ t.flow = s.flow ∧ SameGrid s t ∧ SameInst s t ∧ t.rings = s.rings) := by
  obtain ⟨hpower, hdechan, hcls, hflow, hgrid, hinst, hrings⟩ := domainOff_classifier (s.sealBanks 7)
  have hexec : execDomainStopSeal 7 s = .next (((s.sealBanks 7).domainOff 7).event 22) := by
    have hreplies : (((s.sealBanks 7).domainOff 7).event 22).powerReplies = ((s.sealBanks 7).domainOff 7).event 22 :=
      powerReplies_of_none (by simp only [(event_keeps _ _).2.2.2.2.2.2.2.2.2.1, hdechan]; exact hnone)
    simp only [execDomainStopSeal, hdrain, hwant, clsDrain_of_idle hidle]
    simp [hreplies]
  refine ⟨_, hexec, ?_⟩
  generalize (s.sealBanks 7).domainOff 7 = u at *
  have hseal := sealBanks_classifier s hb
  have hfind : u.power.banks = (s.sealBanks 7).power.banks := by rw [hpower]
  refine ⟨?_, ?_, ?_, ?_, ?_, ?_, ?_, ?_⟩
  · simp [State.dom, hpower, State.sealBanks, hdom]
  · simp [State.stopCount, hpower, State.sealBanks, hcount]
  · simpa [hfind, sealWord1] using hseal
  · simpa using hcls
  · simpa using hflow
  · simpa [SameGrid] using hgrid
  · simpa [SameInst] using hinst
  · simpa using hrings

/-- The banks of a domain that do not hold at its start after a Stop (R420). -/
def State.lostMask (s : State) (d : Nat) : Nat :=
  (if !s.power.hasRun.getD d false then [] else (domBanks d).filter (fun b => !s.bankHolds d b)).foldl (fun a b => a + 2 ^ b) 0

theorem exec_domainStart_of_may {s : State} {d : Nat} (h0 : d ≠ 0) (hmay : s.mayStartDomain d = true) :
    ∃ u v w : State, exec (.domainStart d) s = .next w.clkreqSettle.powerReplies ∧ u.power.dom = s.power.dom ∧ u.cls = s.cls ∧
      u.dechan = s.dechan ∧
      v = ((u.setDom d .run).domainUp d (!s.power.hasRun.getD d false) (s.lostMask d)).event 22 ∧
      w = if v.toStart = 0 then v.wakeEnd else v := by
  have hstop : s.dom d ≠ .draining := by
    intro h
    simp [State.mayStartDomain, h] at hmay
  change ∃ u v w : State, execDomainStart d s = _ ∧ _
  unfold execDomainStart
  rw [if_neg h0, if_neg fun h => hstop h.1, hmay, if_neg (show ¬((!true) = true) by decide)]
  extract_lets p1 s1 first banks lostList lost droop p2 s2 s3 s4 s5
  have hkeep : s1.power.dom = s.power.dom ∧ s1.cls = s.cls ∧ s1.dechan = s.dechan ∧ s1.power.hasRun = s.power.hasRun ∧
      s1.bankHolds = s.bankHolds := by
    simp only [s1]
    split <;> exact ⟨rfl, rfl, rfl, rfl, rfl⟩
  have hlost : lost = s.lostMask d := by
    simp only [lost, lostList, first, banks, hkeep, State.lostMask]
  have hfirst : first = !s.power.hasRun.getD d false := by simp only [first, hkeep]
  refine ⟨s2, s4, s5, rfl, hkeep.1, hkeep.2.1, hkeep.2.2.1, ?_, rfl⟩
  rw [← hlost, ← hfirst]

/-- A start is the domain's own, on a state whose domains, classifier and commands are as they were, then the wake's end. -/
theorem domainStart_of_may {s : State} {d : Nat} (h0 : d ≠ 0) (hmay : s.mayStartDomain d = true)
    (hnone : ∀ u : State, u.dechan = s.dechan →
      ((u.setDom d .run).domainUp d (!s.power.hasRun.getD d false) (s.lostMask d)).dechan.accepted = []) :
    Completes (.domainStart d) s (fun t => ∃ u x : State, u.power.dom = s.power.dom ∧ u.cls = s.cls ∧
      x = (u.setDom d .run).domainUp d (!s.power.hasRun.getD d false) (s.lostMask d) ∧
      t.power.dom = x.power.dom ∧ t.cls = x.cls ∧ (x.dom 2 ≠ .stop → t.power.clkreqLow = true)) := by
  obtain ⟨u, v, w, hexec, hdom, hcls, hdechan, hv, hw⟩ := exec_domainStart_of_may h0 hmay
  have hx := hnone u hdechan
  generalize hxdef : (u.setDom d .run).domainUp d (!s.power.hasRun.getD d false) (s.lostMask d) = x at *
  have hkeep : w.power.dom = x.power.dom ∧ w.cls = x.cls ∧ w.dechan = x.dechan := by
    rw [hw, hv]
    split <;> simp
  obtain ⟨hdomw, hclsw, hdechanw⟩ := hkeep
  have hnonew : w.clkreqSettle.dechan.accepted = [] := by simpa [hdechanw] using hx
  refine ⟨w.clkreqSettle, by rw [hexec, powerReplies_of_none hnonew], u, x, hdom, hcls, hxdef.symm, by simpa using hdomw,
    by simpa using hclsw, fun hrun => ?_⟩
  have hsame : w.dom 2 = x.dom 2 := by simp [State.dom, hdomw]
  simp [State.clockNeeded, hsame, hrun]

theorem bit_lostMask {s : State} {b : Nat} (hb : b < 32) (hrun : s.power.hasRun.getD 7 false = true) :
    bit (s.lostMask 7) (32 + b) = !s.bankHolds 7 (32 + b) := by
  rw [State.lostMask, hrun]
  exact bit_lostBanks (fun b => !s.bankHolds 7 b) hb

theorem domainStopSeal_endpoint {s : State} (hlen : s.power.dom.length = 14) (hdrain : s.dom 2 = .draining)
    (hwant : s.wanted 2 = false) (hnone : s.dechan.accepted = []) (hset : bit s.power.wakeSet 2 = false) :
    Completes (.domainStopSeal 2) s (fun t => t.dom 2 = .stop ∧ t.power.clkreqLow = false) := by
  have hexec : execDomainStopSeal 2 s = .next (((s.sealBanks 2).domainOff 2).event 22).powerReplies := by
    simp [execDomainStopSeal, hdrain, hwant]
  have hdechan : ((s.sealBanks 2).domainOff 2).dechan = s.dechan := by
    simp [State.domainOff, State.sealBanks]
  refine ⟨_, hexec, ?_⟩
  rw [powerReplies_of_none (by simpa [hdechan] using hnone)]
  simp [State.dom, State.clockNeeded, State.domainOff, State.sealBanks, hlen, hset]

@[simp] theorem domainUp_classifier_keeps (u : State) (first : Bool) (lost : Nat) :
    (u.domainUp 7 first lost).power = u.power ∧ (u.domainUp 7 first lost).dechan = u.dechan := by
  cases first <;> simp [State.domainUp, State.upD7]

theorem domainUp_classifier_first (u : State) (lost : Nat) : (u.domainUp 7 true lost).cls.banks = List.replicate 32 {} := rfl

theorem domainUp_classifier_again (u : State) (lost : Nat) {b : Nat} (hb : b < u.cls.banks.length) :
    (u.domainUp 7 false lost).cls.banks[b]? =
      some (if bit lost (32 + b) then { state := .lost } else { u.cls.banks[b] with tie := 0, move := none }) := by
  have hbanks : (u.domainUp 7 false lost).cls.banks = u.cls.banks.zipIdx.map (fun (x : ClsBank × Nat) =>
      if bit lost (32 + x.2) then { state := .lost } else { x.1 with tie := 0, move := none }) := rfl
  simp [hbanks, hb]

@[simp] theorem domainUp_endpoint (u : State) (first : Bool) (lost : Nat) :
    (u.domainUp 2 first lost).power.dom = u.power.dom ∧ (u.domainUp 2 first lost).dechan = {} := by
  simp [State.domainUp, State.upD2, State.instsGone, State.setVote]

/-- A start of D7 after a Stop: a bank whose seal does not hold is LOST, another stays (R420, R191). -/
theorem domainStart_classifier_again {s : State} {b : Nat} (hb : b < 32) (hbanks : s.cls.banks.length = 32)
    (hlen : s.power.dom.length = 14) (hmay : s.mayStartDomain 7 = true) (hrun : s.power.hasRun.getD 7 false = true)
    (hnone : s.dechan.accepted = []) :
    Completes (.domainStart 7) s (fun t => t.dom 7 = .run ∧ t.cls.banks[b]? = some
      (if s.bankHolds 7 (32 + b) then { s.cls.banks[b]'(hbanks ▸ hb) with tie := 0, move := none } else { state := .lost })) := by
  refine (domainStart_of_may (by decide) hmay fun u hu => by simpa [hu] using hnone).imp fun t => ?_
  rintro ⟨hexec, u, x, hdom, hcls, rfl, hdomt, hclst, -⟩
  refine ⟨hexec, by simp [State.dom, hdomt, hdom, hlen], ?_⟩
  rw [hrun] at hclst
  rw [hclst, Bool.not_true, domainUp_classifier_again (u.setDom 7 .run) (s.lostMask 7) (by simp [hcls, hbanks, hb]), bit_lostMask hb hrun]
  cases s.bankHolds 7 (32 + b) <;> simp [hcls]

/-- Settles O18: rails, wakes, Stop entries and starts, each from what `supplyLost`, `fireWake`, the seals and `domainUp` do. -/
theorem domainsStopStartAndWake : Obligations.DomainsStopStartAndWake := by
  unfold Obligations.DomainsStopStartAndWake
  refine ⟨?railsOff, ?auxOn, ?vinOn, ?auxLost, ?droop, ?droopUnarmed, ?wakeSource, ?pwrWake, ?stopEntry, ?drainEnds,
    ?sealClassifier, ?startEnds, ?startEndpoint, ?sealEndpoint, ?firstStart, ?bankHolds, ?bankLost⟩
  case railsOff =>
    intro s hvin hvaux
    exact railGood_of_off hvin hvaux
  case auxOn =>
    intro s hvaux
    change ∃ t, execRailGood .vin12 s = _ ∧ _
    refine ⟨_, rfl, ?_⟩
    simp only [hvaux, Bool.or_true, if_true]
    split <;> simp [SamePath, SameGrid, SameInst, SameRings, SameHost, SameProc]
  case vinOn =>
    intro s hvin
    exact ⟨_, if_pos hvin, rfl⟩
  case auxLost =>
    intro s hlen hvaux
    exact railLost_of_aux hlen hvaux
  case droop =>
    intro s b x hfind harmed
    change execDroopTrip b s = _
    simp [execDroopTrip, KMap.getD, hfind, harmed]
  case droopUnarmed =>
    intro s b x hfind harmed
    change execDroopTrip b s = _
    simp [execDroopTrip, KMap.getD, hfind, harmed]
  case wakeSource =>
    intro s k d hlen hk hrun hd h0 hbit
    change ∃ t, execWakeSource k s = _ ∧ _
    have hfits : (k == 2 || k == 3) = false ∧ (k != 4) = true ∧ k < 6 := by
      simp
      omega
    refine ⟨s.fireWake k (s.power.wakeTarget.getD k 0), ?_, fireWake_votes hlen hd h0 hbit⟩
    simp [execWakeSource, hfits, hrun]
  case pwrWake =>
    intro s m d hlen hlink hd h0 hbit
    change ∃ t, execPwrWake m s = _ ∧ _
    exact ⟨s.fireWake 6 m, by rw [execPwrWake, if_pos hlink], fireWake_votes hlen hd h0 hbit⟩
  case stopEntry =>
    intro s d hstop h5
    change execDomainStopEntry d s = _
    simp [execDomainStopEntry, hstop, h5, State.setDom]
  case drainEnds =>
    intro s d h0 hdrain hwant hnone
    change execDomainStopSeal d s = _
    simp only [execDomainStopSeal, h0, hdrain, hwant, ne_eq, not_true_eq_false, or_self, if_false, if_true]
    rw [powerReplies_of_none (by exact hnone)]
    rfl
  case sealClassifier =>
    intro s b hb hdom hcount hdrain hwant hnone hidle
    exact domainStopSeal_classifier hb hdom hcount hdrain hwant hnone hidle
  case startEnds =>
    intro s d h0 hdrain hwant hnone
    change execDomainStart d s = _
    simp only [execDomainStart, h0, hdrain, hwant, and_self, if_false, if_true]
    rw [powerReplies_of_none (by exact hnone)]
    rfl
  case startEndpoint =>
    intro s hlen hmay hnone
    refine (domainStart_of_may (by decide) hmay fun u _ => by simp only [domainUp_endpoint]).imp fun t => ?_
    rintro ⟨hexec, u, x, hdom, -, rfl, hdomt, -, hclk⟩
    rw [(domainUp_endpoint _ _ _).1, State.setDom_power, hdom] at hdomt
    have hget : (s.power.dom.set 2 .run).getD 2 .stop = .run := by simp [hlen]
    refine ⟨hexec, by rw [State.dom, hdomt, hget], hclk ?_⟩
    rw [State.dom, (domainUp_endpoint _ _ _).1, State.setDom_power, hdom, hget]
    decide
  case sealEndpoint =>
    intro s hlen hdrain hwant hnone hset
    exact domainStopSeal_endpoint hlen hdrain hwant hnone hset
  case firstStart =>
    intro s hlen hmay hrun hnone
    refine (domainStart_of_may (by decide) hmay fun u hu => by simpa [hu] using hnone).imp fun t => ?_
    rintro ⟨hexec, u, x, hdom, -, rfl, hdomt, hclst, -⟩
    rw [hrun] at hclst
    exact ⟨hexec, by simp [State.dom, hdomt, hdom, hlen], by rw [hclst]; exact domainUp_classifier_first _ _⟩
  case bankHolds =>
    intro s b hb hbanks hlen hmay hrun hnone hholds
    obtain ⟨t, hexec, hdomt, hclst⟩ := domainStart_classifier_again hb hbanks hlen hmay hrun hnone
    exact ⟨t, hexec, hdomt, by simp [hclst, hholds]⟩
  case bankLost =>
    intro s b hb hbanks hlen hmay hrun hnone hholds
    obtain ⟨t, hexec, hdomt, hclst⟩ := domainStart_classifier_again hb hbanks hlen hmay hrun hnone
    exact ⟨t, hexec, hdomt, by simp [hclst, hholds, hbanks, hb]⟩

end Sys2Proof.Machine

/-!
Scrub, panic, votes, power queries and wake reports (chapter 17).
-/

namespace Sys2Proof.Machine

open Sys2Proof

/-- Settles O19: each event and command by what its body reads. -/
theorem votesQueriesAndScrub : Obligations.VotesQueriesAndScrub := by
  unfold Obligations.VotesQueriesAndScrub
  refine ⟨?pass, ?idle, ?panic, ?panicEnds, ?voteGone, ?voteStays, ?voteAsked, ?ask, ?voteTaken, ?managerVotes, ?badForm, ?query,
    ?wakeReport⟩
  case pass =>
    intro s ce hrun hnone
    change execScrubPassEnd ce 0 s = _
    simp [execScrubPassEnd, hrun, hnone, State.scrubLog]
    rfl
  case idle =>
    intro s ce ue hidle
    change execScrubPassEnd ce ue s = _
    simp [execScrubPassEnd, hidle]
  case panic =>
    intro s k n hrun hk hnew hn
    change ∃ t, execDramPanic k true n s = _ ∧ _
    simp [execDramPanic, hrun, Nat.not_lt.2 hk, hnew, Nat.min_eq_left hn, addNew]
  case panicEnds =>
    intro s k n hrun hk hn
    change execDramPanic k false n s = _
    simp [execDramPanic, hrun, Nat.not_lt.2 hk, Nat.min_eq_left hn]
  case voteGone =>
    intro s t hlost hdue
    change execLinkVoteRelease s = _
    simp [execLinkVoteRelease, hlost, State.elapsed, hdue]
  case voteStays =>
    intro s t hlost hdue
    change execLinkVoteRelease s = _
    simp [execLinkVoteRelease, hlost, State.elapsed, Nat.not_le.2 hdue]
  case voteAsked =>
    intro s c
    dsimp only
    intro hready h1 h3 hbit0 hbit14 hbit15 hreply
    refine answers_of rfl hready rfl ?_
    generalize State.opened s _ c = t at *
    obtain ⟨r, hr⟩ := Option.isSome_iff_exists.1 hreply
    have hq : t.voteAsk c = (some r, (t.voteAsk c).2) := by rw [← hr]
    have hforms : ¬(byteAt c.data 0 = 0 ∨ 3 < byteAt c.data 0) := by omega
    rw [pwrVoteBody, if_neg hforms, if_neg (by simp [hbit0, hbit14, hbit15]), hq]
    rfl
  case ask =>
    intro s c
    exact ⟨fun h => if_neg (by simp [h]), fun h => if_pos h⟩
  case voteTaken =>
    intro s c
    dsimp only
    intro hnone hready h1 h3 hbit0 hbit14 hbit15 hstart hwait
    refine answers_of rfl hready rfl ?_
    generalize State.opened s _ c = t at *
    have hq : t.voteAsk c = (none, (t.voteAsk c).2) := by rw [← Option.isNone_iff_eq_none.1 hnone]
    have hforms : ¬(byteAt c.data 0 = 0 ∨ 3 < byteAt c.data 0) := by omega
    rw [pwrVoteBody, if_neg hforms, if_neg (by simp [hbit0, hbit14, hbit15]), hq]
    simp [hstart, hwait]
  case managerVotes =>
    intro s d m hlen hd h0
    obtain ⟨v1, hv1, hget1⟩ := managerVote_eq s 1 m hlen
    obtain ⟨v2, hv2, hget2⟩ := managerVote_eq s 2 m hlen
    obtain ⟨v3, hv3, hget3⟩ := managerVote_eq s 3 m hlen
    simp only [hv1, hv2, hv3, hget1 d hd, hget2 d hd, hget3 d hd, voteAfter, h0, if_false, if_true]
    refine ⟨fun h => by rw [if_pos h, bit_castVote], fun h => ?_, ?_, fun h => ⟨?_, ?_⟩⟩
    · rw [if_neg (by decide), if_pos h, bit_castVote]
    · rw [if_neg (by decide), if_neg (by decide), bit_castVote]
    · rw [if_neg (by simp [h])]
    · rw [if_neg (by decide), if_neg (by simp [h])]
  case badForm =>
    intro s c
    dsimp only
    intro hready hbad
    refine answers_of rfl hready rfl ?_
    generalize State.opened s _ c = t at *
    rw [pwrVoteBody, if_pos hbad]
  case query =>
    intro s c
    dsimp only
    intro hready
    exact answers_of rfl hready rfl rfl
  case wakeReport =>
    intro s c
    dsimp only
    intro hready
    refine answers_of rfl hready rfl ?_
    generalize State.opened s _ c = t
    cases hdone : t.power.scrub.done <;> simp [State.wakeReportData, hdone, b2n]

end Sys2Proof.Machine

/-!
Memory writes (log entry 3), and the acceptance and the reply of a command (chapter 14).
-/

namespace Sys2Proof.Machine

open Sys2Proof

/-! ### Canonical memories -/

theorem KMap.lt_of_sorted_cons {α : Type} {p : Nat × α} {m : KMap α} (h : KMap.sorted (p :: m) = true) : ∀ q ∈ m, p.1 < q.1 := by
  induction m generalizing p with
  | nil => simp
  | cons q m ih =>
    have hpq : p.1 < q.1 := by
      rw [KMap.sorted, Bool.and_eq_true, decide_eq_true_eq] at h
      exact h.1
    have htail : KMap.sorted (q :: m) = true := KMap.sorted_tail p _ h
    intro r hr
    rcases List.mem_cons.1 hr with rfl | hr
    · exact hpq
    · exact hpq.trans (ih htail r hr)

theorem KMap.mem_of_find {α : Type} {m : KMap α} {k : Nat} {v : α} (h : KMap.find m k = some v) : (k, v) ∈ m := by
  induction m with
  | nil => cases h
  | cons p m ih =>
    rw [KMap.find] at h
    split at h
    next hk =>
      rw [← hk, ← Option.some.inj h]
      exact List.mem_cons_self
    next => exact List.mem_cons_of_mem _ (ih h)

theorem KMap.find_eq_none_of_lt {α : Type} {m : KMap α} {k : Nat} (h : ∀ q ∈ m, k < q.1) : KMap.find m k = none := by
  rw [Option.eq_none_iff_forall_ne_some]
  exact fun v hv => Nat.lt_irrefl _ (h _ (KMap.mem_of_find hv))

/-- A sorted map is what its lookups say. -/
theorem KMap.eq_of_find {α : Type} {m n : KMap α} (hm : KMap.sorted m = true) (hn : KMap.sorted n = true)
    (h : ∀ k, KMap.find m k = KMap.find n k) : m = n := by
  induction m generalizing n with
  | nil =>
    cases n with
    | nil => rfl
    | cons q n =>
      have := h q.1
      simp [KMap.find] at this
  | cons p m ih =>
    cases n with
    | nil =>
      have := h p.1
      simp [KMap.find] at this
    | cons q n =>
      have hp := KMap.lt_of_sorted_cons hm
      have hq := KMap.lt_of_sorted_cons hn
      have hkey : p.1 = q.1 := by
        rcases Nat.lt_trichotomy p.1 q.1 with hlt | heq | hlt
        · have := h p.1
          rw [KMap.find_eq_none_of_lt (m := q :: n) (by simpa using ⟨hlt, fun a b hab => hlt.trans (hq _ hab)⟩)] at this
          simp [KMap.find] at this
        · exact heq
        · have := h q.1
          rw [KMap.find_eq_none_of_lt (m := p :: m) (by simpa using ⟨hlt, fun a b hab => hlt.trans (hp _ hab)⟩)] at this
          simp [KMap.find] at this
      have hval : p.2 = q.2 := by
        have := h p.1
        simpa [KMap.find, hkey] using this
      have hrest : m = n := ih (KMap.sorted_tail p _ hm) (KMap.sorted_tail q _ hn) fun k => by
        by_cases hk : k = p.1
        · rw [hk, KMap.find_eq_none_of_lt hp, hkey, KMap.find_eq_none_of_lt hq]
        · have := h k
          simpa [KMap.find, ← hkey, Ne.symm hk] using this
      rw [hrest, Prod.ext hkey hval]

theorem Mem.find_of_wf {m : Mem} (h : Mem.wf m = true) (a : Nat) :
    KMap.find m a = if m.read a = 0 then none else some (m.read a) := by
  rw [Mem.wf, Bool.and_eq_true, List.all_eq_true] at h
  rw [Mem.read, KMap.getD]
  cases hfind : KMap.find m a with
  | none => rfl
  | some v =>
    have hv := h.2 _ (KMap.mem_of_find hfind)
    simp_all

theorem Mem.eq_of_read {m n : Mem} (hm : Mem.wf m = true) (hn : Mem.wf n = true) (h : ∀ a, m.read a = n.read a) : m = n := by
  refine KMap.eq_of_find ?_ ?_ fun a => by rw [Mem.find_of_wf hm, Mem.find_of_wf hn, h]
  · exact (Bool.and_eq_true _ _ ▸ hm : _ ∧ _).1
  · exact (Bool.and_eq_true _ _ ▸ hn : _ ∧ _).1

/-- Settles O52: the laws of `Mem.writeN`, and that a canonical memory is what it reads as. -/
theorem memoryWritesStoreTheirOctets : Obligations.MemoryWritesStoreTheirOctets := by
  unfold Obligations.MemoryWritesStoreTheirOctets
  refine ⟨fun s a b h => Mem.wf_writeN _ _ _ h, ?_, ?_, ?_, ?_, fun m n => Mem.eq_of_read⟩
  · intro s a b i h hi
    exact Mem.read_writeN_inside _ _ _ _ hi h
  · intro s a b c hc
    exact Mem.read_writeN_outside _ _ _ _ hc
  · intro s a b e he
    have he := List.mem_filter.1 he
    refine ⟨he.1, fun hbad => ?_⟩
    simp_all
  · intro s a b
    simp [SamePath, SameGrid, SameInst, SameRings, SameHost]

/-! ### Acceptance and reply (R343, R344, R360) -/

@[simp] theorem ring_postRing (s : State) (r a k : Nat) (b : Bytes) : (s.postRing r a b).ring k = s.ring k := by
  simp [State.ring]

theorem ring_accept (s : State) (op : Op) (c : Cmd) :
    ((s.accept op c).ring (cmdRing c)).fetch = (s.ring (cmdRing c)).fetch + 1 := by
  rw [State.accept]
  simp only [ring_postRing]
  rw [show (s.acceptance op c).ring = cmdRing c from rfl, ring_setRing_same]

/-- What a reply leaves of the command transport before the log. -/
def repliedDechan (d : Dechan) (a : Accepted) (status : Nat) (late : Bool) : Dechan :=
  let cnt := if status = 0 then d.cnt else d.cnt.inc 1
  { d with
    cnt := if late then cnt.inc 2 else cnt
    accepted := d.accepted.filter (fun b => !(b.ring == a.ring && b.idx == a.idx)) }

theorem reply_dechan_of_unlogged (s : State) (a : Accepted) (st d : Nat) (data buf : Bytes) (h : logged st a.opcode = false) :
    (s.reply a st d data buf).dechan = repliedDechan s.dechan a st (decide (a.deadline < s.now)) := by
  simp [State.reply, h, repliedDechan]

theorem reply_dechan_of_logged (s : State) (a : Accepted) (st d : Nat) (data buf : Bytes) (h : logged st a.opcode = true) :
    ∃ e : LogEntry, (s.reply a st d data buf).dechan = { repliedDechan s.dechan a st (decide (a.deadline < s.now)) with
        log := s.dechan.log.put (s.dechan.logNext % 256) e, logNext := (s.dechan.logNext + 1) % 2 ^ 32 } ∧
      e.status = st ∧ e.opcode = a.opcode ∧ e.seq = a.cmd.seq ∧ e.inst = a.cmd.inst ∧ e.handle = a.cmd.handle ∧ e.detail = d ∧
      e.logSeq = s.dechan.logNext := by
  simp [State.reply, h, repliedDechan, State.logReply]
  exact ⟨_, rfl, rfl, rfl, rfl, rfl, rfl, rfl, rfl⟩

theorem reply_accepted (s : State) (a : Accepted) (st d : Nat) (data buf : Bytes) :
    (s.reply a st d data buf).dechan.accepted = s.dechan.accepted.filter (fun b => !(b.ring == a.ring && b.idx == a.idx)) := by
  cases h : logged st a.opcode
  · rw [reply_dechan_of_unlogged s a st d data buf h]
    rfl
  · obtain ⟨e, he, -⟩ := reply_dechan_of_logged s a st d data buf h
    rw [he]
    rfl

/-- Settles O51: acceptance moves FETCH, and a reply's effect on the transport is `repliedDechan` with, where it is logged, an entry. -/
theorem repliesEndTheirCommands : Obligations.RepliesEndTheirCommands := by
  unfold Obligations.RepliesEndTheirCommands
  refine ⟨?_, ?_, ?_, ?_, ?_⟩
  · intro s op c
    refine ⟨ring_accept s op c, ?_⟩
    simp [State.accept]
  · intro s op c
    refine ⟨ring_accept s op c, ?_⟩
    simp [State.enqueue, State.accept, SamePath, SameGrid]
  · intro s a st d data buf
    refine ⟨reply_accepted s a st d data buf, ?_⟩
    simp
  · intro s a d data buf hclass hlate
    have hlog : logged 0 a.opcode = false := by simp [logged, hclass]
    rw [reply_dechan_of_unlogged s a 0 d data buf hlog]
    simp [repliedDechan, Nat.not_lt.2 hlate]
  · intro s a d data buf hlate hnext
    obtain ⟨e, he, hfields⟩ := reply_dechan_of_logged s a 2 d data buf rfl
    rw [he]
    refine ⟨by simp [repliedDechan, Nat.not_lt.2 hlate], rfl, e, KMap.find_put_same _ _ _, hfields⟩

/-! ### The common checks of Table 14-3 (R344, R346) -/

theorem runCmd_of_waiting {s : State} {op : Op} {c : Cmd} {a : Accepted} (hwaits : s.waitingEntry op c = some a)
    (body : Bytes → State → Reply) : s.runCmd op c body =
      if !s.served a.ring || s.stillWaits a then s
      else if s.bufferWaits op c then s.readWait (ringFn (cmdRing c))
      else (State.checked (s.resume a) op c body).finish { a with waits := false } := by
  simp only [State.runCmd, State.serveEntry, hwaits]

theorem runCmd_of_new {s : State} {op : Op} {c : Cmd} (hnew : s.waitingEntry op c = none) (body : Bytes → State → Reply) :
    s.runCmd op c body =
      if !s.takes op c then s
      else if s.mustWait op c then s.enqueue op c
      else if s.bufferWaits op c then s.readWait (ringFn (cmdRing c))
      else ((s.accept op c).checked op c body).finish (s.acceptance op c) := by
  simp only [State.runCmd, State.serveEntry, hnew]

theorem runCmd_of_accepts {s : State} {op : Op} {c : Cmd} (haccepts : s.accepts op c = true) (hwaits : s.bufferWaits op c = false)
    (body : Bytes → State → Reply) :
    s.runCmd op c body = ((s.accept op c).checked op c body).finish (s.acceptance op c) := by
  rw [State.runCmd, serveEntry_accepts haccepts, hwaits]
  rfl

/-- An entry that fails one of checks 1 to 6 replies with what the check says. -/
theorem runCmd_of_refused {s : State} {op : Op} {c : Cmd} {st d : Nat} (haccepts : s.accepts op c = true) (hown : c.own = 0)
    (hcheck : checkEntry op c = some (st, d)) (body : Bytes → State → Reply) :
    s.runCmd op c body =
      (if st = 3 then Reply.bad (s.accept op c) d else Reply.no (s.accept op c) st d).finish (s.acceptance op c) := by
  rw [runCmd_of_accepts haccepts (by simp [State.bufferWaits, hcheck])]
  simp [State.checked, hcheck, hown]

/-- An entry without a parameter buffer that passes checks 1 to 7 goes on to checks 9 and 10. -/
theorem runCmd_of_checked {s : State} {op : Op} {c : Cmd} (haccepts : s.accepts op c = true) (hcheck : checkEntry op c = none)
    (hlen : c.paramLen = 0) (hwaits : s.bufferWaits op c = false) (body : Bytes → State → Reply) :
    s.runCmd op c body = ((s.accept op c).carryOut op c [] body).finish (s.acceptance op c) := by
  have hok : (s.accept op c).bufferOk op c = true := by
    unfold State.bufferOk
    split <;> simp [hlen]
  rw [runCmd_of_accepts haccepts hwaits]
  simp [State.checked, hcheck, hok, hlen]

theorem degraded_accept (s : State) (op : Op) (c : Cmd) : (s.accept op c).degraded op c = s.degraded op c := by
  simp [State.degraded, State.hove, State.inRun]

/-- Settles O50: each clause is one outcome of `serveEntry`, or the first check that fails. -/
theorem commandsAreCheckedInTheirOrder : Obligations.CommandsAreCheckedInTheirOrder := by
  unfold Obligations.CommandsAreCheckedInTheirOrder
  refine ⟨?notTaken, ?notNext, ?fenced, ?fencedWaits, ?blocked, ?blockedWaits, ?bufferWaits, ?secure, ?tenantDenied,
    ?otherInstance, ?badInstance, ?badLength, ?badAddress, ?outOfBounds, ?waitsForTag, ?noBuffer, ?hoveTo, ?noHelm, ?conflict⟩
  case notTaken =>
    intro s op c body hnew htakes
    rw [runCmd_of_new hnew, htakes]
    rfl
  case notNext =>
    intro s op c body hnew hnot
    have htakes : s.takes op c = false := by
      simp only [State.takes, State.served, Bool.and_eq_false_iff]
      rcases hnot with h | h | h | h
      · simp [h]
      · simp [h]
      · simp [Nat.not_lt.2 h]
      · simp [h]
    rw [runCmd_of_new hnew, htakes]
    rfl
  case fenced =>
    intro s op c body hnew htakes hfence hearlier
    have hmust : s.mustWait op c = true := by simp [State.mustWait, hfence, hearlier]
    rw [runCmd_of_new hnew, htakes, hmust]
    rfl
  case fencedWaits =>
    intro s op c body a b hwaits hfence hb horder
    have hstill : s.stillWaits a = true := by
      have hany : (s.inProgress a.ring).any
          (fun b => decide ((b.idx - (s.ring a.ring).oldest).toNat < (a.idx - (s.ring a.ring).oldest).toNat)) = true :=
        List.any_eq_true.2 ⟨b, hb, by simpa using horder⟩
      simp only [State.stillWaits, hfence, hany, Bool.true_and, Bool.true_or]
    rw [runCmd_of_waiting hwaits, hstill]
    simp
  case blocked =>
    intro s op c body a hnew htakes ha hinst hno hreset hcode
    have hmust : s.mustWait op c = true := by
      have hblocks : s.dechan.accepted.any (s.blocks op.code c) = true :=
        List.any_eq_true.2 ⟨a, ha, by simp [State.blocks, hreset, Accepted.touches, hinst, hno, hcode]⟩
      simp [State.mustWait, hblocks]
    rw [runCmd_of_new hnew, htakes, hmust]
    rfl
  case blockedWaits =>
    intro s op c body a b hwaits hb hrun hblocks
    have hstill : s.stillWaits a = true := by
      have hany : s.dechan.accepted.any (fun b => !b.waits && s.blocks a.opcode a.cmd b) = true :=
        List.any_eq_true.2 ⟨b, hb, by simp [hrun, hblocks]⟩
      simp only [State.stillWaits, hany, Bool.true_or, Bool.or_true]
    rw [runCmd_of_waiting hwaits, hstill]
    simp
  case bufferWaits =>
    intro s op c body a hwaits hserved hstill hbuffer
    rw [runCmd_of_waiting hwaits, hserved, hstill, hbuffer]
    rfl
  case secure =>
    intro s op c body haccepts hown hsecure
    refine runCmd_of_refused (st := 6) (d := 3) haccepts hown ?_ body
    simp [checkEntry, hown, hsecure]
  case tenantDenied =>
    intro s op c body i haccepts hown hsecure hring htenant
    refine runCmd_of_refused (st := 6) (d := 0) haccepts hown ?_ body
    simp [checkEntry, hown, hsecure, hring, htenant]
  case otherInstance =>
    intro s op c body i haccepts hown hsecure hring htenant hop hinst hne
    refine runCmd_of_refused (st := 6) (d := 1) haccepts hown ?_ body
    simp [checkEntry, hown, hsecure, hring, htenant, hop, hinst, cmdTenant, hne]
  case badInstance =>
    intro s op c body m haccepts hown hsecure hring hmgr hop hinst
    refine runCmd_of_refused (st := 3) (d := 4) haccepts hown ?_ body
    simp [checkEntry, hown, hsecure, hring, hmgr, hop, hinst]
  case badLength =>
    intro s op c body m haccepts hown hsecure hring hmgr hop hinst hlen
    refine runCmd_of_refused (st := 3) (d := 6) haccepts hown ?_ body
    simp [checkEntry, hown, hsecure, hring, hmgr, hop, hinst, cmdTenant] at hlen ⊢
    exact hlen
  case badAddress =>
    intro s op c body m haccepts hown hsecure hring hmgr hop hinst hlen haddr
    refine runCmd_of_refused (st := 3) (d := 16) haccepts hown ?_ body
    simp [checkEntry, hown, hsecure, hring, hmgr, hop, hinst, cmdTenant, haddr] at hlen ⊢
    exact hlen
  case outOfBounds =>
    intro s op c body i haccepts hcheck htenant hok hbounds
    have hok' : (s.accept op c).bufferOk op c = false := by simpa [State.bufferOk, State.inBounds, hbounds] using hok
    rw [runCmd_of_accepts haccepts (by simp [State.bufferWaits, hok])]
    simp [State.checked, hcheck, hok', htenant]
  case waitsForTag =>
    intro s op c body haccepts hwaits
    rw [State.runCmd, serveEntry_accepts haccepts, hwaits]
    rfl
  case noBuffer =>
    intro s op c hasks hlen
    simp [State.bufferWaits, hasks, hlen]
  case hoveTo =>
    intro s op c body haccepts hcheck hok hlen hwaits hhove hsecure hexempt
    have hdegraded : s.degraded op c = some 1 := by simp [State.degraded, hhove, hsecure, hexempt]
    rw [runCmd_of_checked haccepts hcheck hlen hwaits]
    simp [State.carryOut, degraded_accept, hdegraded]
  case noHelm =>
    intro s op c body haccepts hcheck hok hlen hwaits hhove hrun4 hrun12 hsecure hneeds
    have hdegraded : s.degraded op c = some 5 := by simp [State.degraded, hhove, hsecure, hrun4, hrun12, hneeds]
    rw [runCmd_of_checked haccepts hcheck hlen hwaits]
    simp [State.carryOut, degraded_accept, hdegraded]
  case conflict =>
    intro s op c body haccepts hcheck hok hlen hwaits hhove hrun4 hrun12 hstates hinst hbit
    have hnone : s.degraded op c = none := by simp [State.degraded, hhove, hrun4, hrun12]
    have hconflict : (s.accept op c).stateConflict op c = some (s.inst c.inst).state.code := by
      simp [State.stateConflict, State.inst, hstates, hinst]
      simpa [State.inst] using hbit
    rw [runCmd_of_checked haccepts hcheck hlen hwaits]
    simp [State.carryOut, degraded_accept, hnone, hconflict]

end Sys2Proof.Machine

/-!
Helm's threads: what each instruction of Table 16-2 does (chapter 16).
-/

namespace Sys2Proof.Machine

open Sys2Proof

/-! ### The state in which an instruction acts -/

section
variable (s : State) (t : Nat)

@[simp] theorem issued_keeps :
    (s.issued t).now = s.now ∧ (s.issued t).power = s.power ∧ (s.issued t).helm.chans = s.helm.chans ∧
      (s.issued t).helm.sram = s.helm.sram ∧ (s.issued t).helm.breakEn = s.helm.breakEn := ⟨rfl, rfl, rfl, rfl, rfl⟩

@[simp] theorem chan_issued (c : Nat) : (s.issued t).chan c = s.chan c := rfl

theorem thread_issued_same : (s.issued t).thread t = { s.thread t with skipBp := false, pc := (s.thread t).pc + 4 } :=
  thread_setThread_same s t _

theorem thread_issued_ne {k : Nat} (h : k ≠ t) : (s.issued t).thread k = s.thread k := thread_setThread_ne s _ h

@[simp] theorem thread_issued_state (k : Nat) : ((s.issued t).thread k).state = (s.thread k).state := by
  rcases eq_or_ne k t with rfl | h
  · rw [thread_issued_same]
  · rw [thread_issued_ne s t h]

@[simp] theorem thread_issued_keeps :
    ((s.issued t).thread t).inputs = (s.thread t).inputs ∧ ((s.issued t).thread t).latched = (s.thread t).latched ∧
      ((s.issued t).thread t).stageCh = (s.thread t).stageCh ∧ ((s.issued t).thread t).stage = (s.thread t).stage := by
  rw [thread_issued_same]
  exact ⟨rfl, rfl, rfl, rfl⟩

@[simp] theorem rsVal_issued (o : HelmOp) : (s.issued t).rsVal t o = s.rsVal t o := by
  rw [State.rsVal, State.rsVal, thread_issued_same]
  rfl

@[simp] theorem rtVal_issued (o : HelmOp) : (s.issued t).rtVal t o = s.rtVal t o := by
  rw [State.rtVal, State.rtVal, thread_issued_same]
  rfl

end

theorem issueOp_none {s : State} {t func : Nat} {o : HelmOp} {used : Bool} {act : Nat → State → HelmEnd}
    (h : (s.coreRuns (t % 128) && (s.thread (t % 128)).state == .runnable) = false) : s.issueOp t func o used act = s :=
  issueInstr_none h

theorem issues_of {s : State} {t : Nat} (h : s.issues t = true) :
    t < 128 ∧ s.coreRuns t = true ∧ (s.thread t).state = .runnable ∧ s.helm.breakEn = false := by
  simpa [State.issues, and_assoc] using h

theorem thread_pulse {s : State} {t src : Nat} (hfree : (s.thread t).state ≠ .free) (hinputs : (s.thread t).inputsOf src ≠ 0) :
    (s.pulse src).thread t = (s.thread t).deliver ((s.thread t).inputsOf src) := by
  obtain ⟨x, hx⟩ : ∃ x, KMap.find s.helm.thr t = some x := by
    refine Option.ne_none_iff_exists'.1 fun hnone => hfree ?_
    simp [State.thread, KMap.getD, hnone]
  have hthread : s.thread t = x := by simp [State.thread, KMap.getD, hx]
  rw [hthread] at hfree hinputs ⊢
  have hany : s.helm.thr.any (fun (p : Nat × Thread) => p.2.state != .free && p.2.inputsOf src != 0) = true :=
    List.any_eq_true.2 ⟨_, KMap.mem_of_find hx, by simp [hfree, hinputs]⟩
  rw [State.pulse, if_pos hany]
  simp [State.thread, KMap.getD, KMap.find_mapVals, hx, hfree, hinputs]

@[simp] theorem thread_calmAfter (s old : State) (t : Nat) : (s.calmAfter old).thread t = s.thread t := by
  unfold State.calmAfter
  split <;> rfl

/-- A thread whose next instruction has no breakpoint, and whose instruction has an effect. -/
theorem issueInstr_of_act {s r : State} {t : Nat} {w : W32} {act : Nat → State → HelmEnd} (ht : t < 128) (hruns : s.coreRuns t = true)
    (hrun : (s.thread t).state = .runnable) (hpc : s.breakpoint (s.thread t).pc = false) (hact : act t (s.issued t) = .ok r) :
    s.issueInstr t w act = r.retire s t := by
  have hrun' : ((s.thread t).state == ThrState.runnable) = true := by rw [hrun]; rfl
  simp only [State.issueInstr, Nat.mod_eq_of_lt ht, hruns, hrun', hpc, setThread_setThread, ← State.issued.eq_1, hact]
  rfl

/-- Settles O39: a thread that issues acts on `s.issued t`; each clause is what the instruction's own branch makes of that state. -/
theorem helmThreadsIssueTheirInstructions : Obligations.HelmThreadsIssueTheirInstructions := by
  unfold Obligations.HelmThreadsIssueTheirInstructions
  refine ⟨?notRunnable, ?breakpoint, ?unusedField, ?fork, ?forkNone, ?forkNoCore, ?exit, ?exitLeaves, ?joinTakes, ?joinDone,
    ?joinWaits, ?joinSelf, ?waitSleeps, ?waitBad, ?signal, ?signalBad, ?evmap, ?evmapNone, ?evmapBad, ?timer, ?settrap, ?setClass,
    ?unusedBreak, ?breakHalts, ?pulse, ?stepEnds, ?compute, ?store, ?load, ?misaligned, ?outside, ?roseOther⟩
  case notRunnable =>
    intro s t op h
    have hop {func : Nat} {used : Bool} {act : Nat → State → HelmEnd} : (.next (s.issueOp t func op used act) : Out) = .next s :=
      congrArg _ (issueOp_none h)
    exact ⟨hop, hop, hop, hop, hop, hop, hop, hop, hop, hop, fun w what => congrArg _ (issueInstr_none h)⟩
  case breakpoint =>
    intro s t op ht hruns hrun hbreak hskip
    change execClass_ t op s = _
    simp [execClass_, State.issueOp, State.issueInstr, Nat.mod_eq_of_lt ht, hruns, hrun, hbreak, hskip, State.debugHalt]
  case unusedField =>
    intro s t op h hfields
    have hused : (op.rd == 0 && op.rt == 0 && op.imm == 0) = false := by
      rw [Bool.and_eq_false_iff, Bool.and_eq_false_iff, beq_eq_false_iff_ne, beq_eq_false_iff_ne, beq_eq_false_iff_ne, or_assoc]
      exact hfields
    exact ⟨congrArg _ (issueOp_unused h hused), congrArg _ (issueOp_unused h hused), congrArg _ (issueOp_unused h hused),
      congrArg _ (issueOp_unused h hused), congrArg _ (issueOp_unused h hused)⟩
  case fork =>
    intro s t op k h hcore hk0 hk hbusy hfree
    refine congrArg _ (issueOp_ok h rfl ?_)
    have hfind : (List.range poolThreads).find? (fun j => j != 0 && ((s.issued t).thread j).state == .free &&
        ((0 == 0) || j / 16 + 1 == 0)) = some k := by
      rw [List.find?_range_eq_some]
      refine ⟨by simp [hfree, Nat.ne_of_gt hk0], by simpa [poolThreads] using hk, fun j hj => ?_⟩
      rcases Nat.eq_zero_or_pos j with rfl | hj0
      · rfl
      · simp [hbusy j hj0 hj]
    simp only [hcore, show ¬9 ≤ 0 by decide, if_false]
    rw [hfind]
    simp
  case forkNone =>
    intro s t op h hcore hbusy
    refine congrArg _ (issueOp_ok h rfl ?_)
    have hfind : (List.range poolThreads).find? (fun j => j != 0 && ((s.issued t).thread j).state == .free &&
        ((0 == 0) || j / 16 + 1 == 0)) = none := by
      rw [List.find?_eq_none]
      intro j hj
      rcases Nat.eq_zero_or_pos j with rfl | hj0
      · simp
      · simp [hbusy j hj0 (List.mem_range.1 hj)]
    simp only [hcore, show ¬9 ≤ 0 by decide, if_false]
    rw [hfind]
  case forkNoCore =>
    intro s t op h hcore
    exact congrArg _ (issueOp_error h rfl (if_pos hcore))
  case exit =>
    intro s t op h hrd hrt himm
    refine congrArg _ (issueOp_ok h (by simp [hrd, hrt, himm]) ?_)
    simp
  case exitLeaves =>
    intro s t v
    exact ⟨threadExit_done s t v _ rfl, fun j => threadExit_joined s t v _ j rfl⟩
  case joinTakes =>
    intro s j t hsorted hne
    have ht : (s.joinTake j t).thread t = {} := by
      rw [State.joinTake, thread_setThread_ne _ _ hne.symm]
      simp [State.thread, KMap.getD, KMap.find_drop1_same _ _ hsorted]
    have hj : (s.joinTake j t).thread j =
        { (s.thread j).setReg (s.thread j).rd (s.thread t).exitVal with state := .runnable } := by
      rw [State.joinTake, thread_setThread_same]
      simp [State.thread, KMap.getD, KMap.find_drop1_ne _ hne]
    rw [ht, hj]
    refine ⟨rfl, rfl, fun hrd hlen => ?_⟩
    simp [Thread.reg, Thread.setReg, hrd, hlen]
  case joinDone =>
    intro s t op k h hrt himm hk hne hdone hjoin
    refine congrArg _ (issueOp_ok h (by simp [hrt, himm]) ?_)
    simp [hk, hne, hdone, hjoin, thread_setThread_ne _ _ hne]
  case joinWaits =>
    intro s t op k h hrt himm hk hne hdone hfree hjoin
    refine congrArg _ (issueOp_ok h (by simp [hrt, himm]) ?_)
    simp [hk, hne, hdone, hjoin, hfree, thread_setThread_ne _ _ hne]
  case joinSelf =>
    intro s t op h hrt himm hk
    refine congrArg _ (issueOp_error h (by simp [hrt, himm]) ?_)
    simp [hk]
  case waitSleeps =>
    intro s t op h hrt himm hmask hlatched
    refine congrArg _ (issueOp_ok h (by simp [hrt, himm]) ?_)
    simp [hlatched]
    exact hmask
  case waitBad =>
    intro s t op h hrt himm hmask
    refine congrArg _ (issueOp_error h (by simp [hrt, himm]) ?_)
    simp
    exact hmask
  case signal =>
    intro s t op h hrd hrt himm hk
    refine congrArg _ (issueOp_ok h (by simp [hrd, hrt, himm]) ?_)
    simp [Nat.not_lt.2 hk]
  case signalBad =>
    intro s t op h hrd hrt himm hk
    refine congrArg _ (issueOp_error h (by simp [hrd, hrt, himm]) ?_)
    simp [Nat.lt_of_succ_le hk]
  case evmap =>
    intro s t op src h hrd himm hsrc hrange
    refine congrArg _ (issueOp_ok h (by simp [hrd, himm]) ?_)
    have ht := (issues_of h).1
    have hsmall : s.rtVal t op < 1024 ∧ ¬(1023 < src ∨ (832 ≤ src ∧ src < 960 ∧ src ≠ 832 + t)) := by omega
    have hbit : bit (s.rtVal t op) 31 = false := Nat.testBit_lt_two_pow (by omega)
    have hmod : s.rtVal t op % 2 ^ 31 = src := by omega
    simp only [rtVal_issued, rsVal_issued, hbit, hmod, if_neg hsmall.2, thread_issued_keeps, Bool.false_eq_true, if_false]
  case evmapNone =>
    intro s t op h hrd himm hbit
    refine congrArg _ (issueOp_ok h (by simp [hrd, himm]) ?_)
    simp [hbit]
  case evmapBad =>
    intro s t op h hrd himm hlow hhigh
    refine congrArg _ (issueOp_error h (by simp [hrd, himm]) ?_)
    have hbit : bit (s.rtVal t op) 31 = false := Nat.testBit_lt_two_pow hhigh
    have hlarge : 1023 < s.rtVal t op % 2 ^ 31 := by omega
    simp only [rtVal_issued, hbit, hlarge, true_or, Bool.false_eq_true, if_false, if_true]
  case timer =>
    intro s t op h hrd hrt himm
    refine congrArg _ (issueOp_ok h (by simp [hrd, hrt, himm]) ?_)
    simp
  case settrap =>
    intro s t op h hrd hrt himm
    refine congrArg _ (issueOp_ok h (by simp [hrd, hrt, himm]) ?_)
    simp
  case setClass =>
    intro s t op h hrd hrt himm
    refine congrArg _ (issueOp_ok h (by simp [hrd, hrt, himm]) ?_)
    simp
  case unusedBreak =>
    intro s t op h hrd hrs hrt himm
    refine congrArg _ (issueOp_error h (by simp [hrd, hrs, hrt, himm]) ?_)
    simp [(issues_of h).2.2.2]
  case breakHalts =>
    intro s t op ht hruns hrun hbreak hpc hrd hrs hrt himm
    have hact : (fun t (u : State) => if (op.rd == 0 && op.rs == 0 && op.rt == 0 && op.imm == 0) = true then
        (if u.helm.breakEn then .ok (u.debugHalt t) else .error (.break_, 0)) else .error (.illegal, 0) : Nat → State → HelmEnd)
        t (s.issued t) = .ok ((s.issued t).debugHalt t) := by
      simp [hrd, hrs, hrt, himm, hbreak]
    refine ⟨_, congrArg Host.Outcome.next (issueInstr_of_act ht hruns hrun hpc hact), ?_⟩
    simp [State.retire, State.afterStep, State.debugHalt, thread_issued_same, hrun]
  case pulse =>
    intro s t src hsorted hfree hinputs
    exact thread_pulse hfree hinputs
  case stepEnds =>
    intro s t hstep hrun
    simp [State.afterStep, hstep, hrun, State.debugHalt]
  case compute =>
    intro s t w rd v h
    exact congrArg _ (issueInstr_ok h rfl)
  case store =>
    intro s t w off v h halign hsize
    refine congrArg _ (issueInstr_ok h ?_)
    simp [helmOther, targetSram, halign]
    omega
  case load =>
    intro s t w off rd h halign hsize
    refine congrArg _ (issueInstr_ok h ?_)
    simp [helmOther, targetSram, halign]
    omega
  case misaligned =>
    intro s t w off v h halign
    refine congrArg _ (issueInstr_error h ?_)
    simp [helmOther, targetSram, halign]
  case outside =>
    intro s t w a v h
    exact congrArg _ (issueInstr_error h rfl)
  case roseOther =>
    intro s t w c k v h ht
    refine congrArg _ (issueInstr_error h ?_)
    simp [helmOther, targetSram, ht]

end Sys2Proof.Machine

/-!
Helm's channels, supervisor instructions and where faults go (chapter 16).
-/

namespace Sys2Proof.Machine

open Sys2Proof

theorem commit_allowed {d n c : Nat} {stageCh : Option Nat} (hd : 0 < d) (h1 : 1 ≤ n) (h8 : n ≤ 8) (hstage : stageCh.getD c = c) :
    ¬(d = 0 ∨ n = 0 ∨ 8 < n ∨ stageCh.getD c ≠ c) := by
  simp only [hstage, ne_eq, not_true_eq_false, or_false]
  omega

/-- A waiting receiver takes the only message, and the channel is at rest (R388). -/
theorem serveChan_receiver {s : State} {c t n : Nat} {m : List W32} (hchan : s.chan c = { depth := 1, msgs := [m], receivers := [t] })
    (hwait : (s.thread t).state = .waitRecv) :
    State.serveChan (n + 2) c s = (s.setChan c { depth := 1 }).setThread t
      { (s.thread t).takeMsg (s.thread t).rd m with state := .runnable } := by
  have hfind : [t].find? (fun t => (s.thread t).state == .waitRecv) = some t := by simp [hwait]
  rw [State.serveChan, hchan]
  simp only [hfind]
  rw [State.serveChan]
  simp only [chan_setThread, chan_setChan_same]
  simp

theorem chan_of_single {s : State} {c : Nat} {x : Chan} (h : s.helm.chans = [(c, x)]) : s.chan c = x := by
  simp [State.chan, KMap.getD, h, KMap.find]

/-- A channel for which nobody waits serves nobody. -/
theorem serveChan_of_no_waiter {s : State} {c n : Nat} (hrecv : (s.chan c).receivers = []) (hsend : (s.chan c).senders = []) :
    State.serveChan n c s = s := by
  cases n with
  | zero => rfl
  | succ n =>
    rw [State.serveChan]
    cases hmsgs : (s.chan c).msgs <;> simp [hrecv, hsend]

@[simp] theorem chan_pulse (s : State) (src c : Nat) : (s.pulse src).chan c = s.chan c := by
  unfold State.pulse
  split <;> rfl

@[simp] theorem cnt_pulse (s : State) (src : Nat) : (s.pulse src).helm.cnt = s.helm.cnt := by
  unfold State.pulse
  split <;> rfl

/-- An event does not wake a thread halted by a fault: it sets latches alone. -/
theorem thread_pulse_of_halted {s : State} {t : Nat} (hhalt : (s.thread t).state = .faultHalt) (src : Nat) :
    ∃ l, (s.pulse src).thread t = { s.thread t with latched := l } := by
  have hthread (m : Nat) : (s.thread t).deliver m = { s.thread t with latched := (s.thread t).latched ||| m } := by
    simp [Thread.deliver, hhalt]
  by_cases hinputs : (s.thread t).inputsOf src = 0
  · refine ⟨(s.thread t).latched, ?_⟩
    unfold State.pulse
    split
    · cases hx : KMap.find s.helm.thr t with
      | none => simp [State.thread, KMap.getD, KMap.find_mapVals, hx]
      | some x =>
        have hx' : s.thread t = x := by simp [State.thread, KMap.getD, hx]
        rw [hx'] at hinputs ⊢
        simp [State.thread, KMap.getD, KMap.find_mapVals, hx, hinputs]
    · rfl
  · exact ⟨_, (thread_pulse (by simp [hhalt]) hinputs).trans (hthread _)⟩

section
variable (s : State) (t k : Nat)

@[simp] theorem thread_helmCount : (s.helmCount k).thread t = s.thread t := rfl

@[simp] theorem thread_takeSnapshot : (s.takeSnapshot k).thread t = s.thread t := rfl

@[simp] theorem helm_helmEvent : (s.helmEvent k).helm = s.helm := by simp [State.helmEvent]

@[simp] theorem thread_helmEvent : (s.helmEvent k).thread t = s.thread t := by simp [State.thread]

end

/-- The record of a fault (R389); the clock count in it is a free value. -/
def faultRecord (s : State) (t : Nat) (kind : HelmFault) (addr : Nat) (word : W32) : List W32 :=
  [BitVec.ofNat 32 (kind.code + t * 256 + (s.thread t).state.code * 2 ^ 15), (s.thread t).pc, BitVec.ofNat 32 addr, word,
    BitVec.ofNat 32 s.draw.1.toNat, 0, 0, 0]

/-- A thread halted by its fault. -/
def State.faultHalted (s : State) (t : Nat) : State :=
  s.draw.2.setThread t { s.thread t with state := .faultHalt, prior := (s.thread t).state, faultAt := s.now }

theorem threadFault_of_trap {s : State} {k : HelmFault} {a : Nat} {w : W32} (htrap : (s.thread 0).trap ≠ 0)
    (hactive : (s.thread 0).trapActive = false) :
    s.threadFault 0 k a w = (s.draw.2.setThread 0 { (s.thread 0).takeMsg 0 (faultRecord s 0 k a w) with
      trapActive := true, pc := (s.thread 0).trap }).helmCount 3 := by
  have hcond : (s.thread 0).trap ≠ 0 ∧ (!(s.thread 0).trapActive) = true := ⟨htrap, by rw [hactive]; rfl⟩
  exact if_pos hcond

theorem threadFault_of_halt {s : State} {k : HelmFault} {a : Nat} {w : W32} (htrap : (s.thread 0).trap = 0) :
    s.threadFault 0 k a w = ((((s.faultHalted 0).helmCount 4).helmEvent 0).helmEvent 1).takeSnapshot 2 :=
  if_neg fun h => h.1 htrap

theorem threadFault_of_channel {s : State} {t : Nat} {k : HelmFault} {a : Nat} {w : W32} (ht : t ≠ 0)
    (hrun : (s.thread 0).state ≠ .faultHalt) (hroom : (s.chan faultChan).msgs.length < (s.chan faultChan).depth) :
    s.threadFault t k a w = (((s.faultHalted t).chanPut faultChan (faultRecord s t k a w)).serve faultChan).helmCount 2 :=
  if_pos ⟨ht, hrun, hroom⟩

/-- Settles O40: the branches of the channel and supervisor instructions, and those of `threadFault`. -/
theorem helmChannelsSupervisorAndFaults : Obligations.HelmChannelsSupervisorAndFaults := by
  unfold Obligations.HelmChannelsSupervisorAndFaults
  refine ⟨?notRunnable, ?stage, ?stageBad, ?commitRoom, ?commitFull, ?commitBlocks, ?commitBadLength, ?recv, ?recvNone,
    ?recvBlocks, ?recvFault, ?served, ?resume, ?kill, ?threadZero, ?notSupervisor, ?chcfg, ?chcfgDepth, ?chcfgOther, ?faultChannel,
    ?faultTrap, ?faultHalt⟩
  case notRunnable =>
    intro s t op h
    have hop {func : Nat} {used : Bool} {act : Nat → State → HelmEnd} : (.next (s.issueOp t func op used act) : Out) = .next s :=
      congrArg _ (issueOp_none h)
    exact ⟨hop, hop, hop, hop, hop, hop⟩
  case stage =>
    intro s t op h hrd himm hdepth hstage
    refine congrArg _ (issueOp_ok h (by simp [hrd, himm]) ?_)
    have hgood : ¬((s.chan (s.rtVal t op % 256)).depth = 0 ∨
        (s.thread t).stageCh.getD (s.rtVal t op % 256) ≠ s.rtVal t op % 256) := by
      rcases hstage with h | h <;> simp [h, hdepth]
    simp only [rtVal_issued, rsVal_issued, chan_issued, thread_issued_keeps, if_neg hgood]
  case stageBad =>
    intro s t op c h hrd himm hbad
    refine congrArg _ (issueOp_error h (by simp [hrd, himm]) ?_)
    have hbad' : (s.chan (s.rtVal t op % 256)).depth = 0 ∨
        (s.thread t).stageCh.getD (s.rtVal t op % 256) ≠ s.rtVal t op % 256 :=
      hbad.imp_right fun h => by simpa [h.1] using h.2
    simp only [rtVal_issued, chan_issued, thread_issued_keeps, if_pos hbad']
  case commitRoom =>
    intro s t op
    dsimp only
    intro h hrt himm h1 h8 hstage hroom
    refine congrArg _ (issueOp_ok h (by simp [hrt, himm]) ?_)
    simp only [rsVal_issued, chan_issued, thread_issued_keeps, if_neg (commit_allowed (Nat.zero_lt_of_lt hroom) h1 h8 hstage),
      if_pos hroom]
  case commitFull =>
    intro s t op
    dsimp only
    intro h hrt himm h1 h8 hstage hdepth hfull
    refine congrArg _ (issueOp_ok h (by simp [hrt, himm]) ?_)
    simp only [rsVal_issued, chan_issued, thread_issued_keeps, if_neg (commit_allowed hdepth h1 h8 hstage), if_neg (Nat.not_lt.2 hfull),
      if_pos himm]
  case commitBlocks =>
    intro s t op
    dsimp only
    intro h hrt himm h1 h8 hstage hdepth hfull
    refine congrArg _ (issueOp_ok h (by simp [hrt, himm]) ?_)
    have himm0 : op.imm ≠ 0 := by
      rw [himm]
      decide
    simp only [rsVal_issued, chan_issued, thread_issued_keeps, if_neg (commit_allowed hdepth h1 h8 hstage), if_neg (Nat.not_lt.2 hfull),
      if_neg himm0]
  case commitBadLength =>
    intro s t op h hrt himm hlen
    refine congrArg _ (issueOp_error h (by simp [hrt, himm]) ?_)
    have hbad (P Q : Prop) : P ∨ s.rsVal t op / 256 % 16 = 0 ∨ 8 < s.rsVal t op / 256 % 16 ∨ Q :=
      .inr (hlen.elim .inl fun h => .inr (.inl h))
    simp only [rsVal_issued, chan_issued, thread_issued_keeps, if_pos (hbad _ _)]
  case recv =>
    intro s t op m ms
    dsimp only
    intro h hrt himm hc hdepth hmsgs
    refine congrArg _ (issueOp_ok h (by simp [hrt, himm]) ?_)
    simp [faultChan, hc, Nat.ne_of_gt hdepth, hmsgs]
  case recvNone =>
    intro s t op
    dsimp only
    intro h hrt himm hc hdepth hmsgs
    refine congrArg _ (issueOp_ok h (by simp [hrt, himm]) ?_)
    simp [faultChan, hc, Nat.ne_of_gt hdepth, hmsgs, himm]
  case recvBlocks =>
    intro s t op
    dsimp only
    intro h hrt himm hc hdepth hmsgs
    refine congrArg _ (issueOp_ok h (by simp [hrt, himm]) ?_)
    simp [faultChan, hc, Nat.ne_of_gt hdepth, hmsgs, himm]
  case recvFault =>
    intro s t op h ht hrt himm hc
    refine congrArg _ (issueOp_error h (by simp [hrt, himm]) ?_)
    simp [faultChan, hc, ht]
  case served =>
    intro s c m t n hchan hwait
    rw [serveChan_receiver hchan hwait]
    exact ⟨thread_setThread_same _ _ _, chan_setChan_same _ _ _⟩
  case resume =>
    intro s op k h hrd himm hk h0 hfault
    refine congrArg _ (issueOp_ok h (by simp [hrd, himm]) ?_)
    simp [thrctl, hk, Nat.ne_of_gt h0, hfault, himm, bit_zero, thread_issued_ne s 0 (Nat.ne_of_gt h0)]
  case kill =>
    intro s op k h hrd himm hk h0 hfault
    refine congrArg _ (issueOp_ok h (by simp [hrd, himm]) ?_)
    simp [thrctl, hk, Nat.ne_of_gt h0, hfault, himm, bit]
  case threadZero =>
    intro s op h hrd himm hk
    have hact : thrctl op 0 (s.issued 0) = .ok (s.issued 0) := by simp [thrctl, hk]
    exact ⟨congrArg _ (issueOp_ok h (by simp [hrd, himm]) hact), congrArg _ (issueOp_ok h (by simp [hrd, himm]) hact)⟩
  case notSupervisor =>
    intro s t op h ht hrd himm
    have hact : thrctl op t (s.issued t) = .error (.illegal, 0) := if_pos ht
    exact ⟨congrArg _ (issueOp_error h (by simp [hrd, himm]) hact), congrArg _ (issueOp_error h (by simp [hrd, himm]) hact)⟩
  case chcfg =>
    intro s op
    dsimp only
    intro h hrd himm hd hchans
    refine congrArg _ (issueOp_ok h (by simp [hrd, himm]) ?_)
    have hchan : s.chan (s.rsVal 0 op % 256) = { depth := (s.chan (s.rsVal 0 op % 256)).depth } := chan_of_single hchans
    have htotal : ¬chanSlots < s.rtVal 0 op := by
      unfold chanSlots
      omega
    simp only [rsVal_issued, rtVal_issued, chan_issued, issued_keeps, hchans, List.foldl_cons, List.foldl_nil, if_true]
    rw [hchan]
    simp [Nat.not_lt.2 hd, htotal]
  case chcfgDepth =>
    intro s op h hrd himm hd
    refine congrArg _ (issueOp_error h (by simp [hrd, himm]) ?_)
    simp [hd]
  case chcfgOther =>
    intro s t op h ht hrd himm
    refine congrArg _ (issueOp_error h (by simp [hrd, himm]) ?_)
    simp [ht]
  case faultChannel =>
    intro s t k a w ht hrun0 hrunt hmsgs hdepth hrecv hsend
    rw [threadFault_of_channel ht (by simp [hrun0]) (by simp [faultChan, hmsgs, hdepth])]
    have hchan : (s.faultHalted t).chan 255 = s.chan 255 := rfl
    obtain ⟨u, hu⟩ : ∃ u, u = (s.faultHalted t).setChan 255 { s.chan 255 with msgs := [faultRecord s t k a w] } := ⟨_, rfl⟩
    have hput : (s.faultHalted t).chanPut faultChan (faultRecord s t k a w) = u.pulse 831 := by
      rw [hu]
      simp [State.chanPut, faultChan, hchan, hmsgs, State.levelRise]
    have huchan : u.chan 255 = { s.chan 255 with msgs := [faultRecord s t k a w] } := by rw [hu, chan_setChan_same]
    have huthread : u.thread t = { s.thread t with state := .faultHalt, prior := (s.thread t).state, faultAt := s.now } := by
      rw [hu, thread_setChan]
      exact thread_setThread_same _ _ _
    have hserve : (u.pulse 831).serve faultChan = u.pulse 831 :=
      serveChan_of_no_waiter (by simpa [faultChan, huchan] using hrecv) (by simpa [faultChan, huchan] using hsend)
    obtain ⟨l, hl⟩ := thread_pulse_of_halted (s := u) (t := t) (by rw [huthread]) 831
    rw [hput, hserve]
    simp only [thread_helmCount, hl, huthread, true_and]
    refine ⟨?_, ?_, ?_⟩
    · exact congrArg (fun c => c.msgs.length) ((chan_pulse u 831 255).trans huchan)
    · have hmsgs' : (((u.pulse 831).helmCount 2).chan 255).msgs = [faultRecord s t k a w] :=
        congrArg (fun c => c.msgs) ((chan_pulse u 831 255).trans huchan)
      rw [hmsgs']
      rfl
    · simp [State.helmCount, hu, State.setChan, State.faultHalted]
  case faultTrap =>
    intro s k a w htrap hactive
    rw [threadFault_of_trap htrap hactive]
    simp only [thread_helmCount, thread_setThread_same, true_and]
    exact ⟨rfl, rfl⟩
  case faultHalt =>
    intro s k a w htrap
    rw [threadFault_of_halt htrap]
    simp only [thread_takeSnapshot, thread_helmEvent, thread_helmCount, State.faultHalted, thread_setThread_same, true_and]
    simp [State.takeSnapshot, State.helmCount]

end Sys2Proof.Machine

/-!
Helm's timers, the becalmed detector, the debugger and its grants (chapter 16).
-/

namespace Sys2Proof.Machine

open Sys2Proof

/-! ### The debugger's writes (R295, R391) -/

theorem dbgWrite_of_open {s : State} (hlink : s.linkReady = true) (hrun : s.inRun 4 = true) (hopen : s.dbgOpen = true) (off : Nat)
    (act : State → State) : s.dbgWrite off act = (act s).calmAfter s := by
  simp [State.dbgWrite, State.inBlock, hlink, hrun, hopen]

theorem dbgWrite_of_closed {s : State} (hlink : s.linkReady = true) (hrun : s.inRun 4 = true) (hopen : s.dbgOpen = false) (off : Nat)
    (act : State → State) : s.dbgWrite off act = s.violPf0 5 0 off := by
  simp [State.dbgWrite, State.inBlock, hlink, hrun, hopen]

theorem find_of_thread_ne {s : State} {t : Nat} (h : (s.thread t).state ≠ .free) : KMap.find s.helm.thr t = some (s.thread t) := by
  cases hx : KMap.find s.helm.thr t with
  | none => simp [State.thread, KMap.getD, hx] at h
  | some x => simp [State.thread, KMap.getD, hx]

theorem calm_of_live {s : State} {t : Nat} (h : (s.thread t).state = .runnable ∨ (s.thread t).state = .debugHalt) : s.calm = false := by
  have hfind : KMap.find s.helm.thr t = some (s.thread t) := find_of_thread_ne fun hfree => by simp [hfree] at h
  have hmem := KMap.mem_of_find hfind
  rw [State.calm, Bool.and_eq_false_iff, List.all_eq_false]
  refine .inl ⟨_, hmem, ?_⟩
  rcases h with h | h <;> simp [h]

/-- A thread that nobody joined is killed: it leaves the pool (R392). -/
theorem threadKill_of_unjoined {s : State} {t : Nat}
    (h : ({ s.threadLeave t with helm.thr := (s.threadLeave t).helm.thr.drop1 t } : State).joiner t = none) :
    s.threadKill t = State.helmCount { s.threadLeave t with helm.thr := (s.threadLeave t).helm.thr.drop1 t } 7 := by
  unfold State.threadKill
  generalize s.threadLeave t = u at *
  extract_lets x y v
  have hv : v.joiner t = none := h
  rw [hv]

/-- Settles O41: the debugger's writes go through `dbgWrite`, and each clause is the branch that the selected thread's state takes. -/
theorem helmTimersDebuggerAndDetector : Obligations.HelmTimersDebuggerAndDetector := by
  unfold Obligations.HelmTimersDebuggerAndDetector
  refine ⟨?fires, ?notDue, ?unarmed, ?becalmed, ?notDetected, ?runnableNotCalm, ?noGrant, ?grantOpen, ?halt, ?haltRefused, ?resume,
    ?resumeWaits, ?step, ?notHalted, ?kill, ?killSupervisor, ?setReg, ?killed, ?grantRuns, ?grantNone, ?grantEnds, ?grantEnded,
    ?challenge, ?grantMissing, ?grant, ?revoke⟩
  case fires =>
    intro s t d ht htimer hdue hruns
    change execHelmTimerFire t s = _
    simp [execHelmTimerFire, Nat.mod_eq_of_lt ht, htimer, hruns, hdue]
  case notDue =>
    intro s t d ht htimer hdue
    change execHelmTimerFire t s = _
    simp [execHelmTimerFire, Nat.mod_eq_of_lt ht, htimer, Nat.not_le.2 hdue]
  case unarmed =>
    intro s t ht htimer
    change execHelmTimerFire t s = _
    simp [execHelmTimerFire, Nat.mod_eq_of_lt ht, htimer]
  case becalmed =>
    intro s hrun hcores hcalm harmed hdue
    have hfires : (s.inRun 4 && s.helm.cores != 0 && s.calm && s.helm.calmArmed &&
        s.elapsed s.helm.calmSince (s.boot.becalmWindow * msTicks)) = true := by
      simp [hrun, hcores, hcalm, harmed, State.elapsed, hdue]
    refine ⟨_, if_pos hfires, ?_⟩
    simp [State.takeSnapshot, State.helmCount, State.helmEvent, SamePath, SameGrid, SameInst, SameRings, SameBoard]
  case notDetected =>
    intro s hnot
    refine if_neg ?_
    rcases hnot with h | h <;> simp [h]
  case runnableNotCalm =>
    intro s t h
    exact calm_of_live h
  case noGrant =>
    intro s hlink hrun hopen
    have hviol {off : Nat} {act : State → State} : (.next (s.dbgWrite off act) : Out) = .next (s.violPf0 5 0 off) :=
      congrArg _ (dbgWrite_of_closed hlink hrun hopen off act)
    refine ⟨hviol, hviol, hviol, hviol, fun k v hk => ?_⟩
    refine (hviol (off := 0xD0100 + 4 * (k % 32))).trans ?_
    rw [Nat.mod_eq_of_lt hk]
  case grantOpen =>
    intro s g hg
    simp [State.dbgOpen, hg]
  case halt =>
    intro s t hlink hrun hopen hsel ht hstate
    refine congrArg _ ((dbgWrite_of_open hlink hrun hopen _ _).trans ?_)
    rcases hstate with h | h | h <;> simp [hsel, Nat.mod_eq_of_lt ht, h, State.debugHalt]
  case haltRefused =>
    intro s t hlink hrun hopen hsel ht hstate
    refine congrArg _ ((dbgWrite_of_open hlink hrun hopen _ _).trans ?_)
    rcases hstate with h | h <;> simp [hsel, Nat.mod_eq_of_lt ht, h, State.dbgReject]
  case resume =>
    intro s t hlink hrun hopen hsel ht hstate hprior
    refine congrArg _ ((dbgWrite_of_open hlink hrun hopen _ _).trans ?_)
    simp [hsel, Nat.mod_eq_of_lt ht, hstate, State.debugResume, hprior]
  case resumeWaits =>
    intro s t hlink hrun hopen hsel ht hstate hprior hlatched
    refine congrArg _ ((dbgWrite_of_open hlink hrun hopen _ _).trans ?_)
    simp [hsel, Nat.mod_eq_of_lt ht, hstate, State.debugResume, hprior, hlatched]
  case step =>
    intro s t hlink hrun hopen hsel ht hstate hprior
    refine congrArg _ ((dbgWrite_of_open hlink hrun hopen _ _).trans ?_)
    simp [hsel, Nat.mod_eq_of_lt ht, hstate, hprior]
  case notHalted =>
    intro s t hlink hrun hopen hsel ht hstate
    refine ⟨?_, ?_, fun k v => ?_⟩ <;>
      refine congrArg _ ((dbgWrite_of_open hlink hrun hopen _ _).trans ?_) <;>
      simp [hsel, Nat.mod_eq_of_lt ht, hstate, State.dbgReject]
  case kill =>
    intro s t hlink hrun hopen hsel h0 ht hstate
    refine congrArg _ ((dbgWrite_of_open hlink hrun hopen _ _).trans ?_)
    simp [hsel, Nat.mod_eq_of_lt ht, hstate, Nat.ne_of_gt h0]
  case killSupervisor =>
    intro s hlink hrun hopen hsel
    refine congrArg _ ((dbgWrite_of_open hlink hrun hopen _ _).trans ?_)
    simp [hsel, State.dbgReject]
  case setReg =>
    intro s t k v hlink hrun hopen hsel ht hk hstate
    refine congrArg _ ((dbgWrite_of_open hlink hrun hopen _ _).trans ?_)
    simp [hsel, Nat.mod_eq_of_lt ht, Nat.mod_eq_of_lt hk, hstate]
  case killed =>
    intro s t hsorted hjoiner
    rw [threadKill_of_unjoined hjoiner]
    generalize s.threadLeave t = u at *
    refine ⟨?_, rfl⟩
    simp [State.thread, State.helmCount, KMap.getD, KMap.find_drop1_same _ _ hsorted]
  case grantRuns =>
    intro s g hg hlive
    change execDebugGrantEnd s = _
    simp [execDebugGrantEnd, hg, Nat.not_le.2 hlive]
  case grantNone =>
    intro s hg
    change execDebugGrantEnd s = _
    simp [execDebugGrantEnd, hg]
  case grantEnds =>
    intro s g hg hend
    change execDebugGrantEnd s = _
    simp [execDebugGrantEnd, hg, hend]
  case grantEnded =>
    intro s hg hnone
    have hhalted : s.helm.thr.filter (fun (p : Nat × Thread) => p.2.state == .debugHalt) = [] :=
      List.filter_eq_nil_iff.2 fun p hp => by simpa using hnone p hp
    have hgrant : s.helm.grant.isNone = false := by simpa [Option.isSome_iff_ne_none] using hg
    rw [State.grantEnd, hgrant, hhalted]
    rfl
  case challenge =>
    intro s c
    dsimp only
    intro hready haction
    refine answers_of rfl hready rfl ?_
    simp [secDebugBody, haction]
  case grantMissing =>
    intro s c
    dsimp only
    intro hready haction hnone
    refine answers_of rfl hready rfl ?_
    generalize State.opened s _ c = t at *
    simp [secDebugBody, haction, debugGrant, hnone]
  case grant =>
    intro s c ch
    dsimp only
    intro hready haction hch hscope h1 h2
    refine answers_of rfl hready rfl ?_
    generalize State.opened s _ c = t at *
    have hlife : ¬(leAt (bufferOf (opSecDebug c) c) 4 4 = 0 ∨ 86400 < leAt (bufferOf (opSecDebug c) c) 4 4) := by omega
    simp only [secDebugBody, haction, debugGrant, hch, if_neg hscope, if_neg hlife, Bool.not_eq_true']
    simp
  case revoke =>
    intro s c
    dsimp only
    intro hready haction
    refine answers_of rfl hready rfl ?_
    simp [secDebugBody, haction]

end Sys2Proof.Machine

/-!
The sixteen DMA movers: lock, register sets, transfers over the on-die memories (R398 to R401).
-/

namespace Sys2Proof.Machine

open Sys2Proof

/-! ### Which thread reaches a mover (R398) -/

theorem moverWrite_of_owner {s : State} {t m : Nat} (hreach : s.moverReach t m = true) (hheld : (s.mover m).held = true)
    (howner : (s.mover m).owner = t) (w : W32) (act : Mover → State) : s.moverWrite t m w act = act (s.mover m) := by
  simp [State.moverWrite, hreach, hheld, howner]

theorem moverWrite_of_other {s : State} {t m : Nat} (hreach : s.moverReach t m = true) (howner : (s.mover m).owner ≠ t) (w : W32)
    (act : Mover → State) : s.moverWrite t m w act = (s.threadFault t .access 0 w).calmAfter s := by
  simp [State.moverWrite, hreach, howner]

theorem setMover_mover_same {s : State} {m : Nat} (h : m < s.helm.movers.length) (x : Mover) : (s.setMover m x).mover m = x := by
  simp [State.mover, State.setMover, h]

theorem mover_pulse (s : State) (src m : Nat) : (s.pulse src).mover m = s.mover m := by
  unfold State.pulse
  split <;> rfl

theorem moverFree_of_empty {s : State} {m : Nat} (hm : m < s.helm.movers.length) (hshadow : (s.mover m).shadow = none) :
    s.moverFree m = s.setMover m { s.mover m with held := false, shadow := none } := by
  have hget : s.helm.movers[m]? = some (s.mover m) := by simp [State.mover, hm]
  simp [State.moverFree, hget, hshadow, State.levelRise, State.setMover]

/-- The end of a transfer changes its mover and wakes its source's waiters, nothing else of the mover. -/
theorem mover_moverEnd {s : State} {m : Nat} (hm : m < s.helm.movers.length) (code n : Nat) :
    (s.moverEnd m code n none).mover m =
      { s.mover m with active := none, error := code, errHold := code != 0, done := BitVec.ofNat 32 n } := by
  unfold State.moverEnd
  rw [mover_pulse]
  exact setMover_mover_same hm _

/-! ### How far a side in the on-die memories reaches (R401) -/

theorem firstOf_of_none {n : Nat} {bad : Nat → Bool} (h : ∀ i < n, bad i = false) : firstOf n bad = n := by
  have hnone : (List.range n).find? bad = none := List.find?_eq_none.mpr fun i hi => by simp [h i (List.mem_range.mp hi)]
  simp [firstOf, hnone]

theorem firstOf_of_first {n : Nat} {bad : Nat → Bool} (hn : 0 < n) (h : bad 0 = true) : firstOf n bad = 0 := by
  obtain ⟨k, rfl⟩ := Nat.exists_eq_succ_of_ne_zero hn.ne'
  simp [firstOf, List.range_succ_eq_map, h]

theorem sideLimit_of_sram {s : State} {x : MoverSet} {base : Nat} (h : base + x.len ≤ 2 ^ 23) (write : Bool) (r : MoverRead) :
    s.sideLimit x 3 base false write r = (x.len, 4) := by
  have hgood : ∀ i < x.len, (!(inOnDie (base + i) && (decide (base + i < 2 ^ 23) || s.inRun 7))) = false := by
    intro i hi
    simp only [inOnDie, Bool.not_eq_false', Bool.and_eq_true, Bool.or_eq_true, decide_eq_true_eq]
    omega
  simpa [State.sideLimit, sideAddr] using firstOf_of_none hgood

theorem sideLimit_of_beyond {s : State} {x : MoverSet} {base : Nat} (hbase : 2 ^ 23 + 32 * 65536 ≤ base) (hlen : 0 < x.len)
    (write : Bool) (r : MoverRead) : s.sideLimit x 3 base false write r = (0, 4) := by
  have hbad : (!(inOnDie (base + 0) && (decide (base + 0 < 2 ^ 23) || s.inRun 7))) = true := by
    simp only [inOnDie, Bool.not_eq_true', Bool.and_eq_false_iff, decide_eq_false_iff_not]
    omega
  have hfirst := firstOf_of_first (bad := fun i => !(inOnDie (base + i) && (decide (base + i < 2 ^ 23) || s.inRun 7))) hlen hbad
  simpa [State.sideLimit, sideAddr] using hfirst

/-- The octets of a side in Helm SRAM, read one by one, are those that the SRAM holds from its address on. -/
theorem sideRead_of_sram {s : State} {base n : Nat} (h : base + n ≤ 2 ^ 23) (r : MoverRead) :
    s.sideRead 3 base false n r = (s.helm.sram.readN base n, s) := by
  have hprefix : ∀ k ≤ n, (List.range k).foldl (fun (acc : Bytes × State) i =>
      let b := acc.2.sideByte 3 (sideAddr base false i)
      (acc.1 ++ [b.1], b.2)) ([], s) = ((List.range k).map (fun i => s.helm.sram.read (base + i)), s) := by
    intro k hk
    induction k with
    | zero => rfl
    | succ k ih =>
      have hlt : base + k < 8388608 := by omega
      simp only [List.range_succ, List.foldl_append, ih (by omega)]
      simp [State.sideByte, sideAddr, hlt]
  simpa [State.sideRead, Mem.readN] using hprefix n le_rfl

/-! ### The end of a transfer (R400, R401) -/

/-- A transfer between on-die memories that can be accessed wholly writes its source's octets and ends without an error. -/
theorem transferEnd_of_reachable {s : State} {m : Nat} {x : MoverSet} {src dst : MoverRead} (hrun : s.inRun 4 = true)
    (hact : (s.mover m).active = some x) (hmode : x.mode ≠ 2) (hsrc : x.hostSrc = false)
    (hfrom : x.mode = 1 ∨ s.sideLimit x x.srcSpace x.src x.srcFixed false src = (x.len, 4)) (hto : x.dstSpace = 3)
    (hdst : x.dst + x.len ≤ 2 ^ 23) (hfixed : x.dstFixed = false) {b : Bytes} (hread : s.moverSource x x.len src = (b, s)) :
    exec (.moverTransferEnd m src dst) s = .next (State.calmAfter ((s.sideWrite x b).moverEnd m 0 x.len none) s) := by
  obtain ⟨code, hlimit⟩ : ∃ code, (if x.mode = 1 then (x.len, 0) else s.sideLimit x x.srcSpace x.src x.srcFixed false src) =
      (x.len, code) := by
    rcases hfrom with h | h
    · exact ⟨0, if_pos h⟩
    · rw [h]
      split <;> exact ⟨_, rfl⟩
  have hdstHost : x.hostDst = false := by simp [MoverSet.hostDst, hto]
  change execMoverTransferEnd m src dst s = _
  simp only [execMoverTransferEnd, hact, hrun, hsrc, hdstHost, Bool.false_eq_true, if_false, hto, hfixed, sideLimit_of_sram hdst, hlimit, State.moverApply, hmode]
  simp [hread]

/-- A fill whose destination starts behind the on-die memories writes nothing and ends with NO_TARGET (code 4). -/
theorem transferEnd_of_beyond {s : State} {m : Nat} {x : MoverSet} {src dst : MoverRead} (hrun : s.inRun 4 = true)
    (hact : (s.mover m).active = some x) (hmode : x.mode = 1) (hto : x.dstSpace = 3) (hdst : 2 ^ 23 + 32 * 65536 ≤ x.dst)
    (hlen : 0 < x.len) (hfixed : x.dstFixed = false) :
    exec (.moverTransferEnd m src dst) s = .next (State.calmAfter ((s.sideWrite x []).moverEnd m 4 0 none) s) := by
  have hnone : (0 = x.len) = False := eq_false (by omega)
  have hfail (t : State) (a : Nat) : t.sideFail x 3 4 a dst = t := by
    cases hr : dst.fail <;> simp [State.sideFail, hr]
  change execMoverTransferEnd m src dst s = _
  simp [execMoverTransferEnd, hact, hrun, MoverSet.hostSrc, MoverSet.hostDst, hto, hfixed, sideLimit_of_beyond hdst hlen, hmode,
    State.moverSource, State.moverApply, hfail, hnone, hlen.ne']

/-! ### What an on-die write stores -/

theorem sideWrite_of_onDie {s : State} {x : MoverSet} (hspace : x.dstSpace = 3) (hfixed : x.dstFixed = false) (b : Bytes) :
    s.sideWrite x b = s.onDiePut x.dst b := by
  simp [State.sideWrite, State.memoryPut, hspace, hfixed]

@[simp] theorem clsPut_helm (fuel a : Nat) (b : Bytes) (s : State) : (State.clsPut fuel a b s).helm = s.helm := by
  induction fuel generalizing a b s with
  | zero => rfl
  | succ fuel ih =>
    unfold State.clsPut
    split
    · rfl
    · exact ih _ _ _

theorem onDiePut_sram (s : State) (a : Nat) (b : Bytes) :
    (s.onDiePut a b).helm.sram = s.helm.sram.writeN a (b.take (2 ^ 23 - a)) := by
  simp [State.onDiePut]

theorem overlay_whole {old b : Bytes} (h : old.length = b.length) : overlay old 0 b = b := by
  simp [overlay, h]

theorem line_length (x : ClsBank) (pos : Nat) : (x.line pos).length = 32 * x.width := by
  unfold ClsBank.line
  split
  · simp only [ClsEntry.image, slice, List.length_append, List.length_replicate, List.length_take]
    omega
  · simp [zeros]

/-- Octets that are one whole line of a bank make that line, and nothing else of the banks. -/
theorem clsPut_of_line {s : State} {k pos a : Nat} {b : Bytes} {fuel : Nat} (hwidth : 1 ≤ (s.clsBank k).width)
    (hlen : b.length = 32 * (s.clsBank k).width) (hpos : (pos + 1) * (32 * (s.clsBank k).width) ≤ 65536)
    (ha : a = 2 ^ 23 + 65536 * k + pos * (32 * (s.clsBank k).width)) :
    State.clsPut (fuel + 1) a b s = s.setClsBank k ((s.clsBank k).putLine pos b) := by
  have hlt : pos * (32 * (s.clsBank k).width) < 65536 := by rw [Nat.add_mul] at hpos; omega
  have hoff : a - 2 ^ 23 = 65536 * k + pos * (32 * (s.clsBank k).width) := by omega
  have hbank : (65536 * k + pos * (32 * (s.clsBank k).width)) / 65536 = k := by
    rw [Nat.mul_add_div (by omega), Nat.div_eq_of_lt hlt, Nat.add_zero]
  have hrest : (65536 * k + pos * (32 * (s.clsBank k).width)) % 65536 = pos * (32 * (s.clsBank k).width) := by
    rw [Nat.mul_add_mod, Nat.mod_eq_of_lt hlt]
  have hcell : clsCell s a = (k, pos, 0) := by
    rw [clsCell, hoff]
    simp only [hbank, hrest, max_eq_right hwidth]
    rw [Nat.mul_div_cancel _ (by omega), Nat.mul_mod_left]
  have hfull : min b.length (32 * max 1 (s.clsBank k).width - 0) = b.length := by rw [max_eq_right hwidth]; omega
  have hne : b.isEmpty = false := by
    cases b with
    | nil => simp at hlen; omega
    | cons => rfl
  have hdone (n a : Nat) (t : State) : State.clsPut n a [] t = t := by cases n <;> rfl
  rw [State.clsPut]
  simp only [hne, hcell, hfull, List.take_length, List.drop_length, hdone]
  rw [overlay_whole ((line_length _ _).trans hlen.symm)]
  rfl

/-- Settles O42: which thread reaches a mover, what promotion and the end of a transfer leave in it, and what a write to the on-die
memories stores. -/
theorem moversCopyFillAndCompare : Obligations.MoversCopyFillAndCompare := by
  unfold Obligations.MoversCopyFillAndCompare
  refine ⟨?lock, ?lockHeld, ?go, ?others, ?promote, ?badLen, ?promoteBusy, ?endIdle, ?fill, ?copy, ?beyond, ?done, ?outside, ?inside,
    ?line, ?ack, ?release⟩
  case lock =>
    intro s t m hreach hfree
    change execMoverLockTake t m s = _
    simp [execMoverLockTake, hreach, hfree]
  case lockHeld =>
    intro s t m hheld
    change execMoverLockTake t m s = _
    simp [execMoverLockTake, hheld]
  case go =>
    intro s t m ws w hreach hheld howner hgo
    refine congrArg _ ((moverWrite_of_owner hreach hheld howner w _).trans ?_)
    exact if_pos hgo
  case others =>
    intro s t m ws w hreach hheld howner
    refine ⟨congrArg _ (moverWrite_of_other hreach howner w _), congrArg _ (moverWrite_of_other hreach howner w _), ?_⟩
    change execMoverRelease t m s = _
    simp [execMoverRelease, howner]
  case promote =>
    intro s m y hrun hshadow hactive herr hmode hlen
    have hmode : y.mode ≠ 3 := by omega
    change execMoverPromote m s = _
    simp [execMoverPromote, hrun, hshadow, hactive, herr, hmode, hlen]
  case badLen =>
    intro s m y hrun hshadow hactive herr hmode hlen
    have hmode : y.mode ≠ 3 := by omega
    have hbad : y.badLen = true := by simp [MoverSet.badLen, hlen]
    change execMoverPromote m s = _
    simp [execMoverPromote, hrun, hshadow, hactive, herr, hmode, hbad]
  case promoteBusy =>
    intro s m hbusy
    change execMoverPromote m s = _
    unfold execMoverPromote
    cases hshadow : (s.mover m).shadow with
    | none => simp [hshadow]
    | some y =>
      have hstop : (!s.inRun 4 || (s.mover m).active.isSome || (s.mover m).errHold) = true := by
        rcases hbusy with h | h <;> simp [h]
      simp only [hshadow, hstop, if_true]
  case endIdle =>
    intro s m src dst hidle
    change execMoverTransferEnd m src dst s = _
    simp [execMoverTransferEnd, hidle]
  case fill =>
    intro s m x src dst hrun hact hmode hto hdst hfixed
    exact transferEnd_of_reachable hrun hact (by omega) (by simp [MoverSet.hostSrc, hmode]) (.inl hmode) hto hdst hfixed
      (by simp [State.moverSource, hmode])
  case copy =>
    intro s m x src dst hrun hact hmode hfrom hto hsrc hdst hsf hdf
    refine transferEnd_of_reachable hrun hact (by omega) (by simp [MoverSet.hostSrc, hfrom]) (.inr ?_) hto hdst hdf ?_
    · rw [hfrom, hsf, sideLimit_of_sram hsrc]
    · simp only [State.moverSource, hmode, hfrom, hsf]
      exact sideRead_of_sram hsrc src
  case beyond =>
    intro s m x src dst hrun hact hmode hto hdst hlen hfixed
    exact transferEnd_of_beyond hrun hact hmode hto hdst hlen hfixed
  case done =>
    intro s m code n hm
    exact ⟨_, mover_moverEnd hm code n, rfl, rfl, rfl, rfl, rfl, rfl⟩
  case outside =>
    intro s x b a hspace hfixed ha
    rw [sideWrite_of_onDie hspace hfixed, onDiePut_sram]
    refine Mem.read_writeN_outside _ _ _ _ (ha.imp_right fun h => ?_)
    rw [List.length_take]
    omega
  case inside =>
    intro s x b i hspace hfixed hwf hi hfit
    rw [sideWrite_of_onDie hspace hfixed, onDiePut_sram, List.take_of_length_le (by omega)]
    exact Mem.read_writeN_inside _ _ _ _ hi hwf
  case line =>
    intro s x b k pos hspace hfixed hwidth hlen hpos hdst
    have hbehind : 2 ^ 23 ≤ x.dst := by omega
    rw [sideWrite_of_onDie hspace hfixed]
    simp only [State.onDiePut, Nat.sub_eq_zero_of_le hbehind, List.take_zero, List.drop_zero, max_eq_left hbehind]
    exact clsPut_of_line hwidth hlen hpos hdst
  case ack =>
    intro s t m w hreach hheld howner
    exact congrArg _ (moverWrite_of_owner hreach hheld howner w _)
  case release =>
    intro s t m hreach hheld howner hm hshadow
    change execMoverRelease t m s = _
    simp [execMoverRelease, hreach, hheld, howner, moverFree_of_empty hm hshadow]

end Sys2Proof.Machine

/-!
Transmit descriptors and NVMe/TCP: what a descriptor completes with and what a connection's commands leave (chapters 08, 11, 13).
-/

namespace Sys2Proof.Machine

open Sys2Proof

/-! ### Transmit descriptors (R323 to R325) -/

theorem mayRead_of_bme {s : State} (hlink : s.linkReady = true) (hbme : s.host.cfg0.bme = true) : s.mayRead .pf0 = true := by
  rw [State.mayRead, hlink]
  exact hbme

theorem readHeld_of_tag {s : State} {tag : Nat} (hmay : s.mayRead .pf0 = true) (htag : s.freeTag .pf0 = some tag) :
    s.readHeld .pf0 = false := by
  simp [State.readHeld, hmay, htag]

/-- The oldest descriptor of an enabled transmit ring is carried out when the host can be read. -/
theorem txDescriptor_of_turn {s : State} {r : Nat} {d : Desc} {ds : List Desc} {tag : Nat} (htag : s.freeTag .pf0 = some tag)
    (htx : isTxRing r = true) (hlink : s.linkReady = true) (hbme : s.host.cfg0.bme = true) (hrun : s.inRun 5 = true)
    (hhove : s.hove = false) (howner : s.ownerLive r = true) (hstate : (s.ring r).state = .enabled)
    (hdescs : (s.ring r).descs = d :: ds) (hstarted : d.started = false) (t f : HostRead) (late : Bool) :
    exec (.txDescriptor r t f late) s = .next (s.txRun r d t f late) := by
  have hmay := mayRead_of_bme hlink hbme
  change execTxDescriptor r t f late s = _
  simp [execTxDescriptor, htx, hmay, hrun, hhove, howner, hstate, hdescs, hstarted, readHeld_of_tag hmay htag]

/-- A descriptor without a fragment table has its one piece. -/
theorem txPieces_of_one {s : State} {r : Nat} {d : Bytes} (hone : txFlag d 5 = false) (t : HostRead) :
    s.txPieces r d t =
      (if s.ringInBounds r (leAt d 0 8) (txLen d) true false then .pieces [(leAt d 0 8, txLen d)] else .bounds (leAt d 0 8), s) := by
  cases hin : s.ringInBounds r (leAt d 0 8) (txLen d) true false <;> simp [State.txPieces, hone, hin]

theorem hostReads_of_data {s : State} {tag : Nat} (hinject : s.err.injectTimeout = false) (htag : s.freeTag .pf0 = some tag)
    (pasid : Option Nat) (addr len : Nat) (b : Bytes) :
    s.hostReads .pf0 pasid [(addr, len)] (.data b) = (some b, s.emitReads .pf0 pasid addr len tag) := by
  have hinject : (s.emitReads .pf0 pasid addr len tag).err.injectTimeout = false := by simpa using hinject
  simp [State.hostReads, htag, readResult_of_data hinject]

theorem ringInBounds_setRing (s : State) (q : Nat) (x : Ring) (r addr len : Nat) (read write : Bool) :
    (s.setRing q x).ringInBounds r addr len read write = s.ringInBounds r addr len read write := rfl

/-! ### Connections (R288) -/

theorem connectBody_of_insert {c : Cmd} {b : Bytes} {s : State} (hresync : bit (byteAt b 70) 2 = false)
    (hhandle : c.handle = 2 ^ 32 - 1) : connectBody c b s = nvmetInsert c b s := by
  simp [connectBody, hresync, hhandle]

/-- The entry that a connection of NVMET_CONNECT's buffer inserts. -/
def connEntry (c : Cmd) (b : Bytes) (s : State) : FlowEntry :=
  { imageFields s b none with
    handle := leAt b 40 3 % 2 ^ 20, flags := ((imageFields s b none).flags ||| 4) ||| 8, owner := nvmetInst c }

/-- The connection that NVMET_CONNECT's buffer opens. -/
def openedConn (c : Cmd) (b : Bytes) : Conn :=
  { inst := nvmetInst c, handle := leAt b 40 3 % 2 ^ 20, depth := leAt b 68 2, hdgst := bit (byteAt b 70) 0
    ddgst := bit (byteAt b 70) 1 }

theorem nvmetInsert_of_fit {c : Cmd} {b : Bytes} {s : State} {f : Flow} {pl : FlowPlace} {n k : Nat}
    (hquota : s.inFlowQuota (nvmetInst c) (leAt b 40 3 % 2 ^ 20) = true)
    (hbreaks : s.connectBreaks (nvmetInst c) (imageFields s b none) = false)
    (hdest : actDest (imageFields s b none).action % 512 = nvmetInst c) (hflow : s.flowReady = true) (himage : s.imageBad b = none)
    (hconn : connectBad b = none) (hfree : s.flow.handles.find (leAt b 40 3 % 2 ^ 20) = none)
    (hkey : s.flow.findKey (imageFields s b none).profile (imageFields s b none).key = none)
    (hslot : s.recd.conns.firstFree 0 4096 = some k) (hdepth : s.connDepth + leAt b 68 2 ≤ 262144)
    (hinsert : s.flow.insert (connEntry c b s) = some (f, pl, n)) :
    nvmetInsert c b s = Reply.ok (State.setStream { s with flow := f, recd.conns := s.recd.conns.put k (openedConn c b) } k
      (openedConn c b) (leAt b 64 4) 0 0) (leBytes 2 k) := by
  unfold connEntry at hinsert
  simp only [nvmetInsert, hquota, hbreaks, hdest, hflow, himage, hconn, hfree, hkey, hslot, Nat.not_lt.2 hdepth, hinsert,
    Bool.not_true, Bool.false_eq_true, ne_eq, not_true_eq_false, reduceCtorEq, if_false]
  rfl

/-- Settles O22: a transmit descriptor and a registration complete as their fields earn, and a connection opens, resumes and closes. -/
theorem transmitAndStorageDescriptors : Obligations.TransmitAndStorageDescriptors := by
  unfold Obligations.TransmitAndStorageDescriptors
  refine ⟨?send, ?malformed, ?tooLong, ?bounds, ?register, ?connect, ?resync, ?close, ?closeOther, ?closeNone⟩
  case send =>
    intro s r d ds b late tag htx hlink hbme hrun hhove howner hstate hdescs hstarted hok hseg hdigest hone hlen hin hinject htag
    rw [txDescriptor_of_turn htag htx hlink hbme hrun hhove howner hstate hdescs hstarted]
    simp [State.txRun, hok, hseg, Nat.not_lt.2 hlen, txPieces_of_one hone, hin, hostReads_of_data hinject htag, State.txData, hdigest]
  case malformed =>
    intro s r d ds t f late tag htag htx hlink hbme hrun hhove howner hstate hdescs hstarted hok
    rw [txDescriptor_of_turn htag htx hlink hbme hrun hhove howner hstate hdescs hstarted]
    simp [State.txRun, hok]
  case tooLong =>
    intro s r d ds t f late tag htag htx hlink hbme hrun hhove howner hstate hdescs hstarted hok hseg hlen
    rw [txDescriptor_of_turn htag htx hlink hbme hrun hhove howner hstate hdescs hstarted]
    simp [State.txRun, hok, hseg, hlen]
  case bounds =>
    intro s r d ds f late tag htag htx hlink hbme hrun hhove howner hstate hdescs hstarted hok hseg hone hlen hin
    rw [txDescriptor_of_turn htag htx hlink hbme hrun hhove howner hstate hdescs hstarted]
    simp [State.txRun, hok, hseg, Nat.not_lt.2 hlen, txPieces_of_one hone, hin]
  case register =>
    intro s i d ds cn
    dsimp only
    intro hi hlink hbme hrun5 hrun13 hhove howner hstate hdescs hstarted hok hone hconn hinst hfree hin
    have hring : regRing i = i * 16 + 13 := rfl
    have hdiv : (i * 16 + 13) / 16 = i := by omega
    change execRegistration i _ s = _
    simp only [execRegistration, hring, hdescs, List.find?_cons, hstarted, hi, mayRead_of_bme hlink hbme, hrun5, hrun13, hhove, howner,
      hstate, hasTable]
    simp [State.registerDesc, State.register, hok, hone, hdiv, hconn, hinst, hfree, ringInBounds_setRing, hin, State.setConn]
  case connect =>
    intro s c f pl n k
    dsimp only
    intro hready hresync hhandle hquota hbreaks hdest hflow himage hconn hfree hkey hslot hdepth hinsert
    refine answers_of rfl hready rfl ?_
    generalize State.opened s _ c = t at *
    exact (connectBody_of_insert hresync hhandle).trans
      (nvmetInsert_of_fit hquota hbreaks hdest hflow himage hconn hfree hkey hslot hdepth hinsert)
  case resync =>
    intro s c x
    dsimp only
    intro hready hresync hfind hinst
    refine answers_of rfl hready rfl ?_
    generalize State.opened s _ c = t at *
    simp [connectBody, hresync, connBody, hfind, hinst, resyncBody, State.setConn]
  case close =>
    intro s c x pl
    dsimp only
    intro hready hfind hinst hplace
    refine answers_of rfl hready rfl ?_
    generalize State.opened s _ c = t at *
    simp [connBody, hfind, hinst, State.connClose, hplace]
  case closeOther =>
    intro s c x
    dsimp only
    intro hready hfind hinst
    refine answers_of rfl hready rfl ?_
    generalize State.opened s _ c = t at *
    simp [connBody, hfind, hinst]
  case closeNone =>
    intro s c
    dsimp only
    intro hready hfind
    refine answers_of rfl hready rfl ?_
    generalize State.opened s _ c = t at *
    simp [connBody, hfind]

end Sys2Proof.Machine

/-!
The life of an instance: created, enabled, quiesced, frozen, resumed, reset and destroyed (R338, R350 to R359).
-/

namespace Sys2Proof.Machine

open Sys2Proof

/-! ### The rings of an instance -/

theorem KMap.find_eq_none_of_ne {α : Type} {m : KMap α} {k : Nat} (h : ∀ q ∈ m, q.1 ≠ k) : KMap.find m k = none := by
  induction m with
  | nil => rfl
  | cons q m ih =>
    rw [KMap.find, if_neg (h q List.mem_cons_self)]
    exact ih fun r hr => h r (List.mem_cons_of_mem _ hr)

theorem instRings_rings (s : State) (i : Nat) (x : Inst) :
    (s.instRings i x).rings =
      (((KMap.put (s.rings.filter fun p => decide (mgrBase ≤ p.1) || p.1 / 16 != i) (i * 16)
        { configured := true, log2 := x.q0.log2, base := x.q0.base }).put (i * 16 + 14)
        { configured := true, log2 := x.q14.log2, base := x.q14.base }).put (i * 16 + 15)
        { configured := true, log2 := x.q15.log2, base := x.q15.base }) := rfl

theorem ring0_instRings (s : State) (i : Nat) (x : Inst) :
    (s.instRings i x).ring (i * 16) = { configured := true, log2 := x.q0.log2, base := x.q0.base } := by
  rw [State.ring, instRings_rings, KMap.getD_put_ne _ _ _ (by omega), KMap.getD_put_ne _ _ _ (by omega), KMap.getD_put_same]

/-- Rings 1 to 13 of the instance are gone. -/
theorem find_instRings_of_data {s : State} {i q : Nat} (hi : i < 512) (h1 : 1 ≤ q) (h13 : q ≤ 13) (x : Inst) :
    (s.instRings i x).rings.find (i * 16 + q) = none := by
  rw [instRings_rings, KMap.find_put_ne _ _ (by omega), KMap.find_put_ne _ _ (by omega), KMap.find_put_ne _ _ (by omega)]
  refine KMap.find_eq_none_of_ne fun p hp hkey => ?_
  have hkeep := List.of_mem_filter hp
  simp only [hkey, mgrBase, Bool.or_eq_true, decide_eq_true_eq, bne_iff_ne, ne_eq] at hkeep
  omega

@[simp] theorem inst_instRings (s : State) (i j : Nat) (x : Inst) : (s.instRings i x).inst j = s.inst j := rfl

theorem inst_setInst_same (s : State) (i : Nat) (x : Inst) : (s.setInst i x).inst i = x := KMap.getD_put_same ..

/-- A reset ends by writing the instance and its three rings anew. -/
theorem instReset_eq_instRings (s : State) (i : Nat) (new : InstState) :
    ∃ t y, y.state = new ∧ s.instReset i new = (State.setInst t i y).instRings i y := by
  unfold State.instReset
  extract_lets _ _ t x y
  exact ⟨t, y, rfl, rfl⟩

theorem replyAll_single {s : State} {a : Accepted} {p : Accepted → Bool} (hwait : s.dechan.accepted = [a]) (hp : p a = true)
    (status detail : Nat) : s.replyAll p status detail = s.reply a status detail [] [] := by
  simp [State.replyAll, hwait, hp]

/-- Settles O23: each command of class 2 moves its instance as Table 14-7 says. -/
theorem instancesLiveByTheirStates : Obligations.InstancesLiveByTheirStates := by
  unfold Obligations.InstancesLiveByTheirStates
  refine ⟨?create, ?createAgain, ?enable, ?quiesce, ?quiesceDone, ?quiesceWaits, ?quiesceTimeout, ?quiesceEarly, ?freeze, ?resumeFrozen,
    ?resumeFaulted, ?resumeError, ?reset, ?resetLeaves, ?destroy⟩
  case create =>
    intro s c br
    dsimp only
    intro hready habsent hpasid hquota hbuf hrings hask
    refine answers_of rfl hready rfl ?_
    generalize State.opened s _ c = t at *
    generalize bufferOf _ c = b at *
    have hpasidFree : t.bounds.any (fun p => p.1 != c.inst && p.2.pasid == leAt b 0 4 % 2 ^ 20) = false := by
      simpa using hpasid
    have hringsIn : (createRings b).find? (fun q => !({ pasid := leAt b 0 4 % 2 ^ 20, ranges := rangesAt b 64 } : Bounds).allows
        q.2.base (2 ^ q.2.log2 * ringEntry (c.inst * 16 + q.1)) true true) = none := by
      simpa using hrings
    simp only [instCreateBody, habsent, hpasidFree, hquota, hbuf, hringsIn, hask, ne_eq, not_true_eq_false, Bool.false_eq_true, if_false]
  case createAgain =>
    intro s c br
    dsimp only
    intro hready hstate
    exact answers_of rfl hready rfl (if_pos hstate)
  case enable =>
    intro s c
    dsimp only
    intro hready
    exact answers_of rfl hready rfl rfl
  case quiesce =>
    intro s c
    dsimp only
    intro hready hms
    exact answers_of rfl hready rfl (if_neg (Nat.not_lt.2 hms))
  case quiesceDone =>
    intro s i hquiet
    exact if_pos hquiet
  case quiesceWaits =>
    intro s i hbusy
    exact if_neg (by simp [hbusy])
  case quiesceTimeout =>
    intro s i a hbusy hwait hcode hdone hinst hms hlate
    change execInstQuiesceTimeout i s = _
    simp only [execInstQuiesceTimeout, hbusy, Bool.false_eq_true, if_false]
    refine congrArg _ (replyAll_single hwait ?_ _ _)
    simp [hcode, hdone, hinst, quiesceMs, hms, State.elapsed, hlate]
  case quiesceEarly =>
    intro s i a hbusy hwait hcode hdone hinst hms hearly
    change execInstQuiesceTimeout i s = _
    simp only [execInstQuiesceTimeout, hbusy, Bool.false_eq_true, if_false]
    refine congrArg _ (replyAll_of_none (fun b hb => ?_) _ _)
    obtain rfl := List.mem_singleton.mp (hwait ▸ hb)
    simp [quiesceMs, hms, State.elapsed, hearly]
  case freeze =>
    intro s c
    dsimp only
    intro hready
    refine answers_of rfl hready rfl ?_
    generalize State.opened s _ c = t at *
    cases hquiet : t.quiesced c.inst <;> simp
  case resumeFrozen =>
    intro s c
    dsimp only
    intro hready hstate
    refine answers_of rfl hready rfl ?_
    generalize State.opened s _ c = t at *
    simp [hstate]
  case resumeFaulted =>
    intro s c
    dsimp only
    intro hready hstate hring
    refine answers_of rfl hready rfl ?_
    generalize State.opened s _ c = t at *
    simp [hstate, hring]
  case resumeError =>
    intro s c
    dsimp only
    intro hready hstate hring
    refine answers_of rfl hready rfl ?_
    generalize State.opened s _ c = t at *
    simp [hstate, hring]
  case reset =>
    intro s c
    dsimp only
    intro hready hended
    exact answers_of rfl hready rfl (if_neg (by simp [hended]))
  case resetLeaves =>
    intro s i hi
    obtain ⟨t, y, hstate, hreset⟩ := instReset_eq_instRings s i .configured
    rw [hreset, inst_instRings, inst_setInst_same, ring0_instRings]
    exact ⟨hstate, rfl, rfl, fun q h1 h13 => find_instRings_of_data hi h1 h13 y⟩
  case destroy =>
    intro s c br
    dsimp only
    intro hready hask hended
    refine answers_of rfl hready rfl ?_
    generalize State.opened s _ c = t at *
    simp only [hask]
    exact if_neg ((Bool.not_eq_true _).mpr hended)

end Sys2Proof.Machine

/-!
Helm's requests of Binnacle, and the commands of a migration: dirty logs, the transfer key and the waypoint (chapters 14 and 15).
-/

namespace Sys2Proof.Machine

open Sys2Proof

/-! ### Requests (R363, R364) -/

theorem pulse_of_no_thread {s : State} (hthr : s.helm.thr = []) (src : Nat) : s.pulse src = s := by
  simp [State.pulse, hthr]

theorem hostRead_of_data {s : State} {tag : Nat} (hinject : s.err.injectTimeout = false) (htag : s.freeTag .pf0 = some tag)
    (pasid : Option Nat) (addr len : Nat) (b : Bytes) :
    s.hostRead .pf0 pasid addr len (.data b) = (some b, s.emitReads .pf0 pasid addr len tag) :=
  hostReads_of_data hinject htag pasid addr len b

theorem linkReady_of_serves {s : State} (h : s.binnacleServes = true) : s.linkReady = true := by
  simp only [State.binnacleServes, Bool.and_eq_true] at h
  exact h.2

/-- The state after Binnacle's read of the entry of a request. -/
def State.entryRead (s : State) (ring idx tag : Nat) : State :=
  s.emitReads .pf0 none ((s.ring (mgrBase + ring % 4)).slotAddr 64 (BitVec.ofNat 16 idx)) 64 tag

/-- Binnacle reads the entry that Helm names before it does anything else. -/
theorem binnacleRequest_of_read {s : State} {tag idx : Nat} {b : BinRead} {e : Bytes} (hserves : s.binnacleServes = true)
    (hbme : s.host.cfg0.bme = true) (hthr : s.helm.thr = []) (hentry : b.entry = .data e) (hinject : s.err.injectTimeout = false)
    (htag : s.freeTag .pf0 = some tag) (req ring : Nat) (codes : List Nat) (act : Bytes → Bytes → State → Option State) :
    s.binnacleRequest req ring idx codes b act = (s.entryRead ring idx tag).binnacleEntry req ring idx codes b act (some e) := by
  have hheld := readHeld_of_tag (mayRead_of_bme (linkReady_of_serves hserves) hbme) htag
  simp [State.binnacleRequest, hserves, hheld, pulse_of_no_thread hthr, hentry, hostRead_of_data hinject htag, State.entryRead]

theorem freeTag_emitReads (s : State) (fn f : Fn) (p : Option Nat) (a n t : Nat) : (s.emitReads fn p a n t).freeTag f = s.freeTag f := by
  cases f <;> simp [State.freeTag, State.cfg]

theorem entryRead_keeps (s : State) (ring idx tag : Nat) :
    (s.entryRead ring idx tag).err = s.err ∧ (s.entryRead ring idx tag).freeTag .pf0 = s.freeTag .pf0 ∧
      (s.entryRead ring idx tag).bounds = s.bounds ∧ (s.entryRead ring idx tag).mig = s.mig ∧
      (s.entryRead ring idx tag).ciph = s.ciph ∧ (s.entryRead ring idx tag).power = s.power := by
  refine ⟨?_, freeTag_emitReads .., ?_⟩ <;> simp [State.entryRead]

/-- An entry that suits and names a parameter buffer: Binnacle reads that too, then acts. -/
theorem binnacleEntry_of_buffer {s : State} {tag : Nat} {b : BinRead} {e d : Bytes} {codes : List Nat} (hbuf : b.buf = .data d)
    (hinject : s.err.injectTimeout = false) (htag : s.freeTag .pf0 = some tag) (hsuits : codes.any (entrySuits e) = true)
    (hcode : leAt e 0 2 ≠ 0x0C02) (hlen : leAt e 6 2 ≠ 0) (req ring idx : Nat) (act : Bytes → Bytes → State → Option State) :
    s.binnacleEntry req ring idx codes b act (some e) =
      (s.emitReads .pf0 none (leAt e 16 8) (leAt e 6 2) tag).binnacleAct req ring idx act e (some d) := by
  simp [State.binnacleEntry, hsuits, hcode, hlen, hbuf, hostRead_of_data hinject htag]

/-- An entry that suits and names no buffer is acted on at once. -/
theorem binnacleEntry_of_no_buffer {s : State} {b : BinRead} {e : Bytes} {code : Nat} (hsuits : entrySuits e code = true)
    (hcode : code ≠ 0x0C02) (hlen : leAt e 6 2 = 0) (req ring idx : Nat) (act : Bytes → Bytes → State → Option State) :
    s.binnacleEntry req ring idx [code] b act (some e) = s.binnacleAct req ring idx act e (some []) := by
  have hop : leAt e 0 2 = code := by
    simp only [entrySuits, Bool.and_eq_true, beq_iff_eq] at hsuits
    exact hsuits.1.1
  simp [State.binnacleEntry, hsuits, hop, hcode, hlen]

theorem binnacleAct_of_done {s t : State} {e d : Bytes} {act : Bytes → Bytes → State → Option State} (h : act e d s = some t)
    (req ring idx : Nat) : s.binnacleAct req ring idx act e (some d) = t.binnacleAnswer idx ring 0 := by
  simp [State.binnacleAct, h]

theorem boundsWriteAct_of_new {s : State} {e d : Bytes} (hcode : leAt e 0 2 = 0x0201) (hinst : leAt e 4 2 ≤ 511)
    (hfree : s.bounds.has (leAt e 4 2) = false) (hranges : rangesBad d 64 = none)
    (hpasid : ∀ p ∈ s.bounds, p.2.pasid ≠ leAt d 0 4 % 2 ^ 20) :
    boundsWriteAct e d s =
      some { s with bounds := s.bounds.put (leAt e 4 2) { pasid := leAt d 0 4 % 2 ^ 20, ranges := rangesAt d 64 } } := by
  have hpasidFree : s.bounds.any (fun p => p.2.pasid == leAt d 0 4 % 2 ^ 20) = false := by simpa using hpasid
  simp only [boundsWriteAct, Nat.not_lt.2 hinst, hcode, hfree, hranges, hpasidFree]
  simp

/-- Settles O24: Binnacle acts on the entry and the buffer that it reads itself, and refuses what does not suit. -/
theorem binnacleActsOnWhatItReads : Obligations.BinnacleActsOnWhatItReads := by
  unfold Obligations.BinnacleActsOnWhatItReads
  refine ⟨?request, ?boundsWrite, ?boundsClear, ?refused, ?noMaster, ?vote, ?wrap, ?unsupported, ?listed⟩
  case request =>
    intro s req ring idx codes b act e d tag hserves hbme hthr hentry hbuf hinject htag hsuits hcode hlen
    dsimp only
    obtain ⟨herr, hfree, -⟩ := entryRead_keeps s ring idx tag
    rw [binnacleRequest_of_read hserves hbme hthr hentry hinject htag,
      binnacleEntry_of_buffer hbuf (herr ▸ hinject) (hfree.trans htag) hsuits hcode hlen]
    rfl
  case boundsWrite =>
    intro s ring idx b e d tag hserves hbme hthr hentry hbuf hinject htag hsuits hinst hlen hnew hranges hpasid
    dsimp only
    have hcode : leAt e 0 2 = 0x0201 := by
      simp only [entrySuits, Bool.and_eq_true, beq_iff_eq] at hsuits
      exact hsuits.1.1
    obtain ⟨herr, hfree, hbounds, -⟩ := entryRead_keeps s ring idx tag
    have hkept : ((s.entryRead ring idx tag).emitReads .pf0 none (leAt e 16 8) (leAt e 6 2) tag).bounds = s.bounds := by
      simpa using hbounds
    refine congrArg Host.Outcome.next ?_
    rw [binnacleRequest_of_read hserves hbme hthr hentry hinject htag,
      binnacleEntry_of_buffer hbuf (herr ▸ hinject) (hfree.trans htag) (by simp [hsuits]) (by omega) hlen]
    refine (binnacleAct_of_done (boundsWriteAct_of_new hcode hinst ?_ hranges ?_) _ _ _).trans ?_
    · rw [hkept, hnew]
    · rw [hkept]
      exact hpasid
    · rw [hkept]
      rfl
  case boundsClear =>
    intro s ring idx b e tag hserves hbme hthr hentry hinject htag hsuits hinst hlen
    dsimp only
    obtain ⟨-, -, hbounds, -⟩ := entryRead_keeps s ring idx tag
    refine congrArg Host.Outcome.next ?_
    rw [binnacleRequest_of_read hserves hbme hthr hentry hinject htag, binnacleEntry_of_no_buffer hsuits (by decide) hlen]
    refine (binnacleAct_of_done (if_neg (Nat.not_lt.2 hinst)) _ _ _).trans ?_
    rw [hbounds]
    rfl
  case refused =>
    intro s ring idx b e tag hserves hbme hthr hentry hinject htag hsuits
    dsimp only
    refine congrArg Host.Outcome.next ?_
    rw [binnacleRequest_of_read hserves hbme hthr hentry hinject htag]
    simp [State.binnacleEntry, hsuits, State.entryRead]
  case noMaster =>
    intro s ring idx b hserves hbme
    have hmay : s.mayRead .pf0 = false := by simp [State.mayRead, State.cfg, hbme]
    refine congrArg Host.Outcome.next ?_
    simp [State.binnacleRequest, hserves, State.readHeld, hmay, State.readWait]
  case vote =>
    intro s ring idx b e tag hserves hbme hthr hentry hinject htag hsuits hlen hact hact' h0 h14 h15
    dsimp only
    intro hstart
    refine congrArg Host.Outcome.next ?_
    rw [binnacleRequest_of_read hserves hbme hthr hentry hinject htag, binnacleEntry_of_no_buffer hsuits (by decide) hlen]
    refine binnacleAct_of_done ?_ _ _ _
    have hok : ¬(byteAt e 24 = 0 ∨ 3 < byteAt e 24 ∨ bit (leAt e 26 2) 0 = true ∨ bit (leAt e 26 2) 14 = true ∨
        bit (leAt e 26 2) 15 = true) := by
      simp only [h0, h14, h15, Bool.false_eq_true, or_false, not_or]
      omega
    dsimp only
    rw [if_neg hok]
    exact congrArg some (if_pos hstart)
  case wrap =>
    intro s ring idx b e h k x tag hserves hbme hthr hentry hinject htag hsuits hlen hkey hctx hblob hlode
    dsimp only
    obtain ⟨-, -, -, hmig, hciph, hpower⟩ := entryRead_keeps s ring idx tag
    have hkeyRead : (s.entryRead ring idx tag).armedKey = some k := by rw [State.armedKey, hmig]; exact hkey
    have hctxRead : (s.entryRead ring idx tag).ctx h = some x := by rw [State.ctx, hciph]; exact hctx
    have hlodeRead : (s.entryRead ring idx tag).lodeLoaded = true := by rw [State.lodeLoaded, hciph]; exact hlode
    refine congrArg Host.Outcome.next ?_
    rw [binnacleRequest_of_read hserves hbme hthr hentry hinject htag, binnacleEntry_of_no_buffer hsuits (by decide) hlen]
    refine binnacleAct_of_done ?_ _ _ _
    simp only [hkeyRead, hctxRead, hblob, hlodeRead, Bool.and_self, if_true]
    rfl
  case unsupported =>
    intro s code c
    dsimp only
    intro hlisted haccepts hown
    change execUnsupportedOpcode code c s = _
    simp only [execUnsupportedOpcode, hlisted, serveEntry_accepts haccepts, hown]
    rfl
  case listed =>
    intro s code c hlisted
    exact if_pos hlisted

/-! ### Dirty logs (R369) -/

theorem byteAt_map_range (n : Nat) (f : Nat → Byte) {k : Nat} (hk : k < n) : byteAt ((List.range n).map f) k = (f k).toNat := by
  simp [byteAt, hk]

/-- The page's bit is set exactly for the pages written; a lost log marks every page. -/
theorem bit_dirtyBitmap (l : DirtyLog) {p : Nat} (hp : p < l.pages) :
    bit (byteAt l.bitmap (p / 8)) (p % 8) = (l.lost || l.marked.contains p) := by
  have hrow : p / 8 < ceilDiv l.pages 8 := by unfold ceilDiv; omega
  rw [DirtyLog.bitmap, byteAt_map_range _ _ hrow]
  cases hlost : l.lost with
  | true =>
    have hall : ∀ k < 8, bit 255 k = true := by decide
    exact hall _ (Nat.mod_lt _ (by decide))
  | false =>
    have hlt := maskOf_lt 8 fun n => l.marked.contains (8 * (p / 8) + n)
    have hcell : 8 * (p / 8) + p % 8 = p := Nat.div_add_mod p 8
    simp only [Bool.false_eq_true, if_false, BitVec.toNat_ofNat, Nat.mod_eq_of_lt hlt, bit_maskOf, hcell]
    simp [Nat.mod_lt]

/-! ### The waypoint (R370 to R373) -/

theorem savesBlob_of_none {s : State} {i : Nat} (h : s.quotaCtxs i = []) : s.savesBlob i = false := by
  simp [State.savesBlob, h]

theorem maskEntries_zero (s : State) : s.maskEntries 0 = [] := by
  simp [State.maskEntries, bit_zero]

/-- A save without contexts and without a classifier section is refused for none of R372's reasons. -/
theorem saveRefused_of_none {s : State} {c : Cmd} {len : Nat} (halign : leAt c.data 0 8 % 64 = 0) (hfit : len ≤ leAt c.data 8 4)
    (hscan : s.flow.scanDue = false) (hmask : bit (byteAt c.data 12) 0 = false) : s.saveRefused c len [] = none := by
  simp [State.saveRefused, halign, Nat.not_lt.2 hfit, hscan, hmask, bit_zero]

theorem quotaLost_post0 (s : State) (i a : Nat) (b : Bytes) : (s.post0 a b).quotaLost i = s.quotaLost i := by
  have hinsts : (s.post0 a b).insts = s.insts := by simp
  have hflow : (s.post0 a b).flow = s.flow := by simp
  rw [State.quotaLost, State.inst, hinsts, hflow]
  rfl

/-- Settles O25: the dirty log, the transfer key and a waypoint without contexts. -/
theorem migrationCommandsAndTransferKey : Obligations.MigrationCommandsAndTransferKey := by
  unfold Obligations.MigrationCommandsAndTransferKey
  refine ⟨?start, ?harvest, ?bitmap, ?stop, ?stopNone, ?arm, ?armNone, ?disarm, ?expiry, ?expiryEarly, ?save, ?saveMisaligned, ?saveAsks⟩
  case start =>
    intro s c
    dsimp only
    intro hready hact halign hfit hfree hpages
    refine answers_of rfl hready rfl ?_
    generalize State.opened s _ c = t at *
    simp [dirtyLogBody, hact, halign, dirtyStart, Nat.not_lt.2 hfit, Nat.not_le.2 hfree, Nat.not_lt.2 hpages]
  case harvest =>
    intro s c l
    dsimp only
    intro hready hact halign hlog hkept
    refine answers_of rfl hready rfl ?_
    generalize State.opened s _ c = t at *
    simp [dirtyLogBody, hact, halign, hlog, dirtyHarvest, hkept, b2n]
  case bitmap =>
    intro l p hp
    exact bit_dirtyBitmap l hp
  case stop =>
    intro s c l
    dsimp only
    intro hready hact hlog
    refine answers_of rfl hready rfl ?_
    generalize State.opened s _ c = t at *
    simp [dirtyLogBody, hact, hlog]
  case stopNone =>
    intro s c
    dsimp only
    intro hready hact hlog
    refine answers_of rfl hready rfl ?_
    generalize State.opened s _ c = t at *
    simp [dirtyLogBody, hact, hlog]
  case arm =>
    intro s c k
    dsimp only
    intro hready hact hkey hkcv hmin hmax
    refine answers_of rfl hready rfl ?_
    generalize State.opened s _ c = t at *
    simp [secTransferBody, hact, hkey, hkcv, Nat.not_lt.2 hmin, Nat.not_lt.2 hmax]
  case armNone =>
    intro s c
    dsimp only
    intro hready hact hkey
    refine answers_of rfl hready rfl ?_
    generalize State.opened s _ c = t at *
    simp [secTransferBody, hact, Migration.key, hkey]
  case disarm =>
    intro s c
    dsimp only
    intro hready hact
    refine answers_of rfl hready rfl ?_
    generalize State.opened s _ c = t at *
    simp [secTransferBody, hact, State.eraseTransfer]
  case expiry =>
    intro s u harmed hpast
    change execTransferKeyExpiry s = _
    simp [execTransferKeyExpiry, harmed, hpast, State.eraseTransfer]
  case expiryEarly =>
    intro s u harmed hearly
    change execTransferKeyExpiry s = _
    simp [execTransferKeyExpiry, harmed, Nat.not_le.2 hearly]
  case save =>
    intro s c
    dsimp only
    intro hready halign hmask hctxs hfit hscan
    refine answers_of rfl hready rfl ?_
    generalize State.opened s _ c = t at *
    have hgo := saveRefused_of_none halign hfit hscan hmask
    simp only [waypointSaveBody, hctxs, List.filter_nil, hmask, Bool.false_eq_true, if_false, maskEntries_zero, List.length_nil, hgo,
      State.saveAsk, savesBlob_of_none hctxs, State.ctxSections, List.foldl_nil, quotaLost_post0]
    have hlost : (t.drawBytes 8).2.quotaLost c.inst = t.quotaLost c.inst := rfl
    simp [spanOf, hlost]
  case saveMisaligned =>
    intro s c
    dsimp only
    intro hready halign
    refine answers_of rfl hready rfl ?_
    generalize State.opened s _ c = t at *
    simp [waypointSaveBody, State.saveRefused, halign]
  case saveAsks =>
    intro s c hblob
    exact if_pos hblob

end Sys2Proof.Machine

/-!
Ledger audits and the diagnostic commands (chapter 19).
-/

namespace Sys2Proof.Machine

open Sys2Proof

/-! ### The audit (R455 to R458) -/

theorem post0_nil (s : State) (a : Nat) : s.post0 a [] = s := rfl

theorem picture_zero (s : State) : s.picture 0 = [] := by
  simp [State.picture, bit_zero]

/-- An audit without an object in any picture ends with its result registers alone. -/
theorem auditEnd_of_empty {s : State} {a : Audit} (hseen : a.seen.flatten = []) (hwait : s.dechan.accepted = []) :
    s.auditEnd a = { s with
      err.audit := none, err.auditSeq := (s.err.auditSeq + 1) % 65536, err.ready := true, err.persistent := 0
      err.persistCnt := s.err.persistCnt % 65536, err.transientCnt := s.err.transientCnt % 65536 } := by
  have hlast : (a.seen.getLast?).getD [] = [] := by
    cases h : a.seen.getLast? with
    | none => rfl
    | some p => exact List.flatten_eq_nil_iff.mp hseen p (List.mem_of_getLast? h)
  have hmask : maskOf 10 (fun _ => false) = 0 := by decide
  simp [State.auditEnd, hlast, objectsOf, hseen, sortCounts, hmask, hwait, post0_nil]

/-- Ledger 2 of an enabled ring balances: free, published and fetched entries sum to its size. -/
theorem countDiff_ringLedger (r : Nat) {x : Ring} (hpi : (x.pi - x.oldest).toNat ≤ 2 ^ x.log2)
    (hfetch : (x.fetch - x.oldest).toNat ≤ (x.pi - x.oldest).toNat) : countDiff (x.ledger r) = 0 := by
  have hsplit : (x.pi - x.fetch).toNat + (x.fetch - x.oldest).toNat = (x.pi - x.oldest).toNat := by
    generalize x.pi = p at *
    generalize x.fetch = f at *
    generalize x.oldest = o at *
    bv_omega
  simp only [countDiff, Ring.ledger, List.foldl_cons, List.foldl_nil]
  omega

/-! ### Injected errors (R461) -/

/-- Two bits of a word that has no error yet. -/
theorem inject_of_fresh {s : State} {w : Nat × Nat} (h : ∀ e ∈ s.mem.errors, ¬(e.1 = w.1 ∧ e.2.1 = w.2)) :
    s.inject w 2 = { s with mem.errors := s.mem.errors ++ [(w.1, w.2, 3)] } := by
  have hkeep : s.mem.errors.filter (fun e => !(e.1 == w.1 && e.2.1 == w.2)) = s.mem.errors := by
    rw [List.filter_eq_self]
    intro e he
    simpa [imp_iff_not_or] using h e he
  have hnone : s.mem.errors.find? (fun e => e.1 == w.1 && e.2.1 == w.2) = none := by
    rw [List.find?_eq_none]
    intro e he
    simpa using h e he
  simp only [State.inject, hkeep, hnone]
  rfl

/-- Settles O26: the audit's pictures and their end, the snapshot, loopback and the injected errors. -/
theorem ledgersAndDiagnostics : Obligations.LedgersAndDiagnostics := by
  unfold Obligations.LedgersAndDiagnostics
  refine ⟨?audit, ?auditBad, ?picture, ?pictureEarly, ?pictureLast, ?ring, ?read, ?readNone, ?take, ?loopA, ?loopB, ?loopNone, ?timeout,
    ?double, ?noGrant⟩
  case audit =>
    intro s c
    dsimp only
    intro hready hmin hmax hent hentMax hbase hidle
    refine answers_of rfl hready rfl ?_
    rw [← opened_cur s { code := 0x0104 } c]
    generalize State.opened s _ c = t at *
    have hent : leAt c.data 4 4 ≠ 0 := by omega
    simp only [ledgerAuditBody, Nat.not_lt.2 hmin, Nat.not_lt.2 hmax, hent, Nat.not_lt.2 hentMax, hbase, hidle]
    simp
  case auditBad =>
    intro s c
    dsimp only
    intro hready hbad
    refine answers_of rfl hready rfl ?_
    generalize State.opened s _ c = t at *
    rcases hbad with h | h
    · simp [ledgerAuditBody, h]
    · have hne : byteAt c.data 2 ≠ 0 := by omega
      simp [ledgerAuditBody, h, hne]
  case picture =>
    intro s a haudit hrun hdue hmore
    have hgo : (!s.inRun 2 || (a.taken != 0 && !s.elapsed a.lastAt msTicks)) = false := by
      rcases hdue with h | h <;> simp [hrun, State.elapsed, h]
    change execLedgerPicture s = _
    simp [execLedgerPicture, haudit, hgo, hmore]
  case pictureEarly =>
    intro s a haudit htaken hearly
    change execLedgerPicture s = _
    simp [execLedgerPicture, haudit, htaken, State.elapsed, hearly]
  case pictureLast =>
    intro s a haudit hrun hlast htaken hdue hledgers hseen hwait
    have hgo : (!s.inRun 2 || (a.taken != 0 && !s.elapsed a.lastAt msTicks)) = false := by simp [hrun, State.elapsed, hdue]
    change ∃ t, execLedgerPicture s = _ ∧ _
    simp only [execLedgerPicture, haudit, hgo, Bool.false_eq_true, if_false, hlast, lt_irrefl, hledgers, picture_zero]
    refine ⟨_, rfl, ?_⟩
    rw [auditEnd_of_empty (by simpa using hseen) (by exact hwait)]
    simp [SamePath, SameGrid, SameInst]
  case ring =>
    intro r x hpi hfetch
    exact countDiff_ringLedger r hpi hfetch
  case read =>
    intro s c b
    dsimp only
    intro hready hact hsnap
    refine answers_of rfl hready rfl ?_
    generalize State.opened s _ c = t at *
    simp [snapshotBody, hact, hsnap]
  case readNone =>
    intro s c
    dsimp only
    intro hready hact hsnap
    refine answers_of rfl hready rfl ?_
    generalize State.opened s _ c = t at *
    simp [snapshotBody, hact, hsnap]
  case take =>
    intro s c b
    dsimp only
    intro hready hact hsnap
    refine answers_of rfl hready rfl ?_
    generalize State.opened s _ c = t at *
    simp [snapshotBody, hact, hsnap]
  case loopA =>
    intro s c
    dsimp only
    intro hready hport hmode
    refine answers_of rfl hready rfl ?_
    generalize State.opened s _ c = t at *
    simp [hport, Nat.not_lt.2 hmode]
  case loopB =>
    intro s c
    dsimp only
    intro hready hport hmode
    refine answers_of rfl hready rfl ?_
    generalize State.opened s _ c = t at *
    simp [hport, Nat.not_lt.2 hmode]
  case loopNone =>
    intro s c
    dsimp only
    intro hready hport
    refine answers_of rfl hready rfl ?_
    generalize State.opened s _ c = t at *
    simp [hport]
  case timeout =>
    intro s c g
    dsimp only
    intro hready hgrant hlive htarget
    refine answers_of rfl hready rfl ?_
    generalize State.opened s _ c = t at *
    simp [hgrant, hlive, htarget]
  case double =>
    intro s c g
    dsimp only
    intro hready hgrant hlive htarget hbits haddr hfresh
    refine answers_of rfl hready rfl ?_
    generalize State.opened s _ c = t at *
    have hword : injectWord 2 (leAt c.data 8 8) = some (1, leAt c.data 8 8 / 8 * 8) := by
      rw [injectWord, if_neg (by decide), if_pos haddr]
    simp only [hgrant, hlive, htarget, hbits, hword, inject_of_fresh (w := (1, leAt c.data 8 8 / 8 * 8)) hfresh]
    simp
  case noGrant =>
    intro s c
    dsimp only
    intro hready hgrant
    refine answers_of rfl hready rfl ?_
    generalize State.opened s _ c = t at *
    simp [hgrant]

end Sys2Proof.Machine

/-!
The register spaces: reads, snapshots, byte enables, stopped blocks and the debugger's registers (chapters 00, 12 and 21).
-/

namespace Sys2Proof.Machine

open Sys2Proof

/-! ### One request (R294) -/

theorem alignedDown {off : Nat} (h : off % 4 = 0) : off / 4 * 4 = off := by omega

theorem registerRead_of_dword {s : State} {fn : Fn} {bar off : Nat} (hlink : s.linkReady = true) (hsize : off < barSize fn bar)
    (halign : off % 4 = 0) :
    exec (.registerRead fn bar ⟨off, false⟩) s = .next ((s.readDw fn bar off).2.readEnd fn [(s.readDw fn bar off).1]) := by
  change execRegisterRead fn bar ⟨off, false⟩ s = _
  simp [execRegisterRead, hlink, alignedDown halign, Nat.not_le.2 hsize]

theorem registerRead_of_pair {s : State} {fn : Fn} {bar off : Nat} (hlink : s.linkReady = true) (hsize : off < barSize fn bar)
    (halign : off % 8 = 0) :
    exec (.registerRead fn bar ⟨off, true⟩) s = .next
      (((s.readDw fn bar off).2.readDw fn bar (off + 4)).2.readEnd fn
        [(s.readDw fn bar off).1, ((s.readDw fn bar off).2.readDw fn bar (off + 4)).1]) := by
  have hdown : off / 4 * 4 = off := by omega
  change execRegisterRead fn bar ⟨off, true⟩ s = _
  simp [execRegisterRead, hlink, hdown, Nat.not_le.2 hsize, halign]

theorem registerWrite_of_dword {s : State} {fn : Fn} {bar off : Nat} (hlink : s.linkReady = true) (hsize : off < barSize fn bar)
    (halign : off % 4 = 0) (v : W32) (be : Nat) :
    exec (.registerWrite fn bar off v ⟨be, []⟩) s = .next (s.writeDw fn bar off v.toNat be) := by
  have hok : accessOk bar off 4 true = true := by simp [accessOk, halign]
  change execRegisterWrite fn bar off v ⟨be, []⟩ s = _
  simp [execRegisterWrite, hlink, alignedDown halign, Nat.not_le.2 hsize, hok, State.writeMore]

theorem readEnd_of_value (s : State) (fn : Fn) (v : Nat) :
    s.readEnd fn [some v] = { s with out := s.out ++ [.cpl .sc (leBytes 4 v)] } := by
  simp [State.readEnd, State.emit]

/-! ### Dwords of PF 0 -/

theorem pf0Read_of_held {s : State} {bar off : Nat} (hsnap : s.snap.find (snapKey bar off) = none) (hpart : rsPartners bar off = []) :
    s.pf0Read bar off = (s.pf0Reg bar off, s) := by
  simp [State.pf0Read, hsnap, hpart]

theorem readBar0_of_stopped {s : State} {o d : Nat} (hd : blockDomain o = some d) (hstop : s.inRun d = false) :
    s.readBar0 o = (some 0, { s with err.stopped := s.err.stopped + 1 }) := by
  simp [State.readBar0, hd, hstop]

/-- A dword whose block runs, outside the debugger's registers and the mailboxes. -/
theorem readBar0_of_running {s : State} {o : Nat} (hrun : ∀ d, blockDomain o = some d → s.inRun d = true) (hdebug : o / 65536 ≠ 13)
    (hmbox : o / 65536 ≠ 3) (hfree : freeReg 0 o = false) : s.readBar0 o = (some (s.pf0Read 0 o).1, (s.pf0Read 0 o).2) := by
  have hstop : (match blockDomain o with | some d => !s.inRun d | none => false) = false := by
    cases hd : blockDomain o with
    | none => rfl
    | some d => simp [hrun d hd]
  have hno : ¬(0x30040 ≤ o ∧ o < 0x30080 ∧ o % 16 = 0) := by omega
  refine (if_neg ((Bool.not_eq_true _).mpr hstop)).trans ?_
  simp only [hdebug, hno, hfree, false_and, if_false, Bool.false_eq_true]

theorem manifest_block {off : Nat} (h : off < 0x10000) :
    blockDomain off = none ∧ macSet off = none ∧ freeReg 0 off = false ∧ rsPartners 0 off = [] := by
  have hblock : off / 65536 = 0 := Nat.div_eq_of_lt h
  have hset : macSet off = none := by
    have hlt : off / 0x4000 < 4 := by omega
    unfold macSet
    interval_cases off / 0x4000 <;> rfl
  refine ⟨by simp [blockDomain, hblock], hset, ?_, ?_⟩
  · simp only [freeReg, Bool.and_eq_false_iff, Bool.or_eq_false_iff, beq_eq_false_iff_ne]
    omega
  · have hlist : off ∉ [0x50010, 0x60010, 0x60018, 0x60028, 0x80010, 0x80018, 0x80020, 0x80028, 0x84010, 0xF000C, 0xF0018] := by
      simp only [List.mem_cons, List.not_mem_nil, or_false, not_or]
      omega
    simp only [rsPartners, hset, hlist, if_false]
    rw [if_neg (by decide), if_neg (by omega), if_neg (by omega), if_neg (by omega), if_neg (by omega)]

theorem readDw_manifest {s : State} {off : Nat} (h : off < 0x10000) (hsnap : s.snap = []) :
    s.readDw .pf0 0 off = (some (manifestReg off), s) := by
  obtain ⟨hblock, -, hfree, hpart⟩ := manifest_block h
  have hdiv : off / 65536 = 0 := Nat.div_eq_of_lt h
  have hread := pf0Read_of_held (s := s) (bar := 0) (off := off) (by simp [hsnap]) hpart
  have hreg : s.pf0Reg 0 off = manifestReg off := by simp [State.pf0Reg, State.bar0Reg, hdiv, Nat.mod_eq_of_lt h]
  change s.readBar0 off = _
  rw [readBar0_of_running (by simp [hblock]) (by omega) (by omega) hfree, hread, hreg]

theorem writeBar0_of_stopped {s : State} {o d v be : Nat} (hlink : s.linkReady = true) (hd : blockDomain o = some d)
    (hstop : s.inRun d = false) : s.writeBar0 o v be = { s with err.stopped := s.err.stopped + 1 } := by
  by_cases h4 : d = 4 <;> simp_all [State.writeBar0, State.dbgWrite, State.inBlock]

theorem blockDomain_debug {off : Nat} (hlo : 0xD0000 ≤ off) (hhi : off < 0xE0000) : off / 65536 = 13 ∧ blockDomain off = some 4 := by
  have h : off / 65536 = 13 := by omega
  exact ⟨h, by simp [blockDomain, h]⟩

/-- Octet `k` of the merge is the new one where its byte enable is set, else the old one (R10). -/
theorem octet_mergeBe (old v be : Nat) {k : Nat} (hk : k < 4) :
    mergeBe old v be / 256 ^ k % 256 = if bit be k then v / 256 ^ k % 256 else old / 256 ^ k % 256 := by
  have hpick : (if bit be k then v / 256 ^ k % 256 else old / 256 ^ k % 256) = (if bit be k then v else old) / 256 ^ k % 256 := by
    split <;> rfl
  have hsum : mergeBe old v be =
      (if bit be 0 then v else old) % 256 + 256 * ((if bit be 1 then v else old) / 256 % 256 +
        256 * ((if bit be 2 then v else old) / 65536 % 256 + 256 * ((if bit be 3 then v else old) / 16777216 % 256))) := by
    simp [mergeBe, leNat, List.range_succ]
  rw [hpick, hsum]
  interval_cases k <;> simp only [Nat.reducePow]
  all_goals
    generalize (if bit be 0 then v else old) = w0
    generalize (if bit be 1 then v else old) = w1
    generalize (if bit be 2 then v else old) = w2
    generalize (if bit be 3 then v else old) = w3
    omega

/-- Settles O27: what a read of the register spaces returns and leaves, and what a write changes. -/
theorem registerSpacesReadAndWrite : Obligations.RegisterSpacesReadAndWrite := by
  unfold Obligations.RegisterSpacesReadAndWrite
  refine ⟨?manifest, ?manifestPair, ?pairMisaligned, ?writeMisaligned, ?writePairStopped, ?readStopped, ?debugRead, ?debugWrite,
    ?writeStopped, ?writeManifest, ?timeNow, ?timeTaken, ?nodeSel, ?octet, ?rw1c, ?absentWrite, ?absentRead, ?lode, ?secIndex⟩
  case manifest =>
    intro s off hlink hoff halign hsnap
    rw [registerRead_of_dword hlink (hoff.trans (by decide)) halign, readDw_manifest hoff hsnap, readEnd_of_value]
  case manifestPair =>
    intro s off hlink hoff halign hsnap
    rw [registerRead_of_pair hlink (hoff.trans (by decide)) halign, readDw_manifest hoff hsnap]
    dsimp only
    rw [readDw_manifest (by omega) hsnap]
    simp [State.readEnd, State.emit]
  case pairMisaligned =>
    intro s off hlink hoff halign
    have hdown : off / 4 * 4 = off := by omega
    have hsize : off < barSize .pf0 0 := hoff
    change execRegisterRead .pf0 0 ⟨off, true⟩ s = _
    simp [execRegisterRead, hlink, hdown, Nat.not_le.2 hsize, halign, State.badAccess, State.violFn]
  case writeMisaligned =>
    intro s off v be w f hlink hoff halign
    have hdown : off / 4 * 4 = off := by omega
    have hsize : off < barSize .pf0 0 := hoff
    have hform : accessOk 0 off 8 true = false := accessOk_eq_false (by omega) (by simp)
    change execRegisterWrite .pf0 0 off v ⟨be, [(w, f)]⟩ s = _
    simp [execRegisterWrite, hlink, hdown, Nat.not_le.2 hsize, hform, State.badAccess, State.violFn]
  case writePairStopped =>
    intro s off v be w f d hlink hoff halign hd hd' hstop
    have hdown : off / 4 * 4 = off := by omega
    have hsize : off < barSize .pf0 0 := hoff
    have hform : accessOk 0 off 8 true = true := by simp [accessOk, halign]
    have hfirst : s.writeDw .pf0 0 off v.toNat be = { s with err.stopped := s.err.stopped + 1 } := writeBar0_of_stopped hlink hd hstop
    have hsecond : State.writeDw { s with err.stopped := s.err.stopped + 1 } .pf0 0 (off + 4) w.toNat f =
        { s with err.stopped := s.err.stopped + 1 + 1 } := writeBar0_of_stopped hlink hd' hstop
    change execRegisterWrite .pf0 0 off v ⟨be, [(w, f)]⟩ s = _
    simp only [execRegisterWrite, hlink, hdown, Nat.not_le.2 hsize, List.length_singleton, Nat.reduceAdd, Nat.reduceMul, hform,
      State.writeMore]
    rw [hfirst, hsecond]
    rfl
  case readStopped =>
    intro s off d hlink hoff halign hd hstop
    rw [registerRead_of_dword hlink hoff halign]
    simp only [State.readDw, if_true, readBar0_of_stopped hd hstop, readEnd_of_value]
    rfl
  case debugRead =>
    intro s off hlink hlo hhi halign hrun hopen
    obtain ⟨hdiv, hblock⟩ := blockDomain_debug hlo hhi
    have hread : s.readBar0 off = (none, s.violPf0 5 0 off) := by simp [State.readBar0, hblock, hrun, hdiv, hopen]
    rw [registerRead_of_dword hlink (hhi.trans (by decide)) halign]
    simp only [State.readDw, if_true, hread]
    rfl
  case debugWrite =>
    intro s off v be hlink hlo hhi halign hrun hopen
    obtain ⟨-, hblock⟩ := blockDomain_debug hlo hhi
    rw [registerWrite_of_dword hlink (hhi.trans (by decide)) halign]
    simp only [State.writeDw, State.writeBar0, hblock, if_true, dbgWrite_of_closed hlink hrun hopen]
  case writeStopped =>
    intro s off v be d hlink hoff halign hd hstop
    rw [registerWrite_of_dword hlink hoff halign]
    simp only [State.writeDw, if_true, writeBar0_of_stopped hlink hd hstop]
  case writeManifest =>
    intro s off v be hlink hoff halign
    obtain ⟨hblock, -⟩ := manifest_block hoff
    have hdiv : off / 65536 = 0 := Nat.div_eq_of_lt hoff
    rw [registerWrite_of_dword hlink (hoff.trans (by decide)) halign]
    simp [State.writeDw, State.writeBar0, hblock, State.bar0Write, hdiv]
  case timeNow =>
    intro s hlink hrun hsnap
    have hpart : rsPartners 0 0x60000 = [0x60004, 0x60008, 0x6000C] := by decide
    have hall : ∀ d, blockDomain 0x60000 = some d → s.inRun d = true := by
      intro d hd
      obtain rfl := Option.some.inj hd
      exact hrun
    have hread := readBar0_of_running hall (by decide) (by decide) (by decide)
    rw [Completes, registerRead_of_dword hlink (by decide) (by decide)]
    simp only [State.readDw, if_true, hread, readEnd_of_value]
    refine ⟨_, rfl, ?_⟩
    simp [State.pf0Read, hsnap, hpart, snapKey, State.pf0Reg, State.bar0Reg, State.timeReg, KMap.put, KMap.find]
  case timeTaken =>
    intro s v hlink hrun htaken
    have hpart : rsPartners 0 0x60004 = [] := by decide
    have hall : ∀ d, blockDomain 0x60004 = some d → s.inRun d = true := by
      intro d hd
      obtain rfl := Option.some.inj hd
      exact hrun
    have hread := readBar0_of_running hall (by decide) (by decide) (by decide)
    rw [registerRead_of_dword hlink (by decide) (by decide)]
    simp only [State.readDw, if_true, hread, readEnd_of_value]
    simp [State.pf0Read, htaken, hpart, snapKey]
  case nodeSel =>
    intro s v be hlink hrun hbe hsel
    rw [registerWrite_of_dword hlink (by decide) (by decide)]
    have hmerge : s.mergeReg 0xA0010 = s.sched.nodeSel := rfl
    simp [State.writeDw, State.writeBar0, blockDomain, State.inBlock, hlink, hrun, State.bar0Write, State.schedWrite, hmerge]
  case octet =>
    intro old v be k hk hbe
    exact octet_mergeBe old v be hk
  case rw1c =>
    intro s v hlink
    have hwrite : s.writeDw .pf0 0 0x22000 v.toNat 15 =
        { s with evt.cause := maskOf 23 (fun b => bit s.evt.cause b && !bit (mergeBe 0 v.toNat 15) b) } := rfl
    rw [Completes, registerWrite_of_dword hlink (by decide) (by decide), hwrite]
    refine ⟨_, rfl, fun b hb => ?_, rfl⟩
    rw [mergeBe_full 0 v.isLt, bit_maskOf, decide_eq_true hb, Bool.true_and]
  case absentWrite =>
    intro s i o v be hlink hi ho halign habsent
    have hoff : i * 0x1000 + o < 0x200000 := by omega
    have hinst : (i * 0x1000 + o) / 0x1000 = i := by omega
    rw [registerWrite_of_dword hlink (hoff.trans (by decide)) (by omega)]
    simp [State.writeDw, State.bar2Write, hoff, hinst, habsent]
  case absentRead =>
    intro s i o hlink hi ho halign habsent hsnap
    have hoff : i * 0x1000 + o < 0x200000 := by omega
    have hinst : (i * 0x1000 + o) / 0x1000 = i := by omega
    rw [Completes, registerRead_of_dword hlink (hoff.trans (by decide)) (by omega)]
    have hzero : (s.pf0Read 2 (i * 0x1000 + o)).1 = 0 := by
      simp [State.pf0Read, hsnap, State.pf0Reg, State.bar2Reg, hoff, hinst, habsent]
    simp only [State.readDw, OfNat.ofNat_ne_zero, if_false, hzero, readEnd_of_value]
    exact ⟨_, rfl, rfl, rfl⟩
  case lode =>
    intro s hlink hloaded
    rw [registerRead_of_dword hlink (by decide) (by decide)]
    simp [State.readDw, State.pf1Reg, hloaded, readEnd_of_value, b2n]
  case secIndex =>
    intro s hlink
    rw [registerRead_of_dword hlink (by decide) (by decide)]
    simp [State.readDw, State.pf1Reg, readEnd_of_value]

end Sys2Proof.Machine

/-!
The ring plane of ports C and D: reception, the duplicate window, the interlink, supervision, peer delay and egress (chapter 02).
-/

namespace Sys2Proof.Machine

open Sys2Proof

/-! ### A port's MAC -/

@[simp] theorem mac_setMac_same (s : State) (p : Port) (m : Mac) : (s.setMac p m).mac p = m := by cases p <;> rfl

@[simp] theorem setMac_setMac (s : State) (p : Port) (m n : Mac) : (s.setMac p m).setMac p n = s.setMac p n := by cases p <;> rfl

@[simp] theorem setMac_ring (s : State) (p : Port) (m : Mac) : (s.setMac p m).ports.ring = s.ports.ring := by cases p <;> rfl

@[simp] theorem stat_ring (s : State) (p : Port) (k n : Nat) : (s.stat p k n).ports.ring = s.ports.ring := by
  simp only [State.stat]
  split <;> simp

@[simp] theorem statGood_ring (s : State) (p : Port) (b : Bytes) (tx : Bool) : (s.statGood p b tx).ports.ring = s.ports.ring := by
  simp only [State.statGood]
  (repeat' split) <;> simp

@[simp] theorem ringNote_ring (s : State) (p : Port) (b : Bytes) : (s.ringNote p b).ports.ring = s.ports.ring := by
  simp only [State.ringNote]
  (repeat' split) <;> simp

/-! ### The duplicate window (R38) -/

theorem decide_of_ahead {e : NodeEntry} {x : Nat} {q : BitVec 16} (h1 : 1 ≤ (q - e.high.getD x 0).toNat)
    (h2 : (q - e.high.getD x 0).toNat ≤ 32767) :
    e.decide_ x q = (true, false, { e with
      high := e.high.set x q
      map := e.map.set x (if 64 ≤ (q - e.high.getD x 0).toNat then 1 else (e.map.getD x 0 <<< (q - e.high.getD x 0).toNat) ||| 1) }) :=
  if_pos ⟨h1, h2⟩

theorem not_ahead_of_behind {q h : BitVec 16} (hb : (h - q).toNat ≤ 63) : ¬(1 ≤ (q - h).toNat ∧ (q - h).toNat ≤ 32767) := by
  bv_omega

theorem decide_of_seen {e : NodeEntry} {x : Nat} {q : BitVec 16} (hb : (e.high.getD x 0 - q).toNat ≤ 63)
    (hseen : (e.map.getD x 0).getLsbD (e.high.getD x 0 - q).toNat = true) : e.decide_ x q = (false, false, e) := by
  simp only [NodeEntry.decide_, not_ahead_of_behind hb, hb, hseen, if_false, if_true]

/-- The number that moved the window on is the last one seen. -/
theorem getLsbD_zero_moved (m : W64) (n : Nat) : (if 64 ≤ n then 1 else (m <<< n) ||| 1 : W64).getLsbD 0 = true := by
  split <;> simp

/-! ### Reception -/

theorem statFec_of_none {s : State} {p : Port} (h : (s.mac p).fec ≠ 1) (i : RxInfo) : s.statFec p i = s := if_neg h

theorem statPmac_of_disabled {s : State} {p : Port} (h : (s.mac p).preemptEn = false) (i : RxInfo) : s.statPmac p i = s := by
  simp [State.statPmac, h]

theorem ringPass_of_own {s : State} {b : Bytes} (h : s.ringOwn b = true) (p : Port) (inner : Bytes) (q : Option (BitVec 16))
    (cut ptp : Bool) : s.ringPass p b inner q cut ptp = s.stat p 56 1 := if_pos h

/-- A frame that is no pause frame, on a ring port of an HSR node without preemption, takes the ring's way. -/
theorem ringFrameRx_of_hsr {s : State} {p : Port} {b : Bytes} {i : RxInfo} (hring : isRing p = true) (hrecv : s.receives p = true)
    (hverify : i.verify = none) (hpmac : i.pmac = 0) (hpre : (s.mac p).preemptEn = false) (hfec : (s.mac p).fec ≠ 1)
    (hmode : s.ports.ring.mode = 1) (hpause : ¬(isPause b = true ∧ rxGood b i = true)) :
    exec (.ringFrameRx p b i) s = .next (s.ringRx p b i) := by
  have hplain : s.plain p = false := by simp [State.plain, hring, hmode]
  change execRingFrameRx p b i s = _
  simp only [execRingFrameRx, hring, hrecv, statFec_of_none hfec, hverify, hplain, statPmac_of_disabled hpre, hpmac, hpause]
  simp

theorem ringFrameRx_of_respond {s : State} {p : Port} {b : Bytes} {i : RxInfo} (hring : isRing p = true) (hrecv : s.receives p = true)
    (hfec : (s.mac p).fec ≠ 1) (hverify : i.verify = some true) (hpreempt : (s.mac p).preempt = 1) :
    exec (.ringFrameRx p b i) s = .next (s.setMac p { s.mac p with preempt := 2 }) := by
  change execRingFrameRx p b i s = _
  simp [execRingFrameRx, hring, hrecv, statFec_of_none hfec, hverify, hpreempt]

/-! ### The node's own frames: supervision, verification and peer delay -/

theorem preemptVerifyTx_of_due {s : State} {p : Port} (hring : isRing p = true) (hrun : s.inRun 1 = true)
    (hpreempt : (s.mac p).preempt = 1) (hdue : (s.mac p).verifyTries = 0 ∨ (s.mac p).verifyAt + (s.mac p).verifyTime * msTicks ≤ s.now) :
    exec (.preemptVerifyTx p) s = .next (if 3 ≤ (s.mac p).verifyTries then s.setMac p { s.mac p with preempt := 3 } else
      ((s.setMac p { s.mac p with verifyTries := (s.mac p).verifyTries + 1, verifyAt := s.now }).stat p 45 1).emit
        (.mPacket p false)) := by
  have hdue : (isRing p && s.inRun 1 && (s.mac p).preempt == 1 &&
      ((s.mac p).verifyTries == 0 || s.elapsed (s.mac p).verifyAt ((s.mac p).verifyTime * msTicks))) = true := by
    rcases hdue with h | h <;> simp [hring, hrun, hpreempt, State.elapsed, h]
  change execPreemptVerifyTx p s = _
  simp only [execPreemptVerifyTx, hdue, Bool.not_true, Bool.false_eq_true, if_false]
  split <;> rfl

/-- The frame by which port C asks for the peer's delay. -/
def pdelayRequest (nodeMac seq : Nat) : PortFrame :=
  { body := ptpMessage ptpPeerMac nodeMac ptpPdelayReq 0 0 0 (portIdentity .c) seq 0 (zeros 20), kind := .express, own := true }

/-- What a request leaves of a port's peer-delay record. -/
def RingDelay.asked (d : RingDelay) : RingDelay :=
  let n := if d.t1.isSome then d.misses + 1 else d.misses
  { d with seq := (d.seq + 1) % 65536, misses := n, valid := d.valid && decide (n < 3), t1 := none, t4 := none }

/-- With link on port C alone one request leaves. -/
theorem ringPdelayTx_of_c {s : State} {d : RingDelay} {ds : List RingDelay} (hrun : s.inRun 1 = true)
    (htagged : s.ringTagged = true) (hmac : s.ports.ring.nodeMac ≠ 0) (hat : s.ports.ring.pdelayAt = 0)
    (hc : s.ports.c.linkUp = true) (hd : s.ports.d.linkUp = false) (hdelay : s.ports.ring.delay = d :: ds) :
    exec .ringPdelayTx s = .next { s with
      ports.ring.pdelayAt := s.now, ports.ring.delay := d.asked :: ds
      ports.c.express := s.ports.c.express ++ [pdelayRequest s.ports.ring.nodeMac ((d.seq + 1) % 65536)] } := by
  change execRingPdelayTx s = _
  simp [execRingPdelayTx, State.pdelayActive, hrun, htagged, hmac, hat, State.mac, hc, hd, State.updDelay, hdelay, winIdx,
    State.sendExpress, State.setMac, RingDelay.asked, pdelayRequest]

theorem length_leBytes (n v : Nat) : (leBytes n v).length = n := by
  induction n generalizing v with
  | zero => rfl
  | succ n ih => simp [leBytes, ih]

theorem length_beBytes (n v : Nat) : (beBytes n v).length = n := by simp [beBytes, length_leBytes]

theorem slice_of_append {a b c : Bytes} {off n : Nat} (ha : a.length = off) (hb : b.length = n) : slice (a ++ b ++ c) off n = b := by
  subst ha hb
  simp [slice]

theorem beAt_of_append {a c : Bytes} {off n v : Nat} (ha : a.length = off) :
    beAt (a ++ beBytes n v ++ c) off n = beNat (beBytes n v) := by
  rw [beAt, slice_of_append ha (length_beBytes n v)]

theorem parse_etype_of_untagged {b : Bytes} {et : Nat} (h : beAt b 12 2 = et) (h1 : et ≠ 0x88A8) (h2 : et ≠ 0x8100) (h3 : et ≠ etHsr) :
    (parse b).etype = et ∧ (parse b).etOff = 12 := by
  have hvl : vlanTags b = [] := by simp [vlanTags, h, h1, h2]
  simp [parse, hvl, h, h3]

theorem beAt_ptpMessage (dst src typ domain flags : Nat) (corr : Int) (sender seq logInt : Nat) (body : Bytes) :
    beAt (ptpMessage dst src typ domain flags corr sender seq logInt body) 12 2 = etPtp := by
  simp only [ptpMessage, List.append_assoc]
  rw [← List.append_assoc (beBytes 6 dst), ← List.append_assoc, beAt_of_append (by simp [length_beBytes])]
  decide

/-- A PTP message of the adapter is recognised as one, at octet 14, and shows its type. -/
theorem ptpOff_ptpMessage (dst src typ domain flags : Nat) (corr : Int) (sender seq logInt : Nat) (body : Bytes) :
    ptpOff (ptpMessage dst src typ domain flags corr sender seq logInt body) = some 14 := by
  obtain ⟨het, hoff⟩ := parse_etype_of_untagged
    (beAt_ptpMessage dst src typ domain flags corr sender seq logInt body) (by decide) (by decide) (by decide)
  simp [ptpOff, het, hoff]

theorem ptpType_ptpMessage (dst src domain flags : Nat) (corr : Int) (sender seq logInt : Nat) (body : Bytes) {typ : Nat}
    (htyp : typ < 16) : ptpType (ptpMessage dst src typ domain flags corr sender seq logInt body) 14 = typ := by
  simp [ptpType, byteAt, ptpMessage, length_beBytes, List.getElem?_append]
  omega

/-! ### The interlink (R35, R36) -/

/-- Both ring ports of an HSR or PRP node take the frame at the interlink's head with the next number. -/
theorem interlinkTx_of_head {s : State} {f : PortFrame} {fs : List PortFrame} (hil : s.ports.ring.il = f :: fs)
    (hrun : s.inRun 1 = true) (hrun5 : s.inRun 5 = true) (hhove : s.hove = false) (htagged : s.ringTagged = true)
    (hlen : f.body.length + 10 ≤ 9216) (hlinks : s.ringLinks ≠ []) :
    exec .interlinkTx s = .next (State.ilSend { s with ports.ring.il := fs } f s.ringLinks) := by
  have hopen : s.interlinkOpen = true := by simp [State.interlinkOpen, hrun5, hhove]
  change execInterlinkTx s = _
  simp [execInterlinkTx, hil, hrun, hopen, htagged, Nat.not_lt.2 hlen, hlinks]

theorem proxyLearn_of_no_redbox {s : State} (h : s.ports.ring.redbox = false) (a : Nat) : s.proxyLearn a = (false, s) := by
  simp [State.proxyLearn, h]

theorem ringNextSeq_of_hsr {s : State} (h : s.ports.ring.mode = 1) (dst : Nat) :
    s.ringNextSeq dst = (s.ports.ring.hsrSeq, false, { s with ports.ring.hsrSeq := s.ports.ring.hsrSeq + 1 }) := if_pos h

/-! ### Egress (R45) -/

theorem ringEgressSelect_of_idle {s : State} {p : Port} (hring : isRing p = true) (htx : (s.mac p).tx = none)
    (hmay : s.mayStart p = true) : exec (.ringEgressSelect p 0) s = .next (s.egressNext p) := by
  change execRingEgressSelect p 0 s = _
  simp [execRingEgressSelect, hring, htx, hmay]

/-- A frame without time stamps, origin or PTP message starts on a ring port as it is. -/
theorem portStart_of_plain {s : State} {p : Port} {f : PortFrame} (hring : isRing p = true) (hin : f.ringIn = none)
    (htime : f.timeIn = none) (hreflex : f.reflex = none) (horigin : f.origin = none) (hptp : ptpOff f.body = none) :
    s.portStart p f = s.setMac p { s.mac p with tx := some { f := f } } := by
  have hegress : (if f.own then s.ptpEgress p f else (f, s)) = (f, s) := by simp [State.ptpEgress, hptp]
  have hloop : s.loopMode p = 0 := by cases p <;> simp [isRing] at hring <;> rfl
  simp only [State.portStart, hegress, hin, htime, State.reflexStart, hreflex, horigin, hloop, Option.isSome_none, Bool.false_and]
  cases f
  dsimp only at hin htime hreflex horigin
  subst hin htime hreflex horigin
  rfl

/-- Settles O28: what the ring plane does with a frame it receives, and which frame it sends next. -/
theorem ringPlaneDecidesAndForwards : Obligations.RingPlaneDecidesAndForwards := by
  unfold Obligations.RingPlaneDecidesAndForwards
  refine ⟨?ahead, ?seen, ?outOfWindow, ?hsr, ?own, ?plain, ?fec, ?respond, ?verify, ?interlink, ?oversize, ?noFrame, ?supervision,
    ?supervisionUnlinked, ?supervisionEarly, ?verifyFailed, ?verifyFirst, ?pdelayUnlinked, ?pdelay, ?express, ?held, ?forwarded, ?host⟩
  case ahead =>
    intro e x q hx hhigh hmap h1 h2
    have hx' : x < e.high.length := by omega
    have hx'' : x < e.map.length := by omega
    rw [decide_of_ahead h1 h2]
    generalize (q - e.high.getD x 0).toNat = n at *
    refine ⟨rfl, rfl, by simp [hx'], ?_⟩
    rw [decide_of_seen (by simp [hx'])]
    simpa [hx', hx''] using getLsbD_zero_moved (e.map.getD x 0) n
  case seen =>
    intro e x q hb hseen
    exact decide_of_seen hb hseen
  case outOfWindow =>
    intro e x q hb ha
    simp only [NodeEntry.decide_, Nat.not_le.2 hb, Nat.not_le.2 ha, and_false, if_false]
  case hsr =>
    intro s p b i hring hrecv hverify hpmac hpre hfec hmode hpause
    exact ringFrameRx_of_hsr hring hrecv hverify hpmac hpre hfec hmode hpause
  case own =>
    intro s p b inner q cut ptp hown
    exact ringPass_of_own hown p inner q cut ptp
  case plain =>
    intro s p b i hring hrecv hverify hfec hmode
    have hplain : s.plain p = true := by simp [State.plain, hmode]
    change execRingFrameRx p b i s = _
    simp [execRingFrameRx, hring, hrecv, statFec_of_none hfec, hverify, hplain]
  case fec =>
    intro s p b i hring hrecv hverify hfec hmode
    have hplain : ((s.stat p 10 i.fecCorr).stat p 11 i.fecUncorr).plain p = true := by simp [State.plain, hmode]
    change execRingFrameRx p b i s = _
    simp [execRingFrameRx, hring, hrecv, State.statFec, hfec, hverify, hplain]
  case respond =>
    intro s p b i hring hrecv hverify hfec hpreempt
    exact ringFrameRx_of_respond hring hrecv hfec hverify hpreempt
  case verify =>
    intro s p b i hring hrecv hverify hfec hmode
    change execRingFrameRx p b i s = _
    simp [execRingFrameRx, hring, hrecv, statFec_of_none hfec, hverify, hmode, State.emit]
  case interlink =>
    intro s f fs hil hrun hrun5 hhove hmode hredbox hlen hc hd
    have hlinks : s.ringLinks = [.c, .d] := by simp [State.ringLinks, State.mac, hc, hd]
    rw [interlinkTx_of_head hil hrun hrun5 hhove (by simp [State.ringTagged, hmode]) hlen (by simp [hlinks]), hlinks]
    simp [State.ilSend, proxyLearn_of_no_redbox, hredbox, ringNextSeq_of_hsr, hmode, State.ilNextId, State.ilCopy, State.setMac,
      State.mac, State.ringTag, State.sharedCount]
  case oversize =>
    intro s f fs hil hrun hrun5 hhove hmode hlen horigin
    change execInterlinkTx s = _
    simp [execInterlinkTx, hil, hrun, State.interlinkOpen, hrun5, hhove, State.ringTagged, hmode, hlen, State.ilRefuse, State.ilDrop,
      State.originEnd, horigin]
  case noFrame =>
    intro s hil
    change execInterlinkTx s = _
    simp [execInterlinkTx, hil]
  case supervision =>
    intro s
    dsimp only
    intro hrun hmode hsup hmac hfirst hc hd
    change execSupervisionTx _ s = _
    simp [execSupervisionTx, hrun, State.ringTagged, hmode, hsup, hmac, hfirst, State.ringLinks, State.mac, hc, hd, ringNextSeq_of_hsr,
      State.sharedCount, State.sendExpress, State.setMac, State.ringTag]
  case supervisionUnlinked =>
    intro s
    dsimp only
    intro hrun hmode hsup hmac hfirst hc hd
    change execSupervisionTx _ s = _
    simp [execSupervisionTx, hrun, State.ringTagged, hmode, hsup, hmac, hfirst, State.ringLinks, State.mac, hc, hd]
  case supervisionEarly =>
    intro s a t hlast hearly
    change execSupervisionTx a s = _
    simp [execSupervisionTx, hlast, State.elapsed, Nat.not_le.2 hearly]
  case verifyFailed =>
    intro s p hring hrun hpreempt htries hlate
    rw [preemptVerifyTx_of_due hring hrun hpreempt (.inr hlate), if_pos (by omega)]
  case verifyFirst =>
    intro s p hring hrun hpreempt htries
    rw [preemptVerifyTx_of_due hring hrun hpreempt (.inl htries), if_neg (by omega), htries]
  case pdelayUnlinked =>
    intro s hrun hmode hmac hat hc hd
    change execRingPdelayTx s = _
    simp [execRingPdelayTx, State.pdelayActive, hrun, State.ringTagged, hmode, hmac, hat, State.mac, hc, hd]
  case pdelay =>
    intro s hrun hmode hmac hat hc hd hlen
    obtain ⟨d, ds, hdelay⟩ := List.exists_cons_of_length_pos hlen
    have hsent := ringPdelayTx_of_c hrun (by simp [State.ringTagged, hmode]) hmac hat hc hd hdelay
    refine ⟨_, hsent, ⟨_, rfl, ptpOff_ptpMessage .., ptpType_ptpMessage _ _ _ _ _ _ _ _ _ (by decide), rfl⟩, rfl, rfl, ?_⟩
    simp [hdelay, RingDelay.asked]
  case express =>
    intro s p f fs hring htx hmay hexpress
    rw [ringEgressSelect_of_idle hring htx hmay]
    simp only [State.egressNext, hexpress]
  case held =>
    intro s p h hring htx hmay hexpress hheld
    rw [ringEgressSelect_of_idle hring htx hmay]
    simp only [State.egressNext, hexpress, hheld]
  case forwarded =>
    intro s p f fs hring htx hmay hexpress hheld hforwarded
    rw [ringEgressSelect_of_idle hring htx hmay]
    simp only [State.egressNext, hexpress, hheld, hforwarded]
  case host =>
    intro s p f fs hring htx hmay hexpress hheld hforwarded hhost
    rw [ringEgressSelect_of_idle hring htx hmay]
    simp only [State.egressNext, hexpress, hheld, hforwarded, hhost]

/-- Settles O29: the forms of the ring plane that complete. -/
theorem ringFormsComplete : Obligations.RingFormsComplete := by
  unfold Obligations.RingFormsComplete
  refine ⟨?respond, ?fragment, ?own, ?runt, ?oneLink, ?prp, ?supervision, ?verify, ?express, ?host, ?nothing, ?pdelay⟩
  case respond =>
    intro s p b i hring hrecv hfec hverify hpreempt
    exact ringFrameRx_of_respond hring hrecv hfec hverify hpreempt
  case fragment =>
    intro s p b i hring hrecv hfec hverify hpmac hmode hpre
    have hplain : s.plain p = false := by simp [State.plain, hring, hmode]
    change execRingFrameRx p b i s = _
    simp [execRingFrameRx, hring, hrecv, statFec_of_none hfec, hverify, hplain, State.statPmac, hpre, hpmac]
  case own =>
    intro s p b i hring hrecv hfec hverify hpmac hpre hmode hsrc hmac hgood hpause hptp
    have hown : ((s.statGood p b false).ringNote p b).ringOwn b = true := by
      simp [State.ringOwn, hmode, RingPlane.ours, hsrc, hmac]
    rw [ringFrameRx_of_hsr hring hrecv hverify hpmac hpre hfec hmode (by simp [hpause])]
    simp only [State.ringRx, hgood, hptp, ringPass_of_own hown]
    rfl
  case runt =>
    intro s p b i hring hrecv hfec hverify hpmac hpre hmode hlen
    have hbad : rxGood b i = false := by simp [rxGood, Nat.not_le.2 hlen]
    rw [ringFrameRx_of_hsr hring hrecv hverify hpmac hpre hfec hmode (by simp [hbad])]
    simp [State.ringRx, hbad, State.statBad, hlen]
  case oneLink =>
    intro s f fs hil hrun hrun5 hhove hmode hredbox hlen hc hd
    have hlinks : s.ringLinks = [.c] := by simp [State.ringLinks, State.mac, hc, hd]
    rw [interlinkTx_of_head hil hrun hrun5 hhove (by simp [State.ringTagged, hmode]) hlen (by simp [hlinks]), hlinks]
    simp [State.ilSend, proxyLearn_of_no_redbox, hredbox, ringNextSeq_of_hsr, hmode, State.ilNextId, State.ilCopy, State.setMac,
      State.mac, State.ringTag, State.sharedCount]
  case prp =>
    intro s f fs n at_ hil hrun hrun5 hhove hmode hredbox hlen hc hd hseq
    have hlinks : s.ringLinks = [.c, .d] := by simp [State.ringLinks, State.mac, hc, hd]
    rw [interlinkTx_of_head hil hrun hrun5 hhove (by simp [State.ringTagged, hmode]) hlen (by simp [hlinks]), hlinks]
    simp [State.ilSend, proxyLearn_of_no_redbox, hredbox, State.ringNextSeq, hseq, hmode, State.ilNextId, State.ilCopy, State.setMac,
      State.mac, State.ringTag, State.sharedCount]
  case supervision =>
    intro s
    dsimp only
    intro hrun hmode hsup hmac hfirst hc hd
    change execSupervisionTx _ s = _
    simp [execSupervisionTx, hrun, State.ringTagged, hmode, hsup, hmac, hfirst, State.ringLinks, State.mac, hc, hd, ringNextSeq_of_hsr,
      State.sharedCount, State.sendExpress, State.setMac, State.ringTag]
  case verify =>
    intro s p hring hrun hpreempt htries hlate
    rw [preemptVerifyTx_of_due hring hrun hpreempt (.inr hlate), if_neg (by omega)]
  case express =>
    intro s p f fs hring htx hmay hexpress hin htime hreflex horigin hptp
    rw [ringEgressSelect_of_idle hring htx hmay]
    simp only [State.egressNext, hexpress]
    rw [portStart_of_plain hring hin htime hreflex horigin hptp, mac_setMac_same, setMac_setMac]
  case host =>
    intro s p f fs hring htx hmay hexpress hheld hforwarded hhost hin htime hreflex horigin hptp
    rw [ringEgressSelect_of_idle hring htx hmay]
    simp only [State.egressNext, hexpress, hheld, hforwarded, hhost]
    rw [portStart_of_plain hring hin htime hreflex horigin hptp, mac_setMac_same, setMac_setMac]
  case nothing =>
    intro s p hring htx hmay hexpress hheld hforwarded hhost
    rw [ringEgressSelect_of_idle hring htx hmay]
    simp only [State.egressNext, hexpress, hheld, hforwarded, hhost]
  case pdelay =>
    intro s d ds hrun hmode hmac hat hc hd hdelay ht1
    rw [ringPdelayTx_of_c hrun (by simp [State.ringTagged, hmode]) hmac hat hc hd hdelay]
    simp [RingDelay.asked, ht1, pdelayRequest]

end Sys2Proof.Machine

/-!
The ring plane's timers, its link and RING_CONFIG (R31, R36, R40, R50, R60 to R62, R69, R85).
-/

namespace Sys2Proof.Machine

open Sys2Proof

/-! ### Link changes (R31, R64) -/

theorem event_cause (s : State) (b : Nat) : (s.event b).evt.cause = s.evt.cause ||| 2 ^ b := by
  simp only [State.event]
  split <;> simp

theorem bit_event_cause (s : State) (b : Nat) : bit (s.event b).evt.cause b = true := by
  simp [event_cause, bit, Nat.testBit_or]

theorem linkChanged_of_change {s : State} {p : Port} {m : Mac} (h : (s.mac p).linkUp ≠ m.linkUp) :
    s.linkChanged p m = (s.setMac p { m with linkChange := true }).event (8 + p.num) := if_neg h

@[simp] theorem linkChanged_ring (s : State) (p : Port) (m : Mac) : (s.linkChanged p m).ports.ring = s.ports.ring := by
  simp only [State.linkChanged]
  split <;> simp

@[simp] theorem preemptStart_ring (s : State) (p : Port) : (s.preemptStart p).ports.ring = s.ports.ring := by
  simp only [State.preemptStart]
  split <;> simp

theorem setMac_ab {p : Port} (hring : isRing p = true) (s : State) (m : Mac) :
    (s.setMac p m).ports.a = s.ports.a ∧ (s.setMac p m).ports.b = s.ports.b := by
  cases p
  · exact absurd hring (by decide)
  · exact absurd hring (by decide)
  · exact ⟨rfl, rfl⟩
  · exact ⟨rfl, rfl⟩

theorem linkChanged_ab {p : Port} (hring : isRing p = true) (s : State) (m : Mac) :
    (s.linkChanged p m).ports.a = s.ports.a ∧ (s.linkChanged p m).ports.b = s.ports.b := by
  simp only [State.linkChanged]
  split <;> simp [setMac_ab hring]

theorem preemptStart_ab {p : Port} (hring : isRing p = true) (s : State) :
    (s.preemptStart p).ports.a = s.ports.a ∧ (s.preemptStart p).ports.b = s.ports.b := by
  simp only [State.preemptStart]
  split <;> exact setMac_ab hring _ _

/-! ### RING_CONFIG (R60 to R62) -/

/-- The configuration of a ring port leaves the ring plane and the other MACs as they are. -/
theorem ringPortConfig_keeps {p : Port} (hring : isRing p = true) (s : State) (d : Bytes) :
    (s.ringPortConfig p d).ports.ring = s.ports.ring ∧ (s.ringPortConfig p d).ports.a = s.ports.a ∧
      (s.ringPortConfig p d).ports.b = s.ports.b := by
  simp only [State.ringPortConfig]
  (repeat' split) <;> simp [setMac_ab hring, linkChanged_ab hring, preemptStart_ab hring]

/-- A good configuration of a mode other than AUTO takes its fields, and a new mode starts with empty tables. -/
theorem ringConfigBody_of_good {s : State} {c : Cmd} (hgood : ringConfigBad c.data = none) (hmode : byteAt c.data 0 ≠ 0) :
    ∃ u, ringConfigBody c s = Reply.ok u ∧
      u.ports.ring.mode = byteAt c.data 0 ∧ u.ports.ring.nodeMac = beAt c.data 12 6 ∧ u.ports.ring.forgetMs = leAt c.data 6 2 ∧
      u.ports.ring.supMs = leAt c.data 8 2 ∧ u.ports.ring.configured = true ∧ u.ports.ring.redbox = bit (byteAt c.data 1) 0 ∧
      (s.ports.ring.mode ≠ byteAt c.data 0 → u.ports.ring.nodes = [] ∧ u.ports.ring.proxies = [] ∧ u.ports.ring.prpSeq = []) ∧
      u.ports.a = s.ports.a ∧ u.ports.b = s.ports.b := by
  obtain ⟨hringC, haC, hbC⟩ := ringPortConfig_keeps (p := .c) rfl s c.data
  obtain ⟨hringD, haD, hbD⟩ := ringPortConfig_keeps (p := .d) rfl (s.ringPortConfig .c c.data) c.data
  simp only [ringConfigBody, hgood, hmode, false_and, if_false]
  refine ⟨_, rfl, rfl, rfl, rfl, rfl, rfl, rfl, fun hnew => ?_, haD.trans haC, hbD.trans hbC⟩
  have hchanged : (s.ports.ring.mode != byteAt c.data 0) = true := by simpa using hnew
  simp only [hringD, hringC, hchanged, if_true]
  split <;> exact ⟨rfl, rfl, rfl⟩

theorem swLogEntry_ports (s : State) (cause : Nat) (step : Int) (old : Nat) : (s.swLogEntry cause step old).ports = s.ports := by
  simp [State.swLogEntry]

theorem setQuality_ports (s : State) (q : Quality) (bound : Nat) : (s.setQuality q bound).ports = s.ports := rfl

theorem sourceLost_ports (s : State) : s.sourceLost.ports = s.ports := by
  unfold State.sourceLost State.changeSource State.holdover State.holdoverFrom
  dsimp only
  (repeat' split) <;> simp [swLogEntry_ports, setQuality_ports]

theorem bmca_ports (s : State) : s.bmca.ports = s.ports := (sourceLost_ports s.bmcaPorts).trans rfl

/-- Settles O30: the ring plane's timers, what a link change leaves, and RING_CONFIG. -/
theorem ringTimersLinkAndConfig : Obligations.RingTimersLinkAndConfig := by
  unfold Obligations.RingTimersLinkAndConfig
  refine ⟨?attempt, ?attemptNot, ?lockLoss, ?lockLossEarly, ?linkUp, ?linkDown, ?forget, ?forgetEarly, ?proxy, ?proxyEarly, ?prp,
    ?pending, ?ownSeen, ?ownSeenEarly, ?pll, ?config, ?configBad, ?configReflex⟩
  case attempt =>
    intro s p hring hrun hmode hlock hlost hdue
    change execRingAutoAttemptExpiry p s = _
    simp [execRingAutoAttemptExpiry, hring, hrun, hmode, hlock, hlost, State.elapsed, hdue]
  case attemptNot =>
    intro s p hnot
    change execRingAutoAttemptExpiry p s = _
    rcases hnot with h | h | h <;> simp [execRingAutoAttemptExpiry, State.elapsed, h, Nat.not_le.2]
  case lockLoss =>
    intro s p t hring hrun hmode hlost hdue
    change execRingLockLossTimeout p s = _
    simp [execRingLockLossTimeout, hring, hrun, hmode, hlost, State.elapsed, hdue]
  case lockLossEarly =>
    intro s p t hlost hearly
    change execRingLockLossTimeout p s = _
    simp [execRingLockLossTimeout, hlost, State.elapsed, Nat.not_le.2 hearly]
  case linkUp =>
    intro s hrun henable hmode hlock hlost hattempt hdown
    change ∃ t, execPortLinkChange .c true s = _ ∧ _
    simp only [execPortLinkChange, State.mac, portDomain, hrun, henable, hmode, hlock, hlost, hattempt]
    refine ⟨_, rfl, ?_⟩
    simp [attemptOf, linkChanged_of_change, State.mac, hdown, State.noteSignal, isRing, State.preemptStart, Port.num]
    split <;> simp [State.setMac, bit_event_cause, SameGrid, SameInst, SameRings]
  case linkDown =>
    intro s hrun henable hlock hup
    change ∃ t, execPortLinkChange .c false s = _ ∧ _
    simp only [execPortLinkChange, State.mac, portDomain, hrun, henable, hlock]
    refine ⟨_, rfl, ?_⟩
    simp [linkChanged_of_change, State.mac, hup, State.noteSignal, isRing, Mac.down, State.setMac, SameGrid, SameInst, SameRings]
  case forget =>
    intro s a e hfind hrun hdue
    change execNodeEntryForget a s = _
    simp [execNodeEntryForget, hfind, hrun, State.elapsed, hdue]
  case forgetEarly =>
    intro s a e hfind hearly
    change execNodeEntryForget a s = _
    simp [execNodeEntryForget, hfind, State.elapsed, Nat.not_le.2 hearly]
  case proxy =>
    intro s a t hfind hrun hdue
    change execProxyEntryExpiry a s = _
    simp [execProxyEntryExpiry, hfind, hrun, State.elapsed, hdue]
  case proxyEarly =>
    intro s a t hfind hearly
    change execProxyEntryExpiry a s = _
    simp [execProxyEntryExpiry, hfind, State.elapsed, Nat.not_le.2 hearly]
  case prp =>
    intro s a n t hfind hrun hdue
    change execPrpSeqCounterRelease a s = _
    simp [execPrpSeqCounterRelease, hfind, hrun, State.elapsed, hdue]
  case pending =>
    intro s
    change ∃ t, execTcPendingExpiry s = _ ∧ _
    refine ⟨_, rfl, ?_⟩
    simp [State.elapsed, SameInst, SameRings, SameBoard, SameHost, SameProc, Function.comp_def]
  case ownSeen =>
    intro s p t hown hdue
    change execOwnSeenTimeout p s = _
    simp [execOwnSeenTimeout, hown, State.elapsed, hdue]
  case ownSeenEarly =>
    intro s p t hown hearly
    change execOwnSeenTimeout p s = _
    simp [execOwnSeenTimeout, hown, State.elapsed, Nat.not_le.2 hearly]
  case pll =>
    intro s hrun
    exact congrArg Host.Outcome.next (if_pos hrun)
  case config =>
    intro s c
    dsimp only
    intro hready hgood hmode
    obtain ⟨u, hbody, hfields⟩ := ringConfigBody_of_good (s := s.opened { code := 0x0801 } c) hgood hmode
    refine ⟨u.bmca, answers_of rfl hready rfl ?_, ?_⟩
    · simp only [hbody]
      rfl
    · rw [bmca_ports]
      exact hfields
  case configBad =>
    intro s c o
    dsimp only
    intro hready hbad
    refine answers_of rfl hready rfl ?_
    simp only [ringConfigBody, hbad]
    rfl
  case configReflex =>
    intro s c
    dsimp only
    intro hready hgood hmode hreflex
    refine answers_of rfl hready rfl ?_
    simp only [ringConfigBody, hgood, hmode, hreflex, and_self, if_true]
    rfl

end Sys2Proof.Machine

/-!
The MACs: reception by the perfect filter, pause and its watchdog, the end of a frame, host writes and modules (R53 to R59, R64).
-/

namespace Sys2Proof.Machine

open Sys2Proof

theorem plainFrame_of_bad {s : State} {p : Port} {b : Bytes} {i : RxInfo} (hpre : (s.mac p).preemptEn = false) (hpmac : i.pmac = 0)
    (hbad : rxGood b i = false) : s.plainFrame p b i = s.statBad p b i := by
  simp [State.plainFrame, statPmac_of_disabled hpre, hpmac, hbad]

/-- Without PROMISC, MC_ALL and a matching entry only broadcasts are accepted (R53). -/
theorem accepts_of_unfiltered {m : Mac} {a : Nat} (hpromisc : m.promisc = false) (hall : m.mcAll = false)
    (hfilt : ∀ f ∈ m.filt, f ≠ (a, true)) : m.accepts a = isBroadcast a := by
  have hnone : m.filtered a = false := by
    rw [Mac.filtered, List.any_eq_false]
    rintro ⟨addr, valid⟩ hmem hmatch
    simp only [Bool.and_eq_true, beq_iff_eq] at hmatch
    exact hfilt _ hmem (by rw [hmatch.1, hmatch.2])
  simp [Mac.accepts, hpromisc, hall, hnone]

theorem inBlock_of_run {s : State} {d : Nat} (hlink : s.linkReady = true) (hrun : s.inRun d = true) (act : State → State) :
    s.inBlock d act = act s := by
  simp [State.inBlock, hlink, hrun]

theorem portDomain_of_ring {p : Port} (hring : isRing p = true) : portDomain p = 1 := by
  cases p
  · exact absurd hring (by decide)
  · exact absurd hring (by decide)
  · rfl
  · rfl

/-- Settles O31: what a MAC receives, sends and counts, and what the host writes to it. -/
theorem macsReceiveSendAndPause : Obligations.MacsReceiveSendAndPause := by
  unfold Obligations.MacsReceiveSendAndPause
  refine ⟨?receive, ?receiveFec, ?closed, ?bad, ?filtered, ?accepted, ?hove, ?filter, ?pause, ?pauseFrame, ?trip, ?tripNot, ?recover,
    ?recoverEarly, ?txEnd, ?txIdle, ?underrun, ?underrunLate, ?ctrlReject, ?ctrlRing, ?ctrlSame, ?filtCommit, ?statAll, ?statOne,
    ?modStart, ?modBusy, ?modDone, ?pins, ?pinsRing⟩
  case receive =>
    intro s p b i hrecv hplain hverify hloop hfec
    change execPortFrameRx p b i s = _
    simp [execPortFrameRx, hrecv, hplain, hverify, hloop, statFec_of_none hfec]
  case receiveFec =>
    intro s p b i hrecv hplain hverify hloop hfec
    change execPortFrameRx p b i s = _
    simp [execPortFrameRx, hrecv, hplain, hverify, hloop, State.statFec, hfec]
  case closed =>
    intro s p b i hclosed
    change execPortFrameRx p b i s = _
    rcases hclosed with h | h <;> simp [execPortFrameRx, h]
  case bad =>
    intro s p b i hpre hpmac hbad
    exact plainFrame_of_bad hpre hpmac hbad
  case filtered =>
    intro s p b hptp haccept
    simp [State.plainRx, hptp, haccept]
  case accepted =>
    intro s p b hptp haccept hring hhove hrun
    simp [State.plainRx, hptp, haccept, hring, hhove, hrun]
  case hove =>
    intro s p b hptp haccept hring hhove
    simp [State.plainRx, hptp, haccept, hring, hhove]
  case filter =>
    intro m a hpromisc hall hfilt
    exact accepts_of_unfiltered hpromisc hall hfilt
  case pause =>
    intro s p q
    dsimp only
    intro hhonours hignoring hrate hq hsince
    unfold State.pauseRx
    generalize s.stat p 5 1 = t at *
    simp [hhonours, hignoring, hrate, hq, hsince]
  case pauseFrame =>
    intro s p q hrecv hloop
    change execPauseFrameRx p q s = _
    simp [execPauseFrameRx, hrecv, hloop, etPause]
  case trip =>
    intro s p t hsince hhonours hlimit hpaused hdue
    change execPauseWdTrip p s = _
    simp [execPauseWdTrip, hsince, hhonours, hlimit, hpaused, State.elapsed, hdue]
  case tripNot =>
    intro s p t hsince hlimit
    change execPauseWdTrip p s = _
    simp [execPauseWdTrip, hsince, hlimit]
  case recover =>
    intro s p hignoring hdue
    change execPauseWdRecover p s = _
    simp [execPauseWdRecover, hignoring, State.elapsed, hdue]
  case recoverEarly =>
    intro s p hignoring hearly
    change execPauseWdRecover p s = _
    simp [execPauseWdRecover, State.elapsed, Nat.not_le.2 hearly]
  case txEnd =>
    intro s p x htx hloop horigin hstomp hsup
    change Host.Outcome.next (s.txEnd p false none) = _
    simp [State.txEnd, htx, hloop, State.originEnd, horigin, hstomp, hsup]
  case txIdle =>
    intro s p htx
    change Host.Outcome.next (s.txEnd p false none) = _
    simp [State.txEnd, htx]
  case underrun =>
    intro s p x q htx horigin hearly
    change execTxUnderrun p s = _
    simp only [execTxUnderrun, htx, hearly, if_true]
  case underrunLate =>
    intro s p x htx hearly
    change execTxUnderrun p s = _
    simp only [execTxUnderrun, htx, hearly, Bool.false_eq_true, if_false]
  case ctrlReject =>
    intro s p v hring hlink hrun hlisted
    change execMacCtrlWrite p v s = _
    simp [execMacCtrlWrite, inBlock_of_run hlink hrun, hring, hlisted]
  case ctrlRing =>
    intro s p v hring hlink hrun
    change execMacCtrlWrite p v s = _
    simp [execMacCtrlWrite, portDomain_of_ring hring, inBlock_of_run hlink hrun, hring]
  case ctrlSame =>
    intro s p v hring hlink hrun hrate hfec hlisted hen
    change execMacCtrlWrite p v s = _
    simp [execMacCtrlWrite, inBlock_of_run hlink hrun, hring, hrate, hfec, hlisted, hen]
  case filtCommit =>
    intro s p n v hn hlink hrun hvalid
    change execMacFiltCommit p n v s = _
    simp [execMacFiltCommit, Nat.not_le.2 hn, inBlock_of_run hlink hrun, hvalid, b2n]
  case statAll =>
    intro s p v hlink hrun hgo hall
    change execMacStatClear p v s = _
    simp [execMacStatClear, inBlock_of_run hlink hrun, hgo, hall]
  case statOne =>
    intro s p v hlink hrun hgo hall
    change execMacStatClear p v s = _
    simp [execMacStatClear, inBlock_of_run hlink hrun, hgo, hall]
  case modStart =>
    intro s p v hlink hrun hidle hgo hread hmin hmax
    have hlen : ¬(bits v.toNat 23 16 = 0 ∨ 128 < bits v.toNat 23 16) := by omega
    change execModTransactionStart p v s = _
    simp only [execModTransactionStart, inBlock_of_run hlink hrun, hidle, hgo, hread, hlen]
    simp
  case modBusy =>
    intro s p v hlink hrun hbusy
    change execModTransactionStart p v s = _
    simp [execModTransactionStart, inBlock_of_run hlink hrun, hbusy]
  case modDone =>
    intro s p n d hbusy hread
    change execModTransactionDone p 0 n d s = _
    simp [execModTransactionDone, hbusy, hread, State.modEnd]
  case pins =>
    intro s p a b c hring hrun
    change execModulePinChange p a b c s = _
    simp [execModulePinChange, hrun, hring]
  case pinsRing =>
    intro s p a b c hring hrun
    change execModulePinChange p a b c s = _
    simp [execModulePinChange, portDomain_of_ring hring, hrun, hring]

end Sys2Proof.Machine

/-!
The almanac: rows open, are filled and sealed; streams, watches and almanacs are made and removed (chapter 04).
-/

namespace Sys2Proof.Machine

open Sys2Proof

/-! ### Rows and instants (R92) -/

theorem nominal_eq_div (rate : Nat) {n : Nat} (hrate : 0 < rate) : nominal rate n = n * nsPerSec / rate := by
  have hsplit : n * nsPerSec = n % rate * nsPerSec + n / rate * nsPerSec * rate := by
    conv_lhs => rw [← Nat.mod_add_div n rate]
    ring
  rw [nominal, hsplit, Nat.add_mul_div_right _ _ hrate, Nat.add_comm]

theorem nsPerSec_pos : 0 < nsPerSec := by decide

/-- No row before the first one at or after an instant has its nominal instant there. -/
theorem firstRow_spec {rate : Nat} (hrate : 0 < rate) (t : Nat) :
    t ≤ nominal rate (firstRow rate t) ∧ (firstRow rate t = 0 ∨ nominal rate (firstRow rate t - 1) < t) := by
  have hle : t * rate / nsPerSec * nsPerSec ≤ t * rate := Nat.div_mul_le_self _ _
  have hlt : t * rate < (t * rate / nsPerSec + 1) * nsPerSec := by
    rw [Nat.mul_comm (_ + 1)]
    exact Nat.lt_mul_div_succ _ nsPerSec_pos
  simp only [firstRow]
  generalize t * rate / nsPerSec = k at *
  split
  case isTrue hbefore =>
    refine ⟨?_, .inr hbefore⟩
    rw [nominal_eq_div rate hrate, Nat.le_div_iff_mul_le hrate]
    exact hlt.le
  case isFalse hafter =>
    refine ⟨not_lt.mp hafter, ?_⟩
    rcases Nat.eq_zero_or_pos k with h0 | hpos
    · exact .inl h0
    · right
      rw [nominal_eq_div rate hrate, Nat.div_lt_iff_lt_mul hrate]
      calc (k - 1) * nsPerSec < k * nsPerSec := Nat.mul_lt_mul_of_pos_right (by omega) nsPerSec_pos
        _ ≤ t * rate := hle

/-! ### What a seal leaves (R105 to R107) -/

theorem find_upd {α : Type} (m : KMap α) (k : Nat) (f : α → α) : KMap.find (m.upd k f) k = (KMap.find m k).map f := by
  induction m with
  | nil => rfl
  | cons p m ih =>
    obtain ⟨j, v⟩ := p
    by_cases h : j = k
    · simp [KMap.upd, KMap.find, h]
    · simpa [KMap.upd, KMap.find, h] using ih

/-- Everything but the almanac and what is posted to the host. -/
def State.SameBesideAlm (s t : State) : Prop :=
  SamePath s t ∧ t.time = s.time ∧ t.reflex = s.reflex ∧ t.recd = s.recd ∧ SameInst s t ∧ SameRings s t ∧ SameBoard s t ∧ SameProc s t

theorem State.SameBesideAlm.trans {s t u : State} (h : s.SameBesideAlm t) (g : t.SameBesideAlm u) : s.SameBesideAlm u := by
  simp only [State.SameBesideAlm, SamePath, SameInst, SameRings, SameBoard, SameProc] at *
  simp_all

/-- The streams alone differ: a row's cells have been noted. -/
theorem noteValid_keeps (s : State) (r : Row) :
    s.SameBesideAlm (s.noteValid r) ∧ (s.noteValid r).alm.tab = s.alm.tab ∧ (s.noteValid r).alm.watches = s.alm.watches := by
  unfold State.noteValid
  generalize r.cells = l
  induction l generalizing s with
  | nil => simp [State.SameBesideAlm, SamePath, SameInst, SameRings, SameBoard, SameProc]
  | cons p l ih =>
    rw [List.foldl_cons]
    split
    · exact ih _
    · exact ih _

/-- A row with a cell in every column needs none. -/
theorem fillRow_of_full {s : State} {a : Almanac} {r : Row} (hfull : ∀ col, col < a.cols → r.cells.has col = true) :
    ∃ b, s.fillRow a r = (0, 0, b, s) := by
  refine List.foldlRecOn (motive := fun acc => ∃ b, acc = (0, 0, b, s)) _ _ ⟨[], rfl⟩ ?_
  rintro _ ⟨b, rfl⟩ col hcol
  obtain ⟨c, hc⟩ := Option.isSome_iff_exists.mp (hfull col (List.mem_range.mp hcol))
  simp only [hc]
  exact ⟨_, rfl⟩

theorem post0_alm (s : State) (a : Nat) (b : Bytes) : (s.post0 a b).alm = s.alm := by simp

theorem post0_besideAlm (s : State) (a : Nat) (b : Bytes) : s.SameBesideAlm (s.post0 a b) := by
  simp [State.SameBesideAlm, SamePath, SameInst, SameRings, SameBoard, SameProc]

/-- The measured time of a seal's posts can raise its almanac's LATE alone (R107). -/
theorem notePost_of_alm {s : State} {k : Nat} {a : Almanac} {m : PostMark} (hfind : s.alm.tab.find k = some a) (hm : m.alm = some k) :
    s.SameBesideAlm (s.notePost m) ∧ (s.notePost m).alm.watches = s.alm.watches ∧
      ∃ l, (s.notePost m).alm.tab.find k = some { a with late := l } := by
  refine ⟨by simp [State.SameBesideAlm, SamePath, SameInst, SameRings, SameBoard, SameProc], ?_, ?_⟩
  · simp only [State.notePost, State.postMeasured, hm]
    (repeat' split) <;> rfl
  · have hhas : s.alm.tab.has k = true := by simp [KMap.has, hfind]
    simp only [State.notePost, State.postMeasured, hm, hhas, if_true]
    (repeat' split) <;> simp only [find_upd, hfind] <;> exact ⟨_, rfl⟩

theorem besideAlm_setAlm {s t : State} (h : s.SameBesideAlm t) (k : Nat) (a : Almanac) :
    s.SameBesideAlm (t.setAlm k a).dropEnded := h

theorem find_setAlm (s : State) (k : Nat) (a : Almanac) : ((s.setAlm k a).dropEnded).alm.tab.find k = some a :=
  KMap.find_put_same ..

theorem notifyWatches_of_none {s : State} (h : s.alm.watches = []) (k : Nat) (a : Almanac) (n : Nat) (off : Int) (flags missing : Nat) :
    s.notifyWatches k a n off flags missing = s := by
  simp [State.notifyWatches, h]

/-- The last open row of an almanac, whole and without a watch or a recording, is sealed: the almanac counts it. -/
theorem sealRow_of_full {s : State} {k : Nat} {a : Almanac} {r : Row} (hfind : s.alm.tab.find k = some a) (hopen : a.open_ = [r])
    (hfull : ∀ col, col < a.cols → r.cells.has col = true) (hwatch : s.alm.watches = []) (hrec : bit s.recd.cfg.almMask k = false)
    (instant : Nat) :
    s.SameBesideAlm (s.sealRow k instant false) ∧
      ∃ a', (s.sealRow k instant false).alm.tab.find k = some a' ∧ a'.open_ = [] ∧ a'.lastSealed = some r.n ∧
        a'.sealSeq = a.sealSeq + 1 ∧ a'.sealed = a.sealed + 1 ∧ a'.incomplete = a.incomplete ∧ a'.missing = a.missing ∧
        a'.rate = a.rate := by
  obtain ⟨hsame, htab, hwatches⟩ := noteValid_keeps s r
  obtain ⟨cells, hfill⟩ := fillRow_of_full (s := s.noteValid r) hfull
  have hrecd : (s.noteValid r).recd = s.recd := by
    obtain ⟨-, -, -, h, -⟩ := hsame
    exact h
  unfold State.sealRow
  simp -zeta only [hfind, hopen]
  extract_lets n nom off s1 skipped gap uns flags byArr status at_ s2 fin s3 rec_ s4 s5 a1 s6 mark
  have hmissing : (s1.fillRow a r).1 = 0 := congrArg (·.1) hfill
  have hfilled : (s1.fillRow a r).2.2.2 = s1 := congrArg (·.2.2.2) hfill
  have hposts : s.SameBesideAlm s5 ∧ s5.alm = s1.alm := by
    refine ⟨?_, by simp only [s5, s4, s3, s2, post0_alm, hfilled]⟩
    have hfirst : s.SameBesideAlm (s1.fillRow a r).2.2.2 := by rw [hfilled]; exact hsame
    exact (((hfirst.trans (post0_besideAlm ..)).trans (post0_besideAlm ..)).trans (post0_besideAlm ..)).trans (post0_besideAlm ..)
  obtain ⟨hbeside, halm⟩ := hposts
  have hunrecorded : s6 = s5 := by
    obtain ⟨-, -, -, hrecd, -⟩ := hbeside
    exact if_neg (by simp [hrecd, hrec])
  have hfound : ((s6.setAlm k a1).dropEnded).alm.tab.find k = some a1 := find_setAlm ..
  have hnone : ((s6.setAlm k a1).dropEnded).alm.watches = [] := by
    change s6.alm.watches = []
    rw [hunrecorded, halm, hwatches, hwatch]
  obtain ⟨hnoted, hnotedWatches, late, hnotedTab⟩ := notePost_of_alm hfound (m := mark) rfl
  rw [notifyWatches_of_none (hnotedWatches.trans hnone)]
  refine ⟨State.SameBesideAlm.trans ?_ hnoted, _, hnotedTab, rfl, rfl, rfl, rfl, ?_, ?_, rfl⟩
  · rw [hunrecorded]
    exact besideAlm_setAlm hbeside k a1
  · simp [a1, hmissing, b2n]
  · simp [a1, hmissing]

theorem sealChain_of_none_open {s : State} {k : Nat} {a : Almanac} (hfind : s.alm.tab.find k = some a) (hopen : a.open_ = [])
    (fuel : Nat) : State.sealChain fuel k s = s := by
  cases fuel with
  | zero => rfl
  | succ fuel => simp [State.sealChain, hfind, hopen]

theorem almRuns_of {s : State} (hrun : s.inRun 12 = true) (hhove : s.alm.hoveTo = false) : s.almRuns = true := by
  simp [State.almRuns, hrun, hhove]

/-- Settles O32: when rows open and are sealed, what a seal and a placed frame leave, and the host's acknowledgements. -/
theorem almanacRowsOpenFillAndSeal : Obligations.AlmanacRowsOpenFillAndSeal := by
  unfold Obligations.AlmanacRowsOpenFillAndSeal
  refine ⟨?instants, ?opens, ?opensEarly, ?opensFull, ?sealEarly, ?seals, ?missing, ?unreadable, ?accepted, ?noFrame, ?twice, ?late,
    ?outOfRate, ?ack, ?ackAbsent, ?clear⟩
  case instants =>
    intro rate t hrate _ 
    exact firstRow_spec hrate t
  case opens =>
    intro s k a
    dsimp only
    intro hfind hrun hhove hdue hslots hfree
    change execAlmRowOpen k s = _
    simp only [execAlmRowOpen, hfind, almRuns_of hrun hhove, openAhead, Nat.not_lt.2 hdue, Nat.not_le.2 hslots, hfree]
    rfl
  case opensEarly =>
    intro s k a hfind hearly
    change execAlmRowOpen k s = _
    simp [execAlmRowOpen, hfind, openAhead, hearly]
  case opensFull =>
    intro s k a hfind hfull
    change execAlmRowOpen k s = _
    simp [execAlmRowOpen, hfind, hfull]
  case sealEarly =>
    intro s k a r rs hfind hopen hearly
    change execAlmRowSeal k s = _
    simp [execAlmRowSeal, hfind, hopen, Nat.not_le.2 hearly]
  case seals =>
    intro s k a r hfind hopen hrun hhove hdue hfull hwatch hrec _
    obtain ⟨hbeside, a', hfound, hnone, hcounts⟩ := sealRow_of_full hfind hopen hfull hwatch hrec (a.windowEnd r)
    refine ⟨s.sealRow k (a.windowEnd r) false, ?_, ⟨a', hfound, hnone, hcounts⟩, hbeside⟩
    change execAlmRowSeal k s = _
    simp [execAlmRowSeal, hfind, hopen, almRuns_of hrun hhove, hdue, sealChain_of_none_open hfound hnone]
  case missing =>
    intro s a n id st hfind hsubst
    cases hlast : st.last <;> simp [State.fillCell, hfind, hsubst, hlast, noArrival]
  case unreadable =>
    intro s q qs x
    dsimp only
    intro hqueue hrun hhove hpdu hsv hstreams
    change execSvFrameIngest s = _
    simp [execSvFrameIngest, hqueue, almRuns_of hrun hhove, hpdu, hsv, hstreams, State.almCount]
  case accepted =>
    intro s q qs id st appid sim p xs hqueue hrun hhove hpdu hsv hstreams hdst happid hsvid
    change execSvFrameIngest s = _
    simp [execSvFrameIngest, hqueue, almRuns_of hrun hhove, hpdu, hsv, hstreams, hdst, happid, hsvid]
  case noFrame =>
    intro s hqueue
    change execSvFrameIngest s = _
    simp [execSvFrameIngest, hqueue]
  case twice =>
    intro s id st a sim t x n arr r hstream halm hrow hdue hsealed hopen hcol hcell
    simp [State.placeAsdu, hstream, halm, hrow, openAhead, Nat.not_lt.2 hdue, hsealed, hopen, hcol, hcell]
  case late =>
    intro s id st a sim t x n arr m hstream halm hrow hdue hsealed hle
    simp [State.placeAsdu, hstream, halm, hrow, openAhead, Nat.not_lt.2 hdue, hsealed, hle]
  case outOfRate =>
    intro st rate x t hsynch hcnt
    simp [asduRow, hsynch, hcnt]
  case ack =>
    intro s i w last v
    dsimp only
    intro hi hlink hinst hwatch hlast hrun hlow
    have hback : (last % 2 ^ 24 + 2 ^ 24 - v.toNat / 256) % 2 ^ 24 = 0 := by omega
    change execWatchAck i v s = _
    simp only [execWatchAck, Nat.mod_eq_of_lt hi, hlink, hinst, hwatch, hlast, hrun, hback]
    rfl
  case ackAbsent =>
    intro s i v hi hlink hinst
    change execWatchAck i v s = _
    simp [execWatchAck, Nat.mod_eq_of_lt hi, hlink, hinst]
  case clear =>
    intro s v hlink hrun hbit
    change execAlmClrIngestMax v s = _
    simp [execAlmClrIngestMax, inBlock_of_run hlink hrun, hbit]

/-! ### Commands (R98 to R117) -/

theorem mapVals_of_id {α : Type} {m : KMap α} {f : Nat → α → α} (h : ∀ p ∈ m, f p.1 p.2 = p.2) : m.mapVals f = m := by
  unfold KMap.mapVals
  exact (List.map_congr_left fun p hp => by rw [h p hp]; rfl).trans (List.map_id _)

/-- With no open row every stream that has ended is gone, and its counters stay (R99, R118). -/
theorem dropEnded_of_closed {s : State} {k h : Nat} {st : SvStream} (hopen : ∀ p ∈ s.alm.tab, p.2.open_ = [])
    (hstreams : s.alm.streams = [(k, st)]) (hend : st.ending = true) (hwas : st.was = some h) :
    s.dropEnded = { s with alm.streams := [], alm.streamOld := s.alm.streamOld.put h st.cnt } := by
  have hused : s.alm.tab.any (fun p => p.2.open_.any fun r => r.cols.any fun c => c.2 == k) = false := by
    rw [List.any_eq_false]
    intro p hp
    simp [hopen p hp]
  simp [State.dropEnded, hstreams, hend, hused, hwas]

/-- Settles O33: the almanac commands, once past the common checks. -/
theorem almanacCommandsSubscribeAndCreate : Obligations.AlmanacCommandsSubscribeAndCreate := by
  unfold Obligations.AlmanacCommandsSubscribeAndCreate
  refine ⟨?subscribe, ?subscribeNone, ?unsubscribe, ?unsubscribeNone, ?create, ?createFull, ?destroy, ?watch, ?watchRange, ?watchDenied,
    ?grant⟩
  case subscribe =>
    intro s c a
    dsimp only
    intro hready hhandle halm hgood hauth hstreams
    refine answers_of rfl hready rfl ?_
    generalize State.opened s _ c = t at *
    generalize bufferOf _ c = b at *
    have hst : (readStream b).alm = byteAt b 12 := rfl
    have hstAuth : (readStream b).auth = false := hauth
    simp [svSubscribeBody, Nat.not_lt.2 hhandle, hst, halm, hgood, hstAuth, hstreams, KMap.mapVals, KMap.put]
  case subscribeNone =>
    intro s c
    dsimp only
    intro hready hhandle halm hgood
    refine answers_of rfl hready rfl ?_
    generalize State.opened s _ c = t at *
    generalize bufferOf _ c = b at *
    have hst : (readStream b).alm = byteAt b 12 := rfl
    simp [svSubscribeBody, Nat.not_lt.2 hhandle, hst, halm, hgood]
  case unsubscribe =>
    intro s c st
    dsimp only
    intro hready hstreams hend hopen
    refine answers_of rfl hready rfl ?_
    generalize State.opened s _ c = t at *
    have hfind : t.alm.streams.find c.handle = some st := by simp [hstreams, KMap.find]
    have hkept (f : Row → Row) : t.alm.tab.mapVals (fun _ a => { a with open_ := a.open_.map f }) = t.alm.tab :=
      mapVals_of_id fun p hp => by simp only [hopen p hp, List.map_nil]; rw [← hopen p hp]
    simp only [svUnsubscribeBody, hfind, hend, Bool.false_eq_true, if_false, hkept]
    rw [dropEnded_of_closed (st := { st with ending := true, was := some c.handle }) (by exact hopen)
      (by simp only [hstreams, KMap.drop1, KMap.put, if_true]; rfl) rfl rfl]
  case unsubscribeNone =>
    intro s c
    dsimp only
    intro hready hnone
    refine answers_of rfl hready rfl ?_
    generalize State.opened s _ c = t at *
    simp [svUnsubscribeBody, hnone]
  case create =>
    intro s c
    dsimp only
    intro hready hform hhandle hnew hslots hrows hgood
    refine answers_of rfl hready rfl ?_
    generalize State.opened s _ c = t at *
    generalize bufferOf _ c = b at *
    simp [almBody, hform, almCreateBody, Nat.not_lt.2 hhandle, hnew, Nat.not_lt.2 hslots, hrows, hgood, State.setAlm, openAhead]
  case createFull =>
    intro s c
    dsimp only
    intro hready hform hhandle hnew hslots
    refine answers_of rfl hready rfl ?_
    generalize State.opened s _ c = t at *
    generalize bufferOf _ c = b at *
    simp [almBody, hform, almCreateBody, Nat.not_lt.2 hhandle, hnew, hslots]
  case destroy =>
    intro s c a
    dsimp only
    intro hready hform hhandle hfind hopen hstreams
    refine answers_of rfl hready rfl ?_
    generalize State.opened s _ c = t at *
    generalize bufferOf _ c = b at *
    simp [almBody, hform, almDestroyBody, Nat.not_lt.2 hhandle, KMap.has, hfind, hstreams, State.almDestroy, State.abortRows, hopen,
      State.dropEnded]
  case watch =>
    intro s c
    dsimp only
    intro hready hform halm hright hhas hslot hset hlub hlub' hdec hdec' hphase
    refine answers_of rfl hready rfl ?_
    generalize State.opened s _ c = t at *
    have hdecNe : leAt c.data 8 2 ≠ 0 := by omega
    simp [almWatchBody, hform, Nat.not_lt.2 halm, hright, hhas, Nat.not_lt.2 hslot, hset, Nat.not_lt.2 hlub, Nat.not_lt.2 hlub', hdecNe,
      Nat.not_lt.2 hdec', Nat.not_le.2 hphase, State.setWatch]
  case watchRange =>
    intro s c
    dsimp only
    intro hready hform halm hright hhas hslot
    refine ⟨fun hlub => ?_, fun hlub hlub' hdec => ?_, fun hlub hlub' hdec hdec' hphase => ?_⟩
    all_goals
      refine answers_of rfl hready rfl ?_
      generalize State.opened s _ c = t at *
    · simp [almWatchBody, hform, Nat.not_lt.2 halm, hright, hhas, Nat.not_lt.2 hslot, hlub]
    · simp [almWatchBody, hform, Nat.not_lt.2 halm, hright, hhas, Nat.not_lt.2 hslot, Nat.not_lt.2 hlub, Nat.not_lt.2 hlub', hdec]
    · have hdecNe : leAt c.data 8 2 ≠ 0 := by omega
      simp [almWatchBody, hform, Nat.not_lt.2 halm, hright, hhas, Nat.not_lt.2 hslot, Nat.not_lt.2 hlub, Nat.not_lt.2 hlub', hdecNe,
        Nat.not_lt.2 hdec', hphase]
  case watchDenied =>
    intro s c i
    dsimp only
    intro hready htenant hform hright
    refine answers_of rfl hready rfl ?_
    generalize State.opened s _ c = t at *
    simp [almWatchBody, hform, htenant, hright]
  case grant =>
    intro s c
    dsimp only
    intro hready htenant hform hgrant halm hhas
    refine answers_of rfl hready rfl ?_
    generalize State.opened s _ c = t at *
    simp [almWatchBody, hform, htenant, hgrant, Nat.not_lt.2 halm, hhas]

end Sys2Proof.Machine

/-!
The reflex path (chapter 05): writes of a slot, publication and retransmission.
-/

namespace Sys2Proof.Machine

open Sys2Proof

/-! ### Writes of a slot (R126 to R129) -/

theorem reflexOff_of_lt {i k : Nat} (hslot : k < 8) : reflexOff (i * 8 + k) = i * 0x1000 + 0x84 + 8 * k := by
  simp only [reflexOff]
  omega

theorem isHeld_eq_false {x : Slot} (hhove : x.heldHove = false) (hkey : x.heldKey = false) : x.isHeld = false := by
  rw [Slot.isHeld, hhove, hkey, Bool.or_self]

section
variable {s : State} {i k : Nat} (hinst : i < 512) (hslot : k < 8) (hreach : s.slotReach = true)
include hinst hslot hreach

/-- A write of LO to the page of an ABSENT instance is a violation. -/
theorem exec_reflexStage_of_absent (habsent : (s.inst i).state = .absent) (lo : W32) :
    exec (.reflexStage i k lo) s = .next (s.violPf0 2 i (i * 0x1000 + 0x80 + 8 * k)) := by
  have haddr : i * 0x1000 + 0x84 + 8 * k - 4 = i * 0x1000 + 0x80 + 8 * k := by omega
  change execReflexStage i k lo s = _
  simp [execReflexStage, slotIndex_of_lt hinst hslot, slotIndex_div hslot, hreach, habsent, reflexOff_of_lt hslot, haddr]

/-- A write of HI to an EMPTY slot is a violation. -/
theorem exec_reflexWrite_of_empty (hpresent : (s.inst i).state ≠ .absent) (hempty : s.slot (i * 8 + k) = none) (hi : W32) :
    exec (.reflexWrite i k none hi) s = .next (s.violInst i 7 k k (i * 0x1000 + 0x84 + 8 * k)) := by
  change execReflexWrite i k none hi s = _
  simp [execReflexWrite, slotIndex_of_lt hinst hslot, slotIndex_div hslot, hreach, hpresent, hempty, reflexOff_of_lt hslot]
  rw [Nat.mod_eq_of_lt hslot]

/-- A write of HI to a HELD slot is not carried out (R128). -/
theorem exec_reflexWrite_of_held {x : Slot} (hactive : (s.inst i).state = .active) (hx : s.slot (i * 8 + k) = some x)
    (harmed : x.state = .armed) (hheld : x.isHeld = true) (hi : W32) :
    exec (.reflexWrite i k none hi) s =
      .next (if s.hove then s.reflexCount 6 else s.reflexHeld.reflexRefused (i * 8 + k) 2 (BitVec.ofNat 8 hi.toNat)) := by
  change execReflexWrite i k none hi s = _
  simp [execReflexWrite, slotIndex_of_lt hinst hslot, slotIndex_div hslot, hreach, hactive, hx, slotCode, harmed, hheld]

end

/-- A reserved bit of HI makes a write malformed. -/
theorem reflexArmed_of_malformed {s : State} {k : Nat} {x : Slot} {hi : W32} (hbad : hi.toNat / 1024 ≠ 0) :
    s.reflexArmed k x hi = (s.reflexCount 3).reflexRefused k 1 (BitVec.ofNat 8 hi.toNat) := by
  rw [State.reflexArmed]
  exact if_pos (.inl hbad)

/-- A write behind a new-state frame that has not left is held (R129). -/
theorem reflexArmed_of_busy {s : State} {k : Nat} {x : Slot} {hi : W32} (hseq : hi.toNat < 256)
    (hmask : x.staged.toNat ||| x.tmpl.mask = x.tmpl.mask) (hheld : x.held = none) (hbusy : s.slotBusy k = true) :
    s.reflexArmed k x hi = s.setSlot k { x with held := some (x.staged, hi, s.now) } := by
  have hreserved : hi.toNat / 1024 = 0 := Nat.div_eq_of_lt (by omega)
  have hrecord : bit hi.toNat 9 = false := Nat.testBit_lt_two_pow (by omega)
  simp [State.reflexArmed, hreserved, hrecord, hmask, hheld, hbusy]

/-- Without FORCE, equal values are absorbed and others published (R127). -/
theorem reflexApply_of_unforced {x : Slot} {hi : W32} (hseq : hi.toNat < 256) (s : State) (k : Nat) (lo : W32) (since : Nat) :
    s.reflexApply k x lo hi since = if lo = x.values then s.reflexCount 4
      else s.newState k { x with values := lo, seq := BitVec.ofNat 8 hi.toNat, stNum := nextNum x.stNum } (some since) := by
  have hforce : bit hi.toNat 8 = false := Nat.testBit_lt_two_pow (by omega)
  simp [State.reflexApply, hforce]

/-- One of the counters 5 and 6 takes a refused write (log entry 142). -/
theorem reflexHeld_counts (s : State) :
    ∃ j, (j = 5 ∨ j = 6) ∧ s.reflexHeld = { s with free := s.free + 1, reflex.cnt := s.reflex.cnt.inc j } := by
  refine ⟨5 + (Config.freeWord s.free).toNat % 2, ?_, rfl⟩
  omega

/-! ### The held write and the next transmission (R129, R134, R137) -/

section
variable {s : State} {i k : Nat} {x : Slot} (hinst : i < 512) (hslot : k < 8) (hx : s.slot (i * 8 + k) = some x)
include hinst hslot hx

/-- The held write waits while the frame before it has not left. -/
theorem exec_reflexHeldRelease_of_busy (hbusy : s.slotBusy (i * 8 + k) = true) : exec (.reflexHeldRelease i k) s = .next s := by
  change execReflexHeldRelease i k s = _
  cases hheld : x.held <;> simp [execReflexHeldRelease, slotIndex_of_lt hinst hslot, hx, hheld, hbusy]

/-- What a retransmission does with an ARMED slot that no hove-to holds, once it is due. -/
theorem exec_reflexRetransmit_of_due {due : Nat} (hnext : x.due = some due) (hdue : due ≤ s.tbNs) (hrun : s.inRun 12 = true)
    (harmed : x.state = .armed) (hfree : x.heldHove = false) (hpub : s.publishing (i * 8 + k) = true) :
    exec (.reflexRetransmit i k) s =
      if x.heldKey then
        .next ((s.setSlot (i * 8 + k) { x with step := x.step + 1, due := some (due + x.tmpl.gap x.step) }).reflexCount 5)
      else
        .next ((s.transmit { x with sqNum := nextNum x.sqNum }
          { slot := i * 8 + k, since := none, due := some due, isNew := false }).setSlot (i * 8 + k)
            { x with sqNum := nextNum x.sqNum, step := x.step + 1, due := some (due + x.tmpl.gap x.step) }) := by
  change execReflexRetransmit i k s = _
  simp only [execReflexRetransmit, slotIndex_of_lt hinst hslot, hx, hnext, hdue, hrun, harmed, hfree, hpub, beq_self_eq_true,
    decide_true, Bool.not_false, Bool.and_self, Bool.not_true, Bool.false_eq_true, if_false]

theorem exec_reflexRetransmit_of_early {due : Nat} (hnext : x.due = some due) (hearly : s.tbNs < due) :
    exec (.reflexRetransmit i k) s = .next s := by
  change execReflexRetransmit i k s = _
  simp [execReflexRetransmit, slotIndex_of_lt hinst hslot, hx, hnext, Nat.not_le.2 hearly]

end

/-- R137: a slot whose key is missing is counted and sends nothing. -/
theorem transmit_of_unsigned {s : State} {x : Slot} (tx : ReflexTx)
    (hkey : (s.signed x (x.frame (x.tmpl.talOf x.step))).1 = none) :
    s.transmit x tx = (s.signed x (x.frame (x.tmpl.talOf x.step))).2.reflexCount 5 := by
  rw [State.transmit]
  generalize s.signed x (x.frame (x.tmpl.talOf x.step)) = r at hkey ⊢
  obtain ⟨f, t⟩ := r
  subst hkey
  rfl

/-! ### The obligation -/

/-- Settles O34: each kind of write by what it comes to, then the held write and the retransmission by when they are due. -/
theorem reflexWritesPublishAndRetransmit : Obligations.ReflexWritesPublishAndRetransmit := by
  unfold Obligations.ReflexWritesPublishAndRetransmit
  refine ⟨?stage, ?stageAbsent, ?empty, ?malformed, ?idle, ?busy, ?hove, ?held, ?new, ?release, ?wait, ?early, ?next, ?noKey, ?clear,
    ?unsigned⟩
  case stage =>
    intro s i k lo hinst hslot hlink hrun hpresent
    exact exec_reflexStage_of_present hinst hslot (slotReach_of hlink hrun) hpresent lo
  case stageAbsent =>
    intro s i k lo hinst hslot hlink hrun habsent
    exact exec_reflexStage_of_absent hinst hslot (slotReach_of hlink hrun) habsent lo
  case empty =>
    intro s i k hi hinst hslot hlink hrun hpresent hempty
    exact exec_reflexWrite_of_empty hinst hslot (slotReach_of hlink hrun) hpresent hempty hi
  case malformed =>
    intro s i k hi x hinst hslot hlink hrun hactive hx harmed hfree hbad
    rw [exec_reflexWrite_of_armed hinst hslot (slotReach_of hlink hrun) hactive hx harmed hfree, reflexArmed_of_malformed hbad]
  case idle =>
    intro s i k hi x hinst hslot hlink hrun hactive hx harmed hfree hseq hmask hheld hbusy
    rw [exec_reflexWrite_of_armed hinst hslot (slotReach_of hlink hrun) hactive hx harmed hfree,
      reflexArmed_of_idle hseq hmask hheld hbusy, reflexApply_of_unforced hseq]
    rfl
  case busy =>
    intro s i k hi x hinst hslot hlink hrun hactive hx harmed hfree hseq hmask hheld hbusy
    rw [exec_reflexWrite_of_armed hinst hslot (slotReach_of hlink hrun) hactive hx harmed hfree,
      reflexArmed_of_busy hseq hmask hheld hbusy]
  case hove =>
    intro s i k hi x hinst hslot hlink hrun hactive hx harmed hheld hhove
    rw [exec_reflexWrite_of_held hinst hslot (slotReach_of hlink hrun) hactive hx harmed hheld, hhove]
    rfl
  case held =>
    intro s i k hi x hinst hslot hlink hrun hactive hx harmed hheld hhove
    obtain ⟨j, hj, hcount⟩ := reflexHeld_counts s
    refine ⟨j, hj, ?_⟩
    rw [exec_reflexWrite_of_held hinst hslot (slotReach_of hlink hrun) hactive hx harmed hheld, hhove, ← hcount]
    rfl
  case new =>
    intro s k x since
    exact slot_newState_same s k x since
  case release =>
    intro s i k x lo hi since hinst hslot hx hheld hrun harmed hfree hpub hbusy
    change execReflexHeldRelease i k s = _
    simp [execReflexHeldRelease, slotIndex_of_lt hinst hslot, hx, hheld, hrun, slotCode, harmed, hfree, hpub, hbusy]
  case wait =>
    intro s i k x hinst hslot hx hbusy
    exact exec_reflexHeldRelease_of_busy hinst hslot hx hbusy
  case early =>
    intro s i k x due hinst hslot hx hnext hearly
    exact exec_reflexRetransmit_of_early hinst hslot hx hnext hearly
  case next =>
    intro s i k x due hinst hslot hx hnext hdue hrun harmed hfree hkey hpub
    rw [Completes, exec_reflexRetransmit_of_due hinst hslot hx hnext hdue hrun harmed hfree hpub, hkey]
    exact ⟨_, rfl, slot_setSlot_same _ _ _⟩
  case noKey =>
    intro s i k x due hinst hslot hx hnext hdue hrun harmed hfree hkey hpub
    rw [exec_reflexRetransmit_of_due hinst hslot hx hnext hdue hrun harmed hfree hpub, hkey]
    rfl
  case clear =>
    intro s v hlink hrun hbit
    change execReflexClrMax v s = _
    rw [execReflexClrMax, inBlock_of_run hlink hrun, hbit]
    rfl
  case unsigned =>
    intro s x tx hkey
    rw [transmit_of_unsigned tx hkey]
    exact ⟨rfl, rfl⟩

end Sys2Proof.Machine

/-!
Reflex templates and GOOSE subscriptions (chapter 05): loading, arming, tracking and expiry.
-/

namespace Sys2Proof.Machine

open Sys2Proof

/-! ### Templates (R123, R124) -/

/-- A field out of range gives a reason to refuse. -/
theorem firstBad_ne_none {l : List (Bool × Nat)} {o : Nat} (h : (true, o) ∈ l) : firstBad l ≠ none := by
  have hmem : o ∈ (l.filter (·.1)).map (·.2) := List.mem_map.mpr ⟨(true, o), List.mem_filter.mpr ⟨h, rfl⟩, rfl⟩
  rw [firstBad, Ne, List.min?_eq_none_iff]
  exact List.ne_nil_of_mem hmem

/-- Each of the eight intervals and times allowed to live is held to its range. -/
theorem templateBad_of_zero_time {b : Bytes} {j : Nat} (hj : j < 8)
    (hzero : leAt b (16 + 2 * j) 2 = 0 ∨ leAt b (32 + 2 * j) 2 = 0) : templateBad b ≠ none := by
  have hmem : ∃ o, (true, o) ∈ (List.range 8).flatMap (fun j =>
      [(leAt b (16 + 2 * j) 2 == 0, 16 + 2 * j), (leAt b (32 + 2 * j) 2 == 0, 32 + 2 * j)]) := by
    rcases hzero with h | h
    · exact ⟨16 + 2 * j, List.mem_flatMap.mpr ⟨j, List.mem_range.mpr hj, by simp [h]⟩⟩
    · exact ⟨32 + 2 * j, List.mem_flatMap.mpr ⟨j, List.mem_range.mpr hj, by simp [h]⟩⟩
  obtain ⟨o, hmem⟩ := hmem
  exact firstBad_ne_none (List.mem_append_left _ (List.mem_append_right _ hmem))

theorem exec_reflexDisarm_of_disarm {c : Cmd} {s : State} (hdisarm : bit (byteAt c.data 1) 0 = false) :
    exec (.reflexDisarm c) s = .next (s.runCmd { code := 0x0808, tenant := true, inst := .inst, needsD12 := true, states := 0x3E } c
      (fun _ s => reflexArmBody c s)) := by
  have hop : opReflexArm c = { code := 0x0808, tenant := true, inst := .inst, needsD12 := true, states := 0x3E } := by
    simp [opReflexArm, hdisarm]
  rw [← hop]
  rfl

/-! ### GOOSE tracking and expiry (R139 to R141) -/

/-- The board's image with a generation at its head. -/
def withGen (x : GooseCb) (img : Bytes) : GooseCb :=
  { x with gen := x.gen + 1, boardImg := overlay img 0 (leBytes 4 (x.gen + 1).toNat) }

theorem find_writeBoard (s : State) (cb : Nat) (x : GooseCb) (img : Bytes) :
    (s.writeBoard cb x img).reflex.goose.find cb = some (withGen x img) := by
  simp [State.writeBoard, withGen]

/-- Without watchers no event is written. -/
theorem gooseEvents_of_unwatched {s : State} {cb : Nat} {x : GooseCb} (hx : s.reflex.goose.find cb = some x)
    (hnone : x.watchers = []) (kind flags : Nat) : s.gooseEvents cb kind flags = s := by
  simp [State.gooseEvents, hx, hnone]

/-- The subscription `cb` is `x`, up to its counters. -/
def State.Subscribed (s : State) (cb : Nat) (x : GooseCb) : Prop := ∃ n, s.reflex.goose.find cb = some { x with cnt := n }

theorem subscribed_of_find {s : State} {cb : Nat} {x : GooseCb} (h : s.reflex.goose.find cb = some x) : s.Subscribed cb x :=
  ⟨x.cnt, h⟩

theorem subscribed_gooseCount {s : State} {cb : Nat} {x : GooseCb} (h : s.Subscribed cb x) (k : Nat) :
    (s.gooseCount cb k).Subscribed cb x := by
  obtain ⟨n, hn⟩ := h
  exact ⟨n.inc k, by simp [State.gooseCount, find_upd, hn]⟩

theorem subscribed_gooseCount_if {s : State} {cb : Nat} {x : GooseCb} (h : s.Subscribed cb x) (b : Bool) (k : Nat) :
    (if b then s.gooseCount cb k else s).Subscribed cb x := by
  cases b
  · exact h
  · exact subscribed_gooseCount h k

/-- An accepted frame without watchers and without a record leaves its numbers and its time allowed to live in the LIVE block. -/
theorem gooseTrack_leaves {s : State} {cb : Nat} {x : GooseCb} (g : GoosePdu) (sim : Bool) (q : Steered)
    (hx : s.reflex.goose.find cb = some x) (hrec : x.recordOnChange = false) (hnone : x.watchers = []) :
    ∃ y, (s.gooseTrack cb x g sim q).reflex.goose.find cb = some y ∧ y.state = .live ∧ y.stNum = g.stNum ∧ y.sqNum = g.sqNum ∧
      y.expires = s.fullStamp q.stamp + g.tal * 1000000 := by
  unfold State.gooseTrack
  extract_lets first recovered fresh jump gap t s1 s2 s3 s4
  have hsub : s4.Subscribed cb x := by
    refine subscribed_gooseCount_if (subscribed_gooseCount_if (subscribed_gooseCount_if (subscribed_gooseCount ?_ 0) _ 1) _ 2) _ 3
    exact subscribed_of_find hx
  clear_value s4
  obtain ⟨n, hn⟩ := hsub
  simp only [hn, hrec, Bool.and_false, Bool.false_eq_true, if_false]
  split
  case isTrue hboard =>
    rw [gooseEvents_of_unwatched (find_writeBoard _ _ _ _) (by exact hnone)]
    exact ⟨_, find_writeBoard _ _ _ _, rfl, rfl, rfl, rfl⟩
  case isFalse hquiet => exact ⟨_, KMap.find_put_same _ _ _, rfl, rfl, rfl, rfl⟩

/-- An octet written by `overlay` is read back. -/
theorem byteAt_overlay_same {b : Bytes} {off : Nat} (h : off < b.length) (v : Byte) : byteAt (overlay b off [v]) off = v.toNat := by
  have hroom : 1 ≤ b.length - off := by omega
  have hlen : (b.take off).length = off := List.length_take_of_le h.le
  simp [byteAt, overlay, List.take_of_length_le (show [v].length ≤ b.length - off from hroom), hlen]

/-- An octet after what `overlay` writes keeps its value. -/
theorem byteAt_overlay_after {b src : Bytes} {k : Nat} (h : src.length ≤ k) (hk : k < b.length) :
    byteAt (overlay b 0 src) k = byteAt b k := by
  have hsrc : src.take b.length = src := List.take_of_length_le (by omega)
  have hback : src.length + (k - src.length) = k := by omega
  simp [byteAt, overlay, hsrc, List.getElem?_append_right h, hback]

theorem length_overlay_le {b : Bytes} {off : Nat} (h : off < b.length) (v : Byte) : (overlay b off [v]).length = b.length := by
  simp only [overlay, List.length_append, List.length_take, List.length_drop, List.length_cons, List.length_nil]
  omega

/-- EXPIRED stands in the flags of the board. -/
theorem bit_expired_flags {img : Bytes} (h : 27 ≤ img.length) (f : Nat) (head : Bytes) (hhead : head.length = 4) :
    bit (byteAt (overlay (overlay img 26 [BitVec.ofNat 8 (f ||| 16)]) 0 head) 26) 4 = true := by
  have hlen : (overlay img 26 [BitVec.ofNat 8 (f ||| 16)]).length = img.length := length_overlay_le (by omega) _
  have hflag : (f ||| 16).testBit 4 = true := by
    rw [Nat.testBit_or]
    exact Bool.or_eq_true_iff.mpr (.inr (by decide))
  rw [byteAt_overlay_after (by omega) (by omega), byteAt_overlay_same (by omega), bit, BitVec.toNat_ofNat, Nat.testBit_mod_two_pow]
  simp [hflag]

/-- A LIVE block whose time is over is EXPIRED on its board; without watchers nobody else hears of it. -/
theorem exec_gooseExpired_of_over {s : State} {cb : Nat} {x : GooseCb} (hx : s.reflex.goose.find cb = some x)
    (hrun : s.inRun 12 = true) (hlive : x.state = .live) (hover : x.expires ≤ s.tbNs) (hnone : x.watchers = []) :
    exec (.gooseExpired cb) s = .next (s.writeBoard cb { x with state := .expired, cnt := x.cnt.inc 4 }
      (overlay x.boardImg 26 [BitVec.ofNat 8 (byteAt x.boardImg 26 ||| 16)])) := by
  change execGooseExpired cb s = _
  simp only [execGooseExpired, hx, hrun, hlive, hover, beq_self_eq_true, decide_true, Bool.and_self, Bool.not_true,
    Bool.false_eq_true, if_false]
  rw [gooseEvents_of_unwatched (find_writeBoard _ _ _ _) (by exact hnone)]

/-! ### The obligation -/

/-- Settles O35: the commands by what their bodies read, the frames by the block they match, and expiry by its instant. -/
theorem reflexTemplatesAndGoose : Obligations.ReflexTemplatesAndGoose := by
  unfold Obligations.ReflexTemplatesAndGoose
  refine ⟨?load, ?times, ?bad, ?loadArmed, ?arm, ?disarm, ?disarmEmpty, ?subscribe, ?unsubscribe, ?frame, ?unmatched, ?noFrame, ?track,
    ?expired, ?notYet⟩
  case load =>
    intro s c
    dsimp only
    intro hready hslot hgood hlen hauth hempty
    refine answers_of rfl hready rfl ?_
    generalize State.opened s _ c = t at *
    generalize bufferOf _ c = b at *
    have hauth' : (readTemplate b).auth = false := hauth
    simp [reflexLoadBody, Nat.not_lt.2 hslot, hgood, hlen, hempty, slotCode, hauth', State.setSlot]
  case times =>
    intro b j hj hzero
    exact templateBad_of_zero_time hj hzero
  case bad =>
    intro s c o
    dsimp only
    intro hready hslot hbad
    refine answers_of rfl hready rfl ?_
    generalize State.opened s _ c = t at *
    generalize bufferOf _ c = b at *
    simp [reflexLoadBody, Nat.not_lt.2 hslot, hbad]
  case loadArmed =>
    intro s c x
    dsimp only
    intro hready hslot hgood hlen hx harmed hfree
    refine answers_of rfl hready rfl ?_
    generalize State.opened s _ c = t at *
    generalize bufferOf _ c = b at *
    simp [reflexLoadBody, Nat.not_lt.2 hslot, hgood, hlen, hx, slotCode, harmed, hfree]
  case arm =>
    intro s c x
    dsimp only
    intro hready harm hn hx hloaded hauth hc hd hmask
    refine answers_of (exec_reflexArm_of_arm harm) hready rfl ?_
    rw [reflexArmBody_of_loaded harm hn hx hloaded, slotArm_of_plain hauth hc hd hmask]
    rfl
  case disarm =>
    intro s c x
    dsimp only
    intro hready hdisarm hn hx
    refine answers_of (exec_reflexDisarm_of_disarm hdisarm) hready rfl ?_
    simp [reflexArmBody, hdisarm, Nat.not_lt.2 hn, hx]
  case disarmEmpty =>
    intro s c
    dsimp only
    intro hready hdisarm hn hempty
    refine answers_of (exec_reflexDisarm_of_disarm hdisarm) hready rfl ?_
    simp [reflexArmBody, hdisarm, Nat.not_lt.2 hn, hempty]
  case subscribe =>
    intro s c
    dsimp only
    intro hready hhandle hdrop hwatch hauth hlow hhigh halign hempty
    refine answers_of rfl hready rfl ?_
    generalize State.opened s _ c = t at *
    generalize bufferOf _ c = b at *
    have hauth' : (readGooseCb b).auth = false := hauth
    have hlen : ¬(leAt b 14 2 = 0 ∨ 96 < leAt b 14 2) := by omega
    simp [gooseSubscribeBody, Nat.not_lt.2 hhandle, hdrop, hwatch, hlen, halign, hauth', hempty, KMap.put]
  case unsubscribe =>
    intro s c
    dsimp only
    intro hready hhandle hdrop hhas
    refine answers_of rfl hready rfl ?_
    generalize State.opened s _ c = t at *
    generalize bufferOf _ c = b at *
    simp [gooseSubscribeBody, Nat.not_lt.2 hhandle, hdrop, hhas]
  case frame =>
    intro s q qs appid sim p g cb x hq hrun hpdu hg hone hdst happid href hlen htal hrev hsim hauth
    subst hsim
    change execGooseFrameRx s = _
    simp [execGooseFrameRx, hq, hrun, hpdu, hg, hone, GooseCb.matches, hdst, happid, href, Nat.not_lt.2 hlen, htal, hrev, hauth]
  case unmatched =>
    intro s q qs appid sim p g hq hrun hpdu hg hempty
    change execGooseFrameRx s = _
    simp [execGooseFrameRx, hq, hrun, hpdu, hg, hempty]
  case noFrame =>
    intro s hq
    change execGooseFrameRx s = _
    simp [execGooseFrameRx, hq]
  case track =>
    intro s cb x g sim q hx hrec hnone
    exact gooseTrack_leaves g sim q hx hrec hnone
  case expired =>
    intro s cb x hx hrun hlive hover hnone
    rw [Completes, exec_gooseExpired_of_over hx hrun hlive hover hnone]
    refine ⟨_, rfl, ⟨_, find_writeBoard _ _ _ _, rfl, rfl, rfl, rfl, ?_⟩, ?_⟩
    · intro hlen
      exact bit_expired_flags hlen _ _ (length_leBytes 4 _)
    · simp [State.writeBoard, SamePath, SameInst, SameRings, SameBoard, SameProc]
  case notYet =>
    intro s cb x hx hearly
    change execGooseExpired cb s = _
    simp [execGooseExpired, hx, Nat.not_le.2 hearly]

end Sys2Proof.Machine

/-!
The recorder (chapter 11): the writer, triggers and events, and the export to a drive.
-/

namespace Sys2Proof.Machine

open Sys2Proof

/-! ### The writer (R271, R272) -/

theorem recRuns_of {s : State} (hrun : s.inRun 13 = true) (hrunning : s.recd.running = true) (hfree : s.recd.held = false) :
    s.recRuns = true := by
  simp [State.recRuns, hrun, hrunning, hfree]

/-- What has been stored is read back. -/
theorem Mem.readN_writeN_same {m : Mem} (h : Mem.wf m = true) (a : Nat) (b : Bytes) : (m.writeN a b).readN a b.length = b := by
  refine List.ext_getElem (by simp [Mem.readN]) fun i hi hb => ?_
  simp only [Mem.readN, List.getElem_map, List.getElem_range]
  rw [Mem.read_writeN_inside _ _ _ _ hb h]
  simp [hb]

/-- The DRAM address at which the writer stands. -/
def Recorder.position (r : Recorder) : Nat := areaBlocks + r.block * blockSize + r.off

/-- Octets that fit behind the writer's position are stored there. -/
theorem writeOctets_of_fits {s : State} {b : Bytes} (f : Nat) (hsome : b ≠ []) (hfits : s.recd.off + b.length ≤ blockSize) :
    State.writeOctets (f + 1) s b =
      { s.dramWrite s.recd.position b with recd := { s.recd with off := s.recd.off + b.length } } := by
  obtain ⟨v, vs, rfl⟩ := List.exists_cons_of_ne_nil hsome
  have hoff : s.recd.off ≠ blockSize := by
    simp only [List.length_cons] at hfits
    omega
  have hmin : min (v :: vs).length (blockSize - s.recd.off) = (v :: vs).length := Nat.min_eq_left (by omega)
  have hdone (t : State) : State.writeOctets f t [] = t := by cases f <;> rfl
  simp only [State.writeOctets, if_neg hoff, hmin, List.take_length, List.drop_length, hdone]
  rfl

/-- A record that fits into the present block is written where the writer stands. -/
theorem writeRecord_of_fits {s : State} {b : Bytes} (hsome : b ≠ []) (hfits : s.recd.off + b.length ≤ blockSize) :
    ∃ blocks, s.writeRecord b = (true, { s.dramWrite s.recd.position b with recd := { s.recd with
      blocks := blocks, off := s.recd.off + b.length, cnt := s.recd.cnt.inc 0 } }) := by
  have hlen : 0 < b.length := List.length_pos_iff.mpr hsome
  have hoff : s.recd.off ≠ blockSize := by omega
  have hplace : s.place b.length = some s := if_pos (.inl (by omega))
  have hover : s.placeOver 64 b.length = (some s, s) := by
    rw [State.placeOver]
    simp only [hplace]
  simp only [State.writeRecord, hover, if_neg hoff]
  rw [writeOctets_of_fits _ hsome (by exact hfits)]
  exact ⟨_, rfl⟩

/-- The record that waits first is written when no GAP record is due and it fits. -/
theorem exec_recWriter_of_fits {s : State} {q : Rec} {qs : List Rec} (hq : s.recd.queue = q :: qs) (hruns : s.recRuns = true)
    (hdropped : s.recd.dropped = 0) (hsome : q.octets ≠ []) (hfits : s.recd.off + q.octets.length ≤ blockSize) :
    ∃ blocks, exec .recWriter s = .next { s.dramWrite s.recd.position q.octets with recd := { s.recd with
      queue := qs, blocks := blocks, off := s.recd.off + q.octets.length, cnt := s.recd.cnt.inc 0 } } := by
  obtain ⟨blocks, hwrite⟩ := writeRecord_of_fits (s := { s with recd.queue := qs }) hsome hfits
  refine ⟨blocks, ?_⟩
  have hgap : State.recGap { s with recd.queue := qs } = (true, { s with recd.queue := qs }) := if_pos hdropped
  change execRecWriter s = _
  simp only [execRecWriter, hq, hruns, Bool.not_true, Bool.false_eq_true, if_false, hgap, if_true, State.recPut, hwrite]
  rfl

/-! ### Triggers (R273 to R276, R286) -/

/-- A trigger extends the event that is open. -/
theorem trigger_of_open {s : State} {k : Nat} {e : RecEvent} (hruns : s.recRuns = true) (hclock : s.inRun 12 = true)
    (hopen : s.recd.openEvent = some (k, e)) (src id t : Nat) : (s.trigger src id t).1 = some (k, false) := by
  simp [State.trigger, hruns, hclock, hopen]

/-- Without an OPEN event a trigger takes the lowest free slot. -/
theorem trigger_of_free {s : State} {k : Nat} (hruns : s.recRuns = true) (hclock : s.inRun 12 = true)
    (hopen : s.recd.openEvent = none) (hfree : s.recd.events.firstFree 0 64 = some k) (src id t : Nat) :
    (s.trigger src id t).1 = some (k, true) := by
  simp [State.trigger, hruns, hclock, hopen, hfree]

/-- An instance without the right may not trigger. -/
theorem mayTrigger_of_tenant {s : State} {c : Cmd} {i : Nat} (h : cmdTenant c = some i) :
    s.mayTrigger c = s.recd.cfg.rights.contains i := by
  rw [State.mayTrigger, h]

theorem exec_recTrigger_of_right {s : State} {c : Cmd} {b : Bool} (h : s.mayTrigger c = b) :
    exec (.recTrigger c) s = .next (s.runCmd { code := 0x0A02, tenant := b, inst := .either } c (fun _ s => recTriggerBody c s)) := by
  rw [← h]
  rfl

/-- A trigger at the present instant replies with its event. -/
theorem recTriggerBody_of_taken {s : State} {c : Cmd} {src id k : Nat} {new : Bool} (hnow : bit (byteAt c.data 0) 0 = false)
    (hruns : s.recRuns = true) (hclock : s.inRun 12 = true)
    (hsource : cmdTenant c = none ∧ src = 1 ∧ id = 0xFFFF ∨ cmdTenant c = some id ∧ src = 2)
    (htaken : (s.trigger src id s.tbNs).1 = some (k, new)) :
    recTriggerBody c s = Reply.ok (s.trigger src id s.tbNs).2 ([BitVec.ofNat 8 k, if new then 1 else 2, 0, 0] ++
      leBytes 8 ((((s.trigger src id s.tbNs).2.recd.events.find k).map (·.seq)).getD 0)) := by
  generalize hr : s.trigger src id s.tbNs = r at *
  obtain ⟨o, t⟩ := r
  dsimp only at htaken ⊢
  subst htaken
  rcases hsource with ⟨hring, rfl, rfl⟩ | ⟨hring, rfl⟩
  all_goals simp only [recTriggerBody, hnow, hruns, hclock, hring, hr, Bool.false_eq_true, false_and, if_false, Bool.not_true, or_self]

/-- A tenant's command that only the manager may issue is denied. -/
theorem checkEntry_of_tenant {op : Op} {c : Cmd} {i : Nat} (hown : c.own = 0) (hi : cmdTenant c = some i)
    (hsecure : op.secure = false) (hop : op.tenant = false) : checkEntry op c = some (6, 0) := by
  unfold cmdTenant at hi
  split at hi
  next j hring => simp [checkEntry, hown, hsecure, hring, hop]
  next hring => simp at hi

/-! ### The export (R278 to R280, R287) -/

theorem exportEnd_of_none {s : State} (h : s.recd.exp = none) (outcome st c : Nat) : s.exportEnd outcome st c = s := by
  rw [State.exportEnd, h]

theorem exportNote_of_none {s : State} (h : s.recd.exp = none) (st c n : Nat) : s.exportNote st c n = s := by
  rw [State.exportNote, h]

theorem exportSettle_of_none {s : State} (h : s.recd.exp = none) : s.exportSettle = s := by
  simp only [State.exportSettle, h]

/-- R277: no batch leaves in hove-to. -/
theorem batch_of_hove {s : State} (h : s.hove = true) : s.batch = s := by
  simp [State.batch, h]

theorem detachDone_of_none {s : State} (h : s.dechan.accepted = []) : s.detachDone = s := by
  simp [State.detachDone, h]

theorem dramRead_of_good {s : State} {a n : Nat} (h : s.errBits 1 a n = 0) : s.dramRead a n = (some (s.dram.readN a n), s) := by
  simp [State.dramRead, h]

/-- The head entry of the completion queue is taken up where DRAM has no error. -/
theorem exec_nvmeCompletion_of_good {s : State} (hrun : s.inRun 13 = true) (hpair : s.recd.qp.state = .attached)
    (hgood : s.errBits 1 (0x510000 + s.recd.qp.cqHead * 16) 16 = 0) :
    exec .nvmeCompletion s = .next (s.cqEntry (s.dram.readN (0x510000 + s.recd.qp.cqHead * 16) 16)) := by
  have hread : s.dramRead (areaCq + s.recd.qp.cqHead * 16) 16 = _ := dramRead_of_good hgood
  have hattached : (QpState.attached == QpState.detached) = false := rfl
  change execNvmeCompletion s = _
  simp only [execNvmeCompletion, hrun, hpair, hread, hattached, Bool.not_true, Bool.or_self, Bool.false_eq_true, if_false]
  rfl

/-- The completion queue doorbell waits for half a queue. -/
theorem cqTaken_of_few (s : State) {q : Qp} (h : q.consumed < q.depth / 2) :
    s.cqTaken q = { s with recd := { s.recd with qp := q, cnt := s.recd.cnt.inc 7 } } := by
  simp [State.cqTaken, Nat.not_le.2 h, State.recCount]

/-- In hove-to and without an export, a completion that answers the one outstanding command only moves the queue pair on. -/
theorem cqEntry_of_single {s : State} {b : Bytes} {cid since n : Nat} (hone : s.recd.qp.outstanding = [(cid, since, n)])
    (hcid : leAt b 12 4 % 65536 = cid) (hphase : leAt b 12 4 / 65536 % 2 = s.recd.qp.phase) (hexp : s.recd.exp = none)
    (hhove : s.hove = true) (hfew : s.recd.qp.consumed + 1 < s.recd.qp.depth / 2) (hnone : s.dechan.accepted = []) :
    s.cqEntry b = { s with recd := { s.recd with qp := s.recd.qp.took b cid, cnt := s.recd.cnt.inc 7 } } := by
  have htaken := cqTaken_of_few s (q := s.recd.qp.took b cid) hfew
  have hstill : State.hove { s with recd := { s.recd with qp := s.recd.qp.took b cid, cnt := s.recd.cnt.inc 7 } } = true := hhove
  unfold State.cqEntry
  simp only [hone, List.find?_cons, hcid, beq_self_eq_true, hphase, ne_eq, not_true_eq_false, if_false]
  rw [htaken, exportNote_of_none (by exact hexp), batch_of_hove hstill, exportSettle_of_none (by exact hexp),
    detachDone_of_none (by exact hnone), ite_self]

/-- In hove-to an EXPORT has begun once it is answered; its commands wait. -/
theorem exportStart_of_hove {s : State} (hhove : s.hove = true) (k : Nat) (e : RecEvent) (d : Bytes) :
    ∃ x, (exportStart k e d s).st.recd.exp = some x ∧ x.event = k ∧ x.lba = leAt d 8 8 := by
  unfold exportStart
  extract_lets q x s1 head s2 index todo nsid r s3
  have hs3 : s3.hove = true := hhove
  rw [reply_ok_st, batch_of_hove hs3]
  exact ⟨_, rfl, rfl, rfl⟩

/-! ### The obligation -/

/-- Settles O36: the writer by the record that fits, a trigger by the event that is open, the commands by what they read, and the queue
pair by its one outstanding command. -/
theorem recorderWritesTriggersAndExports : Obligations.RecorderWritesTriggersAndExports := by
  unfold Obligations.RecorderWritesTriggersAndExports
  refine ⟨?write, ?still, ?close, ?early, ?config, ?busy, ?extend, ?takes, ?manager, ?tenant, ?noRight, ?attach, ?detach, ?detached,
    ?begin, ?release, ?notClosed, ?notAttached, ?completion, ?noPair, ?timeout, ?inTime⟩
  case write =>
    intro s q qs hq hrun hrunning hfree hdropped hsome hfits hwf
    obtain ⟨blocks, hexec⟩ := exec_recWriter_of_fits hq (recRuns_of hrun hrunning hfree) hdropped hsome hfits
    refine ⟨_, hexec, rfl, rfl, rfl, rfl, Mem.readN_writeN_same hwf _ _, fun a ha => Mem.read_writeN_outside _ _ _ _ ha,
      Mem.wf_writeN _ _ _ hwf, ?_⟩
    simp [SamePath, SameInst, SameRings, SameHost]
  case still =>
    intro s hstill
    change execRecWriter s = _
    cases hq : s.recd.queue with
    | nil => simp [execRecWriter, hq]
    | cons q qs =>
      have hstops : s.recRuns = false := by
        rcases hstill with h | h | h
        · exact absurd (hq ▸ h) (List.cons_ne_nil _ _)
        · simp [State.recRuns, h]
        · simp [State.recRuns, h]
      simp [execRecWriter, hq, hstops]
  case close =>
    intro s k e hopen hrun hrunning hfree hclock hend
    change execRecEventClose s = _
    simp [execRecEventClose, hopen, recRuns_of hrun hrunning hfree, hclock, hend, State.closeEvent]
  case early =>
    intro s k e hopen hearly
    change execRecEventClose s = _
    simp [execRecEventClose, hopen, Nat.not_le.2 hearly]
  case config =>
    intro s c
    dsimp only
    intro hready hgood hstopped hdetached hnone hoff
    refine answers_of rfl hready rfl ?_
    generalize State.opened s _ c = t at *
    generalize bufferOf _ c = b at *
    have henable : (readRecCfg b).enable = bit (byteAt b 0) 0 := rfl
    simp [recConfigBody, hgood, hstopped, hdetached, hnone, hoff, henable]
  case busy =>
    intro s c
    dsimp only
    intro hready hgood hrunning hsize
    refine answers_of rfl hready rfl ?_
    generalize State.opened s _ c = t at *
    generalize bufferOf _ c = b at *
    have hnew : (readRecCfg b).sizeGib = byteAt b 6 := rfl
    simp [recConfigBody, hgood, hrunning, hnew, hsize]
  case extend =>
    intro s src id t k e hrun hrunning hfree hclock hopen
    exact trigger_of_open (recRuns_of hrun hrunning hfree) hclock hopen src id t
  case takes =>
    intro s src id t k hrun hrunning hfree hclock hopen hslot
    exact trigger_of_free (recRuns_of hrun hrunning hfree) hclock hopen hslot src id t
  case manager =>
    intro s c k new
    dsimp only
    intro hready hring hnow hrun hrunning hfree hclock htaken
    refine answers_of rfl hready rfl ?_
    generalize State.opened s _ c = t at *
    exact recTriggerBody_of_taken hnow (recRuns_of hrun hrunning hfree) hclock (.inl ⟨hring, rfl, rfl⟩) htaken
  case tenant =>
    intro s c i k new
    dsimp only
    intro hready hring hright hnow hrun hrunning hfree hclock htaken
    have hmay : s.mayTrigger c = true := (mayTrigger_of_tenant hring).trans (List.contains_iff_mem.mpr hright)
    refine answers_of (exec_recTrigger_of_right hmay) hready rfl ?_
    generalize State.opened s _ c = t at *
    exact recTriggerBody_of_taken hnow (recRuns_of hrun hrunning hfree) hclock (.inr ⟨hring, rfl⟩) htaken
  case noRight =>
    intro s c i
    dsimp only
    intro hown hring hright haccepts hwaits
    have hmay : s.mayTrigger c = false := by
      rw [mayTrigger_of_tenant hring]
      simp [hright]
    rw [exec_recTrigger_of_right hmay, runCmd_of_refused haccepts hown (checkEntry_of_tenant hown hring rfl rfl)]
    rfl
  case attach =>
    intro s c
    dsimp only
    intro hready hkind hgood hdetached
    refine answers_of rfl hready rfl ?_
    generalize State.opened s _ c = t at *
    simp [recExportBody, hkind, exportAttach, hgood, hdetached]
  case detach =>
    intro s c
    dsimp only
    intro hready hkind hpair hnone hexp
    refine answers_of rfl hready rfl ?_
    generalize State.opened s _ c = t at *
    simp [recExportBody, hkind, exportDetach, hpair, hnone, exportEnd_of_none hexp]
  case detached =>
    intro s c
    dsimp only
    intro hready hkind hdetached
    refine answers_of rfl hready rfl ?_
    generalize State.opened s _ c = t at *
    simp [recExportBody, hkind, exportDetach, hdetached]
  case begin =>
    intro s c e
    dsimp only
    intro hready hkind hslot he hpair hclosed hexp
    refine ⟨answers_of rfl hready rfl ?_, fun hhove => exportStart_of_hove hhove _ _ _⟩
    generalize State.opened s _ c = t at *
    simp [recExportBody, hkind, exportEvent, Nat.not_lt.2 hslot, he, hpair, hclosed, hexp]
  case release =>
    intro s c e
    dsimp only
    intro hready hkind hslot he hpair hclosed
    refine answers_of rfl hready rfl ?_
    generalize State.opened s _ c = t at *
    simp [recExportBody, hkind, exportEvent, Nat.not_lt.2 hslot, he, hpair, hclosed]
  case notClosed =>
    intro s c e
    dsimp only
    intro hready hkind hslot he hpair hclosed
    refine answers_of rfl hready rfl ?_
    generalize State.opened s _ c = t at *
    simp [recExportBody, hkind, exportEvent, Nat.not_lt.2 hslot, he, hpair, hclosed]
  case notAttached =>
    intro s c e
    dsimp only
    intro hready hkind hslot he hpair
    refine answers_of rfl hready rfl ?_
    generalize State.opened s _ c = t at *
    simp [recExportBody, hkind, exportEvent, Nat.not_lt.2 hslot, he, hpair]
  case completion =>
    intro s cid since n
    dsimp only
    intro hrun hpair hgood hone hcid hphase hexp hhove hfew hnone
    have hentry := cqEntry_of_single hone hcid hphase hexp hhove hfew hnone
    rw [Completes, exec_nvmeCompletion_of_good hrun hpair hgood]
    refine ⟨_, congrArg Host.Outcome.next hentry, ?_⟩
    simp [Qp.took, hone]
  case noPair =>
    intro s hdetached
    change execNvmeCompletion s = _
    simp [execNvmeCompletion, hdetached]
  case timeout =>
    intro s o hrun hpair hone hlate hexp hnone
    change execNvmeCmdTimeout s = _
    simp only [execNvmeCmdTimeout, hrun, hpair, hone, List.any_cons, List.any_nil, State.elapsed, hlate, decide_true, Bool.or_false,
      beq_self_eq_true, Bool.and_self, if_true]
    rw [exportEnd_of_none (by exact hexp), detachDone_of_none (by exact hnone)]
  case inTime =>
    intro s o hone hearly
    change execNvmeCmdTimeout s = _
    simp [execNvmeCmdTimeout, hone, State.elapsed, Nat.not_le.2 hearly]

end Sys2Proof.Machine

/-!
The time base (chapter 03): its counting, the PPS and IRIG-B sources, the servo and the fix.
-/

namespace Sys2Proof.Machine

open Sys2Proof

/-! ### HOLDOVER (R79, R81) -/

theorem sourceLost_of_same {s : State} (h : s.time.select s.now = s.time.source) : s.sourceLost = s := if_pos h

/-- HOLDOVER keeps the increment and the bound, and is logged with cause 5. -/
theorem holdover_time {s : State} (hbound : s.time.bound ≤ boundMax) :
    s.holdover.time.quality = .holdover ∧ s.holdover.time.bound = s.time.bound ∧ s.holdover.time.incr = s.time.incr ∧
      s.holdover.time.source = s.time.source ∧ s.holdover.time.servoWd = s.time.servoWd ∧ s.holdover.time.cnt = s.time.cnt ∧
      s.holdover.time.swNext = s.time.swNext + 1 ∧
      (s.holdover.time.swLog.find (s.time.swNext.toNat % 64)).map (fun e => (e.cause, e.step, e.source, e.quality)) =
        some (5, 0, s.time.source.code, 2) := by
  have hkept : min boundMax s.time.bound = s.time.bound := Nat.min_eq_right hbound
  simp [State.holdover, State.holdoverFrom, swLogEntry_time, State.setQuality, hkept, Quality.code]

/-! ### The PPS input (R74) -/

/-- An edge is not a second, within a millisecond, after the one before. -/
theorem secondSince_eq_false {s : State} {t : Nat} (h : s.now + msTicks < t + secTicks ∨ t + secTicks + msTicks < s.now) :
    s.secondSince t = false := by
  rcases h with h | h
  · simp [State.secondSince, Nat.not_le.2 h]
  · simp [State.secondSince, Nat.not_le.2 h]

theorem setsAtEdge_of_none {s : State} (h : s.time.sets = []) : s.setsAtEdge = s := by
  have hsets : ({ s with time.sets := [] } : State) = s := by rw [← h]
  simp only [State.setsAtEdge, h, List.foldl_nil, hsets]

/-- A valid edge without a waiting TIME_SET measures the phase. -/
theorem ppsGood_of_no_sets {s : State} (h : s.time.sets = []) :
    s.ppsGood = { s with time := { s.time with
      ppsValid := true, ppsFirst := none, ppsAt := s.now, ppsNs := ((s.tbNs : Int) - s.time.cfg.ppsIn).toNat
      meas := s.time.meas.put 3 (secondOffset ((s.tbNs : Int) - s.time.cfg.ppsIn)) } } := by
  unfold State.ppsGood
  rw [setsAtEdge_of_none (by exact h)]
  rfl

/-- A PPS that is over is no source any more. -/
theorem exec_ppsLoss_of_late {s : State} (hrun : s.inRun 12 = true) (hvalid : s.time.ppsValid = true)
    (hlate : s.time.ppsAt + 1500 * msTicks ≤ s.now) :
    exec .ppsLoss s = .next (State.sourceLost { s with time := { s.time with ppsValid := false, ppsFirst := none } }) := by
  change execPpsLoss s = _
  simp [execPpsLoss, hrun, hvalid, State.elapsed, hlate]

/-- The loss of the only source in LOCKED leads to HOLDOVER. -/
theorem sourceLost_of_last {s : State} (hselect : s.time.select s.now = .none) (hsource : s.time.source ≠ .none)
    (hlocked : s.time.quality = .locked) : s.sourceLost = State.holdover { s with time.source := .none } := by
  have hlost : ¬(Source.none = s.time.source) := fun h => hsource h.symm
  simp [State.sourceLost, hselect, hlost, hlocked]

/-! ### IRIG-B (R75) -/

/-- Without a PPS a valid frame is measured alone. -/
theorem irigGood_of_no_pps {s : State} (f : IrigFrame) (sec : Nat) (h : s.time.ppsValid = false) :
    s.irigGood f sec = { s with time := { s.time with
      irigValid := true, irigAt := s.now, irigNs := s.tbNs, irigYear := !(f.code == 1 || f.code == 2 || f.code == 3)
      irigCf := f.cf.toNat, pairOk := false, meas := s.time.meas.put 4 ((s.tbNs : Int) - (sec * nsPerSec : Nat)) } } := by
  simp [State.irigGood, h, State.measured, Source.code]

theorem irigSecond_of_out_of_range (t : TimeSt) {f : IrigFrame}
    (h : 7 < f.code ∨ 59 < f.min ∨ 23 < f.hour ∨ f.day = 0 ∨ 366 < f.day ∨ 60 < f.sec) : t.irigSecond f = none := by
  unfold TimeSt.irigSecond
  extract_lets dated year label utc dayEnd
  have hyear : (if leapYear year then 366 else 365) ≤ 366 := by split <;> decide
  generalize (if leapYear year then 366 else 365) = days at *
  split
  · rfl
  next hfields =>
    refine if_neg ?_
    omega

/-- What a frame that decodes comes to, by the frame before it. -/
theorem exec_irigFrame_of_second {s : State} {f : IrigFrame} {n last : Nat} (hrun : s.inRun 12 = true)
    (hn : s.time.irigSecond f = some n) (hlast : s.time.irigLast = some (last, false)) :
    exec (.irigFrame f) s = .next (
      if n = last + 1 then State.irigGood { s with time.irigLast := some (n, f.sec == 60) } f n
      else if s.time.irigValid then { s with time.cnt := s.time.cnt.inc 1 }
      else { s with time := { s.time with irigLast := some (n, f.sec == 60), cnt := s.time.cnt.inc 1 } }) := by
  change execIrigFrame f s = _
  simp only [execIrigFrame, hrun, hn, hlast, Bool.not_true, Bool.false_eq_true, if_false, false_and, or_false]
  split_ifs
  · rfl
  · rw [← hlast]
  · rfl

/-! ### The servo and the fix (R78, R79) -/

section
variable {s : State} (hrun : s.inRun 12 = true) (hhelm : s.helmRuns = true) (hhove : s.hove = false)
  (hsame : s.time.select s.now = s.time.source)
include hrun hhelm hhove hsame

/-- An update from the selected source takes the measured offset. -/
theorem exec_servoUpdate_of_offset {o : Int} (ho : s.time.meas.find s.time.source.code = some o) (n : BitVec 36) (v : Int) :
    exec (.servoUpdate n v) s =
      .next (State.servoTake { s with time := { s.time with meas := [], incr := clampIncr n.toNat } } o v s.time.incr) := by
  change execServoUpdate n v s = _
  simp [execServoUpdate, hrun, hhelm, hhove, hsame, ho]

theorem exec_servoUpdate_of_none (ho : s.time.meas.find s.time.source.code = none) (n : BitVec 36) (v : Int) :
    exec (.servoUpdate n v) s = .next { s with time.meas := [] } := by
  change execServoUpdate n v s = _
  simp [execServoUpdate, hrun, hhelm, hhove, hsame, ho]

end

/-- A small offset in LOCKED sets the bound anew. -/
theorem servoTake_of_locked {s : State} {o : Int} (hlocked : s.time.quality = .locked) (hsmall : o.natAbs ≤ 1000) (v : Int)
    (old : Nat) : s.servoTake o v old = { s with time := { s.time with
      filtered := v, beyond := 0, boundOver := 0, boundAt := s.now, servoAt := s.now, quality := .locked
      bound := min boundMax (s.time.accuracy + v.natAbs + 8) } } := by
  unfold State.servoTake
  simp only [hlocked, if_true, if_neg (Nat.not_lt.2 hsmall)]
  rfl

/-- Outside LOCKED an offset is collected until there are four. -/
theorem servoTake_of_few {s : State} (hunlocked : s.time.quality ≠ .locked) (hfew : s.time.fix.length < 3) (o v : Int) (old : Nat) :
    s.servoTake o v old = { s with time := { s.time with filtered := v, fix := s.time.fix ++ [o] } } := by
  have hlen : (s.time.fix ++ [o]).length - 4 = 0 := by
    rw [List.length_append, List.length_singleton]
    omega
  have hnot : (s.time.fix ++ [o]).length ≠ 4 := by
    rw [List.length_append, List.length_singleton]
    omega
  unfold State.servoTake
  simp only [if_neg hunlocked, hlen, List.drop_zero]
  exact if_neg fun h => hnot h.1

/-- What a fix leaves, by the step it makes. -/
theorem fixAt_of_unreckoned {s : State} (hreck : s.time.reckFirst = false) (x : Int) (old : Nat) :
    s.fixAt x old =
      let step := if 4000 < x.natAbs then -(meanRound x) else 0
      let t : State := { s with time := { s.time with fix := [], beyond := 0, reckFirst := false, servoAt := s.now } }
      let u := if step = 0 then t else t.timeStep step
      (u.setQuality .locked (u.time.accuracy + ceilDiv (x + 4 * step).natAbs 4 + 8)).swLogEntry (if step = 0 then 6 else 2) step old := by
  simp only [State.fixAt, hreck, Bool.false_and, Bool.false_eq_true, if_false]

theorem fixAt_quality {s : State} (hreck : s.time.reckFirst = false) (x : Int) (old : Nat) :
    (s.fixAt x old).time.quality = .locked := by
  rw [fixAt_of_unreckoned hreck]
  exact (swLogEntry_quality _ _ _ _).trans (setQuality_quality _ _ _)

/-- A mean of at most 1 µs is no reason for a step. -/
theorem fixAt_of_near {s : State} (hreck : s.time.reckFirst = false) {x : Int} (hnear : x.natAbs ≤ 4000) (old : Nat) :
    (s.fixAt x old).tbNs = s.tbNs ∧
      (s.fixAt x old).time.bound = min boundMax (s.time.accuracy + ceilDiv x.natAbs 4 + 8) := by
  simp only [fixAt_of_unreckoned hreck, if_neg (Nat.not_lt.2 hnear), if_true, Int.mul_zero, Int.add_zero]
  exact ⟨swLogEntry_tbNs _ _ _ _, swLogEntry_bound _ _ _ _⟩

/-- Beyond 1 µs the time base steps by the negated mean. -/
theorem fixAt_of_far {s : State} (hreck : s.time.reckFirst = false) {x : Int} (hfar : 4000 < x.natAbs)
    (hpos : 0 ≤ (s.tbNs : Int) - meanRound x) (hlt : ((s.tbNs : Int) - meanRound x).toNat / nsPerSec < 2 ^ 48) (old : Nat) :
    ((s.fixAt x old).tbNs : Int) = s.tbNs - meanRound x := by
  simp only [fixAt_of_unreckoned hreck, if_pos hfar]
  rw [swLogEntry_tbNs, setQuality_tbNs]
  split
  next hzero =>
    have hmean : meanRound x = 0 := Int.neg_eq_zero.mp hzero
    rw [hmean, Int.sub_zero]
    rfl
  next hstep =>
    rw [timeStep_tbNs _ _ (by exact hlt)]
    exact Int.toNat_of_nonneg hpos

/-! ### The obligation -/

/-- Settles O37: each input by what the source has seen before it, each servo update by the quality and the offsets collected. -/
theorem sourcesAndServoKeepTime : Obligations.SourcesAndServoKeepTime := by
  unfold Obligations.SourcesAndServoKeepTime
  refine ⟨?edge, ?ppsFirst, ?ppsOther, ?ppsSecond, ?ppsOff, ?ppsLost, ?ppsHoldover, ?ppsThere, ?irigBad, ?irigFirst, ?irigValid,
    ?irigInvalid, ?irigNext, ?irigRange, ?irigLost, ?pulse, ?noPulse, ?servo, ?towards, ?noOffset, ?noHelm, ?near, ?far, ?watchdog,
    ?noWatch⟩
  case edge =>
    intro t h
    exact ⟨edge_value t h, Nat.mod_lt _ nsPerSec_pos, edge_incr t, edge_quality t, edge_bound t⟩
  case ppsFirst =>
    intro s hrun hvalid hfirst
    change execPpsEdge s = _
    simp [execPpsEdge, hrun, hvalid, hfirst]
  case ppsOther =>
    intro s t hrun hvalid hfirst hoff
    change execPpsEdge s = _
    simp [execPpsEdge, hrun, hvalid, hfirst, secondSince_eq_false hoff]
  case ppsSecond =>
    intro s t hrun hvalid hfirst hlow hhigh hsets
    have hsecond : s.secondSince t = true := by simp [State.secondSince, hlow, hhigh]
    change execPpsEdge s = _
    simp only [execPpsEdge, hrun, hvalid, hfirst, hsecond, Bool.not_true, Bool.false_eq_true, if_false, if_true,
      ppsGood_of_no_sets hsets]
  case ppsOff =>
    intro s hrun hvalid hoff
    change execPpsEdge s = _
    simp [execPpsEdge, hrun, hvalid, secondSince_eq_false hoff]
  case ppsLost =>
    intro s hrun hvalid hlate hsame
    rw [exec_ppsLoss_of_late hrun hvalid hlate, sourceLost_of_same hsame]
  case ppsHoldover =>
    intro s hrun hvalid hlate hsource hsrcs hhost hlocked hbound
    have hselect : TimeSt.select { s.time with ppsValid := false, ppsFirst := none } s.now = .none := by
      simp [TimeSt.select, hsrcs, hhost, TimeSt.valid]
    have hlost : State.sourceLost { s with time := { s.time with ppsValid := false, ppsFirst := none } } = _ :=
      sourceLost_of_last hselect (by simp [hsource]) hlocked
    rw [Completes, exec_ppsLoss_of_late hrun hvalid hlate, hlost]
    refine ⟨_, rfl, ?_⟩
    obtain ⟨hquality, hbound', hincr, hsource', -, -, hnext, hlog⟩ := holdover_time (s := { s with time := { s.time with
      ppsValid := false, ppsFirst := none, source := .none } }) hbound
    exact ⟨hquality, hsource', hbound', hincr, hnext, hlog⟩
  case ppsThere =>
    intro s hearly
    change execPpsLoss s = _
    simp [execPpsLoss, State.elapsed, Nat.not_le.2 hearly]
  case irigBad =>
    intro s f hrun hnone
    change execIrigFrame f s = _
    simp [execIrigFrame, hrun, hnone]
  case irigFirst =>
    intro s f n hrun hn hnone
    change execIrigFrame f s = _
    simp [execIrigFrame, hrun, hn, hnone]
  case irigValid =>
    intro s f n last hrun hn hlast hne hvalid
    rw [exec_irigFrame_of_second hrun hn hlast, if_neg hne, if_pos hvalid]
  case irigInvalid =>
    intro s f n last hrun hn hlast hne hvalid
    rw [exec_irigFrame_of_second hrun hn hlast, if_neg hne, hvalid]
    rfl
  case irigNext =>
    intro s f last hrun hn hlast hpps
    rw [exec_irigFrame_of_second hrun hn hlast, if_pos rfl, irigGood_of_no_pps f _ (by exact hpps)]
    rfl
  case irigRange =>
    intro t f h
    exact irigSecond_of_out_of_range t h
  case irigLost =>
    intro s hrun hvalid hlate hsame
    change execIrigLoss s = _
    simp only [execIrigLoss, hrun, hvalid, State.elapsed, hlate, decide_true, Bool.and_self, if_true]
    exact congrArg Host.Outcome.next (sourceLost_of_same hsame)
  case pulse =>
    intro s
    dsimp only
    intro hrun hnew hmode
    have hallowed : s.time.ppsAllowed = true := by
      rcases hmode with h | ⟨h, hlocked⟩
      · simp [TimeSt.ppsAllowed, h]
      · simp [TimeSt.ppsAllowed, h, hlocked]
    rw [ppsOutPulse_of_new_second hrun hnew, if_pos hallowed]
    rfl
  case noPulse =>
    intro s
    dsimp only
    intro hrun hnew hmode
    have hallowed : s.time.ppsAllowed = false := by
      rcases hmode with h | ⟨h, hunlocked⟩
      · simp [TimeSt.ppsAllowed, h]
      · simp [TimeSt.ppsAllowed, h, hunlocked]
    rw [ppsOutPulse_of_new_second hrun hnew, hallowed]
    rfl
  case servo =>
    intro s n v o hrun hhelm hhove hsame hlocked ho hsmall
    rw [exec_servoUpdate_of_offset hrun hhelm hhove hsame ho, servoTake_of_locked (by exact hlocked) hsmall, ← hlocked]
    rfl
  case towards =>
    intro s n v o hrun hhelm hhove hsame hunlocked ho hfew
    rw [exec_servoUpdate_of_offset hrun hhelm hhove hsame ho, servoTake_of_few (by exact hunlocked) (by exact hfew)]
  case noOffset =>
    intro s n v hrun hhelm hhove hsame hnone
    exact exec_servoUpdate_of_none hrun hhelm hhove hsame hnone n v
  case noHelm =>
    intro s n v hstopped
    change execServoUpdate n v s = _
    simp [execServoUpdate, hstopped]
  case near =>
    intro s x old hreck hnear
    exact ⟨fixAt_quality hreck x old, fixAt_of_near hreck hnear old⟩
  case far =>
    intro s x old hreck hfar hpos hlt
    exact ⟨fixAt_quality hreck x old, fixAt_of_far hreck hfar hpos hlt old⟩
  case watchdog =>
    intro s hrun hlocked hlate hbound
    obtain ⟨hquality, hbound', hincr, -, hwd, hcnt, -, -⟩ := holdover_time (s := { s with time := { s.time with
      servoWd := true, cnt := s.time.cnt.inc 2 } }) hbound
    refine ⟨_, ?_, hquality, hwd, hcnt, hincr, hbound'⟩
    change execServoWatchdog s = _
    simp only [execServoWatchdog, hrun, hlocked, State.elapsed, hlate, decide_true, beq_self_eq_true, Bool.and_self, if_true]
  case noWatch =>
    intro s hunlocked
    change execServoWatchdog s = _
    simp [execServoWatchdog, hunlocked]

end Sys2Proof.Machine

/-!
PTP and the TIME commands (chapter 03): messages, the clock algorithm, TIME_CONFIG, TIME_SET and TIME_QUERY.
-/

namespace Sys2Proof.Machine

open Sys2Proof

/-! ### Messages received and sent (R72, R73) -/

/-- The oldest message is taken while Helm serves the PTP instance. -/
theorem exec_ptpMsgRx_of_served {s : State} {m : PtpRx} {ms : List PtpRx} {o : Nat} (hq : s.time.rxq = m :: ms)
    (hserved : s.ptpServed = true) (ho : ptpOff m.frame = some o) :
    exec .ptpMsgRx s = .next (State.ptpMsg { s with time.rxq := ms } m o) := by
  change execPtpMsgRx s = _
  simp [execPtpMsgRx, hq, hserved, ho]

/-- A Sync from the port's master is measured at once or waits for its Follow_Up. -/
theorem ptpMsg_of_sync {s : State} {m : PtpRx} {o : Nat} {a : Announce} (hport : s.ptpPort m.port = true)
    (hdomain : ptpDomain m.frame o = s.time.cfg.domain) (hsync : ptpType m.frame o = ptpSync)
    (hslave : (s.time.ports.getD m.port.num {}).state = .slave) (hbest : (s.time.ports.getD m.port.num {}).best = some a)
    (hsender : a.sender = ptpSender m.frame o) :
    s.ptpMsg m o = if ptpTwoStep m.frame o
      then s.updPtp m.port (fun x => { x with pendSync := some (ptpSender m.frame o, ptpSeq m.frame o, m.ns, ptpCorr m.frame o) })
      else s.syncOffset m.port m.ns (ptpStamp m.frame (o + 34)) (ptpCorr m.frame o) := by
  have hannounce : ¬(ptpSync = ptpAnnounce) := by decide
  unfold State.ptpMsg
  simp only [hdomain, hport, hsync, hslave, hbest, hsender, hannounce, ne_eq, not_true_eq_false, Bool.not_true,
    Bool.false_eq_true, or_self, if_false, Option.map_some, beq_self_eq_true, Bool.and_self, and_self, if_true]

theorem ptpMsg_of_pdelayReq {s : State} {m : PtpRx} {o : Nat} (hport : s.ptpPort m.port = true)
    (hdomain : ptpDomain m.frame o = s.time.cfg.domain) (hreq : ptpType m.frame o = ptpPdelayReq) (hab : m.port = .a ∨ m.port = .b) :
    s.ptpMsg m o = s.answerPdelay m.port m.ns (Config.portMac m.port.num).toNat m.frame o := by
  have hring : isRing m.port = false := by
    rcases hab with h | h <;> rw [h] <;> rfl
  simp [State.ptpMsg, hdomain, hport, hreq, hring, ptpPdelayReq, ptpAnnounce, ptpSync, ptpFollowUp]

/-- A message is due where every one sent lies its interval back. -/
theorem dueAt_of {s : State} {last : Option Nat} {t : Nat} (h : ∀ l, last = some l → l + t ≤ s.now) : s.dueAt last t = true := by
  cases last with
  | none => rfl
  | some l => exact decide_eq_true (h l rfl)

/-- On A and B a message of the PTP instance leaves untagged. -/
theorem ptpSend_of_plain {s : State} {p : Port} (h : isRing p = false) (b : Bytes) :
    s.ptpSend p b = s.sendExpress p { body := b, kind := .express } := by
  simp [State.ptpSend, h]

theorem ptpPort_updPtp (s : State) (p q : Port) (f : PtpPort → PtpPort) : (s.updPtp p f).ptpPort q = s.ptpPort q := rfl

theorem ptpPort_sendExpress_b (s : State) (f : PortFrame) : (s.sendExpress .a f).ptpPort .b = s.ptpPort .b := rfl

/-! ### TIME_CONFIG (R88) -/

/-- A list of checks finds nothing where none of them does. -/
theorem check_eq_none {p : Prop} [Decidable p] {o : Nat} {rest : Option Nat} :
    (if p then some o else rest) = none ↔ ¬p ∧ rest = none := by
  split <;> simp [*]

theorem timeConfigBad_of_none {d : Bytes} (h : timeConfigBad d = none) :
    2 ≤ byteAt d 9 ∧ 1000 ≤ leAt d 14 4 ∧ leAt d 14 4 ≤ 500000000 ∧ 10 ≤ leAt d 24 2 ∧ leAt d 24 2 ≤ 20000 ∧
      1 ≤ leAt d 30 2 ∧ leAt d 30 2 ≤ 4294 := by
  simp only [timeConfigBad, check_eq_none] at h
  obtain ⟨-, -, -, -, htimeout, -, -, -, -, hwidth, hppb, -, hmax, -⟩ := h
  omega

/-! ### TIME_SET (R89) -/

theorem tbNs_hosted (s : State) :
    State.tbNs { s with time := { s.time with hostOk := true, source := .host, fix := [], beyond := 0 } } = s.tbNs := rfl

theorem applySet_tbNs {s : State} {ns : Nat} (h : ns / nsPerSec < 2 ^ 48) (bound : Nat) : (s.applySet ns bound).tbNs = ns := by
  have hto : ∀ old : Nat, ((old : Int) + ((ns : Int) - old)).toNat = ns := fun old => by
    rw [add_sub_cancel, Int.toNat_natCast]
  have hstep : (s.timeStep ((ns : Int) - s.tbNs)).tbNs = ns :=
    (timeStep_tbNs s _ ((hto _).symm ▸ h)).trans (hto _)
  unfold State.applySet
  dsimp only
  rw [swLogEntry_tbNs, setQuality_tbNs, tbNs_hosted]
  exact hstep

/-! ### TIME_QUERY (R90) -/

theorem leNat_leBytes (n v : Nat) : leNat (leBytes n v) = v % 256 ^ n := by
  induction n generalizing v with
  | zero => simp [leBytes, leNat, Nat.mod_one]
  | succ n ih =>
    have hpow : 256 ^ (n + 1) = 256 * 256 ^ n := Nat.pow_succ'
    rw [leBytes, leNat, ih, BitVec.toNat_ofNat, hpow]
    exact Nat.mod_mul.symm

theorem leAt_of_append {a c : Bytes} {off n v : Nat} (ha : a.length = off) : leAt (a ++ leBytes n v ++ c) off n = v % 256 ^ n := by
  rw [leAt, slice_of_append ha (length_leBytes n v), leNat_leBytes]

theorem byteAt_of_append {a c : Bytes} {off : Nat} {v : Byte} (ha : a.length = off) : byteAt (a ++ v :: c) off = v.toNat := by
  subst ha
  simp [byteAt]

/-- The reply of TIME_QUERY begins with the time base, its quality and its source. -/
theorem timeQuery_of_run {s : State} (hrun : s.inRun 12 = true) :
    ∃ rest, s.timeQuery = leBytes 6 s.time.sec ++ leBytes 4 s.time.ns ++ leBytes 2 (s.time.frac / 65536) ++
      [BitVec.ofNat 8 s.time.quality.code, BitVec.ofNat 8 s.time.source.code] ++ rest := by
  simp only [State.timeQuery, hrun, Bool.not_true, Bool.false_eq_true, if_false, List.append_assoc]
  exact ⟨_, rfl⟩

theorem timeQuery_begins {s : State} (hrun : s.inRun 12 = true) :
    leAt s.timeQuery 0 6 = s.time.sec % 2 ^ 48 ∧ leAt s.timeQuery 6 4 = s.time.ns % 2 ^ 32 ∧
      byteAt s.timeQuery 12 = s.time.quality.code ∧ byteAt s.timeQuery 13 = s.time.source.code := by
  obtain ⟨rest, hrest⟩ := timeQuery_of_run hrun
  have hquality : s.time.quality.code < 256 := by cases s.time.quality <;> decide
  have hsource : s.time.source.code < 256 := by cases s.time.source <;> decide
  rw [hrest]
  refine ⟨?_, ?_, ?_, ?_⟩
  · simpa using leAt_of_append (a := []) (off := 0) (n := 6) (v := s.time.sec) rfl
  · simpa using leAt_of_append (n := 4) (v := s.time.ns) (length_leBytes 6 s.time.sec)
  · have h := byteAt_of_append (a := leBytes 6 s.time.sec ++ leBytes 4 s.time.ns ++ leBytes 2 (s.time.frac / 65536)) (off := 12)
      (v := BitVec.ofNat 8 s.time.quality.code) (c := BitVec.ofNat 8 s.time.source.code :: rest) (by simp [length_leBytes])
    simpa [Nat.mod_eq_of_lt hquality] using h
  · have h := byteAt_of_append (a := leBytes 6 s.time.sec ++ leBytes 4 s.time.ns ++ leBytes 2 (s.time.frac / 65536) ++
      [BitVec.ofNat 8 s.time.quality.code]) (off := 13) (v := BitVec.ofNat 8 s.time.source.code) (c := rest) (by simp [length_leBytes])
    simpa [Nat.mod_eq_of_lt hsource] using h

/-! ### The obligation -/

/-- Settles O38: each message by its type and its port, each command by what its body reads. -/
theorem ptpAndTimeCommands : Obligations.PtpAndTimeCommands := by
  unfold Obligations.PtpAndTimeCommands
  refine ⟨?noMessage, ?noHelm, ?otherDomain, ?oneStep, ?twoStep, ?pdelayReq, ?sync, ?noMaster, ?announce, ?notCapable, ?pdelayTx,
    ?noPdelay, ?timeout, ?noBest, ?disabled, ?slave, ?passive, ?config, ?kept, ?bad, ?ranges, ?locked, ?badNs, ?now, ?edge, ?applied,
    ?late, ?inTime, ?query, ?reply⟩
  case noMessage =>
    intro s hq
    change execPtpMsgRx s = _
    simp [execPtpMsgRx, hq]
  case noHelm =>
    intro s hserved
    change execPtpMsgRx s = _
    cases hq : s.time.rxq <;> simp [execPtpMsgRx, hq, hserved]
  case otherDomain =>
    intro s m ms o hq hserved ho hdomain
    rw [exec_ptpMsgRx_of_served hq hserved ho]
    exact congrArg Host.Outcome.next (if_pos (.inl hdomain))
  case oneStep =>
    intro s m ms o a hq hserved hport ho hdomain hsync hslave hbest hsender hone
    rw [exec_ptpMsgRx_of_served hq hserved ho,
      ptpMsg_of_sync (s := { s with time.rxq := ms }) hport hdomain hsync hslave hbest hsender, hone]
    rfl
  case twoStep =>
    intro s m ms o a hq hserved hport ho hdomain hsync hslave hbest hsender htwo
    rw [exec_ptpMsgRx_of_served hq hserved ho,
      ptpMsg_of_sync (s := { s with time.rxq := ms }) hport hdomain hsync hslave hbest hsender, if_pos htwo]
  case pdelayReq =>
    intro s m ms o hq hserved hport ho hdomain hreq hab
    rw [exec_ptpMsgRx_of_served hq hserved ho,
      ptpMsg_of_pdelayReq (s := { s with time.rxq := ms }) hport hdomain hreq hab]
  case sync =>
    intro s p hmaster hdue
    change execPtpSyncTx p s = _
    simp only [execPtpSyncTx, hmaster, dueAt_of hdue, Bool.and_self, Bool.not_true, Bool.false_eq_true, if_false]
  case noMaster =>
    intro s p hmaster
    refine ⟨?_, ?_⟩
    · change execPtpSyncTx p s = _
      simp [execPtpSyncTx, hmaster]
    · change execPtpAnnounceTx p s = _
      simp [execPtpAnnounceTx, hmaster]
  case announce =>
    intro s p hmaster hslave hcapable hdue
    change execPtpAnnounceTx p s = _
    simp only [execPtpAnnounceTx, hmaster, dueAt_of hdue, Bool.and_self, Bool.not_true, Bool.false_eq_true, if_false, hslave,
      Option.bind_none, State.ownAnnounce, hcapable, if_true, Option.getD_some]
  case notCapable =>
    intro s hcapable
    rw [ownAnnounce_clockClass, hcapable]
    rfl
  case pdelayTx =>
    intro s hserved ha hb hlink hnone
    change execPtpPdelayTx s = _
    have hnone' : (s.time.ports.getD Port.a.num {}).pdTx = none := hnone
    simp only [execPtpPdelayTx, hserved, Bool.not_true, Bool.false_eq_true, if_false, ha, hlink, hnone', State.dueAt, Bool.and_self,
      if_true, ptpSend_of_plain (show isRing .a = false from rfl), ptpPort_sendExpress_b, ptpPort_updPtp, hb, Bool.false_and]
    rfl
  case noPdelay =>
    intro s hserved
    change execPtpPdelayTx s = _
    simp [execPtpPdelayTx, hserved]
  case timeout =>
    intro s p a hserved hbest hlate
    change execAnnounceTimeout p s = _
    simp only [execAnnounceTimeout, hserved, hbest, State.elapsed, hlate, Option.isSome_some, decide_true, Bool.and_self, if_true]
  case noBest =>
    intro s p hnone
    change execAnnounceTimeout p s = _
    simp only [execAnnounceTimeout, hnone, Option.isSome_none, Bool.and_false, Bool.false_and, Bool.false_eq_true, if_false]
  case disabled =>
    intro s best k hport
    simp [State.portDecision, hport]
  case slave =>
    intro s k a hport hrole hcapable
    simp [State.portDecision, hport, hrole, hcapable]
  case passive =>
    intro s a hport hrole hcapable
    have hport' : s.ptpPort (Port.ofNum 3) = true := hport
    simp [State.portDecision, hport', hrole, hcapable]
  case config =>
    intro s c
    dsimp only
    intro hready hgood hrun
    refine answers_of rfl hready rfl ?_
    generalize State.opened s _ c = t at *
    have hrun' : State.inRun { t with time.kept := some (readTimeCfg c.data) } 12 = true := hrun
    simp only [timeConfigBody, hgood, hrun', if_true]
  case kept =>
    intro s c
    dsimp only
    intro hready hgood hstopped
    refine answers_of rfl hready rfl ?_
    generalize State.opened s _ c = t at *
    have hstopped' : State.inRun { t with time.kept := some (readTimeCfg c.data) } 12 = false := hstopped
    simp only [timeConfigBody, hgood, hstopped', Bool.false_eq_true, if_false]
  case bad =>
    intro s c o
    dsimp only
    intro hready hbad
    refine answers_of rfl hready rfl ?_
    simp [timeConfigBody, hbad]
  case ranges =>
    intro d
    exact ⟨fun h => if_pos h, timeConfigBad_of_none⟩
  case locked =>
    intro s c
    dsimp only
    intro hready hlocked
    refine answers_of rfl hready rfl ?_
    exact if_pos hlocked
  case badNs =>
    intro s c
    dsimp only
    intro hready hunlocked hns
    refine answers_of rfl hready rfl ?_
    exact (if_neg hunlocked).trans (if_pos hns)
  case now =>
    intro s c
    dsimp only
    intro hready hns hunlocked hnow
    refine answers_of rfl hready rfl ?_
    generalize State.opened s _ c = t at *
    simp [timeSetBody, hunlocked, Nat.not_le.2 hns, hnow]
  case edge =>
    intro s c
    dsimp only
    intro hready hns hunlocked hedge
    refine answers_of rfl hready rfl ?_
    have hcur := opened_cur s { code := 0x0902, needsD12 := true } c
    generalize State.opened s _ c = t at *
    simp [timeSetBody, hunlocked, Nat.not_le.2 hns, hedge, hcur, State.acceptance]
  case applied =>
    intro s ns bound hns
    exact ⟨applySet_tbNs hns bound, applySet_source s ns bound, applySet_hostOk s ns bound, applySet_quality s ns bound⟩
  case late =>
    intro s p a hsets hlate ha
    change execTimeSetPpsTimeout s = _
    simp [execTimeSetPpsTimeout, hsets, State.elapsed, hlate, State.setReply, ha]
  case inTime =>
    intro s hearly
    have hnot : ∀ p ∈ s.time.sets, s.elapsed p.since (2 * secTicks) = false :=
      fun p hp => decide_eq_false (Nat.not_le.2 (hearly p hp))
    have hlate : s.time.sets.filter (fun p => s.elapsed p.since (2 * secTicks)) = [] :=
      List.filter_eq_nil_iff.mpr fun p hp => by simp [hnot p hp]
    have hkept : s.time.sets.filter (fun p => !s.elapsed p.since (2 * secTicks)) = s.time.sets :=
      List.filter_eq_self.mpr fun p hp => by simp [hnot p hp]
    change execTimeSetPpsTimeout s = _
    simp only [execTimeSetPpsTimeout, hlate, hkept, List.foldl_nil]
  case query =>
    intro s c
    dsimp only
    intro hready
    exact answers_of rfl hready rfl rfl
  case reply =>
    intro s hrun
    exact timeQuery_begins hrun

end Sys2Proof.Machine

/-!
WAYPOINT_RESTORE (chapter 15): the checks of Table 15-3 and what a restore leaves.
-/

namespace Sys2Proof.Machine

open Sys2Proof

/-! ### The checks of Table 15-3 (R375) -/

section
variable {s : State} {w : Bytes} {j : Nat}

theorem restoreEarly_of_restored (h : s.mig.restored.contains (leAt w 8 8) = true) :
    s.restoreEarly w j = some (Reply.no s 7 5) := if_pos h

theorem restoreEarly_of_flows (hnew : s.mig.restored.contains (leAt w 8 8) = false) (hflows : (s.inst j).flowCount < leAt w 32 4) :
    s.restoreEarly w j = some (Reply.no s 4 1) := by
  simp only [State.restoreEarly, hnew, Bool.false_eq_true, if_false, hflows, if_true]

theorem restoreEarly_of_ctxs (hnew : s.mig.restored.contains (leAt w 8 8) = false) (hflows : leAt w 32 4 ≤ (s.inst j).flowCount)
    (hctxs : (s.inst j).ctxCount < leAt w 36 4) : s.restoreEarly w j = some (Reply.no s 4 2) := by
  simp only [State.restoreEarly, hnew, Bool.false_eq_true, if_false, if_neg (Nat.not_lt.2 hflows), hctxs, if_true]

/-- A flow handle within `j`'s quota that is in use forbids the restore. -/
theorem restoreEarly_of_used (hnew : s.mig.restored.contains (leAt w 8 8) = false) (hflows : leAt w 32 4 ≤ (s.inst j).flowCount)
    (hctxs : leAt w 36 4 ≤ (s.inst j).ctxCount) {h : Nat} {v : Bool} (hmem : (h, v) ∈ s.flow.handles)
    (hlow : (s.inst j).flowBase ≤ h) (hhigh : h < (s.inst j).flowBase + (s.inst j).flowCount) :
    s.restoreEarly w j = some (Reply.no s 7 4) := by
  have hused : s.flow.handles.any (fun (p : Nat × Bool) => decide ((s.inst j).flowBase ≤ p.1) &&
      decide (p.1 < (s.inst j).flowBase + (s.inst j).flowCount)) = true :=
    List.any_eq_true.mpr ⟨(h, v), hmem, by simp [hlow, hhigh]⟩
  simp only [State.restoreEarly, hnew, Bool.false_eq_true, if_false, if_neg (Nat.not_lt.2 hflows), if_neg (Nat.not_lt.2 hctxs), hused,
    true_or, if_true]

end

/-- A waypoint that has been read goes through its checks. -/
theorem waypointRestoreBody_of_data {c : Cmd} {br : BinRead} {t u : State} {b : Bytes}
    (hu : u = t.emitReads .pf0 none (leAt c.data 0 8) (leAt c.data 8 4) ((t.freeTag .pf0).getD 0))
    (hread : u.effRead .pf0 c.buf = .data b) :
    waypointRestoreBody c br t = u.restoreRead c br (slice b 0 (leAt c.data 8 4)) := by
  subst hu
  simp [waypointRestoreBody, State.hostRead, State.hostReads, State.readResult, hread]

/-! ### What a restore keeps -/

/-- The bounds, the DRAM and the clock. -/
def State.base (s : State) : KMap Bounds × Mem × Nat := (s.bounds, s.dram, s.now)

theorem foldl_base {α : Type} {f : State → α → State} (h : ∀ s x, (f s x).base = s.base) (l : List α) (s : State) :
    (l.foldl f s).base = s.base :=
  List.foldlRecOn (motive := fun t => t.base = s.base) l f rfl fun t ht x _ => (h t x).trans ht

theorem pulse_base (s : State) (n : Nat) : (s.pulse n).base = s.base := by simp [State.base]

theorem wrapKey_base (s : State) (h : Nat) (x : Ctx) (key : Bytes) : (s.wrapKey h x key).2.base = s.base := rfl

theorem restoreCtx_base (s : State) (e id : Bytes) (key : Option Bytes) (same : Bool) (i j : Nat) :
    (s.restoreCtx e id key same i j).base = s.base := by
  unfold State.restoreCtx
  dsimp only [State.draw]
  have hset : ∀ (t : State) (h : Nat) (x : Ctx), t.base = s.base →
      (if x.op = 2 ∨ x.op = 4 then { t.setCtx h x with ciph.sa := addNew (t.setCtx h x).ciph.sa h } else t.setCtx h x).base =
        s.base := fun t h x ht => by
    split
    · exact ht
    · exact ht
  refine hset _ _ _ ?_
  split
  · rw [wrapKey_base, pulse_base, pulse_base]
    rfl
  · rfl

theorem restoreNodes_base (s : State) (w : Bytes) (j : Nat) : (s.restoreNodes w j).base = s.base :=
  foldl_base (fun t x => by split <;> rfl) _ s

theorem restoreWatch_base (s : State) (e : Bytes) (j : Nat) : (s.restoreWatch e j).1.base = s.base := by
  unfold State.restoreWatch
  dsimp only
  split_ifs <;> rfl

theorem restoreWatches_base (s : State) (w : Bytes) (j : Nat) : (s.restoreWatches w j).1.base = s.base := by
  have hfold : ((wpEntries w 4).foldl (fun (a : State × Nat) e =>
      ((a.1.restoreWatch e.2 j).1, a.2 + (a.1.restoreWatch e.2 j).2)) (s, 0)).1.base = s.base :=
    List.foldlRecOn (motive := fun (a : State × Nat) => a.1.base = s.base) _ _ rfl
      fun a ha e _ => (restoreWatch_base a.1 e.2 j).trans ha
  unfold State.restoreWatches
  dsimp only
  split
  · exact hfold
  · exact hfold

theorem restoreSlots_base (s : State) (w : Bytes) (j : Nat) : (s.restoreSlots w j).base = s.base := by
  unfold State.restoreSlots
  split
  · rfl
  · refine foldl_base ?_ _ s
    intro t e
    rfl

theorem restoreCls_base (s : State) (w : Bytes) : (s.restoreCls w).base = s.base := by
  refine foldl_base ?_ _ s
  intro t e
  rfl

theorem restoreRings_base (s : State) (w : Bytes) (j : Nat) : (s.restoreRings w j).base = s.base :=
  (foldl_base (fun t x => by split <;> rfl) _ s : State.base _ = s.base)

/-! ### Events leave the waypoints restored as they are -/

theorem markDirty_restored (s : State) (i a n : Nat) : (s.markDirty i a n).mig.restored = s.mig.restored := by
  unfold State.markDirty
  split <;> rfl

theorem postRing_restored (s : State) (r a : Nat) (b : Bytes) : (s.postRing r a b).mig.restored = s.mig.restored := by
  unfold State.postRing
  split_ifs
  · simp [markDirty_restored]
  · rfl
  · simp

theorem writeEvent_restored (s : State) (i kind : Nat) (body : Bytes) : (s.writeEvent i kind body).mig.restored = s.mig.restored := by
  simp [State.writeEvent, State.putEvent, State.produce, postRing_restored]

theorem flushLost_restored (s : State) (i : Nat) (st : InstState) : (s.flushLost i st).mig.restored = s.mig.restored := by
  unfold State.flushLost
  dsimp only
  split
  · simp [writeEvent_restored]
  · rfl

theorem instEventIn_restored (s : State) (i : Nat) (st : InstState) (kind : Nat) (body : Bytes) :
    (s.instEventIn i st kind body).mig.restored = s.mig.restored := by
  unfold State.instEventIn
  dsimp only
  split
  · rw [writeEvent_restored, flushLost_restored]
  · simp [flushLost_restored]

/-- An instance that becomes FROZEN keeps the waypoints restored. -/
theorem setInstState_frozen (s : State) (i : Nat) :
    ((s.setInstState i .frozen).inst i).state = .frozen ∧ (s.setInstState i .frozen).mig.restored = s.mig.restored := by
  unfold State.setInstState
  dsimp only
  split
  case isTrue hold => exact ⟨hold, rfl⟩
  case isFalse hold =>
    rw [if_neg (by decide : ¬(InstState.frozen = .faulted))]
    refine ⟨by rw [inst_setInst_same], ?_⟩
    simp [instEventIn_restored]

/-! ### What a restore leaves (R376) -/

/-- At most 64 identities are kept, the newest among them. -/
theorem restored_after (l : List Nat) (id : Nat) :
    ((l ++ [id]).drop (l.length + 1 - 64)).contains id = true ∧ ((l ++ [id]).drop (l.length + 1 - 64)).length ≤ 64 := by
  have hdrop : l.length + 1 - 64 ≤ l.length := by omega
  refine ⟨?_, ?_⟩
  · rw [List.drop_append_of_le_length hdrop, List.contains_iff_mem]
    exact List.mem_append_right _ (List.mem_singleton_self id)
  · simp only [List.length_drop, List.length_append, List.length_singleton]
    omega

/-- The state once every section of the waypoint has been restored. -/
def State.restoredParts (s : State) (w : Bytes) (j : Nat) (bt : Bounds) (f : Flow) (cls : Bool) : State :=
  let t := (wpEntries w 2).foldl (fun t e => t.restoreCtx e.2 (slice w 8 8) s.armedKey
    (leAt w 24 3 == (if s.lodeLoaded then s.ciph.kcv else 0)) (leAt w 6 2) j) { s with bounds := s.bounds.put j bt, flow := f }
  let u := ((t.restoreNodes w j).restoreWatches w j).1.restoreSlots w j
  (if cls then u.restoreCls w else u).restoreRings w j

theorem restoredParts_base (s : State) (w : Bytes) (j : Nat) (bt : Bounds) (f : Flow) (cls : Bool) :
    (s.restoredParts w j bt f cls).base = (s.bounds.put j bt, s.dram, s.now) := by
  unfold State.restoredParts
  extract_lets t u
  have ht : t.base = (s.bounds.put j bt, s.dram, s.now) := by
    refine foldl_base ?_ _ _
    intro v e
    exact restoreCtx_base v _ _ _ _ _ _
  have hu : u.base = t.base := (restoreSlots_base _ w j).trans ((restoreWatches_base _ w j).trans (restoreNodes_base t w j))
  rw [restoreRings_base, ← ht, ← hu]
  cases cls
  · rfl
  · exact restoreCls_base u w

/-- A restore ends with the waypoint among those restored, and the instance FROZEN. -/
theorem restoreApply_ends (s : State) (w : Bytes) (j : Nat) (bt : Bounds) (f : Flow) (cls : Bool) :
    (s.restoreApply w j bt f cls).st = State.setInstState { s.restoredParts w j bt f cls with
      mig.restored := ((s.restoredParts w j bt f cls).mig.restored ++ [leAt w 8 8]).drop
        ((s.restoredParts w j bt f cls).mig.restored.length + 1 - 64) } j .frozen := rfl

/-! ### The obligation -/

/-- Settles O43: each check of the table in its order, and the end of a restore by what its stages keep. -/
theorem waypointRestoreChecksThenRestores : Obligations.WaypointRestoreChecksThenRestores := by
  unfold Obligations.WaypointRestoreChecksThenRestores
  refine ⟨?restore, ?bounds, ?bad, ?early, ?restored, ?flows, ?ctxs, ?used, ?magic, ?version, ?leaves, ?enabled, ?stopped, ?fetch⟩
  case restore =>
    intro s c br b f
    dsimp only
    intro hready hread hgood hearly hplain hlate
    refine answers_of rfl hready rfl ?_
    generalize State.opened s _ c = t at *
    rw [waypointRestoreBody_of_data rfl hread]
    simp only [State.restoreRead, hgood, hearly, hplain, hlate, State.restoreGo, Bool.false_eq_true, if_false]
  case bounds =>
    intro s c br b f v
    dsimp only
    intro hready hread hgood hearly hbounds hlate hask
    refine answers_of rfl hready rfl ?_
    generalize State.opened s _ c = t at *
    rw [waypointRestoreBody_of_data rfl hread]
    simp only [State.restoreRead, hgood, hearly, hbounds, hlate, State.restoreGo, if_true, hask]
  case bad =>
    intro s c br b o
    dsimp only
    intro hready hread hbad
    refine answers_of rfl hready rfl ?_
    generalize State.opened s _ c = t at *
    rw [waypointRestoreBody_of_data rfl hread]
    simp only [State.restoreRead, hbad]
  case early =>
    intro s c br b r
    dsimp only
    intro hready hread hgood hearly
    refine answers_of rfl hready rfl ?_
    generalize State.opened s _ c = t at *
    rw [waypointRestoreBody_of_data rfl hread]
    simp only [State.restoreRead, hgood, hearly]
  case restored =>
    intro s w j h
    exact restoreEarly_of_restored h
  case flows =>
    intro s w j hnew hflows
    exact restoreEarly_of_flows hnew hflows
  case ctxs =>
    intro s w j hnew hflows hctxs
    exact restoreEarly_of_ctxs hnew hflows hctxs
  case used =>
    intro s w j h v hnew hflows hctxs hmem hlow hhigh
    exact restoreEarly_of_used hnew hflows hctxs hmem hlow hhigh
  case magic =>
    intro w n hmagic
    exact if_pos hmagic
  case version =>
    intro w n hmagic hversion
    exact (if_neg (not_not.mpr hmagic)).trans (if_pos hversion)
  case leaves =>
    intro s w j bt f cls hj
    have hst := restoreApply_ends s w j bt f cls
    have hbase := restoredParts_base s w j bt f cls
    generalize s.restoredParts w j bt f cls = t at hst hbase
    obtain ⟨hfrozen, hkept⟩ := setInstState_frozen
      { t with mig.restored := (t.mig.restored ++ [leAt w 8 8]).drop (t.mig.restored.length + 1 - 64) } j
    obtain ⟨hbounds, hdram, hnow⟩ : t.bounds = s.bounds.put j bt ∧ t.dram = s.dram ∧ t.now = s.now := by
      simpa only [State.base, Prod.mk.injEq] using hbase
    obtain ⟨hcontains, hlength⟩ := restored_after t.mig.restored (leAt w 8 8)
    rw [hst]
    refine ⟨rfl, hfrozen, ?_, ?_, ?_, ?_, ?_⟩
    · simp [hbounds]
    · rw [hkept]
      exact hcontains
    · rw [hkept]
      exact hlength
    · simpa using hdram
    · simpa using hnow
  case enabled =>
    intro q e hstate
    have henabled : restoredState (byteAt e 0) = .enabled := if_pos hstate
    simp [readRing, henabled]
  case stopped =>
    intro q e hstate
    simp [readRing, restoredState, hstate]
  case fetch =>
    intro q e hq
    exact if_neg (Nat.not_le.2 hq)

end Sys2Proof.Machine

/-!
What entry to hove-to and exit from it leave as it is: BINNACLE_STATE's fields and Helm.

Table 18-8 lists what hove-to does to the path, the rings, the almanac, the reflex slots, the recorder and the time base. None of it
sets or clears a cause, so that each lemma here says of one operation that it keeps `boot` and `helm`.
-/

namespace Sys2Proof.Machine

open Sys2Proof

theorem foldl_control {α : Type} {f : State → α → State} (h : ∀ s x, (f s x).boot = s.boot ∧ (f s x).helm = s.helm) (l : List α)
    (s : State) : (l.foldl f s).boot = s.boot ∧ (l.foldl f s).helm = s.helm :=
  List.foldlRecOn (motive := fun t => t.boot = s.boot ∧ t.helm = s.helm) l f ⟨rfl, rfl⟩
    fun t ht x _ => ⟨(h t x).1.trans ht.1, (h t x).2.trans ht.2⟩

section
variable (s : State)

/-! ### Frames at the ports and in the queues -/

@[simp] theorem frameEnd_control (f : Frame) (fail : Option (Nat × Nat)) :
    (s.frameEnd f fail).boot = s.boot ∧ (s.frameEnd f fail).helm = s.helm := by
  simp [State.frameEnd]

@[simp] theorem descNote_control (f : Frame) (g : Desc → Desc) :
    (s.descNote f g).boot = s.boot ∧ (s.descNote f g).helm = s.helm := by
  unfold State.descNote
  split <;> simp

@[simp] theorem leaveQueue_control (q : Queued) (p : Nat) :
    (s.leaveQueue q p).boot = s.boot ∧ (s.leaveQueue q p).helm = s.helm := by
  simp [State.leaveQueue]

@[simp] theorem originEnd_control (p : Port) (f : PortFrame) (fail : Option (Nat × Nat)) :
    (s.originEnd p f fail).boot = s.boot ∧ (s.originEnd p f fail).helm = s.helm := by
  unfold State.originEnd
  split
  · simp
  · split
    · split <;> simp
    · simp

@[simp] theorem stat_control (p : Port) (k n : Nat) : (s.stat p k n).boot = s.boot ∧ (s.stat p k n).helm = s.helm := by
  unfold State.stat
  dsimp only
  split <;> simp

@[simp] theorem ilDrop_control (p : Port) : (s.ilDrop p).boot = s.boot ∧ (s.ilDrop p).helm = s.helm := stat_control s p 62 1

@[simp] theorem hovePort_control (p : Port) : (s.hovePort p).boot = s.boot ∧ (s.hovePort p).helm = s.helm := by
  unfold State.hovePort
  dsimp only
  simpa using foldl_control (f := fun t f => (t.ilDrop p).originEnd p f (some (10, 0))) (fun t f => by simp) (s.mac p).host
    (s.setMac p { s.mac p with express := (s.mac p).express.filter (s.keptInHove p), host := [] })

@[simp] theorem hoveRing_control (r : Nat) : (s.hoveRing r).boot = s.boot ∧ (s.hoveRing r).helm = s.helm :=
  foldl_control (fun t d => by simp) _ s

@[simp] theorem discardQueues_control (pred : Nat → Bool) (k : Nat) (fail : Nat × Nat) :
    (s.discardQueues pred k fail).boot = s.boot ∧ (s.discardQueues pred k fail).helm = s.helm :=
  foldl_control (fun t q => foldl_control (fun u f => by simp [State.schedCount]) q.2 t) _
    { s with sched.queues := s.sched.queues.filter (fun q => !pred q.1) }

@[simp] theorem schedHove_control : s.schedHove.boot = s.boot ∧ s.schedHove.helm = s.helm := by
  simp [State.schedHove]

/-! ### The recorder -/

@[simp] theorem setEvent_control (k : Nat) (e : RecEvent) : (s.setEvent k e).boot = s.boot ∧ (s.setEvent k e).helm = s.helm := by
  simp [State.setEvent]

@[simp] theorem closeEvent_control (hove : Bool) : (s.closeEvent hove).boot = s.boot ∧ (s.closeEvent hove).helm = s.helm := by
  unfold State.closeEvent
  split <;> simp

@[simp] theorem recDrop_control : s.recDrop.boot = s.boot ∧ s.recDrop.helm = s.helm := by
  unfold State.recDrop
  dsimp only [State.recCount]
  split <;> simp

@[simp] theorem record_control (kind t a b : Nat) (body : Bytes) :
    (s.record kind t a b body).boot = s.boot ∧ (s.record kind t a b body).helm = s.helm := by
  unfold State.record
  dsimp only
  split_ifs <;> simp

@[simp] theorem stage_control (off n : Nat) (e : Export) : (s.stage off n e).2.boot = s.boot ∧ (s.stage off n e).2.helm = s.helm := by
  unfold State.stage
  split <;> simp

@[simp] theorem submit_control (op : Nat) (piece : Option (Nat × Nat)) (e : Export) :
    (s.submit op piece e).boot = s.boot ∧ (s.submit op piece e).helm = s.helm := by
  cases piece with
  | none => simp [State.submit]
  | some p =>
    simp only [State.submit]
    split <;> simp

theorem submitAll_control (fuel : Nat) : (State.submitAll fuel s).boot = s.boot ∧ (State.submitAll fuel s).helm = s.helm := by
  induction fuel generalizing s with
  | zero => exact ⟨rfl, rfl⟩
  | succ fuel ih =>
    have hnext : ∀ op piece e, (State.submitAll fuel (s.submit op piece e)).boot = s.boot ∧
        (State.submitAll fuel (s.submit op piece e)).helm = s.helm := fun op piece e => by simp [ih]
    rw [State.submitAll]
    split
    · exact ⟨rfl, rfl⟩
    · dsimp only
      split
      · exact ⟨rfl, rfl⟩
      · split
        · split
          · exact ⟨rfl, rfl⟩
          · exact hnext _ _ _
        · split
          · exact submit_control s _ _ _
          · exact ⟨rfl, rfl⟩

@[simp] theorem batch_control : s.batch.boot = s.boot ∧ s.batch.helm = s.helm := by
  unfold State.batch
  dsimp only
  split_ifs
  · exact ⟨rfl, rfl⟩
  · exact submitAll_control s _
  · simpa using submitAll_control s _

@[simp] theorem recHove_control (entering : Bool) : (s.recHove entering).boot = s.boot ∧ (s.recHove entering).helm = s.helm := by
  unfold State.recHove
  split_ifs <;> simp

/-! ### The almanac -/

@[simp] theorem watchSignal_control (k kind : Nat) : (s.watchSignal k kind).boot = s.boot ∧ (s.watchSignal k kind).helm = s.helm := by
  simp [State.watchSignal]

@[simp] theorem activePut_control (i kind : Nat) (body : Bytes) :
    (s.activePut i kind body).2.boot = s.boot ∧ (s.activePut i kind body).2.helm = s.helm := by
  unfold State.activePut
  dsimp only
  split_ifs <;> simp

@[simp] theorem watchPut_control (k kind : Nat) (body : Bytes) :
    (s.watchPut k kind body).2.boot = s.boot ∧ (s.watchPut k kind body).2.helm = s.helm := by
  have hput := activePut_control s (k / 8) kind body
  unfold State.watchPut
  split
  all_goals
    next hfate =>
      rw [hfate] at hput
      exact hput

@[simp] theorem notifyWatch_control (k : Nat) (a : Almanac) (n : Nat) (off : Int) (flags missing j : Nat) (w : Watch) :
    (s.notifyWatch k a n off flags missing j w).2.boot = s.boot ∧ (s.notifyWatch k a n off flags missing j w).2.helm = s.helm := by
  unfold State.notifyWatch
  dsimp only
  split_ifs <;> simp [State.watchCount]

@[simp] theorem notifyWatches_control (k : Nat) (a : Almanac) (n : Nat) (off : Int) (flags missing : Nat) :
    (s.notifyWatches k a n off flags missing).boot = s.boot ∧ (s.notifyWatches k a n off flags missing).helm = s.helm := by
  have htold : ∀ (l : List (Nat × Watch)) (acc : List Nat × State), acc.2.boot = s.boot ∧ acc.2.helm = s.helm →
      (l.foldl (fun (acc : List Nat × State) p =>
        (if (acc.2.notifyWatch k a n off flags missing p.1 p.2).1 then acc.1 ++ [p.1] else acc.1,
          (acc.2.notifyWatch k a n off flags missing p.1 p.2).2)) acc).2.boot = s.boot ∧
      (l.foldl (fun (acc : List Nat × State) p =>
        (if (acc.2.notifyWatch k a n off flags missing p.1 p.2).1 then acc.1 ++ [p.1] else acc.1,
          (acc.2.notifyWatch k a n off flags missing p.1 p.2).2)) acc).2.helm = s.helm := fun l acc hacc =>
    List.foldlRecOn (motive := fun (acc : List Nat × State) => acc.2.boot = s.boot ∧ acc.2.helm = s.helm) l _ hacc
      fun acc h p _ => by simpa using h
  unfold State.notifyWatches
  dsimp only
  obtain ⟨hboot, hhelm⟩ := htold s.alm.watches ([], s) ⟨rfl, rfl⟩
  generalize s.alm.watches.foldl _ _ = r at *
  obtain ⟨hboot', hhelm'⟩ := foldl_control (f := fun t j => t.watchSignal j 0x20) (fun t j => by simp) r.1 r.2
  exact ⟨hboot'.trans hboot, hhelm'.trans hhelm⟩

@[simp] theorem noteValid_control (r : Row) : (s.noteValid r).boot = s.boot ∧ (s.noteValid r).helm = s.helm := by
  refine foldl_control ?_ _ s
  intro t p
  split <;> exact ⟨rfl, rfl⟩

@[simp] theorem fillCell_control (a : Almanac) (n stream : Nat) :
    (s.fillCell a n stream).2.2.boot = s.boot ∧ (s.fillCell a n stream).2.2.helm = s.helm := by
  unfold State.fillCell
  dsimp only [State.draw]
  split
  · exact ⟨rfl, rfl⟩
  · simp only [apply_ite Prod.snd, apply_ite State.boot, apply_ite State.helm, ite_self, and_self]

@[simp] theorem fillRow_control (a : Almanac) (r : Row) :
    (s.fillRow a r).2.2.2.boot = s.boot ∧ (s.fillRow a r).2.2.2.helm = s.helm := by
  unfold State.fillRow
  refine List.foldlRecOn (motive := fun (acc : Nat × Nat × Bytes × State) => acc.2.2.2.boot = s.boot ∧ acc.2.2.2.helm = s.helm)
    _ _ ⟨rfl, rfl⟩ ?_
  intro acc hacc col _
  dsimp only
  split
  · exact hacc
  · split <;> simpa [State.writeCell] using hacc

@[simp] theorem sealRow_control (k instant : Nat) (aborted : Bool) :
    (s.sealRow k instant aborted).boot = s.boot ∧ (s.sealRow k instant aborted).helm = s.helm := by
  unfold State.sealRow
  split
  · exact ⟨rfl, rfl⟩
  · split
    · exact ⟨rfl, rfl⟩
    · simp [State.dropEnded, apply_ite State.boot, apply_ite State.helm]

@[simp] theorem abortRows_control (k : Nat) : (s.abortRows k).boot = s.boot ∧ (s.abortRows k).helm = s.helm := by
  unfold State.abortRows
  split
  · exact foldl_control (fun t _ => sealRow_control t k t.tbNs true) _ s
  · exact ⟨rfl, rfl⟩

@[simp] theorem almHove_control (entering : Bool) : (s.almHove entering).boot = s.boot ∧ (s.almHove entering).helm = s.helm := by
  cases entering
  · exact ⟨rfl, rfl⟩
  · exact foldl_control abortRows_control _ s

/-! ### The reflex path -/

@[simp] theorem needKey_control (h : Nat) (x : Ctx) (unwrap : Bool) :
    (s.needKey h x unwrap).boot = s.boot ∧ (s.needKey h x unwrap).helm = s.helm := by
  simp [State.needKey, State.ctxEvent, State.setCtx]

@[simp] theorem ctxUsable_control (h : Nat) : (s.ctxUsable h).2.boot = s.boot ∧ (s.ctxUsable h).2.helm = s.helm := by
  unfold State.ctxUsable
  split
  · exact ⟨rfl, rfl⟩
  · split
    · exact ⟨rfl, rfl⟩
    · split_ifs <;> simp [State.ciphCount]

@[simp] theorem signed_control (x : Slot) (f : Bytes) : (s.signed x f).2.boot = s.boot ∧ (s.signed x f).2.helm = s.helm := by
  have husable := ctxUsable_control s x.tmpl.authCtx
  unfold State.signed
  split
  · exact ⟨rfl, rfl⟩
  · split
    next herror =>
      rw [herror] at husable
      exact husable
    next hok =>
      rw [hok] at husable
      split <;> exact husable

@[simp] theorem selfDeliver_control (f : Bytes) : (s.selfDeliver f).boot = s.boot ∧ (s.selfDeliver f).helm = s.helm := by
  unfold State.selfDeliver
  split <;> exact ⟨rfl, rfl⟩

@[simp] theorem ringNextSeq_control (dst : Nat) :
    (s.ringNextSeq dst).2.2.boot = s.boot ∧ (s.ringNextSeq dst).2.2.helm = s.helm := by
  unfold State.ringNextSeq
  dsimp only
  split
  · exact ⟨rfl, rfl⟩
  · split
    · exact ⟨rfl, rfl⟩
    · split <;> exact ⟨rfl, rfl⟩

@[simp] theorem sendExpress_control (p : Port) (f : PortFrame) :
    (s.sendExpress p f).boot = s.boot ∧ (s.sendExpress p f).helm = s.helm := by
  simp [State.sendExpress]

theorem ite_control {p : Prop} [Decidable p] {t u : State} (ht : t.boot = s.boot ∧ t.helm = s.helm)
    (hu : u.boot = s.boot ∧ u.helm = s.helm) : (if p then t else u).boot = s.boot ∧ (if p then t else u).helm = s.helm := by
  split
  · exact ht
  · exact hu

end

end Sys2Proof.Machine

/-!
Hove-to: the causes that come and go (Table 18-7), and the device commands that report them (R445 to R447).
-/

namespace Sys2Proof.Machine

open Sys2Proof

section
variable (s : State)

/-! ### What entry and exit leave as it is, continued -/

@[simp] theorem reflexSend_control (ports : Nat) (f : Bytes) (tx : ReflexTx) :
    (s.reflexSend ports f tx).boot = s.boot ∧ (s.reflexSend ports f tx).helm = s.helm := by
  unfold State.reflexSend
  extract_lets id ringPorts ring s0 put s1 s2 s3
  have hput : ∀ (t : State) p b, (put t p b).boot = t.boot ∧ (put t p b).helm = t.helm := fun t p b =>
    ite_control t (sendExpress_control t p _) ⟨rfl, rfl⟩
  have hmay : ∀ (c : Bool) (t : State) p b, (if c then put t p b else t).boot = t.boot ∧ (if c then put t p b else t).helm = t.helm :=
    fun c t p b => ite_control t (hput t p b) ⟨rfl, rfl⟩
  have h1 : s1.boot = s.boot ∧ s1.helm = s.helm := hmay _ s0 .a f
  have h2 : s2.boot = s.boot ∧ s2.helm = s.helm := by
    rw [← h1.1, ← h1.2]
    exact hmay _ s1 .b f
  have h3 : s3.boot = s.boot ∧ s3.helm = s.helm := by
    rw [← h2.1, ← h2.2]
    exact hmay _ s2 .c f
  clear_value s1 s2 s3
  refine ite_control s h2 (ite_control s ?_ (ite_control s ?_ h2))
  · rw [← h3.1, ← h3.2]
    exact hmay _ s3 .d f
  · rw [← h2.1, ← h2.2]
    obtain ⟨hboot, hhelm⟩ := ringNextSeq_control s2 (beAt f 0 6)
    generalize s2.ringNextSeq (beAt f 0 6) = r at *
    obtain ⟨q, shared, t⟩ := r
    dsimp only at hboot hhelm ⊢
    rw [← hboot, ← hhelm]
    refine foldl_control ?_ _ t
    intro u p
    obtain ⟨hboot, hhelm⟩ := hput u p (u.ringTag p f q)
    exact ite_control u (by simp [hboot, hhelm]) ⟨hboot, hhelm⟩

theorem transmit_control (x : Slot) (tx : ReflexTx) : (s.transmit x tx).boot = s.boot ∧ (s.transmit x tx).helm = s.helm := by
  have hsigned := signed_control s x (x.frame (x.tmpl.talOf x.step))
  unfold State.transmit
  split
  next hnone =>
    rw [hnone] at hsigned
    exact hsigned
  next f t hsome =>
    rw [hsome] at hsigned
    rw [← hsigned.1, ← hsigned.2]
    dsimp only
    split <;> simp [State.reflexCount]

@[simp] theorem newState_control (k : Nat) (x : Slot) (since : Option Nat) :
    (s.newState k x since).boot = s.boot ∧ (s.newState k x since).helm = s.helm := transmit_control s _ _

@[simp] theorem slotResume_control (k : Nat) (x : Slot) : (s.slotResume k x).boot = s.boot ∧ (s.slotResume k x).helm = s.helm := by
  unfold State.slotResume
  dsimp only
  split <;> simp

@[simp] theorem slotFree_control (k : Nat) (x : Slot) : (s.slotFree k x).boot = s.boot ∧ (s.slotFree k x).helm = s.helm := by
  unfold State.slotFree
  dsimp only
  split <;> simp

@[simp] theorem reflexHove_control (entering : Bool) : (s.reflexHove entering).boot = s.boot ∧ (s.reflexHove entering).helm = s.helm := by
  cases entering
  · exact foldl_control (fun t e => ite_control t (slotFree_control t _ _) ⟨rfl, rfl⟩) _ s
  · exact ⟨rfl, rfl⟩

@[simp] theorem swLogEntry_control (cause : Nat) (step : Int) (old : Nat) :
    (s.swLogEntry cause step old).boot = s.boot ∧ (s.swLogEntry cause step old).helm = s.helm := by
  simp [State.swLogEntry]

@[simp] theorem sourceLost_control : s.sourceLost.boot = s.boot ∧ s.sourceLost.helm = s.helm := by
  unfold State.sourceLost
  dsimp only
  split_ifs
  · exact ⟨rfl, rfl⟩
  · simp [State.changeSource]
  · simp [State.holdover, State.holdoverFrom, State.setQuality]
  · exact ⟨rfl, rfl⟩

theorem bmca_control : s.bmca.boot = s.boot ∧ s.bmca.helm = s.helm := sourceLost_control s.bmcaPorts

theorem hoveLeave_control : s.hoveLeave.boot = s.boot ∧ s.hoveLeave.helm = s.helm := by
  simp [State.hoveLeave, bmca_control]

theorem hoveEnter_control : s.hoveEnter.boot = s.boot ∧ s.hoveEnter.helm = s.helm := by
  unfold State.hoveEnter
  extract_lets t u il ports ring v
  have ht : t.boot = s.boot ∧ t.helm = s.helm := by simp [t]
  have hu : u.boot = s.boot ∧ u.helm = s.helm := by
    obtain ⟨hboot, hhelm⟩ := foldl_control hovePort_control [Port.a, .b, .c, .d] t
    exact ⟨hboot.trans ht.1, hhelm.trans ht.2⟩
  clear_value t u
  have hv : v.boot = s.boot ∧ v.helm = s.helm := by
    obtain ⟨hboot, hhelm⟩ := foldl_control (f := fun (w : State) (f : PortFrame) =>
      ((w.ilDrop .c).ilDrop .d).originEnd .c { f with id := 0 } (some (10, 0))) (fun w f => by simp) il { u with ports.ring.il := [] }
    exact ⟨hboot.trans hu.1, hhelm.trans hu.2⟩
  clear_value v
  obtain ⟨hboot, hhelm⟩ := foldl_control hoveRing_control
    ((v.rings.map (·.1)).filter (fun r => decide (r < mgrBase) && isTxRing r)) v
  exact ⟨hboot.trans hv.1, hhelm.trans hv.2⟩

/-! ### Causes (Table 18-7) -/

/-- BINNACLE_STATE changes as it is told, up to the count of entries to hove-to; Helm stands as before. -/
theorem setBoot_control (b : Boot) :
    (s.setBoot b).boot = { b with hoveCount := (s.setBoot b).boot.hoveCount } ∧ (s.setBoot b).helm = s.helm := by
  unfold State.setBoot
  extract_lets was old t dechan u v w enter enterBoot
  have hu : u.boot = b ∧ u.helm = s.helm := by
    simp only [u]
    split <;> exact ⟨rfl, rfl⟩
  have hv : v.boot = b ∧ v.helm = s.helm := by
    simp only [v]
    split <;> simpa using hu
  have hw : w.boot = b ∧ w.helm = s.helm := by
    simp only [w]
    split <;> simpa using hv
  clear_value w
  split
  · obtain ⟨hboot, hhelm⟩ := hoveEnter_control w
    simp [enter, enterBoot, hboot, hhelm, hw.1, hw.2]
  · split
    · obtain ⟨hboot, hhelm⟩ := hoveLeave_control w
      simp [hboot, hhelm, hw.1, hw.2]
    · simp [hw.1, hw.2]

end

theorem raiseCause_control (s : State) (m : Nat) :
    (s.raiseCause m).boot = { s.boot with causes := s.boot.causes ||| m, hoveCount := (s.raiseCause m).boot.hoveCount } ∧
      (s.raiseCause m).helm = s.helm := by
  unfold State.raiseCause
  dsimp only
  split
  · obtain ⟨hboot, hhelm⟩ := setBoot_control (s.errBit 4) { (s.errBit 4).boot with causes := (s.errBit 4).boot.causes ||| m }
    refine ⟨hboot.trans ?_, hhelm.trans (by simp)⟩
    simp
  · exact setBoot_control s { s.boot with causes := s.boot.causes ||| m }

theorem hove_eq_true {s : State} {k : Nat} (h : bit s.boot.causes k = true) : s.hove = true := by
  rw [State.hove, bne_iff_ne]
  intro hzero
  rw [hzero, bit_zero] at h
  exact Bool.false_ne_true h

/-- A cause that is raised stands, and the adapter is hove-to. -/
theorem raiseCause_raises {s : State} {m k : Nat} (h : bit m k = true) :
    bit (s.raiseCause m).boot.causes k = true ∧ (s.raiseCause m).hove = true := by
  have hcauses : (s.raiseCause m).boot.causes = s.boot.causes ||| m := by rw [(raiseCause_control s m).1]
  have hbit : bit (s.raiseCause m).boot.causes k = true := by
    rw [hcauses]
    exact (Nat.testBit_or ..).trans (Bool.or_eq_true_iff.mpr (.inr h))
  exact ⟨hbit, hove_eq_true hbit⟩

theorem raiseCause_pllLost (s : State) (m : Nat) : (s.raiseCause m).boot.pllLost = s.boot.pllLost := by
  rw [(raiseCause_control s m).1]

/-- The causes that are cleared go, the others stay, and so does PHASE. -/
theorem clearCause_clears (s : State) (m : Nat) :
    (∀ k, k < 4 → bit (s.clearCause m).boot.causes k = (bit s.boot.causes k && !bit m k)) ∧
      (s.clearCause m).boot.phase = s.boot.phase := by
  have hboot : (s.clearCause m).boot = { s.boot with
      causes := maskOf 4 (fun k => bit s.boot.causes k && !bit m k), hoveCount := (s.clearCause m).boot.hoveCount } :=
    (setBoot_control s { s.boot with causes := maskOf 4 (fun k => bit s.boot.causes k && !bit m k) }).1
  rw [hboot]
  refine ⟨fun k hk => ?_, rfl⟩
  rw [bit_maskOf, decide_eq_true hk, Bool.true_and]

/-! ### The device commands (R445 to R447) -/

/-- The octet of the DEV_HOVE_TO reply that says whether the adapter is hove-to. -/
theorem hove_octet (s : State) : BitVec.ofNat 8 (b2n s.hove) = if s.boot.causes = 0 then 0 else 1 := by
  by_cases h : s.boot.causes = 0
  · simp [State.hove, h, b2n]
  · simp [State.hove, h, b2n]

theorem devConfigBad_of_all {d : Bytes} (hsel : byteAt d 0 = 7) (hpolicy : byteAt d 1 ≤ 1) (hwindow : 1 ≤ leAt d 2 2)
    (hwindow' : leAt d 2 2 ≤ 1000) (hgrace : 10 ≤ leAt d 4 4) (hgrace' : leAt d 4 4 ≤ 10000) (hresume : byteAt d 8 ≤ 1) :
    devConfigBad d = none := by
  have hw : ¬(leAt d 2 2 = 0 ∨ 1000 < leAt d 2 2) := by omega
  have hg : ¬(leAt d 4 4 < 10 ∨ 10000 < leAt d 4 4) := by omega
  simp only [devConfigBad, hsel, Nat.not_lt.2 hpolicy, hw, hg, Nat.not_lt.2 hresume, and_false, if_false]

/-! ### The obligation -/

/-- Settles O21: each cause by what it raises or clears, each command by its reply. -/
theorem hoveToCausesAndDeviceCommands : Obligations.HoveToCausesAndDeviceCommands := by
  unfold Obligations.HoveToCausesAndDeviceCommands
  refine ⟨?hostLost, ?inTime, ?resume, ?noResume, ?systemPll, ?otherPll, ?internal, ?supervisor, ?noFault, ?enter, ?leave, ?status,
    ?configure, ?badWindow, ?query⟩
  case hostLost =>
    intro s hrun hperst hdown hl2 hnot hlate
    change execHostLostGraceExpiry s = _
    simp only [execHostLostGraceExpiry, hrun, hperst, hdown, hl2, hnot, hlate, Bool.not_false, decide_true, Bool.and_self, if_true]
    rfl
  case inTime =>
    intro s hnot
    change execHostLostGraceExpiry s = _
    rcases hnot with h | h | h
    · simp [execHostLostGraceExpiry, Nat.not_lt.2 h]
    · simp [execHostLostGraceExpiry, h]
    · simp [execHostLostGraceExpiry, h]
  case resume =>
    intro s hrun hresume hcause hup hlate
    obtain ⟨hclears, hphase⟩ := clearCause_clears s 2
    refine ⟨_, ?_, ?_, fun k hk hne => ?_, hphase⟩
    · change execHostResumeExpiry s = _
      simp only [execHostResumeExpiry, hrun, hresume, hcause, hup, State.elapsed, hlate, decide_true, Bool.and_self, if_true]
    · have hcleared : bit 2 1 = true := by decide
      rw [hclears 1 (by decide), hcleared, Bool.not_true, Bool.and_false]
    · have hother : bit 2 k = false := by
        rw [bit, show (2 : Nat) = 2 ^ 1 from rfl, Nat.testBit_two_pow_of_ne (Ne.symm hne)]
      rw [hclears k hk, hother, Bool.not_false, Bool.and_true]
  case noResume =>
    intro s hresume
    change execHostResumeExpiry s = _
    simp [execHostResumeExpiry, hresume]
  case systemPll =>
    intro s hrun
    have hexec : exec (.pllLockLoss true) s =
        .next (State.raiseCause { s with boot.pllLost := s.boot.pllLost ||| 1, helm.onPll := 0 } 4) := by
      change execPllLockLoss true s = _
      simp only [execPllLockLoss, hrun, if_true, Bool.not_true, Bool.false_eq_true, if_false]
    refine ⟨_, hexec, ?_, (raiseCause_raises (by decide)).1, (raiseCause_raises (k := 2) (by decide)).2, ?_⟩
    · rw [raiseCause_pllLost]
      simp [bit]
    · rw [(raiseCause_control _ _).2]
  case otherPll =>
    intro s hrun
    have hexec : exec (.pllLockLoss false) s = .next (State.raiseCause { s with boot.pllLost := s.boot.pllLost ||| 2 } 4) := by
      change execPllLockLoss false s = _
      simp only [execPllLockLoss, hrun, Bool.true_or, Bool.not_true, Bool.false_eq_true, if_false]
    refine ⟨_, hexec, ?_, (raiseCause_raises (by decide)).1, (raiseCause_raises (k := 2) (by decide)).2⟩
    rw [raiseCause_pllLost, bit, Nat.testBit_or]
    exact Bool.or_eq_true_iff.mpr (.inr (by decide))
  case internal =>
    intro s fn hrun
    change execUncorrectableInternalError fn s = _
    rw [execUncorrectableInternalError, if_pos hrun]
  case supervisor =>
    intro s hcore hfault hlate hdue
    have hexec : exec .supervisorFaultTimeout s = .next (State.raiseCause { s with helm.restartDue := true } 1) := by
      change execSupervisorFaultTimeout s = _
      simp only [execSupervisorFaultTimeout, hcore, hfault, hdue, State.elapsed, hlate, beq_self_eq_true, Bool.not_false, decide_true,
        Bool.and_self, if_true]
    refine ⟨_, hexec, ?_, (raiseCause_raises (by decide)).1, (raiseCause_raises (k := 0) (by decide)).2⟩
    rw [(raiseCause_control _ _).2]
  case noFault =>
    intro s hnot
    change execSupervisorFaultTimeout s = _
    simp [execSupervisorFaultTimeout, hnot]
  case enter =>
    intro s c
    dsimp only
    intro hready haction
    refine answers_of rfl hready rfl ?_
    simp [devHoveToBody, haction, hove_octet]
  case leave =>
    intro s c
    dsimp only
    intro hready haction
    refine answers_of rfl hready rfl ?_
    simp [devHoveToBody, haction, hove_octet]
  case status =>
    intro s c
    dsimp only
    intro hready haction
    refine answers_of rfl hready rfl ?_
    simp [devHoveToBody, haction, hove_octet]
  case configure =>
    intro s c
    dsimp only
    intro hready hsel hpolicy hwindow hwindow' hgrace hgrace' hresume
    refine answers_of rfl hready rfl ?_
    generalize State.opened s _ c = t at *
    have hgood := devConfigBad_of_all hsel hpolicy hwindow hwindow' hgrace hgrace' hresume
    have hflag : b2n (byteAt c.data 8 == 1) = byteAt c.data 8 := by
      rcases Nat.le_one_iff_eq_zero_or_eq_one.mp hresume with h | h <;> rw [h] <;> rfl
    have hbits : bit 7 0 = true ∧ bit 7 1 = true ∧ bit 7 2 = true := by decide
    obtain ⟨h0, h1, h2⟩ := hbits
    simp only [devConfigureBody, hgood, hsel, h0, h1, h2, if_true, hflag]
  case badWindow =>
    intro s c
    dsimp only
    intro hready hsel hpolicy hwindow
    refine answers_of rfl hready rfl ?_
    generalize State.opened s _ c = t at *
    have hbad : devConfigBad c.data = some 26 :=
      (if_neg fun h => Nat.not_lt.2 hpolicy h.2).trans (if_pos ⟨hsel, hwindow⟩)
    simp only [devConfigureBody, hbad]
  case query =>
    intro s c
    dsimp only
    intro hready hrun
    refine answers_of rfl hready rfl ?_
    generalize State.opened s _ c = t at *
    have hgrade : BitVec.ofNat 8 (b2n Config.gradeC) = if Config.gradeC then 1 else 0 := by
      cases Config.gradeC <;> rfl
    rw [State.devQueryData, hrun, if_pos rfl, hgrade]
    rfl

end Sys2Proof.Machine
